-- ==== Sys2Proof/Word.lean ====
section
/-! DEFINITION. The word types of the device: 32-bit registers and signal values, bytes, 16-bit quality words (R4, R41). -/

namespace Sys2Proof

/-- A register word or a signal value: 32 bits (R4, R41). -/
abbrev Word := BitVec 32

/-- A byte of memory. -/
abbrev Byte := BitVec 8

/-- A quality word (R41, Table 2.10). -/
abbrev Qual := BitVec 16

/-- A 64-bit value: accumulators and the extended register (R154, R345). -/
abbrev Dword := BitVec 64

/-- Who sends a register or memory access (R42, R382, R417, R428, R439). -/
inductive Initiator where
  | core (p : Fin 5)
  | ferry (q : Fin 32)
  | debug
  | ulile
  deriving DecidableEq, Repr

/-- Size of a bus access in bytes. -/
inductive Size where
  | b1 | b2 | b4 | b8
  deriving DecidableEq, Repr

/-- Bytes of a size. -/
def Size.bytes : Size → Nat
  | .b1 => 1 | .b2 => 2 | .b4 => 4 | .b8 => 8

end Sys2Proof
end

