-- ==== Sys2Proof/Machine/Tab.lean ====
section
/-! DEFINITION. Sparse tables: a list of (key, value) pairs with strictly rising keys, in which no value equals what an
unlisted key reads as. Registers, memories and every indexed group of internal state of the block are held this way, so that
equal contents are equal data and the state after reset is small. -/

namespace Sys2Proof.Machine

/-- A sparse table from natural keys to values. -/
abbrev Tab (α : Type) := List (Nat × α)

/-- The listed value of key `k`, if there is one. -/
def tabFind {α : Type} : Tab α → Nat → Option α
  | [], _ => none
  | (j, v) :: rest, k => if j = k then some v else tabFind rest k

/-- The table with what it lists for key `k` taken out. -/
def tabDrop {α : Type} : Tab α → Nat → Tab α
  | [], _ => []
  | (j, v) :: rest, k => if j = k then tabDrop rest k else (j, v) :: tabDrop rest k

/-- The table with the pair `(k, v)` put in its place among rising keys. -/
def tabPut {α : Type} : Tab α → Nat → α → Tab α
  | [], k, v => [(k, v)]
  | (j, u) :: rest, k, v =>
    if k < j then (k, v) :: (j, u) :: rest
    else if j = k then (k, v) :: rest
    else (j, u) :: tabPut rest k v

/-- What key `k` reads as: its listed value, else the default `d k`. -/
def tabGet {α : Type} (d : Nat → α) (t : Tab α) (k : Nat) : α := (tabFind t k).getD (d k)

/-- The table after key `k` takes the value `v`: a value equal to the default is not listed. -/
def tabSet {α : Type} [DecidableEq α] (d : Nat → α) (t : Tab α) (k : Nat) (v : α) : Tab α :=
  if v = d k then tabDrop t k else tabPut t k v

/-- The canonical form: keys strictly rising from `lo`, no value equal to the default. -/
def tabWfFrom {α : Type} [DecidableEq α] (d : Nat → α) : Nat → Tab α → Bool
  | _, [] => true
  | lo, (j, v) :: rest => decide (lo ≤ j) && !decide (v = d j) && tabWfFrom d (j + 1) rest

/-- The canonical form of a table. -/
def tabWf {α : Type} [DecidableEq α] (d : Nat → α) (t : Tab α) : Bool := tabWfFrom d 0 t

/-- The keys a table lists. -/
def tabKeys {α : Type} (t : Tab α) : List Nat := t.map (·.1)

/-- The table restricted to the keys that satisfy `p`. -/
def tabKeep {α : Type} (p : Nat → Bool) (t : Tab α) : Tab α := t.filter (fun kv => p kv.1)

end Sys2Proof.Machine
end

