-- ==== Sys2Proof/Machine/Types.lean ====
section
/-! DEFINITION. The internal (non-register) state of every block, as plain data. Registers are held apart, by address;
what stands here is what the rules of the spec give a block beside its registers. -/

namespace Sys2Proof.Machine

/-- The answer of the last bus access: data or a bus error (R4). -/
inductive BusAns where
  | none
  | ok (data : BitVec 64)
  | err
  deriving DecidableEq, Repr

/-- Device variants (Table 0.1). -/
inductive Variant where
  | v4M | v4N | v2N
  deriving DecidableEq, Repr

/-- Number of threads and whether the Islet is fitted. -/
def Variant.threads : Variant → Nat
  | .v2N => 2
  | _ => 4
def Variant.islet : Variant → Bool
  | .v4M => true
  | _ => false

/-- The clock and the timebase. All instants are in sub-steps of 31.25 ps from one common origin. -/
structure Clk where
  /-- present instant -/
  now      : Nat
  /-- instant of timebase zero (R212), moved once by a twin join (R323) -/
  tbBase   : Int
  /-- instant of the last release of reset; durations are counted from it -/
  relAt    : Nat
  /-- a clock fault of R30 has stopped the sequencers -/
  faulted  : Bool
  /-- SAFE_OSC is latched since this instant (R31) -/
  safeOsc  : Option Nat
  /-- the SAFE_OSC_GRACE force is in place (R31) -/
  safeForced : Bool
  /-- `SAFE_OSC_GRACE` of the loaded image, in sub-steps (R31) -/
  grace    : Nat
  deriving DecidableEq, Repr

/-- Last hardware set of a register's W1C bits: the cycle of the owning block's clock, the bits set in it (R7), and those whose
capture field was taken in it. -/
structure Raised where
  cycle : Nat
  mask  : Word
  cap   : Word
  deriving DecidableEq, Repr

/-- A value of the signal table with its quality word (R41). -/
structure SigVal where
  val  : Word
  qual : Qual
  deriving DecidableEq, Repr

/-- The last event of a source (R45). -/
structure Ev where
  /-- number of events posted, modulo 2^16 the sequence number -/
  count : Nat
  /-- network time of the last one: seconds, nanoseconds, fraction in units of 2^-34 ns -/
  sec : Nat
  ns  : Nat
  frac : Nat
  /-- what happened -/
  code : Nat
  /-- a further instant the event carries, on the timebase (R185) -/
  tau : Int
  deriving DecidableEq, Repr

/-- Sequencer of one thread (R32–R40). -/
structure SeqSt where
  /-- instant of the accepted start that waits for its sample instant -/
  startAt  : Option Nat
  stopPend : Bool
  /-- instant of the sample instant that began the running period -/
  sampleAt : Nat
  /-- instant at which the last step completed -/
  doneAt   : Nat
  /-- the running step holds the sequencer: CORE_CALL (pair, deadline), WAIT (deadline) or a LOOP_GROUP waiting for the engine -/
  callPair : Option Nat
  callFrom : Nat
  callDue  : Option Nat
  /-- the pair whose call a timeout has ended, while its `DONE` could still come in the fabric cycle of the timeout (R36) -/
  toPair   : Option Nat
  waitDue  : Option Nat
  waitGrp  : Bool
  /-- the capture pair of the latest sample instant: timebase in sub-steps and network time in ns (R44) -/
  capture  : Option (Int × Nat)
  /-- the increment of network time in force at the capture (R374) -/
  capInc   : Nat
  /-- instant at which END was reached in this period -/
  endAt    : Option Nat
  /-- periods run since reset (item 3 of Table 2.11) and whether one was run -/
  periods  : Nat
  everRun  : Bool
  /-- sample instants counted from the configuration load (R43 tag) -/
  samples  : Nat
  slack    : Nat
  callWait : Nat
  /-- COMMIT and EMIT results are pending (R37) -/
  commitPend : Bool
  emitPend   : Bool
  /-- the sequencer-overrun source is active (R40) -/
  ovrActive  : Bool
  /-- the digest of this period was posted -/
  posted : Bool
  /-- the running period is the first since the sequencer started -/
  first : Bool
  /-- network time, in ns, of the sample instant that began the period which wrote the stable copy (R357), and of the one that made it stable
  (R383) -/
  stableAt : Nat
  swapNs : Nat
  deriving DecidableEq, Repr

def SeqSt.init : SeqSt :=
  { startAt := none, stopPend := false, sampleAt := 0, doneAt := 0, callPair := none, callFrom := 0, callDue := none, toPair := none,
    waitDue := none,
    waitGrp := false, capture := none, capInc := 0, endAt := none, periods := 0, everRun := false, samples := 0, slack := 0, callWait := 0,
    commitPend := false, emitPend := false, ovrActive := false, posted := false, first := false, stableAt := 0,
    swapNs := 0 }

/-- The compare values of a slice (R216). -/
structure SliceSet where
  on  : Nat
  off : Nat
  blk : Bool
  deriving DecidableEq, Repr

/-- A dwell of a reload interval: its start, as an offset from the reload in sub-steps, and its state; `none` is all off (`BLK`).
For an independent slice state 1 is A on and state 0 is B on; for an ANPC leg the state is the leg's code. -/
structure Seg where
  start : Nat
  state : Option Nat
  deriving DecidableEq, Repr

/-- One slice: shadow and active sets and the state of its two switches (R215–R220, R226–R228). -/
structure SliceSt where
  act    : SliceSet
  shadow : SliceSet
  /-- a late commit, which becomes the shadow after the coming reload (R220) -/
  late   : Option SliceSet
  staged : Option SliceSet
  /-- dwells of the present interval that have not begun -/
  todo   : List Seg
  /-- the judged dwells of the next interval, made at the release of R37 -/
  next   : Option (List Seg)
  /-- instant of the reload that began the present interval -/
  from_  : Nat
  /-- the dwell in force as requested: 1 A on, 0 B on, none blocked; and whether any set has been applied yet -/
  req    : Option Nat
  aOn    : Bool
  bOn    : Bool
  aOffAt : Nat
  bOffAt : Nat
  /-- pending turn-on of A (true) or B (false) and its instant -/
  due    : Option (Bool × Nat)
  /-- the carries shown by `PWM_SLICE_s_CARRY_A` and `_B` were made for the coming interval -/
  carryA : Bool
  carryB : Bool
  /-- instant and output of the last on command (R228: two in one timebase cycle) -/
  onCmd  : Option (Nat × Bool)
  /-- a set was committed since the last reload -/
  fresh  : Bool
  /-- in independent mode: the override returned to 0 at this instant, and the slice waits for its reload (R233, R247) -/
  hold   : Option Nat
  /-- the coming interval whose edges were handed to the link ahead of it: its reload and the edges (channel, level, instant) -/
  plan   : Option (Nat × List (Nat × Bool × Nat))
  deriving DecidableEq, Repr

def SliceSt.init : SliceSt :=
  { act := ⟨0, 0, false⟩, shadow := ⟨0, 0, false⟩, late := none, staged := none, todo := [], next := none,
    from_ := 0, req := none, aOn := false, bOn := false, aOffAt := 0, bOffAt := 0, due := none, carryA := false, carryB := false,
    onCmd := none, fresh := false, hold := none, plan := none }

/-- A step of R224 that waits out its dead time. -/
structure LegStepSt where
  /-- pair number, 0 to 2 -/
  pair : Nat
  /-- level of A after the step -/
  aTo  : Bool
  due  : Nat
  deriving DecidableEq, Repr

/-- The path logic of an ANPC leg (R223–R225): the settled code (`none`: all six off), the requested state and the step in
progress, whose outcome is not yet in `code`. -/
structure LegPath where
  code   : Option Nat
  target : Option Nat
  step   : Option LegStepSt
  deriving DecidableEq, Repr

/-- One leg unit (R222–R228, R233). -/
structure LegSt where
  act    : List Word
  shadow : List Word
  pend   : Option (List Word)
  late   : Option (List Word)
  staged : Option (List Word)
  /-- a set was committed since the last reload -/
  fresh  : Bool
  /-- the judged dwells of the next interval -/
  next   : Option (List Seg)
  /-- dwells of the present interval not yet entered -/
  todo   : List Seg
  from_  : Nat
  path   : LegPath
  /-- override code in force -/
  ovr    : Nat
  /-- the override returned to 0 at this instant, and the leg waits for its reload (R233, R247) -/
  hold   : Option Nat
  /-- the carry shown by `PWM_LEG_g_CARRY` was made for the coming interval -/
  carry  : Bool
  /-- the last list the modulator wrote (R232), and whether it was written in this period -/
  modList : List Word
  modNew  : Bool
  /-- the path at the end of the edges handed to the link (R242) -/
  lpath   : LegPath
  /-- a core-owned leg's coming interval whose edges were handed: its reload, the path before it, and the edges (channel, level, instant) -/
  plan    : Option (Nat × LegPath × List (Nat × Bool × Nat))
  deriving DecidableEq, Repr

def LegSt.init : LegSt :=
  { act := [], shadow := [], pend := none, late := none, staged := none, fresh := false, next := none, todo := [], from_ := 0,
    path := ⟨none, none, none⟩, ovr := 0, hold := none, carry := false, modList := [], modNew := false,
    lpath := ⟨none, none, none⟩, plan := none }

/-- One scheduled edge of a link (R242, Table 12.4). -/
structure Edge where
  num   : Nat
  ch    : Nat
  level : Bool
  prof  : Nat
  /-- execution instant -/
  at_   : Nat
  copies : Nat
  /-- its instant of eligibility has passed (R243) -/
  elig  : Bool
  deriving DecidableEq, Repr

/-- A `STATE` command on its way (R245, R246). -/
structure StateCmd where
  ovr    : Nat
  chan   : Bool
  mask   : Nat
  level  : Nat
  prof   : Nat
  decide_ : Nat
  sent   : Nat
  deriving DecidableEq, Repr

/-- The device's side of one Stadan link. -/
structure LinkSt where
  edges   : List Edge
  /-- commands not yet sent ten times, in the order of their arrival -/
  state   : List StateCmd
  /-- the last leg-wide command, repeated while its override is non-zero -/
  cont    : Option StateCmd
  holdSent : Nat
  holdOn  : Bool
  config  : Nat
  epochDue : Bool
  lastTx  : List Byte
  /-- instant at which the last valid upstream frame ended; none: none yet since the link started -/
  upAt    : Option Nat
  runFrom : Option Nat
  /-- arrival and round trip (R264) of the frames of the last 1,000 slots -/
  rts     : List (Nat × Int)
  badRun  : Nat
  /-- instant of the first `STATE` frame after hold-off (R266) -/
  stateAt : Option Nat
  /-- sources this link raises now -/
  linkBad : Bool
  statBad : Bool
  desatWin : List (Nat × Nat)
  desatIgn : Nat
  faultAt : List (Nat × Nat)
  otherZero : Nat
  /-- the link resumes after a silence and sends an EPOCH first (R335) -/
  resume : Bool
  /-- start of the slot whose frame was chosen last -/
  slotAt : Option Nat
  deriving DecidableEq, Repr

def LinkSt.init : LinkSt :=
  { edges := [], state := [], cont := none, holdSent := 0, holdOn := false, config := 0, epochDue := false, lastTx := [],
    upAt := none, runFrom := none, rts := [], badRun := 0, stateAt := none, linkBad := false, statBad := false,
    desatWin := [], desatIgn := 0, faultAt := [], otherZero := 0, resume := false, slotAt := none }

/-- The signal table (R41): stable copies, the fill copies of values written in the running periods, the declarations of
R440 and the write counts of common-domain signals (R43). -/
structure SigTab where
  stable : Tab SigVal
  fill   : Tab (Option SigVal)
  decl   : Tab Word
  writes : Tab Nat
  /-- network time of the last write of a common-domain signal (Table 18.4) -/
  times  : Tab Nat
  /-- latched values that the running period of a thread reads in place of signals (R326) -/
  latched : Tab (List (Nat × SigVal))
  deriving DecidableEq, Repr

/-- Physical memory outside register space (R408). `epoch` numbers, by region, the content that unwritten bytes show:
0 reads as zero, k > 0 is the undefined content after the k-th loss of content (R432, R464). -/
structure MemSt where
  cells : List Host.Cell
  epoch : Tab Nat
  /-- 8-byte words (Lagoon, TCM) and 64-byte lines (DRAM) holding an uncorrectable error, by address -/
  bad   : Tab Bool
  deriving DecidableEq, Repr

/-- The interrupt router (R410, R411). -/
structure IrqSt where
  /-- raised lines of sources whose line is held by an event until it is completed (log 30) -/
  line    : Tab Bool
  /-- claiming pair + 1; 0: not claimed -/
  claimed : Tab Nat
  /-- the last claim by pair p in a mode, at 2 × p + mode: one more than its cycle, and the source it received (R411) -/
  got     : Tab (Nat × Nat)
  deriving DecidableEq, Repr

/-- The network-time counter (R370): the time at an Ethernet tick and the increment from there on, in units of 2^-34 ns; and the
same of the span before it, which still rules the instants before that tick. -/
structure TimeSt where
  base   : Nat
  baseAt : Nat
  inc    : Nat
  oldBase : Nat
  oldAt  : Nat
  oldInc : Nat
  /-- per initiator code: one more than the latched seconds × 2^32 + fraction (R373); 0: none latched -/
  latch  : Tab Nat
  /-- the high half of the timebase latched for the Ulile agent (R212, R384) -/
  tbUli  : Nat
  deriving DecidableEq, Repr

/-- An edge entry as a driver board holds it: number, channel, level, profile and the low 32 bits of its instant (Table 12.4). -/
structure BoardEdge where
  num   : Nat
  ch    : Nat
  level : Bool
  prof  : Nat
  time  : Nat
  deriving DecidableEq, Repr

/-- One port of a driver board (R252, R254, R255). -/
structure PortSt where
  /-- claim and end of the last valid frame -/
  claim   : Nat
  heardAt : Option Nat
  lapsed  : Bool
  synced  : Bool
  /-- the copy of the timebase is the present instant plus this many sub-steps (40-bit cycles) -/
  offset  : Int
  lead    : Nat
  cfgCrc  : Nat
  echo    : Nat
  queue   : List BoardEdge
  /-- the last STATE frame's payload and arrival, and whether the last command frame was a HOLDOFF -/
  lastState : Option (Nat × List Byte)
  lastHold  : Bool
  late    : Bool
  rxErr   : Nat
  sent    : List Byte
  deriving DecidableEq, Repr

def PortSt.init : PortSt :=
  { claim := 0, heardAt := none, lapsed := true, synced := false, offset := 0, lead := 0, cfgCrc := 0, echo := 0, queue := [],
    lastState := none, lastHold := false, late := false, rxErr := 0, sent := [] }

/-- Driver states of Table 12.10. -/
inductive BoardMode where
  | safe | hold | run | fault
  deriving DecidableEq, Repr

/-- The channels of a driver board: levels, instants of the last turn-offs, turn-ons that wait, last on commands and profiles. -/
structure BoardCh where
  levels : Nat
  offAt  : Tab Nat
  due    : List (Nat × Nat × Nat)
  onCmd  : Tab Nat
  profs  : Tab Nat
  deriving DecidableEq, Repr

/-- A driver board (R252-R263). -/
structure BoardSt where
  mode   : BoardMode
  ports  : Tab PortSt
  active : Option Nat
  nAcc   : Option Nat
  /-- accepted edges -/
  acc    : List BoardEdge
  levels : Nat
  locked : Nat
  offAt  : Tab Nat
  /-- turn-ons of a STATE frame that wait for a dead time: channel, profile, instant -/
  due    : List (Nat × Nat × Nat)
  /-- the last on command of each channel: three times one more than its timebase cycle, with 0 added where it was ignored, 1 where the
  channel was on already, 2 where it turned the channel on -/
  onCmd  : Tab Nat
  /-- profile of the last command of each channel -/
  profs  : Tab Nat
  discard : Nat
  supply : Nat
  /-- configuration: profile words at 8c + p, dead times at 48 + c, leg mode and FORBID at 54; and the items received -/
  cfg    : Tab Nat
  got    : Tab Bool
  /-- payload of the `STATE` frame last acted on; the timebase cycle in which edges last executed, with the channels before it -/
  cmd    : List Byte
  undo   : Option (Nat × BoardCh)
  deriving DecidableEq, Repr

def BoardSt.init : BoardSt :=
  { mode := .safe, ports := [], active := none, nAcc := none, acc := [], levels := 0, locked := 0, offAt := [], due := [],
    onCmd := [], profs := [], discard := 0, supply := 0, cfg := [], got := [], cmd := [], undo := none }

/-- A CIC output (R51, R53): index, value, whether it saturated, and the instant from which it is available (R54). -/
structure CicOut where
  j   : Nat
  v   : Int
  sat : Bool
  at_ : Nat
  deriving DecidableEq, Repr

/-- A FIR or resampler output: index, represented instant on the timebase in sub-steps, value, the number of the oldest bit used,
and whether a stage saturated or a coefficient was bad. -/
structure FiltOut where
  f    : Nat
  inst : Int
  v    : Int
  old  : Int
  sat  : Bool
  ecc  : Bool
  deriving DecidableEq, Repr

/-- A released output: represented instant, value, quality, fabric cycle of the release. -/
structure RelOut where
  inst : Int
  v    : Int
  qual : Qual
  cyc  : Nat
  deriving DecidableEq, Repr

/-- What the detectors of a chain hold (R66): peak, squares with flags, envelope, flags of the outputs since the last close, and flags of the
outputs from which the envelope was formed. -/
structure DetSt where
  peak  : Option (Int × Int)
  sqs   : List (Nat × Nat)
  env   : Nat
  flags : Nat
  eflags : Nat
  deriving DecidableEq, Repr

def DetSt.init : DetSt := ⟨none, [], 0, 0, 0⟩

/-- One sigma-delta chain (R47-R69). -/
structure ChainSt where
  /-- ball edge number of the next bit to be captured -/
  n     : Nat
  /-- bits from this edge number on are clean -/
  clean : Nat
  last  : Option Bool
  run   : Nat
  since : Nat
  /-- captured bits, newest first, for the phase delay and the protection filter -/
  bits  : List Bool
  integ : List Nat
  comb  : List Int
  cic   : List CicOut
  fir   : List FiltOut
  rs    : List FiltOut
  /-- next FIR index to compute, next target to compute, next index and target to release -/
  firNext : Nat
  rsNext  : Int
  relF    : Nat
  relTau  : Int
  rel   : List RelOut
  /-- represented instant of the sample last closed -/
  closed : Option Int
  /-- debounce counts of trip and warn, and whether each source is active -/
  trip  : Nat
  warn  : Nat
  tripOn : Bool
  warnOn : Bool
  /-- consecutive bits above OV_1 to OV_3, by thread and threshold (R297) -/
  ov    : Tab Nat
  /-- protection filter values, newest first -/
  hist  : List Int
  /-- detectors: next FIR index, what they hold; and, by fabric cycle, what they held before the output taken in it, with its value and
  flags -/
  detF  : Nat
  det   : DetSt
  detPre : Option (Nat × DetSt × Int × Nat)
  deriving DecidableEq, Repr

def ChainSt.init : ChainSt :=
  { n := 0, clean := 0, last := none, run := 0, since := 0, bits := [], integ := [], comb := [], cic := [], fir := [], rs := [],
    firNext := 0, rsNext := 0, relF := 0, relTau := 0, rel := [], closed := none, trip := 0, warn := 0, tripOn := false,
    warnOn := false, ov := [], hist := [], detF := 0, det := DetSt.init, detPre := none }

/-- The filter array: chains, coefficient words found uncorrectable (R57), the MAC frame in use and its load (R64). -/
structure SdfSt where
  chains : Tab ChainSt
  bad    : Tab Bool
  frame  : Nat
  used   : Nat
  deriving DecidableEq, Repr

/-- A protection source's reaction in force (R294, R295): kind 0 none, 1 `PULSE_BLOCK`, 2 `ASC`; the firings within the
escalation window, and whether the source has escalated. -/
structure SrcSt where
  held  : Nat
  fires : List Nat
  esc   : Bool
  deriving DecidableEq, Repr

/-- Who started a discharge (R312). -/
inductive DischBy where
  | write | source | force
  deriving DecidableEq, Repr

/-- DC-link protection and discharge of one thread (R297-R301, R312-R314). -/
structure DcSt where
  /-- the instant at which code 5 reached the chopper leg; its code 1 of a withdrawal is driven; the instant of the last pitch request -/
  chopFrom : Option Nat
  drop     : Bool
  checked  : Bool
  pitchAt  : Option Nat
  /-- latched bridge reaction of R304: on MSB (1 block, 2 ASC) and on GSB -/
  coMsb : Nat
  coGsb : Bool
  disch : Option DischBy
  vStart : Int
  stepAt : Nat
  /-- the voltage has been below DISCH_SAFE since this instant -/
  safeAt : Option Nat
  /-- the torque clamp has been set since this instant (TM4) -/
  clampAt : Option Nat
  deriving DecidableEq, Repr

def DcSt.init : DcSt :=
  { chopFrom := none, drop := false, checked := false, pitchAt := none, coMsb := 0, coGsb := false, disch := none, vStart := 0, stepAt := 0,
    safeAt := none, clampAt := none }

/-- The safety monitor's own state for one thread: counts of TM1-TM7, the causes present (modulo 16 as in `CAUSE`, with 16 × pair added for
causes 8 and 9; 11 the `DISCHARGE` that the monitor's program asks for), the instant since which no cause has been, and the monitor cycle, state and
cause of the last release. -/
structure SmonSt where
  cnt : Tab Nat
  causes : List Nat
  absent : Option Nat
  rel : Option (Nat × Nat × Nat)
  deriving DecidableEq, Repr

def SmonSt.init : SmonSt := ⟨[], [], none, none⟩

/-- A core pair's watchdog (R310): tokens drawn, the instant of the last service. -/
structure WdSt where
  draws : Nat
  at_   : Nat
  deriving DecidableEq, Repr

/-- An effect on its way: it happens at an instant that is already fixed. -/
inductive Soon where
  /-- level of source `x` at the protection block (R68) -/
  | src (x : Nat) (on : Bool)
  /-- a register takes a word -/
  | reg (a : Nat) (w : Word)
  /-- `CORE_TIMEOUT` of thread `n` is set: no `DONE` came in the fabric cycle of the timeout (R36) -/
  | coreTimeout (n : Nat)
  /-- the bits of `m` say which DC-link thresholds of thread `n` were passed: `OV_1` to `OV_3` crossed, below `CHOP_REL` (R297) -/
  | dc (n m : Nat)
  /-- code 1 of a withdrawn chopper request of thread `n` ends (R298) -/
  | chopEnd (n : Nat)
  /-- slot `j` of group `g` of thread `n` begins (R106) -/
  | slot (n g j : Nat)
  deriving DecidableEq, Repr

/-- The protection block and the safety monitor. -/
structure ProtSt where
  srcs : Tab SrcSt
  dcs  : Tab DcSt
  smon : Tab SmonSt
  wds  : Tab WdSt
  /-- internal STO causes, and whether both inputs have been low together since STO_DISCREP (R306) -/
  intSto : Tab Bool
  bothLow : Bool
  diffAt : Option Nat
  /-- effects on their way, by rising instant -/
  inb : List (Nat × Soon)
  /-- one more than the instant of the last change of a filtered input: window comparators 0–31, trip inputs 32–39, STO inputs 40 and 41 -/
  lines : Tab Nat
  deriving DecidableEq, Repr

/-- A received frame as its window shows it (Table 19.2): the 18 words before the status word, and the status. -/
structure CanRx where
  words : List Word
  overrun : Bool
  fwd   : Bool
  idx   : Nat
  tag   : Nat
  cnt   : Nat
  ts    : Nat
  /-- instant of its acceptance (R338, R339) -/
  acc   : Nat
  deriving DecidableEq, Repr

/-- One CAN controller (R385-R404). -/
structure CanSt where
  /-- buffer on the bus, and whether its abort is latched (R392) -/
  bus    : Option Nat
  abort  : Bool
  sof    : Nat
  rxa    : Tab (List CanRx)
  fifo   : List CanRx
  cnt    : Nat
  sleep  : Bool
  boDone : Bool
  boAsk  : Bool
  /-- the counter of R398 at an instant, from which `TS_PRESC` governs it -/
  tscBase : Nat
  tscFrom : Nat
  /-- what the tie rules need of the running CAN clock cycle: the buffer last sent, requests (with the status word before) and aborts by buffer,
  and the entry of a frame into an empty FIFO, each with its cycle (R392, R397) -/
  okAt : Option (Nat × Nat)
  reqs : List (Nat × Nat × Word)
  abts : List (Nat × Nat)
  entered : Option Nat
  /-- the frame error counter of the wake matcher (R400) -/
  wakeErrs : Nat
  deriving DecidableEq, Repr

def CanSt.init : CanSt :=
  { bus := none, abort := false, sof := 0, rxa := [], fifo := [], cnt := 0, sleep := false, boDone := false, boAsk := false,
    tscBase := 0, tscFrom := 0, okAt := none, reqs := [], abts := [], entered := none, wakeErrs := 0 }

/-- One vector unit (R121–R150). Speeds and fluxes are Q4.28, angles 32-bit. -/
structure VecSt where
  /-- speed of the source in use -/
  omega : Int
  /-- observer: active flux, integrator and speed of the PLL, its angle, runs of good and bad evaluations, and the time in sub-steps for
  which it has been locked -/
  psiA : Int
  psiB : Int
  wInt : Int
  wHat : Int
  theta : Nat
  okRun : Nat
  badRun : Nat
  lockT : Nat
  /-- a source has been used, the angle last published, the offset of R127, and the run of R128 -/
  ever : Bool
  pub : Nat
  off : Int
  disRun : Nat
  /-- the reaction of "angle lost" was taken in `CATCH` or `RUN` -/
  lostIn : Bool
  /-- late periods since the last evaluation in an on-time period (R122) -/
  late : Nat
  /-- `THETA_MOD` of the last evaluation -/
  thetaMod : Nat
  /-- timebase instant of entry into the state, instant of the accepted start -/
  enteredAt : Int
  startAt : Option Nat
  catchN : Nat
  /-- `PROBE`: pulses commanded, evaluations, sample instants of pulses not yet measured, angles recorded, and whether this period
  carries a pulse -/
  zvCmd : Nat
  zvPer : Nat
  zvOut : List Int
  zvPhi : List (Int × Nat)
  pulse : Bool
  /-- `DISCHARGE`: the hold state (true `ASC`) once judged, the run of R149, the winding path and its evaluations -/
  disAsc : Option Bool
  disCnt : Nat
  wind : Bool
  windN : Nat
  /-- the angle last published from a usable source (R150), and a discharge that ended in `ASC` since the last evaluation -/
  good : Nat
  dischEnd : Bool
  deriving DecidableEq, Repr

def VecSt.init : VecSt :=
  { omega := 0, psiA := 0, psiB := 0, wInt := 0, wHat := 0, theta := 0, okRun := 0, badRun := 0, lockT := 0, ever := false, pub := 0,
    off := 0, disRun := 0, lostIn := false, late := 0, thetaMod := 0, enteredAt := 0, startAt := none, catchN := 0, zvCmd := 0,
    zvPer := 0, zvOut := [], zvPhi := [], pulse := false, disAsc := none, disCnt := 0, wind := false, windN := 0, good := 0,
    dischEnd := false }

/-- What a unit sets when it enters a state at timebase instant `T`. -/
def VecSt.entered (v : VecSt) (T : Int) : VecSt :=
  { v with enteredAt := T, catchN := 0, zvCmd := 0, zvPer := 0, zvOut := [], zvPhi := [], pulse := false, disAsc := none, disCnt := 0,
           wind := false, windN := 0, dischEnd := false }

/-- One position interface (R131, R132): filtered levels, count, instant of the last edge on the timebase, time-out, the count and
last edge latched at past sample instants (newest first); and the SSI frame in hand, its error, past positions and speed. -/
structure PosSt where
  a : Bool
  b : Bool
  count : Nat
  edge : Option Int
  quiet : Bool
  hist : List (Nat × Option Int)
  ssiPos : Nat
  ssiBad : Bool
  ssiHist : List Nat
  /-- angle and speed latched at the last sample instant, whether both are usable, and whether the speed is -/
  angle : Nat
  speed : Int
  ok : Bool
  spdOk : Bool
  deriving DecidableEq, Repr

def PosSt.init : PosSt := ⟨false, false, 0, none, true, [], 0, false, [], 0, 0, false, false⟩

/-- The running reduction of one channel over one interval (R359). -/
structure Acc where
  /-- interval start in nanoseconds of network time -/
  start : Nat
  mn : Int
  mx : Int
  sum : Int
  n : Nat
  /-- OR of the quality bits [15:4] and the highest AGE -/
  qor : Nat
  age : Nat
  deriving DecidableEq, Repr

/-- One recorder channel: intervals not yet closed, and whether its next record carries GAP (R360). -/
structure RecChan where
  accs : List Acc
  gap  : Bool
  deriving DecidableEq, Repr

/-- An accepted trigger: network time, code, several sources, capture interval once known, fabric cycle of acceptance. -/
structure RecTrig where
  at_ : Nat
  code : Nat
  multi : Bool
  idx : Option Nat
  cyc : Nat
  deriving DecidableEq, Repr

/-- One capture unit (R358-R365). -/
structure CapSt where
  /-- start, in ns of network time, of the capture and of the earliest interval not yet closed, and that interval's index -/
  from_ : Nat
  cur   : Nat
  idx   : Nat
  /-- a halving that comes into force at the interval starting at this ns -/
  hNext : Option (Nat × Nat)
  trig  : Option RecTrig
  short : Bool
  armed : Bool
  hTrig : Nat
  postTrigs : Nat
  missed : Nat
  dropped : Nat
  /-- instant from which the dead time runs, and the dead time of this capture in ns -/
  deadFrom : Nat
  dead  : Nat
  seqNo : Nat
  ivSeq : Nat
  /-- records waiting for DRAM (R362): address and bytes -/
  queue : List (Nat × List Byte)
  /-- slots closed whose header is not yet in DRAM -/
  fin : List (Nat × List Byte)
  holdFrom : Nat
  holdCnt : Nat
  deriving DecidableEq, Repr

def CapSt.init : CapSt :=
  { from_ := 0, cur := 0, idx := 0, hNext := none, trig := none, short := false, armed := false, hTrig := 0, postTrigs := 0,
    missed := 0, dropped := 0, deadFrom := 0, dead := 0, seqNo := 0, ivSeq := 0, queue := [], fin := [], holdFrom := 0,
    holdCnt := 0 }

/-- The recorder: units, channels, the previous sample of each level comparator (R367) and the end of each running bus
drive (R368). -/
structure RecSt where
  caps  : Tab CapSt
  chans : Tab RecChan
  prev  : Tab (Option Int)
  drive : Tab Nat
  deadMs : Tab Nat
  /-- the record last closed, by channel (Table 18.4) -/
  lasts : Tab (List Byte)
  deriving DecidableEq, Repr

/-- What the wear record holds beside the wear registers (R452): age of monitor 0 in units of 2^-32 s, mismatches by pair, stuck
events by chain, converters retired and waiting for a spare, core pair and Lagoon banks for which a spare is kept, each with the cycle of
its retirement (R454), and the states that never leave. -/
structure WearRec where
  age  : Nat
  mism : Tab Nat
  stuck : Tab Nat
  sarWait : Nat
  sarRet : Nat
  linkRet : Nat
  cpFor : List (Nat × Nat)
  bankFor : List (Nat × Nat)
  sarCyc : Tab Nat
  assigned : Bool
  exhausted : Bool
  regs : Tab Word
  deriving DecidableEq, Repr

def WearRec.init : WearRec := ⟨0, [], [], 0, 0, 0, [], [], [], false, false, []⟩

/-- Wear management: the live values, the record last written, the one before it with the instant of the last write (R452), the network time
of each monitor's last evaluation (R459), the instants of the errors of the last day by unit (Lagoon banks 0–15, DRAM 16, links from 32 on), and
the link-down spans of the last day. -/
structure WearSt where
  live  : WearRec
  saved : WearRec
  prev  : WearRec
  wroteAt : Option Nat
  errs  : Tab (List Nat)
  times : Tab Nat
  downFrom : Tab Nat
  downs : Tab (List (Nat × Nat))
  deriving DecidableEq, Repr

/-- Power domains in transition (R464): 1 going off, 2 going on; one more than the fabric cycle of the last accepted `PDM_OFF` and of the
last `PDM_ON` (R465); DRAM training under way. -/
structure PdmSt where
  moving : Tab Nat
  offCyc : Tab Nat
  onCyc : Tab Nat
  training : Bool
  deriving DecidableEq, Repr

def PdmSt.init : PdmSt := ⟨[], [], [], false⟩

/-- A plausibility pair (R98, R99): whether the last evaluation had two inputs, the runs, the outputs kept, rejoin counts and
restores armed. `STATE`, `EXCL_A`, `EXCL_B` and `CONFIRM_COUNT` stand in `SEQ_PAIR_p_STATUS`. -/
structure PairSt where
  two : Bool
  dis : Nat
  agr : Nat
  lastAgree : Int
  lastOut : Int
  rejA : Nat
  rejB : Nat
  resA : Bool
  resB : Bool
  deriving DecidableEq, Repr

def PairSt.init : PairSt := ⟨false, 0, 0, 0, 0, 0, 0, false, false⟩

/-- One SAR converter (R70–R91): start edges of triggers not yet taken; the regular entry in hand, whether it runs or waits for the
injected sequence to end, and whether it was abandoned; the injected entry; the start of the conversion in hand; counts of completed
sequences; the hold instant and quality of entry 0 of each sequence; the calibration; and the edge on which the last sequence ended. -/
structure SarSt where
  regAt : List Nat
  injAt : List Nat
  reg   : Option Nat
  paused : Bool
  again : Bool
  inj   : Option Nat
  convAt : Nat
  held  : Bool
  regCnt : Nat
  injCnt : Nat
  regTs : Nat × Qual
  injTs : Nat × Qual
  calReq : Option Nat
  calAt : Option Nat
  calAgain : Bool
  calEnd : Nat
  idleAt : Nat
  deriving DecidableEq, Repr

def SarSt.init : SarSt := ⟨[], [], none, false, false, none, 0, false, 0, 0, (0, 0#16), (0, 0#16), none, none, false, 0, 0⟩

/-- Working state of one context of the control engine (R109–R120, Table 6.3): besides the state words, whether its next evaluation is a
first one, whether its set has written an output in this run, whether a hand-over is still to be made (R116), and the `STATUS` bits set
since the period began. -/
structure CtxSt where
  i : Int
  d : Int
  x : Int
  u : Int
  left : Nat
  active : Bool
  delta : Int
  status : Nat
  runs : Nat
  first : Bool
  ran : Bool
  hand : Bool
  newBits : Nat
  deriving DecidableEq, Repr

def CtxSt.init : CtxSt := ⟨0, 0, 0, 0, 0, false, 0, 0, 0, true, false, false, 0⟩

/-- The signals of a context as read at the start of its slot (R106, R111). -/
structure CtxRead where
  ref : SigVal
  fb : SigVal
  ff : SigVal
  umax : SigVal
  umin : SigVal
  sel : SigVal
  deriving DecidableEq, Repr

/-- The control engine: working contexts, the visible ones (R119), the group being evaluated (thread, start, end), the steps that wait
(thread, fabric cycle of arrival), by thread the instant of a pending swap request and the fabric cycle of the last swap; what the contexts of
the running group have read; and, by address, the context words that hold an uncorrectable error (R120). -/
structure CeSt where
  ctx : Tab CtxSt
  vis : Tab CtxSt
  owner : Nat
  from_ : Nat
  until_ : Nat
  queue : List (Nat × Nat)
  swapAt : Tab Nat
  swapCyc : Tab Nat
  reads : List (Nat × CtxRead)
  bad : Tab Bool
  deriving DecidableEq, Repr

def CeSt.init : CeSt := ⟨[], [], 0, 0, 0, [], [], [], [], []⟩

/-- A synchronous-frame phase-locked loop (R161). -/
structure PllSt where
  wInt : Int
  w : Int
  theta : Nat
  ok : Nat
  bad : Nat
  locked : Bool
  deriving DecidableEq, Repr

def PllSt.init : PllSt := ⟨0, 0, 0, 0, 0, false⟩

/-- One grid-forming engine with its ride-through supervisor and black start (R154–R193). -/
structure GfeSt where
  /-- speed in Q4.60 and angle in units of 2^-64 turn (R154) -/
  acc : Int
  ang : Nat
  e : Int
  eInt : Int
  eSync : Int
  pF : Int
  qF : Int
  iFd : Int
  iFq : Int
  pllT : PllSt
  pllL : PllSt
  /-- current controller (R170), blend (R173), exit timer in sub-steps (R169), references last written -/
  xd : Int
  xq : Int
  blend : Nat
  dD : Int
  dQ : Int
  exitT : Nat
  refD : Int
  refQ : Int
  /-- consecutive evaluations in sync, the breaker as last treated (true closed) and whether that reading was one, held evaluations,
  late periods since the last on-time evaluation -/
  syncRun : Nat
  brk : Bool
  invRun : Nat
  late : Nat
  startAt : Option Nat
  startNow : Bool
  /-- last usable `SIG_PREF`, `SIG_QREF`, `SIG_WSET`, `SIG_VSET` -/
  pref : Int
  qref : Int
  wset : Int
  vset : Int
  /-- supervisor: delay line (newest first), evaluations until `SEQ_VALID`, quiet run, dip time in sub-steps, lowest voltage, whether the
  envelope was exceeded in this dip, p_hold, `PREF_OUT`, last usable `SIG_PSET`, angle of the last evaluation with live voltage, run
  towards `LEAVE_OK` and its value, breaker as last read -/
  dl : List (Int × Int)
  seqWait : Nat
  quiet : Nat
  dipT : Nat
  dipLow : Int
  dipEx : Bool
  hold : Int
  prefOut : Int
  pset : Int
  arg : Option Nat
  leaveRun : Nat
  leaveOk : Bool
  brkF : Bool
  /-- black start: time in the state in sub-steps, no evaluation in it yet, runs of live and dead line, accepted start, engine started -/
  bsT : Nat
  bsFresh : Bool
  liveRun : Nat
  deadRun : Nat
  bsStartAt : Option Nat
  bsRan : Bool
  /-- a start that the supervisor asked for and that no evaluation has taken yet (R189) -/
  bsAsk : Bool
  /-- `ID_REF` and `IQ_REF` last written (R175) -/
  idRef : Int
  iqRef : Int
  deriving DecidableEq, Repr

def GfeSt.init : GfeSt :=
  { acc := 0, ang := 0, e := 0, eInt := 0, eSync := 0, pF := 0, qF := 0, iFd := 0, iFq := 0, pllT := PllSt.init, pllL := PllSt.init,
    xd := 0, xq := 0, blend := 0, dD := 0, dQ := 0, exitT := 0, refD := 0, refQ := 0, syncRun := 0, brk := true, invRun := 0, late := 0,
    startAt := none, startNow := false, pref := 0, qref := 0, wset := 0, vset := 0, dl := [], seqWait := 0, quiet := 0, dipT := 0,
    dipLow := 0, dipEx := false, hold := 0, prefOut := 0, pset := 0, arg := none, leaveRun := 0, leaveOk := false, brkF := false,
    bsT := 0, bsFresh := false, liveRun := 0, deadRun := 0, bsStartAt := none, bsRan := false, bsAsk := false,
    idRef := 0, iqRef := 0 }

/-- The active parameter sets of the engines, by register address, and the instants of accepted `APPLY`s (R177). -/
structure GfeParSt where
  act : Tab Word
  applyAt : Tab Nat
  /-- by engine: one more than the low half latched by a read of `GFE_n_OMEGA_ACC_HI` and not yet read; 0: none -/
  accLow : Tab Nat
  deriving DecidableEq, Repr

/-- A frame in the transmitter (R200–R204): kind, type, payload, the chip boundary at which it starts (none: waits to restart), the one at
which it first started, and whether it has begun on the line. -/
structure TxFrame where
  sw : Bool
  ty : Nat
  payload : Nat
  startK : Option Nat
  origK : Nat
  live : Bool
  /-- an earlier start of it was aborted -/
  again : Bool
  deriving DecidableEq, Repr

/-- A software frame: type, payload of the next copy, copies left, and the chip from which the next copy may start. -/
structure SwFrame where
  ty : Nat
  payload : Nat
  left : Nat
  fromK : Nat
  deriving DecidableEq, Repr

/-- What the modem's evaluations hold: the transmitter (R203, R204), with the frame in hand, the software frame waiting, the kind last sent, and
the first chip free; and the receiver's spans of unusable input, as first and last timebase instants, newest first (R206). -/
structure SndTx where
  frame : Option TxFrame
  sw : Option SwFrame
  lastSw : Bool
  freeK : Nat
  bad : List (Int × Int)
  deriving DecidableEq, Repr

def SndTx.init : SndTx := ⟨none, none, false, 0, []⟩

/-- A received frame (Table 10.4). -/
structure SndRx where
  sender : Nat
  ty : Nat
  corr : Nat
  payload : Nat
  sec : Nat
  ns : Nat
  deriving DecidableEq, Repr

/-- A set-point that waits for its application instant (R208, R209): instant, offset in units of 2^-16, duration, end of its frame,
sender. -/
structure SndShift where
  at_ : Nat
  ofs : Int
  dur : Nat
  end_ : Nat
  sender : Nat
  deriving DecidableEq, Repr

/-- The Sound modem: transmitter, receive FIFO and the cycle in which a frame last came to it empty, claims heard (rank, sender, instant), pending
shifts by target, `RESYNC`s that wait for their instants, applied offsets, and the running `RESYNC` offset with its end. -/
structure SndSt where
  tx : SndTx
  fifo : List SndRx
  got : Option Nat
  claims : List (Nat × Nat × Nat)
  wait : Tab (Option SndShift)
  resyncs : List SndShift
  shift : Tab Int
  resync : Option (Int × Nat)
  deriving DecidableEq, Repr

def SndSt.init : SndSt := ⟨SndTx.init, [], none, [], [], [], [], none⟩

/-- One auxiliary motor (R276–R290). Instants are absolute sub-steps unless signed; the duty is Q4.28, frequencies are in units of
2^-32 Hz. -/
structure AuxSt where
  startPend : Bool
  stopPend : Bool
  d : Nat
  /-- instant of entry into the state -/
  entered : Nat
  /-- what began a braking: 1 a start, 2 `STOP`, 3 `AUX_OV_2` -/
  brake : Nat
  /-- `RUN` before its first commutation: all switches off -/
  wait : Bool
  /-- confirmed crossings in `OBSERVE`, newest first: index and instant -/
  zcs : List (Nat × Int)
  lastZc : Option Int
  /-- up to six crossing-to-crossing intervals, newest first, and T_est -/
  ints : List Nat
  tEst : Nat
  /-- instant of the last commutation, the instant for which it was due, and the instant for which the next one is due -/
  commAt : Nat
  commDue : Int
  due : Option Int
  forced : Nat
  /-- end of the blanking of the floating phase, and whether this sector's crossing was taken -/
  blank : Nat
  seen : Bool
  /-- `RAMP`: sectors with a counted crossing in a row, frequency, end of the sector; failed starts in succession -/
  count : Nat
  freq : Nat
  secEnd : Nat
  fails : Nat
  /-- a braking gap until this instant; side of the `ZERO_I` window that phase U's current was last on; last passage -/
  gap : Option Nat
  side : Option Bool
  iAt : Nat
  /-- a commutation under `OV1_PAUSE`: incoming phase held off, outgoing phase, latest instant -/
  hold : Option (Nat × Nat × Nat)
  /-- instant at which the due commutation was set; end of the last braking gap, 0 for none since `BRAKE` was entered -/
  known : Nat
  gapEnd : Nat
  deriving DecidableEq, Repr

def AuxSt.init : AuxSt :=
  { startPend := false, stopPend := false, d := 0, entered := 0, brake := 0, wait := false, zcs := [], lastZc := none, ints := [],
    tEst := 0, commAt := 0, commDue := 0, due := none, forced := 0, blank := 0, seen := false, count := 0, freq := 0, secEnd := 0,
    fails := 0, gap := none, side := none, iAt := 0, hold := none, known := 0, gapEnd := 0 }

/-- The auxiliary drives: motors; the RW words in force by address (R291); comparator windows asserted, by 3 × half-bridge + window;
instant since which `AUX_CHOP` is high; instant since which the bus is below `AUX_OV_2`; by 2 × half-bridge + 1 for the high side, the level
commanded of each gate and the instant from which it holds. -/
structure AuxAll where
  motors : Tab AuxSt
  act : Tab Word
  win : Tab Bool
  chopFrom : Option Nat
  below2 : Option Nat
  gates : Tab (Bool × Nat)
  deriving DecidableEq, Repr

def AuxAll.init : AuxAll := ⟨[], [], [], none, none, []⟩

/-- A frame inside the switch (R375–R377): bytes from the destination address up to the check sequence, ingress port and time-stamp
(units of 2^-34 ns), the endpoint it is bound to (R338) and whether it was forwarded by the partner. -/
structure EthFrame where
  bytes : List Byte
  port : Nat
  at_ : Nat
  ep : Option Nat
  fwd : Bool
  /-- instant of its acceptance (R338, R339) -/
  acc : Nat
  deriving DecidableEq, Repr

/-- A two-step Sync that waits for its Follow_Up: `sequenceId`, source port identity, correction in units of 2^-16 ns. -/
structure SyncWait where
  seq : Nat
  src : Nat
  corr : Int
  deriving DecidableEq, Repr

/-- A time-stamp of port 2 (R379): the word of `ETH_TS_0` and the network time. -/
structure EthStamp where
  head : Nat
  at_ : Nat
  deriving DecidableEq, Repr

/-- The Ethernet switch: learned addresses (address, port, last seen), egress queues by 8 × port + queue, pending Syncs by egress port,
the time-stamp FIFO, frames handed to the port-2 receive queue, and the frame each port sent last. -/
structure EthSt where
  macs : List (Nat × Nat × Nat)
  queues : Tab (List EthFrame)
  syncs : Tab (List SyncWait)
  stamps : List EthStamp
  host : List EthFrame
  sent : Tab (List Byte)
  deriving DecidableEq, Repr

def EthSt.init : EthSt := ⟨[], [], [], [], [], []⟩

/-- A digest as posted or received: the period, both CRCs, the flags word; `none` in place of the CRCs for an `OVERRUN` marker. -/
structure Digest where
  period : Nat
  crcs : Option (Nat × Nat)
  flags : Nat
  at_ : Nat
  deriving DecidableEq, Repr

/-- The header of a received frame: whether CRC, `LEN` and `TYPE` are good, frame number, thread, period. -/
structure CwyHdr where
  ok : Bool
  fseq : BitVec 32
  thread : Fin 4
  period : BitVec 32
  deriving DecidableEq, Repr

/-- What a snapshot of a thread holds (R332). -/
inductive SnapItem where
  /-- a signal of the thread's fill copy -/
  | signal (i : Nat) (v : SigVal)
  /-- working state of a context, of a vector unit and of the engine -/
  | ctx (c : Nat) (v : CtxSt)
  | vec (u : Nat) (v : VecSt)
  | gfe (v : GfeSt)
  /-- a context word of a parameter bank, by address, and the active bank -/
  | param (a : Nat) (w : Word)
  | bank (b : Bool)
  /-- pending list, minimum-pulse carry and executed code of a leg unit -/
  | pend (g : Nat) (ws : List Word)
  | carry (g : Nat) (w : Word)
  | code (g : Nat) (c : Option Nat)
  /-- next edge number of a link, and the period counter -/
  | edge (l k : Nat)
  | period (p : Nat)
  deriving DecidableEq, Repr

/-- A mirrored write that waits for its sample instant (R327): address, data, whether it was made on this device, the primary, its instant
(on the standby that of the frame's arrival) and target period. -/
structure Mirror where
  addr : Nat
  data : Word
  mine : Bool
  at_ : Nat
  period : Nat
  deriving DecidableEq, Repr

/-- Twin state of one thread (R326–R335). -/
structure TwinThr where
  own : List Digest
  par : List Digest
  /-- the input part of the digest being formed -/
  input : Nat
  /-- consecutive mismatches and matches -/
  mism : Nat
  good : Nat
  /-- period of the last `END` frame of the partner, and its arrival -/
  parEnd : Option (Nat × Nat)
  /-- the senior's decision to yield, and evaluations without a reason to -/
  yield_ : Bool
  ret : Nat
  /-- latched values of the coming period -/
  latch : List (Nat × SigVal)
  mirrors : List Mirror
  /-- items of the snapshot in reception, arrival of its last word, failed attempts -/
  snap : List SnapItem
  snapAt : Option Nat
  snapFails : Nat
  /-- the instant of the last change between sending and silence, and whether the device was silent before it (R335) -/
  silAt : Option (Nat × Bool)
  deriving DecidableEq, Repr

def TwinThr.init : TwinThr :=
  { own := [], par := [], input := 0, mism := 0, good := 0, parEnd := none, yield_ := false, ret := 0, latch := [], mirrors := [],
    snap := [], snapAt := none, snapFails := 0, silAt := none }

/-- A forwarded message that waits for its acknowledgement (R339): frame number, endpoint, bytes, times sent, instant. -/
structure TwinMsg where
  fseq : Nat
  ep : Nat
  bytes : List Byte
  tries : Nat
  at_ : Nat
  deriving DecidableEq, Repr

/-- A role-addressed message that a device which was not primary discarded, kept for the rest of its fabric cycle: the first of its cycle, its
thread, and where it would have gone (R338). -/
structure RoleMsg where
  cyc : Nat
  thread : Nat
  dest : (Nat × Nat × CanRx) ⊕ EthFrame
  deriving DecidableEq, Repr

/-- Twin state that no register of Tables 15.4–15.6 holds. -/
structure TwinSt where
  thr : Tab TwinThr
  /-- links on which the partner reports UP_OK (R333) -/
  partnerUp : Tab Bool
  /-- frame numbers: next to send, last received; last frame sent of each type -/
  txSeq : Nat
  rxSeq : Option Nat
  sent : Tab (List Dword)
  /-- arrival of the last valid frame and of the last valid `STATUS` frame -/
  rxAt : Option Nat
  statusAt : Option Nat
  /-- the last `TIME` exchange in units of 1/32 sub-step: own send instant, the partner's, its arrival here; the one-way delay -/
  tSent : Nat
  tPar : Nat
  tArr : Nat
  delay : Int
  goodRun : Nat
  badRun : Nat
  joined : Bool
  /-- the partner refused, or this device was (R318) -/
  refused : Bool
  downAt : Option Nat
  msgs : List TwinMsg
  /-- role-addressed messages discarded in the running fabric cycle (R338) -/
  ignored : List RoleMsg
  /-- the partner's `SYS_STATE.STATE` and running threads, as last heard -/
  parState : Nat
  parRun : Nat
  /-- CRC of the partner's image, as exchanged -/
  parCrc : Option Nat
  deriving DecidableEq, Repr

def TwinSt.init : TwinSt :=
  { thr := [], partnerUp := [], txSeq := 0, rxSeq := none, sent := [], rxAt := none, statusAt := none, tSent := 0, tPar := 0, tArr := 0,
    delay := 0, goodRun := 0, badRun := 0, joined := false, refused := false, downAt := none, msgs := [], ignored := [], parState := 0, parRun := 0,
    parCrc := none }

/-- An entry of the Islet's event log (Table 16.3). -/
structure IslEntry where
  seq : Nat
  rtc : Nat
  code : Nat
  a : Nat
  b : Nat
  deriving DecidableEq, Repr

/-- One pulse output (R347): energy below a pulse in nWh, pulses owed, instant of the last pulse, pulses lost and the instant of the last
`PULSE_OVF`. -/
structure IslPulse where
  acc : Nat
  owed : Nat
  last : Option Nat
  lost : Nat
  ovfAt : Option Nat
  deriving DecidableEq, Repr

def IslPulse.init : IslPulse := ⟨0, 0, none, 0, none⟩

/-- What a measurement window gives, in secondary values: RMS voltages in µV and currents in µA of channels 0–3, active and reactive power of
the elements in µW and µvar, frequency in 10 mHz (log 53). -/
structure IslMeas where
  v : List Nat
  i : List Nat
  p : List Int
  q : List Int
  f : Nat
  deriving DecidableEq, Repr

/-- The metering Islet on its own side of the Strait (R341–R356). -/
structure IslSt where
  /-- Strait power, instant of RTC zero, RTC seconds at the last fall of power -/
  power : Bool
  rtcAt : Nat
  downRtc : Nat
  /-- energy registers in mWh and residues in nWh, by k = 4q + φ -/
  energy : Tab Nat
  residue : Tab Nat
  /-- measured values of the last window, by j of `ISL_INST_j`; the word of `ISL_FREQ` -/
  inst : Tab Int
  freq : Word
  /-- seal: whether it reads sealed, an opening latched without power, the counter -/
  isSealed : Bool
  opened : Bool
  seals : Nat
  /-- parameter blocks by index of Table 16.1: in force, committed and waiting for a quantum boundary, staging; commits -/
  par : Tab Word
  next : Option (Tab Word)
  staging : Tab Word
  commits : Nat
  /-- the log, newest first; next sequence number, highest acknowledged, overwritten unacknowledged, retention losses -/
  log : List IslEntry
  seq : Nat
  acked : Nat
  lost : Nat
  losses : Nat
  retSeen : Bool
  clkFault : Bool
  clkOk : Nat
  pulseP : IslPulse
  pulseQ : IslPulse
  /-- test mode in force, mode asked for, instant of the request -/
  mode : Nat
  modeReq : Nat
  modeAt : Nat
  /-- snapshot number, words of the snapshot on its way, whether another follows it -/
  snapNo : Nat
  snap : Option (List (Nat × Word))
  again : Bool
  /-- arrival of the last valid snapshot at the control die -/
  seenAt : Nat
  /-- last reply of the calibration port -/
  reply : List Byte
  deriving DecidableEq, Repr

/-- The sealed parameter block before any commit (log 54). -/
def islParReset (i : Nat) : Word :=
  if 2 ≤ i ∧ i ≤ 5 then 1#32 else if 6 ≤ i ∧ i ≤ 13 then 0x40000000#32 else if i = 22 ∨ i = 23 then 1#32
  else if i = 24 then 0x140000#32 else 0#32

def IslSt.init : IslSt :=
  { power := true, rtcAt := 0, downRtc := 0, energy := [], residue := [], inst := [], freq := 0#32, isSealed := true, opened := false,
    seals := 0, par := [], next := none, staging := [], commits := 0, log := [], seq := 1, acked := 0, lost := 0, losses := 0,
    retSeen := false, clkFault := false, clkOk := 0, pulseP := IslPulse.init, pulseQ := IslPulse.init, mode := 0, modeReq := 0,
    modeAt := 0, snapNo := 0, snap := none, again := false, seenAt := 0, reply := [] }

/-- The instruction in the JTAG test access port (R428). -/
inductive Tap where
  | bypass | idcode | sample | extest | clamp | dbgAccess
  deriving DecidableEq, Repr

/-- The performance counters (R426): by 8p + c, the value an odd counter shows at its next read, latched by a read of its even
partner; and one more than the cycle of the last software write. -/
structure PmuSt where
  latch : Tab (Option Word)
  wrote : Tab Nat
  /-- core cycle up to which the register of a counter holds its events -/
  since : Tab Nat
  deriving DecidableEq, Repr

def PmuSt.init : PmuSt := ⟨[], [], []⟩

/-- An entry of the IOTLB (R416): domain, virtual page number of its first page, level of the leaf, and the leaf. -/
structure TlbEnt where
  dom : Nat
  vpn : Nat
  level : Nat
  pte : Nat
  deriving DecidableEq, Repr

/-- An entry of the fault FIFO (Table 20.6). -/
structure IomFault where
  write : Bool
  queue : Nat
  dom : Nat
  cause : Nat
  iova : Nat
  deriving DecidableEq, Repr

/-- The IOMMU: IOTLB (oldest first), fault FIFO, and the invalidation that runs: domain and page. -/
structure IomSt where
  tlb : List TlbEnt
  fifo : List IomFault
  inv : Option (Nat × Option Nat)
  deriving DecidableEq, Repr

def IomSt.init : IomSt := ⟨[], [], none⟩

/-- One Ferry queue (R417–R423): the descriptor in hand, once read; data read from a register by a burst whose write has not
completed; the frame of an Ethernet queue; an abort that waits for the running burst (2: it came after the last write beat). -/
structure FryQ where
  loaded : Bool
  ctl : Nat
  len : Nat
  src : Nat
  dst : Nat
  next : Nat
  regData : Option (List Byte)
  frame : Option (List Byte)
  abort : Nat
  deriving DecidableEq, Repr

def FryQ.init : FryQ := ⟨false, 0, 0, 0, 0, 0, none, none, 0⟩

/-- The burst that runs: queue, destination IOVA and physical address (none: to the switch), source IOVA and physical address (none: from
the switch), its data, and whether the read met an uncorrectable error or a bus error. -/
structure FryBurst where
  q : Nat
  dstV : Nat
  dst : Option Nat
  srcV : Nat
  src : Option Nat
  data : List Byte
  srcEcc : Bool
  srcErr : Bool
  deriving DecidableEq, Repr

/-- The Ferry engine: queues, the queue served last, the burst that runs and the count of truncated frames (R423). -/
structure FrySt where
  qs : Tab FryQ
  last : Nat
  run : Option FryBurst
  cut : Nat
  deriving DecidableEq, Repr

def FrySt.init : FrySt := ⟨[], 31, none, 0⟩

/-- State of the last on-time period of a thread, to which a late period returns (R39): vector units, pairs, the engine, the Sound
transmitter, and the registers that only the device writes. -/
structure KeepSt where
  vecs  : Tab VecSt
  pairs : Tab PairSt
  gfe   : GfeSt
  tx    : SndTx
  regs  : Tab Word
  /-- protection sources that the period's evaluations raise: 1 and the held reaction of those active -/
  srcs  : Tab Nat
  deriving DecidableEq, Repr

def KeepSt.init : KeepSt := ⟨[], [], GfeSt.init, SndTx.init, [], []⟩

/-- A key slot of the OTP (R442): the hash of the public key, whether it is programmed, whether it is revoked. -/
structure OtpKey where
  hash : Nat
  programmed : Bool
  revoked : Bool
  deriving DecidableEq, Repr

/-- The Harbour identity of the OTP (R446). -/
structure HbIdent where
  mode : Nat
  mac : Nat
  ip : Nat
  can : Nat
  rq : Nat
  rsp : Nat
  deriving DecidableEq, Repr

/-- The OTP: four key slots, the minimum `SEC_VER`, the Harbour identity where it is programmed, the Harbour debug level. -/
structure OtpSt where
  keys : List OtpKey
  minSec : Nat
  ident : Option HbIdent
  dbg : Nat
  deriving DecidableEq, Repr

def OtpSt.init : OtpSt := ⟨List.replicate 4 ⟨0, false, false⟩, 0, none, 0⟩

/-- A failure found by the self-test (R444): test, unit, and whether a copy of the unit's content failed with it. -/
structure SelfFail where
  test : Nat
  unit : Nat
  fatal : Bool
  deriving DecidableEq, Repr

/-- What a release of reset meets outside the device and in its own hardware: the three samples of the straps as `SYS_STRAP` has their
bits (R480), the time from the release, or from the end of a partner search, to the end of the load, the outcome of each DRAM training,
the failures that the self-test finds, the calibration results of the 24 converters (R443), and `SAFE_OSC_GRACE` of the loaded image in ms,
for which the spec gives no record (R31). -/
structure ReleaseIn where
  strap0 : Nat
  strap1 : Nat
  strap2 : Nat
  load : Nat
  training : List Bool
  fails : List SelfFail
  cal : List (Int × Nat)
  grace : Nat
  deriving DecidableEq, Repr

/-- A flash operation under way (R448): operation, address, bytes, cycle of its start. -/
structure FlashOp where
  op : Nat
  addr : Nat
  len : Nat
  data : List Byte
  cyc : Nat
  deriving DecidableEq, Repr

/-- Start-up: the NOR flash (erased bytes read 0xFF), the OTP, a release that waits in the partner search, the key slot of the loaded
copy, the flash operation under way, the safety monitor's program and the fabric cycle of the last reset. -/
structure BootSt where
  flash : Tab Byte
  otp : OtpSt
  search : Option ReleaseIn
  key : Nat
  op : Option FlashOp
  smon : List Byte
  resetCyc : Nat
  deriving DecidableEq, Repr

def BootSt.init : BootSt := ⟨[], OtpSt.init, none, 0, none, [], 0⟩

/-- Where a Ulile request comes from (R380): over UDP with the MAC and IPv4 address and the port it was sent to and the address and port
of its sender; over CAN with controller and identifier, [29] extended; over the debug UART. -/
inductive UliVia where
  | udp (mac : BitVec 48) (ip : Word) (port : BitVec 16) (fromIp : Word) (fromPort : BitVec 16)
  | can (k : Fin 4) (id : BitVec 30)
  | uart
  deriving DecidableEq, Repr

/-- A request that waits (R382): its transport, fabric cycle of arrival and message. -/
structure UliReq where
  via : UliVia
  cyc : Nat
  msg : List Byte
  deriving DecidableEq, Repr

/-- The Ulile agent (R380–R384): queue, items of the first request that are done with the reply so far, and the last reply sent. -/
structure UliSt where
  queue : List UliReq
  item : Nat
  out : List Byte
  reply : Option (UliVia × List Byte)
  deriving DecidableEq, Repr

def UliSt.init : UliSt := ⟨[], 0, [], none⟩

/-- What an error during a frame does to the counters beyond the plain rule of ISO 11898-1 (PRESUMED, log 33). -/
structure CanErr where
  /-- the controller was transmitting -/
  tx   : Bool
  /-- an acknowledgement error -/
  ack  : Bool
  /-- a receiver saw a dominant bit after its error flag: +8 in place of +1 -/
  dominant : Bool
  /-- one of the exceptions in which a transmitter's counter does not change -/
  exempt : Bool
  deriving DecidableEq, Repr

/-- A frame on the bus: control words as in Table 19.2, and its data bytes. -/
structure CanFrame where
  w0   : Word
  w1   : Word
  data : List Byte
  deriving DecidableEq, Repr

/-- What the wake matcher saw (R400): dominant, recessive and dominant phases of these lengths in sub-steps, a correct frame, or an erroneous
one. -/
inductive WakeSeen where
  | pattern (d1 r d2 : Nat)
  | frame (f : CanFrame)
  | badFrame
  deriving DecidableEq, Repr

end Sys2Proof.Machine
end

