-- ==== Sys2Proof/Syntax.lean ====
section
/-! DEFINITION. The commands of the block: one constructor per row of the operation and event table, each with the instant `t` at which it
comes, in sub-steps of 31.25 ps (R11), and then its operands. A command that is one write or read of a register names who sends it. -/

namespace Sys2Proof

open Sys2Proof.Machine

/-- A command or event. -/
inductive Instr where
/-- `REGISTER_WRITE`. A write on the bus: to a register under its access codes, or to memory (R4–R8, R408). -/
| registerWrite (t : Nat) (who : Initiator) (a : BitVec 40) (size : Size) (d : Dword)
/-- `SYS_LOCK_SET`. `SYS_LOCK.LOCK` is written 1 (R8). -/
| sysLockSet (t : Nat) (who : Initiator)
/-- `REF_LOSS`. No reference edge for 200 ns (R29). -/
| refLoss (t : Nat)
/-- `PLL_UNLOCK`. The lock detector drops after the first lock (R29). -/
| pllUnlock (t : Nat)
/-- `CLOCK_MONITOR_WINDOW`. A monitor window ends with `count` fabric cycles (R29, R31). -/
| clockMonitorWindow (t : Nat) (count : Nat)
/-- `SAFE_OSC_GRACE`. `SAFE_OSC_GRACE` expires (R31). -/
| safeOscGrace (t : Nat)
/-- `SAMPLE_INSTANT`. The sample instant of thread `n` (R37). -/
| sampleInstant (t : Nat) (n : Fin 4)
/-- `SEQ_START`. `SEQ_n_CTRL.START` is written 1 (R33). -/
| seqStart (t : Nat) (who : Initiator) (n : Fin 4)
/-- `SEQ_STOP`. `SEQ_n_CTRL.STOP` is written 1 (R33). -/
| seqStop (t : Nat) (who : Initiator) (n : Fin 4)
/-- `FILTER_CLOSE`. The `FILTER_CLOSE` step of thread `n` (R61). -/
| filterClose (t : Nat) (n : Fin 4)
/-- `VECTOR`. The `VECTOR` step of thread `n` (R121). -/
| vector (t : Nat) (n : Fin 4)
/-- `LOOP_GROUP`. The `LOOP_GROUP` step; reading its contexts meets `corr` corrected words and, in each context of `bad`, an
  uncorrectable error in the parameter word given, or in a state word (R106, R120). -/
| loopGroup (t : Nat) (n : Fin 4) (corr : Nat) (bad : List (Fin 512 × Option (Fin 16)))
/-- `LOOP_GROUP_GRANT`. The engine is free for the step that waits longest (R107). -/
| loopGroupGrant (t : Nat) (corr : Nat) (bad : List (Fin 512 × Option (Fin 16)))
/-- `GFE`. The `GFE` step of thread `n` (R153). -/
| gfe (t : Nat) (n : Fin 4)
/-- `MODULATE`. The `MODULATE` step of thread `n` (R229). -/
| modulate (t : Nat) (n : Fin 4)
/-- `COMMIT`. The `COMMIT` step of thread `n` (R221). -/
| commit (t : Nat) (n : Fin 4)
/-- `EMIT`. The `EMIT` step of thread `n` (R35). -/
| emit (t : Nat) (n : Fin 4)
/-- `POST`. The `POST` step of thread `n` (R35). -/
| post (t : Nat) (n : Fin 4)
/-- `CORE_CALL`. The `CORE_CALL` step of thread `n` (R36). -/
| coreCall (t : Nat) (n : Fin 4)
/-- `CORE_DONE`. `SEQ_n_CORE_DONE.DONE` is written 1 (R36). -/
| coreDone (t : Nat) (who : Initiator) (n : Fin 4)
/-- `CORE_TIMEOUT`. The timeout of the running `CORE_CALL` expires (R36). -/
| coreTimeout (t : Nat) (n : Fin 4)
/-- `WAIT`. The `WAIT` step of thread `n` (R35). -/
| wait (t : Nat) (n : Fin 4)
/-- `WAIT_END`. The offset of the running `WAIT` is reached (R35). -/
| waitEnd (t : Nat) (n : Fin 4)
/-- `END`. The sequencer of thread `n` reaches `END` (R38). -/
| end_ (t : Nat) (n : Fin 4)
/-- `SIGNAL_WRITE`. Signal `i` is written with a value and a quality word (R42, R43). -/
| signalWrite (t : Nat) (who : Initiator) (i : Fin 4096) (v : Word) (q : Qual)
/-- `CIC_OUTPUT`. Chain `i` captures bits, the last of which completes a CIC output (R51). -/
| cicOutput (t : Nat) (i : Fin 112) (bits : List Bool)
/-- `FIR_OUTPUT`. Chain `i` computes a FIR output; reading its coefficients meets `corr` corrected words and the uncorrectable words `unc`
  (R55, R57). -/
| firOutput (t : Nat) (i : Fin 112) (corr : Nat) (unc : List (Fin 16384))
/-- `RESAMPLER_OUTPUT`. Chain `i` computes the resampler output of its next target (R59). -/
| resamplerOutput (t : Nat) (i : Fin 112) (corr : Nat) (unc : List (Fin 16384))
/-- `CHAIN_RELEASE`. Chain `i` releases an output (R60). -/
| chainRelease (t : Nat) (i : Fin 112)
/-- `DETECTOR_TAKE`. The detectors of chain `i` take a FIR output (R66). -/
| detectorTake (t : Nat) (i : Fin 112)
/-- `STUCK`. Bits of chain `i` complete a run of `STUCK_BITS` equal ones (R49). -/
| stuck (t : Nat) (i : Fin 112) (bits : List Bool)
/-- `STUCK_CLEAR`. Bits of chain `i` complete `RECOVER` clean ones (R49). -/
| stuckClear (t : Nat) (i : Fin 112) (bits : List Bool)
/-- `PF_FIRE`. With these bits a level of the protection filter of chain `i` has held for `DEB` bits: its trip level or its warn level
  (R67). -/
| pfFire (t : Nat) (i : Fin 112) (trip : Bool) (bits : List Bool)
/-- `PF_CLEAR`. With these bits the condition of a level of the protection filter of chain `i` no longer holds (R67). -/
| pfClear (t : Nat) (i : Fin 112) (trip : Bool) (bits : List Bool)
/-- `RESTORE_A`. `RESTORE_A` of pair `p` is written 1 (R99). -/
| restoreA (t : Nat) (who : Initiator) (p : Fin 128)
/-- `RESTORE_B`. `RESTORE_B` of pair `p` is written 1 (R99). -/
| restoreB (t : Nat) (who : Initiator) (p : Fin 128)
/-- `SUB_FORCE`. `SEQ_SUB_j.FORCE` is written 1 (R102). -/
| subForce (t : Nat) (who : Initiator) (j : Fin 16)
/-- `SAR_SW_REG`. `SW_REG` of converter `k` is written 1 (R79). -/
| sarSwReg (t : Nat) (who : Initiator) (k : Fin 24)
/-- `SAR_SW_INJ`. `SW_INJ` of converter `k` is written 1 (R79). -/
| sarSwInj (t : Nat) (who : Initiator) (k : Fin 24)
/-- `SAR_CAL`. `CAL` of converter `k` is written 1 (R87). -/
| sarCal (t : Nat) (who : Initiator) (k : Fin 24)
/-- `SAR_TIMER`. Interval timer `j` fires (R80). -/
| sarTimer (t : Nat) (j : Fin 4)
/-- `SAR_START_EDGE`. Triggers of converter `k` are taken at a start edge (R71). -/
| sarStartEdge (t : Nat) (k : Fin 24)
/-- `SAR_CONVERSION_END`. The conversion of converter `k` ends with a raw code (R70). -/
| sarConversionEnd (t : Nat) (k : Fin 24) (raw : Int)
/-- `CALIBRATION_START`. A pending calibration of converter `k` starts (R88). -/
| calibrationStart (t : Nat) (k : Fin 24)
/-- `CALIBRATION_END`. The calibration of converter `k` ends with the offset and gain measured (R91). -/
| calibrationEnd (t : Nat) (k : Fin 24) (off : Int) (gain : BitVec 16)
/-- `CAL_AUTO`. The calibration interval of converter `k` expires (R87). -/
| calAuto (t : Nat) (k : Fin 24)
/-- `CAL_STARVED`. 100 ms have passed since a request of converter `k` (R90). -/
| calStarved (t : Nat) (k : Fin 24)
/-- `BANK_SWAP_REQUEST`. `CE_BANK_CTRL.SWAP_n` is written 1 (R118). -/
| bankSwapRequest (t : Nat) (who : Initiator) (n : Fin 4)
/-- `VEC_START`. `START` of vector unit `u` is written 1 (R139). -/
| vecStart (t : Nat) (who : Initiator) (u : Fin 8)
/-- `VEC_STOP`. `STOP` of vector unit `u` is written 1 (R139). -/
| vecStop (t : Nat) (who : Initiator) (u : Fin 8)
/-- `ASC_REQ`. `ASC_REQ` of vector unit `u` is written 1 (R147). -/
| ascReq (t : Nat) (who : Initiator) (u : Fin 8)
/-- `ASC_EXIT`. `ASC_EXIT` of vector unit `u` is written 1 (R148). -/
| ascExit (t : Nat) (who : Initiator) (u : Fin 8)
/-- `ENCODER_EDGE`. The filtered levels of position interface `k` become `a` and `b` (R131). -/
| encoderEdge (t : Nat) (k : Fin 4) (a b : Bool)
/-- `ENCODER_Z_EDGE`. A Z edge of position interface `k` (R131). -/
| encoderZEdge (t : Nat) (k : Fin 4)
/-- `SSI_FRAME`. A position frame is clocked in, with the faults seen (R132). -/
| ssiFrame (t : Nat) (k : Fin 4) (raw : Nat) (lowBefore noReturn errBit : Bool)
/-- `SPD_TIMEOUT`. No edge of position interface `k` for `SPD_TIMEOUT` (R131). -/
| spdTimeout (t : Nat) (k : Fin 4)
/-- `GFE_START`. `GFE_n_CTRL.START` is written 1 (R163). -/
| gfeStart (t : Nat) (who : Initiator) (n : Fin 4)
/-- `GFE_STOP`. `GFE_n_CTRL.STOP` is written 1 (R164). -/
| gfeStop (t : Nat) (who : Initiator) (n : Fin 4)
/-- `GFE_APPLY`. `GFE_n_CTRL.APPLY` is written 1 (R177). -/
| gfeApply (t : Nat) (who : Initiator) (n : Fin 4)
/-- `BS_START`. `GFE_n_BS_CTRL.BS_START` is written 1 (R187). -/
| bsStart (t : Nat) (who : Initiator) (n : Fin 4)
/-- `BS_ABORT`. `GFE_n_BS_CTRL.BS_ABORT` is written 1 (R192). -/
| bsAbort (t : Nat) (who : Initiator) (n : Fin 4)
/-- `TX_SEND`. `SND_CTRL.TX_SEND` is written 1 (R203). -/
| txSend (t : Nat) (who : Initiator)
/-- `SND_RX_POP`. `SND_CTRL.RX_POP` is written 1 (R206). -/
| sndRxPop (t : Nat) (who : Initiator)
/-- `SND_FRAME_START`. A waiting frame starts at its chip boundary (R203). -/
| sndFrameStart (t : Nat)
/-- `SND_FRAME_END`. The transmitted frame ends (R200). -/
| sndFrameEnd (t : Nat)
/-- `SND_FRAME_RECEIVED`. Correlator `c` delivers a frame with its CRC, which ended at instant `e`; it estimates the end at `est` (R206). -/
| sndFrameReceived (t : Nat) (c : Fin 16) (sender : BitVec 12) (ty : BitVec 4) (payload : Word) (crc : BitVec 16) (e est : Nat)
/-- `SHIFT_APPLY`. An application instant is reached (R208). -/
| shiftApply (t : Nat)
/-- `RESYNC_END`. The running `RESYNC` offset ends (R209). -/
| resyncEnd (t : Nat)
/-- `CLAIM_AGE_EXPIRY`. A received claim ages past `CLAIM_AGE` (R207). -/
| claimAgeExpiry (t : Nat)
/-- `RELOAD`. Carrier `c` reaches a reload instant (R218). -/
| reload (t : Nat) (c : Fin 16)
/-- `PWM_CCOMMIT`. `PWM_CCOMMIT` is written with the groups to commit (R219). -/
| pwmCcommit (t : Nat) (who : Initiator) (g : BitVec 4)
/-- `SLICE_EDGE`. The carrier of slice `i` reaches its next requested edge (R216). -/
| sliceEdge (t : Nat) (i : Fin 128)
/-- `DEAD_TIME_END`. The dead time of slice `i` expires (R217). -/
| deadTimeEnd (t : Nat) (i : Fin 128)
/-- `LEG_ENTRY`. The offset of the next entry of leg unit `g` is reached (R223). -/
| legEntry (t : Nat) (g : Fin 42)
/-- `LEG_STEP`. The dead time of the step of leg unit `g` expires (R224). -/
| legStep (t : Nat) (g : Fin 42)
/-- `TRG_COMPARE`. Trigger compare `k` of slice `i` is reached (R234). -/
| trgCompare (t : Nat) (i : Fin 128) (k : Fin 2)
/-- `TRIP_INPUT`. The filtered level of a trip input changes (R235). -/
| tripInput (t : Nat) (x : Fin 8) (high : Bool)
/-- `STADAN_SLOT`. A downstream slot of link `l` starts (R249). -/
| stadanSlot (t : Nat) (l : Fin 32)
/-- `EDGE_ELIGIBLE`. An edge of link `l` reaches its instant minus `LEAD` (R243). -/
| edgeEligible (t : Nat) (l : Fin 32)
/-- `UPSTREAM_FRAME`. An upstream frame of link `l` ends, its first bit received at `at_`, with or without a line error (R266). -/
| upstreamFrame (t : Nat) (l : Fin 32) (at_ : Nat) (lineOk : Bool) (bytes : List Byte)
/-- `LINK_DOWN`. No valid upstream frame of link `l` for 16 slots (R266). -/
| linkDown (t : Nat) (l : Fin 32)
/-- `DRIVER_FRAME`. A downstream frame ends at port `p` of the driver board of link `l` (R255). -/
| driverFrame (t : Nat) (l : Fin 32) (p : Fin 2) (lineOk : Bool) (bytes : List Byte)
/-- `DRIVER_CLAIM_LAPSE`. The claim of a port lapses (R254). -/
| driverClaimLapse (t : Nat) (l : Fin 32) (p : Fin 2)
/-- `DRIVER_EDGE_EXECUTE`. Accepted edges of a driver board reach their instant (R257). -/
| driverEdgeExecute (t : Nat) (l : Fin 32)
/-- `DRIVER_SILENCE`. No valid frame on any port for 16 slots (R261). -/
| driverSilence (t : Nat) (l : Fin 32)
/-- `DRIVER_GATE_FAULT`. The gate supply of a channel is lost (R261). -/
| driverGateFault (t : Nat) (l : Fin 32) (ch : Fin 6)
/-- `DRIVER_STATUS_SEND`. A driver board sends its `STATUS` frame on a port, with the detection bits, their instant and the temperature
  (R265). -/
| driverStatusSend (t : Nat) (l : Fin 32) (p : Fin 2) (desat : BitVec 6) (desatTs : Word) (temp : Byte)
/-- `AUX_START`. `AUX_m_CTRL.START` is written 1 (R284). -/
| auxStart (t : Nat) (who : Initiator) (m : Fin 6)
/-- `AUX_STOP`. `AUX_m_CTRL.STOP` is written 1 (R284). -/
| auxStop (t : Nat) (who : Initiator) (m : Fin 6)
/-- `AUX_CLEAR`. `AUX_m_CTRL.CLEAR` is written 1 (R284). -/
| auxClear (t : Nat) (who : Initiator) (m : Fin 6)
/-- `AUX_BUS_CROSSING`. The auxiliary bus crosses threshold `k` (0 `CHOP_OFF`, 1 `CHOP_ON`, 2–4 `AUX_OV_1`–`AUX_OV_3`), upwards or down past
  its hysteresis (R273). -/
| auxBusCrossing (t : Nat) (k : Fin 5) (up : Bool)
/-- `AUX_CHOP_VERIFY`. `CHOP_VERIFY` expires with `AUX_CHOP_IS` at this level (R275). -/
| auxChopVerify (t : Nat) (flows : Bool)
/-- `AUX_CURRENT_WINDOW`. Shunt window `k` (0 `ZERO_I`, 1 `I_LIM`, 2 `OC_LIM`) of half-bridge `h` asserts or ends, with the sign of the
  current (R278). -/
| auxCurrentWindow (t : Nat) (h : Fin 18) (k : Fin 3) (on sign : Bool)
/-- `BRK_OFF_END`. The braking gap of motor `m` ends (R287). -/
| brkOffEnd (t : Nat) (m : Fin 6)
/-- `BEMF_CROSSING`. The comparator of half-bridge `h` shows `level` on `ZC_FILT` valid samples, the first at `first` (R280). -/
| bemfCrossing (t : Nat) (h : Fin 18) (level : Bool) (first : Nat)
/-- `DEMAG_BLANK_END`. The blanking of motor `m` ends with its comparator at `level` (R281). -/
| demagBlankEnd (t : Nat) (m : Fin 6) (level : Bool)
/-- `COMMUTATION`. A due commutation of motor `m` takes effect (R279). -/
| commutation (t : Nat) (m : Fin 6)
/-- `FORCED_COMMUTATION`. No crossing of motor `m` by the end of the lost window (R283). -/
| forcedCommutation (t : Nat) (m : Fin 6)
/-- `OBS_TIME`. `OBS_TIME` of motor `m` elapses (R285). -/
| obsTime (t : Nat) (m : Fin 6)
/-- `STOP_CONFIRM`. `STOP_CONFIRM` of motor `m` passes without a crossing (R286). -/
| stopConfirm (t : Nat) (m : Fin 6)
/-- `ALIGN_END`. `ALIGN_TIME` of motor `m` ends (R288). -/
| alignEnd (t : Nat) (m : Fin 6)
/-- `RAMP_SECTOR_END`. A blind-ramp sector of motor `m` ends (R288). -/
| rampSectorEnd (t : Nat) (m : Fin 6)
/-- `OV_REL`. The bus has stayed below `AUX_OV_2` for `OV_REL` (R290). -/
| ovRel (t : Nat)
/-- `VDRV_UV`. VDRV falls below 8.5 V (R270). -/
| vdrvUv (t : Nat)
/-- `CP_UV`. The charge pump has been below 8.0 V for 10 µs, or is back (R270). -/
| cpUv (t : Nat) (low : Bool)
/-- `BST_UV`. The bootstrap of half-bridge `h` falls below 7.0 V (R270). -/
| bstUv (t : Nat) (h : Fin 18)
/-- `LATCH_CLEAR`. `PROT_SRC_LATCH_k` is written (R294). -/
| latchClear (t : Nat) (who : Initiator) (k : Fin 15) (w : Word)
/-- `WINDOW_COMPARATOR`. The filtered level of window comparator `x` changes (R296). -/
| windowComparator (t : Nat) (x : Fin 32) (on : Bool)
/-- `DC_THRESHOLD_CROSSING`. With these bits of chain `i` the DC-link value of thread `n` crosses a threshold (R297). -/
| dcThresholdCrossing (t : Nat) (n : Fin 4) (i : Fin 112) (bits : List Bool)
/-- `CHOP_VERIFY`. `CHOP_VERIFY` of thread `n` expires (R299). -/
| chopVerify (t : Nat) (n : Fin 4)
/-- `PITCH_REP`. `PITCH_REP` of thread `n` passes with `CHOP_FAULT` set (R299). -/
| pitchRep (t : Nat) (n : Fin 4)
/-- `CHOP_FAULT_CLEAR`. `CHOP_FAULT` of thread `n` is written 1 (R299). -/
| chopFaultClear (t : Nat) (who : Initiator) (n : Fin 4)
/-- `OV3_TRIP_CLEAR`. `OV3_TRIP` of thread `n` is written 1 (R300). -/
| ov3TripClear (t : Nat) (who : Initiator) (n : Fin 4)
/-- `STO_INPUT`. The filtered STO inputs become `a` and `b`, true for high (R305). -/
| stoInput (t : Nat) (a b : Bool)
/-- `STO_DISCREP`. The STO inputs have differed for longer than `STO_DISC` (R306). -/
| stoDiscrep (t : Nat)
/-- `STO_PATH_DISAGREE`. The STO path and the monitor disagree for 1 ms (R307). -/
| stoPathDisagree (t : Nat)
/-- `SMON_EVALUATION`. The safety monitor evaluates thread `n.1`; its program asks for `DISCHARGE` where `n.2` is true (R308). -/
| smonEvaluation (t : Nat) (n : Fin 4 × Bool)
/-- `SMON_REL`. `SMON_REL` is written with `KEY` 0xC5 and thread `n` (R309). -/
| smonRel (t : Nat) (who : Initiator) (n : Fin 4)
/-- `WATCHDOG_SERVICE`. `SMON_WD_p` is written (R310). -/
| watchdogService (t : Nat) (who : Initiator) (p : Fin 5) (v : BitVec 16)
/-- `WATCHDOG_TIMEOUT`. `WD_MAX` of pair `p` passes without service (R310). -/
| watchdogTimeout (t : Nat) (p : Fin 5)
/-- `DISCH_START`. `PROT_n_DISCH_CTRL.START` is written 1 (R312). -/
| dischStart (t : Nat) (who : Initiator) (n : Fin 4)
/-- `DISCH_ABORT`. `PROT_n_DISCH_CTRL.ABORT` is written 1 (R312). -/
| dischAbort (t : Nat) (who : Initiator) (n : Fin 4)
/-- `DISCH_T1`. `DISCH_T1` of thread `n` passes (R313). -/
| dischT1 (t : Nat) (n : Fin 4)
/-- `DISCH_T2`. A `DISCH_T2` interval of thread `n` ends (R313). -/
| dischT2 (t : Nat) (n : Fin 4)
/-- `DISCH_SAFE`. The link of thread `n` has stayed below `DISCH_SAFE` for 10 ms (R314). -/
| dischSafe (t : Nat) (n : Fin 4)
/-- `DISCH_DONE_CLEAR`. `DISCH_DONE` of thread `n` is written 1 (R314). -/
| dischDoneClear (t : Nat) (who : Initiator) (n : Fin 4)
/-- `CWY_LANES_UP`. All four lanes lock; the partner gives its image CRC, `PRIO`, state and running threads (R320). -/
| cwyLanesUp (t : Nat) (crc : Word) (prio : BitVec 4) (st : BitVec 3) (run : BitVec 4)
/-- `CWY_DOWN`. No valid `STATUS` frame for 10 µs, or only `lanes` still locked (R320). -/
| cwyDown (t : Nat) (lanes : BitVec 4)
/-- `PARTNER_SEARCH_TIMEOUT`. No partner within 2.0 s of boot (R319). -/
| partnerSearchTimeout (t : Nat)
/-- `CWY_TIME_SEND`. A `TIME` frame is sent (R324). -/
| cwyTimeSend (t : Nat)
/-- `CWY_STATUS_SEND`. A `STATUS` frame is sent (R322). -/
| cwyStatusSend (t : Nat)
/-- `CWY_END_FRAME`. An `END` frame arrives (R328). -/
| cwyEndFrame (t : Nat) (h : CwyHdr)
/-- `CWY_TIME_FRAME`. A `TIME` frame sent at `t1` arrives at `t2`; it names a frame of this device sent at `t3` that arrived at `t4` (R324).
  -/
| cwyTimeFrame (t : Nat) (h : CwyHdr) (t1 t2 t3 t4 : Nat)
/-- `CWY_DIGEST_FRAME`. A `DIGEST` frame arrives (R330). -/
| cwyDigestFrame (t : Nat) (h : CwyHdr) (input state : Dword) (flags : Word)
/-- `CWY_OVERRUN_FRAME`. An `OVERRUN` marker arrives (R330). -/
| cwyOverrunFrame (t : Nat) (h : CwyHdr)
/-- `CWY_LATCH_FRAME`. A `LATCH` frame arrives with signals, qualities and values (R326). -/
| cwyLatchFrame (t : Nat) (h : CwyHdr) (xs : List (BitVec 12 × Qual × Word))
/-- `CWY_MIRROR_FRAME`. A `MIRROR` frame arrives (R327). -/
| cwyMirrorFrame (t : Nat) (h : CwyHdr) (a : BitVec 32) (d : Word) (period : Word)
/-- `CWY_STATUS_FRAME`. A `STATUS` frame arrives: state, running threads, flags by thread, links up (R320). -/
| cwyStatusFrame (t : Nat) (h : CwyHdr) (st : BitVec 3) (run : BitVec 4) (flags : BitVec 6 × BitVec 6 × BitVec 6 × BitVec 6) (ups : BitVec
      32)
/-- `CWY_MSG_FRAME`. A forwarded message for endpoint `j` arrives (R339). -/
| cwyMsgFrame (t : Nat) (h : CwyHdr) (j : Fin 16) (bytes : List Byte)
/-- `CWY_MSG_ACK_FRAME`. A `MSG_ACK` frame arrives (R339). -/
| cwyMsgAckFrame (t : Nat) (h : CwyHdr) (ack : BitVec 32)
/-- `CWY_JOIN_FRAME`. A `JOIN` frame arrives with the timebase of the leader and its period counters (R323). -/
| cwyJoinFrame (t : Nat) (h : CwyHdr) (count : Nat) (p0 p1 p2 p3 : Word)
/-- `CWY_SNAP_FRAME`. A chunk of a snapshot arrives (R332). -/
| cwySnapFrame (t : Nat) (h : CwyHdr) (items : List SnapItem) (last : Bool) (size : BitVec 20)
/-- `DIGEST_TIMEOUT`. The digest of the partner is 5 µs late (R330). -/
| digestTimeout (t : Nat) (n : Fin 4)
/-- `MSG_RETRY`. No acknowledgement of a message within 50 µs (R339). -/
| msgRetry (t : Nat) (fseq : BitVec 32)
/-- `COAST_END`. The coast of the follower ends (R337). -/
| coastEnd (t : Nat)
/-- `CLK_TAKEOVER`. Two edges of modulator clock `k` are missing (R325). -/
| clkTakeover (t : Nat) (k : Fin 8)
/-- `MIRRORED_WRITE`. A register of the mirrored set is written (R327). -/
| mirroredWrite (t : Nat) (who : Initiator) (a : BitVec 32) (w : Word)
/-- `ISL_REFRESH`. `ISL_CMD` is written with command 1 (R356). -/
| islRefresh (t : Nat) (who : Initiator)
/-- `ISL_LOAD_LOG`. `ISL_CMD` is written with command 2 (R356). -/
| islLoadLog (t : Nat) (who : Initiator) (arg : BitVec 28)
/-- `ISL_ACKNOWLEDGE`. `ISL_CMD` is written with command 3 (R356). -/
| islAcknowledge (t : Nat) (who : Initiator)
/-- `ISL_TEST_MODE`. `ISL_CMD` is written with command 4 (R356). -/
| islTestMode (t : Nat) (who : Initiator) (arg : BitVec 28)
/-- `ISL_SNAPSHOT`. A snapshot arrives over the Strait, its first word at `first`, with a good CRC or not (R355). -/
| islSnapshot (t : Nat) (ok : Bool) (first : Nat)
/-- `ISL_PRESENT_TIMEOUT`. No valid snapshot for 1 s (R355). -/
| islPresentTimeout (t : Nat)
/-- `STRAIT_POWER_FALL`. Strait power falls; the energies of the partial quantum by phase, active and reactive, in nWh (R342). -/
| straitPowerFall (t : Nat) (e : List Int) (r : List Int)
/-- `STRAIT_POWER_RETURN`. Strait power returns, with the retention check passed or failed (R342). -/
| straitPowerReturn (t : Nat) (retained : Bool)
/-- `METER_WINDOW`. A measurement window ends with these quantities (R344). -/
| meterWindow (t : Nat) (m : IslMeas)
/-- `METER_QUANTUM`. A quantum ends with its energies by phase, active and reactive, in nWh (R345). -/
| meterQuantum (t : Nat) (e : List Int) (r : List Int)
/-- `METER_PULSE`. An owed pulse is issued on output P (false) or Q (R347). -/
| meterPulse (t : Nat) (o : Bool)
/-- `ISL_CLOCK_CHECK`. The converter clock was `dev` ppm off over a second (R343). -/
| islClockCheck (t : Nat) (dev : Int)
/-- `SEAL_CHANGE`. Five equal seal samples show a new state (R349). -/
| sealChange (t : Nat) (closed : Bool)
/-- `TEST_MODE_EXPIRY`. The pulse test mode has run for an hour (R348). -/
| testModeExpiry (t : Nat)
/-- `CAL_READ_ACTIVE`. Calibration-port command 0x01 (R351). -/
| calReadActive (t : Nat) (idx : Byte) (crcOk : Bool)
/-- `CAL_WRITE_STAGING`. Calibration-port command 0x02 (R351). -/
| calWriteStaging (t : Nat) (idx : Byte) (w : Word) (crcOk : Bool)
/-- `CAL_COMMIT`. Calibration-port command 0x03 (R350). -/
| calCommit (t : Nat) (idx : Byte) (crcOk : Bool)
/-- `CAL_READ_STAGING`. Calibration-port command 0x04 (R351). -/
| calReadStaging (t : Nat) (idx : Byte) (crcOk : Bool)
/-- `INTERVAL_CLOSE`. An interval of unit `u` closes, `drained` records having reached DRAM since the last close (R360). -/
| intervalClose (t : Nat) (u : Fin 8) (drained : Nat)
/-- `REC_ARM`. `REC_CAP_u_CTRL.ARM` is written 1 (R363). -/
| recArm (t : Nat) (who : Initiator) (u : Fin 8)
/-- `REC_STOP`. `REC_CAP_u_CTRL.STOP` is written 1 (R363). -/
| recStop (t : Nat) (who : Initiator) (u : Fin 8)
/-- `REC_FIRE`. `REC_FIRE` is written (R366). -/
| recFire (t : Nat) (who : Initiator) (mask : BitVec 8)
/-- `FIRE_AT`. Network time reaches `FIRE_AT` of unit `u` (R367). -/
| fireAt (t : Nat) (u : Fin 8)
/-- `TRIG_BUS_EDGE`. Line `b` of the trigger bus has been low for 20 samples after `high` (R368). -/
| trigBusEdge (t : Nat) (b : Fin 4) (high : Nat)
/-- `TRIG_BUS_DRIVE_END`. The drive of line `b` ends (R368). -/
| trigBusDriveEnd (t : Nat) (b : Fin 4)
/-- `HOLD_T_END`. The timed hold-off of unit `u` ends (R363). -/
| holdTEnd (t : Nat) (u : Fin 8)
/-- `SLOT_COMPLETE`. The records and header of a slot of unit `u` are in DRAM (R362). -/
| slotComplete (t : Nat) (u : Fin 8)
/-- `SLOT_FREE`. `REC_CAP_u_FULL` is written (R362). -/
| slotFree (t : Nat) (who : Initiator) (u : Fin 8) (w : Word)
/-- `REC_SERVICE_WRITE`. `SERVICE` of unit `u` is written (R365). -/
| recServiceWrite (t : Nat) (who : Initiator) (u : Fin 8) (v : BitVec 2)
/-- `TIME_INC_WRITE`. `TIME_INC_FRAC`, the second word of the pair, is written (R371). -/
| timeIncWrite (t : Nat) (who : Initiator) (w : Word)
/-- `TIME_SET`. `TIME_CTRL.SET` is written 1 (R372). -/
| timeSet (t : Nat) (who : Initiator)
/-- `TIME_STEP`. `TIME_CTRL.STEP` is written 1 (R372). -/
| timeStep (t : Nat) (who : Initiator)
/-- `TIME_NS_READ`. `TIME_NS` is read (R373). -/
| timeNsRead (t : Nat) (who : Initiator)
/-- `PWM_TB_LO_READ`. `PWM_TB_LO` is read (R212). -/
| pwmTbLoRead (t : Nat) (who : Initiator)
/-- `OMEGA_ACC_HI_READ`. `GFE_n_OMEGA_ACC_HI` is read (R154). -/
| omegaAccHiRead (t : Nat) (who : Initiator) (n : Fin 4)
/-- `PMU_EVEN_READ`. Counter 2 `c` of pair `p` is read (R426). -/
| pmuEvenRead (t : Nat) (who : Initiator) (p : Fin 5) (c : Fin 4)
/-- `ETH_FRAME_INGRESS`. A frame enters port `p` of the switch: its bytes from the destination address up to the check sequence (R375). -/
| ethFrameIngress (t : Nat) (p : Fin 3) (bytes : List Byte)
/-- `ETH_FRAME_EGRESS`. A queued frame leaves port `p` (R377). -/
| ethFrameEgress (t : Nat) (p : Fin 3)
/-- `PDELAY_EXCHANGE`. A peer-delay exchange of port `p` gives its four instants, in units of 2^-16 ns (R378). -/
| pdelayExchange (t : Nat) (p : Fin 2) (t1 t2 t3 t4 : Int)
/-- `MAC_AGE_OUT`. A learned address has not been seen for 300 s (R375). -/
| macAgeOut (t : Nat) (a : BitVec 48)
/-- `ETH_TS_POP`. `ETH_TS_3` is read (R379). -/
| ethTsPop (t : Nat) (who : Initiator)
/-- `ULILE_REQUEST`. A request arrives (R382). -/
| ulileRequest (t : Nat) (via : UliVia) (bytes : List Byte)
/-- `ULILE_READ`. The agent reads the next point of the request in hand (R383). -/
| ulileRead (t : Nat)
/-- `ULILE_WRITE`. The agent writes the next point of the request in hand (R384). -/
| ulileWrite (t : Nat)
/-- `ULILE_MEMORY_READ`. The agent reads memory for the request in hand (R384). -/
| ulileMemoryRead (t : Nat)
/-- `ULILE_IDENTIFY`. The agent forms the next item of an identify reply (R382). -/
| ulileIdentify (t : Nat)
/-- `CAN_TX_REQ`. `CAN_k_TX_REQ` is written (R389). -/
| canTxReq (t : Nat) (who : Initiator) (k : Fin 4) (b : BitVec 3)
/-- `CAN_TX_ABORT`. `CAN_k_TX_ABORT` is written (R392). -/
| canTxAbort (t : Nat) (who : Initiator) (k : Fin 4) (b : BitVec 3)
/-- `CAN_ARBITRATION`. Controller `k` has an arbitration opportunity, which it wins or loses (R390). -/
| canArbitration (t : Nat) (k : Fin 4) (lost : Bool)
/-- `CAN_TX_SUCCESS`. The frame that controller `k` transmits becomes valid, with the delay measured in CAN clocks (R393). -/
| canTxSuccess (t : Nat) (k : Fin 4) (tdc : Nat)
/-- `CAN_FRAME_ERROR`. An error during a frame of controller `k` (R391). -/
| canFrameError (t : Nat) (k : Fin 4) (e : CanErr)
/-- `BUS_OFF_RECOVERY_COUNT`. 128 sequences of 11 recessive bits have been seen in bus-off (R403). -/
| busOffRecoveryCount (t : Nat) (k : Fin 4)
/-- `BO_RECOVER`. `BO_RECOVER` of controller `k` is written 1 (R403). -/
| boRecover (t : Nat) (who : Initiator) (k : Fin 4)
/-- `CAN_RX_FRAME`. A valid frame with start of frame at `sof` is received (R394). -/
| canRxFrame (t : Nat) (k : Fin 4) (sof : Nat) (f : CanFrame)
/-- `CAN_RX_POP`. `RX_POP` of controller `k` is written 1 (R396). -/
| canRxPop (t : Nat) (who : Initiator) (k : Fin 4)
/-- `CAN_RXA_REL`. `CAN_k_RXA_REL` is written (R395). -/
| canRxaRel (t : Nat) (who : Initiator) (k : Fin 4) (b : BitVec 8)
/-- `TSC_CAP`. `TSC_CAP` of controller `k` is written 1 (R398). -/
| tscCap (t : Nat) (who : Initiator) (k : Fin 4)
/-- `SLEEP_REQ`. `SLEEP_REQ` of controller `k` is written 1 (R399). -/
| sleepReq (t : Nat) (who : Initiator) (k : Fin 4)
/-- `CAN_SLEEP_ENTRY`. 11 recessive bits have passed on the way into sleep (R399). -/
| canSleepEntry (t : Nat) (k : Fin 4)
/-- `CAN_WAKE`. The wake matcher of controller `k` sees a pattern, a frame or an erroneous frame (R401). -/
| canWake (t : Nat) (k : Fin 4) (seen : WakeSeen)
/-- `LOCKSTEP_MISMATCH`. The comparator of pair `p` mismatches (R407). -/
| lockstepMismatch (t : Nat) (p : Fin 5)
/-- `CP_RESTART`. `SYS_CP_p_CTRL.RESTART` is written 1 (R407). -/
| cpRestart (t : Nat) (who : Initiator) (p : Fin 5)
/-- `IRQ_CLAIM`. A claim register of pair `p` is read, of machine or of supervisor mode (R411). -/
| irqClaim (t : Nat) (who : Initiator) (p : Fin 5) (sup : Bool)
/-- `IRQ_COMPLETE`. A claim register of pair `p` is written (R411). -/
| irqComplete (t : Nat) (who : Initiator) (p : Fin 5) (sup : Bool) (w : Word)
/-- `SWI_SET`. `SYS_SWI` is written (R411). -/
| swiSet (t : Nat) (who : Initiator) (b : BitVec 8)
/-- `SCRUB_PASS`. A scrub pass ends, with the addresses at which it corrected and those at which it could not (R414). -/
| scrubPass (t : Nat) (corr unc : List Nat)
/-- `IOMMU_INVALIDATE`. `IOMMU_INV` is written (R416). -/
| iommuInvalidate (t : Nat) (who : Initiator) (w : Word)
/-- `IOMMU_INV_COMPLETE`. The running invalidation completes (R416). -/
| iommuInvComplete (t : Nat)
/-- `IOMMU_FAULT_POP`. `IOMMU_FAULT_2` is read (R415). -/
| iommuFaultPop (t : Nat) (who : Initiator)
/-- `FERRY_GO`. `GO` of Ferry queue `q` is written 1 (R417). -/
| ferryGo (t : Nat) (who : Initiator) (q : Fin 32)
/-- `FERRY_ABORT`. `ABORT` of Ferry queue `q` is written 1 (R422). -/
| ferryAbort (t : Nat) (who : Initiator) (q : Fin 32)
/-- `FERRY_RESUME`. `RESUME` of Ferry queue `q` is written 1 (R421). -/
| ferryResume (t : Nat) (who : Initiator) (q : Fin 32)
/-- `FERRY_BURST_START`. Ferry chooses a queue and starts its burst (R420). -/
| ferryBurstStart (t : Nat)
/-- `FERRY_BURST_COMPLETE`. The burst that runs ends; its reads met errors at these addresses (R418). -/
| ferryBurstComplete (t : Nat) (corr unc : List Nat)
/-- `PMU_OVERFLOW`. Counter `c` of pair `p` overflows (R426). -/
| pmuOverflow (t : Nat) (p : Fin 5) (c : Fin 8)
/-- `PMU_FREEZE_WRITE`. `PMU_FREEZE.FROZEN` is written (R427). -/
| pmuFreezeWrite (t : Nat) (who : Initiator) (b : Bool)
/-- `JTAG_INSTRUCTION`. A JTAG instruction is loaded (R428). -/
| jtagInstruction (t : Nat) (x : Tap)
/-- `DBG_LEVEL_WRITE`. `SYS_DBG.LEVEL` is written (R428). -/
| dbgLevelWrite (t : Nat) (who : Initiator) (v : BitVec 2)
/-- `DEBUG_HALT`. The debug bus halts pair `p` (R428). -/
| debugHalt (t : Nat) (p : Fin 5)
/-- `DEBUG_STEP`. The debug bus steps pair `p` (R428). -/
| debugStep (t : Nat) (p : Fin 5)
/-- `DEBUG_RESUME`. The debug bus resumes pair `p` (R428). -/
| debugResume (t : Nat) (p : Fin 5)
/-- `DEBUG_FORCE`. `SYS_DBG_FORCE_k` is enabled for signal `i` (R429). -/
| debugForce (t : Nat) (who : Initiator) (k : Fin 8) (i : Fin 4096)
/-- `POWER_ON_RESET`. A supply is below its threshold (R431). -/
| powerOnReset (t : Nat)
/-- `RESET_N`. `RESET_N` has been low for 1 µs (R431). -/
| resetN (t : Nat)
/-- `SOFTWARE_RESET`. `BOOT_RESET` is written with `KEY` 0x5A and `GO` (R431). -/
| softwareReset (t : Nat) (who : Initiator)
/-- `DEBUG_RESET`. A reset is requested over the debug bus (R431). -/
| debugReset (t : Nat)
/-- `TAP_RESET`. The test access port is reset (R431). -/
| tapReset (t : Nat)
/-- `RESET_RELEASE`. Internal reset is released, with what boot meets (R433). -/
| resetRelease (t : Nat) (x : ReleaseIn)
/-- `FLASH_READ`. `BOOT_FLASH_CMD` is written with operation 1 (R448). -/
| flashRead (t : Nat) (who : Initiator)
/-- `FLASH_PROGRAM`. `BOOT_FLASH_CMD` is written with operation 2 (R448). -/
| flashProgram (t : Nat) (who : Initiator)
/-- `FLASH_ERASE`. `BOOT_FLASH_CMD` is written with operation 3 (R448). -/
| flashErase (t : Nat) (who : Initiator)
/-- `FLASH_OP_COMPLETE`. The flash operation under way ends, well or with an error (R448). -/
| flashOpComplete (t : Nat) (ok : Bool)
/-- `OTP_ADV_SECVER`. `BOOT_OTP_CMD` is written with `KEY` 0xC3 and `ADV_SECVER` (R449). -/
| otpAdvSecver (t : Nat) (who : Initiator)
/-- `OTP_REVOKE`. `BOOT_OTP_CMD` is written with `KEY` 0xC3, `REVOKE` and slot `k` (R449). -/
| otpRevoke (t : Nat) (who : Initiator) (k : Fin 4)
/-- `WEAR_EVALUATION`. Monitor `m` is evaluated: the drift measured, and the readings of the control die's temperature sensors in 1/16 °C,
  `lo` of sensors 0 and 1, `hi` of sensors 2 and 3 (R451, R469). -/
| wearEvaluation (t : Nat) (m : Fin 8) (v : Nat) (lo hi : Int × Int)
/-- `PDM_OFF`. `PDM_OFF` is written (R464). -/
| pdmOff (t : Nat) (who : Initiator) (b : BitVec 16)
/-- `PDM_ON`. `PDM_ON` is written (R464). -/
| pdmOn (t : Nat) (who : Initiator) (b : BitVec 16)
/-- `DOMAIN_OFF_COMPLETE`. Domain `d` is off and isolated (R464). -/
| domainOffComplete (t : Nat) (d : Fin 16)
/-- `DOMAIN_ON_COMPLETE`. Domain `d` is fully powered (R464). -/
| domainOnComplete (t : Nat) (d : Fin 16)
/-- `MONITOR_LOCKSTEP_FAULT`. The lockstep comparison of the safety monitor fails (R307). -/
| monitorLockstepFault (t : Nat)
/-- `TM6_PERIOD_STALL`. The period counter of thread `n` has not advanced for four periods (R311). -/
| tm6PeriodStall (t : Nat) (n : Fin 4)
/-- `PORT_SYNC_LOSS`. A port silent for 16 slots loses `SYNCED` (R252). -/
| portSyncLoss (t : Nat) (l : Fin 32) (p : Fin 2)
/-- `DRIVER_GATE_SUPPLY_RETURN`. The gate supply of a channel returns (R261). -/
| driverGateSupplyReturn (t : Nat) (l : Fin 32) (ch : Fin 6)
/-- `DRIVER_POWER_UP`. A driver board powers up (R261). -/
| driverPowerUp (t : Nat) (l : Fin 32)
/-- `VDRV_UV_END`. VDRV rises back above its threshold (R270). -/
| vdrvUvEnd (t : Nat)
/-- `BST_UV_END`. The bootstrap of half-bridge `h` rises back above 7.0 V (R270). -/
| bstUvEnd (t : Nat) (h : Fin 18)
/-- `ETH_LINK_CHANGE`. External port `p` gains or loses its link (R375). -/
| ethLinkChange (t : Nat) (p : Fin 2) (up : Bool)
/-- `DRAM_TRAINING_COMPLETE`. DRAM training completes (R464). -/
| dramTrainingComplete (t : Nat)
  deriving DecidableEq, Repr

end Sys2Proof
end

