-- ==== Sys2Proof/Config.lean ====
section
/-! DEFINITION. Constants of the model that the spec does not fix: the free values (no body: nothing can be proved of them
but what a statement assumes). Each is named in a row of the assumption log. -/

namespace Sys2Proof.Config

/-- Free 32-bit values, one per count of the state's free-value counter (log 10). -/
opaque freeWord : Nat → BitVec 32

/-- Content of memory byte `a` after the reset or power-up number `epoch` (R432, R464: not promised; log 11). -/
opaque freeByte : Nat → Nat → BitVec 8

/-- Deviation, in units of 2^-28, of the device's sine from the exact one, before the bound given with R124 is applied (log 12). -/
opaque sinDev : Nat → Int

/-- Deviation of the device's cosine, as for `sinDev` (log 12). -/
opaque cosDev : Nat → Int

/-- The result of a division whose divisor is 0, by place in the model and dividend: the spec states none (log 15). -/
opaque divZero : Nat → Int → Int

/-- Pole pairs of the machine behind position interface `k`, which R131 uses and no register holds (log 16). -/
opaque polePairs : Nat → Nat

/-- The watchdog token drawn at an accepted service, by draw number (R310; log 13). -/
opaque wdToken : Nat → BitVec 16

/-- Turnaround of the driver board of a link, before the bounds of R265 (log 14). -/
opaque driverTurn : Nat → Nat

/-- What one dispatch slot of a core meets in a cycle (R425): whether an instruction is ready to be dispatched in it, and then whether it later
retires and after how many core cycles it retires or is discarded; and what else would hold dispatch. -/
structure Slot where
  ready : Bool
  retires : Bool
  ends : Nat
  sync : Bool
  data : Bool
  unit : Bool
  fetch : Bool
  deriving DecidableEq, Repr, Inhabited

/-- What a core pair does in one core cycle: its privilege mode (0 U, 1 S, 3 M), its two slots, and the events of Table 20.4 it makes beside
them, by code. -/
structure CoreCycle where
  mode : Nat
  slot0 : Slot
  slot1 : Slot
  others : Nat → Nat
  deriving Inhabited

/-- What core pair `p` does in core cycle `k`, counted from power-up: the programs of the cores are not in the model (log 57). -/
opaque coreCycle : (p k : Nat) → CoreCycle

end Sys2Proof.Config
end

