-- ==== Sys2Proof/Machine/Bits.lean ====
section
/-! DEFINITION. Bit fields, sign extension, byte order and the rounding and saturation of R9. -/

namespace Sys2Proof.Machine

/-- Bits `hi:lo` of a natural number. -/
def natBits (x hi lo : Nat) : Nat := x / 2 ^ lo % 2 ^ (hi + 1 - lo)

/-- Field `[hi:lo]` of a register word, as an unsigned number. -/
def fieldOf (w : Word) (hi lo : Nat) : Nat := natBits w.toNat hi lo

/-- Bit `i` of a register word. -/
def bitOf (w : Word) (i : Nat) : Bool := w.getLsbD i

/-- The mask of bits `hi:lo`. -/
def maskOf (hi lo : Nat) : Nat := (2 ^ (hi + 1 - lo) - 1) * 2 ^ lo

/-- The word with field `[hi:lo]` replaced by the low bits of `v`. -/
def withField (w : Word) (hi lo v : Nat) : Word :=
  BitVec.ofNat 32 (w.toNat - fieldOf w hi lo * 2 ^ lo + v % 2 ^ (hi + 1 - lo) * 2 ^ lo)

/-- The word with bit `i` set to `b`. -/
def withBit (w : Word) (i : Nat) (b : Bool) : Word :=
  if b then w ||| BitVec.ofNat 32 (2 ^ i) else w &&& ~~~ (BitVec.ofNat 32 (2 ^ i))

/-- The two's-complement value of the low `n` bits of `x`. -/
def signedOf (n x : Nat) : Int :=
  let m := x % 2 ^ n
  if 2 * m < 2 ^ n then (m : Int) else (m : Int) - (2 ^ n : Nat)

/-- The signed value of a word. -/
def sval (w : Word) : Int := w.toInt

/-- The word that holds an integer modulo 2^32. -/
def wordOf (x : Int) : Word := BitVec.ofInt 32 x

/-- The word that holds a natural number modulo 2^32. -/
def wordN (x : Nat) : Word := BitVec.ofNat 32 x

/-- `1` for true and `0` for false. -/
def b2n (b : Bool) : Nat := if b then 1 else 0

/-- Clamp an integer between two limits; where they cross, the lower limit is applied last. -/
def clampI (lo hi x : Int) : Int := max lo (min hi x)

/-- Saturation to a signed format of `n` bits (R9). -/
def satS (n : Nat) (x : Int) : Int := clampI (-(2 ^ (n - 1) : Nat)) ((2 ^ (n - 1) : Nat) - 1) x

/-- Saturation to an unsigned format of `n` bits. -/
def satU (n x : Nat) : Nat := min (2 ^ n - 1) x

/-- Saturation to a signed 32-bit format, and whether it was needed. -/
def sat32 (x : Int) : Int := satS 32 x

/-- Whether `x` lies outside the signed 32-bit range. -/
def over32 (x : Int) : Bool := !decide (satS 32 x = x)

/-- Division by `2^n` rounding half up: `⌊x / 2^n + 1/2⌋` (R9). -/
def shrRound (x : Int) (n : Nat) : Int :=
  if n = 0 then x else (x + (2 ^ (n - 1) : Nat)).fdiv (2 ^ n : Nat)

/-- Division by a positive number rounding half up (R9). -/
def divRound (x : Int) (d : Nat) : Int := (2 * x + d).fdiv (2 * d)

/-- Division towards minus infinity. -/
def divFloor (x : Int) (d : Nat) : Int := x.fdiv d

/-- Product of two Q4.28 numbers, rounded half up to Q4.28, without saturation. -/
def mulQ28 (a b : Int) : Int := shrRound (a * b) 28

/-- One bit of the integer square root, `n` steps from the highest bit down. -/
def isqrtStep : Nat → Nat → Nat → Nat
  | 0, _, r => r
  | n + 1, x, r =>
    let c := r + 2 ^ n
    isqrtStep n x (if c * c ≤ x then c else r)

/-- Integer square root, rounded down, of a number below `2^256`. -/
def isqrt (x : Nat) : Nat := isqrtStep (x.log2 / 2 + 1) x 0

/-- Square root rounded half up. -/
def isqrtRound (x : Nat) : Nat := (isqrt (4 * x) + 1) / 2

/-- The bytes of `x`, least significant first, `n` of them. -/
def bytesLE : Nat → Nat → List Byte
  | 0, _ => []
  | n + 1, x => BitVec.ofNat 8 x :: bytesLE n (x / 256)

/-- The number whose bytes are given, least significant first. -/
def natLE : List Byte → Nat
  | [] => 0
  | b :: bs => b.toNat + 256 * natLE bs

/-- The number whose bytes are given, most significant first. -/
def natBE (bs : List Byte) : Nat := natLE bs.reverse

/-- The bytes of `x`, most significant first, `n` of them. -/
def bytesBE (n x : Nat) : List Byte := (bytesLE n x).reverse

/-- A list index with a default. -/
def nth {α : Type} (d : α) : List α → Nat → α
  | [], _ => d
  | x :: _, 0 => x
  | _ :: xs, n + 1 => nth d xs n

/-- A list with element `n` replaced; unchanged where there is none. -/
def setNth {α : Type} : List α → Nat → α → List α
  | [], _, _ => []
  | _ :: xs, 0, v => v :: xs
  | x :: xs, n + 1, v => x :: setNth xs n v

/-- A list of `n` entries whose missing ones are `d`. -/
def padTo {α : Type} (d : α) (n : Nat) (l : List α) : List α := l.take n ++ List.replicate (n - l.length) d

/-- The number of set bits among the low `n` bits of `x`. -/
def popcount : Nat → Nat → Nat
  | 0, _ => 0
  | n + 1, x => x % 2 + popcount n (x / 2)

/-- Bit `i` of a natural number. -/
def natBit (x i : Nat) : Bool := decide (x / 2 ^ i % 2 = 1)

/-- The natural number with bit `i` set to `b`. -/
def setNatBit (x i : Nat) (b : Bool) : Nat :=
  if natBit x i = b then x else if b then x + 2 ^ i else x - 2 ^ i

/-- One step of a bitwise CRC that shifts left: `w` bits wide, polynomial `p`. -/
def crcStepL (w p c : Nat) (b : Bool) : Nat :=
  let top := natBit c (w - 1)
  let c' := c * 2 % 2 ^ w
  if top != b then Nat.xor c' p else c'

/-- One byte of a reflected CRC, `n` steps. -/
def crcByteR (p : Nat) : Nat → Nat → Nat
  | 0, c => c
  | n + 1, c => crcByteR p n (if c % 2 = 1 then Nat.xor (c / 2) p else c / 2)

/-- A reflected CRC over bytes from the register value `c`. -/
def crcBytesR (p : Nat) : List Byte → Nat → Nat
  | [], c => c
  | b :: bs, c => crcBytesR p bs (crcByteR p 8 (Nat.xor c b.toNat))

/-- The CRC-32C of R321. -/
def crc32c (bs : List Byte) : Nat := Nat.xor (crcBytesR 0x82F63B78 bs 0xFFFFFFFF) 0xFFFFFFFF

/-- The bits of a byte, most significant first. -/
def byteBits (b : Byte) : List Bool :=
  [b.getLsbD 7, b.getLsbD 6, b.getLsbD 5, b.getLsbD 4, b.getLsbD 3, b.getLsbD 2, b.getLsbD 1, b.getLsbD 0]

/-- A left-shifting CRC over bits. -/
def crcBitsL (w p : Nat) : List Bool → Nat → Nat
  | [], c => c
  | b :: bs, c => crcBitsL w p bs (crcStepL w p c b)

/-- A left-shifting CRC over bytes, most significant bit first. -/
def crcBytesL (w p : Nat) : List Byte → Nat → Nat
  | [], c => c
  | b :: bs, c => crcBytesL w p bs (crcBitsL w p (byteBits b) c)

end Sys2Proof.Machine
end

