-- ==== Sys2Proof/Machine/RegMap.lean ====
section
/-! DEFINITION. The register map (R4, R6, R484): for every register of every block its place, its bits by access code
 and its reset value, one row per register or family of registers. Written from the register tables of spec/. -/

namespace Sys2Proof.Machine

/-- One row of the register map: the registers at `base + Σ stride × index` for the `dims` (stride, count) given. `bits` are the
implemented bits (every other bit is reserved, R5); `rw`, `w1c`, `cmd` (W1S and WO) and `lock` the bits of those access codes (R6),
the rest of `bits` being RO; `img` the RO bits that the configuration image loads (R439, R447); `reset` the reset value. -/
structure RegRow where
  base  : Nat
  dims  : List (Nat × Nat)
  bits  : Nat
  rw    : Nat
  w1c   : Nat
  cmd   : Nat
  lock  : Nat
  img   : Nat
  reset : Nat
  deriving DecidableEq, Repr

/-- Rows of the block at 0x4000_0000. -/
def regRows400 : List RegRow :=
  [ ⟨0x40000000, [], 0xFFFFF8FF, 0x0, 0x0, 0x0, 0x0, 0x0, 0x48964821⟩ /- SYS_ID -/
  , ⟨0x40000004, [], 0x1, 0x0, 0x0, 0x1, 0x0, 0x0, 0x0⟩ /- SYS_LOCK -/
  , ⟨0x40000008, [], 0xFFFFFF87, 0x0, 0x0, 0x0, 0x0, 0x0, 0x0⟩ /- SYS_STATE -/
  , ⟨0x4000000C, [], 0x800000F3, 0x0, 0x0, 0x0, 0x0, 0x0, 0x0⟩ /- SYS_STRAP -/
  , ⟨0x40000100, [(0x10, 5)], 0x1, 0x0, 0x0, 0x1, 0x0, 0x0, 0x0⟩ /- SYS_CP_p_CTRL -/
  , ⟨0x40000104, [(0x10, 5)], 0xF800FFFF, 0x0, 0x8000000, 0x0, 0x0, 0x0, 0x0⟩ /- SYS_CP_p_STATUS -/
  , ⟨0x40000108, [(0x10, 5)], 0xFFFFFFFC, 0x0, 0x0, 0x0, 0xFFFFFFFC, 0x0, 0x0⟩ /- SYS_CP_p_VECTOR -/
  , ⟨0x40000200, [], 0x303, 0x0, 0x0, 0x0, 0x0, 0x300, 0x0⟩ /- SYS_DBG -/
  , ⟨0x40000210, [(0x8, 8)], 0xE0000FFF, 0x0, 0x60000000, 0x0, 0x0, 0x0, 0xFFF⟩ /- SYS_DBG_FORCE_k -/
  , ⟨0x40000214, [(0x8, 8)], 0xFFFFFFFF, 0xFFFFFFFF, 0x0, 0x0, 0x0, 0x0, 0x0⟩ /- SYS_DBG_FORCE_k_VAL -/
  , ⟨0x40001010, [(0x4, 252)], 0xA00F001F, 0xA00F001F, 0x0, 0x0, 0x0, 0x0, 0x0⟩ /- SYS_IRQ_s_CFG -/
  , ⟨0x40001800, [(0x10, 5)], 0xF000F, 0xF000F, 0x0, 0x0, 0x0, 0x0, 0x0⟩ /- SYS_IRQ_p_THRESH -/
  , ⟨0x40001808, [(0x10, 5)], 0xFF, 0x0, 0x0, 0xFF, 0x0, 0x0, 0x0⟩ /- SYS_IRQ_p_CLAIM_M -/
  , ⟨0x4000180C, [(0x10, 5)], 0xFF, 0x0, 0x0, 0xFF, 0x0, 0x0, 0x0⟩ /- SYS_IRQ_p_CLAIM_S -/
  , ⟨0x40001900, [(0x4, 8)], 0xFFFFFFFF, 0x0, 0x0, 0x0, 0x0, 0x0, 0x0⟩ /- SYS_IRQ_PEND_w -/
  , ⟨0x40001920, [], 0x800000FF, 0x0, 0x80000000, 0x0, 0x0, 0x0, 0x0⟩ /- SYS_IRQ_ERR -/
  , ⟨0x40001940, [], 0xFF, 0x0, 0x0, 0xFF, 0x0, 0x0, 0x0⟩ /- SYS_SWI -/
  , ⟨0x40002000, [], 0x700FF, 0x0, 0x0, 0x0, 0x0, 0xFF, 0x18⟩ /- SYS_MEM_CFG -/
  , ⟨0x40002010, [(0x4, 4)], 0xFFFFFFFF, 0x0, 0x0, 0x0, 0x0, 0x0, 0x0⟩ /- SYS_ECC_m -/
  , ⟨0x40002020, [], 0xFFFFFFFF, 0x0, 0x0, 0x0, 0x0, 0x0, 0x0⟩ /- SYS_ECC_ADDR_LO -/
  , ⟨0x40002024, [], 0x80000007, 0x0, 0x80000000, 0x0, 0x0, 0x0, 0x0⟩ /- SYS_ECC_ADDR_HI -/
  ]

/-- Rows of the block at 0x4010_0000. -/
def regRows401 : List RegRow :=
  [ ⟨0x40100000, [], 0x1F, 0x0, 0x0, 0x0, 0x0, 0x0, 0x0⟩ /- CRU_STATUS -/
  ]

/-- Rows of the block at 0x4020_0000. -/
def regRows402 : List RegRow :=
  [ ⟨0x40200000, [], 0xFFFF, 0x0, 0x0, 0x0, 0x0, 0x0, 0xFEFF⟩ /- PDM_STATUS -/
  , ⟨0x40200004, [], 0xFFFF, 0x0, 0x0, 0xFFFF, 0x0, 0x0, 0x0⟩ /- PDM_OFF -/
  , ⟨0x40200008, [], 0xFFFF, 0x0, 0x0, 0xFFFF, 0x0, 0x0, 0x0⟩ /- PDM_ON -/
  , ⟨0x4020000C, [], 0x8000000F, 0x0, 0x80000000, 0x0, 0x0, 0x0, 0x0⟩ /- PDM_ERR -/
  , ⟨0x40200010, [], 0x1, 0x0, 0x0, 0x0, 0x0, 0x1, 0x0⟩ /- PDM_CFG -/
  , ⟨0x40200020, [(0x4, 4)], 0xFFFF, 0x0, 0x0, 0x0, 0x0, 0x0, 0x0⟩ /- PDM_TEMP_k -/
  , ⟨0x40200030, [], 0xFFFF, 0x0, 0x0, 0x0, 0x0, 0x0, 0x8000⟩ /- PDM_TEMP_MAX -/
  ]

/-- Rows of the block at 0x4030_0000. -/
def regRows403 : List RegRow :=
  [ ⟨0x40304000, [], 0x80000FFF, 0x0, 0x80000000, 0x0, 0x0, 0x0, 0x0⟩ /- SEQ_ERR -/
  , ⟨0x40300000, [(0x1000, 4)], 0x3, 0x0, 0x0, 0x3, 0x0, 0x0, 0x0⟩ /- SEQ_n_CTRL -/
  , ⟨0x40300004, [(0x1000, 4)], 0xFFFFF, 0x0, 0x0, 0x0, 0x0, 0xFFFFF, 0x0⟩ /- SEQ_n_PERIOD -/
  , ⟨0x40300008, [(0x1000, 4)], 0xFFFFF, 0x0, 0x0, 0x0, 0x0, 0xFFFFF, 0x0⟩ /- SEQ_n_ADVANCE -/
  , ⟨0x4030000C, [(0x1000, 4)], 0xFF, 0x0, 0x0, 0x0, 0x0, 0xFF, 0x3⟩ /- SEQ_n_CFG -/
  , ⟨0x40300010, [(0x1000, 4)], 0x3F3F, 0x0, 0x3E, 0x0, 0x0, 0x0, 0x0⟩ /- SEQ_n_STATUS -/
  , ⟨0x40300014, [(0x1000, 4)], 0xFFFFFFFF, 0x0, 0x0, 0x0, 0x0, 0x0, 0x0⟩ /- SEQ_n_OVR_COUNT -/
  , ⟨0x40300018, [(0x1000, 4)], 0xFF, 0x0, 0x0, 0x0, 0x0, 0x0, 0x0⟩ /- SEQ_n_CONSEC -/
  , ⟨0x4030001C, [(0x1000, 4)], 0x1, 0x0, 0x0, 0x1, 0x0, 0x0, 0x0⟩ /- SEQ_n_CORE_DONE -/
  , ⟨0x40300100, [(0x1000, 4), (0x4, 64)], 0xF03FFFFF, 0x0, 0x0, 0x0, 0x0, 0xF03FFFFF, 0x0⟩ /- SEQ_n_STEP_s -/
  , ⟨0x40310000, [(0x20, 128)], 0xFFFFFFFF, 0x0, 0x0, 0x0, 0x0, 0xFFFFFFFF, 0x0⟩ /- SEQ_PAIR_p_CFG -/
  , ⟨0x40310004, [(0x20, 128)], 0xFFF0FFF, 0x0, 0x0, 0x0, 0x0, 0xFFF0FFF, 0xFFF0FFF⟩ /- SEQ_PAIR_p_SIG -/
  , ⟨0x40310008, [(0x20, 128)], 0xFFFFFFFF, 0x0, 0x0, 0x0, 0x0, 0xFFFFFFFF, 0x0⟩ /- SEQ_PAIR_p_WIN -/
  , ⟨0x4031000C, [(0x20, 128)], 0xFFFFFF00, 0x0, 0x0, 0x0, 0x0, 0xFFFFFF00, 0x1010000⟩ /- SEQ_PAIR_p_CNT -/
  , ⟨0x40310010, [(0x20, 128)], 0xFFFF003F, 0x0, 0x8, 0x0, 0x0, 0x0, 0x0⟩ /- SEQ_PAIR_p_STATUS -/
  , ⟨0x40310014, [(0x20, 128)], 0x3, 0x0, 0x0, 0x3, 0x0, 0x0, 0x0⟩ /- SEQ_PAIR_p_CTRL -/
  , ⟨0x40310018, [(0x20, 128)], 0xFFFFFFFF, 0x0, 0x0, 0x0, 0x0, 0x0, 0x0⟩ /- SEQ_PAIR_p_DIFF -/
  , ⟨0x40311000, [(0x4, 16)], 0xF000007F, 0x0, 0x0, 0x10000000, 0x0, 0xA000007F, 0x0⟩ /- SEQ_SUB_j -/
  , ⟨0x40311040, [], 0xF, 0x0, 0x0, 0x0, 0x0, 0xF, 0x2⟩ /- SEQ_PQ_CFG -/
  , ⟨0x40308000, [(0x4, 4096)], 0xFFFFFFFF, 0x0, 0x0, 0x0, 0x0, 0x0, 0x0⟩ /- SIG_VAL_i -/
  , ⟨0x4030C000, [(0x4, 4096)], 0xFFFFFFFF, 0x0, 0x0, 0x0, 0x0, 0x0, 0x0⟩ /- SIG_QUAL_i -/
  ]

/-- Rows of the block at 0x4100_0000. -/
def regRows410 : List RegRow :=
  [ ⟨0x41000000, [(0x80, 112)], 0xFF00FFFF, 0x0, 0x0, 0x0, 0x0, 0xFF00FFFF, 0x0⟩ /- SDF_CH_i_IN -/
  , ⟨0x41000004, [(0x80, 112)], 0x1FF0000, 0x0, 0x0, 0x0, 0x0, 0x1FF0000, 0xE00000⟩ /- SDF_CH_i_CAP -/
  , ⟨0x41000008, [(0x80, 112)], 0xFFFFFFC0, 0x0, 0x0, 0x0, 0x0, 0xFFFFFFC0, 0x0⟩ /- SDF_CH_i_CIC -/
  , ⟨0x4100000C, [(0x80, 112)], 0x3FFFFFFF, 0x0, 0x0, 0x0, 0x0, 0x3FFFFFFF, 0x0⟩ /- SDF_CH_i_CIC_SH -/
  , ⟨0x41000010, [(0x80, 112)], 0xFF7F01FF, 0x0, 0x0, 0x0, 0x0, 0xFF7F01FF, 0x0⟩ /- SDF_CH_i_FIR -/
  , ⟨0x41000014, [(0x80, 112)], 0x3FFF3FFF, 0x0, 0x0, 0x0, 0x0, 0x3FFF3FFF, 0x0⟩ /- SDF_CH_i_COEF -/
  , ⟨0x41000018, [(0x80, 112)], 0xFFFF, 0x0, 0x0, 0x0, 0x0, 0xFFFF, 0x0⟩ /- SDF_CH_i_FIR_GD -/
  , ⟨0x4100001C, [(0x80, 112)], 0xF00FFFFF, 0x0, 0x0, 0x0, 0x0, 0xF00FFFFF, 0x0⟩ /- SDF_CH_i_RS -/
  , ⟨0x41000020, [(0x80, 112)], 0xFFFFF, 0x0, 0x0, 0x0, 0x0, 0xFFFFF, 0x0⟩ /- SDF_CH_i_RS_PHASE -/
  , ⟨0x41000024, [(0x80, 112)], 0xFFF0FFF, 0x0, 0x0, 0x0, 0x0, 0xFFF0FFF, 0xFFF0FFF⟩ /- SDF_CH_i_SIG -/
  , ⟨0x41000028, [(0x80, 112)], 0xFFF0FFF, 0x0, 0x0, 0x0, 0x0, 0xFFF0FFF, 0xFFF0FFF⟩ /- SDF_CH_i_DSIG_A -/
  , ⟨0x4100002C, [(0x80, 112)], 0xFFF0FFF, 0x0, 0x0, 0x0, 0x0, 0xFFF0FFF, 0xFFF0FFF⟩ /- SDF_CH_i_DSIG_B -/
  , ⟨0x41000030, [(0x80, 112)], 0xF00FF, 0x0, 0x0, 0x0, 0x0, 0xF00FF, 0x80000⟩ /- SDF_CH_i_DET -/
  , ⟨0x41000034, [(0x80, 112)], 0x3FF03FF, 0x0, 0x0, 0x0, 0x0, 0x3FF03FF, 0x400100⟩ /- SDF_CH_i_MON -/
  , ⟨0x41000038, [(0x80, 112)], 0xB03F1F0F, 0x0, 0x0, 0x0, 0x0, 0xB03F1F0F, 0x200C0202⟩ /- SDF_CH_i_PF -/
  , ⟨0x4100003C, [(0x80, 112)], 0xFFFFFFFF, 0x0, 0x0, 0x0, 0x0, 0xFFFFFFFF, 0x7FFF8000⟩ /- SDF_CH_i_PF_TRIP -/
  , ⟨0x41000040, [(0x80, 112)], 0xFFFFFFFF, 0x0, 0x0, 0x0, 0x0, 0xFFFFFFFF, 0x7FFF8000⟩ /- SDF_CH_i_PF_WARN -/
  , ⟨0x41000044, [(0x80, 112)], 0xFF, 0x0, 0x7C, 0x0, 0x0, 0x0, 0x0⟩ /- SDF_CH_i_STATUS -/
  , ⟨0x41000048, [(0x80, 112)], 0xFFFF, 0x0, 0x0, 0x0, 0x0, 0x0, 0x0⟩ /- SDF_CH_i_PF_VAL -/
  , ⟨0x4100004C, [(0x80, 112)], 0xFFFFFFFF, 0x0, 0x0, 0x0, 0x0, 0x0, 0x0⟩ /- SDF_CH_i_TS -/
  , ⟨0x41010000, [], 0xFF00FFFF, 0x0, 0x0, 0x0, 0x0, 0xFF00FFFF, 0x0⟩ /- SDF_CLK_CFG -/
  , ⟨0x41010010, [(0x4, 4)], 0xFFFFF, 0x0, 0x0, 0x0, 0x0, 0xFFFFF, 0x0⟩ /- SDF_CLOSE_LAG_n -/
  , ⟨0x41010020, [], 0xFFFFFFFF, 0x0, 0x0, 0x0, 0x0, 0x0, 0x0⟩ /- SDF_MAC -/
  , ⟨0x41010024, [], 0xFFC03FFF, 0x0, 0xC0000000, 0x0, 0x0, 0x0, 0x0⟩ /- SDF_ERR -/
  , ⟨0x41080000, [(0x4, 16384)], 0xFFFFFFFF, 0x0, 0x0, 0x0, 0x0, 0xFFFFFFFF, 0x0⟩ /- SDF_COEF_w -/
  ]

/-- Rows of the block at 0x4140_0000. -/
def regRows414 : List RegRow :=
  [ ⟨0x41400000, [(0x200, 24)], 0x7, 0x0, 0x0, 0x7, 0x0, 0x0, 0x0⟩ /- SAR_k_CTRL -/
  , ⟨0x41400004, [(0x200, 24)], 0x8F1F7000, 0x0, 0x0, 0x0, 0x0, 0x8F1F7000, 0x10000⟩ /- SAR_k_CFG -/
  , ⟨0x41400008, [(0x200, 24)], 0x1FF01FF, 0x0, 0x0, 0x0, 0x0, 0x1FF01FF, 0x0⟩ /- SAR_k_TRIG -/
  , ⟨0x4140000C, [(0x200, 24)], 0xFFFF, 0x0, 0x0, 0x0, 0x0, 0xFFFF, 0x0⟩ /- SAR_k_CAL_CFG -/
  , ⟨0x41400010, [(0x200, 24)], 0x1FF, 0x0, 0x10C, 0x0, 0x0, 0x0, 0x0⟩ /- SAR_k_STATUS -/
  , ⟨0x41400014, [(0x200, 24)], 0xFFFFFFFF, 0x0, 0x0, 0x0, 0x0, 0x0, 0x0⟩ /- SAR_k_OVR -/
  , ⟨0x41400018, [(0x200, 24)], 0xFFF0FFF, 0x0, 0x0, 0x0, 0x0, 0xFFF0FFF, 0xFFF0FFF⟩ /- SAR_k_TS_SIG -/
  , ⟨0x4140001C, [(0x200, 24)], 0xFFFFFFFF, 0x0, 0x0, 0x0, 0x0, 0x0, 0x0⟩ /- SAR_k_REG_TS -/
  , ⟨0x41400020, [(0x200, 24)], 0xFFFFFFFF, 0x0, 0x0, 0x0, 0x0, 0x0, 0x0⟩ /- SAR_k_INJ_TS -/
  , ⟨0x41400024, [(0x200, 24)], 0xFFFFFFFF, 0x0, 0x0, 0x0, 0x0, 0x0, 0x80000000⟩ /- SAR_k_CAL_RES -/
  , ⟨0x41400028, [(0x200, 24)], 0xFFFFFFFF, 0x0, 0x0, 0x0, 0x0, 0x0, 0x0⟩ /- SAR_k_CAL_STAT -/
  , ⟨0x41400040, [(0x200, 24), (0x4, 20)], 0xFFFF0FFF, 0x0, 0x0, 0x0, 0x0, 0xFFFF0FFF, 0x20FFF⟩ /- SAR_k_ENT_e -/
  , ⟨0x414000A0, [(0x200, 24), (0x4, 20)], 0xE0FFFFFF, 0x0, 0x0, 0x0, 0x0, 0x0, 0x20000000⟩ /- SAR_k_RES_e -/
  , ⟨0x41408000, [(0x8, 4)], 0xFFFFFFFF, 0x0, 0x0, 0x0, 0x0, 0xFFFFFFFF, 0x0⟩ /- SAR_TIMER_j_INTERVAL -/
  , ⟨0x41408004, [(0x8, 4)], 0xFFFFFFFF, 0x0, 0x0, 0x0, 0x0, 0xFFFFFFFF, 0x0⟩ /- SAR_TIMER_j_PHASE -/
  ]

/-- Rows of the block at 0x4200_0000. -/
def regRows420 : List RegRow :=
  [ ⟨0x42001000, [(0x4, 64)], 0xF3FF01FF, 0x0, 0x0, 0x0, 0x0, 0xF3FF01FF, 0x0⟩ /- CE_GROUP_g -/
  , ⟨0x42000000, [], 0xF, 0x0, 0x0, 0xF, 0x0, 0x0, 0x0⟩ /- CE_BANK_CTRL -/
  , ⟨0x42000004, [], 0xF0F, 0x0, 0xF00, 0x0, 0x0, 0x0, 0x0⟩ /- CE_BANK_STATUS -/
  , ⟨0x42000008, [], 0xFFE001FF, 0x0, 0xE0000000, 0x0, 0x0, 0x0, 0x0⟩ /- CE_ERR -/
  , ⟨0x42010000, [(0x40, 1024)], 0xFF0F0FFF, 0x0, 0x0, 0x0, 0x0, 0xFF0F0FFF, 0xFFF⟩ /- CE_PARAM_i_0 -/
  , ⟨0x42010004, [(0x40, 1024)], 0xFFF0FFF, 0x0, 0x0, 0x0, 0x0, 0xFFF0FFF, 0xFFF0FFF⟩ /- CE_PARAM_i_1 -/
  , ⟨0x42010008, [(0x40, 1024)], 0xFFF0FFF, 0x0, 0x0, 0x0, 0x0, 0xFFF0FFF, 0xFFF0FFF⟩ /- CE_PARAM_i_2 -/
  , ⟨0x4201000C, [(0x40, 1024)], 0xFFF0FFF, 0x0, 0x0, 0x0, 0x0, 0xFFF0FFF, 0xFFF0FFF⟩ /- CE_PARAM_i_3 -/
  , ⟨0x42010010, [(0x40, 1024)], 0xFFFFFFFF, 0xFFFFFFFF, 0x0, 0x0, 0x0, 0x0, 0x0⟩ /- CE_PARAM_i_4 -/
  , ⟨0x42010014, [(0x40, 1024)], 0xFFFFFFFF, 0xFFFFFFFF, 0x0, 0x0, 0x0, 0x0, 0x0⟩ /- CE_PARAM_i_5 -/
  , ⟨0x42010018, [(0x40, 1024)], 0xFFFFFFFF, 0xFFFFFFFF, 0x0, 0x0, 0x0, 0x0, 0x0⟩ /- CE_PARAM_i_6 -/
  , ⟨0x4201001C, [(0x40, 1024)], 0xFFFFFFFF, 0xFFFFFFFF, 0x0, 0x0, 0x0, 0x0, 0x0⟩ /- CE_PARAM_i_7 -/
  , ⟨0x42010020, [(0x40, 1024)], 0x1F1F1F1F, 0x1F1F1F1F, 0x0, 0x0, 0x0, 0x0, 0x0⟩ /- CE_PARAM_i_8 -/
  , ⟨0x42010024, [(0x40, 1024)], 0xFFFFFFFF, 0xFFFFFFFF, 0x0, 0x0, 0x0, 0x0, 0x7FFFFFFF⟩ /- CE_PARAM_i_9 -/
  , ⟨0x42010028, [(0x40, 1024)], 0xFFFFFFFF, 0xFFFFFFFF, 0x0, 0x0, 0x0, 0x0, 0x80000000⟩ /- CE_PARAM_i_10 -/
  , ⟨0x4201002C, [(0x40, 1024)], 0xFFFFFFFF, 0xFFFFFFFF, 0x0, 0x0, 0x0, 0x0, 0x7FFFFFFF⟩ /- CE_PARAM_i_11 -/
  , ⟨0x42010030, [(0x40, 1024)], 0xFFFFFFFF, 0xFFFFFFFF, 0x0, 0x0, 0x0, 0x0, 0x80000000⟩ /- CE_PARAM_i_12 -/
  , ⟨0x42010034, [(0x40, 1024)], 0xFFFFFFFF, 0xFFFFFFFF, 0x0, 0x0, 0x0, 0x0, 0x0⟩ /- CE_PARAM_i_13 -/
  , ⟨0x42010038, [(0x40, 1024)], 0x7FF, 0x7FF, 0x0, 0x0, 0x0, 0x0, 0x1⟩ /- CE_PARAM_i_14 -/
  , ⟨0x4201003C, [(0x40, 1024)], 0x0, 0x0, 0x0, 0x0, 0x0, 0x0, 0x0⟩ /- CE_PARAM_i_15 -/
  , ⟨0x42020000, [(0x20, 512)], 0xFFFFFFFF, 0x0, 0x0, 0x0, 0x0, 0x0, 0x0⟩ /- CE_STATE_c_0 -/
  , ⟨0x42020004, [(0x20, 512)], 0xFFFFFFFF, 0x0, 0x0, 0x0, 0x0, 0x0, 0x0⟩ /- CE_STATE_c_1 -/
  , ⟨0x42020008, [(0x20, 512)], 0xFFFFFFFF, 0x0, 0x0, 0x0, 0x0, 0x0, 0x0⟩ /- CE_STATE_c_2 -/
  , ⟨0x4202000C, [(0x20, 512)], 0xFFFFFFFF, 0x0, 0x0, 0x0, 0x0, 0x0, 0x0⟩ /- CE_STATE_c_3 -/
  , ⟨0x42020010, [(0x20, 512)], 0x7FF0001, 0x0, 0x0, 0x0, 0x0, 0x0, 0x0⟩ /- CE_STATE_c_4 -/
  , ⟨0x42020014, [(0x20, 512)], 0xFFFFFFFF, 0x0, 0x0, 0x0, 0x0, 0x0, 0x0⟩ /- CE_STATE_c_5 -/
  , ⟨0x42020018, [(0x20, 512)], 0x3FF, 0x0, 0x3FE, 0x0, 0x0, 0x0, 0x0⟩ /- CE_STATE_c_6 -/
  , ⟨0x4202001C, [(0x20, 512)], 0xFFFFFFFF, 0x0, 0x0, 0x0, 0x0, 0x0, 0x0⟩ /- CE_STATE_c_7 -/
  ]

/-- Rows of the block at 0x4240_0000. -/
def regRows424p0 : List RegRow :=
  [ ⟨0x42400000, [(0x400, 8)], 0x1B, 0x0, 0x0, 0x1B, 0x0, 0x0, 0x0⟩ /- VEC_u_CTRL -/
  , ⟨0x42400004, [(0x400, 8)], 0xBFF80000, 0x0, 0x0, 0x0, 0x0, 0xBFF80000, 0xC000000⟩ /- VEC_u_CFG -/
  , ⟨0x42400008, [(0x400, 8)], 0xFFF0FFF, 0x0, 0x0, 0x0, 0x0, 0xFFF0FFF, 0xFFF0FFF⟩ /- VEC_u_SIG_0 -/
  , ⟨0x4240000C, [(0x400, 8)], 0xFFF0FFF, 0x0, 0x0, 0x0, 0x0, 0xFFF0FFF, 0xFFF0FFF⟩ /- VEC_u_SIG_1 -/
  , ⟨0x42400010, [(0x400, 8)], 0xFFF0FFF, 0x0, 0x0, 0x0, 0x0, 0xFFF0FFF, 0xFFF0FFF⟩ /- VEC_u_SIG_2 -/
  , ⟨0x42400014, [(0x400, 8)], 0xFFF0FFF, 0x0, 0x0, 0x0, 0x0, 0xFFF0FFF, 0xFFF0FFF⟩ /- VEC_u_SIG_3 -/
  , ⟨0x42400018, [(0x400, 8)], 0xFFF0FFF, 0x0, 0x0, 0x0, 0x0, 0xFFF0FFF, 0xFFF0FFF⟩ /- VEC_u_SIG_4 -/
  , ⟨0x4240001C, [(0x400, 8)], 0xFFF, 0x0, 0x0, 0x0, 0x0, 0xFFF, 0xFFF⟩ /- VEC_u_SIG_5 -/
  , ⟨0x42400020, [(0x400, 8)], 0xFFF0FFF, 0x0, 0x0, 0x0, 0x0, 0xFFF0FFF, 0xFFF0FFF⟩ /- VEC_u_OUT_0 -/
  , ⟨0x42400024, [(0x400, 8)], 0xFFF0FFF, 0x0, 0x0, 0x0, 0x0, 0xFFF0FFF, 0xFFF0FFF⟩ /- VEC_u_OUT_1 -/
  , ⟨0x42400028, [(0x400, 8)], 0xFFF0FFF, 0x0, 0x0, 0x0, 0x0, 0xFFF0FFF, 0xFFF0FFF⟩ /- VEC_u_OUT_2 -/
  , ⟨0x4240002C, [(0x400, 8)], 0xFFF0FFF, 0x0, 0x0, 0x0, 0x0, 0xFFF0FFF, 0xFFF0FFF⟩ /- VEC_u_OUT_3 -/
  , ⟨0x42400030, [(0x400, 8)], 0xFFF0FFF, 0x0, 0x0, 0x0, 0x0, 0xFFF0FFF, 0xFFF0FFF⟩ /- VEC_u_OUT_4 -/
  , ⟨0x42400034, [(0x400, 8)], 0xFFF0FFF, 0x0, 0x0, 0x0, 0x0, 0xFFF0FFF, 0xFFF0FFF⟩ /- VEC_u_OUT_5 -/
  , ⟨0x42400040, [(0x400, 8)], 0xFFFFFFFF, 0xFFFFFFFF, 0x0, 0x0, 0x0, 0x0, 0x0⟩ /- VEC_u_RS -/
  , ⟨0x42400044, [(0x400, 8)], 0xFFFFFFFF, 0xFFFFFFFF, 0x0, 0x0, 0x0, 0x0, 0x0⟩ /- VEC_u_LD -/
  , ⟨0x42400048, [(0x400, 8)], 0xFFFFFFFF, 0xFFFFFFFF, 0x0, 0x0, 0x0, 0x0, 0x0⟩ /- VEC_u_LQ -/
  , ⟨0x4240004C, [(0x400, 8)], 0xFFFFFFFF, 0xFFFFFFFF, 0x0, 0x0, 0x0, 0x0, 0x0⟩ /- VEC_u_PSI_M -/
  , ⟨0x42400050, [(0x400, 8)], 0xFFFFFFFF, 0xFFFFFFFF, 0x0, 0x0, 0x0, 0x0, 0x0⟩ /- VEC_u_I_MAX -/
  , ⟨0x42400054, [(0x400, 8)], 0xFFFFFFFF, 0xFFFFFFFF, 0x0, 0x0, 0x0, 0x0, 0x0⟩ /- VEC_u_T_LIM -/
  , ⟨0x42400058, [(0x400, 8)], 0xFFFFFFFF, 0x0, 0x0, 0x0, 0x0, 0xFFFFFFFF, 0x0⟩ /- VEC_u_FBASE -/
  , ⟨0x4240005C, [(0x400, 8)], 0xFFFFFFFF, 0x0, 0x0, 0x0, 0x0, 0xFFFFFFFF, 0x0⟩ /- VEC_u_VRATIO -/
  , ⟨0x42400060, [(0x400, 8)], 0xFFFFFFFF, 0xFFFFFFFF, 0x0, 0x0, 0x0, 0x0, 0x0⟩ /- VEC_u_OBS_LEAK -/
  , ⟨0x42400064, [(0x400, 8)], 0xFFFFFFFF, 0xFFFFFFFF, 0x0, 0x0, 0x0, 0x0, 0x0⟩ /- VEC_u_OBS_KP -/
  , ⟨0x42400068, [(0x400, 8)], 0xFFFFFFFF, 0xFFFFFFFF, 0x0, 0x0, 0x0, 0x0, 0x0⟩ /- VEC_u_OBS_KI -/
  , ⟨0x4240006C, [(0x400, 8)], 0xFFFFFFFF, 0xFFFFFFFF, 0x0, 0x0, 0x0, 0x0, 0x0⟩ /- VEC_u_OBS_KP_FLY -/
  , ⟨0x42400070, [(0x400, 8)], 0xFFFFFFFF, 0xFFFFFFFF, 0x0, 0x0, 0x0, 0x0, 0x0⟩ /- VEC_u_OBS_KI_FLY -/
  , ⟨0x42400074, [(0x400, 8)], 0xFFFFFFFF, 0xFFFFFFFF, 0x0, 0x0, 0x0, 0x0, 0x7AE148⟩ /- VEC_u_OBS_MIN -/
  , ⟨0x42400078, [(0x400, 8)], 0xFFFFFFFF, 0xFFFFFFFF, 0x0, 0x0, 0x0, 0x0, 0xCCD0010⟩ /- VEC_u_OBS_LOCK -/
  , ⟨0x4240007C, [(0x400, 8)], 0xFFFFFFFF, 0xFFFFFFFF, 0x0, 0x0, 0x0, 0x0, 0x0⟩ /- VEC_u_SWITCH_SLEW -/
  ]
/-- Rows of the block at 0x4240_0000. -/
def regRows424p1 : List RegRow :=
  [ ⟨0x42400080, [(0x400, 8)], 0xFFFFFFFF, 0xFFFFFFFF, 0x0, 0x0, 0x0, 0x0, 0x0⟩ /- VEC_u_ANG_WIN -/
  , ⟨0x42400084, [(0x400, 8)], 0xFF, 0xFF, 0x0, 0x0, 0x0, 0x0, 0x1⟩ /- VEC_u_ANG_CNT -/
  , ⟨0x42400100, [(0x400, 8), (0x4, 33)], 0xFFFFFFFF, 0xFFFFFFFF, 0x0, 0x0, 0x0, 0x0, 0x0⟩ /- VEC_u_MTPA_j -/
  , ⟨0x42400184, [(0x400, 8)], 0xFFFFFFFF, 0xFFFFFFFF, 0x0, 0x0, 0x0, 0x0, 0x10000000⟩ /- VEC_u_T_TAB_MAX -/
  , ⟨0x42400200, [(0x400, 8), (0x4, 33)], 0xFFFFFFFF, 0xFFFFFFFF, 0x0, 0x0, 0x0, 0x0, 0x0⟩ /- VEC_u_FW_j -/
  , ⟨0x42400284, [(0x400, 8)], 0xFFFFFFFF, 0xFFFFFFFF, 0x0, 0x0, 0x0, 0x0, 0x10000000⟩ /- VEC_u_X_TAB_MAX -/
  , ⟨0x42400300, [(0x400, 8)], 0xFFFFFFFF, 0xFFFFFFFF, 0x0, 0x0, 0x0, 0x0, 0xFA00014⟩ /- VEC_u_FLY_TIME -/
  , ⟨0x42400304, [(0x400, 8)], 0xFFFFFFF, 0xFFFFFFF, 0x0, 0x0, 0x0, 0x0, 0x2080064⟩ /- VEC_u_FLY_SEQ -/
  , ⟨0x42400308, [(0x400, 8)], 0xFFFFFFFF, 0xFFFFFFFF, 0x0, 0x0, 0x0, 0x0, 0xCCCCCD⟩ /- VEC_u_FLY_MIN -/
  , ⟨0x4240030C, [(0x400, 8)], 0xFFFFFFFF, 0xFFFFFFFF, 0x0, 0x0, 0x0, 0x0, 0x80407D0⟩ /- VEC_u_FLY_ZV -/
  , ⟨0x42400310, [(0x400, 8)], 0xFFFFFFFF, 0xFFFFFFFF, 0x0, 0x0, 0x0, 0x0, 0x0⟩ /- VEC_u_FLY_ZV_IMIN -/
  , ⟨0x42400314, [(0x400, 8)], 0xFFFFFFFF, 0xFFFFFFFF, 0x0, 0x0, 0x0, 0x0, 0x28F5C3⟩ /- VEC_u_FLY_VNOISE -/
  , ⟨0x42400320, [(0x400, 8)], 0xFFFFFFFF, 0xFFFFFFFF, 0x0, 0x0, 0x0, 0x0, 0xF333333⟩ /- VEC_u_UR_LIMIT -/
  , ⟨0x42400324, [(0x400, 8)], 0xFFFFFFFF, 0xFFFFFFFF, 0x0, 0x0, 0x0, 0x0, 0x51EB85⟩ /- VEC_u_DISCH_ASC_SPEED -/
  , ⟨0x42400328, [(0x400, 8)], 0xFFFFFFFF, 0xFFFFFFFF, 0x0, 0x0, 0x0, 0x0, 0x0⟩ /- VEC_u_DISCH_ID -/
  , ⟨0x42400380, [(0x400, 8)], 0x3FFEF, 0x0, 0x3F800, 0x0, 0x0, 0x0, 0x0⟩ /- VEC_u_STATUS -/
  , ⟨0x42400384, [(0x400, 8)], 0xFFFFFFFF, 0x0, 0x0, 0x0, 0x0, 0x0, 0x0⟩ /- VEC_u_FLY_SPEED -/
  , ⟨0x42400388, [(0x400, 8)], 0xFFFFFFFF, 0x0, 0x0, 0x0, 0x0, 0x0, 0x0⟩ /- VEC_u_ANG_DIFF -/
  , ⟨0x42404000, [(0x40, 4)], 0xFFF3F3FF, 0x0, 0x0, 0x0, 0x0, 0xFFF3F3FF, 0x0⟩ /- VEC_POS_k_CFG -/
  , ⟨0x42404004, [(0x40, 4)], 0xFFFFFFFF, 0x0, 0x0, 0x0, 0x0, 0xFFFFFFFF, 0x0⟩ /- VEC_POS_k_SCALE -/
  , ⟨0x42404008, [(0x40, 4)], 0xFFFFFFFF, 0xFFFFFFFF, 0x0, 0x0, 0x0, 0x0, 0x0⟩ /- VEC_POS_k_OFFSET -/
  , ⟨0x4240400C, [(0x40, 4)], 0xFFFFFFFF, 0x0, 0x0, 0x0, 0x0, 0xFFFFFFFF, 0x0⟩ /- VEC_POS_k_SSI -/
  , ⟨0x42404010, [(0x40, 4)], 0xFFFFFF, 0x0, 0x0, 0x0, 0x0, 0xFFFFFF, 0x1⟩ /- VEC_POS_k_SPD -/
  , ⟨0x42404014, [(0x40, 4)], 0xFFFFFFFF, 0x0, 0x0, 0x0, 0x0, 0x0, 0x0⟩ /- VEC_POS_k_COUNT -/
  , ⟨0x42404018, [(0x40, 4)], 0xFFFFFFFF, 0x0, 0x0, 0x0, 0x0, 0x0, 0x0⟩ /- VEC_POS_k_EDGE_TS -/
  , ⟨0x4240401C, [(0x40, 4)], 0xFFFFFFFF, 0x0, 0x0, 0x0, 0x0, 0x0, 0x0⟩ /- VEC_POS_k_ZCOUNT -/
  , ⟨0x42404020, [(0x40, 4)], 0x1F, 0x0, 0x1C, 0x0, 0x0, 0x0, 0x0⟩ /- VEC_POS_k_STATUS -/
  ]
/-- All rows of the block at 0x4240_0000. -/
def regRows424 : List RegRow := regRows424p0 ++ regRows424p1

/-- Rows of the block at 0x4280_0000. -/
def regRows428p0 : List RegRow :=
  [ ⟨0x42800000, [(0x400, 4)], 0x7, 0x0, 0x0, 0x7, 0x0, 0x0, 0x0⟩ /- GFE_n_CTRL -/
  , ⟨0x42800004, [(0x400, 4)], 0xF8000000, 0x0, 0x0, 0x0, 0x0, 0xF8000000, 0x0⟩ /- GFE_n_CFG -/
  , ⟨0x42800008, [(0x400, 4)], 0xFFF0FFF, 0x0, 0x0, 0x0, 0x0, 0xFFF0FFF, 0xFFF0FFF⟩ /- GFE_n_SIG_0 -/
  , ⟨0x4280000C, [(0x400, 4)], 0xFFF0FFF, 0x0, 0x0, 0x0, 0x0, 0xFFF0FFF, 0xFFF0FFF⟩ /- GFE_n_SIG_1 -/
  , ⟨0x42800010, [(0x400, 4)], 0xFFF0FFF, 0x0, 0x0, 0x0, 0x0, 0xFFF0FFF, 0xFFF0FFF⟩ /- GFE_n_SIG_2 -/
  , ⟨0x42800014, [(0x400, 4)], 0xFFF0FFF, 0x0, 0x0, 0x0, 0x0, 0xFFF0FFF, 0xFFF0FFF⟩ /- GFE_n_SIG_3 -/
  , ⟨0x42800018, [(0x400, 4)], 0xFFF0FFF, 0x0, 0x0, 0x0, 0x0, 0xFFF0FFF, 0xFFF0FFF⟩ /- GFE_n_SIG_4 -/
  , ⟨0x4280001C, [(0x400, 4)], 0xFFF0FFF, 0x0, 0x0, 0x0, 0x0, 0xFFF0FFF, 0xFFF0FFF⟩ /- GFE_n_SIG_5 -/
  , ⟨0x42800020, [(0x400, 4)], 0xFFF0FFF, 0x0, 0x0, 0x0, 0x0, 0xFFF0FFF, 0xFFF0FFF⟩ /- GFE_n_SIG_6 -/
  , ⟨0x42800030, [(0x400, 4)], 0xFFF0FFF, 0x0, 0x0, 0x0, 0x0, 0xFFF0FFF, 0xFFF0FFF⟩ /- GFE_n_OUT_0 -/
  , ⟨0x42800034, [(0x400, 4)], 0xFFF0FFF, 0x0, 0x0, 0x0, 0x0, 0xFFF0FFF, 0xFFF0FFF⟩ /- GFE_n_OUT_1 -/
  , ⟨0x42800038, [(0x400, 4)], 0xFFF0FFF, 0x0, 0x0, 0x0, 0x0, 0xFFF0FFF, 0xFFF0FFF⟩ /- GFE_n_OUT_2 -/
  , ⟨0x4280003C, [(0x400, 4)], 0xFFF0FFF, 0x0, 0x0, 0x0, 0x0, 0xFFF0FFF, 0xFFF0FFF⟩ /- GFE_n_OUT_3 -/
  , ⟨0x42800040, [(0x400, 4)], 0xFFF0FFF, 0x0, 0x0, 0x0, 0x0, 0xFFF0FFF, 0xFFF0FFF⟩ /- GFE_n_OUT_4 -/
  , ⟨0x42800044, [(0x400, 4)], 0xFFF0FFF, 0x0, 0x0, 0x0, 0x0, 0xFFF0FFF, 0xFFF0FFF⟩ /- GFE_n_OUT_5 -/
  , ⟨0x42800048, [(0x400, 4)], 0xFFF0FFF, 0x0, 0x0, 0x0, 0x0, 0xFFF0FFF, 0xFFF0FFF⟩ /- GFE_n_OUT_6 -/
  , ⟨0x42800080, [(0x400, 4)], 0xFFFFFFFF, 0x0, 0x0, 0x0, 0x0, 0xFFFFFFFF, 0x0⟩ /- GFE_n_FBASE -/
  , ⟨0x42800084, [(0x400, 4)], 0xFFFFFFFF, 0xFFFFFFFF, 0x0, 0x0, 0x0, 0x0, 0x8000000⟩ /- GFE_n_M -/
  , ⟨0x42800088, [(0x400, 4)], 0xFFFFFFFF, 0xFFFFFFFF, 0x0, 0x0, 0x0, 0x0, 0x190000⟩ /- GFE_n_DROOP -/
  , ⟨0x4280008C, [(0x400, 4)], 0xFFFFFFFF, 0xFFFFFFFF, 0x0, 0x0, 0x0, 0x0, 0x0⟩ /- GFE_n_DAMP -/
  , ⟨0x42800090, [(0x400, 4)], 0xFFFFFFFF, 0xFFFFFFFF, 0x0, 0x0, 0x0, 0x0, 0x10000000⟩ /- GFE_n_W_SET -/
  , ⟨0x42800094, [(0x400, 4)], 0xFFFFFFFF, 0xFFFFFFFF, 0x0, 0x0, 0x0, 0x0, 0xE666666⟩ /- GFE_n_W_MIN -/
  , ⟨0x42800098, [(0x400, 4)], 0xFFFFFFFF, 0xFFFFFFFF, 0x0, 0x0, 0x0, 0x0, 0x1199999A⟩ /- GFE_n_W_MAX -/
  , ⟨0x4280009C, [(0x400, 4)], 0xFFFFFFFF, 0xFFFFFFFF, 0x0, 0x0, 0x0, 0x0, 0x3E803E8⟩ /- GFE_n_TPQ -/
  , ⟨0x428000A0, [(0x400, 4)], 0xFFFFFFFF, 0xFFFFFFFF, 0x0, 0x0, 0x0, 0x0, 0x10000000⟩ /- GFE_n_V_SET -/
  , ⟨0x428000A4, [(0x400, 4)], 0xFFFFFFFF, 0xFFFFFFFF, 0x0, 0x0, 0x0, 0x0, 0x0⟩ /- GFE_n_NQ -/
  , ⟨0x428000A8, [(0x400, 4)], 0xFFFFFFFF, 0xFFFFFFFF, 0x0, 0x0, 0x0, 0x0, 0x0⟩ /- GFE_n_KV -/
  , ⟨0x428000AC, [(0x400, 4)], 0xFFFFFFFF, 0xFFFFFFFF, 0x0, 0x0, 0x0, 0x0, 0x0⟩ /- GFE_n_E_INT_MAX -/
  , ⟨0x428000B0, [(0x400, 4)], 0xFFFFFFFF, 0xFFFFFFFF, 0x0, 0x0, 0x0, 0x0, 0x0⟩ /- GFE_n_E_MIN -/
  , ⟨0x428000B4, [(0x400, 4)], 0xFFFFFFFF, 0xFFFFFFFF, 0x0, 0x0, 0x0, 0x0, 0x14CCCCCD⟩ /- GFE_n_E_MAX -/
  ]
/-- Rows of the block at 0x4280_0000. -/
def regRows428p1 : List RegRow :=
  [ ⟨0x428000B8, [(0x400, 4)], 0xFFFFFFFF, 0xFFFFFFFF, 0x0, 0x0, 0x0, 0x0, 0x0⟩ /- GFE_n_E_START -/
  , ⟨0x428000BC, [(0x400, 4)], 0xFFFFFFFF, 0xFFFFFFFF, 0x0, 0x0, 0x0, 0x0, 0x10000⟩ /- GFE_n_E_RAMP -/
  , ⟨0x428000C0, [(0x400, 4)], 0xFFFFFFFF, 0xFFFFFFFF, 0x0, 0x0, 0x0, 0x0, 0x0⟩ /- GFE_n_R_V -/
  , ⟨0x428000C4, [(0x400, 4)], 0xFFFFFFFF, 0xFFFFFFFF, 0x0, 0x0, 0x0, 0x0, 0x0⟩ /- GFE_n_L_V -/
  , ⟨0x428000C8, [(0x400, 4)], 0xFFFFFFFF, 0xFFFFFFFF, 0x0, 0x0, 0x0, 0x0, 0x0⟩ /- GFE_n_R_H -/
  , ⟨0x428000CC, [(0x400, 4)], 0xFFFF, 0xFFFF, 0x0, 0x0, 0x0, 0x0, 0x64⟩ /- GFE_n_T_H -/
  , ⟨0x428000D0, [(0x400, 4)], 0xFFFFFFFF, 0xFFFFFFFF, 0x0, 0x0, 0x0, 0x0, 0x0⟩ /- GFE_n_L_F -/
  , ⟨0x428000D4, [(0x400, 4)], 0xFFFFFFFF, 0xFFFFFFFF, 0x0, 0x0, 0x0, 0x0, 0x1199999A⟩ /- GFE_n_I_LIM -/
  , ⟨0x428000D8, [(0x400, 4)], 0xFFFFFFFF, 0xFFFFFFFF, 0x0, 0x0, 0x0, 0x0, 0x0⟩ /- GFE_n_KP_I -/
  , ⟨0x428000DC, [(0x400, 4)], 0xFFFFFFFF, 0xFFFFFFFF, 0x0, 0x0, 0x0, 0x0, 0x0⟩ /- GFE_n_KI_I -/
  , ⟨0x428000E0, [(0x400, 4)], 0xFFFFFFFF, 0xFFFFFFFF, 0x0, 0x0, 0x0, 0x0, 0x0⟩ /- GFE_n_VI_LIM -/
  , ⟨0x428000E4, [(0x400, 4)], 0xFFFFFFFF, 0xFFFFFFFF, 0x0, 0x0, 0x0, 0x0, 0x12666666⟩ /- GFE_n_V_OUT_MAX -/
  , ⟨0x428000E8, [(0x400, 4)], 0xFFFFFFFF, 0xFFFFFFFF, 0x0, 0x0, 0x0, 0x0, 0x0⟩ /- GFE_n_HANDOVER_TOL -/
  , ⟨0x428000EC, [(0x400, 4)], 0x7FF, 0x7FF, 0x0, 0x0, 0x0, 0x0, 0x10⟩ /- GFE_n_HANDOVER -/
  , ⟨0x428000F0, [(0x400, 4)], 0xFFFFFFFF, 0xFFFFFFFF, 0x0, 0x0, 0x0, 0x0, 0x0⟩ /- GFE_n_PLL_KP -/
  , ⟨0x428000F4, [(0x400, 4)], 0xFFFFFFFF, 0xFFFFFFFF, 0x0, 0x0, 0x0, 0x0, 0x0⟩ /- GFE_n_PLL_KI -/
  , ⟨0x428000F8, [(0x400, 4)], 0xFFFFFFFF, 0xFFFFFFFF, 0x0, 0x0, 0x0, 0x0, 0xCCD0010⟩ /- GFE_n_PLL_LOCK -/
  , ⟨0x428000FC, [(0x400, 4)], 0xFFFFFFFF, 0xFFFFFFFF, 0x0, 0x0, 0x0, 0x0, 0x199999A⟩ /- GFE_n_V_LIVE -/
  , ⟨0x42800100, [(0x400, 4)], 0xFFFFFFFF, 0xFFFFFFFF, 0x0, 0x0, 0x0, 0x0, 0x0⟩ /- GFE_n_K_SYNC -/
  , ⟨0x42800104, [(0x400, 4)], 0xFFFFFFFF, 0xFFFFFFFF, 0x0, 0x0, 0x0, 0x0, 0x0⟩ /- GFE_n_K_SYNC_V -/
  , ⟨0x42800108, [(0x400, 4)], 0xFFFFFFFF, 0xFFFFFFFF, 0x0, 0x0, 0x0, 0x0, 0x0⟩ /- GFE_n_SYNC_OFS -/
  , ⟨0x4280010C, [(0x400, 4)], 0xFFFFFFFF, 0xFFFFFFFF, 0x0, 0x0, 0x0, 0x0, 0x0⟩ /- GFE_n_SYNC_ANG -/
  , ⟨0x42800110, [(0x400, 4)], 0xFFFFFFFF, 0xFFFFFFFF, 0x0, 0x0, 0x0, 0x0, 0x0⟩ /- GFE_n_SYNC_DV -/
  , ⟨0x42800114, [(0x400, 4)], 0xFFFFFFFF, 0xFFFFFFFF, 0x0, 0x0, 0x0, 0x0, 0x0⟩ /- GFE_n_SYNC_DW -/
  , ⟨0x42800118, [(0x400, 4)], 0xFFFF, 0xFFFF, 0x0, 0x0, 0x0, 0x0, 0x810⟩ /- GFE_n_CNT -/
  , ⟨0x42800180, [(0x400, 4)], 0x3FFFFF, 0x0, 0x3FE000, 0x0, 0x0, 0x0, 0x0⟩ /- GFE_n_STATUS -/
  , ⟨0x42800184, [(0x400, 4)], 0xFFFFFFFF, 0x0, 0x0, 0x0, 0x0, 0x0, 0x0⟩ /- GFE_n_CL_COUNT -/
  , ⟨0x42800188, [(0x400, 4)], 0x7FF0000, 0x0, 0x0, 0x0, 0x0, 0x0, 0x0⟩ /- GFE_n_BLEND -/
  , ⟨0x4280018C, [(0x400, 4)], 0xFFFFFFFF, 0x0, 0x0, 0x0, 0x0, 0x0, 0x0⟩ /- GFE_n_SYNC_DIFF -/
  , ⟨0x42800190, [(0x400, 4)], 0xFFFFFFFF, 0x0, 0x0, 0x0, 0x0, 0x0, 0x0⟩ /- GFE_n_OMEGA_ACC_LO -/
  ]
/-- Rows of the block at 0x4280_0000. -/
def regRows428p2 : List RegRow :=
  [ ⟨0x42800194, [(0x400, 4)], 0xFFFFFFFF, 0x0, 0x0, 0x0, 0x0, 0x0, 0x0⟩ /- GFE_n_OMEGA_ACC_HI -/
  , ⟨0x42800240, [(0x400, 4)], 0xC03F0000, 0x0, 0x0, 0x0, 0x0, 0xC03F0000, 0x280000⟩ /- GFE_n_FRT_CFG -/
  , ⟨0x42800244, [(0x400, 4)], 0xFFF0FFF, 0x0, 0x0, 0x0, 0x0, 0xFFF0FFF, 0xFFF0FFF⟩ /- GFE_n_FRT_SIG_0 -/
  , ⟨0x42800248, [(0x400, 4)], 0xFFF0FFF, 0x0, 0x0, 0x0, 0x0, 0xFFF0FFF, 0xFFF0FFF⟩ /- GFE_n_FRT_SIG_1 -/
  , ⟨0x4280024C, [(0x400, 4)], 0xFFF0FFF, 0x0, 0x0, 0x0, 0x0, 0xFFF0FFF, 0xFFF0FFF⟩ /- GFE_n_FRT_SIG_2 -/
  , ⟨0x42800250, [(0x400, 4)], 0xFFFFFFFF, 0xFFFFFFFF, 0x0, 0x0, 0x0, 0x0, 0xD99999A⟩ /- GFE_n_DIP_ENTER -/
  , ⟨0x42800254, [(0x400, 4)], 0xFFFFFFFF, 0xFFFFFFFF, 0x0, 0x0, 0x0, 0x0, 0xE666666⟩ /- GFE_n_DIP_EXIT -/
  , ⟨0x42800258, [(0x400, 4)], 0xFFFFFFFF, 0xFFFFFFFF, 0x0, 0x0, 0x0, 0x0, 0x1199999A⟩ /- GFE_n_SWELL_ENTER -/
  , ⟨0x4280025C, [(0x400, 4)], 0xFFFFFFFF, 0xFFFFFFFF, 0x0, 0x0, 0x0, 0x0, 0x10CCCCCD⟩ /- GFE_n_SWELL_EXIT -/
  , ⟨0x42800260, [(0x400, 4)], 0xFFFFFFFF, 0xFFFFFFFF, 0x0, 0x0, 0x0, 0x0, 0xCCCCCD⟩ /- GFE_n_NEG_ENTER -/
  , ⟨0x42800264, [(0x400, 4)], 0xFFFFFFFF, 0xFFFFFFFF, 0x0, 0x0, 0x0, 0x0, 0x7AE148⟩ /- GFE_n_NEG_EXIT -/
  , ⟨0x42800268, [(0x400, 4)], 0xFFFFFFFF, 0xFFFFFFFF, 0x0, 0x0, 0x0, 0x0, 0x38E38E4⟩ /- GFE_n_JUMP_ANG -/
  , ⟨0x4280026C, [(0x400, 4)], 0xFFFFFFFF, 0xFFFFFFFF, 0x0, 0x0, 0x0, 0x0, 0x10000⟩ /- GFE_n_P_RECOVER -/
  , ⟨0x42800270, [(0x400, 4)], 0xFFFFFFFF, 0xFFFFFFFF, 0x0, 0x0, 0x0, 0x0, 0xCCCCCD⟩ /- GFE_n_LEAVE_P -/
  , ⟨0x42800274, [(0x400, 4)], 0xFFFFFFFF, 0xFFFFFFFF, 0x0, 0x0, 0x0, 0x0, 0xCCCCCD⟩ /- GFE_n_LEAVE_Q -/
  , ⟨0x42800278, [(0x400, 4)], 0xFFFF, 0x0, 0x0, 0x0, 0x0, 0xFFFF, 0x1010⟩ /- GFE_n_FRT_CNT -/
  , ⟨0x42800280, [(0x400, 4)], 0xFFFFFFFF, 0xFFFFFFFF, 0x0, 0x0, 0x0, 0x0, 0x1000FFFF⟩ /- GFE_n_FRT_CURVE_j -/
  , ⟨0x42800284, [(0x400, 4)], 0xFFFFFFFF, 0xFFFFFFFF, 0x0, 0x0, 0x0, 0x0, 0x2000FFFF⟩ /- GFE_n_FRT_CURVE_j -/
  , ⟨0x42800288, [(0x400, 4)], 0xFFFFFFFF, 0xFFFFFFFF, 0x0, 0x0, 0x0, 0x0, 0x3000FFFF⟩ /- GFE_n_FRT_CURVE_j -/
  , ⟨0x4280028C, [(0x400, 4)], 0xFFFFFFFF, 0xFFFFFFFF, 0x0, 0x0, 0x0, 0x0, 0x4000FFFF⟩ /- GFE_n_FRT_CURVE_j -/
  , ⟨0x42800290, [(0x400, 4)], 0xFFFFFFFF, 0xFFFFFFFF, 0x0, 0x0, 0x0, 0x0, 0x5000FFFF⟩ /- GFE_n_FRT_CURVE_j -/
  , ⟨0x42800294, [(0x400, 4)], 0xFFFFFFFF, 0xFFFFFFFF, 0x0, 0x0, 0x0, 0x0, 0x6000FFFF⟩ /- GFE_n_FRT_CURVE_j -/
  , ⟨0x42800298, [(0x400, 4)], 0xFFFFFFFF, 0xFFFFFFFF, 0x0, 0x0, 0x0, 0x0, 0x7000FFFF⟩ /- GFE_n_FRT_CURVE_j -/
  , ⟨0x4280029C, [(0x400, 4)], 0xFFFFFFFF, 0xFFFFFFFF, 0x0, 0x0, 0x0, 0x0, 0x8000FFFF⟩ /- GFE_n_FRT_CURVE_j -/
  , ⟨0x428002A0, [(0x400, 4)], 0x787, 0x0, 0x700, 0x0, 0x0, 0x0, 0x0⟩ /- GFE_n_FRT_STATUS -/
  , ⟨0x428002A4, [(0x400, 4)], 0xFFFFFFFF, 0x0, 0x0, 0x0, 0x0, 0x0, 0x0⟩ /- GFE_n_FRT_LAST -/
  , ⟨0x428002A8, [(0x400, 4)], 0xFFFFFFFF, 0x0, 0x0, 0x0, 0x0, 0x0, 0x0⟩ /- GFE_n_JUMP_LAST -/
  , ⟨0x428002AC, [(0x400, 4)], 0xFFFFFFFF, 0x0, 0x0, 0x0, 0x0, 0x0, 0x0⟩ /- GFE_n_FRT_COUNT -/
  , ⟨0x42800200, [(0x400, 4)], 0x3, 0x0, 0x0, 0x3, 0x0, 0x0, 0x0⟩ /- GFE_n_BS_CTRL -/
  , ⟨0x42800204, [(0x400, 4)], 0xC0FF0000, 0x0, 0x0, 0x0, 0x0, 0xC0FF0000, 0x0⟩ /- GFE_n_BS_CFG -/
  ]
/-- Rows of the block at 0x4280_0000. -/
def regRows428p3 : List RegRow :=
  [ ⟨0x42800208, [(0x400, 4)], 0xFFFFFFFF, 0x0, 0x0, 0x0, 0x0, 0xFFFFFFFF, 0x140014⟩ /- GFE_n_BS_TIME -/
  , ⟨0x4280020C, [(0x400, 4)], 0xFFFFFFFF, 0xFFFFFFFF, 0x0, 0x0, 0x0, 0x0, 0xCCCCCD⟩ /- GFE_n_V_DEAD -/
  , ⟨0x42800210, [(0x400, 4)], 0xFFF0FFF, 0x0, 0x0, 0x0, 0x0, 0xFFF0FFF, 0xFFF0FFF⟩ /- GFE_n_BS_SIG -/
  , ⟨0x42800214, [(0x400, 4)], 0xF0001F07, 0x0, 0x1800, 0x0, 0x0, 0x0, 0x0⟩ /- GFE_n_BS_STATUS -/
  , ⟨0x42800218, [(0x400, 4)], 0xFFFFFFFF, 0x0, 0x0, 0x0, 0x0, 0x0, 0x0⟩ /- GFE_n_BS_TIMER -/
  ]
/-- All rows of the block at 0x4280_0000. -/
def regRows428 : List RegRow := regRows428p0 ++ regRows428p1 ++ regRows428p2 ++ regRows428p3

/-- Rows of the block at 0x42C0_0000. -/
def regRows42C : List RegRow :=
  [ ⟨0x42C00000, [], 0x3, 0x0, 0x0, 0x3, 0x0, 0x0, 0x0⟩ /- SND_CTRL -/
  , ⟨0x42C00004, [], 0xF83F1FFF, 0x0, 0x0, 0x0, 0x0, 0xF83F1FFF, 0x0⟩ /- SND_CFG -/
  , ⟨0x42C00008, [], 0xFFF, 0x0, 0x0, 0x0, 0x0, 0xFFF, 0x0⟩ /- SND_ID -/
  , ⟨0x42C0000C, [], 0x3F, 0x0, 0x0, 0x0, 0x0, 0x3F, 0x14⟩ /- SND_TX_AMP -/
  , ⟨0x42C00010, [], 0x3F07, 0x0, 0x0, 0x0, 0x0, 0x3F07, 0xA02⟩ /- SND_TIMING -/
  , ⟨0x42C00014, [], 0xFFF0FFF, 0x0, 0x0, 0x0, 0x0, 0xFFF0FFF, 0xFFF0FFF⟩ /- SND_SIG_0 -/
  , ⟨0x42C00018, [], 0xFFF0FFF, 0x0, 0x0, 0x0, 0x0, 0xFFF0FFF, 0xFFF0FFF⟩ /- SND_SIG_1 -/
  , ⟨0x42C0001C, [], 0xFFF0FFF, 0x0, 0x0, 0x0, 0x0, 0xFFF0FFF, 0xFFF0FFF⟩ /- SND_SIG_2 -/
  , ⟨0x42C00020, [], 0xFFF, 0x0, 0x0, 0x0, 0x0, 0xFFF, 0xFFF⟩ /- SND_SIG_3 -/
  , ⟨0x42C00040, [(0x4, 16)], 0x8000003F, 0x0, 0x0, 0x0, 0x0, 0x8000003F, 0x3F⟩ /- SND_CORR_c -/
  , ⟨0x42C00080, [(0x4, 8)], 0x80000FFF, 0x0, 0x0, 0x0, 0x0, 0x80000FFF, 0x0⟩ /- SND_ACCEPT_j -/
  , ⟨0x42C000C0, [], 0xF, 0xF, 0x0, 0x0, 0x0, 0x0, 0xE⟩ /- SND_TX_TYPE -/
  , ⟨0x42C000C4, [], 0xFFFFFFFF, 0xFFFFFFFF, 0x0, 0x0, 0x0, 0x0, 0x0⟩ /- SND_TX_PAYLOAD -/
  , ⟨0x42C000D0, [], 0xFFFF1DFF, 0x0, 0x1C00, 0x0, 0x0, 0x0, 0x0⟩ /- SND_STATUS -/
  , ⟨0x42C000D4, [], 0xFFFFFFFF, 0x0, 0x0, 0x0, 0x0, 0x0, 0x0⟩ /- SND_COUNT_0 -/
  , ⟨0x42C000D8, [], 0xFFFFFFFF, 0x0, 0x0, 0x0, 0x0, 0x0, 0x0⟩ /- SND_COUNT_1 -/
  , ⟨0x42C000DC, [], 0xFFFFFF00, 0x0, 0x0, 0x0, 0x0, 0x0, 0x0⟩ /- SND_COUNT_2 -/
  , ⟨0x42C00100, [], 0xFFFFF01, 0x0, 0x0, 0x0, 0x0, 0x0, 0x0⟩ /- SND_RX_HEAD -/
  , ⟨0x42C00104, [], 0xFFFFFFFF, 0x0, 0x0, 0x0, 0x0, 0x0, 0x0⟩ /- SND_RX_PAYLOAD -/
  , ⟨0x42C00108, [], 0xFFFFFFFF, 0x0, 0x0, 0x0, 0x0, 0x0, 0x0⟩ /- SND_RX_S -/
  , ⟨0x42C0010C, [], 0x3FFFFFFF, 0x0, 0x0, 0x0, 0x0, 0x0, 0x0⟩ /- SND_RX_NS -/
  ]

/-- Rows of the block at 0x4300_0000. -/
def regRows430p0 : List RegRow :=
  [ ⟨0x43000000, [], 0xFFFFFFFF, 0x0, 0x0, 0x0, 0x0, 0x0, 0x0⟩ /- PWM_TB_LO -/
  , ⟨0x43000004, [], 0xFFFFFFFF, 0x0, 0x0, 0x0, 0x0, 0x0, 0x0⟩ /- PWM_TB_HI -/
  , ⟨0x43000010, [], 0xF, 0x0, 0x0, 0xF, 0x0, 0x0, 0x0⟩ /- PWM_CCOMMIT -/
  , ⟨0x43000014, [], 0x8000007F, 0x0, 0x80000000, 0x0, 0x0, 0x0, 0x0⟩ /- PWM_ERR -/
  , ⟨0x43000020, [(0x4, 8)], 0xF0000FFF, 0x0, 0x10000000, 0x0, 0x0, 0xC0000FFF, 0x0⟩ /- PWM_TRIP_t -/
  , ⟨0x43000080, [], 0x3F3F3F3F, 0x0, 0x0, 0x0, 0x0, 0x3F3F3F3F, 0x3020100⟩ /- PWM_LMAP_n_0 -/
  , ⟨0x43000088, [], 0x3F3F3F3F, 0x0, 0x0, 0x0, 0x0, 0x3F3F3F3F, 0xA090807⟩ /- PWM_LMAP_n_0 -/
  , ⟨0x43000090, [], 0x3F3F3F3F, 0x0, 0x0, 0x0, 0x0, 0x3F3F3F3F, 0x11100F0E⟩ /- PWM_LMAP_n_0 -/
  , ⟨0x43000098, [], 0x3F3F3F3F, 0x0, 0x0, 0x0, 0x0, 0x3F3F3F3F, 0x18171615⟩ /- PWM_LMAP_n_0 -/
  , ⟨0x43000084, [], 0x3F3F3F, 0x0, 0x0, 0x0, 0x0, 0x3F3F3F, 0x60504⟩ /- PWM_LMAP_n_1 -/
  , ⟨0x4300008C, [], 0x3F3F3F, 0x0, 0x0, 0x0, 0x0, 0x3F3F3F, 0xD0C0B⟩ /- PWM_LMAP_n_1 -/
  , ⟨0x43000094, [], 0x3F3F3F, 0x0, 0x0, 0x0, 0x0, 0x3F3F3F, 0x141312⟩ /- PWM_LMAP_n_1 -/
  , ⟨0x4300009C, [], 0x3F3F3F, 0x0, 0x0, 0x0, 0x0, 0x3F3F3F, 0x1B1A19⟩ /- PWM_LMAP_n_1 -/
  , ⟨0x43000100, [(0x10, 16)], 0x1FFFFF, 0x0, 0x0, 0x0, 0x0, 0x1FFFFF, 0x0⟩ /- PWM_CAR_c_PERIOD -/
  , ⟨0x43000104, [(0x10, 16)], 0x1FFFFF, 0x0, 0x0, 0x0, 0x0, 0x1FFFFF, 0x0⟩ /- PWM_CAR_c_PHASE -/
  , ⟨0x43000108, [(0x10, 16)], 0x80000003, 0x0, 0x0, 0x0, 0x0, 0x80000003, 0x0⟩ /- PWM_CAR_c_CFG -/
  , ⟨0x43000200, [(0x10, 4), (0x4, 4)], 0xFFFFFFFF, 0x0, 0x0, 0x0, 0x0, 0xFFFFFFFF, 0x0⟩ /- PWM_CGRP_k_MASK_w -/
  , ⟨0x43000400, [(0x20, 8)], 0x80000003, 0x0, 0x0, 0x0, 0x0, 0x80000003, 0x0⟩ /- PWM_MOD_u_CFG -/
  , ⟨0x43000404, [(0x20, 8)], 0xFFF0FFF, 0x0, 0x0, 0x0, 0x0, 0xFFF0FFF, 0xFFF0FFF⟩ /- PWM_MOD_u_SIG_0 -/
  , ⟨0x43000408, [(0x20, 8)], 0xFFF0FFF, 0x0, 0x0, 0x0, 0x0, 0xFFF0FFF, 0xFFF0FFF⟩ /- PWM_MOD_u_SIG_1 -/
  , ⟨0x4300040C, [(0x20, 8)], 0xFFF, 0x0, 0x0, 0x0, 0x0, 0xFFF, 0xFFF⟩ /- PWM_MOD_u_SIG_2 -/
  , ⟨0x43000410, [(0x20, 8)], 0xFFFFFFFF, 0x0, 0x0, 0x0, 0x0, 0xFFFFFFFF, 0x0⟩ /- PWM_MOD_u_KM -/
  , ⟨0x43000414, [(0x20, 8)], 0x1, 0x0, 0x1, 0x0, 0x0, 0x0, 0x0⟩ /- PWM_MOD_u_STATUS -/
  , ⟨0x43001000, [(0x40, 42)], 0xF1F7CFFF, 0x0, 0x0, 0x0, 0x0, 0xF1F7CFFF, 0xFFF⟩ /- PWM_LEG_g_CFG -/
  , ⟨0x43001004, [(0x40, 42)], 0xFF000777, 0x0, 0x0, 0x0, 0x0, 0xFF000777, 0xA0000602⟩ /- PWM_LEG_g_STATES -/
  , ⟨0x43001010, [(0x40, 42), (0x4, 4)], 0xFBFFFFFF, 0xFBFFFFFF, 0x0, 0x0, 0x0, 0x0, 0x0⟩ /- PWM_LEG_g_ST_j -/
  , ⟨0x43001020, [(0x40, 42)], 0xFF77, 0x0, 0xFC00, 0x0, 0x0, 0x0, 0x0⟩ /- PWM_LEG_g_STATUS -/
  , ⟨0x43001024, [(0x40, 42)], 0xFFFFFFFF, 0x0, 0x0, 0x0, 0x0, 0x0, 0x0⟩ /- PWM_LEG_g_COUNT -/
  , ⟨0x43001028, [(0x40, 42)], 0xE3FFFFFF, 0x0, 0x0, 0x0, 0x0, 0x0, 0x0⟩ /- PWM_LEG_g_CARRY -/
  , ⟨0x43004000, [(0x40, 128)], 0x8F730000, 0x0, 0x0, 0x0, 0x0, 0x8F730000, 0x10000⟩ /- PWM_SLICE_s_CFG -/
  ]
/-- Rows of the block at 0x4300_0000. -/
def regRows430p1 : List RegRow :=
  [ ⟨0x43004004, [(0x40, 128)], 0xFFFFF, 0x0, 0x0, 0x0, 0x0, 0xFFFFF, 0x0⟩ /- PWM_SLICE_s_DT_R -/
  , ⟨0x43004008, [(0x40, 128)], 0xFFFFF, 0x0, 0x0, 0x0, 0x0, 0xFFFFF, 0x0⟩ /- PWM_SLICE_s_DT_F -/
  , ⟨0x4300400C, [(0x40, 128)], 0xFFFFF, 0x0, 0x0, 0x0, 0x0, 0xFFFFF, 0x0⟩ /- PWM_SLICE_s_MINP -/
  , ⟨0x43004010, [(0x40, 128)], 0x83FFFFFF, 0x83FFFFFF, 0x0, 0x0, 0x0, 0x0, 0x0⟩ /- PWM_SLICE_s_ON -/
  , ⟨0x43004014, [(0x40, 128)], 0x3FFFFFF, 0x3FFFFFF, 0x0, 0x0, 0x0, 0x0, 0x0⟩ /- PWM_SLICE_s_OFF -/
  , ⟨0x43004018, [(0x40, 128)], 0x801FFFFF, 0x0, 0x0, 0x0, 0x0, 0x801FFFFF, 0x0⟩ /- PWM_SLICE_s_TRG_0 -/
  , ⟨0x4300401C, [(0x40, 128)], 0x801FFFFF, 0x0, 0x0, 0x0, 0x0, 0x801FFFFF, 0x0⟩ /- PWM_SLICE_s_TRG_1 -/
  , ⟨0x43004020, [(0x40, 128)], 0xFFFFF, 0x0, 0xE0000, 0x0, 0x0, 0x0, 0x0⟩ /- PWM_SLICE_s_STATUS -/
  , ⟨0x43004024, [(0x40, 128)], 0x3FFFFFF, 0x0, 0x0, 0x0, 0x0, 0x0, 0x0⟩ /- PWM_SLICE_s_CARRY_A -/
  , ⟨0x43004028, [(0x40, 128)], 0x3FFFFFF, 0x0, 0x0, 0x0, 0x0, 0x0, 0x0⟩ /- PWM_SLICE_s_CARRY_B -/
  ]
/-- All rows of the block at 0x4300_0000. -/
def regRows430 : List RegRow := regRows430p0 ++ regRows430p1

/-- Rows of the block at 0x4340_0000. -/
def regRows434 : List RegRow :=
  [ ⟨0x43400000, [(0x100, 32)], 0xBF00FFFF, 0x0, 0x0, 0x0, 0x0, 0xBF00FFFF, 0x8000000⟩ /- STL_l_CFG -/
  , ⟨0x43400004, [(0x100, 32)], 0xFFFF, 0x0, 0x0, 0x0, 0x0, 0xFFFF, 0x0⟩ /- STL_l_TRIM -/
  , ⟨0x43400008, [(0x100, 32)], 0xFFFFFF, 0x0, 0x0, 0x0, 0x0, 0x0, 0x0⟩ /- STL_l_PROP -/
  , ⟨0x4340000C, [(0x100, 32)], 0x3FF, 0x0, 0x300, 0x0, 0x0, 0x0, 0x0⟩ /- STL_l_STATUS -/
  , ⟨0x43400010, [(0x100, 32)], 0xFFFFFFFF, 0x0, 0x0, 0x0, 0x0, 0x0, 0x0⟩ /- STL_l_UP_0 -/
  , ⟨0x43400014, [(0x100, 32)], 0xFFFFFFFF, 0x0, 0x0, 0x0, 0x0, 0x0, 0x0⟩ /- STL_l_UP_1 -/
  , ⟨0x43400018, [(0x100, 32)], 0xFFFFFFFF, 0x0, 0x0, 0x0, 0x0, 0x0, 0x0⟩ /- STL_l_UP_2 -/
  , ⟨0x4340001C, [(0x100, 32)], 0xFFFFFFFF, 0x0, 0x0, 0x0, 0x0, 0x0, 0x0⟩ /- STL_l_UP_3 -/
  , ⟨0x43400020, [(0x100, 32)], 0xFFFFFFFF, 0x0, 0x0, 0x0, 0x0, 0x0, 0x0⟩ /- STL_l_COUNT_0 -/
  , ⟨0x43400024, [(0x100, 32)], 0xFFFFFFFF, 0x0, 0x0, 0x0, 0x0, 0x0, 0x0⟩ /- STL_l_COUNT_1 -/
  , ⟨0x43400028, [(0x100, 32)], 0xFFFF, 0x0, 0x0, 0x0, 0x0, 0x0, 0x0⟩ /- STL_l_CFG_CRC -/
  , ⟨0x4340002C, [(0x100, 32)], 0xFFFF, 0x0, 0x0, 0x0, 0x0, 0x0, 0x0⟩ /- STL_l_EDGE_NUM -/
  , ⟨0x43400030, [(0x100, 32)], 0xFFFF, 0x0, 0x0, 0x0, 0x0, 0x0, 0x0⟩ /- STL_l_TURN -/
  , ⟨0x43400040, [(0x100, 32), (0x4, 48)], 0xFFFFFFFF, 0x0, 0x0, 0x0, 0x0, 0xFFFFFFFF, 0x0⟩ /- STL_l_PROF_c_p -/
  , ⟨0x43402000, [], 0xFFF, 0x0, 0x0, 0x0, 0x0, 0x0, 0x0⟩ /- STL_CLAIM -/
  , ⟨0x43402004, [], 0xFFFF, 0x0, 0x0, 0x0, 0x0, 0xFFFF, 0x1388⟩ /- STL_LEAD -/
  ]

/-- Rows of the block at 0x4380_0000. -/
def regRows438 : List RegRow :=
  [ ⟨0x43800000, [(0x100, 6)], 0xE, 0x0, 0x0, 0xE, 0x0, 0x0, 0x0⟩ /- AUX_m_CTRL -/
  , ⟨0x43800004, [(0x100, 6)], 0xFC077FFF, 0x0, 0x0, 0x0, 0x0, 0xFC077FFF, 0x2632⟩ /- AUX_m_CFG -/
  , ⟨0x43800008, [(0x100, 6)], 0xFFF0FFF, 0x0, 0x0, 0x0, 0x0, 0xFFF0FFF, 0xFFF0FFF⟩ /- AUX_m_SIG_0 -/
  , ⟨0x4380000C, [(0x100, 6)], 0xFFF0FFF, 0x0, 0x0, 0x0, 0x0, 0xFFF0FFF, 0xFFF0FFF⟩ /- AUX_m_SIG_1 -/
  , ⟨0x43800010, [(0x100, 6)], 0xFFFFFFFF, 0x0, 0x0, 0x0, 0x0, 0xFFFFFFFF, 0xC80000⟩ /- AUX_m_FBASE -/
  , ⟨0x43800014, [(0x100, 6)], 0xFFFFFFFF, 0xFFFF, 0x0, 0x0, 0x0, 0xFFFF0000, 0x7FFF0000⟩ /- AUX_m_DUTY -/
  , ⟨0x43800018, [(0x100, 6)], 0xFFFFFFFF, 0xFFFFFFFF, 0x0, 0x0, 0x0, 0x0, 0x10⟩ /- AUX_m_SLEW_KE -/
  , ⟨0x4380001C, [(0x100, 6)], 0x1FFFFF, 0x0, 0x0, 0x0, 0x0, 0x1FFFFF, 0x0⟩ /- AUX_m_BEMF_SMP -/
  , ⟨0x43800020, [(0x100, 6)], 0xFFFFFFFF, 0x0, 0x0, 0x0, 0x0, 0xFFFFFFFF, 0x10200064⟩ /- AUX_m_BEMF -/
  , ⟨0x43800024, [(0x100, 6)], 0xFFFFFFFF, 0x0, 0x0, 0x0, 0x0, 0xFFFFFFFF, 0x1400C8⟩ /- AUX_m_START_T -/
  , ⟨0x43800028, [(0x100, 6)], 0xFFFFFFFF, 0x0, 0x0, 0x0, 0x0, 0xFFFFFFFF, 0x640CCD⟩ /- AUX_m_ALIGN -/
  , ⟨0x4380002C, [(0x100, 6)], 0xFFFFFFFF, 0x0, 0x0, 0x0, 0x0, 0xFFFFFFFF, 0xC81388⟩ /- AUX_m_RAMP_F -/
  , ⟨0x43800030, [(0x100, 6)], 0xFFFFFFFF, 0x0, 0x0, 0x0, 0x0, 0xFFFFFFFF, 0x640666⟩ /- AUX_m_RAMP_A -/
  , ⟨0x43800034, [(0x100, 6)], 0xFFFF, 0x0, 0x0, 0x0, 0x0, 0xFFFF, 0x7D0⟩ /- AUX_m_HO -/
  , ⟨0x43800038, [(0x100, 6)], 0x3F, 0x0, 0x0, 0x0, 0x0, 0x3F, 0xA⟩ /- AUX_m_BRK -/
  , ⟨0x4380003C, [(0x100, 6)], 0xFFFF, 0x0, 0x0, 0x0, 0x0, 0xFFFF, 0xC8⟩ /- AUX_m_ADV_SPAN -/
  , ⟨0x43800040, [(0x100, 6), (0x4, 17)], 0x7F, 0x7F, 0x0, 0x0, 0x0, 0x0, 0x0⟩ /- AUX_m_ADV_j -/
  , ⟨0x43800090, [(0x100, 6)], 0xFFFF7F, 0x0, 0x1FF00, 0x0, 0x0, 0x0, 0x0⟩ /- AUX_m_STATUS -/
  , ⟨0x43800094, [(0x100, 6)], 0xFFFFFFFF, 0x0, 0x0, 0x0, 0x0, 0x0, 0x0⟩ /- AUX_m_T_EST -/
  , ⟨0x43800098, [(0x100, 6)], 0xFFFFFFFF, 0x0, 0x0, 0x0, 0x0, 0x0, 0x0⟩ /- AUX_m_COUNT -/
  , ⟨0x43801000, [(0x20, 18)], 0xFFFFFF, 0x0, 0x0, 0x0, 0x0, 0xFFFFFF, 0x325148⟩ /- AUX_HB_h_PROF_ON -/
  , ⟨0x43801004, [(0x20, 18)], 0xFFFFFF, 0x0, 0x0, 0x0, 0x0, 0xFFFFFF, 0x325148⟩ /- AUX_HB_h_PROF_OFF -/
  , ⟨0x43801008, [(0x20, 18)], 0x3FFFFFF, 0x0, 0x0, 0x0, 0x0, 0x3FFFFFF, 0x2FAC808⟩ /- AUX_HB_h_AMP -/
  , ⟨0x4380100C, [(0x20, 18)], 0xF, 0x0, 0x4, 0x0, 0x0, 0x0, 0x0⟩ /- AUX_HB_h_STATUS -/
  , ⟨0x43802000, [], 0x3FF03FF, 0x0, 0x0, 0x0, 0x0, 0x3FF03FF, 0x2D002B2⟩ /- AUX_BUS_TH_0 -/
  , ⟨0x43802004, [], 0x3FF03FF, 0x0, 0x0, 0x0, 0x0, 0x3FF03FF, 0x348030C⟩ /- AUX_BUS_TH_1 -/
  , ⟨0x43802008, [], 0x3FF03FF, 0x0, 0x0, 0x0, 0x0, 0x3FF03FF, 0x190384⟩ /- AUX_BUS_TH_2 -/
  , ⟨0x4380200C, [], 0x807F00FF, 0x0, 0x0, 0x0, 0x0, 0x807F00FF, 0x8014000A⟩ /- AUX_BUS_CFG -/
  , ⟨0x43802010, [], 0x1FE, 0x0, 0x180, 0x0, 0x0, 0x0, 0x0⟩ /- AUX_BUS_STATUS -/
  ]

/-- Rows of the block at 0x4400_0000. -/
def regRows440p0 : List RegRow :=
  [ ⟨0x44000000, [], 0xFF000000, 0x0, 0x0, 0x0, 0x0, 0x0, 0x0⟩ /- PROT_STATUS -/
  , ⟨0x44000004, [], 0x3FF03FF, 0x0, 0x0, 0x0, 0x0, 0x3FF03FF, 0x140190⟩ /- PROT_STO_CFG -/
  , ⟨0x44000008, [], 0x8000FFFF, 0x0, 0x80000000, 0x0, 0x0, 0x0, 0x0⟩ /- PROT_FIRST -/
  , ⟨0x4400000C, [], 0xFFFFFFFF, 0x0, 0x0, 0x0, 0x0, 0x0, 0x0⟩ /- PROT_FIRST_TS -/
  , ⟨0x44000010, [], 0x7FF, 0x0, 0x0, 0x0, 0x0, 0x7FF, 0xC8⟩ /- PROT_COINC -/
  , ⟨0x44000800, [(0x4, 15)], 0xFFFFFFFF, 0x0, 0x0, 0x0, 0x0, 0x0, 0x0⟩ /- PROT_SRC_LIVE_w -/
  , ⟨0x44000840, [(0x4, 15)], 0xFFFFFFFF, 0x0, 0xFFFFFFFF, 0x0, 0x0, 0x0, 0x0⟩ /- PROT_SRC_LATCH_w -/
  , ⟨0x44001000, [(0x4, 112)], 0xFFFFFFFF, 0x0, 0x0, 0x0, 0x0, 0xFFFFFFFF, 0x90700000⟩ /- PROT_SRC_x_CFG -/
  , ⟨0x440011C0, [(0x4, 112)], 0xFFFFFFFF, 0x0, 0x0, 0x0, 0x0, 0xFFFFFFFF, 0x80000000⟩ /- PROT_SRC_x_CFG -/
  , ⟨0x44001380, [(0x4, 112)], 0xFFFFFFFF, 0x0, 0x0, 0x0, 0x0, 0xFFFFFFFF, 0x80000000⟩ /- PROT_SRC_x_CFG -/
  , ⟨0x44001540, [(0x4, 32)], 0xFFFFFFFF, 0x0, 0x0, 0x0, 0x0, 0xFFFFFFFF, 0x80000000⟩ /- PROT_SRC_x_CFG -/
  , ⟨0x440015C0, [(0x4, 8)], 0xFFFFFFFF, 0x0, 0x0, 0x0, 0x0, 0xFFFFFFFF, 0x90700000⟩ /- PROT_SRC_x_CFG -/
  , ⟨0x440015E0, [(0x4, 32)], 0xFFFFFFFF, 0x0, 0x0, 0x0, 0x0, 0xFFFFFFFF, 0x90700000⟩ /- PROT_SRC_x_CFG -/
  , ⟨0x44001660, [(0x4, 32)], 0xFFFFFFFF, 0x0, 0x0, 0x0, 0x0, 0xFFFFFFFF, 0x90700000⟩ /- PROT_SRC_x_CFG -/
  , ⟨0x440016E0, [(0x4, 4)], 0xFFFFFFFF, 0x0, 0x0, 0x0, 0x0, 0xFFFFFFFF, 0x90600000⟩ /- PROT_SRC_x_CFG -/
  , ⟨0x440016F0, [(0x4, 4)], 0xFFFFFFFF, 0x0, 0x0, 0x0, 0x0, 0xFFFFFFFF, 0x90600000⟩ /- PROT_SRC_x_CFG -/
  , ⟨0x44001700, [(0x4, 4)], 0xFFFFFFFF, 0x0, 0x0, 0x0, 0x0, 0xFFFFFFFF, 0xA0300000⟩ /- PROT_SRC_x_CFG -/
  , ⟨0x44001710, [(0x4, 4)], 0xFFFFFFFF, 0x0, 0x0, 0x0, 0x0, 0xFFFFFFFF, 0x80000000⟩ /- PROT_SRC_x_CFG -/
  , ⟨0x44001720, [(0x4, 4)], 0xFFFFFFFF, 0x0, 0x0, 0x0, 0x0, 0xFFFFFFFF, 0x90500000⟩ /- PROT_SRC_x_CFG -/
  , ⟨0x44001730, [(0x4, 4)], 0xFFFFFFFF, 0x0, 0x0, 0x0, 0x0, 0xFFFFFFFF, 0x90400000⟩ /- PROT_SRC_x_CFG -/
  , ⟨0x44001740, [(0x4, 4)], 0xFFFFFFFF, 0x0, 0x0, 0x0, 0x0, 0xFFFFFFFF, 0x90500000⟩ /- PROT_SRC_x_CFG -/
  , ⟨0x44001750, [(0x4, 1)], 0xFFFFFFFF, 0x0, 0x0, 0x0, 0x0, 0xFFFFFFFF, 0x80000000⟩ /- PROT_SRC_x_CFG -/
  , ⟨0x44001754, [(0x4, 1)], 0xFFFFFFFF, 0x0, 0x0, 0x0, 0x0, 0xFFFFFFFF, 0x80000000⟩ /- PROT_SRC_x_CFG -/
  , ⟨0x44001758, [(0x4, 6)], 0xFFFFFFFF, 0x0, 0x0, 0x0, 0x0, 0xFFFFFFFF, 0x80000000⟩ /- PROT_SRC_x_CFG -/
  , ⟨0x44001770, [(0x4, 1)], 0xFFFFFFFF, 0x0, 0x0, 0x0, 0x0, 0xFFFFFFFF, 0x80000000⟩ /- PROT_SRC_x_CFG -/
  , ⟨0x44008000, [(0x10, 32)], 0x3FF0007, 0x0, 0x0, 0x0, 0x0, 0x3FF0007, 0xC80006⟩ /- PROT_DSAT_l_CFG -/
  , ⟨0x44008004, [(0x10, 32)], 0xFFFF3F3F, 0x0, 0x3F, 0x0, 0x0, 0x0, 0x0⟩ /- PROT_DSAT_l_STATUS -/
  , ⟨0x44009000, [(0x8, 32)], 0xFFFFFFFF, 0x0, 0x0, 0x0, 0x0, 0xFFFFFFFF, 0x0⟩ /- PROT_WIN_w_CFG -/
  , ⟨0x44009004, [(0x8, 32)], 0x1FF, 0x0, 0x0, 0x0, 0x0, 0xFF, 0x0⟩ /- PROT_WIN_w_FLT -/
  , ⟨0x44004000, [(0x100, 4)], 0x807F7F7F, 0x0, 0x0, 0x0, 0x0, 0x807F7F7F, 0x7F7F7F⟩ /- PROT_n_DC_CH -/
  ]
/-- Rows of the block at 0x4400_0000. -/
def regRows440p1 : List RegRow :=
  [ ⟨0x44004004, [(0x100, 4)], 0xFFFFFFFF, 0x0, 0x0, 0x0, 0x0, 0xFFFFFFFF, 0x7FFF7FFF⟩ /- PROT_n_OVA -/
  , ⟨0x44004008, [(0x100, 4)], 0xFFFFFFFF, 0x0, 0x0, 0x0, 0x0, 0xFFFFFFFF, 0x7FFF7FFF⟩ /- PROT_n_OVB -/
  , ⟨0x4400400C, [(0x100, 4)], 0xF07FFFFF, 0x0, 0x0, 0x0, 0x0, 0xF07FFFFF, 0x140000⟩ /- PROT_n_CHOP -/
  , ⟨0x44004010, [(0x100, 4)], 0x3FF, 0x0, 0x0, 0x0, 0x0, 0x3FF, 0x64⟩ /- PROT_n_PITCH -/
  , ⟨0x44004014, [(0x100, 4)], 0x3, 0x0, 0x0, 0x0, 0x0, 0x3, 0x2⟩ /- PROT_n_BRIDGE -/
  , ⟨0x44004018, [(0x100, 4)], 0x3, 0x0, 0x0, 0x3, 0x0, 0x0, 0x0⟩ /- PROT_n_DISCH_CTRL -/
  , ⟨0x4400401C, [(0x100, 4)], 0xFFFFFFFF, 0x0, 0x0, 0x0, 0x0, 0xFFFFFFFF, 0x60000014⟩ /- PROT_n_DISCH_0 -/
  , ⟨0x44004020, [(0x100, 4)], 0xFFFFFFFF, 0x0, 0x0, 0x0, 0x0, 0xFFFFFFFF, 0x400003E8⟩ /- PROT_n_DISCH_1 -/
  , ⟨0x44004024, [(0x100, 4)], 0xFFFF, 0x0, 0x0, 0x0, 0x0, 0xFFFF, 0x0⟩ /- PROT_n_DISCH_SAFE -/
  , ⟨0x44004028, [(0x100, 4)], 0xFFF8, 0x0, 0xF08, 0x0, 0x0, 0x0, 0x0⟩ /- PROT_n_STATUS -/
  , ⟨0x4400402C, [(0x100, 4)], 0xFFFFFFFF, 0x0, 0x0, 0x0, 0x0, 0x0, 0x0⟩ /- PROT_n_VDC -/
  ]
/-- All rows of the block at 0x4400_0000. -/
def regRows440 : List RegRow := regRows440p0 ++ regRows440p1

/-- Rows of the block at 0x4440_0000. -/
def regRows444 : List RegRow :=
  [ ⟨0x44400000, [], 0xC0000000, 0x0, 0x0, 0x0, 0x0, 0x0, 0x0⟩ /- SMON_STATUS -/
  , ⟨0x44400004, [], 0xFF000003, 0x0, 0x0, 0xFF000003, 0x0, 0x0, 0x0⟩ /- SMON_REL -/
  , ⟨0x44400010, [(0x4, 4)], 0xC0FF0101, 0x0, 0x100, 0x0, 0x0, 0x0, 0x0⟩ /- SMON_FORCE_n -/
  , ⟨0x44400040, [(0x8, 5)], 0xFFFF, 0x0, 0x0, 0xFFFF, 0x0, 0x0, 0x0⟩ /- SMON_WD_p -/
  , ⟨0x44400044, [(0x8, 5)], 0xFFFFFFFF, 0x0, 0x0, 0x0, 0x0, 0xFFFFFFFF, 0x0⟩ /- SMON_WD_p_CFG -/
  , ⟨0x44400080, [(0x4, 5)], 0x11F, 0x0, 0x100, 0x0, 0x0, 0x1F, 0x0⟩ /- SMON_WD_p_REACT -/
  , ⟨0x44400100, [(0x40, 4)], 0xFFFFFFFF, 0x0, 0x0, 0x0, 0x0, 0xFFFFFFFF, 0x18000000⟩ /- SMON_TM_n_T_MAX -/
  , ⟨0x44400104, [(0x40, 4)], 0xFFFFFFFF, 0x0, 0x0, 0x0, 0x0, 0xFFFFFFFF, 0xCCCCCD⟩ /- SMON_TM_n_I_BLOCK -/
  , ⟨0x44400108, [(0x40, 4)], 0xFFFFFFFF, 0x0, 0x0, 0x0, 0x0, 0xFFFFFFFF, 0xCCCCCD⟩ /- SMON_TM_n_T_TOL -/
  , ⟨0x4440010C, [(0x40, 4)], 0xFFFFFFFF, 0x0, 0x0, 0x0, 0x0, 0xFFFFFFFF, 0x14CCCCCD⟩ /- SMON_TM_n_W_MAX -/
  , ⟨0x44400110, [(0x40, 4)], 0xFFFFFF7F, 0x0, 0x0, 0x0, 0x0, 0xFFFFFF7F, 0x207D01B⟩ /- SMON_TM_n_CFG -/
  , ⟨0x44400114, [(0x40, 4)], 0x7F7F, 0x0, 0x7F, 0x0, 0x0, 0x0, 0x0⟩ /- SMON_TM_n_STATUS -/
  ]

/-- Rows of the block at 0x4480_0000. -/
def regRows448 : List RegRow :=
  [ ⟨0x44800000, [], 0x8FFFFF00, 0x0, 0x0, 0x0, 0x0, 0x8FFFFF00, 0x285000⟩ /- CWY_CFG -/
  , ⟨0x44800004, [], 0x3FFFFFF, 0x0, 0x0, 0x0, 0x0, 0x3FFFFFF, 0x320000⟩ /- CWY_TIMING -/
  , ⟨0x44800008, [], 0xFF803F00, 0x0, 0x3F00, 0x0, 0x0, 0x0, 0x0⟩ /- CWY_STATUS -/
  , ⟨0x4480000C, [], 0xFFFFFFFF, 0x0, 0x0, 0x0, 0x0, 0x0, 0x0⟩ /- CWY_OFFSET -/
  , ⟨0x44800010, [], 0xFFFFFFFF, 0x0, 0x0, 0x0, 0x0, 0x0, 0x0⟩ /- CWY_TRIM -/
  , ⟨0x44800014, [], 0xF, 0xF, 0x0, 0x0, 0x0, 0x0, 0x0⟩ /- CWY_YIELD -/
  , ⟨0x44800018, [], 0xFFFFFFFF, 0x0, 0x0, 0x0, 0x0, 0x0, 0x0⟩ /- CWY_COUNT -/
  , ⟨0x4480001C, [], 0xFFFFFFFF, 0x0, 0x0, 0x0, 0x0, 0x0, 0x0⟩ /- CWY_FWD -/
  , ⟨0x44800100, [(0x20, 4)], 0xFCFFF100, 0x0, 0x100, 0x0, 0x0, 0x0, 0x0⟩ /- CWY_n_STATUS -/
  , ⟨0x44800104, [(0x20, 4)], 0xFFFFFFFF, 0x0, 0x0, 0x0, 0x0, 0x0, 0x0⟩ /- CWY_n_COUNT_0 -/
  , ⟨0x44800108, [(0x20, 4)], 0xFFFFFFFF, 0x0, 0x0, 0x0, 0x0, 0x0, 0x0⟩ /- CWY_n_COUNT_1 -/
  , ⟨0x4480010C, [(0x20, 4)], 0xFFFFF, 0x0, 0x0, 0x0, 0x0, 0x0, 0x0⟩ /- CWY_n_SNAP -/
  , ⟨0x44800400, [(0x4, 256)], 0xF0000FFF, 0x0, 0x0, 0x0, 0x0, 0xF0000FFF, 0x0⟩ /- CWY_LATCH_j -/
  , ⟨0x44800800, [(0x4, 16)], 0xFF07FFFF, 0x0, 0x0, 0x0, 0x0, 0xFF07FFFF, 0x0⟩ /- CWY_EP_j -/
  ]

/-- Rows of the block at 0x44C0_0000. -/
def regRows44C : List RegRow :=
  [ ⟨0x44C00000, [], 0xFF00FFFF, 0x0, 0x0, 0x0, 0x0, 0x0, 0x0⟩ /- ISL_STATUS -/
  , ⟨0x44C00004, [], 0xFFFFFFFF, 0x0, 0x0, 0xFFFFFFFF, 0x0, 0x0, 0x0⟩ /- ISL_CMD -/
  , ⟨0x44C00008, [], 0xFFFFFFFF, 0x0, 0x0, 0x0, 0x0, 0x0, 0x0⟩ /- ISL_SNAP_SEQ -/
  , ⟨0x44C0000C, [], 0xFFFFFFFF, 0x0, 0x0, 0x0, 0x0, 0x0, 0x0⟩ /- ISL_RTC -/
  , ⟨0x44C00010, [], 0xFFFFFFFF, 0x0, 0x0, 0x0, 0x0, 0x0, 0x0⟩ /- ISL_NT_S -/
  , ⟨0x44C00014, [], 0x3FFFFFFF, 0x0, 0x0, 0x0, 0x0, 0x0, 0x0⟩ /- ISL_NT_NS -/
  , ⟨0x44C00018, [], 0xFFFFFFFF, 0x0, 0x0, 0x0, 0x0, 0x0, 0x0⟩ /- ISL_METER_ID -/
  , ⟨0x44C0001C, [], 0xFFFFFFFF, 0x0, 0x0, 0x0, 0x0, 0x0, 0x0⟩ /- ISL_PARAM -/
  , ⟨0x44C00020, [], 0xFFFFFFFF, 0x0, 0x0, 0x0, 0x0, 0x0, 0x0⟩ /- ISL_COUNT -/
  , ⟨0x44C00100, [(0x8, 16)], 0xFFFFFFFF, 0x0, 0x0, 0x0, 0x0, 0x0, 0x0⟩ /- ISL_E_k_LO -/
  , ⟨0x44C00104, [(0x8, 16)], 0xFFFFFFFF, 0x0, 0x0, 0x0, 0x0, 0x0, 0x0⟩ /- ISL_E_k_HI -/
  , ⟨0x44C00200, [(0x4, 20)], 0xFFFFFFFF, 0x0, 0x0, 0x0, 0x0, 0x0, 0x0⟩ /- ISL_INST_j -/
  , ⟨0x44C00250, [], 0xFFFFFFFF, 0x0, 0x0, 0x0, 0x0, 0x0, 0x0⟩ /- ISL_FREQ -/
  , ⟨0x44C00300, [(0x4, 4)], 0xFFFFFFFF, 0x0, 0x0, 0x0, 0x0, 0x0, 0x0⟩ /- ISL_LOG_w -/
  , ⟨0x44C00310, [], 0xFFFFFFFF, 0x0, 0x0, 0x0, 0x0, 0x0, 0x0⟩ /- ISL_LOG_HEAD -/
  , ⟨0x44C00314, [], 0xFFFFFFFF, 0x0, 0x0, 0x0, 0x0, 0x0, 0x0⟩ /- ISL_LOG_ACKED -/
  ]

/-- Rows of the block at 0x4500_0000. -/
def regRows450 : List RegRow :=
  [ ⟨0x45000000, [], 0xFF, 0x0, 0x0, 0xFF, 0x0, 0x0, 0x0⟩ /- REC_FIRE -/
  , ⟨0x45000010, [(0x4, 4)], 0x80033FFF, 0x0, 0x20000, 0x0, 0x0, 0x80003FFF, 0x0⟩ /- REC_BUS_b -/
  , ⟨0x45000040, [(0x8, 8)], 0xB00000FF, 0x0, 0x0, 0x0, 0x0, 0xB00000FF, 0x0⟩ /- REC_LVL_k_CFG -/
  , ⟨0x45000044, [(0x8, 8)], 0xFFFFFFFF, 0x0, 0x0, 0x0, 0x0, 0xFFFFFFFF, 0x0⟩ /- REC_LVL_k_THRESH -/
  , ⟨0x45000100, [(0x4, 256)], 0xF707FFFF, 0x0, 0x0, 0x0, 0x0, 0xF707FFFF, 0xFFF⟩ /- REC_CH_c -/
  , ⟨0x45001000, [(0x100, 8)], 0x3, 0x0, 0x0, 0x3, 0x0, 0x0, 0x0⟩ /- REC_CAP_u_CTRL -/
  , ⟨0x45001004, [(0x100, 8)], 0xE7FF01FF, 0x0, 0x0, 0x0, 0x0, 0xE7FF01FF, 0x1⟩ /- REC_CAP_u_CFG -/
  , ⟨0x45001008, [(0x100, 8)], 0xFF, 0x0, 0x0, 0x0, 0x0, 0xFF, 0x0⟩ /- REC_CAP_u_FIRST -/
  , ⟨0x4500100C, [(0x100, 8)], 0x3FFFFFFF, 0x0, 0x0, 0x0, 0x0, 0x3FFFFFFF, 0x1E848⟩ /- REC_CAP_u_INTERVAL -/
  , ⟨0x45001010, [(0x100, 8)], 0xFFFFFF, 0x0, 0x0, 0x0, 0x0, 0xFFFFFF, 0x1⟩ /- REC_CAP_u_PRE -/
  , ⟨0x45001014, [(0x100, 8)], 0xFFFFFF, 0x0, 0x0, 0x0, 0x0, 0xFFFFFF, 0x1⟩ /- REC_CAP_u_POST -/
  , ⟨0x45001018, [(0x100, 8)], 0xFFFFFFFF, 0x0, 0x0, 0x0, 0x0, 0xFFFFFFFF, 0x0⟩ /- REC_CAP_u_BASE_LO -/
  , ⟨0x4500101C, [(0x100, 8)], 0x7, 0x0, 0x0, 0x0, 0x0, 0x7, 0x0⟩ /- REC_CAP_u_BASE_HI -/
  , ⟨0x45001020, [(0x100, 8)], 0x3F, 0x0, 0x0, 0x0, 0x0, 0x3F, 0x1⟩ /- REC_CAP_u_SLOTS -/
  , ⟨0x45001024, [(0x100, 8)], 0xFFFFFFFF, 0x0, 0x0, 0x0, 0x0, 0x0, 0x0⟩ /- REC_CAP_u_STRIDE -/
  , ⟨0x45001028, [(0x100, 8)], 0xFFF0FFF, 0x0, 0x0, 0x0, 0x0, 0xFFF0FFF, 0x0⟩ /- REC_CAP_u_TRIG_A -/
  , ⟨0x4500102C, [(0x100, 8)], 0xFFF0FFF, 0x0, 0x0, 0x0, 0x0, 0xFFF0FFF, 0x0⟩ /- REC_CAP_u_TRIG_B -/
  , ⟨0x45001030, [(0x100, 8)], 0xFFFFFFFF, 0x0, 0x0, 0x0, 0x0, 0xFFFFFFFF, 0x3E81000⟩ /- REC_CAP_u_HOLD -/
  , ⟨0x45001034, [(0x100, 8)], 0xFFFF, 0x0, 0x0, 0x0, 0x0, 0xFFFF, 0x82⟩ /- REC_CAP_u_CLOSE -/
  , ⟨0x45001038, [(0x100, 8)], 0x3, 0x3, 0x0, 0x0, 0x0, 0x0, 0x1⟩ /- REC_CAP_u_SERVICE -/
  , ⟨0x4500103C, [(0x100, 8)], 0xFFFFFFFF, 0xFFFFFFFF, 0x0, 0x0, 0x0, 0x0, 0x0⟩ /- REC_CAP_u_FIRE_AT_S -/
  , ⟨0x45001040, [(0x100, 8)], 0xBFFFFFFF, 0xBFFFFFFF, 0x0, 0x0, 0x0, 0x0, 0x0⟩ /- REC_CAP_u_FIRE_AT_NS -/
  , ⟨0x45001050, [(0x100, 8)], 0xE0701F07, 0x0, 0xE0000000, 0x0, 0x0, 0x0, 0x0⟩ /- REC_CAP_u_STATUS -/
  , ⟨0x45001054, [(0x100, 8)], 0xFFFFFFFF, 0x0, 0xFFFFFFFF, 0x0, 0x0, 0x0, 0x0⟩ /- REC_CAP_u_FULL -/
  , ⟨0x45001058, [(0x100, 8)], 0xFFFFFFFF, 0x0, 0x0, 0x0, 0x0, 0x0, 0x0⟩ /- REC_CAP_u_DEAD -/
  , ⟨0x4500105C, [(0x100, 8)], 0xFFFFFFFF, 0x0, 0x0, 0x0, 0x0, 0x0, 0x0⟩ /- REC_CAP_u_DEAD_TOTAL -/
  , ⟨0x45001060, [(0x100, 8)], 0xFFFFFFFF, 0x0, 0x0, 0x0, 0x0, 0x0, 0x0⟩ /- REC_CAP_u_COUNT -/
  , ⟨0x45001064, [(0x100, 8)], 0xFFFFFFFF, 0x0, 0x0, 0x0, 0x0, 0x0, 0x0⟩ /- REC_CAP_u_LATE -/
  ]

/-- Rows of the block at 0x4540_0000. -/
def regRows454 : List RegRow :=
  [ ⟨0x45400000, [(0x40, 2)], 0xE000EFFF, 0x0, 0x0, 0x0, 0x0, 0xC000EFFF, 0x1⟩ /- ETH_PORT_p_CFG -/
  , ⟨0x45400004, [(0x40, 2)], 0xFFFFFFFF, 0x0, 0x0, 0x0, 0x0, 0x0, 0x0⟩ /- ETH_PORT_p_PDELAY -/
  , ⟨0x45400008, [(0x40, 3)], 0xFFFFFFFF, 0x0, 0x0, 0x0, 0x0, 0x0, 0x0⟩ /- ETH_DROP_p -/
  , ⟨0x45400100, [], 0xC000FFFF, 0x0, 0x0, 0x0, 0x0, 0xC000FFFF, 0x800003E8⟩ /- ETH_TC_CFG -/
  , ⟨0x45400104, [], 0x801FFFFF, 0x0, 0x80000000, 0x0, 0x0, 0x0, 0x0⟩ /- ETH_TC_STATUS -/
  , ⟨0x45400110, [], 0xCF00FFFF, 0x0, 0x0, 0x0, 0x0, 0x0, 0x0⟩ /- ETH_TS_0 -/
  , ⟨0x45400114, [], 0xFFFFFFFF, 0x0, 0x0, 0x0, 0x0, 0x0, 0x0⟩ /- ETH_TS_1 -/
  , ⟨0x45400118, [], 0x3FFFFFFF, 0x0, 0x0, 0x0, 0x0, 0x0, 0x0⟩ /- ETH_TS_2 -/
  , ⟨0x4540011C, [], 0xFFFFFFFF, 0x0, 0x0, 0x0, 0x0, 0x0, 0x0⟩ /- ETH_TS_3 -/
  ]

/-- Rows of the block at 0x4580_0000. -/
def regRows458 : List RegRow :=
  [ ⟨0x45800000, [], 0x3, 0x0, 0x0, 0x3, 0x0, 0x0, 0x0⟩ /- TIME_CTRL -/
  , ⟨0x45800004, [], 0xF, 0x0, 0xE, 0x0, 0x0, 0x0, 0x0⟩ /- TIME_STATUS -/
  , ⟨0x45800008, [], 0x3FFFFFFF, 0x0, 0x0, 0x0, 0x0, 0x0, 0x0⟩ /- TIME_NS -/
  , ⟨0x4580000C, [], 0xFFFFFFFF, 0x0, 0x0, 0x0, 0x0, 0x0, 0x0⟩ /- TIME_S_LO -/
  , ⟨0x45800010, [], 0xFFFF, 0x0, 0x0, 0x0, 0x0, 0x0, 0x0⟩ /- TIME_S_HI -/
  , ⟨0x45800014, [], 0xFFFFFFFF, 0x0, 0x0, 0x0, 0x0, 0x0, 0x0⟩ /- TIME_FRAC -/
  , ⟨0x45800018, [], 0xF, 0xF, 0x0, 0x0, 0x0, 0x0, 0x8⟩ /- TIME_INC_NS -/
  , ⟨0x4580001C, [], 0xFFFFFFFF, 0xFFFFFFFF, 0x0, 0x0, 0x0, 0x0, 0x0⟩ /- TIME_INC_FRAC -/
  , ⟨0x45800020, [], 0xBFFFFFFF, 0xBFFFFFFF, 0x0, 0x0, 0x0, 0x0, 0x0⟩ /- TIME_ARG_NS -/
  , ⟨0x45800024, [], 0xFFFFFFFF, 0xFFFFFFFF, 0x0, 0x0, 0x0, 0x0, 0x0⟩ /- TIME_ARG_S_LO -/
  , ⟨0x45800028, [], 0xFFFF, 0xFFFF, 0x0, 0x0, 0x0, 0x0, 0x0⟩ /- TIME_ARG_S_HI -/
  , ⟨0x4580002C, [], 0xFFFFFFFF, 0x0, 0x0, 0x0, 0xFFFFFFFF, 0x0, 0x3E8⟩ /- TIME_JUMP_LIMIT -/
  , ⟨0x45800030, [], 0xFFFFFFFF, 0x0, 0x0, 0x0, 0x0, 0x0, 0x0⟩ /- TIME_STEP_COUNT -/
  ]

/-- Rows of the block at 0x45C0_0000. -/
def regRows45Cp0 : List RegRow :=
  [ ⟨0x45C00000, [(0x10000, 4)], 0xFFFF000F, 0x0, 0x0, 0x0, 0x0, 0xFFFF000F, 0x4000000⟩ /- CAN_k_CFG -/
  , ⟨0x45C00004, [(0x10000, 4)], 0xFFFFFF3F, 0x0, 0x0, 0x0, 0x0, 0xFFFFFF3F, 0x278FCF01⟩ /- CAN_k_NBT -/
  , ⟨0x45C00008, [(0x10000, 4)], 0xBF3F3F0F, 0x0, 0x0, 0x0, 0x0, 0xBF3F3F0F, 0x130E0400⟩ /- CAN_k_DBT -/
  , ⟨0x45C0000C, [(0x10000, 4)], 0x7F7F, 0x0, 0x0, 0x0, 0x0, 0x7F7F, 0xF00⟩ /- CAN_k_TDC -/
  , ⟨0x45C00010, [(0x10000, 4)], 0x78, 0x0, 0x0, 0x78, 0x0, 0x0, 0x0⟩ /- CAN_k_CTRL -/
  , ⟨0x45C00014, [(0x10000, 4)], 0x7, 0x0, 0x0, 0x7, 0x0, 0x0, 0x0⟩ /- CAN_k_TX_REQ -/
  , ⟨0x45C00018, [(0x10000, 4)], 0x7, 0x0, 0x0, 0x7, 0x0, 0x0, 0x0⟩ /- CAN_k_TX_ABORT -/
  , ⟨0x45C0001C, [(0x10000, 4)], 0xFFFFFFFC, 0x0, 0xC, 0x0, 0x0, 0x0, 0x0⟩ /- CAN_k_STATUS -/
  , ⟨0x45C00020, [(0x10000, 4)], 0x7FFF07, 0x7FFF07, 0x0, 0x0, 0x0, 0x0, 0x0⟩ /- CAN_k_IRQ_EN -/
  , ⟨0x45C00024, [(0x10000, 4)], 0x7FFF07, 0x0, 0x7E0007, 0x0, 0x0, 0x0, 0x0⟩ /- CAN_k_IRQ -/
  , ⟨0x45C00028, [(0x10000, 4)], 0xFFFFFFFF, 0x0, 0x0, 0x0, 0x0, 0x0, 0x0⟩ /- CAN_k_TSC -/
  , ⟨0x45C0002C, [(0x10000, 4)], 0xFFFFFFFF, 0x0, 0x0, 0x0, 0x0, 0x0, 0x0⟩ /- CAN_k_TSC_AT -/
  , ⟨0x45C00030, [(0x10000, 4)], 0xFFFFFFFF, 0x0, 0x0, 0x0, 0x0, 0x0, 0x0⟩ /- CAN_k_TSC_NT_S -/
  , ⟨0x45C00034, [(0x10000, 4)], 0x3FFFFFFF, 0x0, 0x0, 0x0, 0x0, 0x0, 0x0⟩ /- CAN_k_TSC_NT_NS -/
  , ⟨0x45C00038, [(0x10000, 4)], 0xFFFFFFFF, 0x0, 0x0, 0x0, 0x0, 0x0, 0x0⟩ /- CAN_k_COUNT -/
  , ⟨0x45C00040, [(0x10000, 4)], 0xFFFFF0, 0xFFFFF0, 0x0, 0x0, 0x0, 0x0, 0x0⟩ /- CAN_k_FLT_BASE -/
  , ⟨0x45C00044, [(0x10000, 4)], 0x800001FF, 0x800001FF, 0x0, 0x0, 0x0, 0x0, 0x0⟩ /- CAN_k_FLT_CFG -/
  , ⟨0x45C00048, [(0x10000, 4)], 0x7F, 0x0, 0x0, 0x0, 0x0, 0x0, 0x0⟩ /- CAN_k_FIFO_LEVEL -/
  , ⟨0x45C00060, [(0x10000, 4)], 0xFFFFFFFF, 0x0, 0x0, 0x0, 0x0, 0xFFFFFFFF, 0x0⟩ /- CAN_k_WAKE_CFG -/
  , ⟨0x45C00064, [(0x10000, 4)], 0x1FFFFFFF, 0x0, 0x0, 0x0, 0x0, 0x1FFFFFFF, 0x0⟩ /- CAN_k_WUF_MASK -/
  , ⟨0x45C00068, [(0x10000, 4)], 0xFFFFF, 0x0, 0x0, 0x0, 0x0, 0xFFFFF, 0x532⟩ /- CAN_k_WUF_CTL -/
  , ⟨0x45C0006C, [(0x10000, 4)], 0xFFFFFFFF, 0x0, 0x0, 0x0, 0x0, 0xFFFFFFFF, 0x0⟩ /- CAN_k_WUF_DATA_0 -/
  , ⟨0x45C00070, [(0x10000, 4)], 0xFFFFFFFF, 0x0, 0x0, 0x0, 0x0, 0xFFFFFFFF, 0x0⟩ /- CAN_k_WUF_DATA_1 -/
  , ⟨0x45C00074, [(0x10000, 4)], 0xFFFFFFFF, 0x0, 0x0, 0x0, 0x0, 0x0, 0x0⟩ /- CAN_k_WAKE_STATUS -/
  , ⟨0x45C00100, [(0x10000, 4), (0x60, 3), (0x4, 18)], 0xFFFFFFFF, 0xFFFFFFFF, 0x0, 0x0, 0x0, 0x0, 0x0⟩ /- CAN_k_TXB_b_WORD_w -/
  , ⟨0x45C00148, [(0x10000, 4), (0x60, 3)], 0xFE0000FF, 0x0, 0x6000000, 0x0, 0x0, 0x0, 0x0⟩ /- CAN_k_TXB_b_STAT -/
  , ⟨0x45C0014C, [(0x10000, 4), (0x60, 3)], 0xFFFFFFFF, 0x0, 0x0, 0x0, 0x0, 0x0, 0x0⟩ /- CAN_k_TXB_b_TS -/
  , ⟨0x45C00300, [(0x10000, 4), (0x8, 8)], 0xBFFFFFFF, 0x0, 0x0, 0x0, 0x0, 0xBFFFFFFF, 0x0⟩ /- CAN_k_MATCH_j -/
  , ⟨0x45C00304, [(0x10000, 4), (0x8, 8)], 0x1FFFFFFF, 0x0, 0x0, 0x0, 0x0, 0x1FFFFFFF, 0x0⟩ /- CAN_k_MASK_j -/
  , ⟨0x45C00340, [(0x10000, 4)], 0xFF, 0x0, 0x0, 0xFF, 0x0, 0x0, 0x0⟩ /- CAN_k_RXA_REL -/
  ]
/-- Rows of the block at 0x45C0_0000. -/
def regRows45Cp1 : List RegRow :=
  [ ⟨0x45C00400, [(0x10000, 4), (0x60, 8), (0x4, 20)], 0xFFFFFFFF, 0x0, 0x0, 0x0, 0x0, 0x0, 0x0⟩ /- CAN_k_RXA_j_WORD_w -/
  , ⟨0x45C00800, [(0x10000, 4), (0x4, 20)], 0xFFFFFFFF, 0x0, 0x0, 0x0, 0x0, 0x0, 0x0⟩ /- CAN_k_FIFO_WORD_w -/
  ]
/-- All rows of the block at 0x45C0_0000. -/
def regRows45C : List RegRow := regRows45Cp0 ++ regRows45Cp1

/-- Rows of the block at 0x4600_0000. -/
def regRows460 : List RegRow :=
  [ ⟨0x46000000, [], 0x80001F1F, 0x0, 0x0, 0x0, 0x0, 0x80001F1F, 0x0⟩ /- FRY_ETH -/
  , ⟨0x46001000, [(0x40, 32)], 0x70F0007, 0x70F0007, 0x0, 0x0, 0x0, 0x0, 0x0⟩ /- FRY_Q_q_CFG -/
  , ⟨0x46001004, [(0x40, 32)], 0xFFFFF8, 0xFFFFF8, 0x0, 0x0, 0x0, 0x0, 0x0⟩ /- FRY_Q_q_START -/
  , ⟨0x46001008, [(0x40, 32)], 0x7, 0x0, 0x0, 0x7, 0x0, 0x0, 0x0⟩ /- FRY_Q_q_CTRL -/
  , ⟨0x4600100C, [(0x40, 32)], 0xFC070000, 0x0, 0xC000000, 0x0, 0x0, 0x0, 0x0⟩ /- FRY_Q_q_STATUS -/
  , ⟨0x46001010, [(0x40, 32)], 0xFFFFF8, 0x0, 0x0, 0x0, 0x0, 0x0, 0x0⟩ /- FRY_Q_q_DESC -/
  , ⟨0x46001014, [(0x40, 32)], 0xFFFFFF, 0x0, 0x0, 0x0, 0x0, 0x0, 0x0⟩ /- FRY_Q_q_DONE -/
  , ⟨0x46001018, [(0x40, 32)], 0xFFFFFFFF, 0x0, 0x0, 0x0, 0x0, 0x0, 0x0⟩ /- FRY_Q_q_FADDR -/
  , ⟨0x4600101C, [(0x40, 32)], 0x7F, 0x0, 0x0, 0x0, 0x0, 0x0, 0x0⟩ /- FRY_Q_q_FADDR_HI -/
  , ⟨0x46001020, [(0x40, 32)], 0xFFFFFFFF, 0x0, 0x0, 0x0, 0x0, 0x0, 0x0⟩ /- FRY_Q_q_COUNT -/
  ]

/-- Rows of the block at 0x4640_0000. -/
def regRows464 : List RegRow :=
  [ ⟨0x46400000, [(0x10, 16)], 0xC0000000, 0xC0000000, 0x0, 0x0, 0x0, 0x0, 0x0⟩ /- IOMMU_D_d_CFG -/
  , ⟨0x46400004, [(0x10, 16)], 0x7FFFFF, 0x7FFFFF, 0x0, 0x0, 0x0, 0x0, 0x0⟩ /- IOMMU_D_d_ROOT -/
  , ⟨0x46401000, [], 0xC00F0000, 0x800F0000, 0x0, 0x0, 0x0, 0x0, 0x0⟩ /- IOMMU_INV -/
  , ⟨0x46401004, [], 0x7FFFFFF, 0x7FFFFFF, 0x0, 0x0, 0x0, 0x0, 0x0⟩ /- IOMMU_INV_PAGE -/
  , ⟨0x46401010, [], 0xFF0F000F, 0x0, 0x40000000, 0x0, 0x0, 0x0, 0x0⟩ /- IOMMU_FAULT_0 -/
  , ⟨0x46401014, [], 0xFFFFFFFF, 0x0, 0x0, 0x0, 0x0, 0x0, 0x0⟩ /- IOMMU_FAULT_1 -/
  , ⟨0x46401018, [], 0x7F, 0x0, 0x0, 0x0, 0x0, 0x0, 0x0⟩ /- IOMMU_FAULT_2 -/
  ]

/-- Rows of the block at 0x4680_0000. -/
def regRows468 : List RegRow :=
  [ ⟨0x46800000, [(0x1000, 5), (0x4, 8)], 0xFFFFFFFF, 0xFFFFFFFF, 0x0, 0x0, 0x0, 0x0, 0x0⟩ /- PMU_p_PCNT_c -/
  , ⟨0x46800040, [(0x1000, 5), (0x4, 8)], 0xF80000FF, 0xF80000FF, 0x0, 0x0, 0x0, 0x0, 0x0⟩ /- PMU_p_SEL_c -/
  , ⟨0x46800080, [(0x1000, 5)], 0xFF, 0x0, 0xFF, 0x0, 0x0, 0x0, 0x0⟩ /- PMU_p_OVF -/
  , ⟨0x46800084, [(0x1000, 5)], 0xFF, 0xFF, 0x0, 0x0, 0x0, 0x0, 0x0⟩ /- PMU_p_IRQ_EN -/
  , ⟨0x46800088, [(0x1000, 5)], 0xFF, 0xFF, 0x0, 0x0, 0x0, 0x0, 0x0⟩ /- PMU_p_USER -/
  , ⟨0x46808000, [], 0x1, 0x1, 0x0, 0x0, 0x0, 0x0, 0x0⟩ /- PMU_FREEZE -/
  , ⟨0x46808004, [], 0xF, 0xF, 0x0, 0x0, 0x0, 0x0, 0x0⟩ /- PMU_FREEZE_ON -/
  , ⟨0x46808008, [], 0xF, 0x0, 0x0, 0x0, 0x0, 0x0, 0x0⟩ /- PMU_FREEZE_CAUSE -/
  ]

/-- Rows of the block at 0x46C0_0000. -/
def regRows46C : List RegRow :=
  [ ⟨0x46C00000, [], 0xF00F0000, 0x0, 0x0, 0x0, 0x0, 0x0, 0x0⟩ /- BOOT_STATUS -/
  , ⟨0x46C00004, [], 0xFFFF0000, 0x0, 0x0, 0x0, 0x0, 0x0, 0xFFFF0000⟩ /- BOOT_RESULT_A -/
  , ⟨0x46C00008, [], 0xFFFF0000, 0x0, 0x0, 0x0, 0x0, 0x0, 0xFFFF0000⟩ /- BOOT_RESULT_B -/
  , ⟨0x46C0000C, [], 0xFFFFFFFF, 0x0, 0x0, 0x0, 0x0, 0x0, 0x0⟩ /- BOOT_VAL_ADDR -/
  , ⟨0x46C00010, [], 0xFFFFFFFF, 0x0, 0x0, 0x0, 0x0, 0x0, 0x0⟩ /- BOOT_IMAGE_SEQ -/
  , ⟨0x46C00014, [], 0x3F3F, 0x0, 0x0, 0x0, 0x0, 0x0, 0x0⟩ /- BOOT_SEC -/
  , ⟨0x46C00018, [], 0xFFFFFFFF, 0x0, 0x0, 0x0, 0x0, 0x0, 0x0⟩ /- BOOT_IMAGE_CRC -/
  , ⟨0x46C0001C, [], 0xFFFFFFFF, 0x0, 0x0, 0x0, 0x0, 0x0, 0x0⟩ /- BOOT_SAFETY_CRC -/
  , ⟨0x46C00020, [], 0x3FF03FF, 0x0, 0x0, 0x0, 0x0, 0x0, 0x0⟩ /- BOOT_ST_RESULT -/
  , ⟨0x46C00024, [], 0xFFFFFFFF, 0x0, 0x0, 0x0, 0x0, 0x0, 0x0⟩ /- BOOT_TIME -/
  , ⟨0x46C00030, [], 0xF0F, 0x0, 0xF00, 0x0, 0x0, 0x0, 0x0⟩ /- BOOT_RESET_CAUSE -/
  , ⟨0x46C00034, [], 0xFF000001, 0x0, 0x0, 0xFF000001, 0x0, 0x0, 0x0⟩ /- BOOT_RESET -/
  , ⟨0x46C00040, [], 0xF0030000, 0x0, 0x0, 0x70000000, 0x0, 0x0, 0x0⟩ /- BOOT_FLASH_CMD -/
  , ⟨0x46C00044, [], 0x1FFFFFF, 0x1FFFFFF, 0x0, 0x0, 0x0, 0x0, 0x0⟩ /- BOOT_FLASH_ADDR -/
  , ⟨0x46C00048, [], 0x1FF, 0x1FF, 0x0, 0x0, 0x0, 0x0, 0x1⟩ /- BOOT_FLASH_LEN -/
  , ⟨0x46C00050, [], 0xFF000033, 0x0, 0x0, 0xFF000033, 0x0, 0x0, 0x0⟩ /- BOOT_OTP_CMD -/
  , ⟨0x46C00054, [], 0x3FFF, 0x0, 0x0, 0x0, 0x0, 0x0, 0x0⟩ /- BOOT_OTP_STATUS -/
  , ⟨0x46C00100, [(0x4, 64)], 0xFFFFFFFF, 0xFFFFFFFF, 0x0, 0x0, 0x0, 0x0, 0x0⟩ /- BOOT_FLASH_BUF_w -/
  ]

/-- Rows of the block at 0x4700_0000. -/
def regRows470 : List RegRow :=
  [ ⟨0x47000000, [], 0xE0FFFF00, 0x0, 0x0, 0x0, 0x0, 0x0, 0x0⟩ /- WEAR_STATUS -/
  , ⟨0x47000004, [], 0x80000F07, 0x0, 0x0, 0x0, 0x0, 0x0, 0x0⟩ /- WEAR_CP -/
  , ⟨0x47000008, [], 0xFFFF8F8F, 0x0, 0x0, 0x0, 0x0, 0x0, 0x0⟩ /- WEAR_LAGOON -/
  , ⟨0x47000010, [(0x4, 4)], 0xDF00001F, 0x0, 0x0, 0x0, 0x0, 0x9F000000, 0x0⟩ /- WEAR_SAR_j -/
  , ⟨0x47000020, [(0x4, 4)], 0xE000001F, 0x0, 0x0, 0x0, 0x0, 0x8000001F, 0x0⟩ /- WEAR_LINK_j -/
  , ⟨0x47000030, [(0x4, 4)], 0xC000003F, 0x0, 0x0, 0x0, 0x0, 0x8000003F, 0x0⟩ /- WEAR_LEG_j -/
  , ⟨0x47000100, [(0x8, 8)], 0xFFFFFFFF, 0x0, 0x0, 0x0, 0x0, 0x0, 0x0⟩ /- WEAR_MON_m_VAL -/
  , ⟨0x47000104, [], 0xFFFFFFFF, 0x0, 0x0, 0x0, 0x0, 0xFFFFFFFF, 0x4470558C⟩ /- WEAR_MON_m_TH -/
  , ⟨0x4700010C, [], 0xFFFFFFFF, 0x0, 0x0, 0x0, 0x0, 0xFFFFFFFF, 0x1E0032⟩ /- WEAR_MON_m_TH -/
  , ⟨0x47000114, [], 0xFFFFFFFF, 0x0, 0x0, 0x0, 0x0, 0xFFFFFFFF, 0x100100⟩ /- WEAR_MON_m_TH -/
  , ⟨0x4700011C, [], 0xFFFFFFFF, 0x0, 0x0, 0x0, 0x0, 0xFFFFFFFF, 0x400400⟩ /- WEAR_MON_m_TH -/
  , ⟨0x47000124, [], 0xFFFFFFFF, 0x0, 0x0, 0x0, 0x0, 0xFFFFFFFF, 0x10003⟩ /- WEAR_MON_m_TH -/
  , ⟨0x4700012C, [], 0xFFFFFFFF, 0x0, 0x0, 0x0, 0x0, 0xFFFFFFFF, 0x200040⟩ /- WEAR_MON_m_TH -/
  , ⟨0x47000134, [], 0xFFFFFFFF, 0x0, 0x0, 0x0, 0x0, 0xFFFFFFFF, 0xA03E8⟩ /- WEAR_MON_m_TH -/
  , ⟨0x4700013C, [], 0xFFFFFFFF, 0x0, 0x0, 0x0, 0x0, 0xFFFFFFFF, 0x10004⟩ /- WEAR_MON_m_TH -/
  ]

/-- Rows of the block at 0x4740_0000. -/
def regRows474 : List RegRow :=
  [ ⟨0x47400000, [], 0xF300FFFF, 0x0, 0x0, 0x0, 0x0, 0xF300FFFF, 0x2000BA7E⟩ /- ULI_CFG -/
  , ⟨0x47400004, [], 0xFFFFFFFF, 0x0, 0x0, 0x0, 0x0, 0xFFFFFFFF, 0x0⟩ /- ULI_IP -/
  , ⟨0x47400008, [], 0xFFFFFFFF, 0x0, 0x0, 0x0, 0x0, 0xFFFFFFFF, 0x0⟩ /- ULI_MAC_LO -/
  , ⟨0x4740000C, [], 0xFFFF, 0x0, 0x0, 0x0, 0x0, 0xFFFF, 0x0⟩ /- ULI_MAC_HI -/
  , ⟨0x47400010, [], 0x3FFFFFFF, 0x0, 0x0, 0x0, 0x0, 0x3FFFFFFF, 0x0⟩ /- ULI_CAN_RQ -/
  , ⟨0x47400014, [], 0x3FFFFFFF, 0x0, 0x0, 0x0, 0x0, 0x3FFFFFFF, 0x0⟩ /- ULI_CAN_RSP -/
  , ⟨0x47400020, [(0x8, 4)], 0xFFFFF007, 0x0, 0x0, 0x0, 0x0, 0xFFFFF007, 0x0⟩ /- ULI_MEM_k_BASE -/
  , ⟨0x47400024, [(0x8, 4)], 0xFFFFF000, 0x0, 0x0, 0x0, 0x0, 0xFFFFF000, 0x0⟩ /- ULI_MEM_k_SIZE -/
  , ⟨0x47400040, [], 0xFFFFFFFF, 0x0, 0x0, 0x0, 0x0, 0x0, 0x0⟩ /- ULI_COUNT -/
  , ⟨0x47400050, [], 0x8000000F, 0x0, 0x0, 0x0, 0x0, 0x8000000F, 0x0⟩ /- ULI_TWIN -/
  , ⟨0x47400054, [], 0xFFFFFFFF, 0x0, 0x0, 0x0, 0x0, 0xFFFFFFFF, 0x0⟩ /- ULI_IP_B -/
  , ⟨0x47400058, [], 0xFFFFFFFF, 0x0, 0x0, 0x0, 0x0, 0xFFFFFFFF, 0x0⟩ /- ULI_MAC_B_LO -/
  , ⟨0x4740005C, [], 0xFFFF, 0x0, 0x0, 0x0, 0x0, 0xFFFF, 0x0⟩ /- ULI_MAC_B_HI -/
  , ⟨0x47400060, [], 0x3FFFFFFF, 0x0, 0x0, 0x0, 0x0, 0x3FFFFFFF, 0x0⟩ /- ULI_CAN_B_RQ -/
  , ⟨0x47400064, [], 0x3FFFFFFF, 0x0, 0x0, 0x0, 0x0, 0x3FFFFFFF, 0x0⟩ /- ULI_CAN_B_RSP -/
  ]

/-- The rows of the register block with number `a / 0x10_0000` (R484): no rows outside every block. -/
def blockRows : Nat → List RegRow
  | 0x400 => regRows400
  | 0x401 => regRows401
  | 0x402 => regRows402
  | 0x403 => regRows403
  | 0x410 => regRows410
  | 0x414 => regRows414
  | 0x420 => regRows420
  | 0x424 => regRows424
  | 0x428 => regRows428
  | 0x42C => regRows42C
  | 0x430 => regRows430
  | 0x434 => regRows434
  | 0x438 => regRows438
  | 0x440 => regRows440
  | 0x444 => regRows444
  | 0x448 => regRows448
  | 0x44C => regRows44C
  | 0x450 => regRows450
  | 0x454 => regRows454
  | 0x458 => regRows458
  | 0x45C => regRows45C
  | 0x460 => regRows460
  | 0x464 => regRows464
  | 0x468 => regRows468
  | 0x46C => regRows46C
  | 0x470 => regRows470
  | 0x474 => regRows474
  | _ => []

/-- The numbers of the register blocks of Table 25.2. -/
def blockList : List Nat :=
  [0x400, 0x401, 0x402, 0x403, 0x410, 0x414, 0x420, 0x424, 0x428, 0x42C, 0x430, 0x434, 0x438, 0x440, 0x444, 0x448, 0x44C, 0x450, 0x454, 0x458, 0x45C, 0x460, 0x464, 0x468, 0x46C, 0x470, 0x474]

end Sys2Proof.Machine
end

