-- ==== Sys2Proof/Machine/RegNames.lean ====
section
/-! DEFINITION. The address of every register of the device, by its name in the spec: the index letters of the name are
 the arguments, in order. Written from the register tables of spec/ (the table is named at each register). -/

namespace Sys2Proof.Machine.R

/-- `SYS_ID`, spec/00, Table 0.2. -/
def sysId : Nat := 0x40000000
/-- `SYS_LOCK`, spec/01, Table 1.3. -/
def sysLock : Nat := 0x40000004
/-- `SYS_STATE`, spec/01, Table 1.4. -/
def sysState : Nat := 0x40000008
/-- `SYS_STRAP`, spec/24, Table 24.3. -/
def sysStrap : Nat := 0x4000000C
/-- `CRU_STATUS`, spec/02, Table 2.3. -/
def cruStatus : Nat := 0x40100000
/-- `SEQ_ERR`, spec/02, Table 2.12. -/
def seqErr : Nat := 0x40304000
/-- `CE_GROUP_g`, spec/06, Table 6.6. -/
def ceGroup (a : Nat) : Nat := 0x42001000 + 0x4 * a
/-- `SEQ_n_CTRL`, spec/02, Table 2.6. -/
def seqCtrl (a : Nat) : Nat := 0x40300000 + 0x1000 * a
/-- `SEQ_n_PERIOD`, spec/02, Table 2.6. -/
def seqPeriod (a : Nat) : Nat := 0x40300004 + 0x1000 * a
/-- `SEQ_n_ADVANCE`, spec/02, Table 2.6. -/
def seqAdvance (a : Nat) : Nat := 0x40300008 + 0x1000 * a
/-- `SEQ_n_CFG`, spec/02, Table 2.6. -/
def seqCfg (a : Nat) : Nat := 0x4030000C + 0x1000 * a
/-- `SEQ_n_STATUS`, spec/02, Table 2.6. -/
def seqStatus (a : Nat) : Nat := 0x40300010 + 0x1000 * a
/-- `SEQ_n_OVR_COUNT`, spec/02, Table 2.6. -/
def seqOvrCount (a : Nat) : Nat := 0x40300014 + 0x1000 * a
/-- `SEQ_n_CONSEC`, spec/02, Table 2.6. -/
def seqConsec (a : Nat) : Nat := 0x40300018 + 0x1000 * a
/-- `SEQ_n_CORE_DONE`, spec/02, Table 2.6. -/
def seqCoreDone (a : Nat) : Nat := 0x4030001C + 0x1000 * a
/-- `SEQ_n_STEP_s`, spec/02, Table 2.6. -/
def seqStep (a b : Nat) : Nat := 0x40300100 + 0x1000 * a + 0x4 * b
/-- `SDF_CH_i_IN`, spec/03, Table 3.2. -/
def sdfChIn (a : Nat) : Nat := 0x41000000 + 0x80 * a
/-- `SDF_CH_i_CAP`, spec/03, Table 3.2. -/
def sdfChCap (a : Nat) : Nat := 0x41000004 + 0x80 * a
/-- `SDF_CH_i_CIC`, spec/03, Table 3.2. -/
def sdfChCic (a : Nat) : Nat := 0x41000008 + 0x80 * a
/-- `SDF_CH_i_CIC_SH`, spec/03, Table 3.2. -/
def sdfChCicSh (a : Nat) : Nat := 0x4100000C + 0x80 * a
/-- `SDF_CH_i_FIR`, spec/03, Table 3.2. -/
def sdfChFir (a : Nat) : Nat := 0x41000010 + 0x80 * a
/-- `SDF_CH_i_COEF`, spec/03, Table 3.2. -/
def sdfChCoef (a : Nat) : Nat := 0x41000014 + 0x80 * a
/-- `SDF_CH_i_FIR_GD`, spec/03, Table 3.2. -/
def sdfChFirGd (a : Nat) : Nat := 0x41000018 + 0x80 * a
/-- `SDF_CH_i_RS`, spec/03, Table 3.2. -/
def sdfChRs (a : Nat) : Nat := 0x4100001C + 0x80 * a
/-- `SDF_CH_i_RS_PHASE`, spec/03, Table 3.2. -/
def sdfChRsPhase (a : Nat) : Nat := 0x41000020 + 0x80 * a
/-- `SDF_CH_i_SIG`, spec/03, Table 3.2. -/
def sdfChSig (a : Nat) : Nat := 0x41000024 + 0x80 * a
/-- `SDF_CH_i_DSIG_A`, spec/03, Table 3.2. -/
def sdfChDsigA (a : Nat) : Nat := 0x41000028 + 0x80 * a
/-- `SDF_CH_i_DSIG_B`, spec/03, Table 3.2. -/
def sdfChDsigB (a : Nat) : Nat := 0x4100002C + 0x80 * a
/-- `SDF_CH_i_DET`, spec/03, Table 3.2. -/
def sdfChDet (a : Nat) : Nat := 0x41000030 + 0x80 * a
/-- `SDF_CH_i_MON`, spec/03, Table 3.2. -/
def sdfChMon (a : Nat) : Nat := 0x41000034 + 0x80 * a
/-- `SDF_CH_i_PF`, spec/03, Table 3.2. -/
def sdfChPf (a : Nat) : Nat := 0x41000038 + 0x80 * a
/-- `SDF_CH_i_PF_TRIP`, spec/03, Table 3.2. -/
def sdfChPfTrip (a : Nat) : Nat := 0x4100003C + 0x80 * a
/-- `SDF_CH_i_PF_WARN`, spec/03, Table 3.2. -/
def sdfChPfWarn (a : Nat) : Nat := 0x41000040 + 0x80 * a
/-- `SDF_CH_i_STATUS`, spec/03, Table 3.2. -/
def sdfChStatus (a : Nat) : Nat := 0x41000044 + 0x80 * a
/-- `SDF_CH_i_PF_VAL`, spec/03, Table 3.2. -/
def sdfChPfVal (a : Nat) : Nat := 0x41000048 + 0x80 * a
/-- `SDF_CH_i_TS`, spec/03, Table 3.2. -/
def sdfChTs (a : Nat) : Nat := 0x4100004C + 0x80 * a
/-- `SDF_CLK_CFG`, spec/03, Table 3.4. -/
def sdfClkCfg : Nat := 0x41010000
/-- `SDF_CLOSE_LAG_n`, spec/03, Table 3.4. -/
def sdfCloseLag (a : Nat) : Nat := 0x41010010 + 0x4 * a
/-- `SDF_MAC`, spec/03, Table 3.4. -/
def sdfMac : Nat := 0x41010020
/-- `SDF_ERR`, spec/03, Table 3.4. -/
def sdfErr : Nat := 0x41010024
/-- `SAR_k_CTRL`, spec/04, Table 4.3. -/
def sarCtrl (a : Nat) : Nat := 0x41400000 + 0x200 * a
/-- `SAR_k_CFG`, spec/04, Table 4.3. -/
def sarCfg (a : Nat) : Nat := 0x41400004 + 0x200 * a
/-- `SAR_k_TRIG`, spec/04, Table 4.3. -/
def sarTrig (a : Nat) : Nat := 0x41400008 + 0x200 * a
/-- `SAR_k_CAL_CFG`, spec/04, Table 4.3. -/
def sarCalCfg (a : Nat) : Nat := 0x4140000C + 0x200 * a
/-- `SAR_k_STATUS`, spec/04, Table 4.3. -/
def sarStatus (a : Nat) : Nat := 0x41400010 + 0x200 * a
/-- `SAR_k_OVR`, spec/04, Table 4.3. -/
def sarOvr (a : Nat) : Nat := 0x41400014 + 0x200 * a
/-- `SAR_k_TS_SIG`, spec/04, Table 4.3. -/
def sarTsSig (a : Nat) : Nat := 0x41400018 + 0x200 * a
/-- `SAR_k_REG_TS`, spec/04, Table 4.3. -/
def sarRegTs (a : Nat) : Nat := 0x4140001C + 0x200 * a
/-- `SAR_k_INJ_TS`, spec/04, Table 4.3. -/
def sarInjTs (a : Nat) : Nat := 0x41400020 + 0x200 * a
/-- `SAR_k_CAL_RES`, spec/04, Table 4.3. -/
def sarCalRes (a : Nat) : Nat := 0x41400024 + 0x200 * a
/-- `SAR_k_CAL_STAT`, spec/04, Table 4.3. -/
def sarCalStat (a : Nat) : Nat := 0x41400028 + 0x200 * a
/-- `SAR_k_ENT_e`, spec/04, Table 4.3. -/
def sarEnt (a b : Nat) : Nat := 0x41400040 + 0x200 * a + 0x4 * b
/-- `SAR_k_RES_e`, spec/04, Table 4.3. -/
def sarRes (a b : Nat) : Nat := 0x414000A0 + 0x200 * a + 0x4 * b
/-- `SAR_TIMER_j_INTERVAL`, spec/04, Table 4.6. -/
def sarTimerInterval (a : Nat) : Nat := 0x41408000 + 0x8 * a
/-- `SAR_TIMER_j_PHASE`, spec/04, Table 4.6. -/
def sarTimerPhase (a : Nat) : Nat := 0x41408004 + 0x8 * a
/-- `SEQ_PAIR_p_CFG`, spec/05, Table 5.2. -/
def seqPairCfg (a : Nat) : Nat := 0x40310000 + 0x20 * a
/-- `SEQ_PAIR_p_SIG`, spec/05, Table 5.2. -/
def seqPairSig (a : Nat) : Nat := 0x40310004 + 0x20 * a
/-- `SEQ_PAIR_p_WIN`, spec/05, Table 5.2. -/
def seqPairWin (a : Nat) : Nat := 0x40310008 + 0x20 * a
/-- `SEQ_PAIR_p_CNT`, spec/05, Table 5.2. -/
def seqPairCnt (a : Nat) : Nat := 0x4031000C + 0x20 * a
/-- `SEQ_PAIR_p_STATUS`, spec/05, Table 5.2. -/
def seqPairStatus (a : Nat) : Nat := 0x40310010 + 0x20 * a
/-- `SEQ_PAIR_p_CTRL`, spec/05, Table 5.2. -/
def seqPairCtrl (a : Nat) : Nat := 0x40310014 + 0x20 * a
/-- `SEQ_PAIR_p_DIFF`, spec/05, Table 5.2. -/
def seqPairDiff (a : Nat) : Nat := 0x40310018 + 0x20 * a
/-- `SEQ_SUB_j`, spec/05, Table 5.2. -/
def seqSub (a : Nat) : Nat := 0x40311000 + 0x4 * a
/-- `SEQ_PQ_CFG`, spec/05, Table 5.2. -/
def seqPqCfg : Nat := 0x40311040
/-- `CE_BANK_CTRL`, spec/06, Table 6.5. -/
def ceBankCtrl : Nat := 0x42000000
/-- `CE_BANK_STATUS`, spec/06, Table 6.5. -/
def ceBankStatus : Nat := 0x42000004
/-- `CE_ERR`, spec/06, Table 6.5. -/
def ceErr : Nat := 0x42000008
/-- `VEC_u_CTRL`, spec/07, Table 7.4. -/
def vecCtrl (a : Nat) : Nat := 0x42400000 + 0x400 * a
/-- `VEC_u_CFG`, spec/07, Table 7.4. -/
def vecCfg (a : Nat) : Nat := 0x42400004 + 0x400 * a
/-- `VEC_u_SIG_0`, spec/07, Table 7.4. -/
def vecSig0 (a : Nat) : Nat := 0x42400008 + 0x400 * a
/-- `VEC_u_SIG_1`, spec/07, Table 7.4. -/
def vecSig1 (a : Nat) : Nat := 0x4240000C + 0x400 * a
/-- `VEC_u_SIG_2`, spec/07, Table 7.4. -/
def vecSig2 (a : Nat) : Nat := 0x42400010 + 0x400 * a
/-- `VEC_u_SIG_3`, spec/07, Table 7.4. -/
def vecSig3 (a : Nat) : Nat := 0x42400014 + 0x400 * a
/-- `VEC_u_SIG_4`, spec/07, Table 7.4. -/
def vecSig4 (a : Nat) : Nat := 0x42400018 + 0x400 * a
/-- `VEC_u_SIG_5`, spec/07, Table 7.4. -/
def vecSig5 (a : Nat) : Nat := 0x4240001C + 0x400 * a
/-- `VEC_u_OUT_0`, spec/07, Table 7.4. -/
def vecOut0 (a : Nat) : Nat := 0x42400020 + 0x400 * a
/-- `VEC_u_OUT_1`, spec/07, Table 7.4. -/
def vecOut1 (a : Nat) : Nat := 0x42400024 + 0x400 * a
/-- `VEC_u_OUT_2`, spec/07, Table 7.4. -/
def vecOut2 (a : Nat) : Nat := 0x42400028 + 0x400 * a
/-- `VEC_u_OUT_3`, spec/07, Table 7.4. -/
def vecOut3 (a : Nat) : Nat := 0x4240002C + 0x400 * a
/-- `VEC_u_OUT_4`, spec/07, Table 7.4. -/
def vecOut4 (a : Nat) : Nat := 0x42400030 + 0x400 * a
/-- `VEC_u_OUT_5`, spec/07, Table 7.4. -/
def vecOut5 (a : Nat) : Nat := 0x42400034 + 0x400 * a
/-- `VEC_u_RS`, spec/07, Table 7.4. -/
def vecRs (a : Nat) : Nat := 0x42400040 + 0x400 * a
/-- `VEC_u_LD`, spec/07, Table 7.4. -/
def vecLd (a : Nat) : Nat := 0x42400044 + 0x400 * a
/-- `VEC_u_LQ`, spec/07, Table 7.4. -/
def vecLq (a : Nat) : Nat := 0x42400048 + 0x400 * a
/-- `VEC_u_PSI_M`, spec/07, Table 7.4. -/
def vecPsiM (a : Nat) : Nat := 0x4240004C + 0x400 * a
/-- `VEC_u_I_MAX`, spec/07, Table 7.4. -/
def vecIMax (a : Nat) : Nat := 0x42400050 + 0x400 * a
/-- `VEC_u_T_LIM`, spec/07, Table 7.4. -/
def vecTLim (a : Nat) : Nat := 0x42400054 + 0x400 * a
/-- `VEC_u_FBASE`, spec/07, Table 7.4. -/
def vecFbase (a : Nat) : Nat := 0x42400058 + 0x400 * a
/-- `VEC_u_VRATIO`, spec/07, Table 7.4. -/
def vecVratio (a : Nat) : Nat := 0x4240005C + 0x400 * a
/-- `VEC_u_OBS_LEAK`, spec/07, Table 7.4. -/
def vecObsLeak (a : Nat) : Nat := 0x42400060 + 0x400 * a
/-- `VEC_u_OBS_KP`, spec/07, Table 7.4. -/
def vecObsKp (a : Nat) : Nat := 0x42400064 + 0x400 * a
/-- `VEC_u_OBS_KI`, spec/07, Table 7.4. -/
def vecObsKi (a : Nat) : Nat := 0x42400068 + 0x400 * a
/-- `VEC_u_OBS_KP_FLY`, spec/07, Table 7.4. -/
def vecObsKpFly (a : Nat) : Nat := 0x4240006C + 0x400 * a
/-- `VEC_u_OBS_KI_FLY`, spec/07, Table 7.4. -/
def vecObsKiFly (a : Nat) : Nat := 0x42400070 + 0x400 * a
/-- `VEC_u_OBS_MIN`, spec/07, Table 7.4. -/
def vecObsMin (a : Nat) : Nat := 0x42400074 + 0x400 * a
/-- `VEC_u_OBS_LOCK`, spec/07, Table 7.4. -/
def vecObsLock (a : Nat) : Nat := 0x42400078 + 0x400 * a
/-- `VEC_u_SWITCH_SLEW`, spec/07, Table 7.4. -/
def vecSwitchSlew (a : Nat) : Nat := 0x4240007C + 0x400 * a
/-- `VEC_u_ANG_WIN`, spec/07, Table 7.4. -/
def vecAngWin (a : Nat) : Nat := 0x42400080 + 0x400 * a
/-- `VEC_u_ANG_CNT`, spec/07, Table 7.4. -/
def vecAngCnt (a : Nat) : Nat := 0x42400084 + 0x400 * a
/-- `VEC_u_MTPA_j`, spec/07, Table 7.4. -/
def vecMtpa (a b : Nat) : Nat := 0x42400100 + 0x400 * a + 0x4 * b
/-- `VEC_u_T_TAB_MAX`, spec/07, Table 7.4. -/
def vecTTabMax (a : Nat) : Nat := 0x42400184 + 0x400 * a
/-- `VEC_u_FW_j`, spec/07, Table 7.4. -/
def vecFw (a b : Nat) : Nat := 0x42400200 + 0x400 * a + 0x4 * b
/-- `VEC_u_X_TAB_MAX`, spec/07, Table 7.4. -/
def vecXTabMax (a : Nat) : Nat := 0x42400284 + 0x400 * a
/-- `VEC_u_FLY_TIME`, spec/07, Table 7.4. -/
def vecFlyTime (a : Nat) : Nat := 0x42400300 + 0x400 * a
/-- `VEC_u_FLY_SEQ`, spec/07, Table 7.4. -/
def vecFlySeq (a : Nat) : Nat := 0x42400304 + 0x400 * a
/-- `VEC_u_FLY_MIN`, spec/07, Table 7.4. -/
def vecFlyMin (a : Nat) : Nat := 0x42400308 + 0x400 * a
/-- `VEC_u_FLY_ZV`, spec/07, Table 7.4. -/
def vecFlyZv (a : Nat) : Nat := 0x4240030C + 0x400 * a
/-- `VEC_u_FLY_ZV_IMIN`, spec/07, Table 7.4. -/
def vecFlyZvImin (a : Nat) : Nat := 0x42400310 + 0x400 * a
/-- `VEC_u_FLY_VNOISE`, spec/07, Table 7.4. -/
def vecFlyVnoise (a : Nat) : Nat := 0x42400314 + 0x400 * a
/-- `VEC_u_UR_LIMIT`, spec/07, Table 7.4. -/
def vecUrLimit (a : Nat) : Nat := 0x42400320 + 0x400 * a
/-- `VEC_u_DISCH_ASC_SPEED`, spec/07, Table 7.4. -/
def vecDischAscSpeed (a : Nat) : Nat := 0x42400324 + 0x400 * a
/-- `VEC_u_DISCH_ID`, spec/07, Table 7.4. -/
def vecDischId (a : Nat) : Nat := 0x42400328 + 0x400 * a
/-- `VEC_u_STATUS`, spec/07, Table 7.4. -/
def vecStatus (a : Nat) : Nat := 0x42400380 + 0x400 * a
/-- `VEC_u_FLY_SPEED`, spec/07, Table 7.4. -/
def vecFlySpeed (a : Nat) : Nat := 0x42400384 + 0x400 * a
/-- `VEC_u_ANG_DIFF`, spec/07, Table 7.4. -/
def vecAngDiff (a : Nat) : Nat := 0x42400388 + 0x400 * a
/-- `VEC_POS_k_CFG`, spec/07, Table 7.6. -/
def vecPosCfg (a : Nat) : Nat := 0x42404000 + 0x40 * a
/-- `VEC_POS_k_SCALE`, spec/07, Table 7.6. -/
def vecPosScale (a : Nat) : Nat := 0x42404004 + 0x40 * a
/-- `VEC_POS_k_OFFSET`, spec/07, Table 7.6. -/
def vecPosOffset (a : Nat) : Nat := 0x42404008 + 0x40 * a
/-- `VEC_POS_k_SSI`, spec/07, Table 7.6. -/
def vecPosSsi (a : Nat) : Nat := 0x4240400C + 0x40 * a
/-- `VEC_POS_k_SPD`, spec/07, Table 7.6. -/
def vecPosSpd (a : Nat) : Nat := 0x42404010 + 0x40 * a
/-- `VEC_POS_k_COUNT`, spec/07, Table 7.6. -/
def vecPosCount (a : Nat) : Nat := 0x42404014 + 0x40 * a
/-- `VEC_POS_k_EDGE_TS`, spec/07, Table 7.6. -/
def vecPosEdgeTs (a : Nat) : Nat := 0x42404018 + 0x40 * a
/-- `VEC_POS_k_ZCOUNT`, spec/07, Table 7.6. -/
def vecPosZcount (a : Nat) : Nat := 0x4240401C + 0x40 * a
/-- `VEC_POS_k_STATUS`, spec/07, Table 7.6. -/
def vecPosStatus (a : Nat) : Nat := 0x42404020 + 0x40 * a
/-- `GFE_n_CTRL`, spec/08, Table 8.3. -/
def gfeCtrl (a : Nat) : Nat := 0x42800000 + 0x400 * a
/-- `GFE_n_CFG`, spec/08, Table 8.3. -/
def gfeCfg (a : Nat) : Nat := 0x42800004 + 0x400 * a
/-- `GFE_n_SIG_0`, spec/08, Table 8.3. -/
def gfeSig0 (a : Nat) : Nat := 0x42800008 + 0x400 * a
/-- `GFE_n_SIG_1`, spec/08, Table 8.3. -/
def gfeSig1 (a : Nat) : Nat := 0x4280000C + 0x400 * a
/-- `GFE_n_SIG_2`, spec/08, Table 8.3. -/
def gfeSig2 (a : Nat) : Nat := 0x42800010 + 0x400 * a
/-- `GFE_n_SIG_3`, spec/08, Table 8.3. -/
def gfeSig3 (a : Nat) : Nat := 0x42800014 + 0x400 * a
/-- `GFE_n_SIG_4`, spec/08, Table 8.3. -/
def gfeSig4 (a : Nat) : Nat := 0x42800018 + 0x400 * a
/-- `GFE_n_SIG_5`, spec/08, Table 8.3. -/
def gfeSig5 (a : Nat) : Nat := 0x4280001C + 0x400 * a
/-- `GFE_n_SIG_6`, spec/08, Table 8.3. -/
def gfeSig6 (a : Nat) : Nat := 0x42800020 + 0x400 * a
/-- `GFE_n_OUT_0`, spec/08, Table 8.3. -/
def gfeOut0 (a : Nat) : Nat := 0x42800030 + 0x400 * a
/-- `GFE_n_OUT_1`, spec/08, Table 8.3. -/
def gfeOut1 (a : Nat) : Nat := 0x42800034 + 0x400 * a
/-- `GFE_n_OUT_2`, spec/08, Table 8.3. -/
def gfeOut2 (a : Nat) : Nat := 0x42800038 + 0x400 * a
/-- `GFE_n_OUT_3`, spec/08, Table 8.3. -/
def gfeOut3 (a : Nat) : Nat := 0x4280003C + 0x400 * a
/-- `GFE_n_OUT_4`, spec/08, Table 8.3. -/
def gfeOut4 (a : Nat) : Nat := 0x42800040 + 0x400 * a
/-- `GFE_n_OUT_5`, spec/08, Table 8.3. -/
def gfeOut5 (a : Nat) : Nat := 0x42800044 + 0x400 * a
/-- `GFE_n_OUT_6`, spec/08, Table 8.3. -/
def gfeOut6 (a : Nat) : Nat := 0x42800048 + 0x400 * a
/-- `GFE_n_FBASE`, spec/08, Table 8.4. -/
def gfeFbase (a : Nat) : Nat := 0x42800080 + 0x400 * a
/-- `GFE_n_M`, spec/08, Table 8.4. -/
def gfeM (a : Nat) : Nat := 0x42800084 + 0x400 * a
/-- `GFE_n_DROOP`, spec/08, Table 8.4. -/
def gfeDroop (a : Nat) : Nat := 0x42800088 + 0x400 * a
/-- `GFE_n_DAMP`, spec/08, Table 8.4. -/
def gfeDamp (a : Nat) : Nat := 0x4280008C + 0x400 * a
/-- `GFE_n_W_SET`, spec/08, Table 8.4. -/
def gfeWSet (a : Nat) : Nat := 0x42800090 + 0x400 * a
/-- `GFE_n_W_MIN`, spec/08, Table 8.4. -/
def gfeWMin (a : Nat) : Nat := 0x42800094 + 0x400 * a
/-- `GFE_n_W_MAX`, spec/08, Table 8.4. -/
def gfeWMax (a : Nat) : Nat := 0x42800098 + 0x400 * a
/-- `GFE_n_TPQ`, spec/08, Table 8.4. -/
def gfeTpq (a : Nat) : Nat := 0x4280009C + 0x400 * a
/-- `GFE_n_V_SET`, spec/08, Table 8.4. -/
def gfeVSet (a : Nat) : Nat := 0x428000A0 + 0x400 * a
/-- `GFE_n_NQ`, spec/08, Table 8.4. -/
def gfeNq (a : Nat) : Nat := 0x428000A4 + 0x400 * a
/-- `GFE_n_KV`, spec/08, Table 8.4. -/
def gfeKv (a : Nat) : Nat := 0x428000A8 + 0x400 * a
/-- `GFE_n_E_INT_MAX`, spec/08, Table 8.4. -/
def gfeEIntMax (a : Nat) : Nat := 0x428000AC + 0x400 * a
/-- `GFE_n_E_MIN`, spec/08, Table 8.4. -/
def gfeEMin (a : Nat) : Nat := 0x428000B0 + 0x400 * a
/-- `GFE_n_E_MAX`, spec/08, Table 8.4. -/
def gfeEMax (a : Nat) : Nat := 0x428000B4 + 0x400 * a
/-- `GFE_n_E_START`, spec/08, Table 8.4. -/
def gfeEStart (a : Nat) : Nat := 0x428000B8 + 0x400 * a
/-- `GFE_n_E_RAMP`, spec/08, Table 8.4. -/
def gfeERamp (a : Nat) : Nat := 0x428000BC + 0x400 * a
/-- `GFE_n_R_V`, spec/08, Table 8.4. -/
def gfeRV (a : Nat) : Nat := 0x428000C0 + 0x400 * a
/-- `GFE_n_L_V`, spec/08, Table 8.4. -/
def gfeLV (a : Nat) : Nat := 0x428000C4 + 0x400 * a
/-- `GFE_n_R_H`, spec/08, Table 8.4. -/
def gfeRH (a : Nat) : Nat := 0x428000C8 + 0x400 * a
/-- `GFE_n_T_H`, spec/08, Table 8.4. -/
def gfeTH (a : Nat) : Nat := 0x428000CC + 0x400 * a
/-- `GFE_n_L_F`, spec/08, Table 8.4. -/
def gfeLF (a : Nat) : Nat := 0x428000D0 + 0x400 * a
/-- `GFE_n_I_LIM`, spec/08, Table 8.4. -/
def gfeILim (a : Nat) : Nat := 0x428000D4 + 0x400 * a
/-- `GFE_n_KP_I`, spec/08, Table 8.4. -/
def gfeKpI (a : Nat) : Nat := 0x428000D8 + 0x400 * a
/-- `GFE_n_KI_I`, spec/08, Table 8.4. -/
def gfeKiI (a : Nat) : Nat := 0x428000DC + 0x400 * a
/-- `GFE_n_VI_LIM`, spec/08, Table 8.4. -/
def gfeViLim (a : Nat) : Nat := 0x428000E0 + 0x400 * a
/-- `GFE_n_V_OUT_MAX`, spec/08, Table 8.4. -/
def gfeVOutMax (a : Nat) : Nat := 0x428000E4 + 0x400 * a
/-- `GFE_n_HANDOVER_TOL`, spec/08, Table 8.4. -/
def gfeHandoverTol (a : Nat) : Nat := 0x428000E8 + 0x400 * a
/-- `GFE_n_HANDOVER`, spec/08, Table 8.4. -/
def gfeHandover (a : Nat) : Nat := 0x428000EC + 0x400 * a
/-- `GFE_n_PLL_KP`, spec/08, Table 8.4. -/
def gfePllKp (a : Nat) : Nat := 0x428000F0 + 0x400 * a
/-- `GFE_n_PLL_KI`, spec/08, Table 8.4. -/
def gfePllKi (a : Nat) : Nat := 0x428000F4 + 0x400 * a
/-- `GFE_n_PLL_LOCK`, spec/08, Table 8.4. -/
def gfePllLock (a : Nat) : Nat := 0x428000F8 + 0x400 * a
/-- `GFE_n_V_LIVE`, spec/08, Table 8.4. -/
def gfeVLive (a : Nat) : Nat := 0x428000FC + 0x400 * a
/-- `GFE_n_K_SYNC`, spec/08, Table 8.4. -/
def gfeKSync (a : Nat) : Nat := 0x42800100 + 0x400 * a
/-- `GFE_n_K_SYNC_V`, spec/08, Table 8.4. -/
def gfeKSyncV (a : Nat) : Nat := 0x42800104 + 0x400 * a
/-- `GFE_n_SYNC_OFS`, spec/08, Table 8.4. -/
def gfeSyncOfs (a : Nat) : Nat := 0x42800108 + 0x400 * a
/-- `GFE_n_SYNC_ANG`, spec/08, Table 8.4. -/
def gfeSyncAng (a : Nat) : Nat := 0x4280010C + 0x400 * a
/-- `GFE_n_SYNC_DV`, spec/08, Table 8.4. -/
def gfeSyncDv (a : Nat) : Nat := 0x42800110 + 0x400 * a
/-- `GFE_n_SYNC_DW`, spec/08, Table 8.4. -/
def gfeSyncDw (a : Nat) : Nat := 0x42800114 + 0x400 * a
/-- `GFE_n_CNT`, spec/08, Table 8.4. -/
def gfeCnt (a : Nat) : Nat := 0x42800118 + 0x400 * a
/-- `GFE_n_STATUS`, spec/08, Table 8.5. -/
def gfeStatus (a : Nat) : Nat := 0x42800180 + 0x400 * a
/-- `GFE_n_CL_COUNT`, spec/08, Table 8.5. -/
def gfeClCount (a : Nat) : Nat := 0x42800184 + 0x400 * a
/-- `GFE_n_BLEND`, spec/08, Table 8.5. -/
def gfeBlend (a : Nat) : Nat := 0x42800188 + 0x400 * a
/-- `GFE_n_SYNC_DIFF`, spec/08, Table 8.5. -/
def gfeSyncDiff (a : Nat) : Nat := 0x4280018C + 0x400 * a
/-- `GFE_n_OMEGA_ACC_LO`, spec/08, Table 8.5. -/
def gfeOmegaAccLo (a : Nat) : Nat := 0x42800190 + 0x400 * a
/-- `GFE_n_OMEGA_ACC_HI`, spec/08, Table 8.5. -/
def gfeOmegaAccHi (a : Nat) : Nat := 0x42800194 + 0x400 * a
/-- `GFE_n_FRT_CFG`, spec/09, Table 9.5. -/
def gfeFrtCfg (a : Nat) : Nat := 0x42800240 + 0x400 * a
/-- `GFE_n_FRT_SIG_0`, spec/09, Table 9.5. -/
def gfeFrtSig0 (a : Nat) : Nat := 0x42800244 + 0x400 * a
/-- `GFE_n_FRT_SIG_1`, spec/09, Table 9.5. -/
def gfeFrtSig1 (a : Nat) : Nat := 0x42800248 + 0x400 * a
/-- `GFE_n_FRT_SIG_2`, spec/09, Table 9.5. -/
def gfeFrtSig2 (a : Nat) : Nat := 0x4280024C + 0x400 * a
/-- `GFE_n_DIP_ENTER`, spec/09, Table 9.5. -/
def gfeDipEnter (a : Nat) : Nat := 0x42800250 + 0x400 * a
/-- `GFE_n_DIP_EXIT`, spec/09, Table 9.5. -/
def gfeDipExit (a : Nat) : Nat := 0x42800254 + 0x400 * a
/-- `GFE_n_SWELL_ENTER`, spec/09, Table 9.5. -/
def gfeSwellEnter (a : Nat) : Nat := 0x42800258 + 0x400 * a
/-- `GFE_n_SWELL_EXIT`, spec/09, Table 9.5. -/
def gfeSwellExit (a : Nat) : Nat := 0x4280025C + 0x400 * a
/-- `GFE_n_NEG_ENTER`, spec/09, Table 9.5. -/
def gfeNegEnter (a : Nat) : Nat := 0x42800260 + 0x400 * a
/-- `GFE_n_NEG_EXIT`, spec/09, Table 9.5. -/
def gfeNegExit (a : Nat) : Nat := 0x42800264 + 0x400 * a
/-- `GFE_n_JUMP_ANG`, spec/09, Table 9.5. -/
def gfeJumpAng (a : Nat) : Nat := 0x42800268 + 0x400 * a
/-- `GFE_n_P_RECOVER`, spec/09, Table 9.5. -/
def gfePRecover (a : Nat) : Nat := 0x4280026C + 0x400 * a
/-- `GFE_n_LEAVE_P`, spec/09, Table 9.5. -/
def gfeLeaveP (a : Nat) : Nat := 0x42800270 + 0x400 * a
/-- `GFE_n_LEAVE_Q`, spec/09, Table 9.5. -/
def gfeLeaveQ (a : Nat) : Nat := 0x42800274 + 0x400 * a
/-- `GFE_n_FRT_CNT`, spec/09, Table 9.5. -/
def gfeFrtCnt (a : Nat) : Nat := 0x42800278 + 0x400 * a
/-- `GFE_n_FRT_CURVE_j`, spec/09, Table 9.5. -/
def gfeFrtCurve (a b : Nat) : Nat := 0x42800280 + 0x400 * a + 0x4 * b
/-- `GFE_n_FRT_STATUS`, spec/09, Table 9.5. -/
def gfeFrtStatus (a : Nat) : Nat := 0x428002A0 + 0x400 * a
/-- `GFE_n_FRT_LAST`, spec/09, Table 9.5. -/
def gfeFrtLast (a : Nat) : Nat := 0x428002A4 + 0x400 * a
/-- `GFE_n_JUMP_LAST`, spec/09, Table 9.5. -/
def gfeJumpLast (a : Nat) : Nat := 0x428002A8 + 0x400 * a
/-- `GFE_n_FRT_COUNT`, spec/09, Table 9.5. -/
def gfeFrtCount (a : Nat) : Nat := 0x428002AC + 0x400 * a
/-- `GFE_n_BS_CTRL`, spec/09, Table 9.6. -/
def gfeBsCtrl (a : Nat) : Nat := 0x42800200 + 0x400 * a
/-- `GFE_n_BS_CFG`, spec/09, Table 9.6. -/
def gfeBsCfg (a : Nat) : Nat := 0x42800204 + 0x400 * a
/-- `GFE_n_BS_TIME`, spec/09, Table 9.6. -/
def gfeBsTime (a : Nat) : Nat := 0x42800208 + 0x400 * a
/-- `GFE_n_V_DEAD`, spec/09, Table 9.6. -/
def gfeVDead (a : Nat) : Nat := 0x4280020C + 0x400 * a
/-- `GFE_n_BS_SIG`, spec/09, Table 9.6. -/
def gfeBsSig (a : Nat) : Nat := 0x42800210 + 0x400 * a
/-- `GFE_n_BS_STATUS`, spec/09, Table 9.6. -/
def gfeBsStatus (a : Nat) : Nat := 0x42800214 + 0x400 * a
/-- `GFE_n_BS_TIMER`, spec/09, Table 9.6. -/
def gfeBsTimer (a : Nat) : Nat := 0x42800218 + 0x400 * a
/-- `SND_CTRL`, spec/10, Table 10.3. -/
def sndCtrl : Nat := 0x42C00000
/-- `SND_CFG`, spec/10, Table 10.3. -/
def sndCfg : Nat := 0x42C00004
/-- `SND_ID`, spec/10, Table 10.3. -/
def sndId : Nat := 0x42C00008
/-- `SND_TX_AMP`, spec/10, Table 10.3. -/
def sndTxAmp : Nat := 0x42C0000C
/-- `SND_TIMING`, spec/10, Table 10.3. -/
def sndTiming : Nat := 0x42C00010
/-- `SND_SIG_0`, spec/10, Table 10.3. -/
def sndSig0 : Nat := 0x42C00014
/-- `SND_SIG_1`, spec/10, Table 10.3. -/
def sndSig1 : Nat := 0x42C00018
/-- `SND_SIG_2`, spec/10, Table 10.3. -/
def sndSig2 : Nat := 0x42C0001C
/-- `SND_SIG_3`, spec/10, Table 10.3. -/
def sndSig3 : Nat := 0x42C00020
/-- `SND_CORR_c`, spec/10, Table 10.3. -/
def sndCorr (a : Nat) : Nat := 0x42C00040 + 0x4 * a
/-- `SND_ACCEPT_j`, spec/10, Table 10.3. -/
def sndAccept (a : Nat) : Nat := 0x42C00080 + 0x4 * a
/-- `SND_TX_TYPE`, spec/10, Table 10.3. -/
def sndTxType : Nat := 0x42C000C0
/-- `SND_TX_PAYLOAD`, spec/10, Table 10.3. -/
def sndTxPayload : Nat := 0x42C000C4
/-- `SND_STATUS`, spec/10, Table 10.3. -/
def sndStatus : Nat := 0x42C000D0
/-- `SND_COUNT_0`, spec/10, Table 10.3. -/
def sndCount0 : Nat := 0x42C000D4
/-- `SND_COUNT_1`, spec/10, Table 10.3. -/
def sndCount1 : Nat := 0x42C000D8
/-- `SND_COUNT_2`, spec/10, Table 10.3. -/
def sndCount2 : Nat := 0x42C000DC
/-- `PWM_TB_LO`, spec/11, Table 11.4. -/
def pwmTbLo : Nat := 0x43000000
/-- `PWM_TB_HI`, spec/11, Table 11.4. -/
def pwmTbHi : Nat := 0x43000004
/-- `PWM_CCOMMIT`, spec/11, Table 11.4. -/
def pwmCcommit : Nat := 0x43000010
/-- `PWM_ERR`, spec/11, Table 11.4. -/
def pwmErr : Nat := 0x43000014
/-- `PWM_TRIP_t`, spec/11, Table 11.4. -/
def pwmTrip (a : Nat) : Nat := 0x43000020 + 0x4 * a
/-- `PWM_LMAP_n_0`, spec/11, Table 11.4. -/
def pwmLmap0 (a : Nat) : Nat := 0x43000080 + 0x8 * a
/-- `PWM_LMAP_n_1`, spec/11, Table 11.4. -/
def pwmLmap1 (a : Nat) : Nat := 0x43000084 + 0x8 * a
/-- `PWM_CAR_c_PERIOD`, spec/11, Table 11.4. -/
def pwmCarPeriod (a : Nat) : Nat := 0x43000100 + 0x10 * a
/-- `PWM_CAR_c_PHASE`, spec/11, Table 11.4. -/
def pwmCarPhase (a : Nat) : Nat := 0x43000104 + 0x10 * a
/-- `PWM_CAR_c_CFG`, spec/11, Table 11.4. -/
def pwmCarCfg (a : Nat) : Nat := 0x43000108 + 0x10 * a
/-- `PWM_CGRP_k_MASK_w`, spec/11, Table 11.4. -/
def pwmCgrpMask (a b : Nat) : Nat := 0x43000200 + 0x10 * a + 0x4 * b
/-- `PWM_MOD_u_CFG`, spec/11, Table 11.5. -/
def pwmModCfg (a : Nat) : Nat := 0x43000400 + 0x20 * a
/-- `PWM_MOD_u_SIG_0`, spec/11, Table 11.5. -/
def pwmModSig0 (a : Nat) : Nat := 0x43000404 + 0x20 * a
/-- `PWM_MOD_u_SIG_1`, spec/11, Table 11.5. -/
def pwmModSig1 (a : Nat) : Nat := 0x43000408 + 0x20 * a
/-- `PWM_MOD_u_SIG_2`, spec/11, Table 11.5. -/
def pwmModSig2 (a : Nat) : Nat := 0x4300040C + 0x20 * a
/-- `PWM_MOD_u_KM`, spec/11, Table 11.5. -/
def pwmModKm (a : Nat) : Nat := 0x43000410 + 0x20 * a
/-- `PWM_MOD_u_STATUS`, spec/11, Table 11.5. -/
def pwmModStatus (a : Nat) : Nat := 0x43000414 + 0x20 * a
/-- `PWM_LEG_g_CFG`, spec/11, Table 11.6. -/
def pwmLegCfg (a : Nat) : Nat := 0x43001000 + 0x40 * a
/-- `PWM_LEG_g_STATES`, spec/11, Table 11.6. -/
def pwmLegStates (a : Nat) : Nat := 0x43001004 + 0x40 * a
/-- `PWM_LEG_g_ST_j`, spec/11, Table 11.6. -/
def pwmLegSt (a b : Nat) : Nat := 0x43001010 + 0x40 * a + 0x4 * b
/-- `PWM_LEG_g_STATUS`, spec/11, Table 11.6. -/
def pwmLegStatus (a : Nat) : Nat := 0x43001020 + 0x40 * a
/-- `PWM_LEG_g_COUNT`, spec/11, Table 11.6. -/
def pwmLegCount (a : Nat) : Nat := 0x43001024 + 0x40 * a
/-- `PWM_LEG_g_CARRY`, spec/11, Table 11.6. -/
def pwmLegCarry (a : Nat) : Nat := 0x43001028 + 0x40 * a
/-- `PWM_SLICE_s_CFG`, spec/11, Table 11.7. -/
def pwmSliceCfg (a : Nat) : Nat := 0x43004000 + 0x40 * a
/-- `PWM_SLICE_s_DT_R`, spec/11, Table 11.7. -/
def pwmSliceDtR (a : Nat) : Nat := 0x43004004 + 0x40 * a
/-- `PWM_SLICE_s_DT_F`, spec/11, Table 11.7. -/
def pwmSliceDtF (a : Nat) : Nat := 0x43004008 + 0x40 * a
/-- `PWM_SLICE_s_MINP`, spec/11, Table 11.7. -/
def pwmSliceMinp (a : Nat) : Nat := 0x4300400C + 0x40 * a
/-- `PWM_SLICE_s_ON`, spec/11, Table 11.7. -/
def pwmSliceOn (a : Nat) : Nat := 0x43004010 + 0x40 * a
/-- `PWM_SLICE_s_OFF`, spec/11, Table 11.7. -/
def pwmSliceOff (a : Nat) : Nat := 0x43004014 + 0x40 * a
/-- `PWM_SLICE_s_TRG_0`, spec/11, Table 11.7. -/
def pwmSliceTrg0 (a : Nat) : Nat := 0x43004018 + 0x40 * a
/-- `PWM_SLICE_s_TRG_1`, spec/11, Table 11.7. -/
def pwmSliceTrg1 (a : Nat) : Nat := 0x4300401C + 0x40 * a
/-- `PWM_SLICE_s_STATUS`, spec/11, Table 11.7. -/
def pwmSliceStatus (a : Nat) : Nat := 0x43004020 + 0x40 * a
/-- `PWM_SLICE_s_CARRY_A`, spec/11, Table 11.7. -/
def pwmSliceCarryA (a : Nat) : Nat := 0x43004024 + 0x40 * a
/-- `PWM_SLICE_s_CARRY_B`, spec/11, Table 11.7. -/
def pwmSliceCarryB (a : Nat) : Nat := 0x43004028 + 0x40 * a
/-- `STL_l_CFG`, spec/12, Table 12.12. -/
def stlCfg (a : Nat) : Nat := 0x43400000 + 0x100 * a
/-- `STL_l_TRIM`, spec/12, Table 12.12. -/
def stlTrim (a : Nat) : Nat := 0x43400004 + 0x100 * a
/-- `STL_l_PROP`, spec/12, Table 12.12. -/
def stlProp (a : Nat) : Nat := 0x43400008 + 0x100 * a
/-- `STL_l_STATUS`, spec/12, Table 12.12. -/
def stlStatus (a : Nat) : Nat := 0x4340000C + 0x100 * a
/-- `STL_l_UP_0`, spec/12, Table 12.12. -/
def stlUp0 (a : Nat) : Nat := 0x43400010 + 0x100 * a
/-- `STL_l_UP_1`, spec/12, Table 12.12. -/
def stlUp1 (a : Nat) : Nat := 0x43400014 + 0x100 * a
/-- `STL_l_UP_2`, spec/12, Table 12.12. -/
def stlUp2 (a : Nat) : Nat := 0x43400018 + 0x100 * a
/-- `STL_l_UP_3`, spec/12, Table 12.12. -/
def stlUp3 (a : Nat) : Nat := 0x4340001C + 0x100 * a
/-- `STL_l_COUNT_0`, spec/12, Table 12.12. -/
def stlCount0 (a : Nat) : Nat := 0x43400020 + 0x100 * a
/-- `STL_l_COUNT_1`, spec/12, Table 12.12. -/
def stlCount1 (a : Nat) : Nat := 0x43400024 + 0x100 * a
/-- `STL_l_CFG_CRC`, spec/12, Table 12.12. -/
def stlCfgCrc (a : Nat) : Nat := 0x43400028 + 0x100 * a
/-- `STL_l_EDGE_NUM`, spec/12, Table 12.12. -/
def stlEdgeNum (a : Nat) : Nat := 0x4340002C + 0x100 * a
/-- `STL_l_TURN`, spec/12, Table 12.12. -/
def stlTurn (a : Nat) : Nat := 0x43400030 + 0x100 * a
/-- `STL_l_PROF_c_p`, spec/12, Table 12.12. -/
def stlProf (a b : Nat) : Nat := 0x43400040 + 0x100 * a + 0x4 * b
/-- `STL_CLAIM`, spec/12, Table 12.14. -/
def stlClaim : Nat := 0x43402000
/-- `STL_LEAD`, spec/12, Table 12.14. -/
def stlLead : Nat := 0x43402004
/-- `AUX_m_CTRL`, spec/13, Table 13.4. -/
def auxCtrl (a : Nat) : Nat := 0x43800000 + 0x100 * a
/-- `AUX_m_CFG`, spec/13, Table 13.4. -/
def auxCfg (a : Nat) : Nat := 0x43800004 + 0x100 * a
/-- `AUX_m_SIG_0`, spec/13, Table 13.4. -/
def auxSig0 (a : Nat) : Nat := 0x43800008 + 0x100 * a
/-- `AUX_m_SIG_1`, spec/13, Table 13.4. -/
def auxSig1 (a : Nat) : Nat := 0x4380000C + 0x100 * a
/-- `AUX_m_FBASE`, spec/13, Table 13.4. -/
def auxFbase (a : Nat) : Nat := 0x43800010 + 0x100 * a
/-- `AUX_m_DUTY`, spec/13, Table 13.4. -/
def auxDuty (a : Nat) : Nat := 0x43800014 + 0x100 * a
/-- `AUX_m_SLEW_KE`, spec/13, Table 13.4. -/
def auxSlewKe (a : Nat) : Nat := 0x43800018 + 0x100 * a
/-- `AUX_m_BEMF_SMP`, spec/13, Table 13.4. -/
def auxBemfSmp (a : Nat) : Nat := 0x4380001C + 0x100 * a
/-- `AUX_m_BEMF`, spec/13, Table 13.4. -/
def auxBemf (a : Nat) : Nat := 0x43800020 + 0x100 * a
/-- `AUX_m_START_T`, spec/13, Table 13.4. -/
def auxStartT (a : Nat) : Nat := 0x43800024 + 0x100 * a
/-- `AUX_m_ALIGN`, spec/13, Table 13.4. -/
def auxAlign (a : Nat) : Nat := 0x43800028 + 0x100 * a
/-- `AUX_m_RAMP_F`, spec/13, Table 13.4. -/
def auxRampF (a : Nat) : Nat := 0x4380002C + 0x100 * a
/-- `AUX_m_RAMP_A`, spec/13, Table 13.4. -/
def auxRampA (a : Nat) : Nat := 0x43800030 + 0x100 * a
/-- `AUX_m_HO`, spec/13, Table 13.4. -/
def auxHo (a : Nat) : Nat := 0x43800034 + 0x100 * a
/-- `AUX_m_BRK`, spec/13, Table 13.4. -/
def auxBrk (a : Nat) : Nat := 0x43800038 + 0x100 * a
/-- `AUX_m_ADV_SPAN`, spec/13, Table 13.4. -/
def auxAdvSpan (a : Nat) : Nat := 0x4380003C + 0x100 * a
/-- `AUX_m_ADV_j`, spec/13, Table 13.4. -/
def auxAdv (a b : Nat) : Nat := 0x43800040 + 0x100 * a + 0x4 * b
/-- `AUX_m_STATUS`, spec/13, Table 13.4. -/
def auxStatus (a : Nat) : Nat := 0x43800090 + 0x100 * a
/-- `AUX_m_T_EST`, spec/13, Table 13.4. -/
def auxTEst (a : Nat) : Nat := 0x43800094 + 0x100 * a
/-- `AUX_m_COUNT`, spec/13, Table 13.4. -/
def auxCount (a : Nat) : Nat := 0x43800098 + 0x100 * a
/-- `AUX_HB_h_PROF_ON`, spec/13, Table 13.6. -/
def auxHbProfOn (a : Nat) : Nat := 0x43801000 + 0x20 * a
/-- `AUX_HB_h_PROF_OFF`, spec/13, Table 13.6. -/
def auxHbProfOff (a : Nat) : Nat := 0x43801004 + 0x20 * a
/-- `AUX_HB_h_AMP`, spec/13, Table 13.6. -/
def auxHbAmp (a : Nat) : Nat := 0x43801008 + 0x20 * a
/-- `AUX_HB_h_STATUS`, spec/13, Table 13.6. -/
def auxHbStatus (a : Nat) : Nat := 0x4380100C + 0x20 * a
/-- `AUX_BUS_TH_0`, spec/13, Table 13.7. -/
def auxBusTh0 : Nat := 0x43802000
/-- `AUX_BUS_TH_1`, spec/13, Table 13.7. -/
def auxBusTh1 : Nat := 0x43802004
/-- `AUX_BUS_TH_2`, spec/13, Table 13.7. -/
def auxBusTh2 : Nat := 0x43802008
/-- `AUX_BUS_CFG`, spec/13, Table 13.7. -/
def auxBusCfg : Nat := 0x4380200C
/-- `AUX_BUS_STATUS`, spec/13, Table 13.7. -/
def auxBusStatus : Nat := 0x43802010
/-- `PROT_STATUS`, spec/14, Table 14.9. -/
def protStatus : Nat := 0x44000000
/-- `PROT_STO_CFG`, spec/14, Table 14.9. -/
def protStoCfg : Nat := 0x44000004
/-- `PROT_FIRST`, spec/14, Table 14.9. -/
def protFirst : Nat := 0x44000008
/-- `PROT_FIRST_TS`, spec/14, Table 14.9. -/
def protFirstTs : Nat := 0x4400000C
/-- `PROT_COINC`, spec/14, Table 14.9. -/
def protCoinc : Nat := 0x44000010
/-- `PROT_SRC_LIVE_w`, spec/14, Table 14.9. -/
def protSrcLive (a : Nat) : Nat := 0x44000800 + 0x4 * a
/-- `PROT_SRC_LATCH_w`, spec/14, Table 14.9. -/
def protSrcLatch (a : Nat) : Nat := 0x44000840 + 0x4 * a
/-- `PROT_SRC_x_CFG`, spec/14, Table 14.9. -/
def protSrcCfg (a : Nat) : Nat := 0x44001000 + 0x4 * a
/-- `PROT_DSAT_l_CFG`, spec/14, Table 14.9. -/
def protDsatCfg (a : Nat) : Nat := 0x44008000 + 0x10 * a
/-- `PROT_DSAT_l_STATUS`, spec/14, Table 14.9. -/
def protDsatStatus (a : Nat) : Nat := 0x44008004 + 0x10 * a
/-- `PROT_WIN_w_CFG`, spec/14, Table 14.9. -/
def protWinCfg (a : Nat) : Nat := 0x44009000 + 0x8 * a
/-- `PROT_WIN_w_FLT`, spec/14, Table 14.9. -/
def protWinFlt (a : Nat) : Nat := 0x44009004 + 0x8 * a
/-- `PROT_n_DC_CH`, spec/14, Table 14.10. -/
def protThrDcCh (a : Nat) : Nat := 0x44004000 + 0x100 * a
/-- `PROT_n_OVA`, spec/14, Table 14.10. -/
def protThrOva (a : Nat) : Nat := 0x44004004 + 0x100 * a
/-- `PROT_n_OVB`, spec/14, Table 14.10. -/
def protThrOvb (a : Nat) : Nat := 0x44004008 + 0x100 * a
/-- `PROT_n_CHOP`, spec/14, Table 14.10. -/
def protThrChop (a : Nat) : Nat := 0x4400400C + 0x100 * a
/-- `PROT_n_PITCH`, spec/14, Table 14.10. -/
def protThrPitch (a : Nat) : Nat := 0x44004010 + 0x100 * a
/-- `PROT_n_BRIDGE`, spec/14, Table 14.10. -/
def protThrBridge (a : Nat) : Nat := 0x44004014 + 0x100 * a
/-- `PROT_n_DISCH_CTRL`, spec/14, Table 14.10. -/
def protThrDischCtrl (a : Nat) : Nat := 0x44004018 + 0x100 * a
/-- `PROT_n_DISCH_0`, spec/14, Table 14.10. -/
def protThrDisch0 (a : Nat) : Nat := 0x4400401C + 0x100 * a
/-- `PROT_n_DISCH_1`, spec/14, Table 14.10. -/
def protThrDisch1 (a : Nat) : Nat := 0x44004020 + 0x100 * a
/-- `PROT_n_DISCH_SAFE`, spec/14, Table 14.10. -/
def protThrDischSafe (a : Nat) : Nat := 0x44004024 + 0x100 * a
/-- `PROT_n_STATUS`, spec/14, Table 14.10. -/
def protThrStatus (a : Nat) : Nat := 0x44004028 + 0x100 * a
/-- `PROT_n_VDC`, spec/14, Table 14.10. -/
def protThrVdc (a : Nat) : Nat := 0x4400402C + 0x100 * a
/-- `SMON_STATUS`, spec/14, Table 14.11. -/
def smonStatus : Nat := 0x44400000
/-- `SMON_REL`, spec/14, Table 14.11. -/
def smonRel : Nat := 0x44400004
/-- `SMON_FORCE_n`, spec/14, Table 14.11. -/
def smonForce (a : Nat) : Nat := 0x44400010 + 0x4 * a
/-- `SMON_WD_p`, spec/14, Table 14.11. -/
def smonWd (a : Nat) : Nat := 0x44400040 + 0x8 * a
/-- `SMON_WD_p_CFG`, spec/14, Table 14.11. -/
def smonWdCfg (a : Nat) : Nat := 0x44400044 + 0x8 * a
/-- `SMON_WD_p_REACT`, spec/14, Table 14.11. -/
def smonWdReact (a : Nat) : Nat := 0x44400080 + 0x4 * a
/-- `SMON_TM_n_T_MAX`, spec/14, Table 14.11. -/
def smonTmTMax (a : Nat) : Nat := 0x44400100 + 0x40 * a
/-- `SMON_TM_n_I_BLOCK`, spec/14, Table 14.11. -/
def smonTmIBlock (a : Nat) : Nat := 0x44400104 + 0x40 * a
/-- `SMON_TM_n_T_TOL`, spec/14, Table 14.11. -/
def smonTmTTol (a : Nat) : Nat := 0x44400108 + 0x40 * a
/-- `SMON_TM_n_W_MAX`, spec/14, Table 14.11. -/
def smonTmWMax (a : Nat) : Nat := 0x4440010C + 0x40 * a
/-- `SMON_TM_n_CFG`, spec/14, Table 14.11. -/
def smonTmCfg (a : Nat) : Nat := 0x44400110 + 0x40 * a
/-- `SMON_TM_n_STATUS`, spec/14, Table 14.11. -/
def smonTmStatus (a : Nat) : Nat := 0x44400114 + 0x40 * a
/-- `CWY_CFG`, spec/15, Table 15.4. -/
def cwyCfg : Nat := 0x44800000
/-- `CWY_TIMING`, spec/15, Table 15.4. -/
def cwyTiming : Nat := 0x44800004
/-- `CWY_STATUS`, spec/15, Table 15.4. -/
def cwyStatus : Nat := 0x44800008
/-- `CWY_OFFSET`, spec/15, Table 15.4. -/
def cwyOffset : Nat := 0x4480000C
/-- `CWY_TRIM`, spec/15, Table 15.4. -/
def cwyTrim : Nat := 0x44800010
/-- `CWY_YIELD`, spec/15, Table 15.4. -/
def cwyYield : Nat := 0x44800014
/-- `CWY_COUNT`, spec/15, Table 15.4. -/
def cwyCount : Nat := 0x44800018
/-- `CWY_FWD`, spec/15, Table 15.4. -/
def cwyFwd : Nat := 0x4480001C
/-- `CWY_n_STATUS`, spec/15, Table 15.5. -/
def cwyThrStatus (a : Nat) : Nat := 0x44800100 + 0x20 * a
/-- `CWY_n_COUNT_0`, spec/15, Table 15.5. -/
def cwyThrCount0 (a : Nat) : Nat := 0x44800104 + 0x20 * a
/-- `CWY_n_COUNT_1`, spec/15, Table 15.5. -/
def cwyThrCount1 (a : Nat) : Nat := 0x44800108 + 0x20 * a
/-- `CWY_n_SNAP`, spec/15, Table 15.5. -/
def cwyThrSnap (a : Nat) : Nat := 0x4480010C + 0x20 * a
/-- `CWY_LATCH_j`, spec/15, Table 15.6. -/
def cwyLatch (a : Nat) : Nat := 0x44800400 + 0x4 * a
/-- `CWY_EP_j`, spec/15, Table 15.6. -/
def cwyEp (a : Nat) : Nat := 0x44800800 + 0x4 * a
/-- `ISL_STATUS`, spec/16, Table 16.5. -/
def islStatus : Nat := 0x44C00000
/-- `ISL_CMD`, spec/16, Table 16.5. -/
def islCmd : Nat := 0x44C00004
/-- `ISL_SNAP_SEQ`, spec/16, Table 16.5. -/
def islSnapSeq : Nat := 0x44C00008
/-- `ISL_RTC`, spec/16, Table 16.5. -/
def islRtc : Nat := 0x44C0000C
/-- `ISL_NT_S`, spec/16, Table 16.5. -/
def islNtS : Nat := 0x44C00010
/-- `ISL_NT_NS`, spec/16, Table 16.5. -/
def islNtNs : Nat := 0x44C00014
/-- `ISL_METER_ID`, spec/16, Table 16.5. -/
def islMeterId : Nat := 0x44C00018
/-- `ISL_PARAM`, spec/16, Table 16.5. -/
def islParam : Nat := 0x44C0001C
/-- `ISL_COUNT`, spec/16, Table 16.5. -/
def islCount : Nat := 0x44C00020
/-- `ISL_E_k_LO`, spec/16, Table 16.5. -/
def islELo (a : Nat) : Nat := 0x44C00100 + 0x8 * a
/-- `ISL_E_k_HI`, spec/16, Table 16.5. -/
def islEHi (a : Nat) : Nat := 0x44C00104 + 0x8 * a
/-- `ISL_INST_j`, spec/16, Table 16.5. -/
def islInst (a : Nat) : Nat := 0x44C00200 + 0x4 * a
/-- `ISL_FREQ`, spec/16, Table 16.5. -/
def islFreq : Nat := 0x44C00250
/-- `ISL_LOG_w`, spec/16, Table 16.5. -/
def islLog (a : Nat) : Nat := 0x44C00300 + 0x4 * a
/-- `ISL_LOG_HEAD`, spec/16, Table 16.5. -/
def islLogHead : Nat := 0x44C00310
/-- `ISL_LOG_ACKED`, spec/16, Table 16.5. -/
def islLogAcked : Nat := 0x44C00314
/-- `REC_FIRE`, spec/17, Table 17.6. -/
def recFire : Nat := 0x45000000
/-- `REC_BUS_b`, spec/17, Table 17.6. -/
def recBus (a : Nat) : Nat := 0x45000010 + 0x4 * a
/-- `REC_LVL_k_CFG`, spec/17, Table 17.6. -/
def recLvlCfg (a : Nat) : Nat := 0x45000040 + 0x8 * a
/-- `REC_LVL_k_THRESH`, spec/17, Table 17.6. -/
def recLvlThresh (a : Nat) : Nat := 0x45000044 + 0x8 * a
/-- `REC_CH_c`, spec/17, Table 17.6. -/
def recCh (a : Nat) : Nat := 0x45000100 + 0x4 * a
/-- `REC_CAP_u_CTRL`, spec/17, Table 17.7. -/
def recCapCtrl (a : Nat) : Nat := 0x45001000 + 0x100 * a
/-- `REC_CAP_u_CFG`, spec/17, Table 17.7. -/
def recCapCfg (a : Nat) : Nat := 0x45001004 + 0x100 * a
/-- `REC_CAP_u_FIRST`, spec/17, Table 17.7. -/
def recCapFirst (a : Nat) : Nat := 0x45001008 + 0x100 * a
/-- `REC_CAP_u_INTERVAL`, spec/17, Table 17.7. -/
def recCapInterval (a : Nat) : Nat := 0x4500100C + 0x100 * a
/-- `REC_CAP_u_PRE`, spec/17, Table 17.7. -/
def recCapPre (a : Nat) : Nat := 0x45001010 + 0x100 * a
/-- `REC_CAP_u_POST`, spec/17, Table 17.7. -/
def recCapPost (a : Nat) : Nat := 0x45001014 + 0x100 * a
/-- `REC_CAP_u_BASE_LO`, spec/17, Table 17.7. -/
def recCapBaseLo (a : Nat) : Nat := 0x45001018 + 0x100 * a
/-- `REC_CAP_u_BASE_HI`, spec/17, Table 17.7. -/
def recCapBaseHi (a : Nat) : Nat := 0x4500101C + 0x100 * a
/-- `REC_CAP_u_SLOTS`, spec/17, Table 17.7. -/
def recCapSlots (a : Nat) : Nat := 0x45001020 + 0x100 * a
/-- `REC_CAP_u_STRIDE`, spec/17, Table 17.7. -/
def recCapStride (a : Nat) : Nat := 0x45001024 + 0x100 * a
/-- `REC_CAP_u_TRIG_A`, spec/17, Table 17.7. -/
def recCapTrigA (a : Nat) : Nat := 0x45001028 + 0x100 * a
/-- `REC_CAP_u_TRIG_B`, spec/17, Table 17.7. -/
def recCapTrigB (a : Nat) : Nat := 0x4500102C + 0x100 * a
/-- `REC_CAP_u_HOLD`, spec/17, Table 17.7. -/
def recCapHold (a : Nat) : Nat := 0x45001030 + 0x100 * a
/-- `REC_CAP_u_CLOSE`, spec/17, Table 17.7. -/
def recCapClose (a : Nat) : Nat := 0x45001034 + 0x100 * a
/-- `REC_CAP_u_SERVICE`, spec/17, Table 17.7. -/
def recCapService (a : Nat) : Nat := 0x45001038 + 0x100 * a
/-- `REC_CAP_u_FIRE_AT_S`, spec/17, Table 17.7. -/
def recCapFireAtS (a : Nat) : Nat := 0x4500103C + 0x100 * a
/-- `REC_CAP_u_FIRE_AT_NS`, spec/17, Table 17.7. -/
def recCapFireAtNs (a : Nat) : Nat := 0x45001040 + 0x100 * a
/-- `REC_CAP_u_STATUS`, spec/17, Table 17.7. -/
def recCapStatus (a : Nat) : Nat := 0x45001050 + 0x100 * a
/-- `REC_CAP_u_FULL`, spec/17, Table 17.7. -/
def recCapFull (a : Nat) : Nat := 0x45001054 + 0x100 * a
/-- `REC_CAP_u_DEAD`, spec/17, Table 17.7. -/
def recCapDead (a : Nat) : Nat := 0x45001058 + 0x100 * a
/-- `REC_CAP_u_DEAD_TOTAL`, spec/17, Table 17.7. -/
def recCapDeadTotal (a : Nat) : Nat := 0x4500105C + 0x100 * a
/-- `REC_CAP_u_COUNT`, spec/17, Table 17.7. -/
def recCapCount (a : Nat) : Nat := 0x45001060 + 0x100 * a
/-- `REC_CAP_u_LATE`, spec/17, Table 17.7. -/
def recCapLate (a : Nat) : Nat := 0x45001064 + 0x100 * a
/-- `TIME_CTRL`, spec/18, Table 18.1. -/
def timeCtrl : Nat := 0x45800000
/-- `TIME_STATUS`, spec/18, Table 18.1. -/
def timeStatus : Nat := 0x45800004
/-- `TIME_NS`, spec/18, Table 18.1. -/
def timeNs : Nat := 0x45800008
/-- `TIME_S_LO`, spec/18, Table 18.1. -/
def timeSLo : Nat := 0x4580000C
/-- `TIME_S_HI`, spec/18, Table 18.1. -/
def timeSHi : Nat := 0x45800010
/-- `TIME_FRAC`, spec/18, Table 18.1. -/
def timeFrac : Nat := 0x45800014
/-- `TIME_INC_NS`, spec/18, Table 18.1. -/
def timeIncNs : Nat := 0x45800018
/-- `TIME_INC_FRAC`, spec/18, Table 18.1. -/
def timeIncFrac : Nat := 0x4580001C
/-- `TIME_ARG_NS`, spec/18, Table 18.1. -/
def timeArgNs : Nat := 0x45800020
/-- `TIME_ARG_S_LO`, spec/18, Table 18.1. -/
def timeArgSLo : Nat := 0x45800024
/-- `TIME_ARG_S_HI`, spec/18, Table 18.1. -/
def timeArgSHi : Nat := 0x45800028
/-- `TIME_JUMP_LIMIT`, spec/18, Table 18.1. -/
def timeJumpLimit : Nat := 0x4580002C
/-- `TIME_STEP_COUNT`, spec/18, Table 18.1. -/
def timeStepCount : Nat := 0x45800030
/-- `ETH_PORT_p_CFG`, spec/18, Table 18.2. -/
def ethPortCfg (a : Nat) : Nat := 0x45400000 + 0x40 * a
/-- `ETH_PORT_p_PDELAY`, spec/18, Table 18.2. -/
def ethPortPdelay (a : Nat) : Nat := 0x45400004 + 0x40 * a
/-- `ETH_DROP_p`, spec/18, Table 18.2. -/
def ethDrop (a : Nat) : Nat := 0x45400008 + 0x40 * a
/-- `ETH_TC_CFG`, spec/18, Table 18.2. -/
def ethTcCfg : Nat := 0x45400100
/-- `ETH_TC_STATUS`, spec/18, Table 18.2. -/
def ethTcStatus : Nat := 0x45400104
/-- `ETH_TS_0`, spec/18, Table 18.2. -/
def ethTs0 : Nat := 0x45400110
/-- `ETH_TS_1`, spec/18, Table 18.2. -/
def ethTs1 : Nat := 0x45400114
/-- `ETH_TS_2`, spec/18, Table 18.2. -/
def ethTs2 : Nat := 0x45400118
/-- `ETH_TS_3`, spec/18, Table 18.2. -/
def ethTs3 : Nat := 0x4540011C
/-- `ULI_CFG`, spec/18, Table 18.6. -/
def uliCfg : Nat := 0x47400000
/-- `ULI_IP`, spec/18, Table 18.6. -/
def uliIp : Nat := 0x47400004
/-- `ULI_MAC_LO`, spec/18, Table 18.6. -/
def uliMacLo : Nat := 0x47400008
/-- `ULI_MAC_HI`, spec/18, Table 18.6. -/
def uliMacHi : Nat := 0x4740000C
/-- `ULI_CAN_RQ`, spec/18, Table 18.6. -/
def uliCanRq : Nat := 0x47400010
/-- `ULI_CAN_RSP`, spec/18, Table 18.6. -/
def uliCanRsp : Nat := 0x47400014
/-- `ULI_MEM_k_BASE`, spec/18, Table 18.6. -/
def uliMemBase (a : Nat) : Nat := 0x47400020 + 0x8 * a
/-- `ULI_MEM_k_SIZE`, spec/18, Table 18.6. -/
def uliMemSize (a : Nat) : Nat := 0x47400024 + 0x8 * a
/-- `ULI_COUNT`, spec/18, Table 18.6. -/
def uliCount : Nat := 0x47400040
/-- `ULI_TWIN`, spec/18, Table 18.6. -/
def uliTwin : Nat := 0x47400050
/-- `ULI_IP_B`, spec/18, Table 18.6. -/
def uliIpB : Nat := 0x47400054
/-- `ULI_MAC_B_LO`, spec/18, Table 18.6. -/
def uliMacBLo : Nat := 0x47400058
/-- `ULI_MAC_B_HI`, spec/18, Table 18.6. -/
def uliMacBHi : Nat := 0x4740005C
/-- `ULI_CAN_B_RQ`, spec/18, Table 18.6. -/
def uliCanBRq : Nat := 0x47400060
/-- `ULI_CAN_B_RSP`, spec/18, Table 18.6. -/
def uliCanBRsp : Nat := 0x47400064
/-- `CAN_k_CFG`, spec/19, Table 19.1. -/
def canCfg (a : Nat) : Nat := 0x45C00000 + 0x10000 * a
/-- `CAN_k_NBT`, spec/19, Table 19.1. -/
def canNbt (a : Nat) : Nat := 0x45C00004 + 0x10000 * a
/-- `CAN_k_DBT`, spec/19, Table 19.1. -/
def canDbt (a : Nat) : Nat := 0x45C00008 + 0x10000 * a
/-- `CAN_k_TDC`, spec/19, Table 19.1. -/
def canTdc (a : Nat) : Nat := 0x45C0000C + 0x10000 * a
/-- `CAN_k_CTRL`, spec/19, Table 19.1. -/
def canCtrl (a : Nat) : Nat := 0x45C00010 + 0x10000 * a
/-- `CAN_k_TX_REQ`, spec/19, Table 19.1. -/
def canTxreq (a : Nat) : Nat := 0x45C00014 + 0x10000 * a
/-- `CAN_k_TX_ABORT`, spec/19, Table 19.1. -/
def canTxAbort (a : Nat) : Nat := 0x45C00018 + 0x10000 * a
/-- `CAN_k_STATUS`, spec/19, Table 19.1. -/
def canStatus (a : Nat) : Nat := 0x45C0001C + 0x10000 * a
/-- `CAN_k_IRQ_EN`, spec/19, Table 19.1. -/
def canIrqEn (a : Nat) : Nat := 0x45C00020 + 0x10000 * a
/-- `CAN_k_IRQ`, spec/19, Table 19.1. -/
def canIrq (a : Nat) : Nat := 0x45C00024 + 0x10000 * a
/-- `CAN_k_TSC`, spec/19, Table 19.1. -/
def canTsc (a : Nat) : Nat := 0x45C00028 + 0x10000 * a
/-- `CAN_k_TSC_AT`, spec/19, Table 19.1. -/
def canTscAt (a : Nat) : Nat := 0x45C0002C + 0x10000 * a
/-- `CAN_k_TSC_NT_S`, spec/19, Table 19.1. -/
def canTscNtS (a : Nat) : Nat := 0x45C00030 + 0x10000 * a
/-- `CAN_k_TSC_NT_NS`, spec/19, Table 19.1. -/
def canTscNtNs (a : Nat) : Nat := 0x45C00034 + 0x10000 * a
/-- `CAN_k_COUNT`, spec/19, Table 19.1. -/
def canCount (a : Nat) : Nat := 0x45C00038 + 0x10000 * a
/-- `CAN_k_FLT_BASE`, spec/19, Table 19.1. -/
def canFltBase (a : Nat) : Nat := 0x45C00040 + 0x10000 * a
/-- `CAN_k_FLT_CFG`, spec/19, Table 19.1. -/
def canFltCfg (a : Nat) : Nat := 0x45C00044 + 0x10000 * a
/-- `CAN_k_FIFO_LEVEL`, spec/19, Table 19.1. -/
def canFifoLevel (a : Nat) : Nat := 0x45C00048 + 0x10000 * a
/-- `CAN_k_WAKE_CFG`, spec/19, Table 19.1. -/
def canWakeCfg (a : Nat) : Nat := 0x45C00060 + 0x10000 * a
/-- `CAN_k_WUF_MASK`, spec/19, Table 19.1. -/
def canWufMask (a : Nat) : Nat := 0x45C00064 + 0x10000 * a
/-- `CAN_k_WUF_CTL`, spec/19, Table 19.1. -/
def canWufCtl (a : Nat) : Nat := 0x45C00068 + 0x10000 * a
/-- `CAN_k_WUF_DATA_0`, spec/19, Table 19.1. -/
def canWufData0 (a : Nat) : Nat := 0x45C0006C + 0x10000 * a
/-- `CAN_k_WUF_DATA_1`, spec/19, Table 19.1. -/
def canWufData1 (a : Nat) : Nat := 0x45C00070 + 0x10000 * a
/-- `CAN_k_WAKE_STATUS`, spec/19, Table 19.1. -/
def canWakeStatus (a : Nat) : Nat := 0x45C00074 + 0x10000 * a
/-- `CAN_k_TXB_b_WORD_w`, spec/19, Table 19.1. -/
def canTxbWord (a b c : Nat) : Nat := 0x45C00100 + 0x10000 * a + 0x60 * b + 0x4 * c
/-- `CAN_k_TXB_b_STAT`, spec/19, Table 19.1. -/
def canTxbStat (a b : Nat) : Nat := 0x45C00148 + 0x10000 * a + 0x60 * b
/-- `CAN_k_TXB_b_TS`, spec/19, Table 19.1. -/
def canTxbTs (a b : Nat) : Nat := 0x45C0014C + 0x10000 * a + 0x60 * b
/-- `CAN_k_MATCH_j`, spec/19, Table 19.1. -/
def canMatch (a b : Nat) : Nat := 0x45C00300 + 0x10000 * a + 0x8 * b
/-- `CAN_k_MASK_j`, spec/19, Table 19.1. -/
def canMask (a b : Nat) : Nat := 0x45C00304 + 0x10000 * a + 0x8 * b
/-- `CAN_k_RXA_REL`, spec/19, Table 19.1. -/
def canRxaRel (a : Nat) : Nat := 0x45C00340 + 0x10000 * a
/-- `CAN_k_RXA_j_WORD_w`, spec/19, Table 19.1. -/
def canRxaWord (a b c : Nat) : Nat := 0x45C00400 + 0x10000 * a + 0x60 * b + 0x4 * c
/-- `CAN_k_FIFO_WORD_w`, spec/19, Table 19.1. -/
def canFifoWord (a b : Nat) : Nat := 0x45C00800 + 0x10000 * a + 0x4 * b
/-- `SYS_CP_p_CTRL`, spec/20, Table 20.5. -/
def sysCpCtrl (a : Nat) : Nat := 0x40000100 + 0x10 * a
/-- `SYS_CP_p_STATUS`, spec/20, Table 20.5. -/
def sysCpStatus (a : Nat) : Nat := 0x40000104 + 0x10 * a
/-- `SYS_CP_p_VECTOR`, spec/20, Table 20.5. -/
def sysCpVector (a : Nat) : Nat := 0x40000108 + 0x10 * a
/-- `SYS_DBG`, spec/20, Table 20.5. -/
def sysDbg : Nat := 0x40000200
/-- `SYS_DBG_FORCE_k`, spec/20, Table 20.5. -/
def sysDbgForce (a : Nat) : Nat := 0x40000210 + 0x8 * a
/-- `SYS_DBG_FORCE_k_VAL`, spec/20, Table 20.5. -/
def sysDbgForceVal (a : Nat) : Nat := 0x40000214 + 0x8 * a
/-- `SYS_IRQ_s_CFG`, spec/20, Table 20.5. -/
def sysIrqCfg (a : Nat) : Nat := 0x40001010 + 0x4 * a
/-- `SYS_IRQ_p_THRESH`, spec/20, Table 20.5. -/
def sysIrqThresh (a : Nat) : Nat := 0x40001800 + 0x10 * a
/-- `SYS_IRQ_p_CLAIM_M`, spec/20, Table 20.5. -/
def sysIrqClaimM (a : Nat) : Nat := 0x40001808 + 0x10 * a
/-- `SYS_IRQ_p_CLAIM_S`, spec/20, Table 20.5. -/
def sysIrqClaimS (a : Nat) : Nat := 0x4000180C + 0x10 * a
/-- `SYS_IRQ_PEND_w`, spec/20, Table 20.5. -/
def sysIrqPend (a : Nat) : Nat := 0x40001900 + 0x4 * a
/-- `SYS_IRQ_ERR`, spec/20, Table 20.5. -/
def sysIrqErr : Nat := 0x40001920
/-- `SYS_SWI`, spec/20, Table 20.5. -/
def sysSwi : Nat := 0x40001940
/-- `SYS_MEM_CFG`, spec/20, Table 20.5. -/
def sysMemCfg : Nat := 0x40002000
/-- `SYS_ECC_m`, spec/20, Table 20.5. -/
def sysEcc (a : Nat) : Nat := 0x40002010 + 0x4 * a
/-- `SYS_ECC_ADDR_LO`, spec/20, Table 20.5. -/
def sysEccAddrLo : Nat := 0x40002020
/-- `SYS_ECC_ADDR_HI`, spec/20, Table 20.5. -/
def sysEccAddrHi : Nat := 0x40002024
/-- `FRY_ETH`, spec/20, Table 20.6. -/
def fryEth : Nat := 0x46000000
/-- `FRY_Q_q_CFG`, spec/20, Table 20.6. -/
def fryQCfg (a : Nat) : Nat := 0x46001000 + 0x40 * a
/-- `FRY_Q_q_START`, spec/20, Table 20.6. -/
def fryQStart (a : Nat) : Nat := 0x46001004 + 0x40 * a
/-- `FRY_Q_q_CTRL`, spec/20, Table 20.6. -/
def fryQCtrl (a : Nat) : Nat := 0x46001008 + 0x40 * a
/-- `FRY_Q_q_STATUS`, spec/20, Table 20.6. -/
def fryQStatus (a : Nat) : Nat := 0x4600100C + 0x40 * a
/-- `FRY_Q_q_DESC`, spec/20, Table 20.6. -/
def fryQDesc (a : Nat) : Nat := 0x46001010 + 0x40 * a
/-- `FRY_Q_q_DONE`, spec/20, Table 20.6. -/
def fryQDone (a : Nat) : Nat := 0x46001014 + 0x40 * a
/-- `FRY_Q_q_FADDR`, spec/20, Table 20.6. -/
def fryQFaddr (a : Nat) : Nat := 0x46001018 + 0x40 * a
/-- `FRY_Q_q_FADDR_HI`, spec/20, Table 20.6. -/
def fryQFaddrHi (a : Nat) : Nat := 0x4600101C + 0x40 * a
/-- `FRY_Q_q_COUNT`, spec/20, Table 20.6. -/
def fryQCount (a : Nat) : Nat := 0x46001020 + 0x40 * a
/-- `IOMMU_D_d_CFG`, spec/20, Table 20.6. -/
def iommuDCfg (a : Nat) : Nat := 0x46400000 + 0x10 * a
/-- `IOMMU_D_d_ROOT`, spec/20, Table 20.6. -/
def iommuDRoot (a : Nat) : Nat := 0x46400004 + 0x10 * a
/-- `IOMMU_INV`, spec/20, Table 20.6. -/
def iommuInv : Nat := 0x46401000
/-- `IOMMU_INV_PAGE`, spec/20, Table 20.6. -/
def iommuInvPage : Nat := 0x46401004
/-- `IOMMU_FAULT_0`, spec/20, Table 20.6. -/
def iommuFault0 : Nat := 0x46401010
/-- `IOMMU_FAULT_1`, spec/20, Table 20.6. -/
def iommuFault1 : Nat := 0x46401014
/-- `IOMMU_FAULT_2`, spec/20, Table 20.6. -/
def iommuFault2 : Nat := 0x46401018
/-- `PMU_p_PCNT_c`, spec/20, Table 20.7. -/
def pmuPcnt (a b : Nat) : Nat := 0x46800000 + 0x1000 * a + 0x4 * b
/-- `PMU_p_SEL_c`, spec/20, Table 20.7. -/
def pmuSel (a b : Nat) : Nat := 0x46800040 + 0x1000 * a + 0x4 * b
/-- `PMU_p_OVF`, spec/20, Table 20.7. -/
def pmuOvf (a : Nat) : Nat := 0x46800080 + 0x1000 * a
/-- `PMU_p_IRQ_EN`, spec/20, Table 20.7. -/
def pmuIrqEn (a : Nat) : Nat := 0x46800084 + 0x1000 * a
/-- `PMU_p_USER`, spec/20, Table 20.7. -/
def pmuUser (a : Nat) : Nat := 0x46800088 + 0x1000 * a
/-- `PMU_FREEZE`, spec/20, Table 20.7. -/
def pmuFreeze : Nat := 0x46808000
/-- `PMU_FREEZE_ON`, spec/20, Table 20.7. -/
def pmuFreezeOn : Nat := 0x46808004
/-- `PMU_FREEZE_CAUSE`, spec/20, Table 20.7. -/
def pmuFreezeCause : Nat := 0x46808008
/-- `BOOT_STATUS`, spec/21, Table 21.8. -/
def bootStatus : Nat := 0x46C00000
/-- `BOOT_RESULT_A`, spec/21, Table 21.8. -/
def bootResultA : Nat := 0x46C00004
/-- `BOOT_RESULT_B`, spec/21, Table 21.8. -/
def bootResultB : Nat := 0x46C00008
/-- `BOOT_VAL_ADDR`, spec/21, Table 21.8. -/
def bootValAddr : Nat := 0x46C0000C
/-- `BOOT_IMAGE_SEQ`, spec/21, Table 21.8. -/
def bootImageSeq : Nat := 0x46C00010
/-- `BOOT_SEC`, spec/21, Table 21.8. -/
def bootSec : Nat := 0x46C00014
/-- `BOOT_IMAGE_CRC`, spec/21, Table 21.8. -/
def bootImageCrc : Nat := 0x46C00018
/-- `BOOT_SAFETY_CRC`, spec/21, Table 21.8. -/
def bootSafetyCrc : Nat := 0x46C0001C
/-- `BOOT_ST_RESULT`, spec/21, Table 21.8. -/
def bootStResult : Nat := 0x46C00020
/-- `BOOT_TIME`, spec/21, Table 21.8. -/
def bootTime : Nat := 0x46C00024
/-- `BOOT_RESET_CAUSE`, spec/21, Table 21.8. -/
def bootResetCause : Nat := 0x46C00030
/-- `BOOT_RESET`, spec/21, Table 21.8. -/
def bootReset : Nat := 0x46C00034
/-- `BOOT_FLASH_CMD`, spec/21, Table 21.8. -/
def bootFlashCmd : Nat := 0x46C00040
/-- `BOOT_FLASH_ADDR`, spec/21, Table 21.8. -/
def bootFlashAddr : Nat := 0x46C00044
/-- `BOOT_FLASH_LEN`, spec/21, Table 21.8. -/
def bootFlashLen : Nat := 0x46C00048
/-- `BOOT_OTP_CMD`, spec/21, Table 21.8. -/
def bootOtpCmd : Nat := 0x46C00050
/-- `BOOT_OTP_STATUS`, spec/21, Table 21.8. -/
def bootOtpStatus : Nat := 0x46C00054
/-- `BOOT_FLASH_BUF_w`, spec/21, Table 21.8. -/
def bootFlashBuf (a : Nat) : Nat := 0x46C00100 + 0x4 * a
/-- `WEAR_STATUS`, spec/22, Table 22.4. -/
def wearStatus : Nat := 0x47000000
/-- `WEAR_CP`, spec/22, Table 22.4. -/
def wearCp : Nat := 0x47000004
/-- `WEAR_LAGOON`, spec/22, Table 22.4. -/
def wearLagoon : Nat := 0x47000008
/-- `WEAR_SAR_j`, spec/22, Table 22.4. -/
def wearSar (a : Nat) : Nat := 0x47000010 + 0x4 * a
/-- `WEAR_LINK_j`, spec/22, Table 22.4. -/
def wearLink (a : Nat) : Nat := 0x47000020 + 0x4 * a
/-- `WEAR_LEG_j`, spec/22, Table 22.4. -/
def wearLeg (a : Nat) : Nat := 0x47000030 + 0x4 * a
/-- `WEAR_MON_m_VAL`, spec/22, Table 22.4. -/
def wearMonVal (a : Nat) : Nat := 0x47000100 + 0x8 * a
/-- `WEAR_MON_m_TH`, spec/22, Table 22.4. -/
def wearMonTh (a : Nat) : Nat := 0x47000104 + 0x8 * a
/-- `PDM_STATUS`, spec/23, Table 23.10. -/
def pdmStatus : Nat := 0x40200000
/-- `PDM_OFF`, spec/23, Table 23.10. -/
def pdmOff : Nat := 0x40200004
/-- `PDM_ON`, spec/23, Table 23.10. -/
def pdmOn : Nat := 0x40200008
/-- `PDM_ERR`, spec/23, Table 23.10. -/
def pdmErr : Nat := 0x4020000C
/-- `PDM_CFG`, spec/23, Table 23.10. -/
def pdmCfg : Nat := 0x40200010
/-- `PDM_TEMP_k`, spec/23, Table 23.10. -/
def pdmTemp (a : Nat) : Nat := 0x40200020 + 0x4 * a
/-- `PDM_TEMP_MAX`, spec/23, Table 23.10. -/
def pdmTempMax : Nat := 0x40200030
/-- `SND_RX_HEAD`, spec/10, Table 10.4. -/
def sndRxHead : Nat := 0x42C00100
/-- `SND_RX_PAYLOAD`, spec/10, Table 10.4. -/
def sndRxPayload : Nat := 0x42C00104
/-- `SND_RX_S`, spec/10, Table 10.4. -/
def sndRxS : Nat := 0x42C00108
/-- `SND_RX_NS`, spec/10, Table 10.4. -/
def sndRxNs : Nat := 0x42C0010C
/-- `SIG_VAL_i`, spec/02, R43. -/
def sigVal (a : Nat) : Nat := 0x40308000 + 0x4 * a
/-- `SIG_QUAL_i`, spec/02, R43. -/
def sigQual (a : Nat) : Nat := 0x4030C000 + 0x4 * a
/-- `SDF_COEF_w`, spec/03, R57. -/
def sdfCoef (a : Nat) : Nat := 0x41080000 + 0x4 * a
/-- `CE_PARAM_i_0`, spec/06, Table 6.2. -/
def ceParam0 (a : Nat) : Nat := 0x42010000 + 0x40 * a
/-- `CE_PARAM_i_1`, spec/06, Table 6.2. -/
def ceParam1 (a : Nat) : Nat := 0x42010004 + 0x40 * a
/-- `CE_PARAM_i_2`, spec/06, Table 6.2. -/
def ceParam2 (a : Nat) : Nat := 0x42010008 + 0x40 * a
/-- `CE_PARAM_i_3`, spec/06, Table 6.2. -/
def ceParam3 (a : Nat) : Nat := 0x4201000C + 0x40 * a
/-- `CE_PARAM_i_4`, spec/06, Table 6.2. -/
def ceParam4 (a : Nat) : Nat := 0x42010010 + 0x40 * a
/-- `CE_PARAM_i_5`, spec/06, Table 6.2. -/
def ceParam5 (a : Nat) : Nat := 0x42010014 + 0x40 * a
/-- `CE_PARAM_i_6`, spec/06, Table 6.2. -/
def ceParam6 (a : Nat) : Nat := 0x42010018 + 0x40 * a
/-- `CE_PARAM_i_7`, spec/06, Table 6.2. -/
def ceParam7 (a : Nat) : Nat := 0x4201001C + 0x40 * a
/-- `CE_PARAM_i_8`, spec/06, Table 6.2. -/
def ceParam8 (a : Nat) : Nat := 0x42010020 + 0x40 * a
/-- `CE_PARAM_i_9`, spec/06, Table 6.2. -/
def ceParam9 (a : Nat) : Nat := 0x42010024 + 0x40 * a
/-- `CE_PARAM_i_10`, spec/06, Table 6.2. -/
def ceParam10 (a : Nat) : Nat := 0x42010028 + 0x40 * a
/-- `CE_PARAM_i_11`, spec/06, Table 6.2. -/
def ceParam11 (a : Nat) : Nat := 0x4201002C + 0x40 * a
/-- `CE_PARAM_i_12`, spec/06, Table 6.2. -/
def ceParam12 (a : Nat) : Nat := 0x42010030 + 0x40 * a
/-- `CE_PARAM_i_13`, spec/06, Table 6.2. -/
def ceParam13 (a : Nat) : Nat := 0x42010034 + 0x40 * a
/-- `CE_PARAM_i_14`, spec/06, Table 6.2. -/
def ceParam14 (a : Nat) : Nat := 0x42010038 + 0x40 * a
/-- `CE_PARAM_i_15`, spec/06, Table 6.2. -/
def ceParam15 (a : Nat) : Nat := 0x4201003C + 0x40 * a
/-- `CE_STATE_c_0`, spec/06, Table 6.3. -/
def ceState0 (a : Nat) : Nat := 0x42020000 + 0x20 * a
/-- `CE_STATE_c_1`, spec/06, Table 6.3. -/
def ceState1 (a : Nat) : Nat := 0x42020004 + 0x20 * a
/-- `CE_STATE_c_2`, spec/06, Table 6.3. -/
def ceState2 (a : Nat) : Nat := 0x42020008 + 0x20 * a
/-- `CE_STATE_c_3`, spec/06, Table 6.3. -/
def ceState3 (a : Nat) : Nat := 0x4202000C + 0x20 * a
/-- `CE_STATE_c_4`, spec/06, Table 6.3. -/
def ceState4 (a : Nat) : Nat := 0x42020010 + 0x20 * a
/-- `CE_STATE_c_5`, spec/06, Table 6.3. -/
def ceState5 (a : Nat) : Nat := 0x42020014 + 0x20 * a
/-- `CE_STATE_c_6`, spec/06, Table 6.4. -/
def ceState6 (a : Nat) : Nat := 0x42020018 + 0x20 * a
/-- `CE_STATE_c_7`, spec/06, Table 6.3. -/
def ceState7 (a : Nat) : Nat := 0x4202001C + 0x20 * a

end Sys2Proof.Machine.R
end

