-- ==== Sys2Proof/Machine/State.lean ====
section
/-! DEFINITION. The state of the device as plain data, what may stop a command, and the state after reset. -/

namespace Sys2Proof.Machine

/-- What stops the block: nothing does. No rule of the spec stops it at a command, and an operand list that is longer or shorter than its
command's is read as far as that goes, what is missing as 0 (safe: such a term spells nothing that the block can be sent). -/
inductive Fault where
  deriving DecidableEq, Repr

/-- What the model does not do. -/
inductive Refusal where
  /-- Raised by the dispatcher for a command without a meaning. Safe: nothing is claimed of it. -/
  | notModelled (mnemonic : String)
  deriving DecidableEq, Repr

/-- The whole state. `regs` holds every register that is not at its reset value, by byte address (R4); what a register shows that
is formed on reading (the timebase, the signal windows, the views of other state) is formed in `Sys2Proof.Machine.readReg`. -/
structure State where
  clk    : Clk
  regs   : Tab Word
  raised : Tab Raised
  bus    : BusAns
  sig    : SigTab
  evs    : Tab Ev
  irq    : IrqSt
  mem    : MemSt
  tim    : TimeSt
  seqs   : Tab SeqSt
  slices : Tab SliceSt
  legs   : Tab LegSt
  links  : Tab LinkSt
  boards : Tab BoardSt
  cans   : Tab CanSt
  vecs   : Tab VecSt
  poss   : Tab PosSt
  keep   : Tab KeepSt
  gfes   : Tab GfeSt
  gpar   : GfeParSt
  snd    : SndSt
  twin   : TwinSt
  /-- hold-off causes in force, by code of R248 -/
  holds  : Tab Bool
  rec_   : RecSt
  sdf    : SdfSt
  prot   : ProtSt
  wear   : WearSt
  pdm    : PdmSt
  pairs  : Tab PairSt
  sars   : Tab SarSt
  ce     : CeSt
  aux    : AuxAll
  eth    : EthSt
  isl    : IslSt
  pmu    : PmuSt
  tap    : Tap
  iom    : IomSt
  fry    : FrySt
  boot   : BootSt
  uli    : UliSt
  dev    : Variant
  free   : Nat
  pending : List Instr
  deriving DecidableEq, Repr

/-- The state right after reset (R432): every register at its reset value, nothing listed in memory, every unit idle. The instant,
the Islet's memory, the wear record, the OTP and the flash are those of a new device (logs 11, 17, 18). -/
def State.reset : State :=
  { clk := { now := 0, tbBase := 0, relAt := 0, faulted := false, safeOsc := none, safeForced := false, grace := 32000000000 }
    regs := [], raised := [], bus := .none
    sig := { stable := [], fill := [], decl := [], writes := [], times := [], latched := [] }
    evs := [], irq := { line := [], claimed := [], got := [] }
    mem := { cells := [], epoch := [], bad := [] }
    tim := { base := 0, baseAt := 0, inc := 137438953472, oldBase := 0, oldAt := 0, oldInc := 137438953472, latch := [], tbUli := 0 }
    seqs := [], slices := [], legs := [], links := [], boards := [], cans := [], vecs := [], poss := [], keep := [], gfes := []
    gpar := { act := [], applyAt := [], accLow := [] }
    snd := SndSt.init, twin := TwinSt.init, holds := []
    rec_ := { caps := [], chans := [], prev := [], drive := [], deadMs := [], lasts := [] }
    sdf := { chains := [], bad := [], frame := 0, used := 0 }
    prot := { srcs := [], dcs := [], smon := [], wds := [], intSto := [], bothLow := false, diffAt := none, inb := [], lines := [] }
    wear := { live := WearRec.init, saved := WearRec.init, prev := WearRec.init, wroteAt := none, errs := [], times := [], downFrom := [], downs := [] }
    pdm := PdmSt.init, pairs := [], sars := [], ce := CeSt.init, aux := AuxAll.init, eth := EthSt.init, isl := IslSt.init
    pmu := PmuSt.init, tap := .idcode, iom := IomSt.init, fry := FrySt.init, boot := BootSt.init, uli := UliSt.init, dev := .v4M
    free := 0, pending := [] }

end Sys2Proof.Machine
end

