-- ==== Sys2Proof/Machine/Ops.lean ====
section
/-! DEFINITION. The named operations over the clock, the registers, the memories, the signal table and the events. -/

namespace Sys2Proof.Machine

/-! ### Clocks and instants (R11, R28, R212) -/

/-- Sub-steps per cycle of each clock of Table 2.1: root, timebase, fabric, peripheral, Ethernet, CAN and SAR. -/
def rootCycle : Nat := 8
def tbCycle : Nat := 32
def fabCycle : Nat := 64
def perCycle : Nat := 128
def ethCycle : Nat := 256
def canCycle : Nat := 400
def sarCycle : Nat := 640
/-- Sub-steps of one microsecond, one millisecond and one second. -/
def usec : Nat := 32000
def msec : Nat := 32000000
def second : Nat := 32000000000

/-- The state when a command acts at instant `t`: the present never moves backwards. -/
def State.goto (s : State) (t : Nat) : State := { s with clk := { s.clk with now := max s.clk.now t } }

/-- Whether the variant has thread `n` (R3). -/
def State.threadHere (s : State) (n : Nat) : Bool := decide (n < 2) || s.dev != .v2N

/-- The present instant. -/
def State.now (s : State) : Nat := s.clk.now

/-- The PWM timebase in sub-steps (R212). -/
def State.tb (s : State) : Int := (s.clk.now : Int) - s.clk.tbBase

/-- The timebase value of an instant. -/
def State.tbOf (s : State) (t : Nat) : Int := (t : Int) - s.clk.tbBase

/-- Clock period, in sub-steps, of the registers of block number `b` = address / 0x10_0000 (Table 2.1, R7). -/
def blockPeriod (b : Nat) : Nat :=
  match b with
  | 0x403 | 0x410 | 0x420 | 0x424 | 0x428 | 0x440 => fabCycle
  | 0x430 | 0x434 => tbCycle
  | 0x454 | 0x458 => ethCycle
  | 0x45C => canCycle
  | 0x414 => sarCycle
  | 0x448 => rootCycle
  | _ => perCycle

/-- Number of the present cycle of the clock on which the register at address `a` runs (R7). -/
def State.cycleOf (s : State) (a : Nat) : Nat := s.clk.now / blockPeriod (a / 0x100000)

/-! ### The register file -/

/-- Whether byte offset `d` is one of the places the dimensions spell. -/
def dimsCover : List (Nat × Nat) → Nat → Bool
  | [], d => d == 0
  | (st, n) :: rest, d =>
    let i := d / st
    if i < n then dimsCover rest (d - i * st) else false

/-- Whether a row holds the register at address `a`. -/
def RegRow.covers (r : RegRow) (a : Nat) : Bool :=
  decide (r.base ≤ a) && dimsCover r.dims (a - r.base)

/-- The row of the register at address `a`, if one is listed there (R5). -/
def regRow (a : Nat) : Option RegRow := (blockRows (a / 0x100000)).find? (·.covers a)

/-- The reset value of the register at address `a` (R6, R432). -/
def regReset (a : Nat) : Word :=
  match regRow a with
  | some r => wordN r.reset
  | none => 0#32

/-- The register at address `a`, as held. -/
def State.rd (s : State) (a : Nat) : Word := tabGet regReset s.regs a

/-- The state with the register at address `a` holding `w`. -/
def State.wr (s : State) (a : Nat) (w : Word) : State := { s with regs := tabSet regReset s.regs a w }

/-- Field `[hi:lo]` of a register. -/
def State.rdF (s : State) (a hi lo : Nat) : Nat := fieldOf (s.rd a) hi lo

/-- Bit `i` of a register. -/
def State.rdB (s : State) (a i : Nat) : Bool := bitOf (s.rd a) i

/-- A register read as a signed number. -/
def State.rdS (s : State) (a : Nat) : Int := sval (s.rd a)

/-- A register read as an unsigned number. -/
def State.rdN (s : State) (a : Nat) : Nat := (s.rd a).toNat

/-- The state with field `[hi:lo]` of a register replaced. -/
def State.wrF (s : State) (a hi lo v : Nat) : State := s.wr a (withField (s.rd a) hi lo v)

/-- The state with bit `i` of a register set to `b`. -/
def State.wrB (s : State) (a i : Nat) (b : Bool) : State := s.wr a (withBit (s.rd a) i b)

/-- The state with a register counter in `[hi:lo]` increased by `n`, saturating. -/
def State.countUp (s : State) (a hi lo n : Nat) : State :=
  s.wrF a hi lo (min (2 ^ (hi + 1 - lo) - 1) (s.rdF a hi lo + n))

/-- What hardware did to the register at address `a` in the present cycle of its clock (R7). -/
def State.raisedIn (s : State) (a : Nat) : Raised :=
  let r := tabGet (fun _ => Raised.mk 0 0#32 0#32) s.raised a
  if r.cycle = s.cycleOf a then r else ⟨s.cycleOf a, 0#32, 0#32⟩

/-- The bits of a register that hardware has set in the present cycle of its clock (R7). -/
def State.raisedNow (s : State) (a : Nat) : Word := (s.raisedIn a).mask

/-- The bits `m` of a register count as set by hardware in the present cycle, those of `c` with their capture fields. -/
def State.markRaised (s : State) (a : Nat) (m c : Word) : State :=
  let r := s.raisedIn a
  { s with raised := tabSet (fun _ => Raised.mk 0 0#32 0#32) s.raised a ⟨r.cycle, r.mask ||| m, r.cap ||| c⟩ }

/-- A hardware event sets bit `i` of a register: the bit reads 1, and the cycle is noted for R7. -/
def State.raise (s : State) (a i : Nat) : State := (s.markRaised a (BitVec.ofNat 32 (2 ^ i)) 0#32).wrB a i true

/-- Whether a setting of flag `i` of a register takes the capture field beside it: the first since the flag was last clear does, and of
several in one cycle the one that is `lower`. -/
def State.captures (s : State) (a i : Nat) (lower : Bool) : Bool := !s.rdB a i || (bitOf (s.raisedIn a).cap i && lower)

/-- Flag `i` of register `a` is set by a setting whose capture is the value `v` of field `[hi:lo]` of register `b`: the lowest one of the
cycle of the first setting stays. -/
def State.raiseCapture (s : State) (a i b hi lo v : Nat) : State :=
  if s.captures a i (decide (v < s.rdF b hi lo)) then ((s.wrF b hi lo v).markRaised a 0#32 (BitVec.ofNat 32 (2 ^ i))).raise a i
  else s.raise a i

/-- As `raise`, when `c` holds. -/
def State.raiseIf (s : State) (c : Bool) (a i : Nat) : State := if c then s.raise a i else s

/-- What a write of `w` stores in the register at address `a` by the access codes alone (R6, R7, R8): RW bits take the value,
LOCK bits too while `SYS_LOCK` is clear, W1C bits written 1 clear unless hardware set them in this same cycle. Reserved, RO,
WO and W1S bits keep what they hold. -/
def State.storeReg (s : State) (a : Nat) (w : Word) : State :=
  match regRow a with
  | none => s
  | some r =>
    let old := s.rd a
    let free := wordN r.rw ||| (if s.rdB R.sysLock 0 then 0#32 else wordN r.lock)
    let clr := w &&& wordN r.w1c &&& ~~~ s.raisedNow a
    s.wr a (((old &&& ~~~ free) ||| (w &&& free)) &&& ~~~ clr)

/-! ### Effects on their way -/

/-- The list with an effect put in after those of its instant and before (R68). -/
def soonPut : List (Nat × Soon) → Nat → Soon → List (Nat × Soon)
  | [], t, x => [(t, x)]
  | e :: rest, t, x => if e.1 ≤ t then e :: soonPut rest t x else (t, x) :: e :: rest

/-- An effect that happens at instant `t`. -/
def State.soon (s : State) (t : Nat) (x : Soon) : State := { s with prot := { s.prot with inb := soonPut s.prot.inb t x } }

/-! ### Filtered inputs -/

/-- Whether filtered input `x` may change now: the new level has been there for the filter time `flt` since its last change (R235, R296,
R305). -/
def State.lineFree (s : State) (x flt : Nat) : Bool := decide (tabGet (fun _ => 0) s.prot.lines x + flt ≤ s.clk.now + 1) ||
  decide (tabGet (fun _ => 0) s.prot.lines x = 0)

/-- Filtered input `x` changes now. -/
def State.lineMark (s : State) (x : Nat) : State :=
  { s with prot := { s.prot with lines := tabSet (fun _ => 0) s.prot.lines x (s.clk.now + 1) } }

/-! ### Free values -/

/-- The next free word: nothing constrains it (log 10). -/
def State.freshWord (s : State) : Word := Config.freeWord s.free

/-- The state after a free word was taken. -/
def State.tookFree (s : State) : State := { s with free := s.free + 1 }

/-! ### Network time (R370) -/

/-- Units of 2^-34 ns in one second. -/
def ntSecond : Nat := 1000000000 * 2 ^ 34

/-- The increment in force at instant `t`, per tick. -/
def State.netInc (s : State) (t : Nat) : Nat := if s.tim.baseAt ≤ t then s.tim.inc else s.tim.oldInc

/-- Network time at instant `t`, for the fabric cycle in which it falls (R370, R45). -/
def State.netTime (s : State) (t : Nat) : Nat :=
  let m := s.tim
  if m.baseAt ≤ t then (m.base + (t - m.baseAt) / fabCycle * (m.inc / 4)) % (2 ^ 48 * ntSecond)
  else (m.oldBase + (t - m.oldAt) / fabCycle * (m.oldInc / 4)) % (2 ^ 48 * ntSecond)

/-- Seconds, nanoseconds and 32-bit fraction of a network time. -/
def ntSec (n : Nat) : Nat := n / ntSecond
def ntNs (n : Nat) : Nat := n % ntSecond / 2 ^ 34
def ntFrac (n : Nat) : Nat := n % 2 ^ 34 / 4
/-- A network time in whole nanoseconds. -/
def ntTotalNs (n : Nat) : Nat := n / 2 ^ 34

/-! ### Events and interrupt lines (R45, R410) -/

def Ev.init : Ev := ⟨0, 0, 0, 0, 0, 0⟩

/-- Whether interrupt source `i` can be pending: 153 to 255 never are (Table 20.2). -/
def irqSourceReal (i : Nat) : Bool := decide (i < 153)

/-- The line of interrupt source `i` is raised or dropped. -/
def State.setIrq (s : State) (i : Nat) (b : Bool) : State :=
  if irqSourceReal i then { s with irq := { s.irq with line := tabSet (fun _ => false) s.irq.line i b } } else s

/-- An event of source `src` (numbered as the interrupt sources of Table 20.2) with code `code`, stamped with the network
time of the fabric cycle (R45), that carries the timebase instant `tau` as well (R185); its interrupt line rises (log 30). -/
def State.postAt (s : State) (src code : Nat) (tau : Int) : State :=
  let e := tabGet (fun _ => Ev.init) s.evs src
  let n := s.netTime s.clk.now
  let e' : Ev := ⟨(e.count + 1) % 65536, ntSec n, ntNs n, n % 2 ^ 34, code, tau⟩
  ({ s with evs := tabSet (fun _ => Ev.init) s.evs src e' }).setIrq src true

/-- An event that carries its time-stamp alone. -/
def State.post (s : State) (src code : Nat) : State := s.postAt src code 0

/-! ### The signal table (R21, R41–R43) -/

/-- What a signal holds from the configuration load until its first write (R41): value 0, INVALID, STALE, AGE 15. -/
def SigVal.unwritten : SigVal := ⟨0#32, 0xC00F#16⟩

/-- Quality bits of Table 2.10. -/
def qInvalid : Nat := 15
def qStale : Nat := 14
def qSubst : Nat := 13
def qSat : Nat := 12
def qOverrun : Nat := 11
def qForced : Nat := 10
def qDisagree : Nat := 9
def qSource : Nat := 8

/-- Bit `i` of a quality word. -/
def qBit (q : Qual) (i : Nat) : Bool := q.getLsbD i

/-- `AGE` of a quality word. -/
def qAge (q : Qual) : Nat := q.toNat % 16

/-- A quality word with a bit set to `b`. -/
def qWith (q : Qual) (i : Nat) (b : Bool) : Qual :=
  if b then q ||| BitVec.ofNat 16 (2 ^ i) else q &&& ~~~ (BitVec.ofNat 16 (2 ^ i))

/-- A quality word with `AGE` replaced. -/
def qWithAge (q : Qual) (n : Nat) : Qual := (q &&& 0xFFF0#16) ||| BitVec.ofNat 16 (min n 15)

/-- A quality word as the table stores it at a write: `STALE`, `OVERRUN` and `AGE` cleared (R21). -/
def qWritten (q : Qual) : Qual := q &&& 0xB7F0#16

/-- The word of R440 of signal `i`. -/
def State.sigDecl (s : State) (i : Nat) : Word := tabGet (fun _ => 0#32) s.sig.decl i

/-- The swap domain of signal `i`: 0–3 a thread, 7 the common domain (R21, R44, R440). -/
def State.sigDomain (s : State) (i : Nat) : Nat :=
  if 4064 ≤ i then (i - 4064) / 8 else if bitOf (s.sigDecl i) 31 then fieldOf (s.sigDecl i) 30 28 else 7

/-- The stable copy of signal `i`. -/
def State.sigStable (s : State) (i : Nat) : SigVal := tabGet (fun _ => SigVal.unwritten) s.sig.stable i

/-- The fill copy of signal `i`, when it was written in the running period. -/
def State.sigFill (s : State) (i : Nat) : Option SigVal := tabGet (fun _ => none) s.sig.fill i

/-- What a step of thread `n`'s sequencer reads of signal `i`: its latched value, where one is in force (R326), else by R21. -/
def State.sigStep (s : State) (n i : Nat) : SigVal :=
  match (tabGet (fun _ => []) s.sig.latched n).find? (fun x => x.1 == i) with
  | some x => x.2
  | none =>
  if s.sigDomain i = n then (s.sigFill i).getD (s.sigStable i) else s.sigStable i

/-- The state with the stable copy of a signal replaced. -/
def State.setStable (s : State) (i : Nat) (v : SigVal) : State :=
  { s with sig := { s.sig with stable := tabSet (fun _ => SigVal.unwritten) s.sig.stable i v } }

/-- The state with the fill copy of a signal replaced. -/
def State.setFill (s : State) (i : Nat) (v : Option SigVal) : State :=
  { s with sig := { s.sig with fill := tabSet (fun _ => none) s.sig.fill i v } }

/-- The debug force that holds signal `i`, if one does (R429): its value. -/
def State.sigForce (s : State) (i : Nat) : Option Word :=
  ((List.range 8).find? (fun k => s.rdB (R.sysDbgForce k) 31 && s.rdF (R.sysDbgForce k) 11 0 == i)).map
    (fun k => s.rd (R.sysDbgForceVal k))

/-- A write of its declared writer reaches signal `i` (R21, R42, R429): a thread-domain signal takes it in the fill copy, a
common-domain one at once. -/
def State.sigStore (s : State) (i : Nat) (v : Word) (q : Qual) : State :=
  let x : SigVal := match s.sigForce i with
    | some f => ⟨f, qWith (qWritten q) qForced true⟩
    | none => ⟨v, qWritten q⟩
  if s.sigDomain i < 4 then s.setFill i (some x)
  else
    let s := s.setStable i x
    let n := tabGet (fun _ => 0) s.sig.writes i + 1
    { s with sig := { s.sig with writes := tabSet (fun _ => 0) s.sig.writes i n
                                 times := tabSet (fun _ => 0) s.sig.times i (s.netTime s.clk.now) } }

/-- A write to the signal that a configured number names: 0xFFF means no signal. -/
def State.sigPut (s : State) (i : Nat) (v : Word) (q : Qual) : State := if 4095 ≤ i then s else s.sigStore i v q

/-- The tag of R43: the low 16 bits of the count of sample instants of the thread, or of writes of a common signal. -/
def State.sigTag (s : State) (i : Nat) : Nat :=
  let d := s.sigDomain i
  if d < 4 then (tabGet (fun _ => SeqSt.init) s.seqs d).samples % 65536
  else tabGet (fun _ => 0) s.sig.writes i % 65536

/-! ### Memory outside register space (R408, R483) -/

/-- The memory regions of Table 25.1 by number: 0 boot ROM, 1 Lagoon, 2–6 the TCMs, 7 DRAM. -/
def memRegion (a dramEnd : Nat) : Option Nat :=
  if a < 0x20000 then some 0
  else if 0x08000000 ≤ a ∧ a < 0x09000000 then some 1
  else if 0x10000000 ≤ a ∧ a < 0x10500000 then
    (if a % 0x100000 < 0x80000 then some (2 + (a - 0x10000000) / 0x100000) else none)
  else if 0x100000000 ≤ a ∧ a < dramEnd then some 7
  else none

/-- The end of the usable DRAM range for the size code of `SYS_MEM_CFG` (R413). -/
def State.dramEnd (s : State) : Nat :=
  let c := s.rdF R.sysMemCfg 18 16
  if c = 0 ∨ 4 < c then 0x100000000 else 0x100000000 + 2 ^ (30 + c) / 16 * 15

/-- The number of the region of Table 25.1 whose fate the byte at address `a` shares. -/
def memPlace (a : Nat) : Nat :=
  if a < 0x20000 then 0 else if a < 0x09000000 then 1 else if a < 0x10500000 then 2 + (a - 0x10000000) / 0x100000 else 7

/-- What an unlisted byte reads as: the content its region holds unwritten (R432, log 11). The boot ROM's content is not the
spec's. -/
def memDefault (ep : Tab Nat) (a : Nat) : Byte :=
  let e := tabGet (fun _ => 0) ep (memPlace a)
  if e = 0 then 0#8 else Config.freeByte e a

/-- The canonical form of the memory: addresses strictly rising, no byte equal to what its unlisted address reads as. -/
def Memory.wf (m : MemSt) : Bool := tabWf (memDefault m.epoch) m.cells

/-- One byte of memory. -/
def State.byte (s : State) (a : Nat) : Byte := tabGet (memDefault s.mem.epoch) s.mem.cells a

/-- The state with one byte of memory replaced. -/
def State.setByte (s : State) (a : Nat) (b : Byte) : State :=
  { s with mem := { s.mem with cells := tabSet (memDefault s.mem.epoch) s.mem.cells a b } }

/-- `n` bytes of memory from `a`, least address first. -/
def State.bytes (s : State) (a : Nat) : Nat → List Byte
  | 0 => []
  | n + 1 => s.byte a :: s.bytes (a + 1) n

/-- The state with bytes stored from `a` upwards. -/
def State.setBytes (s : State) (a : Nat) : List Byte → State
  | [] => s
  | b :: bs => (s.setByte a b).setBytes (a + 1) bs

/-- A little-endian 32-bit word of memory. -/
def State.memWord (s : State) (a : Nat) : Nat := natLE (s.bytes a 4)

/-- The memories of the regions in `rs` lose their content (R432, R464). -/
def State.loseMemory (s : State) (rs : List Nat) (e : Nat) : State :=
  { s with mem :=
    { cells := s.mem.cells.filter (fun c => !rs.contains (memPlace c.1))
      epoch := rs.foldl (fun t r => tabSet (fun _ => 0) t r e) s.mem.epoch
      bad := s.mem.bad.filter (fun c => !rs.contains (memPlace c.1)) } }

/-! ### Tables of unit states -/

def State.seq (s : State) (n : Nat) : SeqSt := tabGet (fun _ => SeqSt.init) s.seqs n
def State.setSeq (s : State) (n : Nat) (v : SeqSt) : State :=
  { s with seqs := tabSet (fun _ => SeqSt.init) s.seqs n v }
def State.slice (s : State) (n : Nat) : SliceSt := tabGet (fun _ => SliceSt.init) s.slices n
def State.setSlice (s : State) (n : Nat) (v : SliceSt) : State :=
  { s with slices := tabSet (fun _ => SliceSt.init) s.slices n v }
def State.leg (s : State) (n : Nat) : LegSt := tabGet (fun _ => LegSt.init) s.legs n
def State.setLeg (s : State) (n : Nat) (v : LegSt) : State :=
  { s with legs := tabSet (fun _ => LegSt.init) s.legs n v }
def State.link (s : State) (n : Nat) : LinkSt := tabGet (fun _ => LinkSt.init) s.links n
def State.setLink (s : State) (n : Nat) (v : LinkSt) : State :=
  { s with links := tabSet (fun _ => LinkSt.init) s.links n v }

/-- Apply an operation to each index of a list, in order. -/
def State.each (s : State) (is : List Nat) (f : State → Nat → State) : State := is.foldl f s

end Sys2Proof.Machine
end

