-- ==== Sys2Proof/Machine/AuxGate.lean ====
section
/-! DEFINITION. The gate drivers of the auxiliary half-bridges: which gates are commanded on, since when, and how they are driven (*Auxiliary
motor drives*, R268–R270, R277, R278, R287, R289). -/

namespace Sys2Proof.Machine

def State.mot (s : State) (m : Nat) : AuxSt := tabGet (fun _ => AuxSt.init) s.aux.motors m
def State.setMot (s : State) (m : Nat) (v : AuxSt) : State :=
  { s with aux := { s.aux with motors := tabSet (fun _ => AuxSt.init) s.aux.motors m v } }
def State.motState (s : State) (m : Nat) : Nat := s.rdF (R.auxStatus m) 3 0
def State.motSector (s : State) (m : Nat) : Nat := s.rdF (R.auxStatus m) 6 4
def State.motEn (s : State) (m : Nat) : Bool := s.rdB (R.auxCfg m) 31
def State.motDir (s : State) (m : Nat) : Bool := s.rdB (R.auxCfg m) 30

/-- Whether window `k` (0 `ZERO_I`, 1 `I_LIM`, 2 `OC_LIM`) of half-bridge `h` is asserted (R272). -/
def State.auxWin (s : State) (h k : Nat) : Bool := tabGet (fun _ => false) s.aux.win (3 * h + k)

/-! ### Sectors (R277, Table 13.1) -/

/-- PWM phase, low phase and floating phase of a sector: 0 U, 1 V, 2 W. -/
def secPwm (k : Nat) : Nat := k / 2
def secLow (k : Nat) : Nat := nth 0 [1, 2, 2, 0, 0, 1] k
def secFloat (k : Nat) : Nat := nth 0 [2, 1, 0, 2, 1, 0] k

/-- The PWM phase of motor `m`'s sector as a half-bridge, and its low phase. -/
def State.motPwmHb (s : State) (m : Nat) : Nat := 3 * m + secPwm (s.motSector m)
def State.motLowHb (s : State) (m : Nat) : Nat := 3 * m + secLow (s.motSector m)

/-- Whether motor `m` is driven in six steps: `ALIGN`, `RAMP` or `RUN`. -/
def State.motSix (s : State) (m : Nat) : Bool := s.motState m == 3 || s.motState m == 4 || s.motState m == 5

/-! ### Gates -/

/-- Whether the gate of half-bridge `h` is commanded on: the slice's output, under what the logic holds at the driver input (R270, R277,
R278, R287, R289). `hi` names the high side. -/
def State.auxWant (s : State) (h : Nat) (hi : Bool) : Bool :=
  let m := h / 3
  let v := s.mot m
  let on := if hi then (s.slice (84 + h)).aOn else (s.slice (84 + h)).bOn
  let pwm := h == s.motPwmHb m
  let diode := s.rdB (R.auxCfg m) 29 || s.rdB (R.auxStatus m) 18
  !s.rdB R.auxBusStatus 1 &&
    (if s.motState m = 2 then !hi && v.gap.isNone
     else s.motSix m && on && !v.wait &&
       (if hi then !(pwm && s.rdB (R.auxStatus m) 17) && !s.rdB (R.auxHbStatus h) 3 else !(pwm && diode)))

/-- The command that gate `hi` of half-bridge `h` follows: its level and the instant from which it holds. -/
def State.auxCmd (s : State) (h : Nat) (hi : Bool) : Bool × Nat := tabGet (fun _ => (false, 0)) s.aux.gates (2 * h + b2n hi)

/-- The instant from which a gate turned on now holds: a low side that braking turns on waits for its dead time after the high side's turn-off
and after a braking gap (R287). -/
def State.auxOnAt (s : State) (h : Nat) (hi : Bool) : Nat :=
  let v := s.mot (h / 3)
  let dead := s.rdF (R.pwmSliceDtF (84 + h)) 19 0
  if !hi && s.motState (h / 3) == 2 then
    let off := (s.auxCmd h true).2
    max s.clk.now (max (if off = 0 then 0 else off + dead) (if v.gapEnd = 0 then 0 else v.gapEnd + dead))
  else s.clk.now

/-- Gate `hi` of half-bridge `h` follows what is commanded now. -/
def State.auxFollow (s : State) (h : Nat) (hi : Bool) : State :=
  let w := s.auxWant h hi
  if w = (s.auxCmd h hi).1 then s
  else { s with aux := { s.aux with
    gates := tabSet (fun _ => (false, 0)) s.aux.gates (2 * h + b2n hi) (w, if w then s.auxOnAt h hi else s.clk.now) } }

/-- Both gates of half-bridge `h` follow, the high side first. -/
def State.auxNote (s : State) (h : Nat) : State := (s.auxFollow h true).auxFollow h false

/-- The gates of motor `m` follow. -/
def State.auxNoteMotor (s : State) (m : Nat) : State := ((s.auxNote (3 * m)).auxNote (3 * m + 1)).auxNote (3 * m + 2)

/-- Output A of slice `i` has changed to `on`: the cycle-by-cycle limit of an auxiliary motor ends with the pulse, and acts on a pulse that
begins while the low phase's `I_LIM` window is asserted (R278; log 97). Then the gates follow. -/
def State.auxSwitched (s : State) (i : Nat) (a on : Bool) : State :=
  if 84 ≤ i ∧ i < 102 then
    let h := i - 84
    let m := h / 3
    let s := if a && h == s.motPwmHb m && s.motSix m then s.wrB (R.auxStatus m) 17 (on && s.auxWin (s.motLowHb m) 1) else s
    s.auxNote h
  else s

/-- How a gate is driven (R269): a source or sink current in mA, held on through 5 Ω, held off through 1 Ω, or pulled off through 20 kΩ. -/
inductive GateDrive where
  | source (mA : Nat)
  | sink (mA : Nat)
  | heldOn
  | heldOff
  | passive
  deriving DecidableEq, Repr

/-- The drive `e` sub-steps after a transition to `on` under profile word `w`: `I1` for `T1`, `I2` for `T2`, then the hold; a phase whose code
or duration is 0 is skipped (R269, Table 13.6). -/
def profDrive (w : Word) (on : Bool) (e : Nat) : GateDrive :=
  let i1 := fieldOf w 3 0
  let i2 := fieldOf w 15 12
  let d1 := if i1 = 0 then 0 else fieldOf w 11 4 * 320
  let d2 := if i2 = 0 then 0 else fieldOf w 23 16 * 320
  let cur (k : Nat) : GateDrive := if on then .source (k * 100) else .sink (k * 150)
  if e < d1 then cur i1 else if e < d1 + d2 then cur i2 else if on then .heldOn else .heldOff

/-- How gate `hi` of half-bridge `h` is driven at the present instant: every transition follows the half-bridge's on or off profile, a
protective turn-off the off profile; under `VDRV_UV` the gate is pulled off passively (R269, R270). -/
def State.auxDrive (s : State) (h : Nat) (hi : Bool) : GateDrive :=
  let g := s.auxCmd h hi
  if s.rdB R.auxBusStatus 1 then .passive
  else if g.1 && decide (g.2 ≤ s.clk.now) then profDrive (s.rd (R.auxHbProfOn h)) true (s.clk.now - g.2)
  else if g.1 then .heldOff
  else profDrive (s.rd (R.auxHbProfOff h)) false (s.clk.now - g.2)

end Sys2Proof.Machine
end

