-- ==== Sys2Proof/Machine/Pwm.lean ====
section
/-! DEFINITION. Carriers, slices, leg units, minimum pulse, interlock and overrides (*PWM timebase and slices*), and the edge
schedule that a routed leg hands to its Stadan link. -/

namespace Sys2Proof.Machine

/-! ### Carriers (R213) -/

def State.carP (s : State) (c : Nat) : Nat := s.rdF (R.pwmCarPeriod c) 20 0
def State.carPhase (s : State) (c : Nat) : Nat := s.rdF (R.pwmCarPhase c) 20 0
def State.carOn (s : State) (c : Nat) : Bool := s.rdB (R.pwmCarCfg c) 31
/-- `SEQ_n_ADVANCE` in sub-steps (R22). -/
def State.seqAdv (s : State) (n : Nat) : Nat := 32 * s.rdF (R.seqAdvance n) 19 0
def State.carReload (s : State) (c : Nat) : Nat := s.rdF (R.pwmCarCfg c) 1 0

/-- Position of carrier `c`, in sub-steps, at timebase value `T` (R213). -/
def State.carPos (s : State) (c : Nat) (T : Int) : Nat :=
  ((T - 32 * s.carPhase c) % (32 * s.carP c : Nat)).toNat

/-- The reload interval of carrier `c` in sub-steps (R213). -/
def State.carLen (s : State) (c : Nat) : Nat :=
  if s.carReload c = 3 then 16 * s.carP c else 32 * s.carP c

/-- Distance, in sub-steps, from timebase value `T` to the next reload of carrier `c` at or after it; none when the carrier never
reloads. -/
def State.toReload (s : State) (c : Nat) (T : Int) : Option Nat :=
  let p := 32 * s.carP c
  let x := s.carPos c T
  let d0 := (p - x) % p
  let d1 := (p + p / 2 - x) % p
  if p = 0 then none
  else match s.carReload c with
    | 1 => some d0
    | 2 => some d1
    | 3 => some (min d0 d1)
    | _ => none

/-- Whether carrier `c` reloads at timebase value `T`. -/
def State.isReload (s : State) (c : Nat) (T : Int) : Bool := s.toReload c T == some 0

/-! ### Configuration of slices and leg units -/

def State.slEn (s : State) (i : Nat) : Bool := s.rdB (R.pwmSliceCfg i) 31
def State.slCar (s : State) (i : Nat) : Nat := s.rdF (R.pwmSliceCfg i) 27 24
def State.slOwner (s : State) (i : Nat) : Nat := s.rdF (R.pwmSliceCfg i) 22 20
def State.slMinpMode (s : State) (i : Nat) : Nat := s.rdF (R.pwmSliceCfg i) 17 16
def State.slDtR (s : State) (i : Nat) : Nat := s.rdF (R.pwmSliceDtR i) 19 0
def State.slDtF (s : State) (i : Nat) : Nat := s.rdF (R.pwmSliceDtF i) 19 0
def State.slMinp (s : State) (i : Nat) : Nat := s.rdF (R.pwmSliceMinp i) 19 0
def State.legMode (s : State) (g : Nat) : Nat := s.rdF (R.pwmLegCfg g) 31 30
def State.legRoute (s : State) (g : Nat) : Nat := s.rdF (R.pwmLegCfg g) 29 28
def State.legLink (s : State) (g : Nat) : Nat := s.rdF (R.pwmLegCfg g) 24 20
def State.legForbid (s : State) (g : Nat) : Nat := s.rdF (R.pwmLegStates g) 31 24
/-- Whether slice `i` belongs to an ANPC leg unit (R215, R222). -/
def State.slAnpc (s : State) (i : Nat) : Bool := decide (i < 126) && s.legMode (i / 3) == 1

/-- Leg unit of leg `l` of thread `n` (R229, Table 11.4). -/
def State.legOf (s : State) (n l : Nat) : Nat :=
  if l < 4 then s.rdF (R.pwmLmap0 n) (8 * l + 5) (8 * l) else s.rdF (R.pwmLmap1 n) (8 * (l - 4) + 5) (8 * (l - 4))

/-- The thread and leg number of leg unit `g`, if the map names it. -/
def State.legPlace (s : State) (g : Nat) : Option (Nat × Nat) :=
  (List.range 28).findSome? (fun i => if s.legOf (i / 7) (i % 7) = g then some (i / 7, i % 7) else none)

/-- Bridge of a leg number: 0 `MSB`, 1 `GSB`, 2 `CHOP` (R14). -/
def legBridge (l : Nat) : Nat := if l < 3 then 0 else if l < 6 then 1 else 2

/-- The leg unit routed to link `l`, if there is one (R236). -/
def State.linkLeg (s : State) (l : Nat) : Option Nat :=
  (List.range 42).find? (fun g => s.legRoute g == 1 && s.legLink g == l)

/-! ### Minimum pulse (R226, R227) -/

/-- What the judgement of a dwell needs: length of the interval, state executed before it, the dead time into a state, `MINP`,
`MINP_MODE` and the states judged. -/
structure JudgeCfg where
  len   : Nat
  prev  : Option Nat
  dead  : Option Nat → Nat → Nat
  minp  : Nat
  mode  : Nat
  judged : Nat → Bool

/-- The outcome of a judgement: dwells, hits, and the carry (state, length) made. -/
structure Judged where
  segs  : List Seg
  hits  : Nat
  carry : Option (Nat × Nat)
  drops : Nat
  deriving DecidableEq, Repr

/-- Put a dwell at the end of judged dwells, merged with an equal state before it. -/
def pushSeg (acc : List Seg) (g : Seg) : List Seg :=
  match acc.getLast? with
  | some h => if h.state = g.state then acc else acc ++ [g]
  | none => [g]

/-- Start of the first blocked dwell of a list, else the end of the interval: what a lengthening may not move (R227). -/
def blkFrom (len : Nat) : List Seg → Nat
  | [] => len
  | g :: rest => if g.state.isNone then g.start else blkFrom len rest

/-- Start of the last blocked dwell of a list, else 0. -/
def blkLast (gs : List Seg) : Nat := gs.foldl (fun a g => if g.state.isNone then g.start else a) 0

/-- Judge the dwells in ascending time (R226, R227). `force` moves the start of the dwell at the head, `skip` leaves it unjudged, as the
neighbour of a stretched one; `ext` is the state of the dwell that a carry lengthened, with its own requested length. A dwell that a `BLK`
entry ends is exempt. -/
def judgeGo (c : JudgeCfg) : List Seg → Option Nat → Bool → Option (Nat × Nat) → Judged → Judged
  | [], _, _, _, r => r
  | g :: rest, force, skip, ext, r =>
    let st := force.getD g.start
    let en := match rest with
      | h :: _ => h.start
      | [] => c.len
    if en ≤ st then judgeGo c rest (some st) skip ext r
    else
      let before := match r.segs.getLast? with
        | some h => h.state
        | none => c.prev
      let own := ext.filter (fun e => g.state == some e.1)
      let ext' := if own.isSome then none else ext
      let keep := judgeGo c rest none false ext' { r with segs := pushSeg r.segs ⟨st, g.state⟩ }
      let blkNext := match rest with
        | h :: _ => h.state.isNone
        | [] => false
      match g.state with
      | none => keep
      | some x =>
        if skip || blkNext || !c.judged x || (st == 0 && en == c.len) || (!r.segs.isEmpty && before == some x) then keep
        else
          let cont := st == 0 && c.prev == some x && r.segs.isEmpty
          let atEnd := en == c.len
          let w := c.dead before x + c.minp
          let half := cont || atEnd
          let short := if half then decide (2 * (en - st) < w) else decide (en - st < w)
          if !short then keep
          else if c.mode = 2 then
            let need := if half then (w + 1) / 2 else w
            if atEnd then
              let st' := max (blkLast r.segs) (c.len - min need c.len)
              let cut := r.segs.filter (fun h => decide (h.start < st'))
              judgeGo c rest none false ext' { r with segs := pushSeg cut ⟨st', g.state⟩, hits := r.hits + 1 }
            else
              let en' := min (st + need) (blkFrom c.len rest)
              judgeGo c rest (some en') true ext' { r with segs := pushSeg r.segs ⟨st, g.state⟩, hits := r.hits + 1 }
          else
            let carried := match own with
              | some e => e.2
              | none => en - g.start
            let r' : Judged := { r with
              hits := r.hits + 1
              drops := r.drops + (if c.mode = 1 then b2n r.carry.isSome + b2n own.isSome else 0)
              carry := if c.mode = 1 then some (x, carried) else r.carry }
            if cont then judgeGo c rest (some st) false ext' r'
            else if r.segs.isEmpty then judgeGo c rest none false ext' { r' with segs := [⟨0, before⟩] }
            else judgeGo c rest none false ext' r'

/-- Lengthen the first dwell of state `x` by a carry `n` (R227), with its own requested length; none when there is no such dwell. -/
def applyCarry (len x n : Nat) : List Seg → Option (List Seg × Nat)
  | [] => none
  | g :: rest =>
    if g.state = some x then
      match rest with
      | [] => some ([{ g with start := g.start - min n g.start }], len - g.start)
      | h :: more =>
        let en := min (h.start + n) (blkFrom len rest)
        some (g :: ((({ h with start := en } : Seg) :: more).map (fun k => { k with start := max k.start en })).filter
          (fun k => decide (k.start < len)), h.start - g.start)
    else (applyCarry len x n rest).map (fun r => (g :: r.1, r.2))

/-- An end dwell lengthened towards the past shortens the dwells before it, up to a blocked one. -/
def trimBefore (segs : List Seg) : List Seg :=
  match segs.getLast? with
  | none => []
  | some l =>
    let l : Seg := { l with start := max l.start (blkLast segs.dropLast) }
    (segs.dropLast.filter (fun g => decide (g.start < l.start))) ++ [l]

/-- The judgement of one output or leg over an interval: carry first, then every dwell (R226, R227). -/
def judge (c : JudgeCfg) (carry : Option (Nat × Nat)) (segs : List Seg) : Judged :=
  let segs := segs.foldl pushSeg []
  match carry with
  | none => judgeGo c segs none false none ⟨[], 0, none, 0⟩
  | some (x, n) =>
    match applyCarry c.len x n segs with
    | some r => judgeGo c (trimBefore r.1) none false (some (x, r.2)) ⟨[], 0, none, 0⟩
    | none => judgeGo c segs none false none ⟨[], 0, none, 1⟩

/-! ### Dwells of an independent slice (R216) -/

/-- Level of A at carrier position `x` under a set. -/
def setLevel (v : SliceSet) (x : Nat) : Bool :=
  if v.on < v.off then decide (v.on ≤ x ∧ x < v.off)
  else if v.off < v.on then decide (v.on ≤ x ∨ x < v.off) else false

/-- The dwells a set requests over the interval that starts at carrier position `x0` and lasts `len` of the period `p`. -/
def setSegs (v : SliceSet) (p x0 len : Nat) : List Seg :=
  if v.blk then [⟨0, none⟩]
  else
    let o1 := (v.on + p - x0 % (p + 1)) % p
    let o2 := (v.off + p - x0 % (p + 1)) % p
    let lo := min o1 o2
    let hi := max o1 o2
    let at_ (o : Nat) : Seg := ⟨o, some (b2n (setLevel v ((x0 + o) % p)))⟩
    let cand := at_ 0 :: ((if 0 < lo then [at_ lo] else []) ++ (if lo < hi then [at_ hi] else []))
    (cand.filter (fun g => decide (g.start < len))).foldl pushSeg []

/-- The judged dwells of slice `i` for the interval that begins at timebase value `T`, with carries and counts booked (R226, R227):
first the A dwells, then the B dwells. `prev` is the state executed at the end of the interval before. -/
def State.judgeSlice (s : State) (i : Nat) (v : SliceSet) (prev : Option Nat) (T : Int) : State × List Seg :=
  let c := s.slCar i
  let len := s.carLen c
  let raw := setSegs v (32 * s.carP c) (s.carPos c T) len
  let sl := s.slice i
  let cfg (x d : Nat) : JudgeCfg := ⟨len, prev, fun _ _ => d, s.slMinp i, s.slMinpMode i, fun y => y == x⟩
  let ca := s.rdF (R.pwmSliceCarryA i) 25 0
  let cb := s.rdF (R.pwmSliceCarryB i) 25 0
  let ja := judge (cfg 1 (s.slDtR i)) (if sl.carryA then some (1, ca) else none) raw
  let jb := judge (cfg 0 (s.slDtF i)) (if sl.carryB then some (0, cb) else none) ja.segs
  let s := s.setSlice i { sl with carryA := ja.carry.isSome, carryB := jb.carry.isSome }
  let s := s.wrF (R.pwmSliceCarryA i) 25 0 ((ja.carry.map (·.2)).getD 0)
  let s := s.wrF (R.pwmSliceCarryB i) 25 0 ((jb.carry.map (·.2)).getD 0)
  let s := s.countUp (R.pwmSliceStatus i) 15 0 (ja.hits + jb.hits)
  let s := s.raiseIf (decide (0 < ja.drops + jb.drops)) (R.pwmSliceStatus i) 19
  (s, jb.segs)

/-! ### The path of an ANPC leg (R224, R225) -/

/-- What the path logic needs: the forbidden codes and the dead times of the three pairs. -/
structure PathCfg where
  forbid : Nat
  dtR : Nat → Nat
  dtF : Nat → Nat

/-- A switch command: instant, pair, A (true) or B, on or off. -/
structure SwCmd where
  at_  : Nat
  pair : Nat
  a    : Bool
  on   : Bool
  deriving DecidableEq, Repr

def State.pathCfg (s : State) (g : Nat) : PathCfg :=
  ⟨s.legForbid g, fun k => s.slDtR (3 * g + k), fun k => s.slDtF (3 * g + k)⟩

/-- A level of pair `k` in a code (bit 2 is pair 1). -/
def codeA (code k : Nat) : Bool := natBit code (2 - k)

/-- The code with the A level of pair `k` inverted. -/
def flipA (code k : Nat) : Nat := setNatBit code (2 - k) (!codeA code k)

/-- The lowest-numbered pair that differs between two codes and whose change is not forbidden (R224). -/
def nextPair (c : PathCfg) (a b : Nat) : Option Nat :=
  [0, 1, 2].find? (fun k => (codeA a k != codeA b k) && !natBit c.forbid (flipA a k))

/-- The pairs of the path from `a` to `b`, at most `n` steps; none when the path is barred. -/
def pathPairs (c : PathCfg) : Nat → Nat → Nat → Option (List Nat)
  | 0, a, b => if a = b then some [] else none
  | n + 1, a, b =>
    if a = b then some [] else
      match nextPair c a b with
      | none => none
      | some k => (pathPairs c n (flipA a k) b).map (fun r => k :: r)

/-- The dead time of a change of pair `k` to A on (`DT_R`) or B on (`DT_F`). -/
def PathCfg.dead (c : PathCfg) (k : Nat) (aTo : Bool) : Nat := if aTo then c.dtR k else c.dtF k

/-- The sum of the step dead times along the path into `b` (R226); from all off the longest dead time of the state's switches. -/
def pathDead (c : PathCfg) (a : Option Nat) (b : Nat) : Nat :=
  match a with
  | none => max (c.dead 0 (codeA b 0)) (max (c.dead 1 (codeA b 1)) (c.dead 2 (codeA b 2)))
  | some a =>
    match pathPairs c 3 a b with
    | none => 0
    | some ks => (ks.foldl (fun (st : Nat × Nat) k => (st.1 + c.dead k (!codeA st.2 k), flipA st.2 k)) (0, a)).1

/-- Start the next step of a path at instant `x`, if one is needed; the flag says that no path exists. -/
def startStep (c : PathCfg) (p : LegPath) (x : Nat) : LegPath × List SwCmd × Bool :=
  match p.code, p.target with
  | some a, some b =>
    match pathPairs c 3 a b with
    | none => ({ p with target := p.code, step := none }, [], true)
    | some [] => ({ p with step := none }, [], false)
    | some (k :: _) =>
      let aTo := !codeA a k
      ({ p with step := some ⟨k, aTo, x + c.dead k aTo⟩ }, [⟨x, k, !aTo, false⟩], false)
  | _, _ => ({ p with step := none }, [], false)

/-- The result of a request: new path state, switch commands, whether a path was missing, whether a step was abandoned. -/
structure PathOut where
  path  : LegPath
  cmds  : List SwCmd
  err   : Bool
  abort : Bool

/-- The switch commands that leave all-off for code `b` at instant `x` (R223, R224). -/
def fromOff (c : PathCfg) (b x : Nat) : List SwCmd :=
  [0, 1, 2].map (fun k => ⟨x + c.dead k (codeA b k), k, codeA b k, true⟩)

/-- The commands that turn off at instant `x` what path state `p` has on: one switch of each pair but that of a step in progress. -/
def pathOffs (p : LegPath) (x : Nat) : List SwCmd :=
  match p.code with
  | none => []
  | some a => ([0, 1, 2].filter (fun k => p.step.map (·.pair) != some k)).map (fun k => ⟨x, k, codeA a k, false⟩)

/-- A state is requested of the leg at instant `x` (R224, R225); `none` is a `BLK` entry. -/
def requestState (c : PathCfg) (p : LegPath) (st : Option Nat) (x : Nat) : PathOut :=
  match st with
  | none => ⟨⟨none, none, none⟩, pathOffs p x, false, false⟩
  | some b =>
    match p.code with
    | none => ⟨⟨some b, some b, none⟩, fromOff c b x, false, false⟩
    | some a =>
      let q : LegPath := { p with target := some b }
      match p.step with
      | none =>
        let r := startStep c q x
        ⟨r.1, r.2.1, r.2.2, false⟩
      | some sp =>
        if nextPair c a b = some sp.pair ∧ (pathPairs c 3 a b).isSome then ⟨q, [], false, false⟩
        else
          let back : SwCmd := ⟨x, sp.pair, !sp.aTo, true⟩
          let r := startStep c { q with step := none } x
          ⟨r.1, back :: r.2.1, r.2.2, true⟩

/-- The dead time of the step in progress expires: the partner turns on and the next step starts (R224). -/
def finishStep (c : PathCfg) (p : LegPath) : PathOut :=
  match p.step, p.code with
  | some sp, some a =>
    let on : SwCmd := ⟨sp.due, sp.pair, sp.aTo, true⟩
    let r := startStep c { p with code := some (flipA a sp.pair), step := none } sp.due
    ⟨r.1, on :: r.2.1, r.2.2, false⟩
  | _, _ => ⟨p, [], false, false⟩

/-- Finish the steps of a path that end at or before instant `lim`, at most `n`. -/
def finishUntil (c : PathCfg) : Nat → LegPath → Nat → LegPath × List SwCmd
  | 0, p, _ => (p, [])
  | n + 1, p, lim =>
    match p.step with
    | none => (p, [])
    | some sp =>
      if sp.due ≤ lim then
        let o := finishStep c p
        let r := finishUntil c n o.path lim
        (r.1, o.cmds ++ r.2)
      else (p, [])

/-- The switch commands of a list of dwells from instant `x0` up to `lim`, and the path then (the edge schedule of R242 for an ANPC leg). -/
def scheduleLeg (c : PathCfg) (x0 : Nat) : List Seg → LegPath → Nat → List SwCmd × LegPath
  | [], p, lim => let r := finishUntil c 4 p lim; (r.2, r.1)
  | g :: rest, p, lim =>
    let x := x0 + g.start
    let f := finishUntil c 4 p x
    let o : PathOut := if g.state.isSome ∧ g.state = f.1.target then ⟨f.1, [], false, false⟩ else requestState c f.1 g.state x
    let r := scheduleLeg c x0 rest o.path lim
    (f.2 ++ o.cmds ++ r.1, r.2)

/-! ### Lists of a leg unit (R223) -/

/-- The valid entries of a list of shadow words, and whether one was ignored (R223). -/
def legSegsGo (forbid len : Nat) : List Word → List Seg → Bool → List Seg × Bool
  | [], acc, e => (acc, e)
  | w :: ws, acc, e =>
    if !bitOf w 31 then legSegsGo forbid len ws acc e
    else
      let off := fieldOf w 25 0
      let st := fieldOf w 29 27
      let blk := bitOf w 30
      let bad := decide (len ≤ off) || (!blk && natBit forbid st) ||
        (match acc.getLast? with
         | some h => decide (off ≤ h.start)
         | none => false)
      if bad then legSegsGo forbid len ws acc true
      else legSegsGo forbid len ws (acc ++ [⟨off, if blk then none else some st⟩]) e

/-- The dwells a list requests over an interval: the state carried in, when there is one, fills the time before the first entry. -/
def legSegs (forbid len : Nat) (ws : List Word) (carried : Option Nat) : List Seg × Bool :=
  let r := legSegsGo forbid len ws [] false
  match r.1 with
  | [] => ([⟨0, carried⟩], r.2)
  | g :: rest => if g.start = 0 then (g :: rest, r.2) else (⟨0, carried⟩ :: g :: rest, r.2)

/-- The state executed at the end of the present interval of leg unit `g` (R226): its last dwell still to come, else the requested
state; none while an override holds the leg or when it is all off. -/
def State.legEndState (s : State) (g : Nat) : Option Nat :=
  let l := s.leg g
  if l.ovr ≠ 0 ∨ l.hold.isSome then none
  else match l.todo.getLast? with
    | some h => h.state
    | none => l.path.target

/-- The judged dwells of ANPC leg unit `g` for the coming interval, with counts and carry booked (R226, R227). -/
def State.judgeLeg (s : State) (g : Nat) (ws : List Word) : State × List Seg :=
  let prev := s.legEndState g
  let i := 3 * g
  let c := s.pathCfg g
  let len := s.carLen (s.slCar i)
  let raw := legSegs c.forbid len ws prev
  let l := s.leg g
  let carry := if l.carry then some (s.rdF (R.pwmLegCarry g) 31 29, s.rdF (R.pwmLegCarry g) 25 0) else none
  let j := judge ⟨len, prev, pathDead c, s.slMinp i, s.slMinpMode i, fun _ => true⟩ carry raw.1
  let s := s.setLeg g { l with carry := j.carry.isSome }
  let s := s.wr (R.pwmLegCarry g) (match j.carry with
    | some (x, n) => wordN (x * 2 ^ 29 + n % 2 ^ 26)
    | none => 0#32)
  let s := s.countUp (R.pwmLegCount g) 31 16 j.hits
  let s := s.raiseIf (decide (0 < j.drops)) (R.pwmLegStatus g) 12
  let s := s.raiseIf raw.2 (R.pwmLegStatus g) 13
  (s, j.segs)

/-! ### Switches and the interlock (R217, R228) -/

/-- A switch of slice `i` turns off at instant `x`. -/
def State.swOff (s : State) (i : Nat) (a : Bool) (x : Nat) : State :=
  let l := s.slice i
  let drop := match l.due with
    | some (d, _) => if d = a then none else l.due
    | none => none
  (if a then s.setSlice i { l with aOn := false, aOffAt := if l.aOn then x else l.aOffAt, due := drop }
  else s.setSlice i { l with bOn := false, bOffAt := if l.bOn then x else l.bOffAt, due := drop }).auxSwitched i a false

/-- Both interlock flags of slice `i` and of its leg unit (R228). -/
def State.interlockHit (s : State) (i : Nat) : State :=
  let s := s.raise (R.pwmSliceStatus i) 17
  if i < 126 then s.raise (R.pwmLegStatus (i / 3)) 10 else s

/-- The leg's code read with the A levels as they are (R228). -/
def State.liveCode (s : State) (g : Nat) : Nat :=
  4 * b2n (s.slice (3 * g)).aOn + 2 * b2n (s.slice (3 * g + 1)).aOn + b2n (s.slice (3 * g + 2)).aOn

/-- Whether the on command of an output of slice `i` is one that R217, R224 or R233 makes: of the override in force or held, of the code that
the leg's path has entered, or of the level that the slice requests. -/
def State.ownOn (s : State) (i : Nat) (a : Bool) : Bool :=
  let l := s.leg (i / 3)
  (decide (i < 126) && (decide (l.ovr ≠ 0) || l.hold.isSome || (s.slice i).hold.isSome)) ||
    (if s.slAnpc i then (match l.path.code with
      | some c => codeA c (i % 3) == a
      | none => false)
    else (s.slice i).req == some (b2n a))

/-- An on command for a switch of slice `i` at instant `x`, under the interlock of R228; the commands of R217, R224 and R233 never meet it. -/
def State.swOn (s : State) (i : Nat) (a : Bool) (x : Nat) : State :=
  let l := s.slice i
  let on (l : SliceSt) : SliceSt := if a then { l with aOn := true } else { l with bOn := true }
  let partnerOn := if a then l.bOn else l.aOn
  let offAt := if a then l.bOffAt else l.aOffAt
  let dead := if a then s.slDtR i else s.slDtF i
  let inDead := decide (x < offAt + dead) && decide (0 < offAt)
  let clash := match l.onCmd with
    | some (y, b) => (b != a) && decide (y / tbCycle = x / tbCycle)
    | none => false
  let code := s.liveCode (i / 3)
  let forbidden := s.slAnpc i && natBit (s.legForbid (i / 3)) (if a then setNatBit code (2 - i % 3) true else code)
  let l := { l with onCmd := some (x, a) }
  if s.ownOn i a then (s.setSlice i (on l)).auxSwitched i a true
  else if clash then (s.setSlice i { l with aOn := false, bOn := false, due := none }).interlockHit i
  else if partnerOn || inDead || forbidden then (s.setSlice i l).interlockHit i
  else (s.setSlice i (on l)).auxSwitched i a true

/-- Schedule a turn-on of slice `i` for instant `x`; one that is already due acts at once. -/
def State.swDue (s : State) (i : Nat) (a : Bool) (x : Nat) : State :=
  if x ≤ s.clk.now then s.swOn i a x
  else s.setSlice i { s.slice i with due := some (a, x) }

/-- Apply the switch commands of a leg's path: an off acts now, an on when its instant comes. -/
def State.runCmds (s : State) (g : Nat) (cs : List SwCmd) : State :=
  cs.foldl (fun s c => if c.on then s.swDue (3 * g + c.pair) c.a c.at_ else s.swOff (3 * g + c.pair) c.a c.at_) s

/-- The level of A of an independent slice is requested at instant `x` (R217): `1` A on, `0` B on, `none` both off. -/
def State.sliceRequest (s : State) (i : Nat) (r : Option Nat) (x : Nat) : State :=
  let l := s.slice i
  let s := s.setSlice i { l with req := r }
  match r with
  | none => (s.swOff i true x).swOff i false x
  | some v =>
    if v = 1 then
      let s := s.swOff i false x
      if (s.slice i).aOn then s else s.swDue i true (x + s.slDtR i)
    else
      let s := s.swOff i true x
      if (s.slice i).bOn then s else s.swDue i false (x + s.slDtF i)

/-! ### Edges for a Stadan link (R242) -/

/-- Channel of a switch: 2k for A and 2k + 1 for B of pair k (R236). -/
def swChannel (k : Nat) (a : Bool) : Nat := 2 * k + b2n (!a)

/-- The channel, level and instant of a switch command. -/
def SwCmd.edge (c : SwCmd) : Nat × Bool × Nat := (swChannel c.pair c.a, c.on, c.at_)

/-- Order of R242: by instant, offs before ons, then by channel. -/
def Edge.before (a b : Edge) : Bool :=
  decide (a.at_ < b.at_) || (a.at_ == b.at_ && ((!a.level && b.level) || (a.level == b.level && decide (a.ch ≤ b.ch))))

/-- Put an edge among those not yet sent, in the order of R242. -/
def putEdge (e : Edge) : List Edge → List Edge
  | [] => [e]
  | f :: fs => if f.copies = 0 ∧ e.before f = true then e :: f :: fs else f :: putEdge e fs

/-- The edges not yet sent take the numbers from `n` on (R242). -/
def numberFrom : Nat → List Edge → List Edge
  | _, [] => []
  | n, e :: es => if e.copies = 0 then { e with num := n % 65536 } :: numberFrom (n + 1) es else e :: numberFrom n es

/-- The edges of link `l` become `es`, numbered from `EDGE_NUM` (R242). -/
def State.setEdges (s : State) (l : Nat) (es : List Edge) : State :=
  s.setLink l { s.link l with edges := numberFrom (s.rdF (R.stlEdgeNum l) 15 0) es }

/-- The edges of link `l` that `gone` names leave it unsent, and the blanking windows of turn-ons still to come
with them. -/
def State.dropEdges (s : State) (l : Nat) (gone : Edge → Bool) : State :=
  let k := s.link l
  let out := k.edges.filter gone
  (s.setLink l { k with desatWin := k.desatWin.filter (fun w => !out.any (fun e => e.level && (e.ch, e.at_) == w && decide (s.clk.now < e.at_))) }).setEdges l
    (k.edges.filter (fun e => !gone e))

/-- A switch command becomes an edge of link `l` (R242); each turn-on opens a blanking window (R302). A turn-off at or before the instant of a
turn-on of its channel that waits out a dead time takes that turn-on back. -/
def State.handEdge (s : State) (l : Nat) (c : SwCmd) : State :=
  let k := s.link l
  let ch := swChannel c.pair c.a
  let undone (e : Edge) : Bool := e.copies == 0 && e.level && e.ch == ch && decide (c.at_ ≤ e.at_)
  if !c.on && k.edges.any undone then s.dropEdges l undone
  else
    let prof := if c.on then s.rdF (R.stlCfg l) 26 24 else s.rdF (R.stlCfg l) 29 27
    let s := s.setLink l { k with desatWin := if c.on then k.desatWin ++ [(ch, c.at_)] else k.desatWin }
    s.setEdges l (putEdge ⟨0, ch, c.on, prof, c.at_, 0, false⟩ k.edges)

/-- Hand switch commands, each output's in the order of time, to link `l`. -/
def State.handEdges (s : State) (l : Nat) (cs : List SwCmd) : State := cs.foldl (fun s c => s.handEdge l c) s

/-- The switch commands of an independent slice's dwells from instant `x0`, starting from the level `p`. -/
def sliceCmds (k dtR dtF x0 : Nat) : List Seg → Option Nat → List SwCmd
  | [], _ => []
  | g :: rest, p =>
    let x := x0 + g.start
    let cs : List SwCmd :=
      if g.state = p then []
      else match g.state with
        | none => [⟨x, k, p == some 1, false⟩]
        | some 1 => (if p = some 0 then [⟨x, k, false, false⟩] else []) ++ [⟨x + dtR, k, true, true⟩]
        | some _ => (if p = some 1 then [⟨x, k, true, false⟩] else []) ++ [⟨x + dtF, k, false, true⟩]
    cs ++ sliceCmds k dtR dtF x0 rest g.state

/-- The earliest instant at which leg unit `g` may take up its set after an override that returned to 0 at `x` (R233, R247). -/
def State.resumeFrom (s : State) (g x : Nat) : Nat :=
  if s.legRoute g = 1 then x + (s.rdF R.stlLead 15 0 + 400) * 32 else x

/-- Whether a unit of leg unit `g` that holds an override's state since `h`, if at all, is free of it at the reload instant `x`. -/
def State.freeAt (s : State) (g : Nat) (h : Option Nat) (x : Nat) : Bool :=
  (s.leg g).ovr == 0 && (match h with
    | some y => decide (s.resumeFrom g y ≤ x)
    | none => true)

/-- Whether ANPC leg unit `g` is free of an override at the reload instant `x`. -/
def State.legFree (s : State) (g x : Nat) : Bool := s.freeAt g (s.leg g).hold x

/-- Whether an override governs independent slice `i` at present, in force or held. -/
def State.sliceHeld (s : State) (i : Nat) : Bool :=
  (decide (i < 126) && decide ((s.leg (i / 3)).ovr ≠ 0)) || (s.slice i).hold.isSome

/-- Whether independent slice `i` is free of an override at the reload instant `x`. -/
def State.sliceFree (s : State) (i x : Nat) : Bool := decide (126 ≤ i) || s.freeAt (i / 3) (s.slice i).hold x

/-- The commands that turn off at instant `x` what slice `i` has on. -/
def State.sliceOffs (s : State) (i x : Nat) : List SwCmd :=
  let l := s.slice i
  (if l.aOn then [⟨x, i % 3, true, false⟩] else []) ++ (if l.bOn then [⟨x, i % 3, false, false⟩] else [])

/-- The level executed at the end of the present interval of independent slice `i` (R226): its last dwell still to come, else the requested
one; none while an override governs it. -/
def State.sliceEndState (s : State) (i : Nat) : Option Nat :=
  let l := s.slice i
  if s.sliceHeld i then none
  else match l.todo.getLast? with
    | some h => h.state
    | none => l.req

/-- Whether slice `i` of an independent leg unit sends its edges to a Stadan link (R236). -/
def State.sliceLinked (s : State) (i : Nat) : Bool :=
  decide (i < 126) && s.slEn i && !s.slAnpc i && s.legRoute (i / 3) == 1

/-- The edges of independent slice `i` for the interval that begins at instant `x` with the judged dwells `segs` (R242). -/
def State.sliceEdges (s : State) (i x : Nat) (segs : List Seg) : List SwCmd :=
  (if (s.slice i).hold.isSome then s.sliceOffs i x else []) ++
    sliceCmds (i % 3) (s.slDtR i) (s.slDtF i) x segs (s.sliceEndState i)

/-- The edges of ANPC leg unit `g` for the interval that begins at instant `x` with the judged dwells `segs`, and its path after them
(R242). -/
def State.legEdges (s : State) (g x : Nat) (segs : List Seg) : List SwCmd × LegPath :=
  let l := s.leg g
  let offs := if l.hold.isSome then [0, 1, 2].flatMap (fun k => s.sliceOffs (3 * g + k) x) else []
  let p : LegPath := if l.hold.isSome then ⟨none, none, none⟩ else l.lpath
  let r := scheduleLeg (s.pathCfg g) x segs p (x + s.carLen (s.slCar (3 * g)))
  (offs ++ r.1, r.2)

/-- The judged dwells `segs` of ANPC leg unit `g` for its reload at instant `x` go to its link, but for the edges in `sent`; the edges handed
are answered. -/
def State.handLeg (s : State) (g x : Nat) (segs : List Seg) (sent : List (Nat × Bool × Nat)) : State × List (Nat × Bool × Nat) :=
  let e := s.legEdges g x segs
  let new := e.1.filter (fun c => !sent.contains c.edge)
  let s := s.handEdges (s.legLink g) new
  (s.setLeg g { s.leg g with lpath := e.2 }, sent ++ new.map SwCmd.edge)

/-- As `handLeg`, for independent slice `i`. -/
def State.handSlice (s : State) (i x : Nat) (segs : List Seg) (sent : List (Nat × Bool × Nat)) : State × List (Nat × Bool × Nat) :=
  let new := (s.sliceEdges i x segs).filter (fun c => !sent.contains c.edge)
  (s.handEdges (s.legLink (i / 3)) new, sent ++ new.map SwCmd.edge)

/-- Judge the coming interval of ANPC leg unit `g` ahead of its reload at instant `x` and hand the edges to its link: what the release of
R37 does for a sequencer-owned leg (R226, R242). -/
def State.prepareLeg (s : State) (g x : Nat) : State :=
  let r := s.judgeLeg g (s.leg g).shadow
  let s := r.1.setLeg g { r.1.leg g with next := some r.2 }
  if s.legRoute g = 1 ∧ s.legFree g x then (s.handLeg g x r.2 []).1 else s

/-- As `prepareLeg`, for independent slice `i`. -/
def State.prepareSlice (s : State) (i x : Nat) : State :=
  let r := s.judgeSlice i (s.slice i).shadow (s.sliceEndState i) (s.tbOf x)
  let s := r.1.setSlice i { r.1.slice i with next := some r.2 }
  if s.sliceLinked i && s.sliceFree i x then (s.handSlice i x r.2 []).1 else s

/-- The dwells that the coming interval of ANPC leg unit `g` would have with the shadow set as it stands go to its link (DEDUCED, log 70). -/
def State.planLegWith (s : State) (g x : Nat) (sent : List (Nat × Bool × Nat)) : State :=
  let p0 := (s.leg g).lpath
  let r := s.handLeg g x (s.judgeLeg g (s.leg g).shadow).2 sent
  r.1.setLeg g { r.1.leg g with plan := some (x, p0, r.2) }

/-- As `planLegWith`, for independent slice `i`. -/
def State.planSliceWith (s : State) (i x : Nat) (sent : List (Nat × Bool × Nat)) : State :=
  let r := s.handSlice i x (s.judgeSlice i (s.slice i).shadow (s.sliceEndState i) (s.tbOf x)).2 sent
  r.1.setSlice i { r.1.slice i with plan := some (x, r.2) }

/-- The next reload of carrier `c` after the present instant, once its first edge can be eligible: `LEAD` before it (R243). -/
def State.leadReload (s : State) (c : Nat) : Option Nat :=
  (s.toReload c (s.tb + 1)).bind (fun d =>
    if s.clk.now + 1 + d ≤ s.clk.now + s.rdF R.stlLead 15 0 * 32 then some (s.clk.now + 1 + d) else none)

/-- The edges of a leg unit on a link that no sequencer owns are handed as the first of its coming interval can be eligible, each slice's
apart in independent mode (log 70). -/
def State.planLeg (s : State) (g : Nat) : State :=
  if s.legMode g = 1 then
    match s.leadReload (s.slCar (3 * g)) with
    | some x =>
      if s.legRoute g = 1 ∧ 4 ≤ s.slOwner (3 * g) ∧ s.slEn (3 * g) ∧ (s.leg g).plan.map (·.1) ≠ some x ∧ s.legFree g x then
        s.planLegWith g x []
      else s
    | none => s
  else s.each [3 * g, 3 * g + 1, 3 * g + 2] (fun s i =>
    match s.leadReload (s.slCar i) with
    | some x =>
      if s.sliceLinked i ∧ 4 ≤ s.slOwner i ∧ (s.slice i).plan.map (·.1) ≠ some x ∧ s.sliceFree i x then s.planSliceWith i x [] else s
    | none => s)

/-- What of the planned edges `es` has not been sent leaves link `l` again; the rest is answered (log 70). -/
def State.withdraw (s : State) (l : Nat) (es : List (Nat × Bool × Nat)) : State × List (Nat × Bool × Nat) :=
  let mine (e : Edge) : Bool := e.copies == 0 && es.contains (e.ch, e.level, e.at_)
  let gone := ((s.link l).edges.filter mine).map (fun e => (e.ch, e.level, e.at_))
  (s.dropEdges l mine, es.filter (fun e => !gone.contains e))

/-- A set that counts for the coming reload replaces one whose edges were handed: what has not been sent is withdrawn and planned again
(log 70). -/
def State.replanLeg (s : State) (g : Nat) : State :=
  match (s.leg g).plan with
  | some (x, p0, es) =>
    if s.clk.now < x then
      let r := s.withdraw (s.legLink g) es
      (r.1.setLeg g { r.1.leg g with lpath := p0 }).planLegWith g x r.2
    else s
  | none => s

/-- As `replanLeg`, for independent slice `i`. -/
def State.replanSlice (s : State) (i : Nat) : State :=
  match (s.slice i).plan with
  | some (x, es) =>
    if s.clk.now < x then
      let r := s.withdraw (s.legLink (i / 3)) es
      r.1.planSliceWith i x r.2
    else s
  | none => s

/-! ### Commits (R219, R220) -/

/-- Whether a commit at the present instant is too late for the coming reload of carrier `c` (R220); and whether that reload has not
happened yet for a unit whose interval began at `from_`. -/
def State.commitLate (s : State) (c from_ : Nat) : Bool × Bool :=
  let T := s.tb - s.tb % 32
  match s.toReload c T with
  | none => (false, false)
  | some d =>
    let at_ := T + d
    (decide (d < 4 * 32), decide (s.tbOf from_ < at_))

/-- A set is committed to slice `i`. -/
def State.commitSlice (s : State) (i : Nat) (v : SliceSet) : State :=
  let l := s.slice i
  let q := s.commitLate (s.slCar i) l.from_
  if q.1 then
    (if q.2 then s.setSlice i { l with late := some v } else s.setSlice i { l with shadow := v, fresh := true }).raise (R.pwmSliceStatus i) 18
  else (s.setSlice i { l with shadow := v, fresh := true }).replanSlice i

/-- A list is committed to leg unit `g`. -/
def State.commitLeg (s : State) (g : Nat) (ws : List Word) : State :=
  let l := s.leg g
  let q := s.commitLate (s.slCar (3 * g)) l.from_
  if q.1 then
    (if q.2 then s.setLeg g { l with late := some ws } else s.setLeg g { l with shadow := ws, fresh := true }).raise
      (R.pwmLegStatus g) 11
  else (s.setLeg g { l with shadow := ws, fresh := true }).replanLeg g

/-- The shadow words of a slice as a set. -/
def State.sliceWords (s : State) (i : Nat) : SliceSet :=
  ⟨s.rdF (R.pwmSliceOn i) 25 0, s.rdF (R.pwmSliceOff i) 25 0, s.rdB (R.pwmSliceOn i) 31⟩

/-- The shadow words of a leg unit. -/
def State.legWords (s : State) (g : Nat) : List Word := [0, 1, 2, 3].map (fun j => s.rd (R.pwmLegSt g j))

/-- The core group that names slice `i`, if one does (R219). -/
def State.sliceGroup (s : State) (i : Nat) : Option Nat :=
  (List.range 4).find? (fun k => s.rdB (R.pwmCgrpMask k (i / 32)) (i % 32))

/-- A core wrote a shadow word of another owner (R219). -/
def State.pwmForeign (s : State) (i : Nat) : State :=
  let s := if s.rdB R.pwmErr 31 then s else s.wrF R.pwmErr 6 0 i
  s.raise R.pwmErr 31

/-- A core writes `PWM_SLICE_i_ON` (`isOn`) or `_OFF` (R219, R223). -/
def State.writeSliceWord (s : State) (i : Nat) (isOn : Bool) (w : Word) : State :=
  if s.slOwner i ≠ 5 then s.pwmForeign i
  else if s.slAnpc i then s
  else
    let s := if isOn then s.storeReg (R.pwmSliceOn i) w else s.storeReg (R.pwmSliceOff i) w
    match s.sliceGroup i with
    | some _ => s.setSlice i { s.slice i with staged := some (s.sliceWords i) }
    | none => s.commitSlice i (s.sliceWords i)

/-- A core writes `PWM_LEG_g_ST_j` (R219). -/
def State.writeLegWord (s : State) (g j : Nat) (w : Word) : State :=
  if s.slOwner (3 * g) ≠ 5 then s.pwmForeign (3 * g)
  else
    let s := s.storeReg (R.pwmLegSt g j) w
    match s.sliceGroup (3 * g) with
    | some _ => s.setLeg g { s.leg g with staged := some (s.legWords g) }
    | none => s.commitLeg g (s.legWords g)

/-- `PWM_CCOMMIT.GRP_k`: the staged values of every slice of group `k`, and of every leg unit whose first slice is in it, are
committed in one fabric cycle (R219). -/
def State.commitGroup (s : State) (k : Nat) : State :=
  let s := s.each (List.range 128) (fun s i =>
    if s.sliceGroup i == some k ∧ s.slOwner i = 5 then
      match (s.slice i).staged with
      | some v => (s.setSlice i { s.slice i with staged := none }).commitSlice i v
      | none => s
    else s)
  s.each (List.range 42) (fun s g =>
    if s.sliceGroup (3 * g) == some k ∧ s.slOwner (3 * g) = 5 then
      match (s.leg g).staged with
      | some v => (s.setLeg g { s.leg g with staged := none }).commitLeg g v
      | none => s
    else s)

/-! ### Reload (R218) and the events of an interval -/

/-- Enter the dwell of slice `i` that has begun by now; while an override governs the slice its dwells wait (R233). -/
def State.sliceEnter (s : State) (i : Nat) : State :=
  let l := s.slice i
  match l.todo with
  | [] => s
  | g :: rest =>
    if l.from_ + g.start ≤ s.clk.now ∧ !s.sliceHeld i then
      (s.setSlice i { l with todo := rest }).sliceRequest i g.state (l.from_ + g.start)
    else s

/-- Enter the dwell of leg unit `g` that has begun by now (R223); while an override governs the leg its dwells wait (R233). -/
def State.legEnter (s : State) (g : Nat) : State :=
  let l := s.leg g
  match l.todo with
  | [] => s
  | e :: rest =>
    if l.from_ + e.start ≤ s.clk.now ∧ l.ovr = 0 ∧ l.hold.isNone then
      let o := requestState (s.pathCfg g) l.path e.state (l.from_ + e.start)
      let s := s.setLeg g { l with todo := rest, path := o.path }
      let s := s.raiseIf o.err (R.pwmLegStatus g) 13
      let s := if o.abort then (s.raise (R.pwmLegStatus g) 14).countUp (R.pwmLegCount g) 15 0 1 else s
      s.runCmds g o.cmds
    else s

/-- Reload of an independent slice at instant `x` (R218, R220). -/
def State.reloadSlice (s : State) (i x : Nat) : State :=
  let prev := s.sliceEndState i
  let r : State × List Seg := match (s.slice i).next with
    | some p => (s, p)
    | none => s.judgeSlice i (s.slice i).shadow prev (s.tbOf x)
  let s := r.1
  let l := s.slice i
  let s := s.raiseIf (decide (i < 126) && decide ((s.leg (i / 3)).ovr ≠ 0) && l.fresh) (R.pwmLegStatus (i / 3)) 15
  let goesOn := match r.2.head? with
    | some g => g.state == prev && prev.isSome && g.start == 0
    | none => false
  let s := s.setSlice i { l with act := l.shadow, shadow := l.late.getD l.shadow, fresh := l.late.isSome, late := none, next := none,
                                 todo := if goesOn then r.2.drop 1 else r.2, from_ := x }
  s.sliceEnter i

/-- Reload of an ANPC leg unit at instant `x`. -/
def State.reloadLeg (s : State) (g x : Nat) : State :=
  let l := s.leg g
  let r : State × List Seg := match l.next with
    | some p => (s, p)
    | none => s.judgeLeg g l.shadow
  let s := r.1
  let l := s.leg g
  let s := if l.ovr ≠ 0 ∧ l.fresh then s.raise (R.pwmLegStatus g) 15 else s
  let s := s.setLeg g { l with act := l.shadow, shadow := l.late.getD l.shadow, fresh := l.late.isSome, late := none, next := none, todo := r.2,
                               from_ := x }
  let s := match r.2.head? with
    | some e =>
      if e.start = 0 ∧ e.state = l.path.target ∧ l.ovr = 0 ∧ l.hold.isNone then s.setLeg g { s.leg g with todo := r.2.drop 1 }
      else s
    | none => s
  s.legEnter g

/-- Both switches of slice `i` turn off at instant `x`, and nothing is requested of it any more. -/
def State.sliceClear (s : State) (i x : Nat) : State :=
  let s := (s.swOff i true x).swOff i false x
  s.setSlice i { s.slice i with req := none, due := none, hold := none }

/-- ANPC leg unit `g` takes up its active set after an override: everything turns off at instant `x`, and the interval starts from all off
(R223, R233). -/
def State.legTakeUp (s : State) (g x : Nat) : State :=
  (s.setLeg g { s.leg g with hold := none, path := ⟨none, none, none⟩ }).each [0, 1, 2] (fun s k => s.sliceClear (3 * g + k) x)

/-- An ANPC leg unit whose override has returned to 0 takes up its active set at the reload instant `x` (R233, R247). -/
def State.legResume (s : State) (g x : Nat) : State :=
  if (s.leg g).hold.isSome ∧ s.legFree g x then (s.legTakeUp g x).setLeg g { (s.legTakeUp g x).leg g with todo := [] } else s

/-- As `legResume`, for independent slice `i`. -/
def State.sliceResume (s : State) (i x : Nat) : State :=
  if (s.slice i).hold.isSome ∧ s.sliceFree i x then (s.sliceClear i x).setSlice i { (s.sliceClear i x).slice i with todo := [] } else s

/-- Reload of carrier `c` at the present instant for every slice and leg unit that uses it (R218). A unit on a link whose coming interval was
not prepared is prepared now. -/
def State.pwmReload (s : State) (c : Nat) : State :=
  let x := s.clk.now
  let s := s.each (List.range 42) (fun s g =>
    if s.slEn (3 * g) && s.slCar (3 * g) == c && s.legMode g == 1 then
      let early := (s.leg g).next.isNone && s.legRoute g == 1 && (s.leg g).plan.map (·.1) != some x
      let s := if early then s.prepareLeg g x else s
      (s.legResume g x).reloadLeg g x
    else s)
  s.each (List.range 128) (fun s i =>
    if s.slEn i && s.slCar i == c && !s.slAnpc i then
      let early := (s.slice i).next.isNone && s.sliceLinked i && (s.slice i).plan.map (·.1) != some x
      let s := if early then s.prepareSlice i x else s
      (s.sliceResume i x).reloadSlice i x
    else s)

/-- `SLICE_EDGE`: the carrier reaches the next requested edge of slice `i` (R216). -/
def State.sliceEdge (s : State) (i : Nat) : State :=
  if s.slEn i && !s.slAnpc i then s.sliceEnter i else s

/-- `DEAD_TIME_END`: the pending turn-on of slice `i` is due (R217, R223, R233). -/
def State.deadTimeEnd (s : State) (i : Nat) : State :=
  let l := s.slice i
  match l.due with
  | some (a, x) =>
    if x ≤ s.clk.now then (s.setSlice i { l with due := none }).swOn i a x else s
  | none => s

/-- `LEG_ENTRY`: the next entry of leg unit `g` is reached (R223). -/
def State.legEntry (s : State) (g : Nat) : State :=
  if s.slEn (3 * g) && s.legMode g == 1 then s.legEnter g else s

/-- `LEG_STEP`: the dead time of the step in progress expires (R224). -/
def State.legStep (s : State) (g : Nat) : State :=
  let l := s.leg g
  match l.path.step with
  | some sp =>
    if sp.due ≤ s.clk.now ∧ l.ovr = 0 ∧ l.hold.isNone then
      let o := finishStep (s.pathCfg g) l.path
      let s := s.setLeg g { l with path := o.path }
      let s := s.raiseIf o.err (R.pwmLegStatus g) 13
      s.runCmds g o.cmds
    else s
  | none => s

/-! ### Overrides (R233, Table 11.3) -/

/-- The target of override code `code` for pair `k` of leg unit `g`: A on, B on, or off. A disabled slice holds both
off (R215). -/
def State.ovrTarget (s : State) (g code k : Nat) : Option Bool :=
  if !s.slEn (3 * g + k) then none
  else if s.legMode g = 1 then
    let st : Option Nat := match code with
      | 2 => some 1
      | 3 => some 6
      | 4 => some (s.rdF (R.pwmLegStates g) 2 0)
      | 5 => some (s.rdF (R.pwmLegStates g) 10 8)
      | _ => none
    st.map (fun c => codeA c k)
  else match code with
    | 2 => some false
    | 3 => some true
    | _ => none

/-- The levels of the six channels that an override code asks for (R245). -/
def State.ovrLevels (s : State) (g code : Nat) : Nat :=
  [0, 1, 2].foldl (fun acc k =>
    match s.ovrTarget g code k with
    | some true => acc + 2 ^ (2 * k)
    | some false => acc + 2 ^ (2 * k + 1)
    | none => acc) 0

/-- The present levels of the six channels of leg unit `g`. -/
def State.legLevels (s : State) (g : Nat) : Nat :=
  [0, 1, 2].foldl (fun acc k =>
    acc + b2n (s.slice (3 * g + k)).aOn * 2 ^ (2 * k) + b2n (s.slice (3 * g + k)).bOn * 2 ^ (2 * k + 1)) 0

/-- The profile word of a leg-wide command: `PROF_ON` for a turn-on, `PROF_OFF` for a turn-off (R245). -/
def State.stateProfs (s : State) (l levels : Nat) : Nat :=
  (List.range 6).foldl (fun acc c =>
    acc + (if natBit levels c then s.rdF (R.stlCfg l) 26 24 else s.rdF (R.stlCfg l) 29 27) * 8 ^ c) 0

/-- A `STATE` command joins those that link `l` has to send (R245, R246); none is sent during hold-off (R248). -/
def State.queueState (s : State) (l : Nat) (c : StateCmd) : State :=
  let k := s.link l
  if k.holdOn then s else s.setLink l { k with state := k.state ++ [c] }

/-- A new leg-wide `STATE` command reaches the link of leg unit `g` (R245, R246): no edge that executes before the leg resumes is
sent any more. -/
def State.sendState (s : State) (g code : Nat) : State :=
  if s.legRoute g = 1 then
    let l := s.legLink g
    let levels := if code = 0 then s.legLevels g else s.ovrLevels g code
    let cmd : StateCmd := ⟨code, false, 0x3F, levels, s.stateProfs l levels, s.clk.now, 0⟩
    let ons := (List.range 6).filterMap (fun c => if code ≠ 0 ∧ natBit levels c then some (c, s.clk.now) else none)
    let s := if code = 0 then s else s.dropEdges l (fun _ => true)
    let k := s.link l
    let s := s.setLink l { k with cont := if code = 0 then none else some cmd, desatWin := k.desatWin ++ ons }
    (s.queueState l cmd).wrB (R.stlStatus l) 2 (decide (code ≠ 0))
  else s

/-- Whether the interval that began at instant `from_` began in the present timebase cycle. -/
def State.sameCycle (s : State) (from_ : Nat) : Bool := s.tbOf from_ / tbCycle == s.tb / tbCycle && decide (from_ ≤ s.clk.now)

/-- The next reload of carrier `c` after the present instant, where the sample instant that prepares it for a unit of owner `n` lies before
the present: `ADVANCE` ahead of it (R22, R37). -/
def State.afterSample (s : State) (n c : Nat) : Option Nat :=
  (s.toReload c (s.tb + 1)).bind (fun d => if n < 4 ∧ d + 1 < s.seqAdv n then some (s.clk.now + 1 + d) else none)

/-- The override of leg unit `g` has returned to 0: each unit takes up its set at once where its reload lies in this timebase cycle and needs
no lead; else it holds the override's state until the reload (R233, R247). -/
def State.ovrEnds (s : State) (g : Nat) : State :=
  let x := s.clk.now
  let now (from_ : Nat) : Bool := s.legRoute g != 1 && s.sameCycle from_
  if s.legMode g = 1 then
    if now (s.leg g).from_ && s.slEn (3 * g) then (s.legTakeUp g x).legEnter g
    else s.setLeg g { s.leg g with hold := some x }
  else s.each [3 * g, 3 * g + 1, 3 * g + 2] (fun s i =>
    if now (s.slice i).from_ && s.slEn i then (s.sliceClear i x).sliceEnter i
    else s.setSlice i { s.slice i with hold := some x })

/-- Edges of the coming reload that the release of R37 did not hand, because the override still stood, go to the link where the leg unit is
free at that reload (R247). -/
def State.handAgain (s : State) (g : Nat) : State :=
  if s.legRoute g ≠ 1 then s
  else if s.legMode g = 1 then
    match s.afterSample (s.slOwner (3 * g)) (s.slCar (3 * g)), (s.leg g).next with
    | some x, none => if s.slEn (3 * g) ∧ s.legFree g x then s.prepareLeg g x else s
    | some x, some segs => if s.legFree g x then (s.handLeg g x segs []).1 else s
    | none, _ => s
  else s.each [3 * g, 3 * g + 1, 3 * g + 2] (fun s i =>
    match s.afterSample (s.slOwner i) (s.slCar i), (s.slice i).next with
    | some x, none => if s.sliceLinked i && s.sliceFree i x then s.prepareSlice i x else s
    | some x, some segs => if s.sliceLinked i && s.sliceFree i x then (s.handSlice i x segs []).1 else s
    | none, _ => s)

/-- Pair `k` of leg unit `g` goes to the target of override code `code` at instant `x` (R233): what does not belong to the target turns off
at once, the target turns on after the dead time counted from the later of `x` and its partner's turn-off. -/
def State.ovrSlice (s : State) (g code k x : Nat) : State :=
  let i := 3 * g + k
  let s := s.setSlice i { s.slice i with due := none, carryA := false, carryB := false, next := none, plan := none, req := none,
                                         hold := none }
  let s := (s.wr (R.pwmSliceCarryA i) 0#32).wr (R.pwmSliceCarryB i) 0#32
  match s.ovrTarget g code k with
  | none => (s.swOff i true x).swOff i false x
  | some a =>
    let s := s.swOff i (!a) x
    let sl := s.slice i
    if (if a then sl.aOn else sl.bOn) then s
    else
      let off := if a then sl.bOffAt else sl.aOffAt
      s.swDue i a (max x off + (if a then s.slDtR i else s.slDtF i))

/-- The override code of leg unit `g` becomes `code` at the present instant (R233, R247). -/
def State.setOverride (s : State) (g code : Nat) : State :=
  let l := s.leg g
  if l.ovr = code then s
  else
    let s := s.wrF (R.pwmLegStatus g) 6 4 code
    if code = 0 then
      let s := (s.setLeg g { l with ovr := 0 }).ovrEnds g
      let s := if s.legRoute g = 1 then s.wrF (R.protDsatStatus (s.legLink g)) 13 8 0 else s
      (s.sendState g 0).handAgain g
    else
      let s := s.setLeg g { l with
        ovr := code, hold := none, path := ⟨none, none, none⟩, carry := false, next := none, lpath := ⟨none, none, none⟩, plan := none }
      let s := s.wr (R.pwmLegCarry g) 0#32
      (s.each [0, 1, 2] (fun s k => s.ovrSlice g code k s.clk.now)).sendState g code

end Sys2Proof.Machine
end

