-- ==== Sys2Proof/Machine/Rec.lean ====
section
/-! DEFINITION. The recorder: channels, intervals, capture units, triggers and the trigger bus (*Recorder*). -/

namespace Sys2Proof.Machine

def State.cap (s : State) (u : Nat) : CapSt := tabGet (fun _ => CapSt.init) s.rec_.caps u
def State.setCap (s : State) (u : Nat) (v : CapSt) : State :=
  { s with rec_ := { s.rec_ with caps := tabSet (fun _ => CapSt.init) s.rec_.caps u v } }
def State.recChan (s : State) (c : Nat) : RecChan := tabGet (fun _ => ⟨[], false⟩) s.rec_.chans c
def State.setRecChan (s : State) (c : Nat) (v : RecChan) : State :=
  { s with rec_ := { s.rec_ with chans := tabSet (fun _ => ⟨[], false⟩) s.rec_.chans c v } }

def State.capEn (s : State) (u : Nat) : Bool := s.rdB (R.recCapCfg u) 31
def State.capState (s : State) (u : Nat) : Nat := s.rdF (R.recCapStatus u) 2 0
def State.capH (s : State) (u : Nat) : Nat := s.rdF (R.recCapStatus u) 22 20
def State.capSlot (s : State) (u : Nat) : Nat := s.rdF (R.recCapStatus u) 12 8
def State.capFirst (s : State) (u : Nat) : Nat := s.rdF (R.recCapFirst u) 7 0
def State.capCount (s : State) (u : Nat) : Nat := s.rdF (R.recCapCfg u) 8 0
def State.capIv (s : State) (u : Nat) : Nat := s.rdF (R.recCapInterval u) 29 0
def State.capPre (s : State) (u : Nat) : Nat := s.rdF (R.recCapPre u) 23 0
def State.capPost (s : State) (u : Nat) : Nat := s.rdF (R.recCapPost u) 23 0
/-- Length of the ring in intervals (R361). -/
def State.capRing (s : State) (u : Nat) : Nat := s.capPre u + s.capPost u
/-- First byte of slot `k` of unit `u` (R361). -/
def State.capSlotAddr (s : State) (u k : Nat) : Nat :=
  s.rdF (R.recCapBaseHi u) 2 0 * 2 ^ 32 + s.rdF (R.recCapBaseLo u) 31 12 * 4096 + k * s.rdN (R.recCapStride u)

/-- An event of capture unit `u` (R368): codes 0–6 a new state, 16 accepted, 17 counted, 18 merged, 19 completed, 20 halved,
21 marked. -/
def State.recEvent (s : State) (u code : Nat) : State := s.post (91 + u) code

/-- The unit enters a state. -/
def State.setCapState (s : State) (u st : Nat) : State := (s.wrF (R.recCapStatus u) 2 0 st).recEvent u st

/-- The next free slot at or after slot `k`, cyclically (R362, R363): neither full nor waiting for its header. -/
def State.capFree (s : State) (u k : Nat) : Option Nat :=
  let n := s.rdF (R.recCapSlots u) 5 0
  ((List.range n).map (fun i => (k + i) % n)).find? (fun j =>
    !s.rdB (R.recCapFull u) j && !(s.cap u).fin.any (fun x => x.1 == j))

/-- The first interval boundary of unit `u`, without halvings, at or after network time `n`, in ns. -/
def State.capNextIv (s : State) (u n : Nat) : Nat :=
  let iv := s.capIv u
  let unit := iv * 2 ^ 34
  (n + unit - 1) / unit * iv

/-- `FILL` begins in slot `k` at the next interval boundary (R363); h returns to 0 (R365). A capture that ends before it is armed shows dead
time 0 (log 100). -/
def State.capFill (s : State) (u k : Nat) : State :=
  let start := s.capNextIv u (s.netTime s.clk.now)
  let c := s.cap u
  let s := s.setCap u { c with from_ := start, cur := start, idx := 0, hNext := none, trig := none, short := false,
                               armed := false, hTrig := 0, postTrigs := 0, dropped := 0, dead := 0, ivSeq := c.ivSeq + c.idx }
  let s := (s.wrF (R.recCapStatus u) 12 8 k).wrF (R.recCapStatus u) 22 20 0
  let s := s.each (List.range (s.capCount u)) (fun s i => s.setRecChan (s.capFirst u + i) ⟨[], false⟩)
  s.setCapState u 1

/-- Enter `FILL` in the next free slot, or `WAIT_SLOT` (R363). -/
def State.capFillOrWait (s : State) (u k : Nat) : State :=
  match s.capFree u k with
  | some j => s.capFill u j
  | none => s.setCapState u 5

/-- What follows the hold-off (R363). -/
def State.capAfterHold (s : State) (u : Nat) : State :=
  if s.rdB (R.recCapCfg u) 30 then s.capFillOrWait u (s.capSlot u + 1) else s.setCapState u 0

/-- The dead time of the capture ends: the unit is armed, or takes its trigger in `FILL` (R364). -/
def State.capDeadEnd (s : State) (u : Nat) : State :=
  let c := s.cap u
  if c.armed then s
  else
    let d := (s.clk.now - c.deadFrom) / 32
    let s := s.setCap u { c with armed := true, dead := d }
    let tot := tabGet (fun _ => 0) s.rec_.deadMs u + d
    let s := { s with rec_ := { s.rec_ with deadMs := tabSet (fun _ => 0) s.rec_.deadMs u tot } }
    (s.wr (R.recCapDead u) (wordN (satU 32 (d / 1000)))).wr (R.recCapDeadTotal u) (wordN (satU 32 (tot / 1000000)))

/-- The 64-byte slot header of Table 17.3. Marks written at an overload take the place of the interval one ring before them (R361, R365). -/
def State.capHeader (s : State) (u : Nat) (overload stopped : Bool) : List Byte :=
  let c := s.cap u
  let ring := s.capRing u
  let tAt := (c.trig.map (·.at_)).getD 0
  let valid := min c.idx (ring - b2n overload)
  let trigIdx := ((c.trig.bind (·.idx)).getD 0) % (max ring 1)
  let old := c.idx - valid
  let flags := b2n c.short + 2 * b2n overload + 4 * b2n stopped + 8 * b2n ((c.trig.map (·.multi)).getD false)
    + 16 * b2n c.trig.isNone + 32 * c.hTrig + 256 * s.capH u
  let body := bytesLE 4 c.seqNo ++ bytesLE 4 (ntNs tAt) ++ bytesLE 4 (ntSec tAt)
    ++ bytesLE 2 (((c.trig.map (·.code)).getD 0) % 4096) ++ bytesLE 2 flags ++ bytesLE 4 trigIdx
    ++ bytesLE 4 (old % (max ring 1)) ++ bytesLE 4 valid ++ bytesLE 4 (s.capIv u) ++ bytesLE 8 c.dead
    ++ bytesLE 4 c.missed ++ bytesLE 4 c.postTrigs ++ bytesLE 2 (s.capFirst u) ++ bytesLE 2 (s.capCount u)
    ++ bytesLE 4 c.dropped ++ bytesLE 4 (c.ivSeq + old)
  body ++ bytesLE 4 (crc32c body)

/-- The capture's slot is closed: its header waits behind its records (R362, R363), and the unit enters state `st`. -/
def State.capComplete (s : State) (u : Nat) (overload stopped : Bool) (st : Nat) : State :=
  let h := s.capHeader u overload stopped
  let c := s.cap u
  let s := s.setCap u { c with fin := c.fin ++ [(s.capSlot u, h)], seqNo := c.seqNo + 1, missed := 0, deadFrom := s.clk.now,
                               holdFrom := s.clk.now, holdCnt := 0 }
  let s := s.countUp (R.recCapCount u) 31 16 1
  (s.recEvent u 19).setCapState u st

/-! ### Triggers (R363, R366) -/

/-- The trigger selectors of a unit. -/
def State.capSelects (s : State) (u code : Nat) : Bool :=
  decide (code ≠ 0) && ([s.rdF (R.recCapTrigA u) 11 0, s.rdF (R.recCapTrigA u) 27 16,
    s.rdF (R.recCapTrigB u) 11 0, s.rdF (R.recCapTrigB u) 27 16].contains code ||
    (decide (0x010 ≤ code ∧ code ≤ 0x013) && natBit (s.rdF (R.recCapCfg u) 19 16) (code - 0x010)))

/-- Whether a code is a trigger-bus line. -/
def isBusCode (code : Nat) : Bool := decide (0x010 ≤ code ∧ code ≤ 0x013)

/-- The unit drives the bus lines of its `BUS_OUT` low for 1.0 µs (R368). -/
def State.busDrive (s : State) (u : Nat) : State :=
  s.each (List.range 4) (fun s b =>
    if natBit (s.rdF (R.recCapCfg u) 23 20) b then
      { s with rec_ := { s.rec_ with drive := tabSet (fun _ => 0) s.rec_.drive b (s.clk.now + usec) } }
    else s)

/-- Byte address of channel position `i` of capture interval `idx`. -/
def State.recAddr (s : State) (u idx i : Nat) : Nat :=
  s.capSlotAddr u (s.capSlot u) + 64 + (idx % (max (s.capRing u) 1)) * s.capCount u * 32 + i * 32

/-- The records of a closed interval `i` of the capture take `TRIG`: those still queued there, those already in DRAM by being queued once more
(R363, Table 17.2; log 100). -/
def State.recTrigMark (s : State) (u i : Nat) : State :=
  let addrs := (List.range (s.capCount u)).map (fun k => s.recAddr u i k)
  let c := s.cap u
  let mark (bs : List Byte) : List Byte := setNth bs 18 (nth 0#8 bs 18 ||| 8#8)
  s.setCap u { c with queue := c.queue.map (fun r => if addrs.contains r.1 then (r.1, mark r.2) else r) ++
    (addrs.filter (fun a => !c.queue.any (fun r => r.1 == a))).map (fun a => (a, mark (s.bytes a 32))) }

/-- Whether a trigger of instant `at_` falls in `FILL` or `ARMED` of unit `u`. -/
def State.capTakes (s : State) (u at_ : Nat) : Bool :=
  (s.capState u == 1 || s.capState u == 2) && decide ((s.cap u).from_ ≤ ntTotalNs at_)

/-- A trigger reaches unit `u`: accepted, merged or counted (R363). The flag says that it was accepted. -/
def State.capTrigger (s : State) (u code at_ : Nat) : State × Bool :=
  let c := s.cap u
  let st := s.capState u
  let ns := ntTotalNs at_
  if s.capTakes u at_ then
    let len := s.capIv u * 2 ^ s.capH u
    let idx := if ns < c.cur then some (c.idx - (c.cur - ns + len - 1) / len) else none
    let s := match idx with
      | some i => if c.idx ≤ i + s.capRing u then s.recTrigMark u i else s
      | none => s
    let c := s.cap u
    let s := s.setCap u { c with trig := some ⟨at_, code, false, idx, s.clk.now / fabCycle⟩, short := decide (st = 1),
                                 hTrig := s.capH u }
    (((s.capDeadEnd u).recEvent u 16).setCapState u 3, true)
  else if st = 3 then
    match c.trig with
    | some g =>
      if g.at_ = at_ then
        ((s.setCap u { c with trig := some { g with code := min g.code code, multi := g.multi || decide (g.code ≠ code) } }).recEvent
          u 18, false)
      else ((s.setCap u { c with postTrigs := c.postTrigs + 1 }).recEvent u 17, false)
    | none => (s, false)
  else
    let s := s.setCap u { c with missed := c.missed + 1 }
    (((s.countUp (R.recCapCount u) 15 0 1).raise (R.recCapStatus u) 30).recEvent u 17, false)

/-- The hold-off of a unit with `HOLD_MODE` 1 counts a firing of its source (R363). -/
def State.capHoldCount (s : State) (u code : Nat) : State :=
  if s.capState u = 4 ∧ s.rdB (R.recCapCfg u) 29 ∧ s.rdF (R.recCapHold u) 11 0 = code then
    let c := s.cap u
    let s := s.setCap u { c with holdCnt := c.holdCnt + 1 }
    if s.rdF (R.recCapHold u) 15 12 ≤ c.holdCnt + 1 then s.capAfterHold u else s
  else s

/-- A trigger source fires with instant `at_` for the units of mask `only` (R366, R368); an accepted trigger is itself a source.
`n` bounds the chain of units that trigger each other. -/
def State.recFireGo : Nat → State → Nat → Nat → Nat → State
  | 0, s, _, _, _ => s
  | n + 1, s, code, at_, only =>
    (List.range 8).foldl (fun s u =>
      if s.capEn u then
        let s :=
          if s.capSelects u code && natBit only u then
            let loop := decide (Nat.land (s.rdF (R.recCapCfg u) 23 20) (s.rdF (R.recCapCfg u) 19 16) ≠ 0)
            if loop && !isBusCode code && s.capTakes u at_ then s.busDrive u
            else
              let r := s.capTrigger u code at_
              if r.2 then
                let s := if isBusCode code then r.1 else r.1.busDrive u
                State.recFireGo n s (0x080 + u) at_ 0xFF
              else r.1
          else s
        if natBit only u then s.capHoldCount u code else s
      else s) s

/-- A trigger source fires at network time `at_`. -/
def State.recFire (s : State) (code at_ : Nat) : State := State.recFireGo 9 s code at_ 0xFF

/-- A trigger source fires now. -/
def State.recFireNow (s : State) (code : Nat) : State := s.recFire code (s.netTime s.clk.now)

/-! ### Samples (R357, R359, R367) -/

/-- The unit that owns channel `c`. -/
def State.capOwner (s : State) (c : Nat) : Option Nat :=
  (List.range 8).find? (fun u => s.capEn u && decide (s.capFirst u ≤ c) && decide (c < s.capFirst u + s.capCount u))

/-- Put a sample into the reduction of its interval. -/
def accAdd (accs : List Acc) (start : Nat) (v : Int) (q : Qual) : List Acc :=
  let qo := q.toNat / 16 * 16
  let ag := q.toNat % 16
  if accs.any (fun a => a.start == start) then
    accs.map (fun a => if a.start = start then
      { a with mn := min a.mn v, mx := max a.mx v, sum := a.sum + v, n := a.n + 1, qor := Nat.lor a.qor qo, age := max a.age ag }
      else a)
  else accs ++ [⟨start, v, v, v, 1, qo, ag⟩]

/-- Start of the interval of unit `u` in which network nanosecond `ns` lies, at or after the earliest open one. -/
def State.capIvStart (s : State) (u ns : Nat) : Nat :=
  let iv := s.capIv u
  let h := match (s.cap u).hNext with
    | some (h', from_) => if from_ ≤ ns then h' else s.capH u
    | none => s.capH u
  let len := iv * 2 ^ h
  if len = 0 then ns else ns / len * len

/-- A level comparator judges a sample (R367). -/
def State.lvlJudge (s : State) (k : Nat) (v : Int) (ts : Nat) : State :=
  let th := s.rdS (R.recLvlThresh k)
  let p := tabGet (fun _ => none) s.rec_.prev k
  let s := { s with rec_ := { s.rec_ with prev := tabSet (fun _ => none) s.rec_.prev k (some v) } }
  match p with
  | none => s
  | some p =>
    let up := decide (p ≤ th ∧ th < v)
    let dn := decide (th ≤ p ∧ v < th)
    let hit := match s.rdF (R.recLvlCfg k) 29 28 with
      | 0 => up
      | 1 => dn
      | 2 => up || dn
      | _ => false
    if hit then s.recFire (0x020 + k) ts else s

/-- Channel `c` takes a sample with value `v`, quality `q` and network time `ts` (R357, R360). -/
def State.recSample (s : State) (c : Nat) (v : Int) (q : Qual) (ts : Nat) : State :=
  let s : State := match s.capOwner c with
    | none => s
    | some u =>
      let st := s.capState u
      let cp := s.cap u
      let ns := ntTotalNs ts
      if st = 0 ∨ 3 < st ∨ ns < cp.from_ then s
      else
        let ch := s.recChan c
        if ns < cp.cur then
          ((s.setRecChan c { ch with gap := true }).countUp (R.recCapLate u) 31 0 1).raise (R.recCapStatus u) 29
        else s.setRecChan c { ch with accs := accAdd ch.accs (max cp.cur (s.capIvStart u ns)) v q }
  if qBit q qInvalid then s
  else s.each (List.range 8) (fun s k =>
    if s.rdB (R.recLvlCfg k) 31 && s.rdF (R.recLvlCfg k) 7 0 == c then s.lvlJudge k v ts else s)

/-- The enabled channels of a kind. -/
def State.recKind (s : State) (kind : Nat) : List Nat :=
  (List.range 256).filter (fun c => s.rdB (R.recCh c) 31 && s.rdF (R.recCh c) 30 28 == kind)

/-- Kind 1 channels of thread `n` sample its new stable copy; `ts` is the network time of the sample instant that began the period
that wrote it (Table 17.1). -/
def State.recThread (s : State) (n ts : Nat) : State :=
  s.each (s.recKind 1) (fun s c =>
    if s.rdF (R.recCh c) 26 24 = n then
      let v := s.sigStable (s.rdF (R.recCh c) 11 0)
      s.recSample c (sval v.val) v.qual ts
    else s)

/-- Kind 2 channels sample a released output of chain `ch` (Table 17.1). -/
def State.recChain (s : State) (ch : Nat) (v : Int) (q : Qual) (ts : Nat) : State :=
  s.each (s.recKind 2) (fun s c => if s.rdF (R.recCh c) 18 12 = ch then s.recSample c v q ts else s)

/-- Kind 3 channels sample a written common-domain signal (Table 17.1). -/
def State.recSignal (s : State) (i : Nat) : State :=
  s.each (s.recKind 3) (fun s c =>
    if s.rdF (R.recCh c) 11 0 = i then
      let v := s.sigStable i
      s.recSample c (sval v.val) v.qual (s.netTime s.clk.now)
    else s)

/-! ### Closing intervals (R359, R360, R365) -/

/-- The record of Table 17.2. -/
def recordBytes (a : Acc) (h : Nat) (mark trig gap : Bool) (c start seq : Nat) : List Byte :=
  let empty := a.n == 0
  let mn : Int := if empty then 0x7FFFFFFF else a.mn
  let mx : Int := if empty then -0x80000000 else a.mx
  let mean : Int := if empty then 0 else divRound (a.sum * 65536) a.n
  let q := if empty then 0x4000 else a.qor + a.age
  bytesLE 4 (wordOf mn).toNat ++ bytesLE 4 (wordOf mx).toNat ++ bytesLE 6 (BitVec.ofInt 48 mean).toNat ++ bytesLE 2 q
    ++ bytesLE 2 (min a.n 65535) ++ bytesLE 1 (h * 32 + b2n mark * 16 + b2n trig * 8 + b2n gap * 4) ++ bytesLE 1 c
    ++ bytesLE 4 (start % 1000000000) ++ bytesLE 4 (start / 1000000000) ++ bytesLE 4 seq

/-- The records of the interval that starts at `start`. -/
def State.recordsOf (s : State) (u start len : Nat) (mark : Bool) : List (Nat × List Byte) :=
  let c := s.cap u
  (List.range (s.capCount u)).map (fun i =>
    let k := s.capFirst u + i
    let ch := s.recChan k
    let a := if mark then none else ch.accs.find? (fun a => a.start == start)
    let trig := match c.trig with
      | some g => decide (start ≤ ntTotalNs g.at_ ∧ ntTotalNs g.at_ < start + len)
      | none => false
    (s.recAddr u c.idx i,
      recordBytes (a.getD ⟨start, 0, 0, 0, 0, 0, 0⟩) (s.capH u) mark (trig && !mark) ch.gap k start (c.ivSeq + c.idx)))

/-- The overload rule at an interval close (R365). -/
def State.capOverload (s : State) (u : Nat) : State :=
  let c := s.cap u
  if c.queue.length ≤ 1536 then s
  else if s.rdF (R.recCapService u) 1 0 = 0 then
    let h := s.capH u
    if h < s.rdF (R.recCapCfg u) 26 24 ∧ c.hNext.isNone then
      let m := s.capIv u * 2 ^ (h + 1)
      (s.setCap u { c with hNext := some (h + 1, (c.cur + m - 1) / m * m) }).recEvent u 20
    else s
  else
    let rs := s.recordsOf u c.cur (s.capIv u) true
    let s := s.setCap u { c with queue := c.queue ++ rs }
    let s := (s.raise (R.recCapStatus u) 31).recEvent u 21
    s.capComplete u true true 6

/-- The earliest open interval of unit `u` closes; its records are queued or, where they do not fit, dropped whole. -/
def State.capCloseIv (s : State) (u len : Nat) : State :=
  let c := s.cap u
  let start := c.cur
  let fits := decide (c.queue.length + s.capCount u ≤ 2048)
  let rs := s.recordsOf u start len false
  let trig := c.trig.map (fun g =>
    if g.idx.isNone && decide (ntTotalNs g.at_ < start + len) then { g with idx := some c.idx } else g)
  let sameCyc := match c.trig with
    | some g => decide (g.cyc = s.clk.now / fabCycle)
    | none => false
  let s := s.setCap u { c with
    queue := if fits then c.queue ++ rs else c.queue
    dropped := if fits then c.dropped else c.dropped + s.capCount u
    trig := trig
    short := c.short && !(sameCyc && c.idx + 1 == s.capPre u)
    idx := c.idx + 1
    cur := start + len }
  let s := s.each (List.range (s.capCount u)) (fun s i =>
    let k := s.capFirst u + i
    let ch := s.recChan k
    s.setRecChan k ⟨ch.accs.filter (fun a => decide (start < a.start)), !fits⟩)
  let s := { s with rec_ := { s.rec_ with lasts := (List.range (s.capCount u)).foldl (fun tb i =>
    tabSet (fun _ => []) tb (s.capFirst u + i) (nth (0, []) rs i).2) s.rec_.lasts } }
  let c := s.cap u
  let s : State := match c.hNext with
    | some (h, from_) => if from_ ≤ c.cur then (s.setCap u { c with hNext := none }).wrF (R.recCapStatus u) 22 20 h else s
    | none => s
  let s := if s.capState u = 1 ∧ s.capPre u ≤ c.idx then (s.capDeadEnd u).setCapState u 2 else s
  if s.capState u = 3 then
    match c.trig.bind (·.idx) with
    | some i => if i + s.capPost u ≤ c.idx then s.capComplete u false false 4 else s.capOverload u
    | none => s.capOverload u
  else s.capOverload u

/-- The first `n` waiting records reach DRAM. -/
def State.capDrain (s : State) (u n : Nat) : State :=
  let c := s.cap u
  let s := (c.queue.take n).foldl (fun s r => s.setBytes r.1 r.2) s
  s.setCap u { c with queue := c.queue.drop n }

/-- `INTERVAL_CLOSE`: `n` records have reached DRAM since the last close (log 31), and the interval closes `CLOSE_DELAY` after its
end (R360). -/
def State.intervalClose (s : State) (u n : Nat) : State :=
  let s := s.capDrain u n
  let st := s.capState u
  let len := s.capIv u * 2 ^ s.capH u
  if s.capEn u ∧ 1 ≤ st ∧ st ≤ 3 ∧
      (s.cap u).cur + len + 1000 * s.rdF (R.recCapClose u) 15 0 ≤ ntTotalNs (s.netTime s.clk.now) then s.capCloseIv u len
  else s

/-- Every interval of unit `u` that began by network nanosecond `old` closes, `n` of them at most. -/
def State.capCloseTo (s : State) (u old : Nat) : Nat → State
  | 0 => s
  | n + 1 =>
    if 1 ≤ s.capState u ∧ s.capState u ≤ 3 ∧ (s.cap u).cur ≤ old then
      (s.capCloseIv u (s.capIv u * 2 ^ s.capH u)).capCloseTo u old n
    else s

/-- Network time has been stepped: the running interval closes at the step after those still open before it, and the next record of every
channel carries `GAP` (R360). A unit that waits for its first boundary waits for the next one of the new time. `old` and `new` are the network
time just before and just after the step. -/
def State.capTimeStep (s : State) (u old new : Nat) : State :=
  let st := s.capState u
  if s.capEn u ∧ 1 ≤ st ∧ st ≤ 3 then
    let o := ntTotalNs old
    let c := s.cap u
    let s : State := if o < c.from_ then
        let x := s.capNextIv u new
        s.setCap u { c with from_ := x, cur := x }
      else
        let s := s.capCloseTo u o ((o - c.cur) / max 1 (s.capIv u) + 1)
        let len := s.capIv u * 2 ^ s.capH u
        let now := ntTotalNs new
        s.setCap u { s.cap u with cur := if len = 0 then now else now / len * len, from_ := 0 }
    s.each (List.range (s.capCount u)) (fun s i => s.setRecChan (s.capFirst u + i) ⟨[], true⟩)
  else s

/-- `SLOT_COMPLETE`: every record and the oldest waiting header are in DRAM, and the slot's `FULL` bit is set (R362). -/
def State.slotComplete (s : State) (u : Nat) : State :=
  match (s.cap u).fin with
  | [] => s
  | (k, h) :: rest =>
    let s := s.capDrain u (s.cap u).queue.length
    let s := s.setBytes (s.capSlotAddr u k) h
    let s := s.setCap u { s.cap u with fin := rest }
    s.raise (R.recCapFull u) k

/-- `SLOT_FREE`: a W1C write of `w` to `REC_CAP_u_FULL`; a unit in `WAIT_SLOT` enters `FILL` (R362, R363). -/
def State.slotFree (s : State) (u : Nat) (w : Word) : State :=
  let s := s.storeReg (R.recCapFull u) w
  if s.capState u = 5 then
    match s.capFree u (s.capSlot u + 1) with
    | some j => s.capFill u j
    | none => s
  else s

/-- `ARM` of unit `u` (R363); nothing is armed in the Harbour state (R445). -/
def State.recArm (s : State) (u : Nat) : State :=
  let st := s.capState u
  if s.capEn u ∧ (st = 0 ∨ st = 6) ∧ s.rdF R.sysState 2 0 ≠ 4 then
    let s := if st = 0 then s.setCap u { s.cap u with deadFrom := s.clk.now } else s
    s.capFillOrWait u 0
  else s

/-- Whether the earliest open interval of unit `u` is to be closed by instant `x` (R360). -/
def State.ivDue (s : State) (u x : Nat) : Bool :=
  decide ((s.cap u).cur + s.capIv u * 2 ^ s.capH u + 1000 * s.rdF (R.recCapClose u) 15 0 ≤ ntTotalNs (s.netTime x))

/-- Whether that interval is the last of the post-trigger fill. -/
def State.ivLast (s : State) (u : Nat) : Bool :=
  let c := s.cap u
  let i := (c.trig.map (fun g => g.idx.getD c.idx)).getD (c.idx + 1)
  s.capState u == 3 && decide (i + s.capPost u ≤ c.idx + 1)

/-- `STOP` of unit `u` (R363); the close of the last post-trigger interval in the same fabric cycle wins. -/
def State.recStop (s : State) (u : Nat) : State :=
  let s := s.intervalClose u 0
  let x := (s.clk.now / fabCycle + 1) * fabCycle - 1
  let s := if s.ivLast u && s.ivDue u x then s.capCloseIv u (s.capIv u * 2 ^ s.capH u) else s
  match s.capState u with
  | 1 | 2 | 3 => s.capComplete u false true 0
  | 4 | 5 => s.setCapState u 0
  | _ => s

/-- `HOLD_T_END`: a timed hold-off ends (R363). -/
def State.holdEnd (s : State) (u : Nat) : State :=
  if s.capState u = 4 ∧ !s.rdB (R.recCapCfg u) 29 ∧
      (s.cap u).holdFrom + s.rdF (R.recCapHold u) 31 16 * msec ≤ s.clk.now then s.capAfterHold u
  else s

/-- The network time at which `FIRE_AT` of unit `u` fires: its low 32 bits of seconds are read in the present span. -/
def State.fireAt (s : State) (u : Nat) : Nat :=
  let now := ntSec (s.netTime s.clk.now)
  let lo := s.rdN (R.recCapFireAtS u)
  (now / 2 ^ 32 * 2 ^ 32 + lo) * ntSecond + s.rdF (R.recCapFireAtNs u) 29 0 * 2 ^ 34

/-- `FIRE_AT`: network time has reached the instant set, and the unit is triggered once (R367). -/
def State.recFireAt (s : State) (u : Nat) : State :=
  if s.rdB (R.recCapFireAtNs u) 31 ∧ s.fireAt u ≤ s.netTime s.clk.now then
    let a := s.fireAt u
    let s := s.wrB (R.recCapFireAtNs u) 31 false
    State.recFireGo 9 s 0x002 a (2 ^ u)
  else s

/-- A write to `REC_CAP_u_FIRE_AT_NS`: an instant already past fires at once (R367). -/
def State.fireAtWrite (s : State) (u : Nat) (w : Word) : State := (s.storeReg (R.recCapFireAtNs u) w).recFireAt u

/-- `REC_FIRE`: software triggers the units of a mask at the network time of the write (R366). -/
def State.recSoftFire (s : State) (mask : Nat) : State :=
  State.recFireGo 9 s 0x001 (s.netTime s.clk.now) mask

/-- `TRIG_BUS_EDGE`: line `b` has been low for 20 samples after `high` sub-steps high (R368). -/
def State.trigBusEdge (s : State) (b high : Nat) : State :=
  let a := R.recBus b
  if s.rdB a 31 then
    let s := s.wrB a 16 true
    if usec ≤ high then
      let s := s.raise a 17
      let stamp := s.netTime (s.clk.now - 19 * tbCycle)
      s.recFire (0x010 + b) (stamp - s.rdF a 13 0 * 2 ^ 34)
    else s
  else s

/-- `TRIG_BUS_DRIVE_END`: the 1.0 µs drive of line `b` ends (R368). -/
def State.busDriveEnd (s : State) (b : Nat) : State :=
  let e := tabGet (fun _ => 0) s.rec_.drive b
  if e ≠ 0 ∧ e ≤ s.clk.now then { s with rec_ := { s.rec_ with drive := tabSet (fun _ => 0) s.rec_.drive b 0 } } else s

/-- Whether this device drives line `b` low. -/
def State.busDriven (s : State) (b : Nat) : Bool := decide (s.clk.now < tabGet (fun _ => 0) s.rec_.drive b)

/-- `LEVEL` of line `b` as a read shows it: low under the device's own drive; else high before its first edge, and free after one, as no command
tells of the rise (R368, log 100). -/
def State.busLevel (s : State) (b : Nat) : Bool := s.busDriven b || (s.rdB (R.recBus b) 16 && bitOf s.freshWord b)

end Sys2Proof.Machine
end

