-- ==== Sys2Proof/Machine/Wear.lean ====
section
/-! DEFINITION. Wear monitors, the wear record, retirement and spares (*Wear, spares and degraded operation*, R451–R457). Events of
the `WEAR` block (source 143): 0x100 + state for a change of state, 0x200 + 0x20 × class + unit for a retirement and 0x400 + the
same for an assignment; classes 0 core pair, 1 Lagoon bank, 2 chain, 3 converter, 4 leg unit, 5 link. -/

namespace Sys2Proof.Machine

def State.setWear (s : State) (r : WearRec) : State := { s with wear := { s.wear with live := r } }

/-- The wear registers that the record holds. -/
def isWearReg (a : Nat) : Bool := decide (0x47000000 ≤ a ∧ a < 0x47000200)

/-- The record is written; until the write is complete, 20 ms at the latest, a loss of supply leaves the one before in force (R452). -/
def State.wearRecord (s : State) : State :=
  { s with wear := { s.wear with
      saved := { s.wear.live with regs := tabKeep isWearReg s.regs }
      prev := if s.wear.wroteAt = some s.clk.now then s.wear.prev else s.wear.saved
      wroteAt := some s.clk.now } }

/-- Whether the last write of the record can still be under way. -/
def State.wearWriting (s : State) : Bool :=
  match s.wear.wroteAt with
  | some x => decide (s.clk.now < x + 20 * msec)
  | none => false

/-- The record in force after a reset (R452): a loss of supply (`lost`) within 20 ms of a write finds it complete or not, a free bit (log 103). -/
def State.wearInForce (s : State) (lost : Bool) : WearRec :=
  if lost && s.wearWriting && bitOf s.freshWord 0 then s.wear.prev else s.wear.saved

/-- The bits of the monitors whose value has reached the threshold in `[hi:lo]` of `TH` (R451). -/
def State.wearAt (s : State) (hi lo : Nat) : Nat :=
  (List.range 8).foldl (fun acc m => if s.rdF (R.wearMonTh m) hi lo ≤ s.rdN (R.wearMonVal m) then acc + 2 ^ m else acc) 0

/-- `WEAR_STATUS` follows the monitors and the record (R451, R456, R457). -/
def State.wearJudge (s : State) : State :=
  let warn := s.wearAt 31 16
  let lim := s.wearAt 15 0
  let ex := s.wear.live.exhausted || natBit lim 0 || natBit lim 1
  let s := s.setWear { s.wear.live with exhausted := ex }
  let st := if ex then 3 else if s.wear.live.assigned then 2 else if warn ≠ 0 then 1 else 0
  let old := s.rdF R.wearStatus 31 30
  let s := s.wr R.wearStatus (wordN (st * 2 ^ 30 + b2n (st == 3) * 2 ^ 29 + warn * 2 ^ 16 + lim * 2 ^ 8))
  if old = st then s else s.post 143 (0x100 + st)

/-- A spare is assigned: `SPARED` from then on, recorded at once (R452, R456). -/
def State.wearAssigned (s : State) (cls u : Nat) : State :=
  let s := s.setWear { s.wear.live with assigned := true }
  ((s.wearJudge).post 143 (0x400 + 0x20 * cls + u)).wearRecord

/-- A unit is retired; `spare` says that a spare of its class is left for it (R453, R455, R456). -/
def State.wearRetired (s : State) (cls u : Nat) (spare : Bool) : State :=
  let s := if spare then s else s.setWear { s.wear.live with exhausted := true }
  ((s.post 143 (0x200 + 0x20 * cls + u)).wearJudge).wearRecord

/-- One more than the present fabric cycle. -/
def State.cycNo (s : State) : Nat := s.clk.now / fabCycle + 1

/-- A spare of which `n` are left is kept for unit `u`, or is not: where none is left, a unit of higher number retired in this same cycle
gives it up (R454). -/
def keepSpare (l : List (Nat × Nat)) (n u cyc : Nat) : Option (List (Nat × Nat)) :=
  if l.length < n then some (l ++ [(u, cyc)])
  else
    let rivals := (l.filter (fun x => x.2 == cyc && decide (u < x.1))).map (·.1)
    match rivals.foldl max 0 with
    | 0 => none
    | v => some (l.filter (fun x => x.1 != v) ++ [(u, cyc)])

/-- A retirement for which a spare was asked: where one is kept for it, or where it took the place of another, which has none then. -/
def State.wearSpared (s : State) (cls u : Nat) (old : List (Nat × Nat)) (new : Option (List (Nat × Nat))) : State :=
  s.wearRetired cls u (match new with
    | none => false
    | some l => decide (old.length < l.length))

/-- Whether identity `p` is served: its pair is not retired, or `CP_4` serves it (R454). -/
def State.pairServed (s : State) (p : Nat) : Bool :=
  !s.rdB R.wearCp (8 + p) || (s.rdB R.wearCp 31 && s.rdF R.wearCp 2 0 == p)

/-- The pair that takes identity 0 where its own is retired with no spare in its place: the lowest one left (R454). -/
def State.pairStandIn (s : State) : Option Nat := if s.pairServed 0 then none else [1, 2, 3].find? s.pairServed

/-- The power domain of the pair that answers as pair `p`. -/
def State.pairHome (s : State) (p : Nat) : Nat :=
  if s.rdB R.wearCp 31 && s.rdF R.wearCp 2 0 == p then 8
  else if p = 0 then 4 + s.pairStandIn.getD 0
  else 4 + p

/-- Core pair `p` is retired; the spare pair is kept for it, if it is left (R453). -/
def State.retirePair (s : State) (p : Nat) : State :=
  if 4 ≤ p ∨ s.rdB R.wearCp (8 + p) then s
  else
    let old := s.wear.live.cpFor
    let new := keepSpare old (if s.rdB R.wearCp 31 then 0 else 1) p s.cycNo
    (((s.setWear { s.wear.live with cpFor := new.getD old }).wrB R.wearCp (8 + p) true).wearSpared 0 p old new)

/-- The Lagoon bank of an address (R412). -/
def bankOfAddr (a : Nat) : Nat := a / 4096 % 16

/-- Lagoon bank `b` is retired; a spare bank is kept for it, if one is left (R453). -/
def State.retireBank (s : State) (b : Nat) : State :=
  if s.rdB R.wearLagoon (16 + b) then s
  else
    let old := s.wear.live.bankFor
    let new := keepSpare old (2 - b2n (s.rdB R.wearLagoon 7) - b2n (s.rdB R.wearLagoon 15)) b s.cycNo
    (((s.setWear { s.wear.live with bankFor := new.getD old }).wrB R.wearLagoon (16 + b) true).wearSpared 1 b old new)

/-- The spare entry that a retired converter would take. -/
def State.sarSpareFree (s : State) : Option Nat :=
  (List.range 4).find? (fun j => s.rdB (R.wearSar j) 31 && !s.rdB (R.wearSar j) 30)

/-- Whether converter `k` is retired. -/
def State.sarRetired (s : State) (k : Nat) : Bool := natBit s.wear.live.sarRet k

/-- SAR converter `k` is retired: a spare, if one is left, takes over at the first trigger of its sources (R453–R455). Of the last spare in
one cycle the lower-numbered converter has it (R454). -/
def State.retireSar (s : State) (k : Nat) : State :=
  if s.sarRetired k then s
  else
    let w := s.wear.live
    let old := ((List.range 24).filter (natBit w.sarWait)).map (fun j => (j, tabGet (fun _ => 0) w.sarCyc j))
    let new := keepSpare old ((List.range 4).filter (fun j => s.rdB (R.wearSar j) 31 && !s.rdB (R.wearSar j) 30)).length k s.cycNo
    (s.setWear { w with
      sarRet := setNatBit w.sarRet k true
      sarWait := (new.getD old).foldl (fun a x => setNatBit a x.1 true) 0
      sarCyc := tabSet (fun _ => 0) w.sarCyc k s.cycNo }).wearSpared 3 k old new

/-- A trigger of a retired converter's sources: its spare is assigned (R453). -/
def State.assignSar (s : State) (k : Nat) : State :=
  if natBit s.wear.live.sarWait k then
    match s.sarSpareFree with
    | none => s
    | some j =>
      let w := s.wear.live
      let s := s.setWear { w with sarWait := setNatBit w.sarWait k false }
      (((s.wrB (R.wearSar j) 30 true).wrF (R.wearSar j) 4 0 k)).wearAssigned 3 k
  else s

/-- The spare that answers as converter `k`, if one has been assigned. -/
def State.sarSpareOf (s : State) (k : Nat) : Option Nat :=
  ((List.range 4).find? (fun j => s.rdB (R.wearSar j) 30 && s.rdF (R.wearSar j) 4 0 == k)).map
    (fun j => s.rdF (R.wearSar j) 28 24)

/-- Link `l` is retired: its spare comes into service at the next reset (R453). -/
def State.retireLink (s : State) (l : Nat) : State :=
  if natBit s.wear.live.linkRet l then s
  else
    let j := (List.range 4).find? (fun j =>
      s.rdB (R.wearLink j) 31 && s.rdF (R.wearLink j) 4 0 == l && !s.rdB (R.wearLink j) 30 && !s.rdB (R.wearLink j) 29)
    let s := s.setWear { s.wear.live with linkRet := setNatBit s.wear.live.linkRet l true }
    match j with
    | some j => (s.wrB (R.wearLink j) 29 true).wearRetired 5 l true
    | none => s.wearRetired 5 l false

/-- Monitor `m` takes the value `v` (R451). -/
def State.wearSet (s : State) (m v : Nat) : State :=
  let s : State := { s with wear := { s.wear with times := tabSet (fun _ => 0) s.wear.times m (s.netTime s.clk.now) } }
  (s.wr (R.wearMonVal m) (wordN (min v 0xFFFFFFFF))).wearJudge

/-- Monitor `m` takes the largest of the values `own` of the units `us`, and every unit whose own value has reached `LIMIT` is retired
(Table 22.1). -/
def State.wearWorst (s : State) (m : Nat) (us : List Nat) (own : Nat → Nat) (retire : State → Nat → State) : State :=
  let s := s.wearSet m (us.foldl (fun v u => max v (own u)) 0)
  s.each (us.filter (fun u => decide (s.rdF (R.wearMonTh m) 15 0 ≤ own u))) retire

/-- An error of unit `u` is noted for the monitors of the last 24 h. -/
def State.wearErr (s : State) (u : Nat) : State :=
  let l := (tabGet (fun _ => []) s.wear.errs u).filter (fun x => decide (s.clk.now < x + 86400 * second))
  { s with wear := { s.wear with errs := tabSet (fun _ => []) s.wear.errs u (l ++ [s.clk.now]) } }

/-- Errors of unit `u` over the last 24 h. -/
def State.wearDay (s : State) (u : Nat) : Nat :=
  ((tabGet (fun _ => []) s.wear.errs u).filter (fun x => decide (s.clk.now < x + 86400 * second))).length

/-- A corrected error at an address of Lagoon or DRAM (monitors 2 and 3). -/
def State.wearEcc (s : State) (a : Nat) : State :=
  if 0x08000000 ≤ a ∧ a < 0x09000000 then s.wearErr (bankOfAddr a)
  else if 0x100000000 ≤ a then s.wearErr 16
  else s

/-- `e^x` for `x` in units of 2^-32, in units of 2^-32: a third-order step at `x / 1024`, then ten squarings. -/
def expFix (x : Int) : Nat :=
  let y := x / 4
  let one : Int := 2 ^ 40
  let p := one + y + y * y / (2 * one) + y * y * y / (6 * one * one)
  let q := (List.range 10).foldl (fun (a : Int) _ => a * a / one) p
  (q / 2 ^ 8).toNat

/-- Age added by one second at a junction temperature in 1/16 °C, in units of 2^-32 s (R451). -/
def ageStep (t16 : Int) : Nat :=
  let tk := t16 * 100 + 437040
  if tk ≤ 0 then 0 else expFix (12997064 * (tk - 573040) * 2 ^ 32 / (573040 * tk))

/-- The readings of the control-die sensors (R469, Table 23.10). -/
def State.setTemps (s : State) (ts : List Int) : State :=
  let s := s.each (List.range 4) (fun s k => s.wrF (R.pdmTemp k) 15 0 (wordOf (nth 0 ts k)).toNat)
  let hi := ts.foldl max (signedOf 16 (s.rdF R.pdmTempMax 15 0))
  s.wrF R.pdmTempMax 15 0 (wordOf hi).toNat

/-- `WEAR_EVALUATION` of monitor `m`: monitor 0 takes the sensors' readings, monitor 1 the drift `v` that the ring oscillators show; monitors
2, 3 and 6 take the counts of the last 24 h, and the record is written with the hourly ones (R452); monitors 4, 5 and 7 are evaluated at
their own events and keep their value here. -/
def State.wearEval (s : State) (m v : Nat) (temps : List Int) : State :=
  match m with
  | 0 =>
    let s := s.setTemps temps
    let age := s.wear.live.age + ageStep (temps.foldl max (-32768))
    (s.setWear { s.wear.live with age := age }).wearSet 0 (age / 2 ^ 32 / 36000)
  | 1 => (s.wearSet 1 v).wearRecord
  | 2 => (s.wearWorst 2 (List.range 16) s.wearDay State.retireBank).wearRecord
  | 3 => (s.wearSet 3 (s.wearDay 16)).wearRecord
  | 6 =>
    let us := (List.range 32).filter (fun l => s.rdB (R.stlCfg l) 31)
    (s.wearWorst 6 us (fun l => s.wearDay (32 + l) / 100) State.retireLink).wearRecord
  | _ => s.wearJudge

/-- A lockstep mismatch of pair `p` (monitor 4). -/
def State.wearMismatch (s : State) (p : Nat) : State :=
  let n := tabGet (fun _ => 0) s.wear.live.mism p + 1
  let s := s.setWear { s.wear.live with mism := tabSet (fun _ => 0) s.wear.live.mism p n }
  s.wearWorst 4 [0, 1, 2, 3, 4] (tabGet (fun _ => 0) s.wear.live.mism) State.retirePair

/-- A stuck event of chain `i` (monitor 7). -/
def State.wearStuck (s : State) (i : Nat) : State :=
  let n := tabGet (fun _ => 0) s.wear.live.stuck i + 1
  let s := s.setWear { s.wear.live with stuck := tabSet (fun _ => 0) s.wear.live.stuck i n }
  s.wearSet 7 ((List.range 112).foldl (fun v j => max v (tabGet (fun _ => 0) s.wear.live.stuck j)) 0)

/-- The time for which link `l` has been down within the last 24 h. -/
def State.wearDownTime (s : State) (l : Nat) : Nat :=
  let now := s.clk.now
  let day := 86400 * second
  let from_ := tabGet (fun _ => 0) s.wear.downFrom l
  let spans := tabGet (fun _ => []) s.wear.downs l ++ (if from_ = 0 then [] else [(from_ - 1, now)])
  spans.foldl (fun a x => a + (x.2 - max x.1 (now - day))) 0

/-- Link `l` is retired once it has been down for 10 s within 24 h (Table 22.2). -/
def State.wearDownJudge (s : State) (l : Nat) : State := if 10 * second ≤ s.wearDownTime l then s.retireLink l else s

/-- Link `l` goes down (R266). -/
def State.wearDown (s : State) (l : Nat) : State :=
  if tabGet (fun _ => 0) s.wear.downFrom l = 0 then
    { s with wear := { s.wear with downFrom := tabSet (fun _ => 0) s.wear.downFrom l (s.clk.now + 1) } }
  else s

/-- Link `l` is back: its span is kept for a day. -/
def State.wearUp (s : State) (l : Nat) : State :=
  let from_ := tabGet (fun _ => 0) s.wear.downFrom l
  if from_ = 0 then s
  else
    let s := s.wearDownJudge l
    let spans := ((tabGet (fun _ => []) s.wear.downs l).filter (fun x => decide (s.clk.now ≤ x.2 + 86400 * second))) ++ [(from_ - 1, s.clk.now)]
    { s with wear := { s.wear with
      downFrom := tabSet (fun _ => 0) s.wear.downFrom l 0, downs := tabSet (fun _ => []) s.wear.downs l spans } }

end Sys2Proof.Machine
end

