-- ==== Sys2Proof/Machine/Stadan.lean ====
section
/-! DEFINITION. The Stadan gate links: frames, slots, upstream status, and the driver boards that conform to them (*Stadan gate
link*). -/

namespace Sys2Proof.Machine

/-! ### Frames (R240, R241) -/

/-- Sub-steps of a slot of 200 timebase cycles (R240). -/
def slotLen : Nat := 6400

/-- The comma K28.5. -/
def comma : Byte := 0xBC#8

/-- The CRC of R241 over bytes 1–17. -/
def frameCrc (bs : List Byte) : Nat := crcBytesL 16 0x1021 bs 0xFFFF

/-- A frame of 20 bytes from its type, claim, sequence field and 13 payload bytes (Table 12.1). -/
def mkFrame (type claim seq : Nat) (payload : List Byte) : List Byte :=
  let b := BitVec.ofNat 8 type :: BitVec.ofNat 8 claim :: (bytesLE 2 seq ++ payload)
  comma :: (b ++ bytesBE 2 (frameCrc b))

/-- Whether 20 bytes received without a line error are a valid frame (R241). -/
def frameOk (bs : List Byte) : Bool :=
  decide (bs.length = 20) && decide (nth 0#8 bs 0 = comma) &&
    decide (natBE (bs.drop 18) = frameCrc ((bs.drop 1).take 17)) && decide ((nth 0#8 bs 1).toNat < 16)

/-- Bytes `i` to `i + n - 1` of a frame as a little-endian number. -/
def fieldLE (bs : List Byte) (i n : Nat) : Nat := natLE ((bs.drop i).take n)

/-! ### Links, threads and hold-off -/

/-- The thread that owns leg unit `g`: the owner of its slices, else the thread whose map names it. -/
def State.legThread (s : State) (g : Nat) : Option Nat :=
  if s.slOwner (3 * g) < 4 then some (s.slOwner (3 * g)) else (s.legPlace g).map (·.1)

/-- The thread of link `l`. -/
def State.linkThread (s : State) (l : Nat) : Option Nat := (s.linkLeg l).bind (fun g => s.legThread g)

/-- Whether a twin partner is present (R319, R320). -/
def State.partner (s : State) : Bool := s.rdB R.cwyStatus 26

/-- Health of a thread: h of R333 in a twin, else `STL_CLAIM.HEALTH` (R253). -/
def State.health (s : State) (n : Nat) : Nat :=
  if s.partner then s.rdF (R.cwyThrStatus n) 23 20 else s.rdF R.stlClaim 3 0

/-- Whether the device is silent on the links of thread `n` (R335). -/
def State.silent (s : State) (n : Nat) : Bool :=
  s.rdB (R.cwyThrStatus n) 26 || (s.partner && !s.rdB (R.cwyThrStatus n) 31 && s.rdB (R.cwyThrStatus n) 29)

/-- Twin state of thread `n`. -/
def State.thr (s : State) (n : Nat) : TwinThr := tabGet (fun _ => TwinThr.init) s.twin.thr n

/-- Whether a slot of thread `n` that starts now is silent: a decision made at this instant acts from the next slot on (R335). -/
def State.silentSlot (s : State) (n : Nat) : Bool :=
  match (s.thr n).silAt with
  | some x => if x.1 = s.clk.now then x.2 else s.silent n
  | none => s.silent n

/-- Whether this device is primary of thread `n` (R335): the only device, or the one that `PRIMARY` shows. -/
def State.primary (s : State) (n : Nat) : Bool := !s.partner || s.rdB (R.cwyThrStatus n) 27

/-- A role-addressed message for thread `n` is discarded and counted; it is kept for this fabric cycle, in which a change of role comes first
(R338). -/
def State.roleIgnore (s : State) (n : Nat) (m : (Nat × Nat × CanRx) ⊕ EthFrame) : State :=
  let c := s.clk.now / fabCycle
  let s := s.countUp R.cwyFwd 19 8 1
  { s with twin := { s.twin with ignored := s.twin.ignored.filter (fun x => x.cyc == c) ++ [⟨c, n, m⟩] } }

/-- Whether hold-off cause `c` holds (R248). -/
def State.held (s : State) (c : Nat) : Bool := tabGet (fun _ => false) s.holds c

/-- Whether any hold-off cause holds. -/
def State.anyHold (s : State) : Bool := s.held 1 || s.held 2 || s.held 3 || s.held 4

/-- The code sent: the highest cause in force (R248). -/
def State.holdCode (s : State) : Nat :=
  if s.held 4 then 4 else if s.held 3 then 3 else if s.held 2 then 2 else if s.held 1 then 1 else 0

/-- The leg-wide command that a link sends when its hold-off ends: the present override code of its leg unit (R248). -/
def State.stateAfterHold (s : State) (l : Nat) : State :=
  match s.linkLeg l with
  | some g => s.sendState g (s.leg g).ovr
  | none => s

/-- A hold-off cause begins or ends; `STL_CLAIM` and the links follow (R248). -/
def State.setHold (s : State) (c : Nat) (b : Bool) : State :=
  let was := s.anyHold
  let s := { s with holds := tabSet (fun _ => false) s.holds c b }
  let now := s.anyHold
  let s := (s.wrB R.stlClaim 8 now).wrF R.stlClaim 11 9 s.holdCode
  if now && !was then
    s.each (List.range 32) (fun s l =>
      if s.rdB (R.stlCfg l) 31 then
        (s.setLink l { s.link l with holdOn := true, holdSent := 0, state := [], stateAt := none, badRun := 0 }).wrB (R.stlStatus l) 3 true
      else s)
  else if was && !now then
    s.each (List.range 32) (fun s l =>
      if s.rdB (R.stlCfg l) 31 then
        ((s.setLink l { s.link l with holdOn := false }).wrB (R.stlStatus l) 3 false).stateAfterHold l
      else s)
  else s

/-- The claim of link `l` (R248, R253, R333). -/
def State.linkClaim (s : State) (l : Nat) : Nat :=
  if s.anyHold then 0
  else s.rdF R.stlClaim 7 4 * 16 + (match s.linkThread l with
    | some n => s.health n
    | none => s.rdF R.stlClaim 3 0)

/-! ### Configuration items (R251) -/

/-- Dead time of channel `c` of link `l`: `DT_R` for even channels, `DT_F` for odd. -/
def State.chanDead (s : State) (l c : Nat) : Nat :=
  match s.linkLeg l with
  | some g => if c % 2 = 0 then s.slDtR (3 * g + c / 2) else s.slDtF (3 * g + c / 2)
  | none => 0

/-- `MODE` and `FORBID` of the leg unit of link `l`. -/
def State.linkMode (s : State) (l : Nat) : Nat × Nat :=
  match s.linkLeg l with
  | some g => (b2n (s.legMode g == 1), s.legForbid g)
  | none => (0, 0)

/-- The 212 bytes over which `CFG_CRC` is computed (R251). -/
def State.cfgBytes (s : State) (l : Nat) : List Byte :=
  (List.range 48).flatMap (fun i => bytesLE 4 (s.rdN (R.stlProf l i))) ++
    (List.range 6).flatMap (fun c => bytesLE 3 (s.chanDead l c)) ++
    bytesLE 1 (s.linkMode l).1 ++ bytesLE 1 (s.linkMode l).2

/-- `CFG_CRC` of link `l` (R251). -/
def State.cfgCrc (s : State) (l : Nat) : Nat := crcBytesL 16 0x1021 (s.cfgBytes l) 0xFFFF

/-- Payload of `CONFIG` item `i` (Table 12.7). -/
def State.configPayload (s : State) (l i : Nat) : List Byte :=
  let p : Nat × Nat × List Byte :=
    if i < 48 then (0, i % 8 * 8 + i / 8, bytesLE 4 (s.rdN (R.stlProf l i)))
    else if i < 54 then (0x10, i - 48, bytesLE 4 (s.chanDead l (i - 48)))
    else (0x20, 0, bytesLE 1 (s.linkMode l).1 ++ bytesLE 1 (s.linkMode l).2 ++ [0#8, 0#8])
  BitVec.ofNat 8 p.1 :: BitVec.ofNat 8 p.2.1 :: (p.2.2 ++ bytesLE 7 0)

/-! ### Downstream slots (R243–R250) -/

/-- `EPOCH` payload of the slot that starts now (Table 12.6). -/
def State.epochPayload (s : State) (l : Nat) : List Byte :=
  bytesLE 5 ((s.tb / 32).toNat % 2 ^ 40) ++ bytesLE 3 (s.rdF (R.stlProp l) 23 0) ++ bytesLE 2 (s.rdF R.stlLead 15 0)
    ++ bytesLE 2 (s.cfgCrc l) ++ bytesLE 1 l

/-- Low 32 bits of the timebase value of an instant. -/
def State.tbLow (s : State) (t : Nat) : Nat := (s.tbOf t % (2 ^ 32 : Nat)).toNat

/-- `STATE` payload (Table 12.5). -/
def State.statePayload (s : State) (c : StateCmd) : List Byte :=
  bytesLE 1 (c.ovr + 8 * b2n c.chan) ++ bytesLE 1 c.mask ++ bytesLE 1 c.level ++ bytesLE 3 c.prof
    ++ bytesLE 4 (s.tbLow c.decide_) ++ bytesLE 3 0

/-- An edge entry (Table 12.4). -/
def State.edgeEntry (s : State) (e : Edge) : List Byte :=
  bytesLE 1 (b2n e.level * 128 + e.ch * 16 + e.prof * 2) ++ bytesLE 4 (s.tbLow e.at_)

/-- Whether an edge is eligible now (R243). -/
def State.edgeReady (s : State) (e : Edge) : Bool :=
  (e.elig || decide (e.at_ ≤ s.clk.now + s.rdF R.stlLead 15 0 * 32)) && decide (e.copies < 2)

/-- `EDGE_ELIGIBLE`: the edges of link `l` whose instant minus `LEAD` has come are eligible from now on (R243). -/
def State.edgeEligible (s : State) (l : Nat) : State :=
  let k := s.link l
  s.setLink l { k with edges := k.edges.map (fun e =>
    { e with elig := e.elig || decide (e.at_ ≤ s.clk.now + s.rdF R.stlLead 15 0 * 32) }) }

/-- The edges that an `EDGE` frame of this slot carries (R243). -/
def State.edgesToSend (s : State) (l : Nat) : List Edge := ((s.link l).edges.filter s.edgeReady).take 2

/-- The next `PROP` from the round trips of the last 1,000 slots (R264). -/
def State.propUpdate (s : State) (l : Nat) : State :=
  let k := s.link l
  let rts := k.rts.filter (fun x => decide (s.clk.now ≤ x.1 + 1000 * slotLen))
  let s := s.setLink l { k with rts := rts }
  if rts.isEmpty then s
  else
    let sum := rts.foldl (fun a x => a + x.2) (0 : Int)
    let n := rts.length
    let turn : Int := s.rdF (R.stlTurn l) 15 0
    let prop := divRound (sum - turn * n) (2 * n) + signedOf 16 (s.rdF (R.stlTrim l) 15 0)
    s.wrF (R.stlProp l) 23 0 (prop % (2 ^ 24 : Nat)).toNat

/-- Whether `PROP` of link `l` is above `PROP_MAX` (R264). -/
def State.propOver (s : State) (l : Nat) : Bool :=
  decide (s.rdF (R.stlCfg l) 15 0 * 32 < s.rdF (R.stlProp l) 23 0)

/-- The link sends a frame in this slot. -/
def State.sendFrame (s : State) (l type : Nat) (payload : List Byte) : State :=
  let seq := (s.tb / (slotLen : Nat)).toNat % 65536
  s.setLink l { s.link l with lastTx := mkFrame type (s.linkClaim l) seq payload }

/-- Send an `EPOCH` with the renewed `PROP` (R250, R264). -/
def State.sendEpoch (s : State) (l : Nat) (keepProp : Bool) : State :=
  let s := if keepProp then s else s.propUpdate l
  let s := s.setLink l { s.link l with epochDue := false, resume := false }
  s.sendFrame l 3 (s.epochPayload l)

/-- Send the next `CONFIG` item of the cycle (R251). -/
def State.sendConfig (s : State) (l : Nat) : State :=
  let i := (s.link l).config
  let s := s.sendFrame l 5 (s.configPayload l i)
  s.setLink l { s.link l with config := (i + 1) % 55 }

/-- Send an `EDGE` frame; the number of the next edge counts what is sent first; a copy sent later than R244 promises counts in `EDGE_DELAY`. -/
def State.sendEdges (s : State) (l : Nat) (es : List Edge) : State :=
  let k := s.link l
  let lead := s.rdF R.stlLead 15 0 * 32
  let late := (es.filter (fun e =>
    decide (e.at_ + (if e.copies = 0 then 32000 else 38400) ≤ s.clk.now + lead))).length
  let num := (es.head?.map (·.num)).getD 0
  let entries := es.flatMap s.edgeEntry
  let edges := (k.edges.map (fun e => if es.contains e then { e with copies := e.copies + 1 } else e)).filter
    (fun e => decide (e.copies < 2))
  let s := s.sendFrame l 1 (bytesLE 2 num ++ bytesLE 1 es.length ++ entries ++ bytesLE (5 * (2 - es.length)) 0)
  let s := s.setLink l { s.link l with edges := edges }
  let s := s.wrF (R.stlEdgeNum l) 15 0 (s.rdF (R.stlEdgeNum l) 15 0 + (es.filter (fun e => e.copies == 0)).length)
  s.countUp (R.stlCount0 l) 15 0 late

/-- The `STATE` command that the slot starting now carries: the first that has not been sent and reached the link before the slot, else the
first short of ten copies (R246). -/
def State.stateNext (s : State) (l : Nat) : Option StateCmd :=
  let q := (s.link l).state
  match q.find? (fun c => c.sent == 0 && decide (c.decide_ < s.clk.now)) with
  | some c => some c
  | none => q.find? (fun c => decide (0 < c.sent))

/-- What remains of a link's `STATE` commands once `c` goes out: a new command replaces those before it that have been sent, but a per-channel
command leaves other per-channel ones their copies; ten copies end a command (R246). -/
def stateAfter (c : StateCmd) (q : List StateCmd) : List StateCmd :=
  (q.filter (fun d => d == c || c.sent != 0 || d.sent == 0 || (c.chan && d.chan))).flatMap (fun d =>
    if d == c then (if c.sent + 1 < 10 then [{ c with sent := c.sent + 1 }] else []) else [d])

/-- Send `STATE` command `c`. -/
def State.sendStateFrame (s : State) (l : Nat) (c : StateCmd) : State :=
  let s := s.sendFrame l 2 (s.statePayload c)
  let k := s.link l
  let s := if c.sent = 0 then s.countUp (R.stlCount1 l) 15 0 1 else s
  s.setLink l { k with state := stateAfter c k.state, stateAt := if k.stateAt.isSome then k.stateAt else some s.clk.now }

/-- A link that sends no frame lets its edges pass; on a silent link they count as sent, so that both devices of a twin number alike
(R242, R335). Of the `STATE` commands only the last leg-wide one waits for the link. -/
def State.passEdges (s : State) (l : Nat) : State :=
  let k := s.link l
  let gone := k.edges.filter (fun e => decide (e.at_ ≤ s.clk.now))
  let s := s.setLink l { k with edges := k.edges.filter (fun e => !decide (e.at_ ≤ s.clk.now)),
                                state := ((k.state.filter (fun c => !c.chan)).getLast?).toList }
  if s.rdB (R.stlCfg l) 31 && s.rdB (R.stlStatus l) 0 then
    s.wrF (R.stlEdgeNum l) 15 0 (s.rdF (R.stlEdgeNum l) 15 0 + (gone.filter (fun e => e.copies == 0)).length)
  else s

/-- Whether a link sends frames now: enabled, after the configuration load, not silent (R239, R335). -/
def State.linkSends (s : State) (l : Nat) : Bool :=
  s.rdB (R.stlCfg l) 31 && s.rdB (R.stlStatus l) 0 &&
    !(match s.linkThread l with
      | some n => s.silentSlot n
      | none => false)

/-- The kind that a slot of link `l` carries outside hold-off (R249). The flag says that an `EPOCH` was sent with a renewed `PROP`. -/
def State.slotOpen (s : State) (l slot : Nat) : State × Bool :=
  let k := s.link l
  let ovr := match s.linkLeg l with
    | some g => decide ((s.leg g).ovr ≠ 0)
    | none => false
  let es := if ovr then [] else s.edgesToSend l
  match s.stateNext l with
  | some c => (s.sendStateFrame l c, false)
  | none =>
    if k.epochDue then (s.sendEpoch l false, true)
    else if !es.isEmpty then (s.sendEdges l es, false)
    else match k.cont.filter (fun c => decide (c.decide_ < s.clk.now) && slot % 2 == 0) with
      | some c => (s.sendFrame l 2 (s.statePayload c), false)
      | none => if slot % 8 = 7 then (s.sendConfig l, false) else (s.sendFrame l 0 (bytesLE 13 0), false)

/-- The kind that a slot of link `l` carries during hold-off (R248). -/
def State.slotHeld (s : State) (l slot : Nat) : State × Bool :=
  let k := s.link l
  if k.holdSent < 10 ∨ slot % 2 = 0 then
    let s := s.sendFrame l 4 (bytesLE 1 s.holdCode ++ bytesLE 12 0)
    (s.setLink l { s.link l with holdSent := k.holdSent + 1 }, false)
  else if k.epochDue then (s.sendEpoch l false, true)
  else (s.sendConfig l, false)

/-- `STADAN_SLOT`: the slot of link `l` that starts now, at a timebase cycle 200k, carries the first kind that has something to send (R240,
R248, R249). It carries one frame: the command does nothing within a slot, and nothing twice. -/
def State.stadanSlot (s : State) (l : Nat) : State × Bool :=
  if s.tb % (slotLen : Nat) ≠ 0 ∨ (s.link l).slotAt = some s.clk.now then (s, false)
  else
    let slot := (s.tb / (slotLen : Nat)).toNat
    let k := s.link l
    let s := s.setLink l { k with slotAt := some s.clk.now, epochDue := k.epochDue || slot % 1000 == 0 }
    let s : State := match s.linkLeg l with
      | some g => s.planLeg g
      | none => s
    if !s.linkSends l then
      let s := s.passEdges l
      (s.setLink l { s.link l with lastTx := [], resume := s.rdB (R.stlStatus l) 0 && (s.rdB (R.stlCfg l) 31) }, false)
    else if (s.link l).resume then (s.sendEpoch l true, false)
    else if (s.link l).holdOn then s.slotHeld l slot
    else s.slotOpen l slot

/-- A per-channel turn-off reaches link `l` (R245, R303); channels not masked carry `PROF_OFF`. -/
def State.sendChanOff (s : State) (l mask prof : Nat) : State :=
  let off := s.rdF (R.stlCfg l) 29 27
  let profs := (List.range 6).foldl (fun a c => a + (if natBit mask c then prof else off) * 8 ^ c) 0
  let ovr := match s.linkLeg l with
    | some g => (s.leg g).ovr
    | none => 0
  s.queueState l ⟨ovr, true, mask, 0, profs, s.clk.now, 0⟩

/-! ### Upstream frames (R264, R266) -/

/-- Capture a valid upstream frame whose comma's first bit arrived at instant `at_` into the registers of link `l` (R264, R266). -/
def State.upCapture (s : State) (l at_ : Nat) (bs : List Byte) : State :=
  let s := s.wr (R.stlUp0 l) (wordN (fieldLE bs 5 4))
  let s := s.wr (R.stlUp1 l) (wordN (fieldLE bs 9 4))
  let s := s.wr (R.stlUp2 l) (wordN (fieldLE bs 13 4))
  let echo := fieldLE bs 3 2
  let s := s.wr (R.stlUp3 l) (wordN (echo * 65536 + fieldLE bs 2 1 * 256 + fieldLE bs 17 1))
  let s := s.wrF (R.stlTurn l) 15 0 (fieldLE bs 12 2)
  let b5 := fieldLE bs 5 1
  let b6 := fieldLE bs 6 1
  let b7 := fieldLE bs 7 1
  let s := s.wrB (R.stlStatus l) 7 true
  let s := s.wrB (R.stlStatus l) 6 (natBit b5 6)
  let s := s.wrF (R.stlStatus l) 5 4 (b6 / 64)
  let s := s.wrB (R.stlStatus l) 1 (natBit b7 6)
  let tAt := s.tbOf at_
  let kc := tAt / (slotLen : Nat)
  let ks := kc - (kc - (echo : Int)) % 65536
  let rt := tAt - ks * (slotLen : Nat)
  let k := s.link l
  s.setLink l { k with upAt := some s.clk.now, rts := k.rts ++ [(at_, rt)],
                       otherZero := if fieldLE bs 16 1 = 0 then k.otherZero + 1 else 0 }

/-- An invalid upstream frame is counted (R241). -/
def State.upInvalid (s : State) (l : Nat) : State := (s.countUp (R.stlCount0 l) 31 16 1).wearErr (32 + l)

/-- `driver status` as the frames of link `l` show it (R266): two in a row with a state other than `RUN` or a supply fault, out of
hold-off, counted from 2 µs after the first `STATE` frame. -/
def State.upStatusRun (s : State) (l : Nat) (bs : List Byte) : State :=
  let k := s.link l
  let counting := match k.stateAt with
    | some x => decide (x + 2 * usec ≤ s.clk.now) && !k.holdOn
    | none => false
  let bad := decide (fieldLE bs 6 1 / 64 ≠ 2) || decide (fieldLE bs 7 1 % 64 ≠ 0)
  s.setLink l { k with badRun := if counting && bad then k.badRun + 1 else 0 }

/-- Whether 16 slots have passed without a valid upstream frame (R266). -/
def State.upSilent (s : State) (l : Nat) : Bool :=
  let k := s.link l
  s.rdB (R.stlStatus l) 0 && (match k.upAt, k.runFrom with
    | some x, _ => decide (x + 16 * slotLen ≤ s.clk.now)
    | none, some x => decide (x + 16 * slotLen ≤ s.clk.now)
    | none, none => false)

/-! ### Driver boards (R252–R263, R265) -/

def State.board (s : State) (l : Nat) : BoardSt := tabGet (fun _ => BoardSt.init) s.boards l
def State.setBoard (s : State) (l : Nat) (b : BoardSt) : State :=
  { s with boards := tabSet (fun _ => BoardSt.init) s.boards l b }
def BoardSt.port (b : BoardSt) (p : Nat) : PortSt := tabGet (fun _ => PortSt.init) b.ports p
def BoardSt.setPort (b : BoardSt) (p : Nat) (v : PortSt) : BoardSt :=
  { b with ports := tabSet (fun _ => PortSt.init) b.ports p v }
def BoardSt.countDiscard (b : BoardSt) (n : Nat) : BoardSt := { b with discard := (b.discard + n) % 256 }

/-- Claim lapse time: 400 ns (R254). -/
def claimLapse : Nat := 12800

/-- The active port is judged (R254). -/
def BoardSt.judge (b : BoardSt) : Option Nat :=
  let p0 := b.port 0
  let p1 := b.port 1
  match p0.lapsed, p1.lapsed with
  | true, true => none
  | false, true => some 0
  | true, false => some 1
  | false, false =>
    if p1.claim < p0.claim then some 0
    else if p0.claim < p1.claim then some 1
    else match b.active with
      | some p => some p
      | none => some 0

/-- Both bits of `LATE` are noted (Table 12.8). -/
def BoardSt.noteLate (b : BoardSt) : BoardSt :=
  (b.setPort 0 { b.port 0 with late := true }).setPort 1 { b.port 1 with late := true }

/-- `TIME` minus the board's present time, as a signed 32-bit value (R257). -/
def BoardSt.ahead (b : BoardSt) (now time : Nat) : Int :=
  let p := b.port (b.active.getD 0)
  signedOf 32 (((time : Int) - ((now : Int) + p.offset)) % (2 ^ 32 : Nat)).toNat

/-- The timebase cycle of instant `x` on the copy of the active port, which executes edges (R252). -/
def BoardSt.cycle (b : BoardSt) (x : Nat) : Nat := ((((x : Int) + (b.port (b.active.getD 0)).offset) / tbCycle) % (2 ^ 40 : Nat)).toNat

/-- The instant at which accepted entry `e` executes, at instant `x` (R252). -/
def BoardSt.execAt (b : BoardSt) (x : Nat) (e : BoardEdge) : Nat := ((x : Int) + b.ahead x e.time).toNat

def BoardSt.channels (b : BoardSt) : BoardCh := ⟨b.levels, b.offAt, b.due, b.onCmd, b.profs⟩

/-- A channel turns off at instant `x`. -/
def BoardSt.off (b : BoardSt) (ch prof x : Nat) : BoardSt :=
  { b with
    levels := setNatBit b.levels ch false
    offAt := if natBit b.levels ch then tabSet (fun _ => 0) b.offAt ch x else b.offAt
    due := b.due.filter (fun d => d.1 != ch)
    profs := tabSet (fun _ => 0) b.profs ch prof }

/-- Dead time of a channel in the board's table. -/
def BoardSt.dead (b : BoardSt) (ch : Nat) : Nat := tabGet (fun _ => 0) b.cfg (48 + ch)

/-- The partner of a channel. -/
def partner (ch : Nat) : Nat := if ch % 2 = 0 then ch + 1 else ch - 1

/-- An on command under the interlock of R260 at instant `x`. The second of two on commands for a pair in one timebase cycle undoes the
first. -/
def BoardSt.on (b : BoardSt) (ch prof x : Nat) : BoardSt :=
  let p := partner ch
  let key := 3 * (b.cycle x + 1)
  let first := tabGet (fun _ => 0) b.onCmd p
  let offP := tabGet (fun _ => 0) b.offAt p
  let inDead := decide (0 < offP ∧ x < offP + b.dead ch)
  let code (m : Nat) : Nat := 4 * b2n (natBit m 0) + 2 * b2n (natBit m 2) + b2n (natBit m 4)
  let mode := tabGet (fun _ => 0) b.cfg 54
  let forbidden := decide (mode % 256 = 1) && natBit (mode / 256) (code (setNatBit b.levels ch true))
  let note (k : Nat) (b : BoardSt) : BoardSt := { b with onCmd := tabSet (fun _ => 0) b.onCmd ch (key + k) }
  if first / 3 * 3 = key then
    let b := if first = key + 2 then { b with levels := setNatBit b.levels p false } else b
    (note 0 b).countDiscard (if first = key then 1 else 2)
  else if natBit b.levels p || inDead || forbidden then (note 0 b).countDiscard 1
  else
    { note (if natBit b.levels ch then 1 else 2) b with
      levels := setNatBit b.levels ch true, profs := tabSet (fun _ => 0) b.profs ch prof }

/-- An entry of the active port's queue is accepted (R255, R257). -/
def BoardSt.accept (b : BoardSt) (now : Nat) (e : BoardEdge) : BoardSt :=
  let new := match b.nAcc with
    | none => true
    | some n => decide (1 ≤ (e.num + 65536 - n % 65536) % 65536) && decide ((e.num + 65536 - n % 65536) % 65536 ≤ 32767)
  if !new then b
  else
    let b := { b with nAcc := some e.num }
    let d := b.ahead now e.time
    let lead := (b.port (b.active.getD 0)).lead
    if natBit b.locked e.ch then b.countDiscard 1
    else if ((lead * 32 + 10 * usec : Nat) : Int) < d then b.countDiscard 1
    else if d ≤ 0 then
      if e.level then b.noteLate.countDiscard 1
      else (b.off e.ch e.prof now).noteLate.countDiscard 1
    else { b with acc := b.acc ++ [e] }

/-- Insert an entry in ascending number, counted from `n`. -/
def insertEdge (n : Nat) (e : BoardEdge) : List BoardEdge → List BoardEdge
  | [] => [e]
  | f :: fs => if (e.num + 65536 - n % 65536) % 65536 ≤ (f.num + 65536 - n % 65536) % 65536 then e :: f :: fs
    else f :: insertEdge n e fs

/-- Every channel off with profile 7, both queues empty (R262). -/
def BoardSt.allOff (b : BoardSt) (x : Nat) : BoardSt :=
  let b := (List.range 6).foldl (fun b c => b.off c 7 x) b
  let b := { b with acc := [], due := [] }
  (b.setPort 0 { b.port 0 with queue := [] }).setPort 1 { b.port 1 with queue := [] }

/-- The board enters a state of Table 12.10; `SAFE` also clears `SYNCED` (R261, R262). -/
def BoardSt.enter (b : BoardSt) (m : BoardMode) (x : Nat) : BoardSt :=
  let b := { b with mode := m }
  match m with
  | .run => b
  | .safe =>
    let b := b.allOff x
    (b.setPort 0 { b.port 0 with synced := false }).setPort 1 { b.port 1 with synced := false }
  | _ => b.allOff x

/-- Whether the board's table has been complete once since power-up (R263). -/
def BoardSt.complete (b : BoardSt) : Bool := (List.range 55).all (fun i => tabGet (fun _ => false) b.got i)

/-- The CRC of the board's table, as in R251. -/
def BoardSt.tableCrc (b : BoardSt) : Nat :=
  crcBytesL 16 0x1021 ((List.range 48).flatMap (fun i => bytesLE 4 (tabGet (fun _ => 0) b.cfg i)) ++
    (List.range 6).flatMap (fun c => bytesLE 3 (b.dead c)) ++ bytesLE 2 (tabGet (fun _ => 0) b.cfg 54)) 0xFFFF

/-- `CFG_MISMATCH` (R263). -/
def BoardSt.mismatch (b : BoardSt) : Bool :=
  match b.active with
  | some p => decide (b.tableCrc ≠ (b.port p).cfgCrc)
  | none => false

/-- The board leaves `SAFE` for `HOLD` when its active port is synchronised (Table 12.10). -/
def BoardSt.leaveSafe (b : BoardSt) (x : Nat) : BoardSt :=
  match b.mode, b.active with
  | .safe, some p => if (b.port p).synced then b.enter .hold x else b
  | _, _ => b

/-- A `STATE` or `HOLDOFF` frame that ends at instant `x` wins over the edges of its timebase cycle: they are discarded, and what has executed
of them is undone (R257). -/
def BoardSt.frameWins (b : BoardSt) (x : Nat) : BoardSt :=
  let here (e : BoardEdge) : Bool := b.cycle (b.execAt x e) == b.cycle x
  let lost := (b.acc.filter here).length
  let b := match b.undo with
    | some (c, v) =>
      if c = b.cycle x then { b with levels := v.levels, offAt := v.offAt, due := v.due, onCmd := v.onCmd, profs := v.profs, undo := none }
      else b
    | none => b
  { b with acc := b.acc.filter (fun e => !here e) }.countDiscard lost

/-- A port's entries for the channels of `mask` leave its queue (R259). -/
def BoardSt.dropQueued (b : BoardSt) (p mask : Nat) : BoardSt :=
  b.setPort p { b.port p with queue := (b.port p).queue.filter (fun e => !natBit mask e.ch) }

/-- A `STATE` payload acts (R258, R259): 13 bytes, at instant `x`. A copy of the frame last acted on leaves the turn-ons that wait as they
are. -/
def BoardSt.stateFrame (b : BoardSt) (pl : List Byte) (x : Nat) : BoardSt :=
  let b0 := fieldLE pl 0 1
  let ovr := b0 % 8
  let chan := natBit b0 3
  let mask := fieldLE pl 1 1 % 64
  let level := fieldLE pl 2 1 % 64
  let prof (c : Nat) : Nat := natBits (fieldLE pl 3 3) (3 * c + 2) (3 * c)
  let again := b.cmd == pl
  let b := { b.frameWins x with cmd := pl }
  if chan then
    let b := (List.range 6).foldl (fun b c => if natBit mask c then b.off c (prof c) x else b) b
    let b := (b.dropQueued 0 mask).dropQueued 1 mask
    { b with acc := b.acc.filter (fun e => !natBit mask e.ch), locked := Nat.lor b.locked mask }
  else if ovr = 0 then { b with locked := 0 }
  else
    let waits := if again then b.due else []
    let b := (b.dropQueued 0 0x3F).dropQueued 1 0x3F
    let b := { b with acc := [], due := [], locked := 0x3F }
    let b := (List.range 6).foldl (fun b c => if natBit mask c && !natBit level c then b.off c (prof c) x else b) b
    (List.range 6).foldl (fun b c =>
      if natBit mask c && natBit level c && !natBit b.levels c then
        match waits.find? (fun d => d.1 == c) with
        | some d => { b with due := b.due ++ [d] }
        | none =>
          let at_ := max x (tabGet (fun _ => 0) b.offAt (partner c)) + b.dead c
          { b with due := b.due ++ [(c, prof c, at_)] }
      else b) b

/-- Whether a `STATE` payload is valid: a per-channel frame has no masked level set (R259). -/
def stateValid (pl : List Byte) : Bool :=
  !natBit (fieldLE pl 0 1) 3 || decide (Nat.land (fieldLE pl 1 1 % 64) (fieldLE pl 2 1) = 0)

/-- A `STATE` frame from the active port: it moves the board from `HOLD` to `RUN` when the port is synchronised and a complete table
is held, and acts there (R259, R261, R263). -/
def BoardSt.takeState (b : BoardSt) (p : Nat) (pl : List Byte) (x : Nat) : BoardSt :=
  let b := if b.mode = .hold ∧ (b.port p).synced ∧ b.complete then b.enter .run x else b
  if b.mode = .run then b.stateFrame pl x else b

/-- A `HOLDOFF` from the active port: the board is in `HOLD`, all off, whatever its state was (Table 12.10). -/
def BoardSt.takeHold (b : BoardSt) (x : Nat) : BoardSt := { (b.frameWins x).enter .hold x with cmd := [] }

/-- The active port changes to `q` (R256). -/
def BoardSt.changePort (b : BoardSt) (q x : Nat) : BoardSt :=
  let b := { b with active := some q }
  let es := (b.port q).queue.foldr (insertEdge (b.nAcc.getD 0)) []
  let b := if b.mode = .run then es.foldl (fun b e => b.accept x e) b else b
  let b := b.setPort q { b.port q with queue := [] }
  let p := b.port q
  let b := if p.lastHold then b.takeHold x
    else match p.lastState with
      | some (t, pl) =>
        if x ≤ t + 10 * slotLen ∧ fieldLE pl 0 1 % 8 ≠ 0 then b.takeState q pl x else b
      | none => b
  b.leaveSafe x

/-- Judge the active port again and act on a change (R254, R256). -/
def BoardSt.rejudge (b : BoardSt) (x : Nat) : BoardSt :=
  let a := b.judge
  if a = b.active then b
  else match a with
    | none => { b with active := none }
    | some q => b.changePort q x

/-- The claim of port `p` lapses 400 ns after the end of its last valid frame, where that lies before instant `t` (R254). -/
def BoardSt.lapse (b : BoardSt) (p t : Nat) : BoardSt :=
  let pt := b.port p
  match pt.heardAt with
  | some x => if !pt.lapsed && decide (x + claimLapse < t) then (b.setPort p { pt with lapsed := true }).rejudge (x + claimLapse) else b
  | none => b

/-- Both ports' claims that lapse before instant `t` do so, the earlier first. -/
def BoardSt.lapses (b : BoardSt) (t : Nat) : BoardSt :=
  if (b.port 1).heardAt.getD 0 < (b.port 0).heardAt.getD 0 then (b.lapse 1 t).lapse 0 t else (b.lapse 0 t).lapse 1 t

/-- The entries of a valid `EDGE` payload (Tables 12.3, 12.4). -/
def edgeEntries (pl : List Byte) : List BoardEdge :=
  let num := fieldLE pl 0 2
  let n := fieldLE pl 2 1 % 4
  (List.range n).filterMap (fun i =>
    let b0 := fieldLE pl (3 + 5 * i) 1
    let ch := b0 / 16 % 8
    if ch < 6 then some ⟨(num + i) % 65536, ch, natBit b0 7, b0 / 2 % 8, fieldLE pl (4 + 5 * i) 4⟩ else none)

/-- An `EPOCH` on a port aligns its time copy (R252). `x` is the instant at which the first bit of the comma arrived. -/
def BoardSt.epoch (b : BoardSt) (p : Nat) (pl : List Byte) (x : Nat) : BoardSt :=
  let t := (fieldLE pl 0 5 * 32 + fieldLE pl 5 3 : Nat)
  let pt := b.port p
  let off : Int := (t : Int) - x
  let m : Int := (2 ^ 45 : Nat)
  let diff := (off - pt.offset) % m
  let slip := pt.synced && decide (32 < diff) && decide (diff < m - 32)
  b.setPort p { pt with synced := true, offset := off, lead := fieldLE pl 8 2, cfgCrc := fieldLE pl 10 2, late := slip }

/-- A `CONFIG` item from the active port is taken while every channel is off (R263). -/
def BoardSt.config (b : BoardSt) (pl : List Byte) : BoardSt :=
  if b.levels ≠ 0 then b
  else
    let ix := fieldLE pl 1 1
    let key : Option Nat := match fieldLE pl 0 1 / 16 with
      | 0 => if ix % 8 < 6 then some (8 * (ix % 8) + ix / 8 % 8) else none
      | 1 => if ix % 8 < 6 then some (48 + ix % 8) else none
      | 2 => some 54
      | _ => none
    let v := match fieldLE pl 0 1 / 16 with
      | 0 => fieldLE pl 2 4
      | 1 => fieldLE pl 2 4 % 2 ^ 20
      | _ => fieldLE pl 2 1 % 2 + 256 * fieldLE pl 3 1
    match key with
    | some k => { b with cfg := tabSet (fun _ => 0) b.cfg k v, got := tabSet (fun _ => false) b.got k true }
    | none => b

/-- Whether the content of a frame of a type the board takes is valid (R241, Tables 12.2–12.4, R259). -/
def downValid (bs : List Byte) : Bool :=
  let pl := (bs.drop 5).take 13
  frameOk bs && (match fieldLE bs 1 1 with
    | 1 => decide (fieldLE pl 2 1 % 4 = 1) || decide (fieldLE pl 2 1 % 4 = 2)
    | 2 => stateValid pl
    | _ => true)

/-- `DRIVER_FRAME`: a frame ends on port `p` of the board of link `l`; `lineOk` is false for a code or disparity error (R241,
R254–R263). -/
def State.driverFrame (s : State) (l p : Nat) (lineOk : Bool) (bs : List Byte) : State :=
  let x := s.clk.now
  let b := (s.board l).lapses x
  let pt := b.port p
  if !(lineOk && downValid bs) then s.setBoard l (b.setPort p { pt with rxErr := (pt.rxErr + 1) % 256 })
  else
    let type := fieldLE bs 1 1
    if 5 < type then s.setBoard l b
    else
      let pl := (bs.drop 5).take 13
      let pt := { pt with claim := fieldLE bs 2 1, heardAt := some x, lapsed := false, echo := fieldLE bs 3 2 }
      let pt := if type = 2 then { pt with lastState := some (x, pl), lastHold := false }
        else if type = 4 then { pt with lastHold := true } else pt
      let b := b.setPort p pt
      let b := if type = 3 then b.epoch p pl (x - slotLen) else b
      let was := b.active
      let b := if type = 1 ∧ b.mode = .run then
          let es := edgeEntries pl
          if was = some p ∧ b.judge = some p then es.foldl (fun b e => b.accept x e) b
          else b.setPort p { b.port p with queue := (b.port p).queue ++ es }
        else b
      let b := b.rejudge x
      let b := if b.active = some p ∧ was = some p then
          match type with
          | 2 => b.takeState p pl x
          | 4 => b.takeHold x
          | 5 => b.config pl
          | _ => b
        else if b.active = some p ∧ type = 5 then b.config pl
        else if b.active = some p ∧ type = 2 ∧ fieldLE pl 0 1 % 8 = 0 then b.takeState p pl x
        else b
      s.setBoard l (b.leaveSafe x)

/-- `DRIVER_CLAIM_LAPSE`: 400 ns after the end of a port's last valid frame (R254). -/
def State.driverLapse (s : State) (l p : Nat) : State := s.setBoard l ((s.board l).lapse p (s.clk.now + 1))

/-- Insertion in the order of execution: by instant, offs first. -/
def BoardSt.insertDue (b : BoardSt) (x : Nat) (e : BoardEdge) : List BoardEdge → List BoardEdge
  | [] => [e]
  | f :: fs =>
    if b.execAt x e < b.execAt x f ∨ (b.execAt x e = b.execAt x f ∧ (!e.level || f.level) = true) then e :: f :: fs
    else f :: b.insertDue x e fs

/-- The state of the channels as the first edge of a timebase cycle executes, at instant `t`, is kept until the cycle's end (R257). -/
def BoardSt.keepUndo (b : BoardSt) (t : Nat) : BoardSt :=
  if b.undo.map (·.1) = some (b.cycle t) then b else { b with undo := some (b.cycle t, b.channels) }

/-- Accepted entry `e` executes at its own instant; `offs` are the turn-offs due with it. An on is discarded where an off of the same channel
has the same instant (R257). -/
def BoardSt.executeEdge (b : BoardSt) (t : Nat) (offs : List BoardEdge) (e : BoardEdge) : BoardSt :=
  let b := b.keepUndo t
  if !e.level then b.off e.ch e.prof t
  else if offs.any (fun f => f.ch == e.ch && f.time == e.time) then b.countDiscard 1
  else b.on e.ch e.prof t

/-- `DRIVER_EDGE_EXECUTE`: the edges and delayed turn-ons whose instant has come execute, each at its own instant, offs first (R257, R258,
R260). -/
def State.driverExecute (s : State) (l : Nat) : State :=
  let x := s.clk.now
  let b := (s.board l).lapses x
  if b.mode ≠ .run then s.setBoard l b
  else
    let ready := b.acc.filter (fun e => decide (b.ahead x e.time ≤ 0))
    let offs := ready.filter (fun e => !e.level)
    let b1 := { b with acc := b.acc.filter (fun e => decide (0 < b.ahead x e.time)) }
    let b1 := (ready.foldr (b.insertDue x) []).foldl (fun c e => c.executeEdge (b.execAt x e) offs e) b1
    let now := b1.due.filter (fun q => decide (q.2.2 ≤ x))
    let b1 := { b1 with due := b1.due.filter (fun q => decide (x < q.2.2)) }
    s.setBoard l (now.foldl (fun b q => b.on q.1 q.2.1 q.2.2) b1)

/-- Whether port `p` has heard no valid frame for 16 slots. -/
def BoardSt.portSilent (b : BoardSt) (p now : Nat) : Bool :=
  match (b.port p).heardAt with
  | some x => decide (x + 16 * slotLen ≤ now)
  | none => true

/-- `DRIVER_SILENCE`: no valid frame on any port for 16 slots (R261). -/
def State.driverSilence (s : State) (l : Nat) : State :=
  let b := s.board l
  if b.portSilent 0 s.clk.now && b.portSilent 1 s.clk.now then s.setBoard l (b.enter .safe s.clk.now) else s

/-- `PORT_SYNC_LOSS`: a port silent for 16 slots loses `SYNCED` (R252). -/
def State.portSyncLoss (s : State) (l p : Nat) : State :=
  let b := s.board l
  if b.portSilent p s.clk.now then s.setBoard l (b.setPort p { b.port p with synced := false }) else s

/-- `DRIVER_GATE_FAULT`: the gate supply of a channel is lost (R261). -/
def State.driverGateFault (s : State) (l ch : Nat) : State :=
  let b := s.board l
  s.setBoard l ({ b with supply := setNatBit b.supply ch true }.enter .fault s.clk.now)

/-- `DRIVER_GATE_SUPPLY_RETURN`: the supply of a channel returns; with none missing the board leaves `FAULT` for `HOLD` (R261). -/
def State.driverGateReturn (s : State) (l ch : Nat) : State :=
  let b := s.board l
  let b := { b with supply := setNatBit b.supply ch false }
  s.setBoard l (if b.mode = .fault ∧ b.supply = 0 then b.enter .hold s.clk.now else b)

/-- `DRIVER_POWER_UP`: the board starts in `SAFE` (R261). -/
def State.driverPowerUp (s : State) (l : Nat) : State := s.setBoard l BoardSt.init

/-- The turnaround of the board of link `l`, within the bounds of R265 (log 14). -/
def boardTurn (l : Nat) : Nat := 3200 + Config.driverTurn l % 28801

def BoardMode.code : BoardMode → Nat
  | .safe => 0
  | .hold => 1
  | .run => 2
  | .fault => 3

/-- `DRIVER_STATUS_SEND`: the `STATUS` frame of Table 12.8 with the detection bits, their instant and the temperature as the board
has them (R265). -/
def State.driverStatus (s : State) (l p desat desatTs temp : Nat) : State :=
  let b := s.board l
  let pt := b.port p
  let other := b.port (1 - p)
  let b5 := b.levels + 64 * b2n (b.active == some p) + 128 * b2n pt.synced
  let b6 := desat % 64 + 64 * b.mode.code
  let b7 := b.supply + 64 * b2n b.mismatch + 128 * b2n pt.late
  let claim := match b.active with
    | some a => (b.port a).claim
    | none => 0
  let pl := bytesLE 1 b5 ++ bytesLE 1 b6 ++ bytesLE 1 b7 ++ bytesLE 4 desatTs ++ bytesLE 2 (boardTurn l) ++ bytesLE 1 pt.rxErr
    ++ bytesLE 1 b.discard ++ bytesLE 1 (if other.heardAt.isSome then other.claim else 0) ++ bytesLE 1 temp
  s.setBoard l (b.setPort p { pt with sent := mkFrame 8 claim pt.echo pl })

end Sys2Proof.Machine
end

