-- ==== Sys2Proof/Machine/Can.lean ====
section
/-! DEFINITION. The CAN FD controllers: transmit buffers, reception, filters, errors, bus-off, sleep and wake (*CAN FD
controllers*). -/

namespace Sys2Proof.Machine

def State.can (s : State) (k : Nat) : CanSt := tabGet (fun _ => CanSt.init) s.cans k
def State.setCan (s : State) (k : Nat) (c : CanSt) : State :=
  { s with cans := tabSet (fun _ => CanSt.init) s.cans k c }

def State.canEn (s : State) (k : Nat) : Bool := s.rdB (R.canCfg k) 31
def State.canMode (s : State) (k : Nat) : Nat := s.rdF (R.canCfg k) 30 29
/-- State of controller `k`: 0 error active, 1 error passive, 2 bus-off, 3 sleep. -/
def State.canState (s : State) (k : Nat) : Nat := s.rdF (R.canStatus k) 14 13
def State.canTec (s : State) (k : Nat) : Nat := s.rdF (R.canStatus k) 31 23
def State.canRec (s : State) (k : Nat) : Nat := s.rdF (R.canStatus k) 22 15
def State.canPending (s : State) (k b : Nat) : Bool := s.rdB (R.canTxreq k) b

/-- Whether buffer 0 of controller `k` is reserved for the pitch request, and by which thread (R390). -/
def State.canReserved (s : State) (k : Nat) : Option Nat :=
  (List.range 4).find? (fun n => s.rdB (R.protThrChop n) 30 && s.rdF (R.protThrChop n) 29 28 == k)

/-- An event of controller `k` and the interrupt bit it sets. -/
def State.canIrqSet (s : State) (k bit : Nat) : State := (s.raise (R.canIrq k) bit).post (103 + k) bit

/-- The counter `CAN_k_TSC` at an instant (R398): one step per `TS_PRESC` + 1 CAN clocks, from the release of reset and anew from the load of
the configuration on. -/
def State.canTscAt (s : State) (k t : Nat) : Nat :=
  let c := s.can k
  (c.tscBase + (t - max s.clk.relAt c.tscFrom) / canCycle / (s.rdF (R.canCfg k) 3 0 + 1)) % 2 ^ 32

/-- The configuration load gives `TS_PRESC`, which was 0 before. -/
def State.canTscLoad (s : State) (k : Nat) : State :=
  s.setCan k { s.can k with tscBase := (s.clk.now - s.clk.relAt) / canCycle, tscFrom := s.clk.now }

/-- The running CAN clock cycle. -/
def State.canCyc (s : State) (k : Nat) : Nat := s.cycleOf (R.canTxreq k)

/-! ### Bit timing (R386, R388) -/

/-- The timing of a bit: CAN clocks of a quantum, quanta of a bit, the quantum at whose end it is sampled, and the jump width. -/
structure CanBit where
  pre : Nat
  len : Nat
  smp : Nat
  rjw : Nat

def State.canNominal (s : State) (k : Nat) : CanBit :=
  let f (hi lo : Nat) : Nat := s.rdF (R.canNbt k) hi lo + 1
  ⟨f 5 0, f 31 23, f 22 14, f 13 8⟩
def State.canData (s : State) (k : Nat) : CanBit :=
  let f (hi lo : Nat) : Nat := s.rdF (R.canDbt k) hi lo + 1
  ⟨f 3 0, f 29 24, f 21 16, f 13 8⟩

/-- Sub-steps from the start of a bit to its sample point (R386). -/
def CanBit.sampleLag (b : CanBit) : Nat := b.pre * b.smp * canCycle

/-- The quantum as which a quantum `p` counts when an edge falls into it: quantum 1 stays; before the sample point the count steps back and
after it forward, by at most the jump width, which moves the following sample point by as much (R386). -/
def CanBit.resync (b : CanBit) (p : Nat) : Nat :=
  if p ≤ 1 then p
  else if p ≤ b.smp then p - min (p - 1) b.rjw
  else
    let q := p + min (b.len + 1 - p) b.rjw
    if b.len < q then 1 else q

/-- The value of a bit from its samples: the majority of three with `TRIPLE`, at the sample point and the two quanta before it (R388). -/
def canBitOf (triple a b c : Bool) : Bool := if triple then (a && b) || (a && c) || (b && c) else c

/-- The bits that a receiver reads from the levels of successive quanta (recessive true), the first being quantum `p` and the two levels
before it `a` and `b`; only an edge to dominant synchronises (R386, R388). -/
def CanBit.read (t : CanBit) (triple : Bool) : Nat → Bool → Bool → List Bool → List Bool
  | _, _, _, [] => []
  | p, a, b, c :: cs =>
    let p := if b && !c then t.resync p else p
    let rest := CanBit.read t triple (if p = t.len then 1 else p + 1) b c cs
    if p = t.smp then canBitOf triple a b c :: rest else rest

/-- The bits of the nominal phase after a hard synchronisation, which restarts quantum 1 (R386, R388). -/
def State.canReadBits (s : State) (k : Nat) (levels : List Bool) : List Bool :=
  (s.canNominal k).read (s.rdB (R.canCfg k) 27) 1 false false levels

/-- The stamp of a frame whose start of frame begins at `sof`: the counter at the sample point of that bit (R398). -/
def State.canStampAt (s : State) (k sof : Nat) : Nat := s.canTscAt k (sof + (s.canNominal k).sampleLag)

/-! ### Transmit buffers (R389–R393) -/

/-- Buffer `b` ends with a result (R389, R391–R393). -/
def State.canEnd (s : State) (k b result : Nat) : State :=
  let s := s.wrB (R.canTxreq k) b false
  let s := s.wrF (R.canTxbStat k b) 31 28 result
  s.canIrqSet k b

/-- Buffer `b` becomes pending (R389). -/
def State.canPend (s : State) (k b : Nat) : State :=
  if s.canPending k b then s
  else
    let s := s.wrB (R.canTxreq k) b true
    let s := (s.wrF (R.canTxbStat k b) 31 28 1).wrF (R.canTxbStat k b) 7 0 0
    let s := s.wrB (R.canTxbStat k b) 27 false
    if bitOf (s.rd (R.canTxbWord k b 0)) 31 && !s.rdB (R.canCfg k) 24 then s.canEnd k b 4 else s

/-- A core names the reserved buffer 0: ignored, with `FOREIGN` (R390). -/
def State.canForeign (s : State) (k : Nat) : State := s.raise (R.canTxbStat k 0) 25

/-- A write asks for buffer `b`; an abort of the same buffer in the same cycle wins (R389, R392). -/
def State.canRequest (s : State) (k b : Nat) : State :=
  let c := s.can k
  let cyc := s.canCyc k
  if c.abts.contains (b, cyc) then s
  else if s.canPending k b then s
  else (s.setCan k { c with reqs := c.reqs.filter (fun r => r.2.1 == cyc) ++ [(b, cyc, s.rd (R.canTxbStat k b))] }).canPend k b

/-- `TX_REQ` by a write naming the buffers of `mask` (R389, R390). -/
def State.canTxReq (s : State) (k mask : Nat) : State :=
  s.each [0, 1, 2] (fun s b =>
    if natBit mask b then
      if b = 0 ∧ (s.canReserved k).isSome then s.canForeign k else s.canRequest k b
    else s)

/-- Abort of one buffer (R392): one that this cycle's request made pending is idle again, and one whose frame became valid in this cycle is
done, with `ABORT_LATE`. -/
def State.canAbortBuf (s : State) (k b : Nat) : State :=
  let c := s.can k
  let cyc := s.canCyc k
  let s := s.setCan k { c with abts := c.abts.filter (fun a => a.2 == cyc) ++ [(b, cyc)] }
  if !s.canPending k b then
    (if c.okAt = some (b, cyc) then s.wrB (R.canTxbStat k b) 27 true else s)
  else if c.bus = some b then s.setCan k { s.can k with abort := true }
  else
    match c.reqs.find? (fun r => r.1 == b && r.2.1 == cyc) with
    | some r => (s.wrB (R.canTxreq k) b false).wr (R.canTxbStat k b) r.2.2
    | none => s.canEnd k b 3

/-- `TX_ABORT` naming the buffers of `mask` (R390, R392). -/
def State.canTxAbort (s : State) (k mask : Nat) : State :=
  s.each [0, 1, 2] (fun s b =>
    if natBit mask b then
      if b = 0 ∧ (s.canReserved k).isSome then s.canForeign k else s.canAbortBuf k b
    else s)

/-- A core writes word `i` of buffer `b` (R389, R390). -/
def State.canWriteWord (s : State) (k b i : Nat) (w : Word) : State :=
  if b = 0 ∧ (s.canReserved k).isSome then s.canForeign k
  else if s.canPending k b then s.raise (R.canTxbStat k b) 26
  else s.storeReg (R.canTxbWord k b i) w

/-- Arbitration field of a buffer as ISO 11898-1 ranks it (PRESUMED, log 33): base identifier, then RTR or SRR, IDE, extension, RTR. -/
def State.canRank (s : State) (k b : Nat) : Nat :=
  let w0 := s.rd (R.canTxbWord k b 0)
  let rtr := b2n (bitOf (s.rd (R.canTxbWord k b 1)) 4 && !bitOf w0 31)
  if bitOf w0 29 then
    fieldOf w0 28 18 * 2 ^ 21 + 2 ^ 20 + 2 ^ 19 + fieldOf w0 17 0 * 2 + rtr
  else fieldOf w0 10 0 * 2 ^ 21 + rtr * 2 ^ 20

/-- The buffer chosen at an arbitration opportunity (R390). -/
def State.canChoose (s : State) (k : Nat) : Option Nat :=
  let pend := [0, 1, 2].filter (fun b => s.canPending k b)
  if pend.contains 0 && (s.canReserved k).isSome then some 0
  else if s.rdB (R.canCfg k) 28 then pend.head?
  else pend.foldl (fun best b => match best with
    | none => some b
    | some a => if s.canRank k b < s.canRank k a then some b else some a) none

/-- Whether controller `k` may send: enabled, awake, neither bus-off nor listen-only (R385, R399, R403). -/
def State.canMaySend (s : State) (k : Nat) : Bool :=
  s.canEn k && decide (s.canState k < 2) && decide (s.canMode k ≠ 1)

/-- The buffer on the bus ends its attempt without success: not retried after an abort, under `ONE_SHOT` or at `RETRY_LIM`
(R391, R392). `count` says that the attempt counts as a retransmission. -/
def State.canAttemptFail (s : State) (k b : Nat) (count : Bool) : State :=
  let c := s.can k
  let res := b == 0 && (s.canReserved k).isSome
  let s := s.setCan k { c with bus := none, abort := false }
  let s := if count then s.countUp (R.canTxbStat k b) 7 0 1 else s
  let lim := s.rdF (R.canCfg k) 23 16
  if c.abort then s.canEnd k b 3
  else if res then s
  else if s.rdB (R.canCfg k) 25 then s.canEnd k b 4
  else if count && decide (0 < lim) && decide (lim ≤ s.rdF (R.canTxbStat k b) 7 0) then s.canEnd k b 4
  else s

/-- `CAN_ARBITRATION`: an opportunity; the frame's start is stamped, and the arbitration may be lost (R390, R391). -/
def State.canArbitrate (s : State) (k : Nat) (lost : Bool) : State :=
  if !s.canMaySend k || (s.can k).bus.isSome then s
  else match s.canChoose k with
    | none => s
    | some b =>
      let s := s.setCan k { s.can k with bus := some b, abort := false, sof := s.canStampAt k s.clk.now }
      if lost then s.canAttemptFail k b false else s

/-- The error state follows the counters (R402). -/
def State.canRestate (s : State) (k : Nat) : State :=
  let st := s.canState k
  if 2 ≤ st then s
  else if 255 < s.canTec k then
    let s := (s.wrF (R.canStatus k) 14 13 2).countUp (R.canCount k) 31 24 1
    let s := s.setCan k { s.can k with boDone := false, boAsk := false, bus := none, abort := false }
    s.canIrqSet k 19
  else if 128 ≤ s.canTec k ∨ 128 ≤ s.canRec k then
    if st = 1 then s else (s.wrF (R.canStatus k) 14 13 1).canIrqSet k 20
  else s.wrF (R.canStatus k) 14 13 0

/-- `CAN_TX_SUCCESS`: the frame on the bus becomes valid for the transmitter; `tdc` is the measured delay in CAN clocks (R387,
R392, R393, R398, R404). An FD frame of an error-passive controller went out with ESI recessive (R402). -/
def State.canSuccess (s : State) (k tdc : Nat) : State :=
  match (s.can k).bus with
  | none => s
  | some b =>
    let w0 := s.rd (R.canTxbWord k b 0)
    let late := (s.can k).abort
    let s := if s.rdB (R.canDbt k) 31 && bitOf w0 31 && bitOf w0 30 then
        let s := s.wrF (R.canTdc k) 6 0 (min tdc 127)
        if 127 ≤ tdc then s.raise (R.canStatus k) 3 else s
      else s
    let s := s.wr (R.canTxbTs k b) (wordN (s.can k).sof)
    let s := if bitOf w0 31 then s.wrB (R.canTxbWord k b 1) 8 (decide (s.canState k = 1)) else s
    let s := s.setCan k { s.can k with bus := none, abort := false, okAt := some (b, s.canCyc k) }
    let s := s.wrF (R.canStatus k) 31 23 (s.canTec k - 1)
    let s := (s.wrB (R.canStatus k) 12 false).wrF (R.canStatus k) 11 4 0
    let s := s.canRestate k
    let s := s.canEnd k b 2
    s.wrB (R.canTxbStat k b) 27 late

/-- `CAN_FRAME_ERROR` (R391, R402, R404). -/
def State.canError (s : State) (k : Nat) (e : CanErr) : State :=
  if !s.canEn k || decide (2 ≤ s.canState k) then s
  else
    let s := s.countUp (R.canCount k) 15 0 1
    if e.tx then
      match (s.can k).bus with
      | none => s
      | some b =>
        let passive := decide (s.canState k = 1)
        let up := if e.exempt || (e.ack && passive) then 0 else 8
        let s := s.wrF (R.canStatus k) 31 23 (min 511 (s.canTec k + up))
        let s := if e.ack then
            let n := s.rdF (R.canStatus k) 11 4
            let s := s.countUp (R.canStatus k) 11 4 1
            if n + 1 = 16 then (s.wrB (R.canStatus k) 12 true).canIrqSet k 18 else s
          else s
        let s := s.canAttemptFail k b true
        s.canRestate k
    else
      let up := if e.dominant then 8 else 1
      (s.wrF (R.canStatus k) 22 15 (min 255 (s.canRec k + up))).canRestate k

/-- Leave bus-off: counters 0, error active (R403). -/
def State.canLeaveBusOff (s : State) (k : Nat) : State :=
  let s := (s.wrF (R.canStatus k) 31 23 0).wrF (R.canStatus k) 22 15 0
  let s := s.setCan k { s.can k with boDone := false, boAsk := false }
  (s.wrF (R.canStatus k) 14 13 0).post (103 + k) 32

/-- `BUS_OFF_RECOVERY_COUNT`: 128 occurrences of 11 recessive bits have been counted (R403). -/
def State.canBoCount (s : State) (k : Nat) : State :=
  if s.canState k = 2 then
    if s.rdB (R.canCfg k) 26 || (s.can k).boAsk then s.canLeaveBusOff k
    else s.setCan k { s.can k with boDone := true }
  else s

/-- `BO_RECOVER`, ignored outside bus-off (R403). -/
def State.canBoRecover (s : State) (k : Nat) : State :=
  if s.canState k = 2 then
    if (s.can k).boDone then s.canLeaveBusOff k else s.setCan k { s.can k with boAsk := true }
  else s

/-! ### Reception (R394–R398) -/

def CanFrame.ide (f : CanFrame) : Bool := bitOf f.w0 29
def CanFrame.ident (f : CanFrame) : Nat := if f.ide then fieldOf f.w0 28 0 else fieldOf f.w0 10 0

/-- The 18 words of a frame's window before its status. -/
def CanFrame.words (f : CanFrame) : List Word :=
  f.w0 :: f.w1 :: (List.range 16).map (fun i => wordN (natLE (padTo 0#8 4 ((f.data.drop (4 * i)).take 4))))

/-- Status word of a received frame (Table 19.2). -/
def CanRx.stat (r : CanRx) : Nat :=
  2 ^ 31 + b2n r.overrun * 2 ^ 30 + b2n r.fwd * 2 ^ 29 + r.idx % 512 * 2 ^ 16 + r.tag % 8 * 2 ^ 12 + r.cnt % 256

/-- Write a receive window whose first word lies at `base`, in one piece; with no frame it reads 0. -/
def State.canWindow (s : State) (base : Nat) (r : Option CanRx) : State :=
  match r with
  | some r =>
    let ws := r.words ++ [wordN r.stat, wordN r.ts]
    (List.range 20).foldl (fun s i => s.wr (base + 4 * i) (nth 0#32 ws i)) s
  | none => (List.range 20).foldl (fun s i => s.wr (base + 4 * i) 0#32) s

/-- The class-A queue `j` of controller `k` takes a new content (R395). -/
def State.setRxa (s : State) (k j : Nat) (q : List CanRx) : State :=
  let c := s.can k
  let s := s.setCan k { c with rxa := tabSet (fun _ => []) c.rxa j q }
  let s := s.wrB (R.canIrq k) (8 + j) !q.isEmpty
  s.canWindow (R.canRxaWord k j 0) q.head?

def State.rxa (s : State) (k j : Nat) : List CanRx := tabGet (fun _ => []) (s.can k).rxa j

/-- The FIFO of controller `k` takes a new content (R396). -/
def State.setFifo (s : State) (k : Nat) (q : List CanRx) : State :=
  let s := s.setCan k { s.can k with fifo := q }
  let s := s.wrB (R.canIrq k) 16 !q.isEmpty
  let s := s.wrF (R.canFifoLevel k) 6 0 q.length
  s.canWindow (R.canFifoWord k 0) q.head?

/-- The first class-A register that matches a frame (R395). -/
def State.canMatchA (s : State) (k : Nat) (f : CanFrame) : Option Nat :=
  (List.range 8).find? (fun j =>
    let m := s.rd (R.canMatch k j)
    let mask := fieldOf (s.rd (R.canMask k j)) 28 0
    bitOf m 31 && (bitOf m 29 == f.ide) && decide (Nat.land f.ident mask = Nat.land (fieldOf m 28 0) mask))

/-- The endpoint bound to class-A buffer `j` of controller `k`, as a thread (R338). -/
def State.canEndpoint (s : State) (k j : Nat) : Option Nat :=
  ((List.range 16).find? (fun i =>
    let e := s.rd (R.cwyEp i)
    bitOf e 31 && fieldOf e 27 26 == 0 && fieldOf e 25 24 == k && fieldOf e 18 16 == j)).map
      (fun i => fieldOf (s.rd (R.cwyEp i)) 30 28)

/-- The outcome of the class-B filter list: accepted with index and tag, rejected, or rejected for an ECC error (R396). -/
inductive FltOut where
  | accept (idx tag : Nat)
  | reject
  | ecc
  deriving DecidableEq, Repr

/-- Judge a frame against `n` filter elements from element `i` at byte address `a` (R396). -/
def State.fltGo (s : State) (f : CanFrame) (nonmatch : Bool) : Nat → Nat → Nat → FltOut
  | 0, _, _ => if nonmatch then .accept 0x1FF 0 else .reject
  | n + 1, i, a =>
    let bad (x : Nat) : Bool := tabGet (fun _ => false) s.mem.bad (x / 8 * 8)
    if bad a || bad (a + 8) then .ecc
    else
      let w0 := s.memWord a
      let key := s.memWord (a + 4) % 2 ^ 29
      let care := s.memWord (a + 8) % 2 ^ 29
      let id := f.ident
      let hit := match natBits w0 28 27 with
        | 0 => decide (Nat.land (Nat.xor id key) care = 0)
        | 1 => decide (key ≤ id ∧ id ≤ key + care)
        | 2 => decide (id = key ∨ id = care)
        | _ => false
      if natBit w0 31 && (natBit w0 30 == f.ide) && hit then
        (if natBit w0 29 then .reject else .accept i (natBits w0 26 24))
      else s.fltGo f nonmatch n (i + 1) (a + 16)

/-- Put an accepted frame into class-A queue `j`: a full queue loses its newest (R395). -/
def rxaPush (q : List CanRx) (r : CanRx) : List CanRx :=
  if q.length < 4 then q ++ [r] else q.dropLast ++ [{ r with overrun := true }]

/-- A forwarded frame enters ahead of every frame accepted since the role change; in a full queue it displaces the newest frame
without `FORWARDED`, or the newest (R395). -/
def rxaForward (q : List CanRx) (r : CanRx) : List CanRx :=
  let full := decide (4 ≤ q.length)
  let q := if !full then q
    else if q.any (fun x => !x.fwd) then
      let fw := q.filter (fun x => x.fwd)
      fw ++ (q.filter (fun x => !x.fwd)).dropLast
    else q.dropLast
  q.filter (fun x => x.fwd) ++ [{ r with fwd := true, overrun := full }] ++ q.filter (fun x => !x.fwd)

/-- A frame of class A reaches its buffer. -/
def State.canPutA (s : State) (k j : Nat) (r : CanRx) : State := s.setRxa k j (rxaPush (s.rxa k j) { r with idx := j })

/-- A frame of class A reaches its buffer or, role-addressed to a device that is not primary, is discarded (R338, R395). -/
def State.canTakeA (s : State) (k j : Nat) (r : CanRx) : State :=
  match s.canEndpoint k j with
  | some n => if s.primary n then s.canPutA k j r else s.roleIgnore n (.inl (k, j, r))
  | none => s.canPutA k j r

/-- A frame of class B is filtered into the FIFO (R396). -/
def State.canTakeB (s : State) (k : Nat) (f : CanFrame) (r : CanRx) : State :=
  let cfg := s.rd (R.canFltCfg k)
  match s.fltGo f (bitOf cfg 31) (min 256 (fieldOf cfg 8 0)) 0 (0x08000000 + s.rdF (R.canFltBase k) 23 4 * 16) with
  | .reject => s
  | .ecc => s.canIrqSet k 22
  | .accept i tag =>
    let q := (s.can k).fifo
    if q.length < 64 then
      let s := s.setFifo k (q ++ [{ r with idx := i, tag := tag }])
      if q.isEmpty then s.setCan k { s.can k with entered := some (s.canCyc k) } else s
    else (s.canIrqSet k 17).countUp (R.canCount k) 23 16 1

/-- Whether controller `k` receives this frame: enabled, awake and on the bus; FD frames only with `FD_EN` (R385, R394, R399). -/
def State.canReceives (s : State) (k : Nat) (f : CanFrame) : Bool :=
  s.canEn k && decide (s.canState k < 2) && (!bitOf f.w0 31 || s.rdB (R.canCfg k) 24)

/-- A received frame is stamped and counted, and the receive error counter falls (R398, R402; ISO 11898-1 lets a counter above 127
take any value from 119 to 127: a free value). -/
def State.canRxCount (s : State) (k : Nat) : State :=
  let c := s.can k
  let s := s.setCan k { c with cnt := (c.cnt + 1) % 256 }
  let r := s.canRec k
  if 127 < r then ((s.wrF (R.canStatus k) 22 15 (119 + s.freshWord.toNat % 9)).tookFree).canRestate k
  else (s.wrF (R.canStatus k) 22 15 (r - 1)).canRestate k

/-- The stored form of a frame received with a stamp. -/
def State.canRxOf (s : State) (k stamp : Nat) (f : CanFrame) : CanRx :=
  ⟨f.words, false, false, 0, 0, (s.can k).cnt, stamp, s.clk.now⟩

/-- The class-A or class-B destination of a received frame that Ulile did not take (R394). -/
def State.canStore (s : State) (k stamp : Nat) (f : CanFrame) : State :=
  let r := s.canRxOf k stamp f
  match s.canMatchA k f with
  | some j => s.canTakeA k j r
  | none => s.canTakeB k f r

/-- Data bytes by DLC: a classical frame has at most 8, a remote frame none (R389). -/
def canBytes (fd rtr : Bool) (dlc : Nat) : Nat :=
  if fd then nth 64 [0, 1, 2, 3, 4, 5, 6, 7, 8, 12, 16, 20, 24, 32, 48] dlc else if rtr then 0 else min dlc 8

/-- The frame in transmit buffer `b`. -/
def State.canBufFrame (s : State) (k b : Nat) : CanFrame :=
  let w0 := s.rd (R.canTxbWord k b 0)
  let w1 := s.rd (R.canTxbWord k b 1)
  let bs := (List.range 16).flatMap (fun i => bytesLE 4 (s.rdN (R.canTxbWord k b (2 + i))))
  ⟨w0, w1, bs.take (canBytes (bitOf w0 31) (bitOf w1 4) (fieldOf w1 3 0))⟩

/-- `CAN_RX_POP` (R396): with the entry of a frame into an empty FIFO in the same cycle, the pop comes first (R397). -/
def State.canPop (s : State) (k : Nat) : State :=
  if (s.can k).entered = some (s.canCyc k) then s else s.setFifo k ((s.can k).fifo.drop 1)

/-- `CAN_RXA_REL` naming the buffers of `mask` (R395). -/
def State.canRelease (s : State) (k mask : Nat) : State :=
  s.each (List.range 8) (fun s j => if natBit mask j then s.setRxa k j ((s.rxa k j).drop 1) else s)

/-- `TSC_CAP` (R398). -/
def State.canCapture (s : State) (k : Nat) : State :=
  let n := s.netTime s.clk.now
  let s := s.wr (R.canTscAt k) (wordN (s.canTscAt k s.clk.now))
  (s.wr (R.canTscNtS k) (wordN (ntSec n))).wrF (R.canTscNtNs k) 29 0 (ntNs n)

/-! ### Sleep and wake (R399–R401) -/

/-- `SLEEP_REQ` (R399). -/
def State.canSleepReq (s : State) (k : Nat) : State :=
  if [0, 1, 2].any (fun b => s.canPending k b) then s.raise (R.canStatus k) 2
  else if s.canState k = 3 then s
  else s.setCan k { s.can k with sleep := true }

/-- `CAN_SLEEP_ENTRY`: after 11 recessive bits (R399, R401). -/
def State.canSleepEntry (s : State) (k : Nat) : State :=
  if (s.can k).sleep && (s.can k).bus.isNone then
    let s := s.setCan k { s.can k with sleep := false, wakeErrs := 0 }
    let s := s.wrF (R.canWakeStatus k) 31 30 0
    (s.wrF (R.canStatus k) 14 13 3).post (103 + k) 33
  else s

/-- The ball `CAN_k_STB`: high in sleep (R399, R401). -/
def State.canStbPin (s : State) (k : Nat) : Bool := s.canState k == 3

/-- The frame error counter of the matcher after what it saw: one more for an erroneous frame, one less for a correct classical one
(R400). -/
def State.wakeCount (s : State) (k : Nat) (w : WakeSeen) : Nat :=
  let n := (s.can k).wakeErrs
  match w with
  | .badFrame => n + 1
  | .frame f => if bitOf f.w0 31 then n else n - 1
  | .pattern .. => n

/-- Whether what was seen meets the configured condition, with its `WAKE_SRC` (R400). -/
def State.wakeMeets (s : State) (k : Nat) (w : WakeSeen) : Option (Nat × Nat) :=
  let cfg := s.rd (R.canWakeCfg k)
  if !bitOf cfg 31 then none
  else match w with
    | .pattern d1 r d2 =>
      let filt := s.rdF (R.canWufCtl k) 7 0 * 320
      let long := decide (filt ≤ d1 ∧ filt ≤ r ∧ filt ≤ d2) && decide (d1 + r + d2 ≤ s.rdF (R.canWufCtl k) 15 8 * msec)
      if !bitOf cfg 30 && long then some (1, 0) else none
    | .badFrame => if bitOf cfg 30 && decide (31 < s.wakeCount k w) then some (3, 0) else none
    | .frame f =>
      let mask := fieldOf (s.rd (R.canWufMask k)) 28 0
      let want := s.rdN (R.canWufData0 k) + 2 ^ 32 * s.rdN (R.canWufData1 k)
      let data := natLE (padTo 0#8 8 f.data)
      let ok := bitOf cfg 30 && !bitOf f.w0 31 && (bitOf cfg 29 == f.ide) &&
        decide (Nat.land f.ident mask = Nat.land (fieldOf cfg 28 0) mask) &&
        (decide (want = 0) || (decide (fieldOf f.w1 3 0 = s.rdF (R.canWufCtl k) 19 16) && decide (Nat.land data want ≠ 0)))
      if ok then some (2, b2n f.ide * 2 ^ 29 + f.ident) else none

/-- The controller wakes (R401): `STB` low, `WAKE_SRC` recorded. A wake during entry into sleep wins. -/
def State.canWakeUp (s : State) (k src id : Nat) : State :=
  let s := s.wr (R.canWakeStatus k) (wordN (src * 2 ^ 30 + id))
  let s := s.setCan k { s.can k with sleep := false }
  let s := if s.canState k = 3 then (s.wrF (R.canStatus k) 14 13 0).canRestate k else s
  s.canIrqSet k 21

/-- Whether the matcher of controller `k` listens: in sleep or entering it. -/
def State.canListening (s : State) (k : Nat) : Bool := decide (s.canState k = 3) || (s.can k).sleep

end Sys2Proof.Machine
end

