-- ==== Sys2Proof/Machine/Pmu.lean ====
section
/-! DEFINITION. The performance counters (R424–R427). What the cores do in a cycle is not in the model: it is the opaque
`Config.coreCycle`, and the counters count its events by the rules of this chapter (log 57). -/

namespace Sys2Proof.Machine

/-! ### Dispatch slots (R425) -/

/-- The identity of a dispatch slot, in the order of R425. -/
inductive SlotId where
  | kept | squashed | waitSync | waitData | waitUnit | noFetch | noDecode
  deriving DecidableEq, Repr

/-- The event code that counts an identity (Table 20.4). -/
def SlotId.event : SlotId → Nat
  | .kept => 0x10
  | .squashed => 0x11
  | .waitSync => 0x12
  | .waitData => 0x13
  | .waitUnit => 0x14
  | .noFetch => 0x15
  | .noDecode => 0x16

/-- The identity of a slot: the first of R425 that applies. With `room` false, 64 instructions are in flight and nothing is dispatched. -/
def slotId (x : Config.Slot) (room : Bool) : SlotId :=
  if x.ready && room then (if x.retires then .kept else .squashed)
  else if x.sync then .waitSync
  else if x.data then .waitData
  else if x.unit then .waitUnit
  else if x.fetch then .noFetch
  else .noDecode

/-- A dispatched instruction in flight: the core cycle in which it retires or is discarded, its identity, and the mode it was dispatched in. -/
structure Flight where
  due : Nat
  id : SlotId
  mode : Nat
  deriving DecidableEq, Repr

/-- The slots of a pair so far: each slot counted, with its mode; each identity counted, with its mode; and what is in flight. -/
structure Slots where
  slots : List Nat
  ids : List (SlotId × Nat)
  flight : List Flight
  deriving DecidableEq, Repr

def Slots.init : Slots := ⟨[], [], []⟩

/-- One slot of a pair in core cycle `k` and mode `m`: `KEPT` and `SQUASHED` are counted when the instruction ends, the others at once. -/
def Slots.slot (x : Slots) (k m : Nat) (w : Config.Slot) : Slots :=
  let i := slotId w (decide (x.flight.length < 64))
  let go := w.ready && decide (x.flight.length < 64)
  { x with
    slots := m :: x.slots
    ids := if go then x.ids else (i, m) :: x.ids
    flight := if go then ⟨k + w.ends, i, m⟩ :: x.flight else x.flight }

/-- The instructions that end by core cycle `k` are counted. -/
def Slots.ends (x : Slots) (k : Nat) : Slots :=
  { x with
    ids := (x.flight.filter (fun f => decide (f.due ≤ k))).map (fun f => (f.id, f.mode)) ++ x.ids
    flight := x.flight.filter (fun f => !decide (f.due ≤ k)) }

/-- The slots of pair `p` in the first `k` core cycles. -/
def slotsUpTo (p : Nat) : Nat → Slots
  | 0 => Slots.init
  | k + 1 =>
    let c := Config.coreCycle p k
    (((slotsUpTo p k).ends k).slot k c.mode c.slot0).slot k c.mode c.slot1

/-- Whether the `M`, `S` and `U` bits of a selection name a mode. -/
def modeNamed (w : Word) (m : Nat) : Bool := if m = 0 then bitOf w 29 else if m = 1 then bitOf w 28 else bitOf w 27

/-- Events other than those of the slots in core cycle `k`: one core cycle for code 1. -/
def cycleEvents (p e k : Nat) : Nat := if e = 1 then 1 else (Config.coreCycle p k).others e

/-- Sum of a count over the first `k` core cycles. -/
def sumTo (f : Nat → Nat) : Nat → Nat
  | 0 => 0
  | k + 1 => sumTo f k + f k

/-- Events `e` of Table 20.4 of pair `p` in its first `k` core cycles, in the modes that `w` names (R424). -/
def eventsTo (p : Nat) (w : Word) (e k : Nat) : Nat :=
  if e = 3 then ((slotsUpTo p k).slots.filter (modeNamed w)).length
  else if 0x10 ≤ e ∧ e ≤ 0x16 then ((slotsUpTo p k).ids.filter (fun x => x.1.event == e && modeNamed w x.2)).length
  else sumTo (fun j => if modeNamed w (Config.coreCycle p j).mode then cycleEvents p e j else 0) k

/-! ### Counters -/

/-- The events of Table 20.4 that count something. -/
def pmuEventCounts (e : Nat) : Bool :=
  decide (1 ≤ e ∧ e ≤ 3) || decide (0x10 ≤ e ∧ e ≤ 0x16) || decide (0x20 ≤ e ∧ e ≤ 0x25) || decide (0x30 ≤ e ∧ e ≤ 0x31)

/-- Whether counter `c` of pair `p` counts the overflows of its even partner (R426). -/
def State.pmuChained (s : State) (p c : Nat) : Bool := decide (c % 2 = 1) && s.rdB (R.pmuSel p c) 30

/-- Whether counter `c` of pair `p` counts its event now (R424, R427). -/
def State.pmuRuns (s : State) (p c : Nat) : Bool :=
  let w := s.rd (R.pmuSel p c)
  bitOf w 31 && !s.rdB R.pmuFreeze 0 && decide (fieldOf w 29 27 ≠ 0) && pmuEventCounts (fieldOf w 7 0) && !s.pmuChained p c
    && s.rdB (R.sysCpStatus p) 30

/-- The core cycle of 1 ns under way. -/
def State.coreCyc (s : State) : Nat := s.clk.now / 32

/-- The core cycle up to which the register of a counter holds its events. -/
def State.pmuSince (s : State) (p c : Nat) : Nat := tabGet (fun _ => 0) s.pmu.since (8 * p + c)
def State.pmuMark (s : State) (p c k : Nat) : State :=
  { s with pmu := { s.pmu with since := tabSet (fun _ => 0) s.pmu.since (8 * p + c) k } }

/-- The register of a counter takes the events up to core cycle `k`, if it counts. -/
def State.pmuHold (s : State) (p c k : Nat) : State :=
  let w := s.rd (R.pmuSel p c)
  let n := eventsTo p w (fieldOf w 7 0) k - eventsTo p w (fieldOf w 7 0) (s.pmuSince p c)
  (if s.pmuRuns p c then s.wr (R.pmuPcnt p c) (s.rd (R.pmuPcnt p c) + wordN (n % 2 ^ 32)) else s).pmuMark p c (max k (s.pmuSince p c))

/-- The counters of pair `p`. -/
def State.pmuHoldPair (s : State) (p k : Nat) : State := s.each (List.range 8) (fun s c => s.pmuHold p c k)

/-- All 40 counters, in one fabric cycle: with the events up to the cycle before (R427). -/
def State.pmuHoldAll (s : State) : State := s.each (List.range 5) (fun s p => s.pmuHoldPair p (s.clk.now / fabCycle * 2))

/-- Pair `p` runs or stops: its counters count from or up to here. -/
def State.setRunning (s : State) (p : Nat) (b : Bool) : State := (s.pmuHoldPair p s.coreCyc).wrB (R.sysCpStatus p) 30 b

/-- A read of a counter (R426): an odd one shows the value latched for it, if one is; an even one latches its chained partner. -/
def State.pmuRead (s : State) (p c : Nat) : State × Word :=
  match tabGet (fun _ => (none : Option Word)) s.pmu.latch (8 * p + c) with
  | some w => ({ s with pmu := { s.pmu with latch := tabSet (fun _ => none) s.pmu.latch (8 * p + c) none } }, w)
  | none =>
    let s := s.pmuHold p c s.coreCyc
    let w := s.rd (R.pmuPcnt p c)
    if decide (c % 2 = 0) && s.pmuChained p (c + 1) then
      let o := s.rd (R.pmuPcnt p (c + 1))
      ({ s with pmu := { s.pmu with latch := tabSet (fun _ => none) s.pmu.latch (8 * p + c + 1) (some o) } }, w)
    else (s, w)

/-- Software writes a counter: its value stands, and a count in the same cycle is lost (R426). -/
def State.pmuWrite (s : State) (p c : Nat) (w : Word) : State :=
  let a := R.pmuPcnt p c
  let s := (s.wr a w).pmuMark p c (s.coreCyc + 1)
  { s with pmu := { s.pmu with wrote := tabSet (fun _ => 0) s.pmu.wrote (8 * p + c) (s.cycleOf a + 1) } }

/-- Whether software wrote the counter in this cycle. -/
def State.pmuWrote (s : State) (p c : Nat) : Bool :=
  tabGet (fun _ => 0) s.pmu.wrote (8 * p + c) == s.cycleOf (R.pmuPcnt p c) + 1

/-- The overflow flag of a counter, and its interrupt (R426). -/
def State.pmuFlag (s : State) (p c : Nat) : State :=
  let s := s.raise (R.pmuOvf p) c
  if s.rdB (R.pmuIrqEn p) c then s.post 140 (8 * p + c) else s

/-- `PMU_OVERFLOW`: counter `c` of pair `p` passes from 0xFFFF_FFFF to 0 (R426). -/
def State.pmuOverflow (s : State) (p c : Nat) : State :=
  if !s.pmuRuns p c || s.pmuWrote p c then s
  else
    let s := (s.wr (R.pmuPcnt p c) 0#32).pmuMark p c (s.coreCyc + 1)
    if decide (c % 2 = 0) && s.pmuChained p (c + 1) then
      if !s.rdB (R.pmuSel p (c + 1)) 31 || s.pmuWrote p (c + 1) then s
      else
        let v := s.rd (R.pmuPcnt p (c + 1))
        let s := s.wr (R.pmuPcnt p (c + 1)) (v + 1#32)
        if v = 0xFFFFFFFF#32 then s.pmuFlag p (c + 1) else s
    else s.pmuFlag p c

/-- `PMU_FREEZE_WRITE`: 1 stops all counters; 0 resumes them, unless a cause fell in this same cycle (R427). -/
def State.pmuFreezeWrite (s : State) (w : Word) : State :=
  if bitOf w 0 then (if s.rdB R.pmuFreeze 0 then s else s.pmuHoldAll.wrB R.pmuFreeze 0 true)
  else if bitOf (s.raisedNow R.pmuFreeze) 0 then s
  else
    let k := s.clk.now / fabCycle * 2 + 2
    let s := if s.rdB R.pmuFreeze 0 then s.each (List.range 40) (fun s i => s.pmuMark (i / 8) (i % 8) k) else s
    (s.wrB R.pmuFreeze 0 false).wr R.pmuFreezeCause 0#32

end Sys2Proof.Machine
end

