-- ==== Sys2Proof/Machine/SdfCap.lean ====
section
/-! DEFINITION. Capture of the sigma-delta bitstreams: modulator clocks, bitstream monitor, CIC, protection filter and the
DC-link counts taken from it (R46–R54, R67, R68, R297). -/

namespace Sys2Proof.Machine

def State.chain (s : State) (i : Nat) : ChainSt := tabGet (fun _ => ChainSt.init) s.sdf.chains i
def State.setChain (s : State) (i : Nat) (c : ChainSt) : State :=
  { s with sdf := { s.sdf with chains := tabSet (fun _ => ChainSt.init) s.sdf.chains i c } }

/-! ### Configuration -/

def State.chEn (s : State) (i : Nat) : Bool := s.rdB (R.sdfChIn i) 31
def State.chThread (s : State) (i : Nat) : Nat := s.rdF (R.sdfChIn i) 26 24
def State.chClk (s : State) (i : Nat) : Nat := s.rdF (R.sdfChIn i) 29 27
def State.chInOfs (s : State) (i : Nat) : Int := signedOf 16 (s.rdF (R.sdfChIn i) 15 0)
def State.chDly (s : State) (i : Nat) : Nat := s.rdF (R.sdfChCic i) 31 24
def State.chK (s : State) (i : Nat) : Nat := s.rdF (R.sdfChCic i) 23 21
def State.chR (s : State) (i : Nat) : Nat := s.rdF (R.sdfChCic i) 20 12
def State.chOutSh (s : State) (i : Nat) : Int := signedOf 6 (s.rdF (R.sdfChCic i) 11 6)
def State.chSh (s : State) (i k : Nat) : Nat := s.rdF (R.sdfChCicSh i) (3 * k + 2) (3 * k)

/-- Period of a modulator clock by divisor code, in sub-steps (Table 3.1). -/
def modPeriod (div : Nat) : Nat :=
  match div with
  | 0 => 1280
  | 1 => 1600
  | 2 => 2000
  | _ => 3200

/-- Whether the variant has modulator clock `k` (R15): the words of an absent one in `SDF_CLK_CFG` read 0. -/
def State.clkHere (s : State) (k : Nat) : Bool := decide (k < 4) || s.dev != .v2N

/-- Period P of the clock of chain `i` (R46, R47). -/
def State.chP (s : State) (i : Nat) : Nat :=
  let k := s.chClk i
  modPeriod (s.rdF R.sdfClkCfg (2 * k + 1) (2 * k))

/-- The instant at which the bit of ball edge `n` of chain `i` is captured (R47). -/
def State.capAt (s : State) (i n : Nat) : Nat :=
  (s.clk.tbBase + ((n * s.chP i + 8 * s.rdF (R.sdfChCap i) 24 16 : Nat) : Int)).toNat

/-- Whether chain `i` captures: enabled, started and on a clock that the variant has. A chain that is not enabled captures nothing, its
protection filter included (DEDUCED from `RUN` of Table 3.3, log 82). -/
def State.capturing (s : State) (i : Nat) : Bool := s.chEn i && s.rdB (R.sdfChStatus i) 0 && s.clkHere (s.chClk i)

/-! ### CIC (R51–R53) -/

/-- A 36-bit register read as signed. -/
def sgn36 (x : Nat) : Int := signedOf 36 x

/-- Arithmetic shift right that truncates (R51). -/
def sar (x : Int) (n : Nat) : Int := x.fdiv (2 ^ n : Nat)

/-- One bit through the integrators; `sh` gives the shifts from stage `k` on. -/
def integGo (sh : Nat → Nat) : List Nat → Nat → Int → List Nat
  | [], _, _ => []
  | a :: as, k, x =>
    let r := ((a : Int) + sar x (sh k)) % (2 ^ 36 : Nat)
    r.toNat :: integGo sh as (k + 1) (sgn36 r.toNat)

/-- One output through the combs: their new delayed samples and the result. -/
def combGo (sh : Nat → Nat) : List Int → Nat → Int → List Int × Int
  | [], _, x => ([], x)
  | d :: ds, k, x =>
    let v := sar x (sh k)
    let r := combGo sh ds (k + 1) (sgn36 ((v - d) % (2 ^ 36 : Nat)).toNat)
    (v :: r.1, r.2)

/-- `OUT_SH`: the scaled word and whether it saturated (R53). -/
def outScale (x : Int) (sh : Int) : Int × Bool :=
  let y := if 0 ≤ sh then shrRound x sh.toNat else x * (2 ^ (-sh).toNat : Nat)
  (sat32 y, over32 y)

/-! ### Protection filter (R67, R68) -/

/-- Sums over windows of `r` neighbours. -/
def boxSums (r : Nat) : List Int → List Int
  | [] => []
  | x :: xs => (if r ≤ xs.length + 1 then [((x :: xs).take r).foldl (fun a b => a + b) 0] else []) ++ boxSums r xs

/-- `k` passes of a moving sum of length `r`. -/
def sincGo (r : Nat) : Nat → List Int → List Int
  | 0, l => l
  | k + 1, l => sincGo r k (boxSums r l)

/-- The sum S of a sinc of order `k` and length `r` over bits, newest first; bits before the first captured one count 0. -/
def sincSum (k r : Nat) (bits : List Int) : Int := ((sincGo r k (padTo 0 (k * (r - 1) + 1) bits)).head?).getD 0

def State.pfK (s : State) (i : Nat) : Nat := s.rdF (R.sdfChPf i) 29 28
def State.pfR (s : State) (i : Nat) : Nat := s.rdF (R.sdfChPf i) 21 16

/-- The condition of a level with thresholds `hi`, `lo` for the sum `x` (R67). -/
def pfCond (mode : Bool) (hi lo x : Int) (full : Nat) : Bool :=
  if mode then decide (hi * full < (x.natAbs : Int) * 32768)
  else decide (hi * full < x * 32768) || decide (x * 32768 < lo * full)

/-- The value of R68 in Q1.15. -/
def pfVal (x : Int) (full : Nat) : Int := if full = 0 then 0 else min 32767 (divRound (x * 32768) full)

/-- Signed protection filter value of chain `i`. -/
def State.pfValue (s : State) (i : Nat) : Int := signedOf 16 (s.rdF (R.sdfChPfVal i) 15 0)

/-! ### DC-link thresholds counted per bit (R297) -/

def State.dcEn (s : State) (n : Nat) : Bool := s.rdB (R.protThrDcCh n) 31
def State.dcChA (s : State) (n : Nat) : Nat := s.rdF (R.protThrDcCh n) 14 8
def State.dcChB (s : State) (n : Nat) : Nat := s.rdF (R.protThrDcCh n) 22 16
/-- `OV_1`–`OV_3` (k = 0–2) and `CHOP_REL` (k = 3), Q1.15. -/
def State.dcLevel (s : State) (n k : Nat) : Int :=
  match k with
  | 0 => signedOf 16 (s.rdF (R.protThrOva n) 15 0)
  | 1 => signedOf 16 (s.rdF (R.protThrOva n) 31 16)
  | 2 => signedOf 16 (s.rdF (R.protThrOvb n) 15 0)
  | _ => signedOf 16 (s.rdF (R.protThrOvb n) 31 16)

/-- The DC-link chains of thread `n` that are named and not stuck. -/
def State.dcChains (s : State) (n : Nat) : List Nat :=
  ([s.dcChA n, s.dcChB n].filter (fun i => decide (i < 112))).filter (fun i => !s.rdB (R.sdfChStatus i) 1)

/-- The larger of the filter values of the DC-link chains in use; none when every one is left out (R297). -/
def State.dcVal (s : State) (n : Nat) : Option Int :=
  (s.dcChains n).foldl (fun a i => match a with
    | none => some (s.pfValue i)
    | some v => some (max v (s.pfValue i))) none

def State.dc (s : State) (n : Nat) : DcSt := tabGet (fun _ => DcSt.init) s.prot.dcs n
def State.setDc (s : State) (n : Nat) (d : DcSt) : State :=
  { s with prot := { s.prot with dcs := tabSet (fun _ => DcSt.init) s.prot.dcs n d } }

/-- Whether the DC-link voltage of thread `n` is below a Q1.15 level; not so while no chain shows it. -/
def State.dcBelow (s : State) (n : Nat) (lev : Int) : Bool :=
  match s.dcVal n with
  | some v => decide (v < lev)
  | none => false

/-- `DISCH_SAFE` of thread `n`. -/
def State.dischSafe (s : State) (n : Nat) : Int := signedOf 16 (s.rdF (R.protThrDischSafe n) 15 0)

/-- Count the bit of chain `i` towards the thresholds of the threads whose link it measures, and show `PROT_n_VDC`. -/
def State.dcBit (s : State) (i : Nat) : State :=
  s.each [0, 1, 2, 3] (fun s n =>
    if s.dcEn n ∧ (s.dcChA n = i ∨ s.dcChB n = i) then
      let c := s.chain i
      let v := s.pfValue i
      let ov := [0, 1, 2].foldl (fun t k =>
        let key := 4 * n + k
        tabSet (fun _ => 0) t key (if s.dcLevel n k < v then min 65535 (tabGet (fun _ => 0) t key + 1) else 0)) c.ov
      let s := s.setChain i { c with ov := ov }
      let d := s.dc n
      let s := s.setDc n { d with safeAt := if s.dcBelow n (s.dischSafe n) then some (d.safeAt.getD s.clk.now) else none }
      match s.dcVal n with
      | some v =>
        let hi := signedOf 16 (s.rdF (R.protThrVdc n) 31 16)
        let s := s.wrF (R.protThrVdc n) 15 0 (wordOf v).toNat
        s.wrF (R.protThrVdc n) 31 16 (wordOf (max hi v)).toNat
      | none => s
    else s)

/-- Whether threshold `k` of thread `n` has been above for `DEB_TRIP` bits of a chain in use (R297). -/
def State.dcCrossed (s : State) (n k : Nat) : Bool :=
  (s.dcChains n).any (fun i =>
    decide (0 < s.rdF (R.sdfChPf i) 11 8) &&
    decide (s.rdF (R.sdfChPf i) 11 8 ≤ tabGet (fun _ => 0) (s.chain i).ov (4 * n + k)))

/-! ### A captured bit -/

/-- Bits kept for the phase delay and the protection filter. -/
def bitsKept : Nat := 384

/-- The bit captured for ball edge `n` enters chain `i`: monitor, phase delay, CIC and protection filter (R47–R51, R67). -/
def State.feedBit (s : State) (i : Nat) (raw : Bool) : State :=
  let c := s.chain i
  let lim := s.rdF (R.sdfChMon i) 25 16
  let run := if c.last = some raw then c.run + 1 else 1
  let since := if lim ≤ run then 0 else c.since + 1
  let b := raw != s.rdB (R.sdfChIn i) 30
  let bits := (b :: c.bits).take bitsKept
  let k := s.chK i
  let r := s.chR i
  let sh := fun j => s.chSh i j
  let x : Int := match bits[s.chDly i]? with
    | some true => 1
    | some false => -1
    | none => 0
  let integ := integGo sh (padTo 0 k c.integ) 0 x
  let emit := decide (0 < r) && decide (c.n % r + 1 = r)
  let cb := combGo sh (padTo 0 k c.comb) k (sgn36 (integ.getLast?.getD 0))
  let o := outScale cb.2 (s.chOutSh i)
  let keep := s.rdF (R.sdfChFir i) 8 0 + 64
  let cic := if emit then (⟨c.n / r, o.1, o.2, s.capAt i c.n + 256⟩ :: c.cic).take keep else c.cic
  let pfR := s.pfR i
  let sum := sincSum (s.pfK i) pfR (bits.map (fun q => if q then 1 else -1))
  let full := pfR ^ s.pfK i
  let mode := s.rdB (R.sdfChPf i) 12
  let lev (a : Nat) : Bool := s.rdB (R.sdfChPf i) 31 &&
    pfCond mode (signedOf 16 (s.rdF a 31 16)) (signedOf 16 (s.rdF a 15 0)) sum full
  let v := pfVal sum full
  let s := s.setChain i { c with
    n := c.n + 1, last := some raw, run := run, since := since, bits := bits, integ := integ
    comb := if emit then cb.1 else c.comb
    cic := cic
    trip := if lev (R.sdfChPfTrip i) then c.trip + 1 else 0
    warn := if lev (R.sdfChPfWarn i) then c.warn + 1 else 0
    hist := (v :: c.hist).take (if [0, 1, 2, 3].any (fun n => s.dcChA n == i || s.dcChB n == i) then 2600 else 1) }
  let s := s.wrF (R.sdfChPfVal i) 15 0 (wordOf v).toNat
  let s := if emit && o.2 then s.raise (R.sdfChStatus i) 3 else s
  s.dcBit i

/-- Number of the newest ball edge of chain `i` at or before a timebase value. -/
def State.edgeAt (s : State) (i : Nat) (T : Int) : Int := T / (s.chP i : Nat)

/-- The filter value of chain `i` at a past timebase value; the oldest one kept where the history is shorter. -/
def State.pfAt (s : State) (i : Nat) (T : Int) : Int :=
  let c := s.chain i
  let back := (c.n : Int) - 1 - s.edgeAt i T
  (c.hist[back.toNat]?).getD ((c.hist.getLast?).getD 0)

/-- The larger filter value of the DC-link chains of thread `n` at a past timebase value. -/
def State.dcAt (s : State) (n : Nat) (T : Int) : Int :=
  (s.dcChains n).foldl (fun a i => max a (s.pfAt i T)) (-32768)

/-- The least ball edge of chain `i` whose bit is captured after instant `x`. -/
def State.edgeAfter (s : State) (i x : Nat) : Nat :=
  ((((x : Int) - s.clk.tbBase - (8 * s.rdF (R.sdfChCap i) 24 16 : Nat)) / (s.chP i : Nat)) + 1).toNat

/-- A recovery of chain `i` at instant `x`: bits captured after it are clean, and `PRIMED` clears (R60). -/
def State.chainRecover (s : State) (i x : Nat) : State :=
  let c := s.chain i
  (s.setChain i { c with clean := max c.n (s.edgeAfter i x) }).wrB (R.sdfChStatus i) 7 false

end Sys2Proof.Machine
end

