-- ==== Sys2Proof/Machine/Prot.lean ====
section
/-! DEFINITION. The protection block and the safety monitor (*Protection and safety functions*). -/

namespace Sys2Proof.Machine

/-! ### Owners of the bridges -/

def State.vec (s : State) (u : Nat) : VecSt := tabGet (fun _ => VecSt.init) s.vecs u
def State.setVec (s : State) (u : Nat) (v : VecSt) : State :=
  { s with vecs := tabSet (fun _ => VecSt.init) s.vecs u v }

/-- State of vector unit `u` (Table 7.2) and of engine `n` (Table 8.1: 0 `OFF`, 1 `FORM`, 2 `LIMIT`). -/
def State.vecState (s : State) (u : Nat) : Nat := s.rdF (R.vecStatus u) 3 0
def State.gfeState (s : State) (n : Nat) : Nat := s.rdF (R.gfeStatus n) 1 0

def State.kept (s : State) (n : Nat) : KeepSt := tabGet (fun _ => KeepSt.init) s.keep n
def State.setKept (s : State) (n : Nat) (v : KeepSt) : State := { s with keep := tabSet (fun _ => KeepSt.init) s.keep n v }

/-- The copy kept for a late period of thread `n` takes a field of a register too: a change that is not the period's own (R39). -/
def State.keepField (s : State) (n a hi lo v : Nat) : State :=
  let k := s.kept n
  s.setKept n { k with regs := tabSet regReset k.regs a (withField (tabGet regReset k.regs a) hi lo v) }

/-- A flag is set by something that is no evaluation of the thread's period: a late period does not take it back (R39). -/
def State.keepRaise (s : State) (n a i : Nat) : State := (s.raise a i).keepField n a i i 1

/-- A write of `w` to a register of which the periods of thread `n` keep a copy: the bits that it changes change there too. -/
def State.storeKept (s : State) (n a : Nat) (w : Word) : State :=
  let t := s.storeReg a w
  let d := s.rd a ^^^ t.rd a
  let k := t.kept n
  t.setKept n { k with regs := tabSet regReset k.regs a ((tabGet regReset k.regs a &&& ~~~ d) ||| (t.rd a &&& d)) }

/-- A vector unit enters a state within the evaluation of its period. -/
def State.vecEnter (s : State) (u st : Nat) : State :=
  let s := s.setVec u ((s.vec u).entered (s.tbOf (s.seq (u / 2)).sampleAt))
  (s.wrF (R.vecStatus u) 3 0 st).post (34 + u) st

/-- A change of vector unit `u` by a command or a reaction: a late period does not undo it. -/
def State.vecBoth (s : State) (u : Nat) (f : VecSt → VecSt) : State :=
  let k := s.kept (u / 2)
  let v := f (tabGet (fun _ => VecSt.init) k.vecs u)
  (s.setKept (u / 2) { k with vecs := tabSet (fun _ => VecSt.init) k.vecs u v }).setVec u (f (s.vec u))

/-- A vector unit enters a state by a command or a reaction, which a late period does not undo. -/
def State.setVecState (s : State) (u st : Nat) : State :=
  let n := u / 2
  let s := (s.vecEnter u st).keepField n (R.vecStatus u) 3 0 st
  s.vecBoth u (fun v => v.entered s.tb)

/-- A `PULSE_BLOCK` reaction reaches `MSB_n` (R146, R294). -/
def State.vecBlock (s : State) (n : Nat) : State :=
  let u := 2 * n
  let st := s.vecState u
  if st = 6 then s.setVecState u 0
  else if 1 ≤ st ∧ st ≤ 5 then (s.keepRaise n (R.vecStatus u) 14).setVecState u 0
  else s

/-- An `ASC` reaction reaches `MSB_n` (R146, R147). -/
def State.vecAsc (s : State) (n : Nat) : State :=
  let u := 2 * n
  let st := s.vecState u
  let s := if 1 ≤ st ∧ st ≤ 5 then s.keepRaise n (R.vecStatus u) 14 else s
  if st = 7 then s else s.setVecState u 7

def State.gfe (s : State) (n : Nat) : GfeSt := tabGet (fun _ => GfeSt.init) s.gfes n
def State.setGfe (s : State) (n : Nat) (v : GfeSt) : State := { s with gfes := tabSet (fun _ => GfeSt.init) s.gfes n v }

/-- A change of engine `n` by a command or a reaction: a late period does not undo it. -/
def State.gfeBoth (s : State) (n : Nat) (f : GfeSt → GfeSt) : State :=
  let k := s.kept n
  (s.setGfe n (f (s.gfe n))).setKept n { k with gfe := f k.gfe }

/-- Engine `n` enters a state within its evaluation. -/
def State.gfeEnter (s : State) (n st : Nat) : State := (s.wrF (R.gfeStatus n) 1 0 st).post (42 + n) st

/-- A blend is dropped. -/
def GfeSt.noBlend (g : GfeSt) : GfeSt := { g with blend := 0, dD := 0, dQ := 0, exitT := 0 }

/-- Engine `n` goes to `OFF`, dropping any blend (R164). -/
def State.gfeOff (s : State) (n : Nat) : State :=
  if s.gfeState n = 0 then s
  else
    let a := R.gfeStatus n
    let s := ((s.gfeEnter n 0).wrB a 11 false).wrF (R.gfeBlend n) 26 16 0
    let s := ((s.keepField n a 1 0 0).keepField n a 11 11 0).keepField n (R.gfeBlend n) 26 16 0
    s.gfeBoth n GfeSt.noBlend

/-- A forced pulse block reaches `GSB_n` (R164). -/
def State.gfeForce (s : State) (n : Nat) : State :=
  if s.gfeState n = 0 then s else (s.gfeOff n).keepRaise n (R.gfeStatus n) 17

/-- A pulse block reaches the bridges of `mask` (bit 0 `MSB`, 1 `GSB`) of thread `n`. -/
def State.reachBlock (s : State) (n mask : Nat) : State :=
  let s := if natBit mask 0 then s.vecBlock n else s
  if natBit mask 1 then s.gfeForce n else s

/-! ### Requests and codes (R293) -/

def State.src (s : State) (x : Nat) : SrcSt := tabGet (fun _ => ⟨0, [], false⟩) s.prot.srcs x
def State.setSrc (s : State) (x : Nat) (v : SrcSt) : State :=
  { s with prot := { s.prot with srcs := tabSet (fun _ => ⟨0, [], false⟩) s.prot.srcs x v } }
def State.srcCfg (s : State) (x : Nat) : Word := s.rd (R.protSrcCfg x)
def State.srcLive (s : State) (x : Nat) : Bool := s.rdB (R.protSrcLive (x / 32)) (x % 32)
def State.srcLatched (s : State) (x : Nat) : Bool := s.rdB (R.protSrcLatch (x / 32)) (x % 32)

/-- The thread a source belongs to (R295). -/
def State.srcThread (s : State) (x : Nat) : Option Nat :=
  if x < 336 then (if s.chThread (x % 112) < 4 then some (s.chThread (x % 112)) else none)
  else if x < 376 then none
  else if x < 408 then s.linkThread (x - 376)
  else if x < 440 then s.linkThread (x - 408)
  else if x < 468 then some (x % 4)
  else none

/-- Whether a source acts on thread `n`, which the variant has (R3, R295). -/
def State.srcActs (s : State) (x n : Nat) : Bool :=
  let m := fieldOf (s.srcCfg x) 27 24
  s.threadHere n &&
    (if m ≠ 0 then natBit m n
    else match s.srcThread x with
      | some k => k == n
      | none => true)

/-- Whether a reaction of kind `kind` is held by some source for bridge `b` of thread `n`. -/
def State.srcHolds (s : State) (n b kind : Nat) : Bool :=
  s.prot.srcs.any (fun e => e.2.held == kind && s.srcActs e.1 n && bitOf (s.srcCfg e.1) (21 + b))

/-- The force of the safety monitor on thread `n`: 0 none, 1 `PULSE_BLOCK`, 2 `ASC`, 3 `DISCHARGE`. -/
def State.forceOf (s : State) (n : Nat) : Nat := s.rdF (R.smonForce n) 31 30

/-- Step of the discharge of thread `n`; 0: none runs. -/
def State.dischStep (s : State) (n : Nat) : Nat := s.rdF (R.protThrStatus n) 6 4

/-- An `ASC` request on `MSB_n` (rank 3). -/
def State.ascReq (s : State) (n : Nat) : Bool :=
  s.rdB (R.protThrStatus n) 12 || s.rdB (R.protThrStatus n) 15 || s.srcHolds n 0 2 || s.forceOf n == 2 ||
    (s.rdB (R.protThrStatus n) 3 && (s.dc n).coMsb == 2)

/-- A `PULSE_BLOCK` request on bridge `b` of thread `n` (rank 4). -/
def State.blockReq (s : State) (n b : Nat) : Bool :=
  let st := s.rd (R.protThrStatus n)
  s.srcHolds n b 1 || (decide (b ≠ 0) && s.srcHolds n b 2) ||
    (match b with
      | 0 => s.forceOf n == 1 || (bitOf st 3 && (s.dc n).coMsb == 1)
      | 1 => s.forceOf n == 1 || s.forceOf n == 2 || bitOf st 15 || (bitOf st 3 && (s.dc n).coGsb) || bitOf st 7 || bitOf st 8
      | _ => bitOf st 15 || bitOf st 8 || decide (s.dischStep n = 4))

/-- The `OV_3` trip of a bridge (rank 2). -/
def State.ov3Req (s : State) (n b : Nat) : Bool := decide (b < 2) && s.rdB (R.protThrStatus n) 11

/-- The chopper request (rank 5). -/
def State.chopReq (s : State) (n : Nat) : Bool := s.rdB (R.protThrStatus n) 13

/-- The code of the highest-ranked request at bridge `b` of thread `n` (Table 14.2). -/
def State.bridgeCode (s : State) (n b : Nat) : Nat :=
  if s.anyHold then 1
  else if s.ov3Req n b then 1
  else if b = 0 ∧ s.ascReq n then
    (match s.rdF (R.vecCfg (2 * n)) 20 19 with
      | 0 => 2
      | 1 => 3
      | _ => 4)
  else if s.blockReq n b then 1
  else if b = 2 ∧ (s.dc n).drop then 1
  else if b = 2 ∧ s.chopReq n then 5
  else 0

/-- Whether the protection block grants a start of bridge `b`: no request of rank 1–4 concerns it (R294). -/
def State.bridgeFree (s : State) (n b : Nat) : Bool :=
  !(s.anyHold || s.ov3Req n b || (b == 0 && s.ascReq n) || s.blockReq n b)

/-- Code 5 reaches the chopper leg of thread `n`, or leaves it (R299). -/
def State.chopMark (s : State) (n : Nat) : State :=
  let d := s.dc n
  let on := decide (s.bridgeCode n 2 = 5)
  if on = d.chopFrom.isSome then s
  else s.setDc n { d with chopFrom := if on then some s.clk.now else none, checked := false }

/-- The codes of thread `n` reach its leg units (R292, R293), at once: the 20 ns of R292 are a bound (log 76). -/
def State.applyThread (s : State) (n : Nat) : State :=
  (s.each (List.range 7) (fun s l => s.setOverride (s.legOf n l) (s.bridgeCode n (legBridge l)))).chopMark n

/-- Every leg unit takes its code: those of no thread carry 1 in hold-off. -/
def State.applyAll (s : State) : State :=
  let s := s.each [0, 1, 2, 3] (fun s n => s.applyThread n)
  s.each (List.range 42) (fun s g => if (s.legPlace g).isNone then s.setOverride g (b2n s.anyHold) else s)

/-! ### Records -/

/-- The first reaction after the last clear (R294, Table 14.9). -/
def State.noteFirst (s : State) (code : Nat) : State :=
  if s.rdB R.protFirst 31 then s
  else ((s.wrF R.protFirst 15 0 code).raise R.protFirst 31).wr R.protFirstTs (wordN (s.tbLow s.clk.now))

/-- A freeze cause of the performance counters, numbered as the bits of `PMU_FREEZE_ON` (R427). -/
def State.pmuCause (s : State) (k : Nat) : State :=
  if !s.rdB R.pmuFreezeOn k then s
  else if s.rdB R.pmuFreeze 0 then s.raise R.pmuFreeze 0
  else (s.pmuHoldAll.raise R.pmuFreeze 0).wrF R.pmuFreezeCause 3 0 (2 ^ k)

/-- Code of the DC-link record `k` of thread `n` in `PROT_FIRST`. -/
def dcCode (n k : Nat) : Nat := 0x200 + 16 * n + k

/-- A reaction of the DC-link functions is recorded. -/
def State.noteDc (s : State) (n k : Nat) : State :=
  ((s.noteFirst (dcCode n k)).post 87 (dcCode n k)).pmuCause 1

/-! ### Chopper (R298, R299) -/

/-- Code 5 is requested on `CHOP_n`. -/
def State.chopOn (s : State) (n : Nat) : State :=
  (s.wrB (R.protThrStatus n) 13 true).applyThread n

/-- The chopper request is withdrawn: code 1 for one fabric cycle, then the next request (R298). -/
def State.chopOff (s : State) (n : Nat) : State :=
  if s.chopReq n then
    let s := s.setDc n { s.dc n with drop := true }
    ((s.wrB (R.protThrStatus n) 13 false).applyThread n).soon (s.clk.now + fabCycle) (.chopEnd n)
  else s

/-- The fabric cycle of code 1 of a withdrawal is over. -/
def State.chopDropEnd (s : State) (n : Nat) : State := (s.setDc n { s.dc n with drop := false }).applyThread n

/-- The pitch-request frame is queued, as of instant `x`; in a twin by the primary only (R299, R339, R390). -/
def State.pitchQueue (s : State) (n x : Nat) : State :=
  if s.rdB (R.protThrChop n) 30 then
    let s := s.setDc n { s.dc n with pitchAt := some x }
    if s.primary n then s.canPend (s.rdF (R.protThrChop n) 29 28) 0 else s
  else s

/-- The torque clamp of thread `n` (R133, R299). -/
def State.setClamp (s : State) (n : Nat) (b : Bool) : State :=
  let s := s.setDc n { s.dc n with clampAt := if b then some ((s.dc n).clampAt.getD s.clk.now) else none }
  s.wrB (R.protThrStatus n) 14 b

/-! ### Supervised discharge (R312–R314) -/

/-- The vector unit leaves `DISCHARGE` for `OFF`, or for `ASC` while the speed is high (R314). -/
def State.dischVecEnd (s : State) (n : Nat) : State :=
  let u := 2 * n
  if s.vecState u = 8 || (s.vecState u == 5 && (s.vec u).wind) then
    let asc := !s.rdB (R.vecCtrl u) 1 && decide (s.rdS (R.vecDischAscSpeed u) ≤ ((s.vec u).omega.natAbs : Int))
    (s.setVecState u (if asc then 7 else 0)).vecBoth u (fun v => { v with dischEnd := asc })
  else s

/-- The discharge stops running; a forced one leaves a forced `PULSE_BLOCK` (R309, R314). -/
def State.dischStop (s : State) (n : Nat) : State :=
  let s := s.setDc n { s.dc n with disch := none }
  let s := (s.wrB (R.protThrStatus n) 7 false).wrF (R.protThrStatus n) 6 4 0
  let s := if s.forceOf n = 3 then s.wrF (R.smonForce n) 31 30 1 else s
  (s.chopOff n).applyThread n

/-- `DISCH_ABORT`: ends a written discharge and leaves the thread blocked (R312). -/
def State.dischAbort (s : State) (n : Nat) : State :=
  match (s.dc n).disch with
  | some .write =>
    let s := if s.vecState (2 * n) = 8 || (s.vecState (2 * n) == 5 && (s.vec (2 * n)).wind) then s.setVecState (2 * n) 0 else s
    (s.dischStop n).post 87 (0x600 + 16 * n + 8)
  | _ => s

/-- Whether the link of thread `n` has stayed below the safe level for 10 ms while a discharge runs, by the end of the present fabric cycle
(R314). -/
def State.dischOver (s : State) (n : Nat) : Bool :=
  (s.dc n).disch.isSome && (s.dc n).safeAt.any (fun x => decide ((x + 10 * msec) / fabCycle ≤ s.clk.now / fabCycle))

/-- `DISCH_SAFE`: below the safe level for 10 ms (R314). -/
def State.dischDone (s : State) (n : Nat) : State :=
  if s.dischOver n then
    let s := s.raise (R.protThrStatus n) 8
    let s := s.dischVecEnd n
    (s.dischStop n).post 87 (0x600 + 16 * n + 9)
  else s

/-- The discharge enters step `k`. -/
def State.dischEnter (s : State) (n k : Nat) : State :=
  let v := (s.dcVal n).getD 0
  let s := s.setDc n { s.dc n with stepAt := s.clk.now, vStart := if k = 3 then v else (s.dc n).vStart }
  let s := (s.wrF (R.protThrStatus n) 6 4 k).post 87 (0x600 + 16 * n + k)
  match k with
  | 2 => s.chopOn n
  | 3 => (s.chopOff n).applyThread n
  | 4 => ((s.raise (R.protThrStatus n) 9).noteDc n 6).applyThread n
  | _ => s.applyThread n

/-- A step of the discharge fails, and step `k` follows; the safe level reached in the same cycle ends the discharge as done (R314). -/
def State.dischFail (s : State) (n k : Nat) : State := if s.dischOver n then s.dischDone n else s.dischEnter n k

/-- A discharge of thread `n` starts, or the start is merged with the one that runs (R312, R313): merged with a source or a force, a written one
is no longer a write's to abort (DESIGN CHOICE, log 77). -/
def State.dischStart (s : State) (n : Nat) (by_ : DischBy) : State :=
  match (s.dc n).disch with
  | some b => if b = .write then s.setDc n { s.dc n with disch := some by_ } else s
  | none =>
    let s := s.setDc n { s.dc n with disch := some by_, vStart := (s.dcVal n).getD 0, stepAt := s.clk.now, safeAt := none }
    let s := (s.wrB (R.protThrStatus n) 7 true).wrF (R.protThrStatus n) 6 4 1
    let s := s.post 87 (0x600 + 16 * n + 1)
    let s := s.gfeForce n
    let s := if s.vecState (2 * n) = 8 then s else s.setVecState (2 * n) 8
    let chop := s.rdB (R.protThrChop n) 31 && !s.rdB (R.protThrStatus n) 10
    s.dischEnter n (if chop then 2 else 3)

/-- `DISCH_T1` (R313 step 2): once it has passed, the voltage is checked against V_s × `DISCH_K1`. -/
def State.dischT1 (s : State) (n : Nat) : State :=
  let d := s.dc n
  if s.dischStep n = 2 ∧ d.stepAt + s.rdF (R.protThrDisch0 n) 15 0 * msec ≤ s.clk.now then
    if d.vStart * s.rdF (R.protThrDisch0 n) 31 16 < (s.dcVal n).getD 0 * 32768 then s.dischFail n 3 else s
  else s

/-- `DISCH_T2` (R313 step 3): an interval ends. -/
def State.dischT2 (s : State) (n : Nat) : State :=
  let d := s.dc n
  if s.dischStep n = 3 ∧ d.stepAt + s.rdF (R.protThrDisch1 n) 15 0 * msec ≤ s.clk.now then
    let v := (s.dcVal n).getD 0
    if v * 32768 ≤ d.vStart * s.rdF (R.protThrDisch1 n) 31 16 then
      s.setDc n { d with vStart := v, stepAt := d.stepAt + s.rdF (R.protThrDisch1 n) 15 0 * msec }
    else s.dischFail n 4
  else s

/-! ### Chopper fault and DC-link thresholds (R299–R301) -/

/-- The chopper of thread `n` is declared faulty (R299). -/
def State.chopFault (s : State) (n : Nat) : State :=
  if s.rdB (R.protThrStatus n) 10 then s
  else
    let s := (s.raise (R.protThrStatus n) 10).noteDc n 1
    let s := (s.setClamp n true).pitchQueue n s.clk.now
    if s.dischStep n = 2 then s.dischFail n 3 else s

/-- A `PULSE_BLOCK` request on `CHOP_n` that meets the chopper request: the block wins and the fault is declared at once (R301). -/
def State.chopClash (s : State) (n : Nat) : State :=
  if s.chopReq n && s.blockReq n 2 then s.chopFault n else s

/-- `CHOP_VERIFY` (R299, R301). -/
def State.chopVerify (s : State) (n : Nat) : State :=
  let d := s.dc n
  let cv := s.rdF (R.protThrChop n) 22 16 * usec
  match d.chopFrom with
  | some x =>
    if d.checked ∨ s.clk.now < x + cv then s
    else
      let s := s.setDc n { d with checked := true }
      if s.dcBelow n (s.dcLevel n 3) ∧ s.dischStep n ≠ 2 then s
      else
        let ic := s.rdF (R.protThrDcCh n) 6 0
        let weak := decide (ic < 112) &&
          decide (((s.pfValue ic).natAbs : Int) < signedOf 16 (s.rdF (R.protThrChop n) 15 0))
        let v0 := s.dcAt n (s.tbOf x - cv)
        let v1 := s.dcAt n (s.tbOf x)
        let v2 := s.dcAt n (s.tbOf (x + cv))
        if weak || decide (v1 - v0 ≤ v2 - v1) then s.chopFault n else s
  | none => s

/-- `PITCH_REP`: the pitch request is queued again (R299). -/
def State.pitchRep (s : State) (n : Nat) : State :=
  match (s.dc n).pitchAt with
  | some x =>
    let y := x + s.rdF (R.protThrPitch n) 9 0 * msec
    if s.rdB (R.protThrStatus n) 10 ∧ y ≤ s.clk.now then s.pitchQueue n y else s
  | none => s

/-- Whether every DC-link chain that is named is left out (R301). -/
def State.dcLost (s : State) (n : Nat) : Bool :=
  s.dcEn n && (decide (s.dcChA n < 112) || decide (s.dcChB n < 112)) && (s.dcChains n).isEmpty

/-- `DC_SENSE_LOST` follows the chains of thread `n` (R301). -/
def State.dcSense (s : State) (n : Nat) : State :=
  let was := s.rdB (R.protThrStatus n) 15
  let now := s.dcLost n
  if was = now then s
  else
    let s := s.wrB (R.protThrStatus n) 15 now
    let s := if now then ((s.noteDc n 4).vecAsc n).gfeForce n else s.post 87 (dcCode n 4 + 0x400)
    (s.applyThread n).chopClash n

/-- Which thresholds of thread `n` the last bit passed, as bits: `OV_1`, `OV_2` and `OV_3` crossed, below `CHOP_REL` (R297–R300). -/
def State.dcMask (s : State) (n : Nat) : Nat :=
  let st := s.rd (R.protThrStatus n)
  b2n (s.dcCrossed n 0 && s.rdB (R.protThrChop n) 31 && !s.chopReq n) + 2 * b2n (s.dcCrossed n 1 && !bitOf st 12) +
    4 * b2n (s.dcCrossed n 2 && !bitOf st 11) +
    8 * b2n (s.dcBelow n (s.dcLevel n 3) && (bitOf st 12 || (s.chopReq n && decide (s.dischStep n ≠ 2))))

/-- The thresholds of thread `n` that were passed act (R297–R301). -/
def State.dcJudge (s : State) (n m : Nat) : State :=
  let s := s.dcSense n
  let s := if natBit m 2 then (((s.raise (R.protThrStatus n) 11).noteDc n 3).vecBlock n).gfeForce n else s
  let s := if natBit m 1 then
      let s := (s.wrB (R.protThrStatus n) 12 true).noteDc n 2
      if s.rdB (R.protThrStatus n) 11 then s else s.vecAsc n
    else s
  let s := if natBit m 0 then (s.noteDc n 0).chopOn n else s
  let s := if natBit m 3 then
      let s := s.wrB (R.protThrStatus n) 12 false
      if s.dischStep n = 2 then s else s.chopOff n
    else s
  ((s.applyThread n).chopClash n).dischT1 n

/-- The thresholds of thread `n` are judged after a bit captured at instant `x`: what it passed reaches the protection block 20 ns later
(R68, R297). -/
def State.dcSoon (s : State) (n x : Nat) : State :=
  let m := s.dcMask n
  let late := decide (s.dischStep n = 2) &&
    decide ((s.dc n).stepAt + s.rdF (R.protThrDisch0 n) 15 0 * msec ≤ s.clk.now) &&
    decide ((s.dc n).vStart * s.rdF (R.protThrDisch0 n) 31 16 < (s.dcVal n).getD 0 * 32768)
  if s.dcEn n && (decide (m ≠ 0) || s.dcLost n != s.rdB (R.protThrStatus n) 15 || late) then s.soon (x + 640) (.dc n m) else s

/-- A write of `w` to `PROT_n_STATUS`: `CHOP_FAULT` and `OV3_TRIP` clear only below `CHOP_REL` (R299, R300); clearing `DISCH_DONE` and
`COINC` ends their requests (R304, R314). -/
def State.protStatusWrite (s : State) (n : Nat) (w : Word) : State :=
  let low := s.dcBelow n (s.dcLevel n 3)
  let w := if low then w else withBit (withBit w 10 false) 11 false
  let was := s.rd (R.protThrStatus n)
  let s := s.storeReg (R.protThrStatus n) w
  let is := s.rd (R.protThrStatus n)
  let s := if bitOf was 10 && !bitOf is 10 then (s.setClamp n false).setDc n { (s.setClamp n false).dc n with pitchAt := none } else s
  let s := if bitOf was 3 && !bitOf is 3 then s.setDc n { s.dc n with coMsb := 0, coGsb := false } else s
  s.applyThread n

/-! ### Sources (R294, R295) -/

/-- A reaction of kind 1 or 2 of source `x` reaches the bridges it names. -/
def State.srcReach (s : State) (x kind : Nat) : State :=
  let cfg := s.srcCfg x
  s.each [0, 1, 2, 3] (fun s n =>
    if s.srcActs x n then
      let s := if kind = 2 then (if bitOf cfg 21 then s.vecAsc n else s).reachBlock n (2 * b2n (bitOf cfg 22))
        else s.reachBlock n (fieldOf cfg 22 21)
      (s.applyThread n).chopClash n
    else s)

/-- Source `x` fires (R294, R295); `evOnly` makes it an event only. -/
def State.fireSource (s : State) (x : Nat) (evOnly : Bool) : State :=
  let cfg := s.srcCfg x
  let s := s.wrB (R.protSrcLive (x / 32)) (x % 32) true
  if !bitOf cfg 31 then s
  else
    let c := s.src x
    let win := fieldOf cfg 11 0 * msec
    let fires := (c.fires.filter (fun y => decide (s.clk.now ≤ y + win))) ++ [s.clk.now]
    let cnt := fieldOf cfg 19 16
    let esc := c.esc || (decide (cnt ≠ 0) && decide (cnt ≤ fires.length))
    let react := if evOnly then 0 else if esc then fieldOf cfg 15 12 else fieldOf cfg 30 28
    let latch := (esc || bitOf cfg 20) && decide (react ≠ 0)
    let held := if react = 1 ∨ react = 2 then react else c.held
    let s := s.setSrc x ⟨held, fires, esc⟩
    let s := s.post 87 (if esc && !c.esc then 0x800 + x else x)
    if react = 0 then s
    else
      let s := (s.noteFirst x).pmuCause 1
      let s := if latch then s.raise (R.protSrcLatch (x / 32)) (x % 32) else s
      let s := if react = 3 then
          s.each [0, 1, 2, 3] (fun s n => if s.srcActs x n then s.dischStart n .source else s)
        else s.srcReach x react
      s.recFireNow (0x200 + x)

/-- A reaction that no longer holds is released. -/
def State.srcRelease (s : State) (x : Nat) : State :=
  let c := s.src x
  if c.held = 0 then s
  else ((s.setSrc x { c with held := 0 }).post 87 (0x1000 + x)).applyAll

/-- Source `x` ends (R294). -/
def State.clearSource (s : State) (x : Nat) : State :=
  let s := s.wrB (R.protSrcLive (x / 32)) (x % 32) false
  if s.srcLatched x then s else s.srcRelease x

/-- Source `x` takes a level: it fires when the level rises and ends when it falls. -/
def State.srcLevel (s : State) (x : Nat) (on evOnly : Bool) : State :=
  if on = s.srcLive x then s
  else if on then s.fireSource x evOnly
  else s.clearSource x

/-- What a late period restores of source `x`: 0 while it is not active, else 1 and its held reaction. -/
def State.srcKept (s : State) (x : Nat) : Nat := if s.srcLive x then 1 + (s.src x).held else 0

/-- Source `x` stands again as it did before an evaluation that a late period takes back: one that is active again makes no new firing, and
one that is no longer active ends (R95, R100). -/
def State.srcBack (s : State) (x k : Nat) : State :=
  if decide (k ≠ 0) = s.srcLive x then s
  else if k = 0 then s.clearSource x
  else
    let s := s.wrB (R.protSrcLive (x / 32)) (x % 32) true
    if k = 1 then s else (s.setSrc x { s.src x with held := k - 1 }).srcReach x (k - 1)

/-- A chain source takes a level at a capture at instant `x`: it reaches the protection block 20 ns later (R68, Table 14.3). -/
def State.srcSoon (s : State) (k x : Nat) (on : Bool) : State := s.soon (x + 640) (.src k on)

/-- The timeout of a core call of thread `n` shows (R36). Event code 2. -/
def State.timeoutSet (s : State) (n : Nat) : State :=
  ((s.setSeq n { s.seq n with toPair := none }).raise (R.seqStatus n) 2).post (4 + n) 2

/-- `LATCH_CLEAR`: a W1C write of `w` to `PROT_SRC_LATCH_k`; a latch whose source is active stays (R294). -/
def State.latchClear (s : State) (k : Nat) (w : Word) : State :=
  let s := s.storeReg (R.protSrcLatch k) (w &&& ~~~ (s.rd (R.protSrcLive k)))
  s.each (List.range 32) (fun s i =>
    if bitOf w i && !s.srcLive (32 * k + i) && !s.srcLatched (32 * k + i) then s.srcRelease (32 * k + i) else s)

/-- Whether a link's sources are events only: the partner is in step and reports the link up (R333). -/
def State.linkEvOnly (s : State) (l : Nat) : Bool :=
  s.partner && tabGet (fun _ => false) s.twin.partnerUp l &&
    (match s.linkThread l with
      | some n => s.rdB (R.cwyThrStatus n) 29
      | none => false)

/-! ### Desaturation (R302–R304) -/

/-- A fault of channel `c` of link `l` with instant `at_` is taken (R303, R304). -/
def State.desatFault (s : State) (l c : Nat) (at_ : Int) : State :=
  let s := (s.raise (R.protDsatStatus l) c).post 87 (0x1800 + 8 * l + c)
  match s.linkLeg l with
  | none => s
  | some g =>
    let s := if (s.leg g).ovr = 0 then
        (s.sendChanOff l (2 ^ c) (s.rdF (R.protDsatCfg l) 2 0)).wrB (R.protDsatStatus l) (8 + c) true
      else s
    match s.legPlace g with
    | none => s
    | some (n, leg) =>
      let b := legBridge leg
      let win : Int := s.rdF R.protCoinc 10 0 * 320
      let others := (List.range 7).filter (fun k => legBridge k == b && k != leg)
      let hit := others.any (fun k =>
        let g' := s.legOf n k
        s.legRoute g' == 1 && (s.link (s.legLink g')).faultAt.any (fun f => decide (((at_ - (f.2 : Int)).natAbs : Int) ≤ win)))
      let s := s.setLink l { s.link l with faultAt := (s.link l).faultAt ++ [(c, at_.toNat)] }
      if hit && decide (b < 2) then
        let s := (s.raise (R.protThrStatus n) 3).noteDc n 5
        let d := s.dc n
        let s : State := if b = 0 then
            let k := s.rdF (R.protThrBridge n) 1 0
            let s := s.setDc n { d with coMsb := k }
            if k = 2 then s.vecAsc n else s.vecBlock n
          else (s.setDc n { d with coGsb := true }).gfeForce n
        s.applyThread n
      else s

/-- Whether the device had channel `c` of link `l` on at instant `d`: the level before the first change since then, else the level now. -/
def State.chanOnAt (s : State) (l c : Nat) (d : Int) : Bool :=
  match s.linkLeg l with
  | none => false
  | some g =>
    let q := s.slice (3 * g + c / 2)
    let off : Int := if c % 2 = 0 then q.aOffAt else q.bOffAt
    let ons := ((s.link l).desatWin.filter (fun w => w.1 == c && decide (d < (w.2 : Int)) && decide (w.2 ≤ s.clk.now))).map (·.2)
    let first := ons.foldl (fun (m : Option Nat) x => some (min (m.getD x) x)) none
    match first with
    | some x => decide (d < off ∧ off ≤ (x : Int))
    | none => decide (d < off) || (match (s.leg g).ovr with
      | 0 => natBit (s.legLevels g) c
      | o => natBit (s.ovrLevels g o) c)

/-- One channel of an upstream frame that describes instant `d` is judged (R302); `ts` is the instant of a detection outside any
window. -/
def State.desatChan (s : State) (l c : Nat) (rep : Bool) (d ts : Int) : State :=
  let k := s.link l
  let blank : Int := s.rdF (R.protDsatCfg l) 25 16 * 320
  let mine := k.desatWin.filter (fun w => w.1 == c)
  let live := mine.any (fun w => decide ((w.2 : Int) ≤ d ∧ d < (w.2 : Int) + blank))
  let ended := mine.filter (fun w => decide ((w.2 : Int) + blank ≤ d))
  let ign := natBit k.desatIgn c
  let on := s.chanOnAt l c d
  let locked := s.rdB (R.protDsatStatus l) (8 + c)
  let drop (ign : Bool) : State := s.setLink l { k with
    desatWin := k.desatWin.filter (fun w => w.1 != c || decide (d < (w.2 : Int) + blank))
    desatIgn := setNatBit k.desatIgn c ign }
  if live then s.setLink l { k with desatIgn := setNatBit k.desatIgn c (ign || rep) }
  else if !ended.isEmpty then
    let e := ended.foldl (fun m w => max m ((w.2 : Int) + blank)) 0
    let s := drop false
    if rep then (if locked then s else s.desatFault l c e)
    else if ign then s.countUp (R.protDsatStatus l) 31 16 1
    else s
  else if rep && on && !locked then s.desatFault l c ts
  else s

/-- The protection block takes a valid upstream frame (R266, R302). -/
def State.desatFrame (s : State) (l at_ : Nat) (bs : List Byte) : State :=
  let tAt := s.tbOf at_
  let kc := tAt / (slotLen : Nat)
  let ks := kc - (kc - (fieldLE bs 3 2 : Int)) % 65536
  let d : Int := ks * (slotLen : Nat) + s.rdF (R.stlProp l) 23 0 + fieldLE bs 12 2 + s.clk.tbBase
  let raw : Int := fieldLE bs 8 4
  let ts := (s.clk.now : Int) - (s.tb - raw) % (2 ^ 32 : Nat)
  s.each (List.range 6) (fun s c => s.desatChan l c (natBit (fieldLE bs 6 1) c) d ts)

/-- Sources "driver link" and "driver status" of link `l` follow the link's condition (R264, R266, R333). -/
def State.linkSources (s : State) (l : Nat) : State :=
  let ev := s.linkEvOnly l
  let delayed := s.rdB (R.stlStatus l) 9 && s.propOver l
  let s := s.srcLevel (376 + l) (s.upSilent l || delayed) ev
  s.srcLevel (408 + l) (decide (2 ≤ (s.link l).badRun)) ev

/-- `STADAN_SLOT`: the slot's frame, and `PROP_HIGH` after a renewed `PROP` (R249, R264). -/
def State.stadanStep (s : State) (l : Nat) : State :=
  let r := s.stadanSlot l
  let x := r.1.wearDownJudge l
  if r.2 && x.propOver l then ((x.raise (R.stlStatus l) 9).post (48 + l) 9).linkSources l
  else if r.2 then x.linkSources l
  else x

/-- `LINK_DOWN` (R266). -/
def State.linkDown (s : State) (l : Nat) : State :=
  if s.upSilent l && s.rdB (R.stlCfg l) 31 then
    let first := !s.srcLive (376 + l) || s.rdB (R.stlStatus l) 7
    let s := s.raise (R.stlStatus l) 8
    let s := s.wrB (R.stlStatus l) 7 false
    let s := if first then (s.countUp (R.stlCount1 l) 31 16 1).post (48 + l) 8 else s
    (s.wearDown l).linkSources l
  else s

/-- A valid upstream frame of link `l`, its first bit received at `at_`; an invalid one is counted (R241, R266). -/
def State.upFrame (s : State) (l at_ : Nat) (lineOk : Bool) (bs : List Byte) : State :=
  if !s.rdB (R.stlCfg l) 31 then s
  else if !(lineOk && frameOk bs) then s.upInvalid l
  else if fieldLE bs 1 1 ≠ 8 then s
  else
    let s := (s.upCapture l at_ bs).wearUp l
    let s := s.upStatusRun l bs
    let s := s.linkSources l
    s.desatFrame l at_ bs

/-! ### Window comparators and trips (R235, R296) -/

/-- `WINDOW_COMPARATOR`: the filtered level of window `w` changes (R296). -/
def State.windowLevel (s : State) (w : Nat) (on : Bool) : State :=
  if s.rdB (R.protWinCfg w) 31 && s.rdB (R.protWinFlt w) 8 != on && s.lineFree w ((s.rdF (R.protWinFlt w) 7 0 + 1) * 128) then
    ((s.lineMark w).wrB (R.protWinFlt w) 8 on).srcLevel (336 + w) on false
  else s

/-- `TRIP_INPUT`: the filtered level of trip input `t` is now `high` (R235). -/
def State.tripInput (s : State) (t : Nat) (high : Bool) : State :=
  let a := R.pwmTrip t
  let on := high == s.rdB a 30
  if s.rdB a 31 && s.rdB a 29 != on && s.lineFree (32 + t) ((s.rdF a 7 0 + 1) * 32) then
    let s := (s.lineMark (32 + t)).wrB a 29 on
    let s := if on then s.raise a 28 else s
    s.srcLevel (368 + t) on false
  else s

/-! ### STO (R305–R307) -/

/-- Every motor goes to `OFF`, with `STO_STOP` set; its slices are all off from the next reload (R290, R305). -/
def State.auxSto (s : State) : State :=
  s.each (List.range 6) (fun s m =>
    if s.rdB (R.auxCfg m) 31 then
      let s := { s with aux := { s.aux with motors := tabSet (fun _ => AuxSt.init) s.aux.motors m AuxSt.init } }
      let s := s.each [84 + 3 * m, 85 + 3 * m, 86 + 3 * m] (fun s i => s.setSlice i { s.slice i with shadow := ⟨0, 0, true⟩ })
      let s := (s.wrF (R.auxStatus m) 3 0 0).wrF (R.auxStatus m) 19 17 0
      ((s.raise (R.auxStatus m) 14).post (80 + m) 14).auxNoteMotor m
    else s)

/-- Every vector unit and engine goes to `OFF` (R305). -/
def State.ownersOff (s : State) : State :=
  let s := s.each (List.range 8) (fun s u => if s.vecState u = 0 then s else s.setVecState u 0)
  s.each [0, 1, 2, 3] (fun s n => s.gfeForce n)

/-- Hold-off cause `c` begins or ends, with the codes that follow. -/
def State.hold (s : State) (c : Nat) (b : Bool) : State := (s.setHold c b).applyAll

/-- Internal STO with a cause of `INT_STO_CAUSE` (R307): held until reset. -/
def State.internalSto (s : State) (cause : Nat) : State :=
  let first := !s.rdB R.protStatus 27
  let s := { s with prot := { s.prot with intSto := tabSet (fun _ => false) s.prot.intSto cause true } }
  let s := s.wrB R.protStatus 27 true
  let s := if first then ((s.wrF R.protStatus 26 24 cause).noteFirst 0x301).post 87 0x301 else s
  let s := s.ownersOff
  let s := s.auxSto
  s.hold (match cause with
    | 1 => 2
    | 2 => 3
    | _ => 1) true

/-- Whether the STO inputs or the discrepancy latch demand STO (R305, R306). -/
def State.stoDemand (s : State) : Bool :=
  s.rdB R.protStatus 30 || s.rdB R.protStatus 29 || s.rdB R.protStatus 28

/-- `STO` follows the demand (R305, R306). -/
def State.stoEval (s : State) : State :=
  let on := s.stoDemand
  if on = s.rdB R.protStatus 31 then s
  else
    let s := (s.wrB R.protStatus 31 on).post 87 (if on then 0x300 else 0x310)
    if on then
      let s := s.noteFirst 0x300
      let s := s.ownersOff
      let s := s.auxSto
      (s.hold 1 true).recFireNow 0x0F0
    else
      let int1 := tabGet (fun _ => false) s.prot.intSto 3 || tabGet (fun _ => false) s.prot.intSto 4
      if int1 then s else s.hold 1 false

/-- The filtered STO input of bit `i` of `PROT_STATUS` is now high or low: it changes no sooner than `STO_FLT` after its last change
(R305). -/
def State.stoLine (s : State) (i : Nat) (high : Bool) : State :=
  if s.rdB R.protStatus i = !high then s
  else if s.lineFree (20 + i) (s.rdF R.protStoCfg 9 0 * 32) then (s.lineMark (20 + i)).wrB R.protStatus i (!high)
  else s

/-- `STO_INPUT`: the filtered inputs are now `a` and `b`, true for high (R305, R306). -/
def State.stoInput (s : State) (a b : Bool) : State :=
  let s := (s.stoLine 30 a).stoLine 29 b
  let a := !s.rdB R.protStatus 30
  let b := !s.rdB R.protStatus 29
  let disc := s.rdB R.protStatus 28
  let low := if disc then (s.prot.bothLow || (!a && !b)) else false
  let clear := disc && low && a && b
  let diff := if a = b then none else some (s.prot.diffAt.getD s.clk.now)
  let s := { s with prot := { s.prot with bothLow := low && !clear, diffAt := diff } }
  let s := if clear then s.wrB R.protStatus 28 false else s
  s.stoEval

/-- `STO_DISCREP` (R306). -/
def State.stoDiscrep (s : State) : State :=
  match s.prot.diffAt with
  | some x =>
    if x + s.rdF R.protStoCfg 25 16 * msec < s.clk.now then
      let s := { s with prot := { s.prot with bothLow := false } }
      ((s.wrB R.protStatus 28 true).post 87 0x311).stoEval
    else s
  | none => s

/-! ### The safety monitor (R308–R311) -/

def State.smon (s : State) (n : Nat) : SmonSt := tabGet (fun _ => SmonSt.init) s.prot.smon n
def State.setSmon (s : State) (n : Nat) (v : SmonSt) : State :=
  { s with prot := { s.prot with smon := tabSet (fun _ => SmonSt.init) s.prot.smon n v } }

/-- Sub-steps of a cycle of the safety oscillator. -/
def smonCycle : Nat := 160

/-- A cause of a force of thread `n` is present (R309). -/
def State.smonPresent (s : State) (n cause : Nat) : State :=
  let m := s.smon n
  (s.setSmon n { m with causes := cause :: m.causes.filter (· != cause), absent := none }).wrB (R.smonForce n) 0 true

/-- A cause of a force of thread `n` is absent from now on (R309): the 100 ms run from the instant at which none is left. -/
def State.smonAbsent (s : State) (n cause : Nat) : State :=
  let m := s.smon n
  if !m.causes.contains cause then s
  else
    let cs := m.causes.filter (· != cause)
    let s := s.setSmon n { m with causes := cs, absent := if cs.isEmpty then some s.clk.now else none }
    if cs.isEmpty then s.wrB (R.smonForce n) 0 false else s

/-- A release granted in the present monitor cycle is taken back: the force that comes in it wins, and the request counts as refused
(R311). -/
def State.smonUnrelease (s : State) (n : Nat) : State :=
  match (s.smon n).rel with
  | some (c, st, ca) =>
    if c = s.clk.now / smonCycle ∧ s.forceOf n = 0 then
      (((s.setSmon n { s.smon n with rel := none }).wrF (R.smonForce n) 31 30 st).wrF (R.smonForce n) 23 16 ca).raise (R.smonForce n) 8
    else s
  | none => s

/-- A force of the safety monitor (R308): state 1 `PULSE_BLOCK`, 2 `ASC`, 3 `DISCHARGE`; a weaker one leaves a stronger in place, and `CAUSE`
keeps the first cause of the forced state (DESIGN CHOICE, log 78). -/
def State.smonForce (s : State) (n state cause : Nat) : State :=
  let s := (s.smonUnrelease n).smonPresent n cause
  let was := s.forceOf n
  if state ≤ was then s
  else
    let s := s.wrF (R.smonForce n) 31 30 state
    let s := if was = 0 then
        (if cause % 16 = 11 then (s.wrF (R.smonForce n) 23 16 (fieldOf s.freshWord 7 0)).tookFree
          else s.wrF (R.smonForce n) 23 16 (cause % 16))
      else s
    let s := ((s.post 88 (16 * n + cause % 16)).pmuCause 2).recFireNow (0x070 + n)
    let s : State := match state with
      | 1 => s.reachBlock n 3
      | 2 => (s.vecAsc n).gfeForce n
      | _ => s.dischStart n .force
    s.applyThread n

/-- Signal numbers of the inputs of R138 of thread `n`: `T_EST`, `OMEGA`, `I_MAG`, `SIG_MS` of vector unit 2n. -/
def State.tmSigs (s : State) (n : Nat) : List Nat :=
  let u := 2 * n
  [s.rdF (R.vecOut4 u) 27 16, s.rdF (R.vecOut1 u) 27 16, s.rdF (R.vecOut5 u) 11 0, s.rdF (R.vecOut5 u) 27 16]

/-- The stable copy of a signal that the monitor reads; a unit without that output gives value 0 (DESIGN CHOICE, log 79). -/
def State.smonSig (s : State) (i : Nat) : SigVal := if i = 0xFFF then ⟨0#32, 0#16⟩ else s.sigStable i

/-- Whether the condition of TM(k + 1) holds at the evaluation (Table 14.6). -/
def State.tmCond (s : State) (n k : Nat) : Bool :=
  let sg := s.tmSigs n
  let v (i : Nat) : Int := sval (s.smonSig (nth 0xFFF sg i)).val
  let tEst := v 0
  let om := v 1
  let iMag := v 2
  let ms := v 3
  let absT : Int := tEst.natAbs
  match k with
  | 0 => decide (s.rdS (R.smonTmTMax n) < absT)
  | 1 => decide (ms = 0) && decide (s.rdS (R.smonTmIBlock n) < iMag)
  | 2 => decide (ms = 2) && decide (0 < tEst * om) && decide (s.rdS (R.smonTmTTol n) < absT)
  | 3 => (match (s.dc n).clampAt with
      | some x => decide (x + s.rdF (R.smonTmCfg n) 23 8 * usec < s.clk.now)
      | none => false) && decide (s.rdS (R.smonTmTTol n) < absT)
  | 4 => decide (s.rdS (R.smonTmWMax n) < (om.natAbs : Int))
  | 5 => s.rdB R.sysState (12 + n) && decide ((s.seq n).sampleAt + 4 * s.rdF (R.seqPeriod n) 31 0 * 32 ≤ s.clk.now)
  | 6 => sg.any (fun i => qBit (s.smonSig i).qual qInvalid)
  | _ => false

/-- Check TM(k + 1) of thread `n` fails: its bit is set and its reaction forced (R311). -/
def State.tmFail (s : State) (n k : Nat) : State :=
  let s := (s.raise (R.smonTmStatus n) k).post 88 (0x100 + 16 * n + k)
  s.smonForce n (if s.rdB (R.smonTmCfg n) k then 2 else 1) (k + 1)

/-- `SMON_EVALUATION` of thread `n` (R308, R311): the checks, and the `DISCHARGE` that the monitor's program asks for. A vector unit that is not
enabled leaves TM6 alone to judge. -/
def State.smonEval (s : State) (n : Nat) (disch : Bool) : State :=
  if !s.threadHere n then s
  else
  let ks := if s.rdB (R.vecCfg (2 * n)) 31 then [0, 1, 2, 3, 4, 5, 6] else [5]
  let conds := ks.filter (fun k => s.tmCond n k)
  let tmN (k : Nat) : Nat := if k = 5 then 1 else s.rdF (R.smonTmCfg n) 31 24
  let m := s.smon n
  let cnt := ks.foldl (fun t k =>
    tabSet (fun _ => 0) t k (if conds.contains k then min 255 (tabGet (fun _ => 0) t k + 1) else 0)) m.cnt
  let s := s.setSmon n { m with cnt := cnt }
  let s := ks.foldl (fun (s : State) k => s.wrB (R.smonTmStatus n) (8 + k) (conds.contains k)) s
  let failing := ks.filter (fun k => decide (0 < tabGet (fun _ => 0) cnt k) && decide (tmN k ≤ tabGet (fun _ => 0) cnt k))
  let s := failing.foldl (fun (s : State) k => s.tmFail n k) s
  let s := (ks.filter (fun k => !conds.contains k)).foldl (fun (s : State) k => s.smonAbsent n (k + 1)) s
  if disch then s.smonForce n 3 11 else s.smonAbsent n 11

/-- `TM6_PERIOD_STALL` (R311): the period counter of a running thread has not advanced for four periods. -/
def State.tm6Stall (s : State) (n : Nat) : State :=
  if s.tmCond n 5 then (s.wrB (R.smonTmStatus n) 13 true).tmFail n 5 else s

/-- `SMON_REL`: a core's request to release the forced state of the thread named; any other initiator's meets no condition (R309). -/
def State.smonRel (s : State) (who : Option Initiator) (w : Word) : State :=
  let n := fieldOf w 1 0
  let byCore : Bool := match who with
    | some (.core _) => true
    | _ => false
  if s.forceOf n = 0 then s
  else
    let m := s.smon n
    let old := m.causes.isEmpty && m.absent.any (fun x => decide (x + 100 * msec ≤ s.clk.now))
    if byCore ∧ fieldOf w 31 24 = 0xC5 ∧ old ∧ (s.dc n).disch.isNone then
      let was := (s.clk.now / smonCycle, s.forceOf n, s.rdF (R.smonForce n) 23 16)
      let s := s.setSmon n { m with absent := none, rel := some was }
      let s := (s.wrF (R.smonForce n) 31 30 0).wrF (R.smonForce n) 23 16 0
      (s.post 88 (0x200 + n)).applyThread n
    else s.raise (R.smonForce n) 8

def State.wd (s : State) (p : Nat) : WdSt := tabGet (fun _ => ⟨0, 0⟩) s.prot.wds p
def State.setWd (s : State) (p : Nat) (v : WdSt) : State :=
  { s with prot := { s.prot with wds := tabSet (fun _ => ⟨0, 0⟩) s.prot.wds p v } }

/-- A watchdog or lockstep failure of pair `p` (R310): cause 8 or 9. -/
def State.wdFail (s : State) (p cause : Nat) : State :=
  let a := R.smonWdReact p
  let s := (s.raise a 8).post 88 (0x300 + 16 * p + cause)
  if s.rdB a 4 then
    s.each [0, 1, 2, 3] (fun s n => if s.rdB a n && s.threadHere n then s.smonForce n 1 (16 * p + cause) else s)
  else s

/-- The cause 8 or 9 of pair `p` is gone: an accepted service, or the restart of the pair (DEDUCED, log 80). -/
def State.wdCured (s : State) (p cause : Nat) : State := s.each [0, 1, 2, 3] (fun s n => s.smonAbsent n (16 * p + cause))

/-- A new token of pair `p` is drawn (R310, log 13). -/
def State.wdDraw (s : State) (p : Nat) : State :=
  let d := (s.wd p).draws
  let s := s.setWd p ⟨d + 1, s.clk.now⟩
  s.wr (R.smonWd p) (wordN (Config.wdToken (5 * d + p)).toNat)

/-- `WATCHDOG_SERVICE`: pair `p` itself writes `w` to its `SMON_WD_p` (R310); a write of anyone else is no service. The time runs from the service
before, a failed one too (DEDUCED, log 80). -/
def State.wdService (s : State) (who : Option Initiator) (p : Nat) (w : Word) : State :=
  let max_ := s.rdF (R.smonWdCfg p) 31 16
  let min_ := s.rdF (R.smonWdCfg p) 15 0
  let byPair : Bool := match who with
    | some (.core q) => q.val == p
    | _ => false
  if max_ = 0 ∨ !byPair then s
  else
    let since := s.clk.now - (s.wd p).at_
    let right := decide (fieldOf w 15 0 = 65535 - s.rdF (R.smonWd p) 15 0)
    if right ∧ min_ * usec ≤ since ∧ since ≤ max_ * usec then (s.wdDraw p).wdCured p 8
    else (s.setWd p { s.wd p with at_ := s.clk.now }).wdFail p 8

/-- `WATCHDOG_TIMEOUT` of pair `p` (R310). -/
def State.wdTimeout (s : State) (p : Nat) : State :=
  let max_ := s.rdF (R.smonWdCfg p) 31 16
  if max_ ≠ 0 ∧ (s.wd p).at_ + max_ * usec < s.clk.now then
    let s := s.setWd p { s.wd p with at_ := s.clk.now }
    s.wdFail p 8
  else s

/-! ### Pulse block of a bridge (R486) -/

/-- Whether a list is a single `BLK` entry. -/
def legBlk (ws : List Word) : Bool :=
  match ws.filter (fun w => bitOf w 31) with
  | [w] => bitOf w 30
  | [] => false
  | _ => false

/-- Whether leg unit `g` is blocked by its owner's sets. -/
def State.legOwnBlk (s : State) (g : Nat) : Bool :=
  let l := s.leg g
  decide (l.ovr = 0) && (if s.legMode g = 1 then legBlk l.act && legBlk l.shadow
    else [0, 1, 2].all (fun k => !s.slEn (3 * g + k) || ((s.slice (3 * g + k)).act.blk && (s.slice (3 * g + k)).shadow.blk)))

/-- Whether the owner of bridge `b` of thread `n` is in a state that blocks its pulses (R486, Table 7.2). -/
def State.ownerBlk (s : State) (n b : Nat) : Bool :=
  match b with
  | 0 => decide (s.vecState (2 * n) < 5) || (s.vecState (2 * n) == 5 && (s.vec (2 * n)).catchN == 0)
  | 1 => decide (s.gfeState n = 0)
  | _ => !s.chopReq n

/-- Whether bridge `b` of thread `n` is in `PULSE_BLOCK` (R486); a leg unit that is not enabled holds every switch off. -/
def State.bridgeBlocked (s : State) (n b : Nat) : Bool :=
  ((List.range 7).filter (fun l => legBridge l == b)).all (fun l =>
    let g := s.legOf n l
    [0, 1, 2].all (fun k => !s.slEn (3 * g + k)) || s.anyHold || decide ((s.leg g).ovr = 1) || (s.legOwnBlk g && s.ownerBlk n b))

/-- Whether every bridge of thread `n` is in `PULSE_BLOCK`. -/
def State.threadBlocked (s : State) (n : Nat) : Bool :=
  s.bridgeBlocked n 0 && s.bridgeBlocked n 1 && s.bridgeBlocked n 2

/-! ### Clock faults (R29–R31) -/

/-- The step of thread `n` that `SEQ_n_STATUS.STEP` shows: until the instant at which the last command's step completes, that step, or the
`LATCH` step after it that is under way (Table 2.7). -/
def State.stepShown (s : State) (n : Nat) : Nat :=
  let k := s.rdF (R.seqStatus n) 13 8
  let left := (s.seq n).doneAt - s.clk.now
  let latches := (((List.range k).reverse).takeWhile (fun j => decide (fieldOf (s.rd (R.seqStep n j)) 31 28 = 1))).length
  if s.rdB (R.seqStatus n) 0 ∧ !s.clk.faulted then k - min ((left + 639) / 640) (latches + 1) else k

/-- The reaction of R30 in run state: internal STO, and the sequencers stop at their current step. -/
def State.clockFault (s : State) : State :=
  if s.rdF R.sysState 2 0 = 3 then
    let s := s.each [0, 1, 2, 3] (fun s n => (s.wrF (R.seqStatus n) 13 8 (s.stepShown n)).setSeq n { s.seq n with startAt := none })
    let s := { s with clk := { s.clk with faulted := true } }
    s.internalSto 1
  else s

/-- `REF_LOSS` (R29, R30). -/
def State.refLoss (s : State) : State := (s.wrB R.cruStatus 0 true).clockFault

/-- `PLL_UNLOCK` after the first lock (R29, R30). -/
def State.pllUnlock (s : State) : State :=
  if s.rdB R.cruStatus 4 then ((s.wrB R.cruStatus 4 false).wrB R.cruStatus 1 true).clockFault else s

/-- `CLOCK_MONITOR_WINDOW`: a window ended with a count (R29–R31). The reference counts as present while `REF_LOSS` is not latched, so one that
has come back since still counts as missing (DESIGN CHOICE, log 81). -/
def State.clockWindow (s : State) (count : Nat) : State :=
  if 4600 ≤ count ∧ count ≤ 5400 then s
  else if !s.rdB R.cruStatus 0 && s.rdB R.cruStatus 4 then
    let s := s.wrB R.cruStatus 3 true
    let s := { s with clk := { s.clk with safeOsc := some (s.clk.safeOsc.getD s.clk.now) } }
    s.wrB R.smonStatus 30 true
  else (s.wrB R.cruStatus 2 true).clockFault

/-- `SAFE_OSC_GRACE` (R31): the grace has passed since the safety oscillator's fault; the force is on every thread of the variant. -/
def State.safeOscGrace (s : State) : State :=
  if s.rdB R.cruStatus 3 ∧ s.clk.safeOsc.any (fun x => decide (x + s.clk.grace ≤ s.clk.now)) then
    let s := { s with clk := { s.clk with safeForced := true } }
    s.each [0, 1, 2, 3] (fun s n => if s.threadHere n then s.smonForce n 1 10 else s)
  else s

end Sys2Proof.Machine
end

