-- ==== Sys2Proof/Machine/Pairs.lean ====
section
/-! DEFINITION. Plausibility pairs, substitution by spare chains, and the write of a signal with all that follows it
(*Redundant sensing and plausibility*, R21, R42, R92–R103). -/

namespace Sys2Proof.Machine

/-! ### Quality (R97, R103) -/

/-- Whether a value with quality `q` is usable (R97). -/
def State.usable (s : State) (q : Qual) : Bool :=
  !qBit q qInvalid && !qBit q qSource && decide (qAge q ≤ s.rdF R.seqPqCfg 3 0)

/-- The bits of R103 that an output takes from an input: `INVALID` also when the input is unusable. -/
def State.qFrom (s : State) (q : Qual) : Qual :=
  (q &&& 0xA700#16) ||| (if s.usable q then 0#16 else 0x8000#16)

/-- The quality of an output from the inputs read for it (R103). -/
def State.qJoin (s : State) (qs : List Qual) : Qual := qs.foldl (fun a q => a ||| s.qFrom q) 0#16

/-! ### Substitution (R101, R102) -/

def State.subEn (s : State) (j : Nat) : Bool := s.rdB (R.seqSub j) 31
def State.subActive (s : State) (j : Nat) : Bool := s.rdB (R.seqSub j) 30
def State.subPrimary (s : State) (j : Nat) : Nat := s.rdF (R.seqSub j) 6 0

/-- The spare that writes for primary `i`: of several whose substitution has started, the lowest (DESIGN CHOICE, log 90). -/
def State.subOf (s : State) (i : Nat) : Option Nat :=
  (List.range 16).find? (fun j => s.subEn j && s.subActive j && s.subPrimary j == i)

/-- Substitution by spare `j` starts (R102); the spare counts as assigned (R453). -/
def State.subStart (s : State) (j : Nat) : State :=
  if s.subEn j && !s.subActive j then ((s.wrB (R.seqSub j) 30 true).post 8 (0x100 + j)).wearAssigned 2 (96 + j) else s

/-- An automatic event of primary `i`: every spare that stands by for it with `AUTO` = 1 starts (R102). -/
def State.subAuto (s : State) (i : Nat) : State :=
  s.each ((List.range 16).filter (fun j => s.subEn j && s.subPrimary j == i && s.rdB (R.seqSub j) 29)) State.subStart

/-- `SUB_FORCE`: a write of 1 to `SEQ_SUB_j.FORCE`, which reads 1 from then on. -/
def State.subForce (s : State) (j : Nat) : State := (s.wrB (R.seqSub j) 28 true).subStart j

/-- The chain whose `VAL_SIG` is signal `i`; 0xFFF is none's. -/
def State.chainOfSig (s : State) (i : Nat) : Option Nat :=
  if i = 0xFFF then none else (List.range 112).find? (fun c => s.chEn c && s.rdF (R.sdfChSig c) 11 0 == i)

/-! ### Pairs (R92–R100) -/

def State.pair (s : State) (p : Nat) : PairSt := tabGet (fun _ => PairSt.init) s.pairs p
def State.setPair (s : State) (p : Nat) (v : PairSt) : State :=
  { s with pairs := tabSet (fun _ => PairSt.init) s.pairs p v }
def State.pairEn (s : State) (p : Nat) : Bool := s.rdB (R.seqPairCfg p) 31
def State.pairThread (s : State) (p : Nat) : Nat := s.rdF (R.seqPairCfg p) 30 28
def State.pairA (s : State) (p : Nat) : Nat := s.rdF (R.seqPairCfg p) 11 0
def State.pairB (s : State) (p : Nat) : Nat := s.rdF (R.seqPairCfg p) 23 12
def State.pairRef (s : State) (p : Nat) : Option Nat :=
  if s.rdB (R.seqPairCfg p) 24 && s.rdF (R.seqPairSig p) 27 16 != 0xFFF then some (s.rdF (R.seqPairSig p) 27 16) else none
def State.pairOut (s : State) (p : Nat) : Nat := s.rdF (R.seqPairSig p) 11 0
/-- `STATE` codes of Table 5.2: 0 `AGREE`, 1 `SUSPECT`, 2 `RESOLVED`, 3 `UNRESOLVED`, 4 `SINGLE`, 5 `LOST`. -/
def State.pairState (s : State) (p : Nat) : Nat := s.rdF (R.seqPairStatus p) 2 0
def State.pairExcl (s : State) (p : Nat) (b : Bool) : Bool := s.rdB (R.seqPairStatus p) (if b then 5 else 4)

/-- The threshold T of R96. -/
def pairWindow (abs rel : Nat) (a b : Int) : Int := abs * 2 ^ 16 + (max a.natAbs b.natAbs * rel / 2 ^ 16 : Nat)

/-- Whether two values disagree under R96. -/
def State.pairDiffers (s : State) (p : Nat) (a b : Int) : Bool :=
  decide (pairWindow (s.rdF (R.seqPairWin p) 31 16) (s.rdF (R.seqPairWin p) 15 0) a b < ((a - b).natAbs : Int))

/-- The output formed by `MODE` (Table 5.1). -/
def pairMix (mode : Nat) (a b : Int) : Int :=
  match mode with
  | 1 => a
  | 2 => b
  | _ => (a + b + 1).fdiv 2

/-- Whether a pair of thread `n` is in `UNRESOLVED` or `LOST`; those of the common domain count as pairs of thread 0 (R100). -/
def State.pairsBad (s : State) (n : Nat) : Bool :=
  (List.range 128).any (fun p => s.pairEn p && (s.pairThread p == n || (n == 0 && s.pairThread p == 7)) &&
    (s.pairState p == 3 || s.pairState p == 5))

/-- The source "plausibility" of thread `n` follows its pairs (R100). -/
def State.plausible (s : State) (n : Nat) : State := s.srcLevel (444 + n) (s.pairsBad n) false

/-- The new rejoin state of an excluded input: whether it rejoins now, its count, and whether a restore is still armed (R99). -/
def rejoin (cnt rej : Nat) (armed ok : Bool) : Bool × Nat × Bool :=
  let r := if ok then rej + 1 else 0
  let need := if armed then 1 else cnt
  if decide (0 < need) && decide (need ≤ r) then (true, 0, false) else (false, r, armed)

/-- An evaluation's outcome: the new state, exclusions, output value and quality, and whether a disagreement was confirmed. -/
structure PairOut where
  st : Nat
  exA : Bool
  exB : Bool
  val : Int
  qual : Qual
  confirm : Bool
  mem : PairSt

/-- The judgement of a pair at one evaluation (R96–R100). `cur` is the state before it. -/
def State.pairJudge (s : State) (p : Nat) (a b : SigVal) (r : Option SigVal) : PairOut :=
  let m := s.pair p
  let cur := s.pairState p
  let va := sval a.val
  let vb := sval b.val
  let uA := s.usable a.qual
  let uB := s.usable b.qual
  let ref : Option Int := match r with
    | some x => if s.usable x.qual then some (sval x.val) else none
    | none => none
  let agreesRef (v : Int) : Bool := match ref with
    | some x => !s.pairDiffers p v x
    | none => false
  let ex := (s.pairExcl p false, s.pairExcl p true)
  let cnt := s.rdF (R.seqPairCnt p) 15 8
  let okA := uA && (if uB then !s.pairDiffers p va vb else agreesRef va)
  let okB := uB && (if uA then !s.pairDiffers p va vb else agreesRef vb)
  let jA := if ex.1 then rejoin cnt m.rejA m.resA okA else (false, 0, false)
  let jB := if ex.2 then rejoin cnt m.rejB m.resB okB else (false, 0, false)
  let exA := ex.1 && !jA.1
  let exB := ex.2 && !jB.1
  let m : PairSt := { m with rejA := jA.2.1, resA := jA.2.2, rejB := jB.2.1, resB := jB.2.2 }
  let inA := uA && !exA
  let inB := uB && !exB
  let qAB := s.qJoin [a.qual, b.qual]
  let mode := s.rdF (R.seqPairCfg p) 27 26
  let mix := pairMix mode va vb
  let disAct := s.rdB (R.seqPairCfg p) 25
  let disagree : Qual := 0x0200#16
  if inA && inB then
    let d := s.pairDiffers p va vb
    let disN := if d then (if m.two then m.dis else 0) + 1 else 0
    let agrN := if d then 0 else (if m.two then m.agr else 0) + 1
    let m1 : PairSt := { m with two := true, dis := min disN 255, agr := min agrN 255 }
    if !d then
      let st := if !m.two || cur == 0 || decide (s.rdF (R.seqPairCnt p) 23 16 ≤ agrN) then 0 else cur
      if st = 0 then ⟨0, exA, exB, mix, qAB, false, { m1 with lastAgree := mix, lastOut := mix }⟩
      else if st = 3 && !disAct then ⟨3, exA, exB, m1.lastAgree, qAB ||| 0x8200#16, false, { m1 with lastOut := m1.lastAgree }⟩
      else ⟨st, exA, exB, mix, qAB ||| disagree, false, { m1 with lastOut := mix }⟩
    else
      let confirmed := decide (s.rdF (R.seqPairCnt p) 31 24 ≤ disN) && m.two
      if confirmed || (m.two && cur == 3) then
        let byRef : Option Bool := match ref with
          | some x =>
            let gA := agreesRef va
            let gB := agreesRef vb
            if gA != gB && decide ((x - va).natAbs ≠ (x - vb).natAbs) then some gB else none
          | none => none
        let fresh := !(cur == 3)
        match byRef with
        | some keepB =>
          let q := s.qJoin [if keepB then b.qual else a.qual] ||| 0x2000#16
          let v := if keepB then vb else va
          ⟨2, keepB, !keepB, v, q, fresh, { m1 with two := false, dis := 0, agr := 0, rejA := 0, rejB := 0, resA := false, resB := false,
                                                    lastOut := v }⟩
        | none =>
          if disAct then ⟨3, exA, exB, mix, qAB ||| disagree, fresh, { m1 with lastOut := mix }⟩
          else ⟨3, exA, exB, m1.lastAgree, qAB ||| 0x8200#16, fresh, { m1 with lastOut := m1.lastAgree }⟩
      else ⟨1, exA, exB, mix, qAB ||| disagree, false, { m1 with lastOut := mix }⟩
  else
    let m0 : PairSt := { m with two := false, dis := 0, agr := 0 }
    if inA then ⟨4, exA, exB, va, s.qJoin [a.qual] ||| 0x2000#16, false, { m0 with lastOut := va }⟩
    else if inB then ⟨4, exA, exB, vb, s.qJoin [b.qual] ||| 0x2000#16, false, { m0 with lastOut := vb }⟩
    else
      let q := s.qJoin ((if exA then [] else [a.qual]) ++ (if exB then [] else [b.qual]))
      ⟨5, exA, exB, m0.lastOut, q ||| 0x8100#16, false, m0⟩

/-- The state after pair `p` was evaluated, without its output: registers, exclusion and the source of R100. -/
def State.pairStore (s : State) (p : Nat) (a b : SigVal) (o : PairOut) : State :=
  let d := (sval a.val - sval b.val).natAbs
  let compared := s.usable a.qual && s.usable b.qual && !o.exA && !o.exB || o.st == 2
  let wasA := s.pairExcl p false
  let wasB := s.pairExcl p true
  let dis := compared && s.pairDiffers p (sval a.val) (sval b.val)
  let s := s.setPair p o.mem
  let s := s.wrF (R.seqPairStatus p) 2 0 o.st
  let s := s.wrB (R.seqPairStatus p) 4 o.exA
  let s := s.wrB (R.seqPairStatus p) 5 o.exB
  let s := if o.confirm then s.countUp (R.seqPairStatus p) 31 16 1 else s
  let s := s.raiseIf dis (R.seqPairStatus p) 3
  let s := s.wr (R.seqPairDiff p) (wordN (min d 0xFFFFFFFF))
  let lost (x : Nat) : Option Nat := s.chainOfSig x
  let s := if o.exA && !wasA then match lost (s.pairA p) with
    | some c => s.subAuto c
    | none => s
    else s
  let s := if o.exB && !wasB then match lost (s.pairB p) with
    | some c => s.subAuto c
    | none => s
    else s
  s.plausible (if s.pairThread p = 7 then 0 else s.pairThread p)

/-- The common-domain pair that has signal `i` as an input. -/
def State.commonPair (s : State) (i : Nat) : Option Nat :=
  (List.range 128).find? (fun p => s.pairEn p && s.pairThread p == 7 && (s.pairA p == i || s.pairB p == i))

/-- A common-domain pair is evaluated, without its output (R94). -/
def State.commonEval (s : State) (p : Nat) : State × PairOut :=
  let a := s.sigStable (s.pairA p)
  let b := s.sigStable (s.pairB p)
  let o := s.pairJudge p a b ((s.pairRef p).map s.sigStable)
  (s.pairStore p a b o, o)

/-- A write of its declared writer reaches signal `i`, with all that follows in the same instant: the recorder's sample of a
common-domain signal and the evaluation of a common-domain pair that reads it, which writes its own output (R42, R94, R357). -/
def State.sigWriteGo : Nat → State → Nat → Word → Qual → State
  | 0, s, i, v, q => s.sigPut i v q
  | n + 1, s, i, v, q =>
    let s := s.sigPut i v q
    if 4095 ≤ i ∨ s.sigDomain i < 4 then s
    else
      let s := s.recSignal i
      match s.commonPair i with
      | none => s
      | some p =>
        let r := s.commonEval p
        State.sigWriteGo n r.1 (r.1.pairOut p) (wordOf r.2.val) r.2.qual

/-- A write of its declared writer reaches signal `i` (R21, R42). -/
def State.sigWrite (s : State) (i : Nat) (v : Word) (q : Qual) : State := State.sigWriteGo 128 s i v q

/-- A common-domain pair with a thread's signal as an input is evaluated as the swap makes the write visible outside that thread (R21, R94;
DEDUCED, log 89). -/
def State.commonSwap (s : State) (i : Nat) : State :=
  match s.commonPair i with
  | none => s
  | some p =>
    let r := s.commonEval p
    r.1.sigWrite (r.1.pairOut p) (wordOf r.2.val) r.2.qual

/-- A computed value reaches signal `i`, saturated to the format of the signal; `SATURATED` is set for its own saturation (R103). -/
def State.sigOut (s : State) (i : Nat) (x : Int) (q : Qual) : State :=
  s.sigWrite i (wordOf (sat32 x)) (if over32 x then qWith q qSat true else q)

/-- A pair of thread `n` is evaluated within its `FILTER_CLOSE` step (R94). -/
def State.pairEval (s : State) (n p : Nat) : State :=
  let a := s.sigStep n (s.pairA p)
  let b := s.sigStep n (s.pairB p)
  let o := s.pairJudge p a b ((s.pairRef p).map (s.sigStep n))
  (s.pairStore p a b o).sigWrite (s.pairOut p) (wordOf o.val) o.qual

/-- The rejoin of input A or B of a pair that is restored starts afresh. -/
def PairSt.restore (m : PairSt) (b : Bool) : PairSt := if b then { m with resB := true, rejB := 0 } else { m with resA := true, rejA := 0 }

/-- `RESTORE_A` and `RESTORE_B`: a write of 1 is taken at the next evaluation; it starts the rejoin count afresh (R99). One that a late period
has used up counts again with the next (R95). -/
def State.pairRestore (s : State) (p : Nat) (b : Bool) : State :=
  if s.pairEn p && s.pairExcl p b then
    let n := s.pairThread p
    let s := s.setPair p ((s.pair p).restore b)
    if n < 4 then
      let k := s.kept n
      let m := (tabGet (fun _ => PairSt.init) k.pairs p).restore b
      s.setKept n { k with pairs := tabSet (fun _ => PairSt.init) k.pairs p m }
    else s
  else s

/-- `SEQ_PAIR_p_STATUS`: a write of `w` clears flags (R99). -/
def State.pairStatusWrite (s : State) (p : Nat) (w : Word) : State :=
  if s.pairThread p < 4 then s.storeKept (s.pairThread p) (R.seqPairStatus p) w else s.storeReg (R.seqPairStatus p) w

end Sys2Proof.Machine
end

