-- ==== Sys2Proof/Machine/Ce.lean ====
section
/-! DEFINITION. The control engine: the loop law, quality, mode sets and hand-over, parameter banks and the two states of a context
(*Control engine*, R104–R120). -/

namespace Sys2Proof.Machine

/-! ### Groups and contexts -/

def State.ctx (s : State) (c : Nat) : CtxSt := tabGet (fun _ => CtxSt.init) s.ce.ctx c
def State.setCtx (s : State) (c : Nat) (v : CtxSt) : State :=
  { s with ce := { s.ce with ctx := tabSet (fun _ => CtxSt.init) s.ce.ctx c v } }
def State.ctxVis (s : State) (c : Nat) : CtxSt := tabGet (fun _ => CtxSt.init) s.ce.vis c
def State.groupEn (s : State) (g : Nat) : Bool := s.rdB (R.ceGroup g) 31
def State.groupThread (s : State) (g : Nat) : Nat := s.rdF (R.ceGroup g) 30 28
def State.groupCount (s : State) (g : Nat) : Nat := s.rdF (R.ceGroup g) 25 16

/-- The contexts of group `g` (R104). -/
def State.groupCtx (s : State) (g : Nat) : List Nat :=
  (List.range (s.groupCount g)).map (fun k => s.rdF (R.ceGroup g) 8 0 + k)

/-- The contexts of thread `n`'s enabled groups. -/
def State.threadCtx (s : State) (n : Nat) : List Nat :=
  (List.range 64).flatMap (fun g => if s.groupEn g && s.groupThread g == n then s.groupCtx g else [])

/-- The thread whose groups hold context `c`. -/
def State.ctxThread (s : State) (c : Nat) : Option Nat :=
  ((List.range 64).find? (fun g => s.groupEn g && (s.groupCtx g).contains c)).map s.groupThread

/-- The active bank of thread `n` (R117). -/
def State.bankOf (s : State) (n : Nat) : Nat := b2n (s.rdB R.ceBankStatus n)

/-! ### The loop law (R108, R109) -/

/-- Parameters of a context as an evaluation uses them. -/
structure CtxPar where
  w0 : Word
  refSig : Nat
  fbSig : Nat
  ffSig : Nat
  outSig : Nat
  umaxSig : Nat
  uminSig : Nat
  kp : Int
  ki : Int
  kd : Int
  kf : Int
  shP : Nat
  shI : Nat
  shD : Nat
  shF : Nat
  uMax : Int
  uMin : Int
  iMax : Int
  iMin : Int
  tol : Nat
  handN : Nat

/-- The parameter set of context `c` in bank `b`. -/
def State.ctxPar (s : State) (b c : Nat) : CtxPar :=
  let i := 512 * b + c
  { w0 := s.rd (R.ceParam0 i)
    refSig := s.rdF (R.ceParam1 i) 11 0, fbSig := s.rdF (R.ceParam1 i) 27 16
    ffSig := s.rdF (R.ceParam2 i) 11 0, outSig := s.rdF (R.ceParam2 i) 27 16
    umaxSig := s.rdF (R.ceParam3 i) 27 16, uminSig := s.rdF (R.ceParam3 i) 11 0
    kp := s.rdS (R.ceParam4 i), ki := s.rdS (R.ceParam5 i), kd := s.rdS (R.ceParam6 i), kf := s.rdN (R.ceParam7 i)
    shP := s.rdF (R.ceParam8 i) 4 0, shI := s.rdF (R.ceParam8 i) 12 8
    shD := s.rdF (R.ceParam8 i) 20 16, shF := s.rdF (R.ceParam8 i) 28 24
    uMax := s.rdS (R.ceParam9 i), uMin := s.rdS (R.ceParam10 i), iMax := s.rdS (R.ceParam11 i), iMin := s.rdS (R.ceParam12 i)
    tol := s.rdN (R.ceParam13 i), handN := s.rdF (R.ceParam14 i) 10 0 }

def CtxPar.en (p : CtxPar) : Bool := bitOf p.w0 31
def CtxPar.iEn (p : CtxPar) : Bool := bitOf p.w0 30
def CtxPar.dEn (p : CtxPar) : Bool := bitOf p.w0 29
def CtxPar.ffEn (p : CtxPar) : Bool := bitOf p.w0 28
def CtxPar.sign (p : CtxPar) : Bool := bitOf p.w0 27
def CtxPar.dSrc (p : CtxPar) : Bool := bitOf p.w0 26
def CtxPar.awMode (p : CtxPar) : Bool := bitOf p.w0 25
def CtxPar.compute (p : CtxPar) : Bool := bitOf p.w0 24
def CtxPar.selVal (p : CtxPar) : Nat := fieldOf p.w0 19 16
def CtxPar.selSig (p : CtxPar) : Nat := fieldOf p.w0 11 0

/-- The conditions of R110. -/
def CtxPar.valid (p : CtxPar) : Bool :=
  (!p.dEn || (decide (0 < p.kf) && decide (p.kf ≤ (2 ^ p.shF : Nat)))) && decide (p.uMin ≤ p.uMax) && decide (p.iMin ≤ p.iMax) &&
    decide (1 ≤ p.handN) && decide (p.handN ≤ 1024)

/-- A value saturated to 32 bits with the `STATUS` bit `b` where it saturated (R108). -/
def satBit (b : Nat) (x : Int) : Int × Nat := (sat32 x, if over32 x then 2 ^ b else 0)

/-- The part of R109 up to v: error, x, filter state, v, and the saturation bits. -/
structure LawV where
  e : Int
  x : Int
  d : Int
  v : Int
  bits : Nat

/-- R109 up to v from the inputs read and the state before. -/
def lawV (p : CtxPar) (c : CtxSt) (ref fb ff : Int) : LawV :=
  let e := satBit 1 (if p.sign then fb - ref else ref - fb)
  let x : Int × Nat := if !p.dSrc then (e.1, 0) else if p.sign then (fb, 0) else satBit 1 (0 - fb)
  let pt := satBit 2 (shrRound (p.kp * e.1) p.shP)
  let xp := if c.first then x.1 else c.x
  let dx := satBit 4 (x.1 - xp)
  let q := satBit 4 (shrRound (p.kd * dx.1) p.shD)
  let dq := satBit 4 (q.1 - c.d)
  let df := satBit 4 (shrRound (p.kf * dq.1) p.shF)
  let d1 := satBit 4 (c.d + df.1)
  let v0 := satBit 5 (pt.1 + (if p.dEn then d1.1 else 0))
  let v1 := if p.ffEn then satBit 5 (v0.1 + ff) else (v0.1, 0)
  let db := if p.dEn then Nat.lor (Nat.lor dx.2 q.2) (Nat.lor (Nat.lor dq.2 df.2) d1.2) else 0
  ⟨e.1, if p.dEn then x.1 else c.x, if p.dEn then d1.1 else c.d, v1.1,
    Nat.lor (Nat.lor (Nat.lor e.2 x.2) (Nat.lor pt.2 db)) (Nat.lor v0.2 v1.2)⟩

/-- The output limited to its effective limits: the value, whether it was limited, and whether the limits cross. -/
def limitU (lo hi u : Int) : Int × Bool × Bool :=
  if hi < lo then (hi, true, true) else (clampI lo hi u, !decide (clampI lo hi u = u), false)

/-- The integral step of R109: the new integrator and the saturation bits. -/
def lawI (p : CtxPar) (i v e lo hi : Int) : Int × Nat :=
  if !p.iEn then (0, 0)
  else
    let inc := satBit 3 (shrRound (p.ki * e) p.shI)
    let sum := satBit 3 (i + inc.1)
    let cand := clampI p.iMin p.iMax sum.1
    let ut := satBit 5 (v + cand)
    let stop := p.awMode && ((decide (hi < ut.1) && decide (0 < inc.1)) || (decide (ut.1 < lo) && decide (inc.1 < 0)))
    (if stop then i else cand, Nat.lor (Nat.lor inc.2 sum.2) ut.2)

/-- The offset of a blend: ⌊(2Δ·left + N) / 2N⌋ (R115). -/
def blendOffset (delta : Int) (left n : Nat) : Int := (2 * delta * left + n).fdiv (2 * n)

/-- `STATUS` bits of a context: sticky bits `bits` are set, `AT_LIMIT` shows `lim`. -/
def CtxSt.mark (c : CtxSt) (bits : Nat) (lim : Bool) : CtxSt :=
  { c with status := setNatBit (Nat.lor c.status bits) 0 lim, newBits := Nat.lor c.newBits bits }

/-- What an evaluation of the active member gives: its new state, the output, and whether anything saturated. -/
structure LawOut where
  c : CtxSt
  out : Int
  sat : Bool

/-- One evaluation of the active context with the effective limits `lo`, `hi` (R109, R114, R115). `prev` is the last output of the set;
`hand` says that a hand-over is performed. -/
def lawActive (p : CtxPar) (c : CtxSt) (ref fb ff lo hi prev : Int) (hand : Bool) : LawOut :=
  let l := lawV p c ref fb ff
  let c1 : CtxSt := { c with x := l.x, d := l.d, first := false, hand := false }
  if hand then
    let pre := satBit 3 (prev - l.v)
    let i := if p.iEn then clampI p.iMin p.iMax pre.1 else 0
    let sum := satBit 5 (l.v + i)
    let u := limitU lo hi sum.1
    let bits := Nat.lor (Nat.lor l.bits (if p.iEn then pre.2 else 0)) (Nat.lor sum.2 (if u.2.2 then 64 else 0))
    let sat := decide (Nat.land bits 0x3E ≠ 0)
    if (u.1 - prev).natAbs ≤ p.tol then
      ⟨({ c1 with i := i, left := 0 }).mark bits u.2.1, u.1, sat⟩
    else
      let dl := satBit 5 (prev - u.1)
      ⟨({ c1 with i := i, left := p.handN, delta := dl.1 }).mark (Nat.lor (Nat.lor bits dl.2) 128) u.2.1, prev, sat || decide (dl.2 ≠ 0)⟩
  else
    let ii := lawI p c.i l.v l.e lo hi
    let sum := satBit 5 (l.v + ii.1)
    let u := limitU lo hi sum.1
    let left := c.left - 1
    let off := if c.left = 0 then 0 else blendOffset c.delta left p.handN
    let out := satBit 5 (u.1 + off)
    let bits := Nat.lor (Nat.lor (Nat.lor l.bits ii.2) (Nat.lor sum.2 out.2)) (if u.2.2 then 64 else 0)
    ⟨({ c1 with i := ii.1, left := left }).mark bits u.2.1, out.1, decide (Nat.land bits 0x3E ≠ 0)⟩

/-! ### A context and a mode set at an evaluation (R111–R116, R120) -/

/-- The signals of a context with parameters `p` as a step of thread `n` reads them now. -/
def State.ctxRead (s : State) (n : Nat) (p : CtxPar) : CtxRead :=
  ⟨s.sigStep n p.refSig, s.sigStep n p.fbSig, s.sigStep n p.ffSig, s.sigStep n p.umaxSig, s.sigStep n p.uminSig, s.sigStep n p.selSig⟩

/-- What context `c` of the group that runs has read. -/
def State.readOf (s : State) (n : Nat) (p : CtxPar) (c : Nat) : CtxRead :=
  ((s.ce.reads.find? (fun x => x.1 == c)).map (·.2)).getD (s.ctxRead n p)

/-- Of what a context has read: the effective limits, and the qualities that R111 checks. -/
def CtxPar.hi (p : CtxPar) (r : CtxRead) : Int := if p.umaxSig = 0xFFF then p.uMax else min p.uMax (sval r.umax.val)
def CtxPar.lo (p : CtxPar) (r : CtxRead) : Int := if p.uminSig = 0xFFF then p.uMin else max p.uMin (sval r.umin.val)
def CtxPar.quals (p : CtxPar) (r : CtxRead) : List Qual :=
  (if p.selSig = 0xFFF then [] else [r.sel.qual]) ++ [r.ref.qual, r.fb.qual] ++ (if p.ffEn then [r.ff.qual] else []) ++
    (if p.umaxSig = 0xFFF then [] else [r.umax.qual]) ++ (if p.uminSig = 0xFFF then [] else [r.umin.qual])

/-- Whether a context holds: an input is unusable and `INV_ACT` is 0 (R111). -/
def State.ctxHolds (s : State) (p : CtxPar) (r : CtxRead) : Bool := (p.quals r).any (fun q => !s.usable q) && !p.compute

/-- A context's state at the begin of an evaluation: whether it is the active one, and one more evaluation. -/
def CtxSt.begun (c : CtxSt) (active : Bool) : CtxSt := { c with active := active, runs := (c.runs + 1) % 2 ^ 32 }

/-- A member that is not active keeps its derivative current (R113); with an unusable input and `INV_ACT` 0 it holds (R111). -/
def State.ctxIdle (s : State) (n : Nat) (p : CtxPar) (c : Nat) : State :=
  let r := s.readOf n p c
  let st := { (s.ctx c).begun false with left := 0 }
  if s.ctxHolds p r then s.setCtx c { st with first := true }
  else
    let l := lawV p st (sval r.ref.val) (sval r.fb.val) (sval r.ff.val)
    s.setCtx c (({ st with x := l.x, d := l.d, first := false }).mark (Nat.land l.bits 0x12) (natBit st.status 0))

/-- Whether a state word of context `c`, or a parameter word of its set in bank `b`, holds an uncorrectable error (R120). -/
def State.ctxBadState (s : State) (c : Nat) : Bool := tabGet (fun _ => false) s.ce.bad (R.ceState0 c)
def State.ctxBadPar (s : State) (b c : Nat) : Bool :=
  (List.range 16).any (fun w => tabGet (fun _ => false) s.ce.bad (R.ceParam0 (512 * b + c) + 4 * w))
def State.ctxBad (s : State) (b c : Nat) : Bool := s.ctxBadState c || s.ctxBadPar b c

/-- A word of the context memory has, or no longer has, an uncorrectable error. -/
def State.setCtxBad (s : State) (a : Nat) (on : Bool) : State :=
  { s with ce := { s.ce with bad := tabSet (fun _ => false) s.ce.bad a on } }

/-- An event that concerns context `c` is offered to `CE_ERR.CTX` (R118). -/
def State.ceOffer (s : State) (c : Nat) : State :=
  if s.rdB R.ceErr 31 || s.rdB R.ceErr 30 || s.rdB R.ceErr 29 || decide (s.rdF R.ceBankStatus 11 8 ≠ 0) then s
  else s.wrF R.ceErr 8 0 c

/-- An evaluation of context `c`, active or not, meets an uncorrectable error (R120): the flags; its state words are rewritten, and after an
error in one of them its next evaluation counts as a first one. -/
def State.ceErrUnc (s : State) (c : Nat) (active : Bool) : State :=
  let s := (((s.ceOffer c).raise R.ceErr 29).post 33 c)
  let st := ((s.ctx c).begun active).mark 512 (natBit (s.ctx c).status 0)
  (s.setCtx c { st with first := st.first || s.ctxBadState c }).setCtxBad (R.ceState0 c) false

/-- The set with leader `ld` writes the leader's `u_out` again with quality `q`. -/
def State.ctxAgain (s : State) (p : CtxPar) (ld : Nat) (q : Qual) : State :=
  (s.setCtx ld { s.ctx ld with ran := true }).sigWrite p.outSig (wordOf (s.ctx ld).u) q

/-- The active member `a` of a set with leader `ld` is evaluated; `hand` asks for a hand-over. -/
def State.ctxActive (s : State) (n : Nat) (p : CtxPar) (a ld : Nat) (hand : Bool) : State :=
  let r := s.readOf n p a
  let q := s.qJoin (p.quals r)
  let st := (s.ctx a).begun true
  if s.ctxHolds p r then
    (s.setCtx a { st with first := true, hand := hand, left := if hand then 0 else st.left }).ctxAgain p ld q
  else
    let o := lawActive p (if hand then { st with left := 0 } else st) (sval r.ref.val) (sval r.fb.val) (sval r.ff.val) (p.lo r) (p.hi r)
      (s.ctx ld).u hand
    let s := s.setCtx a o.c
    let s := s.setCtx ld { s.ctx ld with u := o.out, ran := true }
    s.sigWrite p.outSig (wordOf o.out) (if o.sat then qWith q qSat true else q)

/-- A mode set, or a single context, is evaluated: `ms` are its enabled members, ascending; the leader's reading of the selector counts
(R112–R116). A member that meets an uncorrectable error holds alone (R120). -/
def State.ctxSet (s : State) (n b : Nat) (ms : List Nat) : State :=
  match ms with
  | [] => s
  | ld :: _ =>
    let p0 := s.ctxPar b ld
    let sel := (s.readOf n p0 ld).sel
    let fixed := decide (p0.selSig = 0xFFF)
    let old := ms.find? (fun c => (s.ctx c).active)
    let act : Option Nat :=
      if fixed then some ld
      else if !s.usable sel.qual then old
      else ms.find? (fun c => decide (((s.ctxPar b c).selVal : Int) = sval sel.val))
    let ran := (s.ctx ld).ran
    let s := ms.foldl (fun s c =>
      if act = some c then s else if s.ctxBad b c then s.ceErrUnc c false else s.ctxIdle n (s.ctxPar b c) c) s
    match act with
    | some a =>
      let hand := !fixed && ((ran && decide (old ≠ some a)) || (s.ctx a).hand)
      if s.ctxBad b a then
        let s := s.ceErrUnc a true
        (s.setCtx a { s.ctx a with hand := hand, left := if hand then 0 else (s.ctx a).left }).ctxAgain p0 ld 0x8100#16
      else s.ctxActive n (s.ctxPar b a) a ld hand
    | none =>
      (s.setCtx ld ((s.ctx ld).mark 256 (natBit (s.ctx ld).status 0))).ctxAgain p0 ld (s.qJoin [sel.qual] ||| 0x8000#16)

/-- The mode sets of a list of contexts: enabled contexts gathered under the lowest one with the same output. -/
def State.ctxSets (s : State) (b : Nat) : List Nat → List (List Nat)
  | [] => []
  | c :: cs =>
    let rest := State.ctxSets s b cs
    if !(s.ctxPar b c).en then rest
    else
      let out := (s.ctxPar b c).outSig
      let same (m : List Nat) : Bool := match m.head? with
        | some d => (s.ctxPar b d).outSig == out && (s.ctxPar b c).selSig != 0xFFF
        | none => false
      match rest.find? same with
      | some m => (c :: m) :: rest.filter (fun k => !same k)
      | none => [c] :: rest

/-- Slot `j` of group `g` of thread `n` begins: the contexts at positions 2j and 2j + 1 read their inputs, and the sets whose last member is
one of them are evaluated (R106). -/
def State.groupSlot (s : State) (n g j : Nat) : State :=
  let b := s.bankOf n
  let cs := (s.groupCtx g).drop (2 * j) |>.take 2
  let got := cs.map (fun c => (c, s.ctxRead n (s.ctxPar b c)))
  let s : State := { s with ce := { s.ce with reads := if j = 0 then got else got ++ s.ce.reads } }
  ((s.ctxSets b (s.groupCtx g)).filter (fun ms => ms.getLast?.any cs.contains)).foldl (fun s ms => s.ctxSet n b ms) s

/-- Sub-steps of a slot, and the slots of group `g`: one for each two contexts (R106). -/
def slotTime : Nat := 170 * 32
def State.groupSlots (s : State) (g : Nat) : Nat := (s.groupCount g + 1) / 2

/-- The slots of group `g` of thread `n`, of which slot 0 begins at instant `x`, each at its own instant; those that have come begin now. -/
def State.groupEval (s : State) (n g x : Nat) : State :=
  (List.range (s.groupSlots g)).foldl (fun s j =>
    if x + j * slotTime ≤ s.clk.now then s.groupSlot n g j else s.soon (x + j * slotTime) (.slot n g j)) s

/-- The reads of thread `n`'s group meet `corr` corrected errors, and uncorrectable ones in the words `bad`: a context with a parameter
word of the bank in use, or with none for a state word (R120). -/
def State.groupErrs (s : State) (n corr : Nat) (bad : List (Nat × Option Nat)) : State :=
  bad.foldl (fun s x => s.setCtxBad (match x.2 with
    | some w => R.ceParam0 (512 * s.bankOf n + x.1) + 4 * w
    | none => R.ceState0 x.1) true) (s.countUp R.ceErr 28 21 corr)

/-- Occupancy of the engine by group `g` in sub-steps: 70 ns and 170 ns for each two contexts (R106). -/
def State.groupTime (s : State) (g : Nat) : Nat := 70 * 32 + s.groupSlots g * slotTime

/-! ### Start, release and rollback (R109, R119) -/

/-- The sequencer of thread `n` starts: the next evaluation of each of its contexts is a first one (R109, R114). -/
def State.ceStart (s : State) (n : Nat) : State :=
  (s.threadCtx n).foldl (fun s c =>
    let s := s.setCtx c { s.ctx c with first := true, ran := false, hand := false }
    { s with ce := { s.ce with vis := tabSet (fun _ => CtxSt.init) s.ce.vis c { s.ctxVis c with
      first := true, ran := false, hand := false } } }) s

/-- An on-time period of thread `n` ends: the visible state takes the working state (R119). Every bit that the period has set counts as set
now, also one that was visible before (R7). -/
def State.cePublish (s : State) (n : Nat) : State :=
  (s.threadCtx n).foldl (fun s c =>
    let k := s.ctx c
    let s := (s.setCtx c { k with newBits := 0 }).markRaised (R.ceState6 c) (wordN k.newBits) 0#32
    { s with ce := { s.ce with vis := tabSet (fun _ => CtxSt.init) s.ce.vis c { k with newBits := 0 } } }) s

/-- A late period of thread `n` ends: the working state returns to the visible state (R119). -/
def State.ceRollback (s : State) (n : Nat) : State := (s.threadCtx n).foldl (fun s c => s.setCtx c (s.ctxVis c)) s

/-- A W1C write of `w` to the `STATUS` word of context `c` (R119). -/
def State.ceStatusWrite (s : State) (c : Nat) (w : Word) : State :=
  let clr := (w &&& ~~~ s.raisedNow (R.ceState6 c)).toNat % 1024 / 2 * 2
  let off (x keep : Nat) : Nat := Nat.land x (Nat.lor (Nat.xor 0x3FF clr) keep)
  let v := s.ctxVis c
  let k := s.ctx c
  let s := s.setCtx c { k with status := off k.status k.newBits }
  { s with ce := { s.ce with vis := tabSet (fun _ => CtxSt.init) s.ce.vis c { v with status := off v.status 0 } } }

/-- State word `w` of context `c` as cores see it (Table 6.3). -/
def State.ctxWord (s : State) (c w : Nat) : Word :=
  let v := s.ctxVis c
  match w with
  | 0 => wordOf v.i
  | 1 => wordOf v.d
  | 2 => wordOf v.x
  | 3 => wordOf v.u
  | 4 => wordN (v.left * 65536 + b2n v.active)
  | 5 => wordOf v.delta
  | 6 => wordN v.status
  | _ => wordN v.runs

/-! ### Banks (R117, R118) -/

/-- A write of `w` to parameter word `k` of context `c` in bank `b` (R117, R118). In the fabric cycle of a swap the banks count as before it.
The word written is free of errors (R120). -/
def State.ceParamWrite (s : State) (b c k : Nat) (w : Word) : State :=
  match s.ctxThread c with
  | none => (s.ceOffer c).raise R.ceErr 31
  | some n =>
    let swapped := decide (tabGet (fun _ => 0) s.ce.swapCyc n = s.clk.now / fabCycle + 1)
    if decide (s.bankOf n = b) != swapped then (s.ceOffer c).raise R.ceErr 31
    else if s.rdB R.ceBankCtrl n || swapped then (s.ceOffer c).raise R.ceErr 30
    else
      let a := R.ceParam0 (512 * b + c) + 4 * k
      (s.storeReg a w).setCtxBad a (decide (k < 4 ∨ k = 15) && tabGet (fun _ => false) s.ce.bad a)

/-- `BANK_SWAP_REQUEST` for thread `n` (R118). -/
def State.ceSwapReq (s : State) (n : Nat) : State :=
  if s.rdB R.ceBankCtrl n then s
  else
    let b := 1 - s.bankOf n
    match (s.threadCtx n).find? (fun c => !(s.ctxPar b c).valid) with
    | some c => ((s.ceOffer c).raise R.ceBankStatus (8 + n)).post 33 (0x200 + n)
    | none =>
      let s := s.wrB R.ceBankCtrl n true
      { s with ce := { s.ce with swapAt := tabSet (fun _ => 0) s.ce.swapAt n s.clk.now } }

/-- The swap at a sample instant of thread `n` that lies at least four fabric cycles after the request (R118). -/
def State.ceSwap (s : State) (n : Nat) : State :=
  if s.rdB R.ceBankCtrl n ∧ tabGet (fun _ => 0) s.ce.swapAt n + 4 * fabCycle ≤ s.clk.now then
    let s := (s.wrB R.ceBankCtrl n false).wrB R.ceBankStatus n (s.bankOf n == 0)
    { s with ce := { s.ce with swapCyc := tabSet (fun _ => 0) s.ce.swapCyc n (s.clk.now / fabCycle + 1) } }
  else s

/-! ### The engine's time (R106, R107) -/

/-- Fabric-cycle boundary at or after an instant. -/
def fabCeil (x : Nat) : Nat := (x + fabCycle - 1) / fabCycle * fabCycle

/-- The steps that wait, and of them the one that is granted first: by fabric cycle of arrival, then by thread (R107). -/
def State.ceHead (s : State) : Option (Nat × Nat) :=
  s.ce.queue.foldl (fun a x => match a with
    | none => some x
    | some y => if x.2 < y.2 ∨ (x.2 = y.2 ∧ x.1 < y.1) then some x else some y) none

/-- Thread `n` takes the engine at instant `x` for group `g`. -/
def State.ceTake (s : State) (n g x : Nat) : State :=
  { s with ce := { s.ce with owner := n, from_ := x, until_ := x + s.groupTime g, queue := s.ce.queue.filter (fun q => q.1 != n) } }

/-- A late period of thread `n` ends: its waiting step is dropped, and the engine stops at the end of the slot it computes (R39). In the 70 ns
after the last slot it computes none, and it stays busy to the end of them (DESIGN CHOICE, log 93). -/
def State.ceAbort (s : State) (n : Nat) : State :=
  let now := s.clk.now
  let e := s.ce
  let stop := e.from_ + (now - e.from_ + slotTime - 1) / slotTime * slotTime
  { s with
    ce := { e with queue := e.queue.filter (fun q => q.1 != n)
                   until_ := if e.owner = n ∧ now < e.until_ then min e.until_ stop else e.until_ }
    prot := { s.prot with inb := s.prot.inb.filter (fun x => match x.2 with
      | .slot m _ _ => m != n
      | _ => true) } }

end Sys2Proof.Machine
end

