-- ==== Sys2Proof/Machine/Sdf.lean ====
section
/-! DEFINITION. The filter array behind the CIC: FIR, resampler, release, detectors, stuck streams, protection levels and the close
of a chain (R49, R55–R69). -/

namespace Sys2Proof.Machine

/-! ### Configuration -/

def State.firEn (s : State) (i : Nat) : Bool := s.rdB (R.sdfChFir i) 31
def State.firN (s : State) (i : Nat) : Nat := s.rdF (R.sdfChFir i) 8 0
/-- Decimation of the FIR; 1 where it passes its input on. -/
def State.firD (s : State) (i : Nat) : Nat := if s.firEn i then max 1 (s.rdF (R.sdfChFir i) 22 16) else 1
def State.firBase (s : State) (i : Nat) : Nat := s.rdF (R.sdfChCoef i) 13 0
def State.rsBase (s : State) (i : Nat) : Nat := s.rdF (R.sdfChCoef i) 29 16
def State.rsMode (s : State) (i : Nat) : Nat := s.rdF (R.sdfChRs i) 31 30
def State.rsTaps (s : State) (i : Nat) : Nat := 2 ^ (s.rdF (R.sdfChRs i) 29 28 + 1)
def State.rsOut (s : State) (i : Nat) : Nat := s.rdF (R.sdfChRs i) 19 0
def State.valSig (s : State) (i : Nat) : Nat := s.rdF (R.sdfChSig i) 11 0
def State.tsSig (s : State) (i : Nat) : Nat := s.rdF (R.sdfChSig i) 27 16
def State.closeLag (s : State) (n : Nat) : Nat := 32 * s.rdF (R.sdfCloseLag n) 19 0

/-- Period of the CIC outputs of chain `i`, in sub-steps. -/
def State.cicT (s : State) (i : Nat) : Nat := s.chR i * s.chP i

/-- FIR output period T_in in sub-steps (R59). -/
def State.firT (s : State) (i : Nat) : Nat := s.firD i * s.cicT i

/-- G_fir in sub-steps (R56, R60). -/
def State.firGd (s : State) (i : Nat) : Nat :=
  if !s.firEn i then 0
  else if s.rdB (R.sdfChFir i) 30 then (s.firN i - 1) * s.cicT i / 2
  else (s.rdF (R.sdfChFirGd i) 15 0 * s.cicT i + 32) / 64

/-- G_cic in sub-steps (R54). -/
def State.cicGd (s : State) (i : Nat) : Nat := s.chK i * (s.chR i - 1) * s.chP i / 2

/-- Represented instant of CIC output `j` (R48, R50, R54). -/
def State.cicInst (s : State) (i : Nat) (j : Int) : Int :=
  (j * s.chR i + s.chR i - 1) * s.chP i + s.chInOfs i - s.chDly i * s.chP i - s.cicGd i

/-- Represented instant of FIR output `f`. -/
def State.firInst (s : State) (i : Nat) (f : Int) : Int := s.cicInst i (f * s.firD i + s.firD i - 1) - s.firGd i

/-- The resampler's share A of the latency (R60). -/
def State.rsLat (s : State) (i : Nat) : Nat :=
  if s.rsMode i = 0 then 0 else s.rsTaps i / 2 * s.firT i + 2 * usec

/-- L_ch in sub-steps, rounded up to a fabric cycle (R60). -/
def State.chLat (s : State) (i : Nat) : Int :=
  let x : Int := 8 * s.rdF (R.sdfChCap i) 24 16 - s.chInOfs i + 256 + s.chDly i * s.chP i + s.cicGd i + s.firGd i +
    (if s.firEn i then 2 * usec else 0 : Nat) + s.rsLat i
  let y := (-x) / 64
  y * (-64)

/-! ### Sample instants and targets (R22, R32, R58) -/

def State.seqP (s : State) (n : Nat) : Nat := 32 * s.rdF (R.seqPeriod n) 19 0
/-- The carrier that paces thread `n` (R214); none where the thread has no period. -/
def State.threadCar (s : State) (n : Nat) : Option Nat := if s.seqP n = 0 then none else some n

/-- The least sample instant of thread `n`, on the timebase, at or after `T`: `ADVANCE` before a reload of the thread's carrier
(R22); none where the thread has no carrier. -/
def State.sampleFrom (s : State) (n : Nat) (T : Int) : Option Int :=
  match s.threadCar n with
  | none => none
  | some c => (s.toReload c (T + s.seqAdv n)).map (fun d => T + d)

/-- The resampler target after `τ` (R58). -/
def State.rsAfter (s : State) (i : Nat) (tau : Int) : Int :=
  let nxt := tau + 32 * s.rsOut i
  if s.rsMode i = 2 then
    let n := s.chThread i
    match s.sampleFrom n (tau + s.closeLag n + 1) with
    | some t => min nxt (t - s.closeLag n)
    | none => nxt
  else nxt

/-- The first resampler target at or after `T`; in mode 2 the first of a period, so that the rest of the grid of the period that runs at the load
gives none (DESIGN CHOICE, log 87). -/
def State.rsFirst (s : State) (i : Nat) (T : Int) : Int :=
  let o := 32 * s.rsOut i
  if s.rsMode i = 2 then
    let n := s.chThread i
    match s.sampleFrom n (T + s.closeLag n) with
    | some t => t - s.closeLag n
    | none => T
  else T + (32 * s.rdF (R.sdfChRsPhase i) 19 0 - T) % (max 1 o : Nat)

/-! ### Coefficients (R57) and the MAC frames (R64) -/

/-- Coefficient `w` as a signed 24-bit number. -/
def State.coef (s : State) (w : Nat) : Int := signedOf 24 (s.rdF (R.sdfCoef w) 23 0)

/-- Whether one of `n` coefficient words from `w` is known to be uncorrectable. -/
def State.coefBad (s : State) (w n : Nat) : Bool :=
  (List.range n).any (fun k => tabGet (fun _ => false) s.sdf.bad (w + k))

/-- Errors found while reading the `n` coefficient words from `w`: `corr` corrected ones and the uncorrectable words `unc`; a word known to be
uncorrectable is found again at every read (R57). -/
def State.coefErrors (s : State) (w n corr : Nat) (unc : List Nat) : State :=
  let s := s.countUp R.sdfErr 29 22 corr
  let known := (tabKeys s.sdf.bad).filter (fun x => decide (w ≤ x ∧ x < w + n))
  match known ++ unc.filter (fun x => decide (w ≤ x ∧ x < w + n)) with
  | [] => s
  | x :: xs =>
    let s := s.raiseCapture R.sdfErr 30 R.sdfErr 13 0 (xs.foldl min x)
    { s with sdf := { s.sdf with bad := (x :: xs).foldl (fun t y => tabSet (fun _ => false) t y true) s.sdf.bad } }

/-- `n` MAC operations of the present frame; `PEAK` holds the highest use seen. -/
def State.macUse (s : State) (n : Nat) : State :=
  let f := (s.tb / 32000).toNat
  let u := (if s.sdf.frame = f then s.sdf.used else 0) + n
  let s : State := { s with sdf := { s.sdf with frame := f, used := u } }
  s.wrF R.sdfMac 31 16 (max (s.rdF R.sdfMac 31 16) (min u 65535))

/-! ### FIR (R55) -/

/-- The CIC output with index `j`, if it is held. -/
def ChainSt.cicAt (c : ChainSt) (j : Int) : Option CicOut := c.cic.find? (fun o => (o.j : Int) == j)

/-- Number of the oldest of the K × R bits behind CIC output `j` (R60). -/
def State.cicOld (s : State) (i : Nat) (j : Int) : Int :=
  j * s.chR i + s.chR i - s.chDly i - s.chK i * s.chR i

/-- The FIR output with index `f` of chain `i`, if its newest input is available (R54, R55). -/
def State.firCompute (s : State) (i f : Nat) : Option FiltOut :=
  let c := s.chain i
  let j : Int := f * s.firD i + s.firD i - 1
  match c.cicAt j with
  | none => none
  | some x0 =>
    let inst := s.firInst i f
    if s.clk.now < x0.at_ then none
    else if !s.firEn i then some ⟨f, inst, x0.v, s.cicOld i j, x0.sat, false⟩
    else
      let n := s.firN i
      let terms := (List.range n).map (fun (k : Nat) => (c.cicAt (j - (k : Int)), s.coef (s.firBase i + k)))
      let sum := terms.foldl (fun a x => a + x.2 * (x.1.map (·.v)).getD 0) 0
      let y := shrRound sum (s.rdF (R.sdfChFir i) 29 24)
      let satIn := terms.any (fun x => match x.1 with
        | some o => o.sat
        | none => false)
      some ⟨f, inst, sat32 y, s.cicOld i (j - n + 1), satIn || over32 y, s.coefBad (s.firBase i) n⟩

/-- An output of chain `i` was marked under R57: the flag, and substitution by R102. -/
def State.eccMark (s : State) (i : Nat) (b : Bool) : State := if b then (s.raise (R.sdfChStatus i) 4).subAuto i else s

/-- `FIR_OUTPUT`: the next FIR output is computed; reading its coefficients met `corr` corrected words and the uncorrectable
words `unc` (R55, R57). -/
def State.firOutput (s : State) (i corr : Nat) (unc : List Nat) : State :=
  let f := (s.chain i).firNext
  if s.chEn i then
    match s.firCompute i f with
    | none => s
    | some _ =>
      let s := if s.firEn i then (s.coefErrors (s.firBase i) (s.firN i) corr unc).macUse (s.firN i) else s
      match s.firCompute i f with
      | none => s
      | some o =>
        let c := s.chain i
        let s := s.setChain i { c with fir := (o :: c.fir).take 64, firNext := f + 1 }
        let s := s.raiseIf o.sat (R.sdfChStatus i) 3
        s.eccMark i o.ecc
  else s

/-! ### Resampler (R59) -/

/-- The bracket of a target: FIR index, phase and weight. -/
def State.rsBracket (s : State) (i : Nat) (tau : Int) : Int × Nat × Nat :=
  let T := max 1 (s.firT i)
  let m := (tau - s.firInst i 0) / (T : Nat)
  let r := (tau - s.firInst i m).toNat
  let q := (r * 65536 * 2 + T) / (2 * T)
  if q = 65536 then (m + 1, 0, 0) else (m, q / 1024, q % 1024)

/-- The resampler output for target `tau`, if its newest input is there. -/
def State.rsCompute (s : State) (i : Nat) (tau : Int) : Option FiltOut :=
  let c := s.chain i
  let b := s.rsBracket i tau
  let t := s.rsTaps i
  let idx (j : Nat) : Int := b.1 - (t / 2 : Nat) + 1 + j
  let find (k : Int) : Option FiltOut := c.fir.find? (fun o => (o.f : Int) == k)
  match find (idx (t - 1)) with
  | none => none
  | some _ =>
    let xs := (List.range t).map (fun j => find (idx j))
    let base := s.rsBase i
    let y (p : Nat) : Int := shrRound ((List.range t).foldl (fun a j =>
      a + s.coef (base + p * t + j) * ((nth none xs j).map (·.v)).getD 0) 0) 23
    let y0 := y b.2.1
    let z := y0 + shrRound ((y (b.2.1 + 1) - y0) * b.2.2) 10
    let old := xs.foldl (fun (a : Int) x => match x with
      | some o => min a o.old
      | none => -1) (((xs.getLast?.getD none).map (·.old)).getD (-1))
    let sat := xs.any (fun x => match x with
      | some o => o.sat
      | none => false)
    let ecc := xs.any (fun x => match x with
      | some o => o.ecc
      | none => false)
    some ⟨0, tau, sat32 z, old, sat || over32 z, ecc || s.coefBad (base + b.2.1 * t) (2 * t)⟩

/-- `RESAMPLER_OUTPUT`: the output for the next target is computed (R59). -/
def State.rsOutput (s : State) (i corr : Nat) (unc : List Nat) : State :=
  let tau := (s.chain i).rsNext
  if s.chEn i && s.rsMode i != 0 then
    match s.rsCompute i tau with
    | none => s
    | some _ =>
      let lo := s.rsBase i + (s.rsBracket i tau).2.1 * s.rsTaps i
      let s := (s.coefErrors lo (2 * s.rsTaps i) corr unc).macUse (2 * s.rsTaps i)
      match s.rsCompute i tau with
      | none => s
      | some o =>
        let c := s.chain i
        let s := s.setChain i { c with rs := (o :: c.rs).take 64, rsNext := s.rsAfter i tau }
        let s := s.raiseIf o.sat (R.sdfChStatus i) 3
        s.eccMark i o.ecc
  else s

/-! ### Release (R60, R62, R63, R65, R69) -/

/-- Network time, in units of 2^-34 ns, over `d` sub-steps at increment `i`: d × i / 8 ns, rounded half up to the fraction of 2^-32 ns (R374). -/
def ntSpan (d : Int) (i : Nat) : Int := divRound (d * i) 1024 * 4

/-- Network time, in units of 2^-34 ns, of a timebase instant, by the capture pair of thread `n` (R63, R374); before the thread's first sample
instant, by the present network time and increment (DESIGN CHOICE, log 84). -/
def State.ntOf (s : State) (n : Nat) (T : Int) : Nat :=
  match (s.seq n).capture with
  | some c => ((c.2 : Int) * 2 ^ 34 + ntSpan (T - c.1) (s.seq n).capInc).toNat
  | none => ((s.netTime s.clk.now : Int) + ntSpan (T - s.tb) (s.netInc s.clk.now)).toNat

/-- A chain's signals take a sample: `VAL_SIG` and `TS_SIG` of chain `i` with time-stamp `ts`. -/
def State.writeSample (s : State) (i : Nat) (v ts : Int) (q : Qual) : State :=
  (s.sigWrite (s.valSig i) (wordOf v) q).sigWrite (s.tsSig i) (wordOf ts) q

/-- Whether an output of chain `i` is clean: its oldest bit was captured after the start and the last recovery (R60). -/
def State.outClean (s : State) (i : Nat) (o : FiltOut) : Bool := decide (((s.chain i).clean : Int) ≤ o.old)

/-- The quality of an output of chain `i` as it is released now (R49, R57, R60, R69). -/
def State.relQual (s : State) (i : Nat) (o : FiltOut) : Qual :=
  let stuck := s.rdB (R.sdfChStatus i) 1
  let clean := s.outClean i o
  let q : Qual := if o.sat then 0x1000#16 else 0#16
  let q := if stuck || o.ecc then q ||| 0x8100#16 else q
  if clean then q else q ||| 0x8000#16

/-- Released samples kept for a close: more than the releases of the longest period and the longest `CLOSE_LAG` (R32, R55, R58). -/
def relKept : Nat := 16384

/-- Chain `i` releases a sample; a clean one primes the chain (R60). -/
def State.releaseOut (s : State) (i : Nat) (inst v : Int) (q : Qual) (clean : Bool) : State :=
  let c := s.chain i
  let s := s.setChain i { c with rel := (⟨inst, v, q, s.clk.now / fabCycle⟩ :: c.rel).take relKept }
  let s := s.wr (R.sdfChTs i) (wordOf inst)
  let s := if clean then s.wrB (R.sdfChStatus i) 7 true else s
  let n := s.chThread i
  let s := s.recChain i v q (s.ntOf (if n < 4 then n else 0) inst)
  if n = 7 then
    let s := if (s.subOf i).isSome then s else s.writeSample i v inst q
    if decide (96 ≤ i) && s.subOf (s.subPrimary (i - 96)) == some (i - 96) then s.writeSample (s.subPrimary (i - 96)) v inst (qWith q qSubst true) else s
  else s

/-- `CHAIN_RELEASE`: the output due at its represented instant plus L_ch is released; one that was never computed is released as the
previous value (R60, R65). -/
def State.chainRelease (s : State) (i : Nat) : State :=
  let c := s.chain i
  let direct := decide (s.rsMode i = 0)
  let inst := if direct then s.firInst i c.relF else c.relTau
  if !s.chEn i ∨ s.tb < inst + s.chLat i then s
  else
    let o := if direct then c.fir.find? (fun x => x.f == c.relF) else c.rs.find? (fun x => x.inst == inst)
    let s := s.setChain i (if direct then { c with relF := c.relF + 1 } else { c with relTau := s.rsAfter i inst })
    match o with
    | some o => s.releaseOut i inst o.v (s.relQual i o) (s.outClean i o)
    | none =>
      let v := ((c.rel.head?).map (·.v)).getD 0
      (s.raise R.sdfErr 31).releaseOut i inst v 0x8100#16 false

/-! ### Detectors (R66) -/

/-- The flags `SATURATED`, `SOURCE_FAULT` and `INVALID` of a FIR output, as quality bits. -/
def State.detFlags (s : State) (i : Nat) (o : FiltOut) : Nat := (s.relQual i o).toNat

/-- RMS of the squares held: their mean over 2^`RMS_W`, those not yet taken counting 0 (DESIGN CHOICE, log 85). -/
def rmsOf (w : Nat) (sqs : List (Nat × Nat)) : Nat := min 0x7FFFFFFF (isqrt (sqs.foldl (fun a x => a + x.1) 0 / 2 ^ w))

/-- The detectors of chain `i` take a value with flags. The envelope is formed from every output before it, but for a shift of 0, which leaves
the new one alone (DEDUCED, log 86). -/
def State.detNext (s : State) (i : Nat) (d : DetSt) (v : Int) (fl : Nat) : DetSt :=
  let a := min v.natAbs 0x7FFFFFFF
  let sh := if d.env < a then s.rdF (R.sdfChDet i) 7 4 else s.rdF (R.sdfChDet i) 3 0
  { peak := some (match d.peak with
      | some (mn, mx) => (min mn v, max mx v)
      | none => (v, v))
    sqs := ((v.natAbs * v.natAbs, fl) :: d.sqs).take (2 ^ s.rdF (R.sdfChDet i) 19 16)
    env := ((d.env : Int) + shrRound ((a : Int) - d.env) sh).toNat
    flags := Nat.lor d.flags fl
    eflags := if sh = 0 then fl else Nat.lor d.eflags fl }

/-- The detector signals of chain `i` are written from what the detectors hold. -/
def State.detWrite (s : State) (i : Nat) (d : DetSt) : State :=
  let q := BitVec.ofNat 16 d.flags
  let s := match d.peak with
    | some (mn, mx) => (s.sigWrite (s.rdF (R.sdfChDsigA i) 11 0) (wordOf mx) q).sigWrite (s.rdF (R.sdfChDsigA i) 27 16)
        (wordOf mn) q
    | none => s
  if d.sqs.isEmpty then s
  else
    let qr := BitVec.ofNat 16 (d.sqs.foldl (fun a x => Nat.lor a x.2) 0)
    (s.sigWrite (s.rdF (R.sdfChDsigB i) 11 0) (wordN (rmsOf (s.rdF (R.sdfChDet i) 19 16) d.sqs)) qr).sigWrite
      (s.rdF (R.sdfChDsigB i) 27 16) (wordN d.env) (BitVec.ofNat 16 d.eflags)

/-- What the detectors hold after a restart of the peak. -/
def DetSt.restart (d : DetSt) : DetSt := { d with peak := none, flags := 0 }

/-- The close of the detectors of chain `i` of a thread: an output taken in the same fabric cycle belongs to the next interval (R66). -/
def State.detClose (s : State) (i : Nat) : State :=
  let c := s.chain i
  match c.detPre with
  | some (cyc, d, v, fl) =>
    if cyc = s.clk.now / fabCycle then
      let s := s.detWrite i d
      s.setChain i { s.chain i with det := { c.det with peak := some (v, v), flags := fl } }
    else
      let s := s.detWrite i c.det
      s.setChain i { s.chain i with det := c.det.restart }
  | none =>
    let s := s.detWrite i c.det
    s.setChain i { s.chain i with det := c.det.restart }

/-- `DETECTOR_TAKE`: the detectors take the FIR output due now (R66). In the common domain the signals are written at once, and the peak restarts
after each 2^`RMS_W` outputs, counted by FIR index (DESIGN CHOICE, log 85). -/
def State.detTake (s : State) (i : Nat) : State :=
  let c := s.chain i
  let inst := s.firInst i c.detF
  if !s.chEn i ∨ s.tb < inst + s.chLat i - s.rsLat i then s
  else
    match c.fir.find? (fun x => x.f == c.detF) with
    | none => s.setChain i { c with detF := c.detF + 1 }
    | some o =>
      let fl := s.detFlags i o
      let d := s.detNext i c.det o.v fl
      let s := s.setChain i { c with detF := c.detF + 1, det := d, detPre := some (s.clk.now / fabCycle, c.det, o.v, fl) }
      if s.chThread i = 7 then
        let s := s.detWrite i d
        if (c.detF + 1) % 2 ^ s.rdF (R.sdfChDet i) 19 16 = 0 then s.setChain i { s.chain i with det := d.restart } else s
      else s

/-! ### Bits: stuck streams, protection levels and DC-link thresholds (R49, R67, R297) -/

/-- DC-link sensing of every thread whose link chain `i` measures is judged again after a bit captured at `x` (R297). -/
def State.dcChainBit (s : State) (i x : Nat) : State :=
  s.each [0, 1, 2, 3] (fun s n => if s.dcEn n && (s.dcChA n == i || s.dcChB n == i) then s.dcSoon n x else s)

/-- The bits `m` of the quality of a signal are set as it stands. -/
def State.sigMark (s : State) (i : Nat) (m : Qual) : State :=
  if 4095 ≤ i then s else s.setStable i ⟨(s.sigStable i).val, (s.sigStable i).qual ||| m⟩

/-- A release of chain `i` in the present fabric cycle carries the stuck detection that came in it as well (R69). -/
def State.relMark (s : State) (i : Nat) : State :=
  let c := s.chain i
  match c.rel with
  | o :: r =>
    if o.cyc = s.clk.now / fabCycle then
      let s := s.setChain i { c with rel := { o with qual := o.qual ||| 0x8100#16 } :: r }
      if s.chThread i = 7 then (s.sigMark (s.valSig i) 0x8100#16).sigMark (s.tsSig i) 0x8100#16 else s
    else s
  | [] => s

/-- `STUCK` is set by the bit that completes a run of `STUCK_BITS` (R49), captured at `x`, and cleared by the one that completes `RECOVER`
bits after the last long run: a recovery of the chain (R60). -/
def State.stuckJudge (s : State) (i x : Nat) : State :=
  let c := s.chain i
  let on := s.rdB (R.sdfChStatus i) 1
  if !on && decide (s.rdF (R.sdfChMon i) 25 16 ≤ c.run) then
    let s := (((s.wrB (R.sdfChStatus i) 1 true).raise (R.sdfChStatus i) 2).relMark i).post 8 i
    ((s.srcSoon (224 + i) x true).subAuto i).wearStuck i
  else if on && decide (s.rdF (R.sdfChMon i) 9 0 ≤ c.since) && decide (0 < c.since) then
    ((s.wrB (R.sdfChStatus i) 1 false).chainRecover i x).srcSoon (224 + i) x false
  else s

/-- Source number of a level of chain `i`: trip 0–111, warn 112–223 (Table 14.2). -/
def pfSource (i : Nat) (trip : Bool) : Nat := if trip then i else 112 + i

/-- A level of the protection filter of chain `i` fires where its condition has held for its `DEB` bits, and ends where it no longer holds
(R67, R68). -/
def State.pfJudge (s : State) (i x : Nat) (trip : Bool) : State :=
  let c := s.chain i
  let deb := if trip then s.rdF (R.sdfChPf i) 11 8 else s.rdF (R.sdfChPf i) 3 0
  let cnt := if trip then c.trip else c.warn
  let on := if trip then c.tripOn else c.warnOn
  let put (b : Bool) : State := s.setChain i (if trip then { c with tripOn := b } else { c with warnOn := b })
  if !on && decide (0 < cnt) && decide (deb ≤ cnt) then
    ((put true).raise (R.sdfChStatus i) (if trip then 5 else 6)).srcSoon (pfSource i trip) x true
  else if on && decide (cnt = 0) then (put false).srcSoon (pfSource i trip) x false
  else s

/-- The next bit of chain `i`, captured now, and all that it brings about. -/
def State.bitIn (s : State) (i : Nat) (raw : Bool) : State :=
  let x := s.capAt i (s.chain i).n
  let s := (s.feedBit i raw).stuckJudge i x
  ((s.pfJudge i x true).pfJudge i x false).dcChainBit i x

/-! ### Closing a chain (R61, R62) -/

/-- The released sample that a close of thread `n` at timebase instant `ts` takes from chain `i`. -/
def State.closePick (s : State) (n i : Nat) (ts : Int) : Option RelOut :=
  let c := s.chain i
  let lim := ts - s.closeLag n
  match s.rsMode i with
  | 2 => c.rel.find? (fun o => o.inst == lim)
  | 1 => c.rel.find? (fun o => decide (o.inst ≤ lim))
  | _ => c.rel.find? (fun o => decide ((s.clk.tbBase + o.inst + s.chLat i) / 64 ≤ (s.clk.tbBase + ts) / 64))

/-- Chain `i` is closed for thread `n` with sample instant `ts`; `w` is the chain that supplies the sample, the spare where a
substitution is in force. -/
def State.closeChain (s : State) (n i w : Nat) (ts : Int) : State :=
  let s := match s.closePick n w ts with
    | none => s
    | some o =>
      if (s.chain w).closed = some o.inst then s
      else
        let s := s.setChain w { s.chain w with closed := some o.inst }
        s.writeSample i o.v (o.inst - ts) (if w = i then o.qual else qWith o.qual qSubst true)
  s.detClose i

/-- The enabled chains of thread `n`, ascending. -/
def State.threadChains (s : State) (n : Nat) : List Nat :=
  (List.range 112).filter (fun i => s.chEn i && s.chThread i == n)

/-- The pair of thread `n`'s evaluation slots: pairs whose last-closing chain among A, B and referee is `i` (R94). -/
def State.pairSlot (s : State) (n p : Nat) : Option Nat :=
  let sigs := [s.pairA p, s.pairB p] ++ (s.pairRef p).toList
  (s.threadChains n).reverse.find? (fun i => sigs.contains (s.valSig i))

/-- The enabled pairs of thread `n`, with their slot. -/
def State.threadPairs (s : State) (n : Nat) : List (Nat × Option Nat) :=
  ((List.range 128).filter (fun p => s.pairEn p && s.pairThread p == n)).map (fun p => (p, s.pairSlot n p))

/-- The closes and pair evaluations of `FILTER_CLOSE` of thread `n`; and the own duration of the step (R61, R94). -/
def State.filterClose (s : State) (n : Nat) : State × Nat :=
  let ts := s.tbOf (s.seq n).sampleAt
  let chains := s.threadChains n
  let pairs := s.threadPairs n
  let extra := pairs.any (fun p => p.2.isNone)
  let writer (i : Nat) : Nat := (s.subOf i).elim i (96 + ·)
  let ws := chains.map (fun i => (i, writer i))
  let subs := (List.range 16).filter s.subActive
  let s' := ws.foldl (fun s x =>
    let i := x.1
    let s := if decide (96 ≤ i) && subs.contains (i - 96) then s else s.closeChain n i x.2 ts
    (pairs.filter (fun p => p.2 == some i)).foldl (fun s p => s.pairEval n p.1) s) s
  let s' := (pairs.filter (fun p => p.2.isNone)).foldl (fun s p => s.pairEval n p.1) s'
  (s', 40 * 32 + 30 * 32 * chains.length + (if extra then 30 * 32 else 0))

end Sys2Proof.Machine
end

