-- ==== Sys2Proof/Machine/Trig.lean ====
section
/-! DEFINITION. Angles of 2^32 to the turn: sine, cosine, arc tangent, the angle a speed sweeps, and divisions with a corner (R9, R123,
R124). -/

namespace Sys2Proof.Machine

/-- 2π in units of 2^-60. -/
def twoPi60 : Nat := 7244019458077122842

/-- One term after another of an alternating series in units of 2^-60: `t` the present term, `k` its power. -/
def trigSeries (x2 : Int) : Nat → Int → Nat → Int → Int
  | 0, _, _, acc => acc
  | n + 1, t, k, acc =>
    let t' := -(t * x2 / 2 ^ 60) / (((k + 1) * (k + 2) : Nat) : Int)
    trigSeries x2 n t' (k + 2) (acc + t')

/-- Exact sine and cosine, in units of 2^-60, of an angle of at most a quarter turn. -/
def sinQuarter (a : Nat) : Int :=
  let x : Int := ((a * twoPi60 / 2 ^ 32 : Nat) : Int)
  trigSeries (x * x / 2 ^ 60) 12 x 1 x
def cosQuarter (a : Nat) : Int :=
  let x : Int := ((a * twoPi60 / 2 ^ 32 : Nat) : Int)
  trigSeries (x * x / 2 ^ 60) 12 (2 ^ 60) 0 (2 ^ 60)

/-- The sine of an angle, Q4.28, rounded half up from the exact one. -/
def sinExact (a : Nat) : Int :=
  let r := a % 2 ^ 30
  let v := match a / 2 ^ 30 % 4 with
    | 0 => sinQuarter r
    | 1 => cosQuarter r
    | 2 => -sinQuarter r
    | _ => -cosQuarter r
  shrRound v 32

/-- The device's sine, within 2^-26 of the exact one (R124, log 12). -/
def sinQ (a : Nat) : Int := sinExact (a % 2 ^ 32) + clampI (-3) 3 (Config.sinDev (a % 2 ^ 32))

/-- The device's cosine, within 2^-26 of the exact one (R124, log 12). -/
def cosQ (a : Nat) : Int := sinExact ((a + 2 ^ 30) % 2 ^ 32) + clampI (-3) 3 (Config.cosDev (a % 2 ^ 32))

/-- The arc tangent of a number of at most √2 − 1 in units of 2^-60, as a sum of `n` terms. -/
def atanSeries (t2 : Int) : Nat → Int → Nat → Int → Int
  | 0, _, _, acc => acc
  | n + 1, p, k, acc =>
    let p' := -(p * t2 / 2 ^ 60)
    atanSeries t2 n p' (k + 2) (acc + p' / ((k + 2 : Nat) : Int))

/-- The angle of the ratio `y / x`, 0 ≤ y ≤ x, 0 < x, in units of 2^-28 of an angle unit. -/
def atanOctant (y x : Nat) : Int :=
  let rad (p q : Int) : Int :=
    let t := p * 2 ^ 60 / q
    atanSeries (t * t / 2 ^ 60) 28 t 1 t
  let unit (r : Int) : Int := r * 2935890503282001226 / 2 ^ 64
  if 12 * x < 29 * y then 2 ^ 57 - unit (rad ((x : Int) - y) ((x : Int) + y)) else unit (rad y x)

/-- The angle of the vector (x, y), rounded half up (R9). The angle of (0, 0) is not stated (log 15). -/
def atan2A (y x : Int) : Nat :=
  let ax := x.natAbs
  let ay := y.natAbs
  if ax = 0 ∧ ay = 0 then (Config.divZero 8 0 % 2 ^ 32).toNat
  else
    let o := if ay ≤ ax then atanOctant ay ax else 2 ^ 58 - atanOctant ax ay
    let h := if x < 0 then 2 ^ 59 - o else o
    let f := if y < 0 then -h else h
    (shrRound f 28 % 2 ^ 32).toNat

/-- Division rounding half up, with a free value where the divisor is 0 (R9, log 15); `site` is the place in the model. -/
def divR (site : Nat) (n d : Int) : Int :=
  if d = 0 then Config.divZero site n
  else if d < 0 then divRound (-n) d.natAbs else divRound n d.natAbs

/-- The angle swept at speed `w` (Q4.28 pu of `f`, UQ16.16 Hz) in `dt` sub-steps: round(ω × FBASE × t × 2^32). -/
def angStep (w : Int) (f : Nat) (dt : Int) : Int := divRound (w * f * dt) 131072000000000

/-- An angle moved by a signed number of units. -/
def angAdd (a : Nat) (d : Int) : Nat := (((a : Int) + d) % 2 ^ 32).toNat

/-- The signed difference of two angles. -/
def angSub (a b : Nat) : Int := signedOf 32 (angAdd a (-(b : Int)))

/-- The speed, Q4.28 pu of `f`, at which an angle of `num / den` units is swept per sub-step. -/
def speedOf (site : Nat) (num den : Int) (f : Nat) : Int := sat32 (divR site (num * 131072000000000) (den * f))

/-- Angular increment 2π × FBASE × t, Q4.28. -/
def radStep (f : Nat) (dt : Nat) : Int := divRound ((twoPi60 : Int) * f * dt) (2 ^ 48 * 32000000000)

end Sys2Proof.Machine
end

