-- ==== Sys2Proof/Machine/Vec.lean ====
section
/-! DEFINITION. Vector units and position interfaces (*Generator-side field control*, and R152 of the grid-side units). -/

namespace Sys2Proof.Machine

/-! ### Signals of a unit -/

def State.vecEn (s : State) (u : Nat) : Bool := s.rdB (R.vecCfg u) 31
def State.vecFbase (s : State) (u : Nat) : Nat := s.rdN (R.vecFbase u)

/-- A value with the mark of a saturation on the way. -/
structure Sv where
  v : Int
  sat : Bool
  deriving DecidableEq, Repr

/-- Saturation to Q4.28. -/
def svOf (x : Int) : Sv := ⟨sat32 x, over32 x⟩

/-- Measured quantities of three phases in the stator frame (R124): α and β. -/
def clarke (a b c : Int) : Sv × Sv := (svOf (divRound (2 * a - b - c) 3), svOf (shrRound ((b - c) * 154981283) 28))

/-- A configured signal as a step of thread `n` reads it; 0xFFF names none, and gives 0 without quality bits (R151, log 91). -/
def State.sigIn (s : State) (n i : Nat) : SigVal := if i = 0xFFF then ⟨0#32, 0#16⟩ else s.sigStep n i

/-- A phase triple read by unit `u` of thread `n` from signals `sa`, `sb`, `sc`: α, β and the qualities read. -/
def State.vecAbc (s : State) (u sa sb sc : Nat) (three : Bool) : (Sv × Sv) × List Qual :=
  let n := u / 2
  let a := s.sigIn n sa
  let b := s.sigIn n sb
  let c := s.sigIn n sc
  if three then (clarke (sval a.val) (sval b.val) (sval c.val), [a.qual, b.qual, c.qual])
  else (clarke (sval a.val) (sval b.val) (-(sval a.val + sval b.val)), [a.qual, b.qual])

def State.vecI (s : State) (u : Nat) : (Sv × Sv) × List Qual :=
  s.vecAbc u (s.rdF (R.vecSig0 u) 11 0) (s.rdF (R.vecSig0 u) 27 16) (s.rdF (R.vecSig1 u) 11 0) (s.rdB (R.vecCfg u) 23)
def State.vecV (s : State) (u : Nat) : (Sv × Sv) × List Qual :=
  s.vecAbc u (s.rdF (R.vecSig2 u) 11 0) (s.rdF (R.vecSig2 u) 27 16) (s.rdF (R.vecSig3 u) 11 0) true

/-- A stator-frame vector turned into the rotor frame at angle `th` (R124). -/
def parkD (a b : Int) (th : Nat) : Sv := svOf (shrRound (a * cosQ th + b * sinQ th) 28)
def parkQ (a b : Int) (th : Nat) : Sv := svOf (shrRound (b * cosQ th - a * sinQ th) 28)

/-- The chain behind a signal: its own, or that of input A of the pair whose output it is (R125). -/
def State.chainBehind (s : State) (i : Nat) : Option Nat :=
  match s.chainOfSig i with
  | some c => some c
  | none =>
    match (List.range 128).find? (fun p => s.pairEn p && s.pairOut p == i) with
    | some p => s.chainOfSig (s.pairA p)
    | none => none

/-- τ − t_s of the samples behind `SIG_IA`, in sub-steps (R125). -/
def State.vecTau (s : State) (u : Nat) : Int :=
  let n := u / 2
  match s.chainBehind (s.rdF (R.vecSig0 u) 11 0) with
  | none => 0
  | some c =>
    let x := sval (s.sigStep n (s.tsSig c)).val
    if s.chThread c = 7 then signedOf 32 ((x - s.tbOf (s.seq n).sampleAt) % 2 ^ 32).toNat else x

/-- An output of unit `u` is written; 0xFFF names none. -/
def State.vecOut (s : State) (sig : Nat) (x : Sv) (q : Qual) : State :=
  s.sigWrite sig (wordOf x.v) (if x.sat then qWith q qSat true else q)

/-! ### Position interfaces (R131, R132) -/

def State.pos (s : State) (k : Nat) : PosSt := tabGet (fun _ => PosSt.init) s.poss k
def State.setPos (s : State) (k : Nat) (v : PosSt) : State := { s with poss := tabSet (fun _ => PosSt.init) s.poss k v }
def State.posMode (s : State) (k : Nat) : Nat := s.rdF (R.vecPosCfg k) 31 30
def State.posScale (s : State) (k : Nat) : Nat := s.rdN (R.vecPosScale k)

/-- `FAULT`: whether the source is unusable now (Table 7.6). -/
def State.posFault (s : State) (k : Nat) : Bool :=
  match s.posMode k with
  | 1 => s.rdB (R.vecPosStatus k) 2 || !s.rdB (R.vecPosStatus k) 1
  | 2 => (s.pos k).ssiBad
  | _ => false

/-- The step of a quadrature transition between levels (A, B): +1 in the order 00, 10, 11, 01; none where both change. -/
def quadStep (a b a' b' : Bool) : Option Int :=
  if a != a' && b != b' then none
  else if a == a' && b == b' then some 0
  else if a != a' then some (if a' != b then 1 else -1)
  else some (if b' == a then 1 else -1)

/-- Whether the glitch filter of input `x` (0 `A`, 1 `B`, 2 `Z`) of interface `k` lets a change through now: the level before it had held for
`ENC_FLT` × 4 ns, and the new one has (R131). -/
def State.encFree (s : State) (k x : Nat) : Bool := s.lineFree (64 + 3 * k + x) (s.rdF (R.vecPosCfg k) 27 20 * 128)

/-- `ENCODER_EDGE`: the filtered levels of interface `k` become `a`, `b`; an input whose filter cannot have changed yet keeps its level
(R131). -/
def State.encEdge (s : State) (k : Nat) (a b : Bool) : State :=
  if s.posMode k ≠ 1 then s
  else
    let p := s.pos k
    let a := if s.encFree k 0 then a else p.a
    let b := if s.encFree k 1 then b else p.b
    let s := if a != p.a then s.lineMark (64 + 3 * k) else s
    let s := if b != p.b then s.lineMark (64 + 3 * k + 1) else s
    let T := s.tb - s.tb % 32
    match quadStep p.a p.b a b with
    | none => (s.setPos k { p with a := a, b := b }).raise (R.vecPosStatus k) 2
    | some d =>
      if d = 0 then s
      else (s.setPos k { p with a := a, b := b, count := angAdd p.count d, edge := some T, quiet := false }).wr (R.vecPosEdgeTs k) (wordOf T)

/-- Counts per turn of R131; 0 where the scale is 0. -/
def State.encPerTurn (s : State) (k : Nat) : Nat := 2 ^ 32 * Config.polePairs k / s.posScale k

/-- `ENCODER_Z_EDGE` (R131). -/
def State.encZ (s : State) (k : Nat) : State :=
  if s.posMode k ≠ 1 || !s.encFree k 2 then s
  else
    let s := s.lineMark (64 + 3 * k + 2)
    let c := (s.pos k).count
    let a := R.vecPosStatus k
    if !s.rdB a 1 then (s.wrB a 1 true).wr (R.vecPosZcount k) (wordN c)
    else
      let per := s.encPerTurn k
      let d := (((c : Int) - s.rdN (R.vecPosZcount k)) % (per : Int)).toNat
      if decide (1 < d) && decide (d + 1 < per) then (s.raise a 4).raise a 2 else s

/-- `SPD_TIMEOUT` (R131). -/
def State.spdTimeout (s : State) (k : Nat) : State :=
  let p := s.pos k
  match p.edge with
  | some e =>
    if s.posMode k = 1 ∧ e + s.rdF (R.vecPosSpd k) 23 8 * (10 * usec : Nat) ≤ s.tb then s.setPos k { p with quiet := true } else s
  | none => s

/-- Binary value of an `n`-bit Gray code. -/
def grayBin : Nat → Nat → Nat
  | 0, x => x
  | n + 1, x => grayBin n (Nat.xor x (x / 2 ^ 2 ^ n))

/-- `SSI_FRAME`: the data of a frame of interface `k`, with its faults: data not high before the first edge, not high again in time, or
the error bit (R132). -/
def State.ssiFrame (s : State) (k raw : Nat) (lowBefore noReturn errBit : Bool) : State :=
  if s.posMode k ≠ 2 then s
  else
    let n := s.rdF (R.vecPosCfg k) 17 12
    let x := raw % 2 ^ n
    let v := if s.rdB (R.vecPosCfg k) 29 then grayBin 6 x % 2 ^ n else x
    let bad := lowBefore || noReturn || (errBit && s.rdB (R.vecPosCfg k) 28)
    (s.setPos k { s.pos k with ssiPos := v, ssiBad := bad }).raiseIf bad (R.vecPosStatus k) 3

/-- The unit of thread `n` that names interface `k`, if it uses an encoder. -/
def State.posUser (s : State) (n k : Nat) : Bool :=
  let u := 2 * n
  let enc (c : Nat) : Bool := c == 1 || c == 2
  s.vecEn u && s.rdF (R.vecCfg u) 25 24 == k && (enc (s.rdF (R.vecCfg u) 29 28) || enc (s.rdF (R.vecCfg u) 27 26))

/-- Interface `k` latches at the sample instant of thread `n` (R131, R132). -/
def State.posLatch (s : State) (n k : Nat) : State :=
  let p := s.pos k
  let f := s.vecFbase (2 * n)
  let sc := s.posScale k
  let ofs := s.rdN (R.vecPosOffset k)
  let spdN := s.rdF (R.vecPosSpd k) 7 0
  match s.posMode k with
  | 1 =>
    let old := nth (p.count, none) p.hist (spdN - 1)
    let dc := signedOf 32 (angAdd p.count (-(old.1 : Int)))
    let dt : Int := match p.edge, old.2 with
      | some x, some y => x - y
      | _, _ => 0
    let w := if p.quiet then 0 else speedOf (16 + k) (dc * sc) dt f
    let err := s.rdB (R.vecPosStatus k) 2
    let s := s.setPos k { p with
      hist := ((p.count, p.edge) :: p.hist).take 255, angle := (p.count * sc + ofs) % 2 ^ 32, speed := w
      ok := !err && s.rdB (R.vecPosStatus k) 1, spdOk := !err }
    s.wr (R.vecPosCount k) (wordN p.count)
  | 2 =>
    let dt : Int := s.rdF (R.vecPosSsi k) 31 16 * 320 - signedOf 16 (s.rdF (R.vecPosSsi k) 15 0)
    let base := (p.ssiPos * sc + ofs) % 2 ^ 32
    let old := nth p.ssiPos p.ssiHist (spdN - 1)
    let da := signedOf 32 (angAdd (p.ssiPos * sc % 2 ^ 32) (-((old * sc : Nat) : Int)))
    let w := speedOf (20 + k) da (spdN * s.seqP n) f
    let s := s.setPos k { p with
      ssiHist := (p.ssiPos :: p.ssiHist).take 255, angle := angAdd base (angStep p.speed f dt), speed := w, ok := !p.ssiBad
      spdOk := !p.ssiBad }
    s.wr (R.vecPosCount k) (wordN p.ssiPos)
  | _ => s

/-! ### Observer (R129, R130) -/

/-- Time in sub-steps since the last evaluation in an on-time period (R122). -/
def State.vecDt (s : State) (u : Nat) : Nat := s.seqP (u / 2) * (1 + (s.vec u).late)

/-- `SIG_MS` (R137): 0 while the unit's pulses are blocked, 1 in `CATCH` from its first evaluation on and in `RUN`, 2 in `ASC` and where
`DISCHARGE` holds it. -/
def State.vecPulses (s : State) (u : Nat) : Nat :=
  match s.vecState u with
  | 5 => if (s.vec u).catchN = 0 then 0 else 1
  | 6 => 1
  | 7 => 2
  | 8 => if (s.vec u).disAsc = some true then 2 else 0
  | _ => 0

/-- The voltage the observer integrates, and the qualities it read (R129). -/
def State.obsVolt (s : State) (u : Nat) : (Int × Int) × List Qual :=
  if s.rdB (R.vecCfg u) 22 then
    let last (i : Nat) : SigVal := if i = 0xFFF then ⟨0#32, 0#16⟩ else s.sigStable i
    let d := last (s.rdF (R.vecSig4 u) 11 0)
    let q := last (s.rdF (R.vecSig4 u) 27 16)
    let th := (s.vec u).thetaMod
    let a := svOf (shrRound (sval d.val * cosQ th - sval q.val * sinQ th) 28)
    let b := svOf (shrRound (sval d.val * sinQ th + sval q.val * cosQ th) 28)
    if s.vecPulses u = 2 then ((0, 0), [d.qual, q.qual]) else ((a.v, b.v), [d.qual, q.qual])
  else
    let v := s.vecV u
    ((v.1.1.v, v.1.2.v), v.2)

/-- Whether the observer can be used: locked, fast enough, inputs usable, and not blind under `VSRC` 1 (Table 7.1, R129). -/
def State.obsUsable (s : State) (u : Nat) : Bool :=
  let v := s.vec u
  s.rdB (R.vecStatus u) 7 && decide (s.rdS (R.vecObsMin u) ≤ (v.wHat.natAbs : Int)) &&
    ((s.vecI u).2 ++ (s.obsVolt u).2).all s.usable && !(s.rdB (R.vecCfg u) 22 && s.vecPulses u == 0)

/-- One evaluation of the observer and of its lock (R129, R130). -/
def State.obsEval (s : State) (u : Nat) : State :=
  let v := s.vec u
  let f := s.vecFbase u
  let dt := s.vecDt u
  let g : Int := s.rdN (R.vecObsLeak u)
  let w := radStep f dt
  let i := (s.vecI u).1
  let vv := (s.obsVolt u).1
  let rs := s.rdS (R.vecRs u)
  let lq := s.rdS (R.vecLq u)
  let flux (psi vx ix : Int) : Int := sat32 (shrRound ((2 ^ 32 - g) * psi * 2 ^ 24 + w * (vx * 2 ^ 28 - rs * ix)) 56)
  let pa := flux v.psiA vv.1 i.1.v
  let pb := flux v.psiB vv.2 i.2.v
  let aA := sat32 (shrRound (pa * 2 ^ 28 - lq * i.1.v) 28)
  let aB := sat32 (shrRound (pb * 2 ^ 28 - lq * i.2.v) 28)
  let c := clampI (-(2 ^ 28)) (2 ^ 28) (divR 0 (g * 2 ^ 52) (v.wHat * w))
  let cA := sat32 (shrRound (aA * 2 ^ 28 + aB * c) 28)
  let cB := sat32 (shrRound (aB * 2 ^ 28 - aA * c) 28)
  let mag : Int := isqrtRound (cA.natAbs * cA.natAbs + cB.natAbs * cB.natAbs)
  let eps := sat32 (divR 1 (cB * cosQ v.theta - cA * sinQ v.theta) mag)
  let fly := decide (s.vecState u ≤ 1) || decide (s.vecState u = 4)
  let kp := s.rdS (if fly then R.vecObsKpFly u else R.vecObsKp u)
  let ki := s.rdS (if fly then R.vecObsKiFly u else R.vecObsKi u)
  let wInt := sat32 (shrRound (v.wInt * 2 ^ 28 + ki * eps) 28)
  let wHat := sat32 (shrRound (wInt * 2 ^ 28 + kp * eps) 28)
  let theta := angAdd v.theta (angStep wHat f dt)
  let lockN := s.rdF (R.vecObsLock u) 15 0
  let good := decide ((eps.natAbs : Int) ≤ s.rdF (R.vecObsLock u) 31 16 * 4096) &&
    decide (s.rdS (R.vecFlyVnoise u) ≤ mulQ28 wHat.natAbs mag)
  let okRun := if good then min 65535 (v.okRun + 1) else 0
  let badRun := if good then 0 else min 65535 (v.badRun + 1)
  let was := s.rdB (R.vecStatus u) 7
  let now := if was then !decide (lockN ≤ badRun) else good && decide (lockN ≤ okRun)
  let lockT := if was && now then v.lockT + dt else 0
  let s := s.setVec u { v with psiA := pa, psiB := pb, wInt := wInt, wHat := wHat, theta := theta, okRun := if was != now then 0 else okRun,
                               badRun := if was != now then 0 else badRun, lockT := lockT }
  s.wrB (R.vecStatus u) 7 now

/-! ### Angle sources (R126–R128) -/

/-- What a source gives: whether it is usable, angle, speed. -/
structure AngSrc where
  ok : Bool
  th : Nat
  w : Int

/-- Source `c` of Table 7.1 for unit `u`. -/
def State.angSrc (s : State) (u c : Nat) : AngSrc :=
  let v := s.vec u
  let k := s.rdF (R.vecCfg u) 25 24
  let p := s.pos k
  match c with
  | 0 => ⟨s.obsUsable u, v.theta, v.wHat⟩
  | 1 => ⟨s.posMode k == 1 && p.ok && !s.rdB (R.vecPosStatus k) 2, p.angle, p.speed⟩
  | 2 => ⟨s.posMode k == 2 && p.ok, p.angle, p.speed⟩
  | _ => ⟨false, 0, 0⟩

/-- Whether an encoder named as a source of unit `u` has a usable speed (R143). -/
def State.encSpeedOk (s : State) (u : Nat) : Bool :=
  let k := s.rdF (R.vecCfg u) 25 24
  [s.rdF (R.vecCfg u) 29 28, s.rdF (R.vecCfg u) 27 26].any (fun c =>
    (c == 1 || c == 2) && s.posMode k == c && (s.pos k).spdOk)

/-- Protection source "angle lost" follows the unit (R126): an event only outside `CATCH` and `RUN`, and on the winding path, which
R150 takes without an angle. -/
def State.angLost (s : State) (u : Nat) (lost : Bool) : State :=
  let n := u / 2
  let st := s.vecState u
  let act := (st == 5 || st == 6) && !(s.vec u).wind
  let s := s.wrB (R.vecStatus u) 10 lost
  if !lost then (s.setVec u { s.vec u with lostIn := false }).srcLevel (448 + n) false false
  else if act && !(s.vec u).lostIn then
    let s := s.setVec u { s.vec u with lostIn := true }
    (s.srcLevel (448 + n) false false).srcLevel (448 + n) true false
  else s.srcLevel (448 + n) true true

/-- The angle and speed of the evaluation (R126–R128). -/
def State.angEval (s : State) (u : Nat) : State :=
  let n := u / 2
  let f := s.vecFbase u
  let v := s.vec u
  let cp := s.rdF (R.vecCfg u) 29 28
  let cf := s.rdF (R.vecCfg u) 27 26
  let p := s.angSrc u cp
  let b := s.angSrc u cf
  let adv := angAdd v.pub (angStep v.omega f (s.vecDt u))
  let st := R.vecStatus u
  let s : State := if p.ok && b.ok then
      let far := decide ((s.rdN (R.vecAngWin u) : Int) < ((angSub p.th b.th).natAbs : Int))
      let run := if far then min 255 (v.disRun + 1) else 0
      let s := s.setVec u { v with disRun := run }
      let dis := far && (s.rdB st 9 || decide (s.rdF (R.vecAngCnt u) 7 0 ≤ run))
      (s.wrB st 9 dis).srcLevel (452 + n) dis false
    else s.setVec u { v with disRun := 0 }
  let v := s.vec u
  let used := if v.ever then s.rdF st 6 5 else 3
  let pick : Option (Nat × AngSrc) := if p.ok then some (cp, p) else if b.ok then some (cf, b) else none
  match pick with
  | none => ((s.setVec u { v with pub := adv, off := 0 }).wrF st 6 5 3).angLost u true
  | some (c, a) =>
    let slew : Int := s.rdN (R.vecSwitchSlew u)
    let s : State := if v.ever && decide (used ≠ c) then
        let o := angSub adv a.th
        let o' := if slew = 0 then 0 else o
        let t := angAdd a.th o'
        ((s.setVec u { v with omega := a.w, off := o', pub := t, good := t }).raise st 12).wr (R.vecAngDiff u) (wordOf o)
      else
        let o := if slew = 0 ∨ (v.off.natAbs : Int) ≤ slew then 0 else if 0 < v.off then v.off - slew else v.off + slew
        let t := angAdd a.th o
        s.setVec u { v with omega := a.w, off := o, pub := t, good := t, ever := true }
    (s.wrF st 6 5 c).angLost u false

/-! ### References (R133–R136) -/

/-- A table of 33 values read at `arg / maxi` (R134). -/
def tableRead (e : Nat → Int) (arg : Int) (maxi : Int) : Int :=
  if maxi ≤ 0 then Config.divZero 2 arg
  else
    let m := maxi.natAbs
    let x := clampI 0 (32 * maxi) (arg * 32)
    let j := (x / maxi).toNat
    if 32 ≤ j then e 32 else divRound (e j * maxi + (e (j + 1) - e j) * (x - j * maxi)) m

/-- Q4.28 of 0.1 and 0.0625. -/
def pu01 : Int := 26843546
def pu00625 : Int := 2 ^ 24

/-- The clamped torque T_c (R133). -/
def State.torque (s : State) (u : Nat) : Int :=
  let n := u / 2
  let t := sval (s.sigIn n (s.rdF (R.vecSig3 u) 27 16)).val
  let lim := s.rdS (R.vecTLim u)
  if s.vecState u ≠ 6 ∨ s.rdB (R.protThrStatus n) 14 ∨ ((s.vec u).omega < 0 ∧ !s.rdB (R.vecCfg u) 21) then 0
  else clampI (-lim) lim t

/-- i_d* of R134 for a torque. -/
def State.idRef (s : State) (u : Nat) (tc : Int) : Int :=
  let n := u / 2
  let vdc := max pu01 (sval (s.sigIn n (s.rdF (R.vecSig1 u) 27 16)).val)
  let x := sat32 (divR 3 (((s.vec u).omega.natAbs : Int) * 2 ^ 28) vdc)
  let fm := tableRead (fun j => s.rdS (R.vecMtpa u j)) tc.natAbs (s.rdS (R.vecTTabMax u))
  let fw := tableRead (fun j => s.rdS (R.vecFw u j)) x (s.rdS (R.vecXTabMax u))
  let sa := s.rdF (R.vecSig5 u) 11 0
  let a := if sa = 0xFFF then 0 else min 0 (sval (s.sigStep n sa).val)
  max (-(s.rdS (R.vecIMax u))) (min fm (fw + a))

/-- i_q* of R135: value, whether the denominator was replaced, whether the limit acts. -/
def State.iqRef (s : State) (u : Nat) (tc id : Int) : Int × Bool × Bool :=
  let den := sat32 (shrRound (s.rdS (R.vecPsiM u) * 2 ^ 28 + (s.rdS (R.vecLd u) - s.rdS (R.vecLq u)) * id) 28)
  let low := decide (den < pu00625)
  let iq := divRound (tc * 2 ^ 28) (if low then pu00625 else den).natAbs
  let im := s.rdS (R.vecIMax u)
  let lim : Int := isqrtRound (im * im - id * id).toNat
  (sat32 (clampI (-lim) lim iq), low, decide (lim < (iq.natAbs : Int)))

/-! ### State machine (R139–R150) -/

/-- Whether the observer has been locked for `FLY_OBSERVE` electrical periods at its present speed (R140). -/
def State.lockLong (s : State) (u : Nat) : Bool :=
  let v := s.vec u
  s.rdB (R.vecStatus u) 7 &&
    decide (s.rdF (R.vecFlySeq u) 27 24 * (32000000000 * 2 ^ 44) ≤ v.lockT * v.wHat.natAbs * s.vecFbase u)

/-- Backward rotation is decided (R145). -/
def State.goReverse (s : State) (u : Nat) : State :=
  let s := s.raise (R.vecStatus u) 13
  s.vecEnter u (if s.rdB (R.vecCfg u) 21 then 5 else 4)

/-- `OBSERVE` ends with speed `w`, locked or not (R141). -/
def State.observeEnd (s : State) (u : Nat) (locked : Bool) (w : Int) : State :=
  let s := s.wr (R.vecFlySpeed u) (wordOf w)
  if locked && decide (s.rdS (R.vecFlyMin u) ≤ (w.natAbs : Int)) && decide (w ≠ 0) then
    (if 0 < w then s.vecEnter u 5 else s.goReverse u)
  else s.vecEnter u 2

/-- The least-squares slope of R143 over points (time, unwrapped angle): numerator, denominator, and the value at time `t`. -/
def lineFit (ps : List (Int × Int)) (t : Int) : Int × Int × Int :=
  let n : Int := ps.length
  let sx := ps.foldl (fun a p => a + p.1) 0
  let sy := ps.foldl (fun a p => a + p.2) 0
  let sxx := ps.foldl (fun a p => a + p.1 * p.1) 0
  let sxy := ps.foldl (fun a p => a + p.1 * p.2) 0
  let num := n * sxy - sx * sy
  let den := n * sxx - sx * sx
  (num, den, divR 4 (sy * den + num * (n * t - sx)) (n * den))

/-- Angles unwrapped with steps in (−½, ½) turn, and the largest step. -/
def unwrap : List (Int × Nat) → Option (Nat × Int) → List (Int × Int) × Nat
  | [], _ => ([], 0)
  | (t, a) :: rest, none =>
    let r := unwrap rest (some (a, (a : Int)))
    ((t, (a : Int)) :: r.1, r.2)
  | (t, a) :: rest, some (b, y) =>
    let d := angSub a b
    let r := unwrap rest (some (a, y + d))
    ((t, y + d) :: r.1, max d.natAbs r.2)

/-- `PROBE` ends (R143). -/
def State.probeEnd (s : State) (u : Nat) : State :=
  let v := s.vec u
  let f := s.vecFbase u
  let ts := s.tbOf (s.seq (u / 2)).sampleAt
  let t0 := ((v.zvPhi.head?).map (·.1)).getD 0
  let r := unwrap (v.zvPhi.map (fun p => (p.1 - t0, p.2))) none
  if v.zvPhi.length < 4 ∨ 1717986919 ≤ r.2 then s.vecEnter u 3
  else
    let fit := lineFit r.1 (ts - t0)
    let w := speedOf 5 fit.1 fit.2.1 f
    let sg : Int := if 0 < w then 2 ^ 30 else if w < 0 then -(2 ^ 30) else 0
    let th := ((fit.2.2 - sg) % 2 ^ 32).toNat
    let s := s.setVec u { v with wInt := w, wHat := w, theta := th }
    if w < 0 then s.goReverse u
    else if (0 < w ∧ s.rdS (R.vecObsMin u) ≤ w) ∨ s.encSpeedOk u then s.vecEnter u 5
    else s.vecEnter u 3

/-- One evaluation in `PROBE`: the pulse commanded two sample instants ago is measured, and the next is commanded (R142, R143). -/
def State.probeEval (s : State) (u : Nat) : State :=
  let v := s.vec u
  let n := u / 2
  let ts := s.tbOf (s.seq n).sampleAt
  let zvN := s.rdF (R.vecFlyZv u) 31 24
  let zvInt := max 1 (s.rdF (R.vecFlyZv u) 23 16)
  let i := (s.vecI u).1
  let due := v.zvOut.filter (fun t => decide (t + 2 * s.seqP n ≤ ts))
  let rest := v.zvOut.filter (fun t => decide (ts < t + 2 * s.seqP n))
  let mag : Int := isqrtRound (i.1.v.natAbs * i.1.v.natAbs + i.2.v.natAbs * i.2.v.natAbs)
  let take := !due.isEmpty && decide (s.rdS (R.vecFlyZvImin u) ≤ mag)
  let phi := if take then v.zvPhi ++ [(ts + s.vecTau u, atan2A (-i.2.v) (-i.1.v))] else v.zvPhi
  let fire := decide (v.zvCmd < zvN) && decide (v.zvPer % zvInt = 0)
  let s := s.setVec u { v with
    zvPhi := phi, zvOut := if fire then rest ++ [ts] else rest, zvCmd := v.zvCmd + b2n fire, zvPer := v.zvPer + 1, pulse := fire }
  if (s.vec u).zvCmd ≥ zvN ∧ (s.vec u).zvOut = [] then s.probeEnd u else s

/-- Entry into `CATCH` is acted on: the first evaluation requests the release (R144). -/
def State.catchEval (s : State) (u : Nat) : State :=
  let v := s.vec u
  let n := u / 2
  if v.catchN = 0 then
    if s.bridgeFree n 0 then s.setVec u { v with catchN := 1 }
    else (s.raise (R.vecStatus u) 14).vecEnter u 0
  else if v.wind then
    if s.dischStep n = 3 ∧ (v.omega.natAbs : Int) < s.rdS (R.vecDischAscSpeed u) then
      s.setVec u { v with catchN := v.catchN + 1, windN := v.windN + 1 }
    else s.vecEnter u 8
  else if s.rdF (R.vecFlySeq u) 23 16 ≤ v.catchN then s.vecEnter u 6
  else s.setVec u { v with catchN := v.catchN + 1 }

/-- One evaluation in `DISCHARGE` (R149, R150). -/
def State.dischEval (s : State) (u : Nat) : State :=
  let v := s.vec u
  let n := u / 2
  let slow := decide ((v.omega.natAbs : Int) < s.rdS (R.vecDischAscSpeed u))
  let lost := s.rdB (R.vecStatus u) 10
  if s.dischStep n = 3 ∧ slow then
    let s := s.vecEnter u 5
    (s.setVec u { s.vec u with wind := true }).catchEval u
  else
    let block := slow && !lost
    let cnt := if block then min 16 (v.disCnt + 1) else 0
    let asc := match v.disAsc with
      | some true => !decide (16 ≤ cnt)
      | _ => !block
    s.setVec u { v with disAsc := some asc, disCnt := cnt }

/-- The state machine at the start of an evaluation: what an earlier period or a command decided is acted on. A `STOP` ends in `OFF` too where a
discharge has ended in `ASC` since the last evaluation (R139, R150). -/
def State.vecBegin (s : State) (u : Nat) : State :=
  let st := s.vecState u
  let stop := s.rdB (R.vecCtrl u) 1
  let ended := (s.vec u).dischEnd
  let s := (s.wrB (R.vecCtrl u) 1 false).setVec u { s.vec u with dischEnd := false }
  if stop && (decide (st ≠ 7) || ended) && decide (st ≠ 8) && !((s.vec u).wind && st == 5) then (if st = 0 then s else s.vecEnter u 0)
  else match st with
    | 5 => s.catchEval u
    | _ => s

/-- The state machine after the observer and the angle: decisions that the next evaluation acts on (R140–R149). -/
def State.vecDecide (s : State) (u : Nat) (wasLocked : Bool) : State :=
  let v := s.vec u
  let n := u / 2
  let ts := s.tbOf (s.seq n).sampleAt
  let since := ts - v.enteredAt
  let locked := s.rdB (R.vecStatus u) 7
  match s.vecState u with
  | 1 =>
    if s.rdF (R.vecSig2 u) 11 0 = 0xFFF then s.observeEnd u false v.wHat
    else if s.rdF (R.vecFlyTime u) 15 0 * (msec : Int) ≤ since ∧ s.lockLong u then s.observeEnd u true v.wHat
    else if s.rdF (R.vecFlyTime u) 31 16 * (msec : Int) ≤ since then s.observeEnd u locked v.wHat
    else s
  | 2 => s.probeEval u
  | 3 => if s.rdF (R.vecFlySeq u) 15 0 * (10 * msec : Int) ≤ since then s.vecEnter u 1 else s
  | 4 =>
    if wasLocked && !locked then s.vecEnter u 1
    else if 0 < v.wHat ∧ s.rdS (R.vecFlyMin u) ≤ v.wHat ∧ s.lockLong u then s.vecEnter u 5
    else s
  | _ => s

/-! ### The evaluation -/

/-- The current references: values, whether each saturated is none (R135), and the flags `DENOM` and `IQ_LIMIT`. -/
def State.vecRefs (s : State) (u : Nat) : (Int × Int) × Bool × Bool :=
  let v := s.vec u
  if s.vecState u = 5 then
    if v.wind then
      let d := s.rdS (R.vecDischId u)
      ((if v.windN / 8 % 2 = 0 then -d else d, 0), false, false)
    else ((0, 0), false, false)
  else
    let tc := s.torque u
    let id := s.idRef u tc
    let q := s.iqRef u tc id
    ((id, q.1), q.2.1, q.2.2)

/-- The evaluation of machine-side unit `u` = 2n (R121–R151). On the winding path without a usable angle, the Park angle and `THETA_MOD` are the
last usable angle itself (R150). -/
def State.vecEval (s : State) (u : Nat) : State :=
  let n := u / 2
  let s := s.vecBegin u
  let wasLocked := s.rdB (R.vecStatus u) 7
  let s := s.setVec u { s.vec u with pulse := false }
  let s := s.obsEval u
  let s := s.angEval u
  let s := if s.vecState u = 8 then s.dischEval u else s
  let ms := s.vecPulses u
  let v := s.vec u
  let f := s.vecFbase u
  let w := v.omega
  let iab := s.vecI u
  let lost := s.rdB (R.vecStatus u) 10
  let held := lost && v.wind
  let th := if held then v.good else angAdd v.pub (angStep w f (s.vecTau u))
  let thMod := if held then v.good else angAdd v.pub (angStep w f (3 * s.seqP n / 2 + s.seqAdv n : Nat))
  let cl := iab.1.1.sat || iab.1.2.sat
  let id := parkD iab.1.1.v iab.1.2.v th
  let iq := parkQ iab.1.1.v iab.1.2.v th
  let src := s.rdF (R.vecStatus u) 6 5
  let qa : Qual := if src = 0 then s.qJoin (iab.2 ++ (s.obsVolt u).2) else 0#16
  let qi := s.qJoin iab.2
  let inv (q : Qual) : Qual := if lost then qWith q qInvalid true else q
  let refs := s.vecRefs u
  let sq (i : Nat) : List Qual := if i = 0xFFF then [] else [(s.sigStep n i).qual]
  let qr := s.qJoin (sq (s.rdF (R.vecSig3 u) 27 16) ++ sq (s.rdF (R.vecSig1 u) 27 16) ++ sq (s.rdF (R.vecSig5 u) 11 0))
  let rs := s.rdS (R.vecRs u)
  let ld := s.rdS (R.vecLd u)
  let lq := s.rdS (R.vecLq u)
  let pm := s.rdS (R.vecPsiM u)
  let vd := svOf (shrRound (rs * id.v * 2 ^ 28 - w * shrRound (lq * iq.v) 28 * 2 ^ 28) 56)
  let vq := svOf (shrRound (rs * iq.v * 2 ^ 28 + w * (shrRound (ld * id.v) 28 + pm) * 2 ^ 28) 56)
  let te := svOf (shrRound (pm * iq.v + shrRound ((ld - lq) * id.v) 28 * iq.v) 28)
  let mag := svOf (isqrtRound (id.v.natAbs * id.v.natAbs + iq.v.natAbs * iq.v.natAbs))
  let s := s.setVec u { s.vec u with thetaMod := thMod }
  let s := s.wrB (R.vecStatus u) 8 refs.2.2
  let s := s.raiseIf refs.2.1 (R.vecStatus u) 11
  let out (a hi lo : Nat) : Nat := s.rdF a hi lo
  let s := s.vecOut (out (R.vecOut0 u) 11 0) ⟨id.v, id.sat || cl⟩ qi
  let s := s.vecOut (out (R.vecOut0 u) 27 16) ⟨iq.v, iq.sat || cl⟩ qi
  let s := s.vecOut (out (R.vecOut1 u) 11 0) ⟨(v.pub : Int), false⟩ (inv qa)
  let s := s.vecOut (out (R.vecOut1 u) 27 16) ⟨w, false⟩ (inv qa)
  let s := s.vecOut (out (R.vecOut2 u) 11 0) ⟨refs.1.1, false⟩ (inv (qr ||| qa))
  let s := s.vecOut (out (R.vecOut2 u) 27 16) ⟨refs.1.2, false⟩ (inv (qr ||| qa))
  let s := s.vecOut (out (R.vecOut3 u) 11 0) vd (qi ||| qa)
  let s := s.vecOut (out (R.vecOut3 u) 27 16) vq (qi ||| qa)
  let s := s.vecOut (out (R.vecOut4 u) 11 0) ⟨(thMod : Int), false⟩ qa
  let s := s.vecOut (out (R.vecOut4 u) 27 16) te qi
  let s := s.vecOut (out (R.vecOut5 u) 11 0) mag qi
  let s := s.vecOut (out (R.vecOut5 u) 27 16) ⟨(ms : Int), false⟩ 0#16
  let s := s.vecDecide u wasLocked
  s.setVec u { s.vec u with late := 0 }

/-- The evaluation of grid-side unit `u` = 2n + 1 (R152); `OMEGA` is per-unit of `GFE_n_FBASE` (R154). -/
def State.vecGrid (s : State) (u : Nat) : State :=
  let n := u / 2
  let f := s.rdN (R.gfeFbase n)
  let first := decide ((s.seq n).first)
  let tn := s.sigStable (s.rdF (R.gfeOut0 n) 27 16)
  let om := s.sigStable (s.rdF (R.gfeOut1 n) 27 16)
  let w := if first then 0 else sval om.val
  let ths := if first then 0 else angAdd tn.val.toNat (angStep w f (qAge tn.qual * s.seqP n : Nat))
  let th := angAdd ths (angStep w f (s.vecTau u))
  let thMod := angAdd ths (angStep w f (3 * s.seqP n / 2 + s.seqAdv n : Nat))
  let i := s.vecI u
  let v := s.vecV u
  let id := parkD i.1.1.v i.1.2.v th
  let iq := parkQ i.1.1.v i.1.2.v th
  let vd := parkD v.1.1.v v.1.2.v th
  let vq := parkQ v.1.1.v v.1.2.v th
  let mag := svOf (isqrtRound (id.v.natAbs * id.v.natAbs + iq.v.natAbs * iq.v.natAbs))
  let qa : Qual := if first then 0x8000#16 else s.qJoin [tn.qual, om.qual]
  let fst (q : Qual) : Qual := if first then qWith q qInvalid true else q
  let qi := fst (s.qJoin i.2)
  let qv := fst (s.qJoin v.2)
  let cl := i.1.1.sat || i.1.2.sat
  let vl := v.1.1.sat || v.1.2.sat
  let s := s.setVec u { s.vec u with thetaMod := thMod, pub := ths, omega := w }
  let out (a hi lo : Nat) : Nat := s.rdF a hi lo
  let s := s.vecOut (out (R.vecOut0 u) 11 0) ⟨id.v, id.sat || cl⟩ qi
  let s := s.vecOut (out (R.vecOut0 u) 27 16) ⟨iq.v, iq.sat || cl⟩ qi
  let s := s.vecOut (out (R.vecOut1 u) 11 0) ⟨(ths : Int), false⟩ qa
  let s := s.vecOut (out (R.vecOut1 u) 27 16) ⟨w, false⟩ qa
  let s := s.vecOut (out (R.vecOut3 u) 11 0) ⟨vd.v, vd.sat || vl⟩ qv
  let s := s.vecOut (out (R.vecOut3 u) 27 16) ⟨vq.v, vq.sat || vl⟩ qv
  let s := s.vecOut (out (R.vecOut4 u) 11 0) ⟨(thMod : Int), false⟩ qa
  s.vecOut (out (R.vecOut5 u) 11 0) mag qi

/-- The `VECTOR` step of thread `n` with unit mask `mask`; an unenabled unit does nothing (R121). -/
def State.vectorStep (s : State) (n mask : Nat) : State :=
  let s := if natBit mask 0 && s.vecEn (2 * n) then s.vecEval (2 * n) else s
  if natBit mask 1 && s.vecEn (2 * n + 1) then s.vecGrid (2 * n + 1) else s

/-! ### Commands (R139, R147, R148) -/

/-- Whether the device is in its run state, in which units and engines may start (R445). -/
def State.inRun (s : State) : Bool := s.rdF R.sysState 2 0 == 3

/-- `VEC_START` (R139). -/
def State.vecStart (s : State) (u : Nat) : State :=
  if !s.vecEn u || u % 2 == 1 then s
  else if s.vecState u = 0 ∧ s.inRun then
    ((s.setVec u { s.vec u with startAt := some ((s.vec u).startAt.getD s.clk.now) }).wrB (R.vecCtrl u) 0 true).keepField (u / 2) (R.vecCtrl u) 0 0 1
  else s.keepRaise (u / 2) (R.vecStatus u) 15

/-- `VEC_STOP` (R139): acted on at the next evaluation; it wins over a start not yet taken. -/
def State.vecStop (s : State) (u : Nat) : State :=
  if !s.vecEn u || u % 2 == 1 then s
  else
    let s := ((s.setVec u { s.vec u with startAt := none }).wrB (R.vecCtrl u) 0 false).wrB (R.vecCtrl u) 1 true
    s.keepField (u / 2) (R.vecCtrl u) 1 0 2

/-- `ASC_REQ` (R147). -/
def State.vecAscReq (s : State) (u : Nat) : State :=
  if !s.vecEn u || u % 2 == 1 || s.vecState u == 7 then s else s.setVecState u 7

/-- `ASC_EXIT`, with whether `START` was written together with it (R148). -/
def State.vecAscExit (s : State) (u : Nat) (start : Bool) : State :=
  let n := u / 2
  if !s.vecEn u || u % 2 == 1 || decide (s.vecState u ≠ 7) then s
  else
    let sv := s.rdF (R.vecSig1 u) 27 16
    let vdc := if sv = 0xFFF then 0 else sval (s.sigStable sv).val
    let lhs := s.rdS (R.vecVratio u) * (s.vec u).omega.natAbs * s.rdS (R.vecPsiM u)
    let high := decide (s.rdS (R.vecUrLimit u) * vdc * 2 ^ 28 ≤ lhs)
    let refuse (s : State) : State := if start then s.keepRaise n (R.vecStatus u) 15 else s
    if s.ascReq n || high then refuse (s.keepRaise n (R.vecStatus u) 16)
    else if !s.rdB (R.vecStatus u) 10 && (s.vec u).ever && start && s.inRun then s.setVecState u 5
    else refuse (s.setVecState u 0)

/-- A write of `w` to `VEC_u_CTRL`: `ASC_REQ` wins over `ASC_EXIT`, and `STOP` over `START`; a `START` beside an `ASC_EXIT` in `ASC` is part of
it (R139, R148). -/
def State.vecCtrlWrite (s : State) (u : Nat) (w : Word) : State :=
  let start := bitOf w 0 && !bitOf w 1
  let leaves := bitOf w 4 && !bitOf w 3 && s.vecState u == 7
  let s := if bitOf w 3 then s.vecAscReq u
    else if bitOf w 4 then s.vecAscExit u start
    else s
  let s := if bitOf w 1 then s.vecStop u else s
  if start && !leaves then s.vecStart u else s

/-- An accepted start takes effect at a sample instant at least 8 ns after the write; an encoder usable then is taken at once (R139). -/
def State.vecStartTake (s : State) (u : Nat) : State :=
  let v := s.vec u
  match v.startAt with
  | none => s
  | some x =>
    if s.clk.now < x + 256 then s
    else
      let n := u / 2
      let s := ((s.setVec u { v with startAt := none }).wrB (R.vecCtrl u) 0 false).keepField n (R.vecCtrl u) 0 0 0
      if s.vecState u ≠ 0 then s
      else
        let c := s.rdF (R.vecCfg u) 29 28
        let a := s.angSrc u c
        if (c = 1 ∨ c = 2) ∧ a.ok then
          let s := (s.wr (R.vecFlySpeed u) (wordOf a.w)).keepField n (R.vecFlySpeed u) 31 0 (wordOf a.w).toNat
          if a.w < 0 ∧ s.rdS (R.vecFlyMin u) ≤ -a.w then
            (s.keepRaise n (R.vecStatus u) 13).setVecState u (if s.rdB (R.vecCfg u) 21 then 5 else 4)
          else s.setVecState u 5
        else s.setVecState u 1

/-- A write of `w` to an RW field of unit `u` outside `OFF` is ignored and flagged (R151). -/
def State.vecParamWrite (s : State) (u a : Nat) (w : Word) : State :=
  if s.vecState u = 0 then s.storeReg a w else s.keepRaise (u / 2) (R.vecStatus u) 17

/-- `VEC_POS_k_OFFSET`: an RW field of the unit that names the interface, written in its `OFF` only (R151). -/
def State.posOffsetWrite (s : State) (k : Nat) (w : Word) : State :=
  let busy := [0, 1, 2, 3].filter (fun n => s.posUser n k && decide (s.vecState (2 * n) ≠ 0))
  if busy.isEmpty then s.storeReg (R.vecPosOffset k) w else s.each busy (fun s n => s.keepRaise n (R.vecStatus (2 * n)) 17)

end Sys2Proof.Machine
end

