-- ==== Sys2Proof/Machine/Snd.lean ====
section
/-! DEFINITION. The Sound modem (*Sound signalling*). -/

namespace Sys2Proof.Machine

/-! ### Chips, codes and frames (R195–R201) -/

/-- Sub-steps of 1,260 chips (R197). -/
def chipUnit : Nat := 32000000000

/-- The chip that contains timebase instant `T`, and the first chip boundary at or after it (R197). -/
def chipOf (T : Int) : Nat := (T.toNat * 1260 + 1259) / chipUnit
def chipFrom (T : Int) : Nat := (T.toNat * 1260 + (chipUnit - 1)) / chipUnit

/-- Timebase instant of chip boundary `k`. -/
def chipAt (k : Nat) : Int := (k * chipUnit / 1260 : Nat)

/-- Sequence of 63 bits by a recurrence of six places; `w` holds bits i to i + 5, lowest first. -/
def lfsrBits (taps : List Nat) : Nat → Nat → List Bool
  | 0, _ => []
  | n + 1, w =>
    let nb := taps.foldl (fun b k => b != natBit w k) false
    natBit w 0 :: lfsrBits taps n (w / 2 + 32 * b2n nb)

def seqA : List Bool := lfsrBits [1, 0] 63 32
def seqB : List Bool := lfsrBits [5, 2, 1, 0] 63 32

/-- Bit `i` of Gold code `k` (R198). -/
def goldBit (k i : Nat) : Bool := nth false seqA i != nth false seqB ((i + k) % 63)

/-- The lowest `n` bits of `x`, most significant first. -/
def bitsMsb : Nat → Nat → List Bool
  | 0, _ => []
  | n + 1, x => natBit x n :: bitsMsb n x

/-- The CRC of R201 over bits. -/
def sndCrc (bits : List Bool) : Nat := crcBitsL 16 0x1021 bits 0xFFFF

/-- The 72 bits of a frame in the order sent (R200). -/
def frameBits (sender ty payload : Nat) : List Bool :=
  let body := bitsMsb 12 sender ++ bitsMsb 4 ty ++ bitsMsb 32 payload
  bitsMsb 8 0x9A ++ body ++ bitsMsb 16 (sndCrc body)

/-- Chips of a frame, of the silence after it, and from the start of one copy to the next (R199, R200, R203). -/
def frameChips : Nat := 72 * 63
def gapChips : Nat := 8 * 63
def copyChips : Nat := 5040

/-- Whether chip `c` of a frame is sent as −1 (R199). -/
def chipNeg (code : Nat) (bits : List Bool) (c : Nat) : Bool :=
  let sym := ((bits.take (c / 63 + 1)).drop 1).foldl (fun a b => a != b) false
  sym != goldBit code (c % 63)

/-! ### State access -/

def State.sndEn (s : State) : Bool := s.rdB R.sndCfg 31
def State.sndThread (s : State) : Nat := s.rdF R.sndCfg 29 27
def State.setSnd (s : State) (v : SndSt) : State := { s with snd := v }

/-- A change of the transmitter within an evaluation; and one that a late period does not undo (R194). -/
def State.setTx (s : State) (x : SndTx) : State := s.setSnd { s.snd with tx := x }
def State.txBoth (s : State) (f : SndTx → SndTx) : State :=
  let n := s.sndThread
  let k := s.kept n
  (s.setTx (f s.snd.tx)).setKept n { k with tx := f k.tx }

/-- An event of the modem: 0x100 sent, 0x200 aborted, 0x300 received, with the type. -/
def State.sndEvent (s : State) (code : Nat) : State := s.post 46 code

/-! ### Set-points (R208, R209) -/

def State.sndWait (s : State) (k : Nat) : Option SndShift := tabGet (fun _ => none) s.snd.wait k
def State.setWait (s : State) (k : Nat) (v : Option SndShift) : State :=
  s.setSnd { s.snd with wait := tabSet (fun _ => none) s.snd.wait k v }
def State.sndShift (s : State) (k : Nat) : Int := tabGet (fun _ => 0) s.snd.shift k

/-- Whether two instants fall to the same evaluation of the modem: no sample instant of its thread lies between. -/
def State.sameEval (s : State) (a b : Nat) : Bool :=
  s.sampleFrom s.sndThread (s.tbOf a) == s.sampleFrom s.sndThread (s.tbOf b)

/-- Whether two set-points come from one frame that two correlators delivered within 400 ms (R206). -/
def SndShift.same (x y : SndShift) : Bool :=
  x.sender == y.sender && x.ofs == y.ofs && x.dur == y.dur && x.at_ - x.end_ == y.at_ - y.end_ &&
    decide (x.end_ ≤ y.end_ + 400 * msec) && decide (y.end_ ≤ x.end_ + 400 * msec)

/-- Whether the waiting set-point `y` stays against a new one, `x`: both fall to one evaluation, and the frame of `y` ended later, or at the same
instant with a lower sender (R209); the second delivery of one frame replaces the first (R206). -/
def State.staysFor (s : State) (y x : SndShift) : Bool :=
  s.sameEval x.at_ y.at_ && !x.same y && (decide (x.end_ < y.end_) || (x.end_ == y.end_ && decide (y.sender < x.sender)))

/-- A shift waits for its instant: it replaces the one that waits for the same target (R208, R209). -/
def State.putWait (s : State) (k : Nat) (x : SndShift) : State :=
  if (s.sndWait k).any (fun y => s.staysFor y x) then s else s.setWait k (some x)

/-- A `RESYNC` waits for its instant, at which it replaces the one that runs then (R209). -/
def State.putResync (s : State) (x : SndShift) : State :=
  let ys := s.snd.resyncs
  if ys.any (fun y => s.staysFor y x) then s
  else s.setSnd { s.snd with resyncs := ys.filter (fun y => !s.sameEval x.at_ y.at_ && !x.same y) ++ [x] }

/-- The set-points of a frame of type `ty` that ended at instant `e`; false where the target is reserved (R208, R209). -/
def State.applyFrame (s : State) (ty payload sender e : Nat) : State × Bool :=
  if ty = 2 then
    let k := natBits payload 31 28
    if k < 3 then
      (s.putWait k ⟨e + 200 * msec + natBits payload 27 16 * (100 * msec), signedOf 16 payload, 0, e, sender⟩, true)
    else (s, false)
  else if ty = 3 then
    (s.putResync ⟨e + 200 * msec, signedOf 16 (natBits payload 31 16), natBits payload 15 0 * (10 * msec), e, sender⟩, true)
  else (s, true)

/-- The waiting shifts whose instant lies at or before `lim` come into force. -/
def State.promoteShifts (s : State) (lim : Nat) : State :=
  s.each [0, 1, 2] (fun s k =>
    match s.sndWait k with
    | some x =>
      if x.at_ ≤ lim then
        let s := s.setWait k none
        s.setSnd { s.snd with shift := tabSet (fun _ => 0) s.snd.shift k x.ofs }
      else s
    | none => s)

/-- The waiting `RESYNC`s whose instant lies at or before `lim` come into force: the one of the latest instant runs. -/
def State.promoteResync (s : State) (lim : Nat) : State :=
  let due := s.snd.resyncs.filter (fun x => decide (x.at_ ≤ lim))
  let last := due.foldl (fun (m : Option SndShift) x => match m with
    | some y => if x.at_ < y.at_ then m else some x
    | none => some x) none
  match last with
  | some x => s.setSnd { s.snd with resyncs := s.snd.resyncs.filter (fun x => decide (lim < x.at_))
                                    resync := if x.dur = 0 then none else some (x.ofs, x.at_ + x.dur) }
  | none => s

/-- The waiting set-points whose instant lies at or before `lim` come into force (R208, R209). -/
def State.promote (s : State) (lim : Nat) : State := (s.promoteShifts lim).promoteResync lim

/-- `SHIFT_APPLY`: what waits for an instant at or before the thread's last sample instant comes into force; an instant after it takes effect
from the next sample instant on (R208). -/
def State.shiftApply (s : State) : State := s.promote (min s.clk.now (s.seq s.sndThread).sampleAt)

/-- `RESYNC_END` (R209). -/
def State.resyncEnd (s : State) : State :=
  match s.snd.resync with
  | some (_, e) => if e ≤ s.clk.now then s.setSnd { s.snd with resync := none } else s
  | none => s

/-! ### Claims heard (R207) -/

/-- The claims no older than `CLAIM_AGE` at instant `x`. -/
def State.freshClaims (s : State) (x : Nat) : List (Nat × Nat × Nat) :=
  s.snd.claims.filter (fun c => decide (x ≤ c.2.2 + s.rdF R.sndTiming 13 8 * second))

/-- `CLAIM_AGE_EXPIRY`. -/
def State.claimExpiry (s : State) : State := s.setSnd { s.snd with claims := s.freshClaims s.clk.now }

/-- `BS_HEARD`: the preceding-most claim, by rank and then by sender. -/
def State.bsHeard (s : State) : Nat :=
  let best := (s.freshClaims s.clk.now).foldl (fun a c => match a with
    | none => some (c.1, c.2.1)
    | some (r, i) => if c.1 < r ∨ (c.1 = r ∧ c.2.1 < i) then some (c.1, c.2.1) else a) none
  match best with
  | some (r, i) => 2 ^ 31 + r * 65536 + i
  | none => 0

/-! ### Reception (R206) -/

/-- Whether the span of a frame that ended at instant `e` contained an input unusable under R97. -/
def State.spanBad (s : State) (e : Nat) : Bool :=
  let t := s.tbOf e
  s.snd.tx.bad.any (fun x => decide (x.1 ≤ t) && decide (t ≤ x.2 + 3600 * msec))

/-- Whether a correlator delivers a frame that ended at instant `e` now, with the estimate `est`: within 100 ms of its end, which the estimate
meets within 1 ms (R205). -/
def State.inTime (s : State) (e est : Nat) : Bool :=
  decide (e ≤ s.clk.now) && decide (s.clk.now ≤ e + 100 * msec) && decide (est ≤ e + msec) && decide (e ≤ est + msec)

/-- `SND_FRAME_RECEIVED`: correlator `c` delivers a frame with these fields, which ended at instant `e` and whose end it estimates at `est`. What it
despreads is the operand (log 92); a correlator without a code of the family, and a delivery out of time, do not happen. -/
def State.sndReceive (s : State) (c sender ty payload crc e est : Nat) : State :=
  if !s.sndEn || !s.rdB (R.sndCorr c) 31 || decide (62 < s.rdF (R.sndCorr c) 5 0) || !s.inTime e est then s
  else if sndCrc (bitsMsb 12 sender ++ bitsMsb 4 ty ++ bitsMsb 32 payload) ≠ crc then s.countUp R.sndCount1 31 24 1
  else if s.spanBad est then s.countUp R.sndCount2 31 24 1
  else if sender = s.rdF R.sndId 11 0 then s.countUp R.sndCount1 23 16 1
  else
    let nt := s.ntOf s.sndThread (s.tbOf est)
    let s := s.countUp R.sndCount0 15 0 1
    let s : State := if s.snd.fifo.length < 32 then
        s.setSnd { s.snd with
          fifo := s.snd.fifo ++ [⟨sender, ty, c, payload, ntSec nt, ntNs nt⟩]
          got := if s.snd.fifo.isEmpty then some (s.cycleOf R.sndCtrl) else s.snd.got }
      else (s.countUp R.sndCount1 7 0 1).raise R.sndStatus 11
    let s := s.sndEvent (0x300 + ty)
    if ty = 1 then s.setSnd { s.snd with claims := s.freshClaims s.clk.now ++ [(natBits payload 31 24, sender, s.clk.now)] }
    else if ty = 2 ∨ ty = 3 then
      let listed := (List.range 8).any (fun j => s.rdB (R.sndAccept j) 31 && s.rdF (R.sndAccept j) 11 0 == sender)
      let r := s.applyFrame ty payload sender est
      if listed && r.2 then r.1 else s.countUp R.sndCount2 23 16 1
    else s

/-- `SND_RX_POP` (R206); a pop in the cycle in which a frame comes to the empty FIFO comes before it (R211). -/
def State.sndPop (s : State) : State :=
  if s.snd.got = some (s.cycleOf R.sndCtrl) then s.setSnd { s.snd with got := none }
  else s.setSnd { s.snd with fifo := s.snd.fifo.drop 1, got := none }

/-- Word `w` of the head of the receive FIFO (Table 10.4). -/
def State.sndHead (s : State) (w : Nat) : Word :=
  match s.snd.fifo with
  | [] => 0#32
  | h :: _ => match w with
    | 0 => wordN (h.sender * 65536 + h.ty * 4096 + h.corr * 256 + 1)
    | 1 => wordN h.payload
    | 2 => wordN h.sec
    | _ => wordN h.ns

/-! ### Transmission (R203, R204) -/

/-- `TX_SEND` (R203). -/
def State.txSend (s : State) : State :=
  let ty := s.rdF R.sndTxType 3 0
  if s.rdB R.sndStatus 8 || !s.rdB R.sndCfg 30 || !s.sndEn || !(ty == 2 || ty == 3 || ty == 14) then s.raise R.sndStatus 12
  else
    let n := if ty = 2 then max 1 (s.rdF R.sndTiming 2 0) else 1
    (s.txBoth (fun x => { x with sw := some ⟨ty, s.rdN R.sndTxPayload, n, 0⟩ })).wrB R.sndStatus 8 true

/-- The software frame has no copy left: `TX_BUSY` ends. -/
def State.txSwDone (s : State) : State := (s.txBoth (fun x => { x with sw := none })).wrB R.sndStatus 8 false

/-- The payload of a `SHIFT` whose delay is reduced by `d` units; none where it would fall below 0 (R203). -/
def shiftLess (ty payload d : Nat) : Option Nat :=
  if ty ≠ 2 then some payload
  else if natBits payload 27 16 < d then none
  else some (payload - d * 65536)

/-- A frame is set up to start at chip boundary `k`. -/
def State.txSetup (s : State) (k : Nat) (claim : Word) : State :=
  let x := s.snd.tx
  let hasClaim := bitOf claim 31
  let own : TxFrame := ⟨false, 1, fieldOf claim 23 16 * 2 ^ 24, some k, k, false, false⟩
  match x.sw with
  | some w =>
    if w.fromK ≤ k ∧ (!hasClaim || !x.lastSw) then
      s.setTx { x with frame := some ⟨true, w.ty, w.payload, some k, k, false, false⟩ }
    else if hasClaim then s.setTx { x with frame := some own }
    else s
  | none => if hasClaim then s.setTx { x with frame := some own } else s

/-- An aborted frame restarts at chip boundary `k`: a `SHIFT` loses the time that passed, and one whose delay it exhausts is dropped with its
further copies (R204). -/
def State.txRestart (s : State) (f : TxFrame) (k : Nat) : State :=
  let lost := (k - f.origK + 125) / 126
  match shiftLess f.ty f.payload (if f.sw then lost else 0) with
  | some p => s.setTx { s.snd.tx with frame := some { f with payload := p, startK := some k, origK := k, live := false, again := true } }
  | none =>
    let s := s.countUp R.sndCount2 15 8 1
    (s.setTx { s.snd.tx with frame := none, sw := none }).wrB R.sndStatus 8 false

/-- A claim frame that has not started at chip `c` is dropped when its claim bit clears, and, an aborted one too, when the engine is in `OFF`
(R203, R204). -/
def State.txPending (s : State) (n c : Nat) (claim : Word) : State :=
  match s.snd.tx.frame with
  | some f =>
    let waits := !f.startK.any (fun k => decide (k ≤ c))
    if !f.sw && waits && (s.gfeState n == 0 || (!f.again && f.startK.isSome && !bitOf claim 31)) then s.setTx { s.snd.tx with frame := none }
    else s
  | none => s

/-- The transmitter's part of an evaluation with modulation centre at timebase instant `tc`: a frame is started, restarted or aborted. The
answer says whether a chip is to be injected, and whether it is −1 (R203, R204). -/
def State.txStep (s : State) (n : Nat) (tc : Int) : State × Option Bool :=
  let allowed := decide (s.gfeState n = 1) && !s.rdB (R.gfeStatus n) 11
  let claim := (s.sigIn n (s.rdF R.sndSig0 27 16)).val
  let c := chipOf tc
  let k0 := chipFrom tc
  let s := s.txPending n c claim
  let s := match s.snd.tx.frame with
    | some f => if f.startK.isNone && allowed then s.txRestart f k0 else s
    | none => if s.rdB R.sndCfg 30 && allowed && decide (s.snd.tx.freeK ≤ k0) then s.txSetup k0 claim else s
  match s.snd.tx.frame with
  | some f =>
    match f.startK with
    | some k =>
      if c < k ∨ k + frameChips ≤ c then (s, none)
      else if allowed then
        (s, some (chipNeg (s.rdF R.sndCfg 21 16) (frameBits (s.rdF R.sndId 11 0) f.ty f.payload) (c - k)))
      else
        let s := (s.countUp R.sndCount1 15 8 1).raise R.sndStatus 10
        let s := (s.wrB R.sndStatus 6 false).wrB R.sndStatus 7 false
        let drop := !f.sw && s.gfeState n == 0
        ((s.setTx { s.snd.tx with frame := if drop then none else some { f with startK := none, live := false } }).sndEvent
          (0x200 + f.ty), none)
    | none => (s, none)
  | none => (s, none)

/-- `SND_FRAME_START`: the chip boundary at which the frame starts is reached on the line. -/
def State.frameStart (s : State) : State :=
  match s.snd.tx.frame with
  | some f =>
    match f.startK with
    | some k =>
      if !f.live && decide (chipAt k ≤ s.tb) then
        let go (x : SndTx) : SndTx := { x with frame := x.frame.map (fun g => if g.startK = some k then { g with live := true } else g) }
        let s := (s.txBoth go).wrB R.sndStatus 6 true
        if f.sw then s else s.wrB R.sndStatus 7 true
      else s
    | none => s
  | none => s

/-- `SND_FRAME_END`: the chip boundary that ends bit 71 is reached: the frame is counted sent, its own set-points wait, and the next copy is
prepared (R200, R203, R208). -/
def State.frameEnd (s : State) : State :=
  match s.snd.tx.frame with
  | some f =>
    match f.startK with
    | some k =>
      if chipAt (k + frameChips) ≤ s.tb then
        let done (x : SndTx) : SndTx :=
          { x with frame := none, lastSw := f.sw, freeK := k + frameChips + gapChips }
        let s := s.txBoth done
        let s := (s.wrB R.sndStatus 6 false).wrB R.sndStatus 7 false
        let s := (s.countUp R.sndCount0 31 16 1).sndEvent (0x100 + f.ty)
        if !f.sw then s
        else
          let e := (chipAt (k + frameChips) + s.clk.tbBase).toNat
          let s := (s.applyFrame f.ty f.payload (s.rdF R.sndId 11 0) e).1
          match s.snd.tx.sw with
          | some w =>
            match shiftLess w.ty f.payload 40 with
            | some p =>
              if w.left ≤ 1 then s.txSwDone
              else s.txBoth (fun x => { x with sw := some { w with payload := p, left := w.left - 1, fromK := k + copyChips } })
            | none => s.txSwDone
          | none => s
      else s
    | none => s
  | none => s

/-! ### Injection (R196) -/

/-- |A / h| in Q4.28: `TX_AMP` × 10^-4 × x / sin x with x = π × |f_c − ω × FBASE| × `SEQ_n_PERIOD`. -/
def State.injAmp (s : State) (n : Nat) (w : Int) : Int :=
  let f := s.rdN (R.gfeFbase n)
  let car : Int := s.rdF R.sndCfg 12 0
  let amp : Int := s.rdF R.sndTxAmp 5 0
  let df : Int := (divRound (car * 2 ^ 43 - w * f) 1).natAbs
  let x : Int := divFloor (df * s.seqP n * twoPi60) (2 * 2 ^ 44 * 32000000000)
  let sx := trigSeries (x * x / 2 ^ 60) 12 x 1 x
  if x = 0 then divRound (amp * 2 ^ 28) 10000 else divR 7 (amp * x * 2 ^ 28) (sx * 10000)

/-- The receiver's spans of unusable input after an evaluation with input represented at timebase instant `tau`: spans that no frame in flight
can reach are dropped. -/
def badPut (l : List (Int × Int)) (tau gap : Int) (bad : Bool) : List (Int × Int) :=
  let l := l.filter (fun x => decide (tau ≤ x.2 + 4000 * msec))
  if !bad then l
  else match l with
    | (a, b) :: r => if tau ≤ b + gap then (a, tau) :: r else (tau, tau) :: l
    | [] => [(tau, tau)]

/-- The modem's evaluation within the `GFE` step of its thread (R194–R196, R205, R206, R208). -/
def State.sndEval (s : State) (n : Nat) : State :=
  if !s.sndEn || decide (s.sndThread ≠ n) then s
  else
    let ts := s.tbOf (s.seq n).sampleAt
    let dtc := 3 * s.seqP n / 2 + s.seqAdv n
    let tc : Int := ts + dtc
    let g := s.gfe n
    let f := s.rdN (R.gfeFbase n)
    let v (hi lo : Nat) : Qual := (s.sigIn n (s.rdF (R.gfeSig1 n) hi lo)).qual
    let bad := !s.usable (v 11 0) || !s.usable (v 27 16)
    let s := s.setTx { s.snd.tx with bad := badPut s.snd.tx.bad (ts + s.vecTau (2 * n + 1)) (2 * s.seqP n : Nat) bad }
    let r := s.txStep n tc
    let s := r.1
    let w := shrRound g.acc 32
    let ang := g.ang + (divRound (g.acc * f * ((s.seqP n * (1 + g.late) + dtc : Nat) : Int)) 131072000000000).toNat
    let thMod : Int := ang / 2 ^ 32
    let ph := ((divRound (s.rdF R.sndCfg 12 0 * tc * 2 ^ 32) 64000000000 - thMod) % 2 ^ 32).toNat
    let a := s.injAmp n w
    let cs := s.rdF R.sndSig0 27 16
    let q := s.qJoin ([(s.sigStable (s.rdF (R.gfeOut1 n) 11 0)).qual, (s.sigStable (s.rdF (R.gfeOut1 n) 27 16)).qual] ++
      (if cs = 0xFFF then [] else [(s.sigStep n cs).qual]))
    let inj : Int × Int := match r.2 with
      | none => (0, 0)
      | some neg =>
        let a' := if neg then -a else a
        (mulQ28 a' (cosQ ph), mulQ28 a' (sinQ ph))
    let s := s.sigWrite (s.rdF R.sndSig1 11 0) (wordOf inj.1) q
    let s := s.sigWrite (s.rdF R.sndSig1 27 16) (wordOf inj.2) q
    let s := s.promote (s.seq n).sampleAt
    let rs := match s.snd.resync with
      | some (o, e) => if (s.seq n).sampleAt < e then o else 0
      | none => 0
    let sw := svOf ((s.sndShift 0 + rs) * 4096)
    let s := s.sigWrite (s.rdF R.sndSig2 11 0) (wordOf sw.v) (if sw.sat then 0x1000#16 else 0#16)
    let s := s.sigWrite (s.rdF R.sndSig2 27 16) (wordOf (s.sndShift 1 * 4096)) 0#16
    let s := s.sigWrite (s.rdF R.sndSig3 11 0) (wordOf (s.sndShift 2 * 4096)) 0#16
    s.sigWrite (s.rdF R.sndSig0 11 0) (wordN s.bsHeard) 0#16

end Sys2Proof.Machine
end

