-- ==== Sys2Proof/Machine/Gfe.lean ====
section
/-! DEFINITION. Grid-forming engines (*Grid-forming engine*), the ride-through supervisor and black start (*Black start and fault
ride-through*). -/

namespace Sys2Proof.Machine

/-! ### Parameters (R177) -/

/-- An active parameter, by its register's address. -/
def State.gpW (s : State) (a : Nat) : Word := tabGet regReset s.gpar.act a
def State.gpS (s : State) (a : Nat) : Int := sval (s.gpW a)
def State.gpN (s : State) (a : Nat) : Nat := (s.gpW a).toNat
def State.gpF (s : State) (a hi lo : Nat) : Nat := fieldOf (s.gpW a) hi lo

/-- Addresses of the shadow set of engine `n` (Tables 8.4, 9.5, 9.6). -/
def gfeParAddrs (n : Nat) : List Nat :=
  let b := R.gfeCtrl n
  (List.range 38).map (fun i => b + 0x84 + 4 * i) ++ [b + 0x20C] ++ (List.range 10).map (fun i => b + 0x250 + 4 * i) ++
    (List.range 8).map (fun j => b + 0x280 + 4 * j)

/-- The shadow set of engine `n` becomes the active set. -/
def State.gfeTake (s : State) (n : Nat) : State :=
  { s with gpar := { s.gpar with act := (gfeParAddrs n).foldl (fun t a => tabSet regReset t a (s.rd a)) s.gpar.act } }

/-- Whether `x` lies between `lo` and `hi`. -/
def inRange (lo hi x : Int) : Bool := decide (lo ≤ x ∧ x ≤ hi)

/-- Strictly rising, and not falling. -/
def rising : List Nat → Bool
  | a :: b :: r => decide (a < b) && rising (b :: r)
  | _ => true
def notFalling : List Nat → Bool
  | a :: b :: r => decide (a ≤ b) && notFalling (b :: r)
  | _ => true

/-- The validation rules of Table 8.4, R182, R187 and Tables 9.5 and 9.6 on the shadow set of engine `n`. -/
def State.gfeValid (s : State) (n : Nat) : Bool :=
  let sg (f : Nat → Nat) : Int := s.rdS (f n)
  let un (f : Nat → Nat) : Int := s.rdN (f n)
  let pos (f : Nat → Nat) : Bool := decide (0 ≤ s.rdS (f n))
  let rv := sg R.gfeRV
  let lv := sg R.gfeLV
  let curve := (List.range 8).map (fun j => s.rd (R.gfeFrtCurve n j))
  let slot : Bool :=
    s.rdF (R.gfeBsCfg n) 31 30 == 0 ||
      (decide (sg R.gfeVDead < sg R.gfeVLive) &&
        decide ((sg R.gfeVLive - sg R.gfeEStart) * 32000000000 ≤
          (s.rdF (R.gfeBsTime n) 15 0 * (100 * msec : Int) - s.rdF (R.gfeFrtCnt n) 7 0 * s.seqP n - 500 * msec) * (4096 * un R.gfeERamp)))
  inRange 1677722 3355443200 (un R.gfeM) && inRange 0 65536000 (un R.gfeDroop) && inRange 0 65536000 (un R.gfeDamp) &&
    decide (214748365 ≤ sg R.gfeWMin) && decide (sg R.gfeWMin < sg R.gfeWSet) && decide (sg R.gfeWSet < sg R.gfeWMax) &&
    decide (sg R.gfeWMax ≤ 322122547) && inRange 134217728 322122547 (sg R.gfeVSet) && inRange 0 134217728 (sg R.gfeNq) &&
    pos R.gfeEIntMax && decide (sg R.gfeEMin ≤ sg R.gfeEStart) && decide (sg R.gfeEStart ≤ sg R.gfeEMax) &&
    decide (sg R.gfeEMax ≤ 402653184) && inRange 656 65536000 (un R.gfeERamp) && pos R.gfeRV && pos R.gfeLV &&
    decide (28823037615172 ≤ rv * rv + lv * lv) && pos R.gfeRH && pos R.gfeLF && inRange 26843546 536870912 (sg R.gfeILim) &&
    pos R.gfeViLim && decide (sg R.gfeVOutMax ≤ 536870912) && pos R.gfeHandoverTol &&
    inRange 1 1024 (s.rdF (R.gfeHandover n) 10 0) && pos R.gfeKSync && inRange 1 255 (s.rdF (R.gfeCnt n) 15 8) &&
    inRange 1 255 (s.rdF (R.gfeCnt n) 7 0) && decide (sg R.gfeDipEnter < sg R.gfeDipExit) &&
    decide (sg R.gfeSwellExit < sg R.gfeSwellEnter) && decide (sg R.gfeNegExit < sg R.gfeNegEnter) &&
    inRange 656 6553600 (un R.gfePRecover) && pos R.gfeLeaveP && pos R.gfeLeaveQ &&
    rising (curve.map (fun w => fieldOf w 31 16)) && notFalling (curve.map (fun w => fieldOf w 15 0)) && slot

/-! ### Inputs -/

def State.gfeEn (s : State) (n : Nat) : Bool := s.rdB (R.gfeCfg n) 31

/-- Time in sub-steps since the last on-time evaluation (R122). -/
def State.gfeDt (s : State) (n : Nat) : Nat := s.seqP n * (1 + (s.gfe n).late)

/-- The measured inputs of engine `n`: i_d, i_q, v_d, v_q. -/
structure GIn where
  id : Int
  iq : Int
  vd : Int
  vq : Int
  quals : List Qual

def State.gfeIn (s : State) (n : Nat) : GIn :=
  let r (a hi lo : Nat) : SigVal := s.sigStep n (s.rdF a hi lo)
  let d := r (R.gfeSig0 n) 11 0
  let q := r (R.gfeSig0 n) 27 16
  let vd := r (R.gfeSig1 n) 11 0
  let vq := r (R.gfeSig1 n) 27 16
  ⟨sval d.val, sval q.val, sval vd.val, sval vq.val, [d.qual, q.qual, vd.qual, vq.qual]⟩

/-- A set-point signal: its value while usable, else the last usable one; with the qualities read (R175). -/
def State.setPoint (s : State) (n i : Nat) (last : Int) : Int × List Qual :=
  if i = 0xFFF then (0, [])
  else
    let x := s.sigStep n i
    (if s.usable x.qual then sval x.val else last, [x.qual])

/-- The breaker: whether it is usable, and whether it reads closed (R165). -/
def State.breaker (s : State) (n : Nat) : Bool × Bool :=
  let x := s.sigIn n (s.rdF (R.gfeSig5 n) 27 16)
  (s.usable x.qual && decide (s.rdF (R.gfeSig5 n) 27 16 ≠ 0xFFF), decide (x.val ≠ 0#32))

/-- Whether the line-side voltage is measured: PLL_L is idle without it (R161). -/
def State.lineSet (s : State) (n : Nat) : Bool := decide (s.rdF (R.gfeSig4 n) 11 0 ≠ 0xFFF)

/-- The quality of a configured input, where it names a signal. -/
def State.sigQual (s : State) (n i : Nat) : List Qual := if i = 0xFFF then [] else [(s.sigStep n i).qual]

/-- Magnitude of a vector, Q4.28. -/
def magQ (a b : Int) : Int := sat32 (isqrtRound (a.natAbs * a.natAbs + b.natAbs * b.natAbs))

/-- The line-side voltage in the stator frame (R161). -/
def State.lineV (s : State) (n : Nat) : (Int × Int) × List Qual :=
  let a := s.sigIn n (s.rdF (R.gfeSig4 n) 11 0)
  let b := s.sigIn n (s.rdF (R.gfeSig4 n) 27 16)
  let c := s.sigIn n (s.rdF (R.gfeSig5 n) 11 0)
  let v := clarke (sval a.val) (sval b.val) (sval c.val)
  ((v.1.v, v.2.v), [a.qual, b.qual, c.qual])

/-- τ of the voltage samples on the timebase (R185). -/
def State.gfeTau (s : State) (n : Nat) : Int := s.tbOf (s.seq n).sampleAt + s.vecTau (2 * n + 1)

/-! ### Phase-locked loops (R161) -/

/-- One evaluation of a loop: the angle advances, the vector (a, b) is turned by the angle that `rot` gives, and the error sets the speed.
`live` says whether the inputs may be judged good. -/
def State.pllStep (s : State) (n site : Nat) (p : PllSt) (rot : Nat → Nat) (a b : Int) (live : Bool) : PllSt :=
  let f := s.rdN (R.gfeFbase n)
  let th := angAdd p.theta (angStep p.w f (s.gfeDt n))
  let r := rot th
  let mag := magQ a b
  let eps := sat32 (divR site (b * cosQ r - a * sinQ r) mag)
  let wInt := sat32 (shrRound (p.wInt * 2 ^ 28 + s.gpS (R.gfePllKi n) * eps) 28)
  let w := sat32 (shrRound (wInt * 2 ^ 28 + s.gpS (R.gfePllKp n) * eps) 28)
  let lockN := s.gpF (R.gfePllLock n) 15 0
  let good := live && decide ((eps.natAbs : Int) ≤ s.gpF (R.gfePllLock n) 31 16 * 4096) && decide (s.gpS (R.gfeVLive n) ≤ mag)
  let ok := if good then min 65535 (p.ok + 1) else 0
  let bad := if good then 0 else min 65535 (p.bad + 1)
  let now := if p.locked then !decide (lockN ≤ bad) else good && decide (lockN ≤ ok)
  ⟨wInt, w, th, if p.locked != now then 0 else ok, if p.locked != now then 0 else bad, now⟩

/-! ### Filters and limits (R158–R160) -/

/-- A first-order filter with time constant `tc` sub-steps over `dt` (R158). -/
def lowPass (tc dt : Nat) (y x : Int) : Int :=
  let al : Int := if tc = 0 then 2 ^ 32 else divRound ((dt : Int) * 2 ^ 32) (tc + dt)
  sat32 (y + shrRound (al * (x - y)) 32)

/-- A vector scaled down to magnitude `m` where it is longer; and whether it was (R160). -/
def limitVec (m d q : Int) : (Int × Int) × Bool :=
  if m * m < d * d + q * q ∧ 0 ≤ m then
    let r : Int := isqrtRound (d * d + q * q).toNat
    ((divR 9 (d * m) r, divR 9 (q * m) r), true)
  else ((d, q), false)

/-- The virtual current (R168): components in Q4.28, and whether its magnitude is above `lim` and below 0.95 × `lim`. -/
structure VirtI where
  d : Int
  q : Int
  /-- numerator of the exact components, for scaling by `CL_PRIO` 0 -/
  nd : Int
  nq : Int
  above : Bool
  under : Bool

def State.virtI (s : State) (n : Nat) (e w vd vq : Int) : VirtI :=
  let r := s.gpS (R.gfeRV n) * 2 ^ 28
  let x := s.gpS (R.gfeLV n) * w
  let a := e - vd
  let b := -vq
  let den := r * r + x * x
  let nd := a * r + b * x
  let nq := b * r - a * x
  let lim := s.gpS (R.gfeILim n)
  let lhs := (a * a + b * b) * 2 ^ 112
  { d := sat32 (divR 10 (nd * 2 ^ 56) den), q := sat32 (divR 10 (nq * 2 ^ 56) den), nd := nd, nq := nq
    above := decide (lim * lim * den < lhs), under := decide (lhs * 400 < 361 * (lim * lim) * den) }

/-- The limited reference i* (R168). -/
def State.limRef (s : State) (n : Nat) (i : VirtI) : Int × Int :=
  let lim := s.gpS (R.gfeILim n)
  match s.rdF (R.gfeCfg n) 28 27 with
  | 0 =>
    let m : Int := isqrtRound (i.nd * i.nd + i.nq * i.nq).toNat
    (sat32 (divR 11 (i.nd * lim) m), sat32 (divR 11 (i.nq * lim) m))
  | 1 =>
    let q := clampI (-lim) lim i.q
    let r : Int := isqrtRound (lim * lim - q * q).toNat
    (clampI (-r) r i.d, q)
  | _ =>
    let d := clampI (-lim) lim i.d
    let r : Int := isqrtRound (lim * lim - d * d).toNat
    (d, clampI (-r) r i.q)

/-! ### The engine (R155–R175) -/

/-- Angle increment of R156 in units of 2^-64 turn. -/
def angInc (acc : Int) (f dt : Nat) : Int := divRound (acc * f * dt) 131072000000000

/-- A 64-bit angle moved on. -/
def ang64 (a : Nat) (d : Int) : Nat := (((a : Int) + d) % 2 ^ 64).toNat

/-- What an evaluation gives: the new state, what it writes, and its flags. -/
structure GOut where
  g : GfeSt
  st : Nat
  idRef : Int
  iqRef : Int
  wLim : Bool
  ramp : Bool
  eLim : Bool
  vLim : Bool
  clipped : Bool
  satW : Bool
  satV : Bool

/-- The voltage law of `FORM` (R160): references before and after the output limit. -/
def State.formRef (s : State) (n : Nat) (e w : Int) (i : GIn) (fd fq injD injQ : Int) : (Int × Int) × Bool :=
  let rv := s.gpS (R.gfeRV n)
  let rh := s.gpS (R.gfeRH n)
  let x := mulQ28 (s.gpS (R.gfeLV n)) w
  let d := e + injD + shrRound (-(rv * i.id) + x * i.iq - rh * (i.id - fd)) 28
  let q := injQ + shrRound (-(rv * i.iq) - x * i.id - rh * (i.iq - fq)) 28
  limitVec (s.gpS (R.gfeVOutMax n)) d q

/-- The current controller of `LIMIT` without its integrator (R170). -/
def State.limBase (s : State) (n : Nat) (w : Int) (i : GIn) (r : Int × Int) : Int × Int :=
  let lf := s.gpS (R.gfeLF n)
  let kp := s.gpS (R.gfeKpI n)
  (i.vd + shrRound (-(w * mulQ28 lf i.iq) + kp * (r.1 - i.id)) 28, i.vq + shrRound (w * mulQ28 lf i.id + kp * (r.2 - i.iq)) 28)

/-- A reference pair is handed over against the last one written: written as it is where both axes agree within `HANDOVER_TOL`, else a blend
starts (R171, R172). -/
def State.handOver (s : State) (n : Nat) (g : GfeSt) (u : Int × Int) : GfeSt × Bool :=
  let tol := s.gpS (R.gfeHandoverTol n)
  if ((u.1 - g.refD).natAbs : Int) ≤ tol ∧ ((u.2 - g.refQ).natAbs : Int) ≤ tol then
    ({ g with blend := 0, dD := 0, dQ := 0, refD := sat32 u.1, refQ := sat32 u.2 }, false)
  else ({ g with blend := s.gpF (R.gfeHandover n) 10 0, dD := g.refD - u.1, dQ := g.refQ - u.2 }, true)

/-- A reference pair written in the present mode, with the offset of a running blend (R173). -/
def State.blendOut (s : State) (n : Nat) (g : GfeSt) (u : Int × Int) : GfeSt :=
  if g.blend = 0 then { g with refD := sat32 u.1, refQ := sat32 u.2 }
  else
    let k := g.blend - 1
    let hn := s.gpF (R.gfeHandover n) 10 0
    { g with blend := k, refD := sat32 (u.1 + blendOffset g.dD k hn), refQ := sat32 (u.2 + blendOffset g.dQ k hn) }

/-- The references of an evaluation whose mode was `st` and is now `st'` (R160, R170–R174). -/
def State.gfeRefs (s : State) (n : Nat) (g : GfeSt) (st st' : Nat) (w vtgt : Int) (i : GIn) (ir : Int × Int) (inj : Int × Int) :
    GfeSt × Bool × Bool :=
  let vi := s.gpS (R.gfeViLim n)
  if st' = 2 then
    let base := s.limBase n w i ir
    if st = 2 then
      let l := limitVec (s.gpS (R.gfeVOutMax n)) (base.1 + g.xd) (base.2 + g.xq)
      let ki := s.gpS (R.gfeKiI n)
      let x (c : Int) (e : Int) : Int := if l.2 then c else clampI (-vi) vi (c + mulQ28 ki e)
      let g' := s.blendOut n g l.1
      ({ g' with xd := x g.xd (ir.1 - i.id), xq := x g.xq (ir.2 - i.iq) }, l.2, false)
    else
      let xd := clampI (-vi) vi (g.refD - base.1)
      let xq := clampI (-vi) vi (g.refQ - base.2)
      let h := s.handOver n { g with xd := xd, xq := xq } (base.1 + xd, base.2 + xq)
      (h.1, false, h.2)
  else if st = 2 then
    let v1 := s.formRef n g.e w i g.iFd g.iFq 0 0
    if s.rdB (R.gfeCfg n) 29 then
      let em := s.gpS (R.gfeEIntMax n)
      let ei := clampI (-em) em (g.eInt + (g.refD - v1.1.1))
      let e := clampI (s.gpS (R.gfeEMin n)) (s.gpS (R.gfeEMax n)) (vtgt + ei)
      let v2 := s.formRef n e w i g.iFd g.iFq 0 0
      let h := s.handOver n { g with eInt := ei, e := e } v2.1
      (h.1, v2.2, h.2)
    else
      let h := s.handOver n g v1.1
      (h.1, v1.2, h.2)
  else
    let v := s.formRef n g.e w i g.iFd g.iFq (if g.blend = 0 then inj.1 else 0) (if g.blend = 0 then inj.2 else 0)
    (s.blendOut n g v.1, v.2, false)

/-- Whether the breaker reads closed for the first time without `SYNC_OK` at the evaluation before (R167). -/
def State.gfeUnsync (s : State) (n : Nat) : Bool :=
  let br := s.breaker n
  br.1 && br.2 && !(s.gfe n).brk && !s.rdB (R.gfeStatus n) 5

/-- Pre-synchronisation and breaker (R165–R167): the new state, Δθ, whether it is active, p_sync, and `SYNC_OK`. -/
def State.gfeSync (s : State) (n : Nat) (g : GfeSt) (st th : Nat) (wOld vMag : Int) : GfeSt × Int × Bool × Int × Bool :=
  let br := s.breaker n
  let closed := !br.1 || br.2
  let active := decide (st ≠ 0) && s.rdB (R.gfeCfg n) 30 && br.1 && !br.2 && g.pllL.locked
  let eSync0 := if closed = g.brk then g.eSync else 0
  let dth := angSub (angAdd g.pllL.theta (s.gpN (R.gfeSyncOfs n))) th
  let lv := (s.lineV n).1
  let dv := magQ lv.1 lv.2 - vMag
  let em := s.gpS (R.gfeEIntMax n)
  let inc := divRound (s.gpN (R.gfeKSyncV n) * dv * s.gfeDt n) (65536 * 32000000000)
  let eSync := if active then clampI (-em) em (eSync0 + inc) else eSync0
  let ok := active && decide ((dth.natAbs : Int) ≤ s.gpN (R.gfeSyncAng n)) && decide ((dv.natAbs : Int) ≤ s.gpS (R.gfeSyncDv n)) &&
    decide (((wOld - g.pllL.w).natAbs : Int) ≤ s.gpS (R.gfeSyncDw n))
  let run := if ok then min 255 (g.syncRun + 1) else 0
  let psync := if active then mulQ28 (s.gpS (R.gfeKSync n)) (sinQ (angAdd 0 dth)) else 0
  ({ g with eSync := eSync, brk := closed, syncRun := run }, dth, active, psync, ok && decide (s.gpF (R.gfeCnt n) 7 0 ≤ run))

/-- The EMF law (R159): the new e_int, the target, E, and the flags `RAMPING` and `E_LIMIT`. -/
def State.gfeEmf (s : State) (n : Nat) (g : GfeSt) (vMag : Int) (presync frozen : Bool) : Int × Int × Int × Bool × Bool :=
  let dt := s.gfeDt n
  let vt := s.gpS (R.gfeVSet n) + g.vset + mulQ28 (s.gpS (R.gfeNq n)) (g.qref - g.qF)
  let mode := s.rdB (R.gfeCfg n) 29
  let em := s.gpS (R.gfeEIntMax n)
  let ei := if mode && !frozen then
      clampI (-em) em (g.eInt + divRound (s.gpN (R.gfeKv n) * (vt - vMag) * dt) (65536 * 32000000000))
    else g.eInt
  let tgt := vt + (if presync then g.eSync else 0)
  let full := tgt + (if mode then ei else 0)
  let step := divRound (s.gpN (R.gfeERamp n) * 4096 * (dt : Int)) 32000000000
  let mv := clampI (g.e - step) (g.e + step) full
  let e := clampI (s.gpS (R.gfeEMin n)) (s.gpS (R.gfeEMax n)) mv
  (ei, tgt, e, decide (mv ≠ full), decide (e ≠ mv))

/-- An evaluation in `FORM` or `LIMIT` from mode `st`; `start` says that the rotor and E were just set by a start (R163). Where an exit forms
E anew, `RAMPING` and `E_LIMIT` are those of that E (R172). -/
def State.gfeRun (s : State) (n : Nat) (g : GfeSt) (st : Nat) (start : Bool) (i : GIn) (iv : VirtI) (psync : Int) (presync : Bool)
    (inj : Int × Int) : GOut :=
  let dt := s.gfeDt n
  let vMag := magQ i.vd i.vq
  let wOld := shrRound g.acc 32
  let wSet := s.gpS (R.gfeWSet n) + g.wset
  let damp := if presync then g.pllL.w else if g.pllT.locked then g.pllT.w else wOld
  let sum := g.pref + shrRound (s.gpN (R.gfeDroop n) * (wSet - wOld)) 16 - shrRound (s.gpN (R.gfeDamp n) * (wOld - damp)) 16 + psync - g.pF
  let inc := divR 6 (sat32 sum * 2 ^ 56 * dt) (32000000000 * (s.gpN (R.gfeM n) : Int))
  let free := if start then g.acc else g.acc + inc
  let acc := if start then g.acc else clampI (s.gpS (R.gfeWMin n) * 2 ^ 32) (s.gpS (R.gfeWMax n) * 2 ^ 32) free
  let em := s.gfeEmf n g vMag presync (decide (st = 2))
  let g := { g with acc := acc, eInt := em.1, e := if start then g.e else em.2.2.1 }
  let ramp := if start then decide (em.2.1 + (if s.rdB (R.gfeCfg n) 29 then em.1 else 0) ≠ g.e) else em.2.2.2.1
  let exitT := if st = 2 ∧ iv.under then g.exitT + dt else 0
  let st' := if st = 1 then (if iv.above then 2 else 1) else if 2 * msec ≤ exitT then 1 else 2
  let g := { g with exitT := if st' = 2 then exitT else 0 }
  let ir := s.limRef n iv
  let w := shrRound acc 32
  let r := s.gfeRefs n g st st' w em.2.1 i ir inj
  let anew := decide (st = 2 ∧ st' = 1) && s.rdB (R.gfeCfg n) 29
  { g := r.1, st := st', idRef := if st' = 2 then ir.1 else iv.d, iqRef := if st' = 2 then ir.2 else iv.q, wLim := decide (acc ≠ free)
    ramp := !anew && ramp, eLim := if anew then decide (r.1.e ≠ em.2.1 + r.1.eInt) else !start && em.2.2.2.2, vLim := r.2.1, clipped := r.2.2, satW := !start && over32 sum
    satV := over32 r.1.refD || over32 r.1.refQ }

/-- The qualities of the outputs (R103): of all, of `SYNC_OK`, and of the voltage references. -/
structure GQual where
  all : Qual
  sync : Qual
  ref : Qual

/-- The outputs of engine `n` are written (R158, R162). -/
def State.gfePublish (s : State) (n : Nat) (idRef iqRef : Int) (gq : GQual) (satW satV : Bool) : State :=
  let q := gq.all
  let s := s.setGfe n { s.gfe n with idRef := idRef, iqRef := iqRef }
  let g := s.gfe n
  let f := s.rdN (R.gfeFbase n)
  let up (a : Nat) : Int := (a / 2 ^ 32 : Nat)
  let w := shrRound g.acc 32
  let at_ (dt : Nat) : Int := up (ang64 g.ang (angInc g.acc f dt))
  let p := s.seqP n
  let out (s : State) (a hi lo : Nat) (v : Int) (sat : Bool) : State := s.vecOut (s.rdF a hi lo) ⟨v, sat⟩ q
  let s := out s (R.gfeOut0 n) 11 0 (up g.ang) false
  let s := out s (R.gfeOut0 n) 27 16 (at_ p) false
  let s := out s (R.gfeOut1 n) 11 0 (at_ (3 * p / 2 + s.seqAdv n)) false
  let s := out s (R.gfeOut1 n) 27 16 w satW
  let s := out s (R.gfeOut2 n) 11 0 g.pllT.w false
  let s := out s (R.gfeOut2 n) 27 16 g.e false
  let s := s.vecOut (s.rdF (R.gfeOut3 n) 11 0) ⟨g.refD, satV⟩ gq.ref
  let s := s.vecOut (s.rdF (R.gfeOut3 n) 27 16) ⟨g.refQ, satV⟩ gq.ref
  let s := out s (R.gfeOut4 n) 11 0 g.pF false
  let s := out s (R.gfeOut4 n) 27 16 g.qF false
  let s := out s (R.gfeOut5 n) 11 0 idRef false
  let s := out s (R.gfeOut5 n) 27 16 iqRef false
  let s := out s (R.gfeOut6 n) 11 0 (s.gfeState n) false
  s.vecOut (s.rdF (R.gfeOut6 n) 27 16) ⟨b2n (s.rdB (R.gfeStatus n) 5), false⟩ gq.sync

/-- A live flag of `GFE_n_STATUS`. -/
def State.gfeFlag (s : State) (n i : Nat) (b : Bool) : State := s.wrB (R.gfeStatus n) i b

/-- The evaluation is held (R175). -/
def State.gfeHold (s : State) (n : Nat) (q : Qual) : State :=
  let g := s.gfe n
  let f := s.rdN (R.gfeFbase n)
  let run := min 255 (g.invRun + 1)
  let lim := s.gpF (R.gfeCnt n) 15 8
  let s := s.setGfe n { g with ang := ang64 g.ang (angInc g.acc f (s.gfeDt n)), invRun := run, late := 0 }
  let s := s.gfeFlag n 10 true
  let s := s.raiseIf (decide (g.invRun < lim) && decide (lim ≤ run)) (R.gfeStatus n) 18
  let s := if lim ≤ run then s.srcLevel (460 + n) true false else s
  let q := qWith q qInvalid true
  s.gfePublish n g.idRef g.iqRef ⟨q, q, q⟩ false false

/-- A running blend of engine `n` is dropped within its evaluation (R164). -/
def State.gfeDrop (s : State) (n : Nat) : State :=
  ((s.setGfe n (s.gfe n).noBlend).gfeFlag n 11 false).wrF (R.gfeBlend n) 26 16 0

/-- The evaluation of engine `n` (R155–R175). A breaker closed unsynchronised is judged first: where its source blocks `GSB_n`, the engine is in
`OFF` in this same evaluation (R164, R167). The line-side inputs and the breaker are read for outputs other than `SYNC_OK` only while
pre-synchronisation is active, and the injection for the references only where it is added (R103, R165, R174). -/
def State.gfeEval (s : State) (n : Nat) : State :=
  let i := s.gfeIn n
  let stop := s.rdB (R.gfeCtrl n) 1
  let s := s.wrB (R.gfeCtrl n) 1 false
  let s : State := if stop then
      let s := s.gfeDrop n
      let s := s.setGfe n { s.gfe n with startNow := false }
      if s.gfeState n = 0 then s else s.gfeEnter n 0
    else s
  let g := s.gfe n
  let sp := s.setPoint n (s.rdF (R.gfeSig2 n) 11 0) g.pref
  let sq := s.setPoint n (s.rdF (R.gfeSig2 n) 27 16) g.qref
  let sw := s.setPoint n (s.rdF (R.gfeSig3 n) 11 0) g.wset
  let sv := s.setPoint n (s.rdF (R.gfeSig3 n) 27 16) g.vset
  let g : GfeSt := { g with pref := sp.1, qref := sq.1, wset := sw.1, vset := sv.1 }
  let s := s.setGfe n g
  let qs := i.quals ++ sp.2 ++ sq.2 ++ sw.2 ++ sv.2
  if i.quals.any (fun x => !s.usable x) then s.gfeHold n (s.qJoin qs)
  else
    let unsync := s.gfeUnsync n
    let s := (s.raiseIf unsync (R.gfeStatus n) 19).srcLevel (456 + n) unsync false
    let g := s.gfe n
    let f := s.rdN (R.gfeFbase n)
    let dt := s.gfeDt n
    let st := s.gfeState n
    let starting := g.startNow && decide (st = 0)
    let vMag := magQ i.vd i.vq
    let wOld := shrRound g.acc 32
    let ang : Nat := ang64 g.ang (angInc g.acc f dt)
    let th : Nat := ang / 2 ^ 32
    let iv := s.virtI n g.e wOld i.vd i.vq
    let pe := shrRound (i.vd * i.id + i.vq * i.iq) 28
    let qe := shrRound (i.vq * i.id - i.vd * i.iq) 28
    let pin := if st = 2 then mulQ28 g.e iv.d else pe
    let qin := if st = 2 then -(mulQ28 g.e iv.q) else qe
    let line := s.lineV n
    let idle := !s.lineSet n
    let pllT := s.pllStep n 12 g.pllT (fun t => angAdd t (-(th : Int))) i.vd i.vq true
    let tauL := s.vecTau (2 * n + 1)
    let pllL := if idle then g.pllL
      else s.pllStep n 13 g.pllL (fun t => angAdd t (angStep g.pllL.w f tauL)) line.1.1 line.1.2 (line.2.all s.usable)
    let tH := s.gpF (R.gfeTH n) 15 0 * 320000
    let g : GfeSt := { g with
      ang := ang, pF := lowPass (s.gpF (R.gfeTpq n) 15 0 * 320000) dt g.pF (sat32 pin)
      qF := lowPass (s.gpF (R.gfeTpq n) 31 16 * 320000) dt g.qF (sat32 qin), iFd := lowPass tH dt g.iFd i.id
      iFq := lowPass tH dt g.iFq i.iq, pllT := pllT, pllL := pllL, invRun := 0, late := 0 }
    let lock := pllT.locked && (!starting || decide (s.gpS (R.gfeVLive n) ≤ vMag))
    let clampW (x : Int) : Int := clampI (s.gpS (R.gfeWMin n) * 2 ^ 32) (s.gpS (R.gfeWMax n) * 2 ^ 32) x
    let wSet := s.gpS (R.gfeWSet n) + g.wset
    let g : GfeSt := if st ≠ 0 then g
      else if lock then { g with acc := clampW (pllT.w * 2 ^ 32), ang := pllT.theta * 2 ^ 32, e := vMag }
      else { g with acc := wSet * 2 ^ 32, e := s.gpS (R.gfeEStart n) }
    let wLim0 := decide (st = 0) && lock && decide (clampW (pllT.w * 2 ^ 32) ≠ pllT.w * 2 ^ 32)
    let grant := starting && s.bridgeFree n 1
    let g : GfeSt := { g with startNow := false }
    let mode := if grant then 1 else st
    let sy := s.gfeSync n g mode (g.ang / 2 ^ 32) wOld vMag
    let g := sy.1
    let s := (s.gfeFlag n 10 false).srcLevel (460 + n) false false
    let s := ((s.gfeFlag n 2 pllT.locked).gfeFlag n 3 pllL.locked).gfeFlag n 4 sy.2.2.1
    let s := s.wr (R.gfeSyncDiff n) (wordOf sy.2.1)
    let s := s.gfeFlag n 5 sy.2.2.2.2
    let s := (s.raiseIf (starting && !lock) (R.gfeStatus n) 13).raiseIf (starting && !grant) (R.gfeStatus n) 16
    let qsL := qs ++ (if idle then [] else line.2) ++ s.sigQual n (s.rdF (R.gfeSig5 n) 27 16)
    let qsA := if sy.2.2.1 then qsL else qs
    if mode = 0 then
      let s := s.setGfe n { g with refD := 0, refQ := 0, exitT := 0 }
      let s := (((s.gfeFlag n 6 false).gfeFlag n 7 wLim0).gfeFlag n 8 false).gfeFlag n 9 false
      let s := (s.wr (R.gfeOmegaAccLo n) (wordOf g.acc)).wr (R.gfeOmegaAccHi n) (wordOf (g.acc / 2 ^ 32))
      s.gfePublish n iv.d iv.q ⟨s.qJoin qs, s.qJoin qsL, s.qJoin qs⟩ false false
    else
      let inj (hi lo : Nat) : Int := sval (s.sigIn n (s.rdF (R.gfeSig6 n) hi lo)).val
      let blend := g.blend
      let o := s.gfeRun n g mode grant i iv sy.2.2.2.1 sy.2.2.1 (inj 11 0, inj 27 16)
      let s := s.setGfe n o.g
      let s := if o.st = st then s else s.gfeEnter n o.st
      let s := if mode = 1 ∧ o.st = 2 then s.countUp (R.gfeClCount n) 31 0 1 else s
      let s := s.raiseIf o.clipped (R.gfeStatus n) 14
      let s := (((s.gfeFlag n 6 o.ramp).gfeFlag n 7 (if grant then wLim0 else o.wLim)).gfeFlag n 8 o.eLim).gfeFlag n 9 o.vLim
      let s := (s.gfeFlag n 11 (decide (o.g.blend ≠ 0))).wrF (R.gfeBlend n) 26 16 o.g.blend
      let s := (s.wr (R.gfeOmegaAccLo n) (wordOf o.g.acc)).wr (R.gfeOmegaAccHi n) (wordOf (o.g.acc / 2 ^ 32))
      let qsR := if mode = 1 ∧ o.st = 1 ∧ blend = 0 then
          qsA ++ s.sigQual n (s.rdF (R.gfeSig6 n) 11 0) ++ s.sigQual n (s.rdF (R.gfeSig6 n) 27 16)
        else qsA
      s.gfePublish n o.idRef o.iqRef ⟨s.qJoin qsA, s.qJoin qsL, s.qJoin qsR⟩ o.satW o.satV

/-! ### Ride-through supervisor (R179–R186) -/

def State.frtState (s : State) (n : Nat) : Nat := s.rdF (R.gfeFrtStatus n) 2 0

/-- An event of the supervisor, and its recorder source `k` (R185, Table 17.5). -/
def State.frtEvent (s : State) (n code : Nat) : State := s.postAt (42 + n) code (s.gfeTau n)
def State.frtFire (s : State) (n k : Nat) : State := s.recFire (0x60 + 4 * n + k) (s.ntOf n (s.gfeTau n))

/-- The classification of an evaluation: 1 `DIP`, 2 `SWELL`, 3 `UNBAL`, 0 none (R181). -/
def State.frtClass (s : State) (n : Nat) (v vp vn : Int) : Nat :=
  if min v vp < s.gpS (R.gfeDipEnter n) then 1
  else if s.gpS (R.gfeSwellEnter n) < max v vp then 2
  else if s.gpS (R.gfeNegEnter n) < vn then 3
  else 0

/-- Whether an evaluation is quiet (R181). -/
def State.frtQuiet (s : State) (n : Nat) (v vp vn : Int) : Bool :=
  decide (s.gpS (R.gfeDipExit n) ≤ vp) && decide (s.gpS (R.gfeDipExit n) ≤ v) && decide (v ≤ s.gpS (R.gfeSwellExit n)) &&
    decide (vp ≤ s.gpS (R.gfeSwellExit n)) && decide (vn ≤ s.gpS (R.gfeNegExit n))

/-- The duration allowed at |v⁺|, in sub-steps; none: unlimited (R182). -/
def State.frtAllowed (s : State) (n : Nat) (vp : Int) : Option Nat :=
  match (List.range 8).find? (fun j => decide (vp ≤ s.gpF (R.gfeFrtCurve n j) 31 16 * 8192)) with
  | some j => if s.gpF (R.gfeFrtCurve n j) 15 0 = 0xFFFF then none else some (s.gpF (R.gfeFrtCurve n j) 15 0 * msec)
  | none => none

/-- The supervisor's evaluation, black start apart (R180–R186). -/
def State.frtEval (s : State) (n : Nat) : State :=
  let g := s.gfe n
  let i := s.gfeIn n
  let dt := s.gfeDt n
  let okV := (i.quals.drop 2).all s.usable
  let u := 2 * n + 1
  let thK := angAdd (s.vec u).pub (angStep (s.vec u).omega (s.rdN (R.gfeFbase n)) (s.vecTau u))
  let a := shrRound (i.vd * cosQ thK - i.vq * sinQ thK) 28
  let b := shrRound (i.vd * sinQ thK + i.vq * cosQ thK) 28
  let nq := s.rdF (R.gfeFrtCfg n) 21 16
  let old := nth (0, 0) g.dl (nq - 1)
  let valid := decide (g.seqWait = 0) && okV
  let v := magQ i.vd i.vq
  let vp := if valid then magQ (shrRound (a - old.2) 1) (shrRound (b + old.1) 1) else v
  let vn := if valid then magQ (shrRound (a + old.2) 1) (shrRound (b - old.1) 1) else 0
  let cls := s.frtClass n v vp vn
  let st := s.frtState n
  let from0 := decide (st = 0) || decide (st = 4)
  let enter := decide (cls ≠ 0) && (from0 || decide (cls < st))
  let quiet := if s.frtQuiet n v vp vn then min 255 (g.quiet + 1) else 0
  let recov := !enter && !from0 && decide (s.rdF (R.gfeFrtCnt n) 15 8 ≤ quiet)
  let st1 := if enter then cls else if recov then 4 else st
  let ps := s.setPoint n (s.rdF (R.gfeFrtSig0 n) 11 0) g.pset
  let hold := if enter && from0 then g.prefOut else g.hold
  let dipT := if enter && decide (cls = 1) then 0 else if st = 1 then g.dipT + dt else g.dipT
  let dipLow := if enter && decide (cls = 1) then vp else min g.dipLow vp
  let dipEx0 := if enter && decide (cls = 1) then false else g.dipEx
  let exceed := decide (st1 = 1) && !dipEx0 && (match s.frtAllowed n vp with
    | some t => decide (t < dipT)
    | none => false)
  let step := divRound (s.gpN (R.gfePRecover n) * 4096 * (dt : Int)) 32000000000
  let out : Int := match st1 with
    | 0 => ps.1
    | 4 => if g.prefOut < ps.1 then min ps.1 (g.prefOut + step) else ps.1
    | _ => if s.rdB (R.gfeFrtCfg n) 30 then mulQ28 hold (min (2 ^ 28) vp) else hold
  let st2 := if st1 = 4 ∧ out = ps.1 then 0 else st1
  let live := decide (s.gpS (R.gfeVLive n) ≤ v)
  let arg := if live then some (atan2A i.vq i.vd) else none
  let dphi : Int := match arg, g.arg with
    | some x, some y => angSub x y
    | _, _ => 0
  let jump := decide ((s.gpN (R.gfeJumpAng n) : Int) < (dphi.natAbs : Int))
  let br := s.breaker n
  let ge := s.gfeState n
  let calm := br.1 && br.2 && decide (ge = 1) && decide ((g.pF.natAbs : Int) ≤ s.gpS (R.gfeLeaveP n)) &&
    decide ((g.qF.natAbs : Int) ≤ s.gpS (R.gfeLeaveQ n))
  let leaveRun := if calm then min 255 (g.leaveRun + 1) else 0
  let leave := calm && decide (s.rdF (R.gfeFrtCnt n) 15 8 ≤ leaveRun)
  let opened := g.brkF && br.1 && !br.2 && !g.leaveOk && decide (ge ≠ 0)
  let s := s.setGfe n { g with
    dl := ((a, b) :: g.dl).take 63, seqWait := g.seqWait - 1, quiet := if enter || recov then 0 else quiet, dipT := dipT, dipLow := dipLow
    dipEx := dipEx0 || exceed, hold := hold, prefOut := out, pset := ps.1, arg := arg, leaveRun := leaveRun, leaveOk := leave
    brkF := if br.1 then br.2 else g.brkF }
  let fs := R.gfeFrtStatus n
  let s := (s.wrF fs 2 0 st2).wrB fs 7 valid
  let s := if enter && from0 then s.countUp (R.gfeFrtCount n) 31 16 1 else s
  let s := if st2 = st then s else (s.frtEvent n (0x100 + st2)).frtFire n 1
  let s : State := if st = 1 ∧ st1 ≠ 1 then
      s.wr (R.gfeFrtLast n) (wordN ((min 65535 (shrRound dipLow 13).toNat) * 65536 + min 65535 (divRound dipT msec).toNat))
    else s
  let s : State := if exceed then
      (((s.raise fs 10).frtEvent n 0x111).frtFire n 3).srcLevel (464 + n) true false
    else if st2 = 1 then s
    else s.srcLevel (464 + n) false false
  let s : State := if jump then
      (((((s.raise fs 9).wr (R.gfeJumpLast n) (wordOf dphi)).countUp (R.gfeFrtCount n) 15 0 1).frtEvent n 0x110).frtFire n 2)
    else s
  let s := if opened then (s.raise fs 8).frtEvent n 0x112 else s
  let qv := s.qJoin (i.quals.drop 2)
  let qs := if valid then qv else qWith qv qInvalid true
  let scaled := (st1 == 1 || st1 == 2 || st1 == 3) && s.rdB (R.gfeFrtCfg n) 30
  let s := s.sigWrite (s.rdF (R.gfeFrtSig0 n) 27 16) (wordOf out) (s.qJoin (ps.2 ++ (if scaled then i.quals.drop 2 else [])))
  let s := s.sigWrite (s.rdF (R.gfeFrtSig1 n) 11 0) (wordOf vp) qs
  let s := s.sigWrite (s.rdF (R.gfeFrtSig1 n) 27 16) (wordOf vn) qs
  let s := s.sigWrite (s.rdF (R.gfeFrtSig2 n) 11 0) (wordN st2) qv
  s.sigWrite (s.rdF (R.gfeFrtSig2 n) 27 16) (wordN (b2n leave)) (qv ||| s.qJoin (s.sigQual n (s.rdF (R.gfeSig5 n) 27 16)))

/-! ### Black start (R187–R192) -/

def State.bsState (s : State) (n : Nat) : Nat := s.rdF (R.gfeBsStatus n) 2 0

/-- Black start enters a state; each change of it is an event (R185). -/
def State.bsGo (s : State) (n st : Nat) : State :=
  if s.bsState n = st then s
  else
    let s := s.setGfe n { s.gfe n with bsT := 0, bsFresh := false, bsRan := false, bsAsk := false }
    let s := s.wrF (R.gfeBsStatus n) 2 0 st
    if s.rdB (R.gfeFrtCfg n) 31 then s.frtEvent n (0x200 + st) else s

/-- It ends in `ABORTED` with a cause. -/
def State.bsAbortWith (s : State) (n cause : Nat) : State := (s.wrF (R.gfeBsStatus n) 31 28 cause).bsGo n 6

/-- The supervisor starts the engine in this evaluation; as a `START` under R163 it is refused outside `OFF` (R189). -/
def State.bsStartEngine (s : State) (n : Nat) : State :=
  if s.gfeState n = 0 ∧ s.inRun then s.setGfe n { s.gfe n with startNow := true, bsAsk := true }
  else (s.raise (R.gfeStatus n) 15).bsAbortWith n 5

/-- Whether a heard claim precedes the thread's own (R190). -/
def State.bsPrecedes (s : State) (n : Nat) (h : Word) : Bool :=
  let r := fieldOf h 23 16
  let own := s.rdF (R.gfeBsCfg n) 23 16
  decide (r < own) || (r == own && decide (fieldOf h 11 0 < s.rdF R.sndId 11 0))

/-- The judgements of R188 at an evaluation: the line live, dead, and a peer claim heard. -/
structure BsSeen where
  live : Bool
  dead : Bool
  heard : Bool

/-- One evaluation of the procedure (R189–R192), with the time `t` in the state and what is seen. -/
def State.bsAct (s : State) (n t : Nat) (x : BsSeen) : State :=
  let g := s.gfe n
  let i := s.gfeIn n
  let br := s.breaker n
  let ge := s.gfeState n
  let hs := s.sigIn n (s.rdF (R.gfeBsSig n) 27 16)
  let slot := s.rdF (R.gfeBsTime n) 15 0 * (100 * msec)
  let wait := s.rdF (R.gfeBsTime n) 31 16 * (100 * msec) + s.rdF (R.gfeBsCfg n) 23 16 * slot
  match s.bsState n with
  | 1 =>
    if x.live || x.heard then s.bsGo n 4
    else if t < wait then s
    else if !br.1 then s.bsAbortWith n 2
    else if !br.2 then s.bsAbortWith n 1
    else if !x.dead then s.bsAbortWith n 3
    else if s.gpS (R.gfeVDead n) ≤ magQ i.vd i.vq then s.bsAbortWith n 4
    else (s.bsGo n 2).bsStartEngine n
  | 2 =>
    if g.bsAsk then s
    else if ge = 0 then s.bsAbortWith n 7
    else if !s.rdB (R.gfeStatus n) 6 then s.bsGo n 3
    else if x.heard && s.bsPrecedes n hs.val then (((s.gfeDrop n).gfeEnter n 0).raise (R.gfeBsStatus n) 12).bsGo n 4
    else s
  | 3 => if ge = 0 then s.bsGo n 0 else s
  | 4 =>
    if g.bsAsk then s
    else if ge = 0 then
      (if g.bsRan then s.bsAbortWith n 7
       else if br.1 && br.2 then s.bsAbortWith n 6
       else if x.live && br.1 then s.bsStartEngine n
       else s)
    else if br.1 && br.2 then s.bsGo n 5
    else s
  | 5 => if ge = 0 then s.bsGo n 0 else s
  | _ => s

/-- The black-start part of the supervisor's evaluation (R188–R192). A line that is not measured is neither live nor dead. -/
def State.bsEval (s : State) (n : Nat) : State :=
  let g := s.gfe n
  let i := s.gfeIn n
  let liveN := s.rdF (R.gfeFrtCnt n) 7 0
  let line := s.lineV n
  let vl := magQ line.1.1 line.1.2
  let lr := if s.lineSet n && g.pllL.locked && decide (s.gpS (R.gfeVLive n) ≤ vl) then min 255 (g.liveRun + 1) else 0
  let dr := if s.lineSet n && decide (vl < s.gpS (R.gfeVDead n)) then min 255 (g.deadRun + 1) else 0
  let hi := s.rdF (R.gfeBsSig n) 27 16
  let hs := s.sigIn n hi
  let x : BsSeen := { live := decide (0 < lr) && decide (liveN ≤ lr), dead := decide (0 < dr) && decide (liveN ≤ dr)
                      heard := s.usable hs.qual && bitOf hs.val 31 && decide (hi ≠ 0xFFF) }
  let t := if g.bsFresh then 0 else g.bsT + s.gfeDt n
  let ran := g.bsRan || (s.bsState n == 4 && decide (s.gfeState n ≠ 0))
  let s := s.setGfe n { g with liveRun := lr, deadRun := dr, bsT := t, bsFresh := false, bsRan := ran }
  let a := R.gfeBsStatus n
  let s := ((s.wrB a 10 x.heard).wrB a 9 x.live).wrB a 8 x.dead
  let s := s.bsAct n t x
  let st' := s.bsState n
  let claim := if st' = 2 ∨ st' = 3 then 2 ^ 31 + s.rdF (R.gfeBsCfg n) 23 16 * 65536 else 0
  let s := s.wr (R.gfeBsTimer n) (wordN (min (2 ^ 32 - 1) ((s.gfe n).bsT / 3200000)))
  let qs := i.quals.drop 2 ++ (if s.lineSet n then line.2 else []) ++ s.sigQual n (s.rdF (R.gfeSig5 n) 27 16) ++ s.sigQual n hi
  if s.rdB (R.gfeFrtCfg n) 31 then s.sigWrite (s.rdF (R.gfeBsSig n) 11 0) (wordN claim) (s.qJoin qs) else s

/-- A start of the engine that the supervisor asked for is settled: taken, refused or stopped with cause 5, or left to the next evaluation by
one that was held (R175, R189, R191, R192). -/
def State.bsCheck (s : State) (n : Nat) : State :=
  let g := s.gfe n
  if !g.bsAsk || g.startNow then s
  else
    let s := s.setGfe n { g with bsAsk := false, bsRan := decide (s.gfeState n ≠ 0) }
    if s.gfeState n = 0 then s.bsAbortWith n 5 else s

/-- The `GFE` step of thread `n`: supervisor, Sound modem, engine (R153, R179, R194). -/
def State.gfeStep (s : State) (n : Nat) : State :=
  if !s.gfeEn n then s.sndEval n
  else
    let s := if s.rdB (R.gfeFrtCfg n) 31 then s.frtEval n else s
    let s := s.bsEval n
    let s := s.sndEval n
    (s.gfeEval n).bsCheck n

/-! ### Commands (R163, R164, R177, R187, R192) -/

/-- `GFE_START` (R163). -/
def State.gfeStart (s : State) (n : Nat) : State :=
  if !s.gfeEn n then s
  else if s.gfeState n = 0 ∧ s.inRun then
    let now := s.clk.now
    ((s.gfeBoth n (fun g => { g with startAt := some (g.startAt.getD now) })).wrB (R.gfeCtrl n) 0 true).keepField n (R.gfeCtrl n) 0 0 1
  else s.keepRaise n (R.gfeStatus n) 15

/-- `GFE_STOP` (R164): acted on at the next evaluation. -/
def State.gfeStop (s : State) (n : Nat) : State :=
  if !s.gfeEn n then s
  else
    let s := ((s.gfeBoth n (fun g => { g with startAt := none })).wrB (R.gfeCtrl n) 0 false).wrB (R.gfeCtrl n) 1 true
    s.keepField n (R.gfeCtrl n) 1 0 2

/-- `GFE_APPLY` (R177). -/
def State.gfeApply (s : State) (n : Nat) : State :=
  if s.rdB (R.gfeStatus n) 12 then s
  else if !s.gfeValid n then s.keepRaise n (R.gfeStatus n) 20
  else
    let s := ((s.wrB (R.gfeCtrl n) 2 true).wrB (R.gfeStatus n) 12 true).keepField n (R.gfeStatus n) 12 12 1
    let s := s.keepField n (R.gfeCtrl n) 2 2 1
    { s with gpar := { s.gpar with applyAt := tabSet (fun _ => 0) s.gpar.applyAt n s.clk.now } }

/-- A write of `w` to `GFE_n_CTRL`: `STOP` wins over `START`. -/
def State.gfeCtrlWrite (s : State) (n : Nat) (w : Word) : State :=
  let s := if bitOf w 1 then s.gfeStop n else if bitOf w 0 then s.gfeStart n else s
  if bitOf w 2 then s.gfeApply n else s

/-- A core's write of `w` to a parameter register at `a` (R177). -/
def State.gfeParWrite (s : State) (n a : Nat) (w : Word) : State :=
  if s.rdB (R.gfeStatus n) 12 then s.keepRaise n (R.gfeStatus n) 21 else s.storeReg a w

/-- `BS_START` (R187). -/
def State.bsStart (s : State) (n : Nat) : State :=
  let st := s.bsState n
  if (st = 0 ∨ st = 6) ∧ s.gfeState n = 0 ∧ s.rdF (R.gfeBsCfg n) 31 30 ≠ 0 ∧ s.inRun then
    let now := s.clk.now
    let s := s.gfeBoth n (fun g => { g with bsStartAt := some (g.bsStartAt.getD now) })
    (s.wrB (R.gfeBsCtrl n) 0 true).keepField n (R.gfeBsCtrl n) 0 0 1
  else s.keepRaise n (R.gfeBsStatus n) 11

/-- Black start enters a state by a command or at a sample instant, which a late period does not undo. -/
def State.bsSet (s : State) (n st : Nat) : State :=
  if s.bsState n = st then s.keepField n (R.gfeBsStatus n) 2 0 st
  else
    let s := (s.bsGo n st).keepField n (R.gfeBsStatus n) 2 0 st
    s.gfeBoth n (fun g => { g with bsT := 0, bsFresh := true, bsRan := false, bsAsk := false })

/-- `BS_ABORT` (R192). -/
def State.bsAbort (s : State) (n : Nat) : State :=
  let s := (s.gfeBoth n (fun g => { g with bsStartAt := none })).wrB (R.gfeBsCtrl n) 0 false
  (s.keepField n (R.gfeBsCtrl n) 0 0 0).bsSet n 0

/-- A write of `w` to `GFE_n_BS_CTRL`: `BS_ABORT` wins. -/
def State.bsCtrlWrite (s : State) (n : Nat) (w : Word) : State :=
  if bitOf w 1 then s.bsAbort n else if bitOf w 0 then s.bsStart n else s

/-- What accepted commands do at a sample instant of thread `n` at least 8 ns after their write (R163, R177, R187). -/
def State.gfeSample (s : State) (n : Nat) : State :=
  let now := s.clk.now
  let s : State := match (s.gfe n).startAt with
    | some x =>
      if x + 256 ≤ now then
        let s := (s.gfeBoth n (fun g => { g with startAt := none, startNow := true })).wrB (R.gfeCtrl n) 0 false
        s.keepField n (R.gfeCtrl n) 0 0 0
      else s
    | none => s
  let s : State := if s.rdB (R.gfeStatus n) 12 && decide (tabGet (fun _ => 0) s.gpar.applyAt n + 256 ≤ now) then
      let s := ((s.gfeTake n).wrB (R.gfeCtrl n) 2 false).wrB (R.gfeStatus n) 12 false
      (s.keepField n (R.gfeStatus n) 12 12 0).keepField n (R.gfeCtrl n) 2 2 0
    else s
  match (s.gfe n).bsStartAt with
  | some x =>
    if x + 256 ≤ now then
      let s := (s.gfeBoth n (fun g => { g with bsStartAt := none })).wrB (R.gfeBsCtrl n) 0 false
      let s := s.keepField n (R.gfeBsCtrl n) 0 0 0
      if s.gfeState n = 0 then s.bsSet n (if s.rdF (R.gfeBsCfg n) 31 30 = 1 then 1 else 4) else s.keepRaise n (R.gfeBsStatus n) 11
    else s
  | none => s

/-- The sequencer of thread `n` starts: `SEQ_VALID` waits for the delay line (R180). -/
def State.gfeSeqStart (s : State) (n : Nat) : State :=
  s.gfeBoth n (fun g => { g with seqWait := s.rdF (R.gfeFrtCfg n) 21 16 })

/-- A read of `GFE_n_OMEGA_ACC_HI` latches the low half (R178). -/
def State.accHiRead (s : State) (n : Nat) : State :=
  let lo := tabGet regReset (s.kept n).regs (R.gfeOmegaAccLo n)
  { s with gpar := { s.gpar with accLow := tabSet (fun _ => 0) s.gpar.accLow n (lo.toNat + 1) } }

end Sys2Proof.Machine
end

