-- ==== Sys2Proof/Machine/AuxDrive.lean ====
section
/-! DEFINITION. The auxiliary motor drives: states, six-step commutation, crossings, currents, bus and supplies (*Auxiliary motor
drives*, R268–R291). -/

namespace Sys2Proof.Machine

/-- An RW word as in force since the motor's last reload (R291). -/
def State.motW (s : State) (a : Nat) : Word := tabGet regReset s.aux.act a

/-- The slice of phase `p` of motor `m` (R16, R268). -/
def auxSlice (m p : Nat) : Nat := 84 + 3 * m + p

/-- The carrier of motor `m`, and its reload interval and period in sub-steps. -/
def State.motCar (s : State) (m : Nat) : Nat := s.slCar (auxSlice m 0)
def State.motLen (s : State) (m : Nat) : Nat := s.carLen (s.motCar m)
def State.motPer (s : State) (m : Nat) : Nat := 32 * s.carP (s.motCar m)

/-! ### Sectors (R277, Table 13.1) -/

/-- The sector `j` steps forward of `k`. -/
def State.motFwd (s : State) (m k j : Nat) : Nat := if s.motDir m then (k + 6 * j - j) % 6 else (k + j) % 6

/-- The level of the floating phase after the expected crossing of sector `k`. -/
def State.motLevel (s : State) (m k : Nat) : Bool := decide (k % 2 = 1) != s.motDir m

/-- The index of a crossing of phase `p` to `level`: the sector in which it falls (R285). -/
def State.motIndex (s : State) (m p : Nat) (level : Bool) : Nat :=
  ((List.range 6).find? (fun k => secFloat k == p && s.motLevel m k == level)).getD 0

/-! ### Sets of the slices (R276, R277) -/

/-- A set is written for phase `p` of motor `m`. -/
def State.motPut (s : State) (m p : Nat) (v : SliceSet) : State :=
  s.setSlice (auxSlice m p) { s.slice (auxSlice m p) with shadow := v, fresh := true }

/-- The sets of a sector at duty `d`. -/
def State.motSets (s : State) (m sec d p : Nat) : SliceSet :=
  let half := s.motPer m / 2
  let w (x : Int) : Nat := (shrRound (x * half) 28).toNat
  if p = secPwm sec then ⟨w (2 ^ 28 - d), w (2 ^ 28 + d), false⟩
  else if p = secLow sec then ⟨0, 0, false⟩
  else ⟨0, 0, true⟩

/-- The group that the logic commits for the motor's present state (R276, R277, R289); the gates follow what is held at the driver input. -/
def State.motCommit (s : State) (m : Nat) : State :=
  let v := s.mot m
  (s.each [0, 1, 2] (fun s p =>
    s.motPut m p (
      if s.motState m = 2 then ⟨0, 0, false⟩
      else if s.motSix m && !v.wait && v.hold.all (fun h => h.1 != p) then s.motSets m (s.motSector m) v.d p
      else ⟨0, 0, true⟩))).auxNoteMotor m

/-! ### States (R284–R290) -/

/-- A braking gap opens: any low side whose `I_LIM` window is asserted turns all low sides off for `BRK_OFF` (R287; log 97). -/
def State.motGap (s : State) (m : Nat) : State :=
  if s.motState m = 2 ∧ (s.mot m).gap.isNone ∧ [3 * m, 3 * m + 1, 3 * m + 2].any (fun h => s.auxWin h 1) then
    (s.setMot m { s.mot m with gap := some (s.clk.now + s.rdF (R.auxBrk m) 5 0 * usec) }).auxNoteMotor m
  else s

/-- The side of the `ZERO_I` window on which phase U's current is (R286). -/
def State.motSide (s : State) (m : Nat) : Option Bool :=
  if s.auxWin (3 * m) 0 then none else some (s.rdB (R.auxHbStatus (3 * m)) 1)

/-- Motor `m` enters state `st` at the present instant, with the flags of R289 that the state allows. -/
def State.motEnter (s : State) (m st : Nat) : State :=
  let v := s.mot m
  let s := s.wrF (R.auxStatus m) 3 0 st
  let s := s.wrB (R.auxStatus m) 18 (s.rdB R.auxBusStatus 3 && decide (st ≠ 0) && decide (st ≠ 6))
  let s := s.wrB (R.auxStatus m) 17 false
  let s := s.wrB (R.auxStatus m) 19 (decide (st = 2) && v.brake == 3)
  let keep := decide (st = 3) || decide (st = 4) || decide (st = 5)
  ((s.setMot m { v with
    entered := s.clk.now, wait := false, zcs := [], lastZc := none, due := none, forced := 0, seen := false, count := 0, gap := none
    side := s.motSide m, iAt := s.clk.now, hold := none, d := if keep then v.d else 0, startPend := false, stopPend := false
    brake := if st = 2 then v.brake else 0, gapEnd := 0 }).motCommit m).motGap m

/-- Motor `m` goes to `FAULT` with a cause (Table 13.5); its gates are off at once. -/
def State.motFault (s : State) (m cause : Nat) : State :=
  ((s.motEnter m 6).wrF (R.auxStatus m) 23 20 cause).post (80 + m) (0x100 + cause)

/-- Motor `m` starts to brake (R286): 1 for a start, 2 for `STOP`, 3 for `AUX_OV_2`. -/
def State.motBrake (s : State) (m by_ : Nat) : State := (s.setMot m { s.mot m with brake := by_ }).motEnter m 2

/-- T_est is set, in sub-steps and in the register. -/
def State.motTest (s : State) (m t : Nat) : State :=
  (s.setMot m { s.mot m with tEst := t }).wr (R.auxTEst m) (wordN (min 0xFFFFFFFF ((t + 16) / 32)))

/-- The mean of intervals, rounded half up. -/
def meanNat (l : List Nat) : Nat := if l.length = 0 then 0 else (2 * l.foldl (fun a b => a + b) 0 + l.length) / (2 * l.length)

/-- The phase advance at a crossing interval of `t` sub-steps, in 0.25° (R282). -/
def State.motAdv (s : State) (m t : Nat) : Nat :=
  let a (j : Nat) : Int := fieldOf (s.motW (R.auxAdv m j)) 6 0
  let num : Nat := 16 * second
  let den : Nat := 6 * t * s.rdF (R.auxAdvSpan m) 15 0
  if den = 0 then (a 16).toNat
  else
    let i : Nat := num / den
    if 16 ≤ i then (a 16).toNat
    else (a i + divRound ((a (i + 1) - a i) * (num - i * den : Nat)) den).toNat

/-- The instant of R282 for a crossing at `z`. -/
def State.motDueAt (s : State) (m : Nat) (z : Int) (t : Nat) : Int :=
  z + divRound (((120 : Int) - s.motAdv m t) * t) 240

/-- Speed of R285 for an interval of `t` sub-steps compared with `HO_SPEED` (0.01 Hz): at or above it. -/
def State.motFast (s : State) (m t : Nat) : Bool := decide (6 * t * s.rdF (R.auxHo m) 15 0 ≤ 100 * second)

/-- Speed, Q4.28 per-unit of `FBASE`, of a crossing interval. -/
def State.motSpeed (s : State) (m t : Nat) : Int :=
  sat32 (divR 25 ((second : Int) * 2 ^ 44) ((6 * t * s.rdN (R.auxFbase m) : Nat) : Int))

/-- `KE_DUTY` × speed / `FBASE`, Q4.28, for a speed in Q4.28 per-unit. -/
def State.motKe (s : State) (m : Nat) (w : Int) : Int := shrRound (w * fieldOf (s.motW (R.auxSlewKe m)) 31 16) 15

/-- `DUTY_MAX` in Q4.28. -/
def State.motDmax (s : State) (m : Nat) : Nat := s.rdF (R.auxDuty m) 31 16 * 2 ^ 13

/-- Frequency of a ramp sector in units of 2^-32 Hz from 0.01 Hz. -/
def hz100 (x : Nat) : Nat := (x * 2 ^ 32 + 50) / 100

/-- Length of a ramp sector in sub-steps (R288). -/
def rampLen (f : Nat) : Nat := (divR 26 ((second : Int) * 2 ^ 32) ((6 * f : Nat) : Int)).toNat

/-- The hold of a commutation to sector `sec` under `OV1_PAUSE`: the incoming phase waits for the outgoing phase's `ZERO_I` window, at most
`T_est` / 4 (R289). -/
def State.motHolds (s : State) (m sec : Nat) : Option (Nat × Nat × Nat) :=
  let out := secFloat sec
  if s.rdB (R.auxStatus m) 18 && !(s.mot m).wait && !s.auxWin (3 * m + out) 0 then
    some (secFloat (s.motSector m), out, s.clk.now + (s.mot m).tEst / 4)
  else none

/-- A ramp sector begins now at frequency `f` in sector `sec`; it is due to have begun at instant `from_` (R288). -/
def State.motRampSector (s : State) (m f sec count from_ : Nat) (hold : Option (Nat × Nat × Nat)) : State :=
  let t := rampLen f
  let s := (s.wrF (R.auxStatus m) 6 4 sec).motTest m t
  let w : Int := divR 27 ((f : Int) * 2 ^ 12) (s.rdN (R.auxFbase m))
  let d := clampI 0 (s.motDmax m) (s.rdF (R.auxRampA m) 15 0 * 2 ^ 13 + s.motKe m w)
  (s.setMot m { s.mot m with
    freq := f, secEnd := from_ + t, hold := hold, commAt := s.clk.now, blank := s.clk.now + s.rdF (R.auxBemf m) 31 24 * t / 64
    seen := false, count := count, d := d.toNat }).motCommit m

/-- The blind ramp starts (R288). -/
def State.motRamp (s : State) (m : Nat) : State :=
  (s.motEnter m 4).motRampSector m (hz100 (s.rdF (R.auxRampF m) 31 16)) (s.motFwd m (s.rdF (R.auxCfg m) 18 16) 2) 0 s.clk.now
    none

/-- Alignment starts (R288). -/
def State.motAlign (s : State) (m : Nat) : State :=
  let s := s.setMot m { s.mot m with d := 0 }
  (s.motEnter m 3).wrF (R.auxStatus m) 6 4 (s.rdF (R.auxCfg m) 18 16) |>.motCommit m

/-- What `OBSERVE` judges of the motion (R285). -/
inductive Motion where
  | none
  | forward (interval : Nat)
  | backward (interval : Nat)
  | rest
  deriving DecidableEq, Repr

/-- The judgement that stands (R285). -/
def State.motMotion (s : State) (m : Nat) : Motion :=
  let v := s.mot m
  let last : Int := match v.zcs with
    | z :: _ => max z.2 (s.tbOf v.entered)
    | [] => s.tbOf v.entered
  if last + (s.rdF (R.auxStartT m) 15 0 * msec : Nat) ≤ s.tb then .rest
  else
    match v.zcs with
    | a :: b :: c :: _ =>
      let t := ((a.2 - c.2) / 2).toNat
      let up := decide (a.1 = (b.1 + 1) % 6) && decide (b.1 = (c.1 + 1) % 6)
      let down := decide (b.1 = (a.1 + 1) % 6) && decide (c.1 = (b.1 + 1) % 6)
      if s.motDir m then (if down then .forward t else if up then .backward t else .none)
      else (if up then .forward t else if down then .backward t else .none)
    | _ => .none

/-- Intervals between crossings, newest first. -/
def zcIntervals : List (Nat × Int) → List Nat
  | a :: b :: r => (a.2 - b.2).toNat :: zcIntervals (b :: r)
  | _ => []

/-- `OBSERVE` is left when `OBS_TIME` has passed and a judgement stands (R285). -/
def State.motObserved (s : State) (m : Nat) : State :=
  let v := s.mot m
  if s.motState m = 1 ∧ v.entered + s.rdF (R.auxStartT m) 31 16 * msec ≤ s.clk.now then
    match s.motMotion m with
    | .none => s
    | .rest => s.motAlign m
    | .backward _ => (s.raise (R.auxStatus m) 8).motBrake m 1
    | .forward t =>
      if s.motFast m t then
        match v.zcs with
        | z :: _ =>
          let ints := (zcIntervals v.zcs).take 6
          let tm := meanNat ints
          let d := clampI 0 (s.motDmax m) (s.motKe m (s.motSpeed m t))
          let due := s.motDueAt m z.2 tm
          let s := (s.motEnter m 5).wrF (R.auxStatus m) 6 4 z.1
          let s := s.motTest m tm
          (s.setMot m { s.mot m with d := d.toNat, wait := true, ints := ints, lastZc := some z.2, due := some due, seen := true,
                                     known := s.clk.now, fails := 0 }).motCommit m
        | [] => s
      else if s.rdB (R.auxCfg m) 27 then s.motAlign m
      else s
  else s

/-! ### Commands (R284) -/

/-- `AUX_m_CTRL.START`. -/
def State.auxStart (s : State) (m : Nat) : State :=
  if s.motEn m && s.motState m == 0 && s.inRun && !s.rdB R.protStatus 31 && !s.rdB R.auxBusStatus 4 && !s.rdB R.auxBusStatus 1
      && decide (s.rdF R.sysState 2 0 = 3) then s.setMot m { s.mot m with startPend := true }
  else s.raise (R.auxStatus m) 13

/-- `AUX_m_CTRL.STOP`. -/
def State.auxStop (s : State) (m : Nat) : State :=
  if s.motState m = 6 then s else s.setMot m { s.mot m with stopPend := true, startPend := false }

/-- Whether the condition of a fault cause still holds. -/
def State.motCauseHolds (s : State) (m : Nat) : Bool :=
  let hbs := [3 * m, 3 * m + 1, 3 * m + 2]
  match s.rdF (R.auxStatus m) 23 20 with
  | 1 => hbs.any (fun h => s.auxWin h 2)
  | 2 => hbs.any (fun h => s.rdB (R.auxHbStatus h) 3)
  | 3 => s.rdB R.auxBusStatus 1
  | 4 => s.rdB R.auxBusStatus 5
  | _ => false

/-- `AUX_m_CTRL.CLEAR`. -/
def State.auxClear (s : State) (m : Nat) : State :=
  if s.motState m = 6 && !s.motCauseHolds m then (s.motEnter m 0).wrF (R.auxStatus m) 23 20 0 else s

/-- A write of `w` to `AUX_m_CTRL`: `STOP` wins over `START` (R290). -/
def State.auxCtrlWrite (s : State) (m : Nat) (w : Word) : State :=
  let s := if bitOf w 3 then s.auxClear m else s
  if bitOf w 2 then s.auxStop m else if bitOf w 1 then s.auxStart m else s

/-! ### Reloads (R278, R279, R291) -/

/-- The addresses whose RW words the motor takes at a reload. -/
def auxParAddrs (m : Nat) : List Nat := [R.auxDuty m, R.auxSlewKe m] ++ (List.range 17).map (fun j => R.auxAdv m j)

/-- The duty target (R278), Q4.28. -/
def State.motTarget (s : State) (m : Nat) : Nat :=
  let i := s.rdF (R.auxSig0 m) 27 16
  let x : Int := if i = 0xFFF then fieldOf (s.motW (R.auxDuty m)) 15 0 * 2 ^ 13 else sval (s.sigStable i).val
  (clampI 0 (s.motDmax m) x).toNat

/-- The duty moves at a reload (R278, R288–R290). -/
def State.motDuty (s : State) (m : Nat) : State :=
  let v := s.mot m
  match s.motState m with
  | 3 =>
    let half : Nat := s.rdF (R.auxAlign m) 31 16 * msec / 2
    let full : Nat := s.rdF (R.auxAlign m) 15 0 * 2 ^ 13
    let el : Nat := s.clk.now - v.entered
    let d : Nat := if half ≤ el then full else ((divRound ((full * el : Nat) : Int) half)).toNat
    s.setMot m { v with d := d }
  | 5 =>
    if v.wait then s
    else
      let t := s.motTarget m
      let step := fieldOf (s.motW (R.auxSlewKe m)) 15 0 * 2 ^ 13
      let d := if v.d ≤ t then min t (v.d + step) else if s.rdB (R.auxStatus m) 18 then v.d else max t (v.d - step)
      s.setMot m { v with d := d }
  | _ => s

/-- The signals of R279 are written; a speed that no rule gives is a free value. -/
def State.motPublish (s : State) (m : Nat) : State :=
  let v := s.mot m
  let known : Option Int := match s.motState m with
    | 1 => match s.motMotion m with
      | .forward t => some (s.motSpeed m t)
      | .backward t => some (-s.motSpeed m t)
      | .rest => some 0
      | .none => none
    | 3 => some 0
    | 4 => some (s.motSpeed m v.tEst)
    | 5 => some (s.motSpeed m v.tEst)
    | _ => none
  let w := match known with
    | some x => wordOf x
    | none => s.freshWord
  let s := if known.isNone then s.tookFree else s
  let s := s.sigPut (s.rdF (R.auxSig0 m) 11 0) w 0#16
  let s := s.sigPut (s.rdF (R.auxSig1 m) 11 0) (wordN v.d) 0#16
  s.sigPut (s.rdF (R.auxSig1 m) 27 16) (wordN (s.motState m)) 0#16

/-- A commutation held under `OV1_PAUSE` ends when T_est / 4 has passed (R289). -/
def State.motHoldEnd (s : State) (m : Nat) : State :=
  match (s.mot m).hold with
  | some h => if h.2.2 ≤ s.clk.now then (s.setMot m { s.mot m with hold := none }).motCommit m else s
  | none => s

/-! ### Crossings and commutation (R280–R283, R288) -/

/-- A crossing of the present sector is taken, with instant `z`. -/
def State.motCross (s : State) (m : Nat) (z : Int) : State :=
  let v := s.mot m
  match s.motState m with
  | 5 =>
    let ints := match v.lastZc with
      | some y => ((z - y).toNat :: v.ints).take 6
      | none => v.ints
    let t := if ints.length = 0 then v.tEst else meanNat ints
    let s := s.motTest m t
    s.setMot m { s.mot m with ints := ints, lastZc := some z, due := some (s.motDueAt m z t), known := s.clk.now, seen := true,
                              forced := 0 }
  | 4 =>
    let n := v.count + 1
    if s.rdF (R.auxCfg m) 11 8 ≤ n ∧ hz100 (s.rdF (R.auxHo m) 15 0) ≤ v.freq then
      let t := v.tEst
      let d := v.d
      let at_ := v.commAt
      let blank := v.blank
      let s := s.motEnter m 5
      (s.setMot m { s.mot m with d := d, ints := [], lastZc := some z, due := some (s.motDueAt m z t), known := s.clk.now, seen := true, commAt := at_,
                                 commDue := s.tbOf at_, blank := blank, fails := 0 }).motTest m t |>.motCommit m
    else s.setMot m { v with count := n, seen := true }
  | _ => s

/-- `DEMAG_BLANK_END`: the blanking ends with the comparator of the floating phase at `level` (R281). -/
def State.demagEnd (s : State) (m : Nat) (level : Bool) : State :=
  let v := s.mot m
  let st := s.motState m
  let s := s.wrB (R.auxHbStatus (3 * m + secFloat (s.motSector m))) 0 level
  if (st = 4 ∨ st = 5) && !v.wait && !v.seen && decide (v.blank ≤ s.clk.now) && level == s.motLevel m (s.motSector m) then
    (s.raise (R.auxStatus m) 16).motCross m (s.tbOf v.blank)
  else s

/-- A commutation to the next sector is applied now (R279, R281, R289). -/
def State.motCommutate (s : State) (m : Nat) (due : Int) : State :=
  let v := s.mot m
  let sec := s.motFwd m (s.motSector m) 1
  let hold := s.motHolds m sec
  let s := s.wrF (R.auxStatus m) 6 4 sec
  (s.setMot m { s.mot m with
    commAt := s.clk.now, commDue := due, due := none, wait := false, seen := false, hold := hold
    blank := s.clk.now + s.rdF (R.auxBemf m) 31 24 * v.tEst / 64 }).motCommit m

/-- The end of the braking that a start or `STOP` began, confirmed at a reload (R286). -/
def State.motConfirm (s : State) (m : Nat) : State :=
  let v := s.mot m
  if max v.entered v.iAt + s.rdF (R.auxStartT m) 15 0 * msec ≤ s.clk.now then
    match v.brake with
    | 1 => s.motAlign m
    | 2 => s.motEnter m 0
    | _ => s
  else s

/-- The next blind-ramp sector, or the failure of the ramp (R288). -/
def State.motRampNext (s : State) (m : Nat) : State :=
  let v := s.mot m
  let t := rampLen v.freq
  let f : Nat := v.freq + (divRound ((s.rdF (R.auxRampA m) 31 16 * 2 ^ 32 * t : Nat) : Int) second).toNat
  if hz100 (s.rdF (R.auxRampF m) 15 0) ≤ f then
    let s := (s.countUp (R.auxCount m) 31 16 1).raise (R.auxStatus m) 12
    let s := (s.setMot m { s.mot m with fails := v.fails + 1 }).post (80 + m) 12
    if v.fails + 1 ≤ s.rdF (R.auxCfg m) 3 0 then s.motEnter m 1 else s.motFault m 6
  else
    let sec := s.motFwd m (s.motSector m) 1
    s.motRampSector m f sec (if v.seen then v.count else 0) v.secEnd (s.motHolds m sec)

/-- Whether the present instant is a reload of motor `m`'s carrier. -/
def State.motAtReload (s : State) (m : Nat) : Bool := s.carOn (s.motCar m) && s.isReload (s.motCar m) s.tb

/-- What is due for motor `m` at a reload: what ends a state, and the commutation whose instant is nearest to this reload and that was known in
time for a commit to meet it (R279, R285, R286, R288, Table 13.8). -/
def State.motTimed (s : State) (m : Nat) : State :=
  let v := s.mot m
  match s.motState m with
  | 1 => s.motObserved m
  | 2 => s.motConfirm m
  | 3 => if v.entered + s.rdF (R.auxAlign m) 31 16 * msec ≤ s.clk.now then s.motRamp m else s
  | 4 => if v.secEnd ≤ s.clk.now + s.motLen m / 2 then s.motRampNext m else s
  | 5 =>
    match v.due with
    | some t => if t ≤ s.tb + s.motLen m / 2 ∧ v.known + 4 * tbCycle ≤ s.clk.now then s.motCommutate m t else s
    | none => s
  | _ => s

/-- `COMMUTATION`, `OBS_TIME`, `STOP_CONFIRM`, `ALIGN_END` and `RAMP_SECTOR_END` take effect at a reload of the motor's carrier, in the states
`sts` that they concern. -/
def State.motEvent (s : State) (m : Nat) (sts : List Nat) : State :=
  if s.motAtReload m && sts.contains (s.motState m) then s.motTimed m else s

def State.commutation (s : State) (m : Nat) : State := s.motEvent m [5]
def State.obsTime (s : State) (m : Nat) : State := s.motEvent m [1]
def State.stopConfirm (s : State) (m : Nat) : State := s.motEvent m [1, 2]
def State.alignEnd (s : State) (m : Nat) : State := s.motEvent m [3]
def State.rampSectorEnd (s : State) (m : Nat) : State := s.motEvent m [4]

/-- Whether the confirmation of a crossing at half-bridge `h` rests on valid samples (R280): the first at a carrier position `BEMF_SMP`,
`ZC_FILT` of them by now; while pulses run only the floating phase's, within the PWM phase's on-time and `BEMF_BLANK` after its rise. -/
def State.bemfValid (s : State) (h first : Nat) : Bool :=
  let m := h / 3
  let pos := s.carPos (s.motCar m) (s.tbOf first)
  let q := 84 + s.motPwmHb m
  let v := (s.slice q).act
  decide (pos = 32 * s.rdF (R.auxBemfSmp m) 20 0) && decide (first + (s.rdF (R.auxCfg m) 14 12 - 1) * s.motPer m ≤ s.clk.now) &&
    (!s.motSix m || (s.mot m).wait ||
      (h % 3 == secFloat (s.motSector m) && !v.blk && setLevel v pos &&
        (decide (v.on = 0 ∧ v.off = s.motPer m) || decide (v.on + s.slDtR q + s.rdF (R.auxBemf m) 15 0 * 320 ≤ pos))))

/-- `BEMF_CROSSING`: the comparator of half-bridge `h` has shown `level` for `ZC_FILT` valid samples, the first of them at `first`
(R280, R281). A blind-ramp commutation of the same reload comes first (R290). -/
def State.bemfCrossing (s : State) (h : Nat) (level : Bool) (first : Nat) : State :=
  let m := h / 3
  if !s.bemfValid h first then s
  else
    let s := s.wrB (R.auxHbStatus h) 0 level
    let s := s.rampSectorEnd m
    let v := s.mot m
    let z : Int := s.tbOf first - s.motPer m / 2
    let mine := h % 3 == secFloat (s.motSector m) && level == s.motLevel m (s.motSector m) && !v.seen && decide (v.blank ≤ first)
    match s.motState m with
    | 1 => s.setMot m { v with zcs := ((s.motIndex m (h % 3) level, z) :: v.zcs).take 7 }
    | 4 => if mine then s.motCross m z else s
    | 5 => if mine && !v.wait then s.motCross m z else s
    | _ => s

/-- `FORCED_COMMUTATION`: no crossing by the lost window (R283). -/
def State.forcedCommutation (s : State) (m : Nat) : State :=
  let v := s.mot m
  if s.motState m = 5 && !v.wait && !v.seen && v.due.isNone
      && decide (v.commDue + ((s.rdF (R.auxBemf m) 23 16 * v.tEst / 64 : Nat) : Int) ≤ s.tb) then
    let s := s.countUp (R.auxCount m) 15 0 1
    let n := v.forced + 1
    if s.rdF (R.auxCfg m) 7 4 ≤ n then
      let s := (s.raise (R.auxStatus m) 11).post (80 + m) 11
      if s.rdB (R.auxCfg m) 26 then s.motEnter m 1 else s.motFault m 5
    else s.setMot m { v with forced := n, due := some (s.tbOf v.commAt + v.tEst), known := s.clk.now }
  else s

/-- A reload of the carrier of motor `m` reaches the commutation logic, whose commit for it was complete before it: what it takes up at this
reload, the slices do (R220, R279). -/
def State.motReload (s : State) (m : Nat) : State :=
  if !s.motEn m then s
  else
    let s := { s with aux := { s.aux with act := (auxParAddrs m).foldl (fun t a => tabSet regReset t a (s.rd a)) s.aux.act } }
    let v := s.mot m
    let st := s.motState m
    let brakes := s.rdB (R.auxCfg m) 28
    let s :=
      if v.stopPend then
        if st = 0 ∨ st = 6 then s.setMot m { v with stopPend := false }
        else if brakes && v.brake == 3 then s
        else if brakes then s.motBrake m 2
        else s.motEnter m 0
      else if v.startPend && st == 0 then
        let s := (s.setMot m { v with fails := 0 }).motEnter m 1
        if s.rdB R.auxBusStatus 4 then s.motBrake m 3 else s
      else s.motTimed m
    (((s.motDuty m).motHoldEnd m).motCommit m).motPublish m

/-- `RELOAD` of carrier `c`: the motors on it, then the slices and leg units (R218, R279). -/
def State.reloadAll (s : State) (c : Nat) : State :=
  if s.carOn c && s.isReload c s.tb then
    (s.each (List.range 6) (fun s m => if s.motCar m = c then s.motReload m else s)).pwmReload c
  else s

/-! ### Currents (R272, R278, R286, R287) -/

/-- A trip that falls into the timebase cycle of a commutation wins over it: the sector is the one before (R290). -/
def State.motUncommute (s : State) (m : Nat) : State :=
  if (s.motState m = 4 ∨ s.motState m = 5) ∧ s.sameCycle (s.mot m).commAt then
    s.wrF (R.auxStatus m) 6 4 (s.motFwd m (s.motSector m) 5)
  else s

/-- Phase U's current passes from one side of the `ZERO_I` window to the other in `BRAKE` (R286). -/
def State.motPassage (s : State) (m : Nat) (sign : Bool) : State :=
  let v := s.mot m
  s.setMot m { v with side := some sign, iAt := if v.side = some (!sign) then s.clk.now else v.iAt }

/-- `AUX_CURRENT_WINDOW`: window `k` (0 `ZERO_I`, 1 `I_LIM`, 2 `OC_LIM`) of half-bridge `h` asserts or ends, the current then being
positive or not. -/
def State.auxWindow (s : State) (h k : Nat) (on sign : Bool) : State :=
  let m := h / 3
  let st := s.motState m
  let s := { s with aux := { s.aux with win := tabSet (fun _ => false) s.aux.win (3 * h + k) on } }
  let s := s.wrB (R.auxHbStatus h) 1 sign
  match k with
  | 0 =>
    let s := if !on && st == 2 && h % 3 == 0 then s.motPassage m sign else s
    match (s.mot m).hold with
    | some x => if on && x.2.1 == h % 3 then (s.setMot m { s.mot m with hold := none }).motCommit m else s
    | none => s
  | 1 =>
    if !on then s
    else if st = 2 then s.motGap m
    else if s.motSix m && h == s.motLowHb m && (s.slice (84 + s.motPwmHb m)).aOn then (s.wrB (R.auxStatus m) 17 true).auxNoteMotor m
    else s
  | _ =>
    if on then
      let s := s.raise (R.auxHbStatus h) 2
      let s := (s.srcLevel (470 + m) true false).raise (R.auxStatus m) 9
      if st = 6 then s else (s.motUncommute m).motFault m 1
    else if [3 * m, 3 * m + 1, 3 * m + 2].any (fun g => s.auxWin g 2) then s
    else s.srcLevel (470 + m) false false

/-- `BRK_OFF_END` (R287). -/
def State.brkOffEnd (s : State) (m : Nat) : State :=
  match (s.mot m).gap with
  | some t => if t ≤ s.clk.now then ((s.setMot m { s.mot m with gap := none, gapEnd := t }).auxNoteMotor m).motGap m else s
  | none => s

/-! ### Bus and supplies (R270, R273–R275, R289, R290) -/

/-- The auxiliary chopper is declared faulty (R275). -/
def State.auxChopFault (s : State) : State :=
  if s.rdB R.auxBusStatus 7 then s.raise R.auxBusStatus 7
  else ((s.raise R.auxBusStatus 7).post 86 7).srcLevel 469 true false

/-- Every motor that is neither in `OFF` nor in `FAULT`. -/
def State.motLive (s : State) : List Nat := (List.range 6).filter (fun m => s.motState m != 0 && s.motState m != 6)

/-- `AUX_BUS_CROSSING`: the bus crosses threshold `k` (0 `CHOP_OFF`, 1 `CHOP_ON`, 2–4 `AUX_OV_1`–`3`) or returns below it. -/
def State.auxBus (s : State) (k : Nat) (up : Bool) : State :=
  match k with
  | 0 =>
    if up then s
    else { s.wrB R.auxBusStatus 6 false with aux := { s.aux with chopFrom := none } }
  | 1 =>
    if up && s.rdB R.auxBusCfg 31 && !s.rdB R.auxBusStatus 6 then
      { s.wrB R.auxBusStatus 6 true with aux := { s.aux with chopFrom := some s.clk.now } }
    else s
  | 2 =>
    let s := s.wrB R.auxBusStatus 3 up
    let s := if up && s.rdB R.auxBusStatus 6 then s.auxChopFault else s
    s.each s.motLive (fun s m => (s.wrB (R.auxStatus m) 18 up).auxNoteMotor m)
  | 3 =>
    let s := s.wrB R.auxBusStatus 4 up
    if up then
      let s := { s with aux := { s.aux with below2 := none } }
      let s := (s.srcLevel 476 true false).post 86 4
      s.each s.motLive (fun s m => s.motBrake m 3)
    else ({ s with aux := { s.aux with below2 := some s.clk.now } } : State).srcLevel 476 false false
  | _ =>
    let s := s.wrB R.auxBusStatus 5 up
    if up then
      let s := ((s.raise R.auxBusStatus 8).fireSource 476 false).post 86 5
      s.each s.motLive (fun s m => s.motFault m 4)
    else s

/-- `AUX_CHOP_VERIFY`: `AUX_CHOP` has been high for `CHOP_VERIFY` and `AUX_CHOP_IS` is `flows` (R275). -/
def State.auxChopVerify (s : State) (flows : Bool) : State :=
  match s.aux.chopFrom with
  | some t => if t + s.rdF R.auxBusCfg 22 16 * usec ≤ s.clk.now && !flows then s.auxChopFault else s
  | none => s

/-- `OV_REL`: the bus has stayed below `AUX_OV_2` for `OV_REL` ms (R290). -/
def State.ovRel (s : State) : State :=
  match s.aux.below2 with
  | some t =>
    if !s.rdB R.auxBusStatus 4 && decide (t + s.rdF R.auxBusCfg 7 0 * msec ≤ s.clk.now) then
      s.each (List.range 6) (fun s m =>
        if s.rdB (R.auxStatus m) 19 then
          if (s.mot m).stopPend then s.motEnter m 0
          else if s.rdB (R.auxCfg m) 26 then s.motEnter m 1
          else (s.motEnter m 0).raise (R.auxStatus m) 15
        else s)
    else s
  | none => s

/-- The source "auxiliary driver supply" follows its conditions (R270). -/
def State.auxSupply (s : State) : State :=
  s.srcLevel 468 (s.rdB R.auxBusStatus 1 || s.rdB R.auxBusStatus 2 || (List.range 18).any (fun h => s.rdB (R.auxHbStatus h) 3)) false

/-- `VDRV_UV` and its end (R270). -/
def State.vdrvUv (s : State) (on : Bool) : State :=
  let s := s.wrB R.auxBusStatus 1 on
  let s := if on then
      (s.each (List.range 6) (fun s m => if s.motState m = 0 ∨ s.motState m = 6 then s else s.motFault m 3)).post 86 1
    else s.each (List.range 6) State.auxNoteMotor
  s.auxSupply

/-- `CP_UV` begins or ends (R270). -/
def State.cpUv (s : State) (on : Bool) : State :=
  let s := s.wrB R.auxBusStatus 2 on
  (if on then s.post 86 2 else s).auxSupply

/-- `BST_UV` of half-bridge `h` and its end (R270). -/
def State.bstUv (s : State) (h : Nat) (on : Bool) : State :=
  let m := h / 3
  let s := (s.wrB (R.auxHbStatus h) 3 on).auxNoteMotor m
  let s := if on then
      let s := s.raise (R.auxStatus m) 10
      if s.motState m = 6 then s else s.motFault m 2
    else s
  s.auxSupply

end Sys2Proof.Machine
end

