-- ==== Sys2Proof/Machine/Time.lean ====
section
/-! DEFINITION. Network time: increment, set, step and the latched reads (*Network time, Ethernet and the Ulile point map*, R370–R373;
R212 of the timebase). -/

namespace Sys2Proof.Machine

/-- The next Ethernet tick after the present instant. -/
def State.nextTick (s : State) : Nat := (s.clk.now / ethCycle + 1) * ethCycle

/-- The network-time counter changes at the next tick: `f` gives the time and the increment there from those that the counter would
have (R371, R372). Changes of one tick add up. -/
def State.atTick (s : State) (f : Nat → Nat → Nat × Nat) : State :=
  let T := s.nextTick
  let m := s.tim
  let b := s.netTime T
  let r := f b m.inc
  let b' := r.1 % (2 ^ 48 * ntSecond)
  if m.baseAt = T then { s with tim := { m with base := b', inc := r.2 } }
  else { s with tim := { m with base := b', baseAt := T, inc := r.2, oldBase := m.base, oldAt := m.baseAt, oldInc := m.inc } }

/-- An increment of 4 bits of nanoseconds and a 32-bit fraction is within ±500 ppm of 8 ns (R371). -/
def incOk (ns frac : Nat) : Bool :=
  let x := (ns * 2 ^ 32 + frac) * 1000
  decide (7996 * 2 ^ 32 ≤ x ∧ x ≤ 8004 * 2 ^ 32)

/-- `TIME_INC_WRITE`: `w` is written to `TIME_INC_FRAC`, the second half of the pair (R371). -/
def State.timeIncWrite (s : State) (w : Word) : State :=
  let s := s.wr R.timeIncFrac w
  let ns := s.rdF R.timeIncNs 3 0
  if incOk ns w.toNat then s.atTick (fun b _ => (b, (ns * 2 ^ 32 + w.toNat) * 4))
  else s.raise R.timeStatus 3

/-- The magnitude of `TIME_ARG`, in nanoseconds. -/
def State.timeArg (s : State) : Nat :=
  (s.rdF R.timeArgSHi 15 0 * 2 ^ 32 + s.rdN R.timeArgSLo) * 1000000000 + s.rdF R.timeArgNs 29 0

/-- `TIME_CTRL.SET` (R372). -/
def State.timeSet (s : State) : State :=
  if s.rdB R.timeStatus 0 then s.raise R.timeStatus 2
  else
    let a := s.timeArg
    (s.atTick (fun _ i => (a * 2 ^ 34, i))).wrB R.timeStatus 0 true

/-- `TIME_CTRL.STEP` (R372). -/
def State.timeStep (s : State) : State :=
  let a := s.timeArg
  let lim := s.rdN R.timeJumpLimit * 1000
  if lim = 0 ∨ lim < a then s.raise R.timeStatus 2
  else
    let d : Int := if s.rdB R.timeArgNs 31 then -(a : Int) else a
    let old := s.netTime s.clk.now
    let full : Int := (2 ^ 48 * ntSecond : Nat)
    let mv (b : Nat) : Nat := (((b : Int) + d * 2 ^ 34) % full).toNat
    let s := s.atTick (fun b i => (mv b, i))
    let s := ((s.raise R.timeStatus 1).countUp R.timeStepCount 31 0 1).post 102 1
    s.each (List.range 8) (fun s u => s.capTimeStep u old (mv old))

/-- A write of `w` to `TIME_CTRL` (R372). -/
def State.timeCtrlWrite (s : State) (w : Word) : State :=
  if bitOf w 1 && bitOf w 0 then (if s.rdB R.timeStatus 0 then s.timeStep else s.timeSet)
  else if bitOf w 1 then s.timeSet
  else if bitOf w 0 then s.timeStep
  else s

/-- The code of an initiator under which it latches register halves (R373, R384). -/
def initCode : Initiator → Nat
  | .core p => p.val
  | .ferry q => 16 + q.val
  | .debug => 64
  | .ulile => 65

/-- A read of `TIME_NS` by an initiator latches its other fields (R373). -/
def State.timeNsRead (s : State) (i : Initiator) : State × Word :=
  let n := s.netTime s.clk.now
  ({ s with tim := { s.tim with latch := tabSet (fun _ => 0) s.tim.latch (initCode i) (ntSec n * 2 ^ 32 + ntFrac n + 1) } }, wordN (ntNs n))

/-- What `TIME_S_LO` (0), `TIME_S_HI` (1) and `TIME_FRAC` (2) show an initiator. -/
def State.timeLatched (s : State) (i : Initiator) (k : Nat) : Word :=
  let x := tabGet (fun _ => 0) s.tim.latch (initCode i) - 1
  match k with
  | 0 => wordN (x / 2 ^ 32 % 2 ^ 32)
  | 1 => wordN (x / 2 ^ 64 % 2 ^ 16)
  | _ => wordN (x % 2 ^ 32)

/-- A read of `PWM_TB_LO` latches the high half; the Ulile agent has a latch of its own (R212, R384). -/
def State.tbLoRead (s : State) (i : Initiator) : State × Word :=
  let c := (s.tb / 32).toNat
  let hi := c / 2 ^ 32
  let s := match i with
    | .ulile => { s with tim := { s.tim with tbUli := hi } }
    | _ => s.wr R.pwmTbHi (wordN hi)
  (s, wordN c)

end Sys2Proof.Machine
end

