-- ==== Sys2Proof/Machine/Eth.lean ====
section
/-! DEFINITION. The Ethernet switch: ports, queues, transparent clock, peer delay and the port-2 time-stamps (R375–R379), and the
acceptance of role-addressed datagrams (R338). -/

namespace Sys2Proof.Machine

/-! ### Fields of a frame -/

/-- A big-endian number of `n` bytes at offset `o`. -/
def beAt (bs : List Byte) (o n : Nat) : Nat := natBE ((bs.drop o).take n)

/-- The bytes with those at offset `o` replaced by `xs`. -/
def putAt (bs : List Byte) (o : Nat) (xs : List Byte) : List Byte := bs.take o ++ xs ++ bs.drop (o + xs.length)

def ethDst (bs : List Byte) : Nat := beAt bs 0 6
def ethSrc (bs : List Byte) : Nat := beAt bs 6 6
def ethTagged (bs : List Byte) : Bool := beAt bs 12 2 == 0x8100

/-- Offset of the EtherType behind an IEEE 802.1Q tag. -/
def ethTypeAt (bs : List Byte) : Nat := if ethTagged bs then 16 else 12

/-- Offset of the UDP header of an IPv4 datagram, if the frame carries one. -/
def udpAt (bs : List Byte) : Option Nat :=
  let e := ethTypeAt bs
  if beAt bs e 2 = 0x0800 ∧ beAt bs (e + 11) 1 = 17 then some (e + 2 + beAt bs (e + 2) 1 % 16 * 4) else none

/-- Destination UDP port, if there is one. -/
def udpPort (bs : List Byte) : Option Nat := (udpAt bs).map (fun o => beAt bs (o + 2) 2)

/-- Offset of a PTP header: over Ethernet, or over UDP port 319 (event messages) or 320 (general ones) (log 45). -/
def ptpAt (bs : List Byte) : Option Nat :=
  let e := ethTypeAt bs
  if beAt bs e 2 = 0x88F7 then some (e + 2)
  else
    match udpPort bs with
    | some p => if p = 319 ∨ p = 320 then (udpAt bs).map (fun o => o + 8) else none
    | none => none

/-- Message type of a PTP frame. -/
def ptpType (bs : List Byte) : Option Nat := (ptpAt bs).map (fun o => beAt bs o 1 % 16)

/-- Whether a frame is a PTP event message: types 0–3, over Ethernet or UDP port 319 (R377). -/
def ptpEvent (bs : List Byte) : Bool :=
  match ptpType bs with
  | some y => decide (y < 4) && (beAt bs (ethTypeAt bs) 2 == 0x88F7 || udpPort bs == some 319)
  | none => false

/-- Whether a frame belongs to the peer-delay exchange. -/
def ptpPdelay (bs : List Byte) : Bool :=
  match ptpType bs with
  | some y => y == 2 || y == 3 || y == 10
  | none => false

def ptpTwoStep (bs : List Byte) (o : Nat) : Bool := natBit (beAt bs (o + 6) 1) 1
def ptpSeq (bs : List Byte) (o : Nat) : Nat := beAt bs (o + 30) 2
def ptpSource (bs : List Byte) (o : Nat) : Nat := beAt bs (o + 20) 10

/-- `x` (units of 2^-16 ns) is added to `correctionField`; the checksum of an IPv4 datagram becomes 0 (R377). -/
def ptpCorrect (bs : List Byte) (o : Nat) (x : Int) : List Byte :=
  let c := signedOf 64 (beAt bs (o + 8) 8)
  let bs := putAt bs (o + 8) (bytesBE 8 ((c + x) % 2 ^ 64).toNat)
  match udpAt bs with
  | some u => putAt bs (u + 6) [0#8, 0#8]
  | none => bs

/-! ### Ports and queues -/

def State.ethQueue (s : State) (p q : Nat) : List EthFrame := tabGet (fun _ => []) s.eth.queues (8 * p + q)
def State.setEthQueue (s : State) (p q : Nat) (l : List EthFrame) : State :=
  { s with eth := { s.eth with queues := tabSet (fun _ => []) s.eth.queues (8 * p + q) l } }

/-- Whether port `p` passes frames: port 2 always, an external one while enabled with its link up. -/
def State.ethUp (s : State) (p : Nat) : Bool := p == 2 || (s.rdB (R.ethPortCfg p) 31 && s.rdB (R.ethPortCfg p) 29)

def State.tcEn (s : State) : Bool := s.rdB R.ethTcCfg 31
def State.tcP2p (s : State) : Bool := s.tcEn && s.rdB R.ethTcCfg 30

/-- Bytes of the frame buffer that a queue uses. -/
def queueBytes (l : List EthFrame) : Nat := l.foldl (fun a f => a + f.bytes.length) 0

/-- Use of the shared part of the buffer beyond each queue's 8 KiB. -/
def State.ethShared (s : State) : Nat :=
  (List.range 24).foldl (fun a i => a + (queueBytes (s.ethQueue (i / 8) (i % 8)) - 8192)) 0

/-- The egress queue of a frame: its tag's PCP, else that of its ingress port (R376). -/
def State.ethPrio (s : State) (f : EthFrame) : Nat :=
  if ethTagged f.bytes then beAt f.bytes 14 1 / 32 else if f.port < 2 then s.rdF (R.ethPortCfg f.port) 15 13 else 0

/-- A frame enters the egress queue of port `p`, or is dropped at the tail (R376). -/
def State.ethEnqueue (s : State) (p : Nat) (f : EthFrame) : State :=
  let q := s.ethPrio f
  let l := s.ethQueue p q
  let x := s.setEthQueue p q (l ++ [f])
  if x.ethShared ≤ 262144 - 24 * 8192 then x else s.countUp (R.ethDrop p) 15 0 1

/-- The endpoint of a datagram to port `u` (R338, Table 15.6). -/
def State.udpEndpoint (s : State) (u : Nat) : Option Nat :=
  (List.range 16).find? (fun j => s.rdB (R.cwyEp j) 31 && s.rdF (R.cwyEp j) 27 26 == 1 && s.rdF (R.cwyEp j) 15 0 == u)

/-- A frame reaches port 2: a role-addressed datagram is taken by the primary only, and bound to the role (R338). -/
def State.ethToHost (s : State) (f : EthFrame) : State :=
  match (udpPort f.bytes).bind s.udpEndpoint with
  | none => s.ethEnqueue 2 f
  | some j =>
    let n := s.rdF (R.cwyEp j) 30 28
    let f := { f with ep := some j }
    if s.primary n then s.ethEnqueue 2 f else s.roleIgnore n (.inr f)

/-- The time-stamp of an event message at port 2 (R379). -/
def State.ethStamp (s : State) (bs : List Byte) (out : Bool) : State :=
  match ptpAt bs with
  | none => s
  | some o =>
    if s.eth.stamps.length < 16 then
      let h := 2 ^ 31 + b2n out * 2 ^ 30 + (ptpType bs).getD 0 * 2 ^ 24 + ptpSeq bs o
      let x : EthStamp := ⟨h, s.netTime s.clk.now⟩
      ({ s with eth := { s.eth with stamps := s.eth.stamps ++ [x] } }).post 101 1
    else s.raise R.ethTcStatus 31

/-- The source address of a frame is learned (R375); a full table learns no further one (log 46). -/
def State.ethLearn (s : State) (p : Nat) (bs : List Byte) : State :=
  let a := ethSrc bs
  let rest := s.eth.macs.filter (fun m => m.1 != a)
  if natBit (beAt bs 6 1) 0 ∨ 1024 ≤ rest.length then s
  else { s with eth := { s.eth with macs := rest ++ [(a, p, s.clk.now)] } }

/-- `ETH_FRAME_INGRESS`: a frame enters port `p` (R375–R379). -/
def State.ethIngress (s : State) (p : Nat) (bs : List Byte) : State :=
  if !s.ethUp p then s
  else if 1522 < bs.length + 4 then s.countUp (R.ethDrop p) 31 16 1
  else
    let f : EthFrame := ⟨bs, p, s.netTime s.clk.now, none, false, s.clk.now⟩
    let s := if p == 2 && ptpEvent bs then s.ethStamp bs false else s
    let s := s.ethLearn p bs
    if s.tcP2p && ptpPdelay bs then s
    else
      let known := if natBit (beAt bs 0 1) 0 then none else (s.eth.macs.find? (fun m => m.1 == ethDst bs)).map (·.2.1)
      let outs := [0, 1, 2].filter (fun o => o != p && s.ethUp o && (known.getD o) == o)
      s.each outs (fun s o => if o = 2 then s.ethToHost f else s.ethEnqueue o f)

/-! ### Egress and the transparent clock (R377, R378) -/

/-- Peer delay of the ingress port, in units of 2^-16 ns, where the clock is peer-to-peer. -/
def State.ethPeer (s : State) (f : EthFrame) : Int :=
  if s.tcP2p && decide (f.port < 2) then s.rdN (R.ethPortPdelay f.port) * 65536 else 0

/-- The bytes of a frame as they leave port `p`, with the state of the Sync matching. -/
def State.ethCorrect (s : State) (p : Nat) (f : EthFrame) : State × List Byte :=
  match ptpAt f.bytes with
  | none => (s, f.bytes)
  | some o =>
    if !s.tcEn then (s, f.bytes)
    else
      let now := s.netTime s.clk.now
      let res := shrRound ((now : Int) - f.at_) 18
      let ty := beAt f.bytes o 1 % 16
      let ws := tabGet (fun _ => []) s.eth.syncs p
      if ptpEvent f.bytes then
        let x := res + (if ty = 0 then s.ethPeer f else 0)
        if ty == 0 && ptpTwoStep f.bytes o then
          let w : SyncWait := ⟨ptpSeq f.bytes o, ptpSource f.bytes o, x⟩
          let ws := if 16 ≤ ws.length then ws.drop 1 else ws
          ({ s with eth := { s.eth with syncs := tabSet (fun _ => []) s.eth.syncs p (ws ++ [w]) } }, f.bytes)
        else (s, ptpCorrect f.bytes o x)
      else if ty = 8 then
        match ws.find? (fun w => w.seq == ptpSeq f.bytes o && w.src == ptpSource f.bytes o) with
        | some w => ({ s with eth := { s.eth with syncs := tabSet (fun _ => []) s.eth.syncs p (ws.filter (fun y => y != w)) } },
            ptpCorrect f.bytes o w.corr)
        | none => (s.countUp R.ethTcStatus 15 0 1, f.bytes)
      else (s, f.bytes)

/-- `ETH_FRAME_EGRESS`: the first frame of the highest queue of port `p` leaves it (R376, R377); at port 2 it is handed to the receive
queue of R423. -/
def State.ethEgress (s : State) (p : Nat) : State :=
  if !s.ethUp p then s
  else
    match ([7, 6, 5, 4, 3, 2, 1, 0].find? (fun q => !(s.ethQueue p q).isEmpty)) with
    | none => s
    | some q =>
      match s.ethQueue p q with
      | [] => s
      | f :: rest =>
        let s := s.setEthQueue p q rest
        let r := s.ethCorrect p f
        let s := r.1
        let s := { s with eth := { s.eth with sent := tabSet (fun _ => []) s.eth.sent p r.2 } }
        if p = 2 then
          let s := if ptpEvent r.2 then s.ethStamp r.2 true else s
          { s with eth := { s.eth with host := s.eth.host ++ [{ f with bytes := r.2 }] } }
        else s

/-- `PDELAY_EXCHANGE`: an exchange on port `p` gave its four instants, in units of 2^-16 ns (R378, log 45). -/
def State.pdelay (s : State) (p : Nat) (t1 t2 t3 t4 : Int) : State :=
  if s.tcP2p && s.ethUp p && decide (p < 2) then
    let d := shrRound ((t4 - t1) - (t3 - t2)) 17
    s.wr (R.ethPortPdelay p) (wordN (min 0xFFFFFFFF d.toNat))
  else s

/-- `MAC_AGE_OUT`: a learned address has not been seen for 300 s (R375). -/
def State.macAgeOut (s : State) (a : Nat) : State :=
  { s with eth := { s.eth with macs := s.eth.macs.filter (fun m => m.1 != a || decide (s.clk.now < m.2.2 + 300 * second)) } }

/-- `ETH_LINK_CHANGE` (R375). -/
def State.ethLink (s : State) (p : Nat) (up : Bool) : State :=
  if s.rdB (R.ethPortCfg p) 29 = up then s else (s.wrB (R.ethPortCfg p) 29 up).post (99 + p) (b2n up)

/-- Word `k` of the head of the time-stamp FIFO (Table 18.2). -/
def State.ethTsWord (s : State) (k : Nat) : Word :=
  match s.eth.stamps with
  | [] => 0#32
  | x :: _ =>
    match k with
    | 0 => wordN x.head
    | 1 => wordN (ntSec x.at_ % 2 ^ 32)
    | 2 => wordN (ntNs x.at_)
    | _ => wordN (ntFrac x.at_)

/-- `ETH_TS_POP`: a read of `ETH_TS_3` advances the FIFO (R379). -/
def State.ethTsPop (s : State) : State × Word :=
  ({ s with eth := { s.eth with stamps := s.eth.stamps.drop 1 } }, s.ethTsWord 3)

end Sys2Proof.Machine
end

