-- ==== Sys2Proof/Machine/Sar.lean ====
section
/-! DEFINITION. SAR converters: triggers, sequences, groups, calibration and results (*SAR converters*, R70–R91), and a spare that
answers as a retired converter (R454). A converter is named by its identity `k`; `sarHw` is the hardware that answers as it. Events of
`SAR_k` (source 9 + k): 0 end of the regular sequence, 1 of the injected one, 2 calibration done, 3 calibration failed. -/

namespace Sys2Proof.Machine

/-- The hardware that answers as converter `k` (R454). -/
def State.sarHw (s : State) (k : Nat) : Nat := (s.sarSpareOf k).getD k

def State.sar (s : State) (h : Nat) : SarSt := tabGet (fun _ => SarSt.init) s.sars h
def State.setSar (s : State) (h : Nat) (v : SarSt) : State := { s with sars := tabSet (fun _ => SarSt.init) s.sars h v }
def State.sarEn (s : State) (k : Nat) : Bool := s.rdB (R.sarCfg k) 31
def State.sarGroup (s : State) (k : Nat) : Nat := s.rdF (R.sarCfg k) 27 24
def State.sarRegLen (s : State) (k : Nat) : Nat := s.rdF (R.sarCfg k) 20 16
def State.sarInjLen (s : State) (k : Nat) : Nat := s.rdF (R.sarCfg k) 14 12
def State.sarAcq (s : State) (k e : Nat) : Nat := s.rdF (R.sarEnt k e) 23 16

/-- The members of the group of converter `k`, ascending; itself alone where it has none (R85). -/
def State.sarMembers (s : State) (k : Nat) : List Nat :=
  if s.sarGroup k = 0 then [k]
  else (List.range 24).filter (fun j => s.sarEn j && s.sarGroup j == s.sarGroup k)

/-- The converter whose trigger fields rule converter `k`. -/
def State.sarLeader (s : State) (k : Nat) : Nat := ((s.sarMembers k).head?).getD k

/-- The SAR edge at or after timebase value `T`, as an instant (R70). -/
def State.sarEdge (s : State) (T : Int) : Nat := (s.clk.tbBase + (T - (T % 640) + (if T % 640 = 0 then 0 else 640))).toNat

/-- The SAR edge at or after an instant. -/
def State.sarUp (s : State) (x : Nat) : Nat := s.sarEdge (s.tbOf x)

/-- The busy bits follow the converter's state. -/
def State.sarBusy (s : State) (h : Nat) : State :=
  let c := s.sar h
  let s := s.wrB (R.sarStatus h) 0 (c.reg.isSome || c.held)
  let s := s.wrB (R.sarStatus h) 1 c.inj.isSome
  let s := s.wrB (R.sarStatus h) 4 (c.calReq.isSome && c.calAt.isNone)
  s.wrB (R.sarStatus h) 5 c.calAt.isSome

def State.putSar (s : State) (h : Nat) (v : SarSt) : State := (s.setSar h v).sarBusy h

/-! ### Triggers (R71, R79, R80) -/

/-- A trigger of a sequence of converter `k`'s group at instant `x`: every member takes it at the same start edge. The first trigger of a
retired converter brings its spare into service (R453). -/
def State.sarTrigger (s : State) (k : Nat) (inj : Bool) (x : Nat) : State :=
  let T := s.tbOf x - s.tbOf x % 32
  let e := s.sarEdge (T + 128)
  if s.sarEn k then
    s.each (s.sarMembers k) (fun s j =>
      let s := s.assignSar j
      let h := s.sarHw j
      let c := s.sar h
      if inj then (if c.injAt.contains e then s else s.setSar h { c with injAt := c.injAt ++ [e] })
      else if c.regAt.contains e then s else s.setSar h { c with regAt := c.regAt ++ [e] })
  else s

/-- Trigger source `code` of Table 4.2 fires at instant `x`: the sequences of every leader or ungrouped converter that names it. -/
def State.sarFireAt (s : State) (code x : Nat) : State :=
  if code < 2 then s
  else s.each (List.range 24) (fun s k =>
    if s.sarEn k && s.sarLeader k == k then
      let s := if s.rdF (R.sarTrig k) 8 0 = code then s.sarTrigger k false x else s
      if s.rdF (R.sarTrig k) 24 16 = code then s.sarTrigger k true x else s
    else s)

/-- The same at the present instant. -/
def State.sarFire (s : State) (code : Nat) : State := s.sarFireAt code s.clk.now

/-- `SAR_TIMER`: interval timer `j` fires at the instants congruent to `PHASE` modulo `INTERVAL` (R80). -/
def State.sarTimer (s : State) (j : Nat) : State :=
  let iv := s.rdN (R.sarTimerInterval j)
  if iv ≠ 0 ∧ (s.tb / 32) % (iv : Nat) = (s.rdN (R.sarTimerPhase j) : Nat) then s.sarFire (8 + j) else s

/-- An injected trigger is taken at the edge `e` by hardware `h` of identity `k` (R82, R83, R90). -/
def State.sarTakeInj (s : State) (k h e : Nat) : State :=
  let c := s.sar h
  if s.sarInjLen k = 0 then s
  else if c.inj.isSome then (s.countUp (R.sarOvr h) 31 16 1).raise (R.sarStatus h) 3
  else if c.calAt.isSome then
    (s.putSar h { c with inj := some 0, convAt := e, calAt := none, calAgain := true }).countUp (R.sarCalStat h) 31 16 1
  else if c.reg.isSome then
    s.putSar h { c with inj := some 0, convAt := e, paused := true, again := c.again || decide (c.convAt < e) }
  else s.putSar h { c with inj := some 0, convAt := e }

/-- A regular trigger is taken at the edge `e` (R81, R84, R89). -/
def State.sarTakeReg (s : State) (h e : Nat) : State :=
  let c := s.sar h
  if c.reg.isSome || c.held then (s.countUp (R.sarOvr h) 15 0 1).raise (R.sarStatus h) 2
  else if c.inj.isSome || c.calAt.isSome then s.putSar h { c with held := true }
  else s.putSar h { c with reg := some 0, convAt := e, paused := false, again := false }

/-- The edge on which the conversion or the calibration in hand of converter `k` ends (R70, R87). -/
def State.sarDue (s : State) (k : Nat) : Option Nat :=
  let c := s.sar (s.sarHw k)
  match c.inj, c.reg, c.calAt with
  | some i, _, _ => some (c.convAt + (s.sarAcq k (16 + i) + 8) * sarCycle)
  | none, some i, _ => some (c.convAt + (s.sarAcq k i + 8) * sarCycle)
  | none, none, x => x.map (· + 5120 * sarCycle)

/-- The edges at which the members `ms` of a group have triggers to take. -/
def State.sarEdges (s : State) (ms : List Nat) : List Nat :=
  ms.flatMap (fun j => (s.sar (s.sarHw j)).injAt ++ (s.sar (s.sarHw j)).regAt)

/-- The triggers of edge `e` are taken by all members together, the injected one first (R71, R86). -/
def State.sarTakeAt (s : State) (ms : List Nat) (e : Nat) : State :=
  s.each ms (fun s j =>
    let h := s.sarHw j
    let c := s.sar h
    let s := s.setSar h { c with injAt := c.injAt.filter (· != e), regAt := c.regAt.filter (· != e) }
    let s := if c.injAt.contains e then s.sarTakeInj j h e else s
    if c.regAt.contains e then s.sarTakeReg h e else s)

/-- The first SAR edge on which a calibration that all members have pending may start: none of their sequences runs or is held (R88). -/
def State.sarCalEdge (s : State) (ms : List Nat) : Option Nat :=
  let cs := ms.map (fun j => s.sar (s.sarHw j))
  if cs.all (fun c => c.calReq.isSome && c.calAt.isNone && c.inj.isNone && c.reg.isNone && !c.held && !c.calAgain) then
    some (cs.foldl (fun x c => max x (max (s.sarUp (c.calReq.getD 0)) c.idleAt)) 0)
  else none

/-- The calibration of all members starts on edge `x`. -/
def State.sarCalFrom (s : State) (ms : List Nat) (x : Nat) : State :=
  s.each ms (fun s j => s.putSar (s.sarHw j) { s.sar (s.sarHw j) with calAt := some x })

/-- At most `f` events of the group of members `ms`, in the order of their edges: triggers are taken and a pending calibration starts. An edge
that a conversion or calibration ends on, or that lies beyond its end, waits for that end; of events on one edge the triggers come first
(R71, R81–R83, R88). -/
def State.sarMove : Nat → State → List Nat → State
  | 0, s, _ => s
  | f + 1, s, ms =>
    let open_ (e : Nat) : Bool := decide (e ≤ s.clk.now) && ms.all (fun j => (s.sarDue j).all (fun d => decide (e < d)))
    let trig := (s.sarEdges ms).min?.filter open_
    let cal := (s.sarCalEdge ms).filter open_
    match trig, cal with
    | some e, none => State.sarMove f (s.sarTakeAt ms e) ms
    | some e, some x => if e ≤ x then State.sarMove f (s.sarTakeAt ms e) ms else State.sarMove f (s.sarCalFrom ms x) ms
    | none, some x => s.sarCalFrom ms x
    | none, none => s

/-- What the group of converter `k` has done by now. -/
def State.sarCatch (s : State) (k : Nat) : State :=
  let ms := s.sarMembers k
  s.sarMove ((s.sarEdges ms).length + 1) ms

/-- `SAR_START_EDGE`: the triggers of converter `k`'s group whose start edge has come are taken (R71, R86). -/
def State.sarStartEdge (s : State) (k : Nat) : State := s.sarCatch k

/-! ### Results (R74, R75, R77, R91) -/

/-- The corrected code of a raw one, and whether it saturated (R75). DESIGN CHOICE: the spec gives no formula for "applies its calibration
offset and gain"; the model takes (raw − offset) × gain, rounded (log 95). -/
def State.sarCorrect (s : State) (h : Nat) (diff : Bool) (raw : Int) : Int × Bool :=
  let lo : Int := if diff then -32768 else 0
  let hi : Int := if diff then 32767 else 65535
  let r := clampI lo hi raw
  let off := signedOf 16 (s.rdF (R.sarCalRes h) 15 0)
  let y := shrRound ((r - off) * s.rdF (R.sarCalRes h) 31 16) 15
  (clampI lo hi y, decide (r = lo) || decide (r = hi) || decide (y < lo) || decide (hi < y))

/-- The quality of a result of hardware `h` answering as converter `k`, `SATURATED` aside (R91, R454, R455). -/
def State.sarQual (s : State) (k h : Nat) : Qual :=
  let q : Qual := if s.rdB (R.sarStatus h) 6 then 0#16 else 0x8000#16
  let q := if s.rdB (R.sarStatus h) 7 || (s.sarRetired k && h == k) then q ||| 0x8100#16 else q
  if h = k then q else q ||| 0x2000#16

/-- A register takes a word at instant `x`. -/
def State.wrAt (s : State) (x a : Nat) (w : Word) : State := if x ≤ s.clk.now then s.wr a w else s.soon x (.reg a w)

/-- The result of entry `e`, whose conversion ends on edge `x`, is written: the signal now, the register 20 ns after the edge (R71, R74, R75).
DESIGN CHOICE: the code 0 of inputs 94 and 95 is their raw code, which is corrected and stands at the end of its range (R73; log 94). -/
def State.sarResult (s : State) (k h e x : Nat) (raw : Int) (cnt : Nat) (again : Bool) : State :=
  let diff := s.rdB (R.sarEnt k e) 24
  let input := s.rdF (R.sarEnt k e) 31 25
  let c := s.sarCorrect h diff (if input = 94 ∨ input = 95 then 0 else raw)
  let q := s.sarQual k h
  let q := if c.2 then q ||| 0x1000#16 else q
  let w := withBit (withBit (withBit (wordN ((c.1 % 65536).toNat + cnt % 256 * 65536)) 31 again) 30 c.2) 29 (qBit q qInvalid)
  let s := s.wrAt (x + sarCycle) (R.sarRes h e) w
  s.sigWrite (s.rdF (R.sarEnt k e) 11 0) (wordOf (if diff then c.1 * 65536 else c.1 * 32768)) q

/-- The quality that a result of the raw code `raw` carries (R77). -/
def State.sarResQual (s : State) (k h e : Nat) (raw : Int) : Qual :=
  let input := s.rdF (R.sarEnt k e) 31 25
  let q := s.sarQual k h
  if (s.sarCorrect h (s.rdB (R.sarEnt k e) 24) (if input = 94 ∨ input = 95 then 0 else raw)).2 then q ||| 0x1000#16 else q

/-- The regular sequence of hardware `h` goes on from the edge `x` on which an injected sequence or a calibration ended. -/
def State.sarResume (s : State) (h x : Nat) : State :=
  let c := s.sar h
  if c.reg.isSome then s.putSar h { c with paused := false, convAt := x }
  else if c.calAgain then s.putSar h { c with calAgain := false, calAt := some x }
  else if c.held then s.putSar h { c with held := false, reg := some 0, convAt := x, again := false }
  else s.sarBusy h

/-- The end of an injected conversion on edge `x`. -/
def State.sarInjEnd (s : State) (k h i x : Nat) (raw : Int) : State :=
  let c := s.sar h
  let e := 16 + i
  let q := s.sarResQual k h e raw
  let s := s.sarResult k h e x raw c.injCnt false
  let c : SarSt := if i = 0 then { s.sar h with injTs := (c.convAt + s.sarAcq k e * sarCycle, q) } else s.sar h
  if i + 1 < s.sarInjLen k then s.putSar h { c with inj := some (i + 1), convAt := x }
  else
    let ts := wordOf (s.tbOf c.injTs.1)
    let s := s.putSar h { c with inj := none, injCnt := c.injCnt + 1, idleAt := x }
    let s := ((s.wr (R.sarInjTs h) ts).sigWrite (s.rdF (R.sarTsSig k) 27 16) ts c.injTs.2).post (9 + k) 1
    s.sarResume h x

/-- The end of a regular conversion on edge `x`. -/
def State.sarRegEnd (s : State) (k h i x : Nat) (raw : Int) : State :=
  let c := s.sar h
  let q := s.sarResQual k h i raw
  let s := s.sarResult k h i x raw c.regCnt c.again
  let c : SarSt := if i = 0 then { s.sar h with regTs := (c.convAt + s.sarAcq k i * sarCycle, q) } else s.sar h
  if i + 1 < s.sarRegLen k then s.putSar h { c with reg := some (i + 1), convAt := x, again := false }
  else
    let ts := wordOf (s.tbOf c.regTs.1)
    let s := s.putSar h { c with reg := none, again := false, regCnt := c.regCnt + 1, idleAt := x }
    let s := ((s.wr (R.sarRegTs h) ts).sigWrite (s.rdF (R.sarTsSig k) 11 0) ts c.regTs.2).post (9 + k) 0
    s.sarFireAt (0x10 + k) x

/-- `SAR_CONVERSION_END`: the conversion in hand of converter `k` ends, on its own edge, with the raw code `raw`; the next entry, a restart, a
held sequence or the end of the sequence follows on that edge, and then the triggers that waited for it (R70, R78, R82, R84). -/
def State.sarConvEnd (s : State) (k : Nat) (raw : Int) : State :=
  let s := s.sarCatch k
  let h := s.sarHw k
  let c := s.sar h
  match s.sarDue k with
  | none => s
  | some x =>
    if s.clk.now < x then s
    else match c.inj, c.reg with
      | some i, _ => (s.sarInjEnd k h i x raw).sarCatch k
      | none, some i => (s.sarRegEnd k h i x raw).sarCatch k
      | none, none => s

/-! ### Calibration (R87–R91) -/

/-- A calibration of converter `k`'s group is requested; one pending or running takes it in (R87, R88). -/
def State.sarCalReq (s : State) (k : Nat) : State :=
  if s.sarEn k then
    s.each (s.sarMembers k) (fun s j =>
      let h := s.sarHw j
      let c := s.sar h
      if c.calReq.isSome then s else s.putSar h { c with calReq := some s.clk.now })
  else s

/-- `CALIBRATION_START`: a pending calibration of converter `k`'s group starts on the first SAR edge on which it may (R88). -/
def State.sarCalStart (s : State) (k : Nat) : State := s.sarCatch k

/-- The magnitude of converter `k`'s calibration offset. -/
def State.sarOffMag (s : State) (k : Nat) : Nat := (signedOf 16 (s.rdF (R.sarCalRes (s.sarHw k)) 15 0)).natAbs

/-- A calibration of converter `k` gives its offset and gain: they take effect, or the calibration fails (R91). -/
def State.sarCalTake (s : State) (k : Nat) (off : Int) (gain : Nat) : State :=
  let h := s.sarHw k
  let bad := decide (64 < off.natAbs) || decide (327 < ((gain : Int) - 32768).natAbs)
  if bad then ((s.wrB (R.sarStatus h) 7 true).post (9 + k) 3).retireSar k
  else
    let s := s.wr (R.sarCalRes h) (wordN (gain % 65536 * 65536 + (off % 65536).toNat))
    let s := ((s.wrB (R.sarStatus h) 7 false).wrB (R.sarStatus h) 6 true).countUp (R.sarCalStat h) 15 0 1
    let us := (List.range 24).filter s.sarEn
    (s.post (9 + k) 2).wearWorst 5 us s.sarOffMag State.retireSar

/-- The calibration of hardware `h` ends on edge `x`. -/
def State.sarCalDone (s : State) (h x : Nat) : State := s.putSar h { s.sar h with calAt := none, calReq := none, calEnd := x }

/-- `CALIBRATION_END`: the calibration in hand of converter `k` ends on its own edge, 512 conversion times after its start, with the measured
offset and gain (R87, R91). -/
def State.sarCalEnd (s : State) (k : Nat) (off : Int) (gain : Nat) : State :=
  let s := s.sarCatch k
  let h := s.sarHw k
  match (s.sar h).calAt, s.sarDue k with
  | some _, some x =>
    if s.clk.now < x then s else (((s.sarCalDone h x).sarCalTake k off gain).sarResume h x).sarCatch k
  | _, _ => s

/-- `CAL_AUTO`: the automatic interval of converter `k` expires (R87). -/
def State.sarCalAuto (s : State) (k : Nat) : State :=
  let n := s.rdF (R.sarCalCfg k) 15 0
  if n ≠ 0 ∧ s.sarLeader k = k ∧ (s.sar (s.sarHw k)).calEnd + n * second ≤ s.clk.now then s.sarCalReq k else s

/-- `CAL_STARVED`: no calibration of converter `k` has completed within 100 ms of its request (R90). -/
def State.sarStarved (s : State) (k : Nat) : State :=
  let h := s.sarHw k
  match (s.sar h).calReq with
  | some x => if x + 100 * msec ≤ s.clk.now then s.raise (R.sarStatus h) 8 else s
  | none => s

end Sys2Proof.Machine
end

