-- ==== Sys2Proof/Machine/Mod.lean ====
section
/-! DEFINITION. The modulator of the `MODULATE` step and the converter-trigger compares (*PWM timebase and slices*, R229–R232, R234). -/

namespace Sys2Proof.Machine

/-! ### References (R230) -/

def State.modEn (s : State) (u : Nat) : Bool := s.rdB (R.pwmModCfg u) 31
def State.legPhase (s : State) (g : Nat) : Nat := s.rdF (R.pwmLegCfg g) 15 14
def State.legMod (s : State) (g : Nat) : Nat := s.rdF (R.pwmLegCfg g) 18 16

/-- The signals that leg unit `g` reads: `SIG_M` of a direct leg, else those of its modulator. -/
def State.modSignals (s : State) (g : Nat) : List Nat :=
  if s.legPhase g = 3 then [s.rdF (R.pwmLegCfg g) 11 0]
  else
    let u := s.legMod g
    let z := s.rdF (R.pwmModSig2 u) 11 0
    [s.rdF (R.pwmModSig0 u) 11 0, s.rdF (R.pwmModSig0 u) 27 16, s.rdF (R.pwmModSig1 u) 11 0, s.rdF (R.pwmModSig1 u) 27 16] ++
      (if z = 0xFFF then [] else [z])

/-- m_a, m_b and m_c of modulator `u` as thread `n` reads its signals, before the zero sequence: every stage in Q4.28, products rounded
half up (R9, R230). -/
def State.modPhases (s : State) (n u : Nat) : List Int :=
  let v (i : Nat) : Int := sval (s.sigStep n i).val
  let vd := v (s.rdF (R.pwmModSig0 u) 11 0)
  let vq := v (s.rdF (R.pwmModSig0 u) 27 16)
  let th := (s.sigStep n (s.rdF (R.pwmModSig1 u) 11 0)).val.toNat
  let vdc := max (v (s.rdF (R.pwmModSig1 u) 27 16)) pu01
  let a := sat32 (shrRound (vd * cosQ th - vq * sinQ th) 28)
  let b := sat32 (shrRound (vd * sinQ th + vq * cosQ th) 28)
  let h := sat32 (shrRound (b * 232471924) 28)
  let c := shrRound (-a) 1
  let km := s.rdS (R.pwmModKm u)
  [a, sat32 (c + h), sat32 (c - h)].map (fun x => sat32 (divR 24 (sat32 (shrRound (km * x) 28) * 2 ^ 28) vdc))

/-- The reference of leg unit `g` before the clamp (R230). -/
def State.modRef (s : State) (n g : Nat) : Int :=
  if s.legPhase g = 3 then sval (s.sigStep n (s.rdF (R.pwmLegCfg g) 11 0)).val
  else
    let u := s.legMod g
    let ms := s.modPhases n u
    let m := nth 0 ms (s.legPhase g)
    let hi := ms.foldl max (nth 0 ms 0)
    let lo := ms.foldl min (nth 0 ms 0)
    let m := if s.rdF (R.pwmModCfg u) 1 0 = 1 then sat32 (m - shrRound (hi + lo) 1) else m
    let z := s.rdF (R.pwmModSig2 u) 11 0
    if z = 0xFFF then m else sat32 (m + sval (s.sigStep n z).val)

/-! ### Lists (R231, R232) -/

/-- The word of an entry: `V`, `BLK`, `STATE`, `OFFSET` (R223); `none` is a `BLK` entry. -/
def entryWord (st : Option Nat) (off : Nat) : Word :=
  match st with
  | some c => wordN (2 ^ 31 + c * 2 ^ 27 + off)
  | none => wordN (2 ^ 31 + 2 ^ 30 + off)

/-- Four words of a list of entries over an interval, without the entries that would open a dwell of zero length. -/
def listWords (len : Nat) (es : List (Nat × Option Nat)) : List Word :=
  let ends := es.tail.map (·.1) ++ [len]
  let live := (es.zip ends).filter (fun e => decide (e.1.1 < e.2))
  padTo 0#32 4 (live.map (fun e => entryWord e.1.2 e.1.1))

/-- Code of state P and of state N: all A levels on, all off. -/
def codeP : Nat := 6
def codeN : Nat := 1

/-- The list of R231 for a clamped reference `m`; `T` is the timebase instant of the reload it is for. -/
def State.modWords (s : State) (g : Nat) (m T : Int) : List Word :=
  let c := s.slCar (3 * g)
  let len := s.carLen c
  let act := if 0 ≤ m then codeP else codeN
  let zs := if 0 ≤ m then s.rdF (R.pwmLegStates g) 2 0 else s.rdF (R.pwmLegStates g) 6 4
  let w (x : Int) (k : Nat) : Nat := (shrRound (x * k) 28).toNat
  let d : Int := m.natAbs
  let one : Int := 2 ^ 28
  if s.carReload c = 3 then
    if s.carPos c T = 0 then listWords len [(0, some zs), (len - w d len, some act)]
    else listWords len [(0, some act), (w d len, some zs)]
  else listWords len [(0, some zs), (w (one - d) (len / 2), some act), (w (one + d) (len / 2), some zs)]

/-- The rail that `ASC_RAIL` of unit `u` names for leg unit `g` (R232). -/
def State.ascRail (s : State) (u g : Nat) : Nat :=
  match s.rdF (R.vecCfg u) 20 19 with
  | 0 => codeN
  | 1 => codeP
  | _ => s.rdF (R.pwmLegStates g) 2 0

/-- A list that the state of the vector unit or of the engine dictates (R232). -/
def State.modForced (s : State) (n g : Nat) : Option (List Word) :=
  let u := s.legMod g
  let len := s.carLen (s.slCar (3 * g))
  if s.legPhase g = 3 then none
  else if u % 2 = 1 then
    if s.gfeState (u / 2) = 0 then some (listWords len [(0, none)]) else none
  else if (s.vec u).pulse && s.vecState u == 2 then
    let last := s.seqP n - s.closeLag n - s.seqAdv n
    let w := 320 * s.rdF (R.vecFlyZv u) 15 0
    some (listWords len [(0, none), (last - w, some (s.ascRail u g)), (last, none)])
  else
    match s.vecPulses u with
    | 0 => some (listWords len [(0, none)])
    | 2 => some (listWords len [(0, some (s.ascRail u g))])
    | _ => none

/-- The leg's list is formed (R229–R232): the words, whether the clamp acts, whether an unusable input holds the list. -/
def State.modLeg (s : State) (n g : Nat) : List Word × Bool × Bool :=
  match s.modForced n g with
  | some ws => (ws, false, false)
  | none =>
    if (s.modSignals g).any (fun i => !s.usable (s.sigStep n i).qual) then ((s.leg g).shadow, s.rdB (R.pwmLegStatus g) 9, true)
    else
      let m := s.modRef n g
      let k := clampI (-(2 ^ 28)) (2 ^ 28) m
      let T := s.tbOf (s.seq n).sampleAt + s.seqP n + s.seqAdv n
      (s.modWords g k T, decide (k ≠ m), false)

/-- The legs of thread `n` named by a mask: in ANPC mode and owned by the thread (R229). -/
def State.modLegs (s : State) (n mask : Nat) : List Nat :=
  ((List.range 7).filter (fun l => natBit mask l)).map (s.legOf n) |>.filter
    (fun g => s.legMode g == 1 && s.slOwner (3 * g) == n)

/-- The `MODULATE` step of thread `n` (R229). A leg whose modulator is not enabled gets no list. -/
def State.modulateStep (s : State) (n mask : Nat) : State :=
  s.each (s.modLegs n mask) (fun s g =>
    if s.legPhase g ≠ 3 && !s.modEn (s.legMod g) then s
    else
      let r := s.modLeg n g
      let s := s.setLeg g { s.leg g with modList := r.1, modNew := true }
      let s := s.wrB (R.pwmLegStatus g) 9 r.2.1
      s.raiseIf r.2.2 (R.pwmModStatus (s.legMod g)) 0)

/-! ### Pending commits (R37, R219, R221) -/

/-- The enabled slices that thread `n` owns. -/
def State.ownedSlices (s : State) (n : Nat) : List Nat := (List.range 128).filter (fun i => s.slEn i && s.slOwner i == n)

/-- The leg units with an enabled slice that thread `n` owns. -/
def State.ownedLegs (s : State) (n : Nat) : List Nat :=
  (List.range 42).filter (fun g => [3 * g, 3 * g + 1, 3 * g + 2].any (fun i => s.slEn i && s.slOwner i == n))

/-- The links that carry a leg of thread `n`. -/
def State.threadLinks (s : State) (n : Nat) : List Nat :=
  (s.ownedLegs n).filterMap (fun g => if s.legRoute g = 1 then some (s.legLink g) else none)

/-- The `COMMIT` step: the lists of the modulator become the pending sets (R219). -/
def State.commitStep (s : State) (n : Nat) : State :=
  s.each (s.ownedLegs n) (fun s g =>
    let l := s.leg g
    if l.modNew then s.setLeg g { l with pend := some l.modList } else s)

/-- The pending sets of thread `n` are released at a sample instant (R37). -/
def State.releaseSets (s : State) (n : Nat) : State :=
  s.each (s.ownedLegs n) (fun s g =>
    match (s.leg g).pend with
    | some ws => (s.commitLeg g ws).setLeg g { (s.commitLeg g ws).leg g with pend := none, modNew := false }
    | none => s.setLeg g { s.leg g with modNew := false })

/-- The coming interval of every ANPC leg unit and independent slice of thread `n` is judged at its release, and its edges go to the links; the
reload is at instant `x` (R37, R226, R242). -/
def State.prepareOwned (s : State) (n x : Nat) : State :=
  let s := s.each ((s.ownedLegs n).filter (fun g => s.legMode g == 1)) (fun s g => s.prepareLeg g x)
  s.each ((s.ownedSlices n).filter (fun i => !s.slAnpc i)) (fun s i => s.prepareSlice i x)

/-- The pending sets of thread `n` are discarded (R37, R39). -/
def State.dropSets (s : State) (n : Nat) : State :=
  s.each (s.ownedLegs n) (fun s g => s.setLeg g { s.leg g with pend := none, modNew := false })

/-! ### Converter triggers (R234) -/

/-- The register of compare `k` of slice `i`. -/
def trgReg (i k : Nat) : Nat := if k = 0 then R.pwmSliceTrg0 i else R.pwmSliceTrg1 i

/-- `TRG_COMPARE`: compare `k` of slice `i` fires where its carrier's position is the compare's. -/
def State.trgCompare (s : State) (i k : Nat) : State :=
  let c := s.slCar i
  if s.rdB (trgReg i k) 31 && s.carOn c && s.carPos c s.tb == 32 * s.rdF (trgReg i k) 20 0 then
    (s.sarFire (0x100 + 2 * i + k)).recFireNow (0x400 + 2 * i + k)
  else s

end Sys2Proof.Machine
end

