-- ==== Sys2Proof/Machine/Cwy.lean ====
section
/-! DEFINITION. Twin operation and the Causeway: frames, time, digests, latched signals, mirrored writes, claims and role-addressed
messages (*Twin operation and the Causeway*, R318–R340). -/

namespace Sys2Proof.Machine

def State.setThr (s : State) (n : Nat) (v : TwinThr) : State :=
  { s with twin := { s.twin with thr := tabSet (fun _ => TwinThr.init) s.twin.thr n v } }
/-- Whether the device is configured as half of a twin (R318). -/
def State.twinOn (s : State) : Bool := s.rdB R.sysState 7 || (s.rdB R.sysStrap 1 && s.rdF R.sysState 2 0 == 1)
def State.cwyUp (s : State) : Bool := s.rdB R.cwyStatus 31
def State.lanesUp (s : State) : Bool := s.rdF R.cwyStatus 30 27 == 15
def State.senior (s : State) : Bool := s.rdB R.cwyStatus 25
def State.leader (s : State) : Bool := s.rdB R.cwyStatus 24
def State.inStep (s : State) (n : Nat) : Bool := s.rdB (R.cwyThrStatus n) 31
def State.parInStep (s : State) (n : Nat) : Bool := s.rdB (R.cwyThrStatus n) 29

/-! ### Frames (R320–R322) -/

/-- The words of a frame (Table 15.1). -/
def cwyFrame (ty thread : Nat) (fwd : Bool) (fseq period : Nat) (payload : List Dword) : List Dword :=
  let w0 : Dword := BitVec.ofNat 64 (ty * 2 ^ 56 + thread * 2 ^ 52 + b2n fwd * 2 ^ 51 + payload.length * 2 ^ 40 + fseq % 2 ^ 32)
  let body := (w0 :: payload).flatMap (fun w => bytesLE 8 w.toNat)
  let crc := crc32c (body ++ bytesLE 4 (period % 2 ^ 32))
  (w0 :: payload) ++ [BitVec.ofNat 64 (period % 2 ^ 32 * 2 ^ 32 + crc)]

/-- A frame is sent while the lanes are up; thread 15 names no thread. -/
def State.cwySend (s : State) (ty thread : Nat) (fwd : Bool) (payload : List Dword) : State :=
  if !s.lanesUp then s
  else
    let p := if thread < 4 then (s.seq thread).periods else 0
    let f := cwyFrame ty thread fwd s.twin.txSeq p payload
    { s with twin := { s.twin with txSeq := (s.twin.txSeq + 1) % 2 ^ 32, sent := tabSet (fun _ => []) s.twin.sent ty f } }

/-- Reception of a frame (R321): none where it is discarded and counted, or a refused twin or a device outside one hears it. -/
def State.cwyReceive (s : State) (h : CwyHdr) : State × Bool :=
  if !s.twinOn || !s.lanesUp then (s, false)
  else if !h.ok then (s.countUp R.cwyCount 15 0 1, false)
  else
    let f := h.fseq.toNat
    let gap := match s.twin.rxSeq with
      | some x => (f + 2 ^ 32 - (x + 1)) % 2 ^ 32
      | none => 0
    let s := s.countUp R.cwyCount 31 16 gap
    ({ s with twin := { s.twin with rxSeq := some f, rxAt := some s.clk.now } }, !s.twin.refused)

/-! ### Role and messages (R335, R338, R339) -/

/-- A forwarded message is sent, or dropped while the Causeway is down and after the last retry (R339); one that a frame of 120 words does not
hold cannot be delivered either (log 98). -/
def State.msgSend (s : State) (ep : Nat) (bytes : List Byte) (tries : Nat) : State :=
  if !s.cwyUp || decide (4 ≤ tries) || decide (119 * 8 < bytes.length) then (s.countUp R.cwyFwd 7 0 1).post 89 0x20
  else
    let n := s.rdF (R.cwyEp ep) 30 28
    let pad := bytes ++ List.replicate ((8 - bytes.length % 8) % 8) 0#8
    let ws : List Dword := (List.range (pad.length / 8)).map (fun i => BitVec.ofNat 64 (natLE ((pad.drop (8 * i)).take 8)))
    let f := s.twin.txSeq
    let s := s.cwySend 8 n true (BitVec.ofNat 64 (ep + bytes.length * 2 ^ 16) :: ws)
    let s := if tries = 0 then s.countUp R.cwyFwd 31 20 1 else s
    { s with twin := { s.twin with msgs := s.twin.msgs ++ [⟨f, ep, bytes, tries, s.clk.now⟩] } }

/-- The bytes of a class-A frame. -/
def canRxBytes (r : CanRx) : List Byte := r.words.flatMap (fun w => bytesLE 4 w.toNat)

/-- A role-bound message not yet consumed: its place in the order of acceptance, in which those that the partner forwarded come first; whether
it was accepted in the running fabric cycle; its endpoint and bytes. -/
structure BoundMsg where
  key : Nat
  fresh : Bool
  ep : Nat
  bytes : List Byte

/-- The messages in the order of their acceptance. -/
def byAccept (l : List BoundMsg) : List BoundMsg :=
  l.foldl (fun a x => a.takeWhile (fun y => decide (y.key ≤ x.key)) ++ [x] ++ a.dropWhile (fun y => decide (y.key ≤ x.key))) []

/-- The message that was accepted at instant `acc`. -/
def State.boundMsg (s : State) (j acc : Nat) (fwd : Bool) (bytes : List Byte) : BoundMsg :=
  ⟨if fwd then 0 else acc + 1, !fwd && decide (acc / fabCycle = s.clk.now / fabCycle), j, bytes⟩

/-- The unconsumed messages of endpoint `j`, and the state without them. -/
def State.endpointTake (s : State) (j : Nat) : State × List BoundMsg :=
  let e := s.rd (R.cwyEp j)
  if fieldOf e 27 26 = 0 then
    let k := fieldOf e 25 24
    let b := fieldOf e 18 16
    (s.setRxa k b [], (s.rxa k b).map (fun r => s.boundMsg j r.acc r.fwd (canRxBytes r)))
  else
    let here := s.eth.host.filter (fun f => f.ep == some j) ++
      (List.range 8).flatMap (fun q => (s.ethQueue 2 q).filter (fun f => f.ep == some j))
    let x := { s with eth := { s.eth with host := s.eth.host.filter (fun f => f.ep != some j) } }
    (x.each (List.range 8) (fun s q => s.setEthQueue 2 q ((s.ethQueue 2 q).filter (fun f => f.ep != some j))),
      here.map (fun f => s.boundMsg j f.acc f.fwd f.bytes))

/-- The device has lost the role of thread `n`: what it accepted for it and nobody consumed is forwarded in the order of acceptance (R339);
what came in the fabric cycle of the change is discarded as if after it (R338). -/
def State.msgForward (s : State) (n : Nat) : State :=
  let js := (List.range 16).filter (fun j => s.rdB (R.cwyEp j) 31 && s.rdF (R.cwyEp j) 30 28 == n)
  let r := js.foldl (fun (r : State × List BoundMsg) j =>
    let x := r.1.endpointTake j
    (x.1, r.2 ++ x.2)) (s, [])
  (byAccept r.2).foldl (fun s m => if m.fresh then s.countUp R.cwyFwd 19 8 1 else s.msgSend m.ep m.bytes 0) r.1

/-- The device has gained the role of thread `n`: what it discarded in this fabric cycle it accepts (R338). -/
def State.roleAccept (s : State) (n : Nat) : State :=
  let c := s.clk.now / fabCycle
  let ms := s.twin.ignored.filter (fun x => x.cyc == c && x.thread == n)
  let s := { s with twin := { s.twin with ignored := s.twin.ignored.filter (fun x => x.thread != n) } }
  ms.foldl (fun s m =>
    let k := s.rdF R.cwyFwd 19 8
    let s := if k = 4095 then s else s.wrF R.cwyFwd 19 8 (k - 1)
    match m.dest with
    | .inl x => s.canPutA x.1 x.2.1 x.2.2
    | .inr f => s.ethEnqueue 2 f) s

/-- `SENDING`, `PRIMARY` and `TWIN_ROLE` of thread `n` follow the decisions in force (R335); a single device shows no role (Table 1.4). -/
def State.twinRole (s : State) (n : Nat) : State :=
  if !s.rdB R.sysState 7 then s
  else
    let sending := !s.silent n
    let prim := sending && (!s.partner || !s.rdB (R.cwyThrStatus n) 28 || (s.senior && !s.anyHold))
    let was := s.rdB (R.cwyThrStatus n) 27
    let old := s.rdB (R.cwyThrStatus n) 30
    let v := s.thr n
    let s := if old = sending ∨ v.silAt.any (fun x => x.1 == s.clk.now) then s else s.setThr n { v with silAt := some (s.clk.now, !old) }
    let s := ((s.wrB (R.cwyThrStatus n) 30 sending).wrB (R.cwyThrStatus n) 27 prim).wrB R.sysState (8 + n) prim
    if was = prim then s
    else
      let s := (s.countUp (R.cwyThrCount1 n) 15 0 1).post 89 (0x40 + 2 * n + b2n prim)
      if was then s.msgForward n else s.roleAccept n

/-- The links of thread `n` have their sources judged again (R333). -/
def State.twinLinks (s : State) (n : Nat) : State := s.each (s.threadLinks n) (fun s l => s.linkSources l)

/-- The device leaves step for thread `n` with a cause of Table 15.5 (R331). -/
def State.leaveStep (s : State) (n cause : Nat) : State :=
  if !s.inStep n then s
  else
    let s := (s.wrB (R.cwyThrStatus n) 31 false).wrF (R.cwyThrStatus n) 15 12 cause
    let s := s.setThr n { s.thr n with mism := 0, good := 0, snap := [], snapAt := none, snapFails := 0 }
    (s.post 89 (0x10 + cause)).twinRole n

/-- The device is in step again for thread `n` (R332). -/
def State.enterStep (s : State) (n : Nat) : State :=
  let s := (s.wrB (R.cwyThrStatus n) 31 true).wrF (R.cwyThrStatus n) 15 12 0
  let s := s.countUp (R.cwyThrCount1 n) 31 16 1
  (s.post 89 0x18).twinRole n

/-! ### Digests (R329, R330) -/

/-- The CRC-64 of R329 from the register value `c`. -/
def crc64 (bs : List Byte) (c : Nat) : Nat := crcBytesL 64 0x42F0E1EBA9EA3693 bs c

/-- All ones. -/
def crc64Init : Nat := 2 ^ 64 - 1

/-- Value and quality of a signal as digest bytes. -/
def sigBytes (v : SigVal) : List Byte := bytesLE 4 v.val.toNat ++ bytesLE 2 v.qual.toNat

/-- The signals of thread `n`'s domain that hold a value written in the running period, ascending. -/
def State.filledSignals (s : State) (n : Nat) : List Nat := (tabKeys s.sig.fill).filter (fun i => s.sigDomain i == n)

/-- The input digest of thread `n`, formed at the end of `FILTER_CLOSE` from what the step wrote, the latched values and the counts of
the position interfaces (R329, log 50). -/
def State.inputDigest (s : State) (n : Nat) : Nat :=
  let ws := (s.filledSignals n).filter (fun i => decide (i < 4064))
  let a := ws.flatMap (fun i => sigBytes ((s.sigFill i).getD SigVal.unwritten))
  let b := (tabGet (fun _ => []) s.sig.latched n).flatMap (fun x => bytesLE 4 x.2.val.toNat)
  let c := ((List.range 4).filter (fun k => s.posUser n k)).flatMap (fun k => bytesLE 4 (s.pos k).count)
  crc64 (a ++ b ++ c) crc64Init

/-- The edges that the pending sets of thread `n` give its links, as `EMIT` hands them over: what the release at the coming sample instant
will schedule (R35, R329). -/
def State.emitEdges (s : State) (n : Nat) : List (Nat × Edge) :=
  let t := (s.seq n).sampleAt + s.seqP n
  let f : State := ({ s with clk := { s.clk with now := t } }).releaseSets n
  let f := f.prepareOwned n (t + f.seqAdv n)
  (s.threadLinks n).flatMap (fun l =>
    let old := (s.link l).edges.map (fun e => (e.ch, e.level, e.at_))
    ((f.link l).edges.filter (fun e => !old.contains (e.ch, e.level, e.at_))).map (fun e => (l, e)))

/-- The state digest of thread `n`; the words of vector units and engine, whose layout no rule gives, enter as a free value (R329,
log 50). -/
def State.stateDigest (s : State) (n : Nat) : Nat :=
  let skip := [1, 2, 4, 5, 6].map (fun k => 4064 + 8 * n + k)
  let sigs := (List.range 4096).filter (fun i => s.sigDomain i == n && !skip.contains i && (bitOf (s.sigDecl i) 31 || decide (4064 ≤ i)))
  let a := sigs.flatMap (fun i => sigBytes ((s.sigFill i).getD (s.sigStable i)))
  let b := (s.threadCtx n).flatMap (fun c =>
    let v := s.ctx c
    [v.i, v.d, v.x, v.u, v.delta].flatMap (fun x => bytesLE 4 (wordOf x).toNat) ++ bytesLE 4 (v.left * 2 ^ 16 + b2n v.active)
      ++ bytesLE 4 v.status ++ bytesLE 4 v.runs)
  let u := bytesLE 4 s.freshWord.toNat
  let e := (s.emitEdges n).flatMap (fun x =>
    bytesLE 2 x.2.num ++ bytesLE 1 x.2.ch ++ bytesLE 1 (b2n x.2.level) ++ bytesLE 2 x.2.prof ++ bytesLE 8 x.2.at_)
  crc64 (a ++ b ++ u ++ e) crc64Init

/-- The health h of thread `n` (R333, Table 15.3). -/
def State.healthOf (s : State) (n : Nat) : Nat :=
  let ps := (List.range 128).filter (fun p => s.pairEn p && s.pairThread p == n)
  let st (p : Nat) : Nat := s.pairState p
  let bad := ps.any (fun p => st p == 3 || st p == 5)
  let weak := ps.any (fun p => st p == 4 || st p == 2)
  let called := (List.range 64).filterMap (fun k =>
    let w := s.rd (R.seqStep n k)
    if fieldOf w 31 28 = 0xA then some (fieldOf w 21 16) else none)
  let fail := called.any (fun p => s.rdB (R.smonWdReact p) 8)
  let down := (s.threadLinks n).any (fun l => !s.rdB (R.stlStatus l) 7)
  let sub := (List.range 16).any (fun j => s.subActive j && s.chThread (s.subPrimary j) == n)
  max 1 (15 - (6 * b2n bad + 2 * b2n weak + 8 * b2n fail + 4 * b2n down + b2n sub))

/-- Health is computed at `POST`; `STL_CLAIM.HEALTH` shows the lowest of the running threads (R333). -/
def State.healthPost (s : State) (n : Nat) : State :=
  if !s.twinOn then s
  else
    let s := s.wrF (R.cwyThrStatus n) 23 20 (s.healthOf n)
    let run := [0, 1, 2, 3].filter (fun k => s.rdB R.sysState (12 + k))
    s.wrF R.stlClaim 3 0 (run.foldl (fun a k => min a (s.rdF (R.cwyThrStatus k) 23 20)) 15)

/-- A digest with the others of its list; the last four are kept. -/
def digPut (d : Digest) (l : List Digest) : List Digest := (d :: l.filter (fun x => x.period != d.period)).take 4

/-- A mismatch of thread `n` of kind 1 (input), 2 (state) or 3 (missing) (R330). -/
def State.digBad (s : State) (n kind : Nat) : State :=
  let s := match kind with
    | 1 => s.countUp (R.cwyThrCount0 n) 31 16 1
    | 2 => s.countUp (R.cwyThrCount0 n) 15 0 1
    | _ => s
  let v := s.thr n
  let s := s.setThr n { v with mism := v.mism + 1, good := 0 }
  if s.rdF R.cwyCfg 23 20 ≤ v.mism + 1 ∧ s.inStep n ∧ !s.rdB (R.cwyThrStatus n) 27 then s.leaveStep n kind else s

/-- The digests of `period` are compared once both have arrived (R330). -/
def State.digCompare (s : State) (n period : Nat) : State :=
  let v := s.thr n
  match v.own.find? (fun d => d.period == period), v.par.find? (fun d => d.period == period) with
  | some a, some b =>
    match a.crcs, b.crcs with
    | some x, some y =>
      if x = y then
        let s := s.setThr n { v with mism := 0, good := v.good + 1 }
        if !s.inStep n && !s.twin.refused && decide (s.rdF R.cwyCfg 19 16 ≤ v.good + 1) then s.enterStep n else s
      else s.digBad n (if x.1 = y.1 then 2 else 1)
    | _, _ => s
  | _, _ => s

/-- `POST` with bit 1: the digests are formed and posted (R329, R330, R333). -/
def State.twinPost (s : State) (n : Nat) : State :=
  if !s.twinOn then s
  else
    let x := (s.thr n).input
    let y := s.stateDigest n
    let s := s.tookFree
    let st := s.rd (R.cwyThrStatus n)
    let fl := fieldOf st 23 20 + b2n (bitOf st 31) * 16 + b2n (bitOf st 30) * 32 + b2n (bitOf st 26) * 64
    let s := s.cwySend 3 n false [BitVec.ofNat 64 x, BitVec.ofNat 64 y, BitVec.ofNat 64 fl]
    let p := (s.seq n).periods % 2 ^ 32
    let s := s.setThr n { s.thr n with own := digPut ⟨p, some (x, y), fl, s.clk.now⟩ (s.thr n).own }
    let s := s.setSeq n { s.seq n with posted := true }
    if s.cwyUp then s.digCompare n p else s

/-- An overrun marker takes the place of the digest of a late period (R39). -/
def State.twinOverrun (s : State) (n : Nat) : State :=
  if !s.twinOn then s
  else
    let s := s.cwySend 4 n false []
    let p := (s.seq n).periods % 2 ^ 32
    s.setThr n { s.thr n with own := digPut ⟨p, none, 0, s.clk.now⟩ (s.thr n).own }

/-- `CWY_DIGEST_FRAME` (R330). A digest that comes after its time-out, where it has counted as a mismatch, is not compared again. -/
def State.cwyDigest (s : State) (h : CwyHdr) (input state flags : Nat) : State :=
  let r := s.cwyReceive h
  if !r.2 then r.1
  else
    let n := h.thread.val
    let s := r.1
    let p := h.period.toNat
    let s := s.wrF (R.cwyThrStatus n) 19 16 (natBits flags 3 0)
    let s := (s.wrB (R.cwyThrStatus n) 29 (natBit flags 4)).wrB (R.cwyThrStatus n) 28 (natBit flags 5)
    let s : State := if (s.thr n).par.any (fun x => x.period == p) then s
      else (s.setThr n { s.thr n with par := digPut ⟨p, some (input, state), flags, s.clk.now⟩ (s.thr n).par }).digCompare n p
    (s.twinRole n).twinLinks n

/-- `CWY_OVERRUN_FRAME`: the period is not compared (R330). -/
def State.cwyOverrun (s : State) (h : CwyHdr) : State :=
  let r := s.cwyReceive h
  if !r.2 then r.1
  else
    let n := h.thread.val
    r.1.setThr n { r.1.thr n with par := digPut ⟨h.period.toNat, none, 0, r.1.clk.now⟩ (r.1.thr n).par }

/-- `DIGEST_TIMEOUT`: the partner's digest has not arrived 5 µs after the own one was posted (R330). -/
def State.digestTimeout (s : State) (n : Nat) : State :=
  match (s.thr n).own with
  | d :: _ =>
    if s.cwyUp && d.crcs.isSome && decide (d.at_ + 5 * usec ≤ s.clk.now) && (s.thr n).par.all (fun x => x.period != d.period) then
      let s := s.setThr n { s.thr n with par := digPut ⟨d.period, none, 0, s.clk.now⟩ (s.thr n).par }
      s.digBad n 3
    else s
  | [] => s

/-! ### The sample instant (R326, R328, R334) -/

/-- `END` is reached: two `END` frames are sent (R328). -/
def State.twinEnd (s : State) (n : Nat) : State := if s.twinOn then (s.cwySend 1 n false []).cwySend 1 n false [] else s

/-- `CWY_END_FRAME` (R328). -/
def State.cwyEnd (s : State) (h : CwyHdr) : State :=
  let r := s.cwyReceive h
  if !r.2 then r.1
  else r.1.setThr h.thread.val { r.1.thr h.thread.val with parEnd := some (h.period.toNat, r.1.clk.now) }

/-- The further conditions of R328 for a period whose `END` was reached at `e`. -/
def State.twinOnTime (s : State) (n e : Nat) : Bool :=
  if s.twinOn && s.cwyUp && s.inStep n && s.parInStep n then
    let heard := match s.twin.rxAt with
      | some x => decide (s.clk.now ≤ x + 2 * usec)
      | none => false
    let got := match (s.thr n).parEnd with
      | some x => x.1 == (s.seq n).periods % 2 ^ 32 && decide (x.2 < s.clk.now)
      | none => false
    decide (e + usec ≤ s.clk.now) && (got || !heard)
  else true

/-- The signals listed in `CWY_LATCH_j` for thread `n`, at most 120. -/
def State.latchSignals (s : State) (n : Nat) : List Nat :=
  ((List.range 256).filterMap (fun j =>
    let w := s.rd (R.cwyLatch j)
    if bitOf w 31 && fieldOf w 30 28 == n then some (fieldOf w 11 0) else none)).take 120

/-- The words of a `LATCH` frame. -/
def latchWords (xs : List (Nat × SigVal)) : List Dword :=
  xs.map (fun x => BitVec.ofNat 64 (x.1 * 2 ^ 48 + x.2.qual.toNat * 2 ^ 32 + x.2.val.toNat))

/-- Latched signals at a sample instant (R326): those of the last instant come into force, and the primary takes the next ones. -/
def State.twinLatch (s : State) (n : Nat) : State :=
  if !s.twinOn then s
  else
    let v := s.thr n
    let s := { s with sig := { s.sig with latched := tabSet (fun _ => []) s.sig.latched n v.latch } }
    if s.rdB (R.cwyThrStatus n) 27 then
      let xs := (s.latchSignals n).map (fun i => (i, s.sigStable i))
      let s := s.setThr n { v with latch := xs }
      if xs = [] then s else s.cwySend 5 n false (latchWords xs)
    else s.setThr n { v with latch := [] }

/-- `CWY_LATCH_FRAME` (R326). -/
def State.cwyLatch (s : State) (h : CwyHdr) (xs : List (BitVec 12 × Qual × Word)) : State :=
  let r := s.cwyReceive h
  let n := h.thread.val
  if !r.2 || r.1.rdB (R.cwyThrStatus n) 27 then r.1
  else r.1.setThr n { r.1.thr n with latch := xs.map (fun x => (x.1.toNat, ⟨x.2.2, x.2.1⟩)) }

/-- The send rule at a sample instant of thread `n` (R334), with the digests of the period two before the one that begins now: the one before
the period that ends. Where none ends, or the first one does, there are none, and the decision stays (log 98). -/
def State.yieldEval (s : State) (n : Nat) : State :=
  if !s.twinOn || !s.partner || !s.cwyUp || !s.rdB (R.seqStatus n) 0 || (s.seq n).first then s
  else
    let p := ((s.seq n).periods + 2 ^ 32 - 1) % 2 ^ 32
    let v := s.thr n
    match v.own.find? (fun d => d.period == p), v.par.find? (fun d => d.period == p) with
    | some a, some b =>
      if a.crcs.isNone || b.crcs.isNone then s
      else
        let me := s.senior
        let sen := if me then a else b
        let jun := if me then b else a
        let hs := natBits sen.flags 3 0
        let hj := natBits jun.flags 3 0
        let jin := if me then s.parInStep n else s.inStep n
        let why := jin && (decide (hs < hj) || (hs == hj && s.rdB R.cwyCfg (24 + n)) || s.rdB R.cwyYield n)
        let ret := if why then 0 else v.ret + 1
        let yld := jin && (why || (v.yield_ && decide (ret < s.rdF R.cwyCfg 15 8)))
        let s := s.setThr n { v with yield_ := yld, ret := if yld then ret else 0 }
        let s := if me then s.wrB (R.cwyThrStatus n) 26 yld else s.wrB (R.cwyThrStatus n) 28 (!yld && s.parInStep n || !s.inStep n)
        s.twinRole n
    | _, _ => s

/-! ### Snapshots (R332) -/

/-- One item of a snapshot replaces the state it names. -/
def State.snapTake (s : State) (n : Nat) : SnapItem → State
  | .signal i v => if s.sigDomain i = n then s.setFill i (some v) else s
  | .ctx c v => s.setCtx c v
  | .vec u v => if u / 2 = n then s.setVec u v else s
  | .gfe v => s.setGfe n v
  | .param a w => if 0x42010000 ≤ a ∧ a < 0x42020000 then s.wr a w else s
  | .bank b => s.wrB R.ceBankStatus n b
  | .pend g ws => if (s.ownedLegs n).contains g then s.setLeg g { s.leg g with pend := some ws, modList := ws, modNew := true } else s
  | .carry g w => if (s.ownedLegs n).contains g then (s.wr (R.pwmLegCarry g) w).setLeg g { s.leg g with carry := true } else s
  | .code g c =>
    if (s.ownedLegs n).contains g then s.setLeg g { s.leg g with path := ⟨c, c, none⟩, lpath := ⟨c, c, none⟩ } else s
  | .edge l k => if (s.threadLinks n).contains l then (s.wrF (R.stlEdgeNum l) 15 0 k).setEdges l (s.link l).edges else s
  | .period p => s.setSeq n { s.seq n with periods := p }

/-- `CWY_SNAP_FRAME`: a chunk of a snapshot arrives for a thread out of step; `last` says that it ends the snapshot (R332). -/
def State.cwySnap (s : State) (h : CwyHdr) (items : List SnapItem) (last : Bool) (size : BitVec 20) : State :=
  let r := s.cwyReceive h
  let n := h.thread.val
  if !r.2 || r.1.inStep n then r.1
  else
    let s := r.1
    let v := s.thr n
    let s := s.wrF (R.cwyThrSnap n) 19 0 size.toNat
    s.setThr n { v with snap := v.snap ++ items, snapAt := if last then some s.clk.now else v.snapAt }

/-- A complete snapshot is judged at the sample instant of thread `n`: taken where its last word came at least 2 µs before and the period
was on time, else discarded (R332). -/
def State.snapJudge (s : State) (n : Nat) (onTime : Bool) : State :=
  let v := s.thr n
  match v.snapAt with
  | none => s
  | some t =>
    let s := s.setThr n { v with snap := [], snapAt := none }
    if onTime ∧ t + 2 * usec ≤ s.clk.now then v.snap.foldl (fun s i => s.snapTake n i) s
    else
      let k := v.snapFails + 1
      let s := s.setThr n { s.thr n with snapFails := k }
      if 100 ≤ k then s.raise (R.cwyThrStatus n) 8 else s

/-- After `END` the primary of a thread whose partner is out of step sends a snapshot, of a size that no rule gives (R332, log 51). -/
def State.snapSend (s : State) (n : Nat) : State :=
  if s.twinOn && s.cwyUp && s.inStep n && !s.parInStep n && natBit s.twin.parRun n && s.rdB (R.cwyThrStatus n) 27 then
    let w := s.freshWord
    ((s.tookFree).wrF (R.cwyThrSnap n) 19 0 (w.toNat % 2 ^ 20)).cwySend 0xB n false [BitVec.ofNat 64 0]
  else s

/-! ### Link and time (R318–R325) -/

/-- The claim strap of the device (R253). -/
def State.prio (s : State) : Nat := s.rdF R.sysStrap 7 4

/-- Thread `n` is refused the twin, or joins out of step (R318, R331). -/
def State.twinOut (s : State) (n cause : Nat) : State := (s.leaveStep n cause).wrF (R.cwyThrStatus n) 15 12 cause

/-- `CWY_LANES_UP`: all four lanes are locked; the partner's image CRC, `PRIO` and `SYS_STATE.STATE` are known (R318–R320). -/
def State.cwyLanesUp (s : State) (ownCrc crc prio st run : Nat) : State :=
  if !s.twinOn then s
  else
    let me := s.prio
    let boot := decide (s.rdF R.sysState 2 0 < 3)
    let parBoot := decide (st < 3)
    let later := boot && (!parBoot || decide (me ≤ prio))
    let s := (s.wrF R.cwyStatus 30 27 15).wrB R.cwyStatus 26 true
    let s := s.wrB R.cwyStatus 25 (decide (prio < me))
    let s := if boot then s.wrB R.cwyStatus 24 (parBoot && decide (prio < me)) else s
    let s := { s with twin := { s.twin with rxSeq := none, parState := st, parRun := run } }
    let s := s.post 89 1
    let s : State := { s with twin := { s.twin with parCrc := some crc } }
    let diff := crc != ownCrc && decide (s.rdF R.bootStatus 31 30 ≠ 0)
    let eq := prio == me
    let s := if diff && later then s.raise R.cwyStatus 8 else s
    let s := if eq then s.raise R.cwyStatus 12 else s
    if (diff || eq) && later then
      let s := { s with twin := { s.twin with refused := true } }
      s.each [0, 1, 2, 3] (fun s n => s.twinOut n 7)
    else if boot && !parBoot then s.each ([0, 1, 2, 3].filter (fun n => natBit run n)) (fun s n => s.twinOut n 6)
    else s.each [0, 1, 2, 3] (fun s n => s.twinRole n)

/-- A silent senior sends again as a single device (R337): code 1 reaches every bridge of the thread. -/
def State.seniorResume (s : State) : State :=
  if s.twinOn && !s.cwyUp && s.senior then
    s.each [0, 1, 2, 3] (fun s n =>
      if s.silent n && !(s.threadLinks n).isEmpty && (s.threadLinks n).all (fun l => decide (16 ≤ (s.link l).otherZero)) then
        let st := R.cwyThrStatus n
        let s := (((s.wrB st 26 false).wrB st 29 false).wrB st 28 false).setThr n { s.thr n with yield_ := false, ret := 0 }
        ((s.reachBlock n 7).twinRole n).applyThread n
      else s)
  else s

/-- `CWY_DOWN`: a lane is lost (`lanes` are those still locked), or no valid `STATUS` frame has come for 10 µs (R320, R337). -/
def State.cwyDown (s : State) (lanes : BitVec 4) : State :=
  let quiet := match s.twin.statusAt with
    | some t => decide (t + 10 * usec ≤ s.clk.now)
    | none => true
  if !s.rdB R.cwyStatus 31 && s.rdF R.cwyStatus 30 27 == lanes.toNat then s
  else if lanes.toNat = 15 && !quiet then s
  else
    let was := s.cwyUp
    let s := (s.wrF R.cwyStatus 30 27 lanes.toNat).wrB R.cwyStatus 31 false
    let s := if was then { s.post 89 2 with twin := { s.twin with downAt := some s.clk.now } } else s
    let ms := s.twin.msgs
    let s := { s with twin := { s.twin with msgs := [] } }
    (ms.foldl (fun s _ => (s.countUp R.cwyFwd 7 0 1).post 89 0x20) s).seniorResume

/-- `PARTNER_SEARCH_TIMEOUT`: no partner within 2.0 s of the start of boot (R319). -/
def State.partnerTimeout (s : State) (bootAt : Nat) : State :=
  if s.twinOn && !s.partner && decide (bootAt + 2 * second ≤ s.clk.now) then
    let s := s.wrB R.cwyStatus 24 true
    s.each [0, 1, 2, 3] (fun s n => (s.wrB (R.cwyThrStatus n) 31 true).twinRole n)
  else s

/-- `CWY_STATUS_SEND`: every 2 µs (R322). -/
def State.cwyStatusSend (s : State) : State :=
  if !s.twinOn then s
  else
    let per := [0, 1, 2, 3].foldl (fun a n =>
      let w := s.rd (R.cwyThrStatus n)
      a + (fieldOf w 23 20 + b2n (bitOf w 31) * 16 + b2n (bitOf w 30) * 32 + b2n (bitOf w 26) * 64) * 2 ^ (8 * n)) 0
    let st := s.rdF R.sysState 2 0 + s.rdF R.sysState 15 12 * 16
    let ups := (List.range 32).foldl (fun a l => a + b2n (s.rdB (R.stlStatus l) 7) * 2 ^ l) 0
    let num := (List.range 32).foldl (fun a l => a + s.rdF (R.stlEdgeNum l) 15 0) 0
    s.cwySend 7 15 false [BitVec.ofNat 64 st, BitVec.ofNat 64 per, BitVec.ofNat 64 ups, BitVec.ofNat 64 num]

/-- `CWY_STATUS_FRAME`: the partner's state, threads running, health and step flags by thread as in a digest, links with `UP_OK` (R320,
R333). -/
def State.cwyStatus (s : State) (h : CwyHdr) (st : BitVec 3) (run : BitVec 4) (flags : List Nat) (ups : BitVec 32) : State :=
  let r := s.cwyReceive h
  if !r.2 then r.1
  else
    let s := r.1
    let was := s.cwyUp
    let s := s.wrB R.cwyStatus 31 true
    let s := if was then s else s.post 89 3
    let s := { s with twin := { s.twin with
      statusAt := some s.clk.now, downAt := none, parState := st.toNat, parRun := run.toNat
      partnerUp := ((List.range 32).filter (fun l => ups.getLsbD l)).map (fun l => (l, true)) } }
    let s := s.each [0, 1, 2, 3] (fun s n =>
      let f := nth 0 flags n
      let a := R.cwyThrStatus n
      let s := ((s.wrF a 19 16 (natBits f 3 0)).wrB a 29 (natBit f 4)).wrB a 28 (natBit f 5)
      s.twinRole n)
    s.each (List.range 32) (fun s l => s.linkSources l)

/-- The timebase in units of 1/32 sub-step as `TIME` frames carry it: sub-steps in [63:5] (Table 15.2). -/
def State.time32 (s : State) : Nat := (s.tb * 32).toNat

/-- A leader sends a `JOIN` frame to a partner in boot: its timebase count and the period counters, two to a word (R322, R323; how the four
words are laid out no rule says: log 98). -/
def State.cwyJoinSend (s : State) : State :=
  if s.leader && s.twin.parState == 1 then
    let p (n : Nat) : Nat := (s.seq n).periods % 2 ^ 32
    s.cwySend 0xA 15 false [BitVec.ofInt 64 s.tb, BitVec.ofNat 64 (p 0 + p 1 * 2 ^ 32), BitVec.ofNat 64 (p 2 + p 3 * 2 ^ 32), 0#64]
  else s

/-- `CWY_TIME_SEND` (R322, R324). -/
def State.cwyTimeSend (s : State) : State :=
  if !s.twinOn then s
  else
    let w := s.twin
    let s := s.cwySend 2 15 false [BitVec.ofNat 64 s.time32, BitVec.ofNat 64 w.tPar, BitVec.ofNat 64 w.tArr]
    ({ s with twin := { s.twin with tSent := s.time32 } } : State).cwyJoinSend

/-- Sub-step counts with sixteenths in [4:0], as sixteenths. -/
def time16 (x : Nat) : Int := x / 32 * 16 + x % 32

/-- `CWY_TIME_FRAME`: sent at `t1`, naming the last frame of this device, sent at `t3`, and its arrival `t4` at the partner; received here at
`t2` (R324). How the follower's trim moves is not stated: a free value within ±120 ppm (log 52). -/
def State.cwyTime (s : State) (h : CwyHdr) (t1 t2 t3 t4 : Nat) : State :=
  let r := s.cwyReceive h
  if !r.2 then r.1
  else
    let s := { r.1 with twin := { r.1.twin with tPar := t1, tArr := t2 } }
    if s.leader || t3 == 0 then s
    else
      let a := time16 t2 - time16 t1
      let b := time16 t4 - time16 t3
      let asym := signedOf 16 (s.rdF R.cwyTiming 15 0)
      let off := divRound ((a - b) * 125) 128 - asym
      let s := s.wr R.cwyOffset (wordOf off)
      let s := { s with twin := { s.twin with delay := divRound (a + b) 32 } }
      let s := (s.wr R.cwyTrim (wordOf (clampI (-120000) 120000 (sval s.freshWord)))).tookFree
      let good : Nat := if off.natAbs ≤ 100 then s.twin.goodRun + 1 else 0
      let bad : Nat := if 250 < off.natAbs then s.twin.badRun + 1 else 0
      let s := { s with twin := { s.twin with goodRun := good, badRun := bad } }
      let s := if 16 ≤ good then s.wrB R.cwyStatus 23 true else s
      if bad = 3 then
        let s := (s.wrB R.cwyStatus 23 false).raise R.cwyStatus 10
        s.each [0, 1, 2, 3] (fun s n => if s.partner then s.leaveStep n 4 else s)
      else s

/-- `CWY_JOIN_FRAME`: the follower takes the leader's count, `count` sub-steps at the frame's first word, once in boot; and the period
counters (R323). -/
def State.cwyJoin (s : State) (h : CwyHdr) (count : Nat) (periods : List Nat) : State :=
  let r := s.cwyReceive h
  if !r.2 then r.1
  else
    let s := r.1
    if s.leader || s.twin.joined || s.rdF R.sysState 2 0 != 1 then s
    else
      let s := { s with clk := { s.clk with tbBase := (s.clk.now : Int) - (count + s.twin.delay) }
                        twin := { s.twin with joined := true } }
      s.each [0, 1, 2, 3] (fun s n => s.setSeq n { s.seq n with periods := nth 0 periods n, everRun := decide (nth 0 periods n ≠ 0) })

/-- Whether modulator clock `k` is configured to run: its `EN_k` of a loaded image, on a variant that has it (R15, R46). -/
def State.sdClkOn (s : State) (k : Nat) : Bool :=
  s.rdB R.sdfClkCfg (24 + k) && s.clkHere k && decide (s.rdF R.bootStatus 31 30 ≠ 0)

/-- The ball `SD_CLK_k`: its period in sub-steps where the device drives it, with rising edge n at timebase sub-step n × P; none where it is
high-impedance with its pull-down. In a twin the leader drives, but not on a clock fault; else every configured output runs in self-test, in
run state and in the Harbour state (R46, R325). -/
def State.sdClkPin (s : State) (k : Nat) : Option Nat :=
  if s.sdClkOn k && (!s.twinOn || (s.leader && !s.clk.faulted)) then some (modPeriod (s.rdF R.sdfClkCfg (2 * k + 1) (2 * k))) else none

/-- `CLK_TAKEOVER`: two expected edges of modulator clock `k` are missing, and the follower drives the net (R325). -/
def State.clkTakeover (s : State) (k : Nat) : State :=
  if s.twinOn && !s.leader && s.sdClkOn k then
    let s := ((s.raise R.cwyStatus 11).wrB R.cwyStatus 24 true).post 89 4
    s.each (List.range 112) (fun s i => if s.chEn i && s.chClk i == k then s.chainRecover i s.clk.now else s)
  else s

/-- `COAST_END` (R337), for each thread that runs or has links. -/
def State.coastEnd (s : State) : State :=
  match s.twin.downAt with
  | none => s
  | some t =>
    if s.twinOn && !s.cwyUp && !s.leader && decide (t + s.rdF R.cwyTiming 25 16 * msec ≤ s.clk.now) then
      let s := { s with twin := { s.twin with downAt := none } }
      (s.each [0, 1, 2, 3] (fun s n =>
        if (s.threadLinks n).any (fun l => s.rdB (R.stlStatus l) 6) then
          let a := R.cwyThrStatus n
          (((s.wrB a 29 false).wrB a 28 false).wrB a 31 true).twinRole n
        else if s.rdB R.sysState (12 + n) || !(s.threadLinks n).isEmpty then (s.leaveStep n 5).raise R.cwyStatus 9
        else s)).seniorResume
    else s

/-! ### Messages (R339) -/

/-- The words of a class-A frame from message bytes. -/
def wordsOfBytes (bs : List Byte) : List Word := (List.range 18).map (fun i => wordN (natLE ((bs.drop (4 * i)).take 4)))

/-- `CWY_MSG_FRAME`: a forwarded message for endpoint `j` is queued ahead of new ones and acknowledged (R339). -/
def State.cwyMsg (s : State) (h : CwyHdr) (j : Nat) (bytes : List Byte) : State :=
  let r := s.cwyReceive h
  if !r.2 then r.1
  else
    let s := r.1.cwySend 9 15 false [BitVec.ofNat 64 h.fseq.toNat]
    let e := s.rd (R.cwyEp j)
    if !bitOf e 31 then s
    else if fieldOf e 27 26 = 0 then
      let k := fieldOf e 25 24
      let b := fieldOf e 18 16
      let x : CanRx := ⟨wordsOfBytes bytes, false, true, b, 0, 0, 0, s.clk.now⟩
      s.setRxa k b (rxaForward (s.rxa k b) x)
    else
      let f : EthFrame := ⟨bytes, 2, s.netTime s.clk.now, some j, true, s.clk.now⟩
      let fw := s.eth.host.filter (fun x => x.fwd)
      { s with eth := { s.eth with host := fw ++ [f] ++ s.eth.host.filter (fun x => !x.fwd) } }

/-- `CWY_MSG_ACK_FRAME` (R339). -/
def State.cwyMsgAck (s : State) (h : CwyHdr) (ack : BitVec 32) : State :=
  let r := s.cwyReceive h
  if !r.2 then r.1
  else { r.1 with twin := { r.1.twin with msgs := r.1.twin.msgs.filter (fun m => m.fseq != ack.toNat) } }

/-- `MSG_RETRY`: a message has had no acknowledgement for 50 µs; it is sent again up to three times, then dropped (R339). -/
def State.msgRetry (s : State) (fseq : Nat) : State :=
  match s.twin.msgs.find? (fun m => m.fseq == fseq) with
  | none => s
  | some m =>
    if m.at_ + 50 * usec ≤ s.clk.now then
      let s := { s with twin := { s.twin with msgs := s.twin.msgs.filter (fun x => x.fseq != fseq) } }
      s.msgSend m.ep m.bytes (m.tries + 1)
    else s

/-! ### Mirrored writes (R327) -/

/-- The threads that a write of `w` to a mirrored register concerns; none: the register is not mirrored. -/
def State.mirrorThreads (s : State) (a : Nat) (w : Word) : List Nat :=
  let four (p : Nat → Bool) : List Nat := [0, 1, 2, 3].filter p
  if a = R.ceBankCtrl then four (fun n => bitOf w n)
  else if 0x42010000 ≤ a ∧ a < 0x42020000 then (s.ctxThread ((a - 0x42010000) / 64 % 512)).toList
  else
    four (fun n =>
      a == R.seqCtrl n || a == R.vecCtrl (2 * n) || a == R.vecCtrl (2 * n + 1) || a == R.gfeCtrl n || a == R.gfeBsCtrl n ||
      a == R.protThrDischCtrl n ||
      (decide (0x42400000 + 0x800 * n ≤ a ∧ a < 0x42400000 + 0x800 * (n + 1)) && decide ((regRow a).elim 0 (fun r => r.rw) ≠ 0)) ||
      (gfeParAddrs n).contains a)

/-- What becomes of a write of `w` to a mirrored register (R327): carried out here, held for a sample instant, or refused. -/
inductive MirrorOut where
  | local_
  | hold (s : State)
  | refused (s : State)

/-- The primary sends a mirrored write and holds it; the standby refuses it (R327). -/
def State.mirrorJudge (s : State) (a : Nat) (w : Word) : MirrorOut :=
  if !s.twinOn || !s.cwyUp || !s.partner then .local_
  else
    match s.mirrorThreads a w with
    | [] => .local_
    | ns =>
      let mine := ns.filter (fun n => s.rdB (R.cwyThrStatus n) 27)
      let s := if mine.length < ns.length then s.raise R.cwyStatus 13 else s
      if mine = [] then .refused s
      else
        .hold (mine.foldl (fun s n =>
          let d := if a = R.ceBankCtrl then wordN (2 ^ n) else w
          let v := s.seq n
          let next := v.sampleAt + s.seqP n
          let p := v.periods + (if s.clk.now + 4 * usec ≤ next then 1 else 2)
          let s := s.cwySend 6 n false [BitVec.ofNat 64 a, BitVec.ofNat 64 d.toNat, BitVec.ofNat 64 p]
          s.setThr n { s.thr n with mirrors := (s.thr n).mirrors ++ [⟨a, d, true, s.clk.now, p⟩] }) s)

/-- `CWY_MIRROR_FRAME` (R327). -/
def State.cwyMirror (s : State) (h : CwyHdr) (a : Nat) (d : Word) (period : Nat) : State :=
  let r := s.cwyReceive h
  if !r.2 then r.1
  else
    let n := h.thread.val
    r.1.setThr n { r.1.thr n with mirrors := (r.1.thr n).mirrors ++ [⟨a, d, false, r.1.clk.now, period⟩] }

/-- The mirrored writes of thread `n` that take effect at the present sample instant, which begins period `p`, or none where no period
begins; and those that wait on (R327). On a standby whose sequencer stands, so that no period numbers the instants, the frame counts as up to
1 µs old when it arrives (log 98). -/
def State.mirrorsDue (s : State) (n p : Nat) (running : Bool) : List Mirror × List Mirror :=
  let due (m : Mirror) : Bool :=
    if m.mine then decide (m.at_ + 4 * usec ≤ s.clk.now)
    else if running then decide (m.period ≤ p)
    else decide (m.at_ + 3 * usec ≤ s.clk.now)
  let l := (s.thr n).mirrors
  (l.filter due, l.filter (fun m => !due m))

end Sys2Proof.Machine
end

