-- ==== Sys2Proof/Machine/Isl.lean ====
section
/-! DEFINITION. The metering Islet: energy, pulses, seal, parameters, log, and the window that the control die sees (*Metering Islet*,
R341–R356). -/

namespace Sys2Proof.Machine

/-! ### Parameters (R350, Table 16.1) -/

def State.ipar (s : State) (i : Nat) : Word := tabGet islParReset s.isl.par i
def State.wiring3 (s : State) : Bool := bitOf (s.ipar 1) 0
/-- `VT_NUM` × `CT_NUM` over `VT_DEN` × `CT_DEN`. -/
def State.vtNum (s : State) : Nat := (s.ipar 2).toNat
def State.vtDen (s : State) : Nat := (s.ipar 3).toNat
def State.ctNum (s : State) : Nat := (s.ipar 4).toNat
def State.ctDen (s : State) : Nat := (s.ipar 5).toNat

/-- Whether a value lies in the range of Table 16.1. -/
def islRange (i : Nat) (w : Word) : Bool :=
  let x := w.toNat
  if 2 ≤ i ∧ i ≤ 5 then decide (1 ≤ x ∧ x < 2 ^ 31)
  else if 6 ≤ i ∧ i ≤ 13 then decide (2 ^ 29 ≤ x ∧ x ≤ 3 * 2 ^ 29)
  else if 14 ≤ i ∧ i ≤ 21 then decide ((sval w).natAbs * 100 ≤ 2 ^ 32)
  else if i = 22 ∨ i = 23 then decide (1 ≤ x)
  else if i = 24 then decide (fieldOf w 1 0 ≤ 2) && decide (fieldOf w 9 8 ≤ 2) && decide (20 ≤ fieldOf w 22 16 ∧ fieldOf w 22 16 ≤ 80)
  else true

/-- The CRC-16 of R351. -/
def crc16 (bs : List Byte) : Nat := crcBytesL 16 0x1021 bs 0xFFFF

/-- The CRC-16 of a parameter block. -/
def islBlockCrc (t : Tab Word) : Nat := crc16 ((List.range 25).flatMap (fun i => bytesLE 4 (tabGet islParReset t i).toNat))

/-- Whether Strait power is present at an Islet: a variant without one gets none (R2). -/
def State.islUp (s : State) : Bool := s.isl.power && s.dev.islet

/-! ### Log and clock (R352, R353) -/

/-- RTC seconds (R353). -/
def State.rtc (s : State) : Nat := (s.clk.now - s.isl.rtcAt) / second

/-- An entry is written to the log (R352). -/
def State.islLog (s : State) (code a b : Nat) : State :=
  let v := s.isl
  let full := decide (1024 ≤ v.log.length)
  let dropped := if full then v.log.getLast? else none
  let lost := match dropped with
    | some e => if v.acked < e.seq then min 255 (v.lost + 1) else v.lost
    | none => v.lost
  let e : IslEntry := ⟨v.seq, s.rtc, code, a % 2 ^ 24, b % 2 ^ 32⟩
  { s with isl := { v with log := e :: v.log.take 1023, seq := (v.seq + 1) % 2 ^ 32, lost := lost } }

/-- Whether the Islet reports the seal open: it reads so, or the counter has stopped (R349). What is refused while the seal reads sealed goes by
the contact alone (R350, R351, R356; log 99). -/
def State.unsealed (s : State) : Bool := !s.isl.isSealed || decide (0xFFFF ≤ s.isl.seals)

/-- Whether energy is accumulated (R341, R343). -/
def State.metering (s : State) : Bool := s.islUp && !s.isl.clkFault

/-! ### Snapshots (R355) -/

/-- The words of a snapshot, taken now (Table 16.5). -/
def State.islSnapWords (s : State) : List (Nat × Word) :=
  let v := s.isl
  let st := b2n s.unsealed * 2 ^ 30 + b2n (decide (v.mode ≠ 0)) * 2 ^ 29 + b2n v.retSeen * 2 ^ 28 + b2n s.metering * 2 ^ 27 +
    b2n v.clkFault * 2 ^ 26 + b2n (decide (v.acked + 1 < v.seq)) * 2 ^ 25 + v.seals % 65536
  [(R.islStatus, wordN st), (R.islSnapSeq, wordN v.snapNo), (R.islRtc, wordN s.rtc), (R.islMeterId, s.ipar 0),
   (R.islParam, wordN (v.commits * 65536 + islBlockCrc v.par)), (R.islCount, wordN (v.lost * 256 + v.losses)),
   (R.islFreq, v.freq), (R.islLogHead, wordN (v.seq - 1)), (R.islLogAcked, wordN v.acked)] ++
  (List.range 16).flatMap (fun k =>
    let e := tabGet (fun _ => 0) v.energy k
    [(R.islELo k, wordN e), (R.islEHi k, wordN (e / 2 ^ 32))]) ++
  (List.range 20).map (fun j => (R.islInst j, wordOf (tabGet (fun _ => 0) v.inst j)))

/-- A snapshot is started, or follows the one on its way (R355, R356). -/
def State.islSnapStart (s : State) : State :=
  if !s.islUp then s
  else if s.isl.snap.isSome then { s with isl := { s.isl with again := true } }
  else
    let s := { s with isl := { s.isl with snapNo := (s.isl.snapNo + 1) % 2 ^ 32 } }
    { s with isl := { s.isl with snap := some s.islSnapWords } }

/-- `ISL_SNAPSHOT`: a snapshot, its first word received at `first`, is checked, stamped and moved into the window (R355); one event per new
log entry. -/
def State.islSnapshot (s : State) (ok : Bool) (first : Nat) : State :=
  match s.isl.snap with
  | none => s
  | some ws =>
    let again := s.isl.again
    let s := { s with isl := { s.isl with snap := none, again := false } }
    let s :=
      if !ok then s.countUp R.islCount 31 16 1
      else
        let head := s.rdN R.islLogHead
        let res := s.rdB R.islStatus 24
        let bad := s.rdF R.islCount 31 16
        let s := ws.foldl (fun s x => s.wr x.1 x.2) s
        let s := (s.wrB R.islStatus 31 true).wrB R.islStatus 24 res
        let s := s.wrF R.islCount 31 16 bad
        let n := s.netTime first
        let s := (s.wr R.islNtS (wordN (ntSec n))).wr R.islNtNs (wordN (ntNs n))
        let s := { s with isl := { s.isl with seenAt := s.clk.now } }
        let new := (s.rdN R.islLogHead + 2 ^ 32 - head) % 2 ^ 32
        (List.range (min new 1024)).foldl (fun s _ => s.post 90 1) s
    if again then s.islSnapStart else s

/-- `ISL_PRESENT_TIMEOUT`: no valid snapshot for 1 s (R355). -/
def State.islTimeout (s : State) : State :=
  if s.isl.seenAt + second ≤ s.clk.now then s.wrB R.islStatus 31 false else s

/-! ### Metrology (R344, R345, R347) -/

/-- `METER_WINDOW`: quantities in primary values (R344). How the total S is formed is not stated: a free value, from which the power factor
follows (log 53). -/
def State.meterWindow (s : State) (m : IslMeas) : State :=
  if !s.islUp then s
  else
    let three := s.wiring3
    let vt (x : Int) (den : Nat) : Int := divR 30 (x * s.vtNum) (s.vtDen * den : Nat)
    let ct (x : Int) (den : Nat) : Int := divR 31 (x * s.ctNum) (s.ctDen * den : Nat)
    let pw (x : Int) : Int := divR 32 (x * s.vtNum * s.ctNum) (s.vtDen * s.ctDen * 1000000 : Nat)
    let used (k : Nat) : Bool := !three || k == 0 || k == 2
    let vs : List Int := (List.range 4).map (fun k => if used k then vt ((nth 0 m.v k : Nat) : Int) 10000 else 0)
    let is : List Int := (List.range 4).map (fun k => if used k then ct ((nth 0 m.i k : Nat) : Int) 1000 else 0)
    let ps : List Int := (List.range 3).map (fun k => if used k then pw (nth 0 m.p k) else 0)
    let qs : List Int := (List.range 3).map (fun k => if used k then pw (nth 0 m.q k) else 0)
    let sum (l : List Int) : Int := l.foldl (fun a b => a + b) 0
    let ph (l : List Int) : List Int := if three then [0, 0, 0] else l
    let ss : List Int := (List.range 3).map (fun k => divRound (nth 0 vs k * nth 0 is k) 100000)
    let st := sval s.freshWord
    let s := s.tookFree
    let all := vs ++ is ++ ph ps ++ [sum ps] ++ ph qs ++ [sum qs] ++ ph ss ++ [st]
    let pf := satS 16 (divR 33 (sum ps * 32768) st)
    let inst := (List.range 20).foldl (fun t j => tabSet (fun _ => 0) t j (sat32 (nth 0 all j))) []
    let s := { s with isl := { s.isl with inst := inst, freq := wordN ((pf % 65536).toNat * 65536 + m.f % 65536) } }
    s.islSnapStart

/-- Energy `e` nWh is added to register `k`, with its residue (R345). -/
def State.islAdd (s : State) (k e : Nat) : State :=
  let r := tabGet (fun _ => 0) s.isl.residue k + e
  let x := (tabGet (fun _ => 0) s.isl.energy k + r / 1000000) % 2 ^ 64
  { s with isl := { s.isl with residue := tabSet (fun _ => 0) s.isl.residue k (r % 1000000)
                               energy := tabSet (fun _ => 0) s.isl.energy k x } }

/-- A signed energy goes to the import register `q` or the export register `q + 1` of phase or total `φ`. -/
def State.islSigned (s : State) (q φ : Nat) (e : Int) : State :=
  if 0 < e then s.islAdd (4 * q + φ) e.natAbs else if e < 0 then s.islAdd (4 * (q + 1) + φ) e.natAbs else s

/-- A pulse output (false P, true Q). -/
def State.pulse (s : State) (o : Bool) : IslPulse := if o then s.isl.pulseQ else s.isl.pulseP
def State.setPulse (s : State) (o : Bool) (v : IslPulse) : State :=
  { s with isl := if o then { s.isl with pulseQ := v } else { s.isl with pulseP := v } }

/-- `PWIDTH` in sub-steps (R347, R348). -/
def State.pulseWidth (s : State) : Nat := if s.isl.mode = 1 then 200 * usec else fieldOf (s.ipar 24) 22 16 * msec

/-- The 1 Hz square wave of test mode 2, high in the first half of each second of the RTC (R348). -/
def State.testWave (s : State) : Bool := decide ((s.clk.now - s.isl.rtcAt) % second < second / 2)

/-- Whether a pulse of an output runs: in test mode 2 the high half of the square wave. -/
def State.pulseRuns (s : State) (o : Bool) : Bool :=
  if s.isl.mode = 2 then s.testWave
  else match (s.pulse o).last with
  | some t => decide (s.clk.now < t + s.pulseWidth)
  | none => false

/-- A test mode that was asked for comes into force when no pulse runs (R348). -/
def State.modeTake (s : State) : State :=
  if s.isl.mode ≠ s.isl.modeReq ∧ !s.pulseRuns false ∧ !s.pulseRuns true then { s with isl := { s.isl with mode := s.isl.modeReq } } else s

/-- The total net energy `e` nWh counts towards the pulses of an output (R347). -/
def State.islOwe (s : State) (o : Bool) (e : Int) : State :=
  let src := if o then fieldOf (s.ipar 24) 9 8 else fieldOf (s.ipar 24) 1 0
  let add : Nat := if (0 < e && src != 1) || (e < 0 && src != 0) then e.natAbs else 0
  let c := (s.ipar (if o then 23 else 22)).toNat * 1000000
  let v := s.pulse o
  let x := v.acc + add * (if s.isl.mode = 1 then 1000 else 1)
  let due := if c = 0 then 0 else x / c
  let owed := v.owed + due
  let excess := owed - 255
  let s := s.setPulse o { v with acc := if c = 0 then x else x % c, owed := min 255 owed, lost := v.lost + excess }
  let hour := match v.ovfAt with
    | some t => decide (t + 3600 * second ≤ s.clk.now)
    | none => true
  if 0 < excess && hour then
    let s := s.islLog 0x08 (b2n o) (v.lost + excess)
    s.setPulse o { s.pulse o with lost := 0, ovfAt := some s.clk.now }
  else s

/-- Primary nWh from secondary pWh. -/
def State.islPrimary (s : State) (x : Int) : Int := divR 34 (x * s.vtNum * s.ctNum) (s.vtDen * s.ctDen * 1000 : Nat)

/-- A quantum, whole or cut short, adds its energies: `p` and `q` by element, in secondary pWh (R345, log 53). -/
def State.islQuantum (s : State) (p q : List Int) : State :=
  let three := s.wiring3
  let ks := if three then [0, 2] else [0, 1, 2]
  let es (l : List Int) : List (Nat × Int) := ks.map (fun k => (k, s.islPrimary (nth 0 l k)))
  let ep := es p
  let eq := es q
  let tot (l : List (Nat × Int)) : Int := l.foldl (fun a x => a + x.2) 0
  let s := if three then s else (ep.foldl (fun s x => s.islSigned 0 x.1 x.2) s)
  let s := if three then s else (eq.foldl (fun s x => s.islSigned 2 x.1 x.2) s)
  let s := (s.islSigned 0 3 (tot ep)).islSigned 2 3 (tot eq)
  (s.islOwe false (tot ep)).islOwe true (tot eq)

/-- A committed parameter block comes into force (R350). -/
def State.islParTake (s : State) : State :=
  match s.isl.next with
  | some t => { s with isl := { s.isl with par := t, next := none } }
  | none => s

/-- `METER_QUANTUM`: a quantum ends, and a committed block governs from its end on (R345, R350). -/
def State.meterQuantum (s : State) (p q : List Int) : State := if !s.metering then s else (s.modeTake.islQuantum p q).islParTake

/-- `METER_PULSE`: an owed pulse is issued once the low time has passed (R347). -/
def State.meterPulse (s : State) (o : Bool) : State :=
  let s := s.modeTake
  let v := s.pulse o
  let free := match v.last with
    | some t => decide (t + 2 * s.pulseWidth ≤ s.clk.now)
    | none => true
  if s.islUp && decide (s.isl.mode ≠ 2) && decide (0 < v.owed) && free then
    s.setPulse o { v with owed := v.owed - 1, last := some s.clk.now }
  else s

/-- Level of a pulse output: the pulse, or the square wave of test mode 2; low without an Islet and without Strait power (R2, R347, R348). -/
def State.pulsePin (s : State) (o : Bool) : Bool :=
  s.islUp && s.pulseRuns o

/-- `ISL_CLOCK_CHECK`: the converter clock was `dev` ppm off over a second (R343). -/
def State.islClock (s : State) (dev : Int) : State :=
  if !s.islUp then s
  else if 1000 < dev.natAbs then
    let s := if s.isl.clkFault then s else s.islLog 0x07 dev.natAbs 0
    { s with isl := { s.isl with clkFault := true, clkOk := 0 } }
  else if s.isl.clkFault then
    let n := if dev.natAbs ≤ 500 then s.isl.clkOk + 1 else 0
    { s with isl := { s.isl with clkFault := decide (n < 10), clkOk := n } }
  else s

/-! ### Seal and test mode (R348, R349) -/

/-- The test mode is set to `m`, and logged where it changes. -/
def State.islMode (s : State) (m : Nat) : State :=
  if s.isl.modeReq = m then s
  else (({ s with isl := { s.isl with modeReq := m, modeAt := s.clk.now } } : State).islLog 0x09 m 0).modeTake

/-- An opening is counted and logged (R349). -/
def State.islOpen (s : State) : State :=
  let n := min 0xFFFF (s.isl.seals + 1)
  ({ s with isl := { s.isl with seals := n } } : State).islLog 0x03 n 0

/-- `SEAL_CHANGE` (R349). -/
def State.sealChange (s : State) (closed : Bool) : State :=
  if s.isl.isSealed = closed ∨ !s.dev.islet then s
  else
    let s := { s with isl := { s.isl with isSealed := closed } }
    if !s.islUp then (if closed then s else { s with isl := { s.isl with opened := true } })
    else if closed then (s.islLog 0x04 s.isl.seals 0).islMode 0
    else s.islOpen

/-- `TEST_MODE_EXPIRY` (R348). -/
def State.testExpiry (s : State) : State :=
  if s.isl.modeReq ≠ 0 ∧ s.isl.modeAt + 3600 * second ≤ s.clk.now then s.islMode 0 else s.modeTake

/-! ### Strait power (R341, R342, R354) -/

/-- `STRAIT_POWER_FALL`: the partial quantum is added and `POWER_DOWN` logged (R342). -/
def State.straitFall (s : State) (p q : List Int) : State :=
  if !s.islUp then s
  else
    let s := if s.metering then s.islQuantum p q else s
    let s := s.islLog 0x02 0 (tabGet (fun _ => 0) s.isl.energy 3)
    { s with isl := { s.isl with power := false, downRtc := s.rtc, mode := 0, modeReq := 0, snap := none, again := false } }

/-- `STRAIT_POWER_RETURN`: retention is checked, `POWER_UP` logged (R342, R349, R354). The time without power after a retention loss is not
known to the Islet: a free value. A variant without the Islet supplies no Strait power (R2). -/
def State.straitReturn (s : State) (retained : Bool) : State :=
  if s.isl.power || !s.dev.islet then s
  else
    let s := { s with isl := { s.isl with power := true } }
    let gap := if retained then min (2 ^ 24 - 1) (s.rtc - s.isl.downRtc) else s.freshWord.toNat % 2 ^ 24
    let s := if retained then s
      else
        let n := min 255 (s.isl.losses + 1)
        let s := s.tookFree
        ({ s with isl := { s.isl with losses := n, rtcAt := s.clk.now, energy := [], residue := [], log := [], retSeen := true } } :
          State).islLog 0x06 0 n
    let s := s.islLog 0x01 gap s.isl.losses
    if s.isl.opened then
      let s := ({ s with isl := { s.isl with opened := false } } : State).islOpen
      if s.isl.isSealed then s.islLog 0x04 s.isl.seals 0 else s
    else s

/-! ### Calibration port (R350, R351) -/

/-- A reply frame (Table 16.2). -/
def State.calReply (s : State) (cmd idx value : Nat) : State :=
  let body := [BitVec.ofNat 8 cmd, BitVec.ofNat 8 idx] ++ bytesLE 4 value
  { s with isl := { s.isl with reply := [0x7E#8] ++ body ++ bytesBE 2 (crc16 body) } }

/-- `CAL_READ_ACTIVE` and `CAL_READ_STAGING`. -/
def State.calRead (s : State) (staging : Bool) (idx : Nat) (crcOk : Bool) : State :=
  if !s.islUp || !crcOk then s
  else if 24 < idx then s.calReply 0xFF idx 2
  else if staging then s.calReply 0x84 idx (tabGet islParReset s.isl.staging idx).toNat
  else s.calReply 0x81 idx (s.ipar idx).toNat

/-- `CAL_WRITE_STAGING`. -/
def State.calWrite (s : State) (idx : Nat) (w : Word) (crcOk : Bool) : State :=
  if !s.islUp || !crcOk then s
  else if s.isl.isSealed then s.calReply 0xFF idx 1
  else if 24 < idx then s.calReply 0xFF idx 2
  else ({ s with isl := { s.isl with staging := tabSet islParReset s.isl.staging idx w } } : State).calReply 0x82 idx 0

/-- `CAL_COMMIT`: ranges, endurance and seal are judged at its last byte; the block governs from the next quantum boundary (R350). -/
def State.calCommit (s : State) (idx : Nat) (crcOk : Bool) : State :=
  if !s.islUp || !crcOk then s
  else if s.isl.isSealed then s.calReply 0xFF idx 1
  else if !(List.range 25).all (fun i => islRange i (tabGet islParReset s.isl.staging i)) then s.calReply 0xFF idx 2
  else if 1000 ≤ s.isl.commits then s.calReply 0xFF idx 3
  else
    let n := s.isl.commits + 1
    let s := { s with isl := { s.isl with commits := n, next := some s.isl.staging } }
    (s.islLog 0x05 n (islBlockCrc s.isl.staging)).calReply 0x83 idx 0

/-! ### Commands of the control die (R356) -/

/-- `CMD_RESULT`. -/
def State.islResult (s : State) (refused : Bool) : State := s.wrB R.islStatus 24 refused

/-- `ISL_REFRESH`. -/
def State.islRefresh (s : State) : State := if s.islUp then s.islSnapStart.islResult false else s

/-- `ISL_LOAD_LOG`: the entry `arg` [9:0] back from the newest. -/
def State.islLoadLog (s : State) (arg : Nat) : State :=
  if !s.islUp then s
  else
    match s.isl.log.drop (arg % 1024) with
    | e :: _ =>
      let s := ((s.wr (R.islLog 0) (wordN e.seq)).wr (R.islLog 1) (wordN e.rtc)).wr (R.islLog 2) (wordN (e.code * 2 ^ 24 + e.a))
      (s.wr (R.islLog 3) (wordN e.b)).islResult false
    | [] => s.islResult true

/-- `ISL_ACKNOWLEDGE`. -/
def State.islAck (s : State) : State :=
  if !s.islUp then s
  else
    let n := min (s.rdN (R.islLog 0)) (s.isl.seq - 1)
    ({ s with isl := { s.isl with acked := max s.isl.acked n } } : State).islResult false

/-- `ISL_TEST_MODE`. -/
def State.islTest (s : State) (arg : Nat) : State :=
  if !s.islUp then s
  else if s.isl.isSealed || arg % 4 == 3 then s.islResult true
  else (s.islMode (arg % 4)).islResult false

/-- A write of `w` to `ISL_CMD`. -/
def State.islCmd (s : State) (w : Word) : State :=
  match fieldOf w 31 28 with
  | 1 => s.islRefresh
  | 2 => s.islLoadLog (fieldOf w 27 0)
  | 3 => s.islAck
  | 4 => s.islTest (fieldOf w 27 0)
  | _ => if s.islUp then s.islResult true else s

end Sys2Proof.Machine
end

