-- ==== Sys2Proof/Machine/Pdm.lean ====
section
/-! DEFINITION. Power domains (R463–R466). A domain counts as isolated from the acceptance of its power-down until it is fully on again
(log 62). -/

namespace Sys2Proof.Machine

/-- Whether domain `d` is fully on. -/
def State.pdOn (s : State) (d : Nat) : Bool := s.rdB R.pdmStatus d

def State.pdMoving (s : State) (d : Nat) : Nat := tabGet (fun _ => 0) s.pdm.moving d
def State.setMoving (s : State) (d v : Nat) : State := { s with pdm := { s.pdm with moving := tabSet (fun _ => 0) s.pdm.moving d v } }

/-- The domain of the registers of a block, by its number: the analog die's SAR and auxiliary drives, and Ethernet, CAN and Causeway
(Table 23.4); every other block is always on. -/
def blockDomain (b : Nat) : Nat :=
  match b with
  | 0x414 | 0x438 => 15
  | 0x448 | 0x454 | 0x45C => 14
  | _ => 0

/-- The domain of an interrupt source. -/
def irqDomain (i : Nat) : Nat :=
  if 9 ≤ i ∧ i ≤ 32 then 15
  else if 80 ≤ i ∧ i ≤ 86 then 15
  else if i = 89 ∨ (99 ≤ i ∧ i ≤ 101) ∨ (103 ≤ i ∧ i ≤ 106) then 14
  else 0

/-- Whether a running thread's microprogram calls core pair `p`. -/
def State.callsPair (s : State) (p : Nat) : Bool :=
  (List.range 4).any (fun n => s.rdB (R.seqStatus n) 0 && (List.range 64).any (fun k =>
    let w := s.rd (R.seqStep n k)
    fieldOf w 31 28 == 10 && fieldOf w 21 16 == p))

/-- The conditions of Table 23.5; those of a core pair's domain concern the pair as which it answers (R454). -/
def State.pdMayOff (s : State) (d : Nat) : Bool :=
  match d with
  | 5 | 6 | 7 => (List.range 4).all (fun p => s.pairHome p != d ||
      (!s.rdB (R.sysCpStatus p) 30 && !s.callsPair p && s.rdF (R.smonWdCfg p) 31 16 == 0))
  | 13 => (List.range 8).all (fun u => s.rdF (R.recCapStatus u) 2 0 == 0 || s.rdF (R.recCapStatus u) 2 0 == 6)
      && (List.range 32).all (fun q => s.rdF (R.fryQStatus q) 31 28 != 1 && s.rdF (R.fryQStatus q) 31 28 != 2)
  | 14 => !s.rdB R.sysState 7 && (List.range 4).all (fun k => s.canState k == 3 || !s.canEn k)
  | 15 => (List.range 24).all (fun k => !s.rdB (R.sarCfg k) 31) && (List.range 32).all (fun w => !s.rdB (R.protWinCfg w) 31)
      && (List.range 6).all (fun m => !s.rdB (R.auxCfg m) 31)
  | _ => false

/-- A refused request: the first one's domain is captured. -/
def State.pdRefuse (s : State) (d : Nat) : State := s.raiseCapture R.pdmErr 31 R.pdmErr 3 0 d

/-- `PDM_OFF` for one domain; one that is off already stays so. -/
def State.pdOff1 (s : State) (d : Nat) : State :=
  if tabGet (fun _ => 0) s.pdm.onCyc d = s.cycNo then s
  else if s.pdMoving d ≠ 0 then s.pdRefuse d
  else if !s.pdMayOff d then s.pdRefuse d
  else if !s.pdOn d then s
  else
    let s := (s.wrB R.pdmStatus d false).setMoving d 1
    { s with pdm := { s.pdm with offCyc := tabSet (fun _ => 0) s.pdm.offCyc d s.cycNo } }

/-- `PDM_ON` for one domain: it wins over a `PDM_OFF` of the same cycle. `PD_8` is switched by spare management only. -/
def State.pdOn1 (s : State) (d : Nat) : State :=
  let s : State := { s with pdm := { s.pdm with onCyc := tabSet (fun _ => 0) s.pdm.onCyc d s.cycNo } }
  if s.pdOn d then s
  else if s.pdMoving d = 1 ∧ tabGet (fun _ => 0) s.pdm.offCyc d = s.cycNo then (s.wrB R.pdmStatus d true).setMoving d 0
  else if s.pdMoving d ≠ 0 then s.pdRefuse d
  else if d = 1 ∨ d = 8 then s.pdRefuse d
  else s.setMoving d 2

/-- The domains named in a word. -/
def bitsSet (w : Word) : List Nat := (List.range 16).filter (bitOf w)

/-- `PDM_OFF` and `PDM_ON` (R464). -/
def State.pdmOffWrite (s : State) (w : Word) : State := (bitsSet w).foldl State.pdOff1 s
def State.pdmOnWrite (s : State) (w : Word) : State := (bitsSet w).foldl State.pdOn1 s

/-- `DOMAIN_OFF_COMPLETE`. -/
def State.pdOffDone (s : State) (d : Nat) : State := if s.pdMoving d = 1 then s.setMoving d 0 else s

/-- The registers of the blocks `bs` but their configuration fields take their reset values (R464); the wake status of the CAN controllers
is kept by the matchers in `PD_0`. -/
def State.resetBlocks (s : State) (bs : List Nat) : State :=
  let keep (a : Nat) : Bool := (List.range 4).any (fun k => a == R.canWakeStatus k)
  { s with
    regs := s.regs.filterMap (fun kv =>
      if !bs.contains (kv.1 / 0x100000) || keep kv.1 then some kv
      else match regRow kv.1 with
        | none => none
        | some r =>
          let m := wordN (Nat.lor (Nat.lor r.rw r.lock) r.img)
          let w := (kv.2 &&& m) ||| (wordN r.reset &&& ~~~ m)
          if w = wordN r.reset then none else some (kv.1, w))
    raised := s.raised.filter (fun kv => !bs.contains (kv.1 / 0x100000)) }

/-- What the domain's blocks hold after power-up (Table 23.5). -/
def State.pdCleared (s : State) (d : Nat) : State :=
  match d with
  | 5 | 6 | 7 => s.loseMemory [d - 2] (s.free + 1) |>.tookFree
  | 13 =>
    let s := (s.loseMemory [7] (s.free + 1)).tookFree
    { s with pdm := { s.pdm with training := true } }
  | 14 => { s.resetBlocks [0x448, 0x454, 0x45C] with eth := EthSt.init, cans := [] }
  | 15 => { s.resetBlocks [0x414, 0x438] with sars := [], aux := { AuxAll.init with act := s.aux.act } }
  | _ => s

/-- `DOMAIN_ON_COMPLETE`: the domain is fully powered. -/
def State.pdOnDone (s : State) (d : Nat) : State :=
  if s.pdMoving d = 2 then ((s.setMoving d 0).pdCleared d).wrB R.pdmStatus d true else s

/-- `DRAM_TRAINING_COMPLETE`. -/
def State.dramTrained (s : State) : State :=
  if s.pdOn 13 then { s with pdm := { s.pdm with training := false } } else s

/-- Whether DRAM answers: its domain on and trained. -/
def State.dramUp (s : State) : Bool := s.pdOn 13 && !s.pdm.training

/-- A wake of any CAN controller with `WAKE_PD14` powers `PD_14` up, and wins over a power-down under way (R466). -/
def State.pdWake14 (s : State) : State :=
  if s.rdB R.pdmCfg 0 && !s.pdOn 14 then s.setMoving 14 2 else s

/-- `CAN_WAKE`: a controller in sleep, or entering it, meets a wake condition. -/
def State.canWake (s : State) (k : Nat) (w : WakeSeen) : State :=
  if !s.canListening k then s
  else
    let x := s.setCan k { s.can k with wakeErrs := s.wakeCount k w }
    match s.wakeMeets k w with
    | some (src, id) => (x.canWakeUp k src id).pdWake14
    | none => x

end Sys2Proof.Machine
end

