-- ==== Sys2Proof/Machine/Cores.lean ====
section
/-! DEFINITION. Core pairs, the interrupt router, memory errors, and the debug port (R406–R416, R428–R430). -/

namespace Sys2Proof.Machine

/-! ### Interrupt router (R410, R411) -/

/-- Whether the line of interrupt source `i` is high: period interrupts while the `CORE_CALL` waits, windows whose status shows the
condition, software interrupts, and for the others an event not yet claimed (log 30). -/
def State.irqLine (s : State) (i : Nat) : Bool :=
  if i < 4 then (s.seq i).callPair.isSome
  else if i = 90 then s.rdB R.islStatus 25
  else if 103 ≤ i ∧ i ≤ 106 then !decide (s.rd (R.canIrq (i - 103)) &&& s.rd (R.canIrqEn (i - 103)) = 0#32)
  else if i = 139 then !s.iom.fifo.isEmpty
  else if i = 140 then (List.range 5).any (fun p => !decide (s.rd (R.pmuOvf p) &&& s.rd (R.pmuIrqEn p) = 0#32))
  else if 145 ≤ i ∧ i ≤ 152 then s.rdB R.sysSwi (i - 145)
  else irqSourceReal i && tabGet (fun _ => false) s.irq.line i

/-- Who has claimed source `i`: 1 + 2 × pair + mode; 0: nobody. -/
def State.irqClaimed (s : State) (i : Nat) : Nat := tabGet (fun _ => 0) s.irq.claimed i

/-- Whether source `i` is pending: a claim hides it, but for the period interrupts; the sources of a domain that is off never are (R465). -/
def State.irqPending (s : State) (i : Nat) : Bool :=
  s.irqLine i && (decide (i < 4) || s.irqClaimed i == 0) && s.pdOn (irqDomain i)

/-- Priority with which source `i` reaches pair `p` in a mode (false machine, true supervisor); 0: it does not. -/
def State.irqPrio (s : State) (p : Nat) (sup : Bool) (i : Nat) : Nat :=
  if !s.irqPending i then 0
  else if i < 4 then (if (s.seq i).callPair == some p && !sup then 15 else 0)
  else
    let w := s.rd (R.sysIrqCfg (i - 4))
    if bitOf w 31 && bitOf w 29 == sup && bitOf w p then fieldOf w 19 16 else 0

/-- The highest candidate above the threshold; between equals the lower number. -/
def State.irqBest (s : State) (p : Nat) (sup : Bool) : Option (Nat × Nat) :=
  let th := if sup then s.rdF (R.sysIrqThresh p) 19 16 else s.rdF (R.sysIrqThresh p) 3 0
  (List.range 153).foldl (fun b i =>
    let pr := s.irqPrio p sup i
    if th < pr ∧ (b.map (·.2)).getD 0 < pr then some (i, pr) else b) none

/-- Pair `p` claims its best candidate in a mode. -/
def State.irqTake (s : State) (p : Nat) (sup : Bool) : State :=
  let i := ((s.irqBest p sup).map (·.1)).getD 0
  let got := tabSet (fun _ => (0, 0)) s.irq.got (2 * p + b2n sup) (s.cycleOf (R.sysIrqClaimM 0) + 1, i)
  if (s.irqBest p sup).isNone then { s with irq := { s.irq with got := got } }
  else
    { s with irq := { line := tabSet (fun _ => false) s.irq.line i false
                      claimed := tabSet (fun _ => 0) s.irq.claimed i (1 + 2 * p + b2n sup)
                      got := got } }

/-- What pair `p` received at its last claim in a mode. -/
def State.irqGot (s : State) (p : Nat) (sup : Bool) : Nat × Nat := tabGet (fun _ => (0, 0)) s.irq.got (2 * p + b2n sup)

/-- A claim of this cycle is taken back: its source is pending again. -/
def State.irqBack (s : State) (p : Nat) (sup : Bool) : State :=
  let i := (s.irqGot p sup).2
  if s.irqClaimed i = 1 + 2 * p + b2n sup then
    { s with irq := { s.irq with line := tabSet (fun _ => false) s.irq.line i true, claimed := tabSet (fun _ => 0) s.irq.claimed i 0 } }
  else s

/-- The claims of this same cycle by pairs above `p`, as 2 × pair + mode in ascending order. -/
def State.irqAbove (s : State) (p : Nat) : List Nat :=
  (List.range 10).filter (fun x => decide (p < x / 2) && (s.irqGot (x / 2) (x % 2 == 1)).1 == s.cycleOf (R.sysIrqClaimM 0) + 1)

/-- `IRQ_CLAIM`: a read of the claim register of pair `p` in a mode. Of two pairs in one cycle the lower-numbered receives the highest
candidate, whichever read comes first in the queue, and the other the next (R411; log 102). -/
def State.irqClaim (s : State) (p : Nat) (sup : Bool) : State × Word :=
  let up := s.irqAbove p
  let s := s.each up (fun s x => s.irqBack (x / 2) (x % 2 == 1))
  let s := s.irqTake p sup
  (s.each up (fun s x => s.irqTake (x / 2) (x % 2 == 1)), wordN (s.irqGot p sup).2)

/-- `IRQ_COMPLETE`: a write of a source number to the claim register. -/
def State.irqComplete (s : State) (p : Nat) (sup : Bool) (w : Word) : State :=
  let i := fieldOf w 7 0
  if s.irqClaimed i = 1 + 2 * p + b2n sup then
    let s : State := { s with irq := { s.irq with claimed := tabSet (fun _ => 0) s.irq.claimed i 0 } }
    if 145 ≤ i ∧ i ≤ 152 ∧ !bitOf (s.raisedNow R.sysSwi) (i - 145) then s.wrB R.sysSwi (i - 145) false else s
  else (s.wrF R.sysIrqErr 7 0 i).raise R.sysIrqErr 31

/-- `SWI_SET`: a write to `SYS_SWI`; a bit set in the cycle of its completion stays (R411). -/
def State.swiSet (s : State) (w : Word) : State :=
  (s.markRaised R.sysSwi (w &&& 0xFF#32) 0#32).wr R.sysSwi (s.rd R.sysSwi ||| (w &&& 0xFF#32))

/-! ### Core pairs (R407) -/

/-- `LOCKSTEP_MISMATCH` of a running pair. -/
def State.lockstepMismatch (s : State) (p : Nat) : State :=
  let a := R.sysCpStatus p
  if !s.rdB a 30 then s
  else
    let s := ((s.setRunning p false).wrB a 28 true).countUp a 15 0 1
    ((s.wdFail p 9).pmuCause 3).wearMismatch p

/-- `CP_RESTART`: a write of 1 to `RESTART` of pair `p` by a core pair: a stopped pair that is present and powered starts at its vector; another
initiator restarts nothing, nor does a pair start that is retired with no spare in its place (R455), or in the Harbour state (R445; log 58). -/
def State.cpRestart (s : State) (who : Initiator) (p : Nat) : State :=
  let a := R.sysCpStatus p
  match who with
  | .core q =>
    if q.val = p then s.raise a 27
    else if s.rdB a 31 && !s.rdB a 30 && s.pdOn (s.pairHome p) && s.pairServed p && s.rdF R.sysState 2 0 != 4 then
      (((s.setRunning p true).wrB a 29 false).wrB a 28 false).wdCured p 9
    else s
  | _ => s

/-! ### Memory errors (R414) -/

/-- The index of `SYS_ECC_m` for an address. -/
def eccIndex (a : Nat) : Nat := if a < 0x09000000 then 2 else if a < 0x10500000 then 0 else 3

/-- The address of an error is captured if none is held. -/
def State.eccAddr (s : State) (a : Nat) : State :=
  if s.rdB R.sysEccAddrHi 31 then s
  else ((s.wr R.sysEccAddrLo (wordN a)).wrF R.sysEccAddrHi 2 0 (a / 2 ^ 32)).raise R.sysEccAddrHi 31

/-- A corrected error at `a`: the location is rewritten with the corrected data. -/
def State.eccCorrected (s : State) (a : Nat) : State := ((s.countUp (R.sysEcc (eccIndex a)) 31 16 1).eccAddr a).wearEcc a

/-- The unit of the code around an address: 8 bytes, in DRAM a line of 64. -/
def eccUnit (a : Nat) : Nat := if a < 0x100000000 then a / 8 * 8 else a / 64 * 64

/-- An uncorrectable error met at `a`; in Lagoon its bank is retired (Table 22.2). -/
def State.eccUncorrectable (s : State) (a : Nat) : State :=
  let s := ((s.countUp (R.sysEcc (eccIndex a)) 15 0 1).eccAddr a).post 141 (eccIndex a)
  if eccIndex a = 2 then s.retireBank (bankOfAddr a) else s

/-- An uncorrectable error is found at `a`, and stays until the whole unit is written. -/
def State.eccFound (s : State) (a : Nat) : State :=
  ({ s with mem := { s.mem with bad := tabSet (fun _ => false) s.mem.bad (eccUnit a) true } }).eccUncorrectable a

/-- Whether any byte of `n` from `a` lies in a unit with an uncorrectable error. -/
def State.eccBad (s : State) (a n : Nat) : Bool :=
  s.mem.bad.any (fun x => x.2 && decide (eccUnit (a + n - 1) ≥ x.1 ∧ eccUnit a ≤ x.1))

/-- A write of `n` bytes at `a` to memory with error correction: a unit written in part is read first, and with an uncorrectable error
the write is refused; a unit written whole is good again. -/
def State.eccWrite (s : State) (a n : Nat) : Option State :=
  let part := s.mem.bad.filter (fun x =>
    let len := if x.1 < 0x100000000 then 8 else 64
    x.2 && decide (x.1 < a + n ∧ a < x.1 + len) && !decide (a ≤ x.1 ∧ x.1 + len ≤ a + n))
  if !part.isEmpty then none
  else some { s with mem := { s.mem with bad := s.mem.bad.filter (fun x => !decide (a ≤ x.1 ∧ x.1 < a + n)) } }

/-- `SCRUB_PASS` with the addresses at which it corrected and those at which it could not. -/
def State.scrubPass (s : State) (corr unc : List Nat) : State :=
  if s.rdF R.sysMemCfg 7 0 = 0 then s
  else ((corr.filter (fun a => (memRegion a s.dramEnd).isSome)).foldl State.eccCorrected s |>
    fun s => (unc.filter (fun a => (memRegion a s.dramEnd).isSome)).foldl State.eccFound s)

/-! ### Debug port (R428, R429) -/

/-- The debug level, as far as the debug bus is open. -/
def State.dbgLevel (s : State) : Nat := if s.tap == .dbgAccess then s.rdF R.sysDbg 1 0 else 0

/-- `JTAG_INSTRUCTION`: EXTEST and CLAMP are taken only in Harbour (state 4) or with `TEST_MODE`; else they are BYPASS. -/
def State.jtag (s : State) (i : Tap) : State :=
  let free := s.rdF R.sysState 2 0 == 4 || s.rdB R.sysStrap 0
  { s with tap := if (i == .extest || i == .clamp) && !free then .bypass else i }

/-- `DBG_LEVEL_WRITE`: the level only falls; below 2 every halted pair resumes. -/
def State.dbgLevelWrite (s : State) (w : Word) : State :=
  let new := fieldOf w 1 0
  if s.rdF R.sysDbg 1 0 ≤ new then s
  else
    let s := s.wrF R.sysDbg 1 0 new
    if new < 2 then s.each (List.range 5) (fun s p => s.wrB (R.sysCpStatus p) 29 false) else s

/-- `DEBUG_HALT` of a running pair. -/
def State.debugHalt (s : State) (p : Nat) : State :=
  if 2 ≤ s.dbgLevel ∧ s.rdB (R.sysCpStatus p) 30 then s.wrB (R.sysCpStatus p) 29 true else s

/-- `DEBUG_STEP`: a halted pair runs one instruction and is halted again; what the instruction does is a command of its own. -/
def State.debugStep (s : State) (p : Nat) : State :=
  if 2 ≤ s.dbgLevel ∧ s.rdB (R.sysCpStatus p) 30 ∧ s.rdB (R.sysCpStatus p) 29 then s.wrB (R.sysCpStatus p) 29 true else s

/-- `DEBUG_RESUME` of a halted pair. -/
def State.debugResume (s : State) (p : Nat) : State :=
  if 2 ≤ s.dbgLevel then s.wrB (R.sysCpStatus p) 29 false else s

/-- Whether every bridge of the domain of signal `i` is in `PULSE_BLOCK` (R429). -/
def State.forceFree (s : State) (i : Nat) : Bool :=
  let d := s.sigDomain i
  if d < 4 then s.threadBlocked d else (List.range 4).all s.threadBlocked

/-- `DEBUG_FORCE`: a write to `SYS_DBG_FORCE_k`; only the debugger enables and releases a force (log 56). -/
def State.forceWrite (s : State) (who : Initiator) (k : Nat) (w : Word) : State :=
  let a := R.sysDbgForce k
  let s := s.storeReg a w
  if !(who == .debug && decide (2 ≤ s.dbgLevel)) then s
  else if !bitOf w 31 then (s.wrB a 31 false).wrF a 11 0 (fieldOf w 11 0)
  else if s.forceFree (fieldOf w 11 0) then (s.wrF a 11 0 (fieldOf w 11 0)).wrB a 31 true
  else s.raise a 30

/-- A force whose bridges no longer block ends (R429). -/
def State.settle (s : State) : State :=
  s.each (List.range 8) (fun s k =>
    if s.rdB (R.sysDbgForce k) 31 && !s.forceFree (s.rdF (R.sysDbgForce k) 11 0) then
      (s.wrB (R.sysDbgForce k) 31 false).raise (R.sysDbgForce k) 29
    else s)

end Sys2Proof.Machine
end

