-- ==== Sys2Proof/Machine/Image.lean ====
section
/-! DEFINITION. The configuration image: its two copies in flash, header, section table, register records, signal declarations and
safety section (*Start-up, configuration image and the Harbour state*, R436–R442, R488, R489), and the resources a variant lacks. -/

namespace Sys2Proof.Machine

/-! ### Variants (R1–R3, R15) -/

/-- `SYS_ID` of a variant. -/
def sysIdOf : Variant → Word
  | .v4M => 0x48964821#32
  | .v4N => 0x48964021#32
  | .v2N => 0x48962021#32

/-- Address ranges of the registers that belong only to threads 2 and 3, or to the resources of R15 (R3). `SMON_FORCE_2` and `SMON_FORCE_3`
are among them, though R3's list of names does not hold them: a force is one thread's (DEDUCED, log 88). -/
def absent2N : List (Nat × Nat) :=
  [ (0x40302000, 0x40304000), (0x41001800, 0x41003000), (0x41010018, 0x41010020), (0x42401000, 0x42402000), (0x42800800, 0x42801000)
  , (0x43000090, 0x430000A0), (0x43000120, 0x43000140), (0x43000480, 0x43000500), (0x43001380, 0x43001700), (0x43004A80, 0x43005500)
  , (0x43400E00, 0x43401C00), (0x44004200, 0x44004400), (0x440080E0, 0x440081C0), (0x44400018, 0x44400020), (0x44400180, 0x44400200)
  , (0x44800140, 0x44800180) ] ++
  [(48, 96), (160, 208), (272, 320), (390, 404), (422, 436), (442, 444), (446, 448), (450, 452), (454, 456), (458, 460), (462, 464),
    (466, 468)].map (fun (r : Nat × Nat) => (0x44001000 + 4 * r.1, 0x44001000 + 4 * r.2))

/-- Whether the device lacks the register at `a`: it reads 0 and ignores writes (R2, R3). -/
def State.absent (s : State) (a : Nat) : Bool :=
  (s.dev == .v2N && absent2N.any (fun r => decide (r.1 ≤ a ∧ a < r.2))) ||
    (!s.dev.islet && decide (0x44C00000 ≤ a ∧ a < 0x44D00000))

/-! ### Flash and header (R436, R437, R489) -/

/-- `n` bytes of a sparse byte table from `a`. -/
def tabBytes (d : Byte) : Nat → Nat → Tab Byte → List Byte
  | 0, _, _ => []
  | n + 1, a, t =>
    match t.dropWhile (fun kv => decide (kv.1 < a)) with
    | (k, v) :: r => if k = a then v :: tabBytes d n (a + 1) r else d :: tabBytes d n (a + 1) ((k, v) :: r)
    | [] => d :: tabBytes d n (a + 1) []

/-- `n` bytes of the flash. -/
def State.flashRead (s : State) (a n : Nat) : List Byte := tabBytes 0xFF#8 n a s.boot.flash

/-- Bytes `o` to `o + n - 1` of copy `c` (0: A, 1: B). -/
def State.copyRead (s : State) (c o n : Nat) : List Byte := s.flashRead (c * 0x1000000 + o) n

/-- The fields of a header that later steps use. -/
structure Header where
  len : Nat
  seq : Nat
  secVer : Nat
  key : Nat
  dram : Nat
  part : Nat
  sectN : Nat
  sectTab : Nat
  deriving DecidableEq, Repr

/-- The header of 256 bytes (Table 21.3). -/
def headerOf (h : List Byte) : Header :=
  let f (o n : Nat) : Nat := natLE ((h.drop o).take n)
  ⟨f 8 4, f 12 4, f 16 1, f 17 1, f 19 1, f 20 4, f 24 4, f 28 4⟩

/-- The first three checks of Table 21.6: the code of the first that fails, or 0. -/
def headerCheck (h : List Byte) : Nat :=
  let f (o n : Nat) : Nat := natLE ((h.drop o).take n)
  let d := headerOf h
  if f 0 4 ≠ 0x4D495451 ∨ f 4 2 ≠ 1 ∨ f 6 2 ≠ 256 then 0x0101
  else if crc32c (h.take 252) ≠ f 252 4 then 0x0102
  else
    let ok : Bool := decide (d.len % 4 = 0 ∧ 512 ≤ d.len ∧ d.len ≤ 16777216 ∧ d.secVer ≤ 63 ∧ d.key ≤ 3 ∧ f 18 1 ≤ 2 ∧ d.dram ≤ 4 ∧
      (natBits d.part 19 16 = 2 ∨ natBits d.part 19 16 = 4) ∧ natBits d.part 31 21 = 0 ∧ 1 ≤ d.sectN ∧ d.sectN ≤ 256 ∧
      d.sectTab % 4 = 0 ∧ 256 ≤ d.sectTab ∧ d.sectTab + 32 * d.sectN + 128 ≤ d.len) &&
      ((h.drop 64).take 188).all (fun b => b == 0#8)
    if ok then 0 else 0x0103

/-! ### Sections (R438, R441) -/

/-- An entry of the section table (Table 21.4). -/
structure Section where
  type : Nat
  off : Nat
  len : Nat
  dest : Nat
  crc : Nat
  rest : Nat
  deriving DecidableEq, Repr

/-- The section table of copy `c`. -/
def State.sections (s : State) (c : Nat) (h : Header) : List Section :=
  (List.range h.sectN).map (fun i =>
    let e := s.copyRead c (h.sectTab + 32 * i) 32
    let f (o n : Nat) : Nat := natLE ((e.drop o).take n)
    ⟨f 0 4, f 4 4, f 8 4, f 12 8, f 24 4, f 20 4 + f 28 4⟩)

/-- Whether bytes `a` to `a + n - 1` lie in a TCM, in Lagoon or in the usable DRAM range. -/
def State.destOk (s : State) (a n : Nat) : Bool :=
  match memRegion a s.dramEnd, memRegion (a + n - 1) s.dramEnd with
  | some r, some q => r == q && r != 0
  | _, _ => false

/-- Whether two byte ranges overlap. -/
def overlap (a n b m : Nat) : Bool := decide (a < b + m ∧ b < a + n)

/-- No two of the ranges overlap. -/
def disjointAll : List (Nat × Nat) → Bool
  | [] => true
  | (a, n) :: r => r.all (fun x => !overlap a n x.1 x.2) && disjointAll r

/-- The structure check (R438, R441): the length P of the safety program included. -/
def State.structOk (s : State) (c : Nat) (h : Header) : Bool :=
  let ss := s.sections c h
  let tabEnd := h.sectTab + 32 * h.sectN
  let one (x : Section) : Bool :=
    decide (1 ≤ x.type ∧ x.type ≤ 4 ∧ x.off % 4 = 0 ∧ x.len % 4 = 0 ∧ 4 ≤ x.len ∧ tabEnd ≤ x.off ∧ x.off + x.len + 128 ≤ h.len ∧ x.rest = 0)
      && (if x.type = 2 then decide (x.dest < 2 ^ 35) && s.destOk x.dest x.len else decide (x.dest = 0))
  ss.all one && disjointAll (ss.map (fun x => (x.off, x.len))) &&
    decide ((ss.filter (fun x => x.type == 3)).length = 1) &&
    (match ss.filter (fun x => x.type == 4) with
      | [x] =>
        let p := natLE (s.copyRead c x.off 4)
        decide (p % 4 = 0 ∧ p ≤ 262144 ∧ p + 4 ≤ x.len)
      | _ => false)

/-- Sections in ascending order of `OFFSET`. -/
def insertSection (x : Section) : List Section → List Section
  | [] => [x]
  | y :: ys => if x.off ≤ y.off then x :: y :: ys else y :: insertSection x ys
def sortSections (xs : List Section) : List Section := xs.foldr insertSection []

/-! ### Register records (R439) -/

/-- The words of a byte string. -/
def byteWords : Nat → List Byte → List Word
  | 0, _ => []
  | n + 1, bs => wordN (natLE (bs.take 4)) :: byteWords n (bs.drop 4)

/-- The records of a section: address and words; the flag says that the section is a whole number of well-formed records. -/
def recordsIn : Nat → List Byte → List (Nat × List Word) × Bool
  | 0, bs => ([], bs.isEmpty)
  | n + 1, bs =>
    if bs.isEmpty then ([], true)
    else
      let a := natLE (bs.take 4)
      let k := natLE ((bs.drop 4).take 4)
      let rest := bs.drop 8
      if k = 0 ∨ 65536 < k ∨ rest.length < 4 * k then ([], false)
      else
        let r := recordsIn n (rest.drop (4 * k))
        ((a, byteWords k rest) :: r.1, r.2)

/-- The address-word pairs of records, in order. -/
def recordWords (rs : List (Nat × List Word)) : List (Nat × Word) :=
  (rs.map (fun r => (List.range r.2.length).zip r.2 |>.map (fun x => (r.1 + 4 * x.1, x.2)))).flatten

/-- Whether a word of a record may be loaded (R439, R117, R3): every parameter word is the image's, the reserved word 15 included. -/
def State.wordLoads (s : State) (safety : Bool) (a : Nat) (w : Word) : Bool :=
  let b := a / 0x100000
  let prot := b == 0x440 || b == 0x444
  match regRow a with
  | none => false
  | some r =>
    decide (a % 4 = 0) && b != 0x46C && prot == safety && !decide (0x42018000 ≤ a ∧ a < 0x42020000) && !s.absent a &&
      decide (Nat.lor (Nat.lor r.rw r.lock) r.img ≠ 0 ∨ (0x42010000 ≤ a ∧ a < 0x42018000)) &&
      decide (Nat.land w.toNat (2 ^ 32 - 1 - r.bits) = 0 ∧ Nat.land w.toNat (Nat.lor r.cmd r.w1c) = 0)

/-- The bits of the register at `a` that the variant has: the two-thread variant lacks `SD_CLK_4`–`SD_CLK_7` (R15). -/
def State.bitsHere (s : State) (a : Nat) : Word := if s.dev = .v2N ∧ a = R.sdfClkCfg then 0x0F0000FF#32 else 0xFFFFFFFF#32

/-- The loader writes a word: the RW, LOCK and image bits of the register take it; a parameter word reaches both banks (R117). -/
def State.loadWord (s : State) (a : Nat) (w : Word) : State :=
  match regRow a with
  | none => s
  | some r =>
    let m := wordN (Nat.lor (Nat.lor r.rw r.lock) r.img) &&& s.bitsHere a
    let put (s : State) (x : Nat) : State := s.wr x ((s.rd x &&& ~~~ m) ||| (w &&& m))
    let s := put s a
    if 0x42010000 ≤ a ∧ a < 0x42018000 then put s (a + 0x8000) else s

/-- The words of a declaration section. -/
def declWords (bs : List Byte) : List Word := byteWords 4096 bs

/-- Whether the word of R440 for signal `i` is well formed. -/
def State.declOk (s : State) (i : Nat) (w : Word) : Bool :=
  if !bitOf w 31 then w == 0#32
  else
    let d := fieldOf w 30 28
    let c := fieldOf w 27 24
    let k := fieldOf w 11 0
    let lim := match c with
      | 1 => 112
      | 2 => 24
      | 3 => 128
      | 4 => 1
      | 5 => 8
      | 6 => 4
      | 7 => 1
      | 8 => 6
      | 9 => 4
      | _ => 0
    decide (i < 4064) && decide (fieldOf w 23 12 = 0 ∧ (d < s.dev.threads ∨ d = 7) ∧ k < lim)

end Sys2Proof.Machine
end

