-- ==== Sys2Proof/Machine/Validate.lean ====
section
/-! DEFINITION. Validation of a loaded image: every rule of the spec that says an image fails validation, as the list of the registers
that break one. The rules stand in R3, R22, R32, R34, R40, R47, R52, R56–R58, R61, R64, R73, R74, R76, Table 4.2, R80, R85, R92, R93,
R98, R101, R104, R105, R110, R112, R125, R126, R131, R132, R142, R151, R152, R161, R168, R178–R182, R187, R194, R195, R211, R213, R215,
R219, R230, R237, R244, R272, R274, R276, R282, R295–R297, R314, R326, R336, R338, R357, R360, R361, R366, R367, R381, R385, R386, R388,
R400, R435, R440 and R451. A rule over several registers is reported at the register named here with it (log 66). -/

namespace Sys2Proof.Machine

/-- The register `a` breaks a rule unless `ok`. -/
def must (ok : Bool) (a : Nat) : List Nat := if ok then [] else [a]

/-- The addresses found over a range of indices. -/
def forEvery (n : Nat) (f : Nat → List Nat) : List Nat := (List.range n).flatMap f

/-! ### Signals -/

/-- An output field names no signal, or a declared signal of that writer (R440). -/
def State.outOk (s : State) (cls inst i : Nat) : Bool :=
  i == 0xFFF || (bitOf (s.sigDecl i) 31 && fieldOf (s.sigDecl i) 27 24 == cls && fieldOf (s.sigDecl i) 11 0 == inst)

/-- An output field that must also lie in swap domain `d`. -/
def State.outIn (s : State) (cls inst d i : Nat) : Bool := s.outOk cls inst i && (i == 0xFFF || s.sigDomain i == d)

/-- Both signal fields `[27:16]` and `[11:0]` of register `a` as outputs. -/
def State.outPair (s : State) (cls inst d a : Nat) : List Nat :=
  must (s.outIn cls inst d (s.rdF a 11 0) && s.outIn cls inst d (s.rdF a 27 16)) a

/-- The chains behind a signal that is a chain's output, or a pair's output whose inputs are (R125). -/
def State.chainsOf (s : State) (i : Nat) : Option (List Nat) :=
  match s.chainOfSig i with
  | some c => some [c]
  | none =>
    match (List.range 128).find? (fun p => s.pairEn p && s.pairOut p == i) with
    | none => none
    | some p =>
      match s.chainOfSig (s.pairA p), s.chainOfSig (s.pairB p) with
      | some a, some b => some [a, b]
      | _, _ => none

/-- The alignment condition of R93 between two chains. -/
def State.aligned (s : State) (a b : Nat) : Bool :=
  (s.rsMode a == 2 && s.rsMode b == 2 && s.chThread a == s.chThread b && s.rsOut a == s.rsOut b) ||
    (s.rsMode a == 1 && s.rsMode b == 1 && s.rsOut a == s.rsOut b &&
      s.rdF (R.sdfChRsPhase a) 19 0 == s.rdF (R.sdfChRsPhase b) 19 0)

/-- Whether every signal of a list rests on chains and all of them are aligned with one another. -/
def State.alignedAll (s : State) (is : List Nat) : Bool :=
  let cs := is.map s.chainsOf
  let all := (cs.filterMap id).flatten
  cs.all Option.isSome && all.all (fun a => all.all (fun b => a == b || s.aligned a b))

/-! ### Threads and programs (R3, R22, R32, R34, R40) -/

/-- A thread of the variant whose pacing and program are all 0 (R32). -/
def State.threadUnused (s : State) (n : Nat) : Bool :=
  s.rdF (R.seqPeriod n) 19 0 == 0 && s.rdF (R.seqAdvance n) 19 0 == 0 && (List.range 64).all (fun k => s.rd (R.seqStep n k) == 0#32)

/-- Whether nothing may be assigned to thread `n`. -/
def State.threadOut (s : State) (n : Nat) : Bool := decide (n < 4) && (decide (s.dev.threads ≤ n) || s.threadUnused n)

/-- A field that names a thread: it must not name one that is out, where the resource is enabled or the field is not at its reset. -/
def State.threadField (s : State) (a hi lo : Nat) (en : Bool) : List Nat :=
  let v := s.rdF a hi lo
  must (!(s.threadOut v && (en || decide (v ≠ 0)))) a

/-- A field of thread bits. -/
def State.threadMask (s : State) (a hi lo : Nat) : List Nat :=
  must ([0, 1, 2, 3].all (fun n => !(s.threadOut n && natBit (s.rdF a hi lo) n))) a

/-- What the program check carries from word to word: stage, kinds met once, end reached. -/
structure ProgScan where
  stage : Nat
  once : List Nat
  ended : Bool
  deriving DecidableEq, Repr

/-- One word of a program; none where it breaks R34. -/
def State.progWord (s : State) (n k : Nat) (p : ProgScan) : Option ProgScan :=
  let w := s.rd (R.seqStep n k)
  let kind := fieldOf w 31 28
  let a := fieldOf w 21 16
  let b := fieldOf w 15 0
  let seen (x : Nat) : Bool := p.once.contains x
  if p.ended then (if w = 0#32 then some p else none)
  else if k = 0 then (if kind = 1 then some { p with stage := 1 } else none)
  else if kind = 0 then (if [2, 6, 7, 8, 9].all seen then some { p with ended := true } else none)
  else if kind = 10 ∨ kind = 11 then (if (kind == 11 || seen 2) && !seen 7 then some p else none)
  else if 12 ≤ kind then none
  else
    let ok : Bool := decide (p.stage ≤ kind) && !([2, 6, 7, 8, 9].contains kind && seen kind) && !(kind == 3 && b % 4 == 0) &&
      (kind != 4 || (s.groupEn a && s.groupThread a == n)) &&
      (kind != 6 || (List.range 7).all (fun l => !natBit b l ||
        (s.legMode (s.legOf n l) == 1 && s.slOwner (3 * s.legOf n l) == n)))
    if ok then some { p with stage := kind, once := kind :: p.once } else none

/-- The first word of thread `n`'s program that breaks R34. -/
def State.progFail (s : State) (n : Nat) : Nat → Nat → ProgScan → Option Nat
  | 0, _, p => if p.ended then none else some 63
  | m + 1, k, p =>
    match s.progWord n k p with
    | none => some k
    | some q => s.progFail n m (k + 1) q

/-- Pacing and program of thread `n`. -/
def State.valThread (s : State) (n : Nat) : List Nat :=
  must (decide (s.rdF (R.seqCfg n) 7 0 ≠ 0)) (R.seqCfg n) ++
  (if s.threadOut n then []
    else
      let p := s.rdF (R.seqPeriod n) 19 0
      let a := s.rdF (R.seqAdvance n) 19 0
      must (decide (5000 ≤ p ∧ p ≤ 1000000) && s.carOn n && decide (s.carLen n = 32 * p)) (R.seqPeriod n) ++
      must (decide (s.rdF R.stlLead 15 0 + 400 ≤ a ∧ a + 1000 ≤ p)) (R.seqAdvance n) ++
      (match s.progFail n 64 0 ⟨0, [], false⟩ with
        | none => []
        | some k => [R.seqStep n k]))

/-- A schedule group is named by one step at most (R104). -/
def State.valGroupSteps (s : State) : List Nat :=
  let steps := (List.range 256).filterMap (fun i =>
    let w := s.rd (R.seqStep (i / 64) (i % 64))
    if fieldOf w 31 28 = 4 then some (R.seqStep (i / 64) (i % 64), fieldOf w 21 16) else none)
  steps.flatMap (fun x => must (steps.all (fun y => x.1 == y.1 || x.2 != y.2)) x.1)

/-! ### Filter array -/

/-- The MAC demand of chain `i` per frame (R64). -/
def State.macDemand (s : State) (i : Nat) : Nat :=
  if !s.chEn i then 0
  else
    let per := 32000
    let shortest : Nat :=
      let o := 32 * s.rsOut i
      if s.rsMode i = 2 ∧ 0 < o then
        let r := s.seqP (s.chThread i) % o
        if r = 0 then o else r
      else o
    (if s.firEn i then s.firN i * (per / max 1 (s.firT i) + 1) else 0) +
      (if s.rsMode i = 0 then 0 else 2 * s.rsTaps i * (per / max 1 shortest + 1))

/-- The least `b` with `x ≤ 2^b`. -/
def ceilLog2 (x : Nat) : Nat := if x ≤ 1 then 0 else (x - 1).log2 + 1

def State.valChain (s : State) (i : Nat) : List Nat :=
  let th := s.rdF (R.sdfChIn i) 26 24
  let dly := s.rdF (R.sdfChCap i) 24 16
  let shifts := (List.range 10).foldl (fun a k => a + s.chSh i k) 0
  let n := s.firN i
  let en := s.chEn i
  must (!(4 ≤ th && th ≤ 6)) (R.sdfChIn i) ++ s.threadField (R.sdfChIn i) 26 24 en ++
  must (decide (s.rsMode i ≠ 3 ∧ s.rdF (R.sdfChRs i) 29 28 ≠ 3)) (R.sdfChRs i) ++
  (if !en then [] else
    must (decide (4 ≤ dly ∧ 8 * dly < 2 * s.chP i)) (R.sdfChCap i) ++
    must (decide (1 + ceilLog2 (s.chR i ^ s.chK i) ≤ 36 + shifts)) (R.sdfChCicSh i) ++
    (if s.firEn i then
      must (!s.rdB (R.sdfChFir i) 30 ||
        (List.range n).all (fun k => s.coef (s.firBase i + k) == s.coef (s.firBase i + (n - 1 - k)))) (R.sdfChFir i) ++
      must (decide (s.firBase i + n ≤ 16384)) (R.sdfChCoef i) else []) ++
    (if s.rsMode i = 0 then [] else
      must (decide (s.rsBase i + 65 * s.rsTaps i ≤ 16384)) (R.sdfChCoef i) ++
      must (decide (s.rsMode i ≠ 2) || decide (th < 4)) (R.sdfChRs i) ++
      (if th < 4 then must (decide (s.chLat i ≤ s.closeLag th)) (R.sdfChRs i) else [])) ++
    s.outPair 1 i th (R.sdfChSig i) ++ s.outPair 1 i th (R.sdfChDsigA i) ++ s.outPair 1 i th (R.sdfChDsigB i))

def State.valSdf (s : State) : List Nat :=
  forEvery 112 s.valChain ++
  must (decide ((List.range 112).foldl (fun a i => a + s.macDemand i) 0 ≤ 28800)) R.sdfMac

/-! ### Converters -/

/-- A trigger code of Table 4.2 that is not reserved. -/
def sarCodeOk (c : Nat) : Bool := decide (c ≤ 1 ∨ (4 ≤ c ∧ c ≤ 11) ∨ (16 ≤ c ∧ c ≤ 39) ∨ (256 ≤ c ∧ c ≤ 511))

/-- The converters whose ends of sequence trigger a sequence of converter `k`, by the fields of its group's leader (R79, R85). -/
def State.sarPreds (s : State) (k : Nat) : List Nat :=
  let a := R.sarTrig (s.sarLeader k)
  if s.sarEn k then ([s.rdF a 8 0, s.rdF a 24 16].filter (fun c => decide (16 ≤ c ∧ c ≤ 39))).map (· - 16) else []

/-- The converters of `l` and all whose ends of sequence lead to them in at most `f` triggers. -/
def State.sarBehind (s : State) : Nat → List Nat → List Nat
  | 0, l => l
  | f + 1, l => s.sarBehind f (l ++ l.flatMap s.sarPreds).eraseDups

def State.valSar (s : State) (k : Nat) : List Nat :=
  let grp (j : Nat) : Nat := s.rdF (R.sarCfg j) 27 24
  let g := grp k
  let mates := (List.range 24).filter (fun j => s.rdB (R.sarCfg j) 31 && grp j == g)
  let spare := (List.range 4).any (fun j => s.rdB (R.wearSar j) 31 && s.rdF (R.wearSar j) 28 24 == k)
  let len (j : Nat) : Nat := s.rdF (R.sarCfg j) 20 12
  must (decide (g ≤ 8) && (g == 0 || !s.rdB (R.sarCfg k) 31 || (decide (2 ≤ mates.length) && mates.all (fun j => len j == len k))) &&
    !(spare && (g != 0 || s.rdB (R.sarCfg k) 31))) (R.sarCfg k) ++
  must (sarCodeOk (s.rdF (R.sarTrig k) 8 0) && sarCodeOk (s.rdF (R.sarTrig k) 24 16) &&
    !(s.sarBehind 24 (s.sarPreds k)).contains k) (R.sarTrig k) ++
  s.outPair 2 k 7 (R.sarTsSig k) ++
  forEvery 20 (fun e =>
    let a := R.sarEnt k e
    let inp := s.rdF a 31 25
    must (decide (inp < 96) && (!s.rdB a 24 || (decide (inp ≤ 62) && inp % 2 == 0)) && s.outIn 2 k 7 (s.rdF a 11 0) &&
      (g == 0 || !s.rdB (R.sarCfg k) 31 || mates.all (fun j => s.rdF (R.sarEnt j e) 23 16 == s.rdF a 23 16))) a)

/-! ### Pairs and spares -/

def State.valPair (s : State) (p : Nat) : List Nat :=
  let a := R.seqPairCfg p
  let d := s.pairThread p
  let input (i : Nat) : Bool :=
    match s.chainOfSig i with
    | some c => s.chThread c == d || s.sigDomain i == 7
    | none => s.sigDomain i == 7
  let alone (i : Nat) : Bool := (List.range 128).all (fun q => q == p || !s.pairEn q || (s.pairA q != i && s.pairB q != i))
  must (decide (s.rdF a 27 26 ≠ 3)) a ++ s.threadField a 30 28 (s.pairEn p) ++
  must (decide (s.rdF (R.seqPairCnt p) 31 24 ≠ 0 ∧ s.rdF (R.seqPairCnt p) 23 16 ≠ 0)) (R.seqPairCnt p) ++
  (if !s.pairEn p then [] else
    must ((decide (4 ≤ d) || (input (s.pairA p) && input (s.pairB p))) && alone (s.pairA p) && alone (s.pairB p) &&
      (decide (d < 4) || d == 7) &&
      (match s.chainOfSig (s.pairA p), s.chainOfSig (s.pairB p) with
        | some x, some y => s.aligned x y
        | _, _ => true)) a ++
    must (s.outIn 3 p d (s.pairOut p)) (R.seqPairSig p))

def State.valSub (s : State) (j : Nat) : List Nat :=
  if !s.subEn j then [] else
    let a := 96 + j
    let b := s.subPrimary j
    let same (f : Nat → Nat) : Bool := s.rd (f a) == s.rd (f b)
    must (decide (b ≤ 95) && s.chThread a == s.chThread b && same R.sdfChCic && same R.sdfChCicSh && same R.sdfChFir && same R.sdfChCoef &&
      same R.sdfChFirGd && same R.sdfChRs && same R.sdfChRsPhase && s.rdF (R.sdfChSig a) 11 0 == 0xFFF &&
      s.rdF (R.sdfChSig a) 27 16 == 0xFFF) (R.seqSub j)

/-! ### Control engine -/

/-- The signals that R109 reads in a context with these parameters. -/
def CtxPar.reads (p : CtxPar) : List Nat :=
  [p.refSig, p.fbSig] ++ (if p.ffEn then [p.ffSig] else []) ++
    [p.selSig, p.umaxSig, p.uminSig].filter (fun i => i != 0xFFF)

/-- The contexts with `EN` = 1 of group `g`. -/
def State.groupLive (s : State) (g : Nat) : List Nat := (s.groupCtx g).filter (fun c => (s.ctxPar 0 c).en)

/-- The parameter set of context `c`, whether a group runs it or not (R110). -/
def State.valCtx (s : State) (c : Nat) : List Nat :=
  let p := s.ctxPar 0 c
  must (decide (!p.dEn ∨ (0 < p.kf ∧ p.kf ≤ (2 ^ p.shF : Nat)))) (R.ceParam7 c) ++ must (decide (p.uMin ≤ p.uMax)) (R.ceParam10 c) ++
    must (decide (p.iMin ≤ p.iMax)) (R.ceParam12 c) ++ must (decide (1 ≤ p.handN ∧ p.handN ≤ 1024)) (R.ceParam14 c)

def State.valGroup (s : State) (g : Nat) : List Nat :=
  let a := R.ceGroup g
  let cs := s.groupCtx g
  must (decide (s.groupThread g ≤ 3)) a ++ s.threadField a 30 28 (s.groupEn g) ++
  (if !s.groupEn g then [] else
    must (decide (1 ≤ s.groupCount g ∧ s.rdF a 8 0 + s.groupCount g ≤ 512) &&
      (List.range 64).all (fun h => h == g || !s.groupEn h || !overlap (s.rdF a 8 0) (s.groupCount g) (s.rdF (R.ceGroup h) 8 0) (s.groupCount h))) a ++
    cs.flatMap (fun c =>
      let p := s.ctxPar 0 c
      let live := s.groupLive g
      let all := (List.range 64).flatMap (fun h => if s.groupEn h then s.groupLive h else [])
      let set := all.filter (fun d => (s.ctxPar 0 d).outSig == p.outSig)
      let ld := set.headD c
      (if !p.en then [] else
        must (s.outIn 4 0 (s.groupThread g) p.outSig && decide (p.outSig ≠ 0xFFF)) (R.ceParam2 c) ++
        must (p.reads.all (fun i => live.all (fun d => d == c || (s.ctxPar 0 d).outSig != i))) (R.ceParam1 c) ++
        (if set.length ≤ 1 then [] else
          must (decide (set.length ≤ 8) && decide (p.selSig ≠ 0xFFF) && set.all (fun d => live.contains d) &&
            set == (List.range set.length).map (fun k => ld + k) &&
            set.all (fun d => (s.ctxPar 0 d).selSig == p.selSig && (d == c || (s.ctxPar 0 d).selVal != p.selVal))) (R.ceParam0 c)))))

/-! ### Vector units and positions -/

/-- R125 and R151: a voltage field of 0xFFF, and `SIG_IC` with `I3` = 0, is not used. -/
def State.valVec (s : State) (u : Nat) : List Nat :=
  let n := u / 2
  let machine := u % 2 == 0
  let f (a hi lo : Nat) : Nat := s.rdF a hi lo
  let cfg := R.vecCfg u
  let pos := f cfg 25 24
  let ic := f (R.vecSig1 u) 11 0
  let inputs := [f (R.vecSig0 u) 11 0, f (R.vecSig0 u) 27 16] ++ (if s.rdB cfg 23 || ic != 0xFFF then [ic] else []) ++
    [f (R.vecSig2 u) 11 0, f (R.vecSig2 u) 27 16, f (R.vecSig3 u) 11 0].filter (fun i => i != 0xFFF)
  let srcs := [f cfg 29 28, f cfg 27 26]
  must (decide (f cfg 20 19 ≠ 3 ∧ f cfg 29 28 ≠ 3)) cfg ++
  must (decide (0 < s.rdS (R.vecTTabMax u))) (R.vecTTabMax u) ++ must (decide (0 < s.rdS (R.vecXTabMax u))) (R.vecXTabMax u) ++
  must (decide (0 ≤ s.rdS (R.vecDischId u))) (R.vecDischId u) ++
  must (decide (f (R.vecFlyTime u) 15 0 ≤ f (R.vecFlyTime u) 31 16)) (R.vecFlyTime u) ++
  (if !s.rdB cfg 31 then [] else
    must (s.alignedAll inputs) (R.vecSig0 u) ++
    (if machine && srcs.any (fun c => c == 1 || c == 2) then
      must ([0, 2, 4, 6].all (fun v => v == u || !s.rdB (R.vecCfg v) 31 ||
        !([f (R.vecCfg v) 29 28, f (R.vecCfg v) 27 26].any (fun c => c == 1 || c == 2)) || f (R.vecCfg v) 25 24 != pos)) cfg else []) ++
    (if machine then
      must (decide (320 * f (R.vecFlyZv u) 15 0 + s.seqAdv n + s.closeLag n ≤ s.seqP n)) (R.vecFlyZv u) else []) ++
    [R.vecOut0 u, R.vecOut1 u, R.vecOut2 u, R.vecOut3 u, R.vecOut4 u, R.vecOut5 u].flatMap (s.outPair 5 u n))

def State.valPos (s : State) (k : Nat) : List Nat :=
  let cfg := R.vecPosCfg k
  let mode := s.rdF cfg 31 30
  must (decide (mode ≠ 3)) cfg ++
  (if mode = 2 then
    must (decide ((s.rdF cfg 17 12 + 2) * (2 * s.rdF cfg 9 0 * 128) + usec ≤ 320 * s.rdF (R.vecPosSsi k) 31 16)) (R.vecPosSsi k) else [])

/-! ### Grid-forming engines and Sound -/

def State.valGfe (s : State) (n : Nat) : List Nat :=
  let f (a hi lo : Nat) : Nat := s.rdF a hi lo
  let cfg := R.gfeCfg n
  let role := f (R.gfeBsCfg n) 31 30
  let v := 2 * n + 1
  let outs := [R.gfeOut0 n, R.gfeOut1 n, R.gfeOut2 n, R.gfeOut3 n, R.gfeOut4 n, R.gfeOut5 n, R.gfeOut6 n]
  let la := f (R.gfeSig4 n) 11 0
  let set (i : Nat) : Bool := i != 0xFFF
  let grid := [f (R.vecSig2 v) 11 0, f (R.vecSig2 v) 27 16, f (R.vecSig3 v) 11 0]
  let qd := f (R.gfeFrtCfg n) 21 16
  let turn : Int := qd * 4 * s.rdN (R.gfeFbase n) * (s.rdF (R.seqPeriod n) 19 0 : Nat)
  must (decide (f cfg 28 27 ≠ 3)) cfg ++ must (decide (role ≠ 3)) (R.gfeBsCfg n) ++
  (if !s.rdB cfg 31 then [] else
    must (s.gfeValid n) (R.gfeCtrl n + 0x84) ++
    must (decide (f (R.gfeFrtCnt n) 15 8 ≠ 0 ∧ f (R.gfeFrtCnt n) 7 0 ≠ 0)) (R.gfeFrtCnt n) ++
    must (decide (10 ≤ f (R.gfeBsTime n) 15 0 ∧ f (R.gfeBsTime n) 15 0 ≤ 6000)) (R.gfeBsTime n) ++
    must (set (f (R.gfeSig0 n) 11 0) && f (R.gfeSig0 n) 11 0 == f (R.vecOut0 v) 11 0 && set (f (R.gfeSig0 n) 27 16) &&
      f (R.gfeSig0 n) 27 16 == f (R.vecOut0 v) 27 16) (R.gfeSig0 n) ++
    must (set (f (R.gfeSig1 n) 11 0) && f (R.gfeSig1 n) 11 0 == f (R.vecOut3 v) 11 0 && set (f (R.gfeSig1 n) 27 16) &&
      f (R.gfeSig1 n) 27 16 == f (R.vecOut3 v) 27 16) (R.gfeSig1 n) ++
    outs.flatMap (fun a => s.outPair 6 n n a ++ must (set (f a 11 0) && (set (f a 27 16) || a == R.gfeOut6 n)) a) ++
    [R.gfeFrtSig1 n, R.gfeFrtSig2 n].flatMap (s.outPair 6 n n) ++
    must (s.outIn 6 n n (f (R.gfeFrtSig0 n) 27 16)) (R.gfeFrtSig0 n) ++ must (s.outIn 6 n n (f (R.gfeBsSig n) 11 0)) (R.gfeBsSig n) ++
    (if la = 0xFFF then [] else
      must (s.alignedAll ([la, f (R.gfeSig4 n) 27 16, f (R.gfeSig5 n) 11 0] ++ grid)) (R.gfeSig4 n)) ++
    (if !s.rdB (R.gfeFrtCfg n) 31 then [] else
      must (f (R.gfeFrtSig0 n) 27 16 == f (R.gfeSig2 n) 11 0 && set (f (R.gfeSig2 n) 11 0)) (R.gfeSig2 n)) ++
    must (decide (8 ≤ qd) && decide ((turn - 1000000000 * 65536).natAbs ≤ 30000000 * 65536)) (R.gfeFrtCfg n) ++
    (if role = 0 then [] else
      must (s.rdB cfg 30 && set la && set (f (R.gfeSig5 n) 27 16)) (R.gfeBsCfg n)) ++
    must (decide (role ≠ 1) || [0, 1, 2, 3].all (fun m => m == n || s.rdF (R.gfeBsCfg m) 31 30 != 1)) (R.gfeBsCfg n))

def State.valSnd (s : State) : List Nat :=
  let th := s.sndThread
  let car : Int := s.rdF R.sndCfg 12 0
  let fb : Int := s.rdN (R.gfeFbase th)
  let lead := [0, 1, 2, 3].filter (fun n => s.rdF (R.gfeBsCfg n) 31 30 == 1)
  must (decide (th ≤ 3) && !(s.rdB R.sndCfg 30 && s.rdF R.sndCfg 21 16 == 63)) R.sndCfg ++
  s.threadField R.sndCfg 29 27 s.sndEn ++
  (if !s.sndEn then [] else
    must (lead.all (fun n => n == th) &&
      decide ((car * 32768 - fb).natAbs * s.rdF (R.seqPeriod th) 19 0 ≤ 400000000 * 65536)) R.sndCfg ++
    must (s.outIn 7 0 th (s.rdF R.sndSig0 11 0)) R.sndSig0 ++ s.outPair 7 0 th R.sndSig1 ++ s.outPair 7 0 th R.sndSig2 ++
    must (s.outIn 7 0 th (s.rdF R.sndSig3 11 0)) R.sndSig3 ++
    must (decide (s.rdF R.sndSig1 11 0 ≠ 0xFFF ∧ s.rdF R.sndSig1 27 16 ≠ 0xFFF) && s.rdF R.sndSig1 11 0 == s.rdF (R.gfeSig6 th) 11 0 && s.rdF R.sndSig1 27 16 == s.rdF (R.gfeSig6 th) 27 16) R.sndSig1)

/-! ### PWM and links -/

def State.valCarrier (s : State) (c : Nat) : List Nat :=
  if !s.carOn c then [] else
    must (decide (s.carReload c ≠ 0) && (s.carReload c == 1 || s.carP c % 2 == 0)) (R.pwmCarCfg c)

def State.valSlice (s : State) (i : Nat) : List Nat :=
  let cfg := R.pwmSliceCfg i
  let own := s.slOwner i
  let p := s.carP (s.slCar i)
  let en := s.slEn i
  let groups := (List.range 4).filter (fun k => s.rdB (R.pwmCgrpMask k (i / 32)) (i % 32))
  let trg (a : Nat) : List Nat := if !s.rdB a 31 then [] else must (decide (s.rdF a 20 0 < p)) a
  must (decide (own ≤ 5) && decide (s.slMinpMode i ≠ 3)) cfg ++
  s.threadField cfg 22 20 en ++ (if en && decide (own < 4) then must (s.slCar i == own) cfg else []) ++
  must (decide (s.slDtR i ≤ 640000)) (R.pwmSliceDtR i) ++ must (decide (s.slDtF i ≤ 640000)) (R.pwmSliceDtF i) ++
  must (decide (s.slMinp i ≤ 640000)) (R.pwmSliceMinp i) ++ trg (R.pwmSliceTrg0 i) ++ trg (R.pwmSliceTrg1 i) ++
  (if !en then [] else
    must (decide (s.rdF (R.pwmSliceOn i) 25 0 < 32 * p)) (R.pwmSliceOn i) ++
    must (decide (s.rdF (R.pwmSliceOff i) 25 0 ≤ 32 * p)) (R.pwmSliceOff i)) ++
  (match groups with
    | k :: _ :: _ => [R.pwmCgrpMask k (i / 32)]
    | _ => [])

def State.valLeg (s : State) (g : Nat) : List Nat :=
  let cfg := R.pwmLegCfg g
  let mode := s.legMode g
  let route := s.legRoute g
  let a := 3 * g
  let same (f : Nat → Nat) : Bool := f a == f (a + 1) && f a == f (a + 2)
  let own := s.slOwner a
  let link := s.legLink g
  let max_ := s.rdF (R.stlCfg link) 15 0
  let need := if s.rdB R.cwyCfg 31 && s.rdB R.sysStrap 1 then 2000 else 1700
  must (decide (mode ≤ 1 ∧ route ≤ 2) && (mode != 1 || (same (fun i => b2n (s.slEn i)) && same s.slCar && same s.slOwner)) &&
    (route != 2 || (decide (28 ≤ g ∧ g ≤ 33) && mode == 0)) &&
    (route != 1 || (List.range 42).all (fun h => h == g || s.legRoute h != 1 || s.legLink h != link)) &&
    (mode != 1 || !s.slEn a || decide (4 ≤ own) || s.legPhase g == 3 || s.legMod g / 2 == own)) cfg ++
  (if route = 1 then
    [a, a + 1, a + 2].flatMap (fun i =>
      must (decide (12800 ≤ s.slDtR i)) (R.pwmSliceDtR i) ++ must (decide (12800 ≤ s.slDtF i)) (R.pwmSliceDtF i) ++
        must (decide (32000 ≤ s.slMinp i)) (R.pwmSliceMinp i)) ++
    must (decide (need + max_ ≤ s.rdF R.stlLead 15 0)) R.stlLead
    else [])

def State.valMod (s : State) (u : Nat) : List Nat :=
  let n := u / 2
  must (decide (s.rdF (R.pwmModCfg u) 1 0 ≤ 1)) (R.pwmModCfg u) ++
  (if u % 2 = 1 ∧ s.modEn u then
    must (s.rdF (R.pwmModSig0 u) 11 0 == s.rdF (R.gfeOut3 n) 11 0 && s.rdF (R.pwmModSig0 u) 27 16 == s.rdF (R.gfeOut3 n) 27 16) (R.pwmModSig0 u) ++
    must (s.rdF (R.pwmModSig1 u) 11 0 == s.rdF (R.gfeOut1 n) 11 0) (R.pwmModSig1 u)
    else [])

/-! ### Auxiliary drives and protection -/

def State.valAux (s : State) (m : Nat) : List Nat :=
  let a := 84 + 3 * m
  let car := s.slCar a
  forEvery 17 (fun j => must (decide (s.rdF (R.auxAdv m j) 6 0 ≤ 120)) (R.auxAdv m j)) ++
  (if !s.motEn m then [] else
    must ([a, a + 1, a + 2].all (fun i => s.slOwner i == 4 && s.slCar i == car) && decide (4 ≤ car) &&
      (s.carReload car == 1 || s.carReload car == 3)) (R.pwmSliceCfg a) ++
    must (s.legMode (28 + m) == 0 && s.legRoute (28 + m) == 2) (R.pwmLegCfg (28 + m)) ++
    must (s.outIn 8 m 7 (s.rdF (R.auxSig0 m) 11 0)) (R.auxSig0 m) ++ s.outPair 8 m 7 (R.auxSig1 m))

def State.valAuxBus (s : State) : List Nat :=
  let on := s.rdF R.auxBusTh0 25 16
  let off := s.rdF R.auxBusTh0 9 0
  let o1 := s.rdF R.auxBusTh1 9 0
  let o2 := s.rdF R.auxBusTh1 25 16
  let o3 := s.rdF R.auxBusTh2 9 0
  must (decide (off < on ∧ on < o1)) R.auxBusTh0 ++ must (decide (o1 < o2)) R.auxBusTh1 ++
  must (decide (o2 < o3 ∧ o3 ≤ 1000)) R.auxBusTh2 ++
  forEvery 18 (fun h =>
    let a := R.auxHbAmp h
    must (decide (s.rdF a 7 0 < s.rdF a 15 8 ∧ s.rdF a 15 8 < s.rdF a 23 16)) a)

def State.valProt (s : State) : List Nat :=
  forEvery 480 (fun x =>
    let a := R.protSrcCfg x
    if (regRow a).isNone then [] else
      must (!(s.rdF a 30 28 == 2 && !s.rdB a 21) && !(s.rdF a 15 12 == 2 && !s.rdB a 21 && decide (s.rdF a 19 16 ≠ 0))) a ++
      s.threadMask a 27 24) ++
  forEvery 5 (fun p => s.threadMask (R.smonWdReact p) 3 0) ++
  forEvery 32 (fun w =>
    let a := R.protWinCfg w
    must (!s.rdB a 31 || decide (s.rdF a 11 0 < s.rdF a 23 12)) a) ++
  forEvery 4 (fun n =>
    if !s.rdB (R.protThrDcCh n) 31 then [] else
      let q (a hi lo : Nat) : Int := signedOf 16 (s.rdF a hi lo)
      let o1 := q (R.protThrOva n) 15 0
      let o2 := q (R.protThrOva n) 31 16
      must (decide (o1 < o2)) (R.protThrOva n) ++
      must (decide (q (R.protThrOvb n) 31 16 < o1 ∧ o2 < q (R.protThrOvb n) 15 0)) (R.protThrOvb n) ++
      must (decide (s.rdF (R.protThrDischSafe n) 15 0 ≠ 0)) (R.protThrDischSafe n))

/-! ### Causeway -/

/-- The signals that the steps of thread `n` read. -/
def State.threadReads (s : State) (n : Nat) : List Nat :=
  let f (a hi lo : Nat) : Nat := s.rdF a hi lo
  let two (a : Nat) : List Nat := [f a 11 0, f a 27 16]
  let ce := (s.threadCtx n).flatMap (fun c => if (s.ctxPar 0 c).en then (s.ctxPar 0 c).reads else [])
  let vec := [2 * n, 2 * n + 1].flatMap (fun u => if !s.rdB (R.vecCfg u) 31 then [] else
    two (R.vecSig0 u) ++ two (R.vecSig1 u) ++ two (R.vecSig2 u) ++ two (R.vecSig3 u) ++ two (R.vecSig4 u) ++ [f (R.vecSig5 u) 11 0])
  let gfe := if !s.rdB (R.gfeCfg n) 31 then [] else
    two (R.gfeSig0 n) ++ two (R.gfeSig1 n) ++ two (R.gfeSig2 n) ++ two (R.gfeSig3 n) ++ two (R.gfeSig4 n) ++ two (R.gfeSig5 n) ++
      two (R.gfeSig6 n) ++ [f (R.gfeFrtSig0 n) 11 0, f (R.gfeBsSig n) 27 16]
  let snd := if s.sndEn && s.sndThread == n then [f R.sndSig0 27 16] else []
  let legs := (s.ownedLegs n).flatMap (fun g => if s.legMode g = 1 then s.modSignals g else [])
  let prs := (List.range 128).flatMap (fun p => if s.pairEn p && s.pairThread p == n then
    [s.pairA p, s.pairB p] ++ (s.pairRef p).toList else [])
  (ce ++ vec ++ gfe ++ snd ++ legs ++ prs).filter (fun i => decide (i < 0xFFF))

/-- R326: whether the steps of thread `n` may read signal `i`. -/
def State.readAllowed (s : State) (n i : Nat) : Bool :=
  let d := s.sigDomain i
  let cls := fieldOf (s.sigDecl i) 27 24
  let listed := (List.range 256).any (fun j => s.rdB (R.cwyLatch j) 31 && s.rdF (R.cwyLatch j) 30 28 == n && s.rdF (R.cwyLatch j) 11 0 == i)
  if d = 7 then cls == 1 || listed else cls != 9 || listed

def State.valCwy (s : State) : List Nat :=
  forEvery 256 (fun j => s.threadField (R.cwyLatch j) 30 28 (s.rdB (R.cwyLatch j) 31)) ++
  forEvery 16 (fun j =>
    must (decide (s.rdF (R.cwyEp j) 27 26 ≤ 1)) (R.cwyEp j) ++ s.threadField (R.cwyEp j) 30 28 (s.rdB (R.cwyEp j) 31)) ++
  (if !s.rdB R.cwyCfg 31 then [] else
    must ([0, 1, 2, 3].all (fun n => s.threadOut n || (s.threadReads n).all (s.readAllowed n))) (R.cwyLatch 0) ++
    must (s.rdB R.uliTwin 31 && s.rd R.uliIp != s.rd R.uliIpB &&
      !(s.rd R.uliMacLo == s.rd R.uliMacBLo && s.rd R.uliMacHi == s.rd R.uliMacBHi) &&
      [s.rd R.uliCanRq, s.rd R.uliCanRsp].all (fun a => a != s.rd R.uliCanBRq && a != s.rd R.uliCanBRsp)) R.uliTwin)

/-! ### Recorder, CAN and the rest -/

/-- A trigger code of Table 17.5 that unit `u` may name. -/
def recCodeOk (u c : Nat) : Bool :=
  let k := (c - 0x60) % 4
  decide (c = 0 ∨ c = 1 ∨ c = 2 ∨ (0x10 ≤ c ∧ c ≤ 0x13) ∨ (0x20 ≤ c ∧ c ≤ 0x27) ∨ (0x60 ≤ c ∧ c ≤ 0x6F ∧ k ≤ 3) ∨ (0x70 ≤ c ∧ c ≤ 0x73) ∨
    c = 0xF0 ∨ (0x80 ≤ c ∧ c ≤ 0x87 ∧ c ≠ 0x80 + u) ∨ (0x200 ≤ c ∧ c ≤ 0x3DC) ∨ (0x400 ≤ c ∧ c ≤ 0x4FF))

/-- The stride of unit `u` (R361). -/
def State.recStrideOf (s : State) (u : Nat) : Nat :=
  (64 + (s.capPre u + s.capPost u) * s.capCount u * 32 + 4095) / 4096 * 4096

/-- The DRAM region of unit `u`. -/
def State.recRegion (s : State) (u : Nat) : Nat × Nat :=
  (s.rdF (R.recCapBaseHi u) 2 0 * 2 ^ 32 + s.rdF (R.recCapBaseLo u) 31 12 * 4096, s.rdF (R.recCapSlots u) 5 0 * s.recStrideOf u)

/-- The latency of a recorder channel, in sub-steps (R360). -/
def State.recLat (s : State) (c : Nat) : Int :=
  match s.rdF (R.recCh c) 30 28 with
  | 1 => s.seqP (s.rdF (R.recCh c) 26 24)
  | 2 => s.chLat (s.rdF (R.recCh c) 18 12)
  | _ => 0

def State.valRec (s : State) : List Nat :=
  forEvery 8 (fun k => must (decide (s.rdF (R.recLvlCfg k) 29 28 ≠ 3)) (R.recLvlCfg k)) ++
  forEvery 256 (fun c =>
    let a := R.recCh c
    let en := s.rdB a 31
    let kind := s.rdF a 30 28
    let n := s.rdF a 26 24
    let post := (List.range 64).any (fun k => s.rdF (R.seqStep n k) 31 28 == 9 && s.rdB (R.seqStep n k) 0)
    must (decide (kind ≤ 3)) a ++ s.threadField a 26 24 (en && kind == 1) ++
    must (!en || ((kind != 1 || (decide (n < 4) && post)) && (kind != 3 || s.sigDomain (s.rdF a 11 0) == 7))) a) ++
  forEvery 8 (fun u =>
    let r := s.recRegion u
    must (recCodeOk u (s.rdF (R.recCapTrigA u) 11 0) && recCodeOk u (s.rdF (R.recCapTrigA u) 27 16)) (R.recCapTrigA u) ++
    must (recCodeOk u (s.rdF (R.recCapTrigB u) 11 0) && recCodeOk u (s.rdF (R.recCapTrigB u) 27 16)) (R.recCapTrigB u) ++
    (if !s.capEn u then [] else
      must (decide (0x100000000 ≤ r.1 ∧ r.1 + r.2 ≤ s.dramEnd) &&
        (List.range 8).all (fun v => v == u || !s.capEn v || !overlap r.1 r.2 (s.recRegion v).1 (s.recRegion v).2)) (R.recCapBaseLo u) ++
      must ((List.range (s.capCount u)).all (fun k =>
        !s.rdB (R.recCh (s.capFirst u + k)) 31 ||
          decide (s.recLat (s.capFirst u + k) + 2 * usec ≤ (usec * s.rdF (R.recCapClose u) 15 0 : Nat)))) (R.recCapClose u)))

def State.valCan (s : State) (k : Nat) : List Nat :=
  let cfg := R.canCfg k
  let nb := s.rdF (R.canNbt k) 31 23 + 1
  let ns := s.rdF (R.canNbt k) 22 14 + 1
  let nj := s.rdF (R.canNbt k) 13 8 + 1
  let np := s.rdF (R.canNbt k) 5 0 + 1
  let db := s.rdF (R.canDbt k) 29 24 + 1
  let ds := s.rdF (R.canDbt k) 21 16 + 1
  let dj := s.rdF (R.canDbt k) 13 8 + 1
  let dp := s.rdF (R.canDbt k) 3 0 + 1
  must (decide (s.rdF cfg 30 29 ≠ 3) && !(s.rdB cfg 27 && decide (np * nb < 640))) cfg ++
  must (decide (8 ≤ nb ∧ nb ≤ 400 ∧ 3 ≤ ns ∧ ns + 2 ≤ nb ∧ nj ≤ 64 ∧ nj + ns ≤ nb ∧ 80 ≤ np * nb)) (R.canNbt k) ++
  must (decide (5 ≤ db ∧ db ≤ 64 ∧ 3 ≤ ds ∧ ds + 1 ≤ db ∧ dj + ds ≤ db ∧ 10 ≤ dp * db ∧ dp * db ≤ np * nb)) (R.canDbt k) ++
  must (!s.rdB (R.canWakeCfg k) 30 || decide (80 ≤ np * nb ∧ np * nb ≤ 640)) (R.canWakeCfg k)

/-- Every register that breaks a rule. -/
def State.valFails (s : State) : List Nat :=
  forEvery 4 s.valThread ++ s.valGroupSteps ++ s.valSdf ++ forEvery 24 s.valSar ++ forEvery 128 s.valPair ++ forEvery 16 s.valSub ++ forEvery 64 s.valGroup ++ forEvery 512 s.valCtx ++
  forEvery 8 s.valVec ++ forEvery 4 s.valPos ++ forEvery 4 s.valGfe ++ s.valSnd ++ forEvery 16 s.valCarrier ++ forEvery 128 s.valSlice ++ forEvery 42 s.valLeg ++
  forEvery 8 s.valMod ++ forEvery 6 s.valAux ++ s.valAuxBus ++ s.valProt ++ s.valCwy ++ s.valRec ++ forEvery 4 s.valCan ++
  forEvery 8 (fun m => must (decide (s.rdF (R.wearMonTh m) 31 16 < s.rdF (R.wearMonTh m) 15 0)) (R.wearMonTh m)) ++
  must (decide (s.rdN (R.sysCpVector 0) ≠ 0)) (R.sysCpVector 0)

/-- `BOOT_VAL_ADDR` of a failed validation, or none where it passes: records in their order, then declarations, then the other rules by
ascending address; 0 where a section is no sequence of records (R439, R440, Table 21.8; log 66). -/
def State.validate (s : State) (recs : List (Bool × List (Nat × Word))) (shaped : Bool) (decls : List Word) : Option Nat :=
  match recs.findSome? (fun r => (r.2.find? (fun x => !s.wordLoads r.1 x.1 x.2)).map (·.1)) with
  | some a => some a
  | none =>
    if !shaped then some 0
    else
      match ((List.range 4096).zip decls).find? (fun x =>
        !s.declOk x.1 x.2 || (bitOf x.2 31 && s.threadOut (fieldOf x.2 30 28))) with
      | some x => some (0xFFFF0000 + x.1)
      | none =>
        match s.valFails with
        | [] => none
        | a :: r => some (r.foldl min a)

end Sys2Proof.Machine
end

