-- ==== Sys2Proof/Machine/Boot.lean ====
section
/-! DEFINITION. Resets, the release of reset, the load of the configuration image, self-test, the Harbour state, and the flash and OTP
commands (*Start-up, configuration image and the Harbour state*, R431–R450). A release runs through the steps of Table 21.2 in one
command, whose operand says what it meets outside (log 67). -/

namespace Sys2Proof.Machine

def State.setBoot (s : State) (b : BootSt) : State := { s with boot := b }

/-- `BOOT_STATUS.PHASE`. -/
def State.setPhase (s : State) (p : Nat) : State := s.wrF R.bootStatus 19 16 p

/-- `SYS_STATE.STATE`. -/
def State.sysSt (s : State) : Nat := s.rdF R.sysState 2 0
def State.setSysSt (s : State) (v : Nat) : State := s.wrF R.sysState 2 0 v

/-! ### Reset (R431, R432) -/

/-- Registers of the wear record as they stand after a reset: without the bits that the image loads. -/
def wearKept (t : Tab Word) : Tab Word :=
  t.filterMap (fun kv =>
    match regRow kv.1 with
    | none => none
    | some r =>
      let w := (kv.2 &&& ~~~ (wordN r.img)) ||| (wordN r.reset &&& wordN r.img)
      if w = wordN r.reset then none else some (kv.1, w))

/-- The flash range of an operation that a reset cut short holds bytes that the spec does not state. -/
def State.flashCut (s : State) : State :=
  match s.boot.op with
  | none => s
  | some o =>
    let s := s.setBoot { s.boot with op := none }
    if o.op = 1 ∨ o.cyc = s.clk.now / perCycle then s
    else
      let e := s.free + 1
      let t := (List.range o.len).foldl (fun t i => tabSet (fun _ => 0xFF#8) t (o.addr + i) (Config.freeByte e (o.addr + i))) s.boot.flash
      (s.setBoot { s.boot with flash := t }).tookFree

/-- A reset source acts (R431): `bit` is its bit in `BOOT_RESET_CAUSE`. Every register takes its reset value; the Islet, the wear record,
the OTP, the flash and what lies outside the device stay; no memory content is kept (R432). -/
def State.deviceReset (s : State) (bit : Nat) : State :=
  let s := s.flashCut
  let old := s.rd R.bootResetCause
  let cyc := s.clk.now / fabCycle + 1
  let cause := setNatBit (if s.boot.resetCyc = cyc then fieldOf old 3 0 else 0) bit true
  let hist := if bit = 0 then cause else setNatBit (fieldOf old 11 8) bit true
  let rec_ := s.wearInForce (bit == 0)
  let live : WearRec := { rec_ with regs := [] }
  let r : State := State.reset
  let x : State := { r with
    clk := { r.clk with now := s.clk.now, tbBase := s.clk.now, relAt := s.clk.now }
    regs := wearKept rec_.regs
    mem := s.mem
    tim := { r.tim with baseAt := s.clk.now, oldAt := s.clk.now }
    boards := s.boards
    isl := s.isl
    wear := { r.wear with live := live, saved := rec_, prev := rec_, times := s.wear.times }
    boot := { BootSt.init with flash := s.boot.flash, otp := s.boot.otp, resetCyc := cyc }
    tap := if bit = 0 then .idcode else s.tap
    dev := s.dev
    free := s.free
    pending := s.pending }
  let x := (x.loseMemory [1, 2, 3, 4, 5, 6, 7] (x.free + 1)).tookFree
  let x := x.wr R.sysId (sysIdOf x.dev)
  let x := if x.islUp then x else x.wrB R.pdmStatus 1 false
  let x := if x.dev.islet then x else x.wrB R.pdmStatus 2 false
  let x := (x.wr R.bootResetCause (wordN (hist * 256 + cause))).raise R.bootResetCause (8 + bit)
  x.wearJudge

/-- `SOFTWARE_RESET`: a write to `BOOT_RESET`. -/
def State.softReset (s : State) (w : Word) : State :=
  if fieldOf w 31 24 = 0x5A ∧ bitOf w 0 then s.deviceReset 2 else s

/-- `DEBUG_RESET`: a system reset request over the debug bus at `LEVEL` 2 (R428). -/
def State.debugReset (s : State) : State := if 2 ≤ s.dbgLevel then s.deviceReset 3 else s

/-- `TAP_RESET`: only the TAP is reset. -/
def State.tapReset (s : State) : State := { s with tap := .idcode }

/-! ### Spares taken at start-up (R453, R454) -/

/-- `PRESENT` of the core pairs; the lowest pair left takes identity 0, and the pair that `CP_4` replaces is powered down (R454). `CP_4`
answers only as the pair it replaces. -/
def State.setPresent (s : State) : State :=
  let q := s.pairStandIn
  let used := s.rdB R.wearCp 31
  let s := s.wrB R.pdmStatus 8 used
  let s := if used then s.wrB R.pdmStatus (4 + s.rdF R.wearCp 2 0) false else s
  s.each [0, 1, 2, 3] (fun s p =>
    let on := if p = 0 then s.pairServed 0 || q.isSome else s.pairServed p && q != some p
    s.wrB (R.sysCpStatus p) 31 on)

/-- `CP_4` serves the retired pair for which it is kept, where it serves none yet. -/
def State.takePair (s : State) : State :=
  match s.wear.live.cpFor with
  | (p, _) :: _ =>
    (((s.setWear { s.wear.live with cpFor := [] }).wrB R.wearCp 31 true).wrF R.wearCp 2 0 p).wearAssigned 0 p
  | [] => s

/-- A spare bank serves the first retired bank for which one is kept. -/
def State.takeBank (s : State) : State :=
  match s.wear.live.bankFor with
  | (b, _) :: r =>
    let s := s.setWear { s.wear.live with bankFor := r }
    if !s.rdB R.wearLagoon 7 then ((s.wrB R.wearLagoon 7 true).wrF R.wearLagoon 3 0 b).wearAssigned 1 b
    else ((s.wrB R.wearLagoon 15 true).wrF R.wearLagoon 11 8 b).wearAssigned 1 b
  | [] => s

/-- The configuration words of register family `f` move from unit `a` to unit `b`. -/
def State.copyReg (s : State) (f : Nat → Nat) (a b : Nat) : State := s.wr (f b) (s.rd (f a))

/-- Spare leg unit `34 + j` takes the configuration and routing of the leg unit it replaces, which is disabled. -/
def State.useLeg (s : State) (j : Nat) : State :=
  if !s.rdB (R.wearLeg j) 30 then s
  else
    let u := s.rdF (R.wearLeg j) 5 0
    let v := 34 + j
    let s := (s.copyReg R.pwmLegCfg u v).copyReg R.pwmLegStates u v
    let s := s.each [0, 1, 2] (fun s k =>
      let s := [R.pwmSliceCfg, R.pwmSliceDtR, R.pwmSliceDtF, R.pwmSliceMinp, R.pwmSliceOn, R.pwmSliceOff, R.pwmSliceTrg0,
        R.pwmSliceTrg1].foldl (fun (s : State) f => s.copyReg f (3 * u + k) (3 * v + k)) s
      s.wrB (R.pwmSliceCfg (3 * u + k)) 31 false)
    let s := s.wrF (R.pwmLegCfg u) 29 28 0
    s.each (List.range 28) (fun s i =>
      let n := i / 7
      let l := i % 7
      if s.legOf n l = u then
        (if l < 4 then s.wrF (R.pwmLmap0 n) (8 * l + 5) (8 * l) v else s.wrF (R.pwmLmap1 n) (8 * (l - 4) + 5) (8 * (l - 4)) v)
      else s)

/-- Spare link `28 + j` takes the leg unit, propagation words and profiles of the link it replaces. -/
def State.useLink (s : State) (j : Nat) : State :=
  let s := if s.rdB (R.wearLink j) 29 then
      ((s.wrB (R.wearLink j) 29 false).wrB (R.wearLink j) 30 true).wearAssigned 5 (s.rdF (R.wearLink j) 4 0)
    else s
  if !s.rdB (R.wearLink j) 30 then s
  else
    let u := s.rdF (R.wearLink j) 4 0
    let v := 28 + j
    let s := (s.copyReg R.stlCfg u v).copyReg R.stlTrim u v
    let s := s.each (List.range 48) (fun s k => s.copyReg (fun l => R.stlProf l k) u v)
    let s := s.wrB (R.stlCfg u) 31 false
    s.each (List.range 42) (fun s g => if s.legRoute g = 1 ∧ s.legLink g = u then s.wrF (R.pwmLegCfg g) 24 20 v else s)

/-! ### The load of a copy (R434, R437, R442, R488) -/

/-- What the load of a copy leaves: the state, the code of its first failed check, `BOOT_VAL_ADDR`, the training outcomes not yet used, the
size for which DRAM is trained and the memory ranges written. -/
structure LoadOut where
  s : State
  code : Nat
  val : Nat
  tr : List Bool
  size : Option Nat
  ranges : List (Nat × Nat)

/-- The content of a section reaches its destination. -/
def State.loadSection (s : State) (c : Nat) (x : Section) : State :=
  let bs := s.copyRead c x.off x.len
  let recs (s : State) (bs : List Byte) : State := (recordWords (recordsIn bs.length bs).1).foldl (fun s r => s.loadWord r.1 r.2) s
  match x.type with
  | 1 => recs s bs
  | 2 =>
    let s := s.setBytes x.dest bs
    { s with mem := { s.mem with bad := s.mem.bad.filter (fun b => !decide (x.dest ≤ b.1 ∧ b.1 < x.dest + x.len)) } }
  | 3 =>
    let ws := (List.range 4096).zip (declWords bs)
    { s with sig := { s.sig with decl := ws.foldl (fun t w => tabSet (fun _ => 0#32) t w.1 w.2) [] } }
  | _ =>
    let p := natLE (bs.take 4)
    recs (s.setBoot { s.boot with smon := (bs.drop 4).take p }) (bs.drop (4 + p))

/-- The sections in ascending order of `OFFSET`; the flag says that every CRC held. -/
def State.loadSections (s : State) (c : Nat) : List Section → List (Nat × Nat) → State × Bool × List (Nat × Nat)
  | [], rs => (s, true, rs)
  | x :: xs, rs =>
    let s' := s.loadSection c x
    let rs' := if x.type = 2 then (x.dest, x.len) :: rs else rs
    if crc32c (s.copyRead c x.off x.len) = x.crc then s'.loadSections c xs rs' else (s', false, rs')

/-- The records of a section as the validation sees them: whether it is the safety section, and its words; and whether it is a sequence of
records. -/
def State.sectionRecs (s : State) (c : Nat) (x : Section) : Option ((Bool × List (Nat × Word)) × Bool) :=
  let bs := s.copyRead c x.off x.len
  let bs := if x.type = 4 then bs.drop (4 + natLE (bs.take 4)) else bs
  if x.type = 1 ∨ x.type = 4 then
    let r := recordsIn bs.length bs
    some ((x.type == 4, recordWords r.1), r.2)
  else none

/-- Steps 3 to 7 for copy `c` (Table 21.6). -/
def State.tryCopy (s : State) (c : Nat) (tr : List Bool) (size : Option Nat) : LoadOut :=
  let h := headerOf (s.copyRead c 0 256)
  let key := nth ⟨0, false, true⟩ s.boot.otp.keys h.key
  let pub := s.copyRead c (h.len - 128) 64
  let fail (s : State) (code : Nat) : LoadOut := ⟨s, code, 0, tr, size, []⟩
  let s := s.setPhase 3
  if !key.programmed || key.revoked then fail s 0x0104
  else if sha256 pub ≠ key.hash then fail s 0x0105
  else if h.secVer < s.boot.otp.minSec then fail s 0x0106
  else
    let s := s.setPhase 4
    let train : Bool := decide (h.dram ≠ 0) && size != some h.dram
    let tr' := if train then tr.drop 1 else tr
    if train && tr.head? == some false then ⟨s, 0x0107, 0, tr', none, []⟩
    else
      let size' := if train then some h.dram else size
      let s := (s.setPhase 5).wrF R.sysMemCfg 18 16 h.dram
      if !s.structOk c h then ⟨s, 0x0108, 0, tr', size', []⟩
      else
        let xs := sortSections (s.sections c h)
        let r := s.loadSections c xs []
        if !r.2.1 then ⟨r.1, 0x0109, 0, tr', size', r.2.2⟩
        else
          let s := r.1.setPhase 6
          let e := sha256 (s.copyRead c 0 (h.len - 64))
          let sg := s.copyRead c (h.len - 64) 64
          if !ecdsaOk (natBE (pub.take 32)) (natBE (pub.drop 32)) e (natBE (sg.take 32)) (natBE (sg.drop 32)) then
            ⟨s, 0x010A, 0, tr', size', r.2.2⟩
          else
            let s := s.setPhase 7
            if natBits h.part 15 0 ≠ s.rdF R.sysId 31 16 ∨ s.rdF R.sysId 15 12 < natBits h.part 19 16 ∨
              (natBit h.part 20 ∧ !s.rdB R.sysId 11) then ⟨s, 0x010B, 0, tr', size', r.2.2⟩
            else
              let rs := xs.filterMap (s.sectionRecs c)
              let decl := (xs.filter (fun x => x.type == 3)).flatMap (fun x => declWords (s.copyRead c x.off x.len))
              let shaped := rs.all (·.2) && xs.all (fun x => x.type != 3 || x.len == 16384)
              match s.validate (rs.map (·.1)) shaped decl with
              | some a => ⟨s, 0x010C, a, tr', size', r.2.2⟩
              | none => ⟨s, 0, 0, tr', size', r.2.2⟩

/-- The clearing of R437: what the loader writes returns to its reset value outside `BOOT` and `CRU`; TCMs, Lagoon, the monitor's SRAM and
the DRAM ranges that were written read 0. -/
def State.clearLoad (s : State) (ranges : List (Nat × Nat)) : State :=
  let regs := s.regs.filterMap (fun kv =>
    if kv.1 / 0x100000 = 0x46C ∨ kv.1 / 0x100000 = 0x401 then some kv
    else
      match regRow kv.1 with
      | none => none
      | some r =>
        let m := wordN (Nat.lor (Nat.lor r.rw r.lock) (Nat.lor r.img r.w1c))
        let w := (kv.2 &&& ~~~ m) ||| (wordN r.reset &&& m)
        if w = wordN r.reset then none else some (kv.1, w))
  let s : State := { s with regs := regs, sig := { s.sig with decl := [] } }
  let s := (s.setBoot { s.boot with smon := [] }).loseMemory [1, 2, 3, 4, 5, 6] 0
  let s := ranges.foldl (fun (s : State) r => if 0x100000000 ≤ r.1 then s.setBytes r.1 (List.replicate r.2 0#8) else s) s
  let s : State := { s with mem := { s.mem with bad := s.mem.bad.filter (fun b => !ranges.any (fun r => decide (r.1 ≤ b.1 ∧ b.1 < r.1 + r.2))) } }
  s.wrF R.sysMemCfg 18 16 0

/-! ### The end of the load (R434, R46, R248) -/

/-- Chain `i` starts at the first edge of its clock after the load (R46, R60). -/
def State.chainStart (s : State) (i : Nat) : State :=
  if !s.chEn i || !s.clkHere (s.chClk i) then s
  else
    let T := s.tb
    let n := (T / (s.chP i : Nat) + 1).toNat
    let f := n / max 1 (s.chR i) / max 1 (s.firD i)
    let τ := s.rsFirst i T
    (s.setChain i { ChainSt.init with n := n, clean := n, firNext := f, rsNext := τ, relF := f, relTau := τ, detF := f }).wrB (R.sdfChStatus i) 0 true

/-- Link `l` starts with hold-off frames. -/
def State.linkStart (s : State) (l : Nat) : State :=
  if s.rdB (R.stlCfg l) 31 then
    ((s.setLink l { s.link l with runFrom := some s.clk.now, holdOn := true, holdSent := 0, epochDue := true }).wrB (R.stlStatus l) 0 true).wrB
      (R.stlStatus l) 3 true
  else s

/-- The threads that the partner does not run are in step from the load on; a partner with another image is refused (R318, R331). -/
def State.twinLoaded (s : State) (crc : Nat) : State :=
  let on := s.rdB R.sysStrap 1 && s.rdB R.cwyCfg 31
  let s := s.wrB R.sysState 7 on
  let diff := on && s.twin.parCrc.isSome && s.twin.parCrc != some crc
  let x := s.raise R.cwyStatus 8
  let s : State := if diff && !s.leader then
      ({ x with twin := { x.twin with refused := true } } : State).each [0, 1, 2, 3] (fun s n => s.twinOut n 7)
    else s
  s.each [0, 1, 2, 3] (fun s n =>
    if on && (s.twin.refused || (s.partner && decide (3 ≤ s.twin.parState) && natBit s.twin.parRun n)) then s
    else (s.wrB (R.cwyThrStatus n) 31 true).twinRole n)

/-- `SAFE_OSC_GRACE` of the loaded image, in milliseconds, at most 60 s (R31; log 96). -/
def State.takeGrace (s : State) (i : ReleaseIn) : State :=
  { s with clk := { s.clk with grace := min i.grace 60000 * 32000000 } }

/-- The configuration load of copy `c` completes; the shadow words of slices and leg units that it held are their shadow sets (R218, R238). -/
def State.loadDone (s : State) (c : Nat) : State :=
  let h := headerOf (s.copyRead c 0 256)
  let crc := crc32c (s.copyRead c 0 h.len)
  let safety := (s.sections c h).filter (fun x => x.type == 4)
  let s := s.setBoot { s.boot with key := h.key }
  let s := ((s.wrF R.bootStatus 31 30 (c + 1)).wrF R.bootSec 5 0 h.secVer).wr R.bootImageSeq (wordN h.seq)
  let s := (s.wr R.bootImageCrc (wordN crc)).wr R.bootSafetyCrc (wordN ((safety.map (·.crc)).headD 0))
  let s := s.wr (if c = 0 then R.bootResultA else R.bootResultB) 0#32
  let s := s.wrF R.bootTime 15 0 (min 65535 ((s.clk.now - s.clk.relAt + 3199999) / 3200000))
  let s := s.wrF R.sysDbg 1 0 (s.rdF R.sysDbg 9 8)
  let s := s.each (List.range 8) (fun s u => if s.capEn u then s.wr (R.recCapStride u) (wordN (s.recStrideOf u)) else s)
  let s := (s.each [0, 1, 2, 3] State.useLeg).each [0, 1, 2, 3] State.useLink
  let s := s.wearJudge
  let s := s.each (List.range 40) (fun s i => s.pmuMark (i / 8) (i % 8) s.coreCyc)
  let s := s.wrF R.sdfMac 15 0 ((List.range 112).foldl (fun a i => a + s.macDemand i) 0)
  let s := s.each [0, 1, 2, 3] State.gfeTake
  let act : Tab Word := (List.range 6).foldl (fun t m => (auxParAddrs m).foldl (fun t a => tabSet regReset t a (s.rd a)) t) s.aux.act
  let s : State := { s with aux := { s.aux with act := act } }
  let s := s.timeIncWrite (s.rd R.timeIncFrac)
  let s := s.each [0, 1, 2, 3] State.canTscLoad
  let s := s.twinLoaded crc
  let s := s.each (List.range 112) State.chainStart
  let s := s.each (List.range 32) State.linkStart
  let s := s.each (List.range 128) (fun s i => s.setSlice i { s.slice i with shadow := s.sliceWords i })
  let s := s.each (List.range 42) (fun s g => s.setLeg g { s.leg g with shadow := s.legWords g })
  s.hold 4 true

/-! ### Self-test (R443, R444) -/

/-- Durations of Table 21.7, in sub-steps. -/
def testTime (t : Nat) : Nat := nth 0 [0, 128000000, 192000000, 1152000000, 64000000, 6400000, 6400000, 64000000, 96000000, 32000000, 64000000] t

/-- Calibration result of converter `k` in self-test 6; the flag says that the converter failed and was absorbed. -/
def State.testCal (s : State) (k : Nat) (r : Int × Nat) : State × Bool :=
  let h := s.sarHw k
  let was := s.sarRetired k
  let s := (s.sarCalDone h s.clk.now).sarCalTake k r.1 r.2
  (s, !was && s.sarRetired k)

/-- One failure found by a test: absorbed by spare management, or not. -/
def State.absorb (s : State) (f : SelfFail) : Option State :=
  match f.test with
  | 1 => if f.unit < 4 then some (((s.retirePair f.unit).takePair).setPresent) else none
  | 3 => if f.unit < 16 ∧ !f.fatal then some ((s.retireBank f.unit).takeBank) else none
  | 6 => some (s.retireSar f.unit)
  | 9 =>
    match (List.range 4).find? (fun j => s.rdB (R.wearLeg j) 31 && !s.rdB (R.wearLeg j) 30 && s.rdF (R.wearLeg j) 5 0 == f.unit) with
    | some j => some (((((s.post 143 (0x280 + f.unit)).wrB (R.wearLeg j) 30 true).wearAssigned 4 f.unit)).useLeg j)
    | none => none
  | _ => none

/-- The failures of one test, in their order: none where one cannot be absorbed. -/
def State.absorbAll (s : State) : List SelfFail → Option State
  | [] => some s
  | f :: fs =>
    match s.absorb f with
    | some s' => s'.absorbAll fs
    | none => none

/-- A test counts as passed with a spare. -/
def State.testSpared (s : State) (t : Nat) : State := (s.wrB R.bootStResult (15 + t) true).wrB R.bootStatus 29 true

/-- Test `t`: the state after it, and whether it passed. -/
def State.selfTest1 (s : State) (i : ReleaseIn) (t : Nat) : State × Bool :=
  if t = 4 ∧ s.rdF R.sysMemCfg 18 16 = 0 then (s, true)
  else
    let s := s.goto (s.clk.now + testTime t)
    let r : State × Bool := if t = 6 then
        (List.range 24).foldl (fun (a : State × Bool) k =>
          let x := a.1.testCal k (nth (0, 32768) i.cal k)
          (x.1, a.2 || x.2)) (s, false)
      else (s, false)
    let fs := i.fails.filter (fun f => f.test == t)
    match r.1.absorbAll fs with
    | none => (r.1.wrB R.bootStResult (t - 1) true, false)
    | some s =>
      let s := if r.2 || !fs.isEmpty then s.testSpared t else s
      (if t = 8 then s.each (List.range 112) (fun s j => s.chainRecover j s.clk.now) else s, true)

/-- The tests from `t` on, `n` of them: the state, and the first that failed. -/
def State.selfTests (s : State) (i : ReleaseIn) : Nat → Nat → State × Option Nat
  | 0, _ => (s, none)
  | n + 1, t =>
    let r := s.selfTest1 i t
    if r.2 then r.1.selfTests i n (t + 1) else (r.1, some t)

/-! ### Run and Harbour (R435, R445, R446) -/

/-- Entry into state 3; a device that joins a running partner starts its threads 1 ms later (R331). -/
def State.runEntry (s : State) : State :=
  let s := (s.setSysSt 3).setPhase 9
  let s := (s.wrB R.smonStatus 31 true).wrF R.stlClaim 3 0 15
  let s := s.each [0, 1, 2, 3] (fun s n => if s.rdB R.sysState 7 then s.wrF (R.cwyThrStatus n) 23 20 15 else s)
  let s := s.each [0, 1, 2, 3] (fun s p =>
    if p = 0 ∨ (s.rdB (R.sysCpStatus p) 31 ∧ s.rdN (R.sysCpVector p) ≠ 0) then s.setRunning p true else s)
  let s := s.each [0, 1, 2, 3, 4] State.wdDraw
  let s := s.hold 4 false
  s.each [0, 1, 2, 3] (fun s n =>
    if s.rdB R.sysState 7 && s.partner && !s.twin.refused && decide (3 ≤ s.twin.parState) && natBit s.twin.parRun n then
      s.setSeq n { s.seq n with startAt := some (s.clk.now + msec - s.seqP n) }
    else s)

/-- The Harbour state, entered with a cause. -/
def State.harbour (s : State) (cause : Nat) : State :=
  let s := ((s.setSysSt 4).setPhase 10).wrF R.sysState 31 16 cause
  let s := s.internalSto 2
  let s := (s.hold 3 true).hold 4 false
  let s := s.each [1, 2, 3] (fun s p => s.setRunning p false)
  if s.rdF R.bootStatus 31 30 ≠ 0 then s
  else (s.wrF R.sysDbg 1 0 s.boot.otp.dbg).wrB R.bootStatus 28 s.boot.otp.ident.isSome

/-- State 2 and its outcome. -/
def State.testPhase (s : State) (i : ReleaseIn) : State :=
  let s := (s.setSysSt 2).setPhase 8
  let t0 := s.clk.now
  let r := s.selfTests i 10 1
  let s := r.1.wrF R.bootTime 31 16 (min 65535 ((r.1.clk.now - t0 + 319999) / 320000))
  match r.2 with
  | some t => s.harbour (0x0200 + t)
  | none => s.runEntry

/-! ### The release of reset (R433, R434, R437) -/

/-- `BOOT_RESULT_A` or `_B` takes a code. -/
def State.bootResult (s : State) (c code : Nat) : State :=
  s.wr (if c = 0 then R.bootResultA else R.bootResultB) (wordN (code * 65536))

/-- The candidates in the order in which they are tried. -/
def State.candidates (s : State) : List Nat :=
  let h (c : Nat) : List Byte := s.copyRead c 0 256
  let ok := [0, 1].filter (fun c => headerCheck (h c) == 0)
  match ok with
  | [_, _] => if (headerOf (h 0)).seq < (headerOf (h 1)).seq then [1, 0] else [0, 1]
  | l => l

/-- Steps 3 to 7 over the candidates; `first` is the code of the copy tried first. -/
def State.loadCopies (s : State) (i : ReleaseIn) : List Nat → List Bool → Option Nat → Nat → State
  | [], _, _, first => (s.goto (s.clk.now + i.load)).harbour first
  | c :: cs, tr, size, first =>
    let o := s.tryCopy c tr size
    if o.code = 0 then (((o.s.goto (s.clk.now + i.load)).takeGrace i).loadDone c).testPhase i
    else
      let s := (o.s.bootResult c o.code).clearLoad o.ranges
      let s := if o.code = 0x010C then s.wr R.bootValAddr (wordN o.val) else s
      s.loadCopies i cs o.tr o.size (if first = 0 then o.code else first)

/-- Steps 3 to 9. -/
def State.bootLoad (s : State) (i : ReleaseIn) : State :=
  let a := headerCheck (s.copyRead 0 0 256)
  let cs := s.candidates
  s.loadCopies i cs i.training none (if cs = [] then a else 0)

/-- A release that waits in the partner search goes on with step 3. -/
def State.bootGo (s : State) : State :=
  match s.boot.search with
  | some i => (s.setBoot { s.boot with search := none }).bootLoad i
  | none => s

/-- The straps by majority of three samples (R480). -/
def strapWord (a b c : Nat) : Word :=
  let m := 0xF3
  let maj := Nat.land (Nat.lor (Nat.lor (Nat.land a b) (Nat.land a c)) (Nat.land b c)) m
  let same : Bool := Nat.land a m == Nat.land b m && Nat.land b m == Nat.land c m
  wordN (maj + if same then 0 else 2 ^ 31)

/-- `RESET_RELEASE`: internal reset is released, the straps are sampled and start-up runs; with `TWIN_EN` high it stops at the partner search. -/
def State.resetRelease (s : State) (i : ReleaseIn) : State :=
  if s.sysSt ≠ 0 then s
  else
    let s : State := { s with clk := { s.clk with tbBase := s.clk.now, relAt := s.clk.now } }
    let s := s.wrB R.cruStatus 4 true
    let s := s.wr R.sysStrap (strapWord i.strap0 i.strap1 i.strap2)
    let s := s.wrF R.stlClaim 7 4 (s.rdF R.sysStrap 7 4)
    let k := s.boot.otp.keys
    let bits (f : OtpKey → Bool) : Nat := (List.range 4).foldl (fun a j => a + b2n (f (nth ⟨0, false, false⟩ k j)) * 2 ^ j) 0
    let s := s.wr R.bootOtpStatus (wordN (s.boot.otp.minSec % 64 * 256 + bits (·.revoked) * 16 + bits (·.programmed)))
    let s := s.wrF R.bootSec 13 8 s.boot.otp.minSec
    let s := ((s.takePair).takeBank.takeBank).setPresent
    let s := ((s.setSysSt 1).setPhase 1).setRunning 0 true
    let s := s.each [0, 1] (fun s c =>
      let x := headerCheck (s.copyRead c 0 256)
      if x = 0 then s else s.bootResult c x)
    if s.rdB R.sysStrap 1 then (s.setPhase 2).setBoot { s.boot with search := some i }
    else s.bootLoad i

/-! ### Flash and OTP (R448, R449) -/

/-- A flash command: refused in states 0 to 2, while one runs, and where its range is invalid. -/
def State.flashCmd (s : State) (op : Nat) : State :=
  if op = 0 ∨ 3 < op then s
  else
    let a := s.rdF R.bootFlashAddr 24 0
    let n := if op = 3 then 65536 else s.rdF R.bootFlashLen 8 0
    let a := if op = 3 then a / 65536 * 65536 else a
    let range : Bool := decide (op = 3 ∨ (1 ≤ n ∧ n ≤ 256 ∧ a + n ≤ 2 ^ 25)) && (op != 2 || decide (a / 256 = (a + n - 1) / 256))
    if s.sysSt < 3 ∨ s.boot.op.isSome ∨ !range then s.wrF R.bootFlashCmd 17 16 1
    else
      let buf := ((List.range 64).flatMap (fun w => bytesLE 4 (s.rdN (R.bootFlashBuf w)))).take n
      (s.setBoot { s.boot with op := some ⟨op, a, n, if op = 2 then buf else [], s.clk.now / perCycle⟩ }).wrB R.bootFlashCmd 31 true

/-- The buffer takes bytes from its first on. -/
def State.flashFill (s : State) (bs : List Byte) : State :=
  let old := (List.range 64).flatMap (fun w => bytesLE 4 (s.rdN (R.bootFlashBuf w)))
  let new := bs ++ old.drop bs.length
  s.each (List.range 64) (fun s w => s.wr (R.bootFlashBuf w) (wordN (natLE ((new.drop (4 * w)).take 4))))

/-- `FLASH_OP_COMPLETE`: the operation ends; after a flash error the bytes concerned are not stated. -/
def State.flashDone (s : State) (ok : Bool) : State :=
  match s.boot.op with
  | none => s
  | some o =>
    let e := s.free + 1
    let odd := (List.range o.len).map (fun i => Config.freeByte e (o.addr + i))
    let old := s.flashRead o.addr o.len
    let new : List Byte := if !ok then odd else if o.op = 2 then List.zipWith (fun a b => a &&& b) old o.data else List.replicate o.len 0xFF#8
    let s := ((s.setBoot { s.boot with op := none }).wrB R.bootFlashCmd 31 false).wrF R.bootFlashCmd 17 16 (if ok then 0 else 2)
    let s := if ok then s else s.tookFree
    if o.op = 1 then s.flashFill (if ok then old else odd)
    else
      let t := ((List.range o.len).zip new).foldl (fun t x => tabSet (fun _ => 0xFF#8) t (o.addr + x.1) x.2) s.boot.flash
      s.setBoot { s.boot with flash := t }

/-- `OTP_ADV_SECVER`: the OTP minimum rises to the loaded `SEC_VER`. -/
def State.otpAdvance (s : State) : State :=
  let v := s.rdF R.bootSec 5 0
  if s.sysSt = 3 ∧ s.boot.otp.minSec < v then
    ((s.setBoot { s.boot with otp := { s.boot.otp with minSec := v } }).wrF R.bootSec 13 8 v).wrF R.bootOtpStatus 13 8 v
  else s

/-- `OTP_REVOKE`: a key slot, unless it is that of the loaded image. -/
def State.otpRevoke (s : State) (k : Nat) : State :=
  if s.sysSt = 3 ∧ k ≠ s.boot.key then
    let ks := s.boot.otp.keys
    let key := nth ⟨0, false, false⟩ ks k
    (s.setBoot { s.boot with otp := { s.boot.otp with keys := setNth ks k { key with revoked := true } } }).wrB R.bootOtpStatus (4 + k) true
  else s

/-- A write to `BOOT_OTP_CMD`: one that would revoke the slot of the loaded image is refused as a whole. -/
def State.otpCmd (s : State) (w : Word) : State :=
  let k := fieldOf w 5 4
  if fieldOf w 31 24 = 0xC3 ∧ s.sysSt = 3 ∧ !(bitOf w 1 && k == s.boot.key) then
    let s := if bitOf w 0 then s.otpAdvance else s
    if bitOf w 1 then s.otpRevoke k else s
  else s

end Sys2Proof.Machine
end

