-- ==== Sys2Proof/Machine/Iommu.lean ====
section
/-! DEFINITION. The IOMMU (R415, R416) and the commands of the Ferry queues (R417, R421, R422). -/

namespace Sys2Proof.Machine

def State.setIom (s : State) (v : IomSt) : State := { s with iom := v }

/-! ### Translation (R415) -/

/-- Whether a physical address lies in a region of Table 20.1. -/
def State.physOk (s : State) (a : Nat) : Bool :=
  (memRegion a s.dramEnd).isSome || decide (0x40000000 ≤ a ∧ a < 0x48000000)

/-- The outcome of a walk: a leaf at a level, or a fault cause of Table 20.6. -/
inductive Walk where
  | leaf (level pte : Nat)
  | fault (cause : Nat)
  deriving DecidableEq, Repr

/-- Whether a page-table entry can be read at an address: in Lagoon or DRAM. -/
def State.pteHome (s : State) (a : Nat) : Bool :=
  match memRegion a s.dramEnd with
  | some 1 => true
  | some 7 => true
  | _ => false

/-- The Sv39 walk for virtual page `vpn` from the table at physical page `ppn`; the level is one less than the fuel. A set reserved bit or
a pointer at level 0 leaves no valid leaf (cause 1); a table outside Lagoon and DRAM is cause 6 (log 59). -/
def State.walk (s : State) (vpn : Nat) : Nat → Nat → Walk
  | 0, _ => .fault 1
  | k + 1, ppn =>
    let a := ppn * 4096 + vpn / 2 ^ (9 * k) % 512 * 8
    if !s.pteHome a then .fault 6
    else if s.eccBad a 8 then .fault 5
    else
      let p := natLE (s.bytes a 8)
      if !natBit p 0 || (!natBit p 1 && natBit p 2) || decide (p / 2 ^ 54 ≠ 0) then .fault 1
      else if natBit p 1 || natBit p 3 then .leaf k p
      else s.walk vpn k (natBits p 53 10)

/-- The physical address of `iova` through a leaf, or a fault cause: permission, then alignment of a superpage, then A and D. -/
def State.leafAddr (s : State) (level pte iova : Nat) (write : Bool) : Nat ⊕ Nat :=
  let ppn := natBits pte 53 10
  if !(if write then natBit pte 2 else natBit pte 1) then .inr 2
  else if ppn % 2 ^ (9 * level) ≠ 0 then .inr 4
  else if !natBit pte 6 || (write && !natBit pte 7) then .inr 3
  else
    let a := ppn * 4096 + iova % 2 ^ (12 + 9 * level)
    if s.physOk a then .inl a else .inr 6

/-- The IOTLB entry that covers a page. -/
def State.tlbHit (s : State) (dom vpn : Nat) : Option TlbEnt :=
  s.iom.tlb.find? (fun e => e.dom == dom && e.vpn == vpn / 2 ^ (9 * e.level) * 2 ^ (9 * e.level))

/-- A translation of an IOVA in a domain (R415): the state with the IOTLB as it leaves it, and the address or the fault cause. A walked
leaf that gives an address is kept, the oldest of 64 giving way (log 60). -/
def State.translate (s : State) (dom iova : Nat) (write : Bool) : State × (Nat ⊕ Nat) :=
  let cfg := s.rd (R.iommuDCfg dom)
  if !bitOf cfg 31 then (s, .inr 7)
  else if bitOf cfg 30 then (s, if s.physOk iova then .inl iova else .inr 6)
  else
    let vpn := iova / 4096
    match s.tlbHit dom vpn with
    | some e => (s, s.leafAddr e.level e.pte iova write)
    | none =>
      match s.walk vpn 3 (s.rdF (R.iommuDRoot dom) 22 0) with
      | .fault c => (s, .inr c)
      | .leaf l p =>
        match s.leafAddr l p iova write with
        | .inr c => (s, .inr c)
        | .inl a =>
          let e : TlbEnt := ⟨dom, vpn / 2 ^ (9 * l) * 2 ^ (9 * l), l, p⟩
          let t := if s.iom.tlb.length < 64 then s.iom.tlb else s.iom.tlb.drop 1
          (s.setIom { s.iom with tlb := t ++ [e] }, .inl a)

/-- A fault enters the FIFO; a full one drops it (R415). -/
def State.iomFault (s : State) (f : IomFault) : State :=
  if s.iom.fifo.length < 16 then (s.setIom { s.iom with fifo := s.iom.fifo ++ [f] }).post 139 f.cause
  else s.raise R.iommuFault0 30

/-- `IOMMU_FAULT_POP`: a read of `IOMMU_FAULT_2` advances the FIFO. -/
def State.iomPop (s : State) : State := s.setIom { s.iom with fifo := s.iom.fifo.drop 1 }

/-- Word `k` of the head of the fault FIFO. -/
def State.iomHead (s : State) (k : Nat) : Word :=
  match s.iom.fifo.head? with
  | none => if k = 0 then s.rd R.iommuFault0 else 0#32
  | some f =>
    match k with
    | 0 => s.rd R.iommuFault0 ||| wordN (2 ^ 31 + b2n f.write * 2 ^ 29 + f.queue * 2 ^ 24 + f.dom * 2 ^ 16 + f.cause)
    | 1 => wordN f.iova
    | _ => wordN (f.iova / 2 ^ 32)

/-- `IOMMU_INVALIDATE`: a write of `IOMMU_INV` while none runs (R416). -/
def State.iomInvalidate (s : State) (w : Word) : State :=
  if s.rdB R.iommuInv 30 then s
  else
    let page := if bitOf w 31 then some (s.rdF R.iommuInvPage 26 0) else none
    let s := s.setIom { s.iom with inv := some (fieldOf w 19 16, page) }
    s.wr R.iommuInv ((w &&& 0x800F0000#32) ||| 0x40000000#32)

/-- `IOMMU_INV_COMPLETE`: every matching entry is gone. -/
def State.iomInvDone (s : State) : State :=
  match s.iom.inv with
  | none => s
  | some (d, page) =>
    let gone (e : TlbEnt) : Bool := e.dom == d && (match page with
      | none => true
      | some v => e.vpn == v / 2 ^ (9 * e.level) * 2 ^ (9 * e.level))
    (s.setIom { s.iom with tlb := s.iom.tlb.filter (fun e => !gone e), inv := none }).wrB R.iommuInv 30 false

/-! ### Ferry queues (R417, R421, R422) -/

def State.fq (s : State) (q : Nat) : FryQ := tabGet (fun _ => FryQ.init) s.fry.qs q
def State.setFq (s : State) (q : Nat) (v : FryQ) : State :=
  { s with fry := { s.fry with qs := tabSet (fun _ => FryQ.init) s.fry.qs q v } }
def State.fqState (s : State) (q : Nat) : Nat := s.rdF (R.fryQStatus q) 31 28
def State.setFqState (s : State) (q v : Nat) : State := s.wrF (R.fryQStatus q) 31 28 v
def State.fqDone (s : State) (q : Nat) : Nat := s.rdF (R.fryQDone q) 23 0
def State.fqDesc (s : State) (q : Nat) : Nat := s.rdF (R.fryQDesc q) 23 3 * 8
/-- Whether queue `q` has the burst that runs. -/
def State.fqInBurst (s : State) (q : Nat) : Bool := (s.fry.run.map (·.q)) == some q

/-- An event of queue `q` (R45), with its interrupt or without. -/
def State.fqEvent (s : State) (q code : Nat) (irq : Bool) : State :=
  let was := tabGet (fun _ => false) s.irq.line (107 + q)
  (s.post (107 + q) code).setIrq (107 + q) (was || irq)

/-- The `RESULT` word of the descriptor in hand. -/
def State.fqResult (s : State) (q code : Nat) (late : Bool) : State :=
  s.setBytes (0x08000000 + s.fqDesc q + 28) (bytesLE 4 (code * 2 ^ 28 + b2n late * 2 ^ 27 + s.fqDone q))

/-- The queue stops in `ABORTED` (R422). Event code 5. -/
def State.fqAborted (s : State) (q : Nat) : State :=
  let s := (s.fqResult q 3 false).setFqState q 5
  (s.setFq q { s.fq q with abort := 0, regData := none, loaded := false, frame := none }).fqEvent q 5 false

/-- A fault with a cause and the IOVA it concerns (R421): the queue stops, in `ABORTED` where an abort waits. Event codes 0x10 + cause. -/
def State.fqFault (s : State) (q cause iova : Nat) : State :=
  let s := (s.wrF (R.fryQStatus q) 18 16 cause).wr (R.fryQFaddr q) (wordN iova)
  let s := (s.wrF (R.fryQFaddrHi q) 6 0 (iova / 2 ^ 32)).fqEvent q (0x10 + cause) true
  if (s.fq q).abort ≠ 0 then s.fqAborted q else s.setFqState q 3

/-- `FERRY_GO` (R417): accepted in `IDLE`, `DONE` and `ABORTED`. -/
def State.ferryGo (s : State) (q : Nat) : State :=
  let st := s.fqState q
  if st = 0 ∨ st = 4 ∨ st = 5 then
    let s := (s.setFqState q 1).wrF (R.fryQDesc q) 23 3 (s.rdF (R.fryQStart q) 23 3)
    (s.wr (R.fryQDone q) 0#32).setFq q FryQ.init
  else s.raise (R.fryQStatus q) 26

/-- `FERRY_ABORT` (R422). Whether the last write beat of the burst that runs has been issued is the hardware's timing: a free bit (log 61). -/
def State.ferryAbort (s : State) (q : Nat) : State :=
  match s.fqState q with
  | 1 =>
    if s.fqInBurst q then
      let late := bitOf s.freshWord 0
      if (s.fq q).abort ≠ 0 then s else s.tookFree.setFq q { s.fq q with abort := if late then 2 else 1 }
    else s.fqAborted q
  | 2 => s.fqAborted q
  | 3 => s.fqAborted q
  | _ => s

/-- `FERRY_RESUME` (R421): in `FAULT` the failing burst is repeated when the queue is next served. -/
def State.ferryResume (s : State) (q : Nat) : State :=
  if s.fqState q = 3 then s.setFqState q 1 else s.raise (R.fryQStatus q) 26

/-- A write of `FRY_Q_q_CTRL`: `ABORT` wins over `GO`; `RESUME` is judged in the state before the write. -/
def State.ferryCtrl (s : State) (q : Nat) (w : Word) : State :=
  let fault := decide (s.fqState q = 3)
  let s := if bitOf w 1 then s.ferryAbort q else if bitOf w 0 then s.ferryGo q else s
  if bitOf w 2 then (if bitOf w 1 && fault then s else s.ferryResume q) else s

/-- Whether `FRY_Q_q_CFG` may be written: outside `RUNNING` and `WAITING` (Table 20.6). -/
def State.fqCfgOpen (s : State) (q : Nat) : Bool := s.fqState q != 1 && s.fqState q != 2

end Sys2Proof.Machine
end

