-- ==== Sys2Proof/Machine/Seq.lean ====
section
/-! DEFINITION. The period sequencers: start and stop, the steps of a period, core calls, and writes to signals (R20, R32–R37, R42). A step
completes 20 ns and its own duration after the one before it (R35, Table 2.13); its command acts at or after that one's end (log 63). -/

namespace Sys2Proof.Machine

/-- Sub-steps of 20 ns, the dispatch overhead and the unit of `ARG_B`. -/
def twentyNs : Nat := 640

/-- The number of `LATCH` steps from step `k` of thread `n` on: each costs its overhead alone (Table 2.13). -/
def State.latchRun (s : State) (n k : Nat) : Nat :=
  ((List.range (64 - k)).takeWhile (fun j => decide (fieldOf (s.rd (R.seqStep n (k + j))) 31 28 = 1))).length

def State.seqRuns (s : State) (n : Nat) : Bool := s.rdB (R.seqStatus n) 0
/-- The number and the word of the step that runs. -/
def State.seqStepNo (s : State) (n : Nat) : Nat := s.rdF (R.seqStatus n) 13 8
def State.stepWord (s : State) (n : Nat) : Word := s.rd (R.seqStep n (s.seqStepNo n))
def State.stepA (s : State) (n : Nat) : Nat := fieldOf (s.stepWord n) 21 16
def State.stepB (s : State) (n : Nat) : Nat := fieldOf (s.stepWord n) 15 0

/-- Whether thread `n` is unused: pacing and microprogram all 0 (R32). -/
def State.seqUnused (s : State) (n : Nat) : Bool :=
  s.rd (R.seqPeriod n) == 0#32 && s.rd (R.seqAdvance n) == 0#32 && (List.range 64).all (fun k => s.rd (R.seqStep n k) == 0#32)

/-! ### Start and stop (R33) -/

/-- `SEQ_START`: refused while running or pending, for an unused thread, outside run state (R445) and after a clock fault (R30). -/
def State.seqStart (s : State) (n : Nat) : State :=
  if s.seqRuns n || (s.seq n).startAt.isSome || s.seqUnused n || !s.inRun || s.clk.faulted then s.raise (R.seqStatus n) 5
  else s.setSeq n { s.seq n with startAt := some s.clk.now }

/-- `SEQ_STOP`: accepted only with every bridge of the thread in `PULSE_BLOCK`, and refused after a clock fault (R30). -/
def State.seqStop (s : State) (n : Nat) : State :=
  if s.clk.faulted || !s.threadBlocked n then s.raise (R.seqStatus n) 3
  else
    let q := s.seq n
    if q.startAt.isSome then s.setSeq n { q with startAt := none }
    else if s.seqRuns n then s.setSeq n { q with stopPend := true }
    else s

/-- A write of `SEQ_n_CTRL`: `STOP` wins; after a clock fault each bit is refused for itself. -/
def State.seqCtrlWrite (s : State) (n : Nat) (w : Word) : State :=
  let s := if bitOf w 0 && (!bitOf w 1 || s.clk.faulted) then s.seqStart n else s
  if bitOf w 1 then s.seqStop n else s

/-! ### Steps -/

/-- Whether the step of kind `k` is the one to run: the step before it has completed and nothing holds the sequencer. -/
def State.stepReady (s : State) (n k : Nat) : Bool :=
  let q := s.seq n
  s.seqRuns n && !s.clk.faulted && decide (fieldOf (s.stepWord n) 31 28 = k) && q.endAt.isNone && q.callPair.isNone && q.waitDue.isNone && !q.waitGrp
    && decide (q.doneAt ≤ s.clk.now)

/-- The running step completes at instant `x`, and the next one follows; `LATCH` steps there complete by themselves (R35). -/
def State.stepEnds (s : State) (n x : Nat) : State :=
  let k := s.seqStepNo n + 1
  let j := s.latchRun n k
  let s := s.setSeq n { s.seq n with doneAt := x + j * twentyNs, callPair := none, callDue := none, waitDue := none, waitGrp := false }
  s.wrF (R.seqStatus n) 13 8 (k + j)

/-- The running step completes after its overhead and its own duration. -/
def State.stepDone (s : State) (n own : Nat) : State := s.stepEnds n ((s.seq n).doneAt + twentyNs + own)

/-- `FILTER_CLOSE` (R61, R94); its end is where the input digest is formed (R329). -/
def State.closeStep (s : State) (n : Nat) : State :=
  if !s.stepReady n 2 then s
  else
    let r := s.filterClose n
    let s := r.1
    (s.setThr n { s.thr n with input := if s.twinOn then s.inputDigest n else 0 }).stepDone n r.2

/-- `VECTOR` (R121): 1,580 ns. -/
def State.vecStep (s : State) (n : Nat) : State :=
  if !s.stepReady n 3 then s else (s.vectorStep n (s.stepB n % 4)).stepDone n (1580 * 32)

/-- The instant at which a `LOOP_GROUP` step of thread `n` is judged: the end of the fabric cycle in which its dispatch overhead ends (R107). -/
def State.groupAt (s : State) (n : Nat) : Nat := fabCeil ((s.seq n).doneAt + twentyNs)

/-- Whether thread `n` is at a `LOOP_GROUP` step that has not yet asked for the engine. -/
def State.groupComing (s : State) (n : Nat) : Bool :=
  let q := s.seq n
  s.seqRuns n && decide (fieldOf (s.stepWord n) 31 28 = 4) && q.endAt.isNone && q.callPair.isNone && q.waitDue.isNone && !q.waitGrp

/-- Whether no other thread's step that is still to ask for the engine comes before one of thread `n` judged at instant `x`. -/
def State.groupFirst (s : State) (n x : Nat) : Bool :=
  (List.range 4).all (fun m => m == n || !s.groupComing m || decide (x < s.groupAt m) || (decide (x = s.groupAt m) && decide (n < m)))

/-- Thread `n` has the engine from instant `x` on for the group of its step, and the step completes with it (R106). -/
def State.groupRun (s : State) (n x corr : Nat) (bad : List (Nat × Option Nat)) : State :=
  let g := s.stepA n
  (((s.ceTake n g x).groupErrs n corr bad).groupEval n g x).stepEnds n (x + s.groupTime g)

/-- `LOOP_GROUP`, at the end of the fabric cycle of its arrival: the step takes an engine that is free and that no other step is to have before
it, and else waits (R106, R107). -/
def State.groupStep (s : State) (n corr : Nat) (bad : List (Nat × Option Nat)) : State :=
  let x := s.groupAt n
  if !s.stepReady n 4 || decide (s.clk.now < x) then s
  else if s.ce.until_ ≤ x ∧ s.ce.queue = [] ∧ s.groupFirst n x then s.groupRun n x corr bad
  else
    let s := s.setSeq n { s.seq n with waitGrp := true }
    { s with ce := { s.ce with queue := s.ce.queue ++ [(n, x / fabCycle)] } }

/-- `LOOP_GROUP_GRANT`: the engine is free, and the step that comes first takes it (R107). -/
def State.groupGrant (s : State) (corr : Nat) (bad : List (Nat × Option Nat)) : State :=
  match s.ceHead with
  | none => s
  | some (n, c) =>
    let x := fabCeil (max s.ce.until_ (c * fabCycle))
    if x ≤ s.clk.now ∧ !s.clk.faulted ∧ s.groupFirst n (c * fabCycle) then s.groupRun n x corr bad else s

/-- `GFE` (R153): 990 fabric cycles. -/
def State.gfeSeqStep (s : State) (n : Nat) : State :=
  if !s.stepReady n 5 then s else (s.gfeStep n).stepDone n (990 * fabCycle)

/-- `MODULATE` (R229). -/
def State.modSeqStep (s : State) (n : Nat) : State :=
  if !s.stepReady n 6 then s
  else
    let mask := s.stepB n % 128
    (s.modulateStep n mask).stepDone n (300 * 32 + popcount 7 mask * (240 * 32))

/-- `COMMIT` (R37, R221). -/
def State.commitSeqStep (s : State) (n : Nat) : State :=
  if !s.stepReady n 7 then s
  else
    let s := s.commitStep n
    (s.setSeq n { s.seq n with commitPend := true }).stepDone n (60 * 32 + (s.ownedSlices n).length * twentyNs)

/-- `EMIT` (R35, R37): the schedule of the pending sets goes to the links, pending too. -/
def State.emitSeqStep (s : State) (n : Nat) : State :=
  if !s.stepReady n 8 then s
  else (s.setSeq n { s.seq n with emitPend := true }).stepDone n (10 * 32 + (s.threadLinks n).length * (10 * 32))

/-- `POST` (R35): health, and with bit 1 the digests. -/
def State.postSeqStep (s : State) (n : Nat) : State :=
  if !s.stepReady n 9 then s
  else
    let b := s.stepB n
    let s := s.healthPost n
    let s := if natBit b 1 then s.twinPost n else s
    s.stepDone n (b2n (natBit b 0) * (40 * 32) + b2n (natBit b 1) * (340 * 32))

/-- `CORE_CALL` (R36): the called pair's period interrupt rises. -/
def State.callStep (s : State) (n : Nat) : State :=
  if !s.stepReady n 10 then s
  else
    let x := (s.seq n).doneAt + twentyNs
    let b := s.stepB n
    s.setSeq n { s.seq n with callPair := some (s.stepA n), callFrom := x, callDue := if b = 0 then none else some (x + b * twentyNs) }

/-- A core call ends at instant `x`. -/
def State.callEnds (s : State) (n x : Nat) : State :=
  (s.setSeq n { s.seq n with callWait := x - (s.seq n).callFrom }).stepEnds n x

/-- `CORE_TIMEOUT`: the call ends as its timeout expires. The flag is set with the end of that fabric cycle, in which a `DONE` of the
called pair still wins. -/
def State.coreTimeout (s : State) (n : Nat) : State :=
  match (s.seq n).callPair, (s.seq n).callDue with
  | some p, some d =>
    if d ≤ s.clk.now ∧ !s.clk.faulted then
      let s := s.callEnds n d
      if d / fabCycle < s.clk.now / fabCycle then s.timeoutSet n
      else (s.setSeq n { s.seq n with toPair := some p }).soon ((d / fabCycle + 1) * fabCycle) (.coreTimeout n)
    else s
  | _, _ => s

/-- A `DONE` of the called pair in the fabric cycle of the timeout that ended the call: completion wins, and `CORE_TIMEOUT` is not set. -/
def State.timeoutUndo (s : State) (n : Nat) : State :=
  let s := s.setSeq n { s.seq n with toPair := none }
  { s with prot := { s.prot with inb := s.prot.inb.filter (fun e => e.2 != .coreTimeout n) } }

/-- `CORE_DONE`: accepted from the called pair itself while its call waits, from the step's dispatch on (DESIGN CHOICE: the overhead belongs
to the step, log 74), and until the end of the fabric cycle of its timeout. -/
def State.coreDone (s : State) (who : Initiator) (n : Nat) : State :=
  let q := s.seq n
  match who, q.callPair with
  | .core p, some c =>
    if p.val = c ∧ !s.clk.faulted then
      (match q.callDue with
        | some d => if d / fabCycle < s.clk.now / fabCycle then s.coreTimeout n else s.callEnds n (max s.clk.now q.callFrom)
        | none => s.callEnds n (max s.clk.now q.callFrom))
    else s
  | .core p, none => if q.toPair = some p.val then s.timeoutUndo n else s
  | _, _ => s

/-- `WAIT`: until its offset from the sample instant; at once where that has passed. -/
def State.waitStep (s : State) (n : Nat) : State :=
  if !s.stepReady n 11 then s
  else
    let x := (s.seq n).doneAt + twentyNs
    let d := (s.seq n).sampleAt + s.stepB n * twentyNs
    if d ≤ x then s.stepEnds n x else s.setSeq n { s.seq n with waitDue := some d }

/-- `WAIT_END`. -/
def State.waitEnd (s : State) (n : Nat) : State :=
  match (s.seq n).waitDue with
  | some d => if d ≤ s.clk.now ∧ !s.clk.faulted then s.stepEnds n d else s
  | none => s

/-- `END`: reached as the step before it completes (R35); the twin hears of it (R328, R332). -/
def State.endStep (s : State) (n : Nat) : State :=
  if !s.stepReady n 0 then s
  else ((s.setSeq n { s.seq n with endAt := some (s.seq n).doneAt }).twinEnd n).snapSend n

/-! ### Writes to signals by initiators (R42) -/

/-- The core pair in whose name an initiator writes signals: a Ferry queue writes as its owner (R417). -/
def State.sigPair (s : State) (who : Initiator) : Option Nat :=
  match who with
  | .core p => some p.val
  | .ferry q => some (s.rdF (R.fryQCfg q.val) 2 0)
  | _ => none

/-- Whether the initiator is the declared writer of signal `i`, and may write it now. -/
def State.sigMayWrite (s : State) (who : Initiator) (i : Nat) : Bool :=
  let d := s.sigDecl i
  match s.sigPair who with
  | none => false
  | some p =>
    decide (i < 4064) && bitOf d 31 && fieldOf d 27 24 == 9 && fieldOf d 11 0 == p &&
      (decide (4 ≤ s.sigDomain i) || (s.seq (s.sigDomain i)).callPair == some p)

/-- `SIGNAL_WRITE`. -/
def State.signalWrite (s : State) (who : Initiator) (i : Nat) (v : Word) (q : Qual) : State :=
  if s.sigMayWrite who i then
    s.sigWrite i v q
  else
    s.raiseCapture R.seqErr 31 R.seqErr 11 0 i

end Sys2Proof.Machine
end

