-- ==== Sys2Proof/Machine/Bus.lean ====
section
/-! DEFINITION. The bus: what a write or a read of a register or of memory does, by address and initiator (R4–R8, R43, R327, R408–R414,
R428, R465, R483, R484). -/

namespace Sys2Proof.Machine

/-! ### Places of a register -/

/-- The number of the register at byte offset `d` among those that the dimensions spell, counted with the last dimension fastest. -/
def dimsIndex : List (Nat × Nat) → Nat → Nat → Option Nat
  | [], acc, d => if d = 0 then some acc else none
  | (st, n) :: rest, acc, d =>
    let i := d / st
    if i < n then dimsIndex rest (acc * n + i) (d - i * st) else none

/-- A register whose write does more than store: its place, and what the write of a word by an initiator (none: the device itself, for a
mirrored write) does to the register of a number. -/
structure WRoute where
  base : Nat
  dims : List (Nat × Nat)
  act : State → Option Initiator → Nat → Word → State

/-- Bits of a word acted on in turn. -/
def State.eachBit (s : State) (w : Word) (n : Nat) (f : State → Nat → State) : State :=
  s.each ((List.range n).filter (bitOf w)) f

/-! ### Writes that act -/

/-- `SEQ_n_CORE_DONE` (R36). -/
def State.coreDoneWrite (s : State) (who : Option Initiator) (n : Nat) (w : Word) : State :=
  match who with
  | some i => if bitOf w 0 then s.coreDone i n else s
  | none => s

/-- `SEQ_SUB_j` (R102). -/
def State.subWrite (s : State) (j : Nat) (w : Word) : State := if bitOf w 28 then s.subForce j else s

/-- `SEQ_PAIR_p_CTRL` (R99). -/
def State.pairCtrlWrite (s : State) (p : Nat) (w : Word) : State :=
  let s := if bitOf w 0 then s.pairRestore p false else s
  if bitOf w 1 then s.pairRestore p true else s

/-- `SAR_k_CTRL` (R79, R87). -/
def State.sarCtrlWrite (s : State) (k : Nat) (w : Word) : State :=
  let s := if bitOf w 0 then s.sarTrigger k false s.clk.now else s
  let s := if bitOf w 1 then s.sarTrigger k true s.clk.now else s
  if bitOf w 2 then s.sarCalReq k else s

/-- `SND_CTRL` (R203, R206). -/
def State.sndCtrlWrite (s : State) (w : Word) : State :=
  let s := if bitOf w 1 then s.sndPop else s
  if bitOf w 0 then s.txSend else s

/-- `PROT_n_DISCH_CTRL` (R312): an `ABORT` beside a `START` follows it. -/
def State.dischCtrlWrite (s : State) (n : Nat) (w : Word) : State :=
  let s := if bitOf w 0 then s.dischStart n .write else s
  if bitOf w 1 then s.dischAbort n else s

/-- `REC_CAP_u_CTRL` (R363): a `STOP` beside an `ARM` follows it. -/
def State.capCtrlWrite (s : State) (u : Nat) (w : Word) : State :=
  let s := if bitOf w 0 then s.recArm u else s
  if bitOf w 1 then s.recStop u else s

/-- `AUX_BUS_STATUS`: clearing `CHOP_FAULT` ends its source (R275). -/
def State.auxBusStatusWrite (s : State) (w : Word) : State :=
  let t := s.storeReg R.auxBusStatus w
  if s.rdB R.auxBusStatus 7 && !t.rdB R.auxBusStatus 7 then t.srcLevel 469 false false else t

/-- `CAN_k_CTRL` (R396, R398, R399, R403). -/
def State.canCtrlWrite (s : State) (k : Nat) (w : Word) : State :=
  let s := if bitOf w 3 then s.canBoRecover k else s
  let s := if bitOf w 4 then s.canSleepReq k else s
  let s := if bitOf w 5 then s.canCapture k else s
  if bitOf w 6 then s.canPop k else s

/-- `SYS_CP_p_CTRL` (R407). -/
def State.cpCtrlWrite (s : State) (who : Option Initiator) (p : Nat) (w : Word) : State :=
  match who with
  | some i => if bitOf w 0 then s.cpRestart i p else s
  | none => s

/-- `SYS_DBG_FORCE_k` (R429). -/
def State.dbgForceWrite (s : State) (who : Option Initiator) (k : Nat) (w : Word) : State :=
  match who with
  | some i => s.forceWrite i k w
  | none => s

/-- `FRY_Q_q_CFG`: written only outside `RUNNING` and `WAITING`. -/
def State.fqCfgWrite (s : State) (q : Nat) (w : Word) : State := if s.fqCfgOpen q then s.storeReg (R.fryQCfg q) w else s

/-- A counter's selection (R424): the counter stops with the value that it holds, and goes on under the new one. -/
def State.pmuSelWrite (s : State) (i : Nat) (w : Word) : State := (s.pmuHold (i / 8) (i % 8) s.coreCyc).storeReg (R.pmuSel (i / 8) (i % 8)) w

/-- A context word of parameter bank `i / 8192` (R117): words 0 to 3 and 15 have no writable bit. -/
def State.ceWordWrite (s : State) (i : Nat) (w : Word) : State :=
  let k := i % 16
  let c := i / 16
  s.ceParamWrite (c / 512) (c % 512) k w

/-- The RW words of vector unit `u` (Table 7.4) are written in `OFF` only; every other word of its window by its access codes. -/
def State.vecWordWrite (s : State) (i : Nat) (w : Word) : State :=
  let u := i / 256
  let a := R.vecCtrl u + i % 256 * 4
  if i % 256 = 0 then s.vecCtrlWrite u w
  else if (regRow a).elim 0 (·.rw) ≠ 0 then s.vecParamWrite u a w
  else if a = R.vecStatus u then s.storeKept (u / 2) a w
  else s.storeReg a w

/-- The registers of the grid-forming engine of thread `n` that show the state of the last on-time evaluation (R178). -/
def gfeKeptAddrs (n : Nat) : List Nat :=
  [R.gfeStatus n, R.gfeClCount n, R.gfeBlend n, R.gfeSyncDiff n, R.gfeOmegaAccLo n, R.gfeOmegaAccHi n, R.gfeFrtStatus n,
    R.gfeFrtLast n, R.gfeJumpLast n, R.gfeFrtCount n, R.gfeBsStatus n, R.gfeBsTimer n]

/-- The words of grid-forming engine `n` (R163, R177, R187). -/
def State.gfeWordWrite (s : State) (i : Nat) (w : Word) : State :=
  let n := i / 256
  let a := R.gfeCtrl n + i % 256 * 4
  if a = R.gfeCtrl n then s.gfeCtrlWrite n w
  else if a = R.gfeBsCtrl n then s.bsCtrlWrite n w
  else if (gfeParAddrs n).contains a then s.gfeParWrite n a w
  else if (gfeKeptAddrs n).contains a then s.storeKept n a w
  else s.storeReg a w

/-- The registers of a block whose write acts. -/
def writeRoutes : Nat → List WRoute
  | 0x400 =>
    [ ⟨R.sysLock, [], fun s _ _ w => if bitOf w 0 then s.wrB R.sysLock 0 true else s⟩
    , ⟨R.sysCpCtrl 0, [(16, 5)], fun s who p w => s.cpCtrlWrite who p w⟩
    , ⟨R.sysDbg, [], fun s _ _ w => s.dbgLevelWrite w⟩
    , ⟨R.sysDbgForce 0, [(8, 8)], fun s who k w => s.dbgForceWrite who k w⟩
    , ⟨R.sysIrqClaimM 0, [(16, 5)], fun s _ p w => s.irqComplete p false w⟩
    , ⟨R.sysIrqClaimS 0, [(16, 5)], fun s _ p w => s.irqComplete p true w⟩
    , ⟨R.sysSwi, [], fun s _ _ w => s.swiSet w⟩ ]
  | 0x402 =>
    [ ⟨R.pdmOff, [], fun s _ _ w => s.pdmOffWrite w⟩
    , ⟨R.pdmOn, [], fun s _ _ w => s.pdmOnWrite w⟩ ]
  | 0x403 =>
    [ ⟨R.seqCtrl 0, [(4096, 4)], fun s _ n w => s.seqCtrlWrite n w⟩
    , ⟨R.seqCoreDone 0, [(4096, 4)], fun s who n w => s.coreDoneWrite who n w⟩
    , ⟨R.seqPairStatus 0, [(32, 128)], fun s _ p w => s.pairStatusWrite p w⟩
    , ⟨R.seqPairCtrl 0, [(32, 128)], fun s _ p w => s.pairCtrlWrite p w⟩
    , ⟨R.seqSub 0, [(4, 16)], fun s _ j w => s.subWrite j w⟩ ]
  | 0x414 => [ ⟨R.sarCtrl 0, [(512, 24)], fun s _ k w => s.sarCtrlWrite k w⟩ ]
  | 0x420 =>
    [ ⟨R.ceBankCtrl, [], fun s _ _ w => s.eachBit w 4 State.ceSwapReq⟩
    , ⟨R.ceParam0 0, [(4, 16384)], fun s _ i w => s.ceWordWrite i w⟩
    , ⟨R.ceState6 0, [(32, 512)], fun s _ c w => s.ceStatusWrite c w⟩ ]
  | 0x424 =>
    [ ⟨R.vecCtrl 0, [(4, 2048)], fun s _ i w => s.vecWordWrite i w⟩
    , ⟨R.vecPosOffset 0, [(64, 4)], fun s _ k w => s.posOffsetWrite k w⟩ ]
  | 0x428 => [ ⟨R.gfeCtrl 0, [(4, 1024)], fun s _ i w => s.gfeWordWrite i w⟩ ]
  | 0x42C =>
    [ ⟨R.sndCtrl, [], fun s _ _ w => s.sndCtrlWrite w⟩
    , ⟨R.sndStatus, [], fun s _ _ w => s.storeKept s.sndThread R.sndStatus w⟩ ]
  | 0x430 =>
    [ ⟨R.pwmCcommit, [], fun s _ _ w => s.eachBit w 4 State.commitGroup⟩
    , ⟨R.pwmSliceOn 0, [(64, 128)], fun s _ i w => s.writeSliceWord i true w⟩
    , ⟨R.pwmSliceOff 0, [(64, 128)], fun s _ i w => s.writeSliceWord i false w⟩
    , ⟨R.pwmLegSt 0 0, [(64, 42), (4, 4)], fun s _ i w => s.writeLegWord (i / 4) (i % 4) w⟩ ]
  | 0x438 =>
    [ ⟨R.auxCtrl 0, [(256, 6)], fun s _ m w => s.auxCtrlWrite m w⟩
    , ⟨R.auxBusStatus, [], fun s _ _ w => s.auxBusStatusWrite w⟩ ]
  | 0x440 =>
    [ ⟨R.protSrcLatch 0, [(4, 15)], fun s _ k w => s.latchClear k w⟩
    , ⟨R.protThrDischCtrl 0, [(256, 4)], fun s _ n w => s.dischCtrlWrite n w⟩
    , ⟨R.protThrStatus 0, [(256, 4)], fun s _ n w => s.protStatusWrite n w⟩ ]
  | 0x444 =>
    [ ⟨R.smonRel, [], fun s who _ w => s.smonRel who w⟩
    , ⟨R.smonWd 0, [(8, 5)], fun s who p w => s.wdService who p w⟩ ]
  | 0x44C => [ ⟨R.islCmd, [], fun s _ _ w => s.islCmd w⟩ ]
  | 0x450 =>
    [ ⟨R.recFire, [], fun s _ _ w => s.recSoftFire (fieldOf w 7 0)⟩
    , ⟨R.recCapCtrl 0, [(256, 8)], fun s _ u w => s.capCtrlWrite u w⟩
    , ⟨R.recCapFireAtNs 0, [(256, 8)], fun s _ u w => s.fireAtWrite u w⟩
    , ⟨R.recCapFull 0, [(256, 8)], fun s _ u w => s.slotFree u w⟩ ]
  | 0x458 =>
    [ ⟨R.timeCtrl, [], fun s _ _ w => s.timeCtrlWrite w⟩
    , ⟨R.timeIncFrac, [], fun s _ _ w => s.timeIncWrite w⟩ ]
  | 0x45C =>
    [ ⟨R.canCtrl 0, [(65536, 4)], fun s _ k w => s.canCtrlWrite k w⟩
    , ⟨R.canTxreq 0, [(65536, 4)], fun s _ k w => s.canTxReq k (fieldOf w 2 0)⟩
    , ⟨R.canTxAbort 0, [(65536, 4)], fun s _ k w => s.canTxAbort k (fieldOf w 2 0)⟩
    , ⟨R.canTxbWord 0 0 0, [(65536, 4), (96, 3), (4, 18)], fun s _ i w => s.canWriteWord (i / 54) (i / 18 % 3) (i % 18) w⟩
    , ⟨R.canRxaRel 0, [(65536, 4)], fun s _ k w => s.canRelease k (fieldOf w 7 0)⟩ ]
  | 0x460 =>
    [ ⟨R.fryQCfg 0, [(64, 32)], fun s _ q w => s.fqCfgWrite q w⟩
    , ⟨R.fryQCtrl 0, [(64, 32)], fun s _ q w => s.ferryCtrl q w⟩ ]
  | 0x464 => [ ⟨R.iommuInv, [], fun s _ _ w => s.iomInvalidate w⟩ ]
  | 0x468 =>
    [ ⟨R.pmuPcnt 0 0, [(4096, 5), (4, 8)], fun s _ i w => s.pmuWrite (i / 8) (i % 8) w⟩
    , ⟨R.pmuSel 0 0, [(4096, 5), (4, 8)], fun s _ i w => s.pmuSelWrite i w⟩
    , ⟨R.pmuFreeze, [], fun s _ _ w => s.pmuFreezeWrite w⟩ ]
  | 0x46C =>
    [ ⟨R.bootReset, [], fun s _ _ w => s.softReset w⟩
    , ⟨R.bootFlashCmd, [], fun s _ _ w => s.flashCmd (fieldOf w 30 28)⟩
    , ⟨R.bootOtpCmd, [], fun s _ _ w => s.otpCmd w⟩ ]
  | _ => []

/-- The first route that holds an address, with the number of the register in it. -/
def findRoute : List WRoute → Nat → Option (WRoute × Nat)
  | [], _ => none
  | r :: rs, a =>
    match (if r.base ≤ a then dimsIndex r.dims 0 (a - r.base) else none) with
    | some i => some (r, i)
    | none => findRoute rs a

/-- A write of `w` reaches the register at `a` in its block. -/
def State.regWrite (s : State) (who : Option Initiator) (a : Nat) (w : Word) : State :=
  match findRoute (writeRoutes (a / 0x100000)) a with
  | some (r, i) => r.act s who i w
  | none => s.storeReg a w

/-! ### Reads -/

/-- A register of the engine of thread `n` as a read shows it. -/
def State.gfeShow (s : State) (n a : Nat) : Word :=
  if (gfeKeptAddrs n).contains a then
    let live := wordN ((regRow a).elim 0 (·.w1c))
    (s.rd a &&& live) ||| (tabGet regReset (s.kept n).regs a &&& ~~~ live)
  else s.rd a

/-- The word of pending sources 32 k to 32 k + 31. -/
def State.irqWord (s : State) (k : Nat) : Word :=
  wordN ((List.range 32).foldl (fun a i => a + b2n (s.irqPending (32 * k + i)) * 2 ^ i) 0)

/-- A shadow word of a slice or leg unit: what cores write is the register as held; a set that another owner committed shows its own words
(R218, R219). -/
def State.shadowWord (s : State) (a : Nat) : Word :=
  let i := (a - R.pwmSliceOn 0) / 64
  let g := (a - R.pwmLegSt 0 0) / 64
  if R.pwmLegSt 0 0 ≤ a ∧ g < 42 ∧ (a - R.pwmLegSt 0 0) % 64 < 16 ∧ s.slOwner (3 * g) ≠ 5 then
    nth 0#32 (s.leg g).shadow ((a - R.pwmLegSt 0 0) % 64 / 4)
  else if R.pwmSliceOn 0 ≤ a ∧ i < 128 ∧ (a - R.pwmSliceOn 0) % 64 < 8 ∧ s.slOwner i = 4 then
    let v := (s.slice i).shadow
    if (a - R.pwmSliceOn 0) % 64 = 0 then withBit (wordN v.on) 31 v.blk else wordN v.off
  else s.rd a

/-- `SYNC_c` of `SND_STATUS`: free for a correlator that runs, as no rule says when it acquires (R205, log 10); 0 for one that does not. -/
def State.sndSync (s : State) : Nat :=
  (List.range 16).foldl (fun a c => a + b2n (s.sndEn && s.rdB (R.sndCorr c) 31 && bitOf s.freshWord (16 + c)) * 2 ^ c) 0

/-- What the register at `a` shows an initiator, before the effect of the read; registers not formed here are held as such. -/
def State.showReg (s : State) (who : Initiator) (a : Nat) : Word :=
  let at_ (base : Nat) (dims : List (Nat × Nat)) : Option Nat := if base ≤ a then dimsIndex dims 0 (a - base) else none
  match a / 0x100000 with
  | 0x400 =>
    match at_ (R.sysIrqPend 0) [(4, 8)] with
    | some k => s.irqWord k
    | none => s.rd a
  | 0x403 =>
    if 0x40308000 ≤ a ∧ a < 0x4030C000 then (s.sigStable ((a - 0x40308000) / 4)).val
    else if 0x4030C000 ≤ a ∧ a < 0x40310000 then
      let i := (a - 0x4030C000) / 4
      wordN (s.sigTag i * 65536 + (s.sigStable i).qual.toNat)
    else
      match at_ (R.seqCtrl 0) [(4096, 4)], at_ (R.seqStatus 0) [(4096, 4)] with
      | some n, _ => wordN (b2n (s.seq n).startAt.isSome + 2 * b2n (s.seq n).stopPend)
      | none, some n => withField (s.rd a) 13 8 (s.stepShown n)
      | none, none => s.rd a
  | 0x420 =>
    match at_ (R.ceState0 0) [(32, 512), (4, 8)] with
    | some i => s.ctxWord (i / 8) (i % 8)
    | none => s.rd a
  | 0x424 =>
    match at_ (R.vecPosStatus 0) [(64, 4)] with
    | some k => withBit (s.rd a) 0 (s.posFault k)
    | none => s.rd a
  | 0x428 =>
    match at_ (R.gfeOmegaAccLo 0) [(1024, 4)] with
    | some n =>
      let l := tabGet (fun _ => 0) s.gpar.accLow n
      if l = 0 then s.gfeShow n a else wordN (l - 1)
    | none => s.gfeShow ((a - 0x42800000) / 0x400) a
  | 0x42C =>
    if a = R.sndStatus then withField (withField (s.rd a) 5 0 s.snd.fifo.length) 31 16 s.sndSync
    else if a = R.sndRxHead then s.sndHead 0
    else if a = R.sndRxPayload then s.sndHead 1
    else if a = R.sndRxS then s.sndHead 2
    else if a = R.sndRxNs then s.sndHead 3
    else s.rd a
  | 0x430 =>
    if a = R.pwmTbLo then (s.tbLoRead who).2
    else if a = R.pwmTbHi then (if who = .ulile then wordN s.tim.tbUli else s.rd a)
    else
      match at_ (R.pwmSliceStatus 0) [(64, 128)], at_ (R.pwmLegStatus 0) [(64, 42)] with
      | some i, _ => withBit (s.rd a) 16 (s.slice i).aOn
      | none, some g => withBit (withField (s.rd a) 2 0 (s.liveCode g)) 8 (s.leg g).path.step.isSome
      | none, none => s.shadowWord a
  | 0x434 =>
    match at_ (R.stlCfgCrc 0) [(256, 32)] with
    | some l => wordN (s.cfgCrc l)
    | none => s.rd a
  | 0x450 =>
    match at_ (R.recBus 0) [(4, 4)] with
    | some l => withBit (s.rd a) 16 (s.busLevel l)
    | none => s.rd a
  | 0x454 =>
    if a = R.ethTs0 then s.ethTsWord 0
    else if a = R.ethTs1 then s.ethTsWord 1
    else if a = R.ethTs2 then s.ethTsWord 2
    else if a = R.ethTs3 then s.ethTsWord 3
    else if a = R.ethTcStatus then withField (s.rd a) 20 16 s.eth.stamps.length
    else s.rd a
  | 0x458 =>
    if a = R.timeNs then (s.timeNsRead who).2
    else if a = R.timeSLo then s.timeLatched who 0
    else if a = R.timeSHi then s.timeLatched who 1
    else if a = R.timeFrac then s.timeLatched who 2
    else s.rd a
  | 0x45C =>
    match at_ (R.canTsc 0) [(65536, 4)] with
    | some k => wordN (s.canTscAt k s.clk.now)
    | none => s.rd a
  | 0x464 =>
    if a = R.iommuFault0 then s.iomHead 0
    else if a = R.iommuFault1 then s.iomHead 1
    else if a = R.iommuFault2 then s.iomHead 2
    else s.rd a
  | _ => s.rd a

/-- A read of the register at `a` by an initiator: the state after its effect, and what it shows (R4, R5). -/
def State.regRead (s : State) (who : Initiator) (a : Nat) : State × Word :=
  let at_ (base : Nat) (dims : List (Nat × Nat)) : Option Nat := if base ≤ a then dimsIndex dims 0 (a - base) else none
  let w := s.showReg who a
  match a / 0x100000 with
  | 0x400 =>
    match at_ (R.sysIrqClaimM 0) [(16, 5)], at_ (R.sysIrqClaimS 0) [(16, 5)] with
    | some p, _ => s.irqClaim p false
    | none, some p => s.irqClaim p true
    | none, none => (s, w)
  | 0x428 =>
    match at_ (R.gfeOmegaAccHi 0) [(1024, 4)], at_ (R.gfeOmegaAccLo 0) [(1024, 4)] with
    | some n, _ => (s.accHiRead n, w)
    | none, some n => ({ s with gpar := { s.gpar with accLow := tabSet (fun _ => 0) s.gpar.accLow n 0 } }, w)
    | none, none => (s, w)
  | 0x42C => (if a = R.sndStatus then s.tookFree else s, w)
  | 0x430 => if a = R.pwmTbLo then s.tbLoRead who else (s, w)
  | 0x440 =>
    match at_ (R.protThrVdc 0) [(256, 4)] with
    | some n => (s.wrF (R.protThrVdc n) 31 16 (s.rdF (R.protThrVdc n) 15 0), w)
    | none => (s, w)
  | 0x450 => (if (at_ (R.recBus 0) [(4, 4)]).isSome then s.tookFree else s, w)
  | 0x454 => if a = R.ethTs3 then s.ethTsPop else (s, w)
  | 0x458 => if a = R.timeNs then s.timeNsRead who else (s, w)
  | 0x464 => (if a = R.iommuFault2 then s.iomPop else s, w)
  | 0x468 =>
    match at_ (R.pmuPcnt 0 0) [(4096, 5), (4, 8)] with
    | some i => s.pmuRead (i / 8) (i % 8)
    | none => (s, w)
  | _ => (s, w)

/-! ### Accesses -/

/-- The blocks of Table 25.2, by number. -/
def blockExists (b : Nat) : Bool :=
  [0x400, 0x401, 0x402, 0x403, 0x410, 0x414, 0x420, 0x424, 0x428, 0x42C, 0x430, 0x434, 0x438, 0x440, 0x444, 0x448, 0x44C, 0x450, 0x454,
    0x458, 0x45C, 0x460, 0x464, 0x468, 0x46C, 0x470, 0x474].contains b

/-- Whether an initiator reaches the bus: the debug port by its level (R428). -/
def State.mayAccess (s : State) (who : Initiator) (write : Bool) : Bool :=
  match who with
  | .debug => decide ((if write then 2 else 1) ≤ s.dbgLevel)
  | _ => true

/-- Whether `a` lies in register space. -/
def isReg (a : Nat) : Bool := decide (0x40000000 ≤ a ∧ a < 0x48000000)

/-- Whether an access of a size at a register address ends without a bus error: 32 bits, aligned, in a block whose domain is on. -/
def State.regAnswers (s : State) (a : Nat) (size : Size) : Bool :=
  size == .b4 && decide (a % 4 = 0) && blockExists (a / 0x100000) && s.pdOn (blockDomain (a / 0x100000))

/-- The region of `n` bytes of memory from `a` that answers: one region holds them all, powered and, for DRAM, trained (R408, R465). The TCM of
the spare pair answers at the addresses of the pair it serves only (R454). -/
def State.memAnswers (s : State) (a n : Nat) : Option Nat :=
  match memRegion a s.dramEnd with
  | none => none
  | some r =>
    if memRegion (a + n - 1) s.dramEnd ≠ some r then none
    else if r = 7 ∧ !s.dramUp then none
    else if 2 ≤ r ∧ r ≤ 6 ∧ (r = 6 ∨ !s.pdOn (s.pairHome (r - 2))) then none
    else some r

/-- A read of `n` bytes of memory: none where it ends in a bus error, or in an access fault on an uncorrectable error (R414). -/
def State.memRead (s : State) (a n : Nat) : State × Option (List Byte) :=
  match s.memAnswers a n with
  | none => (s, none)
  | some _ => if s.eccBad a n then (s.eccUncorrectable a, none) else (s, some (s.bytes a n))

/-- A write of bytes to memory: false where it ends in a bus error; the boot ROM takes none (R408, R414). -/
def State.memWrite (s : State) (a : Nat) (bs : List Byte) : State × Bool :=
  match s.memAnswers a bs.length with
  | none => (s, false)
  | some 0 => (s, false)
  | some _ =>
    match s.eccWrite a bs.length with
    | none => (s.eccUncorrectable a, false)
    | some s => (s.setBytes a bs, true)

/-- A 32-bit write to a register that answers: nothing on a resource that the variant lacks; a mirrored write under R327. -/
def State.regAccess (s : State) (who : Initiator) (a : Nat) (w : Word) : State :=
  if s.absent a then s
  else
    match s.mirrorJudge a w with
    | .local_ => s.regWrite (some who) a w
    | .hold s => s
    | .refused s => s

/-- A write by an initiator, without its answer: the state after it, and whether it ended without a bus error. -/
def State.access (s : State) (who : Initiator) (a : Nat) (size : Size) (d : Dword) : State × Bool :=
  if !s.mayAccess who true then (s, false)
  else if isReg a then
    if s.regAnswers a size then (s.regAccess who a (d.setWidth 32), true) else (s, false)
  else s.memWrite a (bytesLE size.bytes d.toNat)

/-- A write on the bus (R4). -/
def State.busWrite (s : State) (who : Initiator) (a : Nat) (size : Size) (d : Dword) : State :=
  let r := s.access who a size d
  { r.1 with bus := if r.2 then .ok 0#64 else .err }

/-- A 32-bit register write on the bus. -/
def State.busWord (s : State) (who : Initiator) (a : Nat) (w : Word) : State := s.busWrite who a .b4 (w.setWidth 64)

/-- A read on the bus (R4). -/
def State.busRead (s : State) (who : Initiator) (a : Nat) (size : Size) : State :=
  if !s.mayAccess who false then { s with bus := .err }
  else if isReg a then
    if !s.regAnswers a size then { s with bus := .err }
    else if s.absent a then { s with bus := .ok 0#64 }
    else
      let r := s.regRead who a
      { r.1 with bus := .ok (r.2.setWidth 64) }
  else
    let r := s.memRead a size.bytes
    { r.1 with bus := (match r.2 with
      | none => .err
      | some bs => .ok (BitVec.ofNat 64 (natLE bs))) }

end Sys2Proof.Machine
end

