-- ==== Sys2Proof/Machine/Arrive.lean ====
section
/-! DEFINITION. What happens by itself at an instant fixed before: levels on their way to the protection block, registers that take a word later,
slots of the control engine (R36, R68, R71, R106, R297, R298); and the state at the instant of a command. -/

namespace Sys2Proof.Machine

/-- An effect that was on its way happens. -/
def State.soonDo (s : State) : Soon → State
  | .src x on => s.srcLevel x on false
  | .reg a w => s.wr a w
  | .coreTimeout n => s.timeoutSet n
  | .dc n m => s.dcJudge n m
  | .chopEnd n => s.chopDropEnd n
  | .slot n g j => s.groupSlot n g j

/-- At most `k` effects that are due by instant `t` happen, each at its own instant. -/
def State.arriveN : Nat → State → Nat → State
  | 0, s, _ => s
  | k + 1, s, t =>
    match s.prot.inb with
    | [] => s
    | e :: rest =>
      if e.1 ≤ t then State.arriveN k ((({ s with prot := { s.prot with inb := rest } } : State).goto e.1).soonDo e.2) t else s

/-- What was on its way and is due by instant `t` happens; an effect may send at most one further one for each thread. -/
def State.arrive (s : State) (t : Nat) : State := s.arriveN (5 * s.prot.inb.length) t

/-- The state at instant `t` when a command acts then: what was on its way has happened, and the present has moved to `t` (never
back). -/
def State.upTo (s : State) (t : Nat) : State := (s.arrive t).goto t

/-- The bits of chain `i` whose captures lie at or before instant `t` enter it, each at its own capture; the rest of the list is not yet
captured. -/
def State.captureTo (s : State) (i t : Nat) : List Bool → State
  | [] => s
  | b :: bs =>
    let x := s.capAt i (s.chain i).n
    if s.capturing i && decide (x ≤ t) then ((s.upTo x).bitIn i b).captureTo i t bs else s

end Sys2Proof.Machine
end

