-- ==== Sys2Proof/Machine/Operands.lean ====
section
/-! DEFINITION. The form of every command: when it acts, where it acts, and how its next state is made. -/

namespace Sys2Proof.Machine

/-- A command that acts at instant `t`: the present moves to `t`, the command has its effect, and the forces that R429 ends
end. The queue is not the command's: it stands as it stood. -/
def State.run (s : State) (t : Nat) (f : State → State) : Host.Outcome State Fault Refusal :=
  let u := (f (s.upTo t)).settle
  .next { u with pending := s.pending }

/-- A command that delivers bits of chain `i`: those whose capture lies at or before instant `t` enter the chain, each at its own capture (R47,
log 83). -/
def State.runBits (s : State) (t i : Nat) (bits : List Bool) : Host.Outcome State Fault Refusal :=
  let u := ((s.captureTo i t bits).upTo t).settle
  .next { u with pending := s.pending }

/-- An event inside power domain `d` happens only while the domain is on (R464). -/
def State.inDomain (s : State) (d : Nat) (f : State → State) : State := if s.pdOn d then f s else s

end Sys2Proof.Machine
end

