-- ==== Sys2Proof/WellFormed.lean ====
section
/-! DEFINITION. Which terms of `Instr` are commands: the lengths of operand lists. Everything else about an operand is in its type. -/

namespace Sys2Proof

open Sys2Proof.Machine

/-- Three phases of active and of reactive energy. -/
def wfStraitPowerFall (e : List Int) (r : List Int) : Bool := e.length == 3 && r.length == 3

/-- Four channels of voltage and current, three elements of power. -/
def wfMeterWindow (m : IslMeas) : Bool := m.v.length == 4 && m.i.length == 4 && m.p.length == 3 && m.q.length == 3

/-- Three phases of active and of reactive energy. -/
def wfMeterQuantum (e : List Int) (r : List Int) : Bool := e.length == 3 && r.length == 3

/-- A frame has both addresses and an EtherType. -/
def wfEthFrameIngress (bytes : List Byte) : Bool := decide (14 ≤ bytes.length)

/-- A CAN FD frame holds at most 64 bytes (R385). -/
def wfCanRxFrame (f : CanFrame) : Bool := decide (f.data.length ≤ 64)

/-- A wake-up frame is a classical one of at most 8 bytes (R400). -/
def wfCanWake (seen : WakeSeen) : Bool := (match seen with | .frame f => decide (f.data.length ≤ 8) | _ => true)

/-- One calibration result for each of the 24 converters (R443). -/
def wfResetRelease (x : ReleaseIn) : Bool := x.cal.length == 24

/-- Whether a term is a command. -/
def Instr.wf : Instr → Bool
  | .registerWrite .. => true
  | .sysLockSet .. => true
  | .refLoss .. => true
  | .pllUnlock .. => true
  | .clockMonitorWindow .. => true
  | .safeOscGrace .. => true
  | .sampleInstant .. => true
  | .seqStart .. => true
  | .seqStop .. => true
  | .filterClose .. => true
  | .vector .. => true
  | .loopGroup .. => true
  | .loopGroupGrant .. => true
  | .gfe .. => true
  | .modulate .. => true
  | .commit .. => true
  | .emit .. => true
  | .post .. => true
  | .coreCall .. => true
  | .coreDone .. => true
  | .coreTimeout .. => true
  | .wait .. => true
  | .waitEnd .. => true
  | .end_ .. => true
  | .signalWrite .. => true
  | .cicOutput .. => true
  | .firOutput .. => true
  | .resamplerOutput .. => true
  | .chainRelease .. => true
  | .detectorTake .. => true
  | .stuck .. => true
  | .stuckClear .. => true
  | .pfFire .. => true
  | .pfClear .. => true
  | .restoreA .. => true
  | .restoreB .. => true
  | .subForce .. => true
  | .sarSwReg .. => true
  | .sarSwInj .. => true
  | .sarCal .. => true
  | .sarTimer .. => true
  | .sarStartEdge .. => true
  | .sarConversionEnd .. => true
  | .calibrationStart .. => true
  | .calibrationEnd .. => true
  | .calAuto .. => true
  | .calStarved .. => true
  | .bankSwapRequest .. => true
  | .vecStart .. => true
  | .vecStop .. => true
  | .ascReq .. => true
  | .ascExit .. => true
  | .encoderEdge .. => true
  | .encoderZEdge .. => true
  | .ssiFrame .. => true
  | .spdTimeout .. => true
  | .gfeStart .. => true
  | .gfeStop .. => true
  | .gfeApply .. => true
  | .bsStart .. => true
  | .bsAbort .. => true
  | .txSend .. => true
  | .sndRxPop .. => true
  | .sndFrameStart .. => true
  | .sndFrameEnd .. => true
  | .sndFrameReceived .. => true
  | .shiftApply .. => true
  | .resyncEnd .. => true
  | .claimAgeExpiry .. => true
  | .reload .. => true
  | .pwmCcommit .. => true
  | .sliceEdge .. => true
  | .deadTimeEnd .. => true
  | .legEntry .. => true
  | .legStep .. => true
  | .trgCompare .. => true
  | .tripInput .. => true
  | .stadanSlot .. => true
  | .edgeEligible .. => true
  | .upstreamFrame .. => true
  | .linkDown .. => true
  | .driverFrame .. => true
  | .driverClaimLapse .. => true
  | .driverEdgeExecute .. => true
  | .driverSilence .. => true
  | .driverGateFault .. => true
  | .driverStatusSend .. => true
  | .auxStart .. => true
  | .auxStop .. => true
  | .auxClear .. => true
  | .auxBusCrossing .. => true
  | .auxChopVerify .. => true
  | .auxCurrentWindow .. => true
  | .brkOffEnd .. => true
  | .bemfCrossing .. => true
  | .demagBlankEnd .. => true
  | .commutation .. => true
  | .forcedCommutation .. => true
  | .obsTime .. => true
  | .stopConfirm .. => true
  | .alignEnd .. => true
  | .rampSectorEnd .. => true
  | .ovRel .. => true
  | .vdrvUv .. => true
  | .cpUv .. => true
  | .bstUv .. => true
  | .latchClear .. => true
  | .windowComparator .. => true
  | .dcThresholdCrossing .. => true
  | .chopVerify .. => true
  | .pitchRep .. => true
  | .chopFaultClear .. => true
  | .ov3TripClear .. => true
  | .stoInput .. => true
  | .stoDiscrep .. => true
  | .stoPathDisagree .. => true
  | .smonEvaluation .. => true
  | .smonRel .. => true
  | .watchdogService .. => true
  | .watchdogTimeout .. => true
  | .dischStart .. => true
  | .dischAbort .. => true
  | .dischT1 .. => true
  | .dischT2 .. => true
  | .dischSafe .. => true
  | .dischDoneClear .. => true
  | .cwyLanesUp .. => true
  | .cwyDown .. => true
  | .partnerSearchTimeout .. => true
  | .cwyTimeSend .. => true
  | .cwyStatusSend .. => true
  | .cwyEndFrame .. => true
  | .cwyTimeFrame .. => true
  | .cwyDigestFrame .. => true
  | .cwyOverrunFrame .. => true
  | .cwyLatchFrame .. => true
  | .cwyMirrorFrame .. => true
  | .cwyStatusFrame .. => true
  | .cwyMsgFrame .. => true
  | .cwyMsgAckFrame .. => true
  | .cwyJoinFrame .. => true
  | .cwySnapFrame .. => true
  | .digestTimeout .. => true
  | .msgRetry .. => true
  | .coastEnd .. => true
  | .clkTakeover .. => true
  | .mirroredWrite .. => true
  | .islRefresh .. => true
  | .islLoadLog .. => true
  | .islAcknowledge .. => true
  | .islTestMode .. => true
  | .islSnapshot .. => true
  | .islPresentTimeout .. => true
  | .straitPowerFall _ e r => wfStraitPowerFall e r
  | .straitPowerReturn .. => true
  | .meterWindow _ m => wfMeterWindow m
  | .meterQuantum _ e r => wfMeterQuantum e r
  | .meterPulse .. => true
  | .islClockCheck .. => true
  | .sealChange .. => true
  | .testModeExpiry .. => true
  | .calReadActive .. => true
  | .calWriteStaging .. => true
  | .calCommit .. => true
  | .calReadStaging .. => true
  | .intervalClose .. => true
  | .recArm .. => true
  | .recStop .. => true
  | .recFire .. => true
  | .fireAt .. => true
  | .trigBusEdge .. => true
  | .trigBusDriveEnd .. => true
  | .holdTEnd .. => true
  | .slotComplete .. => true
  | .slotFree .. => true
  | .recServiceWrite .. => true
  | .timeIncWrite .. => true
  | .timeSet .. => true
  | .timeStep .. => true
  | .timeNsRead .. => true
  | .pwmTbLoRead .. => true
  | .omegaAccHiRead .. => true
  | .pmuEvenRead .. => true
  | .ethFrameIngress _ _ bytes => wfEthFrameIngress bytes
  | .ethFrameEgress .. => true
  | .pdelayExchange .. => true
  | .macAgeOut .. => true
  | .ethTsPop .. => true
  | .ulileRequest .. => true
  | .ulileRead .. => true
  | .ulileWrite .. => true
  | .ulileMemoryRead .. => true
  | .ulileIdentify .. => true
  | .canTxReq .. => true
  | .canTxAbort .. => true
  | .canArbitration .. => true
  | .canTxSuccess .. => true
  | .canFrameError .. => true
  | .busOffRecoveryCount .. => true
  | .boRecover .. => true
  | .canRxFrame _ _ _ f => wfCanRxFrame f
  | .canRxPop .. => true
  | .canRxaRel .. => true
  | .tscCap .. => true
  | .sleepReq .. => true
  | .canSleepEntry .. => true
  | .canWake _ _ seen => wfCanWake seen
  | .lockstepMismatch .. => true
  | .cpRestart .. => true
  | .irqClaim .. => true
  | .irqComplete .. => true
  | .swiSet .. => true
  | .scrubPass .. => true
  | .iommuInvalidate .. => true
  | .iommuInvComplete .. => true
  | .iommuFaultPop .. => true
  | .ferryGo .. => true
  | .ferryAbort .. => true
  | .ferryResume .. => true
  | .ferryBurstStart .. => true
  | .ferryBurstComplete .. => true
  | .pmuOverflow .. => true
  | .pmuFreezeWrite .. => true
  | .jtagInstruction .. => true
  | .dbgLevelWrite .. => true
  | .debugHalt .. => true
  | .debugStep .. => true
  | .debugResume .. => true
  | .debugForce .. => true
  | .powerOnReset .. => true
  | .resetN .. => true
  | .softwareReset .. => true
  | .debugReset .. => true
  | .tapReset .. => true
  | .resetRelease _ x => wfResetRelease x
  | .flashRead .. => true
  | .flashProgram .. => true
  | .flashErase .. => true
  | .flashOpComplete .. => true
  | .otpAdvSecver .. => true
  | .otpRevoke .. => true
  | .wearEvaluation .. => true
  | .pdmOff .. => true
  | .pdmOn .. => true
  | .domainOffComplete .. => true
  | .domainOnComplete .. => true
  | .monitorLockstepFault .. => true
  | .tm6PeriodStall .. => true
  | .portSyncLoss .. => true
  | .driverGateSupplyReturn .. => true
  | .driverPowerUp .. => true
  | .vdrvUvEnd .. => true
  | .bstUvEnd .. => true
  | .ethLinkChange .. => true
  | .dramTrainingComplete .. => true

end Sys2Proof
end

