-- ==== Sys2Proof/Machine/AuxCmd.lean ====
section
/-! DEFINITION. Commands of the auxiliary drives. Each meaning is one command; what it does stands in the operations it calls. -/

namespace Sys2Proof.Machine

/-- `AUX_m_CTRL.START` is written 1 (R284). -/
def execAuxStart (t : Nat) (who : Initiator) (m : Fin 6) (s : State) : Host.Outcome State Fault Refusal :=
  s.run t (fun s => s.busWord who (R.auxCtrl m) 2#32)

/-- `AUX_m_CTRL.STOP` is written 1 (R284). -/
def execAuxStop (t : Nat) (who : Initiator) (m : Fin 6) (s : State) : Host.Outcome State Fault Refusal :=
  s.run t (fun s => s.busWord who (R.auxCtrl m) 4#32)

/-- `AUX_m_CTRL.CLEAR` is written 1 (R284). -/
def execAuxClear (t : Nat) (who : Initiator) (m : Fin 6) (s : State) : Host.Outcome State Fault Refusal :=
  s.run t (fun s => s.busWord who (R.auxCtrl m) 8#32)

/-- The auxiliary bus crosses threshold `k` (0 `CHOP_OFF`, 1 `CHOP_ON`, 2–4 `AUX_OV_1`–`AUX_OV_3`), upwards or down past its hysteresis
(R273). -/
def execAuxBusCrossing (t : Nat) (k : Fin 5) (up : Bool) (s : State) : Host.Outcome State Fault Refusal :=
  s.run t (fun s => s.inDomain 15 (fun s => s.auxBus k up))

/-- `CHOP_VERIFY` expires with `AUX_CHOP_IS` at this level (R275). -/
def execAuxChopVerify (t : Nat) (flows : Bool) (s : State) : Host.Outcome State Fault Refusal :=
  s.run t (fun s => s.inDomain 15 (fun s => s.auxChopVerify flows))

/-- Shunt window `k` (0 `ZERO_I`, 1 `I_LIM`, 2 `OC_LIM`) of half-bridge `h` asserts or ends, with the sign of the current (R278). -/
def execAuxCurrentWindow (t : Nat) (h : Fin 18) (k : Fin 3) (on sign : Bool) (s : State) : Host.Outcome State Fault Refusal :=
  s.run t (fun s => s.inDomain 15 (fun s => s.auxWindow h k on sign))

/-- The braking gap of motor `m` ends (R287). -/
def execBrkOffEnd (t : Nat) (m : Fin 6) (s : State) : Host.Outcome State Fault Refusal :=
  s.run t (fun s => s.inDomain 15 (fun s => s.brkOffEnd m))

/-- The comparator of half-bridge `h` shows `level` on `ZC_FILT` valid samples, the first at `first` (R280). -/
def execBemfCrossing (t : Nat) (h : Fin 18) (level : Bool) (first : Nat) (s : State) : Host.Outcome State Fault Refusal :=
  s.run t (fun s => s.inDomain 15 (fun s => s.bemfCrossing h level first))

/-- The blanking of motor `m` ends with its comparator at `level` (R281). -/
def execDemagBlankEnd (t : Nat) (m : Fin 6) (level : Bool) (s : State) : Host.Outcome State Fault Refusal :=
  s.run t (fun s => s.inDomain 15 (fun s => s.demagEnd m level))

/-- A due commutation of motor `m` takes effect (R279). -/
def execCommutation (t : Nat) (m : Fin 6) (s : State) : Host.Outcome State Fault Refusal :=
  s.run t (fun s => s.inDomain 15 (fun s => s.commutation m))

/-- No crossing of motor `m` by the end of the lost window (R283). -/
def execForcedCommutation (t : Nat) (m : Fin 6) (s : State) : Host.Outcome State Fault Refusal :=
  s.run t (fun s => s.inDomain 15 (fun s => s.forcedCommutation m))

/-- `OBS_TIME` of motor `m` elapses (R285). -/
def execObsTime (t : Nat) (m : Fin 6) (s : State) : Host.Outcome State Fault Refusal :=
  s.run t (fun s => s.inDomain 15 (fun s => s.obsTime m))

/-- `STOP_CONFIRM` of motor `m` passes without a crossing (R286). -/
def execStopConfirm (t : Nat) (m : Fin 6) (s : State) : Host.Outcome State Fault Refusal :=
  s.run t (fun s => s.inDomain 15 (fun s => s.stopConfirm m))

/-- `ALIGN_TIME` of motor `m` ends (R288). -/
def execAlignEnd (t : Nat) (m : Fin 6) (s : State) : Host.Outcome State Fault Refusal :=
  s.run t (fun s => s.inDomain 15 (fun s => s.alignEnd m))

/-- A blind-ramp sector of motor `m` ends (R288). -/
def execRampSectorEnd (t : Nat) (m : Fin 6) (s : State) : Host.Outcome State Fault Refusal :=
  s.run t (fun s => s.inDomain 15 (fun s => s.rampSectorEnd m))

/-- The bus has stayed below `AUX_OV_2` for `OV_REL` (R290). -/
def execOvRel (t : Nat) (s : State) : Host.Outcome State Fault Refusal :=
  s.run t (fun s => s.inDomain 15 (fun s => s.ovRel))

/-- VDRV falls below 8.5 V (R270). -/
def execVdrvUv (t : Nat) (s : State) : Host.Outcome State Fault Refusal :=
  s.run t (fun s => s.inDomain 15 (fun s => s.vdrvUv true))

/-- The charge pump has been below 8.0 V for 10 µs, or is back (R270). -/
def execCpUv (t : Nat) (low : Bool) (s : State) : Host.Outcome State Fault Refusal :=
  s.run t (fun s => s.inDomain 15 (fun s => s.cpUv low))

/-- The bootstrap of half-bridge `h` falls below 7.0 V (R270). -/
def execBstUv (t : Nat) (h : Fin 18) (s : State) : Host.Outcome State Fault Refusal :=
  s.run t (fun s => s.inDomain 15 (fun s => s.bstUv h true))

/-- VDRV rises back above its threshold (R270). -/
def execVdrvUvEnd (t : Nat) (s : State) : Host.Outcome State Fault Refusal :=
  s.run t (fun s => s.inDomain 15 (fun s => s.vdrvUv false))

/-- The bootstrap of half-bridge `h` rises back above 7.0 V (R270). -/
def execBstUvEnd (t : Nat) (h : Fin 18) (s : State) : Host.Outcome State Fault Refusal :=
  s.run t (fun s => s.inDomain 15 (fun s => s.bstUv h false))

end Sys2Proof.Machine
end

