-- ==== Sys2Proof/Machine/Uli.lean ====
section
/-! DEFINITION. The Ulile agent: identity, queue, points and commands (R380–R384, R446, R459). -/

namespace Sys2Proof.Machine

/-! ### Identity (R380, R381, R446) -/

/-- The settings the agent answers with. -/
structure UliIdent where
  udp : Bool
  can : Bool
  uart : Bool
  port : Nat
  mac : Nat
  ip : Nat
  ctl : Nat
  rq : Nat

/-- Whether the device uses the second identity (R381). -/
def State.uliSecond (s : State) : Bool := s.rdB R.uliTwin 31 && s.prio != s.rdF R.uliTwin 3 0

/-- The identity in use: in the Harbour state without an image, the one of the OTP where it is programmed (R446). -/
def State.uliIdent (s : State) : UliIdent :=
  match (if s.rdB R.bootStatus 28 then s.boot.otp.ident else none) with
  | some h => ⟨true, true, s.rdB R.uliCfg 29, s.rdF R.uliCfg 15 0, h.mac, h.ip, h.can, h.rq⟩
  | none =>
    let b := s.uliSecond
    let mac := s.rdF (if b then R.uliMacBHi else R.uliMacHi) 15 0 * 2 ^ 32 + s.rdN (if b then R.uliMacBLo else R.uliMacLo)
    let ip := s.rdN (if b then R.uliIpB else R.uliIp)
    let rq := s.rdF (if b then R.uliCanBRq else R.uliCanRq) 29 0
    ⟨s.rdB R.uliCfg 31, s.rdB R.uliCfg 30, s.rdB R.uliCfg 29, s.rdF R.uliCfg 15 0, mac, ip, s.rdF R.uliCfg 25 24, rq⟩

/-- Whether a request is for this agent. -/
def State.uliMine (s : State) (v : UliVia) : Bool :=
  let d := s.uliIdent
  match v with
  | .udp mac ip port _ _ => d.udp && mac.toNat == d.mac && ip.toNat == d.ip && port.toNat == d.port
  | .can k id => d.can && k.val == d.ctl && id.toNat == d.rq
  | .uart => d.uart

/-! ### Messages (Table 18.3) -/

/-- Rank of a transport among requests of one cycle, and the items it allows (R382). -/
def UliVia.rank : UliVia → Nat
  | .udp .. => 0
  | .can .. => 1
  | .uart => 2
def UliVia.items : UliVia → Nat
  | .udp .. => 64
  | .can .. => 2
  | .uart => 16

/-- The number in `n` bytes of a message at offset `o`. -/
def msgAt (m : List Byte) (o n : Nat) : Nat := natLE ((m.drop o).take n)

def msgCmd (m : List Byte) : Nat := msgAt m 1 1
def msgN (m : List Byte) : Nat := msgAt m 4 2

/-- Most items of a command over a transport. -/
def msgLimit (v : UliVia) (cmd : Nat) : Nat := if cmd = 3 then 1 else if cmd = 4 then 0 else v.items

/-- Bytes of a request item. -/
def itemBytes (cmd : Nat) : Nat := if cmd = 2 ∨ cmd = 3 then 8 else if cmd = 4 then 0 else 4

/-- Whether bytes are a request: version 1, a command of the table, and its items where their number is allowed (log 69). -/
def msgOk (v : UliVia) (m : List Byte) : Bool :=
  decide (8 ≤ m.length) && msgAt m 0 1 == 1 && decide (1 ≤ msgCmd m ∧ msgCmd m ≤ 4) &&
    (decide (msgLimit v (msgCmd m) < msgN m) || decide (8 + itemBytes (msgCmd m) * msgN m ≤ m.length))

/-- The first message with a good CRC in bytes from the UART; after a bad one the receiver looks for the next 0x7E (R380). -/
def uartMessage : List Byte → Option (List Byte)
  | [] => none
  | b :: bs =>
    let n := natLE (bs.take 2)
    let body := bs.take (2 + n)
    if b = 0x7E#8 ∧ 4 + n ≤ bs.length ∧ natBE ((bs.drop (2 + n)).take 2) = crc16 body then some (body.drop 2) else uartMessage bs

/-- A message as the UART sends it. -/
def uartFrame (m : List Byte) : List Byte :=
  let body := bytesLE 2 m.length ++ m
  0x7E#8 :: body ++ bytesBE 2 (crc16 body)

/-- A request takes its place: behind those before it, and in one cycle in the order UDP, CAN, UART. -/
def uliInsert (r : UliReq) : List UliReq → List UliReq
  | [] => [r]
  | q :: qs => if q.cyc = r.cyc ∧ r.via.rank < q.via.rank then r :: q :: qs else q :: uliInsert r qs

/-- A request is queued, or a full queue drops the last (R382). -/
def State.uliQueue (s : State) (v : UliVia) (m : List Byte) : State :=
  let r : UliReq := ⟨v, s.clk.now / fabCycle, m⟩
  let u := s.uli
  let q := if u.item = 0 then uliInsert r u.queue else u.queue.take 1 ++ uliInsert r (u.queue.drop 1)
  let s := { s with uli := { u with queue := q.take 8 } }
  if 8 < q.length then s.countUp R.uliCount 15 0 1 else s

/-- `ULILE_REQUEST`: bytes arrive over a transport; over the UART they are framed (R380, R382). A device in reset hears nothing. -/
def State.uliRequest (s : State) (v : UliVia) (bs : List Byte) : State :=
  let m := match v with
    | .uart => uartMessage bs
    | _ => some bs
  match m with
  | none => s
  | some m => if s.sysSt ≠ 0 ∧ s.uliMine v ∧ msgOk v m then s.uliQueue v m else s

/-! ### Reply items (Table 18.5) -/

/-- A reply item: point, status, value, quality, and a network time of seconds and nanoseconds. -/
def uliItem (point status : Nat) (v : Word) (q sec ns : Nat) : List Byte :=
  bytesLE 3 point ++ bytesLE 1 status ++ bytesLE 4 v.toNat ++ bytesLE 2 q ++ bytesLE 6 sec ++ bytesLE 4 ns

/-- A reply item of which the spec states only point and status: the rest are free values (log 69). -/
def State.uliOpen (s : State) (point status : Nat) : State × List Byte :=
  let v := s.freshWord
  let s := s.tookFree
  let w := s.freshWord
  let s := s.tookFree
  let x := s.freshWord
  let s := s.tookFree
  (s.tookFree, uliItem point status v (fieldOf w 15 0) (fieldOf w 31 16 * 2 ^ 32 + x.toNat) (fieldOf s.freshWord 29 0))

/-- A reply item stamped with a network time. -/
def uliStamped (point : Nat) (v : Word) (q t : Nat) : List Byte := uliItem point 0 v q (ntSec t) (ntNs t)

/-- The blocks of the slots (R383), in ascending base order. -/
def uliSlots : List Nat :=
  [0x400, 0x401, 0x402, 0x403, 0x410, 0x414, 0x420, 0x424, 0x428, 0x42C, 0x430, 0x434, 0x438, 0x440, 0x444, 0x448, 0x44C, 0x450, 0x454,
    0x458, 0x45C, 0x460, 0x464, 0x468, 0x46C, 0x470, 0x474]

/-- The register address of a point of the register class. -/
def pointReg (p : Nat) : Option Nat :=
  if p < 0x800000 ∧ p / 2 ^ 18 < 27 then some (nth 0 uliSlots (p / 2 ^ 18) * 0x100000 + p % 2 ^ 18 * 4) else none

/-- A register point is read (R384): on a bus error its value is free (log 69). -/
def State.uliReadReg (s : State) (p a : Nat) : State × List Byte :=
  let t := s.netTime s.clk.now
  if !s.regAnswers a .b4 then
    (s.tookFree, uliItem p 1 s.freshWord (2 ^ qInvalid + 2 ^ qSource) (ntSec t) (ntNs t))
  else
    let r := if s.absent a then (s, 0#32) else s.regRead .ulile a
    (r.1, uliStamped p r.2 0 t)

/-- A signal point: the stable value, stamped with the sample instant that made it stable, or in the common domain with its write. -/
def State.uliReadSig (s : State) (p i : Nat) : List Byte :=
  let x := s.sigStable i
  let d := s.sigDomain i
  if d < 4 then
    let ns := (s.seq d).swapNs
    uliItem p 0 x.val x.qual.toNat (ns / 1000000000) (ns % 1000000000)
  else uliStamped p x.val x.qual.toNat (tabGet (fun _ => 0) s.sig.times i)

/-- A recorder point: an item of the record last closed (Table 17.2); before the first one its content is free (log 69). -/
def State.uliReadRec (s : State) (p c item : Nat) : State × List Byte :=
  let r := tabGet (fun _ => []) s.rec_.lasts c
  if r.isEmpty then s.uliOpen p 0
  else
    let v := match item with
      | 0 => msgAt r 10 4
      | 1 => msgAt r 0 4
      | 2 => msgAt r 4 4
      | _ => msgAt r 16 2
    (s, uliItem p 0 (wordN v) (msgAt r 14 2) (msgAt r 24 4) (msgAt r 20 4))

/-- A point of any class is read (R383, R459). -/
def State.uliReadPoint (s : State) (p : Nat) : State × List Byte :=
  match pointReg p with
  | some a => s.uliReadReg p a
  | none =>
    if 0x800000 ≤ p ∧ p < 0x801000 then (s, s.uliReadSig p (p - 0x800000))
    else if 0x810000 ≤ p ∧ p < 0x810400 then s.uliReadRec p ((p - 0x810000) / 4) (p % 4)
    else if 0x820000 ≤ p ∧ p < 0x820008 then
      let m := p - 0x820000
      let q := if s.rdB R.wearStatus (8 + m) then 2 ^ qSat else 0
      (s, uliStamped p (s.rd (R.wearMonVal m)) q (tabGet (fun _ => 0) s.wear.times m))
    else if 0x820100 ≤ p ∧ p < 0x820110 then
      let r := s.regRead .ulile (0x47000000 + 4 * (p - 0x820100))
      (r.1, uliStamped p r.2 0 (s.netTime s.clk.now))
    else s.uliOpen p 2

/-- Whether a point lies in a class of Table 18.4 other than registers. -/
def pointOther (p : Nat) : Bool := decide ((0x800000 ≤ p ∧ p < 0x801000) ∨ (0x810000 ≤ p ∧ p < 0x810400) ∨ (0x820000 ≤ p ∧ p < 0x830000))

/-- A point is written: the state and the status (R384). -/
def State.uliWritePoint (s : State) (p : Nat) (w : Word) : State × Nat :=
  if s.rdF R.sysState 2 0 = 4 then (s, 4)
  else if !s.rdB R.uliCfg 28 then (s, 3)
  else
    match pointReg p with
    | none => (s, if pointOther p then 3 else 2)
    | some a =>
      if !s.regAnswers a .b4 then (s, 1)
      else if s.absent a then (s, 0)
      else
        match s.mirrorJudge a w with
        | .local_ => (s.regWrite (some .ulile) a w, 0)
        | .hold x => (x, 0)
        | .refused x => (x, 3)

/-- Whether `n` bytes from `a` lie in a window of `ULI_MEM` (R384). -/
def State.uliWindow (s : State) (a n : Nat) : Bool :=
  (List.range 4).any (fun k =>
    let base := s.rdF (R.uliMemBase k) 31 12 * 4096 + s.rdF (R.uliMemBase k) 2 0 * 2 ^ 32
    let size := s.rdF (R.uliMemSize k) 31 12 * 4096
    decide (base ≤ a ∧ a + n ≤ base + size))

/-- A memory read: the item and, where it is done, the data; a length outside 1–1,024 lies in no window (R384, log 69). -/
def State.uliReadMem (s : State) (a n : Nat) : State × List Byte :=
  if n = 0 ∨ 1024 < n ∨ !s.uliWindow a n then s.uliOpen (a % 2 ^ 24) 2
  else
    let r := s.memRead a n
    match r.2 with
    | none => r.1.uliOpen (a % 2 ^ 24) 1
    | some bs =>
      let x := r.1.uliOpen (a % 2 ^ 24) 0
      (x.1, x.2 ++ bs)

/-- The points of an identify reply: `SYS_ID`, `SYS_STATE` and `STL_CLAIM` (R382). -/
def identPoints : List Nat := [(R.sysId - 0x40000000) / 4, (R.sysState - 0x40000000) / 4, 11 * 2 ^ 18 + (R.stlClaim - 0x43400000) / 4]

/-! ### Service (R382) -/

/-- Item `i` of request `m` is served: the state and the bytes of its reply. -/
def State.uliServeItem (s : State) (m : List Byte) (i : Nat) : State × List Byte :=
  match msgCmd m with
  | 1 => s.uliReadPoint (msgAt m (8 + 4 * i) 3)
  | 2 =>
    let r := s.uliWritePoint (msgAt m (8 + 8 * i) 3) (wordN (msgAt m (12 + 8 * i) 4))
    r.1.uliOpen (msgAt m (8 + 8 * i) 3) r.2
  | 3 => s.uliReadMem (msgAt m 8 5) (msgAt m 13 2)
  | _ => s.uliReadPoint (nth 0 identPoints i)

/-- Items that a request is served, and their number in the header of the reply. -/
def uliCount (v : UliVia) (m : List Byte) : Nat :=
  if msgLimit v (msgCmd m) < msgN m then 0 else if msgCmd m = 4 then 3 else msgN m

/-- The reply goes out, and the next request comes to the head. -/
def State.uliReply (s : State) (r : UliReq) (out : List Byte) : State :=
  let m := r.msg
  let head := bytesLE 1 1 ++ bytesLE 1 (msgCmd m + 0x80) ++ (m.drop 2).take 2 ++ bytesLE 2 (uliCount r.via m) ++ bytesLE 2 0
  let bytes := match r.via with
    | .uart => uartFrame (head ++ out)
    | _ => head ++ out
  let s := { s with uli := ⟨s.uli.queue.drop 1, 0, [], some (r.via, bytes)⟩ }
  s.countUp R.uliCount 31 16 1

/-- The next item of the request at the head, where its command is `cmd`; the last one sends the reply. -/
def State.uliServe (s : State) (cmd : Nat) : State :=
  match s.uli.queue.head? with
  | none => s
  | some r =>
    if msgCmd r.msg ≠ cmd then s
    else if uliCount r.via r.msg = 0 then s.uliReply r []
    else
      let x := s.uliServeItem r.msg s.uli.item
      let i := s.uli.item + 1
      let out := s.uli.out ++ x.2
      let s := x.1
      if uliCount r.via r.msg ≤ i then s.uliReply r out else { s with uli := { s.uli with item := i, out := out } }

/-! ### Reception over CAN (R394) -/

/-- A frame with a stamp is received by controller `k`, by the agent first. Without an image the controller of the OTP identity receives for
the agent alone (R446). -/
def State.canDeliver (s : State) (k stamp : Nat) (f : CanFrame) : State :=
  let via : UliVia := .can (Fin.ofNat 4 k) (BitVec.ofNat 30 (b2n f.ide * 2 ^ 29 + f.ident))
  let mine := s.uliMine via
  if s.canReceives k f then
    if mine then (s.uliRequest via f.data).canRxCount k else (s.canStore k stamp f).canRxCount k
  else if mine && s.rdB R.bootStatus 28 then s.uliRequest via f.data
  else s

/-- `CAN_RX_FRAME`: a frame with start of frame at `sof` comes from the bus; in internal loopback none does (R385). -/
def State.canReceive (s : State) (k sof : Nat) (f : CanFrame) : State :=
  if s.canMode k = 2 then s else s.canDeliver k (s.canStampAt k sof) f

/-- `CAN_TX_SUCCESS`: in internal loopback the controller receives its own frame (R385, R394). -/
def State.canSent (s : State) (k tdc : Nat) : State :=
  match (s.can k).bus with
  | some b =>
    let x := s.canSuccess k tdc
    if s.canMode k = 2 then x.canDeliver k (s.can k).sof (x.canBufFrame k b) else x
  | none => s

end Sys2Proof.Machine
end

