-- ==== Sys2Proof/Machine/CanCmd.lean ====
section
/-! DEFINITION. Commands of the CAN controllers. Each meaning is one command; what it does stands in the operations it calls. -/

namespace Sys2Proof.Machine

/-- `CAN_k_TX_REQ` is written (R389). -/
def execCanTxReq (t : Nat) (who : Initiator) (k : Fin 4) (b : BitVec 3) (s : State) : Host.Outcome State Fault Refusal :=
  s.run t (fun s => s.busWord who (R.canTxreq k) (b.setWidth 32))

/-- `CAN_k_TX_ABORT` is written (R392). -/
def execCanTxAbort (t : Nat) (who : Initiator) (k : Fin 4) (b : BitVec 3) (s : State) : Host.Outcome State Fault Refusal :=
  s.run t (fun s => s.busWord who (R.canTxAbort k) (b.setWidth 32))

/-- Controller `k` has an arbitration opportunity, which it wins or loses (R390). -/
def execCanArbitration (t : Nat) (k : Fin 4) (lost : Bool) (s : State) : Host.Outcome State Fault Refusal :=
  s.run t (fun s => s.inDomain 14 (fun s => s.canArbitrate k lost))

/-- The frame that controller `k` transmits becomes valid, with the delay measured in CAN clocks (R393). -/
def execCanTxSuccess (t : Nat) (k : Fin 4) (tdc : Nat) (s : State) : Host.Outcome State Fault Refusal :=
  s.run t (fun s => s.inDomain 14 (fun s => s.canSent k tdc))

/-- An error during a frame of controller `k` (R391). -/
def execCanFrameError (t : Nat) (k : Fin 4) (e : CanErr) (s : State) : Host.Outcome State Fault Refusal :=
  s.run t (fun s => s.inDomain 14 (fun s => s.canError k e))

/-- 128 sequences of 11 recessive bits have been seen in bus-off (R403). -/
def execBusOffRecoveryCount (t : Nat) (k : Fin 4) (s : State) : Host.Outcome State Fault Refusal :=
  s.run t (fun s => s.inDomain 14 (fun s => s.canBoCount k))

/-- `BO_RECOVER` of controller `k` is written 1 (R403). -/
def execBoRecover (t : Nat) (who : Initiator) (k : Fin 4) (s : State) : Host.Outcome State Fault Refusal :=
  s.run t (fun s => s.busWord who (R.canCtrl k) 8#32)

/-- A valid frame with start of frame at `sof` is received (R394). -/
def execCanRxFrame (t : Nat) (k : Fin 4) (sof : Nat) (f : CanFrame) (s : State) : Host.Outcome State Fault Refusal :=
  s.run t (fun s => s.inDomain 14 (fun s => s.canReceive k sof f))

/-- `RX_POP` of controller `k` is written 1 (R396). -/
def execCanRxPop (t : Nat) (who : Initiator) (k : Fin 4) (s : State) : Host.Outcome State Fault Refusal :=
  s.run t (fun s => s.busWord who (R.canCtrl k) 64#32)

/-- `CAN_k_RXA_REL` is written (R395). -/
def execCanRxaRel (t : Nat) (who : Initiator) (k : Fin 4) (b : BitVec 8) (s : State) : Host.Outcome State Fault Refusal :=
  s.run t (fun s => s.busWord who (R.canRxaRel k) (b.setWidth 32))

/-- `TSC_CAP` of controller `k` is written 1 (R398). -/
def execTscCap (t : Nat) (who : Initiator) (k : Fin 4) (s : State) : Host.Outcome State Fault Refusal :=
  s.run t (fun s => s.busWord who (R.canCtrl k) 32#32)

/-- `SLEEP_REQ` of controller `k` is written 1 (R399). -/
def execSleepReq (t : Nat) (who : Initiator) (k : Fin 4) (s : State) : Host.Outcome State Fault Refusal :=
  s.run t (fun s => s.busWord who (R.canCtrl k) 16#32)

/-- 11 recessive bits have passed on the way into sleep (R399). -/
def execCanSleepEntry (t : Nat) (k : Fin 4) (s : State) : Host.Outcome State Fault Refusal :=
  s.run t (fun s => s.inDomain 14 (fun s => s.canSleepEntry k))

/-- The wake matcher of controller `k` sees a pattern, a frame or an erroneous frame (R401). -/
def execCanWake (t : Nat) (k : Fin 4) (seen : WakeSeen) (s : State) : Host.Outcome State Fault Refusal :=
  s.run t (fun s => s.canWake k seen)

end Sys2Proof.Machine
end

