-- ==== Sys2Proof/Machine/Sample.lean ====
section
/-! DEFINITION. The sample instant of a thread: the ending period is judged, its results are released or discarded, and the next one starts
(R20–R23, R33, R37–R40, R43, R44, R327). -/

namespace Sys2Proof.Machine

/-! ### State to which a late period returns (R39, R95, R119, R122, R176) -/

/-- The registers with fields that the periods of thread `n` keep. -/
def State.keepAddrs (s : State) (n : Nat) : List Nat :=
  [2 * n, 2 * n + 1].flatMap (fun u => [R.vecCtrl u, R.vecStatus u, R.vecFlySpeed u, R.vecAngDiff u]) ++
    [R.gfeCtrl n, R.gfeBsCtrl n] ++ gfeKeptAddrs n ++
    ((List.range 128).filter (fun p => s.pairEn p && s.pairThread p == n)).flatMap (fun p => [R.seqPairStatus p, R.seqPairDiff p])

/-- The sources that evaluations of thread `n` raise: angle lost, angle plausibility, and those of the grid-forming engine. -/
def keepSources (n : Nat) : List Nat := [448 + n, 452 + n, 456 + n, 460 + n, 464 + n]

/-- The sources of thread `n` stand as its units' restored states have them; "plausibility" by the pairs, of which those of the common domain
are evaluated in no period. -/
def State.sourcesBack (s : State) (n : Nat) : State :=
  let k := s.kept n
  let s := s.each (keepSources n) (fun s x => s.srcBack x (tabGet (fun _ => 0) k.srcs x))
  s.srcBack (444 + n) (if s.pairsBad n then max 1 (tabGet (fun _ => 0) k.srcs (444 + n)) else 0)

/-- The present state of the units of thread `n` becomes that of the last on-time period. -/
def State.keepTake (s : State) (n : Nat) : State :=
  let pairs := (List.range 128).filter (fun p => s.pairEn p && s.pairThread p == n)
  s.setKept n
    { vecs := [2 * n, 2 * n + 1].foldl (fun t u => tabSet (fun _ => VecSt.init) t u (s.vec u)) []
      pairs := pairs.foldl (fun t p => tabSet (fun _ => PairSt.init) t p (s.pair p)) []
      gfe := s.gfe n
      tx := if s.sndThread = n then s.snd.tx else SndTx.init
      regs := (s.keepAddrs n ++ (if s.sndThread = n then [R.sndStatus, R.sndCount1, R.sndCount2] else [])).foldl (fun t a => tabSet regReset t a (s.rd a)) []
      srcs := ((444 + n) :: keepSources n).foldl (fun t x => tabSet (fun _ => 0) t x (s.srcKept x)) [] }

/-- The Sound modem returns to the state of the last on-time period: its transmitter, with `TX_BUSY`, `CLAIM_TX` and `TX_ACTIVE`, and what its
evaluations count (R194). -/
def State.sndBack (s : State) (k : KeepSt) : State :=
  let live := k.tx.frame.any (·.live)
  let s := ((s.setTx k.tx).wrB R.sndStatus 6 live).wrB R.sndStatus 7 (live && !k.tx.frame.any (·.sw))
  let was (a : Nat) : Word := tabGet regReset k.regs a
  let s := (s.wrB R.sndStatus 8 k.tx.sw.isSome).wrB R.sndStatus 10 (bitOf (was R.sndStatus) 10)
  (s.wrF R.sndCount1 15 8 (fieldOf (was R.sndCount1) 15 8)).wrF R.sndCount2 15 8 (fieldOf (was R.sndCount2) 15 8)

/-- The units of thread `n` return to the state of the last on-time period with their registers and sources, and each unit counts the late
period; what a command or a reaction changed in between was changed in that state too. -/
def State.keepBack (s : State) (n : Nat) : State :=
  let k := s.kept n
  let vecs := [2 * n, 2 * n + 1].foldl (fun t u =>
    let v := tabGet (fun _ => VecSt.init) k.vecs u
    tabSet (fun _ => VecSt.init) t u { v with late := v.late + 1 }) k.vecs
  let g := { k.gfe with late := k.gfe.late + 1, seqWait := s.rdF (R.gfeFrtCfg n) 21 16 }
  let s := s.setKept n { k with vecs := vecs, gfe := g }
  let s := s.each [2 * n, 2 * n + 1] (fun s u =>
    s.setVec u { tabGet (fun _ => VecSt.init) vecs u with startAt := (s.vec u).startAt })
  let s := s.setGfe n g
  let s := s.each ((List.range 128).filter (fun p => s.pairEn p && s.pairThread p == n)) (fun s p =>
    s.setPair p (tabGet (fun _ => PairSt.init) k.pairs p))
  let s := s.each (s.keepAddrs n) (fun s a => s.wr a (tabGet regReset k.regs a))
  let s := s.sourcesBack n
  if s.sndThread = n then s.sndBack k else s

/-! ### The signal table at a sample instant (R21, R39, R44) -/

/-- The signals of the domain of thread `n`. -/
def State.domainSigs (s : State) (n : Nat) : List Nat :=
  ((tabKeys s.sig.decl).filter (fun i => decide (i < 4064) && s.sigDomain i == n)) ++ (List.range 8).map (fun k => 4064 + 8 * n + k)

/-- The fill copy of thread `n` is empty. -/
def State.fillClear (s : State) (n : Nat) : State :=
  { s with sig := { s.sig with fill := s.sig.fill.filter (fun kv => s.sigDomain kv.1 != n) } }

/-- The swap: what was written becomes stable; the rest is carried with `STALE` and one more `AGE` (R21). Pairs of the common domain with a
signal that was written are evaluated (R94). -/
def State.fillSwap (s : State) (n : Nat) : State :=
  let written := (s.domainSigs n).filter (fun i => (s.sigFill i).isSome)
  let s := (s.each (s.domainSigs n) (fun s i =>
    match s.sigFill i with
    | some v => s.setStable i v
    | none =>
      let v := s.sigStable i
      s.setStable i ⟨v.val, qWithAge (qWith v.qual qStale true) (qAge v.qual + 1)⟩)).fillClear n
  s.each written State.commonSwap

/-- The swap is suppressed: every signal of the thread takes `OVERRUN` and one more `AGE` (R39). -/
def State.fillDrop (s : State) (n : Nat) : State :=
  (s.each (s.domainSigs n) (fun s i =>
    let v := s.sigStable i
    s.setStable i ⟨v.val, qWithAge (qWith v.qual qOverrun true) (qAge v.qual + 1)⟩)).fillClear n

/-- The device signals of Table 2.11. -/
def State.deviceSignals (s : State) (n : Nat) : State :=
  let q := s.seq n
  let put (s : State) (k : Nat) (w : Word) : State := s.sigStore (4064 + 8 * n + k) w 0#16
  let cap := q.capture.getD (0, 0)
  let s := put s 0 (wordOf (cap.1 / 32))
  let s := put s 1 (wordN (cap.2 % 1000000000))
  let s := put s 2 (wordN (cap.2 / 1000000000))
  let s := put s 3 (wordN q.periods)
  let s := put s 4 (s.rd (R.seqOvrCount n))
  let s := put s 5 (wordN (q.slack / 32))
  let s := put s 6 (wordN (q.callWait / 32))
  put s 7 0#32

/-! ### The judgement (R23, R37–R40) -/

/-- Whether the ending period of thread `n` is on time: `END` reached at least one fabric cycle ago, and the rule of a twin (R38, R328). -/
def State.onTime (s : State) (n : Nat) : Bool :=
  match (s.seq n).endAt with
  | some e => decide (e / fabCycle < s.clk.now / fabCycle) && s.twinOnTime n e
  | none => false

/-- An on-time period: its results are released. -/
def State.periodOk (s : State) (n : Nat) : State :=
  let q := s.seq n
  let s := ((s.releaseSets n).fillSwap n).cePublish n
  let s := s.setSeq n { q with slack := s.clk.now - q.endAt.getD 0, ovrActive := false
                               stableAt := (q.capture.getD (0, ntTotalNs (s.netTime s.clk.now))).2 }
  let s := s.wrF (R.seqConsec n) 7 0 0
  if q.ovrActive then s.srcLevel (440 + n) false false else s

/-- A late period: its results are discarded, and it is counted. Event code 1. -/
def State.periodLate (s : State) (n : Nat) : State :=
  let q := s.seq n
  let s := s.setSeq n { q with callWait := if q.callPair.isSome then s.clk.now - q.callFrom else q.callWait }
  let s := ((s.ceAbort n).ceRollback n).dropSets n
  let s := ((s.fillDrop n).keepBack n).twinOverrun n
  let s := ((s.raise (R.seqStatus n) 1).countUp (R.seqOvrCount n) 31 0 1).countUp (R.seqConsec n) 7 0 1
  let s := (s.post (4 + n) 1).pmuCause 0
  if s.rdF (R.seqCfg n) 7 0 ≤ s.rdF (R.seqConsec n) 7 0 ∧ !q.ovrActive then
    let s := s.setSeq n { s.seq n with ovrActive := true }
    ((s.raise (R.seqStatus n) 4).srcLevel (440 + n) true false).recFireNow (0x060 + 4 * n)
  else s

/-! ### Mirrored writes (R327) -/

/-- A mirrored write acts at the sample instant itself, in place of the instant that its chapter gives: what it asked for is taken as asked
long enough ago. -/
def State.mirrorApply (s : State) (n : Nat) (m : Mirror) : State :=
  let s := s.regWrite none m.addr m.data
  let now := s.clk.now
  let back (x : Option Nat) (d : Nat) : Option Nat := if x = some now then some (now - d) else x
  let s := s.setSeq n { s.seq n with startAt := back (s.seq n).startAt (s.seqP n) }
  let s := s.setVec (2 * n) { s.vec (2 * n) with startAt := back (s.vec (2 * n)).startAt 256 }
  let s := s.gfeBoth n (fun g => { g with startAt := back g.startAt 256, bsStartAt := back g.bsStartAt 256 })
  let was (t : Tab Nat) : Tab Nat := if tabGet (fun _ => 0) t n = now then tabSet (fun _ => 0) t n (now - 256) else t
  { s with gpar := { s.gpar with applyAt := was s.gpar.applyAt }, ce := { s.ce with swapAt := was s.ce.swapAt } }

/-- The mirrored writes whose sample instant this is. -/
def State.mirrorsTake (s : State) (n : Nat) : State :=
  let q := s.seq n
  let r := s.mirrorsDue n ((if q.everRun then q.periods + 1 else 0) % 2 ^ 32) (s.seqRuns n)
  let s := s.setThr n { s.thr n with mirrors := r.2 }
  r.1.foldl (fun s m => s.mirrorApply n m) s

/-! ### The next period (R20, R33, R44) -/

/-- A period starts: step 0, `LATCH`, is under way, and completes 20 ns on, as does each further `LATCH` after it (R35). -/
def State.periodStart (s : State) (n : Nat) (first : Bool) : State :=
  let q := s.seq n
  let j := s.latchRun n 1
  let s := s.setSeq n { q with
    startAt := none, sampleAt := s.clk.now, doneAt := s.clk.now + (1 + j) * twentyNs, callPair := none, callDue := none, toPair := none
    waitDue := none, waitGrp := false, endAt := none, periods := (if q.everRun then q.periods + 1 else 0) % 2 ^ 32, everRun := true
    commitPend := false, emitPend := false, posted := false, first := first }
  let s := (s.wrF (R.seqStatus n) 13 8 (1 + j)).deviceSignals n
  if first then (((s.wrB (R.seqStatus n) 0 true).wrB R.sysState (12 + n) true).ceStart n).gfeSeqStart n else s

/-- The sequencer stops. -/
def State.periodStop (s : State) (n : Nat) : State :=
  let s := s.setSeq n { s.seq n with
    stopPend := false, endAt := none, callPair := none, callDue := none, toPair := none, waitDue := none, waitGrp := false }
  ((s.wrB (R.seqStatus n) 0 false).wrF (R.seqStatus n) 13 8 0).wrB R.sysState (12 + n) false

/-- What every sample instant of the thread does, whether periods run or not: prepared schedules, converters, position interfaces, swaps of
parameters, accepted starts and the twin's rules. -/
def State.sampleAll (s : State) (n : Nat) : State :=
  let s := s.prepareOwned n (s.clk.now + s.seqAdv n)
  let s := s.sarFire (4 + n)
  let s := s.each [0, 1, 2, 3] (fun s k => if s.posUser n k then s.posLatch n k else s)
  let s := ((s.ceSwap n).vecStartTake (2 * n)).gfeSample n
  (s.twinLatch n).yieldEval n

/-- Whether the present instant is a sample instant of thread `n`: `ADVANCE` before a reload of its carrier (R214). -/
def State.isSample (s : State) (n : Nat) : Bool := s.sampleFrom n s.tb == some s.tb

/-- `SAMPLE_INSTANT` of thread `n`. At a sample instant at which no period runs, what was written since the last one becomes stable, and the
rest is carried with `STALE` and one more `AGE`, as at the end of any period (R21; DEDUCED from R43, where every sample instant's swap counts:
log 75). -/
def State.sampleInstant (s : State) (n : Nat) : State :=
  if !s.isSample n || s.clk.faulted then s
  else
    let s := s.mirrorsTake n
    let runs := s.seqRuns n
    let ok := s.onTime n
    let s := if runs then s.snapJudge n ok else s
    let s := if !runs then s.fillSwap n else if ok then s.periodOk n else s.periodLate n
    let q := s.seq n
    let ns := ntTotalNs (s.netTime s.clk.now)
    let s := s.setSeq n { q with
      samples := q.samples + 1, capture := some (s.tb, ns), capInc := s.netInc s.clk.now, swapNs := if !runs || ok then ns else q.swapNs }
    let s := s.sampleAll n
    let due : Bool := match q.startAt with
      | some x => decide (x + s.seqP n ≤ s.clk.now)
      | none => false
    let s := if runs && (s.seq n).stopPend then s.periodStop n
      else if runs then s.periodStart n false
      else if due then s.periodStart n true
      else s
    let s := if !runs || ok then s.keepTake n else s
    s.recThread n (s.seq n).stableAt

end Sys2Proof.Machine
end

