-- ==== Sys2Proof/Machine/ControlCmd.lean ====
section
/-! DEFINITION. Commands of the control engine, the vector units, the grid-forming engines and Sound. Each meaning is one command; what it does stands in the operations it calls. -/

namespace Sys2Proof.Machine

/-- `CE_BANK_CTRL.SWAP_n` is written 1 (R118). -/
def execBankSwapRequest (t : Nat) (who : Initiator) (n : Fin 4) (s : State) : Host.Outcome State Fault Refusal :=
  s.run t (fun s => s.busWord who R.ceBankCtrl (wordN (2 ^ n.val)))

/-- `START` of vector unit `u` is written 1 (R139). -/
def execVecStart (t : Nat) (who : Initiator) (u : Fin 8) (s : State) : Host.Outcome State Fault Refusal :=
  s.run t (fun s => s.busWord who (R.vecCtrl u) 1#32)

/-- `STOP` of vector unit `u` is written 1 (R139). -/
def execVecStop (t : Nat) (who : Initiator) (u : Fin 8) (s : State) : Host.Outcome State Fault Refusal :=
  s.run t (fun s => s.busWord who (R.vecCtrl u) 2#32)

/-- `ASC_REQ` of vector unit `u` is written 1 (R147). -/
def execAscReq (t : Nat) (who : Initiator) (u : Fin 8) (s : State) : Host.Outcome State Fault Refusal :=
  s.run t (fun s => s.busWord who (R.vecCtrl u) 8#32)

/-- `ASC_EXIT` of vector unit `u` is written 1 (R148). -/
def execAscExit (t : Nat) (who : Initiator) (u : Fin 8) (s : State) : Host.Outcome State Fault Refusal :=
  s.run t (fun s => s.busWord who (R.vecCtrl u) 16#32)

/-- The filtered levels of position interface `k` become `a` and `b` (R131). -/
def execEncoderEdge (t : Nat) (k : Fin 4) (a b : Bool) (s : State) : Host.Outcome State Fault Refusal :=
  s.run t (fun s => s.encEdge k a b)

/-- A Z edge of position interface `k` (R131). -/
def execEncoderZEdge (t : Nat) (k : Fin 4) (s : State) : Host.Outcome State Fault Refusal :=
  s.run t (fun s => s.encZ k)

/-- A position frame is clocked in, with the faults seen (R132). -/
def execSsiFrame (t : Nat) (k : Fin 4) (raw : Nat) (lowBefore noReturn errBit : Bool) (s : State) : Host.Outcome State Fault Refusal :=
  s.run t (fun s => s.ssiFrame k raw lowBefore noReturn errBit)

/-- No edge of position interface `k` for `SPD_TIMEOUT` (R131). -/
def execSpdTimeout (t : Nat) (k : Fin 4) (s : State) : Host.Outcome State Fault Refusal :=
  s.run t (fun s => s.spdTimeout k)

/-- `GFE_n_CTRL.START` is written 1 (R163). -/
def execGfeStart (t : Nat) (who : Initiator) (n : Fin 4) (s : State) : Host.Outcome State Fault Refusal :=
  s.run t (fun s => s.busWord who (R.gfeCtrl n) 1#32)

/-- `GFE_n_CTRL.STOP` is written 1 (R164). -/
def execGfeStop (t : Nat) (who : Initiator) (n : Fin 4) (s : State) : Host.Outcome State Fault Refusal :=
  s.run t (fun s => s.busWord who (R.gfeCtrl n) 2#32)

/-- `GFE_n_CTRL.APPLY` is written 1 (R177). -/
def execGfeApply (t : Nat) (who : Initiator) (n : Fin 4) (s : State) : Host.Outcome State Fault Refusal :=
  s.run t (fun s => s.busWord who (R.gfeCtrl n) 4#32)

/-- `GFE_n_BS_CTRL.BS_START` is written 1 (R187). -/
def execBsStart (t : Nat) (who : Initiator) (n : Fin 4) (s : State) : Host.Outcome State Fault Refusal :=
  s.run t (fun s => s.busWord who (R.gfeBsCtrl n) 1#32)

/-- `GFE_n_BS_CTRL.BS_ABORT` is written 1 (R192). -/
def execBsAbort (t : Nat) (who : Initiator) (n : Fin 4) (s : State) : Host.Outcome State Fault Refusal :=
  s.run t (fun s => s.busWord who (R.gfeBsCtrl n) 2#32)

/-- `SND_CTRL.TX_SEND` is written 1 (R203). -/
def execTxSend (t : Nat) (who : Initiator) (s : State) : Host.Outcome State Fault Refusal :=
  s.run t (fun s => s.busWord who R.sndCtrl 1#32)

/-- `SND_CTRL.RX_POP` is written 1 (R206). -/
def execSndRxPop (t : Nat) (who : Initiator) (s : State) : Host.Outcome State Fault Refusal :=
  s.run t (fun s => s.busWord who R.sndCtrl 2#32)

/-- A waiting frame starts at its chip boundary (R203). -/
def execSndFrameStart (t : Nat) (s : State) : Host.Outcome State Fault Refusal :=
  s.run t (fun s => s.frameStart)

/-- The transmitted frame ends (R200). -/
def execSndFrameEnd (t : Nat) (s : State) : Host.Outcome State Fault Refusal :=
  s.run t (fun s => s.frameEnd)

/-- Correlator `c` delivers a frame that ended at instant `e`, which it estimates at `est` (R205, R206). -/
def execSndFrameReceived (t : Nat) (c : Fin 16) (sender : BitVec 12) (ty : BitVec 4) (payload : Word) (crc : BitVec 16) (e est : Nat) (s
    : State) : Host.Outcome State Fault Refusal :=
  s.run t (fun s => s.sndReceive c sender.toNat ty.toNat payload.toNat crc.toNat e est)

/-- An application instant is reached (R208). -/
def execShiftApply (t : Nat) (s : State) : Host.Outcome State Fault Refusal :=
  s.run t (fun s => s.shiftApply)

/-- The running `RESYNC` offset ends (R209). -/
def execResyncEnd (t : Nat) (s : State) : Host.Outcome State Fault Refusal :=
  s.run t (fun s => s.resyncEnd)

/-- A received claim ages past `CLAIM_AGE` (R207). -/
def execClaimAgeExpiry (t : Nat) (s : State) : Host.Outcome State Fault Refusal :=
  s.run t (fun s => s.claimExpiry)

end Sys2Proof.Machine
end

