-- ==== Sys2Proof/Machine/FerryRun.lean ====
section
/-! DEFINITION. The bursts of the Ferry (R417–R423). -/

namespace Sys2Proof.Machine

/-- Whether queue `q` serves reception from the switch (R423). -/
def State.fqIsRx (s : State) (q : Nat) : Bool := s.rdB R.fryEth 31 && s.rdF R.fryEth 4 0 == q
/-- Whether queue `q` serves transmission to the switch, and not reception. -/
def State.fqIsTx (s : State) (q : Nat) : Bool := s.rdB R.fryEth 31 && s.rdF R.fryEth 12 8 == q && !s.fqIsRx q

def fqLink (d : FryQ) : Bool := natBit d.ctl 29
def fqIrq (d : FryQ) : Bool := natBit d.ctl 30
def fqSrcFix (d : FryQ) : Bool := natBit d.ctl 28
def fqDstFix (d : FryQ) : Bool := natBit d.ctl 27

/-- Whether queue `q` waits for a burst: `RUNNING` or `WAITING`, and for a receive queue a frame to place. -/
def State.fqReady (s : State) (q : Nat) : Bool :=
  (s.fqState q == 1 || s.fqState q == 2) && (!s.fqIsRx q || (s.fq q).frame.isSome || !s.eth.host.isEmpty)

def State.fqPrio (s : State) (q : Nat) : Nat := s.rdF (R.fryQCfg q) 26 24
def State.fqDomain (s : State) (q : Nat) : Nat := s.rdF (R.fryQCfg q) 19 16

/-- The queues in order of service, from the one after the queue served last. -/
def State.fqOrder (s : State) : List Nat := (List.range 32).map (fun i => (s.fry.last + 1 + i) % 32)

/-- The choice of R420: the highest priority, and within it the first in order of service. -/
def State.fqChoose (s : State) : Option Nat :=
  let ready := s.fqOrder.filter s.fqReady
  let top := ready.foldl (fun m q => max m (s.fqPrio q)) 0
  ready.find? (fun q => s.fqPrio q == top)

/-- A queue that loses the choice in the middle of a descriptor waits. -/
def State.fqLosers (s : State) (q : Nat) : State :=
  s.each (s.fqOrder.filter (fun k => k != q && s.fqState k == 1 && s.fqReady k && (s.fq k).loaded)) (fun s k => s.setFqState k 2)

/-- A stop for which R421 names no cause: a free value of `FAULT_CAUSE` (log 68). -/
def State.fqFaultFree (s : State) (q iova : Nat) : State :=
  let c := fieldOf s.freshWord 2 0
  s.tookFree.fqFault q c iova

/-- The IOVA shown for a fault of the descriptor itself, which concerns none: a free value (log 68). -/
def State.fqDescFault (s : State) (q cause : Nat) : State :=
  let v := s.freshWord.toNat
  s.tookFree.fqFault q cause v

/-- The descriptor from its bytes (Table 20.3). -/
def fqParse (bs : List Byte) : FryQ :=
  let at_ (o n : Nat) : Nat := natLE ((bs.drop o).take n)
  ⟨true, at_ 0 4, at_ 4 3, at_ 8 8 % 2 ^ 39, at_ 16 8 % 2 ^ 39, at_ 24 4 % 2 ^ 24 / 8 * 8, none, none, 0⟩

/-- Whether a descriptor is invalid: the sides that an Ethernet queue ignores are not looked at; a `LEN` of 0 is outside its range
(log 68). -/
def fqInvalid (d : FryQ) (rx tx : Bool) : Bool :=
  let sf := fqSrcFix d && !rx
  let df := fqDstFix d && !tx
  !natBit d.ctl 31 || d.len == 0 || (sf && d.src % 4 != 0) || (df && d.dst % 4 != 0) || ((sf || df) && d.len % 4 != 0)

/-- The frame that a receive queue's descriptor takes, and its count where it is longer than `LEN`. -/
def State.fqTakeFrame (s : State) (q : Nat) : State :=
  match s.eth.host with
  | [] => s
  | f :: rest =>
    let d := s.fq q
    let cut := if d.len < f.bytes.length then s.fry.cut + 1 else s.fry.cut
    let s := { s with eth := { s.eth with host := rest }, fry := { s.fry with cut := cut } }
    s.setFq q { d with frame := some (f.bytes.take d.len) }

/-- The descriptor of queue `q` is read (R417): the state, and whether it can be carried out. -/
def State.fqLoad (s : State) (q : Nat) : State × Bool :=
  if (s.fq q).loaded then (s, true)
  else
    let a := 0x08000000 + s.fqDesc q
    match s.memAnswers a 32 with
    | none => (s.fqFaultFree q 0, false)
    | some _ =>
      if s.eccBad a 32 then ((s.eccUncorrectable a).fqDescFault q 6, false)
      else
        let d := fqParse (s.bytes a 32)
        if fqInvalid d (s.fqIsRx q) (s.fqIsTx q) then (s.fqDescFault q 5, false)
        else
          let s := s.setFq q { d with abort := (s.fq q).abort }
          (if s.fqIsRx q then s.fqTakeFrame q else s, true)

/-- Bytes that the descriptor in hand moves: `LEN`, or for a receive queue its frame, up to `LEN`. -/
def State.fqTotal (s : State) (q : Nat) : Nat :=
  if s.fqIsRx q then ((s.fq q).frame.map List.length).getD 0 else (s.fq q).len

/-- Source and destination IOVA of the next burst. -/
def State.fqSrcAt (s : State) (q : Nat) : Nat :=
  let d := s.fq q
  if fqSrcFix d then d.src else (d.src + s.fqDone q) % 2 ^ 39
def State.fqDstAt (s : State) (q : Nat) : Nat :=
  let d := s.fq q
  if fqDstFix d then d.dst else (d.dst + s.fqDone q) % 2 ^ 39

/-- A translation for queue `q`, a failed one entered in the fault FIFO and stopping the queue with `cause` (R415, R421). -/
def State.fqTranslate (s : State) (q iova : Nat) (write : Bool) (cause : Nat) : State × Option Nat :=
  let r := s.translate (s.fqDomain q) iova write
  match r.2 with
  | .inl a => (r.1, some a)
  | .inr c => ((r.1.iomFault ⟨write, q, s.fqDomain q, c, iova⟩).fqFault q cause iova, none)

/-- The length of the next burst (R418); one transfer of 32 bits to or from a register (R419). -/
def State.fqBurstLen (s : State) (q : Nat) (src dst : Option Nat) : Nat :=
  let left := s.fqTotal q - s.fqDone q
  let toPage (p : Option Nat) (v : Nat) : Nat := if p.isSome then 4096 - v % 4096 else 4096
  let n := min 256 (min left (min (toPage src (s.fqSrcAt q)) (toPage dst (s.fqDstAt q))))
  if (src.map isReg).getD false || (dst.map isReg).getD false then min 4 n else n

/-- `n` bytes from a held address: its 4 bytes again and again. -/
def repeatWord (bs : List Byte) : Nat → List Byte
  | 0 => []
  | n + 1 => bs ++ repeatWord bs n

/-- The read beats of a burst of `n` bytes: the state, the data, and whether they met an uncorrectable error or a bus error. -/
def State.fqRead (s : State) (q : Nat) (src : Option Nat) (n : Nat) : State × List Byte × Bool × Bool :=
  let d := s.fq q
  match src with
  | none => (s, ((d.frame.getD []).drop (s.fqDone q)).take n, false, false)
  | some a =>
    if isReg a then
      match d.regData with
      | some bs => (s, bs, false, false)
      | none =>
        if n ≠ 4 ∨ !s.regAnswers a .b4 then (s, [], false, true)
        else
          let r := if s.absent a then (s, 0#32) else s.regRead (.ferry (Fin.ofNat 32 q)) a
          let bs := bytesLE 4 r.2.toNat
          (r.1.setFq q { r.1.fq q with regData := some bs }, bs, false, false)
    else
      let m := if fqSrcFix d then 4 else n
      match s.memAnswers a m with
      | none => (s, [], false, true)
      | some _ =>
        if s.eccBad a m then (s.eccUncorrectable a, [], true, false)
        else (s, if fqSrcFix d then repeatWord (s.bytes a 4) (n / 4) else s.bytes a n, false, false)

/-- The address of one side of a burst: none within for a side that an Ethernet queue ignores; none where the translation failed. -/
def State.fqSide (s : State) (ignored : Bool) (q iova : Nat) (write : Bool) (cause : Nat) : State × Option (Option Nat) :=
  if ignored then (s, some none)
  else
    let r := s.fqTranslate q iova write cause
    (r.1, r.2.map some)

/-- The read beats of a burst whose sides are translated (R418). -/
def State.fqBurst (s : State) (q sv dv : Nat) (src dst : Option Nat) : State :=
  let x := s.fqRead q src (s.fqBurstLen q src dst)
  { x.1 with fry := { x.1.fry with run := some ⟨q, dv, dst, sv, src, x.2.1, x.2.2.1, x.2.2.2⟩ } }

/-- The burst goes on from its second side, where that is translated. -/
def State.fqBurstFrom (b : State × Option (Option Nat)) (q sv dv : Nat) (src : Option Nat) : State :=
  match b.2 with
  | none => b.1
  | some dst => b.1.fqBurst q sv dv src dst

/-- The burst goes on from its first side, where that is translated. -/
def State.fqSecond (a : State × Option (Option Nat)) (q sv dv : Nat) : State :=
  match a.2 with
  | none => a.1
  | some src => State.fqBurstFrom (a.1.fqSide (a.1.fqIsTx q) q dv true 2) q sv dv src

/-- The burst of queue `q` begins: both sides are translated, then its read beats complete (R418). -/
def State.fqBegin (s : State) (q : Nat) : State :=
  let s := s.setFqState q 1
  State.fqSecond (s.fqSide (s.fqIsRx q) q (s.fqSrcAt q) false 1) q (s.fqSrcAt q) (s.fqDstAt q)

/-- `FERRY_BURST_START` (R420): while no burst runs, the chosen queue starts its next one. -/
def State.ferryStart (s : State) : State :=
  if s.fry.run.isSome then s
  else
    match s.fqChoose with
    | none => s
    | some q =>
      let s := s.fqLosers q
      let s := { s with fry := { s.fry with last := q } }
      let r := s.fqLoad q
      if r.2 then r.1.fqBegin q else r.1

/-- The end of a descriptor (R417, R422): `RESULT`, count, event, and the way on. -/
def State.fqDescDone (s : State) (q : Nat) : State :=
  let d := s.fq q
  let late := d.abort == 2 && !fqLink d
  let s := (s.fqResult q 2 late).countUp (R.fryQCount q) 31 0 1
  let s := (s.raiseIf late (R.fryQStatus q) 27).fqEvent q 2 (fqIrq d)
  let s := if s.fqIsTx q then s.ethIngress 2 (d.frame.getD []) else s
  if !fqLink d then (s.setFqState q 4).setFq q FryQ.init
  else if d.abort = 2 then ((s.setFqState q 5).setFq q FryQ.init).fqEvent q 5 false
  else ((s.wrF (R.fryQDesc q) 23 3 (d.next / 8)).wr (R.fryQDone q) 0#32).setFq q FryQ.init

/-- The write beats of a burst: the state, and whether all ended well. -/
def State.fqWrite (s : State) (b : FryBurst) : State × Bool :=
  let d := s.fq b.q
  match b.dst with
  | none => (s.setFq b.q { d with frame := some (d.frame.getD [] ++ b.data) }, true)
  | some a =>
    if isReg a then
      if b.data.length = 4 then s.access (.ferry (Fin.ofNat 32 b.q)) a .b4 (BitVec.ofNat 64 (natLE b.data)) else (s, false)
    else s.memWrite a (if fqDstFix d then b.data.drop (b.data.length - 4) else b.data)

/-- Whether `a` lies among the bytes that a burst reads from memory. -/
def FryBurst.reads (b : FryBurst) (a : Nat) : Bool :=
  match b.src with
  | none => false
  | some p => !isReg p && decide (p ≤ a ∧ a < p + b.data.length)

/-- The last response of a burst, with the addresses in its source at which its read beats met corrected and uncorrectable errors. -/
def State.fqComplete (s : State) (b : FryBurst) (corr unc : List Nat) : State :=
  let q := b.q
  let s := { s with fry := { s.fry with run := none } }
  let s := s.each (corr.filter b.reads) State.eccCorrected
  let s := s.each (unc.filter b.reads) State.eccFound
  if b.srcEcc || unc.any b.reads then s.fqFault q 3 b.srcV
  else if b.srcErr then s.fqFaultFree q b.srcV
  else
    let r := s.fqWrite b
    if !r.2 then r.1.fqFault q 4 b.dstV
    else
      let s := r.1
      let n := s.fqDone q + b.data.length
      let s := (s.wr (R.fryQDone q) (wordN n)).setFq q { s.fq q with regData := none }
      let ab := (s.fq q).abort
      if s.fqTotal q ≤ n then (if ab = 1 then s.fqAborted q else s.fqDescDone q)
      else if ab ≠ 0 then s.fqAborted q
      else s

/-- `FERRY_BURST_COMPLETE` (R418–R423): without a burst that runs, nothing. -/
def State.ferryComplete (s : State) (corr unc : List Nat) : State :=
  match s.fry.run with
  | none => s
  | some b => s.fqComplete b corr unc

end Sys2Proof.Machine
end

