-- ==== Sys2Proof/Machine/CoreCmd.lean ====
section
/-! DEFINITION. Commands of the core pairs, the interrupt router, memory, the Ferry, the counters and debug. Each meaning is one command; what it does stands in the operations it calls. -/

namespace Sys2Proof.Machine

/-- The comparator of pair `p` mismatches (R407). -/
def execLockstepMismatch (t : Nat) (p : Fin 5) (s : State) : Host.Outcome State Fault Refusal :=
  s.run t (fun s => s.lockstepMismatch p)

/-- `SYS_CP_p_CTRL.RESTART` is written 1 (R407). -/
def execCpRestart (t : Nat) (who : Initiator) (p : Fin 5) (s : State) : Host.Outcome State Fault Refusal :=
  s.run t (fun s => s.busWord who (R.sysCpCtrl p) 1#32)

/-- A claim register of pair `p` is read, of machine or of supervisor mode (R411). -/
def execIrqClaim (t : Nat) (who : Initiator) (p : Fin 5) (sup : Bool) (s : State) : Host.Outcome State Fault Refusal :=
  s.run t (fun s => s.busRead who (if sup then R.sysIrqClaimS p else R.sysIrqClaimM p) .b4)

/-- A claim register of pair `p` is written (R411). -/
def execIrqComplete (t : Nat) (who : Initiator) (p : Fin 5) (sup : Bool) (w : Word) (s : State) : Host.Outcome State Fault Refusal :=
  s.run t (fun s => s.busWord who (if sup then R.sysIrqClaimS p else R.sysIrqClaimM p) w)

/-- `SYS_SWI` is written (R411). -/
def execSwiSet (t : Nat) (who : Initiator) (b : BitVec 8) (s : State) : Host.Outcome State Fault Refusal :=
  s.run t (fun s => s.busWord who R.sysSwi (b.setWidth 32))

/-- A scrub pass ends, with the addresses at which it corrected and those at which it could not (R414). -/
def execScrubPass (t : Nat) (corr unc : List Nat) (s : State) : Host.Outcome State Fault Refusal :=
  s.run t (fun s => s.scrubPass corr unc)

/-- `IOMMU_INV` is written (R416). -/
def execIommuInvalidate (t : Nat) (who : Initiator) (w : Word) (s : State) : Host.Outcome State Fault Refusal :=
  s.run t (fun s => s.busWord who R.iommuInv w)

/-- The running invalidation completes (R416). -/
def execIommuInvComplete (t : Nat) (s : State) : Host.Outcome State Fault Refusal :=
  s.run t (fun s => s.iomInvDone)

/-- `IOMMU_FAULT_2` is read (R415). -/
def execIommuFaultPop (t : Nat) (who : Initiator) (s : State) : Host.Outcome State Fault Refusal :=
  s.run t (fun s => s.busRead who R.iommuFault2 .b4)

/-- `GO` of Ferry queue `q` is written 1 (R417). -/
def execFerryGo (t : Nat) (who : Initiator) (q : Fin 32) (s : State) : Host.Outcome State Fault Refusal :=
  s.run t (fun s => s.busWord who (R.fryQCtrl q) 1#32)

/-- `ABORT` of Ferry queue `q` is written 1 (R422). -/
def execFerryAbort (t : Nat) (who : Initiator) (q : Fin 32) (s : State) : Host.Outcome State Fault Refusal :=
  s.run t (fun s => s.busWord who (R.fryQCtrl q) 2#32)

/-- `RESUME` of Ferry queue `q` is written 1 (R421). -/
def execFerryResume (t : Nat) (who : Initiator) (q : Fin 32) (s : State) : Host.Outcome State Fault Refusal :=
  s.run t (fun s => s.busWord who (R.fryQCtrl q) 4#32)

/-- Ferry chooses a queue and starts its burst (R420). -/
def execFerryBurstStart (t : Nat) (s : State) : Host.Outcome State Fault Refusal :=
  s.run t (fun s => s.ferryStart)

/-- The burst that runs ends; its reads met errors at these addresses (R418). -/
def execFerryBurstComplete (t : Nat) (corr unc : List Nat) (s : State) : Host.Outcome State Fault Refusal :=
  s.run t (fun s => s.ferryComplete corr unc)

/-- Counter `c` of pair `p` overflows (R426). -/
def execPmuOverflow (t : Nat) (p : Fin 5) (c : Fin 8) (s : State) : Host.Outcome State Fault Refusal :=
  s.run t (fun s => s.pmuOverflow p c)

/-- `PMU_FREEZE.FROZEN` is written (R427). -/
def execPmuFreezeWrite (t : Nat) (who : Initiator) (b : Bool) (s : State) : Host.Outcome State Fault Refusal :=
  s.run t (fun s => s.busWord who R.pmuFreeze (wordN (b2n b)))

/-- A JTAG instruction is loaded (R428). -/
def execJtagInstruction (t : Nat) (x : Tap) (s : State) : Host.Outcome State Fault Refusal :=
  s.run t (fun s => s.jtag x)

/-- `SYS_DBG.LEVEL` is written (R428). -/
def execDbgLevelWrite (t : Nat) (who : Initiator) (v : BitVec 2) (s : State) : Host.Outcome State Fault Refusal :=
  s.run t (fun s => s.busWord who R.sysDbg (v.setWidth 32))

/-- The debug bus halts pair `p` (R428). -/
def execDebugHalt (t : Nat) (p : Fin 5) (s : State) : Host.Outcome State Fault Refusal :=
  s.run t (fun s => s.debugHalt p)

/-- The debug bus steps pair `p` (R428). -/
def execDebugStep (t : Nat) (p : Fin 5) (s : State) : Host.Outcome State Fault Refusal :=
  s.run t (fun s => s.debugStep p)

/-- The debug bus resumes pair `p` (R428). -/
def execDebugResume (t : Nat) (p : Fin 5) (s : State) : Host.Outcome State Fault Refusal :=
  s.run t (fun s => s.debugResume p)

/-- `SYS_DBG_FORCE_k` is enabled for signal `i` (R429). -/
def execDebugForce (t : Nat) (who : Initiator) (k : Fin 8) (i : Fin 4096) (s : State) : Host.Outcome State Fault Refusal :=
  s.run t (fun s => s.busWord who (R.sysDbgForce k) (wordN (2 ^ 31 + i.val)))

end Sys2Proof.Machine
end

