-- ==== Sys2Proof/Machine/GateCmd.lean ====
section
/-! DEFINITION. Commands of the carriers, slices and leg units. Each meaning is one command; what it does stands in the operations it calls. -/

namespace Sys2Proof.Machine

/-- Carrier `c` reaches a reload instant (R218). -/
def execReload (t : Nat) (c : Fin 16) (s : State) : Host.Outcome State Fault Refusal :=
  s.run t (fun s => s.reloadAll c)

/-- `PWM_CCOMMIT` is written with the groups to commit (R219). -/
def execPwmCcommit (t : Nat) (who : Initiator) (g : BitVec 4) (s : State) : Host.Outcome State Fault Refusal :=
  s.run t (fun s => s.busWord who R.pwmCcommit (g.setWidth 32))

/-- The carrier of slice `i` reaches its next requested edge (R216). -/
def execSliceEdge (t : Nat) (i : Fin 128) (s : State) : Host.Outcome State Fault Refusal :=
  s.run t (fun s => s.sliceEdge i)

/-- The dead time of slice `i` expires (R217). -/
def execDeadTimeEnd (t : Nat) (i : Fin 128) (s : State) : Host.Outcome State Fault Refusal :=
  s.run t (fun s => s.deadTimeEnd i)

/-- The offset of the next entry of leg unit `g` is reached (R223). -/
def execLegEntry (t : Nat) (g : Fin 42) (s : State) : Host.Outcome State Fault Refusal :=
  s.run t (fun s => s.legEntry g)

/-- The dead time of the step of leg unit `g` expires (R224). -/
def execLegStep (t : Nat) (g : Fin 42) (s : State) : Host.Outcome State Fault Refusal :=
  s.run t (fun s => s.legStep g)

/-- Trigger compare `k` of slice `i` is reached (R234). -/
def execTrgCompare (t : Nat) (i : Fin 128) (k : Fin 2) (s : State) : Host.Outcome State Fault Refusal :=
  s.run t (fun s => s.trgCompare i k)

/-- The filtered level of a trip input changes (R235). -/
def execTripInput (t : Nat) (x : Fin 8) (high : Bool) (s : State) : Host.Outcome State Fault Refusal :=
  s.run t (fun s => s.tripInput x high)

end Sys2Proof.Machine
end

