-- ==== Sys2Proof/Machine/GuardCmd.lean ====
section
/-! DEFINITION. Commands of the protection block and the safety monitor. Each meaning is one command; what it does stands in the operations it calls. -/

namespace Sys2Proof.Machine

/-- `PROT_SRC_LATCH_k` is written (R294). -/
def execLatchClear (t : Nat) (who : Initiator) (k : Fin 15) (w : Word) (s : State) : Host.Outcome State Fault Refusal :=
  s.run t (fun s => s.busWord who (R.protSrcLatch k) w)

/-- The filtered level of window comparator `x` changes (R296). -/
def execWindowComparator (t : Nat) (x : Fin 32) (on : Bool) (s : State) : Host.Outcome State Fault Refusal :=
  s.run t (fun s => s.windowLevel x on)

/-- With these bits of chain `i` the DC-link value of thread `n` crosses a threshold (R297). -/
def execDcThresholdCrossing (t : Nat) (_n : Fin 4) (i : Fin 112) (bits : List Bool) (s : State) : Host.Outcome State Fault Refusal :=
  s.runBits t i bits

/-- `CHOP_VERIFY` of thread `n` expires (R299). -/
def execChopVerify (t : Nat) (n : Fin 4) (s : State) : Host.Outcome State Fault Refusal :=
  s.run t (fun s => s.chopVerify n)

/-- `PITCH_REP` of thread `n` passes with `CHOP_FAULT` set (R299). -/
def execPitchRep (t : Nat) (n : Fin 4) (s : State) : Host.Outcome State Fault Refusal :=
  s.run t (fun s => s.pitchRep n)

/-- `CHOP_FAULT` of thread `n` is written 1 (R299). -/
def execChopFaultClear (t : Nat) (who : Initiator) (n : Fin 4) (s : State) : Host.Outcome State Fault Refusal :=
  s.run t (fun s => s.busWord who (R.protThrStatus n) 0x400#32)

/-- `OV3_TRIP` of thread `n` is written 1 (R300). -/
def execOv3TripClear (t : Nat) (who : Initiator) (n : Fin 4) (s : State) : Host.Outcome State Fault Refusal :=
  s.run t (fun s => s.busWord who (R.protThrStatus n) 0x800#32)

/-- The filtered STO inputs become `a` and `b`, true for high (R305). -/
def execStoInput (t : Nat) (a b : Bool) (s : State) : Host.Outcome State Fault Refusal :=
  s.run t (fun s => s.stoInput a b)

/-- The STO inputs have differed for longer than `STO_DISC` (R306). -/
def execStoDiscrep (t : Nat) (s : State) : Host.Outcome State Fault Refusal :=
  s.run t (fun s => s.stoDiscrep)

/-- The STO path and the monitor disagree for 1 ms (R307). -/
def execStoPathDisagree (t : Nat) (s : State) : Host.Outcome State Fault Refusal :=
  s.run t (fun s => s.internalSto 4)

/-- The safety monitor evaluates thread `n.1`, and its program asks for `DISCHARGE` where `n.2` is true (R308). -/
def execSmonEvaluation (t : Nat) (n : Fin 4 × Bool) (s : State) : Host.Outcome State Fault Refusal :=
  s.run t (fun s => s.smonEval n.1 n.2)

/-- `SMON_REL` is written with `KEY` 0xC5 and thread `n` (R309). -/
def execSmonRel (t : Nat) (who : Initiator) (n : Fin 4) (s : State) : Host.Outcome State Fault Refusal :=
  s.run t (fun s => s.busWord who R.smonRel (wordN (0xC5000000 + n.val)))

/-- `SMON_WD_p` is written (R310). -/
def execWatchdogService (t : Nat) (who : Initiator) (p : Fin 5) (v : BitVec 16) (s : State) : Host.Outcome State Fault Refusal :=
  s.run t (fun s => s.busWord who (R.smonWd p) (v.setWidth 32))

/-- `WD_MAX` of pair `p` passes without service (R310). -/
def execWatchdogTimeout (t : Nat) (p : Fin 5) (s : State) : Host.Outcome State Fault Refusal :=
  s.run t (fun s => s.wdTimeout p)

/-- `PROT_n_DISCH_CTRL.START` is written 1 (R312). -/
def execDischStart (t : Nat) (who : Initiator) (n : Fin 4) (s : State) : Host.Outcome State Fault Refusal :=
  s.run t (fun s => s.busWord who (R.protThrDischCtrl n) 1#32)

/-- `PROT_n_DISCH_CTRL.ABORT` is written 1 (R312). -/
def execDischAbort (t : Nat) (who : Initiator) (n : Fin 4) (s : State) : Host.Outcome State Fault Refusal :=
  s.run t (fun s => s.busWord who (R.protThrDischCtrl n) 2#32)

/-- `DISCH_T1` of thread `n` passes (R313). -/
def execDischT1 (t : Nat) (n : Fin 4) (s : State) : Host.Outcome State Fault Refusal :=
  s.run t (fun s => s.dischT1 n)

/-- A `DISCH_T2` interval of thread `n` ends (R313). -/
def execDischT2 (t : Nat) (n : Fin 4) (s : State) : Host.Outcome State Fault Refusal :=
  s.run t (fun s => s.dischT2 n)

/-- The link of thread `n` has stayed below `DISCH_SAFE` for 10 ms (R314). -/
def execDischSafe (t : Nat) (n : Fin 4) (s : State) : Host.Outcome State Fault Refusal :=
  s.run t (fun s => s.dischDone n)

/-- `DISCH_DONE` of thread `n` is written 1 (R314). -/
def execDischDoneClear (t : Nat) (who : Initiator) (n : Fin 4) (s : State) : Host.Outcome State Fault Refusal :=
  s.run t (fun s => s.busWord who (R.protThrStatus n) 0x100#32)

/-- The lockstep comparison of the safety monitor fails (R307). -/
def execMonitorLockstepFault (t : Nat) (s : State) : Host.Outcome State Fault Refusal :=
  s.run t (fun s => (s.internalSto 3).wrB R.smonStatus 31 false)

/-- The period counter of thread `n` has not advanced for four periods (R311). -/
def execTm6PeriodStall (t : Nat) (n : Fin 4) (s : State) : Host.Outcome State Fault Refusal :=
  s.run t (fun s => s.tm6Stall n)

end Sys2Proof.Machine
end

