-- ==== Sys2Proof/Machine/IsletCmd.lean ====
section
/-! DEFINITION. Commands of the metering Islet. Each meaning is one command; what it does stands in the operations it calls. -/

namespace Sys2Proof.Machine

/-- `ISL_CMD` is written with command 1 (R356). -/
def execIslRefresh (t : Nat) (who : Initiator) (s : State) : Host.Outcome State Fault Refusal :=
  s.run t (fun s => s.busWord who R.islCmd (wordN (0x10000000)))

/-- `ISL_CMD` is written with command 2 (R356). -/
def execIslLoadLog (t : Nat) (who : Initiator) (arg : BitVec 28) (s : State) : Host.Outcome State Fault Refusal :=
  s.run t (fun s => s.busWord who R.islCmd (wordN (0x20000000 + arg.toNat)))

/-- `ISL_CMD` is written with command 3 (R356). -/
def execIslAcknowledge (t : Nat) (who : Initiator) (s : State) : Host.Outcome State Fault Refusal :=
  s.run t (fun s => s.busWord who R.islCmd (wordN (0x30000000)))

/-- `ISL_CMD` is written with command 4 (R356). -/
def execIslTestMode (t : Nat) (who : Initiator) (arg : BitVec 28) (s : State) : Host.Outcome State Fault Refusal :=
  s.run t (fun s => s.busWord who R.islCmd (wordN (0x40000000 + arg.toNat)))

/-- A snapshot arrives over the Strait, its first word at `first`, with a good CRC or not (R355). -/
def execIslSnapshot (t : Nat) (ok : Bool) (first : Nat) (s : State) : Host.Outcome State Fault Refusal :=
  s.run t (fun s => s.islSnapshot ok first)

/-- No valid snapshot for 1 s (R355). -/
def execIslPresentTimeout (t : Nat) (s : State) : Host.Outcome State Fault Refusal :=
  s.run t (fun s => s.islTimeout)

/-- Strait power falls; the energies of the partial quantum by phase, active and reactive, in secondary pWh (R342). -/
def execStraitPowerFall (t : Nat) (e : List Int) (r : List Int) (s : State) : Host.Outcome State Fault Refusal :=
  s.run t (fun s => (s.straitFall e r).wrB R.pdmStatus 1 false)

/-- Strait power returns, with the retention check passed or failed (R342). -/
def execStraitPowerReturn (t : Nat) (retained : Bool) (s : State) : Host.Outcome State Fault Refusal :=
  s.run t (fun s => let s := s.straitReturn retained; s.wrB R.pdmStatus 1 s.islUp)

/-- A measurement window ends with these quantities (R344). -/
def execMeterWindow (t : Nat) (m : IslMeas) (s : State) : Host.Outcome State Fault Refusal :=
  s.run t (fun s => s.meterWindow m)

/-- A quantum ends with its energies by phase, active and reactive, in secondary pWh (R345). -/
def execMeterQuantum (t : Nat) (e : List Int) (r : List Int) (s : State) : Host.Outcome State Fault Refusal :=
  s.run t (fun s => s.meterQuantum e r)

/-- An owed pulse is issued on output P (false) or Q (R347). -/
def execMeterPulse (t : Nat) (o : Bool) (s : State) : Host.Outcome State Fault Refusal :=
  s.run t (fun s => s.meterPulse o)

/-- The converter clock was `dev` ppm off over a second (R343). -/
def execIslClockCheck (t : Nat) (dev : Int) (s : State) : Host.Outcome State Fault Refusal :=
  s.run t (fun s => s.islClock dev)

/-- Five equal seal samples show a new state (R349). -/
def execSealChange (t : Nat) (closed : Bool) (s : State) : Host.Outcome State Fault Refusal :=
  s.run t (fun s => s.sealChange closed)

/-- The pulse test mode has run for an hour (R348). -/
def execTestModeExpiry (t : Nat) (s : State) : Host.Outcome State Fault Refusal :=
  s.run t (fun s => s.testExpiry)

/-- Calibration-port command 0x01 (R351). -/
def execCalReadActive (t : Nat) (idx : Byte) (crcOk : Bool) (s : State) : Host.Outcome State Fault Refusal :=
  s.run t (fun s => s.calRead false idx.toNat crcOk)

/-- Calibration-port command 0x02 (R351). -/
def execCalWriteStaging (t : Nat) (idx : Byte) (w : Word) (crcOk : Bool) (s : State) : Host.Outcome State Fault Refusal :=
  s.run t (fun s => s.calWrite idx.toNat w crcOk)

/-- Calibration-port command 0x03 (R350). -/
def execCalCommit (t : Nat) (idx : Byte) (crcOk : Bool) (s : State) : Host.Outcome State Fault Refusal :=
  s.run t (fun s => s.calCommit idx.toNat crcOk)

/-- Calibration-port command 0x04 (R351). -/
def execCalReadStaging (t : Nat) (idx : Byte) (crcOk : Bool) (s : State) : Host.Outcome State Fault Refusal :=
  s.run t (fun s => s.calRead true idx.toNat crcOk)

end Sys2Proof.Machine
end

