-- ==== Sys2Proof/Machine/LinkCmd.lean ====
section
/-! DEFINITION. Commands of the Stadan links and the driver boards. Each meaning is one command; what it does stands in the operations it calls. -/

namespace Sys2Proof.Machine

/-- A downstream slot of link `l` starts (R249). -/
def execStadanSlot (t : Nat) (l : Fin 32) (s : State) : Host.Outcome State Fault Refusal :=
  s.run t (fun s => s.stadanStep l)

/-- An edge of link `l` reaches its instant minus `LEAD` (R243). -/
def execEdgeEligible (t : Nat) (l : Fin 32) (s : State) : Host.Outcome State Fault Refusal :=
  s.run t (fun s => s.edgeEligible l)

/-- An upstream frame of link `l` ends, its first bit received at `at_`, with or without a line error (R266); a silent senior whose boards
hear no partner may resume with it (R337). -/
def execUpstreamFrame (t : Nat) (l : Fin 32) (at_ : Nat) (lineOk : Bool) (bytes : List Byte) (s : State) : Host.Outcome State Fault
    Refusal :=
  s.run t (fun s => (s.upFrame l at_ lineOk bytes).seniorResume)

/-- No valid upstream frame of link `l` for 16 slots (R266). -/
def execLinkDown (t : Nat) (l : Fin 32) (s : State) : Host.Outcome State Fault Refusal :=
  s.run t (fun s => s.linkDown l)

/-- A downstream frame ends at port `p` of the driver board of link `l` (R255). -/
def execDriverFrame (t : Nat) (l : Fin 32) (p : Fin 2) (lineOk : Bool) (bytes : List Byte) (s : State) : Host.Outcome State Fault Refusal
    :=
  s.run t (fun s => s.driverFrame l p lineOk bytes)

/-- The claim of a port lapses (R254). -/
def execDriverClaimLapse (t : Nat) (l : Fin 32) (p : Fin 2) (s : State) : Host.Outcome State Fault Refusal :=
  s.run t (fun s => s.driverLapse l p)

/-- Accepted edges of a driver board reach their instant (R257). -/
def execDriverEdgeExecute (t : Nat) (l : Fin 32) (s : State) : Host.Outcome State Fault Refusal :=
  s.run t (fun s => s.driverExecute l)

/-- No valid frame on any port for 16 slots (R261). -/
def execDriverSilence (t : Nat) (l : Fin 32) (s : State) : Host.Outcome State Fault Refusal :=
  s.run t (fun s => s.driverSilence l)

/-- The gate supply of a channel is lost (R261). -/
def execDriverGateFault (t : Nat) (l : Fin 32) (ch : Fin 6) (s : State) : Host.Outcome State Fault Refusal :=
  s.run t (fun s => s.driverGateFault l ch)

/-- A driver board sends its `STATUS` frame on a port, with the detection bits, their instant and the temperature (R265). -/
def execDriverStatusSend (t : Nat) (l : Fin 32) (p : Fin 2) (desat : BitVec 6) (desatTs : Word) (temp : Byte) (s : State) : Host.Outcome
    State Fault Refusal :=
  s.run t (fun s => s.driverStatus l p desat.toNat desatTs.toNat temp.toNat)

/-- A port silent for 16 slots loses `SYNCED` (R252). -/
def execPortSyncLoss (t : Nat) (l : Fin 32) (p : Fin 2) (s : State) : Host.Outcome State Fault Refusal :=
  s.run t (fun s => s.portSyncLoss l p)

/-- The gate supply of a channel returns (R261). -/
def execDriverGateSupplyReturn (t : Nat) (l : Fin 32) (ch : Fin 6) (s : State) : Host.Outcome State Fault Refusal :=
  s.run t (fun s => s.driverGateReturn l ch)

/-- A driver board powers up (R261). -/
def execDriverPowerUp (t : Nat) (l : Fin 32) (s : State) : Host.Outcome State Fault Refusal :=
  s.run t (fun s => s.driverPowerUp l)

end Sys2Proof.Machine
end

