-- ==== Sys2Proof/Machine/NetCmd.lean ====
section
/-! DEFINITION. Commands of network time, the Ethernet switch and the Ulile agent. Each meaning is one command; what it does stands in the operations it calls. -/

namespace Sys2Proof.Machine

/-- `TIME_INC_FRAC`, the second word of the pair, is written (R371). -/
def execTimeIncWrite (t : Nat) (who : Initiator) (w : Word) (s : State) : Host.Outcome State Fault Refusal :=
  s.run t (fun s => s.busWord who R.timeIncFrac w)

/-- `TIME_CTRL.SET` is written 1 (R372). -/
def execTimeSet (t : Nat) (who : Initiator) (s : State) : Host.Outcome State Fault Refusal :=
  s.run t (fun s => s.busWord who R.timeCtrl 2#32)

/-- `TIME_CTRL.STEP` is written 1 (R372). -/
def execTimeStep (t : Nat) (who : Initiator) (s : State) : Host.Outcome State Fault Refusal :=
  s.run t (fun s => s.busWord who R.timeCtrl 1#32)

/-- `TIME_NS` is read (R373). -/
def execTimeNsRead (t : Nat) (who : Initiator) (s : State) : Host.Outcome State Fault Refusal :=
  s.run t (fun s => s.busRead who R.timeNs .b4)

/-- `PWM_TB_LO` is read (R212). -/
def execPwmTbLoRead (t : Nat) (who : Initiator) (s : State) : Host.Outcome State Fault Refusal :=
  s.run t (fun s => s.busRead who R.pwmTbLo .b4)

/-- `GFE_n_OMEGA_ACC_HI` is read (R154). -/
def execOmegaAccHiRead (t : Nat) (who : Initiator) (n : Fin 4) (s : State) : Host.Outcome State Fault Refusal :=
  s.run t (fun s => s.busRead who (R.gfeOmegaAccHi n) .b4)

/-- Counter 2 `c` of pair `p` is read (R426). -/
def execPmuEvenRead (t : Nat) (who : Initiator) (p : Fin 5) (c : Fin 4) (s : State) : Host.Outcome State Fault Refusal :=
  s.run t (fun s => s.busRead who (R.pmuPcnt p (2 * c.val)) .b4)

/-- A frame enters port `p` of the switch: its bytes from the destination address up to the check sequence (R375). -/
def execEthFrameIngress (t : Nat) (p : Fin 3) (bytes : List Byte) (s : State) : Host.Outcome State Fault Refusal :=
  s.run t (fun s => s.inDomain 14 (fun s => s.ethIngress p bytes))

/-- A queued frame leaves port `p` (R377). -/
def execEthFrameEgress (t : Nat) (p : Fin 3) (s : State) : Host.Outcome State Fault Refusal :=
  s.run t (fun s => s.inDomain 14 (fun s => s.ethEgress p))

/-- A peer-delay exchange of port `p` gives its four instants, in units of 2^-16 ns (R378). -/
def execPdelayExchange (t : Nat) (p : Fin 2) (t1 t2 t3 t4 : Int) (s : State) : Host.Outcome State Fault Refusal :=
  s.run t (fun s => s.inDomain 14 (fun s => s.pdelay p t1 t2 t3 t4))

/-- A learned address has not been seen for 300 s (R375). -/
def execMacAgeOut (t : Nat) (a : BitVec 48) (s : State) : Host.Outcome State Fault Refusal :=
  s.run t (fun s => s.inDomain 14 (fun s => s.macAgeOut a.toNat))

/-- `ETH_TS_3` is read (R379). -/
def execEthTsPop (t : Nat) (who : Initiator) (s : State) : Host.Outcome State Fault Refusal :=
  s.run t (fun s => s.busRead who R.ethTs3 .b4)

/-- A request arrives (R382). -/
def execUlileRequest (t : Nat) (via : UliVia) (bytes : List Byte) (s : State) : Host.Outcome State Fault Refusal :=
  s.run t (fun s => s.uliRequest via bytes)

/-- The agent reads the next point of the request in hand (R383). -/
def execUlileRead (t : Nat) (s : State) : Host.Outcome State Fault Refusal :=
  s.run t (fun s => s.uliServe 1)

/-- The agent writes the next point of the request in hand (R384). -/
def execUlileWrite (t : Nat) (s : State) : Host.Outcome State Fault Refusal :=
  s.run t (fun s => s.uliServe 2)

/-- The agent reads memory for the request in hand (R384). -/
def execUlileMemoryRead (t : Nat) (s : State) : Host.Outcome State Fault Refusal :=
  s.run t (fun s => s.uliServe 3)

/-- The agent forms the next item of an identify reply (R382). -/
def execUlileIdentify (t : Nat) (s : State) : Host.Outcome State Fault Refusal :=
  s.run t (fun s => s.uliServe 4)

/-- External port `p` gains or loses its link (R375). -/
def execEthLinkChange (t : Nat) (p : Fin 2) (up : Bool) (s : State) : Host.Outcome State Fault Refusal :=
  s.run t (fun s => s.inDomain 14 (fun s => s.ethLink p up))

end Sys2Proof.Machine
end

