-- ==== Sys2Proof/Machine/PeriodCmd.lean ====
section
/-! DEFINITION. Commands of the registers, the clocks and the control period. Each meaning is one command; what it does stands in the operations it calls. -/

namespace Sys2Proof.Machine

/-- A write on the bus: to a register under its access codes, or to memory (R4–R8, R408). -/
def execRegisterWrite (t : Nat) (who : Initiator) (a : BitVec 40) (size : Size) (d : Dword) (s : State) : Host.Outcome State Fault Refusal
    :=
  s.run t (fun s => s.busWrite who a.toNat size d)

/-- `SYS_LOCK.LOCK` is written 1 (R8). -/
def execSysLockSet (t : Nat) (who : Initiator) (s : State) : Host.Outcome State Fault Refusal :=
  s.run t (fun s => s.busWord who R.sysLock 1#32)

/-- No reference edge for 200 ns (R29). -/
def execRefLoss (t : Nat) (s : State) : Host.Outcome State Fault Refusal :=
  s.run t (fun s => s.refLoss)

/-- The lock detector drops after the first lock (R29). -/
def execPllUnlock (t : Nat) (s : State) : Host.Outcome State Fault Refusal :=
  s.run t (fun s => s.pllUnlock)

/-- A monitor window ends with `count` fabric cycles (R29, R31). -/
def execClockMonitorWindow (t : Nat) (count : Nat) (s : State) : Host.Outcome State Fault Refusal :=
  s.run t (fun s => s.clockWindow count)

/-- `SAFE_OSC_GRACE` expires (R31). -/
def execSafeOscGrace (t : Nat) (s : State) : Host.Outcome State Fault Refusal :=
  s.run t (fun s => s.safeOscGrace)

/-- The sample instant of thread `n` (R37). -/
def execSampleInstant (t : Nat) (n : Fin 4) (s : State) : Host.Outcome State Fault Refusal :=
  s.run t (fun s => s.sampleInstant n)

/-- `SEQ_n_CTRL.START` is written 1 (R33). -/
def execSeqStart (t : Nat) (who : Initiator) (n : Fin 4) (s : State) : Host.Outcome State Fault Refusal :=
  s.run t (fun s => s.busWord who (R.seqCtrl n) 1#32)

/-- `SEQ_n_CTRL.STOP` is written 1 (R33). -/
def execSeqStop (t : Nat) (who : Initiator) (n : Fin 4) (s : State) : Host.Outcome State Fault Refusal :=
  s.run t (fun s => s.busWord who (R.seqCtrl n) 2#32)

/-- The `FILTER_CLOSE` step of thread `n` (R61). -/
def execFilterClose (t : Nat) (n : Fin 4) (s : State) : Host.Outcome State Fault Refusal :=
  s.run t (fun s => s.closeStep n)

/-- The `VECTOR` step of thread `n` (R121). -/
def execVector (t : Nat) (n : Fin 4) (s : State) : Host.Outcome State Fault Refusal :=
  s.run t (fun s => s.vecStep n)

/-- The `LOOP_GROUP` step; reading its contexts meets `corr` corrected words and uncorrectable errors in `bad`: by context the parameter
word, or none for a state word (R106, R120). -/
def execLoopGroup (t : Nat) (n : Fin 4) (corr : Nat) (bad : List (Fin 512 × Option (Fin 16))) (s : State) : Host.Outcome State Fault Refusal :=
  s.run t (fun s => s.groupStep n corr (bad.map (fun x => (x.1.val, x.2.map (·.val)))))

/-- The engine is free for the step that waits longest (R107). -/
def execLoopGroupGrant (t : Nat) (corr : Nat) (bad : List (Fin 512 × Option (Fin 16))) (s : State) : Host.Outcome State Fault Refusal :=
  s.run t (fun s => s.groupGrant corr (bad.map (fun x => (x.1.val, x.2.map (·.val)))))

/-- The `GFE` step of thread `n` (R153). -/
def execGfe (t : Nat) (n : Fin 4) (s : State) : Host.Outcome State Fault Refusal :=
  s.run t (fun s => s.gfeSeqStep n)

/-- The `MODULATE` step of thread `n` (R229). -/
def execModulate (t : Nat) (n : Fin 4) (s : State) : Host.Outcome State Fault Refusal :=
  s.run t (fun s => s.modSeqStep n)

/-- The `COMMIT` step of thread `n` (R221). -/
def execCommit (t : Nat) (n : Fin 4) (s : State) : Host.Outcome State Fault Refusal :=
  s.run t (fun s => s.commitSeqStep n)

/-- The `EMIT` step of thread `n` (R35). -/
def execEmit (t : Nat) (n : Fin 4) (s : State) : Host.Outcome State Fault Refusal :=
  s.run t (fun s => s.emitSeqStep n)

/-- The `POST` step of thread `n` (R35). -/
def execPost (t : Nat) (n : Fin 4) (s : State) : Host.Outcome State Fault Refusal :=
  s.run t (fun s => s.postSeqStep n)

/-- The `CORE_CALL` step of thread `n` (R36). -/
def execCoreCall (t : Nat) (n : Fin 4) (s : State) : Host.Outcome State Fault Refusal :=
  s.run t (fun s => s.callStep n)

/-- `SEQ_n_CORE_DONE.DONE` is written 1 (R36). -/
def execCoreDone (t : Nat) (who : Initiator) (n : Fin 4) (s : State) : Host.Outcome State Fault Refusal :=
  s.run t (fun s => s.busWord who (R.seqCoreDone n) 1#32)

/-- The timeout of the running `CORE_CALL` expires (R36). -/
def execCoreTimeout (t : Nat) (n : Fin 4) (s : State) : Host.Outcome State Fault Refusal :=
  s.run t (fun s => s.coreTimeout n)

/-- The `WAIT` step of thread `n` (R35). -/
def execWait (t : Nat) (n : Fin 4) (s : State) : Host.Outcome State Fault Refusal :=
  s.run t (fun s => s.waitStep n)

/-- The offset of the running `WAIT` is reached (R35). -/
def execWaitEnd (t : Nat) (n : Fin 4) (s : State) : Host.Outcome State Fault Refusal :=
  s.run t (fun s => s.waitEnd n)

/-- The sequencer of thread `n` reaches `END` (R38). -/
def execEnd (t : Nat) (n : Fin 4) (s : State) : Host.Outcome State Fault Refusal :=
  s.run t (fun s => s.endStep n)

/-- Signal `i` is written with a value and a quality word (R42, R43). -/
def execSignalWrite (t : Nat) (who : Initiator) (i : Fin 4096) (v : Word) (q : Qual) (s : State) : Host.Outcome State Fault Refusal :=
  s.run t (fun s => s.signalWrite who i v q)

end Sys2Proof.Machine
end

