-- ==== Sys2Proof/Machine/RecordCmd.lean ====
section
/-! DEFINITION. Commands of the recorder. Each meaning is one command; what it does stands in the operations it calls. -/

namespace Sys2Proof.Machine

/-- An interval of unit `u` closes, `drained` records having reached DRAM since the last close (R360). -/
def execIntervalClose (t : Nat) (u : Fin 8) (drained : Nat) (s : State) : Host.Outcome State Fault Refusal :=
  s.run t (fun s => s.intervalClose u drained)

/-- `REC_CAP_u_CTRL.ARM` is written 1 (R363). -/
def execRecArm (t : Nat) (who : Initiator) (u : Fin 8) (s : State) : Host.Outcome State Fault Refusal :=
  s.run t (fun s => s.busWord who (R.recCapCtrl u) 1#32)

/-- `REC_CAP_u_CTRL.STOP` is written 1 (R363). -/
def execRecStop (t : Nat) (who : Initiator) (u : Fin 8) (s : State) : Host.Outcome State Fault Refusal :=
  s.run t (fun s => s.busWord who (R.recCapCtrl u) 2#32)

/-- `REC_FIRE` is written (R366). -/
def execRecFire (t : Nat) (who : Initiator) (mask : BitVec 8) (s : State) : Host.Outcome State Fault Refusal :=
  s.run t (fun s => s.busWord who R.recFire (mask.setWidth 32))

/-- Network time reaches `FIRE_AT` of unit `u` (R367). -/
def execFireAt (t : Nat) (u : Fin 8) (s : State) : Host.Outcome State Fault Refusal :=
  s.run t (fun s => s.recFireAt u)

/-- Line `b` of the trigger bus has been low for 20 samples after `high` (R368). -/
def execTrigBusEdge (t : Nat) (b : Fin 4) (high : Nat) (s : State) : Host.Outcome State Fault Refusal :=
  s.run t (fun s => s.trigBusEdge b high)

/-- The drive of line `b` ends (R368). -/
def execTrigBusDriveEnd (t : Nat) (b : Fin 4) (s : State) : Host.Outcome State Fault Refusal :=
  s.run t (fun s => s.busDriveEnd b)

/-- The timed hold-off of unit `u` ends (R363). -/
def execHoldTEnd (t : Nat) (u : Fin 8) (s : State) : Host.Outcome State Fault Refusal :=
  s.run t (fun s => s.holdEnd u)

/-- The records and header of a slot of unit `u` are in DRAM (R362). -/
def execSlotComplete (t : Nat) (u : Fin 8) (s : State) : Host.Outcome State Fault Refusal :=
  s.run t (fun s => s.slotComplete u)

/-- `REC_CAP_u_FULL` is written (R362). -/
def execSlotFree (t : Nat) (who : Initiator) (u : Fin 8) (w : Word) (s : State) : Host.Outcome State Fault Refusal :=
  s.run t (fun s => s.busWord who (R.recCapFull u) w)

/-- `SERVICE` of unit `u` is written (R365). -/
def execRecServiceWrite (t : Nat) (who : Initiator) (u : Fin 8) (v : BitVec 2) (s : State) : Host.Outcome State Fault Refusal :=
  s.run t (fun s => s.busWord who (R.recCapService u) (v.setWidth 32))

end Sys2Proof.Machine
end

