-- ==== Sys2Proof/Machine/SenseCmd.lean ====
section
/-! DEFINITION. Commands of the sigma-delta chains, the pairs and the SAR converters. Each meaning is one command; what it does stands in the operations it calls. -/

namespace Sys2Proof.Machine

/-- Chain `i` captures bits, the last of which completes a CIC output (R51). -/
def execCicOutput (t : Nat) (i : Fin 112) (bits : List Bool) (s : State) : Host.Outcome State Fault Refusal :=
  s.runBits t i bits

/-- Chain `i` computes a FIR output; reading its coefficients meets `corr` corrected words and the uncorrectable words `unc` (R55, R57).
-/
def execFirOutput (t : Nat) (i : Fin 112) (corr : Nat) (unc : List (Fin 16384)) (s : State) : Host.Outcome State Fault Refusal :=
  s.run t (fun s => s.firOutput i corr (unc.map (·.val)))

/-- Chain `i` computes the resampler output of its next target (R59). -/
def execResamplerOutput (t : Nat) (i : Fin 112) (corr : Nat) (unc : List (Fin 16384)) (s : State) : Host.Outcome State Fault Refusal :=
  s.run t (fun s => s.rsOutput i corr (unc.map (·.val)))

/-- Chain `i` releases an output (R60). -/
def execChainRelease (t : Nat) (i : Fin 112) (s : State) : Host.Outcome State Fault Refusal :=
  s.run t (fun s => s.chainRelease i)

/-- The detectors of chain `i` take a FIR output (R66). -/
def execDetectorTake (t : Nat) (i : Fin 112) (s : State) : Host.Outcome State Fault Refusal :=
  s.run t (fun s => s.detTake i)

/-- Bits of chain `i` complete a run of `STUCK_BITS` equal ones (R49). -/
def execStuck (t : Nat) (i : Fin 112) (bits : List Bool) (s : State) : Host.Outcome State Fault Refusal :=
  s.runBits t i bits

/-- Bits of chain `i` complete `RECOVER` clean ones (R49). -/
def execStuckClear (t : Nat) (i : Fin 112) (bits : List Bool) (s : State) : Host.Outcome State Fault Refusal :=
  s.runBits t i bits

/-- With these bits a level of the protection filter of chain `i` has held for `DEB` bits: its trip level or its warn level (R67). The bits
themselves say which. -/
def execPfFire (t : Nat) (i : Fin 112) (_trip : Bool) (bits : List Bool) (s : State) : Host.Outcome State Fault Refusal :=
  s.runBits t i bits

/-- With these bits the condition of a level of the protection filter of chain `i` no longer holds (R67). -/
def execPfClear (t : Nat) (i : Fin 112) (_trip : Bool) (bits : List Bool) (s : State) : Host.Outcome State Fault Refusal :=
  s.runBits t i bits

/-- `RESTORE_A` of pair `p` is written 1 (R99). -/
def execRestoreA (t : Nat) (who : Initiator) (p : Fin 128) (s : State) : Host.Outcome State Fault Refusal :=
  s.run t (fun s => s.busWord who (R.seqPairCtrl p) 1#32)

/-- `RESTORE_B` of pair `p` is written 1 (R99). -/
def execRestoreB (t : Nat) (who : Initiator) (p : Fin 128) (s : State) : Host.Outcome State Fault Refusal :=
  s.run t (fun s => s.busWord who (R.seqPairCtrl p) 2#32)

/-- `SEQ_SUB_j.FORCE` is written 1 (R102). -/
def execSubForce (t : Nat) (who : Initiator) (j : Fin 16) (s : State) : Host.Outcome State Fault Refusal :=
  s.run t (fun s => s.busWord who (R.seqSub j) 0x10000000#32)

/-- `SW_REG` of converter `k` is written 1 (R79). -/
def execSarSwReg (t : Nat) (who : Initiator) (k : Fin 24) (s : State) : Host.Outcome State Fault Refusal :=
  s.run t (fun s => s.busWord who (R.sarCtrl k) 1#32)

/-- `SW_INJ` of converter `k` is written 1 (R79). -/
def execSarSwInj (t : Nat) (who : Initiator) (k : Fin 24) (s : State) : Host.Outcome State Fault Refusal :=
  s.run t (fun s => s.busWord who (R.sarCtrl k) 2#32)

/-- `CAL` of converter `k` is written 1 (R87). -/
def execSarCal (t : Nat) (who : Initiator) (k : Fin 24) (s : State) : Host.Outcome State Fault Refusal :=
  s.run t (fun s => s.busWord who (R.sarCtrl k) 4#32)

/-- Interval timer `j` fires (R80). -/
def execSarTimer (t : Nat) (j : Fin 4) (s : State) : Host.Outcome State Fault Refusal :=
  s.run t (fun s => s.inDomain 15 (fun s => s.sarTimer j))

/-- Triggers of converter `k` are taken at a start edge (R71). -/
def execSarStartEdge (t : Nat) (k : Fin 24) (s : State) : Host.Outcome State Fault Refusal :=
  s.run t (fun s => s.inDomain 15 (fun s => s.sarStartEdge k))

/-- The conversion of converter `k` ends with a raw code (R70). -/
def execSarConversionEnd (t : Nat) (k : Fin 24) (raw : Int) (s : State) : Host.Outcome State Fault Refusal :=
  s.run t (fun s => s.inDomain 15 (fun s => s.sarConvEnd k raw))

/-- A pending calibration of converter `k` starts (R88). -/
def execCalibrationStart (t : Nat) (k : Fin 24) (s : State) : Host.Outcome State Fault Refusal :=
  s.run t (fun s => s.inDomain 15 (fun s => s.sarCalStart k))

/-- The calibration of converter `k` ends with the offset and gain measured (R91). -/
def execCalibrationEnd (t : Nat) (k : Fin 24) (off : Int) (gain : BitVec 16) (s : State) : Host.Outcome State Fault Refusal :=
  s.run t (fun s => s.inDomain 15 (fun s => s.sarCalEnd k off gain.toNat))

/-- The calibration interval of converter `k` expires (R87). -/
def execCalAuto (t : Nat) (k : Fin 24) (s : State) : Host.Outcome State Fault Refusal :=
  s.run t (fun s => s.inDomain 15 (fun s => s.sarCalAuto k))

/-- 100 ms have passed since a request of converter `k` (R90). -/
def execCalStarved (t : Nat) (k : Fin 24) (s : State) : Host.Outcome State Fault Refusal :=
  s.run t (fun s => s.inDomain 15 (fun s => s.sarStarved k))

end Sys2Proof.Machine
end

