-- ==== Sys2Proof/Machine/StartCmd.lean ====
section
/-! DEFINITION. Commands of reset, start-up, flash, OTP, wear and the power domains. Each meaning is one command; what it does stands in the operations it calls. -/

namespace Sys2Proof.Machine

/-- A supply is below its threshold (R431). -/
def execPowerOnReset (t : Nat) (s : State) : Host.Outcome State Fault Refusal :=
  s.run t (fun s => s.deviceReset 0)

/-- `RESET_N` has been low for 1 µs (R431). -/
def execResetN (t : Nat) (s : State) : Host.Outcome State Fault Refusal :=
  s.run t (fun s => s.deviceReset 1)

/-- `BOOT_RESET` is written with `KEY` 0x5A and `GO` (R431). -/
def execSoftwareReset (t : Nat) (who : Initiator) (s : State) : Host.Outcome State Fault Refusal :=
  s.run t (fun s => s.busWord who R.bootReset 0x5A000001#32)

/-- A reset is requested over the debug bus (R431). -/
def execDebugReset (t : Nat) (s : State) : Host.Outcome State Fault Refusal :=
  s.run t (fun s => s.debugReset)

/-- The test access port is reset (R431). -/
def execTapReset (t : Nat) (s : State) : Host.Outcome State Fault Refusal :=
  s.run t (fun s => s.tapReset)

/-- Internal reset is released, with what boot meets (R433). -/
def execResetRelease (t : Nat) (x : ReleaseIn) (s : State) : Host.Outcome State Fault Refusal :=
  s.run t (fun s => s.resetRelease x)

/-- `BOOT_FLASH_CMD` is written with operation 1 (R448). -/
def execFlashRead (t : Nat) (who : Initiator) (s : State) : Host.Outcome State Fault Refusal :=
  s.run t (fun s => s.busWord who R.bootFlashCmd 0x10000000#32)

/-- `BOOT_FLASH_CMD` is written with operation 2 (R448). -/
def execFlashProgram (t : Nat) (who : Initiator) (s : State) : Host.Outcome State Fault Refusal :=
  s.run t (fun s => s.busWord who R.bootFlashCmd 0x20000000#32)

/-- `BOOT_FLASH_CMD` is written with operation 3 (R448). -/
def execFlashErase (t : Nat) (who : Initiator) (s : State) : Host.Outcome State Fault Refusal :=
  s.run t (fun s => s.busWord who R.bootFlashCmd 0x30000000#32)

/-- The flash operation under way ends, well or with an error (R448). -/
def execFlashOpComplete (t : Nat) (ok : Bool) (s : State) : Host.Outcome State Fault Refusal :=
  s.run t (fun s => s.flashDone ok)

/-- `BOOT_OTP_CMD` is written with `KEY` 0xC3 and `ADV_SECVER` (R449). -/
def execOtpAdvSecver (t : Nat) (who : Initiator) (s : State) : Host.Outcome State Fault Refusal :=
  s.run t (fun s => s.busWord who R.bootOtpCmd 0xC3000001#32)

/-- `BOOT_OTP_CMD` is written with `KEY` 0xC3, `REVOKE` and slot `k` (R449). -/
def execOtpRevoke (t : Nat) (who : Initiator) (k : Fin 4) (s : State) : Host.Outcome State Fault Refusal :=
  s.run t (fun s => s.busWord who R.bootOtpCmd (wordN (0xC3000002 + 16 * k.val)))

/-- Monitor `m` is evaluated: the drift measured, for monitor 1, and the readings of the four temperature sensors in 1/16 °C (R451). -/
def execWearEvaluation (t : Nat) (m : Fin 8) (v : Nat) (lo hi : Int × Int) (s : State) : Host.Outcome State Fault Refusal :=
  s.run t (fun s => s.wearEval m v [lo.1, lo.2, hi.1, hi.2])

/-- `PDM_OFF` is written (R464). -/
def execPdmOff (t : Nat) (who : Initiator) (b : BitVec 16) (s : State) : Host.Outcome State Fault Refusal :=
  s.run t (fun s => s.busWord who R.pdmOff (b.setWidth 32))

/-- `PDM_ON` is written (R464). -/
def execPdmOn (t : Nat) (who : Initiator) (b : BitVec 16) (s : State) : Host.Outcome State Fault Refusal :=
  s.run t (fun s => s.busWord who R.pdmOn (b.setWidth 32))

/-- Domain `d` is off and isolated (R464). -/
def execDomainOffComplete (t : Nat) (d : Fin 16) (s : State) : Host.Outcome State Fault Refusal :=
  s.run t (fun s => s.pdOffDone d)

/-- Domain `d` is fully powered (R464). -/
def execDomainOnComplete (t : Nat) (d : Fin 16) (s : State) : Host.Outcome State Fault Refusal :=
  s.run t (fun s => s.pdOnDone d)

/-- DRAM training completes (R464). -/
def execDramTrainingComplete (t : Nat) (s : State) : Host.Outcome State Fault Refusal :=
  s.run t (fun s => s.dramTrained)

end Sys2Proof.Machine
end

