-- ==== Sys2Proof/Machine/TwinCmd.lean ====
section
/-! DEFINITION. Commands of twin operation and the Causeway. Each meaning is one command; what it does stands in the operations it calls. -/

namespace Sys2Proof.Machine

/-- The lanes lock: the devices exchange what R320 names, and a leader in its search for a partner goes on with boot (R319, R323). -/
def State.lanesJoin (s : State) (crc prio st run : Nat) : State :=
  let s := s.cwyLanesUp (s.rdN R.bootImageCrc) crc prio st run
  if s.boot.search.isSome && s.leader then s.bootGo else s

/-- A `JOIN` frame: a follower in its search for a partner that has joined goes on with boot (R319, R323). -/
def State.joinFrame (s : State) (h : CwyHdr) (count : Nat) (periods : List Nat) : State :=
  let s := s.cwyJoin h count periods
  if s.boot.search.isSome && s.twin.joined then s.bootGo else s

/-- The search for a partner ends without one: the device goes on as leader alone (R319). -/
def State.searchEnd (s : State) : State :=
  if s.boot.search.isSome && decide (s.clk.relAt + 2 * second ≤ s.clk.now) then (s.partnerTimeout s.clk.relAt).bootGo else s

/-- All four lanes lock; the partner gives its image CRC, `PRIO`, state and running threads (R320). -/
def execCwyLanesUp (t : Nat) (crc : Word) (prio : BitVec 4) (st : BitVec 3) (run : BitVec 4) (s : State) : Host.Outcome State Fault
    Refusal :=
  s.run t (fun s => s.inDomain 14 (fun s => s.lanesJoin crc.toNat prio.toNat st.toNat run.toNat))

/-- No valid `STATUS` frame for 10 µs, or only `lanes` still locked (R320). -/
def execCwyDown (t : Nat) (lanes : BitVec 4) (s : State) : Host.Outcome State Fault Refusal :=
  s.run t (fun s => s.inDomain 14 (fun s => s.cwyDown lanes))

/-- No partner within 2.0 s of boot (R319). -/
def execPartnerSearchTimeout (t : Nat) (s : State) : Host.Outcome State Fault Refusal :=
  s.run t (fun s => s.searchEnd)

/-- A `TIME` frame is sent (R324). -/
def execCwyTimeSend (t : Nat) (s : State) : Host.Outcome State Fault Refusal :=
  s.run t (fun s => s.inDomain 14 (fun s => s.cwyTimeSend))

/-- A `STATUS` frame is sent (R322). -/
def execCwyStatusSend (t : Nat) (s : State) : Host.Outcome State Fault Refusal :=
  s.run t (fun s => s.inDomain 14 (fun s => s.cwyStatusSend))

/-- An `END` frame arrives (R328). -/
def execCwyEndFrame (t : Nat) (h : CwyHdr) (s : State) : Host.Outcome State Fault Refusal :=
  s.run t (fun s => s.inDomain 14 (fun s => s.cwyEnd h))

/-- A `TIME` frame sent at `t1` arrives at `t2`; it names a frame of this device sent at `t3` that arrived at `t4` (R324). -/
def execCwyTimeFrame (t : Nat) (h : CwyHdr) (t1 t2 t3 t4 : Nat) (s : State) : Host.Outcome State Fault Refusal :=
  s.run t (fun s => s.inDomain 14 (fun s => s.cwyTime h t1 t2 t3 t4))

/-- A `DIGEST` frame arrives (R330). -/
def execCwyDigestFrame (t : Nat) (h : CwyHdr) (input state : Dword) (flags : Word) (s : State) : Host.Outcome State Fault Refusal :=
  s.run t (fun s => s.inDomain 14 (fun s => s.cwyDigest h input.toNat state.toNat flags.toNat))

/-- An `OVERRUN` marker arrives (R330). -/
def execCwyOverrunFrame (t : Nat) (h : CwyHdr) (s : State) : Host.Outcome State Fault Refusal :=
  s.run t (fun s => s.inDomain 14 (fun s => s.cwyOverrun h))

/-- A `LATCH` frame arrives with signals, qualities and values (R326). -/
def execCwyLatchFrame (t : Nat) (h : CwyHdr) (xs : List (BitVec 12 × Qual × Word)) (s : State) : Host.Outcome State Fault Refusal :=
  s.run t (fun s => s.inDomain 14 (fun s => s.cwyLatch h xs))

/-- A `MIRROR` frame arrives (R327). -/
def execCwyMirrorFrame (t : Nat) (h : CwyHdr) (a : BitVec 32) (d : Word) (period : Word) (s : State) : Host.Outcome State Fault Refusal :=
  s.run t (fun s => s.inDomain 14 (fun s => s.cwyMirror h a.toNat d period.toNat))

/-- A `STATUS` frame arrives: state, running threads, flags by thread, links up (R320). -/
def execCwyStatusFrame (t : Nat) (h : CwyHdr) (st : BitVec 3) (run : BitVec 4) (flags : BitVec 6 × BitVec 6 × BitVec 6 × BitVec 6) (ups :
    BitVec 32) (s : State) : Host.Outcome State Fault Refusal :=
  s.run t (fun s => s.inDomain 14 (fun s => s.cwyStatus h st run [flags.1.toNat, flags.2.1.toNat, flags.2.2.1.toNat, flags.2.2.2.toNat] ups))

/-- A forwarded message for endpoint `j` arrives (R339). -/
def execCwyMsgFrame (t : Nat) (h : CwyHdr) (j : Fin 16) (bytes : List Byte) (s : State) : Host.Outcome State Fault Refusal :=
  s.run t (fun s => s.inDomain 14 (fun s => s.cwyMsg h j bytes))

/-- A `MSG_ACK` frame arrives (R339). -/
def execCwyMsgAckFrame (t : Nat) (h : CwyHdr) (ack : BitVec 32) (s : State) : Host.Outcome State Fault Refusal :=
  s.run t (fun s => s.inDomain 14 (fun s => s.cwyMsgAck h ack))

/-- A `JOIN` frame arrives with the timebase of the leader and its period counters (R323). -/
def execCwyJoinFrame (t : Nat) (h : CwyHdr) (count : Nat) (p0 p1 p2 p3 : Word) (s : State) : Host.Outcome State Fault Refusal :=
  s.run t (fun s => s.inDomain 14 (fun s => s.joinFrame h count [p0.toNat, p1.toNat, p2.toNat, p3.toNat]))

/-- A chunk of a snapshot arrives (R332). -/
def execCwySnapFrame (t : Nat) (h : CwyHdr) (items : List SnapItem) (last : Bool) (size : BitVec 20) (s : State) : Host.Outcome State
    Fault Refusal :=
  s.run t (fun s => s.inDomain 14 (fun s => s.cwySnap h items last size))

/-- The digest of the partner is 5 µs late (R330). -/
def execDigestTimeout (t : Nat) (n : Fin 4) (s : State) : Host.Outcome State Fault Refusal :=
  s.run t (fun s => s.digestTimeout n)

/-- No acknowledgement of a message within 50 µs (R339). -/
def execMsgRetry (t : Nat) (fseq : BitVec 32) (s : State) : Host.Outcome State Fault Refusal :=
  s.run t (fun s => s.inDomain 14 (fun s => s.msgRetry fseq.toNat))

/-- The coast of the follower ends (R337). -/
def execCoastEnd (t : Nat) (s : State) : Host.Outcome State Fault Refusal :=
  s.run t (fun s => s.coastEnd)

/-- Two edges of modulator clock `k` are missing (R325). -/
def execClkTakeover (t : Nat) (k : Fin 8) (s : State) : Host.Outcome State Fault Refusal :=
  s.run t (fun s => s.clkTakeover k)

/-- A register of the mirrored set is written (R327). -/
def execMirroredWrite (t : Nat) (who : Initiator) (a : BitVec 32) (w : Word) (s : State) : Host.Outcome State Fault Refusal :=
  s.run t (fun s => s.busWord who a.toNat w)

end Sys2Proof.Machine
end

