-- ==== Sys2Proof/Machine/Dispatch.lean ====
section
/-! DEFINITION. The dispatcher: one arm per command. -/

namespace Sys2Proof.Machine

def exec (i : Instr) (s : State) : Host.Outcome State Fault Refusal :=
  match i with
  | .registerWrite t who a size d => Sys2Proof.Machine.execRegisterWrite t who a size d s
  | .sysLockSet t who => Sys2Proof.Machine.execSysLockSet t who s
  | .refLoss t => Sys2Proof.Machine.execRefLoss t s
  | .pllUnlock t => Sys2Proof.Machine.execPllUnlock t s
  | .clockMonitorWindow t count => Sys2Proof.Machine.execClockMonitorWindow t count s
  | .safeOscGrace t => Sys2Proof.Machine.execSafeOscGrace t s
  | .sampleInstant t n => Sys2Proof.Machine.execSampleInstant t n s
  | .seqStart t who n => Sys2Proof.Machine.execSeqStart t who n s
  | .seqStop t who n => Sys2Proof.Machine.execSeqStop t who n s
  | .filterClose t n => Sys2Proof.Machine.execFilterClose t n s
  | .vector t n => Sys2Proof.Machine.execVector t n s
  | .loopGroup t n corr bad => Sys2Proof.Machine.execLoopGroup t n corr bad s
  | .loopGroupGrant t corr bad => Sys2Proof.Machine.execLoopGroupGrant t corr bad s
  | .gfe t n => Sys2Proof.Machine.execGfe t n s
  | .modulate t n => Sys2Proof.Machine.execModulate t n s
  | .commit t n => Sys2Proof.Machine.execCommit t n s
  | .emit t n => Sys2Proof.Machine.execEmit t n s
  | .post t n => Sys2Proof.Machine.execPost t n s
  | .coreCall t n => Sys2Proof.Machine.execCoreCall t n s
  | .coreDone t who n => Sys2Proof.Machine.execCoreDone t who n s
  | .coreTimeout t n => Sys2Proof.Machine.execCoreTimeout t n s
  | .wait t n => Sys2Proof.Machine.execWait t n s
  | .waitEnd t n => Sys2Proof.Machine.execWaitEnd t n s
  | .end_ t n => Sys2Proof.Machine.execEnd t n s
  | .signalWrite t who j v q => Sys2Proof.Machine.execSignalWrite t who j v q s
  | .cicOutput t j bits => Sys2Proof.Machine.execCicOutput t j bits s
  | .firOutput t j corr unc => Sys2Proof.Machine.execFirOutput t j corr unc s
  | .resamplerOutput t j corr unc => Sys2Proof.Machine.execResamplerOutput t j corr unc s
  | .chainRelease t j => Sys2Proof.Machine.execChainRelease t j s
  | .detectorTake t j => Sys2Proof.Machine.execDetectorTake t j s
  | .stuck t j bits => Sys2Proof.Machine.execStuck t j bits s
  | .stuckClear t j bits => Sys2Proof.Machine.execStuckClear t j bits s
  | .pfFire t j trip bits => Sys2Proof.Machine.execPfFire t j trip bits s
  | .pfClear t j trip bits => Sys2Proof.Machine.execPfClear t j trip bits s
  | .restoreA t who p => Sys2Proof.Machine.execRestoreA t who p s
  | .restoreB t who p => Sys2Proof.Machine.execRestoreB t who p s
  | .subForce t who j => Sys2Proof.Machine.execSubForce t who j s
  | .sarSwReg t who k => Sys2Proof.Machine.execSarSwReg t who k s
  | .sarSwInj t who k => Sys2Proof.Machine.execSarSwInj t who k s
  | .sarCal t who k => Sys2Proof.Machine.execSarCal t who k s
  | .sarTimer t j => Sys2Proof.Machine.execSarTimer t j s
  | .sarStartEdge t k => Sys2Proof.Machine.execSarStartEdge t k s
  | .sarConversionEnd t k raw => Sys2Proof.Machine.execSarConversionEnd t k raw s
  | .calibrationStart t k => Sys2Proof.Machine.execCalibrationStart t k s
  | .calibrationEnd t k off gain => Sys2Proof.Machine.execCalibrationEnd t k off gain s
  | .calAuto t k => Sys2Proof.Machine.execCalAuto t k s
  | .calStarved t k => Sys2Proof.Machine.execCalStarved t k s
  | .bankSwapRequest t who n => Sys2Proof.Machine.execBankSwapRequest t who n s
  | .vecStart t who u => Sys2Proof.Machine.execVecStart t who u s
  | .vecStop t who u => Sys2Proof.Machine.execVecStop t who u s
  | .ascReq t who u => Sys2Proof.Machine.execAscReq t who u s
  | .ascExit t who u => Sys2Proof.Machine.execAscExit t who u s
  | .encoderEdge t k a b => Sys2Proof.Machine.execEncoderEdge t k a b s
  | .encoderZEdge t k => Sys2Proof.Machine.execEncoderZEdge t k s
  | .ssiFrame t k raw lowBefore noReturn errBit => Sys2Proof.Machine.execSsiFrame t k raw lowBefore noReturn errBit s
  | .spdTimeout t k => Sys2Proof.Machine.execSpdTimeout t k s
  | .gfeStart t who n => Sys2Proof.Machine.execGfeStart t who n s
  | .gfeStop t who n => Sys2Proof.Machine.execGfeStop t who n s
  | .gfeApply t who n => Sys2Proof.Machine.execGfeApply t who n s
  | .bsStart t who n => Sys2Proof.Machine.execBsStart t who n s
  | .bsAbort t who n => Sys2Proof.Machine.execBsAbort t who n s
  | .txSend t who => Sys2Proof.Machine.execTxSend t who s
  | .sndRxPop t who => Sys2Proof.Machine.execSndRxPop t who s
  | .sndFrameStart t => Sys2Proof.Machine.execSndFrameStart t s
  | .sndFrameEnd t => Sys2Proof.Machine.execSndFrameEnd t s
  | .sndFrameReceived t c sender ty payload crc e est => Sys2Proof.Machine.execSndFrameReceived t c sender ty payload crc e est s
  | .shiftApply t => Sys2Proof.Machine.execShiftApply t s
  | .resyncEnd t => Sys2Proof.Machine.execResyncEnd t s
  | .claimAgeExpiry t => Sys2Proof.Machine.execClaimAgeExpiry t s
  | .reload t c => Sys2Proof.Machine.execReload t c s
  | .pwmCcommit t who g => Sys2Proof.Machine.execPwmCcommit t who g s
  | .sliceEdge t j => Sys2Proof.Machine.execSliceEdge t j s
  | .deadTimeEnd t j => Sys2Proof.Machine.execDeadTimeEnd t j s
  | .legEntry t g => Sys2Proof.Machine.execLegEntry t g s
  | .legStep t g => Sys2Proof.Machine.execLegStep t g s
  | .trgCompare t j k => Sys2Proof.Machine.execTrgCompare t j k s
  | .tripInput t x high => Sys2Proof.Machine.execTripInput t x high s
  | .stadanSlot t l => Sys2Proof.Machine.execStadanSlot t l s
  | .edgeEligible t l => Sys2Proof.Machine.execEdgeEligible t l s
  | .upstreamFrame t l at_ lineOk bytes => Sys2Proof.Machine.execUpstreamFrame t l at_ lineOk bytes s
  | .linkDown t l => Sys2Proof.Machine.execLinkDown t l s
  | .driverFrame t l p lineOk bytes => Sys2Proof.Machine.execDriverFrame t l p lineOk bytes s
  | .driverClaimLapse t l p => Sys2Proof.Machine.execDriverClaimLapse t l p s
  | .driverEdgeExecute t l => Sys2Proof.Machine.execDriverEdgeExecute t l s
  | .driverSilence t l => Sys2Proof.Machine.execDriverSilence t l s
  | .driverGateFault t l ch => Sys2Proof.Machine.execDriverGateFault t l ch s
  | .driverStatusSend t l p desat desatTs temp => Sys2Proof.Machine.execDriverStatusSend t l p desat desatTs temp s
  | .auxStart t who m => Sys2Proof.Machine.execAuxStart t who m s
  | .auxStop t who m => Sys2Proof.Machine.execAuxStop t who m s
  | .auxClear t who m => Sys2Proof.Machine.execAuxClear t who m s
  | .auxBusCrossing t k up => Sys2Proof.Machine.execAuxBusCrossing t k up s
  | .auxChopVerify t flows => Sys2Proof.Machine.execAuxChopVerify t flows s
  | .auxCurrentWindow t h k on sign => Sys2Proof.Machine.execAuxCurrentWindow t h k on sign s
  | .brkOffEnd t m => Sys2Proof.Machine.execBrkOffEnd t m s
  | .bemfCrossing t h level first => Sys2Proof.Machine.execBemfCrossing t h level first s
  | .demagBlankEnd t m level => Sys2Proof.Machine.execDemagBlankEnd t m level s
  | .commutation t m => Sys2Proof.Machine.execCommutation t m s
  | .forcedCommutation t m => Sys2Proof.Machine.execForcedCommutation t m s
  | .obsTime t m => Sys2Proof.Machine.execObsTime t m s
  | .stopConfirm t m => Sys2Proof.Machine.execStopConfirm t m s
  | .alignEnd t m => Sys2Proof.Machine.execAlignEnd t m s
  | .rampSectorEnd t m => Sys2Proof.Machine.execRampSectorEnd t m s
  | .ovRel t => Sys2Proof.Machine.execOvRel t s
  | .vdrvUv t => Sys2Proof.Machine.execVdrvUv t s
  | .cpUv t low => Sys2Proof.Machine.execCpUv t low s
  | .bstUv t h => Sys2Proof.Machine.execBstUv t h s
  | .latchClear t who k w => Sys2Proof.Machine.execLatchClear t who k w s
  | .windowComparator t x on => Sys2Proof.Machine.execWindowComparator t x on s
  | .dcThresholdCrossing t n j bits => Sys2Proof.Machine.execDcThresholdCrossing t n j bits s
  | .chopVerify t n => Sys2Proof.Machine.execChopVerify t n s
  | .pitchRep t n => Sys2Proof.Machine.execPitchRep t n s
  | .chopFaultClear t who n => Sys2Proof.Machine.execChopFaultClear t who n s
  | .ov3TripClear t who n => Sys2Proof.Machine.execOv3TripClear t who n s
  | .stoInput t a b => Sys2Proof.Machine.execStoInput t a b s
  | .stoDiscrep t => Sys2Proof.Machine.execStoDiscrep t s
  | .stoPathDisagree t => Sys2Proof.Machine.execStoPathDisagree t s
  | .smonEvaluation t n => Sys2Proof.Machine.execSmonEvaluation t n s
  | .smonRel t who n => Sys2Proof.Machine.execSmonRel t who n s
  | .watchdogService t who p v => Sys2Proof.Machine.execWatchdogService t who p v s
  | .watchdogTimeout t p => Sys2Proof.Machine.execWatchdogTimeout t p s
  | .dischStart t who n => Sys2Proof.Machine.execDischStart t who n s
  | .dischAbort t who n => Sys2Proof.Machine.execDischAbort t who n s
  | .dischT1 t n => Sys2Proof.Machine.execDischT1 t n s
  | .dischT2 t n => Sys2Proof.Machine.execDischT2 t n s
  | .dischSafe t n => Sys2Proof.Machine.execDischSafe t n s
  | .dischDoneClear t who n => Sys2Proof.Machine.execDischDoneClear t who n s
  | .cwyLanesUp t crc prio st run => Sys2Proof.Machine.execCwyLanesUp t crc prio st run s
  | .cwyDown t lanes => Sys2Proof.Machine.execCwyDown t lanes s
  | .partnerSearchTimeout t => Sys2Proof.Machine.execPartnerSearchTimeout t s
  | .cwyTimeSend t => Sys2Proof.Machine.execCwyTimeSend t s
  | .cwyStatusSend t => Sys2Proof.Machine.execCwyStatusSend t s
  | .cwyEndFrame t h => Sys2Proof.Machine.execCwyEndFrame t h s
  | .cwyTimeFrame t h t1 t2 t3 t4 => Sys2Proof.Machine.execCwyTimeFrame t h t1 t2 t3 t4 s
  | .cwyDigestFrame t h input state flags => Sys2Proof.Machine.execCwyDigestFrame t h input state flags s
  | .cwyOverrunFrame t h => Sys2Proof.Machine.execCwyOverrunFrame t h s
  | .cwyLatchFrame t h xs => Sys2Proof.Machine.execCwyLatchFrame t h xs s
  | .cwyMirrorFrame t h a d period => Sys2Proof.Machine.execCwyMirrorFrame t h a d period s
  | .cwyStatusFrame t h st run flags ups => Sys2Proof.Machine.execCwyStatusFrame t h st run flags ups s
  | .cwyMsgFrame t h j bytes => Sys2Proof.Machine.execCwyMsgFrame t h j bytes s
  | .cwyMsgAckFrame t h ack => Sys2Proof.Machine.execCwyMsgAckFrame t h ack s
  | .cwyJoinFrame t h count p0 p1 p2 p3 => Sys2Proof.Machine.execCwyJoinFrame t h count p0 p1 p2 p3 s
  | .cwySnapFrame t h items last size => Sys2Proof.Machine.execCwySnapFrame t h items last size s
  | .digestTimeout t n => Sys2Proof.Machine.execDigestTimeout t n s
  | .msgRetry t fseq => Sys2Proof.Machine.execMsgRetry t fseq s
  | .coastEnd t => Sys2Proof.Machine.execCoastEnd t s
  | .clkTakeover t k => Sys2Proof.Machine.execClkTakeover t k s
  | .mirroredWrite t who a w => Sys2Proof.Machine.execMirroredWrite t who a w s
  | .islRefresh t who => Sys2Proof.Machine.execIslRefresh t who s
  | .islLoadLog t who arg => Sys2Proof.Machine.execIslLoadLog t who arg s
  | .islAcknowledge t who => Sys2Proof.Machine.execIslAcknowledge t who s
  | .islTestMode t who arg => Sys2Proof.Machine.execIslTestMode t who arg s
  | .islSnapshot t ok first => Sys2Proof.Machine.execIslSnapshot t ok first s
  | .islPresentTimeout t => Sys2Proof.Machine.execIslPresentTimeout t s
  | .straitPowerFall t e r => Sys2Proof.Machine.execStraitPowerFall t e r s
  | .straitPowerReturn t retained => Sys2Proof.Machine.execStraitPowerReturn t retained s
  | .meterWindow t m => Sys2Proof.Machine.execMeterWindow t m s
  | .meterQuantum t e r => Sys2Proof.Machine.execMeterQuantum t e r s
  | .meterPulse t o => Sys2Proof.Machine.execMeterPulse t o s
  | .islClockCheck t dev => Sys2Proof.Machine.execIslClockCheck t dev s
  | .sealChange t closed => Sys2Proof.Machine.execSealChange t closed s
  | .testModeExpiry t => Sys2Proof.Machine.execTestModeExpiry t s
  | .calReadActive t idx crcOk => Sys2Proof.Machine.execCalReadActive t idx crcOk s
  | .calWriteStaging t idx w crcOk => Sys2Proof.Machine.execCalWriteStaging t idx w crcOk s
  | .calCommit t idx crcOk => Sys2Proof.Machine.execCalCommit t idx crcOk s
  | .calReadStaging t idx crcOk => Sys2Proof.Machine.execCalReadStaging t idx crcOk s
  | .intervalClose t u drained => Sys2Proof.Machine.execIntervalClose t u drained s
  | .recArm t who u => Sys2Proof.Machine.execRecArm t who u s
  | .recStop t who u => Sys2Proof.Machine.execRecStop t who u s
  | .recFire t who mask => Sys2Proof.Machine.execRecFire t who mask s
  | .fireAt t u => Sys2Proof.Machine.execFireAt t u s
  | .trigBusEdge t b high => Sys2Proof.Machine.execTrigBusEdge t b high s
  | .trigBusDriveEnd t b => Sys2Proof.Machine.execTrigBusDriveEnd t b s
  | .holdTEnd t u => Sys2Proof.Machine.execHoldTEnd t u s
  | .slotComplete t u => Sys2Proof.Machine.execSlotComplete t u s
  | .slotFree t who u w => Sys2Proof.Machine.execSlotFree t who u w s
  | .recServiceWrite t who u v => Sys2Proof.Machine.execRecServiceWrite t who u v s
  | .timeIncWrite t who w => Sys2Proof.Machine.execTimeIncWrite t who w s
  | .timeSet t who => Sys2Proof.Machine.execTimeSet t who s
  | .timeStep t who => Sys2Proof.Machine.execTimeStep t who s
  | .timeNsRead t who => Sys2Proof.Machine.execTimeNsRead t who s
  | .pwmTbLoRead t who => Sys2Proof.Machine.execPwmTbLoRead t who s
  | .omegaAccHiRead t who n => Sys2Proof.Machine.execOmegaAccHiRead t who n s
  | .pmuEvenRead t who p c => Sys2Proof.Machine.execPmuEvenRead t who p c s
  | .ethFrameIngress t p bytes => Sys2Proof.Machine.execEthFrameIngress t p bytes s
  | .ethFrameEgress t p => Sys2Proof.Machine.execEthFrameEgress t p s
  | .pdelayExchange t p t1 t2 t3 t4 => Sys2Proof.Machine.execPdelayExchange t p t1 t2 t3 t4 s
  | .macAgeOut t a => Sys2Proof.Machine.execMacAgeOut t a s
  | .ethTsPop t who => Sys2Proof.Machine.execEthTsPop t who s
  | .ulileRequest t via bytes => Sys2Proof.Machine.execUlileRequest t via bytes s
  | .ulileRead t => Sys2Proof.Machine.execUlileRead t s
  | .ulileWrite t => Sys2Proof.Machine.execUlileWrite t s
  | .ulileMemoryRead t => Sys2Proof.Machine.execUlileMemoryRead t s
  | .ulileIdentify t => Sys2Proof.Machine.execUlileIdentify t s
  | .canTxReq t who k b => Sys2Proof.Machine.execCanTxReq t who k b s
  | .canTxAbort t who k b => Sys2Proof.Machine.execCanTxAbort t who k b s
  | .canArbitration t k lost => Sys2Proof.Machine.execCanArbitration t k lost s
  | .canTxSuccess t k tdc => Sys2Proof.Machine.execCanTxSuccess t k tdc s
  | .canFrameError t k e => Sys2Proof.Machine.execCanFrameError t k e s
  | .busOffRecoveryCount t k => Sys2Proof.Machine.execBusOffRecoveryCount t k s
  | .boRecover t who k => Sys2Proof.Machine.execBoRecover t who k s
  | .canRxFrame t k sof f => Sys2Proof.Machine.execCanRxFrame t k sof f s
  | .canRxPop t who k => Sys2Proof.Machine.execCanRxPop t who k s
  | .canRxaRel t who k b => Sys2Proof.Machine.execCanRxaRel t who k b s
  | .tscCap t who k => Sys2Proof.Machine.execTscCap t who k s
  | .sleepReq t who k => Sys2Proof.Machine.execSleepReq t who k s
  | .canSleepEntry t k => Sys2Proof.Machine.execCanSleepEntry t k s
  | .canWake t k seen => Sys2Proof.Machine.execCanWake t k seen s
  | .lockstepMismatch t p => Sys2Proof.Machine.execLockstepMismatch t p s
  | .cpRestart t who p => Sys2Proof.Machine.execCpRestart t who p s
  | .irqClaim t who p sup => Sys2Proof.Machine.execIrqClaim t who p sup s
  | .irqComplete t who p sup w => Sys2Proof.Machine.execIrqComplete t who p sup w s
  | .swiSet t who b => Sys2Proof.Machine.execSwiSet t who b s
  | .scrubPass t corr unc => Sys2Proof.Machine.execScrubPass t corr unc s
  | .iommuInvalidate t who w => Sys2Proof.Machine.execIommuInvalidate t who w s
  | .iommuInvComplete t => Sys2Proof.Machine.execIommuInvComplete t s
  | .iommuFaultPop t who => Sys2Proof.Machine.execIommuFaultPop t who s
  | .ferryGo t who q => Sys2Proof.Machine.execFerryGo t who q s
  | .ferryAbort t who q => Sys2Proof.Machine.execFerryAbort t who q s
  | .ferryResume t who q => Sys2Proof.Machine.execFerryResume t who q s
  | .ferryBurstStart t => Sys2Proof.Machine.execFerryBurstStart t s
  | .ferryBurstComplete t corr unc => Sys2Proof.Machine.execFerryBurstComplete t corr unc s
  | .pmuOverflow t p c => Sys2Proof.Machine.execPmuOverflow t p c s
  | .pmuFreezeWrite t who b => Sys2Proof.Machine.execPmuFreezeWrite t who b s
  | .jtagInstruction t x => Sys2Proof.Machine.execJtagInstruction t x s
  | .dbgLevelWrite t who v => Sys2Proof.Machine.execDbgLevelWrite t who v s
  | .debugHalt t p => Sys2Proof.Machine.execDebugHalt t p s
  | .debugStep t p => Sys2Proof.Machine.execDebugStep t p s
  | .debugResume t p => Sys2Proof.Machine.execDebugResume t p s
  | .debugForce t who k j => Sys2Proof.Machine.execDebugForce t who k j s
  | .powerOnReset t => Sys2Proof.Machine.execPowerOnReset t s
  | .resetN t => Sys2Proof.Machine.execResetN t s
  | .softwareReset t who => Sys2Proof.Machine.execSoftwareReset t who s
  | .debugReset t => Sys2Proof.Machine.execDebugReset t s
  | .tapReset t => Sys2Proof.Machine.execTapReset t s
  | .resetRelease t x => Sys2Proof.Machine.execResetRelease t x s
  | .flashRead t who => Sys2Proof.Machine.execFlashRead t who s
  | .flashProgram t who => Sys2Proof.Machine.execFlashProgram t who s
  | .flashErase t who => Sys2Proof.Machine.execFlashErase t who s
  | .flashOpComplete t ok => Sys2Proof.Machine.execFlashOpComplete t ok s
  | .otpAdvSecver t who => Sys2Proof.Machine.execOtpAdvSecver t who s
  | .otpRevoke t who k => Sys2Proof.Machine.execOtpRevoke t who k s
  | .wearEvaluation t m v lo hi => Sys2Proof.Machine.execWearEvaluation t m v lo hi s
  | .pdmOff t who b => Sys2Proof.Machine.execPdmOff t who b s
  | .pdmOn t who b => Sys2Proof.Machine.execPdmOn t who b s
  | .domainOffComplete t d => Sys2Proof.Machine.execDomainOffComplete t d s
  | .domainOnComplete t d => Sys2Proof.Machine.execDomainOnComplete t d s
  | .monitorLockstepFault t => Sys2Proof.Machine.execMonitorLockstepFault t s
  | .tm6PeriodStall t n => Sys2Proof.Machine.execTm6PeriodStall t n s
  | .portSyncLoss t l p => Sys2Proof.Machine.execPortSyncLoss t l p s
  | .driverGateSupplyReturn t l ch => Sys2Proof.Machine.execDriverGateSupplyReturn t l ch s
  | .driverPowerUp t l => Sys2Proof.Machine.execDriverPowerUp t l s
  | .vdrvUvEnd t => Sys2Proof.Machine.execVdrvUvEnd t s
  | .bstUvEnd t h => Sys2Proof.Machine.execBstUvEnd t h s
  | .ethLinkChange t p up => Sys2Proof.Machine.execEthLinkChange t p up s
  | .dramTrainingComplete t => Sys2Proof.Machine.execDramTrainingComplete t s

end Sys2Proof.Machine
end

