-- ==== Sys2Proof/Safety.lean ====
section
/-! DEFINITION. What a safe run is, and the terms in which claims speak of a command: where an access reaches its register, which registers
it leaves, and which commands may store to memory, turn the meter or move a driver board. -/

namespace Sys2Proof.Machine

/-- The outcome of a step is a next state: no command stops the block. -/
def Safe (o : Host.Outcome State Fault Refusal) : Prop := ∃ s', o = .next s'

/-- The registers by which R429 ends a force: every command may change them. -/
def forceRegs : List Nat := (List.range 8).map R.sysDbgForce

/-- Every register reads in `u` as in `x`, but for those listed and those of `forceRegs`. -/
def State.regsKept (x u : State) (as : List Nat) : Prop := ∀ a, a ∉ as → a ∉ forceRegs → u.rd a = x.rd a

/-- `u` is `y` in everything but its registers, of which those of `as` alone (and those of `forceRegs`) may differ from `x`'s. -/
def State.framed (x y u : State) (as : List Nat) : Prop := u = { y with regs := u.regs, raised := u.raised } ∧ x.regsKept u as

/-- `u` has the clock, the sequencers, the debug port, the bus answer, the memory, the driver boards, the variant and the queue of `y`. -/
def State.pacedAs (y u : State) : Prop :=
  u.clk = y.clk ∧ (∀ n, u.seq n = y.seq n) ∧ u.tap = y.tap ∧ u.bus = y.bus ∧ u.mem = y.mem ∧ u.boards = y.boards ∧ u.dev = y.dev ∧ u.pending = y.pending

/-- A write of `w` by an initiator reaches the register at `a`: the port is open to it (R428), the block's domain is on (R465), the variant
has the resource (R2), and no twin takes the write for both devices (R327). -/
def State.reaches (s : State) (who : Initiator) (a : Nat) (w : Word) : Bool :=
  s.mayAccess who true && s.pdOn (blockDomain (a / 0x100000)) && !s.absent a &&
    (!s.twinOn || !s.cwyUp || !s.partner || (s.mirrorThreads a w).isEmpty)

/-- A read by an initiator reaches the register at `a`. -/
def State.readReaches (s : State) (who : Initiator) (a : Nat) : Bool :=
  s.mayAccess who false && s.pdOn (blockDomain (a / 0x100000)) && !s.absent a

/-- The commands that may store to memory, or make a memory lose its content. -/
def storesMemory : Instr → Bool
  | .registerWrite .. | .mirroredWrite .. | .sampleInstant .. | .intervalClose .. | .recStop .. | .slotComplete .. | .ulileWrite ..
  | .ferryAbort .. | .ferryBurstStart .. | .ferryBurstComplete .. | .powerOnReset .. | .resetN .. | .softwareReset .. | .debugReset ..
  | .resetRelease .. | .cwyLanesUp .. | .cwyJoinFrame .. | .partnerSearchTimeout .. | .domainOnComplete .. => true
  | _ => false

/-- The commands of the meter itself: its quanta, its power, its seal and its calibration port. -/
def turnsMeter : Instr → Bool
  | .meterQuantum .. | .straitPowerFall .. | .straitPowerReturn .. | .sealChange .. | .calWriteStaging .. | .calCommit .. => true
  | _ => false

/-- The commands of the driver boards. -/
def movesBoard : Instr → Bool
  | .driverFrame .. | .driverClaimLapse .. | .driverEdgeExecute .. | .driverSilence .. | .driverGateFault .. | .driverStatusSend ..
  | .portSyncLoss .. | .driverGateSupplyReturn .. | .driverPowerUp .. => true
  | _ => false

end Sys2Proof.Machine
end

