-- ==== Sys2Proof/Certificates/Slice0/Obligations.lean ====
section
/-! DEFINITION. The statements about the model. A statement about a command speaks of `x`, the state at the command's instant (`State.upTo`), and
says which state follows, `u`: `x.framed y u as` says that `u` is `y` in everything but its registers, and that every register but those
of `as` reads as in `x`. Where a command also runs an operation of a unit, the statement applies the operation that the model gives that unit. -/

open Sys2Proof Sys2Proof.Machine

/-! ### The whole block -/

/-- A step carries out the command at the front of the queue on the queue's rest (the queue is the model's form of R20's sequence of
commands; log 1). On an empty queue the block idles (log 1, the model's choice). -/
def Obligations.StepRunsTheFrontCommandElseIdles : Prop :=
  (∀ (c : Instr) (cs : List Instr) (s : State), step { s with pending := c :: cs } = exec c { s with pending := cs }) ∧
  (∀ s : State, s.pending = [] → step s = .next s)

/-- Every command of the table, in every state and with every operand, answers a next state: nothing that a program or the world around the
device does stops the block. It leaves the queue and the variant (R2), and the present does not go back. -/
def Obligations.EveryCommandAnswersANextState : Prop :=
  ∀ (c : Instr) (s : State), ∃ u, exec c s = .next u ∧ u.pending = s.pending ∧ u.dev = s.dev ∧ s.clk.now ≤ u.clk.now

/-- The memory keeps its canonical form at every step. -/
def Obligations.MemoryKeepsItsCanonicalForm : Prop :=
  ∀ s u : State, Memory.wf s.mem = true → step s = .next u → Memory.wf u.mem = true

/-- A command that stores nothing leaves every byte of memory. What the device does to a driver board it does by frames: no other command
moves a board (R239, R255). -/
def Obligations.StoresAndBoardsHaveTheirCommands : Prop :=
  (∀ (c : Instr) (s u : State), storesMemory c = false → exec c s = .next u → ∀ a, u.byte a = s.byte a) ∧
  (∀ (c : Instr) (s u : State), movesBoard c = false → exec c s = .next u → u.boards = s.boards)

/-- The isolation of the meter (R17, R341): whatever the rest of the device does, its energies, parameters and seals stay. -/
def Obligations.OnlyTheMeterTurnsTheMeter : Prop :=
  ∀ (c : Instr) (s u : State), turnsMeter c = false → exec c s = .next u →
    u.isl.energy = s.isl.energy ∧ u.isl.residue = s.isl.residue ∧ u.isl.par = s.isl.par ∧ u.isl.next = s.isl.next ∧
      u.isl.staging = s.isl.staging ∧ u.isl.commits = s.isl.commits ∧ u.isl.seals = s.isl.seals ∧ u.isl.isSealed = s.isl.isSealed

/-- What reset leaves (R432, R6): every register at the reset value of its row, nothing held off, no sequencer started, no memory listed.
The values of the state beside the registers are the model's (log 2). Memory after reset lists nothing, in canonical form (R432; what an
unlisted byte reads as is log 11's). -/
def Obligations.ResetLeavesEveryRegisterAtItsResetValue : Prop :=
  ((∀ a, State.reset.rd a = regReset a) ∧ (∀ n : Fin 4, State.reset.seqRuns n = false ∧ State.reset.seq n = SeqSt.init) ∧
    State.reset.pending = [] ∧ State.reset.bus = .none ∧ State.reset.anyHold = false) ∧
  (Memory.wf State.reset.mem = true ∧ State.reset.mem.cells = [])

/-- Rounding and saturation (R9): the nearest integer with ties upwards, and the nearest number of the format. -/
def Obligations.RoundingAndSaturation : Prop :=
  (∀ (x : Int) (n : Nat), (2 ^ n : Nat) * (2 * shrRound x n) ≤ 2 * x + (2 ^ n : Nat) ∧ 2 * x < (2 ^ n : Nat) * (2 * shrRound x n + 1)) ∧
  (∀ x : Int, -2147483648 ≤ sat32 x ∧ sat32 x ≤ 2147483647 ∧ (over32 x = false ↔ sat32 x = x) ∧
    ∀ y : Int, -2147483648 ≤ y → y ≤ 2147483647 → (sat32 x - x).natAbs ≤ (y - x).natAbs)

/-! ### Clocks, periods, signals and register accesses -/

/-- A start waits for its sample instant, and is refused while one runs or waits; a stop ends a pending start, waits for the next sample
instant where the sequencer runs, and is refused unless every bridge blocks (R33). `CORE_CALL` holds the sequencer until the called pair
says so, `WAIT` until its offset; the step after them follows (R35, R36). A core call that is not answered ends at its deadline;
`CORE_TIMEOUT` is set with the end of that fabric cycle, unless the called pair's `DONE` of the same cycle comes (completion wins); `END` is
noted at the end of the step before it (R35, R36, R38). -/
def Obligations.SequencersStartWaitAndEnd : Prop :=
  (∀ (t : Nat) (who : Initiator) (n : Fin 4) (s : State), let x := s.upTo t
    (x.reaches who (R.seqCtrl n) 1#32 = true →
      (x.seqRuns n = false → (x.seq n).startAt = none → x.seqUnused n = false → x.inRun = true → x.clk.faulted = false →
        ∃ u, exec (.seqStart t who n) s = .next u ∧
          x.framed { x.setSeq n { x.seq n with startAt := some x.clk.now } with bus := .ok 0#64 } u []) ∧
      (x.seqRuns n = true ∨ (x.seq n).startAt ≠ none →
        ∃ u, exec (.seqStart t who n) s = .next u ∧ x.framed { x with bus := .ok 0#64 } u [R.seqStatus n] ∧
          u.rd (R.seqStatus n) = withBit (x.rd (R.seqStatus n)) 5 true)) ∧
    (x.reaches who (R.seqCtrl n) 2#32 = true →
      (x.threadBlocked n = true → x.clk.faulted = false →
        ((x.seq n).startAt ≠ none → ∃ u, exec (.seqStop t who n) s = .next u ∧
          x.framed { x.setSeq n { x.seq n with startAt := none } with bus := .ok 0#64 } u []) ∧
        ((x.seq n).startAt = none → x.seqRuns n = true → ∃ u, exec (.seqStop t who n) s = .next u ∧
          x.framed { x.setSeq n { x.seq n with stopPend := true } with bus := .ok 0#64 } u [])) ∧
      (x.threadBlocked n = false → ∃ u, exec (.seqStop t who n) s = .next u ∧ x.framed { x with bus := .ok 0#64 } u [R.seqStatus n] ∧
          u.rd (R.seqStatus n) = withBit (x.rd (R.seqStatus n)) 3 true))) ∧
  (∀ (t : Nat) (n : Fin 4) (s : State), let x := s.upTo t; let q := x.seq n
    let j := x.latchRun n (x.seqStepNo n + 1)
    let ended (k w : Nat) : SeqSt :=
      { q with doneAt := k + j * 640, callWait := w, callPair := none, callDue := none, waitDue := none, waitGrp := false }
    let stepsTo (u : State) (b : BusAns) (v : SeqSt) : Prop :=
      x.framed { x with seqs := u.seqs, bus := b } u [R.seqStatus n] ∧ u.seqStepNo n = (x.seqStepNo n + 1 + j) % 64 ∧ u.seq n = v ∧
        ∀ m, m ≠ n.val → u.seq m = x.seq m
    (x.stepReady n 10 = true → ∃ u, exec (.coreCall t n) s = .next u ∧
      x.framed (x.setSeq n { q with
        callPair := some (x.stepA n)
        callFrom := q.doneAt + 640
        callDue := if x.stepB n = 0 then none else some (q.doneAt + 640 + x.stepB n * 640) }) u []) ∧
    (∀ p : Fin 5, q.callPair = some p.val → x.clk.faulted = false → x.reaches (.core p) (R.seqCoreDone n) 1#32 = true →
      (∀ d, q.callDue = some d → x.clk.now / 64 ≤ d / 64) →
      ∃ u, exec (.coreDone t (.core p) n) s = .next u ∧
        stepsTo u (.ok 0#64) (ended (max x.clk.now q.callFrom) (max x.clk.now q.callFrom - q.callFrom))) ∧
    (∀ (p : Fin 5) (who : Initiator), q.callPair = some p.val → who ≠ .core p → x.reaches who (R.seqCoreDone n) 1#32 = true →
      ∃ u, exec (.coreDone t who n) s = .next u ∧ x.framed { x with bus := .ok 0#64 } u []) ∧
    (x.stepReady n 11 = true →
      (q.doneAt + 640 < q.sampleAt + x.stepB n * 640 → ∃ u, exec (.wait t n) s = .next u ∧
        x.framed (x.setSeq n { q with waitDue := some (q.sampleAt + x.stepB n * 640) }) u []) ∧
      (q.sampleAt + x.stepB n * 640 ≤ q.doneAt + 640 → ∃ u, exec (.wait t n) s = .next u ∧
        stepsTo u x.bus (ended (q.doneAt + 640) q.callWait))) ∧
    (∀ d, q.waitDue = some d → d ≤ x.clk.now → x.clk.faulted = false → ∃ u, exec (.waitEnd t n) s = .next u ∧
        stepsTo u x.bus (ended d q.callWait))) ∧
  (∀ (t : Nat) (n : Fin 4) (s : State), let x := s.upTo t; let q := x.seq n; let j := x.latchRun n (x.seqStepNo n + 1)
    (∀ p d, q.callPair = some p → q.callDue = some d → d ≤ x.clk.now → x.clk.faulted = false →
      let ended (by_ : Option Nat) : SeqSt := { q with
        doneAt := d + j * 640, callWait := d - q.callFrom, callPair := none, callDue := none, waitDue := none, waitGrp := false, toPair := by_ }
      (d / 64 < x.clk.now / 64 → ∃ u, exec (.coreTimeout t n) s = .next u ∧
        x.framed { x with seqs := u.seqs, evs := u.evs, irq := u.irq } u [R.seqStatus n] ∧
        u.rdB (R.seqStatus n) 2 = true ∧ u.seqStepNo n = (x.seqStepNo n + 1 + j) % 64 ∧ u.seq n = ended none ∧
        (tabGet (fun _ => Ev.init) u.evs (4 + n)).code = 2) ∧
      (d / 64 = x.clk.now / 64 → ∃ u, exec (.coreTimeout t n) s = .next u ∧
        x.framed { x with seqs := u.seqs, prot := { x.prot with inb := u.prot.inb } } u [R.seqStatus n] ∧
        u.rdB (R.seqStatus n) 2 = x.rdB (R.seqStatus n) 2 ∧ u.seqStepNo n = (x.seqStepNo n + 1 + j) % 64 ∧ u.seq n = ended (some p) ∧
        ((d / 64 + 1) * 64, Soon.coreTimeout n) ∈ u.prot.inb)) ∧
    (∀ p : Fin 5, q.callPair = none → q.toPair = some p.val → x.reaches (.core p) (R.seqCoreDone n) 1#32 = true →
      ∃ u, exec (.coreDone t (.core p) n) s = .next u ∧
        x.framed { x.setSeq n { q with toPair := none } with prot := { x.prot with inb := u.prot.inb }, bus := .ok 0#64 } u [] ∧
        ∀ e, e ∈ u.prot.inb ↔ e ∈ x.prot.inb ∧ e.2 ≠ .coreTimeout n) ∧
    (x.stepReady n 0 = true → x.twinOn = false → ∃ u, exec (.end_ t n) s = .next u ∧
        x.framed (x.setSeq n { q with endAt := some q.doneAt }) u []))

/-- The steps of the units take 20 ns and their own time after the step before them, and do what the unit does (R35, Table 2.13, R61, R121,
R153, R229). `COMMIT` and `EMIT` leave their results pending, and with `POST` take their own time (R35, R37, R221). A `LOOP_GROUP` step is
judged at the end of the fabric cycle in which its dispatch ends: it takes the engine if this is free and no other step comes before it, for
its group's time; else it waits, and takes the engine once this is free (R106, R107). -/
def Obligations.UnitStepsTakeTheirTime : Prop :=
  (∀ (t : Nat) (n : Fin 4) (s : State), let x := s.upTo t; let q := x.seq n
    let ended (own : Nat) : SeqSt := { q with
      doneAt := q.doneAt + 640 + own + x.latchRun n (x.seqStepNo n + 1) * 640, callPair := none, callDue := none, waitDue := none, waitGrp := false }
    (x.stepReady n 2 = true → ∃ u, exec (.filterClose t n) s = .next u ∧ (x.setSeq n (ended (x.filterClose n).2)).pacedAs u ∧
      u.sig = (x.filterClose n).1.sig ∧ u.sdf = (x.filterClose n).1.sdf) ∧
    (x.stepReady n 3 = true → ∃ u, exec (.vector t n) s = .next u ∧ (x.setSeq n (ended (1580 * 32))).pacedAs u ∧
      u.sig = (x.vectorStep n (x.stepB n % 4)).sig ∧ u.vecs = (x.vectorStep n (x.stepB n % 4)).vecs) ∧
    (x.stepReady n 5 = true → ∃ u, exec (.gfe t n) s = .next u ∧ (x.setSeq n (ended (990 * 64))).pacedAs u ∧
      u.sig = (x.gfeStep n).sig ∧ u.gfes = (x.gfeStep n).gfes ∧ u.snd = (x.gfeStep n).snd) ∧
    (x.stepReady n 6 = true → ∃ u, exec (.modulate t n) s = .next u ∧
      (x.setSeq n (ended (300 * 32 + popcount 7 (x.stepB n % 128) * (240 * 32)))).pacedAs u ∧
      u.legs = (x.modulateStep n (x.stepB n % 128)).legs ∧ u.sig = (x.modulateStep n (x.stepB n % 128)).sig)) ∧
  (∀ (t : Nat) (n : Fin 4) (s : State), let x := s.upTo t; let q := x.seq n
    let ended (own : Nat) : SeqSt := { q with
      doneAt := q.doneAt + 640 + own + x.latchRun n (x.seqStepNo n + 1) * 640, callPair := none, callDue := none, waitDue := none, waitGrp := false }
    (x.stepReady n 7 = true → ∃ u, exec (.commit t n) s = .next u ∧
      (x.setSeq n { ended (60 * 32 + (x.ownedSlices n).length * 640) with commitPend := true }).pacedAs u ∧
      u.legs = (x.commitStep n).legs ∧ u.slices = (x.commitStep n).slices) ∧
    (x.stepReady n 8 = true → ∃ u, exec (.emit t n) s = .next u ∧
      (x.setSeq n { ended (10 * 32 + (x.threadLinks n).length * (10 * 32)) with emitPend := true }).pacedAs u ∧ u.links = x.links ∧ u.legs = x.legs) ∧
    (x.stepReady n 9 = true → ∃ u, exec (.post t n) s = .next u ∧
      (x.setSeq n { ended (b2n (natBit (x.stepB n) 0) * (40 * 32) + b2n (natBit (x.stepB n) 1) * (340 * 32)) with
        posted := q.posted || (natBit (x.stepB n) 1 && x.twinOn) }).pacedAs u)) ∧
  (∀ (t : Nat) (n : Fin 4) (corr : Nat) (bad : List (Fin 512 × Option (Fin 16))) (s : State), let x := s.upTo t; let q := x.seq n
    let a := fabCeil (q.doneAt + 640)
    let ended (m k : Nat) : SeqSt := { x.seq m with
      doneAt := k + x.latchRun m (x.seqStepNo m + 1) * 640, callPair := none, callDue := none, waitDue := none, waitGrp := false }
    let free := x.ce.until_ ≤ a ∧ x.ce.queue = [] ∧ x.groupFirst n a = true
    (x.stepReady n 4 = true → a ≤ x.clk.now → free → ∃ u, exec (.loopGroup t n corr bad) s = .next u ∧
      (x.setSeq n (ended n (a + x.groupTime (x.stepA n)))).pacedAs u ∧ u.ce.owner = n.val ∧ u.ce.until_ = a + x.groupTime (x.stepA n)) ∧
    (x.stepReady n 4 = true → a ≤ x.clk.now → ¬free → ∃ u, exec (.loopGroup t n corr bad) s = .next u ∧
      x.framed { x.setSeq n { q with waitGrp := true } with ce := { x.ce with queue := x.ce.queue ++ [(n.val, a / 64)] } } u []) ∧
    (x.stepReady n 4 = false ∨ x.clk.now < a → ∃ u, exec (.loopGroup t n corr bad) s = .next u ∧ x.framed x u []) ∧
    (x.ceHead = none → ∃ u, exec (.loopGroupGrant t corr bad) s = .next u ∧ x.framed x u []) ∧
    (∀ m c, x.ceHead = some (m, c) → let y := fabCeil (max x.ce.until_ (c * 64)); let k := y + x.groupTime (x.stepA m)
      (y ≤ x.clk.now → x.clk.faulted = false → x.groupFirst m (c * 64) = true → ∃ u, exec (.loopGroupGrant t corr bad) s = .next u ∧
        (x.setSeq m (ended m k)).pacedAs u ∧ u.ce.owner = m ∧ u.ce.until_ = k ∧ u.ce.queue = x.ce.queue.filter (fun e => e.1 != m)) ∧
      (x.clk.now < y ∨ x.clk.faulted = true ∨ x.groupFirst m (c * 64) = false → ∃ u, exec (.loopGroupGrant t corr bad) s = .next u ∧
        x.framed x u [])))

/-- A period is on time only if `END` was reached at least one fabric cycle before the sample instant that ends it (R38). -/
def Obligations.EndInTheSameFabricCycleIsLate : Prop :=
  ∀ (s : State) (n : Fin 4), s.onTime n = true → ∃ e, (s.seq n).endAt = some e ∧ e / 64 + 1 ≤ s.clk.now / 64

/-- At a sample instant the ending period is judged, and the next one starts with step 1 to come 20 ns on; a late one is counted (R20, R33,
R37–R39). A sequencer that is to stop stops; one whose start was accepted a period ago starts. -/
def Obligations.SampleInstantsJudgeAndStartPeriods : Prop :=
  ∀ (t : Nat) (n : Fin 4) (s : State), let x := s.upTo t; let q := x.seq n
    let starts (u : State) : Prop :=
      (u.seq n).sampleAt = x.clk.now ∧ (u.seq n).doneAt = x.clk.now + (1 + x.latchRun n 1) * 640 ∧ (u.seq n).endAt = none ∧ (u.seq n).commitPend = false ∧
        (u.seq n).periods = (if q.everRun then q.periods + 1 else 0) % 2 ^ 32 ∧ (u.seq n).samples = q.samples + 1 ∧
        u.clk = x.clk ∧ u.mem = x.mem ∧ ∀ m, m ≠ n.val → u.seq m = x.seq m
    let noMirror := (x.mirrorsDue n ((if q.everRun then q.periods + 1 else 0) % 2 ^ 32) (x.seqRuns n)).1 = []
    (x.isSample n = false ∨ x.clk.faulted = true → ∃ u, exec (.sampleInstant t n) s = .next u ∧ x.framed x u []) ∧
    (x.isSample n = true → x.clk.faulted = false → noMirror →
      (x.seqRuns n = true → q.stopPend = false → ∃ u, exec (.sampleInstant t n) s = .next u ∧ starts u ∧ (u.seq n).first = false) ∧
      (x.seqRuns n = true → q.stopPend = true → ∃ u, exec (.sampleInstant t n) s = .next u ∧
        u.seqRuns n = false ∧ u.rdB R.sysState (12 + n) = false ∧ (u.seq n).stopPend = false ∧ u.clk = x.clk) ∧
      (x.seqRuns n = false → (∃ k, q.startAt = some k ∧ k + x.seqP n ≤ x.clk.now) → ∃ u, exec (.sampleInstant t n) s = .next u ∧
        starts u ∧ u.seqRuns n = true ∧ u.rdB R.sysState (12 + n) = true ∧ (u.seq n).first = true ∧ (u.seq n).startAt = none) ∧
      (x.seqRuns n = false → (∀ k, q.startAt = some k → x.clk.now < k + x.seqP n) → ∃ u, exec (.sampleInstant t n) s = .next u ∧
        u.seqRuns n = false ∧ (u.seq n).startAt = q.startAt ∧ (u.seq n).samples = q.samples + 1 ∧ u.clk = x.clk))

/-- The write of a signal by its declared writer reaches the fill copy of a thread-domain signal, and a common-domain one at once; any other
write is ignored, and `SEQ_ERR` says so (R42). -/
def Obligations.ForeignSignalWritesAreIgnored : Prop :=
  ∀ (t : Nat) (who : Initiator) (i : Fin 4096) (v : Word) (q : Qual) (s : State), let x := s.upTo t
    (x.sigMayWrite who i = false → ∃ u, exec (.signalWrite t who i v q) s = .next u ∧ x.framed x u [R.seqErr] ∧
      u.rdB R.seqErr 31 = true ∧ (x.rdB R.seqErr 31 = false → u.rdF R.seqErr 11 0 = i.val)) ∧
    (x.sigMayWrite who i = true → x.sigForce i = none → x.sigDomain i < 4 → ∃ u, exec (.signalWrite t who i v q) s = .next u ∧
      x.framed { x with sig := { x.sig with fill := u.sig.fill } } u [] ∧ u.sigFill i = some ⟨v, qWritten q⟩ ∧
      ∀ j : Nat, j ≠ i → u.sigFill j = x.sigFill j) ∧
    (x.sigMayWrite who i = true → x.sigForce i = none → 4 ≤ x.sigDomain i → x.commonPair i = none →
      ∃ u, exec (.signalWrite t who i v q) s = .next u ∧ x.pacedAs u ∧ u.sigStable i = ⟨v, qWritten q⟩ ∧
        ∀ j : Nat, j ≠ i → u.sigStable j = x.sigStable j) ∧
    (x.sigMayWrite who i = true → x.sigDomain i < 4 → ∃ p, x.sigPair who = some p ∧ (x.seq (x.sigDomain i)).callPair = some p) ∧
    (x.sigMayWrite who i = true → ∃ p, x.sigPair who = some p ∧ fieldOf (x.sigDecl i) 11 0 = p ∧ i.val < 4064)

/-- In run state a loss of the reference, of lock, or of the root frequency stops the sequencers and demands STO; `SAFE_OSC` alone stops
nothing until its grace is over, when every thread is blocked (R29–R31). -/
def Obligations.ClockFaultsStopTheSequencers : Prop :=
  ∀ (t count : Nat) (s : State), let x := s.upTo t
    let stopped (u : State) : Prop := u.clk = { x.clk with faulted := true } ∧ (∀ n : Fin 4, (u.seq n).startAt = none) ∧
      u.rdB R.protStatus 27 = true ∧ u.anyHold = true ∧ u.mem = x.mem
    let bad := ¬(4600 ≤ count ∧ count ≤ 5400)
    let alone := x.rdB R.cruStatus 0 = false ∧ x.rdB R.cruStatus 4 = true
    (x.rdF R.sysState 2 0 = 3 →
      (∃ u, exec (.refLoss t) s = .next u ∧ stopped u ∧ u.rdB R.cruStatus 0 = true) ∧
      (x.rdB R.cruStatus 4 = true → ∃ u, exec (.pllUnlock t) s = .next u ∧ stopped u ∧ u.rdB R.cruStatus 1 = true ∧ u.rdB R.cruStatus 4 = false) ∧
      (x.rdB R.cruStatus 4 = false → ∃ u, exec (.pllUnlock t) s = .next u ∧ x.framed x u []) ∧
      (bad → ¬alone → ∃ u, exec (.clockMonitorWindow t count) s = .next u ∧ stopped u ∧ u.rdB R.cruStatus 2 = true)) ∧
    (x.rdF R.sysState 2 0 ≠ 3 → ∃ u, exec (.refLoss t) s = .next u ∧ x.framed x u [R.cruStatus] ∧
      u.rd R.cruStatus = withBit (x.rd R.cruStatus) 0 true) ∧
    (¬bad → ∃ u, exec (.clockMonitorWindow t count) s = .next u ∧ x.framed x u []) ∧
    (bad → alone → ∃ u, exec (.clockMonitorWindow t count) s = .next u ∧
      x.framed { x with clk := { x.clk with safeOsc := some (x.clk.safeOsc.getD x.clk.now) } } u [R.cruStatus, R.smonStatus] ∧
        u.rd R.cruStatus = withBit (x.rd R.cruStatus) 3 true ∧ u.rd R.smonStatus = withBit (x.rd R.smonStatus) 30 true) ∧
    (∀ k, x.rdB R.cruStatus 3 = true → x.clk.safeOsc = some k →
      (k + x.clk.grace ≤ x.clk.now → ∃ u, exec (.safeOscGrace t) s = .next u ∧ u.clk = { x.clk with safeForced := true } ∧
        ∀ n : Fin 4, x.threadHere n = true → u.forceOf n = max 1 (x.forceOf n) ∧ (x.forceOf n = 0 → u.rdF (R.smonForce n) 23 16 = 10)) ∧
      (x.clk.now < k + x.clk.grace → ∃ u, exec (.safeOscGrace t) s = .next u ∧ x.framed x u [])) ∧
    (x.rdB R.cruStatus 3 = false ∨ x.clk.safeOsc = none → ∃ u, exec (.safeOscGrace t) s = .next u ∧ x.framed x u [])

/-- Register accesses are 32 bits wide and aligned, and any other ends in a bus error without effect (R4); reserved bits and unlisted
addresses ignore what is written (R5, R6); Lagoon takes every size; `SYS_LOCK` is set by a write of 1 (R8). While `SYS_LOCK` is set, a write
to a LOCK field completes without error and changes nothing (R8). A W1C bit that hardware set in an earlier cycle of its block's clock is
cleared by a write of 1; one set in the same cycle stays 1 (R7). -/
def Obligations.WritesFollowTheAccessCodes : Prop :=
  (∀ (t : Nat) (who : Initiator) (a : BitVec 40) (size : Size) (d : Dword) (s : State), let x := s.upTo t
    (isReg a.toNat = true → (size ≠ .b4 ∨ a.toNat % 4 ≠ 0) → ∃ u, exec (.registerWrite t who a size d) s = .next u ∧
      x.framed { x with bus := .err } u []) ∧
    (∀ r, x.reaches who a.toNat (d.setWidth 32) = true → isReg a.toNat = true → a.toNat % 4 = 0 → blockExists (a.toNat / 0x100000) = true →
      findRoute (writeRoutes (a.toNat / 0x100000)) a.toNat = none → a.toNat ∉ forceRegs → regRow a.toNat = some r → r.w1c = 0 → r.lock = 0 →
      ∃ u, exec (.registerWrite t who a .b4 d) s = .next u ∧ x.framed { x with bus := .ok 0#64 } u [a.toNat] ∧
        u.rd a.toNat = (x.rd a.toNat &&& ~~~ wordN r.rw) ||| (d.setWidth 32 &&& wordN r.rw)) ∧
    (x.mayAccess who true = true → 0x08000000 ≤ a.toNat → a.toNat + size.bytes ≤ 0x09000000 → x.mem.bad = [] →
      ∃ u, exec (.registerWrite t who a size d) s = .next u ∧ x.framed { x with mem := u.mem, bus := .ok 0#64 } u [] ∧
        u.bytes a.toNat size.bytes = bytesLE size.bytes d.toNat ∧ ∀ b, b < a.toNat ∨ a.toNat + size.bytes ≤ b → u.byte b = x.byte b) ∧
    (x.reaches who R.sysLock 1#32 = true → ∃ u, exec (.sysLockSet t who) s = .next u ∧ x.framed { x with bus := .ok 0#64 } u [R.sysLock] ∧
      u.rd R.sysLock = withBit (x.rd R.sysLock) 0 true)) ∧
  (∀ (t : Nat) (who : Initiator) (a : BitVec 40) (d : Dword) (s : State), let x := s.upTo t
    ∀ r, x.rdB R.sysLock 0 = true → x.reaches who a.toNat (d.setWidth 32) = true → isReg a.toNat = true → a.toNat % 4 = 0 →
      blockExists (a.toNat / 0x100000) = true → findRoute (writeRoutes (a.toNat / 0x100000)) a.toNat = none → a.toNat ∉ forceRegs →
      regRow a.toNat = some r → r.rw = 0 → r.w1c = 0 → ∃ u, exec (.registerWrite t who a .b4 d) s = .next u ∧
        x.framed { x with bus := .ok 0#64 } u []) ∧
  (∀ (s : State) (a i : Nat) (w : Word) (r : RegRow), regRow a = some r → i < 32 → bitOf (wordN r.w1c) i = true → bitOf (wordN r.rw) i = false →
    bitOf (wordN r.lock) i = false → bitOf w i = true →
      (bitOf (s.raisedNow a) i = false → (s.storeReg a w).rdB a i = false) ∧
      ((s.raise a i).storeReg a w).rdB a i = true)

/-! ### Delta-sigma chains and SAR converters -/

/-- A bit enters an enabled chain that captures, at its own capture, and completes a CIC output every R bits (R46, R47, R49–R51); bits enter
one after the other, and one that is not yet captured does not. A FIR or resampler output joins the chain's outputs, its MAC operations are
counted, corrected coefficients are counted in `SDF_ERR`, and an output that saturated is flagged (R55, R57, R59, R64). A chain releases an
output at its represented instant plus its latency, and shows its instant in `TS`; one that was never computed is released as the previous
value, with `MAC_OVER` (R60, R65). The detectors take each FIR output once: peak, square, envelope and flags (R66). -/
def Obligations.ChainsComputeAndReleaseOutputs : Prop :=
  (∀ (t : Nat) (i : Fin 112) (b : Bool) (bits : List Bool) (s : State), let e := s.capAt i (s.chain i).n; let x := s.upTo e; let c := x.chain i
    let y := x.feedBit i b
    let quiet := y.stuckJudge i e = y ∧ y.pfJudge i e true = y ∧ y.pfJudge i e false = y ∧ y.dcChainBit i e = y
    (s.capturing i = true → quiet → (∀ a ∈ x.prot.inb, e < a.1) → ∃ u, exec (.cicOutput e i [b]) s = .next u ∧
      x.framed { x with sdf := u.sdf, prot := u.prot } u ([R.sdfChPfVal i, R.sdfChStatus i] ++ (List.range 4).map R.protThrVdc) ∧
      (u.chain i).n = c.n + 1 ∧ (u.chain i).last = some b ∧ (∀ j : Nat, j ≠ i → u.chain j = x.chain j) ∧
      (0 < x.chR i → c.n % x.chR i + 1 = x.chR i → ((u.chain i).cic.head?).map (·.j) = some (c.n / x.chR i))) ∧
    (s.capturing i = true → e ≤ t → exec (.cicOutput t i (b :: bits)) s = exec (.cicOutput t i bits) (x.bitIn i b)) ∧
    (s.capturing i = false ∨ t < e ∨ bits = [] → ∃ u, exec (.cicOutput t i bits) s = .next u ∧ (s.upTo t).framed (s.upTo t) u [])) ∧
  (∀ (t : Nat) (i : Fin 112) (corr : Nat) (o : FiltOut) (s : State), let x := s.upTo t; let c := x.chain i
    let flagged (u : State) : Prop :=
      x.framed { x with sdf := u.sdf } u [R.sdfErr, R.sdfMac, R.sdfChStatus i] ∧
        u.rd R.sdfErr = withField (x.rd R.sdfErr) 29 22 (min 255 (x.rdF R.sdfErr 29 22 + corr)) ∧
        u.rd (R.sdfChStatus i) = (if o.sat then withBit (x.rd (R.sdfChStatus i)) 3 true else x.rd (R.sdfChStatus i)) ∧
        ∀ j : Nat, j ≠ i → u.chain j = x.chain j
    (x.chEn i = true → x.firEn i = true → x.firCompute i c.firNext = some o → o.ecc = false → ∃ u, exec (.firOutput t i corr []) s = .next u ∧
      flagged u ∧ u.chain i = { c with fir := (o :: c.fir).take 64, firNext := c.firNext + 1 } ∧
        u.sdf.used = (if x.sdf.frame = (x.tb / 32000).toNat then x.sdf.used else 0) + x.firN i) ∧
    (x.chEn i = true → x.rsMode i ≠ 0 → x.rsCompute i c.rsNext = some o → o.ecc = false → ∃ u, exec (.resamplerOutput t i corr []) s = .next u ∧
      flagged u ∧ u.chain i = { c with rs := (o :: c.rs).take 64, rsNext := x.rsAfter i c.rsNext } ∧
        u.sdf.used = (if x.sdf.frame = (x.tb / 32000).toNat then x.sdf.used else 0) + 2 * x.rsTaps i) ∧
    (∀ w : Fin 16384, x.chEn i = true → x.firEn i = true → x.firCompute i c.firNext = some o → x.firBase i ≤ w → w < x.firBase i + x.firN i →
      ∃ u, exec (.firOutput t i corr [w]) s = .next u ∧ u.rdB R.sdfErr 30 = true ∧ u.coefBad w 1 = true ∧
        ((u.chain i).fir.head?).map (·.ecc) = some true ∧ u.rdB (R.sdfChStatus i) 4 = true)) ∧
  (∀ (t : Nat) (i : Fin 112) (s : State), let x := s.upTo t; let c := x.chain i
    let inst := if x.rsMode i = 0 then x.firInst i c.relF else c.relTau
    let out := if x.rsMode i = 0 then c.fir.find? (fun o => o.f == c.relF) else c.rs.find? (fun o => o.inst == inst)
    x.chEn i = true → inst + x.chLat i ≤ x.tb → x.chThread i ≠ 7 →
      (∀ o, out = some o → ∃ u, exec (.chainRelease t i) s = .next u ∧ x.pacedAs u ∧
        ((u.chain i).rel.head?).map (fun r => (r.inst, r.v)) = some (inst, o.v) ∧ u.rd (R.sdfChTs i) = wordOf inst) ∧
      (out = none → ∃ u, exec (.chainRelease t i) s = .next u ∧ x.pacedAs u ∧
        ((u.chain i).rel.head?).map (fun r => (r.inst, r.v)) = some (inst, ((c.rel.head?).map (·.v)).getD 0) ∧
        u.rd (R.sdfChTs i) = wordOf inst ∧ u.rdB R.sdfErr 31 = true)) ∧
  (∀ (t : Nat) (i : Fin 112) (s : State), let x := s.upTo t; let c := x.chain i
    x.chEn i = true → x.firInst i c.detF + x.chLat i - x.rsLat i ≤ x.tb → x.chThread i ≠ 7 →
      (∀ o, c.fir.find? (fun o => o.f == c.detF) = some o → ∃ u, exec (.detectorTake t i) s = .next u ∧
        x.framed { x with sdf := u.sdf } u [] ∧ (u.chain i).detF = c.detF + 1 ∧
        (u.chain i).det.peak = some (match c.det.peak with | some p => (min p.1 o.v, max p.2 o.v) | none => (o.v, o.v)) ∧
        (u.chain i).det.flags = Nat.lor c.det.flags (x.relQual i o).toNat ∧ ∀ j : Nat, j ≠ i → u.chain j = x.chain j) ∧
      (c.fir.find? (fun o => o.f == c.detF) = none → ∃ u, exec (.detectorTake t i) s = .next u ∧
        x.framed (x.setChain i { c with detF := c.detF + 1 }) u []))

/-- A run of `STUCK_BITS` equal bits sets `STUCK` and starts the source of the chain, which reaches the protection block 20 ns after the
capture; `RECOVER` clean bits end both, and start the chain afresh (R49, R60). A level of the protection filter that has held for its `DEB`
bits fires, and ends with its condition; its source reaches the protection block 20 ns after the capture of the bit (R67, R68). A restore of
an excluded input arms its rejoin and starts its count afresh (R99); `FORCE` reads 1 from then on and brings an enabled spare into service
(R102). -/
def Obligations.StreamsAndLevelsAreSupervised : Prop :=
  (∀ (i : Fin 112) (b : Bool) (s : State), let e := s.capAt i (s.chain i).n; let x := s.upTo e; let y := x.feedBit i b
    s.capturing i = true → (∀ a ∈ x.prot.inb, e < a.1) →
      (y.rdF (R.sdfChMon i) 25 16 ≤ (y.chain i).run → y.rdB (R.sdfChStatus i) 1 = false →
        ∃ u, exec (.stuck e i [b]) s = .next u ∧ x.pacedAs u ∧ u.rdB (R.sdfChStatus i) 1 = true ∧ u.rdB (R.sdfChStatus i) 2 = true ∧
          (e + 640, Soon.src (224 + i.val) true) ∈ u.prot.inb) ∧
      (y.rdB (R.sdfChStatus i) 1 = true → y.rdF (R.sdfChMon i) 9 0 ≤ (y.chain i).since → 0 < (y.chain i).since →
        ∃ u, exec (.stuckClear e i [b]) s = .next u ∧ x.pacedAs u ∧ u.rdB (R.sdfChStatus i) 1 = false ∧ u.rdB (R.sdfChStatus i) 7 = false ∧
          (e + 640, Soon.src (224 + i.val) false) ∈ u.prot.inb ∧ (u.chain i).clean = max (y.chain i).n (y.edgeAfter i e))) ∧
  (∀ (i : Fin 112) (trip b : Bool) (s : State), let e := s.capAt i (s.chain i).n; let x := s.upTo e; let y := (x.feedBit i b).stuckJudge i e
    let c := y.chain i
    let cnt := if trip then c.trip else c.warn
    let on := if trip then c.tripOn else c.warnOn
    let deb := if trip then y.rdF (R.sdfChPf i) 11 8 else y.rdF (R.sdfChPf i) 3 0
    let src := if trip then i.val else 112 + i.val
    let onIn (u : State) : Bool := if trip then (u.chain i).tripOn else (u.chain i).warnOn
    s.capturing i = true → (∀ a ∈ x.prot.inb, e < a.1) →
      (on = false → 0 < cnt → deb ≤ cnt → ∃ u, exec (.pfFire e i trip [b]) s = .next u ∧ x.pacedAs u ∧ onIn u = true ∧
        u.rdB (R.sdfChStatus i) (if trip then 5 else 6) = true ∧ (e + 640, Soon.src src true) ∈ u.prot.inb) ∧
      (on = true → cnt = 0 → ∃ u, exec (.pfClear e i trip [b]) s = .next u ∧ x.pacedAs u ∧ onIn u = false ∧
        (e + 640, Soon.src src false) ∈ u.prot.inb)) ∧
  (∀ (t : Nat) (who : Initiator) (p : Fin 128) (j : Fin 16) (s : State), let x := s.upTo t; let m := x.pair p
    (x.reaches who (R.seqPairCtrl p) 1#32 = true → x.pairEn p = true → x.pairExcl p false = true → ∃ u, exec (.restoreA t who p) s = .next u ∧
      x.framed { x.setPair p { m with resA := true, rejA := 0 } with bus := .ok 0#64, keep := u.keep } u [] ∧
      ∀ n : Fin 4, x.pairThread p ≠ n → u.kept n = x.kept n) ∧
    (x.reaches who (R.seqPairCtrl p) 2#32 = true → x.pairEn p = true → x.pairExcl p true = true → ∃ u, exec (.restoreB t who p) s = .next u ∧
      x.framed { x.setPair p { m with resB := true, rejB := 0 } with bus := .ok 0#64, keep := u.keep } u [] ∧
      ∀ n : Fin 4, x.pairThread p ≠ n → u.kept n = x.kept n) ∧
    (x.reaches who (R.seqSub j) 0x10000000#32 = true →
      (x.subEn j = true → x.subActive j = false → ∃ u, exec (.subForce t who j) s = .next u ∧ ({ x with bus := .ok 0#64 } : State).pacedAs u ∧
        u.rd (R.seqSub j) = withBit (withBit (x.rd (R.seqSub j)) 28 true) 30 true ∧ (tabGet (fun _ => Ev.init) u.evs 8).code = 0x100 + j.val) ∧
      (x.subEn j = false ∨ x.subActive j = true → ∃ u, exec (.subForce t who j) s = .next u ∧
        x.framed { x with bus := .ok 0#64 } u [R.seqSub j] ∧ u.rd (R.seqSub j) = withBit (x.rd (R.seqSub j)) 28 true)))

/-- A trigger of an ungrouped converter waits for the next SAR edge at least 4 ns on; written and timed triggers alike (R71, R79, R80). At
its start edge a regular trigger starts the sequence of an idle converter, and is counted in `REG_OVERRUN` while the sequence runs (R81); on
the edge that ends a conversion it waits for that end (R71, R81); an injected trigger goes first (R86). -/
def Obligations.SarTriggersStartSequences : Prop :=
  (∀ (t : Nat) (who : Initiator) (k : Fin 24) (j : Fin 4) (s : State), let x := s.upTo t
    let h := x.sarHw k; let c := x.sar h; let e := x.sarEdge (x.tb - x.tb % 32 + 128)
    x.sarEn k = true → x.sarGroup k = 0 → natBit x.wear.live.sarWait k = false →
      (x.reaches who (R.sarCtrl k) 1#32 = true → e ∉ c.regAt → ∃ u, exec (.sarSwReg t who k) s = .next u ∧
        x.framed { x.setSar h { c with regAt := c.regAt ++ [e] } with bus := .ok 0#64 } u []) ∧
      (x.reaches who (R.sarCtrl k) 2#32 = true → e ∉ c.injAt → ∃ u, exec (.sarSwInj t who k) s = .next u ∧
        x.framed { x.setSar h { c with injAt := c.injAt ++ [e] } with bus := .ok 0#64 } u []) ∧
      (x.pdOn 15 = true → x.rdN (R.sarTimerInterval j) ≠ 0 →
        x.tb / 32 % (x.rdN (R.sarTimerInterval j) : Int) = (x.rdN (R.sarTimerPhase j) : Int) →
        x.rdF (R.sarTrig k) 8 0 = 8 + j → ∃ u, exec (.sarTimer t j) s = .next u ∧ x.pacedAs u ∧ e ∈ (u.sar (u.sarHw k)).regAt)) ∧
  (∀ (t e : Nat) (k : Fin 24) (s : State), let x := s.upTo t; let h := x.sarHw k; let c := x.sar h
    let rest : SarSt := { c with regAt := c.regAt.filter (· != e), injAt := [] }
    x.pdOn 15 = true → x.sarGroup k = 0 → c.injAt = [] → c.regAt.filter (fun e => decide (e ≤ x.clk.now)) = [e] →
      (c.reg = none → c.held = false → c.inj = none → c.calAt = none → c.calReq = none → ∃ u, exec (.sarStartEdge t k) s = .next u ∧
        x.framed { x with sars := u.sars } u [R.sarStatus h] ∧ u.sar h = { rest with reg := some 0, convAt := e, paused := false, again := false } ∧
        u.rdB (R.sarStatus h) 0 = true) ∧
      (∀ d, x.sarDue k = some d → c.reg.isSome = true →
        (e < d → ∃ u, exec (.sarStartEdge t k) s = .next u ∧
          x.framed { x with sars := u.sars } u [R.sarStatus h, R.sarOvr h] ∧ u.sar h = rest ∧ u.rdB (R.sarStatus h) 2 = true ∧
          u.rdF (R.sarOvr h) 15 0 = min 65535 (x.rdF (R.sarOvr h) 15 0 + 1)) ∧
        (d ≤ e → ∃ u, exec (.sarStartEdge t k) s = .next u ∧ x.framed x u [])))

/-- A conversion ends, on its own edge, its acquisition and eight clocks after it started: the corrected code stands in the entry's result
20 ns later, and the next entry, or the end of the sequence, follows on that edge (R70, R71, R74, R75, R78). A calibration is requested by a
write or by its interval, starts while no sequence runs, takes 512 conversion times, and stores the measured offset and gain, unless it
fails; one that starves says so (R87, R88, R90, R91). -/
def Obligations.SarConversionsAndCalibrationsEnd : Prop :=
  (∀ (t i : Nat) (k : Fin 24) (raw : Int) (s : State), let x := s.upTo t; let h := x.sarHw k; let c := x.sar h
    let d := c.convAt + (x.sarAcq k i + 8) * 640
    let a := R.sarRes h i
    let y := x.sarCorrect h (x.rdB (R.sarEnt k i) 24) (if x.rdF (R.sarEnt k i) 31 25 = 94 ∨ x.rdF (R.sarEnt k i) 31 25 = 95 then 0 else raw)
    let w := withBit (withBit (withBit (wordN ((y.1 % 65536).toNat + c.regCnt % 256 * 65536)) 31 c.again) 30 y.2) 29 (qBit (x.sarQual k h) qInvalid)
    x.pdOn 15 = true → x.sarGroup k = 0 → c.inj = none → c.reg = some i → c.injAt = [] → (∀ e ∈ c.regAt, x.clk.now < e) → i < 16 →
      (x.clk.now < d → ∃ u, exec (.sarConversionEnd t k raw) s = .next u ∧ x.framed x u []) ∧
      (d ≤ x.clk.now → x.rdF (R.sarEnt k i) 11 0 = 4095 → i + 1 < x.sarRegLen k → ∃ u, exec (.sarConversionEnd t k raw) s = .next u ∧
        x.framed { x with sars := u.sars, prot := { x.prot with inb := u.prot.inb } } u [a, R.sarStatus h] ∧
        (d + 640 ≤ x.clk.now → u.rd a = w ∧ u.prot.inb = x.prot.inb) ∧
        (x.clk.now < d + 640 → u.rd a = x.rd a ∧ u.prot.inb = soonPut x.prot.inb (d + 640) (.reg a w)) ∧
        u.sar h = { c with reg := some (i + 1), convAt := d, again := false, regTs := (u.sar h).regTs })) ∧
  (∀ (t : Nat) (who : Initiator) (k : Fin 24) (off : Int) (gain : BitVec 16) (s : State), let x := s.upTo t; let h := x.sarHw k; let c := x.sar h
    let ends (b : Nat) : Prop := c.calAt = some b ∧ b + 5120 * 640 ≤ x.clk.now ∧ c.inj = none ∧ c.reg = none ∧ c.injAt = [] ∧ c.regAt = []
    x.sarGroup k = 0 →
      (x.reaches who (R.sarCtrl k) 4#32 = true → x.sarEn k = true → c.calReq = none → ∃ u, exec (.sarCal t who k) s = .next u ∧
        x.framed { x.setSar h { c with calReq := some x.clk.now } with bus := .ok 0#64 } u [R.sarStatus h]) ∧
      (x.pdOn 15 = true → x.sarEn k = true → c.calReq = none → x.rdF (R.sarCalCfg k) 15 0 ≠ 0 →
        c.calEnd + x.rdF (R.sarCalCfg k) 15 0 * second ≤ x.clk.now → ∃ u, exec (.calAuto t k) s = .next u ∧
          x.framed (x.setSar h { c with calReq := some x.clk.now }) u [R.sarStatus h]) ∧
      (∀ b, x.pdOn 15 = true → c.calReq = some b → c.calAt = none → c.inj = none → c.reg = none → c.held = false → c.calAgain = false →
        c.injAt = [] → c.regAt = [] → let e := max (x.sarUp b) c.idleAt
        (e ≤ x.clk.now → ∃ u, exec (.calibrationStart t k) s = .next u ∧ x.framed (x.setSar h { c with calAt := some e }) u [R.sarStatus h] ∧
          u.rdB (R.sarStatus h) 5 = true) ∧
        (x.clk.now < e → ∃ u, exec (.calibrationStart t k) s = .next u ∧ x.framed x u [])) ∧
      (∀ b, x.pdOn 15 = true → ends b → off.natAbs ≤ 64 → ((gain.toNat : Int) - 32768).natAbs ≤ 327 →
        ∃ u, exec (.calibrationEnd t k off gain) s = .next u ∧ x.pacedAs u ∧
          u.rd (R.sarCalRes h) = wordN (gain.toNat * 65536 + (off % 65536).toNat) ∧ u.rdB (R.sarStatus h) 6 = true ∧
          u.rdB (R.sarStatus h) 7 = false ∧ (u.sar h).calReq = none ∧ (u.sar h).calEnd = b + 5120 * 640) ∧
      (∀ b, x.pdOn 15 = true → ends b → (64 < off.natAbs ∨ 327 < ((gain.toNat : Int) - 32768).natAbs) →
        ∃ u, exec (.calibrationEnd t k off gain) s = .next u ∧ x.pacedAs u ∧ u.rd (R.sarCalRes h) = x.rd (R.sarCalRes h) ∧
          u.rdB (R.sarStatus h) 7 = true ∧ (u.sar h).calReq = none) ∧
      (∀ b, x.pdOn 15 = true → c.calReq = some b → b + 100 * msec ≤ x.clk.now → ∃ u, exec (.calStarved t k) s = .next u ∧
        x.framed x u [R.sarStatus h] ∧ u.rd (R.sarStatus h) = withBit (x.rd (R.sarStatus h)) 8 true))

/-! ### Vector units, grid forming and sound -/

/-- A swap is requested, if every context of the thread is valid in the other bank; the sample instant takes it (R118). A vector unit
accepts a start in `OFF` in run state; a stop drops the start and waits for the next evaluation (R139); `ASC_REQ` enters `ASC` from any
other state (R147), and `ASC_EXIT` leaves it for `OFF` unless the speed is high or `ASC` is still asked for (R148). An encoder counts one
for each quadrature step that its filter lets through and notes its instant; a Z edge compares the count with that of the edge before;
without an edge for `SPD_TIMEOUT` the speed is 0 (R131). A serial frame gives the position, and its faults (R132). -/
def Obligations.VectorUnitsAndPositionInterfaces : Prop :=
  (∀ (t : Nat) (who : Initiator) (n : Fin 4) (s : State), let x := s.upTo t
    x.reaches who R.ceBankCtrl (wordN (2 ^ n.val)) = true → x.rdB R.ceBankCtrl n = false →
      ((∀ c ∈ x.threadCtx n, (x.ctxPar (1 - x.bankOf n) c).valid = true) → ∃ u, exec (.bankSwapRequest t who n) s = .next u ∧
        x.framed { x with ce := { x.ce with swapAt := u.ce.swapAt }, bus := .ok 0#64 } u [R.ceBankCtrl] ∧
        u.rd R.ceBankCtrl = withBit (x.rd R.ceBankCtrl) n true ∧ tabGet (fun _ => 0) u.ce.swapAt n = x.clk.now) ∧
      ((∃ c ∈ x.threadCtx n, (x.ctxPar (1 - x.bankOf n) c).valid = false) → ∃ u, exec (.bankSwapRequest t who n) s = .next u ∧
        u.rdB R.ceBankStatus (8 + n) = true ∧ u.rdB R.ceBankCtrl n = false ∧ u.ce.swapAt = x.ce.swapAt)) ∧
  (∀ (t : Nat) (who : Initiator) (u8 : Fin 8) (s : State), let x := s.upTo t; let v := x.vec u8
    let sv := x.rdF (R.vecSig1 u8) 27 16
    let high := x.rdS (R.vecUrLimit u8) * (if sv = 0xFFF then 0 else sval (x.sigStable sv).val) * 2 ^ 28 ≤
      x.rdS (R.vecVratio u8) * v.omega.natAbs * x.rdS (R.vecPsiM u8)
    let kept (y u : State) (as : List Nat) : Prop :=
      x.framed { y with keep := u.keep, bus := .ok 0#64 } u as ∧ ∀ m : Fin 4, m.val ≠ u8.val / 2 → u.kept m = x.kept m
    x.vecEn u8 = true → u8.val % 2 = 0 →
      (x.reaches who (R.vecCtrl u8) 1#32 = true →
        (x.vecState u8 = 0 → x.inRun = true → ∃ u, exec (.vecStart t who u8) s = .next u ∧
          kept (x.setVec u8 { v with startAt := some (v.startAt.getD x.clk.now) }) u [R.vecCtrl u8] ∧
          u.rd (R.vecCtrl u8) = withBit (x.rd (R.vecCtrl u8)) 0 true) ∧
        (x.vecState u8 ≠ 0 ∨ x.inRun = false → ∃ u, exec (.vecStart t who u8) s = .next u ∧
          kept x u [R.vecStatus u8] ∧ u.rd (R.vecStatus u8) = withBit (x.rd (R.vecStatus u8)) 15 true)) ∧
      (x.reaches who (R.vecCtrl u8) 2#32 = true → ∃ u, exec (.vecStop t who u8) s = .next u ∧
        kept (x.setVec u8 { v with startAt := none }) u [R.vecCtrl u8] ∧
        u.rd (R.vecCtrl u8) = withBit (withBit (x.rd (R.vecCtrl u8)) 0 false) 1 true) ∧
      (x.reaches who (R.vecCtrl u8) 8#32 = true → x.vecState u8 ≠ 7 → ∃ u, exec (.ascReq t who u8) s = .next u ∧
        x.framed { x with vecs := u.vecs, keep := u.keep, evs := u.evs, irq := u.irq, bus := .ok 0#64 } u [R.vecStatus u8] ∧
        u.vecState u8 = 7 ∧ (tabGet (fun _ => Ev.init) u.evs (34 + u8)).code = 7) ∧
      (x.reaches who (R.vecCtrl u8) 16#32 = true → x.vecState u8 = 7 →
        (x.ascReq (u8 / 2) = true ∨ high → ∃ u, exec (.ascExit t who u8) s = .next u ∧
          kept x u [R.vecStatus u8] ∧ u.rd (R.vecStatus u8) = withBit (x.rd (R.vecStatus u8)) 16 true) ∧
        (x.ascReq (u8 / 2) = false → ¬high → ∃ u, exec (.ascExit t who u8) s = .next u ∧
          x.framed { x with vecs := u.vecs, keep := u.keep, evs := u.evs, irq := u.irq, bus := .ok 0#64 } u [R.vecStatus u8] ∧ u.vecState u8 = 0))) ∧
  (∀ (t raw : Nat) (k : Fin 4) (a b lowBefore noReturn errBit : Bool) (s : State), let x := s.upTo t; let p := x.pos k
    let st := R.vecPosStatus k
    let T := x.tb - x.tb % 32
    let pos := raw % 2 ^ x.rdF (R.vecPosCfg k) 17 12
    let bad := lowBefore || noReturn || (errBit && x.rdB (R.vecPosCfg k) 28)
    let marked (y u : State) : State := { y with prot := { y.prot with lines := u.prot.lines } }
    (x.posMode k = 1 →
      (x.encFree k 0 = true → p.a ≠ a → p.b = b → ∃ u, exec (.encoderEdge t k a b) s = .next u ∧
        x.framed (marked (x.setPos k { p with a := a, b := b, count := angAdd p.count (if a != b then 1 else -1), edge := some T, quiet := false }) u) u
          [R.vecPosEdgeTs k] ∧ u.rd (R.vecPosEdgeTs k) = wordOf T) ∧
      (x.encFree k 0 = true → x.encFree k 1 = true → p.a ≠ a → p.b ≠ b → ∃ u, exec (.encoderEdge t k a b) s = .next u ∧
        x.framed (marked (x.setPos k { p with a := a, b := b }) u) u [st] ∧ u.rd st = withBit (x.rd st) 2 true) ∧
      (x.encFree k 0 = false → x.encFree k 1 = false → ∃ u, exec (.encoderEdge t k a b) s = .next u ∧ x.framed x u []) ∧
      (x.encFree k 2 = true → x.rdB st 1 = false → ∃ u, exec (.encoderZEdge t k) s = .next u ∧ x.framed (marked x u) u [st, R.vecPosZcount k] ∧
        u.rd st = withBit (x.rd st) 1 true ∧ u.rd (R.vecPosZcount k) = wordN p.count) ∧
      (x.encFree k 2 = true → x.rdB st 1 = true → (((p.count : Int) - x.rdN (R.vecPosZcount k)) % (x.encPerTurn k : Int)) = 0 →
        ∃ u, exec (.encoderZEdge t k) s = .next u ∧ x.framed (marked x u) u []) ∧
      (x.encFree k 2 = false → ∃ u, exec (.encoderZEdge t k) s = .next u ∧ x.framed x u []) ∧
      (∀ e : Int, p.edge = some e → e + x.rdF (R.vecPosSpd k) 23 8 * (10 * usec : Nat) ≤ x.tb → ∃ u, exec (.spdTimeout t k) s = .next u ∧
        x.framed (x.setPos k { p with quiet := true }) u [])) ∧
    (x.posMode k = 2 → x.rdB (R.vecPosCfg k) 29 = false → ∃ u, exec (.ssiFrame t k raw lowBefore noReturn errBit) s = .next u ∧
      x.framed (x.setPos k { p with ssiPos := pos, ssiBad := bad }) u [st] ∧ u.rd st = (if bad then withBit (x.rd st) 3 true else x.rd st)))

/-- A grid-forming engine accepts a start in `OFF` in run state (R163), a stop drops it (R164), a valid parameter set is accepted once, and
an invalid one refused (R177). A black start is accepted in `IDLE` or `DONE`, with the engine `OFF`, a role given and the device in run
state, and refused otherwise (R187); `BS_ABORT` returns to `IDLE` (R192). -/
def Obligations.GridFormingAndBlackStart : Prop :=
  (∀ (t : Nat) (who : Initiator) (n : Fin 4) (s : State), let x := s.upTo t; let st := R.gfeStatus n; let ct := R.gfeCtrl n
    let kept (u : State) (as : List Nat) : Prop := x.framed { x with gfes := u.gfes, keep := u.keep, bus := .ok 0#64 } u as ∧
      ∀ m : Fin 4, m ≠ n → u.gfe m = x.gfe m ∧ u.kept m = x.kept m
    (x.gfeEn n = true → x.reaches who ct 1#32 = true →
      (x.gfeState n = 0 → x.inRun = true → ∃ u, exec (.gfeStart t who n) s = .next u ∧ kept u [ct] ∧
        u.gfe n = { x.gfe n with startAt := some ((x.gfe n).startAt.getD x.clk.now) } ∧ u.rd ct = withBit (x.rd ct) 0 true) ∧
      (x.gfeState n ≠ 0 ∨ x.inRun = false → ∃ u, exec (.gfeStart t who n) s = .next u ∧ kept u [st] ∧
        u.rd st = withBit (x.rd st) 15 true)) ∧
    (x.gfeEn n = true → x.reaches who ct 2#32 = true → ∃ u, exec (.gfeStop t who n) s = .next u ∧ kept u [ct] ∧
      u.gfe n = { x.gfe n with startAt := none } ∧ u.rd ct = withBit (withBit (x.rd ct) 0 false) 1 true) ∧
    (x.reaches who ct 4#32 = true → x.rdB st 12 = false →
      (x.gfeValid n = true → ∃ u, exec (.gfeApply t who n) s = .next u ∧
        x.framed { x with keep := u.keep, gpar := { x.gpar with applyAt := u.gpar.applyAt }, bus := .ok 0#64 } u [ct, st] ∧
        u.rd ct = withBit (x.rd ct) 2 true ∧ u.rd st = withBit (x.rd st) 12 true ∧ tabGet (fun _ => 0) u.gpar.applyAt n = x.clk.now) ∧
      (x.gfeValid n = false → ∃ u, exec (.gfeApply t who n) s = .next u ∧ kept u [st] ∧
        u.rd st = withBit (x.rd st) 20 true))) ∧
  (∀ (t : Nat) (who : Initiator) (n : Fin 4) (s : State), let x := s.upTo t; let ct := R.gfeBsCtrl n; let st := R.gfeBsStatus n
    let may := (x.bsState n = 0 ∨ x.bsState n = 6) ∧ x.gfeState n = 0 ∧ x.rdF (R.gfeBsCfg n) 31 30 ≠ 0 ∧ x.inRun = true
    (x.reaches who ct 1#32 = true →
      (may → ∃ u, exec (.bsStart t who n) s = .next u ∧ x.framed { x with gfes := u.gfes, keep := u.keep, bus := .ok 0#64 } u [ct] ∧
        u.gfe n = { x.gfe n with bsStartAt := some ((x.gfe n).bsStartAt.getD x.clk.now) } ∧ (∀ m : Fin 4, m ≠ n → u.gfe m = x.gfe m ∧ u.kept m = x.kept m) ∧ u.rd ct = withBit (x.rd ct) 0 true) ∧
      (¬may → ∃ u, exec (.bsStart t who n) s = .next u ∧ x.framed { x with keep := u.keep, bus := .ok 0#64 } u [st] ∧
        u.rd st = withBit (x.rd st) 11 true ∧ ∀ m : Fin 4, m ≠ n → u.kept m = x.kept m)) ∧
    (x.reaches who ct 2#32 = true → ∃ u, exec (.bsAbort t who n) s = .next u ∧ ({ x with bus := .ok 0#64 } : State).pacedAs u ∧
      u.bsState n = 0 ∧ (u.gfe n).bsStartAt = none ∧ u.rdB ct 0 = false))

/-- A software frame is accepted while none waits, the modem sends and its type is one of the three (R203); a pop takes the oldest received
frame (R206). A waiting frame becomes live at its chip boundary, and ends after its last chip (R200, R203); a received frame is counted and
queued, unless its check does not fit, its input was unusable or it is the device's own (R198, R206), and a correlator that is off delivers
none. An offset that waits takes effect with the first sample instant at or after its application instant (R208), a `RESYNC` offset ends at
its end (R209), and claims older than `CLAIM_AGE` are forgotten (R207). -/
def Obligations.SoundFramesAndOffsets : Prop :=
  (∀ (t : Nat) (who : Initiator) (s : State), let x := s.upTo t; let ty := x.rdF R.sndTxType 3 0
    let may := x.rdB R.sndStatus 8 = false ∧ x.rdB R.sndCfg 30 = true ∧ x.sndEn = true ∧ (ty = 2 ∨ ty = 3 ∨ ty = 14)
    (x.reaches who R.sndCtrl 1#32 = true →
      (may → ∃ u, exec (.txSend t who) s = .next u ∧ x.framed { x with snd := u.snd, keep := u.keep, bus := .ok 0#64 } u [R.sndStatus] ∧
        u.snd = { x.snd with tx := { x.snd.tx with
          sw := some ⟨ty, x.rdN R.sndTxPayload, if ty = 2 then max 1 (x.rdF R.sndTiming 2 0) else 1, 0⟩ } } ∧
        u.rd R.sndStatus = withBit (x.rd R.sndStatus) 8 true) ∧
      (¬may → ∃ u, exec (.txSend t who) s = .next u ∧ x.framed { x with bus := .ok 0#64 } u [R.sndStatus] ∧
        u.rd R.sndStatus = withBit (x.rd R.sndStatus) 12 true)) ∧
    (x.reaches who R.sndCtrl 2#32 = true → ∃ u, exec (.sndRxPop t who) s = .next u ∧
      x.framed { x with snd := { x.snd with
        fifo := if x.snd.got = some (x.cycleOf R.sndCtrl) then x.snd.fifo else x.snd.fifo.drop 1, got := none }, bus := .ok 0#64 } u [])) ∧
  (∀ (t e est : Nat) (c : Fin 16) (sender : BitVec 12) (ty : BitVec 4) (payload : Word) (crc : BitVec 16) (f : TxFrame) (k : Nat) (s : State),
    let x := s.upTo t
    let nt := x.ntOf x.sndThread (x.tbOf est)
    let own := x.rdF R.sndId 11 0
    let fits := sndCrc (bitsMsb 12 sender.toNat ++ bitsMsb 4 ty.toNat ++ bitsMsb 32 payload.toNat) = crc.toNat
    (x.snd.tx.frame = some f → f.startK = some k →
      (f.live = false → chipAt k ≤ x.tb → ∃ u, exec (.sndFrameStart t) s = .next u ∧
        x.framed { x with snd := { x.snd with tx := { x.snd.tx with frame := some { f with live := true } } }, keep := u.keep } u [R.sndStatus] ∧
        u.rdB R.sndStatus 6 = true) ∧
      (f.live = true ∨ x.tb < chipAt k → ∃ u, exec (.sndFrameStart t) s = .next u ∧ x.framed x u []) ∧
      (chipAt (k + frameChips) ≤ x.tb → f.sw = false → ∃ u, exec (.sndFrameEnd t) s = .next u ∧
        x.framed { x with snd := u.snd, keep := u.keep, evs := u.evs, irq := u.irq } u [R.sndStatus, R.sndCount0] ∧
        u.snd = { x.snd with tx := { x.snd.tx with frame := none, lastSw := false, freeK := k + frameChips + gapChips } } ∧
        u.rdB R.sndStatus 6 = false ∧ u.rdB R.sndStatus 7 = false ∧ u.rdF R.sndCount0 31 16 = min 65535 (x.rdF R.sndCount0 31 16 + 1)) ∧
      (x.tb < chipAt (k + frameChips) → ∃ u, exec (.sndFrameEnd t) s = .next u ∧ x.framed x u [])) ∧
    (x.sndEn = false ∨ x.rdB (R.sndCorr c) 31 = false ∨ x.inTime e est = false →
      ∃ u, exec (.sndFrameReceived t c sender ty payload crc e est) s = .next u ∧ x.framed x u []) ∧
    (x.sndEn = true → x.rdB (R.sndCorr c) 31 = true → x.rdF (R.sndCorr c) 5 0 ≤ 62 → x.inTime e est = true →
      (¬fits → ∃ u, exec (.sndFrameReceived t c sender ty payload crc e est) s = .next u ∧ x.framed x u [R.sndCount1] ∧
        u.rdF R.sndCount1 31 24 = min 255 (x.rdF R.sndCount1 31 24 + 1)) ∧
      (fits → x.spanBad est = true → ∃ u, exec (.sndFrameReceived t c sender ty payload crc e est) s = .next u ∧ x.framed x u [R.sndCount2] ∧
        u.rdF R.sndCount2 31 24 = min 255 (x.rdF R.sndCount2 31 24 + 1)) ∧
      (fits → x.spanBad est = false → sender.toNat = own → ∃ u, exec (.sndFrameReceived t c sender ty payload crc e est) s = .next u ∧
        x.framed x u [R.sndCount1] ∧ u.rdF R.sndCount1 23 16 = min 255 (x.rdF R.sndCount1 23 16 + 1)) ∧
      (fits → x.spanBad est = false → sender.toNat ≠ own → x.snd.fifo.length < 32 → ty.toNat ≠ 1 → ty.toNat ≠ 2 → ty.toNat ≠ 3 →
        ∃ u, exec (.sndFrameReceived t c sender ty payload crc e est) s = .next u ∧
          x.framed { x with snd := { x.snd with fifo := x.snd.fifo ++ [⟨sender.toNat, ty.toNat, c.val, payload.toNat, ntSec nt, ntNs nt⟩]
                                                got := u.snd.got }
                            evs := u.evs
                            irq := u.irq } u [R.sndCount0] ∧ u.rdF R.sndCount0 15 0 = min 65535 (x.rdF R.sndCount0 15 0 + 1)))) ∧
  (∀ (t : Nat) (s : State), let x := s.upTo t; let lim := min x.clk.now (x.seq x.sndThread).sampleAt
    (∃ u, exec (.shiftApply t) s = .next u ∧ x.framed { x with snd := u.snd } u [] ∧
      (∀ (k : Fin 3) (w : SndShift), x.sndWait k = some w →
        (w.at_ ≤ lim → tabGet (fun _ => 0) u.snd.shift k = w.ofs ∧ u.sndWait k = none) ∧
        (lim < w.at_ → tabGet (fun _ => 0) u.snd.shift k = tabGet (fun _ => 0) x.snd.shift k ∧ u.sndWait k = some w)) ∧
      (∀ w : SndShift, x.snd.resyncs = [w] → w.at_ ≤ lim → 0 < w.dur → u.snd.resync = some (w.ofs, w.at_ + w.dur) ∧ u.snd.resyncs = []) ∧
      ((∀ w ∈ x.snd.resyncs, lim < w.at_) → u.snd.resync = x.snd.resync ∧ u.snd.resyncs = x.snd.resyncs)) ∧
    (∀ o e, x.snd.resync = some (o, e) → e ≤ x.clk.now → ∃ u, exec (.resyncEnd t) s = .next u ∧
      x.framed { x with snd := { x.snd with resync := none } } u []) ∧
    (∀ o e, x.snd.resync = some (o, e) → x.clk.now < e → ∃ u, exec (.resyncEnd t) s = .next u ∧ x.framed x u []) ∧
    ∃ u, exec (.claimAgeExpiry t) s = .next u ∧ x.framed { x with snd := { x.snd with
      claims := x.snd.claims.filter (fun c => decide (x.clk.now ≤ c.2.2 + x.rdF R.sndTiming 13 8 * second)) } } u [])

/-! ### PWM -/

/-- At a reload every enabled independent slice of the carrier takes its shadow set, and enters the first dwell of the interval (R216,
R218); at any other instant nothing is taken. A commit of core groups commits the staged set of each of their slices, to the shadow or,
within 4 cycles of the reload, after it, and leaves what other groups have staged (R219, R220). A trigger compare fires at its offset: every
converter that names it takes the trigger (R234, R79); a trip input sets its live and its latched flag, and its source, with the first
change its filter lets through (R235). -/
def Obligations.ReloadsAndCommitsSetTheSlices : Prop :=
  (∀ (t : Nat) (c : Fin 16) (s : State), let x := s.upTo t
    (x.carOn c = true → x.isReload c x.tb = true → ∃ u, exec (.reload t c) s = .next u ∧ x.pacedAs u ∧
      ∀ i : Fin 128, x.slEn i = true → x.slCar i = c → x.slAnpc i = false → (i.val < 84 ∨ ∀ m : Fin 6, x.motCar m ≠ c) →
        (u.slice i).act = (x.slice i).shadow ∧ (u.slice i).shadow = (x.slice i).late.getD (x.slice i).shadow ∧
        (u.slice i).late = none ∧ (u.slice i).from_ = x.clk.now) ∧
    (x.carOn c = false ∨ x.isReload c x.tb = false → ∃ u, exec (.reload t c) s = .next u ∧ x.framed x u [])) ∧
  (∀ (t : Nat) (who : Initiator) (g : BitVec 4) (s : State), let x := s.upTo t
    x.reaches who R.pwmCcommit (g.setWidth 32) = true → ∃ u, exec (.pwmCcommit t who g) s = .next u ∧ ({ x with bus := .ok 0#64 } : State).pacedAs u ∧
      ∀ (i : Fin 128) (v : SliceSet), let l := x.slice i; l.staged = some v →
        (∀ k : Fin 4, g.getLsbD k = true → x.sliceGroup i = some k.val → x.slOwner i = 5 → (u.slice i).staged = none ∧
          ((x.commitLate (x.slCar i) l.from_).1 = false → (u.slice i).shadow = v) ∧
          (x.commitLate (x.slCar i) l.from_ = (true, true) → (u.slice i).late = some v ∧ (u.slice i).shadow = l.shadow ∧
            u.rdB (R.pwmSliceStatus i) 18 = true)) ∧
        (x.slOwner i ≠ 5 ∨ x.sliceGroup i = none → (u.slice i).staged = some v ∧ (u.slice i).shadow = l.shadow)) ∧
  (∀ (t : Nat) (i : Fin 128) (k : Fin 2) (w : Fin 8) (high : Bool) (s : State), let x := s.upTo t
    let free := x.lineFree (32 + w) ((x.rdF (R.pwmTrip w) 7 0 + 1) * 32)
    let hit := x.rdB (trgReg i k) 31 = true ∧ x.carOn (x.slCar i) = true ∧ x.carPos (x.slCar i) x.tb = 32 * x.rdF (trgReg i k) 20 0
    (hit → ∃ u, exec (.trgCompare t i k) s = .next u ∧ x.pacedAs u ∧
      ∀ h : Fin 24, x.sarEn h = true → x.sarGroup h = 0 → natBit x.wear.live.sarWait h = false → x.rdF (R.sarTrig h) 8 0 = 0x100 + 2 * i + k →
        x.sarEdge (x.tb - x.tb % 32 + 128) ∈ (u.sar (u.sarHw h)).regAt) ∧
    (¬hit → ∃ u, exec (.trgCompare t i k) s = .next u ∧ x.framed x u []) ∧
    (x.rdB (R.pwmTrip w) 31 = true → free = true →
      (high = x.rdB (R.pwmTrip w) 30 → x.rdB (R.pwmTrip w) 29 = false → ∃ u, exec (.tripInput t w high) s = .next u ∧ x.pacedAs u ∧
        u.rd (R.pwmTrip w) = withBit (withBit (x.rd (R.pwmTrip w)) 29 true) 28 true ∧ u.srcLive (368 + w) = true) ∧
      (high ≠ x.rdB (R.pwmTrip w) 30 → x.rdB (R.pwmTrip w) 29 = true → ∃ u, exec (.tripInput t w high) s = .next u ∧ x.pacedAs u ∧
        u.rd (R.pwmTrip w) = withBit (x.rd (R.pwmTrip w)) 29 false ∧ u.srcLive (368 + w) = false)) ∧
    (x.rdB (R.pwmTrip w) 31 = false ∨ free = false ∨ x.rdB (R.pwmTrip w) 29 = (high == x.rdB (R.pwmTrip w) 30) →
      ∃ u, exec (.tripInput t w high) s = .next u ∧ x.framed x u []))

/-- A slice whose next dwell has come asks for its state: the switch that is on goes off at once, the other comes on after its dead time; a
pending turn-on comes on when it is due, unless the interlock bars it (R216, R217, R228). The slices of an auxiliary half-bridge move its
gates too. An ANPC leg unit asks its path for the state of each entry as its offset is reached, and goes on along the path when a step's
dead time ends; both do what the path logic says (R223–R225). -/
def Obligations.SlicesAndLegUnitsFollowTheirLists : Prop :=
  (∀ (t : Nat) (i : Fin 128) (s : State), let x := s.upTo t; let l := x.slice i
    let aux := if 84 ≤ i.val ∧ i.val < 102 then [R.auxStatus ((i.val - 84) / 3)] else []
    let kept (u : State) (as : List Nat) : Prop := x.framed { x with slices := u.slices, aux := u.aux } u (as ++ aux) ∧
      (aux = [] → u.aux = x.aux) ∧ ∀ j : Fin 128, j ≠ i → u.slice j = x.slice j
    (∀ g rest, x.slEn i = true → x.slAnpc i = false → l.todo = g :: rest → l.from_ + g.start ≤ x.clk.now → x.sliceHeld i = false →
        (g.state = none → ∃ u, exec (.sliceEdge t i) s = .next u ∧ kept u [] ∧
          (u.slice i).aOn = false ∧ (u.slice i).bOn = false ∧ (u.slice i).req = none ∧ (u.slice i).todo = rest) ∧
        (g.state = some 1 → l.aOn = false → x.clk.now < l.from_ + g.start + x.slDtR i → ∃ u, exec (.sliceEdge t i) s = .next u ∧
          kept u [] ∧ (u.slice i).bOn = false ∧ (u.slice i).aOn = false ∧ (u.slice i).due = some (true, l.from_ + g.start + x.slDtR i))) ∧
    (l.todo = [] ∨ x.sliceHeld i = true ∨ x.slEn i = false → ∃ u, exec (.sliceEdge t i) s = .next u ∧ x.framed x u []) ∧
    (∀ k, l.due = some (true, k) → k ≤ x.clk.now → x.slAnpc i = false → l.onCmd = none → x.ownOn i true = false →
      (l.bOn = false → l.bOffAt + x.slDtR i ≤ k → ∃ u, exec (.deadTimeEnd t i) s = .next u ∧ kept u [] ∧
        (u.slice i).aOn = true ∧ (u.slice i).due = none) ∧
      (l.bOn = true → ∃ u, exec (.deadTimeEnd t i) s = .next u ∧ kept u [R.pwmSliceStatus i, R.pwmLegStatus (i.val / 3)] ∧
        (u.slice i).aOn = l.aOn ∧ u.rdB (R.pwmSliceStatus i) 17 = true ∧ (i.val < 126 → u.rdB (R.pwmLegStatus (i.val / 3)) 10 = true))) ∧
    (l.due = none → ∃ u, exec (.deadTimeEnd t i) s = .next u ∧ x.framed x u [])) ∧
  (∀ (t : Nat) (g : Fin 42) (s : State), let x := s.upTo t; let l := x.leg g
    let aux := if 28 ≤ g.val ∧ g.val < 34 then [R.auxStatus (g.val - 28)] else []
    let kept (u : State) (as : List Nat) : Prop := x.framed { x with legs := u.legs, slices := u.slices, aux := u.aux } u
        (as ++ aux ++ [0, 1, 2].map (fun k => R.pwmSliceStatus (3 * g.val + k))) ∧ (aux = [] → u.aux = x.aux) ∧
      (∀ h : Fin 42, h ≠ g → u.leg h = x.leg h) ∧ ∀ j : Fin 128, j.val / 3 ≠ g → u.slice j = x.slice j
    (∀ e rest, x.slEn (3 * g.val) = true → x.legMode g = 1 → l.todo = e :: rest → l.from_ + e.start ≤ x.clk.now → l.ovr = 0 → l.hold = none →
        (∀ sp, l.path.step = some sp → sp.pair < 3) →
      ∃ u, exec (.legEntry t g) s = .next u ∧ kept u [R.pwmLegStatus g, R.pwmLegCount g] ∧
        u.leg g = { l with todo := rest, path := (requestState (x.pathCfg g) l.path e.state (l.from_ + e.start)).path }) ∧
    (l.ovr ≠ 0 ∨ l.hold.isSome = true ∨ l.todo = [] → ∃ u, exec (.legEntry t g) s = .next u ∧ x.framed x u []) ∧
    (∀ sp, l.path.step = some sp → sp.pair < 3 → sp.due ≤ x.clk.now → l.ovr = 0 → l.hold = none → ∃ u, exec (.legStep t g) s = .next u ∧
      kept u [R.pwmLegStatus g] ∧ u.leg g = { l with path := (finishStep (x.pathCfg g) l.path).path }) ∧
    (l.path.step = none ∨ l.ovr ≠ 0 ∨ l.hold.isSome = true → ∃ u, exec (.legStep t g) s = .next u ∧ x.framed x u []))

/-! ### Driver links and boards -/

/-- What a link sends in its slot, at its start and once (R240): nothing while it is silent, a `HOLDOFF` frame while held off, an `EPOCH`
frame where one is due, and a frame without a command where there is nothing else (R248–R250). An edge becomes eligible `LEAD` before its
instant (R243); a valid upstream frame is captured (R241, R266), an invalid one counted; a link without one for 16 slots is down (R266), and
one with a frame since is not. -/
def Obligations.LinksSendAndReceiveFrames : Prop :=
  (∀ (t : Nat) (l : Fin 32) (s : State), let x := s.upTo t; let k := x.link l; let slot := (x.tb / 6400).toNat
    let sends (type : Nat) (pl : List Byte) : List Byte := mkFrame type (x.linkClaim l) (slot % 65536) pl
    x.wearDownTime l < 10 * second →
    (x.tb % 6400 ≠ 0 ∨ k.slotAt = some x.clk.now → ∃ u, exec (.stadanSlot t l) s = .next u ∧ x.framed x u []) ∧
    (x.tb % 6400 = 0 → k.slotAt ≠ some x.clk.now → x.linkLeg l = none → slot % 1000 ≠ 0 →
      (x.linkSends l = false → ∃ u, exec (.stadanSlot t l) s = .next u ∧ x.framed { x with links := u.links } u [R.stlEdgeNum l] ∧
        (u.link l).lastTx = [] ∧ ∀ j : Fin 32, j ≠ l → u.link j = x.link j) ∧
      (x.linkSends l = true → k.resume = false →
        (k.holdOn = true → k.holdSent < 10 → ∃ u, exec (.stadanSlot t l) s = .next u ∧ x.framed { x with links := u.links } u [] ∧
          u.link l = { k with slotAt := some x.clk.now, lastTx := sends 4 (bytesLE 1 x.holdCode ++ bytesLE 12 0), holdSent := k.holdSent + 1 } ∧
          ∀ j : Fin 32, j ≠ l → u.link j = x.link j) ∧
        (k.holdOn = false → k.state = [] → k.epochDue = true → ∃ u, exec (.stadanSlot t l) s = .next u ∧ x.pacedAs u ∧
          fieldLE (u.link l).lastTx 1 1 = 3 ∧ (u.link l).epochDue = false) ∧
        (∀ c : StateCmd, k.holdOn = false → k.state = [c] → c.sent = 0 → c.decide_ < x.clk.now → ∃ u, exec (.stadanSlot t l) s = .next u ∧
          x.framed { x with links := u.links } u [R.stlCount1 l] ∧ (u.link l).lastTx = sends 2 (x.statePayload c)) ∧
        (k.holdOn = false → k.state = [] → k.epochDue = false → x.edgesToSend l = [] → k.cont = none → slot % 8 ≠ 7 →
          ∃ u, exec (.stadanSlot t l) s = .next u ∧
            x.framed (x.setLink l { k with slotAt := some x.clk.now, lastTx := sends 0 (bytesLE 13 0) }) u [])))) ∧
  (∀ (t at_ : Nat) (l : Fin 32) (lineOk : Bool) (bytes : List Byte) (s : State), let x := s.upTo t; let k := x.link l
    (∃ u, exec (.edgeEligible t l) s = .next u ∧ x.framed (x.setLink l { k with edges := k.edges.map (fun e =>
      { e with elig := e.elig || decide (e.at_ ≤ x.clk.now + x.rdF R.stlLead 15 0 * 32) }) }) u []) ∧
    (x.upSilent l = false ∨ x.rdB (R.stlCfg l) 31 = false → ∃ u, exec (.linkDown t l) s = .next u ∧ x.framed x u []) ∧
    (x.rdB (R.stlCfg l) 31 = true →
      ((lineOk && frameOk bytes) = false → ∃ u, exec (.upstreamFrame t l at_ lineOk bytes) s = .next u ∧ x.pacedAs u ∧
        u.rdF (R.stlCount0 l) 31 16 = min 65535 (x.rdF (R.stlCount0 l) 31 16 + 1) ∧
        (x.twinOn = false ∨ x.cwyUp = true → u.prot = x.prot ∧ u.links = x.links ∧ u.legs = x.legs ∧ u.slices = x.slices)) ∧
      (lineOk = true → frameOk bytes = true → fieldLE bytes 1 1 = 8 → ∃ u, exec (.upstreamFrame t l at_ lineOk bytes) s = .next u ∧ x.pacedAs u ∧
        u.rd (R.stlUp0 l) = wordN (fieldLE bytes 5 4) ∧ u.rd (R.stlUp1 l) = wordN (fieldLE bytes 9 4) ∧ u.rdB (R.stlStatus l) 7 = true ∧
        (u.link l).upAt = some x.clk.now) ∧
      (x.upSilent l = true → ∃ u, exec (.linkDown t l) s = .next u ∧ x.pacedAs u ∧ u.rdB (R.stlStatus l) 8 = true ∧
        u.rdB (R.stlStatus l) 7 = false ∧ u.srcLive (376 + l) = true)))

/-- A downstream frame that is not valid is counted at its port; a valid one is heard there, whatever it commands (R241, R254, R255). A
claim that is not renewed lapses (R254), a port without a frame for 16 slots loses `SYNCED` (R252). A board carries out the edges that are
due, is `SAFE` without a frame for 16 slots, in `FAULT` on the loss of a gate supply and in `HOLD` once all have returned; it reports its
levels, mode and detections, and powers up afresh (R257, R261, R265). -/
def Obligations.DriverBoardsHearAndAct : Prop :=
  (∀ (t : Nat) (l : Fin 32) (p : Fin 2) (lineOk : Bool) (bytes : List Byte) (s : State), let x := s.upTo t; let b := x.board l; let pt := b.port p
    let c := b.lapses x.clk.now
    let mine (u : State) : Prop := x.framed { x with boards := u.boards } u [] ∧ ∀ j : Fin 32, j ≠ l → u.board j = x.board j
    ((lineOk && downValid bytes) = false → ∃ u, exec (.driverFrame t l p lineOk bytes) s = .next u ∧
      x.framed (x.setBoard l (c.setPort p { c.port p with rxErr := ((c.port p).rxErr + 1) % 256 })) u []) ∧
    (lineOk = true → downValid bytes = true → fieldLE bytes 1 1 ≤ 5 → ∃ u, exec (.driverFrame t l p lineOk bytes) s = .next u ∧ mine u ∧
      ((u.board l).port p).heardAt = some x.clk.now ∧ ((u.board l).port p).claim = fieldLE bytes 2 1 ∧ ((u.board l).port p).lapsed = false) ∧
    (∀ h, pt.heardAt = some h → pt.lapsed = false → h + 12800 ≤ x.clk.now → ∃ u, exec (.driverClaimLapse t l p) s = .next u ∧ mine u ∧
      ((u.board l).port p).lapsed = true) ∧
    (pt.heardAt = none ∨ pt.lapsed = true → ∃ u, exec (.driverClaimLapse t l p) s = .next u ∧ x.framed (x.setBoard l b) u []) ∧
    (b.portSilent p x.clk.now = false → ∃ u, exec (.portSyncLoss t l p) s = .next u ∧ x.framed x u []) ∧
    (b.portSilent p x.clk.now = true → ∃ u, exec (.portSyncLoss t l p) s = .next u ∧
      x.framed (x.setBoard l (b.setPort p { pt with synced := false })) u [])) ∧
  (∀ (t : Nat) (l : Fin 32) (p : Fin 2) (desat : BitVec 6) (c : Fin 6) (desatTs : Word) (temp : Byte) (s : State),
    let x := s.upTo t; let b := x.board l
    let mine (u : State) : Prop := x.framed { x with boards := u.boards } u [] ∧ ∀ j : Fin 32, j ≠ l → u.board j = x.board j
    (∀ e, b.lapses x.clk.now = b → b.mode = .run → b.acc = [e] → b.ahead x.clk.now e.time ≤ 0 → e.level = false → b.due = [] →
      ∃ u, exec (.driverEdgeExecute t l) s = .next u ∧ mine u ∧ (u.board l).acc = [] ∧ (u.board l).levels = setNatBit b.levels e.ch false) ∧
    (b.lapses x.clk.now = b → b.mode ≠ .run ∨ (b.due = [] ∧ ∀ e ∈ b.acc, 0 < b.ahead x.clk.now e.time) →
      ∃ u, exec (.driverEdgeExecute t l) s = .next u ∧ x.framed (x.setBoard l b) u []) ∧
    (b.portSilent 0 x.clk.now = false ∨ b.portSilent 1 x.clk.now = false → ∃ u, exec (.driverSilence t l) s = .next u ∧ x.framed x u []) ∧
    (b.portSilent 0 x.clk.now = true → b.portSilent 1 x.clk.now = true → ∃ u, exec (.driverSilence t l) s = .next u ∧ mine u ∧
      (u.board l).mode = .safe ∧ ((u.board l).port 0).synced = false ∧ ((u.board l).port 1).synced = false) ∧
    (∃ u, exec (.driverGateFault t l c) s = .next u ∧ mine u ∧ (u.board l).mode = .fault ∧ (u.board l).supply = setNatBit b.supply c true) ∧
    (b.mode = .fault → setNatBit b.supply c false = 0 → ∃ u, exec (.driverGateSupplyReturn t l c) s = .next u ∧ mine u ∧
      (u.board l).mode = .hold ∧ (u.board l).supply = 0) ∧
    (setNatBit b.supply c false ≠ 0 → ∃ u, exec (.driverGateSupplyReturn t l c) s = .next u ∧
      x.framed (x.setBoard l { b with supply := setNatBit b.supply c false }) u []) ∧
    (∃ u, exec (.driverStatusSend t l p desat desatTs temp) s = .next u ∧ mine u ∧
      fieldLE ((u.board l).port p).sent 1 1 = 8 ∧ fieldLE ((u.board l).port p).sent 5 1 % 64 = b.levels % 64 ∧
      fieldLE ((u.board l).port p).sent 6 1 = desat.toNat + 64 * b.mode.code ∧ fieldLE ((u.board l).port p).sent 8 4 = desatTs.toNat) ∧
    ∃ u, exec (.driverPowerUp t l) s = .next u ∧ x.framed (x.setBoard l BoardSt.init) u [])

/-! ### Auxiliary drives -/

/-- A start of a motor is accepted in `OFF`, in run state, with neither STO, `AUX_OV_2` nor an undervoltage; a stop ends it; a clear leaves
`FAULT` once its cause has gone (R284, R290). The thresholds of the auxiliary bus: the chopper, the pause of the PWM, braking and the fault
(R273, R274, R289); a chopper current that does not follow is a fault (R275); the motors are released `OV_REL` after the voltage has fallen
(R289, R290). The current windows of a motor's half-bridges: an overcurrent stops the motor with its cause (R272); a braking gap begins as
`I_LIM` asserts and ends in its time, when a window that is still asserted begins another (R287). An undervoltage of a gate supply stops the
motors that run and raises the source of the supplies, which ends with it (R270). -/
def Obligations.MotorsStartStopAndAreProtected : Prop :=
  (∀ (t : Nat) (who : Initiator) (m : Fin 6) (s : State), let x := s.upTo t; let st := R.auxStatus m
    let may := x.motEn m = true ∧ x.motState m = 0 ∧ x.inRun = true ∧ x.rdB R.protStatus 31 = false ∧ x.rdB R.auxBusStatus 4 = false ∧
      x.rdB R.auxBusStatus 1 = false
    (x.reaches who (R.auxCtrl m) 2#32 = true →
      (may → ∃ u, exec (.auxStart t who m) s = .next u ∧ x.framed { x.setMot m { x.mot m with startPend := true } with bus := .ok 0#64 } u []) ∧
      (¬may → ∃ u, exec (.auxStart t who m) s = .next u ∧ x.framed { x with bus := .ok 0#64 } u [st] ∧ u.rd st = withBit (x.rd st) 13 true)) ∧
    (x.reaches who (R.auxCtrl m) 4#32 = true → x.motState m ≠ 6 → ∃ u, exec (.auxStop t who m) s = .next u ∧
      x.framed { x.setMot m { x.mot m with stopPend := true, startPend := false } with bus := .ok 0#64 } u []) ∧
    (x.reaches who (R.auxCtrl m) 8#32 = true → x.motState m = 6 →
      (x.motCauseHolds m = false → ∃ u, exec (.auxClear t who m) s = .next u ∧ ({ x with bus := .ok 0#64 } : State).pacedAs u ∧
        u.motState m = 0 ∧ u.rdF st 23 20 = 0 ∧ ∀ j : Nat, j ≠ m → u.mot j = x.mot j) ∧
      (x.motCauseHolds m = true → ∃ u, exec (.auxClear t who m) s = .next u ∧ x.framed { x with bus := .ok 0#64 } u []))) ∧
  (∀ (t : Nat) (m : Fin 6) (s : State), let x := s.upTo t; let b := R.auxBusStatus
    let live := x.motState m ≠ 0 ∧ x.motState m ≠ 6
    x.pdOn 15 = true →
      (x.rdB R.auxBusCfg 31 = true → x.rdB b 6 = false → ∃ u, exec (.auxBusCrossing t 1 true) s = .next u ∧
        x.framed { x with aux := { x.aux with chopFrom := some x.clk.now } } u [b] ∧ u.rd b = withBit (x.rd b) 6 true) ∧
      (∃ u, exec (.auxBusCrossing t 0 false) s = .next u ∧
        x.framed { x with aux := { x.aux with chopFrom := none } } u [b] ∧ u.rd b = withBit (x.rd b) 6 false) ∧
      (∃ u, exec (.auxBusCrossing t 3 true) s = .next u ∧ x.pacedAs u ∧ u.rdB b 4 = true ∧ u.aux.below2 = none ∧
        u.srcLive 476 = true ∧ (live → u.motState m = 2)) ∧
      (∃ u, exec (.auxBusCrossing t 4 true) s = .next u ∧ x.pacedAs u ∧ u.rdB b 5 = true ∧ u.rdB b 8 = true ∧ u.srcLive 476 = true) ∧
      (∀ c, x.aux.chopFrom = some c → c + x.rdF R.auxBusCfg 22 16 * usec ≤ x.clk.now → x.rdB b 7 = false →
        ∃ u, exec (.auxChopVerify t false) s = .next u ∧ x.pacedAs u ∧ u.rdB b 7 = true ∧ u.srcLive 469 = true) ∧
      (∀ c, x.aux.below2 = some c → x.rdB b 4 = false → c + x.rdF R.auxBusCfg 7 0 * msec ≤ x.clk.now → x.rdB (R.auxStatus m) 19 = true →
        ∃ u, exec (.ovRel t) s = .next u ∧ x.pacedAs u ∧ u.motState m = (if x.rdB (R.auxCfg m) 26 then 1 else 0) ∧
          (x.rdB (R.auxCfg m) 26 = false → u.rdB (R.auxStatus m) 15 = true))) ∧
  (∀ (t : Nat) (h : Fin 18) (sign : Bool) (s : State), let x := s.upTo t; let m := h.val / 3; let v := x.mot m
    x.pdOn 15 = true →
      (x.motState m = 2 → v.gap = none → ∃ u, exec (.auxCurrentWindow t h 1 true sign) s = .next u ∧
        x.framed { x with aux := u.aux } u [R.auxHbStatus h] ∧
        u.mot m = { v with gap := some (x.clk.now + x.rdF (R.auxBrk m) 5 0 * usec) } ∧ u.rdB (R.auxHbStatus h) 1 = sign) ∧
      (x.motState m ≠ 6 → ∃ u, exec (.auxCurrentWindow t h 2 true sign) s = .next u ∧ x.pacedAs u ∧ u.motState m = 6 ∧
        u.rdB (R.auxHbStatus h) 2 = true ∧ u.rdB (R.auxStatus m) 9 = true ∧ u.rdF (R.auxStatus m) 23 20 = 1) ∧
      (∀ (n : Fin 6) g, (x.mot n).gap = some g →
        (x.clk.now < g → ∃ u, exec (.brkOffEnd t n) s = .next u ∧ x.framed x u []) ∧
        (g ≤ x.clk.now → x.motState n = 2 → ∃ u, exec (.brkOffEnd t n) s = .next u ∧ x.framed { x with aux := u.aux } u [] ∧
          (∀ j : Fin 6, j ≠ n → u.mot j = x.mot j) ∧
          u.mot n = { x.mot n with gapEnd := g
                                   gap := if (List.range 3).any (fun p => x.auxWin (3 * n + p) 1)
                                     then some (x.clk.now + x.rdF (R.auxBrk n) 5 0 * usec) else none }))) ∧
  (∀ (t : Nat) (h : Fin 18) (m : Fin 6) (s : State), let x := s.upTo t; let b := R.auxBusStatus
    let others := (List.range 18).any (fun k => x.rdB (R.auxHbStatus k) 3)
    x.pdOn 15 = true →
      (∃ u, exec (.vdrvUv t) s = .next u ∧ x.pacedAs u ∧ u.rdB b 1 = true ∧ u.srcLive 468 = true ∧
        (x.motState m ≠ 0 → u.motState m = 6)) ∧
      (∃ u, exec (.vdrvUvEnd t) s = .next u ∧ x.pacedAs u ∧ u.rdB b 1 = false ∧ u.srcLive 468 = (x.rdB b 2 || others)) ∧
      (∀ low, ∃ u, exec (.cpUv t low) s = .next u ∧ x.pacedAs u ∧ u.rdB b 2 = low ∧ u.srcLive 468 = (x.rdB b 1 || low || others)) ∧
      (∃ u, exec (.bstUv t h) s = .next u ∧ x.pacedAs u ∧ u.rdB (R.auxHbStatus h) 3 = true ∧ u.rdB (R.auxStatus (h.val / 3)) 10 = true ∧
        u.motState (h.val / 3) = 6 ∧ u.srcLive 468 = true) ∧
      ∃ u, exec (.bstUvEnd t h) s = .next u ∧ x.pacedAs u ∧ u.rdB (R.auxHbStatus h) 3 = false ∧
        u.srcLive 468 = (x.rdB b 1 || x.rdB b 2 || (List.range 18).any (fun k => k != h.val && x.rdB (R.auxHbStatus k) 3)))

/-- A crossing, confirmed on valid samples, of the back-EMF of the floating phase in `RUN` sets the instant of the next commutation
(R280–R282), one in `OBSERVE` is kept for its judgement (R285); the end of the blanking shows the level of the floating phase (R281). At the
reload nearest to its instant a commutation moves `RUN` to the next sector (R279, R282); where no crossing is seen in time one is forced,
and after as many as the limit the motor has lost its position (R283). How a motor starts, at reloads of its carrier: from `OBSERVE` at rest
it aligns, running backwards it brakes (R285); a standstill that is confirmed ends a braking (R286); alignment ends in the ramp, and a ramp
that reaches its last frequency has failed (R288). -/
def Obligations.MotorsCommutate : Prop :=
  (∀ (t first : Nat) (h : Fin 18) (m : Fin 6) (level : Bool) (s : State), let x := s.upTo t
    let k := h.val / 3; let v := x.mot k
    x.pdOn 15 = true →
      (x.bemfValid h first = false → ∃ u, exec (.bemfCrossing t h level first) s = .next u ∧ x.framed x u []) ∧
      (x.bemfValid h first = true → x.motState k = 1 → ∃ u, exec (.bemfCrossing t h level first) s = .next u ∧ x.framed { x with aux := u.aux } u [R.auxHbStatus h] ∧
        u.rdB (R.auxHbStatus h) 0 = level ∧
        u.mot k = { v with zcs := ((x.motIndex k (h.val % 3) level, x.tbOf first - x.motPer k / 2) :: v.zcs).take 7 }) ∧
      (x.bemfValid h first = true → x.motState k = 5 → h.val % 3 = secFloat (x.motSector k) → level = x.motLevel k (x.motSector k) → v.seen = false → v.wait = false →
        v.blank ≤ first → ∃ u, exec (.bemfCrossing t h level first) s = .next u ∧ x.framed { x with aux := u.aux } u [R.auxHbStatus h, R.auxTEst k] ∧
          (u.mot k).seen = true ∧ (u.mot k).forced = 0 ∧ (u.mot k).lastZc = some (x.tbOf first - x.motPer k / 2)) ∧
      (x.motState m ≠ 4 → x.motState m ≠ 5 → ∃ u, exec (.demagBlankEnd t m level) s = .next u ∧
        x.framed x u [R.auxHbStatus (3 * m.val + secFloat (x.motSector m))] ∧
        u.rdB (R.auxHbStatus (3 * m.val + secFloat (x.motSector m))) 0 = level) ∧
      (x.motState m = 5 → (x.mot m).wait = false → (x.mot m).seen = false → (x.mot m).blank ≤ x.clk.now →
        level = x.motLevel m (x.motSector m) → ∃ u, exec (.demagBlankEnd t m level) s = .next u ∧
          u.rdB (R.auxStatus m) 16 = true ∧ (u.mot m).seen = true ∧ (u.mot m).lastZc = some (x.tbOf (x.mot m).blank))) ∧
  (∀ (t : Nat) (m : Fin 6) (s : State), let x := s.upTo t; let v := x.mot m
    x.pdOn 15 = true → x.motState m = 5 →
      (∀ d, v.due = some d →
        (x.motAtReload m = true → d ≤ x.tb + x.motLen m / 2 → v.known + 128 ≤ x.clk.now → ∃ u, exec (.commutation t m) s = .next u ∧ x.pacedAs u ∧
          u.motSector m = x.motFwd m (x.motSector m) 1 % 8 ∧ (u.mot m).commAt = x.clk.now ∧ (u.mot m).commDue = d ∧ (u.mot m).due = none ∧
          (u.mot m).seen = false) ∧
        (x.motAtReload m = false ∨ x.tb + x.motLen m / 2 < d ∨ x.clk.now < v.known + 128 → ∃ u, exec (.commutation t m) s = .next u ∧
          x.framed x u [])) ∧
      (v.due.isSome = true ∨ v.seen = true ∨ v.wait = true → ∃ u, exec (.forcedCommutation t m) s = .next u ∧ x.framed x u []) ∧
      (v.wait = false → v.seen = false → v.due = none →
        v.commDue + ((x.rdF (R.auxBemf m) 23 16 * v.tEst / 64 : Nat) : Int) ≤ x.tb →
        (v.forced + 1 < x.rdF (R.auxCfg m) 7 4 → ∃ u, exec (.forcedCommutation t m) s = .next u ∧
          x.framed (x.setMot m { v with forced := v.forced + 1, due := some (x.tbOf v.commAt + v.tEst), known := x.clk.now }) u [R.auxCount m] ∧
          u.rdF (R.auxCount m) 15 0 = min 65535 (x.rdF (R.auxCount m) 15 0 + 1)) ∧
        (x.rdF (R.auxCfg m) 7 4 ≤ v.forced + 1 → ∃ u, exec (.forcedCommutation t m) s = .next u ∧ x.pacedAs u ∧
          u.rdB (R.auxStatus m) 11 = true ∧ u.motState m = (if x.rdB (R.auxCfg m) 26 then 1 else 6)))) ∧
  (∀ (t : Nat) (m : Fin 6) (s : State), let x := s.upTo t; let v := x.mot m
    let ripe := v.entered + x.rdF (R.auxStartT m) 31 16 * msec ≤ x.clk.now
    let still := max v.entered v.iAt + x.rdF (R.auxStartT m) 15 0 * msec ≤ x.clk.now
    let idle (i : Instr) : Prop := ∃ u, exec i s = .next u ∧ x.framed x u []
    (x.motAtReload m = false → idle (.obsTime t m) ∧ idle (.stopConfirm t m) ∧ idle (.alignEnd t m) ∧ idle (.rampSectorEnd t m)) ∧
    (x.pdOn 15 = true → x.motAtReload m = true →
      (x.motState m = 1 → ripe → x.motMotion m = .rest → ∃ u, exec (.obsTime t m) s = .next u ∧ x.pacedAs u ∧
        u.motState m = 3 ∧ u.motSector m = x.rdF (R.auxCfg m) 18 16) ∧
      (∀ k, x.motState m = 1 → ripe → x.motMotion m = .backward k → ∃ u, exec (.obsTime t m) s = .next u ∧ x.pacedAs u ∧
        u.motState m = 2 ∧ u.rdB (R.auxStatus m) 8 = true ∧ (u.mot m).brake = 1) ∧
      (x.motState m = 2 → still → v.brake = 1 → ∃ u, exec (.stopConfirm t m) s = .next u ∧ x.pacedAs u ∧ u.motState m = 3) ∧
      (x.motState m = 2 → still → v.brake = 2 → ∃ u, exec (.stopConfirm t m) s = .next u ∧ x.pacedAs u ∧ u.motState m = 0) ∧
      (x.motState m = 3 → v.entered + x.rdF (R.auxAlign m) 31 16 * msec ≤ x.clk.now → ∃ u, exec (.alignEnd t m) s = .next u ∧ x.pacedAs u ∧
        u.motState m = 4 ∧ u.motSector m = x.motFwd m (x.rdF (R.auxCfg m) 18 16) 2 % 8 ∧ (u.mot m).freq = hz100 (x.rdF (R.auxRampF m) 31 16)) ∧
      (∀ f, x.motState m = 4 → v.secEnd ≤ x.clk.now + x.motLen m / 2 →
        f = v.freq + (divRound ((x.rdF (R.auxRampA m) 31 16 * 2 ^ 32 * rampLen v.freq : Nat) : Int) second).toNat →
        (f < hz100 (x.rdF (R.auxRampF m) 15 0) → ∃ u, exec (.rampSectorEnd t m) s = .next u ∧ x.pacedAs u ∧ u.motState m = 4 ∧
          u.motSector m = x.motFwd m (x.motSector m) 1 % 8 ∧ (u.mot m).freq = f) ∧
        (hz100 (x.rdF (R.auxRampF m) 15 0) ≤ f → ∃ u, exec (.rampSectorEnd t m) s = .next u ∧ x.pacedAs u ∧ u.rdB (R.auxStatus m) 12 = true ∧
          (u.mot m).fails = v.fails + 1 ∧ u.motState m = (if v.fails + 1 ≤ x.rdF (R.auxCfg m) 3 0 then 1 else 6)))))

/-! ### Protection and safety -/

/-- A latch is cleared by a write of 1 unless its source is active, and a reaction that it held is released (R294); a window comparator that
its filter lets through acts through its source (R296). A bit that brings a crossing is captured, and the crossing reaches the protection
block 20 ns later (R297): above `OV_1` it turns the chopper on, above `OV_2` it asks for `ASC` and above `OV_3` it trips the bridges
(R297–R300). A block that meets the chopper's request is a chopper fault (R301). The chopper is checked once after its time: a link that
fell below `CHOP_REL` shows that it works, and one that keeps rising that it does not; the pitch request of a faulty one is repeated (R299).
Its flags are cleared only below `CHOP_REL` (R299, R300). -/
def Obligations.DcLinkIsProtected : Prop :=
  (∀ (t : Nat) (who : Initiator) (k : Fin 15) (w : Word) (c : Fin 32) (on : Bool) (s : State), let x := s.upTo t
    let free := x.lineFree c ((x.rdF (R.protWinFlt c) 7 0 + 1) * 128)
    (x.reaches who (R.protSrcLatch k) w = true → ∃ u, exec (.latchClear t who k w) s = .next u ∧ ({ x with bus := .ok 0#64 } : State).pacedAs u ∧
        (∀ i : Fin 32, bitOf (wordN ((regRow (R.protSrcLatch k)).elim 0 (·.w1c))) i = true → bitOf (x.raisedNow (R.protSrcLatch k)) i = false →
          u.srcLatched (32 * k + i) = (x.srcLatched (32 * k + i) && !(bitOf w i && !x.srcLive (32 * k + i))) ∧
          (bitOf w i = true → x.srcLive (32 * k + i) = false → (u.src (32 * k + i)).held = 0)) ∧
        ((∀ i : Fin 32, bitOf w i = true → (x.src (32 * k + i)).held = 0) → x.framed { x with bus := .ok 0#64 } u [R.protSrcLatch k])) ∧
    (x.rdB (R.protWinCfg c) 31 = true → x.rdB (R.protWinFlt c) 8 = !on → free = true →
      ∃ u, exec (.windowComparator t c on) s = .next u ∧ x.pacedAs u ∧ u.rdB (R.protWinFlt c) 8 = on ∧ u.srcLive (336 + c) = on) ∧
    (x.rdB (R.protWinCfg c) 31 = false ∨ x.rdB (R.protWinFlt c) 8 = on ∨ free = false → ∃ u, exec (.windowComparator t c on) s = .next u ∧ x.framed x u [])) ∧
  (∀ (n : Fin 4) (i : Fin 112) (b : Bool) (a m : Nat) (rest : List (Nat × Soon)) (s : State), let e := s.capAt i (s.chain i).n; let x := s.upTo e
    let y := (((x.feedBit i b).stuckJudge i e).pfJudge i e true).pfJudge i e false
    let z := ({ s with prot := { s.prot with inb := rest } } : State).goto a
    let st := R.protThrStatus n
    (s.capturing i = true → (∀ q ∈ x.prot.inb, e < q.1) → y.dcEn n = true → (y.dcChA n = i ∨ y.dcChB n = i) → y.dcMask n ≠ 0 →
      ∃ u, exec (.dcThresholdCrossing e n i [b]) s = .next u ∧ x.pacedAs u ∧ (e + 640, Soon.dc n (y.dcMask n)) ∈ u.prot.inb) ∧
    (s.prot.inb = (a, .dc n m) :: rest → (∀ q ∈ rest, a < q.1) → s.clk.now ≤ a → z.rdB st 15 = z.dcLost n → natBit m 3 = false →
      (natBit m 2 = true → ∃ u, exec (.dcThresholdCrossing a n i []) s = .next u ∧ z.pacedAs u ∧ u.rdB st 11 = true ∧ u.ov3Req n 0 = true) ∧
      (natBit m 1 = true → ∃ u, exec (.dcThresholdCrossing a n i []) s = .next u ∧ z.pacedAs u ∧ u.rdB st 12 = true ∧ u.ascReq n = true) ∧
      (m = 1 → z.chopReq n = false → z.dischStep n ≠ 2 → z.rdB (R.protThrChop n) 31 = true → ∃ u, exec (.dcThresholdCrossing a n i []) s = .next u ∧
        z.pacedAs u ∧ (z.blockReq n 2 = false → u.chopReq n = true) ∧ (z.blockReq n 2 = true → u.rdB st 10 = true)))) ∧
  (∀ (t k : Nat) (who : Initiator) (n : Fin 4) (s : State), let x := s.upTo t; let d := x.dc n; let st := R.protThrStatus n
    let cv := x.rdF (R.protThrChop n) 22 16 * usec
    let low := x.dcBelow n (x.dcLevel n 3)
    let rep := k + x.rdF (R.protThrPitch n) 9 0 * msec
    (d.chopFrom = none ∨ d.checked = true → ∃ u, exec (.chopVerify t n) s = .next u ∧ x.framed x u []) ∧
    (d.pitchAt = none ∨ x.rdB st 10 = false → ∃ u, exec (.pitchRep t n) s = .next u ∧ x.framed x u []) ∧
    (d.chopFrom = some k → d.checked = false → k + cv ≤ x.clk.now →
      (low = true → x.dischStep n ≠ 2 → ∃ u, exec (.chopVerify t n) s = .next u ∧ x.framed (x.setDc n { d with checked := true }) u []) ∧
      (low = false → x.rdB st 10 = false → x.dcAt n (x.tbOf k) - x.dcAt n (x.tbOf k - cv) ≤ x.dcAt n (x.tbOf (k + cv)) - x.dcAt n (x.tbOf k) →
        ∃ u, exec (.chopVerify t n) s = .next u ∧ x.pacedAs u ∧ u.rdB st 10 = true ∧ u.rdB st 14 = true)) ∧
    (d.pitchAt = some k → x.rdB st 10 = true → rep ≤ x.clk.now → x.rdB (R.protThrChop n) 30 = true →
      ∃ u, exec (.pitchRep t n) s = .next u ∧ x.pacedAs u ∧ (u.dc n).pitchAt = some rep) ∧
    (x.raisedNow st = 0#32 →
      (x.reaches who st 0x400#32 = true →
        (low = true → x.rdB st 10 = true → ∃ u, exec (.chopFaultClear t who n) s = .next u ∧ ({ x with bus := .ok 0#64 } : State).pacedAs u ∧
          u.rdB st 10 = false ∧ u.rdB st 14 = false) ∧
        (low = false → ∃ u, exec (.chopFaultClear t who n) s = .next u ∧ ({ x with bus := .ok 0#64 } : State).pacedAs u ∧
          u.rdB st 10 = x.rdB st 10)) ∧
      (x.reaches who st 0x800#32 = true →
        (low = true → ∃ u, exec (.ov3TripClear t who n) s = .next u ∧ ({ x with bus := .ok 0#64 } : State).pacedAs u ∧ u.rdB st 11 = false) ∧
        (low = false → ∃ u, exec (.ov3TripClear t who n) s = .next u ∧ ({ x with bus := .ok 0#64 } : State).pacedAs u ∧
          u.rdB st 11 = x.rdB st 11)) ∧
      (x.reaches who st 0x100#32 = true → ∃ u, exec (.dischDoneClear t who n) s = .next u ∧ ({ x with bus := .ok 0#64 } : State).pacedAs u ∧
        u.rdB st 8 = false)))

/-- A low STO input that its filter lets through, or a discrepancy of the two that lasts, takes every bridge's pulses; both inputs high end
it, after a discrepancy once both were low (R305, R306); a fault of the monitor's lockstep or of the STO path demands STO until reset
(R307). The safety monitor evaluates the torque conditions of an enabled thread and forces one that fails, and `DISCHARGE` where the monitor
asks for it; a forced state is released only by a core with the key, 100 ms after its causes ended (R26, R308, R309, R311). -/
def Obligations.SafeTorqueOffAndMonitor : Prop :=
  (∀ (t : Nat) (a b : Bool) (s : State), let x := s.upTo t; let st := R.protStatus
    let flt := x.rdF R.protStoCfg 9 0 * 32
    (x.lineFree 50 flt = true → x.lineFree 49 flt = true →
      ((a && b) = false → ∃ u, exec (.stoInput t a b) s = .next u ∧ x.pacedAs u ∧ u.rdB st 31 = true ∧ u.rdB st 30 = !a ∧ u.rdB st 29 = !b ∧
        (x.rdB st 31 = false → u.anyHold = true)) ∧
      (x.rdB st 28 = false → ∃ u, exec (.stoInput t true true) s = .next u ∧ x.pacedAs u ∧ u.rdB st 31 = false ∧ u.rdB st 30 = false ∧
        u.rdB st 29 = false ∧ u.prot.diffAt = none) ∧
      (x.rdB st 28 = true → ∃ u, exec (.stoInput t true true) s = .next u ∧ x.pacedAs u ∧ u.rdB st 31 = !x.prot.bothLow ∧
        u.rdB st 28 = !x.prot.bothLow)) ∧
    (x.lineFree 50 flt = false → x.lineFree 49 flt = false → ∃ u, exec (.stoInput t a b) s = .next u ∧ x.pacedAs u ∧ u.rdB st 30 = x.rdB st 30 ∧
      u.rdB st 29 = x.rdB st 29) ∧
    (x.prot.diffAt = none → ∃ u, exec (.stoDiscrep t) s = .next u ∧ x.framed x u []) ∧
    (∀ d, x.prot.diffAt = some d → d + x.rdF R.protStoCfg 25 16 * msec < x.clk.now → ∃ u, exec (.stoDiscrep t) s = .next u ∧ x.pacedAs u ∧
      u.rdB st 28 = true ∧ u.rdB st 31 = true) ∧
    (∃ u, exec (.stoPathDisagree t) s = .next u ∧ x.pacedAs u ∧ u.rdB st 27 = true ∧ u.anyHold = true ∧
      (∀ n : Fin 4, x.threadHere n = true → u.gfeState n = 0 ∧ u.bridgeCode n 0 = 1 ∧ u.bridgeCode n 1 = 1 ∧ u.bridgeCode n 2 = 1)) ∧
    ∃ u, exec (.monitorLockstepFault t) s = .next u ∧ x.pacedAs u ∧ u.rdB st 27 = true ∧ u.anyHold = true ∧ u.rdB R.smonStatus 31 = false) ∧
  (∀ (t : Nat) (who : Initiator) (n : Fin 4) (disch : Bool) (s : State), let x := s.upTo t; let f := R.smonForce n
    let key := wordN (0xC5000000 + n.val); let m := x.smon n
    let core := ∃ q : Fin 5, who = .core q
    x.threadHere n = true →
    (∃ u, exec (.smonEvaluation t (n, disch)) s = .next u ∧ x.pacedAs u ∧ (disch = true → u.forceOf n = 3) ∧
      (x.rdB (R.vecCfg (2 * n)) 31 = true → ∀ k ∈ [0, 1, 2, 3, 4, 6], u.rdB (R.smonTmStatus n) (8 + k) = x.tmCond n k ∧
        (x.tmCond n k = true → x.rdF (R.smonTmCfg n) 31 24 ≤ min 255 (tabGet (fun _ => 0) m.cnt k + 1) →
          u.rdB (R.smonTmStatus n) k = true ∧ u.forceOf n ≠ 0))) ∧
    (x.tmCond n 5 = false → ∃ u, exec (.tm6PeriodStall t n) s = .next u ∧ x.framed x u []) ∧
    (x.rdB R.sysState (12 + n) = true → (x.seq n).sampleAt + 4 * x.rdF (R.seqPeriod n) 31 0 * 32 ≤ x.clk.now →
      ∃ u, exec (.tm6PeriodStall t n) s = .next u ∧ x.pacedAs u ∧ u.rdB (R.smonTmStatus n) 13 = true ∧ u.rdB (R.smonTmStatus n) 5 = true ∧
        u.forceOf n ≠ 0) ∧
    (x.reaches who R.smonRel key = true → x.forceOf n ≠ 0 →
      (∀ a, m.causes = [] → m.absent = some a → a + 100 * msec ≤ x.clk.now → (x.dc n).disch = none → core →
        ∃ u, exec (.smonRel t who n) s = .next u ∧ ({ x with bus := .ok 0#64 } : State).pacedAs u ∧ u.forceOf n = 0 ∧ u.rdF f 23 16 = 0) ∧
      (m.causes ≠ [] ∨ (∀ a, m.absent = some a → x.clk.now < a + 100 * msec) ∨ (x.dc n).disch ≠ none ∨ who = .debug →
        ∃ u, exec (.smonRel t who n) s = .next u ∧ x.framed { x with bus := .ok 0#64 } u [f] ∧ u.rd f = withBit (x.rd f) 8 true)))

/-- A watchdog is served by its own pair, by the complement of its token within its window, and draws a new one (the token is free: log 13);
any other service, and none in time, is a failure of the pair, which blocks the threads that it names (R310). A discharge starts with the
chopper where there is one, goes on without it, is aborted by a write only where a write began it, and is done 10 ms below the safe level
(R312–R314). -/
def Obligations.WatchdogsAndDischarge : Prop :=
  (∀ (t : Nat) (who : Initiator) (p : Fin 5) (v : BitVec 16) (s : State), let x := s.upTo t; let rc := R.smonWdReact p
    let max_ := x.rdF (R.smonWdCfg p) 31 16
    let min_ := x.rdF (R.smonWdCfg p) 15 0
    let since := x.clk.now - (x.wd p).at_
    let right := v.toNat = 65535 - x.rdF (R.smonWd p) 15 0 ∧ min_ * usec ≤ since ∧ since ≤ max_ * usec
    let failed (u : State) : Prop := u.rdB rc 8 = true ∧ u.wd p = ⟨(x.wd p).draws, x.clk.now⟩ ∧
      (x.rdB rc 4 = true → ∀ n : Fin 4, x.rdB rc n = true → x.threadHere n = true → u.forceOf n ≠ 0)
    let own := ∃ q : Fin 5, who = .core q ∧ q.val = p
    max_ ≠ 0 →
      (x.reaches who (R.smonWd p) (v.setWidth 32) = true →
        (own → right → ∃ u, exec (.watchdogService t who p v) s = .next u ∧ ({ x with bus := .ok 0#64 } : State).pacedAs u ∧
          u.rd (R.smonWd p) = wordN (Config.wdToken (5 * (x.wd p).draws + p)).toNat ∧ u.wd p = ⟨(x.wd p).draws + 1, x.clk.now⟩ ∧
          u.rd rc = x.rd rc) ∧
        (own → ¬right → ∃ u, exec (.watchdogService t who p v) s = .next u ∧ ({ x with bus := .ok 0#64 } : State).pacedAs u ∧ failed u ∧
          u.rd (R.smonWd p) = x.rd (R.smonWd p)) ∧
        (¬own → ∃ u, exec (.watchdogService t who p v) s = .next u ∧ x.framed { x with bus := .ok 0#64 } u [])) ∧
      (x.clk.now ≤ (x.wd p).at_ + max_ * usec → ∃ u, exec (.watchdogTimeout t p) s = .next u ∧ x.framed x u []) ∧
      ((x.wd p).at_ + max_ * usec < x.clk.now → ∃ u, exec (.watchdogTimeout t p) s = .next u ∧ x.pacedAs u ∧ failed u)) ∧
  (∀ (t : Nat) (who : Initiator) (n : Fin 4) (s : State), let x := s.upTo t; let d := x.dc n; let st := R.protThrStatus n
    let v := (x.dcVal n).getD 0
    (x.reaches who (R.protThrDischCtrl n) 1#32 = true → d.disch = none → ∃ u, exec (.dischStart t who n) s = .next u ∧
      ({ x with bus := .ok 0#64 } : State).pacedAs u ∧ u.rdB st 7 = true ∧ (u.dc n).disch = some .write ∧ u.vecState (2 * n) = 8 ∧
      u.dischStep n = (if x.rdB (R.protThrChop n) 31 && !x.rdB st 10 then 2 else 3)) ∧
    (x.reaches who (R.protThrDischCtrl n) 2#32 = true →
      (d.disch = some .write → ∃ u, exec (.dischAbort t who n) s = .next u ∧ ({ x with bus := .ok 0#64 } : State).pacedAs u ∧
        u.rdB st 7 = false ∧ (u.dc n).disch = none ∧ u.dischStep n = 0) ∧
      (d.disch ≠ some .write → ∃ u, exec (.dischAbort t who n) s = .next u ∧ x.framed { x with bus := .ok 0#64 } u [])) ∧
    (x.dischStep n = 2 → d.stepAt + x.rdF (R.protThrDisch0 n) 15 0 * msec ≤ x.clk.now →
      (v * 32768 ≤ d.vStart * x.rdF (R.protThrDisch0 n) 31 16 → ∃ u, exec (.dischT1 t n) s = .next u ∧ x.framed x u []) ∧
      (d.vStart * x.rdF (R.protThrDisch0 n) 31 16 < v * 32768 → x.dischOver n = false → ∃ u, exec (.dischT1 t n) s = .next u ∧ x.pacedAs u ∧
        u.dischStep n = 3 ∧ (u.dc n).vStart = v ∧ u.chopReq n = false)) ∧
    (x.dischStep n = 3 → d.stepAt + x.rdF (R.protThrDisch1 n) 15 0 * msec ≤ x.clk.now →
      (v * 32768 ≤ d.vStart * x.rdF (R.protThrDisch1 n) 31 16 → ∃ u, exec (.dischT2 t n) s = .next u ∧
        x.framed (x.setDc n { d with vStart := v, stepAt := d.stepAt + x.rdF (R.protThrDisch1 n) 15 0 * msec }) u []) ∧
      (d.vStart * x.rdF (R.protThrDisch1 n) 31 16 < v * 32768 → x.dischOver n = false → ∃ u, exec (.dischT2 t n) s = .next u ∧ x.pacedAs u ∧
        u.dischStep n = 4 ∧ u.rdB st 9 = true)) ∧
    (x.dischStep n ≠ 2 → ∃ u, exec (.dischT1 t n) s = .next u ∧ x.framed x u []) ∧
    (x.dischStep n ≠ 3 → ∃ u, exec (.dischT2 t n) s = .next u ∧ x.framed x u []) ∧
    (x.dischOver n = true → ∃ u, exec (.dischSafe t n) s = .next u ∧ x.pacedAs u ∧ u.rdB st 8 = true ∧
      u.rdB st 7 = false ∧ (u.dc n).disch = none ∧ u.dischStep n = 0) ∧
    (d.disch = none ∨ d.safeAt = none → ∃ u, exec (.dischSafe t n) s = .next u ∧ x.framed x u []))

/-! ### The Causeway -/

/-- A frame of the Causeway is taken only by a device of a twin whose lanes are locked; one with a bad CRC is discarded and counted, and a
gap of the frame numbers is counted (R321). A refused twin takes no content (R318). What each frame of the partner brings is taken: the end
of a period, an overrun marker, latched signals (not by the primary), a mirrored write, an acknowledgement, and a chunk of a snapshot for a
thread out of step (R326, R327, R328, R330, R332, R339). -/
def Obligations.CausewayFramesAreReceivedAndTaken : Prop :=
  (∀ (t : Nat) (h : CwyHdr) (t1 t2 t3 t4 count : Nat) (input state : Dword) (fl d period p0 p1 p2 p3 : Word) (xs : List (BitVec 12 × Qual × Word))
    (a ups ack : BitVec 32) (st : BitVec 3) (run : BitVec 4) (f : BitVec 6 × BitVec 6 × BitVec 6 × BitVec 6) (j : Fin 16) (bytes : List Byte)
    (items : List SnapItem) (last : Bool) (size : BitVec 20) (s : State), let x := s.upTo t
    ∀ c ∈ ([.cwyEndFrame t h, .cwyTimeFrame t h t1 t2 t3 t4, .cwyDigestFrame t h input state fl, .cwyOverrunFrame t h, .cwyLatchFrame t h xs,
        .cwyMirrorFrame t h a d period, .cwyStatusFrame t h st run f ups, .cwyMsgFrame t h j bytes, .cwyMsgAckFrame t h ack,
        .cwySnapFrame t h items last size] ++ (if x.boot.search = none then [.cwyJoinFrame t h count p0 p1 p2 p3] else []) : List Instr),
      (x.pdOn 14 = false ∨ x.twinOn = false ∨ x.lanesUp = false → ∃ u, exec c s = .next u ∧ x.framed x u []) ∧
      (x.pdOn 14 = true → x.twinOn = true → x.lanesUp = true →
        (h.ok = false → ∃ u, exec c s = .next u ∧ x.framed x u [R.cwyCount] ∧ u.rdF R.cwyCount 15 0 = min 65535 (x.rdF R.cwyCount 15 0 + 1) ∧
          u.rdF R.cwyCount 31 16 = x.rdF R.cwyCount 31 16) ∧
        (h.ok = true → ∃ u, exec c s = .next u ∧ u.twin.rxSeq = some h.fseq.toNat ∧ u.twin.rxAt = some x.clk.now ∧
          (∀ q, x.twin.rxSeq = some q → u.rdF R.cwyCount 31 16 =
            min 65535 (x.rdF R.cwyCount 31 16 + (h.fseq.toNat + 2 ^ 32 - (q + 1)) % 2 ^ 32)) ∧
          (x.twin.refused = true → x.framed { x with twin := u.twin } u [R.cwyCount])))) ∧
  (∀ (t : Nat) (h : CwyHdr) (a ack : BitVec 32) (d period : Word) (xs : List (BitVec 12 × Qual × Word)) (items : List SnapItem) (last : Bool)
    (size : BitVec 20) (s : State), let x := s.upTo t; let n := h.thread
    x.pdOn 14 = true → x.twinOn = true → x.lanesUp = true → h.ok = true → x.twin.refused = false →
      (∃ u, exec (.cwyEndFrame t h) s = .next u ∧ x.framed { x with twin := u.twin } u [R.cwyCount] ∧
        u.thr n = { x.thr n with parEnd := some (h.period.toNat, x.clk.now) }) ∧
      (∃ u, exec (.cwyOverrunFrame t h) s = .next u ∧ x.framed { x with twin := u.twin } u [R.cwyCount] ∧
        u.thr n = { x.thr n with par := digPut ⟨h.period.toNat, none, 0, x.clk.now⟩ (x.thr n).par }) ∧
      (∃ u, exec (.cwyLatchFrame t h xs) s = .next u ∧ x.framed { x with twin := u.twin } u [R.cwyCount] ∧
        u.thr n = (if x.rdB (R.cwyThrStatus n) 27 then x.thr n
          else { x.thr n with latch := xs.map (fun y => (y.1.toNat, ⟨y.2.2, y.2.1⟩)) })) ∧
      (∃ u, exec (.cwyMirrorFrame t h a d period) s = .next u ∧ x.framed { x with twin := u.twin } u [R.cwyCount] ∧
        u.thr n = { x.thr n with mirrors := (x.thr n).mirrors ++ [⟨a.toNat, d, false, x.clk.now, period.toNat⟩] }) ∧
      (∃ u, exec (.cwyMsgAckFrame t h ack) s = .next u ∧ x.framed { x with twin := u.twin } u [R.cwyCount] ∧
        u.twin.msgs = x.twin.msgs.filter (fun m => m.fseq != ack.toNat)) ∧
      (x.inStep n = false → ∃ u, exec (.cwySnapFrame t h items last size) s = .next u ∧
        x.framed { x with twin := u.twin } u [R.cwyCount, R.cwyThrSnap n] ∧ u.rdF (R.cwyThrSnap n) 19 0 = size.toNat ∧
        u.thr n = { x.thr n with snap := (x.thr n).snap ++ items, snapAt := if last then some x.clk.now else (x.thr n).snapAt }) ∧
      (x.inStep n = true → ∃ u, exec (.cwySnapFrame t h items last size) s = .next u ∧ x.framed { x with twin := u.twin } u [R.cwyCount] ∧
        u.thr n = x.thr n))

/-- Time over the Causeway: a `TIME` frame carries the timebase, and the follower sets its offset from the four instants; within 100 ppm of
lock it counts towards lock, and three large offsets lose it (R322, R324). How the trim moves is free within its range (log 52). -/
def Obligations.TimeCrossesTheCauseway : Prop :=
  ∀ (t t1 t2 t3 t4 : Nat) (h : CwyHdr) (s : State), let x := s.upTo t
    let off := divRound ((time16 t2 - time16 t1 - (time16 t4 - time16 t3)) * 125) 128 - signedOf 16 (x.rdF R.cwyTiming 15 0)
    (x.pdOn 14 = true → x.twinOn = true → ∃ u, exec (.cwyTimeSend t) s = .next u ∧ x.framed { x with twin := u.twin } u [] ∧
      u.twin.tSent = x.time32 ∧ (x.lanesUp = true → u.twin.txSeq = (x.twin.txSeq + 1) % 2 ^ 32 ∧ tabGet (fun _ => []) u.twin.sent 2 =
        cwyFrame 2 15 false x.twin.txSeq 0 [BitVec.ofNat 64 x.time32, BitVec.ofNat 64 x.twin.tPar, BitVec.ofNat 64 x.twin.tArr])) ∧
    (x.twinOn = false → ∃ u, exec (.cwyTimeSend t) s = .next u ∧ x.framed x u []) ∧
    (x.pdOn 14 = true → x.twinOn = true → x.lanesUp = true → h.ok = true → x.twin.refused = false →
      (x.leader = true ∨ t3 = 0 → ∃ u, exec (.cwyTimeFrame t h t1 t2 t3 t4) s = .next u ∧ x.framed { x with twin := u.twin } u [R.cwyCount] ∧
        u.twin.tPar = t1 ∧ u.twin.tArr = t2) ∧
      (x.leader = false → t3 ≠ 0 → ∃ u, exec (.cwyTimeFrame t h t1 t2 t3 t4) s = .next u ∧ x.pacedAs u ∧ u.twin.tPar = t1 ∧ u.twin.tArr = t2 ∧
        u.rd R.cwyOffset = wordOf off ∧ -120000 ≤ u.rdS R.cwyTrim ∧ u.rdS R.cwyTrim ≤ 120000 ∧
        (off.natAbs ≤ 100 → u.twin.goodRun = x.twin.goodRun + 1 ∧ (15 ≤ x.twin.goodRun → u.rdB R.cwyStatus 23 = true)) ∧
        (100 < off.natAbs → u.twin.goodRun = 0) ∧
        (250 < off.natAbs → x.twin.badRun = 2 → u.rdB R.cwyStatus 23 = false ∧ u.rdB R.cwyStatus 10 = true)))

/-- Digests of one period are compared when both have arrived; a difference of the input parts counts as an input mismatch, one of the state
parts alone as a state mismatch, and a digest 5 µs late as missing; the standby leaves step after the configured run of mismatches (R330,
R331). A `STATUS` frame says what the partner is doing, and brings the Causeway up; one is sent with what this device does; the Causeway is
down when its lanes are lost or no valid one has come for 10 µs, and then what waited for an acknowledgement is dropped (R320, R322, R339).
-/
def Obligations.DigestsAndStatusFrames : Prop :=
  (∀ (t : Nat) (h : CwyHdr) (input state : Dword) (fl : Word) (n : Fin 4) (s : State), let x := s.upTo t; let p := h.period.toNat
    let a := R.cwyThrStatus h.thread
    let c0 := R.cwyThrCount0 h.thread
    (x.pdOn 14 = true → x.twinOn = true → x.lanesUp = true → h.ok = true → x.twin.refused = false →
      ∃ u, exec (.cwyDigestFrame t h input state fl) s = .next u ∧ x.pacedAs u ∧ u.rdF a 19 16 = natBits fl.toNat 3 0 ∧
        u.rdB a 29 = natBit fl.toNat 4 ∧ u.rdB a 28 = natBit fl.toNat 5 ∧
        (u.thr h.thread).par = digPut ⟨p, some (input.toNat, state.toNat), fl.toNat, x.clk.now⟩ (x.thr h.thread).par ∧
        ∀ e y z, (x.thr h.thread).own.find? (fun e => e.period == p) = some e → e.crcs = some (y, z) →
          ((y, z) = (input.toNat, state.toNat) → (u.thr h.thread).mism = 0 ∧ (u.thr h.thread).good = (x.thr h.thread).good + 1) ∧
          (y ≠ input.toNat → u.rdF c0 31 16 = min 65535 (x.rdF c0 31 16 + 1)) ∧
          (y = input.toNat → z ≠ state.toNat → u.rdF c0 15 0 = min 65535 (x.rdF c0 15 0 + 1))) ∧
    ((x.thr n).own = [] → ∃ u, exec (.digestTimeout t n) s = .next u ∧ x.framed x u []) ∧
    (∀ e es, (x.thr n).own = e :: es → x.cwyUp = true → e.crcs.isSome = true → e.at_ + 5 * usec ≤ x.clk.now →
      (x.thr n).par.all (fun y => y.period != e.period) = true →
      let leaves := x.rdF R.cwyCfg 23 20 ≤ (x.thr n).mism + 1 ∧ x.inStep n = true ∧ x.rdB (R.cwyThrStatus n) 27 = false
      ∃ u, exec (.digestTimeout t n) s = .next u ∧ x.pacedAs u ∧ (¬leaves → (u.thr n).mism = (x.thr n).mism + 1) ∧
        (leaves → u.inStep n = false ∧ u.rdF (R.cwyThrStatus n) 15 12 = 3))) ∧
  (∀ (t : Nat) (h : CwyHdr) (st : BitVec 3) (run lanes : BitVec 4) (f : BitVec 6 × BitVec 6 × BitVec 6 × BitVec 6) (ups : BitVec 32) (s : State)
    , let x := s.upTo t
    x.pdOn 14 = true →
      (x.twinOn = true → x.lanesUp = true → h.ok = true → x.twin.refused = false →
        ∃ u, exec (.cwyStatusFrame t h st run f ups) s = .next u ∧ x.pacedAs u ∧ u.cwyUp = true ∧ u.twin.parState = st.toNat ∧
          u.twin.parRun = run.toNat ∧ u.twin.statusAt = some x.clk.now ∧ u.twin.downAt = none ∧
          (∀ l : Fin 32, tabGet (fun _ => false) u.twin.partnerUp l = ups.getLsbD l) ∧
          ∀ n : Fin 4, let g := nth 0 [f.1.toNat, f.2.1.toNat, f.2.2.1.toNat, f.2.2.2.toNat] n
            u.rdF (R.cwyThrStatus n) 19 16 = natBits g 3 0 ∧ u.rdB (R.cwyThrStatus n) 29 = natBit g 4 ∧ u.rdB (R.cwyThrStatus n) 28 = natBit g 5) ∧
      (x.twinOn = true → x.lanesUp = true → ∃ u, exec (.cwyStatusSend t) s = .next u ∧ x.framed { x with twin := u.twin } u [] ∧
        u.twin.txSeq = (x.twin.txSeq + 1) % 2 ^ 32 ∧ let fr := tabGet (fun _ => []) u.twin.sent 7
        fr.length = 6 ∧ fr = cwyFrame 7 15 false x.twin.txSeq 0
          (BitVec.ofNat 64 (x.rdF R.sysState 2 0 + x.rdF R.sysState 15 12 * 16) :: (fr.drop 2).dropLast)) ∧
      (x.twinOn = false ∨ x.lanesUp = false → ∃ u, exec (.cwyStatusSend t) s = .next u ∧ x.framed x u []) ∧
      (x.cwyUp = true → (lanes ≠ 15#4 ∨ ∀ y, x.twin.statusAt = some y → y + 10 * usec ≤ x.clk.now) →
        ∃ u, exec (.cwyDown t lanes) s = .next u ∧ x.pacedAs u ∧ u.cwyUp = false ∧ u.rdF R.cwyStatus 30 27 = lanes.toNat ∧ u.twin.msgs = [] ∧
          u.twin.downAt = some x.clk.now) ∧
      (x.cwyUp = false → x.rdF R.cwyStatus 30 27 = lanes.toNat → ∃ u, exec (.cwyDown t lanes) s = .next u ∧ x.framed x u []))

/-- When the lanes lock the device with the higher `PRIO` is senior, and of two that start together it leads; another image or an equal
strap refuses the later one (R318–R320). A follower that joins takes the leader's count once, in boot, and its period counters (R323). A
search that ends alone makes the device leader and boot goes on (R319). The follower's coast ends with it sending for the threads whose
links hear nobody else, and out of step for the others that run (R337); it drives a modulator clock that its leader no longer drives (R325).
-/
def Obligations.TwinsMeetAndTakeOver : Prop :=
  (∀ (t count : Nat) (h : CwyHdr) (crc p0 p1 p2 p3 : Word) (prio : BitVec 4) (st : BitVec 3) (run : BitVec 4) (s : State), let x := s.upTo t
    let boot := decide (x.rdF R.sysState 2 0 < 3)
    let parBoot := decide (st.toNat < 3)
    let later := boot && (!parBoot || decide (x.prio ≤ prio.toNat))
    (x.pdOn 14 = true → x.twinOn = true → x.boot.search = none → ∃ u, exec (.cwyLanesUp t crc prio st run) s = .next u ∧ x.pacedAs u ∧
      u.lanesUp = true ∧ u.partner = true ∧ u.senior = decide (prio.toNat < x.prio) ∧
      u.leader = (if boot then parBoot && decide (prio.toNat < x.prio) else x.leader) ∧ u.twin.parState = st.toNat ∧ u.twin.parRun = run.toNat ∧
      (prio.toNat = x.prio → u.rdB R.cwyStatus 12 = true) ∧
      (crc.toNat ≠ x.rdN R.bootImageCrc → x.rdF R.bootStatus 31 30 ≠ 0 → later = true → u.rdB R.cwyStatus 8 = true) ∧
      ((crc.toNat ≠ x.rdN R.bootImageCrc ∧ x.rdF R.bootStatus 31 30 ≠ 0 ∨ prio.toNat = x.prio) → later = true →
        u.twin.refused = true ∧ ∀ n : Fin 4, u.inStep n = false ∧ u.rdF (R.cwyThrStatus n) 15 12 = 7)) ∧
    (x.pdOn 14 = true → x.twinOn = true → x.lanesUp = true → h.ok = true → x.twin.refused = false → x.boot.search = none →
      (x.leader = false → x.twin.joined = false → x.rdF R.sysState 2 0 = 1 → ∃ u, exec (.cwyJoinFrame t h count p0 p1 p2 p3) s = .next u ∧
        x.framed { x with clk := u.clk, twin := u.twin, seqs := u.seqs } u [R.cwyCount] ∧
        u.clk = { x.clk with tbBase := (x.clk.now : Int) - (count + x.twin.delay) } ∧ u.twin.joined = true ∧
        ∀ n : Fin 4, let p := nth 0 [p0.toNat, p1.toNat, p2.toNat, p3.toNat] n; u.seq n = { x.seq n with periods := p, everRun := decide (p ≠ 0) }) ∧
      (x.leader = true ∨ x.twin.joined = true ∨ x.rdF R.sysState 2 0 ≠ 1 → ∃ u, exec (.cwyJoinFrame t h count p0 p1 p2 p3) s = .next u ∧
        x.framed { x with twin := u.twin } u [R.cwyCount] ∧ u.twin.joined = x.twin.joined)) ∧
    (x.pdOn 14 = true → x.boot.search ≠ none → let y := x.cwyLanesUp (x.rdN R.bootImageCrc) crc.toNat prio.toNat st.toNat run.toNat
      let z := x.cwyJoin h count [p0.toNat, p1.toNat, p2.toNat, p3.toNat]
      (∃ u, exec (.cwyLanesUp t crc prio st run) s = .next u ∧ u = { (if y.leader then y.bootGo else y).settle with pending := s.pending }) ∧
      ∃ u, exec (.cwyJoinFrame t h count p0 p1 p2 p3) s = .next u ∧
        u = { (if z.twin.joined then z.bootGo else z).settle with pending := s.pending }) ∧
    (x.boot.search = none ∨ x.clk.now < x.clk.relAt + 2 * second → ∃ u, exec (.partnerSearchTimeout t) s = .next u ∧ x.framed x u []) ∧
    (x.boot.search ≠ none → x.clk.relAt + 2 * second ≤ x.clk.now → let y := x.partnerTimeout x.clk.relAt
      (x.twinOn = true → x.partner = false → y.leader = true ∧ ∀ n : Fin 4, y.inStep n = true) ∧
      ∃ u, exec (.partnerSearchTimeout t) s = .next u ∧ u = { y.bootGo.settle with pending := s.pending } ∧ u.boot.search = none ∧
        (u.sysSt = 3 ∨ u.sysSt = 4))) ∧
  (∀ (t : Nat) (k : Fin 8) (s : State), let x := s.upTo t
    (x.twin.downAt = none → ∃ u, exec (.coastEnd t) s = .next u ∧ x.framed x u []) ∧
    (∀ d, x.twin.downAt = some d → x.twinOn = true → x.cwyUp = false → x.leader = false → d + x.rdF R.cwyTiming 25 16 * msec ≤ x.clk.now →
      ∃ u, exec (.coastEnd t) s = .next u ∧ x.pacedAs u ∧ u.twin.downAt = none ∧ ∀ n : Fin 4,
        ((x.threadLinks n).any (fun l => x.rdB (R.stlStatus l) 6) = true → u.inStep n = true ∧ u.parInStep n = false) ∧
        ((x.threadLinks n).any (fun l => x.rdB (R.stlStatus l) 6) = false → x.rdB R.sysState (12 + n) = true ∨ x.threadLinks n ≠ [] → u.inStep n = false ∧
          u.rdB R.cwyStatus 9 = true)) ∧
    (x.twinOn = true → x.leader = false → x.sdClkOn k = true → ∃ u, exec (.clkTakeover t k) s = .next u ∧ x.pacedAs u ∧ u.leader = true ∧ u.rdB R.cwyStatus 11 = true ∧
      ∀ i : Fin 112, x.chEn i = true → x.chClk i = k → (u.chain i).n = (x.chain i).n ∧ (u.chain i).clean = max (x.chain i).n (x.edgeAfter i x.clk.now)) ∧
    (x.twinOn = false ∨ x.leader = true ∨ x.sdClkOn k = false → ∃ u, exec (.clkTakeover t k) s = .next u ∧ x.framed x u []))

/-- A forwarded message reaches the endpoint's queue ahead of new ones and is acknowledged; one without an acknowledgement for 50 µs is sent
again up to three times, then dropped and counted (R339). In a twin that is up, a write to a mirrored register is sent and held by the
primary for a sample instant, and refused by the standby (R327); elsewhere it reaches its register. -/
def Obligations.MessagesAndMirroredWritesCross : Prop :=
  (∀ (t : Nat) (h : CwyHdr) (j : Fin 16) (bytes : List Byte) (q : BitVec 32) (s : State), let x := s.upTo t; let e := x.rd (R.cwyEp j)
    let k := fieldOf e 25 24
    let b := fieldOf e 18 16
    x.pdOn 14 = true →
      (x.twinOn = true → x.lanesUp = true → h.ok = true → x.twin.refused = false →
        ∃ u, exec (.cwyMsgFrame t h j bytes) s = .next u ∧ x.pacedAs u ∧ u.twin.txSeq = (x.twin.txSeq + 1) % 2 ^ 32 ∧
          tabGet (fun _ => []) u.twin.sent 9 = cwyFrame 9 15 false x.twin.txSeq 0 [BitVec.ofNat 64 h.fseq.toNat] ∧
          (bitOf e 31 = false → x.framed { x with twin := u.twin } u [R.cwyCount]) ∧
          (bitOf e 31 = true → fieldOf e 27 26 = 0 → u.rxa k b = rxaForward (x.rxa k b) ⟨wordsOfBytes bytes, false, true, b, 0, 0, 0, x.clk.now⟩) ∧
          (bitOf e 31 = true → fieldOf e 27 26 ≠ 0 → x.framed { x with twin := u.twin, eth := u.eth } u [R.cwyCount] ∧ u.eth.host =
            x.eth.host.filter (fun y => y.fwd) ++ [⟨bytes, 2, x.netTime x.clk.now, some j.val, true, x.clk.now⟩] ++ x.eth.host.filter (fun y => !y.fwd))) ∧
      (x.twin.msgs.find? (fun m => m.fseq == q.toNat) = none → ∃ u, exec (.msgRetry t q) s = .next u ∧ x.framed x u []) ∧
      ∀ m, x.twin.msgs.find? (fun m => m.fseq == q.toNat) = some m → m.at_ + 50 * usec ≤ x.clk.now →
        let rest := x.twin.msgs.filter (fun y => y.fseq != q.toNat)
        (x.cwyUp = true → m.tries < 3 → ∃ u, exec (.msgRetry t q) s = .next u ∧ x.framed { x with twin := u.twin } u [] ∧
          u.twin.msgs = rest ++ [⟨x.twin.txSeq, m.ep, m.bytes, m.tries + 1, x.clk.now⟩]) ∧
        (x.cwyUp = false ∨ 3 ≤ m.tries → ∃ u, exec (.msgRetry t q) s = .next u ∧
          x.framed { x with twin := { x.twin with msgs := rest }, evs := u.evs, irq := u.irq } u [R.cwyFwd] ∧
          u.rdF R.cwyFwd 7 0 = min 255 (x.rdF R.cwyFwd 7 0 + 1))) ∧
  (∀ (t : Nat) (who : Initiator) (a : BitVec 32) (w : Word) (s : State), let x := s.upTo t; let at_ := a.toNat
    x.mayAccess who true = true → isReg at_ = true → x.regAnswers at_ .b4 = true → x.absent at_ = false →
      ((x.twinOn && x.cwyUp && x.partner) = false ∨ x.mirrorThreads at_ w = [] → ∃ u, exec (.mirroredWrite t who a w) s = .next u ∧
        u = { ({ x.regWrite (some who) at_ w with bus := .ok 0#64 } : State).settle with pending := s.pending }) ∧
      ((x.twinOn && x.cwyUp && x.partner) = true → x.mirrorThreads at_ w ≠ [] →
        ((∀ n ∈ x.mirrorThreads at_ w, x.rdB (R.cwyThrStatus n) 27 = false) → ∃ u, exec (.mirroredWrite t who a w) s = .next u ∧
          x.framed { x with bus := .ok 0#64 } u [R.cwyStatus] ∧ u.rd R.cwyStatus = withBit (x.rd R.cwyStatus) 13 true) ∧
        (∀ n, x.mirrorThreads at_ w = [n] → x.rdB (R.cwyThrStatus n) 27 = true →
          let p := (x.seq n).periods + (if x.clk.now + 4 * usec ≤ (x.seq n).sampleAt + x.seqP n then 1 else 2)
          ∃ u, exec (.mirroredWrite t who a w) s = .next u ∧ x.framed { x with twin := u.twin, bus := .ok 0#64 } u [] ∧
            u.thr n = { x.thr n with mirrors := (x.thr n).mirrors ++ [⟨at_, if at_ = R.ceBankCtrl then wordN (2 ^ n) else w, true, x.clk.now, p⟩] })))

/-! ### The Islet -/

/-- The commands of the control die: a refresh starts a snapshot, a log entry is loaded into the window, the entry loaded is acknowledged,
and a test mode is set while the seal is open; `CMD_RESULT` says whether it was refused (R348, R352, R356). Without Strait power nothing
answers. A snapshot with a good CRC moves into the window with the network time of its first word; a bad one is counted and the window stays
(R355). Without a valid one for 1 s the Islet counts as absent. -/
def Obligations.IsletCommandsAndSnapshots : Prop :=
  (∀ (t : Nat) (who : Initiator) (arg : BitVec 28) (s : State), let x := s.upTo t; let v := x.isl; let m := arg.toNat % 4
    x.reaches who R.islCmd 0x10000000#32 = true → x.reaches who R.islCmd (wordN (0x20000000 + arg.toNat)) = true →
    x.reaches who R.islCmd 0x30000000#32 = true → x.reaches who R.islCmd (wordN (0x40000000 + arg.toNat)) = true →
      (v.power = false → ∀ c ∈ [Instr.islRefresh t who, .islLoadLog t who arg, .islAcknowledge t who, .islTestMode t who arg],
        ∃ u, exec c s = .next u ∧ x.framed { x with bus := .ok 0#64 } u []) ∧
      (v.power = true →
        (∃ u, exec (.islRefresh t who) s = .next u ∧ x.framed { x with isl := u.isl, bus := .ok 0#64 } u [R.islStatus] ∧
          u.rdB R.islStatus 24 = false ∧ (v.snap = none → u.isl.snapNo = (v.snapNo + 1) % 2 ^ 32 ∧
            u.isl.snap = some ({ x with isl := { v with snapNo := (v.snapNo + 1) % 2 ^ 32 } } : State).islSnapWords) ∧
          (v.snap ≠ none → u.isl = { v with again := true })) ∧
        (∀ e es, v.log.drop (arg.toNat % 1024) = e :: es → ∃ u, exec (.islLoadLog t who arg) s = .next u ∧
          x.framed { x with bus := .ok 0#64 } u [R.islLog 0, R.islLog 1, R.islLog 2, R.islLog 3, R.islStatus] ∧ u.rd (R.islLog 0) = wordN e.seq ∧
          u.rd (R.islLog 1) = wordN e.rtc ∧ u.rd (R.islLog 2) = wordN (e.code * 2 ^ 24 + e.a) ∧ u.rd (R.islLog 3) = wordN e.b ∧
          u.rdB R.islStatus 24 = false) ∧
        (v.log.drop (arg.toNat % 1024) = [] → ∃ u, exec (.islLoadLog t who arg) s = .next u ∧ x.framed { x with bus := .ok 0#64 } u [R.islStatus] ∧
          u.rdB R.islStatus 24 = true) ∧
        (∃ u, exec (.islAcknowledge t who) s = .next u ∧
          x.framed { x with isl := { v with acked := max v.acked (min (x.rdN (R.islLog 0)) (v.seq - 1)) }, bus := .ok 0#64 } u [R.islStatus] ∧
          u.rdB R.islStatus 24 = false) ∧
        (x.unsealed = false ∨ m = 3 → ∃ u, exec (.islTestMode t who arg) s = .next u ∧ x.framed { x with bus := .ok 0#64 } u [R.islStatus] ∧
          u.rdB R.islStatus 24 = true) ∧
        (x.unsealed = true → m ≠ 3 → ∃ u, exec (.islTestMode t who arg) s = .next u ∧
          x.framed { x with isl := u.isl, bus := .ok 0#64 } u [R.islStatus] ∧ u.rdB R.islStatus 24 = false ∧ u.isl.modeReq = m ∧
          (v.modeReq ≠ m → u.isl.modeAt = x.clk.now ∧ ∃ e, u.isl.log.head? = some e ∧ e.code = 9 ∧ e.a = m)))) ∧
  (∀ (t first : Nat) (ok : Bool) (s : State), let x := s.upTo t; let n := x.netTime first
    (x.isl.snap = none → ∃ u, exec (.islSnapshot t ok first) s = .next u ∧ x.framed x u []) ∧
    (∀ ws, x.isl.snap = some ws →
      (∃ u, exec (.islSnapshot t false first) s = .next u ∧ x.framed { x with isl := u.isl } u [R.islCount] ∧
        u.rdF R.islCount 31 16 = min 65535 (x.rdF R.islCount 31 16 + 1) ∧ (x.isl.again = false → u.isl.snap = none) ∧
        (x.isl.again = true → x.isl.power = true → u.isl.snap ≠ none)) ∧
      ((ws.map (·.1)).Nodup → ∃ u, exec (.islSnapshot t true first) s = .next u ∧
        x.framed { x with isl := u.isl, evs := u.evs, irq := u.irq } u (ws.map (·.1) ++ [R.islStatus, R.islCount, R.islNtS, R.islNtNs]) ∧
        u.rdB R.islStatus 31 = true ∧ u.rdB R.islStatus 24 = x.rdB R.islStatus 24 ∧ u.rdF R.islCount 31 16 = x.rdF R.islCount 31 16 ∧
        u.rd R.islNtS = wordN (ntSec n) ∧ u.rd R.islNtNs = wordN (ntNs n) ∧ u.isl.seenAt = x.clk.now ∧
        (∀ p ∈ ws, p.1 ∉ [R.islStatus, R.islCount, R.islNtS, R.islNtNs] → p.1 ∉ forceRegs → u.rd p.1 = p.2) ∧
        (x.isl.again = false → u.isl.snap = none))) ∧
    (x.isl.seenAt + second ≤ x.clk.now → ∃ u, exec (.islPresentTimeout t) s = .next u ∧ x.framed x u [R.islStatus] ∧
      u.rd R.islStatus = withBit (x.rd R.islStatus) 31 false) ∧
    (x.clk.now < x.isl.seenAt + second → ∃ u, exec (.islPresentTimeout t) s = .next u ∧ x.framed x u []))

/-- A window's quantities are scaled to primary values, for three wires from elements 0 and 2 (R344); the total apparent power is free (log
53). A quantum adds its energies to the registers of its signs, in mWh with the residue kept in nWh; with three wires only the totals count.
The total owes pulses of output P, and a committed block governs from then on (R345, R347, R350). An owed pulse is issued once the output
has been low as long as it was high, but not in test mode 2 (R347, R348); a test mode ends after an hour (R348). A converter clock more than
1000 ppm off stops the metering, and ten seconds within 500 ppm let it go on (R343). -/
def Obligations.MeterMeasuresAndPulses : Prop :=
  (∀ (t : Nat) (m : IslMeas) (s : State), let x := s.upTo t
    let used (k : Nat) : Bool := !x.wiring3 || k == 0 || k == 2
    let w (k : Nat) : Int := if used k then divR 32 (nth 0 m.p k * x.vtNum * x.ctNum) (x.vtDen * x.ctDen * 1000000 : Nat) else 0
    wfMeterWindow m = true → (x.isl.power = false → ∃ u, exec (.meterWindow t m) s = .next u ∧ x.framed x u []) ∧
    (x.isl.power = true → ∃ u, exec (.meterWindow t m) s = .next u ∧ x.framed { x with isl := u.isl, free := x.free + 1 } u [] ∧
      u.isl.snap ≠ none ∧ u.isl.energy = x.isl.energy ∧
      let inst (j : Nat) : Int := tabGet (fun _ => 0) u.isl.inst j
      (∀ k : Fin 4, inst k = (if used k then sat32 (divR 30 (((nth 0 m.v k : Nat) : Int) * x.vtNum) (x.vtDen * 10000 : Nat)) else 0) ∧
        inst (4 + k) = (if used k then sat32 (divR 31 (((nth 0 m.i k : Nat) : Int) * x.ctNum) (x.ctDen * 1000 : Nat)) else 0)) ∧
      (∀ k : Fin 3, inst (8 + k) = if x.wiring3 then 0 else sat32 (w k)) ∧ inst 11 = sat32 (w 0 + w 1 + w 2) ∧
      inst 19 = sat32 (sval x.freshWord))) ∧
  (∀ (t : Nat) (p q : List Int) (s : State), let x := s.upTo t
    let e (l : List Int) (φ : Nat) : Int :=
      if φ < 3 then (if x.wiring3 then 0 else x.islPrimary (nth 0 l φ))
      else x.islPrimary (nth 0 l 0) + (if x.wiring3 then 0 else x.islPrimary (nth 0 l 1)) + x.islPrimary (nth 0 l 2)
    let amount (k : Nat) : Nat := (let y := e (if k < 8 then p else q) (k % 4); (if k / 4 % 2 = 0 then y else -y).toNat)
    let old (k : Nat) : Nat := tabGet (fun _ => 0) x.isl.residue k + amount k
    let c := (x.ipar 22).toNat * 1000000
    let src := fieldOf (x.ipar 24) 1 0
    let d : Nat := if (0 < e p 3 && src != 1) || (e p 3 < 0 && src != 0) then (e p 3).natAbs else 0
    wfMeterQuantum p q = true → (x.metering = false → ∃ u, exec (.meterQuantum t p q) s = .next u ∧ x.framed x u []) ∧
    (x.metering = true → ∃ u, exec (.meterQuantum t p q) s = .next u ∧ x.framed { x with isl := u.isl } u [] ∧
      (∀ k : Fin 16,
        (amount k = 0 → tabGet (fun _ => 0) u.isl.energy k = tabGet (fun _ => 0) x.isl.energy k ∧
          tabGet (fun _ => 0) u.isl.residue k = tabGet (fun _ => 0) x.isl.residue k) ∧
        (amount k ≠ 0 → tabGet (fun _ => 0) u.isl.energy k = (tabGet (fun _ => 0) x.isl.energy k + old k / 1000000) % 2 ^ 64 ∧
          tabGet (fun _ => 0) u.isl.residue k = old k % 1000000)) ∧
      (c ≠ 0 → u.isl.pulseP.owed = min 255 (x.isl.pulseP.owed + (x.isl.pulseP.acc + d * (if x.isl.mode = 1 then 1000 else 1)) / c)) ∧
      (∀ b, x.isl.next = some b → u.isl.par = b ∧ u.isl.next = none) ∧ (x.isl.next = none → u.isl.par = x.isl.par))) ∧
  (∀ (t : Nat) (o : Bool) (s : State), let x := s.upTo t; let y := x.modeTake; let v := y.pulse o
    let ready := y.isl.power = true ∧ y.isl.mode ≠ 2 ∧ 0 < v.owed ∧ ∀ a, v.last = some a → a + 2 * y.pulseWidth ≤ x.clk.now
    (ready → ∃ u, exec (.meterPulse t o) s = .next u ∧ x.framed (y.setPulse o { v with owed := v.owed - 1, last := some x.clk.now }) u [] ∧
      u.pulse o = { x.pulse o with owed := (x.pulse o).owed - 1, last := some x.clk.now } ∧ u.pulse (!o) = x.pulse (!o)) ∧
    (¬ready → ∃ u, exec (.meterPulse t o) s = .next u ∧ x.framed y u []) ∧
    (x.isl.modeReq ≠ 0 → x.isl.modeAt + 3600 * second ≤ x.clk.now → ∃ u, exec (.testModeExpiry t) s = .next u ∧
      x.framed { x with isl := u.isl } u [] ∧ u.isl.modeReq = 0 ∧ ∃ e, u.isl.log.head? = some e ∧ e.code = 9 ∧ e.a = 0) ∧
    (x.isl.modeReq = 0 ∨ x.clk.now < x.isl.modeAt + 3600 * second → ∃ u, exec (.testModeExpiry t) s = .next u ∧ x.framed y u [])) ∧
  (∀ (t : Nat) (dev : Int) (s : State), let x := s.upTo t; let v := x.isl
    (v.power = true → 1000 < dev.natAbs → ∃ u, exec (.islClockCheck t dev) s = .next u ∧ x.framed { x with isl := u.isl } u [] ∧
      u.isl.clkFault = true ∧ u.isl.clkOk = 0 ∧ u.metering = false ∧ (v.clkFault = true → u.isl.log = v.log) ∧
      (v.clkFault = false → ∃ e, u.isl.log.head? = some e ∧ e.code = 7 ∧ e.a = dev.natAbs % 2 ^ 24)) ∧
    (v.power = true → v.clkFault = true → dev.natAbs ≤ 1000 → let n := if dev.natAbs ≤ 500 then v.clkOk + 1 else 0
      ∃ u, exec (.islClockCheck t dev) s = .next u ∧ x.framed { x with isl := { v with clkFault := decide (n < 10), clkOk := n } } u []) ∧
    (v.power = false ∨ (v.clkFault = false ∧ dev.natAbs ≤ 1000) → ∃ u, exec (.islClockCheck t dev) s = .next u ∧ x.framed x u []))

/-- An opening of the seal is counted and logged, also one without power, once power is back (R349). A fall of Strait power is logged with
the energy, a return keeps the energy where it was retained and else starts from zero with the loss counted (R342, R354). The calibration
port answers a command with a good CRC: reads always, writes and commits only while the seal is open; a commit judges the ranges and the
endurance, and its block waits for the end of the quantum (R350, R351). -/
def Obligations.SealPowerAndCalibration : Prop :=
  (∀ (t : Nat) (closed ret : Bool) (p q : List Int) (s : State), let x := s.upTo t; let v := x.isl
    (v.isSealed = closed → ∃ u, exec (.sealChange t closed) s = .next u ∧ x.framed x u []) ∧
    (v.isSealed = true → ∃ u, exec (.sealChange t false) s = .next u ∧ x.framed { x with isl := u.isl } u [] ∧ u.isl.isSealed = false ∧
      u.unsealed = true ∧ (v.power = false → u.isl = { v with isSealed := false, opened := true }) ∧
      (v.power = true → u.isl.seals = min 0xFFFF (v.seals + 1) ∧ u.isl.log.head? = some ⟨v.seq, x.rtc, 3, min 0xFFFF (v.seals + 1), 0⟩)) ∧
    (v.isSealed = false → ∃ u, exec (.sealChange t true) s = .next u ∧ x.framed { x with isl := u.isl } u [] ∧ u.isl.isSealed = true ∧
      u.isl.seals = v.seals ∧ (v.power = true → u.isl.modeReq = 0)) ∧
    (wfStraitPowerFall p q = true → (v.power = false → ∃ u, exec (.straitPowerFall t p q) s = .next u ∧ x.framed x u [R.pdmStatus]) ∧
      (v.power = true → ∃ u, exec (.straitPowerFall t p q) s = .next u ∧ x.framed { x with isl := u.isl } u [R.pdmStatus] ∧ u.isl.power = false ∧
        u.rd R.pdmStatus = withBit (x.rd R.pdmStatus) 1 false ∧ u.isl.mode = 0 ∧ u.isl.modeReq = 0 ∧ u.isl.snap = none ∧ u.isl.downRtc = x.rtc ∧
        ∃ e, u.isl.log.head? = some e ∧ e.code = 2 ∧ e.b = tabGet (fun _ => 0) u.isl.energy 3 % 2 ^ 32)) ∧
    (v.power = true → ∃ u, exec (.straitPowerReturn t ret) s = .next u ∧ x.framed x u [R.pdmStatus]) ∧
    (v.power = false → ∃ u, exec (.straitPowerReturn t ret) s = .next u ∧ x.framed { x with isl := u.isl, free := u.free } u [R.pdmStatus] ∧
      u.rd R.pdmStatus = withBit (x.rd R.pdmStatus) 1 true ∧ u.isl.power = true ∧ u.isl.opened = false ∧
      (v.opened = true → u.isl.seals = min 0xFFFF (v.seals + 1)) ∧
      (ret = true → u.isl.energy = v.energy ∧ u.isl.residue = v.residue ∧ u.isl.losses = v.losses ∧ u.free = x.free) ∧
      (ret = false → u.isl.energy = [] ∧ u.isl.residue = [] ∧ u.isl.losses = min 255 (v.losses + 1) ∧ u.isl.retSeen = true ∧
        u.isl.rtcAt = x.clk.now))) ∧
  (∀ (t : Nat) (idx : Byte) (w : Word) (crcOk : Bool) (s : State), let x := s.upTo t; let v := x.isl; let i := idx.toNat
    (v.power = false ∨ crcOk = false → ∀ c ∈ [Instr.calReadActive t idx crcOk, .calReadStaging t idx crcOk, .calWriteStaging t idx w crcOk,
      .calCommit t idx crcOk], ∃ u, exec c s = .next u ∧ x.framed x u []) ∧
    (v.power = true →
      (∃ u, exec (.calReadActive t idx true) s = .next u ∧
        x.framed (if 24 < i then x.calReply 0xFF i 2 else x.calReply 0x81 i (x.ipar i).toNat) u []) ∧
      (∃ u, exec (.calReadStaging t idx true) s = .next u ∧
        x.framed (if 24 < i then x.calReply 0xFF i 2 else x.calReply 0x84 i (tabGet islParReset v.staging i).toNat) u []) ∧
      (x.unsealed = false → ∀ c ∈ [Instr.calWriteStaging t idx w true, .calCommit t idx true], ∃ u, exec c s = .next u ∧
        x.framed (x.calReply 0xFF i 1) u []) ∧
      (x.unsealed = true →
        (24 < i → ∃ u, exec (.calWriteStaging t idx w true) s = .next u ∧ x.framed (x.calReply 0xFF i 2) u []) ∧
        (i ≤ 24 → ∃ u, exec (.calWriteStaging t idx w true) s = .next u ∧
          x.framed { x with isl := { v with staging := u.isl.staging, reply := (x.calReply 0x82 i 0).isl.reply } } u [] ∧
          ∀ j, tabGet islParReset u.isl.staging j = if j = i then w else tabGet islParReset v.staging j) ∧
        let good := (List.range 25).all (fun j => islRange j (tabGet islParReset v.staging j))
        (good = false → ∃ u, exec (.calCommit t idx true) s = .next u ∧ x.framed (x.calReply 0xFF i 2) u []) ∧
        (good = true → 1000 ≤ v.commits → ∃ u, exec (.calCommit t idx true) s = .next u ∧ x.framed (x.calReply 0xFF i 3) u []) ∧
        (good = true → v.commits < 1000 → ∃ u, exec (.calCommit t idx true) s = .next u ∧ x.framed { x with isl := u.isl } u [] ∧
          u.isl.commits = v.commits + 1 ∧ u.isl.next = some v.staging ∧ u.isl.par = v.par ∧ u.isl.reply = (x.calReply 0x83 i 0).isl.reply ∧
          ∃ e, u.isl.log.head? = some e ∧ e.code = 5))))

/-! ### The recorder -/

/-- An idle or halted capture unit that is armed begins to fill its first free slot at the next interval boundary, or waits for one, but not
in the Harbour state (R445); a stop completes a running capture as stopped and takes the unit to `IDLE` (R363). A slot is full once its
records and its header are in DRAM; software frees it by a write of 1, and a unit that waits for a slot fills it (R362, R363). `SERVICE` is
software's (R365). A bus line is driven for 1.0 µs (R368), and a timed hold-off ends after its time, with the next capture where `AUTO` asks
for it (R363). -/
def Obligations.CaptureUnitsRun : Prop :=
  (∀ (t : Nat) (who : Initiator) (k : Fin 8) (s : State), let x := s.upTo t; let iv := x.capIv k
    let now := ntTotalNs (x.netTime x.clk.now)
    let y := x.intervalClose k 0
    (x.reaches who (R.recCapCtrl k) 1#32 = true →
      (x.rdF R.sysState 2 0 ≠ 4 → x.capEn k = true → x.capState k = 0 ∨ x.capState k = 6 → ∃ u, exec (.recArm t who k) s = .next u ∧
        x.framed { x with rec_ := u.rec_, evs := u.evs, irq := u.irq, bus := .ok 0#64 } u [R.recCapStatus k] ∧
        (∀ j, x.capFree k 0 = some j → u.capState k = 1 ∧ u.capSlot k = j % 32 ∧ u.capH k = 0 ∧ (u.cap k).from_ = (now + iv - 1) / iv * iv ∧
          (u.cap k).cur = (u.cap k).from_ ∧ (u.cap k).idx = 0 ∧ (u.cap k).trig = none ∧ (u.cap k).armed = false) ∧
        (x.capFree k 0 = none → u.capState k = 5)) ∧
      (x.rdF R.sysState 2 0 = 4 ∨ x.capEn k = false ∨ (x.capState k ≠ 0 ∧ x.capState k ≠ 6) → ∃ u, exec (.recArm t who k) s = .next u ∧
        x.framed { x with bus := .ok 0#64 } u [])) ∧
    (x.reaches who (R.recCapCtrl k) 2#32 = true → ∃ u, exec (.recStop t who k) s = .next u ∧ ({ x with bus := .ok 0#64 } : State).pacedAs u ∧
      (1 ≤ y.capState k → y.capState k ≤ 3 → u.capState k = 0 ∧ (u.cap k).seqNo = (y.cap k).seqNo + 1 ∧ (u.cap k).deadFrom = x.clk.now ∧
        (u.cap k).fin = (y.cap k).fin ++ [(y.capSlot k, y.capHeader k false true)] ∧
        u.rdF (R.recCapCount k) 31 16 = min 65535 (y.rdF (R.recCapCount k) 31 16 + 1)) ∧
      (y.capState k = 4 ∨ y.capState k = 5 → u.capState k = 0) ∧
      (y.capState k = 0 ∨ 5 < y.capState k → x.framed { y with bus := .ok 0#64 } u
        [R.recCapStatus k, R.recCapCount k, R.recCapDead k, R.recCapDeadTotal k]))) ∧
  (∀ (t : Nat) (who : Initiator) (k : Fin 8) (w : Word) (v : BitVec 2) (s : State), let x := s.upTo t; let c := x.cap k; let f := R.recCapFull k
    let z := x.storeReg f w
    (c.fin = [] → ∃ u, exec (.slotComplete t k) s = .next u ∧ x.framed x u []) ∧
    (∀ p rest, c.fin = p :: rest → p.1 < 32 →
      let y := (x.capDrain k c.queue.length).setBytes (x.capSlotAddr k p.1) p.2
      ∃ u, exec (.slotComplete t k) s = .next u ∧ x.framed (y.setCap k { c with queue := [], fin := rest }) u [f] ∧ u.rdB f p.1 = true ∧
        ∀ i, i ≠ p.1 → u.rdB f i = x.rdB f i) ∧
    (x.reaches who f w = true → ∃ u, exec (.slotFree t who k w) s = .next u ∧
      (∀ i : Fin 32, bitOf (wordN ((regRow f).elim 0 (·.w1c))) i = true → bitOf (x.raisedNow f) i = false →
        u.rdB f i = (x.rdB f i && !bitOf w i)) ∧
      (x.capState k ≠ 5 → x.framed { x with bus := .ok 0#64 } u [f]) ∧
      (x.capState k = 5 → x.framed { x with rec_ := u.rec_, evs := u.evs, irq := u.irq, bus := .ok 0#64 } u [f, R.recCapStatus k] ∧
        (∀ j, z.capFree k (x.capSlot k + 1) = some j → u.capState k = 1 ∧ u.capSlot k = j % 32) ∧
        (z.capFree k (x.capSlot k + 1) = none → u.capState k = 5))) ∧
    (x.reaches who (R.recCapService k) (v.setWidth 32) = true → ∃ u, exec (.recServiceWrite t who k v) s = .next u ∧
      x.framed { x with bus := .ok 0#64 } u [R.recCapService k] ∧ u.rdF (R.recCapService k) 1 0 = v.toNat)) ∧
  (∀ (t : Nat) (k : Fin 8) (b : Fin 4) (s : State), let x := s.upTo t; let e := tabGet (fun _ => 0) x.rec_.drive b
    let due := x.capState k = 4 ∧ x.rdB (R.recCapCfg k) 29 = false ∧ (x.cap k).holdFrom + x.rdF (R.recCapHold k) 31 16 * msec ≤ x.clk.now
    (e ≠ 0 → e ≤ x.clk.now → ∃ u, exec (.trigBusDriveEnd t b) s = .next u ∧
      x.framed { x with rec_ := { x.rec_ with drive := tabSet (fun _ => 0) x.rec_.drive b 0 } } u [] ∧ u.busDriven b = false) ∧
    (x.clk.now < e → x.busDriven b = true ∧ x.busLevel b = true) ∧
    (e = 0 ∨ x.clk.now < e → ∃ u, exec (.trigBusDriveEnd t b) s = .next u ∧ x.framed x u []) ∧
    (due → ∃ u, exec (.holdTEnd t k) s = .next u ∧ x.framed { x with rec_ := u.rec_, evs := u.evs, irq := u.irq } u [R.recCapStatus k] ∧
      u.capState k = (if x.rdB (R.recCapCfg k) 30 then (if (x.capFree k (x.capSlot k + 1)).isSome then 1 else 5) else 0)) ∧
    (¬due → ∃ u, exec (.holdTEnd t k) s = .next u ∧ x.framed x u []))

/-- The earliest open interval of a filling unit closes `CLOSE_DELAY` after its end: one record for each channel is queued, or all are
dropped where they do not fit; `READY` follows the pre-trigger intervals, and the capture completes with its last post-trigger interval
(R359–R363). The number of records that reached DRAM is the command's (log 31). A trigger that reaches a filling or ready unit whose capture
has begun is accepted at its instant; a unit that is idle, waiting or halted counts it as missed (R363). Software fires now, `FIRE_AT` once
at the time set, and a line of the trigger bus at its edge less its delay (R366–R368). -/
def Obligations.IntervalsCloseAndTriggersAreTaken : Prop :=
  (∀ (t n : Nat) (k : Fin 8) (s : State), let x := s.upTo t; let y := x.capDrain k n; let c := y.cap k
    let len := y.capIv k * 2 ^ y.capH k
    let due := y.capEn k = true ∧ 1 ≤ y.capState k ∧ y.capState k ≤ 3 ∧
      c.cur + len + 1000 * y.rdF (R.recCapClose k) 15 0 ≤ ntTotalNs (y.netTime y.clk.now)
    (¬due → ∃ u, exec (.intervalClose t k n) s = .next u ∧ x.framed y u []) ∧
    (due → ∃ u, exec (.intervalClose t k n) s = .next u ∧ y.pacedAs u ∧ (u.cap k).idx = c.idx + 1 ∧ (u.cap k).cur = c.cur + len ∧
      (c.queue.length + y.capCount k ≤ 1536 → (u.cap k).queue = c.queue ++ y.recordsOf k c.cur len false ∧
        (y.capState k = 1 → u.capState k = if y.capPre k ≤ c.idx + 1 then 2 else 1) ∧ (y.capState k = 2 → u.capState k = 2) ∧
        (∀ g i, c.trig = some g → g.idx = some i → y.capState k = 3 →
          (i + y.capPost k ≤ c.idx + 1 → u.capState k = 4 ∧ (u.cap k).fin.length = c.fin.length + 1) ∧
          (c.idx + 1 < i + y.capPost k → u.capState k = 3 ∧ (u.cap k).fin = c.fin))) ∧
      (2048 < c.queue.length + y.capCount k → (u.cap k).dropped = c.dropped + y.capCount k))) ∧
  (∀ (t high : Nat) (who : Initiator) (k : Fin 8) (b : Fin 4) (mask : BitVec 8) (s : State), let x := s.upTo t; let a := R.recBus b
    let regs := (List.range 8).flatMap (fun j => [R.recCapStatus j, R.recCapCount j, R.recCapDead j, R.recCapDeadTotal j, R.recCapFireAtNs j]) ++
      (List.range 4).map R.recBus
    let now := x.netTime x.clk.now
    let taken (code at_ only : Nat) (u : State) : Prop := x.framed { x with rec_ := u.rec_, evs := u.evs, irq := u.irq, bus := u.bus } u regs ∧
      ∀ j : Fin 8, x.capEn j = true → x.capSelects j code = true → natBit only j = true →
        (isBusCode code = true ∨ Nat.land (x.rdF (R.recCapCfg j) 23 20) (x.rdF (R.recCapCfg j) 19 16) = 0) →
        (x.capState j = 1 ∨ x.capState j = 2 → (x.cap j).from_ ≤ ntTotalNs at_ → u.capState j = 3 ∧
          ∃ g, (u.cap j).trig = some g ∧ g.at_ = at_) ∧
        (x.capState j = 0 ∨ x.capState j = 5 ∨ x.capState j = 6 → u.capState j = x.capState j ∧ (x.cap j).missed < (u.cap j).missed)
    (x.reaches who R.recFire (mask.setWidth 32) = true → ∃ u, exec (.recFire t who mask) s = .next u ∧ taken 1 now mask.toNat u ∧
      u.bus = .ok 0#64) ∧
    (x.rdB (R.recCapFireAtNs k) 31 = true → x.fireAt k ≤ now → ∃ u, exec (.fireAt t k) s = .next u ∧ taken 2 (x.fireAt k) (2 ^ k.val) u ∧
      u.rdB (R.recCapFireAtNs k) 31 = false) ∧
    (x.rdB (R.recCapFireAtNs k) 31 = false ∨ now < x.fireAt k → ∃ u, exec (.fireAt t k) s = .next u ∧ x.framed x u []) ∧
    (x.rdB a 31 = true → usec ≤ high → ∃ u, exec (.trigBusEdge t b high) s = .next u ∧
      taken (0x010 + b) (x.netTime (x.clk.now - 19 * tbCycle) - x.rdF a 13 0 * 2 ^ 34) 0xFF u ∧ u.rdB a 16 = true ∧ u.rdB a 17 = true) ∧
    (x.rdB a 31 = true → high < usec → ∃ u, exec (.trigBusEdge t b high) s = .next u ∧ x.framed x u [a] ∧ u.rd a = withBit (x.rd a) 16 true) ∧
    (x.rdB a 31 = false → ∃ u, exec (.trigBusEdge t b high) s = .next u ∧ x.framed x u []))

/-! ### Network time -/

/-- Every step keeps the network-time counter's last change in the past or at the coming tick (R371, R372). -/
def Obligations.TimeChangesLieAtTheNextTick : Prop :=
  ∀ s s', (s.tim.baseAt ≤ s.clk.now ∨ s.tim.baseAt = s.nextTick) → step s = .next s' → s'.tim.baseAt ≤ s'.clk.now ∨ s'.tim.baseAt = s'.nextTick

/-- A new increment is written as a pair, `TIME_INC_NS` first; the write of `TIME_INC_FRAC` makes it count from the next tick on, unless it
lies outside 7.996–8.004 ns, when `INC_REFUSED` is set and the old one stays (R371). -/
def Obligations.IncrementsCountFromTheNextTick : Prop :=
  ∀ (t : Nat) (who : Initiator) (w : Word) (s : State), let x := s.upTo t; let T := x.nextTick; let ns := x.rdF R.timeIncNs 3 0
    let full := 2 ^ 48 * ntSecond
    (x.reaches who R.timeIncNs w = true → ∃ u, exec (.registerWrite t who (BitVec.ofNat 40 R.timeIncNs) .b4 (w.setWidth 64)) s = .next u ∧
      x.framed { x with bus := .ok 0#64 } u [R.timeIncNs] ∧ u.rdF R.timeIncNs 3 0 = fieldOf w 3 0) ∧
    (x.reaches who R.timeIncFrac w = true →
      (7996 * 2 ^ 32 ≤ (ns * 2 ^ 32 + w.toNat) * 1000 → (ns * 2 ^ 32 + w.toNat) * 1000 ≤ 8004 * 2 ^ 32 →
        ∃ u, exec (.timeIncWrite t who w) s = .next u ∧ x.framed { x with tim := u.tim, bus := .ok 0#64 } u [R.timeIncFrac] ∧
          u.rd R.timeIncFrac = w ∧
          (∀ a, T ≤ a → u.netTime a = (x.netTime T + (a - T) / fabCycle * (ns * 2 ^ 32 + w.toNat)) % full) ∧
          (x.tim.baseAt ≤ x.clk.now ∨ x.tim.baseAt = T → ∀ a, x.clk.now ≤ a → a < T → u.netTime a = x.netTime a)) ∧
      ((ns * 2 ^ 32 + w.toNat) * 1000 < 7996 * 2 ^ 32 ∨ 8004 * 2 ^ 32 < (ns * 2 ^ 32 + w.toNat) * 1000 →
        ∃ u, exec (.timeIncWrite t who w) s = .next u ∧ x.framed { x with bus := .ok 0#64 } u [R.timeIncFrac, R.timeStatus] ∧
          u.rd R.timeStatus = withBit (x.rd R.timeStatus) 3 true))

/-- A read of `TIME_NS` latches the seconds and the fraction for the reading initiator's next reads, which are then coherent, whatever
another initiator reads between (R373). -/
def Obligations.TimeReadsAreCoherent : Prop :=
  ∀ (t : Nat) (who other : Initiator) (s : State), let x := s.upTo t; let n := x.netTime x.clk.now
    x.readReaches who R.timeNs = true → ∃ u, exec (.timeNsRead t who) s = .next u ∧
      x.framed { x with tim := u.tim, bus := .ok ((wordN (ntNs n)).setWidth 64) } u [] ∧
      (∀ a, u.netTime a = x.netTime a) ∧
      u.showReg who R.timeSLo = wordN (ntSec n % 2 ^ 32) ∧ u.showReg who R.timeSHi = wordN (ntSec n / 2 ^ 32 % 2 ^ 16) ∧
      u.showReg who R.timeFrac = wordN (ntFrac n) ∧
      (other ≠ who → ∀ a ∈ [R.timeSLo, R.timeSHi, R.timeFrac], u.showReg other a = x.showReg other a)

/-- Software sets the time once, and then steps it within `JUMP_LIMIT`; both act at the next tick, and what is refused sets its flag (R372).
Other coherent reads: the low half of the PWM timebase latches the high half, the Ulile agent in a latch of its own (R212, R384), the high
half of an engine's angle its low half (R154), and an even performance counter its chained partner (R426); which holds its events so far
(log 57). -/
def Obligations.TimeIsSetSteppedAndReadWhole : Prop :=
  (∀ (t : Nat) (who : Initiator) (s : State), let x := s.upTo t; let st := R.timeStatus; let a := x.timeArg
    let d : Int := if x.rdB R.timeArgNs 31 then -(a : Int) else a
    let lim := x.rdN R.timeJumpLimit * 1000
    (x.reaches who R.timeCtrl 2#32 = true →
      (x.rdB st 0 = true → ∃ u, exec (.timeSet t who) s = .next u ∧ x.framed { x with bus := .ok 0#64 } u [st] ∧
        u.rd st = withBit (x.rd st) 2 true) ∧
      (x.rdB st 0 = false → ∃ u, exec (.timeSet t who) s = .next u ∧ x.framed { x with tim := u.tim, bus := .ok 0#64 } u [st] ∧
        u.rd st = withBit (x.rd st) 0 true ∧ u.netTime x.nextTick = a * 2 ^ 34 % (2 ^ 48 * ntSecond))) ∧
    (x.reaches who R.timeCtrl 1#32 = true →
      (lim = 0 ∨ lim < a → ∃ u, exec (.timeStep t who) s = .next u ∧ x.framed { x with bus := .ok 0#64 } u [st] ∧
        u.rd st = withBit (x.rd st) 2 true) ∧
      (lim ≠ 0 → a ≤ lim → ∃ u, exec (.timeStep t who) s = .next u ∧ ({ x with bus := .ok 0#64 } : State).pacedAs u ∧ u.rdB st 1 = true ∧
        u.rdF R.timeStepCount 31 0 = min (2 ^ 32 - 1) (x.rdF R.timeStepCount 31 0 + 1) ∧
        (u.netTime x.nextTick : Int) = ((x.netTime x.nextTick : Int) + d * 2 ^ 34) % (2 ^ 48 * ntSecond : Nat)))) ∧
  (∀ (t : Nat) (who : Initiator) (n : Fin 4) (p : Fin 5) (c : Fin 4) (s : State), let x := s.upTo t; let b := (x.tb / 32).toNat
    let k := 2 * c.val
    let y := x.pmuHold p k x.coreCyc
    (x.readReaches who R.pwmTbLo = true → ∃ u, exec (.pwmTbLoRead t who) s = .next u ∧ u.bus = .ok ((wordN b).setWidth 64) ∧
      u.showReg who R.pwmTbHi = wordN (b / 2 ^ 32) ∧
      (who = .ulile → x.framed { x with tim := { x.tim with tbUli := b / 2 ^ 32 }, bus := u.bus } u []) ∧
      (who ≠ .ulile → x.framed { x with bus := u.bus } u [R.pwmTbHi])) ∧
    (x.readReaches who (R.gfeOmegaAccHi n) = true → ∃ u, exec (.omegaAccHiRead t who n) s = .next u ∧
      x.framed { x with gpar := u.gpar, bus := .ok ((x.gfeShow n (R.gfeOmegaAccHi n)).setWidth 64) } u [] ∧
      u.showReg who (R.gfeOmegaAccLo n) = tabGet regReset (x.kept n).regs (R.gfeOmegaAccLo n)) ∧
    (x.readReaches who (R.pmuPcnt p k) = true → tabGet (fun _ => (none : Option Word)) x.pmu.latch (8 * p + k) = none →
      ∃ u, exec (.pmuEvenRead t who p c) s = .next u ∧
        y.framed { y with pmu := u.pmu, bus := .ok ((y.rd (R.pmuPcnt p k)).setWidth 64) } u [] ∧
        (x.pmuChained p (k + 1) = true → (u.pmuRead p (k + 1)).2 = y.rd (R.pmuPcnt p (k + 1))) ∧
        (x.pmuChained p (k + 1) = false → u.pmu = y.pmu)) ∧
    ∀ y, x.readReaches who (R.pmuPcnt p k) = true → tabGet (fun _ => (none : Option Word)) x.pmu.latch (8 * p + k) = some y →
      ∃ u, exec (.pmuEvenRead t who p c) s = .next u ∧ x.framed { x with pmu := u.pmu, bus := .ok (y.setWidth 64) } u [])

/-! ### Ethernet and Ulile -/

/-- A frame that enters a port that passes frames is learned and forwarded: to the port where its destination was learned, else to all the
others, in the queue of its priority; a role-addressed datagram reaches port 2 in the primary alone; a frame that is too long, and one for
which the buffer has no room, is dropped and counted (R338, R375, R376). The first frame of the highest queue leaves a port, and at port 2
reaches the host. Where the transparent clock is on, an event message is corrected by its residence, a Sync by the peer delay as well; a
two-step Sync leaves as it came, and its Follow_Up takes the correction (R376, R377). The peer delay of a port is half of what the exchange
took less its turnaround; an address leaves the table 300 s after it was last seen; a port follows its link; and a read of `ETH_TS_3`
advances the time-stamps (R375, R378, R379). -/
def Obligations.EthernetSwitchesFrames : Prop :=
  (∀ (t : Nat) (p : Fin 3) (bytes : List Byte) (s : State), let x := s.upTo t
    let f : EthFrame := ⟨bytes, p, x.netTime x.clk.now, none, false, x.clk.now⟩
    let known : Option Nat := if natBit (beAt bytes 0 1) 0 then none
      else ((x.ethLearn p bytes).eth.macs.find? (fun m => m.1 == ethDst bytes)).map (·.2.1)
    let outs := if x.tcP2p && ptpPdelay bytes then [] else [0, 1, 2].filter (fun o => o != p.val && x.ethUp o && (known.getD o) == o)
    let ep := (udpPort bytes).bind x.udpEndpoint
    wfEthFrameIngress bytes = true → (x.pdOn 14 = false ∨ x.ethUp p = false → ∃ u, exec (.ethFrameIngress t p bytes) s = .next u ∧ x.framed x u []) ∧
    (x.pdOn 14 = true → x.ethUp p = true →
      (1518 < bytes.length → ∃ u, exec (.ethFrameIngress t p bytes) s = .next u ∧ x.framed x u [R.ethDrop p] ∧
        u.rdF (R.ethDrop p) 31 16 = min 65535 (x.rdF (R.ethDrop p) 31 16 + 1) ∧ u.rdF (R.ethDrop p) 15 0 = x.rdF (R.ethDrop p) 15 0) ∧
      (bytes.length ≤ 1518 → ∃ u, exec (.ethFrameIngress t p bytes) s = .next u ∧
        x.framed { x with eth := u.eth, evs := u.evs, irq := u.irq, twin := u.twin } u
          [R.ethTcStatus, R.ethDrop 0, R.ethDrop 1, R.ethDrop 2, R.cwyFwd] ∧
        (2 ∉ outs ∨ ep = none → u.twin = x.twin) ∧
        (∀ j, 2 ∈ outs → ep = some j → let n := x.rdF (R.cwyEp j) 30 28
          let kept := x.twin.ignored.filter (fun m => m.cyc == x.clk.now / fabCycle)
          (x.primary n = true → u.twin = x.twin) ∧ (x.primary n = false →
            u.twin = { x.twin with ignored := kept ++ [⟨x.clk.now / fabCycle, n, .inr { f with ep := some j }⟩] })) ∧
        u.eth.macs = (x.ethLearn p bytes).eth.macs ∧
        (∀ o : Fin 3, ∀ q : Fin 8, o.val ∉ outs ∨ q.val ≠ x.ethPrio f → u.ethQueue o q = x.ethQueue o q) ∧
        (x.ethShared + 3 * bytes.length ≤ 65536 → ∀ o ∈ outs, let q := x.ethPrio f
          (o ≠ 2 ∨ ep = none → u.ethQueue o q = x.ethQueue o q ++ [f]) ∧
          (∀ j, o = 2 → ep = some j →
            u.ethQueue 2 q = x.ethQueue 2 q ++ (if x.primary (x.rdF (R.cwyEp j) 30 28) then [{ f with ep := some j }] else []) ∧
            (x.primary (x.rdF (R.cwyEp j) 30 28) = false → u.rdF R.cwyFwd 19 8 = min 4095 (x.rdF R.cwyFwd 19 8 + 1)))) ∧
        (∀ o : Fin 2, outs = [o.val] → let q := x.ethPrio f
          65536 < (x.setEthQueue o q (x.ethQueue o q ++ [f])).ethShared → u.ethQueue o q = x.ethQueue o q ∧
            u.rdF (R.ethDrop o) 15 0 = min 65535 (x.rdF (R.ethDrop o) 15 0 + 1))))) ∧
  (∀ (t : Nat) (p : Fin 3) (s : State), let x := s.upTo t
    let first := [7, 6, 5, 4, 3, 2, 1, 0].find? (fun q => !(x.ethQueue p q).isEmpty)
    (x.pdOn 14 = false ∨ x.ethUp p = false ∨ first = none → ∃ u, exec (.ethFrameEgress t p) s = .next u ∧ x.framed x u []) ∧
    (x.pdOn 14 = true → x.ethUp p = true → ∀ q f rest, first = some q → x.ethQueue p q = f :: rest →
      ∃ u, exec (.ethFrameEgress t p) s = .next u ∧ x.framed { x with eth := u.eth, evs := u.evs, irq := u.irq } u [R.ethTcStatus] ∧
        u.ethQueue p q = rest ∧
        let out := tabGet (fun _ => []) u.eth.sent p
        let waits := tabGet (fun _ => []) x.eth.syncs p
        (p = 2 → u.eth.host = x.eth.host ++ [{ f with bytes := out }]) ∧ (p ≠ 2 → u.eth.host = x.eth.host) ∧
        (ptpAt f.bytes = none ∨ x.tcEn = false → out = f.bytes) ∧
        ∀ o, ptpAt f.bytes = some o → x.tcEn = true → let ty := beAt f.bytes o 1 % 16
          let corr := shrRound ((x.netTime x.clk.now : Int) - f.at_) 18 + (if ty = 0 then x.ethPeer f else 0)
          (ptpEvent f.bytes = true → ¬(ty = 0 ∧ ptpTwoStep f.bytes o = true) → out = ptpCorrect f.bytes o corr) ∧
          (ptpEvent f.bytes = true → ty = 0 → ptpTwoStep f.bytes o = true → out = f.bytes ∧
            (⟨ptpSeq f.bytes o, ptpSource f.bytes o, corr⟩ : SyncWait) ∈ tabGet (fun _ => []) u.eth.syncs p) ∧
          (ptpEvent f.bytes = false → ty = 8 →
            (∀ w, waits.find? (fun w => w.seq == ptpSeq f.bytes o && w.src == ptpSource f.bytes o) = some w →
              out = ptpCorrect f.bytes o w.corr ∧ w ∉ tabGet (fun _ => []) u.eth.syncs p) ∧
            (waits.find? (fun w => w.seq == ptpSeq f.bytes o && w.src == ptpSource f.bytes o) = none → out = f.bytes ∧
              u.rdF R.ethTcStatus 15 0 = min 65535 (x.rdF R.ethTcStatus 15 0 + 1))) ∧
          (ptpEvent f.bytes = false → ty ≠ 8 → out = f.bytes))) ∧
  (∀ (t : Nat) (who : Initiator) (p : Fin 2) (a : BitVec 48) (t1 t2 t3 t4 : Int) (up : Bool) (s : State), let x := s.upTo t
    (x.pdOn 14 = false → (∃ u, exec (.pdelayExchange t p t1 t2 t3 t4) s = .next u ∧ x.framed x u []) ∧
      (∃ u, exec (.macAgeOut t a) s = .next u ∧ x.framed x u []) ∧ ∃ u, exec (.ethLinkChange t p up) s = .next u ∧ x.framed x u []) ∧
    (x.pdOn 14 = true →
      (x.tcP2p = true → x.ethUp p = true → ∃ u, exec (.pdelayExchange t p t1 t2 t3 t4) s = .next u ∧ x.framed x u [R.ethPortPdelay p] ∧
        u.rd (R.ethPortPdelay p) = wordN (min 0xFFFFFFFF (shrRound ((t4 - t1) - (t3 - t2)) 17).toNat)) ∧
      (x.tcP2p = false ∨ x.ethUp p = false → ∃ u, exec (.pdelayExchange t p t1 t2 t3 t4) s = .next u ∧ x.framed x u []) ∧
      (let macs := x.eth.macs.filter (fun m => m.1 != a.toNat || decide (x.clk.now < m.2.2 + 300 * second))
        ∃ u, exec (.macAgeOut t a) s = .next u ∧ x.framed { x with eth := { x.eth with macs := macs } } u []) ∧
      (x.rdB (R.ethPortCfg p) 29 = up → ∃ u, exec (.ethLinkChange t p up) s = .next u ∧ x.framed x u []) ∧
      (x.rdB (R.ethPortCfg p) 29 = !up → ∃ u, exec (.ethLinkChange t p up) s = .next u ∧ x.framed { x with evs := u.evs, irq := u.irq } u
        [R.ethPortCfg p] ∧ u.rd (R.ethPortCfg p) = withBit (x.rd (R.ethPortCfg p)) 29 up)) ∧
    (x.readReaches who R.ethTs3 = true → ∃ u, exec (.ethTsPop t who) s = .next u ∧
      x.framed { x with eth := { x.eth with stamps := x.eth.stamps.drop 1 }, bus := .ok ((x.ethTsWord 3).setWidth 64) } u []))

/-- A request for this agent waits in its queue behind those before it; the queue holds eight, and a request that finds it full is counted
(R380–R382). In reset nothing is received. The agent serves the request at the head item by item and replies after the last: it reads
points, writes registers where writing is allowed and not in the Harbour state, reads memory inside its windows, and identifies the device
(R382–R384). What the reply holds beyond point and status is free where no rule states it (log 69). -/
def Obligations.UlileRequestsAreServed : Prop :=
  (∀ (t : Nat) (via : UliVia) (bytes : List Byte) (s : State), let x := s.upTo t
    let msg := if via = .uart then uartMessage bytes else some bytes
    (x.sysSt = 0 ∨ msg = none → ∃ u, exec (.ulileRequest t via bytes) s = .next u ∧ x.framed x u []) ∧
    ∀ m, x.sysSt ≠ 0 → msg = some m →
      ((x.uliMine via && msgOk via m) = false → ∃ u, exec (.ulileRequest t via bytes) s = .next u ∧ x.framed x u []) ∧
      ((x.uliMine via && msgOk via m) = true → ∃ u, exec (.ulileRequest t via bytes) s = .next u ∧
        x.framed { x with uli := { x.uli with queue := u.uli.queue } } u [R.uliCount] ∧ u.uli.queue.length ≤ 8 ∧
        ((∀ r ∈ x.uli.queue, r.cyc ≠ x.clk.now / fabCycle) →
          u.uli.queue = (x.uli.queue ++ [(⟨via, x.clk.now / fabCycle, m⟩ : UliReq)]).take 8) ∧
        (x.uli.queue.length < 8 → u.uli.queue.length = x.uli.queue.length + 1 ∧ x.framed { x with uli := { x.uli with queue := u.uli.queue } } u []) ∧
        (8 ≤ x.uli.queue.length → u.rdF R.uliCount 15 0 = min 65535 (x.rdF R.uliCount 15 0 + 1)))) ∧
  (∀ (t : Nat) (s : State), let x := s.upTo t
    let cmds : List (Instr × Nat) := [(.ulileRead t, 1), (.ulileWrite t, 2), (.ulileMemoryRead t, 3), (.ulileIdentify t, 4)]
    (∀ c ∈ cmds, (∀ r, x.uli.queue.head? = some r → msgCmd r.msg ≠ c.2) → ∃ u, exec c.1 s = .next u ∧ x.framed x u []) ∧
    (∀ c ∈ cmds, ∀ r rest, x.uli.queue = r :: rest → msgCmd r.msg = c.2 → uliCount r.via r.msg = 0 → ∃ u, exec c.1 s = .next u ∧
      x.framed { x with uli := u.uli } u [R.uliCount] ∧ u.uli.queue = rest ∧ u.uli.item = 0 ∧ u.uli.out = [] ∧ u.uli.reply ≠ none ∧
      u.rdF R.uliCount 31 16 = min 65535 (x.rdF R.uliCount 31 16 + 1)) ∧
    (∀ c ∈ cmds, ∀ r rest, x.uli.queue = r :: rest → msgCmd r.msg = c.2 → uliCount r.via r.msg ≠ 0 →
      let m := r.msg
      let i := x.uli.item
      let y := x.uliServeItem m i
      let last := uliCount r.via m ≤ i + 1
      ∃ u, exec c.1 s = .next u ∧ y.1.framed { y.1 with uli := u.uli } u [R.uliCount] ∧
        (last → u.uli.queue = y.1.uli.queue.drop 1 ∧ u.uli.item = 0 ∧ u.uli.out = [] ∧ u.rdF R.uliCount 31 16 = min 65535 (y.1.rdF R.uliCount 31 16 + 1)) ∧
        (¬last → u.uli = { y.1.uli with item := i + 1, out := x.uli.out ++ y.2 }) ∧
        (c.2 = 1 → let p := msgAt m (8 + 4 * i) 3
          (∀ a, pointReg p = some a → x.regAnswers a .b4 = true → x.absent a = false → y = ((x.regRead .ulile a).1, uliStamped p (x.regRead .ulile a).2 0
            (x.netTime x.clk.now))) ∧
          (0x800000 ≤ p → p < 0x801000 → y = (x, x.uliReadSig p (p - 0x800000)))) ∧
        (c.2 = 2 → let p := msgAt m (8 + 8 * i) 3
          let w := wordN (msgAt m (12 + 8 * i) 4)
          (y.2.drop 3).head? = some (BitVec.ofNat 8 (x.uliWritePoint p w).2) ∧
          (x.rdF R.sysState 2 0 = 4 → x.uliWritePoint p w = (x, 4)) ∧
          (x.rdF R.sysState 2 0 ≠ 4 → x.rdB R.uliCfg 28 = false → x.uliWritePoint p w = (x, 3)) ∧
          (∀ a, pointReg p = some a → x.rdF R.sysState 2 0 ≠ 4 → x.rdB R.uliCfg 28 = true → x.regAnswers a .b4 = true → x.absent a = false →
            (x.twinOn && x.cwyUp && x.partner) = false → ∀ b, y.1.rd b = (x.regWrite (some .ulile) a w).rd b)) ∧
        (c.2 = 3 → let a := msgAt m 8 5
          let n := msgAt m 13 2
          (n = 0 ∨ 1024 < n ∨ x.uliWindow a n = false → (y.2.drop 3).head? = some 2#8 ∧ y.2.length = 20) ∧
          (∀ bs, (x.memRead a n).2 = some bs → (x.memRead a n).1 = x → n ≠ 0 → n ≤ 1024 → x.uliWindow a n = true → (y.2.drop 3).head? = some 0#8 ∧ y.2.drop 20 = bs))))

/-! ### CAN -/

/-- A request makes a buffer pending, and an FD frame without `FD_EN` fails at once; an abort ends a pending buffer, or is latched while it
is on the bus; of a request and an abort in one cycle the abort wins; the buffer reserved for the pitch request answers cores with `FOREIGN`
(R389, R390, R392). At an opportunity the reserved buffer goes first, else the lowest-numbered pending one or that of the lowest arbitration
field; a loser stays pending, but for `ONE_SHOT` (R390, R391). -/
def Obligations.CanBuffersAndArbitration : Prop :=
  (∀ (t : Nat) (who : Initiator) (k : Fin 4) (m : BitVec 3) (s : State), let x := s.upTo t; let c := x.can k; let cyc := x.canCyc k
    let own (b : Fin 3) : Bool := b == 0 && (x.canReserved k).isSome
    let gone (b : Fin 3) : Bool := c.abts.contains (b.val, cyc)
    let st (u : State) (b : Nat) : Nat := u.rdF (R.canTxbStat k b) 31 28
    let regs := [R.canTxreq k, R.canTxbStat k 0, R.canTxbStat k 1, R.canTxbStat k 2, R.canIrq k]
    (x.reaches who (R.canTxreq k) (m.setWidth 32) = true → ∃ u, exec (.canTxReq t who k m) s = .next u ∧
      x.framed { x with cans := u.cans, evs := u.evs, irq := u.irq, bus := .ok 0#64 } u regs ∧ u.can k = { c with reqs := (u.can k).reqs } ∧ ∀ b : Fin 3,
        let bad := bitOf (x.rd (R.canTxbWord k b 0)) 31 && !x.rdB (R.canCfg k) 24
        (m.getLsbD b = false ∨ (x.canPending k b || gone b) = true ∧ own b = false → u.canPending k b = x.canPending k b ∧ st u b = st x b) ∧
        (m.getLsbD b = true → own b = true → u.canPending k b = x.canPending k b ∧ u.rdB (R.canTxbStat k b) 25 = true) ∧
        (m.getLsbD b = true → own b = false → x.canPending k b = false → gone b = false → u.canPending k b = !bad ∧ st u b = if bad then 4 else 1)) ∧
    (x.reaches who (R.canTxAbort k) (m.setWidth 32) = true → ∃ u, exec (.canTxAbort t who k m) s = .next u ∧
      x.framed { x with cans := u.cans, evs := u.evs, irq := u.irq, bus := .ok 0#64 } u regs ∧
      u.can k = { c with abort := (u.can k).abort, abts := (u.can k).abts } ∧ ∀ b : Fin 3,
        (m.getLsbD b = false ∨ x.canPending k b = false ∧ own b = false → u.canPending k b = x.canPending k b ∧ st u b = st x b) ∧
        (m.getLsbD b = true → own b = true → u.canPending k b = x.canPending k b ∧ u.rdB (R.canTxbStat k b) 25 = true) ∧
        (m.getLsbD b = true → own b = false → x.canPending k b = true →
          (c.bus = some b.val → u.canPending k b = true ∧ (u.can k).abort = true) ∧
          (c.bus ≠ some b.val → let now := c.reqs.find? (fun r => r.1 == b.val && r.2.1 == cyc)
            u.canPending k b = false ∧ (now = none → st u b = 3) ∧ (∀ r, now = some r → u.rd (R.canTxbStat k b) = r.2.2))) ∧
        (m.getLsbD b = true → own b = false → x.canPending k b = false → c.okAt = some (b.val, cyc) → u.rdB (R.canTxbStat k b) 27 = true))) ∧
  (∀ (t : Nat) (k : Fin 4) (s : State), let x := s.upTo t; let c := x.can k
    let ready := x.pdOn 14 = true ∧ x.canMaySend k = true ∧ c.bus = none
    let res (b : Nat) : Bool := b == 0 && (x.canReserved k).isSome
    (∀ lost, ¬ready ∨ x.canChoose k = none → ∃ u, exec (.canArbitration t k lost) s = .next u ∧ x.framed x u []) ∧
    (∀ b, x.canChoose k = some b → ready →
      (∃ u, exec (.canArbitration t k false) s = .next u ∧
        x.framed (x.setCan k { c with bus := some b, abort := false, sof := x.canStampAt k x.clk.now }) u []) ∧
      (∃ u, exec (.canArbitration t k true) s = .next u ∧ (u.can k).bus = none ∧
        (res b = false → x.rdB (R.canCfg k) 25 = true → u.canPending k b = false ∧ u.rdF (R.canTxbStat k b) 31 28 = 4) ∧
        (res b = true ∨ x.rdB (R.canCfg k) 25 = false → x.framed { x with cans := u.cans } u []))) ∧
    (∀ b, x.canChoose k = some b → b < 3 ∧ x.canPending k b = true ∧
      (res 0 = true → x.canPending k 0 = true → b = 0) ∧
      (res 0 = false ∨ x.canPending k 0 = false → ∀ i : Fin 3, x.canPending k i = true →
        if x.rdB (R.canCfg k) 28 then b ≤ i else x.canRank k b ≤ x.canRank k i)) ∧
    (∀ i : Fin 3, x.canPending k i = true → x.canChoose k ≠ none))

/-- A frame that becomes valid ends its buffer with success, the instant of its start and one error less (R392, R393, R398, R402); the
measured delay is kept (R387). In internal loopback the controller receives it itself (R385). An error raises the transmitter's counter by 8
and the receiver's by 1 or 8, and the controller's state follows them: error passive from 128, bus-off above 255 (R402; the exceptions of
ISO 11898-1 are presumed, log 33). A buffer aborted, or at its retransmission limit, is not sent again (R391, R392). -/
def Obligations.CanFramesSucceedOrErr : Prop :=
  (∀ (t tdc : Nat) (k : Fin 4) (s : State), let x := s.upTo t; let c := x.can k
    (x.pdOn 14 = false ∨ c.bus = none → ∃ u, exec (.canTxSuccess t k tdc) s = .next u ∧ x.framed x u []) ∧
    (∀ b : Fin 3, x.pdOn 14 = true → c.bus = some b.val → let fdf := bitOf (x.rd (R.canTxbWord k b 0)) 31; let fd := bitOf (x.rd (R.canTxbWord k b 0)) 31 && bitOf (x.rd (R.canTxbWord k b 0)) 30
      ∃ u, exec (.canTxSuccess t k tdc) s = .next u ∧ (x.canMode k ≠ 2 → x.framed { x with cans := u.cans, evs := u.evs, irq := u.irq } u
          [R.canStatus k, R.canTdc k, R.canTxbTs k b, R.canTxbWord k b 1, R.canTxreq k, R.canTxbStat k b, R.canIrq k, R.canCount k]) ∧
        (x.canMode k = 2 → x.canTec k ≤ 256 → x.canReceives k (x.canBufFrame k b) = true → (u.can k).cnt = (c.cnt + 1) % 256) ∧
        (fdf = true → u.rd (R.canTxbWord k b 1) = withBit (x.rd (R.canTxbWord k b 1)) 8 (decide (x.canState k = 1))) ∧
        (fdf = false → u.rd (R.canTxbWord k b 1) = x.rd (R.canTxbWord k b 1)) ∧
        (u.can k).bus = none ∧ u.rdF (R.canStatus k) 11 4 = 0 ∧ u.canPending k b = false ∧ u.rdF (R.canTxbStat k b) 31 28 = 2 ∧ u.rdB (R.canTxbStat k b) 27 = c.abort ∧
        u.rd (R.canTxbTs k b) = wordN c.sof ∧ u.canTec k = x.canTec k - 1 ∧ u.rdB (R.canStatus k) 12 = false ∧ u.rdB (R.canIrq k) b = true ∧
        (x.rdB (R.canDbt k) 31 = true → fd = true → u.rdF (R.canTdc k) 6 0 = min tdc 127) ∧
        (x.rdB (R.canDbt k) 31 = false ∨ fd = false → u.rd (R.canTdc k) = x.rd (R.canTdc k)))) ∧
  (∀ (t : Nat) (k : Fin 4) (e : CanErr) (s : State), let x := s.upTo t; let c := x.can k
    let live := x.pdOn 14 = true ∧ x.canEn k = true ∧ x.canState k < 2
    let next (tec rec_ : Nat) : Nat := if 255 < tec then 2 else if 128 ≤ tec ∨ 128 ≤ rec_ then 1 else 0
    let errs (u : State) : Prop := u.rdF (R.canCount k) 15 0 = min 65535 (x.rdF (R.canCount k) 15 0 + 1)
    (¬live → ∃ u, exec (.canFrameError t k e) s = .next u ∧ x.framed x u []) ∧
    (live → e.tx = true → c.bus = none → ∃ u, exec (.canFrameError t k e) s = .next u ∧ x.framed x u [R.canCount k] ∧ errs u) ∧
    (live → e.tx = false → let r := min 255 (x.canRec k + (if e.dominant then 8 else 1))
      ∃ u, exec (.canFrameError t k e) s = .next u ∧ x.framed { x with cans := u.cans, evs := u.evs, irq := u.irq } u
          [R.canCount k, R.canStatus k, R.canIrq k] ∧ errs u ∧ u.canRec k = r ∧ u.canTec k = x.canTec k ∧ u.canState k = next (x.canTec k) r) ∧
    (∀ b : Fin 3, live → e.tx = true → c.bus = some b.val →
      let tec := min 511 (x.canTec k + (if e.exempt || (e.ack && x.canState k == 1) then 0 else 8))
      let res := b == 0 && (x.canReserved k).isSome
      ∃ u, exec (.canFrameError t k e) s = .next u ∧ x.framed { x with cans := u.cans, evs := u.evs, irq := u.irq } u
          [R.canCount k, R.canStatus k, R.canIrq k, R.canTxreq k, R.canTxbStat k b] ∧ errs u ∧ (u.can k).bus = none ∧ u.canTec k = tec ∧
        u.canRec k = x.canRec k ∧ u.canState k = next tec (x.canRec k) ∧
        u.rdF (R.canStatus k) 11 4 = (if e.ack then min 255 (x.rdF (R.canStatus k) 11 4 + 1) else x.rdF (R.canStatus k) 11 4) ∧
        let tries := min 255 (x.rdF (R.canTxbStat k b) 7 0 + 1); let lim := x.rdF (R.canCfg k) 23 16
        u.rdF (R.canTxbStat k b) 7 0 = tries ∧
        (c.abort = true → u.canPending k b = false ∧ u.rdF (R.canTxbStat k b) 31 28 = 3) ∧
        (c.abort = false → res = false → x.rdB (R.canCfg k) 25 = true → u.canPending k b = false ∧ u.rdF (R.canTxbStat k b) 31 28 = 4) ∧
        (c.abort = false → res = false → x.rdB (R.canCfg k) 25 = false → 0 < lim → lim ≤ tries →
          u.canPending k b = false ∧ u.rdF (R.canTxbStat k b) 31 28 = 4) ∧
        (c.abort = false → res = true ∨ (x.rdB (R.canCfg k) 25 = false ∧ (lim = 0 ∨ tries < lim)) → u.canPending k b = x.canPending k b)))

/-- A controller leaves bus-off after 128 sequences of recessive bits, by itself or when software asks, with its counters at 0 (R403). A
controller without pending buffers is asked to sleep, sleeps after 11 recessive bits, and wakes, also on its way into sleep, when its
condition is met, with `PD_14` where that is configured (R399–R401, R466). -/
def Obligations.CanLeavesBusOffAndSleeps : Prop :=
  (∀ (t : Nat) (who : Initiator) (k : Fin 4) (s : State), let x := s.upTo t; let c := x.can k
    let left (u : State) : Prop := u.canState k = 0 ∧ u.canTec k = 0 ∧ u.canRec k = 0 ∧ u.can k = { c with boDone := false, boAsk := false }
    (x.pdOn 14 = false ∨ x.canState k ≠ 2 → ∃ u, exec (.busOffRecoveryCount t k) s = .next u ∧ x.framed x u []) ∧
    (x.pdOn 14 = true → x.canState k = 2 →
      ((x.rdB (R.canCfg k) 26 || c.boAsk) = true → ∃ u, exec (.busOffRecoveryCount t k) s = .next u ∧
        x.framed { x with cans := u.cans, evs := u.evs, irq := u.irq } u [R.canStatus k] ∧ left u) ∧
      ((x.rdB (R.canCfg k) 26 || c.boAsk) = false → ∃ u, exec (.busOffRecoveryCount t k) s = .next u ∧
        x.framed (x.setCan k { c with boDone := true }) u [])) ∧
    (x.reaches who (R.canCtrl k) 8#32 = true →
      (x.canState k ≠ 2 → ∃ u, exec (.boRecover t who k) s = .next u ∧ x.framed { x with bus := .ok 0#64 } u []) ∧
      (x.canState k = 2 → c.boDone = true → ∃ u, exec (.boRecover t who k) s = .next u ∧
        x.framed { x with cans := u.cans, evs := u.evs, irq := u.irq, bus := .ok 0#64 } u [R.canStatus k] ∧ left u) ∧
      (x.canState k = 2 → c.boDone = false → ∃ u, exec (.boRecover t who k) s = .next u ∧
        x.framed { x.setCan k { c with boAsk := true } with bus := .ok 0#64 } u []))) ∧
  (∀ (t : Nat) (who : Initiator) (k : Fin 4) (seen : WakeSeen) (s : State), let x := s.upTo t; let c := x.can k
    let busy := [0, 1, 2].any (fun b => x.canPending k b)
    (x.reaches who (R.canCtrl k) 16#32 = true →
      (busy = true → ∃ u, exec (.sleepReq t who k) s = .next u ∧ x.framed { x with bus := .ok 0#64 } u [R.canStatus k] ∧
        u.rd (R.canStatus k) = withBit (x.rd (R.canStatus k)) 2 true) ∧
      (busy = false → x.canState k = 3 → ∃ u, exec (.sleepReq t who k) s = .next u ∧ x.framed { x with bus := .ok 0#64 } u []) ∧
      (busy = false → x.canState k ≠ 3 → ∃ u, exec (.sleepReq t who k) s = .next u ∧
        x.framed { x.setCan k { c with sleep := true } with bus := .ok 0#64 } u [])) ∧
    (x.pdOn 14 = true → c.sleep = true → c.bus = none → ∃ u, exec (.canSleepEntry t k) s = .next u ∧
      x.framed { x.setCan k { c with sleep := false, wakeErrs := 0 } with evs := u.evs, irq := u.irq } u [R.canStatus k, R.canWakeStatus k] ∧ u.canState k = 3 ∧
      u.rdF (R.canWakeStatus k) 31 30 = 0) ∧
    (x.pdOn 14 = false ∨ c.sleep = false ∨ c.bus ≠ none → ∃ u, exec (.canSleepEntry t k) s = .next u ∧ x.framed x u []) ∧
    (wfCanWake seen = true →
      (x.canListening k = false → ∃ u, exec (.canWake t k seen) s = .next u ∧ x.framed x u []) ∧
      (x.canListening k = true → x.wakeMeets k seen = none → ∃ u, exec (.canWake t k seen) s = .next u ∧
        x.framed (x.setCan k { c with wakeErrs := x.wakeCount k seen }) u []) ∧
      (∀ y, x.wakeMeets k seen = some y → x.canListening k = true → ∃ u, exec (.canWake t k seen) s = .next u ∧
        x.framed { x with cans := u.cans, pdm := u.pdm, evs := u.evs, irq := u.irq } u
          [R.canWakeStatus k, R.canStatus k, R.canCount k, R.canIrq k] ∧
        u.rd (R.canWakeStatus k) = wordN (y.1 * 2 ^ 30 + y.2) ∧ (u.can k).sleep = false ∧ u.canState k ≠ 3 ∧ u.rdB (R.canIrq k) 21 = true ∧
        (x.rdB R.pdmCfg 0 = true → x.pdOn 14 = false → u.pdMoving 14 = 2))))

/-- A frame that Ulile does not take goes to the class-A buffer that it matches, unless its role is the partner's, else through the class-B
filters to the FIFO; a full class-A buffer loses its newest, a full FIFO the frame (R338, R394–R397). A pop takes the first frame of the
FIFO, unless that frame entered the empty FIFO in the same cycle, and a release the first of each buffer named, and the next one stands in
the window (R395–R397); a capture takes the counter and the network time together (R398). -/
def Obligations.CanFramesAreReceivedAndRead : Prop :=
  (∀ (t sof : Nat) (k : Fin 4) (f : CanFrame) (s : State), let x := s.upTo t; let c := x.can k; let r := x.canRxOf k (x.canStampAt k sof) f
    let via : UliVia := .can k (BitVec.ofNat 30 (b2n f.ide * 2 ^ 29 + f.ident))
    let flt := x.fltGo f (x.rdB (R.canFltCfg k) 31) (min 256 (x.rdF (R.canFltCfg k) 8 0)) 0 (0x08000000 + x.rdF (R.canFltBase k) 23 4 * 16)
    wfCanRxFrame f = true → (x.pdOn 14 = false ∨ x.canMode k = 2 ∨ (x.canReceives k f = false ∧ (x.uliMine via && x.rdB R.bootStatus 28) = false) →
      ∃ u, exec (.canRxFrame t k sof f) s = .next u ∧ x.framed x u []) ∧
    (x.pdOn 14 = true → x.canMode k ≠ 2 → x.canReceives k f = true → ∃ u, exec (.canRxFrame t k sof f) s = .next u ∧ x.pacedAs u ∧
      (u.can k).cnt = (c.cnt + 1) % 256 ∧ (x.canRec k ≤ 127 → u.canRec k = x.canRec k - 1 ∧ u.free = x.free) ∧
      (127 < x.canRec k → 119 ≤ u.canRec k ∧ u.canRec k ≤ 127) ∧
      (x.uliMine via = true → u.uli = (x.uliRequest via f.data).uli ∧ (u.can k).fifo = c.fifo ∧ ∀ j, u.rxa k j = x.rxa k j) ∧
      (x.uliMine via = false → u.uli = x.uli ∧
        (∀ j, x.canMatchA k f = some j → (u.can k).fifo = c.fifo ∧ (∀ i, i ≠ j → u.rxa k i = x.rxa k i) ∧
          let mine := (x.canEndpoint k j).all (fun n => x.primary n)
          (mine = true → u.rxa k j = if (x.rxa k j).length < 4 then x.rxa k j ++ [{ r with idx := j }]
            else (x.rxa k j).dropLast ++ [{ r with idx := j, overrun := true }]) ∧
          (mine = false → u.rxa k j = x.rxa k j ∧ u.rdF R.cwyFwd 19 8 = min 4095 (x.rdF R.cwyFwd 19 8 + 1))) ∧
        (x.canMatchA k f = none → (∀ j, u.rxa k j = x.rxa k j) ∧
          (∀ i g, flt = .accept i g → c.fifo.length < 64 → (u.can k).fifo = c.fifo ++ [{ r with idx := i, tag := g }]) ∧
          (∀ i g, flt = .accept i g → 64 ≤ c.fifo.length → (u.can k).fifo = c.fifo ∧ u.rdB (R.canIrq k) 17 = true) ∧
          (flt = .reject → (u.can k).fifo = c.fifo) ∧
          (flt = .ecc → (u.can k).fifo = c.fifo ∧ u.rdB (R.canIrq k) 22 = true)))) ∧
    (x.pdOn 14 = true → x.canMode k ≠ 2 → x.canReceives k f = false → (x.uliMine via && x.rdB R.bootStatus 28) = true →
      ∃ u, exec (.canRxFrame t k sof f) s = .next u ∧ x.framed { x with uli := (x.uliRequest via f.data).uli } u [R.uliCount])) ∧
  (∀ (t : Nat) (who : Initiator) (k : Fin 4) (m : BitVec 8) (s : State), let x := s.upTo t; let c := x.can k; let n := x.netTime x.clk.now
    let shows (u : State) (base : Nat) (r : Option CanRx) : Prop := ∀ i : Fin 20,
      u.rd (base + 4 * i) = (match r with | some r => nth 0#32 (r.words ++ [wordN r.stat, wordN r.ts]) i | none => 0#32)
    let window (base : Nat) : List Nat := (List.range 20).map (fun i => base + 4 * i)
    (x.reaches who (R.canCtrl k) 64#32 = true → c.entered = some (x.canCyc k) → ∃ u, exec (.canRxPop t who k) s = .next u ∧
      x.framed { x with bus := .ok 0#64 } u []) ∧
    (x.reaches who (R.canCtrl k) 64#32 = true → c.entered ≠ some (x.canCyc k) → ∃ u, exec (.canRxPop t who k) s = .next u ∧
      x.framed (x.setCan k { c with fifo := c.fifo.drop 1 } |> fun y => { y with bus := .ok 0#64 }) u
        (R.canIrq k :: R.canFifoLevel k :: window (R.canFifoWord k 0)) ∧
      u.rdB (R.canIrq k) 16 = decide (1 < c.fifo.length) ∧ u.rdF (R.canFifoLevel k) 6 0 = (c.fifo.length - 1) % 128 ∧
      shows u (R.canFifoWord k 0) (c.fifo.drop 1).head?) ∧
    (x.reaches who (R.canRxaRel k) (m.setWidth 32) = true → ∃ u, exec (.canRxaRel t who k m) s = .next u ∧
      x.framed { x with cans := u.cans, bus := .ok 0#64 } u (R.canIrq k :: (List.range 8).flatMap (fun j => window (R.canRxaWord k j 0))) ∧
      ∀ j : Fin 8, u.rxa k j = (if m.getLsbD j then (x.rxa k j).drop 1 else x.rxa k j) ∧
        (m.getLsbD j = true → u.rdB (R.canIrq k) (8 + j) = decide (1 < (x.rxa k j).length) ∧
          shows u (R.canRxaWord k j 0) ((x.rxa k j).drop 1).head?)) ∧
    (x.reaches who (R.canCtrl k) 32#32 = true → ∃ u, exec (.tscCap t who k) s = .next u ∧
      x.framed { x with bus := .ok 0#64 } u [R.canTscAt k, R.canTscNtS k, R.canTscNtNs k] ∧ u.rd (R.canTscAt k) = wordN (x.canTscAt k x.clk.now) ∧
      u.rd (R.canTscNtS k) = wordN (ntSec n) ∧ u.rdF (R.canTscNtNs k) 29 0 = ntNs n))

/-! ### Core pairs, memories, Ferry, counters and debug -/

/-- A mismatch stops a running pair, counts, and is a failure of its watchdog pair; another pair may restart it at its vector where it is
present, powered, served and outside the Harbour state (log 58), never the pair itself (R407). A claim gives the pending source of the
highest priority above the threshold, the lower number among equals, and hides it until its completion; another completion is an error
(R410, R411). Of two pairs that claim in one cycle the lower-numbered receives the higher (log 102). A software interrupt is set by a write
and cleared by its completion. -/
def Obligations.CorePairsAndInterrupts : Prop :=
  (∀ (t : Nat) (who : Initiator) (p : Fin 5) (s : State), let x := s.upTo t; let a := R.sysCpStatus p
    let go := x.rdB a 31 = true ∧ x.rdB a 30 = false ∧ x.pdOn (x.pairHome p) = true ∧ x.pairServed p = true ∧ x.rdF R.sysState 2 0 ≠ 4
    (x.rdB a 30 = false → ∃ u, exec (.lockstepMismatch t p) s = .next u ∧ x.framed x u []) ∧
    (x.rdB a 30 = true → ∃ u, exec (.lockstepMismatch t p) s = .next u ∧ x.pacedAs u ∧ u.rdB a 30 = false ∧ u.rdB a 28 = true ∧
      u.rdF a 15 0 = min 65535 (x.rdF a 15 0 + 1) ∧ u.rdB (R.smonWdReact p) 8 = true ∧
      (x.rdB (R.smonWdReact p) 4 = true → ∀ n : Fin 4, x.threadHere n = true → x.rdB (R.smonWdReact p) n = true → u.forceOf n ≠ 0)) ∧
    (x.reaches who (R.sysCpCtrl p) 1#32 = true →
      (∀ q, who = .core q → q.val = p.val → ∃ u, exec (.cpRestart t who p) s = .next u ∧ x.framed { x with bus := .ok 0#64 } u [a] ∧
        u.rd a = withBit (x.rd a) 27 true) ∧
      (∀ q, who = .core q → q.val ≠ p.val →
        (go → let y := x.pmuHoldPair p x.coreCyc; ∃ u, exec (.cpRestart t who p) s = .next u ∧
          y.framed { y with prot := u.prot, bus := .ok 0#64 } u (a :: (List.range 4).map R.smonForce) ∧
          u.rd a = withBit (withBit (withBit (x.rd a) 30 true) 29 false) 28 false ∧
          ∀ n : Fin 4, (u.smon n).causes = (x.smon n).causes.filter (fun c => c != 16 * p.val + 9)) ∧
        (¬go → ∃ u, exec (.cpRestart t who p) s = .next u ∧ x.framed { x with bus := .ok 0#64 } u [])) ∧
      ((∀ q, who ≠ .core q) → ∃ u, exec (.cpRestart t who p) s = .next u ∧ x.framed { x with bus := .ok 0#64 } u []))) ∧
  (∀ (t : Nat) (who : Initiator) (p : Fin 5) (sup : Bool) (w : Word) (b : BitVec 8) (s : State), let x := s.upTo t
    let a := if sup then R.sysIrqClaimS p else R.sysIrqClaimM p
    let th := if sup then x.rdF (R.sysIrqThresh p) 19 16 else x.rdF (R.sysIrqThresh p) 3 0
    let me := 1 + 2 * p.val + b2n sup
    let i := fieldOf w 7 0
    (x.readReaches who a = true → x.irqAbove p = [] →
      ((∀ j, j < 153 → x.irqPrio p sup j ≤ th) → ∃ u, exec (.irqClaim t who p sup) s = .next u ∧
        x.framed { x with irq := { x.irq with got := u.irq.got }, bus := .ok 0#64 } u []) ∧
      (∀ k, k < 153 → th < x.irqPrio p sup k → (∀ j, j < 153 → x.irqPrio p sup j ≤ x.irqPrio p sup k) →
        (∀ j, j < k → x.irqPrio p sup j < x.irqPrio p sup k) → ∃ u, exec (.irqClaim t who p sup) s = .next u ∧
          x.framed { x with irq := u.irq, bus := .ok ((wordN k).setWidth 64) } u [] ∧ u.irqClaimed k = me ∧ (4 ≤ k → u.irqPending k = false) ∧
          ∀ j, j ≠ k → u.irqClaimed j = x.irqClaimed j ∧ u.irqPending j = x.irqPending j)) ∧
    (∀ q, x.readReaches who a = true → x.irqAbove p = [q] → let z := x.irqBack (q / 2) (q % 2 == 1)
      ∃ u, exec (.irqClaim t who p sup) s = .next u ∧ x.framed { x with irq := u.irq, bus := u.bus } u [] ∧
        ∀ k, k < 153 → th < z.irqPrio p sup k → (∀ j, j < 153 → z.irqPrio p sup j ≤ z.irqPrio p sup k) →
          (∀ j, j < k → z.irqPrio p sup j < z.irqPrio p sup k) → u.bus = .ok ((wordN k).setWidth 64) ∧ (u.irqGot (q / 2) (q % 2 == 1)).2 ≠ k ∧
            (4 ≤ k → u.irqClaimed k = me)) ∧
    (x.reaches who a w = true →
      (x.irqClaimed i = me → ∃ u, exec (.irqComplete t who p sup w) s = .next u ∧
        x.framed { x with irq := { x.irq with claimed := tabSet (fun _ => 0) x.irq.claimed i 0 }, bus := .ok 0#64 } u [R.sysSwi] ∧
        u.rd R.sysSwi = if 145 ≤ i ∧ i ≤ 152 ∧ bitOf (x.raisedNow R.sysSwi) (i - 145) = false then withBit (x.rd R.sysSwi) (i - 145) false else x.rd R.sysSwi) ∧
      (x.irqClaimed i ≠ me → ∃ u, exec (.irqComplete t who p sup w) s = .next u ∧ x.framed { x with bus := .ok 0#64 } u [R.sysIrqErr] ∧
        u.rdF R.sysIrqErr 7 0 = i ∧ u.rdB R.sysIrqErr 31 = true)) ∧
    (x.reaches who R.sysSwi (b.setWidth 32) = true → ∃ u, exec (.swiSet t who b) s = .next u ∧ x.framed { x with bus := .ok 0#64 } u [R.sysSwi] ∧
      u.rd R.sysSwi = x.rd R.sysSwi ||| b.setWidth 32))

/-- A scrub pass counts what it corrects and what it cannot, captures the first address, and marks the unit that holds an uncorrectable
error; with scrubbing off nothing happens (R414). An invalidation names a domain, or one page of it, and on completion no entry of it is
left; a second one is not taken while it runs (R416). A read of `IOMMU_FAULT_2` takes the first fault (R415). -/
def Obligations.ScrubAndIommu : Prop :=
  (∀ (t a : Nat) (corr unc : List Nat) (s : State), let x := s.upTo t; let e := R.sysEcc (eccIndex a)
    let captured (u : State) : Prop := x.rdB R.sysEccAddrHi 31 = false → u.rd R.sysEccAddrLo = wordN a ∧ u.rdF R.sysEccAddrHi 2 0 = a / 2 ^ 32 % 8 ∧
      u.rdB R.sysEccAddrHi 31 = true
    (x.rdF R.sysMemCfg 7 0 = 0 → ∃ u, exec (.scrubPass t corr unc) s = .next u ∧ x.framed x u []) ∧
    (∃ u, exec (.scrubPass t corr unc) s = .next u ∧ u.clk = x.clk ∧ u.mem.cells = x.mem.cells) ∧
    (x.rdF R.sysMemCfg 7 0 ≠ 0 → memRegion a x.dramEnd ≠ none →
      (∃ u, exec (.scrubPass t [a] []) s = .next u ∧
        x.framed { x with wear := { x.wear with errs := u.wear.errs } } u [e, R.sysEccAddrLo, R.sysEccAddrHi] ∧
        (eccIndex a = 0 → u.wear = x.wear) ∧ (eccIndex a = 2 → x.clk.now ∈ tabGet (fun _ => []) u.wear.errs (bankOfAddr a)) ∧
        u.rdF e 31 16 = min 65535 (x.rdF e 31 16 + 1) ∧ u.rdF e 15 0 = x.rdF e 15 0 ∧ captured u) ∧
      ∃ u, exec (.scrubPass t [] [a]) s = .next u ∧ u.rdF e 15 0 = min 65535 (x.rdF e 15 0 + 1) ∧ captured u ∧ u.eccBad a 1 = true ∧
        u.mem = { x.mem with bad := tabSet (fun _ => false) x.mem.bad (eccUnit a) true })) ∧
  (∀ (t : Nat) (who : Initiator) (w : Word) (s : State), let x := s.upTo t; let v := x.iom
    let page := if bitOf w 31 then some (x.rdF R.iommuInvPage 26 0) else none
    (x.reaches who R.iommuInv w = true →
      (x.rdB R.iommuInv 30 = true → ∃ u, exec (.iommuInvalidate t who w) s = .next u ∧ x.framed { x with bus := .ok 0#64 } u []) ∧
      (x.rdB R.iommuInv 30 = false → ∃ u, exec (.iommuInvalidate t who w) s = .next u ∧
        x.framed { x with iom := { v with inv := some (fieldOf w 19 16, page) }, bus := .ok 0#64 } u [R.iommuInv] ∧ u.rdB R.iommuInv 30 = true)) ∧
    (v.inv = none → ∃ u, exec (.iommuInvComplete t) s = .next u ∧ x.framed x u []) ∧
    (∀ d pg, v.inv = some (d, pg) → ∃ u, exec (.iommuInvComplete t) s = .next u ∧ x.framed { x with iom := u.iom } u [R.iommuInv] ∧
      u.rd R.iommuInv = withBit (x.rd R.iommuInv) 30 false ∧ u.iom.inv = none ∧ u.iom.fifo = v.fifo ∧
      (∀ e, e ∈ u.iom.tlb ↔ e ∈ v.tlb ∧ ¬(e.dom = d ∧ ∀ q, pg = some q → e.vpn = q / 2 ^ (9 * e.level) * 2 ^ (9 * e.level)))) ∧
    (x.readReaches who R.iommuFault2 = true → ∃ u, exec (.iommuFaultPop t who) s = .next u ∧
      x.framed { x with iom := { v with fifo := v.fifo.drop 1 }, bus := .ok ((x.iomHead 2).setWidth 64) } u []))

/-- `GO` starts a queue that stands still at its first descriptor, `RESUME` one that stopped in a fault, and `ABORT` stops one that runs,
waits or is in a fault; in a burst it waits for its end, and whether it comes late is free (log 61). What a queue's state does not allow
sets `CMD_ERR` or nothing (R417, R421, R422). The engine serves the ready queue of the highest priority, in turn among equals (R420); a
burst between memories in a bypassed domain reads its source at its start (R415, R418), and its end writes the destination and counts; the
last burst of a chain ends in `DONE` (R417). -/
def Obligations.FerryMovesData : Prop :=
  (∀ (t : Nat) (who : Initiator) (q : Fin 32) (s : State), let x := s.upTo t; let a := R.fryQStatus q; let f := x.fq q; let st := x.fqState q
    let stopped := { f with abort := 0, regData := none, loaded := false, frame := none }
    (x.reaches who (R.fryQCtrl q) 1#32 = true →
      (st = 0 ∨ st = 4 ∨ st = 5 → ∃ u, exec (.ferryGo t who q) s = .next u ∧
        x.framed { x.setFq q FryQ.init with bus := .ok 0#64 } u [a, R.fryQDesc q, R.fryQDone q] ∧ u.fqState q = 1 ∧
        u.rdF (R.fryQDesc q) 23 3 = x.rdF (R.fryQStart q) 23 3 ∧ u.fqDone q = 0) ∧
      (st ≠ 0 → st ≠ 4 → st ≠ 5 → ∃ u, exec (.ferryGo t who q) s = .next u ∧ x.framed { x with bus := .ok 0#64 } u [a] ∧
        u.rd a = withBit (x.rd a) 26 true)) ∧
    (x.reaches who (R.fryQCtrl q) 4#32 = true →
      (st = 3 → ∃ u, exec (.ferryResume t who q) s = .next u ∧ x.framed { x with bus := .ok 0#64 } u [a] ∧ u.fqState q = 1) ∧
      (st ≠ 3 → ∃ u, exec (.ferryResume t who q) s = .next u ∧ x.framed { x with bus := .ok 0#64 } u [a] ∧ u.rd a = withBit (x.rd a) 26 true)) ∧
    (x.reaches who (R.fryQCtrl q) 2#32 = true →
      (st = 1 → x.fqInBurst q = true → f.abort ≠ 0 → ∃ u, exec (.ferryAbort t who q) s = .next u ∧ x.framed { x with bus := .ok 0#64 } u []) ∧
      (st = 1 → x.fqInBurst q = true → f.abort = 0 → ∃ u, exec (.ferryAbort t who q) s = .next u ∧
        x.framed { x.setFq q (u.fq q) with free := x.free + 1, bus := .ok 0#64 } u [] ∧ (u.fq q = { f with abort := 1 } ∨ u.fq q = { f with abort := 2 })) ∧
      (st = 1 ∧ x.fqInBurst q = false ∨ st = 2 ∨ st = 3 → ∃ u, exec (.ferryAbort t who q) s = .next u ∧
        x.framed { (x.fqResult q 3 false).setFq q stopped with evs := u.evs, irq := u.irq, bus := .ok 0#64 } u [a] ∧ u.fqState q = 5) ∧
      (st = 0 ∨ 3 < st → ∃ u, exec (.ferryAbort t who q) s = .next u ∧ x.framed { x with bus := .ok 0#64 } u []))) ∧
  (∀ (t q src dst : Nat) (corr unc : List Nat) (s : State), let x := s.upTo t; let n := x.fqBurstLen q (some src) (some dst)
    let f := x.fq q
    q < 32 → (x.fry.run ≠ none ∨ x.fqChoose = none → ∃ u, exec (.ferryBurstStart t) s = .next u ∧ x.framed x u []) ∧
    (x.fqChoose = some q → x.fqReady q = true ∧ ∀ k, k < 32 → x.fqReady k = true → x.fqPrio k ≤ x.fqPrio q) ∧
    (x.fry.run = none → x.fqChoose = some q → ∃ u, exec (.ferryBurstStart t) s = .next u ∧ u.fry.last = q ∧
      (f.loaded = true → x.fqIsRx q = false → x.fqIsTx q = false → x.rdB (R.iommuDCfg (x.fqDomain q)) 31 = true →
        x.rdB (R.iommuDCfg (x.fqDomain q)) 30 = true → src = x.fqSrcAt q → dst = x.fqDstAt q → x.physOk src = true → x.physOk dst = true →
        isReg src = false → isReg dst = false → fqSrcFix f = false → x.memAnswers src n ≠ none → x.eccBad src n = false →
        x.framed { x with fry := u.fry } u ((List.range 32).map R.fryQStatus) ∧ u.fqState q = 1 ∧
          u.fry.run = some ⟨q, dst, some dst, src, some src, x.bytes src n, false, false⟩)) ∧
    (x.fry.run = none → ∃ u, exec (.ferryBurstComplete t corr unc) s = .next u ∧ x.framed x u []) ∧
    (x.fry.run ≠ none → ∃ u, exec (.ferryBurstComplete t corr unc) s = .next u ∧ u.fry.run = none) ∧
    (∀ b, x.fry.run = some b → b.q = q → b.dst = some dst → b.srcEcc = false → b.srcErr = false → isReg dst = false →
      fqDstFix f = false → x.fqIsRx q = false → x.fqIsTx q = false → f.abort = 0 → x.mem.bad = [] →
      (x.memAnswers dst b.data.length).any (fun r => r != 0) = true → let z := x.setBytes dst b.data
      let m := x.fqDone q + b.data.length
      ∃ u, exec (.ferryBurstComplete t [] []) s = .next u ∧
        (m < f.len → x.framed { z with fry := u.fry } u [R.fryQDone q] ∧ u.fqDone q = m % 2 ^ 24 ∧ u.fry.run = none ∧
          u.fq q = { f with regData := none }) ∧
        (f.len ≤ m → fqLink f = false → u.fqState q = 4 ∧ u.fry.run = none ∧ u.fq q = FryQ.init ∧
          u.rdF (R.fryQCount q) 31 0 = min (2 ^ 32 - 1) (x.rdF (R.fryQCount q) 31 0 + 1))))

/-- A counter that passes to 0 sets its overflow flag, or in a chain steps its odd partner; a value that software has just written stands
(R426). A freeze stops the counters with the events up to the cycle before, a write of 0 resumes them from the next cycle, and a cause of
the same cycle wins over it (R427; log 57). -/
def Obligations.CountersOverflowAndFreeze : Prop :=
  ∀ (t : Nat) (who : Initiator) (p : Fin 5) (c : Fin 8) (s : State), let x := s.upTo t; let a := R.pmuPcnt p c; let o := R.pmuPcnt p (c + 1 : Nat)
    let chain := decide (c.val % 2 = 0) && x.pmuChained p (c + 1 : Nat)
    let counts := x.pmuRuns p c = true ∧ x.pmuWrote p c = false
    let w := x.rd (R.pmuSel p c); let e := fieldOf w 7 0; let last := x.clk.now / fabCycle * 2
    let marked (u : State) : State := { x with pmu := { x.pmu with since := u.pmu.since }, evs := u.evs, irq := u.irq }
    (¬counts → ∃ u, exec (.pmuOverflow t p c) s = .next u ∧ x.framed x u []) ∧
    (counts → chain = false → ∃ u, exec (.pmuOverflow t p c) s = .next u ∧ x.framed (marked u) u [a, R.pmuOvf p] ∧
      u.rd a = 0#32 ∧ u.pmuSince p c = x.coreCyc + 1 ∧ u.rd (R.pmuOvf p) = withBit (x.rd (R.pmuOvf p)) c true) ∧
    (counts → chain = true → x.rdB (R.pmuSel p (c + 1 : Nat)) 31 = true → x.pmuWrote p (c + 1 : Nat) = false →
      ∃ u, exec (.pmuOverflow t p c) s = .next u ∧ x.framed (marked u) u [a, o, R.pmuOvf p] ∧ u.rd a = 0#32 ∧
        u.rd o = x.rd o + 1#32 ∧ (x.rd o = 0xFFFFFFFF#32 → u.rdB (R.pmuOvf p) (c + 1 : Nat) = true) ∧
        (x.rd o ≠ 0xFFFFFFFF#32 → u.rd (R.pmuOvf p) = x.rd (R.pmuOvf p))) ∧
    (counts → chain = true → (x.rdB (R.pmuSel p (c + 1 : Nat)) 31 = false ∨ x.pmuWrote p (c + 1 : Nat) = true) →
      ∃ u, exec (.pmuOverflow t p c) s = .next u ∧ x.framed { x with pmu := { x.pmu with since := u.pmu.since } } u [a] ∧ u.rd a = 0#32) ∧
    (x.reaches who R.pmuFreeze 1#32 = true →
      (x.rdB R.pmuFreeze 0 = true → ∃ u, exec (.pmuFreezeWrite t who true) s = .next u ∧ x.framed { x with bus := .ok 0#64 } u []) ∧
      (x.rdB R.pmuFreeze 0 = false → ∃ u, exec (.pmuFreezeWrite t who true) s = .next u ∧
        x.framed { x with pmu := { x.pmu with since := u.pmu.since }, bus := .ok 0#64 } u
          (R.pmuFreeze :: (List.range 40).map (fun i => R.pmuPcnt (i / 8) (i % 8))) ∧
        u.rdB R.pmuFreeze 0 = true ∧ (x.pmuRuns p c = false → u.rd a = x.rd a) ∧
        (x.pmuRuns p c = true → u.rd a = x.rd a + wordN ((eventsTo p w e last - eventsTo p w e (x.pmuSince p c)) % 2 ^ 32)))) ∧
    (x.reaches who R.pmuFreeze 0#32 = true →
      (bitOf (x.raisedNow R.pmuFreeze) 0 = true → ∃ u, exec (.pmuFreezeWrite t who false) s = .next u ∧ x.framed { x with bus := .ok 0#64 } u []) ∧
      (bitOf (x.raisedNow R.pmuFreeze) 0 = false → ∃ u, exec (.pmuFreezeWrite t who false) s = .next u ∧
        x.framed { x with pmu := { x.pmu with since := u.pmu.since }, bus := .ok 0#64 } u [R.pmuFreeze, R.pmuFreezeCause] ∧
        u.rd R.pmuFreeze = withBit (x.rd R.pmuFreeze) 0 false ∧ u.rd R.pmuFreezeCause = 0#32 ∧
        (x.rdB R.pmuFreeze 0 = true → u.pmuSince p c = last + 2) ∧ (x.rdB R.pmuFreeze 0 = false → u.pmu = x.pmu)))

/-- At any instant the identities that a pair's counters have counted, events 0x10 to 0x16, lie between its dispatch slots, event 0x03, less
the 64 instructions in flight, and these slots (R425), in any choice of modes and whatever the cores do (log 57). -/
def Obligations.DispatchSlotsAreAccounted : Prop :=
  ∀ (p : Fin 5) (k : Nat) (w : Word), let ids := ((List.range 7).map (fun i => eventsTo p w (0x10 + i) k)).sum
    ids ≤ eventsTo p w 3 k ∧ eventsTo p w 3 k ≤ ids + 64

/-- The debug level only falls, and below 2 every pair resumes; halt, step and resume work at level 2; `EXTEST` and `CLAMP` are taken only
in the Harbour state or with `TEST_MODE` (R428). Only the debugger forces a signal, and only where every bridge of its domain is in
`PULSE_BLOCK` (R429; log 56). -/
def Obligations.DebugPortIsGuarded : Prop :=
  ∀ (t : Nat) (who : Initiator) (p : Fin 5) (k : Fin 8) (i : Fin 4096) (v : BitVec 2) (j : Tap) (s : State), let x := s.upTo t; let a := R.sysCpStatus p
    let f := R.sysDbgForce k
    let fw := wordN (2 ^ 31 + i.val)
    let free := x.rdF R.sysState 2 0 == 4 || x.rdB R.sysStrap 0
    (∃ u, exec (.jtagInstruction t j) s = .next u ∧ x.framed { x with tap := if (j == .extest || j == .clamp) && !free then .bypass else j } u []) ∧
    (x.reaches who R.sysDbg (v.setWidth 32) = true →
      (x.rdF R.sysDbg 1 0 ≤ v.toNat → ∃ u, exec (.dbgLevelWrite t who v) s = .next u ∧ x.framed { x with bus := .ok 0#64 } u []) ∧
      (v.toNat < x.rdF R.sysDbg 1 0 → ∃ u, exec (.dbgLevelWrite t who v) s = .next u ∧
        x.framed { x with bus := .ok 0#64 } u (R.sysDbg :: (List.range 5).map R.sysCpStatus) ∧ u.rdF R.sysDbg 1 0 = v.toNat ∧
        (v.toNat < 2 → u.rd a = withBit (x.rd a) 29 false) ∧ (2 ≤ v.toNat → u.rd a = x.rd a))) ∧
    (2 ≤ x.dbgLevel →
      (x.rdB a 30 = true → ∃ u, exec (.debugHalt t p) s = .next u ∧ x.framed x u [a] ∧ u.rd a = withBit (x.rd a) 29 true) ∧
      (∃ u, exec (.debugResume t p) s = .next u ∧ x.framed x u [a] ∧ u.rd a = withBit (x.rd a) 29 false)) ∧
    (x.dbgLevel < 2 → (∃ u, exec (.debugHalt t p) s = .next u ∧ x.framed x u []) ∧ ∃ u, exec (.debugResume t p) s = .next u ∧ x.framed x u []) ∧
    (x.rdB a 30 = false → ∃ u, exec (.debugHalt t p) s = .next u ∧ x.framed x u []) ∧
    (∃ u, exec (.debugStep t p) s = .next u ∧ x.framed x u []) ∧
    (x.reaches who f fw = true → ∃ u, exec (.debugForce t who k i) s = .next u ∧ x.framed { x with bus := .ok 0#64 } u [] ∧
      (who = .debug → x.forceFree i = true → u.rdB f 31 = true ∧ u.rdF f 11 0 = i.val) ∧
      (who = .debug → x.forceFree i = false → u.rdB f 30 = true) ∧
      (who ≠ .debug → x.rdB f 31 = false → u.rdB f 31 = false))

/-! ### Reset, start-up, wear and power -/

/-- Every reset source leaves the registers at their reset values but for the wear record (log 103), the identity and the cause, no content
in TCMs, Lagoon and DRAM (free bytes: log 11), and the units as after reset; the Islet, the boards, the OTP and a flash that no operation
was changing stay (R431, R432). Its cause is kept, and only a power-on reset clears the history and the test access port. The release of
reset samples the straps by majority and starts up: with `TWIN_EN` it waits for the partner, else it ends in run or in the Harbour state,
which holds the device off, and in which it ends, with the first code, where neither copy has a good header (R433–R437, R445, R480). What
boot meets outside is the command's operand (log 67). -/
def Obligations.ResetsAndReleaseRunStartUp : Prop :=
  (∀ (t : Nat) (who : Initiator) (s : State), let x := s.upTo t
    let cleared (k : Nat) (u : State) : Prop := let kept := x.wearInForce (k == 0)
      (kept = x.wear.saved ∨ (k = 0 ∧ x.wearWriting = true ∧ kept = x.wear.prev)) ∧
      (∀ a, kept.regs.all (fun e => e.1 != a) = true → a ∉ [R.sysId, R.pdmStatus, R.bootResetCause, R.wearStatus] → a ∉ forceRegs →
        u.rd a = regReset a) ∧ u.rd R.sysId = sysIdOf x.dev ∧
      (∃ e, e ≠ 0 ∧ ∀ a, u.byte a = if a < 0x20000 then x.byte a else Config.freeByte e a) ∧
      u.isl = x.isl ∧ u.boards = x.boards ∧ u.dev = x.dev ∧ u.boot.otp = x.boot.otp ∧ (x.boot.op = none → u.boot.flash = x.boot.flash) ∧
      u.boot.op = none ∧ u.wear.saved = kept ∧ u.clk.now = x.clk.now ∧ u.clk.tbBase = x.clk.now ∧ (∀ n, u.seq n = SeqSt.init) ∧
      (∀ i, u.slice i = SliceSt.init) ∧ (∀ i, u.sigStable i = SigVal.unwritten) ∧ u.twin = TwinSt.init ∧ u.fry = FrySt.init ∧
      u.rdB R.bootResetCause (8 + k) = true ∧ u.rdB R.bootResetCause k = true ∧ (k = 0 → x.boot.resetCyc ≠ x.cycNo → u.rdF R.bootResetCause 11 8 = 1) ∧
      u.tap = if k = 0 then .idcode else x.tap
    (∃ u, exec (.powerOnReset t) s = .next u ∧ cleared 0 u) ∧
    (∃ u, exec (.resetN t) s = .next u ∧ cleared 1 u) ∧
    (x.reaches who R.bootReset 0x5A000001#32 = true → ∃ u, exec (.softwareReset t who) s = .next u ∧ cleared 2 u) ∧
    (2 ≤ x.dbgLevel → ∃ u, exec (.debugReset t) s = .next u ∧ cleared 3 u) ∧
    (x.dbgLevel < 2 → ∃ u, exec (.debugReset t) s = .next u ∧ x.framed x u []) ∧
    (∃ u, exec (.tapReset t) s = .next u ∧ x.framed { x with tap := .idcode } u [])) ∧
  (∀ (t : Nat) (i : ReleaseIn) (s : State), let x := s.upTo t; let w := strapWord i.strap0 i.strap1 i.strap2
    wfResetRelease i = true → (x.sysSt ≠ 0 → ∃ u, exec (.resetRelease t i) s = .next u ∧ x.framed x u []) ∧
    (x.sysSt = 0 → bitOf w 1 = true → ∃ u, exec (.resetRelease t i) s = .next u ∧ u.boot.search = some i ∧ u.sysSt = 1 ∧
      u.rdF R.bootStatus 19 16 = 2 ∧ u.rd R.sysStrap = w ∧ u.clk.relAt = x.clk.now) ∧
    (x.sysSt = 0 → bitOf w 1 = false → ∃ u, exec (.resetRelease t i) s = .next u ∧ (u.sysSt = 3 ∨ u.sysSt = 4) ∧
      (u.sysSt = 3 → u.rdB R.smonStatus 31 = true ∧ u.held 4 = false ∧ u.rdF R.bootStatus 19 16 = 9) ∧
      (u.sysSt = 4 → u.held 3 = true ∧ u.anyHold = true ∧ u.rdB R.protStatus 27 = true ∧ u.rdF R.bootStatus 19 16 = 10) ∧
      (headerCheck (x.copyRead 0 0 256) ≠ 0 → headerCheck (x.copyRead 1 0 256) ≠ 0 → u.sysSt = 4 ∧
        u.rdF R.sysState 31 16 = headerCheck (x.copyRead 0 0 256))))

/-- A flash command starts in run or Harbour, one at a time and in range, else `ERR` 1 says so; at its end a read has filled the buffer, a
program has cleared bits and an erase has set them; what an error leaves is free (R448, log 18). In run, the OTP's minimum security version
rises to that of the loaded image, and a key slot other than the loaded image's is revoked (R449). -/
def Obligations.FlashAndOtpCommands : Prop :=
  (∀ (t : Nat) (who : Initiator) (s : State), let x := s.upTo t; let a := x.rdF R.bootFlashAddr 24 0; let n := x.rdF R.bootFlashLen 8 0
    let buf (u : State) : List Byte := (List.range 64).flatMap (fun k => bytesLE 4 (u.rdN (R.bootFlashBuf k)))
    let ready := 3 ≤ x.sysSt ∧ x.boot.op = none
    let inRange := 1 ≤ n ∧ n ≤ 256 ∧ a + n ≤ 2 ^ 25
    let starts (r : Host.Outcome State Fault Refusal) (op addr len : Nat) (data : List Byte) : Prop := ∃ u, r = .next u ∧
      x.framed { x with boot := { x.boot with op := some ⟨op, addr, len, data, x.clk.now / perCycle⟩ }, bus := .ok 0#64 } u [R.bootFlashCmd] ∧
      u.rdB R.bootFlashCmd 31 = true
    let refused (r : Host.Outcome State Fault Refusal) : Prop := ∃ u, r = .next u ∧ x.framed { x with bus := .ok 0#64 } u [R.bootFlashCmd] ∧
      u.rdF R.bootFlashCmd 17 16 = 1
    (x.reaches who R.bootFlashCmd 0x10000000#32 = true → (ready ∧ inRange → starts (exec (.flashRead t who) s) 1 a n []) ∧
      (¬(ready ∧ inRange) → refused (exec (.flashRead t who) s))) ∧
    (x.reaches who R.bootFlashCmd 0x20000000#32 = true →
      (ready ∧ inRange ∧ a / 256 = (a + n - 1) / 256 → starts (exec (.flashProgram t who) s) 2 a n ((buf x).take n)) ∧
      (¬(ready ∧ inRange ∧ a / 256 = (a + n - 1) / 256) → refused (exec (.flashProgram t who) s))) ∧
    (x.reaches who R.bootFlashCmd 0x30000000#32 = true → (ready → starts (exec (.flashErase t who) s) 3 (a / 65536 * 65536) 65536 []) ∧
      (¬ready → refused (exec (.flashErase t who) s))) ∧
    (∀ ok, x.boot.op = none → ∃ u, exec (.flashOpComplete t ok) s = .next u ∧ x.framed x u []) ∧
    (∀ o, x.boot.op = some o →
      (∃ u, exec (.flashOpComplete t true) s = .next u ∧
        x.framed { x with boot := { x.boot with op := none, flash := u.boot.flash } } u (R.bootFlashCmd :: (List.range 64).map R.bootFlashBuf) ∧
        u.rdB R.bootFlashCmd 31 = false ∧ u.rdF R.bootFlashCmd 17 16 = 0 ∧
        (o.op = 1 → u.boot.flash = x.boot.flash ∧ (o.len ≤ 256 → (buf u).take o.len = x.flashRead o.addr o.len)) ∧
        (o.op ≠ 1 → (∀ k, k < o.addr ∨ o.addr + o.len ≤ k → u.flashRead k 1 = x.flashRead k 1) ∧ (∀ k : Fin 64, u.rd (R.bootFlashBuf k) = x.rd (R.bootFlashBuf k))) ∧
        (o.op = 2 → o.data.length = o.len → u.flashRead o.addr o.len = List.zipWith (fun b d => b &&& d) (x.flashRead o.addr o.len) o.data) ∧
        (o.op = 3 → u.flashRead o.addr o.len = List.replicate o.len 0xFF#8)) ∧
      ∃ u, exec (.flashOpComplete t false) s = .next u ∧ u.boot.op = none ∧ u.rdF R.bootFlashCmd 17 16 = 2 ∧ u.rdB R.bootFlashCmd 31 = false ∧
        (∀ k, k < o.addr ∨ o.addr + o.len ≤ k → u.flashRead k 1 = x.flashRead k 1))) ∧
  (∀ (t : Nat) (who : Initiator) (k : Fin 4) (s : State), let x := s.upTo t; let v := x.rdF R.bootSec 5 0; let o := x.boot.otp
    (x.reaches who R.bootOtpCmd 0xC3000001#32 = true →
      (x.sysSt = 3 → o.minSec < v → ∃ u, exec (.otpAdvSecver t who) s = .next u ∧
        x.framed { x with boot := { x.boot with otp := { o with minSec := v } }, bus := .ok 0#64 } u [R.bootSec, R.bootOtpStatus] ∧
        u.rdF R.bootSec 13 8 = v ∧ u.rdF R.bootOtpStatus 13 8 = v) ∧
      (x.sysSt ≠ 3 ∨ v ≤ o.minSec → ∃ u, exec (.otpAdvSecver t who) s = .next u ∧ x.framed { x with bus := .ok 0#64 } u [])) ∧
    (x.reaches who R.bootOtpCmd (wordN (0xC3000002 + 16 * k.val)) = true →
      (x.sysSt = 3 → k.val ≠ x.boot.key → ∃ u, exec (.otpRevoke t who k) s = .next u ∧
        x.framed { x with boot := { x.boot with otp := { o with keys := u.boot.otp.keys } }, bus := .ok 0#64 } u [R.bootOtpStatus] ∧
        u.rdB R.bootOtpStatus (4 + k) = true ∧ u.boot.otp.keys.length = o.keys.length ∧
        (∀ j, j ≠ k.val → nth ⟨0, false, false⟩ u.boot.otp.keys j = nth ⟨0, false, false⟩ o.keys j) ∧
        (k < o.keys.length → (nth ⟨0, false, false⟩ u.boot.otp.keys k).revoked = true)) ∧
      (x.sysSt ≠ 3 ∨ k.val = x.boot.key → ∃ u, exec (.otpRevoke t who k) s = .next u ∧ x.framed { x with bus := .ok 0#64 } u [])))

/-- An evaluation gives a monitor its value: the age, the drift measured, or the worst of the counts of the last 24 h (Table 22.1); the
status shows which monitors have reached their thresholds, a bank or a link whose own count has reached the limit is retired, and the hourly
ones write the record (R451–R453, R456). A domain that may be switched off goes off, and one that is off is switched on; a request that may
not be carried out, or that meets the domain on its way, is refused; a power-up in the cycle of the power-down wins; what the domain held is
lost (R463–R465). -/
def Obligations.WearAndPowerDomains : Prop :=
  (∀ (t v : Nat) (m : Fin 8) (lo hi : Int × Int) (s : State), let x := s.upTo t
    let temps := [lo.1, lo.2, hi.1, hi.2]
    let val (u : State) : Nat := u.rdN (R.wearMonVal m); let lim := x.rdF (R.wearMonTh m) 15 0
    let on (l : Nat) : Bool := x.rdB (R.stlCfg l) 31
    ∃ u, exec (.wearEvaluation t m v lo hi) s = .next u ∧ x.pacedAs u ∧
      (∀ j : Fin 8, u.rdB R.wearStatus (16 + j) = decide (u.rdF (R.wearMonTh j) 31 16 ≤ u.rdN (R.wearMonVal j)) ∧
        u.rdB R.wearStatus (8 + j) = decide (u.rdF (R.wearMonTh j) 15 0 ≤ u.rdN (R.wearMonVal j)) ∧ (j ≠ m → u.rd (R.wearMonVal j) = x.rd (R.wearMonVal j))) ∧
      (m = 0 → u.wear.live.age = x.wear.live.age + ageStep (temps.foldl max (-32768)) ∧
        u.rd (R.wearMonVal 0) = wordN (min (u.wear.live.age / 2 ^ 32 / 36000) 0xFFFFFFFF) ∧
        ∀ k : Fin 4, u.rdF (R.pdmTemp k) 15 0 = (wordOf (nth 0 temps k)).toNat % 65536) ∧
      (m = 1 → val u = min v 0xFFFFFFFF) ∧ (m = 4 ∨ m = 5 ∨ m = 7 → u.rd (R.wearMonVal m) = x.rd (R.wearMonVal m)) ∧
      (m = 3 → val u = min (x.wearDay 16) 0xFFFFFFFF) ∧
      (m = 2 → val u = min ((List.range 16).foldl (fun a b => max a (x.wearDay b)) 0) 0xFFFFFFFF ∧
        ∀ b : Fin 16, u.rdB R.wearLagoon (16 + b) = (x.rdB R.wearLagoon (16 + b) || decide (lim ≤ x.wearDay b))) ∧
      (m = 6 → val u = min ((List.range 32).foldl (fun a l => if on l then max a (x.wearDay (32 + l) / 100) else a) 0) 0xFFFFFFFF ∧
        ∀ l : Fin 32, natBit u.wear.live.linkRet l = (natBit x.wear.live.linkRet l || on l && decide (lim ≤ x.wearDay (32 + l) / 100))) ∧
      (m = 1 ∨ m = 2 ∨ m = 3 ∨ m = 6 → u.wear.saved = { u.wear.live with regs := tabKeep isWearReg u.regs } ∧ u.wear.wroteAt = some x.clk.now)) ∧
  (∀ (t : Nat) (who : Initiator) (b : BitVec 16) (d : Fin 16) (s : State), let x := s.upTo t; let m := x.pdMoving d; let cyc := x.cycNo
    let same (u : State) : Prop := u.pdOn d = x.pdOn d ∧ u.pdMoving d = m
    (x.reaches who R.pdmOff (b.setWidth 32) = true → ∃ u, exec (.pdmOff t who b) s = .next u ∧
      x.framed { x with pdm := u.pdm, bus := .ok 0#64 } u [R.pdmStatus, R.pdmErr] ∧ (b.getLsbD d = false → same u) ∧
      (b.getLsbD d = true →
        (tabGet (fun _ => 0) x.pdm.onCyc d = cyc → same u) ∧
        (tabGet (fun _ => 0) x.pdm.onCyc d ≠ cyc → m ≠ 0 ∨ x.pdMayOff d = false → same u ∧ u.rdB R.pdmErr 31 = true) ∧
        (tabGet (fun _ => 0) x.pdm.onCyc d ≠ cyc → m = 0 → x.pdMayOff d = true → u.pdOn d = false ∧ u.pdMoving d = if x.pdOn d then 1 else 0))) ∧
    (x.reaches who R.pdmOn (b.setWidth 32) = true → ∃ u, exec (.pdmOn t who b) s = .next u ∧
      x.framed { x with pdm := u.pdm, bus := .ok 0#64 } u [R.pdmStatus, R.pdmErr] ∧ (b.getLsbD d = false ∨ x.pdOn d = true → same u) ∧
      (b.getLsbD d = true → x.pdOn d = false → let back := m = 1 ∧ tabGet (fun _ => 0) x.pdm.offCyc d = cyc
        (back → u.pdOn d = true ∧ u.pdMoving d = 0) ∧
        (¬back → m ≠ 0 ∨ d = 1 ∨ d = 8 → same u ∧ u.rdB R.pdmErr 31 = true) ∧
        (¬back → m = 0 → d ≠ 1 → d ≠ 8 → u.pdOn d = false ∧ u.pdMoving d = 2))) ∧
    (m = 1 → ∃ u, exec (.domainOffComplete t d) s = .next u ∧ x.framed (x.setMoving d 0) u []) ∧
    (m ≠ 1 → ∃ u, exec (.domainOffComplete t d) s = .next u ∧ x.framed x u []) ∧
    (m ≠ 2 → ∃ u, exec (.domainOnComplete t d) s = .next u ∧ x.framed x u []) ∧
    (m = 2 → ∃ u, exec (.domainOnComplete t d) s = .next u ∧ u.clk = x.clk ∧ u.pdOn d = true ∧ u.pdMoving d = 0 ∧
      (d.val ∈ [5, 6, 7] → ∀ a, memPlace a = d.val - 2 → u.byte a = Config.freeByte (x.free + 1) a) ∧
      (d = 13 → u.dramUp = false ∧ ∀ a, memPlace a = 7 → u.byte a = Config.freeByte (x.free + 1) a) ∧
      (d = 14 → u.eth = EthSt.init ∧ u.cans = [] ∧ ∀ k : Fin 4, u.rd (R.canWakeStatus k) = x.rd (R.canWakeStatus k)) ∧ (d = 15 → u.sars = [] ∧ u.aux.act = x.aux.act) ∧
      (d.val ∉ [5, 6, 7, 13, 14, 15] → x.framed (x.setMoving d 0) u [R.pdmStatus])) ∧
    (x.pdOn 13 = true → ∃ u, exec (.dramTrainingComplete t) s = .next u ∧ x.framed { x with pdm := { x.pdm with training := false } } u []) ∧
    (x.pdOn 13 = false → ∃ u, exec (.dramTrainingComplete t) s = .next u ∧ x.framed x u []))
end

