-- ==== Sys2Proof/Laws/Access.lean ====
section
/-! SUPPORT. What a bus access that reaches its register does there: one lemma per register whose write acts. -/

namespace Sys2Proof.Machine

/-! ### What a write that reaches a register does there -/

/-- An access that reaches its register is the block's own write, answered without a bus error. -/
theorem State.busWord_reaches (s : State) (who : Initiator) (a : Nat) (w : Word) (h : s.reaches who a w = true) (hr : isReg a = true)
    (h4 : a % 4 = 0) (hb : blockExists (a / 0x100000) = true) :
    s.busWord who a w = { s.regWrite (some who) a w with bus := .ok 0#64 } := by
  unfold State.reaches at h
  simp only [Bool.and_eq_true, Bool.not_eq_true'] at h
  obtain ⟨⟨⟨hm, hd⟩, ha⟩, hl⟩ := h
  have hj : s.mirrorJudge a w = .local_ := by
    unfold State.mirrorJudge
    split
    · rfl
    · next hn =>
      have : (s.mirrorThreads a w).isEmpty = true := by
        simp only [Bool.or_eq_true, Bool.not_eq_true'] at hl hn
        tauto
      rw [List.isEmpty_iff] at this
      rw [this]
  have hans : s.regAnswers a .b4 = true := by
    unfold State.regAnswers
    simp [h4, hb, hd]
  have hw : BitVec.setWidth 32 (BitVec.setWidth 64 w) = w := by
    ext i; simp
  have hacc : s.access who a .b4 (w.setWidth 64) = (s.regWrite (some who) a w, true) := by
    unfold State.access
    simp only [hm, hr, hans, Bool.not_true, Bool.false_eq_true, if_false, if_true]
    unfold State.regAccess
    rw [if_neg (by simp [ha]), hw, hj]
  unfold State.busWord State.busWrite
  rw [hacc]; rfl

theorem State.regWrite_auxCtrl (s : State) (who : Option Initiator) (m : Fin 6) (w : Word) : s.regWrite who (R.auxCtrl m) w = s.auxCtrlWrite m w := by fin_cases m <;> rfl
theorem State.busWord_auxCtrl (s : State) (who : Initiator) (m : Fin 6) (w : Word) (h : s.reaches who (R.auxCtrl m) w = true) :
    s.busWord who (R.auxCtrl m) w = { s.auxCtrlWrite m w with bus := .ok 0#64 } := by
  rw [s.busWord_reaches who (R.auxCtrl m) w h (by fin_cases m <;> decide) (by fin_cases m <;> decide) (by fin_cases m <;> decide), State.regWrite_auxCtrl]

theorem State.regWrite_canCtrl (s : State) (who : Option Initiator) (k : Fin 4) (w : Word) : s.regWrite who (R.canCtrl k) w = s.canCtrlWrite k w := by fin_cases k <;> rfl
theorem State.busWord_canCtrl (s : State) (who : Initiator) (k : Fin 4) (w : Word) (h : s.reaches who (R.canCtrl k) w = true) :
    s.busWord who (R.canCtrl k) w = { s.canCtrlWrite k w with bus := .ok 0#64 } := by
  rw [s.busWord_reaches who (R.canCtrl k) w h (by fin_cases k <;> decide) (by fin_cases k <;> decide) (by fin_cases k <;> decide), State.regWrite_canCtrl]

theorem State.regWrite_fryQCtrl (s : State) (who : Option Initiator) (q : Fin 32) (w : Word) : s.regWrite who (R.fryQCtrl q) w = s.ferryCtrl q w := by fin_cases q <;> rfl
theorem State.busWord_fryQCtrl (s : State) (who : Initiator) (q : Fin 32) (w : Word) (h : s.reaches who (R.fryQCtrl q) w = true) :
    s.busWord who (R.fryQCtrl q) w = { s.ferryCtrl q w with bus := .ok 0#64 } := by
  rw [s.busWord_reaches who (R.fryQCtrl q) w h (by fin_cases q <;> decide) (by fin_cases q <;> decide) (by fin_cases q <;> decide), State.regWrite_fryQCtrl]

theorem State.regWrite_gfeBsCtrl (s : State) (who : Option Initiator) (n : Fin 4) (w : Word) : s.regWrite who (R.gfeBsCtrl n) w = s.bsCtrlWrite n w := by fin_cases n <;> rfl
theorem State.busWord_gfeBsCtrl (s : State) (who : Initiator) (n : Fin 4) (w : Word) (h : s.reaches who (R.gfeBsCtrl n) w = true) :
    s.busWord who (R.gfeBsCtrl n) w = { s.bsCtrlWrite n w with bus := .ok 0#64 } := by
  rw [s.busWord_reaches who (R.gfeBsCtrl n) w h (by fin_cases n <;> decide) (by fin_cases n <;> decide) (by fin_cases n <;> decide), State.regWrite_gfeBsCtrl]

theorem State.regWrite_gfeCtrl (s : State) (who : Option Initiator) (n : Fin 4) (w : Word) : s.regWrite who (R.gfeCtrl n) w = s.gfeCtrlWrite n w := by fin_cases n <;> rfl
theorem State.busWord_gfeCtrl (s : State) (who : Initiator) (n : Fin 4) (w : Word) (h : s.reaches who (R.gfeCtrl n) w = true) :
    s.busWord who (R.gfeCtrl n) w = { s.gfeCtrlWrite n w with bus := .ok 0#64 } := by
  rw [s.busWord_reaches who (R.gfeCtrl n) w h (by fin_cases n <;> decide) (by fin_cases n <;> decide) (by fin_cases n <;> decide), State.regWrite_gfeCtrl]

theorem State.regWrite_protSrcLatch (s : State) (who : Option Initiator) (k : Fin 15) (w : Word) : s.regWrite who (R.protSrcLatch k) w = s.latchClear k w := by
  have hb : R.protSrcLatch k / 0x100000 = 0x440 := by fin_cases k <;> decide
  have hf : findRoute (writeRoutes 0x440) (R.protSrcLatch k) = some (⟨R.protSrcLatch 0, [(4, 15)], fun s _ k w => s.latchClear k w⟩, k.val) := by
    fin_cases k <;> rfl
  unfold State.regWrite
  rw [hb, hf]
theorem State.busWord_protSrcLatch (s : State) (who : Initiator) (k : Fin 15) (w : Word) (h : s.reaches who (R.protSrcLatch k) w = true) :
    s.busWord who (R.protSrcLatch k) w = { s.latchClear k w with bus := .ok 0#64 } := by
  rw [s.busWord_reaches who (R.protSrcLatch k) w h (by fin_cases k <;> decide) (by fin_cases k <;> decide) (by fin_cases k <;> decide), State.regWrite_protSrcLatch]

theorem State.regWrite_protThrDischCtrl (s : State) (who : Option Initiator) (n : Fin 4) (w : Word) : s.regWrite who (R.protThrDischCtrl n) w = s.dischCtrlWrite n w := by fin_cases n <;> rfl
theorem State.busWord_protThrDischCtrl (s : State) (who : Initiator) (n : Fin 4) (w : Word) (h : s.reaches who (R.protThrDischCtrl n) w = true) :
    s.busWord who (R.protThrDischCtrl n) w = { s.dischCtrlWrite n w with bus := .ok 0#64 } := by
  rw [s.busWord_reaches who (R.protThrDischCtrl n) w h (by fin_cases n <;> decide) (by fin_cases n <;> decide) (by fin_cases n <;> decide), State.regWrite_protThrDischCtrl]

theorem State.regWrite_protThrStatus (s : State) (who : Option Initiator) (n : Fin 4) (w : Word) : s.regWrite who (R.protThrStatus n) w = s.protStatusWrite n w := by
  have hb : R.protThrStatus n / 0x100000 = 0x440 := by fin_cases n <;> decide
  have hf : findRoute (writeRoutes 0x440) (R.protThrStatus n) = some (⟨R.protThrStatus 0, [(256, 4)], fun s _ n w => s.protStatusWrite n w⟩, n.val) := by
    fin_cases n <;> rfl
  unfold State.regWrite
  rw [hb, hf]
theorem State.busWord_protThrStatus (s : State) (who : Initiator) (n : Fin 4) (w : Word) (h : s.reaches who (R.protThrStatus n) w = true) :
    s.busWord who (R.protThrStatus n) w = { s.protStatusWrite n w with bus := .ok 0#64 } := by
  rw [s.busWord_reaches who (R.protThrStatus n) w h (by fin_cases n <;> decide) (by fin_cases n <;> decide) (by fin_cases n <;> decide), State.regWrite_protThrStatus]

theorem State.regWrite_recCapCtrl (s : State) (who : Option Initiator) (u : Fin 8) (w : Word) : s.regWrite who (R.recCapCtrl u) w = s.capCtrlWrite u w := by fin_cases u <;> rfl
theorem State.busWord_recCapCtrl (s : State) (who : Initiator) (u : Fin 8) (w : Word) (h : s.reaches who (R.recCapCtrl u) w = true) :
    s.busWord who (R.recCapCtrl u) w = { s.capCtrlWrite u w with bus := .ok 0#64 } := by
  rw [s.busWord_reaches who (R.recCapCtrl u) w h (by fin_cases u <;> decide) (by fin_cases u <;> decide) (by fin_cases u <;> decide), State.regWrite_recCapCtrl]

theorem State.regWrite_recCapFull (s : State) (who : Option Initiator) (u : Fin 8) (w : Word) : s.regWrite who (R.recCapFull u) w = s.slotFree u w := by fin_cases u <;> rfl
theorem State.busWord_recCapFull (s : State) (who : Initiator) (u : Fin 8) (w : Word) (h : s.reaches who (R.recCapFull u) w = true) :
    s.busWord who (R.recCapFull u) w = { s.slotFree u w with bus := .ok 0#64 } := by
  rw [s.busWord_reaches who (R.recCapFull u) w h (by fin_cases u <;> decide) (by fin_cases u <;> decide) (by fin_cases u <;> decide), State.regWrite_recCapFull]

theorem State.regWrite_sarCtrl (s : State) (who : Option Initiator) (k : Fin 24) (w : Word) : s.regWrite who (R.sarCtrl k) w = s.sarCtrlWrite k w := by fin_cases k <;> rfl
theorem State.busWord_sarCtrl (s : State) (who : Initiator) (k : Fin 24) (w : Word) (h : s.reaches who (R.sarCtrl k) w = true) :
    s.busWord who (R.sarCtrl k) w = { s.sarCtrlWrite k w with bus := .ok 0#64 } := by
  rw [s.busWord_reaches who (R.sarCtrl k) w h (by fin_cases k <;> decide) (by fin_cases k <;> decide) (by fin_cases k <;> decide), State.regWrite_sarCtrl]

theorem State.regWrite_seqCtrl (s : State) (who : Option Initiator) (n : Fin 4) (w : Word) : s.regWrite who (R.seqCtrl n) w = s.seqCtrlWrite n w := by fin_cases n <;> rfl
theorem State.busWord_seqCtrl (s : State) (who : Initiator) (n : Fin 4) (w : Word) (h : s.reaches who (R.seqCtrl n) w = true) :
    s.busWord who (R.seqCtrl n) w = { s.seqCtrlWrite n w with bus := .ok 0#64 } := by
  rw [s.busWord_reaches who (R.seqCtrl n) w h (by fin_cases n <;> decide) (by fin_cases n <;> decide) (by fin_cases n <;> decide), State.regWrite_seqCtrl]

theorem State.regWrite_seqPairCtrl (s : State) (who : Option Initiator) (p : Fin 128) (w : Word) : s.regWrite who (R.seqPairCtrl p) w = s.pairCtrlWrite p w := by fin_cases p <;> rfl
theorem State.busWord_seqPairCtrl (s : State) (who : Initiator) (p : Fin 128) (w : Word) (h : s.reaches who (R.seqPairCtrl p) w = true) :
    s.busWord who (R.seqPairCtrl p) w = { s.pairCtrlWrite p w with bus := .ok 0#64 } := by
  rw [s.busWord_reaches who (R.seqPairCtrl p) w h (by fin_cases p <;> decide) (by fin_cases p <;> decide) (by fin_cases p <;> decide), State.regWrite_seqPairCtrl]

theorem State.regWrite_seqSub (s : State) (who : Option Initiator) (j : Fin 16) (w : Word) : s.regWrite who (R.seqSub j) w = s.subWrite j w := by fin_cases j <;> rfl
theorem State.busWord_seqSub (s : State) (who : Initiator) (j : Fin 16) (w : Word) (h : s.reaches who (R.seqSub j) w = true) :
    s.busWord who (R.seqSub j) w = { s.subWrite j w with bus := .ok 0#64 } := by
  rw [s.busWord_reaches who (R.seqSub j) w h (by fin_cases j <;> decide) (by fin_cases j <;> decide) (by fin_cases j <;> decide), State.regWrite_seqSub]

theorem State.regWrite_smonWd (s : State) (who : Option Initiator) (p : Fin 5) (w : Word) : s.regWrite who (R.smonWd p) w = s.wdService who p w := by fin_cases p <;> rfl
theorem State.busWord_smonWd (s : State) (who : Initiator) (p : Fin 5) (w : Word) (h : s.reaches who (R.smonWd p) w = true) :
    s.busWord who (R.smonWd p) w = { s.wdService (some who) p w with bus := .ok 0#64 } := by
  rw [s.busWord_reaches who (R.smonWd p) w h (by fin_cases p <;> decide) (by fin_cases p <;> decide) (by fin_cases p <;> decide), State.regWrite_smonWd]

theorem State.regWrite_vecCtrl (s : State) (who : Option Initiator) (u : Fin 8) (w : Word) : s.regWrite who (R.vecCtrl u) w = s.vecCtrlWrite u w := by fin_cases u <;> rfl
theorem State.busWord_vecCtrl (s : State) (who : Initiator) (u : Fin 8) (w : Word) (h : s.reaches who (R.vecCtrl u) w = true) :
    s.busWord who (R.vecCtrl u) w = { s.vecCtrlWrite u w with bus := .ok 0#64 } := by
  rw [s.busWord_reaches who (R.vecCtrl u) w h (by fin_cases u <;> decide) (by fin_cases u <;> decide) (by fin_cases u <;> decide), State.regWrite_vecCtrl]

theorem State.regWrite_bootOtpCmd (s : State) (who : Option Initiator) (w : Word) : s.regWrite who R.bootOtpCmd w = s.otpCmd w := rfl
theorem State.busWord_bootOtpCmd (s : State) (who : Initiator) (w : Word) (h : s.reaches who R.bootOtpCmd w = true) :
    s.busWord who R.bootOtpCmd w = { s.otpCmd w with bus := .ok 0#64 } := by
  rw [s.busWord_reaches who R.bootOtpCmd w h (by decide) (by decide) (by decide), State.regWrite_bootOtpCmd]

theorem State.regWrite_bootReset (s : State) (who : Option Initiator) (w : Word) : s.regWrite who R.bootReset w = s.softReset w := rfl
theorem State.busWord_bootReset (s : State) (who : Initiator) (w : Word) (h : s.reaches who R.bootReset w = true) :
    s.busWord who R.bootReset w = { s.softReset w with bus := .ok 0#64 } := by
  rw [s.busWord_reaches who R.bootReset w h (by decide) (by decide) (by decide), State.regWrite_bootReset]

theorem State.regWrite_iommuInv (s : State) (who : Option Initiator) (w : Word) : s.regWrite who R.iommuInv w = s.iomInvalidate w := rfl
theorem State.busWord_iommuInv (s : State) (who : Initiator) (w : Word) (h : s.reaches who R.iommuInv w = true) :
    s.busWord who R.iommuInv w = { s.iomInvalidate w with bus := .ok 0#64 } := by
  rw [s.busWord_reaches who R.iommuInv w h (by decide) (by decide) (by decide), State.regWrite_iommuInv]

theorem State.regWrite_islCmd (s : State) (who : Option Initiator) (w : Word) : s.regWrite who R.islCmd w = s.islCmd w := rfl
theorem State.busWord_islCmd (s : State) (who : Initiator) (w : Word) (h : s.reaches who R.islCmd w = true) :
    s.busWord who R.islCmd w = { s.islCmd w with bus := .ok 0#64 } := by
  rw [s.busWord_reaches who R.islCmd w h (by decide) (by decide) (by decide), State.regWrite_islCmd]

theorem State.regWrite_pdmOff (s : State) (who : Option Initiator) (w : Word) : s.regWrite who R.pdmOff w = s.pdmOffWrite w := rfl
theorem State.busWord_pdmOff (s : State) (who : Initiator) (w : Word) (h : s.reaches who R.pdmOff w = true) :
    s.busWord who R.pdmOff w = { s.pdmOffWrite w with bus := .ok 0#64 } := by
  rw [s.busWord_reaches who R.pdmOff w h (by decide) (by decide) (by decide), State.regWrite_pdmOff]

theorem State.regWrite_pdmOn (s : State) (who : Option Initiator) (w : Word) : s.regWrite who R.pdmOn w = s.pdmOnWrite w := rfl
theorem State.busWord_pdmOn (s : State) (who : Initiator) (w : Word) (h : s.reaches who R.pdmOn w = true) :
    s.busWord who R.pdmOn w = { s.pdmOnWrite w with bus := .ok 0#64 } := by
  rw [s.busWord_reaches who R.pdmOn w h (by decide) (by decide) (by decide), State.regWrite_pdmOn]

theorem State.regWrite_pmuFreeze (s : State) (who : Option Initiator) (w : Word) : s.regWrite who R.pmuFreeze w = s.pmuFreezeWrite w := rfl
theorem State.busWord_pmuFreeze (s : State) (who : Initiator) (w : Word) (h : s.reaches who R.pmuFreeze w = true) :
    s.busWord who R.pmuFreeze w = { s.pmuFreezeWrite w with bus := .ok 0#64 } := by
  rw [s.busWord_reaches who R.pmuFreeze w h (by decide) (by decide) (by decide), State.regWrite_pmuFreeze]

theorem State.regWrite_smonRel (s : State) (who : Option Initiator) (w : Word) : s.regWrite who R.smonRel w = s.smonRel who w := rfl
theorem State.busWord_smonRel (s : State) (who : Initiator) (w : Word) (h : s.reaches who R.smonRel w = true) :
    s.busWord who R.smonRel w = { s.smonRel (some who) w with bus := .ok 0#64 } := by
  rw [s.busWord_reaches who R.smonRel w h (by decide) (by decide) (by decide), State.regWrite_smonRel]

theorem State.regWrite_sndCtrl (s : State) (who : Option Initiator) (w : Word) : s.regWrite who R.sndCtrl w = s.sndCtrlWrite w := rfl
theorem State.busWord_sndCtrl (s : State) (who : Initiator) (w : Word) (h : s.reaches who R.sndCtrl w = true) :
    s.busWord who R.sndCtrl w = { s.sndCtrlWrite w with bus := .ok 0#64 } := by
  rw [s.busWord_reaches who R.sndCtrl w h (by decide) (by decide) (by decide), State.regWrite_sndCtrl]

theorem State.regWrite_sysDbg (s : State) (who : Option Initiator) (w : Word) : s.regWrite who R.sysDbg w = s.dbgLevelWrite w := rfl
theorem State.busWord_sysDbg (s : State) (who : Initiator) (w : Word) (h : s.reaches who R.sysDbg w = true) :
    s.busWord who R.sysDbg w = { s.dbgLevelWrite w with bus := .ok 0#64 } := by
  rw [s.busWord_reaches who R.sysDbg w h (by decide) (by decide) (by decide), State.regWrite_sysDbg]

theorem State.regWrite_sysSwi (s : State) (who : Option Initiator) (w : Word) : s.regWrite who R.sysSwi w = s.swiSet w := rfl
theorem State.busWord_sysSwi (s : State) (who : Initiator) (w : Word) (h : s.reaches who R.sysSwi w = true) :
    s.busWord who R.sysSwi w = { s.swiSet w with bus := .ok 0#64 } := by
  rw [s.busWord_reaches who R.sysSwi w h (by decide) (by decide) (by decide), State.regWrite_sysSwi]

theorem State.regWrite_timeCtrl (s : State) (who : Option Initiator) (w : Word) : s.regWrite who R.timeCtrl w = s.timeCtrlWrite w := rfl
theorem State.busWord_timeCtrl (s : State) (who : Initiator) (w : Word) (h : s.reaches who R.timeCtrl w = true) :
    s.busWord who R.timeCtrl w = { s.timeCtrlWrite w with bus := .ok 0#64 } := by
  rw [s.busWord_reaches who R.timeCtrl w h (by decide) (by decide) (by decide), State.regWrite_timeCtrl]

theorem State.regWrite_timeIncFrac (s : State) (who : Option Initiator) (w : Word) : s.regWrite who R.timeIncFrac w = s.timeIncWrite w := rfl
theorem State.busWord_timeIncFrac (s : State) (who : Initiator) (w : Word) (h : s.reaches who R.timeIncFrac w = true) :
    s.busWord who R.timeIncFrac w = { s.timeIncWrite w with bus := .ok 0#64 } := by
  rw [s.busWord_reaches who R.timeIncFrac w h (by decide) (by decide) (by decide), State.regWrite_timeIncFrac]

theorem State.regWrite_sysLock (s : State) (who : Option Initiator) : s.regWrite who R.sysLock 1#32 = s.wrB R.sysLock 0 true := rfl
theorem State.busWord_sysLock (s : State) (who : Initiator) (h : s.reaches who R.sysLock 1#32 = true) :
    s.busWord who R.sysLock 1#32 = { s.wrB R.sysLock 0 true with bus := .ok 0#64 } := by
  rw [s.busWord_reaches who R.sysLock _ h (by decide) (by decide) (by decide), State.regWrite_sysLock]

theorem State.regWrite_seqCoreDone (s : State) (i : Initiator) (n : Fin 4) : s.regWrite (some i) (R.seqCoreDone n) 1#32 = s.coreDone i n := by
  fin_cases n <;> rfl
theorem State.busWord_seqCoreDone (s : State) (who : Initiator) (n : Fin 4) (h : s.reaches who (R.seqCoreDone n) 1#32 = true) :
    s.busWord who (R.seqCoreDone n) 1#32 = { s.coreDone who n with bus := .ok 0#64 } := by
  rw [s.busWord_reaches who _ _ h (by fin_cases n <;> decide) (by fin_cases n <;> decide) (by fin_cases n <;> decide), State.regWrite_seqCoreDone]

theorem State.regWrite_sysCpCtrl (s : State) (i : Initiator) (p : Fin 5) : s.regWrite (some i) (R.sysCpCtrl p) 1#32 = s.cpRestart i p := by
  fin_cases p <;> rfl
theorem State.busWord_sysCpCtrl (s : State) (who : Initiator) (p : Fin 5) (h : s.reaches who (R.sysCpCtrl p) 1#32 = true) :
    s.busWord who (R.sysCpCtrl p) 1#32 = { s.cpRestart who p with bus := .ok 0#64 } := by
  rw [s.busWord_reaches who _ _ h (by fin_cases p <;> decide) (by fin_cases p <;> decide) (by fin_cases p <;> decide), State.regWrite_sysCpCtrl]

theorem State.regWrite_sysDbgForce (s : State) (i : Initiator) (k : Fin 8) (w : Word) : s.regWrite (some i) (R.sysDbgForce k) w = s.forceWrite i k w := by
  fin_cases k <;> rfl
theorem State.busWord_sysDbgForce (s : State) (who : Initiator) (k : Fin 8) (w : Word) (h : s.reaches who (R.sysDbgForce k) w = true) :
    s.busWord who (R.sysDbgForce k) w = { s.forceWrite who k w with bus := .ok 0#64 } := by
  rw [s.busWord_reaches who _ _ h (by fin_cases k <;> decide) (by fin_cases k <;> decide) (by fin_cases k <;> decide), State.regWrite_sysDbgForce]

/-- The claim register of a pair in a mode. -/
theorem State.busWord_claim (s : State) (who : Initiator) (p : Fin 5) (sup : Bool) (w : Word)
    (h : s.reaches who (if sup then R.sysIrqClaimS p else R.sysIrqClaimM p) w = true) :
    s.busWord who (if sup then R.sysIrqClaimS p else R.sysIrqClaimM p) w = { s.irqComplete p sup w with bus := .ok 0#64 } := by
  have e : s.regWrite (some who) (if sup then R.sysIrqClaimS p else R.sysIrqClaimM p) w = s.irqComplete p sup w := by
    cases sup <;> fin_cases p <;> rfl
  rw [s.busWord_reaches who _ _ h (by cases sup <;> fin_cases p <;> decide) (by cases sup <;> fin_cases p <;> decide)
    (by cases sup <;> fin_cases p <;> decide), e]

theorem State.busWord_pwmCcommit (s : State) (who : Initiator) (w : Word) (h : s.reaches who R.pwmCcommit w = true) :
    s.busWord who R.pwmCcommit w = { s.eachBit w 4 State.commitGroup with bus := .ok 0#64 } := by
  have e : s.regWrite (some who) R.pwmCcommit w = s.eachBit w 4 State.commitGroup := rfl
  rw [s.busWord_reaches who _ _ h (by decide) (by decide) (by decide), e]

theorem State.busWord_ceBankCtrl (s : State) (who : Initiator) (w : Word) (h : s.reaches who R.ceBankCtrl w = true) :
    s.busWord who R.ceBankCtrl w = { s.eachBit w 4 State.ceSwapReq with bus := .ok 0#64 } := by
  have e : s.regWrite (some who) R.ceBankCtrl w = s.eachBit w 4 State.ceSwapReq := rfl
  rw [s.busWord_reaches who _ _ h (by decide) (by decide) (by decide), e]

theorem State.busWord_recFire (s : State) (who : Initiator) (w : Word) (h : s.reaches who R.recFire w = true) :
    s.busWord who R.recFire w = { s.recSoftFire (fieldOf w 7 0) with bus := .ok 0#64 } := by
  have e : s.regWrite (some who) R.recFire w = s.recSoftFire (fieldOf w 7 0) := rfl
  rw [s.busWord_reaches who _ _ h (by decide) (by decide) (by decide), e]

theorem State.busWord_bootFlashCmd (s : State) (who : Initiator) (w : Word) (h : s.reaches who R.bootFlashCmd w = true) :
    s.busWord who R.bootFlashCmd w = { s.flashCmd (fieldOf w 30 28) with bus := .ok 0#64 } := by
  have e : s.regWrite (some who) R.bootFlashCmd w = s.flashCmd (fieldOf w 30 28) := rfl
  rw [s.busWord_reaches who _ _ h (by decide) (by decide) (by decide), e]

theorem State.busWord_canTxreq (s : State) (who : Initiator) (k : Fin 4) (w : Word) (h : s.reaches who (R.canTxreq k) w = true) :
    s.busWord who (R.canTxreq k) w = { s.canTxReq k (fieldOf w 2 0) with bus := .ok 0#64 } := by
  have e : s.regWrite (some who) (R.canTxreq k) w = s.canTxReq k (fieldOf w 2 0) := by fin_cases k <;> rfl
  rw [s.busWord_reaches who _ _ h (by fin_cases k <;> decide) (by fin_cases k <;> decide) (by fin_cases k <;> decide), e]

theorem State.busWord_canTxAbort (s : State) (who : Initiator) (k : Fin 4) (w : Word) (h : s.reaches who (R.canTxAbort k) w = true) :
    s.busWord who (R.canTxAbort k) w = { s.canTxAbort k (fieldOf w 2 0) with bus := .ok 0#64 } := by
  have e : s.regWrite (some who) (R.canTxAbort k) w = s.canTxAbort k (fieldOf w 2 0) := by fin_cases k <;> rfl
  rw [s.busWord_reaches who _ _ h (by fin_cases k <;> decide) (by fin_cases k <;> decide) (by fin_cases k <;> decide), e]

theorem State.busWord_canRxaRel (s : State) (who : Initiator) (k : Fin 4) (w : Word) (h : s.reaches who (R.canRxaRel k) w = true) :
    s.busWord who (R.canRxaRel k) w = { s.canRelease k (fieldOf w 7 0) with bus := .ok 0#64 } := by
  have e : s.regWrite (some who) (R.canRxaRel k) w = s.canRelease k (fieldOf w 7 0) := by fin_cases k <;> rfl
  rw [s.busWord_reaches who _ _ h (by fin_cases k <;> decide) (by fin_cases k <;> decide) (by fin_cases k <;> decide), e]

/-- A register without an act of its own takes a write under its access codes (R6). -/
theorem State.busWord_recCapService (s : State) (who : Initiator) (u : Fin 8) (w : Word) (h : s.reaches who (R.recCapService u) w = true) :
    s.busWord who (R.recCapService u) w = { s.storeReg (R.recCapService u) w with bus := .ok 0#64 } := by
  have e : s.regWrite (some who) (R.recCapService u) w = s.storeReg (R.recCapService u) w := by fin_cases u <;> rfl
  rw [s.busWord_reaches who _ _ h (by fin_cases u <;> decide) (by fin_cases u <;> decide) (by fin_cases u <;> decide), e]

/-! ### Reads -/

/-- A read that reaches its register has the register's own effect and answers what it shows. -/
theorem State.busRead_reaches (s : State) (who : Initiator) (a : Nat) (h : s.readReaches who a = true) (hr : isReg a = true)
    (h4 : a % 4 = 0) (hb : blockExists (a / 0x100000) = true) :
    s.busRead who a .b4 = { (s.regRead who a).1 with bus := .ok ((s.regRead who a).2.setWidth 64) } := by
  unfold State.readReaches at h
  simp only [Bool.and_eq_true, Bool.not_eq_true'] at h
  obtain ⟨⟨hm, hd⟩, ha⟩ := h
  have hans : s.regAnswers a .b4 = true := by
    unfold State.regAnswers
    simp [h4, hb, hd]
  unfold State.busRead
  simp only [hm, hr, hans, ha, Bool.not_true, Bool.false_eq_true, if_false, if_true]

end Sys2Proof.Machine
end

