-- ==== Sys2Proof/Laws/Bits.lean ====
section
/-! SUPPORT. The laws of bits and fields of a register word. -/

namespace Sys2Proof.Machine

theorem bitOf_eq (w : Word) (i : Nat) : bitOf w i = w.toNat.testBit i := by
  simp [bitOf, BitVec.getLsbD]

theorem bitOf_wordN (x i : Nat) (h : i < 32) : bitOf (wordN x) i = x.testBit i := by
  unfold bitOf wordN
  rw [BitVec.getLsbD_ofNat]; simp [h]

/-- A bit written reads as written; the others stand. -/
theorem bitOf_withBit (w : Word) (i j : Nat) (b : Bool) (h : i < 32) : bitOf (withBit w i b) j = if j = i then b else bitOf w j := by
  unfold bitOf withBit
  by_cases hj : j < 32
  · cases b
    · rw [if_neg (by simp), BitVec.getLsbD_and, BitVec.getLsbD_not, BitVec.getLsbD_ofNat, Nat.testBit_two_pow]
      by_cases e : j = i
      · subst e; simp [hj]
      · have e' : i ≠ j := fun x => e x.symm
        simp [e, e', hj]
    · rw [if_pos rfl, BitVec.getLsbD_or, BitVec.getLsbD_ofNat, Nat.testBit_two_pow]
      by_cases e : j = i
      · subst e; simp [hj]
      · have e' : i ≠ j := fun x => e x.symm
        simp [e, e']
  · have e : j ≠ i := by omega
    simp only [e, if_false]
    rw [BitVec.getLsbD_of_ge _ _ (by omega), BitVec.getLsbD_of_ge _ _ (by omega)]

@[simp] theorem bitOf_withBit_same (w : Word) (i : Nat) (b : Bool) (h : i < 32) : bitOf (withBit w i b) i = b := by
  rw [bitOf_withBit _ _ _ _ h]; simp

theorem natBits_testBit (x hi lo k : Nat) : (natBits x hi lo).testBit k = (decide (k < hi + 1 - lo) && x.testBit (lo + k)) := by
  unfold natBits
  rw [Nat.testBit_mod_two_pow, Nat.testBit_div_two_pow, Nat.add_comm k lo]

theorem withField_toNat (w : Word) (hi lo v : Nat) (h : hi < 32) (hl : lo ≤ hi) :
    (withField w hi lo v).toNat = w.toNat % 2 ^ lo + (v % 2 ^ (hi + 1 - lo)) * 2 ^ lo + w.toNat / 2 ^ (hi + 1) * 2 ^ (hi + 1) := by
  unfold withField fieldOf natBits
  set x := w.toNat with hx
  have hw : x < 2 ^ 32 := w.isLt
  set n := hi + 1 - lo with hn
  have e1 : 2 ^ (hi + 1) = 2 ^ lo * 2 ^ n := by rw [← pow_add]; congr 1; omega
  have a1 : x = 2 ^ lo * (x / 2 ^ lo) + x % 2 ^ lo := (Nat.div_add_mod _ _).symm
  have a2 : x / 2 ^ lo = 2 ^ n * (x / 2 ^ lo / 2 ^ n) + x / 2 ^ lo % 2 ^ n := (Nat.div_add_mod _ _).symm
  have a3 : x / 2 ^ lo / 2 ^ n = x / 2 ^ (hi + 1) := by rw [Nat.div_div_eq_div_mul, e1]
  have key : x = x / 2 ^ (hi + 1) * 2 ^ (hi + 1) + x / 2 ^ lo % 2 ^ n * 2 ^ lo + x % 2 ^ lo := by
    have b : x = 2 ^ lo * (2 ^ n * (x / 2 ^ (hi + 1)) + x / 2 ^ lo % 2 ^ n) + x % 2 ^ lo := by
      rw [← a3, ← a2]; exact a1
    calc x = _ := b
      _ = x / 2 ^ (hi + 1) * (2 ^ lo * 2 ^ n) + x / 2 ^ lo % 2 ^ n * 2 ^ lo + x % 2 ^ lo := by ring
      _ = _ := by rw [← e1]
  have hv : v % 2 ^ n < 2 ^ n := Nat.mod_lt _ (by positivity)
  have hr : x % 2 ^ lo < 2 ^ lo := Nat.mod_lt _ (by positivity)
  have hq : x / 2 ^ (hi + 1) * 2 ^ (hi + 1) + 2 ^ (hi + 1) ≤ 2 ^ 32 := by
    have : x / 2 ^ (hi + 1) < 2 ^ (32 - (hi + 1)) := by
      rw [Nat.div_lt_iff_lt_mul (by positivity), ← pow_add]
      convert hw using 2; omega
    calc x / 2 ^ (hi + 1) * 2 ^ (hi + 1) + 2 ^ (hi + 1) = (x / 2 ^ (hi + 1) + 1) * 2 ^ (hi + 1) := by ring
      _ ≤ 2 ^ (32 - (hi + 1)) * 2 ^ (hi + 1) := Nat.mul_le_mul_right _ this
      _ = 2 ^ 32 := by rw [← pow_add]; congr 1; omega
  have hm : v % 2 ^ n * 2 ^ lo + 2 ^ lo ≤ 2 ^ (hi + 1) := by
    calc v % 2 ^ n * 2 ^ lo + 2 ^ lo = (v % 2 ^ n + 1) * 2 ^ lo := by ring
      _ ≤ 2 ^ n * 2 ^ lo := Nat.mul_le_mul_right _ hv
      _ = 2 ^ (hi + 1) := by rw [e1]; ring
  rw [BitVec.toNat_ofNat, Nat.mod_eq_of_lt]
  · omega
  · omega

/-- The field written reads as written, within its width. -/
@[simp] theorem fieldOf_withField (w : Word) (hi lo v : Nat) (h : hi < 32) (hl : lo ≤ hi) :
    fieldOf (withField w hi lo v) hi lo = v % 2 ^ (hi + 1 - lo) := by
  unfold fieldOf natBits
  rw [withField_toNat _ _ _ _ h hl]
  have e1 : 2 ^ (hi + 1) = 2 ^ lo * 2 ^ (hi + 1 - lo) := by rw [← pow_add]; congr 1; omega
  have hr : w.toNat % 2 ^ lo < 2 ^ lo := Nat.mod_lt _ (by positivity)
  have : w.toNat % 2 ^ lo + v % 2 ^ (hi + 1 - lo) * 2 ^ lo + w.toNat / 2 ^ (hi + 1) * 2 ^ (hi + 1)
      = w.toNat % 2 ^ lo + 2 ^ lo * (v % 2 ^ (hi + 1 - lo) + 2 ^ (hi + 1 - lo) * (w.toNat / 2 ^ (hi + 1))) := by
    rw [e1]; ring
  rw [this, Nat.add_mul_div_left _ _ (by positivity), Nat.div_eq_of_lt hr, Nat.zero_add, Nat.add_mul_mod_self_left, Nat.mod_mod]

/-- A bit outside a field stands when the field is written. -/
theorem bitOf_withField (w : Word) (hi lo v j : Nat) (h : hi < 32) (hl : lo ≤ hi) (hj : j < lo ∨ hi < j) :
    bitOf (withField w hi lo v) j = bitOf w j := by
  rw [bitOf_eq, bitOf_eq, withField_toNat _ _ _ _ h hl]
  have e1 : 2 ^ (hi + 1) = 2 ^ lo * 2 ^ (hi + 1 - lo) := by rw [← pow_add]; congr 1; omega
  have hr : w.toNat % 2 ^ lo < 2 ^ lo := Nat.mod_lt _ (by positivity)
  have hv : v % 2 ^ (hi + 1 - lo) < 2 ^ (hi + 1 - lo) := Nat.mod_lt _ (by positivity)
  rcases hj with hj | hj
  · have : w.toNat % 2 ^ lo + v % 2 ^ (hi + 1 - lo) * 2 ^ lo + w.toNat / 2 ^ (hi + 1) * 2 ^ (hi + 1)
      = 2 ^ lo * (v % 2 ^ (hi + 1 - lo) + 2 ^ (hi + 1 - lo) * (w.toNat / 2 ^ (hi + 1))) + w.toNat % 2 ^ lo := by
      rw [e1]; ring
    rw [this, Nat.testBit_two_pow_mul_add _ hr]
    simp [hj, Nat.testBit_mod_two_pow]
  · have hlow : w.toNat % 2 ^ lo + v % 2 ^ (hi + 1 - lo) * 2 ^ lo < 2 ^ (hi + 1) := by
      have : v % 2 ^ (hi + 1 - lo) * 2 ^ lo + 2 ^ lo ≤ 2 ^ (hi + 1) := by
        calc _ = (v % 2 ^ (hi + 1 - lo) + 1) * 2 ^ lo := by ring
          _ ≤ 2 ^ (hi + 1 - lo) * 2 ^ lo := Nat.mul_le_mul_right _ hv
          _ = 2 ^ (hi + 1) := by rw [e1]; ring
      omega
    have : w.toNat % 2 ^ lo + v % 2 ^ (hi + 1 - lo) * 2 ^ lo + w.toNat / 2 ^ (hi + 1) * 2 ^ (hi + 1)
      = 2 ^ (hi + 1) * (w.toNat / 2 ^ (hi + 1)) + (w.toNat % 2 ^ lo + v % 2 ^ (hi + 1 - lo) * 2 ^ lo) := by ring
    rw [this, Nat.testBit_two_pow_mul_add _ hlow]
    have h1 : ¬ j < hi + 1 := by omega
    simp only [h1, if_false, Nat.testBit_div_two_pow]
    congr 1; omega

theorem fieldOf_congr (v w : Word) (hi lo : Nat) (h : ∀ j, lo ≤ j → j ≤ hi → bitOf v j = bitOf w j) : fieldOf v hi lo = fieldOf w hi lo := by
  apply Nat.eq_of_testBit_eq
  intro k
  unfold fieldOf
  rw [natBits_testBit, natBits_testBit]
  by_cases hk : k < hi + 1 - lo
  · rw [← bitOf_eq, ← bitOf_eq, h (lo + k) (by omega) (by omega)]
  · simp [hk]

/-- A field stands when a bit outside it is written. -/
theorem fieldOf_withBit (w : Word) (i hi lo : Nat) (b : Bool) (h : i < 32) (hi' : i < lo ∨ hi < i) : fieldOf (withBit w i b) hi lo = fieldOf w hi lo :=
  fieldOf_congr _ _ _ _ (fun j h1 h2 => by rw [bitOf_withBit _ _ _ _ h, if_neg (by omega)])

/-- A field stands when another field, disjoint from it, is written. -/
theorem fieldOf_withField_ne (w : Word) (hi lo hi' lo' v : Nat) (h : hi < 32) (hl : lo ≤ hi) (hd : hi' < lo ∨ hi < lo') :
    fieldOf (withField w hi lo v) hi' lo' = fieldOf w hi' lo' :=
  fieldOf_congr _ _ _ _ (fun j h1 h2 => bitOf_withField _ _ _ _ _ h hl (by omega))

end Sys2Proof.Machine
end

