-- ==== Sys2Proof/Laws/Frame.lean ====
section
/-! SUPPORT. The frame of the operations that leave memory, the meter, the driver boards and the variant as they stood: one lemma per operation. -/

namespace Sys2Proof.Machine

/-- The parts of a state that few commands touch: memory, the meter's energies, parameters and seal counter, the driver boards, and the
variant. -/
structure Frame where
  mem : MemSt
  energy : Tab Nat
  residue : Tab Nat
  par : Tab Word
  next : Option (Tab Word)
  staging : Tab Word
  commits : Nat
  seals : Nat
  losses : Nat
  rtcAt : Nat
  isSealed : Bool
  boards : Tab BoardSt
  dev : Variant

/-- These parts of a state, as the frame lemmas name them. -/
def State.frame (s : State) : Frame :=
  ⟨s.mem, s.isl.energy, s.isl.residue, s.isl.par, s.isl.next, s.isl.staging, s.isl.commits, s.isl.seals, s.isl.losses, s.isl.rtcAt, s.isl.isSealed, s.boards, s.dev⟩

@[simp] theorem mk_frame (x0 : Clk) (x1 : Tab Word) (x2 : Tab Raised) (x3 : BusAns) (x4 : SigTab) (x5 : Tab Ev) (x6 : IrqSt) (x7 : MemSt) (x8 : TimeSt) (x9 : Tab SeqSt) (x10 : Tab SliceSt) (x11 : Tab LegSt) (x12 : Tab LinkSt) (x13 : Tab BoardSt) (x14 : Tab CanSt) (x15 : Tab VecSt) (x16 : Tab PosSt) (x17 : Tab KeepSt) (x18 : Tab GfeSt) (x19 : GfeParSt) (x20 : SndSt) (x21 : TwinSt) (x22 : Tab Bool) (x23 : RecSt) (x24 : SdfSt) (x25 : ProtSt) (x26 : WearSt) (x27 : PdmSt) (x28 : Tab PairSt) (x29 : Tab SarSt) (x30 : CeSt) (x31 : AuxAll) (x32 : EthSt) (x33 : IslSt) (x34 : PmuSt) (x35 : Tap) (x36 : IomSt) (x37 : FrySt) (x38 : BootSt) (x39 : UliSt) (x40 : Variant) (x41 : Nat) (x42 : List Instr) :
    (State.mk x0 x1 x2 x3 x4 x5 x6 x7 x8 x9 x10 x11 x12 x13 x14 x15 x16 x17 x18 x19 x20 x21 x22 x23 x24 x25 x26 x27 x28 x29 x30 x31 x32 x33 x34 x35 x36 x37 x38 x39 x40 x41 x42).frame =
      ⟨x7, x33.energy, x33.residue, x33.par, x33.next, x33.staging, x33.commits, x33.seals, x33.losses, x33.rtcAt, x33.isSealed, x13, x40⟩ := rfl

@[simp] theorem frame_fold (s : State) :
    Frame.mk s.mem s.isl.energy s.isl.residue s.isl.par s.isl.next s.isl.staging s.isl.commits s.isl.seals s.isl.losses s.isl.rtcAt s.isl.isSealed
      s.boards s.dev = s.frame := by
  unfold State.frame; exact (rfl)

@[simp] theorem each_frame (s : State) (is : List Nat) (f : State → Nat → State) (h : ∀ s i, (f s i).frame = s.frame) : (s.each is f).frame = s.frame := by
  unfold State.each
  induction is generalizing s with
  | nil => rfl
  | cons i is ih => rw [List.foldl_cons, ih, h]

@[simp] theorem foldl_frame {α : Type} (s : State) (l : List α) (f : State → α → State) (h : ∀ s i, (f s i).frame = s.frame) : (l.foldl f s).frame = s.frame := by
  induction l generalizing s with
  | nil => rfl
  | cons i is ih => rw [List.foldl_cons, ih, h]

@[simp] theorem State.goto_frame (s : State) (t : Nat) : (State.goto s t).frame = s.frame := by
  unfold State.goto
  simp

@[simp] theorem State.wr_frame (s : State) (a : Nat) (w : Word) : (State.wr s a w).frame = s.frame := by
  unfold State.wr
  simp

@[simp] theorem State.wrF_frame (s : State) (a : Nat) (hi : Nat) (lo : Nat) (v : Nat) : (State.wrF s a hi lo v).frame = s.frame := by
  unfold State.wrF
  simp

@[simp] theorem State.wrB_frame (s : State) (a : Nat) (i : Nat) (b : Bool) : (State.wrB s a i b).frame = s.frame := by
  unfold State.wrB
  simp

@[simp] theorem State.countUp_frame (s : State) (a : Nat) (hi : Nat) (lo : Nat) (n : Nat) : (State.countUp s a hi lo n).frame = s.frame := by
  unfold State.countUp
  simp

@[simp] theorem State.markRaised_frame (s : State) (a : Nat) (m : Word) (c : Word) : (State.markRaised s a m c).frame = s.frame := by
  unfold State.markRaised
  simp

@[simp] theorem State.raise_frame (s : State) (a : Nat) (i : Nat) : (State.raise s a i).frame = s.frame := by
  unfold State.raise
  simp

@[simp] theorem State.raiseCapture_frame (s : State) (a : Nat) (i : Nat) (b : Nat) (hi : Nat) (lo : Nat) (v : Nat) : (State.raiseCapture s a i b hi lo v).frame = s.frame := by
  unfold State.raiseCapture
  simp [apply_ite State.frame]

@[simp] theorem State.raiseIf_frame (s : State) (c : Bool) (a : Nat) (i : Nat) : (State.raiseIf s c a i).frame = s.frame := by
  unfold State.raiseIf
  simp [apply_ite State.frame]

@[simp] theorem State.storeReg_frame (s : State) (a : Nat) (w : Word) : (State.storeReg s a w).frame = s.frame := by
  unfold State.storeReg
  (repeat' split) <;> simp

@[simp] theorem State.soon_frame (s : State) (t : Nat) (x : Soon) : (State.soon s t x).frame = s.frame := by
  unfold State.soon
  simp

@[simp] theorem State.lineMark_frame (s : State) (x : Nat) : (State.lineMark s x).frame = s.frame := by
  unfold State.lineMark
  simp

@[simp] theorem State.tookFree_frame (s : State) : (State.tookFree s).frame = s.frame := by
  unfold State.tookFree
  simp

@[simp] theorem State.setIrq_frame (s : State) (i : Nat) (b : Bool) : (State.setIrq s i b).frame = s.frame := by
  unfold State.setIrq
  simp [apply_ite State.frame]

@[simp] theorem State.postAt_frame (s : State) (src : Nat) (code : Nat) (tau : Int) : (State.postAt s src code tau).frame = s.frame := by
  unfold State.postAt
  simp

@[simp] theorem State.post_frame (s : State) (src : Nat) (code : Nat) : (State.post s src code).frame = s.frame := by
  unfold State.post
  simp

@[simp] theorem State.setStable_frame (s : State) (i : Nat) (v : SigVal) : (State.setStable s i v).frame = s.frame := by
  unfold State.setStable
  simp

@[simp] theorem State.setFill_frame (s : State) (i : Nat) (v : Option SigVal) : (State.setFill s i v).frame = s.frame := by
  unfold State.setFill
  simp

@[simp] theorem State.sigStore_frame (s : State) (i : Nat) (v : Word) (q : Qual) : (State.sigStore s i v q).frame = s.frame := by
  unfold State.sigStore
  simp [apply_ite State.frame]

@[simp] theorem State.sigPut_frame (s : State) (i : Nat) (v : Word) (q : Qual) : (State.sigPut s i v q).frame = s.frame := by
  unfold State.sigPut
  simp [apply_ite State.frame]

@[simp] theorem State.setSeq_frame (s : State) (n : Nat) (v : SeqSt) : (State.setSeq s n v).frame = s.frame := by
  unfold State.setSeq
  simp

@[simp] theorem State.setSlice_frame (s : State) (n : Nat) (v : SliceSt) : (State.setSlice s n v).frame = s.frame := by
  unfold State.setSlice
  simp

@[simp] theorem State.setLeg_frame (s : State) (n : Nat) (v : LegSt) : (State.setLeg s n v).frame = s.frame := by
  unfold State.setLeg
  simp

@[simp] theorem State.setLink_frame (s : State) (n : Nat) (v : LinkSt) : (State.setLink s n v).frame = s.frame := by
  unfold State.setLink
  simp

@[simp] theorem State.setMot_frame (s : State) (m : Nat) (v : AuxSt) : (State.setMot s m v).frame = s.frame := by
  unfold State.setMot
  simp

@[simp] theorem State.auxFollow_frame (s : State) (h : Nat) (hi : Bool) : (State.auxFollow s h hi).frame = s.frame := by
  unfold State.auxFollow
  simp [apply_ite State.frame]

@[simp] theorem State.auxNote_frame (s : State) (h : Nat) : (State.auxNote s h).frame = s.frame := by
  unfold State.auxNote
  simp

@[simp] theorem State.auxNoteMotor_frame (s : State) (m : Nat) : (State.auxNoteMotor s m).frame = s.frame := by
  unfold State.auxNoteMotor
  simp

@[simp] theorem State.auxSwitched_frame (s : State) (i : Nat) (a : Bool) (on : Bool) : (State.auxSwitched s i a on).frame = s.frame := by
  unfold State.auxSwitched
  simp [apply_ite State.frame]

@[simp] theorem State.judgeSlice_frame (s : State) (i : Nat) (v : SliceSet) (prev : Option Nat) (T : Int) : (State.judgeSlice s i v prev T).1.frame = s.frame := by
  unfold State.judgeSlice
  simp

@[simp] theorem State.judgeLeg_frame (s : State) (g : Nat) (ws : List Word) : (State.judgeLeg s g ws).1.frame = s.frame := by
  unfold State.judgeLeg
  simp

@[simp] theorem State.swOff_frame (s : State) (i : Nat) (a : Bool) (x : Nat) : (State.swOff s i a x).frame = s.frame := by
  unfold State.swOff
  simp [apply_ite State.frame]

@[simp] theorem State.interlockHit_frame (s : State) (i : Nat) : (State.interlockHit s i).frame = s.frame := by
  unfold State.interlockHit
  simp [apply_ite State.frame]

@[simp] theorem State.swOn_frame (s : State) (i : Nat) (a : Bool) (x : Nat) : (State.swOn s i a x).frame = s.frame := by
  unfold State.swOn
  simp [apply_ite State.frame]

@[simp] theorem State.swDue_frame (s : State) (i : Nat) (a : Bool) (x : Nat) : (State.swDue s i a x).frame = s.frame := by
  unfold State.swDue
  simp [apply_ite State.frame]

@[simp] theorem State.runCmds_frame (s : State) (g : Nat) (cs : List SwCmd) : (State.runCmds s g cs).frame = s.frame := by
  unfold State.runCmds
  simp [apply_ite State.frame]

@[simp] theorem State.sliceRequest_frame (s : State) (i : Nat) (r : Option Nat) (x : Nat) : (State.sliceRequest s i r x).frame = s.frame := by
  unfold State.sliceRequest
  (repeat' (split <;> try simp [apply_ite State.frame]))

@[simp] theorem State.setEdges_frame (s : State) (l : Nat) (es : List Edge) : (State.setEdges s l es).frame = s.frame := by
  unfold State.setEdges
  simp

@[simp] theorem State.dropEdges_frame (s : State) (l : Nat) (gone : Edge → Bool) : (State.dropEdges s l gone).frame = s.frame := by
  unfold State.dropEdges
  simp

@[simp] theorem State.handEdge_frame (s : State) (l : Nat) (c : SwCmd) : (State.handEdge s l c).frame = s.frame := by
  unfold State.handEdge
  simp [apply_ite State.frame]

@[simp] theorem State.handEdges_frame (s : State) (l : Nat) (cs : List SwCmd) : (State.handEdges s l cs).frame = s.frame := by
  unfold State.handEdges
  simp

@[simp] theorem State.handLeg_frame (s : State) (g : Nat) (x : Nat) (segs : List Seg) (sent : List (Nat × Bool × Nat)) : (State.handLeg s g x segs sent).1.frame = s.frame := by
  unfold State.handLeg
  simp

@[simp] theorem State.handSlice_frame (s : State) (i : Nat) (x : Nat) (segs : List Seg) (sent : List (Nat × Bool × Nat)) : (State.handSlice s i x segs sent).1.frame = s.frame := by
  unfold State.handSlice
  simp

@[simp] theorem State.prepareLeg_frame (s : State) (g : Nat) (x : Nat) : (State.prepareLeg s g x).frame = s.frame := by
  unfold State.prepareLeg
  simp [apply_ite State.frame]

@[simp] theorem State.prepareSlice_frame (s : State) (i : Nat) (x : Nat) : (State.prepareSlice s i x).frame = s.frame := by
  unfold State.prepareSlice
  simp [apply_ite State.frame]

@[simp] theorem State.planLegWith_frame (s : State) (g : Nat) (x : Nat) (sent : List (Nat × Bool × Nat)) : (State.planLegWith s g x sent).frame = s.frame := by
  unfold State.planLegWith
  simp

@[simp] theorem State.planSliceWith_frame (s : State) (i : Nat) (x : Nat) (sent : List (Nat × Bool × Nat)) : (State.planSliceWith s i x sent).frame = s.frame := by
  unfold State.planSliceWith
  simp

@[simp] theorem State.planLeg_frame (s : State) (g : Nat) : (State.planLeg s g).frame = s.frame := by
  unfold State.planLeg
  split
  · (repeat' split) <;> simp
  · apply each_frame; intro s i; (repeat' split) <;> simp

@[simp] theorem State.withdraw_frame (s : State) (l : Nat) (es : List (Nat × Bool × Nat)) : (State.withdraw s l es).1.frame = s.frame := by
  unfold State.withdraw
  simp

@[simp] theorem State.replanLeg_frame (s : State) (g : Nat) : (State.replanLeg s g).frame = s.frame := by
  unfold State.replanLeg
  (repeat' split) <;> simp

@[simp] theorem State.replanSlice_frame (s : State) (i : Nat) : (State.replanSlice s i).frame = s.frame := by
  unfold State.replanSlice
  (repeat' split) <;> simp

@[simp] theorem State.commitSlice_frame (s : State) (i : Nat) (v : SliceSet) : (State.commitSlice s i v).frame = s.frame := by
  unfold State.commitSlice
  simp [apply_ite State.frame]

@[simp] theorem State.commitLeg_frame (s : State) (g : Nat) (ws : List Word) : (State.commitLeg s g ws).frame = s.frame := by
  unfold State.commitLeg
  simp [apply_ite State.frame]

@[simp] theorem State.pwmForeign_frame (s : State) (i : Nat) : (State.pwmForeign s i).frame = s.frame := by
  unfold State.pwmForeign
  simp [apply_ite State.frame]

@[simp] theorem State.writeSliceWord_frame (s : State) (i : Nat) (isOn : Bool) (w : Word) : (State.writeSliceWord s i isOn w).frame = s.frame := by
  unfold State.writeSliceWord
  (repeat' (split <;> try simp [apply_ite State.frame]))

@[simp] theorem State.writeLegWord_frame (s : State) (g : Nat) (j : Nat) (w : Word) : (State.writeLegWord s g j w).frame = s.frame := by
  unfold State.writeLegWord
  (repeat' (split <;> try simp))

@[simp] theorem State.commitGroup_frame (s : State) (k : Nat) : (State.commitGroup s k).frame = s.frame := by
  unfold State.commitGroup
  rw [each_frame _ _ _ (by intro s g; (repeat' split) <;> simp), each_frame _ _ _ (by intro s g; (repeat' split) <;> simp)]

@[simp] theorem State.sliceEnter_frame (s : State) (i : Nat) : (State.sliceEnter s i).frame = s.frame := by
  unfold State.sliceEnter
  (try simp)
  (repeat' (split <;> (try simp)))

@[simp] theorem State.legEnter_frame (s : State) (g : Nat) : (State.legEnter s g).frame = s.frame := by
  unfold State.legEnter
  (try simp)
  (repeat' (split <;> (try simp)))

@[simp] theorem State.reloadSlice_frame (s : State) (i : Nat) (x : Nat) : (State.reloadSlice s i x).frame = s.frame := by
  unfold State.reloadSlice
  (try simp [apply_ite State.frame])
  (repeat' (split <;> try simp [apply_ite State.frame]))
  all_goals (try rfl)

@[simp] theorem State.reloadLeg_frame (s : State) (g : Nat) (x : Nat) : (State.reloadLeg s g x).frame = s.frame := by
  unfold State.reloadLeg
  (try simp)
  (repeat' (split <;> (try simp)))

@[simp] theorem State.sliceClear_frame (s : State) (i : Nat) (x : Nat) : (State.sliceClear s i x).frame = s.frame := by
  unfold State.sliceClear
  simp

@[simp] theorem State.legTakeUp_frame (s : State) (g : Nat) (x : Nat) : (State.legTakeUp s g x).frame = s.frame := by
  unfold State.legTakeUp
  simp

@[simp] theorem State.legResume_frame (s : State) (g : Nat) (x : Nat) : (State.legResume s g x).frame = s.frame := by
  unfold State.legResume
  (repeat' split) <;> simp

@[simp] theorem State.sliceResume_frame (s : State) (i : Nat) (x : Nat) : (State.sliceResume s i x).frame = s.frame := by
  unfold State.sliceResume
  simp [apply_ite State.frame]

@[simp] theorem State.pwmReload_frame (s : State) (c : Nat) : (State.pwmReload s c).frame = s.frame := by
  unfold State.pwmReload
  simp [apply_ite State.frame]

@[simp] theorem State.sliceEdge_frame (s : State) (i : Nat) : (State.sliceEdge s i).frame = s.frame := by
  unfold State.sliceEdge
  simp [apply_ite State.frame]

@[simp] theorem State.deadTimeEnd_frame (s : State) (i : Nat) : (State.deadTimeEnd s i).frame = s.frame := by
  unfold State.deadTimeEnd
  (try simp)
  (repeat' (split <;> (try simp)))

@[simp] theorem State.legEntry_frame (s : State) (g : Nat) : (State.legEntry s g).frame = s.frame := by
  unfold State.legEntry
  simp [apply_ite State.frame]

@[simp] theorem State.legStep_frame (s : State) (g : Nat) : (State.legStep s g).frame = s.frame := by
  unfold State.legStep
  (try simp)
  (repeat' (split <;> (try simp)))

@[simp] theorem State.queueState_frame (s : State) (l : Nat) (c : StateCmd) : (State.queueState s l c).frame = s.frame := by
  unfold State.queueState
  simp [apply_ite State.frame]

@[simp] theorem State.sendState_frame (s : State) (g : Nat) (code : Nat) : (State.sendState s g code).frame = s.frame := by
  unfold State.sendState
  simp [apply_ite State.frame]

@[simp] theorem State.ovrEnds_frame (s : State) (g : Nat) : (State.ovrEnds s g).frame = s.frame := by
  unfold State.ovrEnds
  simp [apply_ite State.frame]

@[simp] theorem State.handAgain_frame (s : State) (g : Nat) : (State.handAgain s g).frame = s.frame := by
  unfold State.handAgain
  split
  · rfl
  split
  · (repeat' split) <;> simp
  · apply each_frame; intro s i; (repeat' split) <;> simp

@[simp] theorem State.ovrSlice_frame (s : State) (g : Nat) (code : Nat) (k : Nat) (x : Nat) : (State.ovrSlice s g code k x).frame = s.frame := by
  unfold State.ovrSlice
  dsimp only
  (repeat' split) <;> first | rfl | simp [apply_ite State.frame] | simp_all [apply_ite State.frame]

@[simp] theorem State.setOverride_frame (s : State) (g : Nat) (code : Nat) : (State.setOverride s g code).frame = s.frame := by
  unfold State.setOverride
  dsimp only
  (repeat' split) <;> first | rfl | simp [apply_ite State.frame] | simp_all [apply_ite State.frame]

@[simp] theorem State.setCap_frame (s : State) (u : Nat) (v : CapSt) : (State.setCap s u v).frame = s.frame := by
  unfold State.setCap
  simp

@[simp] theorem State.setRecChan_frame (s : State) (c : Nat) (v : RecChan) : (State.setRecChan s c v).frame = s.frame := by
  unfold State.setRecChan
  simp

@[simp] theorem State.recEvent_frame (s : State) (u : Nat) (code : Nat) : (State.recEvent s u code).frame = s.frame := by
  unfold State.recEvent
  simp

@[simp] theorem State.setCapState_frame (s : State) (u : Nat) (st : Nat) : (State.setCapState s u st).frame = s.frame := by
  unfold State.setCapState
  simp

@[simp] theorem State.capFill_frame (s : State) (u : Nat) (k : Nat) : (State.capFill s u k).frame = s.frame := by
  unfold State.capFill
  simp

@[simp] theorem State.capFillOrWait_frame (s : State) (u : Nat) (k : Nat) : (State.capFillOrWait s u k).frame = s.frame := by
  unfold State.capFillOrWait
  (repeat' split) <;> simp

@[simp] theorem State.capAfterHold_frame (s : State) (u : Nat) : (State.capAfterHold s u).frame = s.frame := by
  unfold State.capAfterHold
  simp [apply_ite State.frame]

@[simp] theorem State.capDeadEnd_frame (s : State) (u : Nat) : (State.capDeadEnd s u).frame = s.frame := by
  unfold State.capDeadEnd
  simp [apply_ite State.frame]

@[simp] theorem State.capComplete_frame (s : State) (u : Nat) (overload : Bool) (stopped : Bool) (st : Nat) : (State.capComplete s u overload stopped st).frame = s.frame := by
  unfold State.capComplete
  simp

@[simp] theorem State.busDrive_frame (s : State) (u : Nat) : (State.busDrive s u).frame = s.frame := by
  unfold State.busDrive
  simp [apply_ite State.frame]

@[simp] theorem State.recTrigMark_frame (s : State) (u : Nat) (i : Nat) : (State.recTrigMark s u i).frame = s.frame := by
  unfold State.recTrigMark
  simp

@[simp] theorem State.capTrigger_frame (s : State) (u : Nat) (code : Nat) (at_ : Nat) : (State.capTrigger s u code at_).1.frame = s.frame := by
  unfold State.capTrigger
  (try simp)
  (repeat' (split <;> (try simp)))

@[simp] theorem State.capHoldCount_frame (s : State) (u : Nat) (code : Nat) : (State.capHoldCount s u code).frame = s.frame := by
  unfold State.capHoldCount
  simp [apply_ite State.frame]

@[simp] theorem State.recFireGo_frame (n : Nat) (s : State) (code at_ only : Nat) : (State.recFireGo n s code at_ only).frame = s.frame := by
  induction n generalizing s code at_ only with
  | zero => rfl
  | succ n ih =>
    unfold State.recFireGo
    apply foldl_frame
    intro s u
    (repeat' split) <;> simp [ih, apply_ite State.frame] <;> (repeat' split) <;> simp [ih]

@[simp] theorem State.recFire_frame (s : State) (code : Nat) (at_ : Nat) : (State.recFire s code at_).frame = s.frame := by
  unfold State.recFire; simp

@[simp] theorem State.recFireNow_frame (s : State) (code : Nat) : (State.recFireNow s code).frame = s.frame := by
  unfold State.recFireNow
  simp

@[simp] theorem State.lvlJudge_frame (s : State) (k : Nat) (v : Int) (ts : Nat) : (State.lvlJudge s k v ts).frame = s.frame := by
  unfold State.lvlJudge
  (try simp)
  (repeat' (split <;> (try simp)))

@[simp] theorem State.recSample_frame (s : State) (c : Nat) (v : Int) (q : Qual) (ts : Nat) : (State.recSample s c v q ts).frame = s.frame := by
  unfold State.recSample
  (repeat' (split <;> try simp [apply_ite State.frame]))

@[simp] theorem State.recThread_frame (s : State) (n : Nat) (ts : Nat) : (State.recThread s n ts).frame = s.frame := by
  unfold State.recThread
  simp [apply_ite State.frame]

@[simp] theorem State.recChain_frame (s : State) (ch : Nat) (v : Int) (q : Qual) (ts : Nat) : (State.recChain s ch v q ts).frame = s.frame := by
  unfold State.recChain
  simp [apply_ite State.frame]

@[simp] theorem State.recSignal_frame (s : State) (i : Nat) : (State.recSignal s i).frame = s.frame := by
  unfold State.recSignal
  simp [apply_ite State.frame]

@[simp] theorem State.capOverload_frame (s : State) (u : Nat) : (State.capOverload s u).frame = s.frame := by
  unfold State.capOverload
  simp [apply_ite State.frame]

@[simp] theorem State.capCloseIv_frame (s : State) (u : Nat) (len : Nat) : (State.capCloseIv s u len).frame = s.frame := by
  unfold State.capCloseIv
  extract_lets c start fits rs trig sameCyc s1 s2 src s3 c' s4 s5
  have e1 : s1.frame = s.frame := State.setCap_frame ..
  have e2 : s2.frame = s1.frame := by apply each_frame; intro s i; exact State.setRecChan_frame ..
  have e3 : s3.frame = s2.frame := (mk_frame ..).trans (frame_fold _)
  have e4 : s4.frame = s3.frame := by
    clear_value s3
    simp only [s4]
    split
    · split <;> simp
    · rfl
  have e5 : s5.frame = s4.frame := by
    clear_value s4
    simp only [s5]
    split <;> simp
  clear_value s5
  rw [← e1, ← e2, ← e3, ← e4, ← e5]
  split
  · split
    · split <;> simp
    · simp
  · simp

@[simp] theorem State.capCloseTo_frame (s : State) (u old n : Nat) : (State.capCloseTo s u old n).frame = s.frame := by
  induction n generalizing s with
  | zero => rfl
  | succ n ih =>
    unfold State.capCloseTo
    split
    · rw [ih]; exact State.capCloseIv_frame ..
    · rfl

@[simp] theorem State.capTimeStep_frame (s : State) (u old new : Nat) : (State.capTimeStep s u old new).frame = s.frame := by
  unfold State.capTimeStep
  dsimp only
  split
  · rw [each_frame]
    · split
      · exact State.setCap_frame ..
      · rw [State.setCap_frame, State.capCloseTo_frame]
    · intro s i; simp
  · rfl

@[simp] theorem State.slotFree_frame (s : State) (u : Nat) (w : Word) : (State.slotFree s u w).frame = s.frame := by
  unfold State.slotFree
  (try simp)
  (repeat' (split <;> (try simp)))

@[simp] theorem State.recArm_frame (s : State) (u : Nat) : (State.recArm s u).frame = s.frame := by
  unfold State.recArm
  simp [apply_ite State.frame]

@[simp] theorem State.holdEnd_frame (s : State) (u : Nat) : (State.holdEnd s u).frame = s.frame := by
  unfold State.holdEnd
  simp [apply_ite State.frame]

@[simp] theorem State.recFireAt_frame (s : State) (u : Nat) : (State.recFireAt s u).frame = s.frame := by
  unfold State.recFireAt; split <;> simp

@[simp] theorem State.fireAtWrite_frame (s : State) (u : Nat) (w : Word) : (State.fireAtWrite s u w).frame = s.frame := by
  unfold State.fireAtWrite
  simp

@[simp] theorem State.recSoftFire_frame (s : State) (mask : Nat) : (State.recSoftFire s mask).frame = s.frame := by
  unfold State.recSoftFire; simp

@[simp] theorem State.trigBusEdge_frame (s : State) (b : Nat) (high : Nat) : (State.trigBusEdge s b high).frame = s.frame := by
  unfold State.trigBusEdge
  simp [apply_ite State.frame]

@[simp] theorem State.busDriveEnd_frame (s : State) (b : Nat) : (State.busDriveEnd s b).frame = s.frame := by
  unfold State.busDriveEnd
  simp [apply_ite State.frame]

@[simp] theorem State.setWear_frame (s : State) (r : WearRec) : (State.setWear s r).frame = s.frame := by
  unfold State.setWear
  simp

@[simp] theorem State.wearRecord_frame (s : State) : (State.wearRecord s).frame = s.frame := by
  unfold State.wearRecord
  simp

@[simp] theorem State.wearJudge_frame (s : State) : (State.wearJudge s).frame = s.frame := by
  unfold State.wearJudge
  simp [apply_ite State.frame]

@[simp] theorem State.wearAssigned_frame (s : State) (cls : Nat) (u : Nat) : (State.wearAssigned s cls u).frame = s.frame := by
  unfold State.wearAssigned
  simp

@[simp] theorem State.wearRetired_frame (s : State) (cls : Nat) (u : Nat) (spare : Bool) : (State.wearRetired s cls u spare).frame = s.frame := by
  unfold State.wearRetired
  simp [apply_ite State.frame]

@[simp] theorem State.wearSpared_frame (s : State) (cls : Nat) (u : Nat) (old : List (Nat × Nat)) (new : Option (List (Nat × Nat))) : (State.wearSpared s cls u old new).frame = s.frame := by
  unfold State.wearSpared
  simp

@[simp] theorem State.retirePair_frame (s : State) (p : Nat) : (State.retirePair s p).frame = s.frame := by
  unfold State.retirePair
  split
  · rfl
  · dsimp only; rw [State.wearSpared_frame, State.wrB_frame, State.setWear_frame]

@[simp] theorem State.retireBank_frame (s : State) (b : Nat) : (State.retireBank s b).frame = s.frame := by
  unfold State.retireBank
  split
  · rfl
  · dsimp only; rw [State.wearSpared_frame, State.wrB_frame, State.setWear_frame]

@[simp] theorem State.retireSar_frame (s : State) (k : Nat) : (State.retireSar s k).frame = s.frame := by
  unfold State.retireSar
  split
  · rfl
  · dsimp only; rw [State.wearSpared_frame, State.setWear_frame]

@[simp] theorem State.assignSar_frame (s : State) (k : Nat) : (State.assignSar s k).frame = s.frame := by
  unfold State.assignSar
  (repeat' split) <;> simp

@[simp] theorem State.retireLink_frame (s : State) (l : Nat) : (State.retireLink s l).frame = s.frame := by
  unfold State.retireLink
  (repeat' (split <;> try simp))

@[simp] theorem State.wearSet_frame (s : State) (m : Nat) (v : Nat) : (State.wearSet s m v).frame = s.frame := by
  unfold State.wearSet
  simp

@[simp] theorem State.wearWorst_frame (s : State) (m : Nat) (us : List Nat) (own : Nat → Nat) (retire : State → Nat → State) (h : ∀ s i, (retire s i).frame = s.frame) : (State.wearWorst s m us own retire).frame = s.frame := by
  unfold State.wearWorst
  dsimp only
  rw [each_frame _ _ _ h, State.wearSet_frame]

@[simp] theorem State.wearErr_frame (s : State) (u : Nat) : (State.wearErr s u).frame = s.frame := by
  unfold State.wearErr
  simp

@[simp] theorem State.wearEcc_frame (s : State) (a : Nat) : (State.wearEcc s a).frame = s.frame := by
  unfold State.wearEcc
  simp [apply_ite State.frame]

@[simp] theorem State.setTemps_frame (s : State) (ts : List Int) : (State.setTemps s ts).frame = s.frame := by
  unfold State.setTemps
  simp

@[simp] theorem State.wearEval_frame (s : State) (m : Nat) (v : Nat) (temps : List Int) : (State.wearEval s m v temps).frame = s.frame := by
  unfold State.wearEval
  (repeat' split) <;> simp

@[simp] theorem State.wearMismatch_frame (s : State) (p : Nat) : (State.wearMismatch s p).frame = s.frame := by
  unfold State.wearMismatch
  simp

@[simp] theorem State.wearStuck_frame (s : State) (i : Nat) : (State.wearStuck s i).frame = s.frame := by
  unfold State.wearStuck
  simp

@[simp] theorem State.wearDownJudge_frame (s : State) (l : Nat) : (State.wearDownJudge s l).frame = s.frame := by
  unfold State.wearDownJudge
  simp [apply_ite State.frame]

@[simp] theorem State.wearDown_frame (s : State) (l : Nat) : (State.wearDown s l).frame = s.frame := by
  unfold State.wearDown
  simp [apply_ite State.frame]

@[simp] theorem State.wearUp_frame (s : State) (l : Nat) : (State.wearUp s l).frame = s.frame := by
  unfold State.wearUp
  simp [apply_ite State.frame]

@[simp] theorem State.roleIgnore_frame (s : State) (n : Nat) (m : (Nat × Nat × CanRx) ⊕ EthFrame) : (State.roleIgnore s n m).frame = s.frame := by
  unfold State.roleIgnore
  simp

@[simp] theorem State.stateAfterHold_frame (s : State) (l : Nat) : (State.stateAfterHold s l).frame = s.frame := by
  unfold State.stateAfterHold
  (repeat' split) <;> simp

@[simp] theorem State.setHold_frame (s : State) (c : Nat) (b : Bool) : (State.setHold s c b).frame = s.frame := by
  unfold State.setHold
  simp [apply_ite State.frame]

@[simp] theorem State.edgeEligible_frame (s : State) (l : Nat) : (State.edgeEligible s l).frame = s.frame := by
  unfold State.edgeEligible
  simp

@[simp] theorem State.propUpdate_frame (s : State) (l : Nat) : (State.propUpdate s l).frame = s.frame := by
  unfold State.propUpdate
  simp [apply_ite State.frame]

@[simp] theorem State.sendFrame_frame (s : State) (l : Nat) (type : Nat) (payload : List Byte) : (State.sendFrame s l type payload).frame = s.frame := by
  unfold State.sendFrame
  simp

@[simp] theorem State.sendEpoch_frame (s : State) (l : Nat) (keepProp : Bool) : (State.sendEpoch s l keepProp).frame = s.frame := by
  unfold State.sendEpoch
  simp [apply_ite State.frame]

@[simp] theorem State.sendConfig_frame (s : State) (l : Nat) : (State.sendConfig s l).frame = s.frame := by
  unfold State.sendConfig
  simp

@[simp] theorem State.sendEdges_frame (s : State) (l : Nat) (es : List Edge) : (State.sendEdges s l es).frame = s.frame := by
  unfold State.sendEdges
  simp

@[simp] theorem State.sendStateFrame_frame (s : State) (l : Nat) (c : StateCmd) : (State.sendStateFrame s l c).frame = s.frame := by
  unfold State.sendStateFrame
  simp [apply_ite State.frame]

@[simp] theorem State.passEdges_frame (s : State) (l : Nat) : (State.passEdges s l).frame = s.frame := by
  unfold State.passEdges
  simp [apply_ite State.frame]

@[simp] theorem State.slotOpen_frame (s : State) (l : Nat) (slot : Nat) : (State.slotOpen s l slot).1.frame = s.frame := by
  unfold State.slotOpen
  (repeat' (split <;> try simp))

@[simp] theorem State.slotHeld_frame (s : State) (l : Nat) (slot : Nat) : (State.slotHeld s l slot).1.frame = s.frame := by
  unfold State.slotHeld
  dsimp only
  (repeat' split) <;> first | rfl | simp [apply_ite State.frame] | simp_all [apply_ite State.frame]

@[simp] theorem State.stadanSlot_frame (s : State) (l : Nat) : (State.stadanSlot s l).1.frame = s.frame := by
  unfold State.stadanSlot
  split
  · rfl
  extract_lets slot k x y
  have ey : y.frame = s.frame := by
    show (match x.linkLeg l with | some g => x.planLeg g | none => x).frame = s.frame
    split
    · exact (State.planLeg_frame ..).trans (State.setLink_frame ..)
    · exact State.setLink_frame ..
  clear_value y
  refine Eq.trans ?_ ey
  by_cases h1 : (!y.linkSends l) = true
  · rw [if_pos h1]; exact (State.setLink_frame ..).trans (State.passEdges_frame ..)
  · rw [if_neg h1]; (repeat' split) <;> simp

@[simp] theorem State.sendChanOff_frame (s : State) (l : Nat) (mask : Nat) (prof : Nat) : (State.sendChanOff s l mask prof).frame = s.frame := by
  unfold State.sendChanOff
  simp

@[simp] theorem State.upCapture_frame (s : State) (l : Nat) (at_ : Nat) (bs : List Byte) : (State.upCapture s l at_ bs).frame = s.frame := by
  unfold State.upCapture
  simp

@[simp] theorem State.upInvalid_frame (s : State) (l : Nat) : (State.upInvalid s l).frame = s.frame := by
  unfold State.upInvalid
  simp

@[simp] theorem State.upStatusRun_frame (s : State) (l : Nat) (bs : List Byte) : (State.upStatusRun s l bs).frame = s.frame := by
  unfold State.upStatusRun
  simp

@[simp] theorem State.setCan_frame (s : State) (k : Nat) (c : CanSt) : (State.setCan s k c).frame = s.frame := by
  unfold State.setCan
  simp

@[simp] theorem State.canIrqSet_frame (s : State) (k : Nat) (bit : Nat) : (State.canIrqSet s k bit).frame = s.frame := by
  unfold State.canIrqSet
  simp

@[simp] theorem State.canTscLoad_frame (s : State) (k : Nat) : (State.canTscLoad s k).frame = s.frame := by
  unfold State.canTscLoad
  simp

@[simp] theorem State.canEnd_frame (s : State) (k : Nat) (b : Nat) (result : Nat) : (State.canEnd s k b result).frame = s.frame := by
  unfold State.canEnd
  simp

@[simp] theorem State.canPend_frame (s : State) (k : Nat) (b : Nat) : (State.canPend s k b).frame = s.frame := by
  unfold State.canPend
  simp [apply_ite State.frame]

@[simp] theorem State.canForeign_frame (s : State) (k : Nat) : (State.canForeign s k).frame = s.frame := by
  unfold State.canForeign
  simp

@[simp] theorem State.canRequest_frame (s : State) (k : Nat) (b : Nat) : (State.canRequest s k b).frame = s.frame := by
  unfold State.canRequest
  simp [apply_ite State.frame]

@[simp] theorem State.canTxReq_frame (s : State) (k : Nat) (mask : Nat) : (State.canTxReq s k mask).frame = s.frame := by
  unfold State.canTxReq
  simp [apply_ite State.frame]

@[simp] theorem State.canAbortBuf_frame (s : State) (k : Nat) (b : Nat) : (State.canAbortBuf s k b).frame = s.frame := by
  unfold State.canAbortBuf
  dsimp only
  (repeat' split) <;> first | rfl | simp [apply_ite State.frame] | simp_all [apply_ite State.frame]

@[simp] theorem State.canTxAbort_frame (s : State) (k : Nat) (mask : Nat) : (State.canTxAbort s k mask).frame = s.frame := by
  unfold State.canTxAbort
  simp [apply_ite State.frame]

@[simp] theorem State.canWriteWord_frame (s : State) (k : Nat) (b : Nat) (i : Nat) (w : Word) : (State.canWriteWord s k b i w).frame = s.frame := by
  unfold State.canWriteWord
  simp [apply_ite State.frame]

@[simp] theorem State.canAttemptFail_frame (s : State) (k : Nat) (b : Nat) (count : Bool) : (State.canAttemptFail s k b count).frame = s.frame := by
  unfold State.canAttemptFail
  simp [apply_ite State.frame]

@[simp] theorem State.canArbitrate_frame (s : State) (k : Nat) (lost : Bool) : (State.canArbitrate s k lost).frame = s.frame := by
  unfold State.canArbitrate
  (repeat' split) <;> simp

@[simp] theorem State.canRestate_frame (s : State) (k : Nat) : (State.canRestate s k).frame = s.frame := by
  unfold State.canRestate
  simp [apply_ite State.frame]

@[simp] theorem State.canSuccess_frame (s : State) (k : Nat) (tdc : Nat) : (State.canSuccess s k tdc).frame = s.frame := by
  unfold State.canSuccess
  (repeat' (split <;> try simp [apply_ite State.frame]))

@[simp] theorem State.canError_frame (s : State) (k : Nat) (e : CanErr) : (State.canError s k e).frame = s.frame := by
  unfold State.canError
  (repeat' (split <;> try simp [apply_ite State.frame]))

@[simp] theorem State.canLeaveBusOff_frame (s : State) (k : Nat) : (State.canLeaveBusOff s k).frame = s.frame := by
  unfold State.canLeaveBusOff
  simp

@[simp] theorem State.canBoCount_frame (s : State) (k : Nat) : (State.canBoCount s k).frame = s.frame := by
  unfold State.canBoCount
  simp [apply_ite State.frame]

@[simp] theorem State.canBoRecover_frame (s : State) (k : Nat) : (State.canBoRecover s k).frame = s.frame := by
  unfold State.canBoRecover
  simp [apply_ite State.frame]

@[simp] theorem State.canWindow_frame (s : State) (base : Nat) (r : Option CanRx) : (State.canWindow s base r).frame = s.frame := by
  unfold State.canWindow
  (repeat' split) <;> simp

@[simp] theorem State.setRxa_frame (s : State) (k : Nat) (j : Nat) (q : List CanRx) : (State.setRxa s k j q).frame = s.frame := by
  unfold State.setRxa
  simp

@[simp] theorem State.setFifo_frame (s : State) (k : Nat) (q : List CanRx) : (State.setFifo s k q).frame = s.frame := by
  unfold State.setFifo
  simp

@[simp] theorem State.canPutA_frame (s : State) (k : Nat) (j : Nat) (r : CanRx) : (State.canPutA s k j r).frame = s.frame := by
  unfold State.canPutA
  simp

@[simp] theorem State.canTakeA_frame (s : State) (k : Nat) (j : Nat) (r : CanRx) : (State.canTakeA s k j r).frame = s.frame := by
  unfold State.canTakeA
  (repeat' split) <;> simp

@[simp] theorem State.canTakeB_frame (s : State) (k : Nat) (f : CanFrame) (r : CanRx) : (State.canTakeB s k f r).frame = s.frame := by
  unfold State.canTakeB
  (try simp)
  (repeat' (split <;> (try simp)))

@[simp] theorem State.canRxCount_frame (s : State) (k : Nat) : (State.canRxCount s k).frame = s.frame := by
  unfold State.canRxCount
  simp [apply_ite State.frame]

@[simp] theorem State.canStore_frame (s : State) (k : Nat) (stamp : Nat) (f : CanFrame) : (State.canStore s k stamp f).frame = s.frame := by
  unfold State.canStore
  (repeat' split) <;> simp

@[simp] theorem State.canPop_frame (s : State) (k : Nat) : (State.canPop s k).frame = s.frame := by
  unfold State.canPop
  simp [apply_ite State.frame]

@[simp] theorem State.canRelease_frame (s : State) (k : Nat) (mask : Nat) : (State.canRelease s k mask).frame = s.frame := by
  unfold State.canRelease
  simp [apply_ite State.frame]

@[simp] theorem State.canCapture_frame (s : State) (k : Nat) : (State.canCapture s k).frame = s.frame := by
  unfold State.canCapture
  simp

@[simp] theorem State.canSleepReq_frame (s : State) (k : Nat) : (State.canSleepReq s k).frame = s.frame := by
  unfold State.canSleepReq
  simp [apply_ite State.frame]

@[simp] theorem State.canSleepEntry_frame (s : State) (k : Nat) : (State.canSleepEntry s k).frame = s.frame := by
  unfold State.canSleepEntry
  simp [apply_ite State.frame]

@[simp] theorem State.canWakeUp_frame (s : State) (k : Nat) (src : Nat) (id : Nat) : (State.canWakeUp s k src id).frame = s.frame := by
  unfold State.canWakeUp
  simp [apply_ite State.frame]

@[simp] theorem State.pmuMark_frame (s : State) (p : Nat) (c : Nat) (k : Nat) : (State.pmuMark s p c k).frame = s.frame := by
  unfold State.pmuMark
  simp

@[simp] theorem State.pmuHold_frame (s : State) (p : Nat) (c : Nat) (k : Nat) : (State.pmuHold s p c k).frame = s.frame := by
  unfold State.pmuHold
  simp [apply_ite State.frame]

@[simp] theorem State.pmuHoldPair_frame (s : State) (p : Nat) (k : Nat) : (State.pmuHoldPair s p k).frame = s.frame := by
  unfold State.pmuHoldPair
  simp

@[simp] theorem State.pmuHoldAll_frame (s : State) : (State.pmuHoldAll s).frame = s.frame := by
  unfold State.pmuHoldAll
  simp

@[simp] theorem State.setRunning_frame (s : State) (p : Nat) (b : Bool) : (State.setRunning s p b).frame = s.frame := by
  unfold State.setRunning
  simp

@[simp] theorem State.pmuRead_frame (s : State) (p : Nat) (c : Nat) : (State.pmuRead s p c).1.frame = s.frame := by
  unfold State.pmuRead
  (repeat' (split <;> try simp))

@[simp] theorem State.pmuWrite_frame (s : State) (p : Nat) (c : Nat) (w : Word) : (State.pmuWrite s p c w).frame = s.frame := by
  unfold State.pmuWrite
  simp

@[simp] theorem State.pmuFlag_frame (s : State) (p : Nat) (c : Nat) : (State.pmuFlag s p c).frame = s.frame := by
  unfold State.pmuFlag
  simp [apply_ite State.frame]

@[simp] theorem State.pmuOverflow_frame (s : State) (p : Nat) (c : Nat) : (State.pmuOverflow s p c).frame = s.frame := by
  unfold State.pmuOverflow
  simp [apply_ite State.frame]

@[simp] theorem State.pmuFreezeWrite_frame (s : State) (w : Word) : (State.pmuFreezeWrite s w).frame = s.frame := by
  unfold State.pmuFreezeWrite
  simp [apply_ite State.frame]

@[simp] theorem State.setChain_frame (s : State) (i : Nat) (c : ChainSt) : (State.setChain s i c).frame = s.frame := by
  unfold State.setChain
  simp

@[simp] theorem State.setDc_frame (s : State) (n : Nat) (d : DcSt) : (State.setDc s n d).frame = s.frame := by
  unfold State.setDc
  simp

@[simp] theorem State.dcBit_frame (s : State) (i : Nat) : (State.dcBit s i).frame = s.frame := by
  unfold State.dcBit
  apply each_frame
  intro s n
  split
  · simp only []
    split <;> simp
  · rfl

@[simp] theorem State.feedBit_frame (s : State) (i : Nat) (raw : Bool) : (State.feedBit s i raw).frame = s.frame := by
  unfold State.feedBit
  simp [apply_ite State.frame]

@[simp] theorem State.chainRecover_frame (s : State) (i : Nat) (x : Nat) : (State.chainRecover s i x).frame = s.frame := by
  unfold State.chainRecover
  simp

@[simp] theorem State.setVec_frame (s : State) (u : Nat) (v : VecSt) : (State.setVec s u v).frame = s.frame := by
  unfold State.setVec
  simp

@[simp] theorem State.setKept_frame (s : State) (n : Nat) (v : KeepSt) : (State.setKept s n v).frame = s.frame := by
  unfold State.setKept
  simp

@[simp] theorem State.keepField_frame (s : State) (n : Nat) (a : Nat) (hi : Nat) (lo : Nat) (v : Nat) : (State.keepField s n a hi lo v).frame = s.frame := by
  unfold State.keepField
  simp

@[simp] theorem State.keepRaise_frame (s : State) (n : Nat) (a : Nat) (i : Nat) : (State.keepRaise s n a i).frame = s.frame := by
  unfold State.keepRaise
  simp

@[simp] theorem State.storeKept_frame (s : State) (n : Nat) (a : Nat) (w : Word) : (State.storeKept s n a w).frame = s.frame := by
  unfold State.storeKept
  simp

@[simp] theorem State.vecEnter_frame (s : State) (u : Nat) (st : Nat) : (State.vecEnter s u st).frame = s.frame := by
  unfold State.vecEnter
  simp

@[simp] theorem State.vecBoth_frame (s : State) (u : Nat) (f : VecSt → VecSt) : (State.vecBoth s u f).frame = s.frame := by
  unfold State.vecBoth
  simp

@[simp] theorem State.setVecState_frame (s : State) (u : Nat) (st : Nat) : (State.setVecState s u st).frame = s.frame := by
  unfold State.setVecState
  simp

@[simp] theorem State.vecBlock_frame (s : State) (n : Nat) : (State.vecBlock s n).frame = s.frame := by
  unfold State.vecBlock
  simp [apply_ite State.frame]

@[simp] theorem State.vecAsc_frame (s : State) (n : Nat) : (State.vecAsc s n).frame = s.frame := by
  unfold State.vecAsc
  simp [apply_ite State.frame]

@[simp] theorem State.setGfe_frame (s : State) (n : Nat) (v : GfeSt) : (State.setGfe s n v).frame = s.frame := by
  unfold State.setGfe
  simp

@[simp] theorem State.gfeBoth_frame (s : State) (n : Nat) (f : GfeSt → GfeSt) : (State.gfeBoth s n f).frame = s.frame := by
  unfold State.gfeBoth
  simp

@[simp] theorem State.gfeEnter_frame (s : State) (n : Nat) (st : Nat) : (State.gfeEnter s n st).frame = s.frame := by
  unfold State.gfeEnter
  simp

@[simp] theorem State.gfeOff_frame (s : State) (n : Nat) : (State.gfeOff s n).frame = s.frame := by
  unfold State.gfeOff
  simp [apply_ite State.frame]

@[simp] theorem State.gfeForce_frame (s : State) (n : Nat) : (State.gfeForce s n).frame = s.frame := by
  unfold State.gfeForce
  simp [apply_ite State.frame]

@[simp] theorem State.reachBlock_frame (s : State) (n : Nat) (mask : Nat) : (State.reachBlock s n mask).frame = s.frame := by
  unfold State.reachBlock
  simp [apply_ite State.frame]

@[simp] theorem State.setSrc_frame (s : State) (x : Nat) (v : SrcSt) : (State.setSrc s x v).frame = s.frame := by
  unfold State.setSrc
  simp

@[simp] theorem State.chopMark_frame (s : State) (n : Nat) : (State.chopMark s n).frame = s.frame := by
  unfold State.chopMark
  simp [apply_ite State.frame]

@[simp] theorem State.applyThread_frame (s : State) (n : Nat) : (State.applyThread s n).frame = s.frame := by
  unfold State.applyThread
  simp

@[simp] theorem State.applyAll_frame (s : State) : (State.applyAll s).frame = s.frame := by
  unfold State.applyAll
  simp [apply_ite State.frame]

@[simp] theorem State.noteFirst_frame (s : State) (code : Nat) : (State.noteFirst s code).frame = s.frame := by
  unfold State.noteFirst
  simp [apply_ite State.frame]

@[simp] theorem State.pmuCause_frame (s : State) (k : Nat) : (State.pmuCause s k).frame = s.frame := by
  unfold State.pmuCause
  simp [apply_ite State.frame]

@[simp] theorem State.noteDc_frame (s : State) (n : Nat) (k : Nat) : (State.noteDc s n k).frame = s.frame := by
  unfold State.noteDc
  simp

@[simp] theorem State.chopOn_frame (s : State) (n : Nat) : (State.chopOn s n).frame = s.frame := by
  unfold State.chopOn
  simp

@[simp] theorem State.chopOff_frame (s : State) (n : Nat) : (State.chopOff s n).frame = s.frame := by
  unfold State.chopOff
  simp [apply_ite State.frame]

@[simp] theorem State.chopDropEnd_frame (s : State) (n : Nat) : (State.chopDropEnd s n).frame = s.frame := by
  unfold State.chopDropEnd
  simp

@[simp] theorem State.pitchQueue_frame (s : State) (n : Nat) (x : Nat) : (State.pitchQueue s n x).frame = s.frame := by
  unfold State.pitchQueue
  simp [apply_ite State.frame]

@[simp] theorem State.setClamp_frame (s : State) (n : Nat) (b : Bool) : (State.setClamp s n b).frame = s.frame := by
  unfold State.setClamp
  simp

@[simp] theorem State.dischVecEnd_frame (s : State) (n : Nat) : (State.dischVecEnd s n).frame = s.frame := by
  unfold State.dischVecEnd
  simp [apply_ite State.frame]

@[simp] theorem State.dischStop_frame (s : State) (n : Nat) : (State.dischStop s n).frame = s.frame := by
  unfold State.dischStop
  simp [apply_ite State.frame]

@[simp] theorem State.dischAbort_frame (s : State) (n : Nat) : (State.dischAbort s n).frame = s.frame := by
  unfold State.dischAbort
  (repeat' split) <;> simp

@[simp] theorem State.dischDone_frame (s : State) (n : Nat) : (State.dischDone s n).frame = s.frame := by
  unfold State.dischDone
  (repeat' split) <;> simp

@[simp] theorem State.dischEnter_frame (s : State) (n : Nat) (k : Nat) : (State.dischEnter s n k).frame = s.frame := by
  unfold State.dischEnter
  (repeat' split) <;> simp

@[simp] theorem State.dischFail_frame (s : State) (n : Nat) (k : Nat) : (State.dischFail s n k).frame = s.frame := by
  unfold State.dischFail
  simp [apply_ite State.frame]

@[simp] theorem State.dischStart_frame (s : State) (n : Nat) (by_ : DischBy) : (State.dischStart s n by_).frame = s.frame := by
  unfold State.dischStart
  (repeat' (split <;> try simp [apply_ite State.frame]))

@[simp] theorem State.dischT1_frame (s : State) (n : Nat) : (State.dischT1 s n).frame = s.frame := by
  unfold State.dischT1
  simp [apply_ite State.frame]

@[simp] theorem State.dischT2_frame (s : State) (n : Nat) : (State.dischT2 s n).frame = s.frame := by
  unfold State.dischT2
  simp [apply_ite State.frame]

@[simp] theorem State.chopFault_frame (s : State) (n : Nat) : (State.chopFault s n).frame = s.frame := by
  unfold State.chopFault
  simp [apply_ite State.frame]

@[simp] theorem State.chopClash_frame (s : State) (n : Nat) : (State.chopClash s n).frame = s.frame := by
  unfold State.chopClash
  simp [apply_ite State.frame]

@[simp] theorem State.chopVerify_frame (s : State) (n : Nat) : (State.chopVerify s n).frame = s.frame := by
  unfold State.chopVerify
  (try simp)
  (repeat' (split <;> (try simp)))

@[simp] theorem State.pitchRep_frame (s : State) (n : Nat) : (State.pitchRep s n).frame = s.frame := by
  unfold State.pitchRep
  (repeat' split) <;> simp [apply_ite State.frame]

@[simp] theorem State.dcSense_frame (s : State) (n : Nat) : (State.dcSense s n).frame = s.frame := by
  unfold State.dcSense
  simp [apply_ite State.frame]

@[simp] theorem State.dcJudge_frame (s : State) (n : Nat) (m : Nat) : (State.dcJudge s n m).frame = s.frame := by
  unfold State.dcJudge
  simp [apply_ite State.frame]

@[simp] theorem State.dcSoon_frame (s : State) (n : Nat) (x : Nat) : (State.dcSoon s n x).frame = s.frame := by
  unfold State.dcSoon
  simp [apply_ite State.frame]

@[simp] theorem State.protStatusWrite_frame (s : State) (n : Nat) (w : Word) : (State.protStatusWrite s n w).frame = s.frame := by
  unfold State.protStatusWrite
  simp [apply_ite State.frame]

@[simp] theorem State.srcReach_frame (s : State) (x : Nat) (kind : Nat) : (State.srcReach s x kind).frame = s.frame := by
  unfold State.srcReach
  simp [apply_ite State.frame]

@[simp] theorem State.fireSource_frame (s : State) (x : Nat) (evOnly : Bool) : (State.fireSource s x evOnly).frame = s.frame := by
  unfold State.fireSource
  simp [apply_ite State.frame]

@[simp] theorem State.srcRelease_frame (s : State) (x : Nat) : (State.srcRelease s x).frame = s.frame := by
  unfold State.srcRelease
  simp [apply_ite State.frame]

@[simp] theorem State.clearSource_frame (s : State) (x : Nat) : (State.clearSource s x).frame = s.frame := by
  unfold State.clearSource
  simp [apply_ite State.frame]

@[simp] theorem State.srcLevel_frame (s : State) (x : Nat) (on : Bool) (evOnly : Bool) : (State.srcLevel s x on evOnly).frame = s.frame := by
  unfold State.srcLevel
  simp [apply_ite State.frame]

@[simp] theorem State.srcBack_frame (s : State) (x : Nat) (k : Nat) : (State.srcBack s x k).frame = s.frame := by
  unfold State.srcBack
  simp [apply_ite State.frame]

@[simp] theorem State.srcSoon_frame (s : State) (k : Nat) (x : Nat) (on : Bool) : (State.srcSoon s k x on).frame = s.frame := by
  unfold State.srcSoon
  simp

@[simp] theorem State.timeoutSet_frame (s : State) (n : Nat) : (State.timeoutSet s n).frame = s.frame := by
  unfold State.timeoutSet
  simp

@[simp] theorem State.latchClear_frame (s : State) (k : Nat) (w : Word) : (State.latchClear s k w).frame = s.frame := by
  unfold State.latchClear
  simp [apply_ite State.frame]

@[simp] theorem State.desatFault_frame (s : State) (l : Nat) (c : Nat) (at_ : Int) : (State.desatFault s l c at_).frame = s.frame := by
  unfold State.desatFault
  (try simp)
  (repeat' (split <;> (try simp)))

@[simp] theorem State.desatChan_frame (s : State) (l : Nat) (c : Nat) (rep : Bool) (d : Int) (ts : Int) : (State.desatChan s l c rep d ts).frame = s.frame := by
  unfold State.desatChan
  simp [apply_ite State.frame]

@[simp] theorem State.desatFrame_frame (s : State) (l : Nat) (at_ : Nat) (bs : List Byte) : (State.desatFrame s l at_ bs).frame = s.frame := by
  unfold State.desatFrame
  simp

@[simp] theorem State.linkSources_frame (s : State) (l : Nat) : (State.linkSources s l).frame = s.frame := by
  unfold State.linkSources
  simp

@[simp] theorem State.stadanStep_frame (s : State) (l : Nat) : (State.stadanStep s l).frame = s.frame := by
  unfold State.stadanStep
  simp [apply_ite State.frame]

@[simp] theorem State.linkDown_frame (s : State) (l : Nat) : (State.linkDown s l).frame = s.frame := by
  unfold State.linkDown
  simp [apply_ite State.frame]

@[simp] theorem State.upFrame_frame (s : State) (l : Nat) (at_ : Nat) (lineOk : Bool) (bs : List Byte) : (State.upFrame s l at_ lineOk bs).frame = s.frame := by
  unfold State.upFrame
  simp [apply_ite State.frame]

@[simp] theorem State.windowLevel_frame (s : State) (w : Nat) (on : Bool) : (State.windowLevel s w on).frame = s.frame := by
  unfold State.windowLevel
  simp [apply_ite State.frame]

@[simp] theorem State.tripInput_frame (s : State) (t : Nat) (high : Bool) : (State.tripInput s t high).frame = s.frame := by
  unfold State.tripInput
  simp [apply_ite State.frame]

@[simp] theorem State.auxSto_frame (s : State) : (State.auxSto s).frame = s.frame := by
  unfold State.auxSto
  simp [apply_ite State.frame]

@[simp] theorem State.ownersOff_frame (s : State) : (State.ownersOff s).frame = s.frame := by
  unfold State.ownersOff
  simp [apply_ite State.frame]

@[simp] theorem State.hold_frame (s : State) (c : Nat) (b : Bool) : (State.hold s c b).frame = s.frame := by
  unfold State.hold
  simp

@[simp] theorem State.internalSto_frame (s : State) (cause : Nat) : (State.internalSto s cause).frame = s.frame := by
  unfold State.internalSto
  simp [apply_ite State.frame]

@[simp] theorem State.stoEval_frame (s : State) : (State.stoEval s).frame = s.frame := by
  unfold State.stoEval
  simp [apply_ite State.frame]

@[simp] theorem State.stoLine_frame (s : State) (i : Nat) (high : Bool) : (State.stoLine s i high).frame = s.frame := by
  unfold State.stoLine
  simp [apply_ite State.frame]

@[simp] theorem State.stoInput_frame (s : State) (a : Bool) (b : Bool) : (State.stoInput s a b).frame = s.frame := by
  unfold State.stoInput
  simp [apply_ite State.frame]

@[simp] theorem State.stoDiscrep_frame (s : State) : (State.stoDiscrep s).frame = s.frame := by
  unfold State.stoDiscrep
  (repeat' split) <;> simp

@[simp] theorem State.setSmon_frame (s : State) (n : Nat) (v : SmonSt) : (State.setSmon s n v).frame = s.frame := by
  unfold State.setSmon
  simp

@[simp] theorem State.smonPresent_frame (s : State) (n : Nat) (cause : Nat) : (State.smonPresent s n cause).frame = s.frame := by
  unfold State.smonPresent
  simp

@[simp] theorem State.smonAbsent_frame (s : State) (n : Nat) (cause : Nat) : (State.smonAbsent s n cause).frame = s.frame := by
  unfold State.smonAbsent
  simp [apply_ite State.frame]

@[simp] theorem State.smonUnrelease_frame (s : State) (n : Nat) : (State.smonUnrelease s n).frame = s.frame := by
  unfold State.smonUnrelease
  (repeat' split) <;> simp

@[simp] theorem State.smonForce_frame (s : State) (n : Nat) (state : Nat) (cause : Nat) : (State.smonForce s n state cause).frame = s.frame := by
  unfold State.smonForce
  (repeat' (split <;> try simp [apply_ite State.frame]))

@[simp] theorem State.tmFail_frame (s : State) (n : Nat) (k : Nat) : (State.tmFail s n k).frame = s.frame := by
  unfold State.tmFail
  simp

@[simp] theorem State.smonEval_frame (s : State) (n : Nat) (disch : Bool) : (State.smonEval s n disch).frame = s.frame := by
  unfold State.smonEval
  simp [apply_ite State.frame]

@[simp] theorem State.tm6Stall_frame (s : State) (n : Nat) : (State.tm6Stall s n).frame = s.frame := by
  unfold State.tm6Stall
  simp [apply_ite State.frame]

@[simp] theorem State.smonRel_frame (s : State) (who : Option Initiator) (w : Word) : (State.smonRel s who w).frame = s.frame := by
  unfold State.smonRel
  simp [apply_ite State.frame]

@[simp] theorem State.setWd_frame (s : State) (p : Nat) (v : WdSt) : (State.setWd s p v).frame = s.frame := by
  unfold State.setWd
  simp

@[simp] theorem State.wdFail_frame (s : State) (p : Nat) (cause : Nat) : (State.wdFail s p cause).frame = s.frame := by
  unfold State.wdFail
  simp [apply_ite State.frame]

@[simp] theorem State.wdCured_frame (s : State) (p : Nat) (cause : Nat) : (State.wdCured s p cause).frame = s.frame := by
  unfold State.wdCured
  simp

@[simp] theorem State.wdDraw_frame (s : State) (p : Nat) : (State.wdDraw s p).frame = s.frame := by
  unfold State.wdDraw
  simp

@[simp] theorem State.wdService_frame (s : State) (who : Option Initiator) (p : Nat) (w : Word) : (State.wdService s who p w).frame = s.frame := by
  unfold State.wdService
  simp [apply_ite State.frame]

@[simp] theorem State.wdTimeout_frame (s : State) (p : Nat) : (State.wdTimeout s p).frame = s.frame := by
  unfold State.wdTimeout
  simp [apply_ite State.frame]

@[simp] theorem State.clockFault_frame (s : State) : (State.clockFault s).frame = s.frame := by
  unfold State.clockFault
  simp [apply_ite State.frame]

@[simp] theorem State.refLoss_frame (s : State) : (State.refLoss s).frame = s.frame := by
  unfold State.refLoss
  simp

@[simp] theorem State.pllUnlock_frame (s : State) : (State.pllUnlock s).frame = s.frame := by
  unfold State.pllUnlock
  simp [apply_ite State.frame]

@[simp] theorem State.clockWindow_frame (s : State) (count : Nat) : (State.clockWindow s count).frame = s.frame := by
  unfold State.clockWindow
  simp [apply_ite State.frame]

@[simp] theorem State.safeOscGrace_frame (s : State) : (State.safeOscGrace s).frame = s.frame := by
  unfold State.safeOscGrace
  simp [apply_ite State.frame]

@[simp] theorem State.subStart_frame (s : State) (j : Nat) : (State.subStart s j).frame = s.frame := by
  unfold State.subStart
  simp [apply_ite State.frame]

@[simp] theorem State.subAuto_frame (s : State) (i : Nat) : (State.subAuto s i).frame = s.frame := by
  unfold State.subAuto
  (repeat' split) <;> simp

@[simp] theorem State.subForce_frame (s : State) (j : Nat) : (State.subForce s j).frame = s.frame := by
  unfold State.subForce
  simp

@[simp] theorem State.setPair_frame (s : State) (p : Nat) (v : PairSt) : (State.setPair s p v).frame = s.frame := by
  unfold State.setPair
  simp

@[simp] theorem State.plausible_frame (s : State) (n : Nat) : (State.plausible s n).frame = s.frame := by
  unfold State.plausible
  simp

@[simp] theorem State.pairStore_frame (s : State) (p : Nat) (a : SigVal) (b : SigVal) (o : PairOut) : (State.pairStore s p a b o).frame = s.frame := by
  unfold State.pairStore
  (repeat' (split <;> try simp [apply_ite State.frame]))

@[simp] theorem State.commonEval_frame (s : State) (p : Nat) : (State.commonEval s p).1.frame = s.frame := by
  unfold State.commonEval
  simp

@[simp] theorem State.sigWriteGo_frame (n : Nat) (s : State) (i : Nat) (v : Word) (q : Qual) : (State.sigWriteGo n s i v q).frame = s.frame := by
  induction n generalizing s i v q with
  | zero => simp [State.sigWriteGo]
  | succ n ih =>
    unfold State.sigWriteGo
    (repeat' split) <;> simp [ih]
    (repeat' split) <;> simp [ih]

@[simp] theorem State.sigWrite_frame (s : State) (i : Nat) (v : Word) (q : Qual) : (State.sigWrite s i v q).frame = s.frame := by
  unfold State.sigWrite; simp

@[simp] theorem State.commonSwap_frame (s : State) (i : Nat) : (State.commonSwap s i).frame = s.frame := by
  unfold State.commonSwap
  (repeat' split) <;> simp

@[simp] theorem State.sigOut_frame (s : State) (i : Nat) (x : Int) (q : Qual) : (State.sigOut s i x q).frame = s.frame := by
  unfold State.sigOut
  simp

@[simp] theorem State.pairEval_frame (s : State) (n : Nat) (p : Nat) : (State.pairEval s n p).frame = s.frame := by
  unfold State.pairEval
  simp

@[simp] theorem State.pairRestore_frame (s : State) (p : Nat) (b : Bool) : (State.pairRestore s p b).frame = s.frame := by
  unfold State.pairRestore
  simp [apply_ite State.frame]

@[simp] theorem State.pairStatusWrite_frame (s : State) (p : Nat) (w : Word) : (State.pairStatusWrite s p w).frame = s.frame := by
  unfold State.pairStatusWrite
  simp [apply_ite State.frame]

@[simp] theorem State.setCtx_frame (s : State) (c : Nat) (v : CtxSt) : (State.setCtx s c v).frame = s.frame := by
  unfold State.setCtx
  simp

@[simp] theorem State.ctxIdle_frame (s : State) (n : Nat) (p : CtxPar) (c : Nat) : (State.ctxIdle s n p c).frame = s.frame := by
  unfold State.ctxIdle
  simp [apply_ite State.frame]

@[simp] theorem State.setCtxBad_frame (s : State) (a : Nat) (on : Bool) : (State.setCtxBad s a on).frame = s.frame := by
  unfold State.setCtxBad
  simp

@[simp] theorem State.ceOffer_frame (s : State) (c : Nat) : (State.ceOffer s c).frame = s.frame := by
  unfold State.ceOffer
  simp [apply_ite State.frame]

@[simp] theorem State.ceErrUnc_frame (s : State) (c : Nat) (active : Bool) : (State.ceErrUnc s c active).frame = s.frame := by
  unfold State.ceErrUnc
  simp [apply_ite State.frame]

@[simp] theorem State.ctxAgain_frame (s : State) (p : CtxPar) (ld : Nat) (q : Qual) : (State.ctxAgain s p ld q).frame = s.frame := by
  unfold State.ctxAgain
  simp

@[simp] theorem State.ctxActive_frame (s : State) (n : Nat) (p : CtxPar) (a : Nat) (ld : Nat) (hand : Bool) : (State.ctxActive s n p a ld hand).frame = s.frame := by
  unfold State.ctxActive
  simp [apply_ite State.frame]

@[simp] theorem State.ctxSet_frame (s : State) (n : Nat) (b : Nat) (ms : List Nat) : (State.ctxSet s n b ms).frame = s.frame := by
  unfold State.ctxSet
  (repeat' (split <;> try simp [apply_ite State.frame]))

@[simp] theorem State.groupSlot_frame (s : State) (n : Nat) (g : Nat) (j : Nat) : (State.groupSlot s n g j).frame = s.frame := by
  unfold State.groupSlot
  simp

@[simp] theorem State.groupEval_frame (s : State) (n : Nat) (g : Nat) (x : Nat) : (State.groupEval s n g x).frame = s.frame := by
  unfold State.groupEval
  simp [apply_ite State.frame]

@[simp] theorem State.groupErrs_frame (s : State) (n : Nat) (corr : Nat) (bad : List (Nat × Option Nat)) : (State.groupErrs s n corr bad).frame = s.frame := by
  unfold State.groupErrs
  simp

@[simp] theorem State.ceStart_frame (s : State) (n : Nat) : (State.ceStart s n).frame = s.frame := by
  unfold State.ceStart; apply foldl_frame; intro s c; simp

@[simp] theorem State.cePublish_frame (s : State) (n : Nat) : (State.cePublish s n).frame = s.frame := by
  unfold State.cePublish
  simp [apply_ite State.frame]

@[simp] theorem State.ceRollback_frame (s : State) (n : Nat) : (State.ceRollback s n).frame = s.frame := by
  unfold State.ceRollback
  simp

@[simp] theorem State.ceStatusWrite_frame (s : State) (c : Nat) (w : Word) : (State.ceStatusWrite s c w).frame = s.frame := by
  unfold State.ceStatusWrite
  simp

@[simp] theorem State.ceParamWrite_frame (s : State) (b : Nat) (c : Nat) (k : Nat) (w : Word) : (State.ceParamWrite s b c k w).frame = s.frame := by
  unfold State.ceParamWrite
  (repeat' split) <;> simp [apply_ite State.frame]

@[simp] theorem State.ceSwapReq_frame (s : State) (n : Nat) : (State.ceSwapReq s n).frame = s.frame := by
  unfold State.ceSwapReq
  (repeat' (split <;> try simp))

@[simp] theorem State.ceSwap_frame (s : State) (n : Nat) : (State.ceSwap s n).frame = s.frame := by
  unfold State.ceSwap
  simp [apply_ite State.frame]

@[simp] theorem State.ceTake_frame (s : State) (n : Nat) (g : Nat) (x : Nat) : (State.ceTake s n g x).frame = s.frame := by
  unfold State.ceTake
  simp

@[simp] theorem State.ceAbort_frame (s : State) (n : Nat) : (State.ceAbort s n).frame = s.frame := by
  unfold State.ceAbort
  simp

@[simp] theorem State.coefErrors_frame (s : State) (w n corr : Nat) (unc : List Nat) : (State.coefErrors s w n corr unc).frame = s.frame := by
  unfold State.coefErrors
  extract_lets x known
  have e : x.frame = s.frame := State.countUp_frame ..
  clear_value x
  split
  · exact e
  · exact ((mk_frame ..).trans (frame_fold _)).trans ((State.raiseCapture_frame ..).trans e)

@[simp] theorem State.macUse_frame (s : State) (n : Nat) : (State.macUse s n).frame = s.frame := by
  unfold State.macUse
  simp

@[simp] theorem State.eccMark_frame (s : State) (i : Nat) (b : Bool) : (State.eccMark s i b).frame = s.frame := by
  unfold State.eccMark
  simp [apply_ite State.frame]

@[simp] theorem State.firOutput_frame (s : State) (i : Nat) (corr : Nat) (unc : List Nat) : (State.firOutput s i corr unc).frame = s.frame := by
  unfold State.firOutput
  (repeat' (split <;> try simp [apply_ite State.frame]))

@[simp] theorem State.rsOutput_frame (s : State) (i : Nat) (corr : Nat) (unc : List Nat) : (State.rsOutput s i corr unc).frame = s.frame := by
  unfold State.rsOutput
  (repeat' (split <;> try simp))

@[simp] theorem State.writeSample_frame (s : State) (i : Nat) (v : Int) (ts : Int) (q : Qual) : (State.writeSample s i v ts q).frame = s.frame := by
  unfold State.writeSample
  simp

@[simp] theorem State.releaseOut_frame (s : State) (i : Nat) (inst : Int) (v : Int) (q : Qual) (clean : Bool) : (State.releaseOut s i inst v q clean).frame = s.frame := by
  unfold State.releaseOut
  (try simp [apply_ite State.frame])
  (repeat' (split <;> try simp [apply_ite State.frame]))
  all_goals (try rfl)

@[simp] theorem State.chainRelease_frame (s : State) (i : Nat) : (State.chainRelease s i).frame = s.frame := by
  unfold State.chainRelease
  (try simp)
  (repeat' (split <;> (try simp)))

@[simp] theorem State.detWrite_frame (s : State) (i : Nat) (d : DetSt) : (State.detWrite s i d).frame = s.frame := by
  unfold State.detWrite
  (repeat' (split <;> try simp [apply_ite State.frame]))

@[simp] theorem State.detClose_frame (s : State) (i : Nat) : (State.detClose s i).frame = s.frame := by
  unfold State.detClose
  dsimp only
  (repeat' split) <;> first | rfl | simp [apply_ite State.frame] | simp_all [apply_ite State.frame]

@[simp] theorem State.detTake_frame (s : State) (i : Nat) : (State.detTake s i).frame = s.frame := by
  unfold State.detTake
  (try simp [apply_ite State.frame])
  (repeat' (split <;> try simp [apply_ite State.frame]))
  all_goals (try rfl)

@[simp] theorem State.dcChainBit_frame (s : State) (i : Nat) (x : Nat) : (State.dcChainBit s i x).frame = s.frame := by
  unfold State.dcChainBit
  simp [apply_ite State.frame]

@[simp] theorem State.sigMark_frame (s : State) (i : Nat) (m : Qual) : (State.sigMark s i m).frame = s.frame := by
  unfold State.sigMark
  simp [apply_ite State.frame]

@[simp] theorem State.relMark_frame (s : State) (i : Nat) : (State.relMark s i).frame = s.frame := by
  unfold State.relMark
  dsimp only
  (repeat' split) <;> first | rfl | simp [apply_ite State.frame] | simp_all [apply_ite State.frame]

@[simp] theorem State.stuckJudge_frame (s : State) (i : Nat) (x : Nat) : (State.stuckJudge s i x).frame = s.frame := by
  unfold State.stuckJudge
  simp [apply_ite State.frame]

@[simp] theorem State.pfJudge_frame (s : State) (i : Nat) (x : Nat) (trip : Bool) : (State.pfJudge s i x trip).frame = s.frame := by
  unfold State.pfJudge
  simp [apply_ite State.frame]

@[simp] theorem State.bitIn_frame (s : State) (i : Nat) (raw : Bool) : (State.bitIn s i raw).frame = s.frame := by
  unfold State.bitIn
  simp

@[simp] theorem State.closeChain_frame (s : State) (n : Nat) (i : Nat) (w : Nat) (ts : Int) : (State.closeChain s n i w ts).frame = s.frame := by
  unfold State.closeChain
  (repeat' split) <;> simp

@[simp] theorem State.filterClose_frame (s : State) (n : Nat) : (State.filterClose s n).1.frame = s.frame := by
  unfold State.filterClose
  simp [apply_ite State.frame]

@[simp] theorem State.vecOut_frame (s : State) (sig : Nat) (x : Sv) (q : Qual) : (State.vecOut s sig x q).frame = s.frame := by
  unfold State.vecOut
  simp

@[simp] theorem State.setPos_frame (s : State) (k : Nat) (v : PosSt) : (State.setPos s k v).frame = s.frame := by
  unfold State.setPos
  simp

@[simp] theorem State.encEdge_frame (s : State) (k : Nat) (a : Bool) (b : Bool) : (State.encEdge s k a b).frame = s.frame := by
  unfold State.encEdge
  (repeat' (split <;> try simp [apply_ite State.frame]))

@[simp] theorem State.encZ_frame (s : State) (k : Nat) : (State.encZ s k).frame = s.frame := by
  unfold State.encZ
  simp [apply_ite State.frame]

@[simp] theorem State.spdTimeout_frame (s : State) (k : Nat) : (State.spdTimeout s k).frame = s.frame := by
  unfold State.spdTimeout
  (try simp)
  (repeat' (split <;> (try simp)))

@[simp] theorem State.ssiFrame_frame (s : State) (k : Nat) (raw : Nat) (lowBefore : Bool) (noReturn : Bool) (errBit : Bool) : (State.ssiFrame s k raw lowBefore noReturn errBit).frame = s.frame := by
  unfold State.ssiFrame
  simp [apply_ite State.frame]

@[simp] theorem State.posLatch_frame (s : State) (n : Nat) (k : Nat) : (State.posLatch s n k).frame = s.frame := by
  unfold State.posLatch
  (repeat' split) <;> simp

@[simp] theorem State.obsEval_frame (s : State) (u : Nat) : (State.obsEval s u).frame = s.frame := by
  unfold State.obsEval
  simp

@[simp] theorem State.angLost_frame (s : State) (u : Nat) (lost : Bool) : (State.angLost s u lost).frame = s.frame := by
  unfold State.angLost
  simp [apply_ite State.frame]

@[simp] theorem State.angEval_frame (s : State) (u : Nat) : (State.angEval s u).frame = s.frame := by
  unfold State.angEval
  (try simp)
  (repeat' (split <;> (try simp)))

@[simp] theorem State.goReverse_frame (s : State) (u : Nat) : (State.goReverse s u).frame = s.frame := by
  unfold State.goReverse
  simp

@[simp] theorem State.observeEnd_frame (s : State) (u : Nat) (locked : Bool) (w : Int) : (State.observeEnd s u locked w).frame = s.frame := by
  unfold State.observeEnd
  simp [apply_ite State.frame]

@[simp] theorem State.probeEnd_frame (s : State) (u : Nat) : (State.probeEnd s u).frame = s.frame := by
  unfold State.probeEnd
  simp [apply_ite State.frame]

@[simp] theorem State.probeEval_frame (s : State) (u : Nat) : (State.probeEval s u).frame = s.frame := by
  unfold State.probeEval
  simp [apply_ite State.frame]

@[simp] theorem State.catchEval_frame (s : State) (u : Nat) : (State.catchEval s u).frame = s.frame := by
  unfold State.catchEval
  simp [apply_ite State.frame]

@[simp] theorem State.dischEval_frame (s : State) (u : Nat) : (State.dischEval s u).frame = s.frame := by
  unfold State.dischEval
  simp [apply_ite State.frame]

@[simp] theorem State.vecBegin_frame (s : State) (u : Nat) : (State.vecBegin s u).frame = s.frame := by
  unfold State.vecBegin
  (try simp)
  (repeat' (split <;> (try simp)))

@[simp] theorem State.vecDecide_frame (s : State) (u : Nat) (wasLocked : Bool) : (State.vecDecide s u wasLocked).frame = s.frame := by
  unfold State.vecDecide
  (repeat' (split <;> try simp [apply_ite State.frame]))

@[simp] theorem State.vecEval_frame (s : State) (u : Nat) : (State.vecEval s u).frame = s.frame := by
  unfold State.vecEval
  simp [apply_ite State.frame]

@[simp] theorem State.vecGrid_frame (s : State) (u : Nat) : (State.vecGrid s u).frame = s.frame := by
  unfold State.vecGrid
  simp

@[simp] theorem State.vectorStep_frame (s : State) (n : Nat) (mask : Nat) : (State.vectorStep s n mask).frame = s.frame := by
  unfold State.vectorStep
  simp [apply_ite State.frame]

@[simp] theorem State.vecStart_frame (s : State) (u : Nat) : (State.vecStart s u).frame = s.frame := by
  unfold State.vecStart
  simp [apply_ite State.frame]

@[simp] theorem State.vecStop_frame (s : State) (u : Nat) : (State.vecStop s u).frame = s.frame := by
  unfold State.vecStop
  simp [apply_ite State.frame]

@[simp] theorem State.vecAscReq_frame (s : State) (u : Nat) : (State.vecAscReq s u).frame = s.frame := by
  unfold State.vecAscReq
  simp [apply_ite State.frame]

@[simp] theorem State.vecAscExit_frame (s : State) (u : Nat) (start : Bool) : (State.vecAscExit s u start).frame = s.frame := by
  unfold State.vecAscExit
  simp [apply_ite State.frame]

@[simp] theorem State.vecCtrlWrite_frame (s : State) (u : Nat) (w : Word) : (State.vecCtrlWrite s u w).frame = s.frame := by
  unfold State.vecCtrlWrite
  simp [apply_ite State.frame]

@[simp] theorem State.vecStartTake_frame (s : State) (u : Nat) : (State.vecStartTake s u).frame = s.frame := by
  unfold State.vecStartTake
  (try simp)
  (repeat' (split <;> (try simp)))

@[simp] theorem State.vecParamWrite_frame (s : State) (u : Nat) (a : Nat) (w : Word) : (State.vecParamWrite s u a w).frame = s.frame := by
  unfold State.vecParamWrite
  simp [apply_ite State.frame]

@[simp] theorem State.posOffsetWrite_frame (s : State) (k : Nat) (w : Word) : (State.posOffsetWrite s k w).frame = s.frame := by
  unfold State.posOffsetWrite
  simp [apply_ite State.frame]

@[simp] theorem State.setSnd_frame (s : State) (v : SndSt) : (State.setSnd s v).frame = s.frame := by
  unfold State.setSnd
  simp

@[simp] theorem State.setTx_frame (s : State) (x : SndTx) : (State.setTx s x).frame = s.frame := by
  unfold State.setTx
  simp

@[simp] theorem State.txBoth_frame (s : State) (f : SndTx → SndTx) : (State.txBoth s f).frame = s.frame := by
  unfold State.txBoth
  simp

@[simp] theorem State.sndEvent_frame (s : State) (code : Nat) : (State.sndEvent s code).frame = s.frame := by
  unfold State.sndEvent
  simp

@[simp] theorem State.setWait_frame (s : State) (k : Nat) (v : Option SndShift) : (State.setWait s k v).frame = s.frame := by
  unfold State.setWait
  simp

@[simp] theorem State.putWait_frame (s : State) (k : Nat) (x : SndShift) : (State.putWait s k x).frame = s.frame := by
  unfold State.putWait
  (repeat' split) <;> simp

@[simp] theorem State.putResync_frame (s : State) (x : SndShift) : (State.putResync s x).frame = s.frame := by
  unfold State.putResync
  simp [apply_ite State.frame]

@[simp] theorem State.applyFrame_frame (s : State) (ty : Nat) (payload : Nat) (sender : Nat) (e : Nat) : (State.applyFrame s ty payload sender e).1.frame = s.frame := by
  unfold State.applyFrame
  (repeat' (split <;> try simp))

@[simp] theorem State.promoteShifts_frame (s : State) (lim : Nat) : (State.promoteShifts s lim).frame = s.frame := by
  unfold State.promoteShifts
  apply each_frame; intro s k; (repeat' split) <;> simp

@[simp] theorem State.promoteResync_frame (s : State) (lim : Nat) : (State.promoteResync s lim).frame = s.frame := by
  unfold State.promoteResync
  dsimp only
  (repeat' split) <;> first | rfl | simp [apply_ite State.frame] | simp_all [apply_ite State.frame]

@[simp] theorem State.promote_frame (s : State) (lim : Nat) : (State.promote s lim).frame = s.frame :=
  (State.promoteResync_frame ..).trans (State.promoteShifts_frame ..)

@[simp] theorem State.shiftApply_frame (s : State) : (State.shiftApply s).frame = s.frame := State.promote_frame ..

@[simp] theorem State.resyncEnd_frame (s : State) : (State.resyncEnd s).frame = s.frame := by
  unfold State.resyncEnd
  (repeat' split) <;> simp

@[simp] theorem State.claimExpiry_frame (s : State) : (State.claimExpiry s).frame = s.frame := by
  unfold State.claimExpiry
  simp

@[simp] theorem State.sndReceive_frame (s : State) (c : Nat) (sender : Nat) (ty : Nat) (payload : Nat) (crc : Nat) (e : Nat) (est : Nat) : (State.sndReceive s c sender ty payload crc e est).frame = s.frame := by
  unfold State.sndReceive
  simp [apply_ite State.frame]

@[simp] theorem State.sndPop_frame (s : State) : (State.sndPop s).frame = s.frame := by
  unfold State.sndPop
  simp [apply_ite State.frame]

@[simp] theorem State.txSend_frame (s : State) : (State.txSend s).frame = s.frame := by
  unfold State.txSend
  simp [apply_ite State.frame]

@[simp] theorem State.txSwDone_frame (s : State) : (State.txSwDone s).frame = s.frame := by
  unfold State.txSwDone
  simp

@[simp] theorem State.txSetup_frame (s : State) (k : Nat) (claim : Word) : (State.txSetup s k claim).frame = s.frame := by
  unfold State.txSetup
  (try simp)
  (repeat' (split <;> (try simp)))

@[simp] theorem State.txRestart_frame (s : State) (f : TxFrame) (k : Nat) : (State.txRestart s f k).frame = s.frame := by
  unfold State.txRestart
  (repeat' (split <;> try simp))

@[simp] theorem State.txPending_frame (s : State) (n : Nat) (c : Nat) (claim : Word) : (State.txPending s n c claim).frame = s.frame := by
  unfold State.txPending
  (repeat' split) <;> simp [apply_ite State.frame]

@[simp] theorem State.txStep_frame (s : State) (n : Nat) (tc : Int) : (State.txStep s n tc).1.frame = s.frame := by
  unfold State.txStep
  dsimp only
  (repeat' split) <;> first | rfl | simp [apply_ite State.frame] | simp_all [apply_ite State.frame]

@[simp] theorem State.frameStart_frame (s : State) : (State.frameStart s).frame = s.frame := by
  unfold State.frameStart
  (repeat' split) <;> simp

@[simp] theorem State.frameEnd_frame (s : State) : (State.frameEnd s).frame = s.frame := by
  unfold State.frameEnd
  (repeat' (split <;> try simp [apply_ite State.frame]))

@[simp] theorem State.sndEval_frame (s : State) (n : Nat) : (State.sndEval s n).frame = s.frame := by
  unfold State.sndEval
  split
  · rfl
  extract_lets ts dtc tc g f v bad src x r y w ang thMod ph a cs q inj z1 z2 z3 rs sw z4 z5 z6
  have ex : x.frame = s.frame := State.setTx_frame ..
  have ey : y.frame = x.frame := State.txStep_frame ..
  have e3 : z3.frame = y.frame := ((State.promote_frame ..).trans (State.sigWrite_frame ..)).trans (State.sigWrite_frame ..)
  have e6 : z6.frame = z3.frame := ((State.sigWrite_frame ..).trans (State.sigWrite_frame ..)).trans (State.sigWrite_frame ..)
  exact (State.sigWrite_frame ..).trans (e6.trans (e3.trans (ey.trans ex)))

@[simp] theorem State.gfeTake_frame (s : State) (n : Nat) : (State.gfeTake s n).frame = s.frame := by
  unfold State.gfeTake
  simp

@[simp] theorem State.gfePublish_frame (s : State) (n : Nat) (idRef : Int) (iqRef : Int) (gq : GQual) (satW : Bool) (satV : Bool) : (State.gfePublish s n idRef iqRef gq satW satV).frame = s.frame := by
  unfold State.gfePublish
  simp

@[simp] theorem State.gfeFlag_frame (s : State) (n : Nat) (i : Nat) (b : Bool) : (State.gfeFlag s n i b).frame = s.frame := by
  unfold State.gfeFlag
  simp

@[simp] theorem State.gfeHold_frame (s : State) (n : Nat) (q : Qual) : (State.gfeHold s n q).frame = s.frame := by
  unfold State.gfeHold
  simp [apply_ite State.frame]

@[simp] theorem State.gfeDrop_frame (s : State) (n : Nat) : (State.gfeDrop s n).frame = s.frame := by
  unfold State.gfeDrop
  simp

@[simp] theorem State.gfeEval_frame (s : State) (n : Nat) : (State.gfeEval s n).frame = s.frame := by
  unfold State.gfeEval
  simp [apply_ite State.frame]

@[simp] theorem State.frtEvent_frame (s : State) (n : Nat) (code : Nat) : (State.frtEvent s n code).frame = s.frame := by
  unfold State.frtEvent
  simp

@[simp] theorem State.frtFire_frame (s : State) (n : Nat) (k : Nat) : (State.frtFire s n k).frame = s.frame := by
  unfold State.frtFire
  simp

@[simp] theorem State.frtEval_frame (s : State) (n : Nat) : (State.frtEval s n).frame = s.frame := by
  unfold State.frtEval
  simp [apply_ite State.frame]

@[simp] theorem State.bsGo_frame (s : State) (n : Nat) (st : Nat) : (State.bsGo s n st).frame = s.frame := by
  unfold State.bsGo
  simp [apply_ite State.frame]

@[simp] theorem State.bsAbortWith_frame (s : State) (n : Nat) (cause : Nat) : (State.bsAbortWith s n cause).frame = s.frame := by
  unfold State.bsAbortWith
  simp

@[simp] theorem State.bsStartEngine_frame (s : State) (n : Nat) : (State.bsStartEngine s n).frame = s.frame := by
  unfold State.bsStartEngine
  simp [apply_ite State.frame]

@[simp] theorem State.bsAct_frame (s : State) (n : Nat) (t : Nat) (x : BsSeen) : (State.bsAct s n t x).frame = s.frame := by
  unfold State.bsAct
  (repeat' split) <;> simp [apply_ite State.frame]

@[simp] theorem State.bsEval_frame (s : State) (n : Nat) : (State.bsEval s n).frame = s.frame := by
  unfold State.bsEval
  (try simp [apply_ite State.frame])
  (repeat' (split <;> try simp [apply_ite State.frame]))
  all_goals (try rfl)

@[simp] theorem State.bsCheck_frame (s : State) (n : Nat) : (State.bsCheck s n).frame = s.frame := by
  unfold State.bsCheck
  simp [apply_ite State.frame]

@[simp] theorem State.gfeStep_frame (s : State) (n : Nat) : (State.gfeStep s n).frame = s.frame := by
  unfold State.gfeStep
  simp [apply_ite State.frame]

@[simp] theorem State.gfeStart_frame (s : State) (n : Nat) : (State.gfeStart s n).frame = s.frame := by
  unfold State.gfeStart
  simp [apply_ite State.frame]

@[simp] theorem State.gfeStop_frame (s : State) (n : Nat) : (State.gfeStop s n).frame = s.frame := by
  unfold State.gfeStop
  simp [apply_ite State.frame]

@[simp] theorem State.gfeApply_frame (s : State) (n : Nat) : (State.gfeApply s n).frame = s.frame := by
  unfold State.gfeApply
  simp [apply_ite State.frame]

@[simp] theorem State.gfeCtrlWrite_frame (s : State) (n : Nat) (w : Word) : (State.gfeCtrlWrite s n w).frame = s.frame := by
  unfold State.gfeCtrlWrite
  simp [apply_ite State.frame]

@[simp] theorem State.gfeParWrite_frame (s : State) (n : Nat) (a : Nat) (w : Word) : (State.gfeParWrite s n a w).frame = s.frame := by
  unfold State.gfeParWrite
  simp [apply_ite State.frame]

@[simp] theorem State.bsStart_frame (s : State) (n : Nat) : (State.bsStart s n).frame = s.frame := by
  unfold State.bsStart
  simp [apply_ite State.frame]

@[simp] theorem State.bsSet_frame (s : State) (n : Nat) (st : Nat) : (State.bsSet s n st).frame = s.frame := by
  unfold State.bsSet
  simp [apply_ite State.frame]

@[simp] theorem State.bsAbort_frame (s : State) (n : Nat) : (State.bsAbort s n).frame = s.frame := by
  unfold State.bsAbort
  simp

@[simp] theorem State.bsCtrlWrite_frame (s : State) (n : Nat) (w : Word) : (State.bsCtrlWrite s n w).frame = s.frame := by
  unfold State.bsCtrlWrite
  simp [apply_ite State.frame]

@[simp] theorem State.gfeSample_frame (s : State) (n : Nat) : (State.gfeSample s n).frame = s.frame := by
  unfold State.gfeSample
  (repeat' (split <;> try simp [apply_ite State.frame]))

@[simp] theorem State.gfeSeqStart_frame (s : State) (n : Nat) : (State.gfeSeqStart s n).frame = s.frame := by
  unfold State.gfeSeqStart
  simp

@[simp] theorem State.accHiRead_frame (s : State) (n : Nat) : (State.accHiRead s n).frame = s.frame := by
  unfold State.accHiRead
  simp

@[simp] theorem State.motPut_frame (s : State) (m : Nat) (p : Nat) (v : SliceSet) : (State.motPut s m p v).frame = s.frame := by
  unfold State.motPut
  simp

@[simp] theorem State.motCommit_frame (s : State) (m : Nat) : (State.motCommit s m).frame = s.frame := by
  unfold State.motCommit
  simp

@[simp] theorem State.motGap_frame (s : State) (m : Nat) : (State.motGap s m).frame = s.frame := by
  unfold State.motGap
  simp [apply_ite State.frame]

@[simp] theorem State.motEnter_frame (s : State) (m : Nat) (st : Nat) : (State.motEnter s m st).frame = s.frame := by
  unfold State.motEnter
  simp

@[simp] theorem State.motFault_frame (s : State) (m : Nat) (cause : Nat) : (State.motFault s m cause).frame = s.frame := by
  unfold State.motFault
  simp

@[simp] theorem State.motBrake_frame (s : State) (m : Nat) (by_ : Nat) : (State.motBrake s m by_).frame = s.frame := by
  unfold State.motBrake
  simp

@[simp] theorem State.motTest_frame (s : State) (m : Nat) (t : Nat) : (State.motTest s m t).frame = s.frame := by
  unfold State.motTest
  simp

@[simp] theorem State.motRampSector_frame (s : State) (m : Nat) (f : Nat) (sec : Nat) (count : Nat) (from_ : Nat) (hold : Option (Nat × Nat × Nat)) : (State.motRampSector s m f sec count from_ hold).frame = s.frame := by
  unfold State.motRampSector
  simp

@[simp] theorem State.motRamp_frame (s : State) (m : Nat) : (State.motRamp s m).frame = s.frame := by
  unfold State.motRamp
  simp

@[simp] theorem State.motAlign_frame (s : State) (m : Nat) : (State.motAlign s m).frame = s.frame := by
  unfold State.motAlign
  simp

@[simp] theorem State.motObserved_frame (s : State) (m : Nat) : (State.motObserved s m).frame = s.frame := by
  unfold State.motObserved
  (repeat' (split <;> try simp [apply_ite State.frame]))

@[simp] theorem State.auxStart_frame (s : State) (m : Nat) : (State.auxStart s m).frame = s.frame := by
  unfold State.auxStart
  simp [apply_ite State.frame]

@[simp] theorem State.auxStop_frame (s : State) (m : Nat) : (State.auxStop s m).frame = s.frame := by
  unfold State.auxStop
  simp [apply_ite State.frame]

@[simp] theorem State.auxClear_frame (s : State) (m : Nat) : (State.auxClear s m).frame = s.frame := by
  unfold State.auxClear
  simp [apply_ite State.frame]

@[simp] theorem State.auxCtrlWrite_frame (s : State) (m : Nat) (w : Word) : (State.auxCtrlWrite s m w).frame = s.frame := by
  unfold State.auxCtrlWrite
  simp [apply_ite State.frame]

@[simp] theorem State.motDuty_frame (s : State) (m : Nat) : (State.motDuty s m).frame = s.frame := by
  unfold State.motDuty
  (repeat' (split <;> try simp [apply_ite State.frame]))

@[simp] theorem State.motPublish_frame (s : State) (m : Nat) : (State.motPublish s m).frame = s.frame := by
  unfold State.motPublish
  simp [apply_ite State.frame]

@[simp] theorem State.motHoldEnd_frame (s : State) (m : Nat) : (State.motHoldEnd s m).frame = s.frame := by
  unfold State.motHoldEnd
  (repeat' split) <;> simp

@[simp] theorem State.motCross_frame (s : State) (m : Nat) (z : Int) : (State.motCross s m z).frame = s.frame := by
  unfold State.motCross
  (repeat' (split <;> try simp [apply_ite State.frame]))

@[simp] theorem State.demagEnd_frame (s : State) (m : Nat) (level : Bool) : (State.demagEnd s m level).frame = s.frame := by
  unfold State.demagEnd
  simp [apply_ite State.frame]

@[simp] theorem State.motCommutate_frame (s : State) (m : Nat) (due : Int) : (State.motCommutate s m due).frame = s.frame := by
  unfold State.motCommutate
  simp

@[simp] theorem State.motConfirm_frame (s : State) (m : Nat) : (State.motConfirm s m).frame = s.frame := by
  unfold State.motConfirm
  dsimp only
  (repeat' split) <;> first | rfl | simp [apply_ite State.frame] | simp_all [apply_ite State.frame]

@[simp] theorem State.motRampNext_frame (s : State) (m : Nat) : (State.motRampNext s m).frame = s.frame := by
  unfold State.motRampNext
  simp [apply_ite State.frame]

@[simp] theorem State.motTimed_frame (s : State) (m : Nat) : (State.motTimed s m).frame = s.frame := by
  unfold State.motTimed
  (repeat' (split <;> try simp))

@[simp] theorem State.motEvent_frame (s : State) (m : Nat) (sts : List Nat) : (State.motEvent s m sts).frame = s.frame := by
  unfold State.motEvent
  simp [apply_ite State.frame]

@[simp] theorem State.commutation_frame (s : State) (m : Nat) : (State.commutation s m).frame = s.frame := by
  unfold State.commutation
  (repeat' split) <;> simp

@[simp] theorem State.obsTime_frame (s : State) (m : Nat) : (State.obsTime s m).frame = s.frame := by
  unfold State.obsTime
  simp

@[simp] theorem State.stopConfirm_frame (s : State) (m : Nat) : (State.stopConfirm s m).frame = s.frame := by
  unfold State.stopConfirm
  (try simp)
  (repeat' (split <;> (try simp)))

@[simp] theorem State.alignEnd_frame (s : State) (m : Nat) : (State.alignEnd s m).frame = s.frame := by
  unfold State.alignEnd
  simp [apply_ite State.frame]

@[simp] theorem State.rampSectorEnd_frame (s : State) (m : Nat) : (State.rampSectorEnd s m).frame = s.frame := by
  unfold State.rampSectorEnd
  simp [apply_ite State.frame]

@[simp] theorem State.bemfCrossing_frame (s : State) (h : Nat) (level : Bool) (first : Nat) : (State.bemfCrossing s h level first).frame = s.frame := by
  unfold State.bemfCrossing
  (try simp)
  (repeat' (split <;> (try simp)))

@[simp] theorem State.forcedCommutation_frame (s : State) (m : Nat) : (State.forcedCommutation s m).frame = s.frame := by
  unfold State.forcedCommutation
  simp [apply_ite State.frame]

@[simp] theorem State.motReload_frame (s : State) (m : Nat) : (State.motReload s m).frame = s.frame := by
  unfold State.motReload
  simp [apply_ite State.frame]

@[simp] theorem State.reloadAll_frame (s : State) (c : Nat) : (State.reloadAll s c).frame = s.frame := by
  unfold State.reloadAll
  simp [apply_ite State.frame]

@[simp] theorem State.motUncommute_frame (s : State) (m : Nat) : (State.motUncommute s m).frame = s.frame := by
  unfold State.motUncommute
  simp [apply_ite State.frame]

@[simp] theorem State.motPassage_frame (s : State) (m : Nat) (sign : Bool) : (State.motPassage s m sign).frame = s.frame := by
  unfold State.motPassage
  simp

@[simp] theorem State.auxWindow_frame (s : State) (h : Nat) (k : Nat) (on : Bool) (sign : Bool) : (State.auxWindow s h k on sign).frame = s.frame := by
  unfold State.auxWindow
  (repeat' (split <;> try simp [apply_ite State.frame]))

@[simp] theorem State.brkOffEnd_frame (s : State) (m : Nat) : (State.brkOffEnd s m).frame = s.frame := by
  unfold State.brkOffEnd
  (repeat' split) <;> simp

@[simp] theorem State.auxChopFault_frame (s : State) : (State.auxChopFault s).frame = s.frame := by
  unfold State.auxChopFault
  simp [apply_ite State.frame]

@[simp] theorem State.auxBus_frame (s : State) (k : Nat) (up : Bool) : (State.auxBus s k up).frame = s.frame := by
  unfold State.auxBus
  (repeat' (split <;> try simp [apply_ite State.frame]))

@[simp] theorem State.auxChopVerify_frame (s : State) (flows : Bool) : (State.auxChopVerify s flows).frame = s.frame := by
  unfold State.auxChopVerify
  (repeat' split) <;> simp

@[simp] theorem State.ovRel_frame (s : State) : (State.ovRel s).frame = s.frame := by
  unfold State.ovRel
  (repeat' (split <;> try simp [apply_ite State.frame]))

@[simp] theorem State.auxSupply_frame (s : State) : (State.auxSupply s).frame = s.frame := by
  unfold State.auxSupply
  simp

@[simp] theorem State.vdrvUv_frame (s : State) (on : Bool) : (State.vdrvUv s on).frame = s.frame := by
  unfold State.vdrvUv
  simp [apply_ite State.frame]

@[simp] theorem State.cpUv_frame (s : State) (on : Bool) : (State.cpUv s on).frame = s.frame := by
  unfold State.cpUv
  simp [apply_ite State.frame]

@[simp] theorem State.bstUv_frame (s : State) (h : Nat) (on : Bool) : (State.bstUv s h on).frame = s.frame := by
  unfold State.bstUv
  simp [apply_ite State.frame]

@[simp] theorem State.atTick_frame (s : State) (f : Nat → Nat → Nat × Nat) : (State.atTick s f).frame = s.frame := by
  unfold State.atTick
  simp [apply_ite State.frame]

@[simp] theorem State.timeIncWrite_frame (s : State) (w : Word) : (State.timeIncWrite s w).frame = s.frame := by
  unfold State.timeIncWrite
  simp [apply_ite State.frame]

@[simp] theorem State.timeSet_frame (s : State) : (State.timeSet s).frame = s.frame := by
  unfold State.timeSet
  simp [apply_ite State.frame]

@[simp] theorem State.timeStep_frame (s : State) : (State.timeStep s).frame = s.frame := by
  unfold State.timeStep
  simp [apply_ite State.frame]

@[simp] theorem State.timeCtrlWrite_frame (s : State) (w : Word) : (State.timeCtrlWrite s w).frame = s.frame := by
  unfold State.timeCtrlWrite
  simp [apply_ite State.frame]

@[simp] theorem State.timeNsRead_frame (s : State) (i : Initiator) : (State.timeNsRead s i).1.frame = s.frame := by
  unfold State.timeNsRead
  exact (mk_frame ..).trans (frame_fold s)

@[simp] theorem State.tbLoRead_frame (s : State) (i : Initiator) : (State.tbLoRead s i).1.frame = s.frame := by
  unfold State.tbLoRead
  (repeat' split) <;> simp

@[simp] theorem State.setEthQueue_frame (s : State) (p : Nat) (q : Nat) (l : List EthFrame) : (State.setEthQueue s p q l).frame = s.frame := by
  unfold State.setEthQueue
  simp

@[simp] theorem State.ethEnqueue_frame (s : State) (p : Nat) (f : EthFrame) : (State.ethEnqueue s p f).frame = s.frame := by
  unfold State.ethEnqueue; simp only []; split <;> simp

@[simp] theorem State.ethToHost_frame (s : State) (f : EthFrame) : (State.ethToHost s f).frame = s.frame := by
  unfold State.ethToHost
  (repeat' split) <;> simp [apply_ite State.frame]

@[simp] theorem State.ethStamp_frame (s : State) (bs : List Byte) (out : Bool) : (State.ethStamp s bs out).frame = s.frame := by
  unfold State.ethStamp
  (repeat' split) <;> simp

@[simp] theorem State.ethLearn_frame (s : State) (p : Nat) (bs : List Byte) : (State.ethLearn s p bs).frame = s.frame := by
  unfold State.ethLearn
  simp [apply_ite State.frame]

@[simp] theorem State.ethIngress_frame (s : State) (p : Nat) (bs : List Byte) : (State.ethIngress s p bs).frame = s.frame := by
  unfold State.ethIngress
  simp [apply_ite State.frame]

@[simp] theorem State.ethCorrect_frame (s : State) (p : Nat) (f : EthFrame) : (State.ethCorrect s p f).1.frame = s.frame := by
  unfold State.ethCorrect
  (repeat' (split <;> try simp))

@[simp] theorem State.ethEgress_frame (s : State) (p : Nat) : (State.ethEgress s p).frame = s.frame := by
  unfold State.ethEgress
  (repeat' (split <;> try simp [apply_ite State.frame]))

@[simp] theorem State.pdelay_frame (s : State) (p : Nat) (t1 : Int) (t2 : Int) (t3 : Int) (t4 : Int) : (State.pdelay s p t1 t2 t3 t4).frame = s.frame := by
  unfold State.pdelay
  simp [apply_ite State.frame]

@[simp] theorem State.macAgeOut_frame (s : State) (a : Nat) : (State.macAgeOut s a).frame = s.frame := by
  unfold State.macAgeOut
  simp

@[simp] theorem State.ethLink_frame (s : State) (p : Nat) (up : Bool) : (State.ethLink s p up).frame = s.frame := by
  unfold State.ethLink
  simp [apply_ite State.frame]

@[simp] theorem State.ethTsPop_frame (s : State) : (State.ethTsPop s).1.frame = s.frame := by
  unfold State.ethTsPop
  simp

@[simp] theorem State.setSar_frame (s : State) (h : Nat) (v : SarSt) : (State.setSar s h v).frame = s.frame := by
  unfold State.setSar
  simp

@[simp] theorem State.sarBusy_frame (s : State) (h : Nat) : (State.sarBusy s h).frame = s.frame := by
  unfold State.sarBusy
  simp

@[simp] theorem State.putSar_frame (s : State) (h : Nat) (v : SarSt) : (State.putSar s h v).frame = s.frame := by
  unfold State.putSar
  simp

@[simp] theorem State.sarTrigger_frame (s : State) (k : Nat) (inj : Bool) (x : Nat) : (State.sarTrigger s k inj x).frame = s.frame := by
  unfold State.sarTrigger
  simp [apply_ite State.frame]

@[simp] theorem State.sarFireAt_frame (s : State) (code : Nat) (x : Nat) : (State.sarFireAt s code x).frame = s.frame := by
  unfold State.sarFireAt
  simp [apply_ite State.frame]

@[simp] theorem State.sarFire_frame (s : State) (code : Nat) : (State.sarFire s code).frame = s.frame := by
  unfold State.sarFire
  simp [apply_ite State.frame]

@[simp] theorem State.sarTimer_frame (s : State) (j : Nat) : (State.sarTimer s j).frame = s.frame := by
  unfold State.sarTimer
  simp [apply_ite State.frame]

@[simp] theorem State.sarTakeInj_frame (s : State) (k : Nat) (h : Nat) (e : Nat) : (State.sarTakeInj s k h e).frame = s.frame := by
  unfold State.sarTakeInj
  simp [apply_ite State.frame]

@[simp] theorem State.sarTakeReg_frame (s : State) (h : Nat) (e : Nat) : (State.sarTakeReg s h e).frame = s.frame := by
  unfold State.sarTakeReg
  simp [apply_ite State.frame]

@[simp] theorem State.sarTakeAt_frame (s : State) (ms : List Nat) (e : Nat) : (State.sarTakeAt s ms e).frame = s.frame := by
  unfold State.sarTakeAt
  simp [apply_ite State.frame]

@[simp] theorem State.sarCalFrom_frame (s : State) (ms : List Nat) (x : Nat) : (State.sarCalFrom s ms x).frame = s.frame := by
  unfold State.sarCalFrom
  simp

@[simp] theorem State.sarMove_frame (f : Nat) (s : State) (ms : List Nat) : (State.sarMove f s ms).frame = s.frame := by
  induction f generalizing s with
  | zero => rfl
  | succ f ih =>
    unfold State.sarMove
    dsimp only
    (repeat' split) <;> simp [ih]

@[simp] theorem State.sarCatch_frame (s : State) (k : Nat) : (State.sarCatch s k).frame = s.frame := State.sarMove_frame ..

@[simp] theorem State.sarStartEdge_frame (s : State) (k : Nat) : (State.sarStartEdge s k).frame = s.frame := by
  unfold State.sarStartEdge
  simp

@[simp] theorem State.wrAt_frame (s : State) (x : Nat) (a : Nat) (w : Word) : (State.wrAt s x a w).frame = s.frame := by
  unfold State.wrAt
  simp [apply_ite State.frame]

@[simp] theorem State.sarResult_frame (s : State) (k : Nat) (h : Nat) (e : Nat) (x : Nat) (raw : Int) (cnt : Nat) (again : Bool) : (State.sarResult s k h e x raw cnt again).frame = s.frame := by
  unfold State.sarResult
  simp

@[simp] theorem State.sarResume_frame (s : State) (h : Nat) (x : Nat) : (State.sarResume s h x).frame = s.frame := by
  unfold State.sarResume
  simp [apply_ite State.frame]

@[simp] theorem State.sarInjEnd_frame (s : State) (k : Nat) (h : Nat) (i : Nat) (x : Nat) (raw : Int) : (State.sarInjEnd s k h i x raw).frame = s.frame := by
  unfold State.sarInjEnd
  simp [apply_ite State.frame]

@[simp] theorem State.sarRegEnd_frame (s : State) (k : Nat) (h : Nat) (i : Nat) (x : Nat) (raw : Int) : (State.sarRegEnd s k h i x raw).frame = s.frame := by
  unfold State.sarRegEnd
  simp [apply_ite State.frame]

@[simp] theorem State.sarConvEnd_frame (s : State) (k : Nat) (raw : Int) : (State.sarConvEnd s k raw).frame = s.frame := by
  unfold State.sarConvEnd
  (try simp)
  (repeat' (split <;> (try simp)))

@[simp] theorem State.sarCalReq_frame (s : State) (k : Nat) : (State.sarCalReq s k).frame = s.frame := by
  unfold State.sarCalReq
  simp [apply_ite State.frame]

@[simp] theorem State.sarCalStart_frame (s : State) (k : Nat) : (State.sarCalStart s k).frame = s.frame := by
  unfold State.sarCalStart
  simp [apply_ite State.frame]

@[simp] theorem State.sarCalTake_frame (s : State) (k : Nat) (off : Int) (gain : Nat) : (State.sarCalTake s k off gain).frame = s.frame := by
  unfold State.sarCalTake
  simp [apply_ite State.frame]

@[simp] theorem State.sarCalDone_frame (s : State) (h : Nat) (x : Nat) : (State.sarCalDone s h x).frame = s.frame := by
  unfold State.sarCalDone
  simp

@[simp] theorem State.sarCalEnd_frame (s : State) (k : Nat) (off : Int) (gain : Nat) : (State.sarCalEnd s k off gain).frame = s.frame := by
  unfold State.sarCalEnd
  (try simp)
  (repeat' (split <;> (try simp)))

@[simp] theorem State.sarCalAuto_frame (s : State) (k : Nat) : (State.sarCalAuto s k).frame = s.frame := by
  unfold State.sarCalAuto
  simp [apply_ite State.frame]

@[simp] theorem State.sarStarved_frame (s : State) (k : Nat) : (State.sarStarved s k).frame = s.frame := by
  unfold State.sarStarved
  (try simp)
  (repeat' (split <;> (try simp)))

@[simp] theorem State.modulateStep_frame (s : State) (n : Nat) (mask : Nat) : (State.modulateStep s n mask).frame = s.frame := by
  unfold State.modulateStep
  simp [apply_ite State.frame]

@[simp] theorem State.commitStep_frame (s : State) (n : Nat) : (State.commitStep s n).frame = s.frame := by
  unfold State.commitStep
  simp [apply_ite State.frame]

@[simp] theorem State.releaseSets_frame (s : State) (n : Nat) : (State.releaseSets s n).frame = s.frame := by
  unfold State.releaseSets; apply each_frame; intro s k; (repeat' split) <;> simp

@[simp] theorem State.prepareOwned_frame (s : State) (n : Nat) (x : Nat) : (State.prepareOwned s n x).frame = s.frame := by
  unfold State.prepareOwned
  simp

@[simp] theorem State.dropSets_frame (s : State) (n : Nat) : (State.dropSets s n).frame = s.frame := by
  unfold State.dropSets
  simp

@[simp] theorem State.trgCompare_frame (s : State) (i : Nat) (k : Nat) : (State.trgCompare s i k).frame = s.frame := by
  unfold State.trgCompare
  simp [apply_ite State.frame]

@[simp] theorem State.setThr_frame (s : State) (n : Nat) (v : TwinThr) : (State.setThr s n v).frame = s.frame := by
  unfold State.setThr
  simp

@[simp] theorem State.cwySend_frame (s : State) (ty : Nat) (thread : Nat) (fwd : Bool) (payload : List Dword) : (State.cwySend s ty thread fwd payload).frame = s.frame := by
  unfold State.cwySend
  simp [apply_ite State.frame]

@[simp] theorem State.cwyReceive_frame (s : State) (h : CwyHdr) : (State.cwyReceive s h).1.frame = s.frame := by
  unfold State.cwyReceive
  (repeat' (split <;> try simp))

@[simp] theorem State.msgSend_frame (s : State) (ep : Nat) (bytes : List Byte) (tries : Nat) : (State.msgSend s ep bytes tries).frame = s.frame := by
  unfold State.msgSend
  simp [apply_ite State.frame]

@[simp] theorem State.endpointTake_frame (s : State) (j : Nat) : (State.endpointTake s j).1.frame = s.frame := by
  unfold State.endpointTake
  dsimp only
  split
  · simp
  · rw [each_frame]
    · rfl
    · intro s i; simp

@[simp] theorem State.msgForward_frame (s : State) (n : Nat) : (State.msgForward s n).frame = s.frame := by
  unfold State.msgForward
  dsimp only
  rw [foldl_frame]
  · generalize (List.filter _ _ : List Nat) = js
    suffices h : ∀ (r : State × List BoundMsg), (js.foldl (fun (r : State × List BoundMsg) j => ((r.1.endpointTake j).1, r.2 ++ (r.1.endpointTake j).2)) r).1.frame = r.1.frame from h (s, [])
    induction js with
    | nil => intro r; rfl
    | cons j js ih => intro r; rw [List.foldl_cons, ih, State.endpointTake_frame]
  · intro s m; split <;> simp

@[simp] theorem State.roleAccept_frame (s : State) (n : Nat) : (State.roleAccept s n).frame = s.frame := by
  unfold State.roleAccept
  dsimp only
  rw [foldl_frame]
  · rfl
  · intro s m
    (repeat' split) <;> simp

@[simp] theorem State.twinRole_frame (s : State) (n : Nat) : (State.twinRole s n).frame = s.frame := by
  unfold State.twinRole
  simp [apply_ite State.frame]

@[simp] theorem State.twinLinks_frame (s : State) (n : Nat) : (State.twinLinks s n).frame = s.frame := by
  unfold State.twinLinks
  simp

@[simp] theorem State.leaveStep_frame (s : State) (n : Nat) (cause : Nat) : (State.leaveStep s n cause).frame = s.frame := by
  unfold State.leaveStep
  simp [apply_ite State.frame]

@[simp] theorem State.enterStep_frame (s : State) (n : Nat) : (State.enterStep s n).frame = s.frame := by
  unfold State.enterStep
  simp

@[simp] theorem State.healthPost_frame (s : State) (n : Nat) : (State.healthPost s n).frame = s.frame := by
  unfold State.healthPost
  simp [apply_ite State.frame]

@[simp] theorem State.digBad_frame (s : State) (n : Nat) (kind : Nat) : (State.digBad s n kind).frame = s.frame := by
  unfold State.digBad
  (repeat' (split <;> try simp [apply_ite State.frame]))

@[simp] theorem State.digCompare_frame (s : State) (n : Nat) (period : Nat) : (State.digCompare s n period).frame = s.frame := by
  unfold State.digCompare
  (try simp)
  (repeat' (split <;> (try simp)))

@[simp] theorem State.twinPost_frame (s : State) (n : Nat) : (State.twinPost s n).frame = s.frame := by
  unfold State.twinPost
  simp [apply_ite State.frame]

@[simp] theorem State.twinOverrun_frame (s : State) (n : Nat) : (State.twinOverrun s n).frame = s.frame := by
  unfold State.twinOverrun
  simp [apply_ite State.frame]

@[simp] theorem State.cwyDigest_frame (s : State) (h : CwyHdr) (input : Nat) (state : Nat) (flags : Nat) : (State.cwyDigest s h input state flags).frame = s.frame := by
  unfold State.cwyDigest
  simp [apply_ite State.frame]

@[simp] theorem State.cwyOverrun_frame (s : State) (h : CwyHdr) : (State.cwyOverrun s h).frame = s.frame := by
  unfold State.cwyOverrun
  simp [apply_ite State.frame]

@[simp] theorem State.digestTimeout_frame (s : State) (n : Nat) : (State.digestTimeout s n).frame = s.frame := by
  unfold State.digestTimeout
  (repeat' split) <;> simp

@[simp] theorem State.twinEnd_frame (s : State) (n : Nat) : (State.twinEnd s n).frame = s.frame := by
  unfold State.twinEnd
  simp [apply_ite State.frame]

@[simp] theorem State.cwyEnd_frame (s : State) (h : CwyHdr) : (State.cwyEnd s h).frame = s.frame := by
  unfold State.cwyEnd
  simp [apply_ite State.frame]

@[simp] theorem State.twinLatch_frame (s : State) (n : Nat) : (State.twinLatch s n).frame = s.frame := by
  unfold State.twinLatch
  simp [apply_ite State.frame]

@[simp] theorem State.cwyLatch_frame (s : State) (h : CwyHdr) (xs : List (BitVec 12 × Qual × Word)) : (State.cwyLatch s h xs).frame = s.frame := by
  unfold State.cwyLatch
  simp [apply_ite State.frame]

@[simp] theorem State.yieldEval_frame (s : State) (n : Nat) : (State.yieldEval s n).frame = s.frame := by
  unfold State.yieldEval
  dsimp only
  (repeat' split) <;> first | rfl | simp [apply_ite State.frame] | simp_all [apply_ite State.frame]

@[simp] theorem State.snapTake_frame (s : State) (n : Nat) (i : SnapItem) : (s.snapTake n i).frame = s.frame := by
  cases i <;> simp only [State.snapTake] <;> (repeat' split) <;> simp

@[simp] theorem State.cwySnap_frame (s : State) (h : CwyHdr) (items : List SnapItem) (last : Bool) (size : BitVec 20) : (State.cwySnap s h items last size).frame = s.frame := by
  unfold State.cwySnap
  simp [apply_ite State.frame]

@[simp] theorem State.snapJudge_frame (s : State) (n : Nat) (onTime : Bool) : (State.snapJudge s n onTime).frame = s.frame := by
  unfold State.snapJudge
  extract_lets +onlyGivenNames v
  split
  · rfl
  · extract_lets s1 k v' s2
    have e1 : s1.frame = s.frame := State.setThr_frame ..
    clear_value s1
    split
    · rw [foldl_frame _ _ _ (by intro s i; simp), e1]
    · have e2 : s2.frame = s1.frame := State.setThr_frame ..
      clear_value s2
      split <;> simp [e1, e2]

@[simp] theorem State.snapSend_frame (s : State) (n : Nat) : (State.snapSend s n).frame = s.frame := by
  unfold State.snapSend
  simp [apply_ite State.frame]

@[simp] theorem State.twinOut_frame (s : State) (n : Nat) (cause : Nat) : (State.twinOut s n cause).frame = s.frame := by
  unfold State.twinOut
  simp

@[simp] theorem State.cwyLanesUp_frame (s : State) (ownCrc : Nat) (crc : Nat) (prio : Nat) (st : Nat) (run : Nat) : (State.cwyLanesUp s ownCrc crc prio st run).frame = s.frame := by
  unfold State.cwyLanesUp
  simp [apply_ite State.frame]

@[simp] theorem State.seniorResume_frame (s : State) : (State.seniorResume s).frame = s.frame := by
  unfold State.seniorResume
  simp [apply_ite State.frame]

@[simp] theorem State.cwyDown_frame (s : State) (lanes : BitVec 4) : (State.cwyDown s lanes).frame = s.frame := by
  unfold State.cwyDown
  extract_lets +onlyGivenNames quiet
  clear_value quiet
  split; · rfl
  split; · rfl
  extract_lets was s1 s2 _ s3 ms _ s4
  have e1 : s1.frame = s.frame := by simp [s1]
  have e2 : s2.frame = s1.frame := State.post_frame ..
  have e3 : s3.frame = s1.frame := by
    by_cases h : was = true
    · rw [show s3 = _ from if_pos h]; exact (mk_frame ..).trans ((frame_fold _).trans e2)
    · rw [show s3 = _ from if_neg h]
  have e4 : s4.frame = s3.frame := (mk_frame ..).trans (frame_fold _)
  clear_value s4
  rw [State.seniorResume_frame, foldl_frame _ _ _ (by intro s i; simp), e4, e3, e1]

@[simp] theorem State.partnerTimeout_frame (s : State) (bootAt : Nat) : (State.partnerTimeout s bootAt).frame = s.frame := by
  unfold State.partnerTimeout
  simp [apply_ite State.frame]

@[simp] theorem State.cwyStatusSend_frame (s : State) : (State.cwyStatusSend s).frame = s.frame := by
  unfold State.cwyStatusSend; split
  · rfl
  · exact State.cwySend_frame ..

@[simp] theorem State.cwyStatus_frame (s : State) (h : CwyHdr) (st : BitVec 3) (run : BitVec 4) (flags : List Nat) (ups : BitVec 32) : (State.cwyStatus s h st run flags ups).frame = s.frame := by
  unfold State.cwyStatus
  simp [apply_ite State.frame]

@[simp] theorem State.cwyJoinSend_frame (s : State) : (State.cwyJoinSend s).frame = s.frame := by
  unfold State.cwyJoinSend
  simp [apply_ite State.frame]

@[simp] theorem State.cwyTimeSend_frame (s : State) : (State.cwyTimeSend s).frame = s.frame := by
  unfold State.cwyTimeSend
  simp [apply_ite State.frame]

@[simp] theorem State.cwyTime_frame (s : State) (h : CwyHdr) (t1 : Nat) (t2 : Nat) (t3 : Nat) (t4 : Nat) : (State.cwyTime s h t1 t2 t3 t4).frame = s.frame := by
  unfold State.cwyTime
  simp [apply_ite State.frame]

@[simp] theorem State.cwyJoin_frame (s : State) (h : CwyHdr) (count : Nat) (periods : List Nat) : (State.cwyJoin s h count periods).frame = s.frame := by
  unfold State.cwyJoin
  simp [apply_ite State.frame]

@[simp] theorem State.clkTakeover_frame (s : State) (k : Nat) : (State.clkTakeover s k).frame = s.frame := by
  unfold State.clkTakeover
  simp [apply_ite State.frame]

@[simp] theorem State.coastEnd_frame (s : State) : (State.coastEnd s).frame = s.frame := by
  unfold State.coastEnd
  (repeat' (split <;> try simp [apply_ite State.frame]))

@[simp] theorem State.cwyMsg_frame (s : State) (h : CwyHdr) (j : Nat) (bytes : List Byte) : (State.cwyMsg s h j bytes).frame = s.frame := by
  unfold State.cwyMsg
  simp [apply_ite State.frame]

@[simp] theorem State.cwyMsgAck_frame (s : State) (h : CwyHdr) (ack : BitVec 32) : (State.cwyMsgAck s h ack).frame = s.frame := by
  unfold State.cwyMsgAck
  simp [apply_ite State.frame]

@[simp] theorem State.msgRetry_frame (s : State) (fseq : Nat) : (State.msgRetry s fseq).frame = s.frame := by
  unfold State.msgRetry
  (repeat' split) <;> simp

@[simp] theorem State.cwyMirror_frame (s : State) (h : CwyHdr) (a : Nat) (d : Word) (period : Nat) : (State.cwyMirror s h a d period).frame = s.frame := by
  unfold State.cwyMirror
  simp [apply_ite State.frame]

@[simp] theorem State.islLog_frame (s : State) (code : Nat) (a : Nat) (b : Nat) : (State.islLog s code a b).frame = s.frame := by
  unfold State.islLog
  simp

@[simp] theorem State.islSnapStart_frame (s : State) : (State.islSnapStart s).frame = s.frame := by
  unfold State.islSnapStart
  simp [apply_ite State.frame]

@[simp] theorem State.islSnapshot_frame (s : State) (ok : Bool) (first : Nat) : (State.islSnapshot s ok first).frame = s.frame := by
  unfold State.islSnapshot
  (repeat' (split <;> try simp [apply_ite State.frame]))

@[simp] theorem State.islTimeout_frame (s : State) : (State.islTimeout s).frame = s.frame := by
  unfold State.islTimeout
  simp [apply_ite State.frame]

@[simp] theorem State.meterWindow_frame (s : State) (m : IslMeas) : (State.meterWindow s m).frame = s.frame := by
  unfold State.meterWindow
  simp [apply_ite State.frame]

@[simp] theorem State.setPulse_frame (s : State) (o : Bool) (v : IslPulse) : (State.setPulse s o v).frame = s.frame := by
  unfold State.setPulse
  cases o <;> simp

@[simp] theorem State.modeTake_frame (s : State) : (State.modeTake s).frame = s.frame := by
  unfold State.modeTake
  simp [apply_ite State.frame]

@[simp] theorem State.islOwe_frame (s : State) (o : Bool) (e : Int) : (State.islOwe s o e).frame = s.frame := by
  unfold State.islOwe
  simp [apply_ite State.frame]

@[simp] theorem State.meterPulse_frame (s : State) (o : Bool) : (State.meterPulse s o).frame = s.frame := by
  unfold State.meterPulse
  simp [apply_ite State.frame]

@[simp] theorem State.islClock_frame (s : State) (dev : Int) : (State.islClock s dev).frame = s.frame := by
  unfold State.islClock
  simp [apply_ite State.frame]

@[simp] theorem State.islMode_frame (s : State) (m : Nat) : (State.islMode s m).frame = s.frame := by
  unfold State.islMode
  simp [apply_ite State.frame]

@[simp] theorem State.testExpiry_frame (s : State) : (State.testExpiry s).frame = s.frame := by
  unfold State.testExpiry
  simp [apply_ite State.frame]

@[simp] theorem State.calReply_frame (s : State) (cmd : Nat) (idx : Nat) (value : Nat) : (State.calReply s cmd idx value).frame = s.frame := by
  unfold State.calReply
  simp

@[simp] theorem State.calRead_frame (s : State) (staging : Bool) (idx : Nat) (crcOk : Bool) : (State.calRead s staging idx crcOk).frame = s.frame := by
  unfold State.calRead
  simp [apply_ite State.frame]

@[simp] theorem State.islResult_frame (s : State) (refused : Bool) : (State.islResult s refused).frame = s.frame := by
  unfold State.islResult
  simp

@[simp] theorem State.islRefresh_frame (s : State) : (State.islRefresh s).frame = s.frame := by
  unfold State.islRefresh
  simp [apply_ite State.frame]

@[simp] theorem State.islLoadLog_frame (s : State) (arg : Nat) : (State.islLoadLog s arg).frame = s.frame := by
  unfold State.islLoadLog
  (repeat' split) <;> simp

@[simp] theorem State.islAck_frame (s : State) : (State.islAck s).frame = s.frame := by
  unfold State.islAck
  simp [apply_ite State.frame]

@[simp] theorem State.islTest_frame (s : State) (arg : Nat) : (State.islTest s arg).frame = s.frame := by
  unfold State.islTest
  simp [apply_ite State.frame]

@[simp] theorem State.islCmd_frame (s : State) (w : Word) : (State.islCmd s w).frame = s.frame := by
  unfold State.islCmd
  (repeat' split) <;> simp

@[simp] theorem State.setMoving_frame (s : State) (d : Nat) (v : Nat) : (State.setMoving s d v).frame = s.frame := by
  unfold State.setMoving
  simp

@[simp] theorem State.pdRefuse_frame (s : State) (d : Nat) : (State.pdRefuse s d).frame = s.frame := by
  unfold State.pdRefuse
  simp [apply_ite State.frame]

@[simp] theorem State.pdOff1_frame (s : State) (d : Nat) : (State.pdOff1 s d).frame = s.frame := by
  unfold State.pdOff1
  simp [apply_ite State.frame]

@[simp] theorem State.pdOn1_frame (s : State) (d : Nat) : (State.pdOn1 s d).frame = s.frame := by
  unfold State.pdOn1
  simp [apply_ite State.frame]

@[simp] theorem State.pdmOffWrite_frame (s : State) (w : Word) : (State.pdmOffWrite s w).frame = s.frame := by
  unfold State.pdmOffWrite
  simp

@[simp] theorem State.pdmOnWrite_frame (s : State) (w : Word) : (State.pdmOnWrite s w).frame = s.frame := by
  unfold State.pdmOnWrite
  simp

@[simp] theorem State.pdOffDone_frame (s : State) (d : Nat) : (State.pdOffDone s d).frame = s.frame := by
  unfold State.pdOffDone
  simp [apply_ite State.frame]

@[simp] theorem State.resetBlocks_frame (s : State) (bs : List Nat) : (State.resetBlocks s bs).frame = s.frame := by
  unfold State.resetBlocks
  simp

@[simp] theorem State.dramTrained_frame (s : State) : (State.dramTrained s).frame = s.frame := by
  unfold State.dramTrained
  simp [apply_ite State.frame]

@[simp] theorem State.pdWake14_frame (s : State) : (State.pdWake14 s).frame = s.frame := by
  unfold State.pdWake14
  simp [apply_ite State.frame]

@[simp] theorem State.canWake_frame (s : State) (k : Nat) (w : WakeSeen) : (State.canWake s k w).frame = s.frame := by
  unfold State.canWake
  (repeat' split) <;> simp

@[simp] theorem State.irqTake_frame (s : State) (p : Nat) (sup : Bool) : (State.irqTake s p sup).frame = s.frame := by
  unfold State.irqTake
  simp [apply_ite State.frame]

@[simp] theorem State.irqBack_frame (s : State) (p : Nat) (sup : Bool) : (State.irqBack s p sup).frame = s.frame := by
  unfold State.irqBack
  simp [apply_ite State.frame]

@[simp] theorem State.irqClaim_frame (s : State) (p : Nat) (sup : Bool) : (State.irqClaim s p sup).1.frame = s.frame := by
  unfold State.irqClaim
  (repeat' split) <;> simp

@[simp] theorem State.irqComplete_frame (s : State) (p : Nat) (sup : Bool) (w : Word) : (State.irqComplete s p sup w).frame = s.frame := by
  unfold State.irqComplete
  simp [apply_ite State.frame]

@[simp] theorem State.swiSet_frame (s : State) (w : Word) : (State.swiSet s w).frame = s.frame := by
  unfold State.swiSet
  simp

@[simp] theorem State.lockstepMismatch_frame (s : State) (p : Nat) : (State.lockstepMismatch s p).frame = s.frame := by
  unfold State.lockstepMismatch
  simp [apply_ite State.frame]

@[simp] theorem State.cpRestart_frame (s : State) (who : Initiator) (p : Nat) : (State.cpRestart s who p).frame = s.frame := by
  unfold State.cpRestart
  (repeat' (split <;> try simp [apply_ite State.frame]))

@[simp] theorem State.eccAddr_frame (s : State) (a : Nat) : (State.eccAddr s a).frame = s.frame := by
  unfold State.eccAddr
  simp [apply_ite State.frame]

@[simp] theorem State.eccCorrected_frame (s : State) (a : Nat) : (State.eccCorrected s a).frame = s.frame := by
  unfold State.eccCorrected
  simp

@[simp] theorem State.jtag_frame (s : State) (i : Tap) : (State.jtag s i).frame = s.frame := by
  unfold State.jtag
  simp

@[simp] theorem State.dbgLevelWrite_frame (s : State) (w : Word) : (State.dbgLevelWrite s w).frame = s.frame := by
  unfold State.dbgLevelWrite
  simp [apply_ite State.frame]

@[simp] theorem State.debugHalt_frame (s : State) (p : Nat) : (State.debugHalt s p).frame = s.frame := by
  unfold State.debugHalt
  simp [apply_ite State.frame]

@[simp] theorem State.debugStep_frame (s : State) (p : Nat) : (State.debugStep s p).frame = s.frame := by
  unfold State.debugStep
  simp [apply_ite State.frame]

@[simp] theorem State.debugResume_frame (s : State) (p : Nat) : (State.debugResume s p).frame = s.frame := by
  unfold State.debugResume
  simp [apply_ite State.frame]

@[simp] theorem State.forceWrite_frame (s : State) (who : Initiator) (k : Nat) (w : Word) : (State.forceWrite s who k w).frame = s.frame := by
  unfold State.forceWrite
  simp [apply_ite State.frame]

@[simp] theorem State.settle_frame (s : State) : (State.settle s).frame = s.frame := by
  unfold State.settle
  simp [apply_ite State.frame]

@[simp] theorem State.loadWord_frame (s : State) (a : Nat) (w : Word) : (State.loadWord s a w).frame = s.frame := by
  unfold State.loadWord
  (repeat' split) <;> simp

@[simp] theorem State.setBoot_frame (s : State) (b : BootSt) : (State.setBoot s b).frame = s.frame := by
  unfold State.setBoot
  simp

@[simp] theorem State.setPhase_frame (s : State) (p : Nat) : (State.setPhase s p).frame = s.frame := by
  unfold State.setPhase
  simp

@[simp] theorem State.setSysSt_frame (s : State) (v : Nat) : (State.setSysSt s v).frame = s.frame := by
  unfold State.setSysSt
  simp

@[simp] theorem State.flashCut_frame (s : State) : (State.flashCut s).frame = s.frame := by
  unfold State.flashCut
  (repeat' (split <;> try simp [apply_ite State.frame]))

@[simp] theorem State.tapReset_frame (s : State) : (State.tapReset s).frame = s.frame := by
  unfold State.tapReset
  simp

@[simp] theorem State.setPresent_frame (s : State) : (State.setPresent s).frame = s.frame := by
  unfold State.setPresent
  simp [apply_ite State.frame]

@[simp] theorem State.takePair_frame (s : State) : (State.takePair s).frame = s.frame := by
  unfold State.takePair
  (repeat' split) <;> simp

@[simp] theorem State.takeBank_frame (s : State) : (State.takeBank s).frame = s.frame := by
  unfold State.takeBank
  (repeat' split) <;> simp [apply_ite State.frame]

@[simp] theorem State.copyReg_frame (s : State) (f : Nat → Nat) (a : Nat) (b : Nat) : (State.copyReg s f a b).frame = s.frame := by
  unfold State.copyReg
  simp

@[simp] theorem State.useLeg_frame (s : State) (j : Nat) : (State.useLeg s j).frame = s.frame := by
  unfold State.useLeg
  simp [apply_ite State.frame]

@[simp] theorem State.useLink_frame (s : State) (j : Nat) : (State.useLink s j).frame = s.frame := by
  unfold State.useLink
  simp [apply_ite State.frame]

@[simp] theorem State.chainStart_frame (s : State) (i : Nat) : (State.chainStart s i).frame = s.frame := by
  unfold State.chainStart
  simp [apply_ite State.frame]

@[simp] theorem State.linkStart_frame (s : State) (l : Nat) : (State.linkStart s l).frame = s.frame := by
  unfold State.linkStart
  simp [apply_ite State.frame]

@[simp] theorem State.twinLoaded_frame (s : State) (crc : Nat) : (State.twinLoaded s crc).frame = s.frame := by
  unfold State.twinLoaded
  simp [apply_ite State.frame]

@[simp] theorem State.takeGrace_frame (s : State) (i : ReleaseIn) : (State.takeGrace s i).frame = s.frame := by
  unfold State.takeGrace
  simp

@[simp] theorem State.loadDone_frame (s : State) (c : Nat) : (State.loadDone s c).frame = s.frame := by
  unfold State.loadDone
  extract_lets h crc safety src s19 s18 s17 s16 s15 s14 s13 s12 s11 s10 s9 s8 act src2 s7 s6 s5 s4 s3 s2 s1 s0
  have e19 : s19.frame = s.frame := State.setBoot_frame ..
  have e18 : s18.frame = s19.frame := ((State.wr_frame ..).trans (State.wrF_frame ..)).trans (State.wrF_frame ..)
  have e17 : s17.frame = s18.frame := (State.wr_frame ..).trans (State.wr_frame ..)
  have e16 : s16.frame = s17.frame := State.wr_frame ..
  have e15 : s15.frame = s16.frame := State.wrF_frame ..
  have e14 : s14.frame = s15.frame := State.wrF_frame ..
  have e13 : s13.frame = s14.frame := by
    apply each_frame; intro s i; split
    · exact State.wr_frame ..
    · rfl
  have e12 : s12.frame = s13.frame := (each_frame _ _ _ State.useLink_frame).trans (each_frame _ _ _ State.useLeg_frame)
  have e11 : s11.frame = s12.frame := State.wearJudge_frame ..
  have e10 : s10.frame = s11.frame := each_frame _ _ _ (fun s i => State.pmuMark_frame ..)
  have e9 : s9.frame = s10.frame := State.wrF_frame ..
  have e8 : s8.frame = s9.frame := each_frame _ _ _ State.gfeTake_frame
  have e7 : s7.frame = s8.frame := (mk_frame ..).trans (frame_fold _)
  have e6 : s6.frame = s7.frame := State.timeIncWrite_frame ..
  have e5 : s5.frame = s6.frame := each_frame _ _ _ State.canTscLoad_frame
  have e4 : s4.frame = s5.frame := State.twinLoaded_frame ..
  have e3 : s3.frame = s4.frame := each_frame _ _ _ State.chainStart_frame
  have e2 : s2.frame = s3.frame := each_frame _ _ _ State.linkStart_frame
  have e1 : s1.frame = s2.frame := each_frame _ _ _ (fun s i => State.setSlice_frame ..)
  have e0 : s0.frame = s1.frame := each_frame _ _ _ (fun s i => State.setLeg_frame ..)
  clear_value s19 s18 s17 s16 s15 s14 s13 s12 s11 s10 s9 s8 s7 s6 s5 s4 s3 s2 s1 s0
  rw [State.hold_frame, e0, e1, e2, e3, e4, e5, e6, e7, e8, e9, e10, e11, e12, e13, e14, e15, e16, e17, e18, e19]

@[simp] theorem State.testCal_frame (s : State) (k : Nat) (r : Int × Nat) : (State.testCal s k r).1.frame = s.frame := by
  unfold State.testCal
  simp

theorem State.absorb_frame (s s' : State) (f : SelfFail) (h : State.absorb s f = some s') : s'.frame = s.frame := by
  unfold State.absorb at h
  split at h
  · split at h <;> simp at h; subst h; simp
  · split at h <;> simp at h; subst h; simp
  · simp at h; subst h; simp
  · split at h <;> simp at h; subst h; simp
  · simp at h

theorem State.absorbAll_frame (s s' : State) (fs : List SelfFail) (h : s.absorbAll fs = some s') : s'.frame = s.frame := by
  induction fs generalizing s with
  | nil => simp [State.absorbAll] at h; rw [h]
  | cons f fs ih =>
    unfold State.absorbAll at h
    split at h
    · next s1 h1 => rw [ih _ h, State.absorb_frame _ _ _ h1]
    · simp at h

@[simp] theorem State.testSpared_frame (s : State) (t : Nat) : (State.testSpared s t).frame = s.frame := by
  unfold State.testSpared
  simp

@[simp] theorem State.selfTest1_frame (s : State) (i : ReleaseIn) (t : Nat) : (State.selfTest1 s i t).1.frame = s.frame := by
  have hc : ∀ (l : List Nat) (a : State × Bool), ((l.foldl (fun (a : State × Bool) k =>
      ((a.1.testCal k (nth (0, 32768) i.cal k)).1, a.2 || (a.1.testCal k (nth (0, 32768) i.cal k)).2)) a).1).frame = a.1.frame := by
    intro l
    induction l with
    | nil => intro a; rfl
    | cons k l ih => intro a; rw [List.foldl_cons, ih, State.testCal_frame]
  unfold State.selfTest1
  split
  · rfl
  · extract_lets s1 r fs
    have e1 : s1.frame = s.frame := State.goto_frame ..
    have e2 : r.1.frame = s1.frame := by
      simp only [r]
      split
      · exact hc _ _
      · rfl
    clear_value r
    split
    · simp [e1, e2]
    · next s' h =>
      have e3 := State.absorbAll_frame _ _ _ h
      clear h
      simp only []
      rw [← e1, ← e2, ← e3]
      (repeat' split) <;> simp
      all_goals (split <;> simp)

@[simp] theorem State.selfTests_frame (s : State) (i : ReleaseIn) (n t : Nat) : (s.selfTests i n t).1.frame = s.frame := by
  induction n generalizing s t with
  | zero => rfl
  | succ n ih =>
    unfold State.selfTests
    simp only []
    split <;> simp [ih]

@[simp] theorem State.runEntry_frame (s : State) : (State.runEntry s).frame = s.frame := by
  unfold State.runEntry
  simp [apply_ite State.frame]

@[simp] theorem State.harbour_frame (s : State) (cause : Nat) : (State.harbour s cause).frame = s.frame := by
  unfold State.harbour
  simp [apply_ite State.frame]

@[simp] theorem State.testPhase_frame (s : State) (i : ReleaseIn) : (State.testPhase s i).frame = s.frame := by
  unfold State.testPhase
  simp only []
  split <;> simp

@[simp] theorem State.bootResult_frame (s : State) (c : Nat) (code : Nat) : (State.bootResult s c code).frame = s.frame := by
  unfold State.bootResult
  simp

@[simp] theorem State.flashCmd_frame (s : State) (op : Nat) : (State.flashCmd s op).frame = s.frame := by
  unfold State.flashCmd
  simp [apply_ite State.frame]

@[simp] theorem State.flashFill_frame (s : State) (bs : List Byte) : (State.flashFill s bs).frame = s.frame := by
  unfold State.flashFill
  simp

@[simp] theorem State.flashDone_frame (s : State) (ok : Bool) : (State.flashDone s ok).frame = s.frame := by
  unfold State.flashDone
  (repeat' split) <;> simp

@[simp] theorem State.otpAdvance_frame (s : State) : (State.otpAdvance s).frame = s.frame := by
  unfold State.otpAdvance
  simp [apply_ite State.frame]

@[simp] theorem State.otpRevoke_frame (s : State) (k : Nat) : (State.otpRevoke s k).frame = s.frame := by
  unfold State.otpRevoke
  simp [apply_ite State.frame]

@[simp] theorem State.otpCmd_frame (s : State) (w : Word) : (State.otpCmd s w).frame = s.frame := by
  unfold State.otpCmd
  simp [apply_ite State.frame]

@[simp] theorem State.setIom_frame (s : State) (v : IomSt) : (State.setIom s v).frame = s.frame := by
  unfold State.setIom
  simp

@[simp] theorem State.translate_frame (s : State) (dom : Nat) (iova : Nat) (write : Bool) : (State.translate s dom iova write).1.frame = s.frame := by
  unfold State.translate
  (repeat' (split <;> try simp))

@[simp] theorem State.iomFault_frame (s : State) (f : IomFault) : (State.iomFault s f).frame = s.frame := by
  unfold State.iomFault
  simp [apply_ite State.frame]

@[simp] theorem State.iomPop_frame (s : State) : (State.iomPop s).frame = s.frame := by
  unfold State.iomPop
  simp

@[simp] theorem State.iomInvalidate_frame (s : State) (w : Word) : (State.iomInvalidate s w).frame = s.frame := by
  unfold State.iomInvalidate
  simp [apply_ite State.frame]

@[simp] theorem State.iomInvDone_frame (s : State) : (State.iomInvDone s).frame = s.frame := by
  unfold State.iomInvDone
  (repeat' split) <;> simp

@[simp] theorem State.setFq_frame (s : State) (q : Nat) (v : FryQ) : (State.setFq s q v).frame = s.frame := by
  unfold State.setFq
  simp

@[simp] theorem State.setFqState_frame (s : State) (q : Nat) (v : Nat) : (State.setFqState s q v).frame = s.frame := by
  unfold State.setFqState
  simp

@[simp] theorem State.fqEvent_frame (s : State) (q : Nat) (code : Nat) (irq : Bool) : (State.fqEvent s q code irq).frame = s.frame := by
  unfold State.fqEvent
  simp

@[simp] theorem State.ferryGo_frame (s : State) (q : Nat) : (State.ferryGo s q).frame = s.frame := by
  unfold State.ferryGo
  simp [apply_ite State.frame]

@[simp] theorem State.ferryResume_frame (s : State) (q : Nat) : (State.ferryResume s q).frame = s.frame := by
  unfold State.ferryResume
  simp [apply_ite State.frame]

@[simp] theorem State.seqStart_frame (s : State) (n : Nat) : (State.seqStart s n).frame = s.frame := by
  unfold State.seqStart
  simp [apply_ite State.frame]

@[simp] theorem State.seqStop_frame (s : State) (n : Nat) : (State.seqStop s n).frame = s.frame := by
  unfold State.seqStop
  simp [apply_ite State.frame]

@[simp] theorem State.seqCtrlWrite_frame (s : State) (n : Nat) (w : Word) : (State.seqCtrlWrite s n w).frame = s.frame := by
  unfold State.seqCtrlWrite
  simp [apply_ite State.frame]

@[simp] theorem State.stepEnds_frame (s : State) (n : Nat) (x : Nat) : (State.stepEnds s n x).frame = s.frame := by
  unfold State.stepEnds
  simp

@[simp] theorem State.stepDone_frame (s : State) (n : Nat) (own : Nat) : (State.stepDone s n own).frame = s.frame := by
  unfold State.stepDone
  simp

@[simp] theorem State.closeStep_frame (s : State) (n : Nat) : (State.closeStep s n).frame = s.frame := by
  unfold State.closeStep
  simp [apply_ite State.frame]

@[simp] theorem State.vecStep_frame (s : State) (n : Nat) : (State.vecStep s n).frame = s.frame := by
  unfold State.vecStep
  simp [apply_ite State.frame]

@[simp] theorem State.groupRun_frame (s : State) (n : Nat) (x : Nat) (corr : Nat) (bad : List (Nat × Option Nat)) : (State.groupRun s n x corr bad).frame = s.frame := by
  unfold State.groupRun
  simp

@[simp] theorem State.groupStep_frame (s : State) (n : Nat) (corr : Nat) (bad : List (Nat × Option Nat)) : (State.groupStep s n corr bad).frame = s.frame := by
  unfold State.groupStep
  simp [apply_ite State.frame]

@[simp] theorem State.groupGrant_frame (s : State) (corr : Nat) (bad : List (Nat × Option Nat)) : (State.groupGrant s corr bad).frame = s.frame := by
  unfold State.groupGrant
  (repeat' split) <;> simp [apply_ite State.frame]

@[simp] theorem State.gfeSeqStep_frame (s : State) (n : Nat) : (State.gfeSeqStep s n).frame = s.frame := by
  unfold State.gfeSeqStep
  simp [apply_ite State.frame]

@[simp] theorem State.modSeqStep_frame (s : State) (n : Nat) : (State.modSeqStep s n).frame = s.frame := by
  unfold State.modSeqStep
  simp [apply_ite State.frame]

@[simp] theorem State.commitSeqStep_frame (s : State) (n : Nat) : (State.commitSeqStep s n).frame = s.frame := by
  unfold State.commitSeqStep
  simp [apply_ite State.frame]

@[simp] theorem State.emitSeqStep_frame (s : State) (n : Nat) : (State.emitSeqStep s n).frame = s.frame := by
  unfold State.emitSeqStep
  simp [apply_ite State.frame]

@[simp] theorem State.postSeqStep_frame (s : State) (n : Nat) : (State.postSeqStep s n).frame = s.frame := by
  unfold State.postSeqStep
  simp [apply_ite State.frame]

@[simp] theorem State.callStep_frame (s : State) (n : Nat) : (State.callStep s n).frame = s.frame := by
  unfold State.callStep
  simp [apply_ite State.frame]

@[simp] theorem State.callEnds_frame (s : State) (n : Nat) (x : Nat) : (State.callEnds s n x).frame = s.frame := by
  unfold State.callEnds
  simp

@[simp] theorem State.coreTimeout_frame (s : State) (n : Nat) : (State.coreTimeout s n).frame = s.frame := by
  unfold State.coreTimeout
  (repeat' split) <;> simp [apply_ite State.frame]

@[simp] theorem State.timeoutUndo_frame (s : State) (n : Nat) : (State.timeoutUndo s n).frame = s.frame := by
  unfold State.timeoutUndo
  simp

@[simp] theorem State.coreDone_frame (s : State) (who : Initiator) (n : Nat) : (State.coreDone s who n).frame = s.frame := by
  unfold State.coreDone
  dsimp only
  (repeat' split) <;> first | rfl | simp [apply_ite State.frame] | simp_all [apply_ite State.frame]

@[simp] theorem State.waitStep_frame (s : State) (n : Nat) : (State.waitStep s n).frame = s.frame := by
  unfold State.waitStep
  simp [apply_ite State.frame]

@[simp] theorem State.waitEnd_frame (s : State) (n : Nat) : (State.waitEnd s n).frame = s.frame := by
  unfold State.waitEnd
  (repeat' split) <;> simp

@[simp] theorem State.endStep_frame (s : State) (n : Nat) : (State.endStep s n).frame = s.frame := by
  unfold State.endStep
  simp [apply_ite State.frame]

@[simp] theorem State.signalWrite_frame (s : State) (who : Initiator) (i : Nat) (v : Word) (q : Qual) : (State.signalWrite s who i v q).frame = s.frame := by
  unfold State.signalWrite
  simp [apply_ite State.frame]

@[simp] theorem State.eachBit_frame (s : State) (w : Word) (n : Nat) (f : State → Nat → State) (h : ∀ s i, (f s i).frame = s.frame) : (State.eachBit s w n f).frame = s.frame := by
  unfold State.eachBit
  exact each_frame _ _ _ h

@[simp] theorem State.coreDoneWrite_frame (s : State) (who : Option Initiator) (n : Nat) (w : Word) : (State.coreDoneWrite s who n w).frame = s.frame := by
  unfold State.coreDoneWrite
  (repeat' split) <;> simp

@[simp] theorem State.subWrite_frame (s : State) (j : Nat) (w : Word) : (State.subWrite s j w).frame = s.frame := by
  unfold State.subWrite
  simp [apply_ite State.frame]

@[simp] theorem State.pairCtrlWrite_frame (s : State) (p : Nat) (w : Word) : (State.pairCtrlWrite s p w).frame = s.frame := by
  unfold State.pairCtrlWrite
  simp [apply_ite State.frame]

@[simp] theorem State.sarCtrlWrite_frame (s : State) (k : Nat) (w : Word) : (State.sarCtrlWrite s k w).frame = s.frame := by
  unfold State.sarCtrlWrite
  simp [apply_ite State.frame]

@[simp] theorem State.sndCtrlWrite_frame (s : State) (w : Word) : (State.sndCtrlWrite s w).frame = s.frame := by
  unfold State.sndCtrlWrite
  simp [apply_ite State.frame]

@[simp] theorem State.dischCtrlWrite_frame (s : State) (n : Nat) (w : Word) : (State.dischCtrlWrite s n w).frame = s.frame := by
  unfold State.dischCtrlWrite
  simp [apply_ite State.frame]

@[simp] theorem State.auxBusStatusWrite_frame (s : State) (w : Word) : (State.auxBusStatusWrite s w).frame = s.frame := by
  unfold State.auxBusStatusWrite
  simp [apply_ite State.frame]

@[simp] theorem State.canCtrlWrite_frame (s : State) (k : Nat) (w : Word) : (State.canCtrlWrite s k w).frame = s.frame := by
  unfold State.canCtrlWrite
  simp [apply_ite State.frame]

@[simp] theorem State.cpCtrlWrite_frame (s : State) (who : Option Initiator) (p : Nat) (w : Word) : (State.cpCtrlWrite s who p w).frame = s.frame := by
  unfold State.cpCtrlWrite
  (repeat' split) <;> simp

@[simp] theorem State.dbgForceWrite_frame (s : State) (who : Option Initiator) (k : Nat) (w : Word) : (State.dbgForceWrite s who k w).frame = s.frame := by
  unfold State.dbgForceWrite
  (repeat' split) <;> simp

@[simp] theorem State.fqCfgWrite_frame (s : State) (q : Nat) (w : Word) : (State.fqCfgWrite s q w).frame = s.frame := by
  unfold State.fqCfgWrite
  simp [apply_ite State.frame]

@[simp] theorem State.pmuSelWrite_frame (s : State) (i : Nat) (w : Word) : (State.pmuSelWrite s i w).frame = s.frame := by
  unfold State.pmuSelWrite
  simp

@[simp] theorem State.ceWordWrite_frame (s : State) (i : Nat) (w : Word) : (State.ceWordWrite s i w).frame = s.frame := by
  unfold State.ceWordWrite
  simp

@[simp] theorem State.vecWordWrite_frame (s : State) (i : Nat) (w : Word) : (State.vecWordWrite s i w).frame = s.frame := by
  unfold State.vecWordWrite
  simp [apply_ite State.frame]

@[simp] theorem State.gfeWordWrite_frame (s : State) (i : Nat) (w : Word) : (State.gfeWordWrite s i w).frame = s.frame := by
  unfold State.gfeWordWrite
  simp [apply_ite State.frame]

@[simp] theorem State.regRead_frame (s : State) (who : Initiator) (a : Nat) : (State.regRead s who a).1.frame = s.frame := by
  unfold State.regRead
  (repeat' (split <;> try simp [apply_ite State.frame]))

@[simp] theorem State.soonDo_frame (s : State) (e : Soon) : (State.soonDo s e).frame = s.frame := by
  cases e <;> simp [State.soonDo]

@[simp] theorem State.arriveN_frame (k : Nat) (s : State) (t : Nat) : (State.arriveN k s t).frame = s.frame := by
  induction k generalizing s with
  | zero => rfl
  | succ k ih =>
    unfold State.arriveN
    (repeat' split) <;> first | rfl | (rw [ih, State.soonDo_frame, State.goto_frame]; exact (mk_frame ..).trans (frame_fold _))

@[simp] theorem State.arrive_frame (s : State) (t : Nat) : (State.arrive s t).frame = s.frame := State.arriveN_frame ..

@[simp] theorem State.upTo_frame (s : State) (t : Nat) : (State.upTo s t).frame = s.frame := by
  unfold State.upTo
  simp

@[simp] theorem State.inDomain_frame (s : State) (d : Nat) (f : State → State) (h : (f s).frame = s.frame) : (State.inDomain s d f).frame = s.frame := by
  unfold State.inDomain; split
  · exact h
  · rfl

@[simp] theorem State.uliQueue_frame (s : State) (v : UliVia) (m : List Byte) : (State.uliQueue s v m).frame = s.frame := by
  unfold State.uliQueue
  simp [apply_ite State.frame]

@[simp] theorem State.uliRequest_frame (s : State) (v : UliVia) (bs : List Byte) : (State.uliRequest s v bs).frame = s.frame := by
  unfold State.uliRequest
  (repeat' (split <;> try simp [apply_ite State.frame]))

@[simp] theorem State.uliOpen_frame (s : State) (point : Nat) (status : Nat) : (State.uliOpen s point status).1.frame = s.frame := by
  unfold State.uliOpen
  simp

@[simp] theorem State.uliReadReg_frame (s : State) (p : Nat) (a : Nat) : (State.uliReadReg s p a).1.frame = s.frame := by
  unfold State.uliReadReg
  (repeat' split) <;> simp

@[simp] theorem State.uliReadRec_frame (s : State) (p : Nat) (c : Nat) (item : Nat) : (State.uliReadRec s p c item).1.frame = s.frame := by
  unfold State.uliReadRec
  (repeat' (split <;> try simp))

@[simp] theorem State.uliReadPoint_frame (s : State) (p : Nat) : (State.uliReadPoint s p).1.frame = s.frame := by
  have h : ∀ (a : State) (b : List Byte), (a, b).1.frame = a.frame := fun _ _ => rfl
  unfold State.uliReadPoint
  split
  · exact State.uliReadReg_frame ..
  · generalize hr : State.regRead s Initiator.ulile (0x47000000 + 4 * (p - 0x820100)) = r
    have e : r.1.frame = s.frame := by rw [← hr]; exact State.regRead_frame s .ulile _
    clear hr
    extract_lets +onlyGivenNames m q
    clear_value m q
    split; · exact h _ _
    split; · exact State.uliReadRec_frame ..
    split; · exact h _ _
    split
    · exact (h r.1 _).trans e
    · exact State.uliOpen_frame ..

@[simp] theorem State.uliReply_frame (s : State) (r : UliReq) (out : List Byte) : (State.uliReply s r out).frame = s.frame := by
  unfold State.uliReply
  simp

@[simp] theorem State.canDeliver_frame (s : State) (k : Nat) (stamp : Nat) (f : CanFrame) : (State.canDeliver s k stamp f).frame = s.frame := by
  unfold State.canDeliver
  simp [apply_ite State.frame]

@[simp] theorem State.canReceive_frame (s : State) (k : Nat) (sof : Nat) (f : CanFrame) : (State.canReceive s k sof f).frame = s.frame := by
  unfold State.canReceive
  simp [apply_ite State.frame]

@[simp] theorem State.canSent_frame (s : State) (k : Nat) (tdc : Nat) : (State.canSent s k tdc).frame = s.frame := by
  unfold State.canSent
  (repeat' split) <;> simp

@[simp] theorem State.sourcesBack_frame (s : State) (n : Nat) : (State.sourcesBack s n).frame = s.frame := by
  unfold State.sourcesBack
  simp

@[simp] theorem State.keepTake_frame (s : State) (n : Nat) : (State.keepTake s n).frame = s.frame := by
  unfold State.keepTake
  simp

@[simp] theorem State.sndBack_frame (s : State) (k : KeepSt) : (State.sndBack s k).frame = s.frame := by
  unfold State.sndBack
  simp

@[simp] theorem State.keepBack_frame (s : State) (n : Nat) : (State.keepBack s n).frame = s.frame := by
  unfold State.keepBack
  dsimp only
  (repeat' split) <;> first | rfl | simp [apply_ite State.frame] | simp_all [apply_ite State.frame]

@[simp] theorem State.fillClear_frame (s : State) (n : Nat) : (State.fillClear s n).frame = s.frame := by
  unfold State.fillClear
  simp

@[simp] theorem State.fillSwap_frame (s : State) (n : Nat) : (State.fillSwap s n).frame = s.frame := by
  unfold State.fillSwap
  dsimp only
  rw [each_frame _ _ _ State.commonSwap_frame, State.fillClear_frame, each_frame]
  intro s i; split <;> simp

@[simp] theorem State.fillDrop_frame (s : State) (n : Nat) : (State.fillDrop s n).frame = s.frame := by
  unfold State.fillDrop
  simp

@[simp] theorem State.deviceSignals_frame (s : State) (n : Nat) : (State.deviceSignals s n).frame = s.frame := by
  unfold State.deviceSignals
  simp

@[simp] theorem State.periodOk_frame (s : State) (n : Nat) : (State.periodOk s n).frame = s.frame := by
  unfold State.periodOk
  simp [apply_ite State.frame]

@[simp] theorem State.periodLate_frame (s : State) (n : Nat) : (State.periodLate s n).frame = s.frame := by
  unfold State.periodLate
  simp [apply_ite State.frame]

@[simp] theorem State.periodStart_frame (s : State) (n : Nat) (first : Bool) : (State.periodStart s n first).frame = s.frame := by
  unfold State.periodStart
  simp [apply_ite State.frame]

@[simp] theorem State.periodStop_frame (s : State) (n : Nat) : (State.periodStop s n).frame = s.frame := by
  unfold State.periodStop
  simp

@[simp] theorem State.sampleAll_frame (s : State) (n : Nat) : (State.sampleAll s n).frame = s.frame := by
  unfold State.sampleAll
  simp [apply_ite State.frame]

@[simp] theorem State.fqLosers_frame (s : State) (q : Nat) : (State.fqLosers s q).frame = s.frame := by
  unfold State.fqLosers
  simp

@[simp] theorem State.fqTakeFrame_frame (s : State) (q : Nat) : (State.fqTakeFrame s q).frame = s.frame := by
  unfold State.fqTakeFrame
  (repeat' split) <;> simp

@[simp] theorem State.withFetchWord_frame (s : State) (nbits : Nat) (w : Nat) : (State.withFetchWord s nbits w).frame = s.frame := by
  unfold State.withFetchWord
  rfl

end Sys2Proof.Machine
end

