-- ==== Sys2Proof/Laws/Tab.lean ====
section
/-! SUPPORT. The laws of sparse tables: a read after a write, and that every operation keeps the canonical form. -/

namespace Sys2Proof.Machine

variable {α : Type}

theorem tabFind_drop_ne (t : Tab α) (k j : Nat) (h : j ≠ k) : tabFind (tabDrop t k) j = tabFind t j := by
  induction t with
  | nil => rfl
  | cons x xs ih =>
    simp only [tabDrop]
    split
    · rename_i e; rw [ih]; simp only [tabFind]; split <;> first | omega | rfl
    · simp [tabFind, ih]

theorem tabFind_put_same (t : Tab α) (k : Nat) (v : α) : tabFind (tabPut t k v) k = some v := by
  induction t with
  | nil => simp [tabPut, tabFind]
  | cons x xs ih =>
    simp only [tabPut]
    split
    · simp [tabFind]
    · split
      · simp [tabFind]
      · simp [tabFind, ih]; intro e; omega

theorem tabFind_put_ne (t : Tab α) (k j : Nat) (v : α) (h : j ≠ k) : tabFind (tabPut t k v) j = tabFind t j := by
  induction t with
  | nil => simp [tabPut, tabFind]; omega
  | cons x xs ih =>
    simp only [tabPut]
    split
    · simp [tabFind]; intro e; omega
    · split
      · rename_i e; simp only [tabFind]; split
        · omega
        · split
          · omega
          · rfl
      · simp [tabFind, ih]

variable [DecidableEq α]

theorem tabWfFrom_mono (d : Nat → α) (t : Tab α) (m n : Nat) (h : m ≤ n) (w : tabWfFrom d n t = true) : tabWfFrom d m t = true := by
  cases t with
  | nil => rfl
  | cons x xs => simp only [tabWfFrom, Bool.and_eq_true, decide_eq_true_eq] at w ⊢; exact ⟨⟨by omega, w.1.2⟩, w.2⟩

theorem tabFind_low (d : Nat → α) (t : Tab α) (n k : Nat) (w : tabWfFrom d n t = true) (h : k < n) : tabFind t k = none := by
  induction t generalizing n with
  | nil => rfl
  | cons x xs ih =>
    simp only [tabWfFrom, Bool.and_eq_true, decide_eq_true_eq] at w
    simp only [tabFind]
    split
    · omega
    · exact ih _ w.2 (by omega)

theorem tabDrop_wfFrom (d : Nat → α) (t : Tab α) (n k : Nat) (w : tabWfFrom d n t = true) : tabWfFrom d n (tabDrop t k) = true := by
  induction t generalizing n with
  | nil => rfl
  | cons x xs ih =>
    simp only [tabWfFrom, Bool.and_eq_true, decide_eq_true_eq] at w
    simp only [tabDrop]
    split
    · exact tabWfFrom_mono _ _ _ _ (by omega) (ih _ w.2)
    · simp only [tabWfFrom, Bool.and_eq_true, decide_eq_true_eq]; exact ⟨w.1, ih _ w.2⟩

theorem tabPut_wfFrom (d : Nat → α) (t : Tab α) (n k : Nat) (v : α) (h : n ≤ k) (hv : v ≠ d k) (w : tabWfFrom d n t = true) :
    tabWfFrom d n (tabPut t k v) = true := by
  induction t generalizing n with
  | nil => simp [tabPut, tabWfFrom, h, hv]
  | cons x xs ih =>
    have w' := w
    simp only [tabWfFrom, Bool.and_eq_true, decide_eq_true_eq] at w
    simp only [tabPut]
    split
    · simp only [tabWfFrom, Bool.and_eq_true, decide_eq_true_eq]
      exact ⟨⟨h, by simpa using hv⟩, ⟨by omega, w.1.2⟩, w.2⟩
    · split
      · rename_i e; subst e; simp [tabWfFrom, h, hv]; exact w.2
      · simp only [tabWfFrom, Bool.and_eq_true, decide_eq_true_eq]
        exact ⟨w.1, ih _ (by omega) w.2⟩

/-- A write keeps the canonical form. -/
theorem tabSet_wf (d : Nat → α) (t : Tab α) (k : Nat) (v : α) (w : tabWf d t = true) : tabWf d (tabSet d t k v) = true := by
  unfold tabSet tabWf
  split
  · exact tabDrop_wfFrom _ _ _ _ w
  · rename_i h; exact tabPut_wfFrom _ _ _ _ _ (by omega) h w

theorem tabFilter_wfFrom (d : Nat → α) (p : Nat × α → Bool) (t : Tab α) (n : Nat) (w : tabWfFrom d n t = true) : tabWfFrom d n (t.filter p) = true := by
  induction t generalizing n with
  | nil => rfl
  | cons x xs ih =>
    simp only [tabWfFrom, Bool.and_eq_true, decide_eq_true_eq] at w
    rw [List.filter_cons]
    split
    · simp only [tabWfFrom, Bool.and_eq_true, decide_eq_true_eq]; exact ⟨w.1, ih _ w.2⟩
    · exact tabWfFrom_mono _ _ _ _ (by omega) (ih _ w.2)

/-- Taking entries out keeps the canonical form. -/
theorem tabFilter_wf (d : Nat → α) (p : Nat × α → Bool) (t : Tab α) (w : tabWf d t = true) : tabWf d (t.filter p) = true :=
  tabFilter_wfFrom d p t 0 w

theorem tabWfFrom_congr (d e : Nat → α) (t : Tab α) (n : Nat) (h : ∀ x ∈ t, d x.1 = e x.1) (w : tabWfFrom d n t = true) : tabWfFrom e n t = true := by
  induction t generalizing n with
  | nil => rfl
  | cons x xs ih =>
    simp only [tabWfFrom, Bool.and_eq_true, decide_eq_true_eq] at w ⊢
    rw [← h x (by simp)]
    exact ⟨w.1, ih _ (fun y hy => h y (by simp [hy])) w.2⟩

theorem tabWf_congr (d e : Nat → α) (t : Tab α) (h : ∀ x ∈ t, d x.1 = e x.1) (w : tabWf d t = true) : tabWf e t = true :=
  tabWfFrom_congr d e t 0 h w

theorem tabFind_drop_same {α : Type} (t : Tab α) (k : Nat) : tabFind (tabDrop t k) k = none := by
  induction t with
  | nil => rfl
  | cons x xs ih =>
    simp only [tabDrop]
    split
    · exact ih
    · simp only [tabFind]; split
      · omega
      · exact ih

/-- What was written is read. -/
@[simp] theorem tabGet_set_same (d : Nat → α) (t : Tab α) (k : Nat) (v : α) : tabGet d (tabSet d t k v) k = v := by
  unfold tabGet tabSet
  split
  · rename_i e; rw [tabFind_drop_same, e]; rfl
  · rw [tabFind_put_same]; rfl

/-- A write leaves every other key alone. -/
theorem tabGet_set_ne (d : Nat → α) (t : Tab α) (k j : Nat) (v : α) (h : j ≠ k) : tabGet d (tabSet d t k v) j = tabGet d t j := by
  unfold tabGet tabSet
  split
  · rw [tabFind_drop_ne _ _ _ h]
  · rw [tabFind_put_ne _ _ _ _ h]

@[simp] theorem tabGet_nil {α : Type} (d : Nat → α) (k : Nat) : tabGet d [] k = d k := rfl

end Sys2Proof.Machine
end

