-- ==== Sys2Proof/Laws/Kept.lean ====
section
/-! SUPPORT. The operations that do touch memory keep its canonical form and leave the rest of the frame; those of the meter and of the
driver boards leave memory. -/

namespace Sys2Proof.Machine

/-- The state agrees with the frame `fr` outside memory, and, where `ask` holds, its memory has the canonical form. -/
def State.okFor (ask : Prop) (fr : Frame) (s : State) : Prop :=
  (ask → Memory.wf s.frame.mem = true) ∧ { s.frame with mem := fr.mem } = fr

variable {ask : Prop} {fr : Frame}

theorem State.okFor_of_eq {s t : State} (h : s.okFor ask fr) (e : t.frame = s.frame) : t.okFor ask fr := by
  unfold State.okFor at *; rw [e]; exact h

theorem each_ok (s : State) (is : List Nat) (f : State → Nat → State) (h : s.okFor ask fr) (hf : ∀ s i, s.okFor ask fr → (f s i).okFor ask fr) : (s.each is f).okFor ask fr := by
  unfold State.each
  induction is generalizing s with
  | nil => exact h
  | cons i is ih => exact ih _ (hf _ _ h)

theorem foldl_ok {α : Type} (s : State) (l : List α) (f : State → α → State) (h : s.okFor ask fr) (hf : ∀ s i, s.okFor ask fr → (f s i).okFor ask fr) : (l.foldl f s).okFor ask fr := by
  induction l generalizing s with
  | nil => exact h
  | cons i is ih => exact ih _ (hf _ _ h)

theorem State.setByte_ok (s : State) (a : Nat) (b : Byte) (h : s.okFor ask fr) : (s.setByte a b).okFor ask fr :=
  ⟨fun hw => tabSet_wf _ _ _ _ (h.1 hw), h.2⟩

theorem State.setBytes_ok (s : State) (a : Nat) (bs : List Byte) (h : s.okFor ask fr) : (s.setBytes a bs).okFor ask fr := by
  induction bs generalizing s a with
  | nil => exact h
  | cons b bs ih => exact ih _ _ (s.setByte_ok a b h)

theorem tabGet_foldl_ne (rs : List Nat) (t : Tab Nat) (e p : Nat) (h : p ∉ rs) :
    tabGet (fun _ => 0) (rs.foldl (fun t r => tabSet (fun _ => 0) t r e) t) p = tabGet (fun _ => 0) t p := by
  induction rs generalizing t with
  | nil => rfl
  | cons r rs ih =>
    rw [List.foldl_cons, ih _ (fun m => h (by simp [m])), tabGet_set_ne _ _ _ _ _ (fun m => h (by simp [m]))]

theorem memDefault_congr (e f : Tab Nat) (a : Nat) (h : tabGet (fun _ => 0) e (memPlace a) = tabGet (fun _ => 0) f (memPlace a)) :
    memDefault e a = memDefault f a := by
  unfold memDefault
  simp only []
  rw [h]

theorem State.loseMemory_ok (s : State) (rs : List Nat) (e : Nat) (h : s.okFor ask fr) : (s.loseMemory rs e).okFor ask fr := by
  refine ⟨fun hw => ?_, h.2⟩
  refine tabWf_congr (memDefault s.mem.epoch) _ _ ?_ (tabFilter_wf _ (fun c => !rs.contains (memPlace c.1)) _ (h.1 hw))
  intro x hx
  have hx' : memPlace x.1 ∉ rs := by
    have := (List.mem_filter.mp hx).2
    simpa using this
  exact memDefault_congr _ _ _ (tabGet_foldl_ne rs s.mem.epoch e _ hx').symm

theorem eccRewrite_ok (s : State) (bad : Tab Bool) (h : s.okFor ask fr) : ({ s with mem := { s.mem with bad := bad } } : State).okFor ask fr := h

theorem State.eccUncorrectable_frame (s : State) (a : Nat) : (s.eccUncorrectable a).frame = s.frame := by
  unfold State.eccUncorrectable
  simp [apply_ite State.frame]

theorem State.eccFound_ok (s : State) (a : Nat) (h : s.okFor ask fr) : (s.eccFound a).okFor ask fr := by
  unfold State.eccFound
  exact State.okFor_of_eq (eccRewrite_ok s _ h) (State.eccUncorrectable_frame ..)

theorem State.eccWrite_ok (s s' : State) (a n : Nat) (e : s.eccWrite a n = some s') (h : s.okFor ask fr) : s'.okFor ask fr := by
  unfold State.eccWrite at e
  simp only [] at e
  split at e
  · simp at e
  · simp at e; subst e; exact h

theorem State.scrubPass_ok (s : State) (c u : List Nat) (h : s.okFor ask fr) : (s.scrubPass c u).okFor ask fr := by
  unfold State.scrubPass
  split
  · exact h
  · exact foldl_ok _ _ _ (State.okFor_of_eq h (foldl_frame _ _ _ State.eccCorrected_frame)) State.eccFound_ok

theorem State.memRead_frame (s : State) (a n : Nat) : (s.memRead a n).1.frame = s.frame := by
  unfold State.memRead
  split
  · rfl
  · split
    · exact State.eccUncorrectable_frame ..
    · rfl

theorem State.memWrite_ok (s : State) (a : Nat) (bs : List Byte) (h : s.okFor ask fr) : (s.memWrite a bs).1.okFor ask fr := by
  unfold State.memWrite
  split
  · exact h
  · exact h
  · split
    · exact State.okFor_of_eq h (State.eccUncorrectable_frame ..)
    · next e => exact State.setBytes_ok _ _ _ (State.eccWrite_ok _ _ _ _ e h)

/-! The recorder. -/

theorem State.capDrain_ok (s : State) (u n : Nat) (h : s.okFor ask fr) : (s.capDrain u n).okFor ask fr := by
  unfold State.capDrain
  simp only []
  exact State.okFor_of_eq (foldl_ok _ _ _ h (fun s r h => s.setBytes_ok _ _ h)) (State.setCap_frame ..)

theorem State.intervalClose_ok (s : State) (u n : Nat) (h : s.okFor ask fr) : (s.intervalClose u n).okFor ask fr := by
  unfold State.intervalClose
  simp only []
  split
  · exact State.okFor_of_eq (s.capDrain_ok u n h) (State.capCloseIv_frame ..)
  · exact s.capDrain_ok u n h

theorem State.slotComplete_ok (s : State) (u : Nat) (h : s.okFor ask fr) : (s.slotComplete u).okFor ask fr := by
  unfold State.slotComplete
  split
  · exact h
  · exact State.okFor_of_eq (State.setBytes_ok _ _ _ (s.capDrain_ok _ _ h)) ((State.raise_frame ..).trans (State.setCap_frame ..))

theorem State.recStop_ok (s : State) (u : Nat) (h : s.okFor ask fr) : (s.recStop u).okFor ask fr := by
  have h' := s.intervalClose_ok u 0 h
  unfold State.recStop
  simp only []
  generalize s.intervalClose u 0 = t at h'
  have e : (if (t.ivLast u && t.ivDue u ((t.clk.now / fabCycle + 1) * fabCycle - 1)) = true then t.capCloseIv u (t.capIv u * 2 ^ t.capH u)
      else t).frame = t.frame := by
    split
    · exact State.capCloseIv_frame ..
    · rfl
  replace h' := State.okFor_of_eq h' e
  generalize (if (t.ivLast u && t.ivDue u ((t.clk.now / fabCycle + 1) * fabCycle - 1)) = true then t.capCloseIv u (t.capIv u * 2 ^ t.capH u)
    else t) = t at h'
  split
  · exact State.okFor_of_eq h' (State.capComplete_frame ..)
  · exact State.okFor_of_eq h' (State.capComplete_frame ..)
  · exact State.okFor_of_eq h' (State.capComplete_frame ..)
  · exact State.okFor_of_eq h' (State.setCapState_frame ..)
  · exact State.okFor_of_eq h' (State.setCapState_frame ..)
  · exact h'

theorem State.capCtrlWrite_ok (s : State) (u : Nat) (w : Word) (h : s.okFor ask fr) : (s.capCtrlWrite u w).okFor ask fr := by
  unfold State.capCtrlWrite
  simp only []
  have h' : (if bitOf w 0 = true then s.recArm u else s).okFor ask fr := by
    split
    · exact State.okFor_of_eq h (State.recArm_frame ..)
    · exact h
  split
  · exact State.recStop_ok _ _ h'
  · exact h'

/-! Power domains. -/

theorem State.pdCleared_ok (s : State) (d : Nat) (h : s.okFor ask fr) : (s.pdCleared d).okFor ask fr := by
  unfold State.pdCleared
  split
  · exact State.okFor_of_eq (s.loseMemory_ok _ _ h) (State.tookFree_frame ..)
  · exact State.okFor_of_eq (s.loseMemory_ok _ _ h) (State.tookFree_frame ..)
  · exact State.okFor_of_eq (s.loseMemory_ok _ _ h) (State.tookFree_frame ..)
  · exact State.okFor_of_eq (s.loseMemory_ok _ _ h) ((mk_frame ..).trans ((frame_fold _).trans (State.tookFree_frame ..)))
  · exact State.okFor_of_eq h ((mk_frame ..).trans ((frame_fold _).trans (State.resetBlocks_frame ..)))
  · exact State.okFor_of_eq h ((mk_frame ..).trans ((frame_fold _).trans (State.resetBlocks_frame ..)))
  · exact h

theorem State.pdOnDone_ok (s : State) (d : Nat) (h : s.okFor ask fr) : (s.pdOnDone d).okFor ask fr := by
  unfold State.pdOnDone
  split
  · exact State.okFor_of_eq (State.pdCleared_ok _ d (State.okFor_of_eq h (State.setMoving_frame ..))) (State.wrB_frame ..)
  · exact h

/-! Boot. -/

theorem State.flashCut_ok (s : State) (h : s.okFor ask fr) : s.flashCut.okFor ask fr := State.okFor_of_eq h (State.flashCut_frame ..)

theorem State.deviceReset_ok (s : State) (bit : Nat) (h : s.okFor ask fr) : (s.deviceReset bit).okFor ask fr := by
  have h0 := s.flashCut_ok h
  unfold State.deviceReset
  extract_lets s0 old cyc cause hist rec_ live r src2 src3 src4 src5 x0 x1 x2 x3 x3' x4
  have e0 : x0.okFor ask fr := State.okFor_of_eq h0 ((mk_frame ..).trans (frame_fold _))
  clear_value x0
  have e1 : x1.okFor ask fr := State.okFor_of_eq (x0.loseMemory_ok _ _ e0) (State.tookFree_frame ..)
  have e2 : x2.okFor ask fr := State.okFor_of_eq e1 (State.wr_frame ..)
  have e3 : x3.okFor ask fr := by
    clear_value x2
    simp only [x3]
    split
    · exact e2
    · exact State.okFor_of_eq e2 (State.wrB_frame ..)
  have e3' : x3'.okFor ask fr := by
    clear_value x3
    simp only [x3']
    split
    · exact e3
    · exact State.okFor_of_eq e3 (State.wrB_frame ..)
  have e4 : x4.okFor ask fr := State.okFor_of_eq e3' ((State.raise_frame ..).trans (State.wr_frame ..))
  exact State.okFor_of_eq e4 (State.wearJudge_frame ..)

theorem State.softReset_ok (s : State) (w : Word) (h : s.okFor ask fr) : (s.softReset w).okFor ask fr := by
  unfold State.softReset
  split
  · exact s.deviceReset_ok _ h
  · exact h

theorem State.debugReset_ok (s : State) (h : s.okFor ask fr) : s.debugReset.okFor ask fr := by
  unfold State.debugReset
  split
  · exact s.deviceReset_ok _ h
  · exact h

theorem State.loadSection_ok (s : State) (c : Nat) (x : Section) (h : s.okFor ask fr) : (s.loadSection c x).okFor ask fr := by
  unfold State.loadSection
  extract_lets bs recs
  have hr : ∀ (s : State) bs, (recs s bs).frame = s.frame := fun s bs => foldl_frame _ _ _ (fun s r => State.loadWord_frame ..)
  clear_value recs
  split
  · exact State.okFor_of_eq h (hr _ _)
  · exact eccRewrite_ok _ _ (State.setBytes_ok _ _ _ h)
  · exact State.okFor_of_eq h ((mk_frame ..).trans (frame_fold _))
  · exact State.okFor_of_eq h ((hr _ _).trans (State.setBoot_frame ..))

theorem State.loadSections_ok (s : State) (c : Nat) (xs : List Section) (rs : List (Nat × Nat)) (h : s.okFor ask fr) : (s.loadSections c xs rs).1.okFor ask fr := by
  induction xs generalizing s rs with
  | nil => exact h
  | cons x xs ih =>
    unfold State.loadSections
    simp only []
    split
    · exact ih _ _ (s.loadSection_ok c x h)
    · exact s.loadSection_ok c x h

theorem State.tryCopy_ok (s : State) (c : Nat) (tr : List Bool) (size : Option Nat) (h : s.okFor ask fr) : (s.tryCopy c tr size).s.okFor ask fr := by
  unfold State.tryCopy
  extract_lets hd key pub fail s1 s2 train tr' size' s3 xs r s4 e sg s5 rs decl shaped
  have e1 : s1.okFor ask fr := State.okFor_of_eq h (State.setPhase_frame ..)
  have e2 : s2.okFor ask fr := State.okFor_of_eq e1 (State.setPhase_frame ..)
  have e3 : s3.okFor ask fr := State.okFor_of_eq e2 ((State.wrF_frame ..).trans (State.setPhase_frame ..))
  have e4 : r.1.okFor ask fr := State.loadSections_ok _ _ _ _ e3
  have e5 : s4.okFor ask fr := State.okFor_of_eq e4 (State.setPhase_frame ..)
  have e6 : s5.okFor ask fr := State.okFor_of_eq e5 (State.setPhase_frame ..)
  clear_value s1 s2 s3 r s4 s5
  split; · exact e1
  split; · exact e1
  split; · exact e1
  split; · exact e2
  split; · exact e3
  split; · exact e4
  split; · exact e5
  split; · exact e6
  split <;> exact e6

theorem State.clearLoad_ok (s : State) (ranges : List (Nat × Nat)) (h : s.okFor ask fr) : (s.clearLoad ranges).okFor ask fr := by
  unfold State.clearLoad
  extract_lets regs src s1 src2 s2 s3 s4
  have e1 : s1.okFor ask fr := State.okFor_of_eq h ((mk_frame ..).trans (frame_fold _))
  have e2 : s2.okFor ask fr := State.loseMemory_ok _ _ _ (State.okFor_of_eq e1 (State.setBoot_frame ..))
  have e3 : s3.okFor ask fr := foldl_ok _ _ _ e2 (by
    intro s r h; split
    · exact State.setBytes_ok _ _ _ h
    · exact h)
  exact State.okFor_of_eq (eccRewrite_ok s3 _ e3) (State.wrF_frame ..)

theorem State.loadCopies_ok (s : State) (i : ReleaseIn) (cs : List Nat) (tr : List Bool) (size : Option Nat) (first : Nat) (h : s.okFor ask fr) :
    (s.loadCopies i cs tr size first).okFor ask fr := by
  induction cs generalizing s tr size first with
  | nil => exact State.okFor_of_eq h ((State.harbour_frame ..).trans (State.goto_frame ..))
  | cons c cs ih =>
    unfold State.loadCopies
    have ho := s.tryCopy_ok c tr size h
    simp only []
    generalize s.tryCopy c tr size = o at ho
    split
    · exact State.okFor_of_eq ho ((State.testPhase_frame ..).trans ((State.loadDone_frame ..).trans ((State.takeGrace_frame ..).trans (State.goto_frame ..))))
    · apply ih
      have hc := State.clearLoad_ok _ o.ranges (State.okFor_of_eq ho (State.bootResult_frame o.s c o.code))
      split
      · exact State.okFor_of_eq hc (State.wr_frame ..)
      · exact hc

theorem State.bootLoad_ok (s : State) (i : ReleaseIn) (h : s.okFor ask fr) : (s.bootLoad i).okFor ask fr := State.loadCopies_ok _ _ _ _ _ _ h

theorem State.bootGo_ok (s : State) (h : s.okFor ask fr) : s.bootGo.okFor ask fr := by
  unfold State.bootGo
  split
  · exact State.bootLoad_ok _ _ (State.okFor_of_eq h (State.setBoot_frame ..))
  · exact h

theorem State.resetRelease_ok (s : State) (i : ReleaseIn) (h : s.okFor ask fr) : (s.resetRelease i).okFor ask fr := by
  unfold State.resetRelease
  split
  · exact h
  extract_lets src s1 s2 s3 s4 k bits s5 s6 s7 s8 s9
  have e1 : s1.okFor ask fr := State.okFor_of_eq h ((mk_frame ..).trans (frame_fold _))
  have e2 : s2.okFor ask fr := State.okFor_of_eq e1 (State.wrB_frame ..)
  have e3 : s3.okFor ask fr := State.okFor_of_eq e2 (State.wr_frame ..)
  have e4 : s4.okFor ask fr := State.okFor_of_eq e3 (State.wrF_frame ..)
  have e5 : s5.okFor ask fr := State.okFor_of_eq e4 (State.wr_frame ..)
  have e6 : s6.okFor ask fr := State.okFor_of_eq e5 (State.wrF_frame ..)
  have e7 : s7.okFor ask fr := State.okFor_of_eq e6 ((State.setPresent_frame ..).trans ((State.takeBank_frame ..).trans ((State.takeBank_frame ..).trans (State.takePair_frame ..))))
  have e8 : s8.okFor ask fr := State.okFor_of_eq e7 ((State.setRunning_frame ..).trans ((State.setPhase_frame ..).trans (State.setSysSt_frame ..)))
  have e9 : s9.okFor ask fr := State.okFor_of_eq e8 (by
    apply each_frame; intro s i; simp only []; split
    · rfl
    · exact State.bootResult_frame ..)
  clear_value s9
  split
  · exact State.okFor_of_eq e9 ((State.setBoot_frame ..).trans (State.setPhase_frame ..))
  · exact State.bootLoad_ok _ _ e9

theorem State.lanesJoin_ok (s : State) (crc prio st run : Nat) (h : s.okFor ask fr) : (s.lanesJoin crc prio st run).okFor ask fr := by
  have h' := State.okFor_of_eq h (State.cwyLanesUp_frame s (s.rdN R.bootImageCrc) crc prio st run)
  unfold State.lanesJoin
  simp only []
  split
  · exact State.bootGo_ok _ h'
  · exact h'

theorem State.joinFrame_ok (s : State) (hd : CwyHdr) (n : Nat) (ps : List Nat) (h : s.okFor ask fr) : (s.joinFrame hd n ps).okFor ask fr := by
  have h' := State.okFor_of_eq h (State.cwyJoin_frame s hd n ps)
  unfold State.joinFrame
  simp only []
  split
  · exact State.bootGo_ok _ h'
  · exact h'

theorem State.searchEnd_ok (s : State) (h : s.okFor ask fr) : s.searchEnd.okFor ask fr := by
  unfold State.searchEnd
  split
  · exact State.bootGo_ok _ (State.okFor_of_eq h (State.partnerTimeout_frame ..))
  · exact h

/-! The Ferry before its writes. -/

theorem State.fqResult_ok (s : State) (q code : Nat) (late : Bool) (h : s.okFor ask fr) : (s.fqResult q code late).okFor ask fr := State.setBytes_ok _ _ _ h

theorem State.fqAborted_ok (s : State) (q : Nat) (h : s.okFor ask fr) : (s.fqAborted q).okFor ask fr :=
  State.okFor_of_eq (s.fqResult_ok q 3 false h) ((State.fqEvent_frame ..).trans ((State.setFq_frame ..).trans (State.setFqState_frame ..)))

theorem State.fqFault_ok (s : State) (q cause iova : Nat) (h : s.okFor ask fr) : (s.fqFault q cause iova).okFor ask fr := by
  unfold State.fqFault
  extract_lets s1 s2
  have e1 : s1.okFor ask fr := State.okFor_of_eq h ((State.wr_frame ..).trans (State.wrF_frame ..))
  have e2 : s2.okFor ask fr := State.okFor_of_eq e1 ((State.fqEvent_frame ..).trans (State.wrF_frame ..))
  clear_value s2
  split
  · exact State.fqAborted_ok _ _ e2
  · exact State.okFor_of_eq e2 (State.setFqState_frame ..)

theorem State.ferryAbort_ok (s : State) (q : Nat) (h : s.okFor ask fr) : (s.ferryAbort q).okFor ask fr := by
  unfold State.ferryAbort
  split
  · split
    · refine State.okFor_of_eq h ?_
      simp only []
      split
      · rfl
      · exact (State.setFq_frame ..).trans (State.tookFree_frame ..)
    · exact State.fqAborted_ok _ _ h
  · exact State.fqAborted_ok _ _ h
  · exact State.fqAborted_ok _ _ h
  · exact h

theorem State.ferryCtrl_ok (s : State) (q : Nat) (w : Word) (h : s.okFor ask fr) : (s.ferryCtrl q w).okFor ask fr := by
  unfold State.ferryCtrl
  extract_lets f s1
  have e1 : s1.okFor ask fr := by
    simp only [s1]
    split
    · exact State.ferryAbort_ok _ _ h
    · split
      · exact State.okFor_of_eq h (State.ferryGo_frame ..)
      · exact h
  clear_value s1
  split
  · split
    · exact e1
    · exact State.okFor_of_eq e1 (State.ferryResume_frame ..)
  · exact e1

/-! Register writes: the memory stands, but for three registers. -/

/-- The block of a route's registers holds one whose write may store to memory or lose it. -/
def memBlock (b : Nat) : Bool := b == 0x450 || b == 0x460 || b == 0x46C

theorem routes_frame (b : Nat) (hb : memBlock b = false) : ∀ r ∈ writeRoutes b, ∀ (s : State) who i w, (r.act s who i w).frame = s.frame := by
  have he : ∀ (s : State) w n f, (∀ s i, (f s i).frame = s.frame) → (s.eachBit w n f).frame = s.frame := fun s w n f h => each_frame _ _ _ h
  unfold writeRoutes
  split
  case h_14 => exact absurd hb (by decide)
  case h_17 => exact absurd hb (by decide)
  case h_20 => exact absurd hb (by decide)
  all_goals simp [apply_ite State.frame]

theorem routes_ok (b : Nat) : ∀ r ∈ writeRoutes b, ∀ (s : State) who i w, s.okFor ask fr → (r.act s who i w).okFor ask fr := by
  by_cases hb : memBlock b = false
  · exact fun r hr s who i w h => State.okFor_of_eq h (routes_frame b hb r hr s who i w)
  · have : b = 0x450 ∨ b = 0x460 ∨ b = 0x46C := by
      simp [memBlock] at hb; omega
    have k : ∀ (P : WRoute → Prop), P = (fun r => ∀ (s : State) who i w, s.okFor ask fr → (r.act s who i w).okFor ask fr) → ∀ r ∈ writeRoutes b, P r := by
      intro P hP
      rcases this with rfl | rfl | rfl
      · simp only [writeRoutes, List.forall_mem_cons, hP]
        refine ⟨?_, ?_, ?_, ?_, by simp⟩
        · exact fun s _ _ w h => State.okFor_of_eq h (State.recSoftFire_frame ..)
        · exact fun s _ u w h => s.capCtrlWrite_ok u w h
        · exact fun s _ u w h => State.okFor_of_eq h (State.fireAtWrite_frame ..)
        · exact fun s _ u w h => State.okFor_of_eq h (State.slotFree_frame ..)
      · simp only [writeRoutes, List.forall_mem_cons, hP]
        refine ⟨?_, ?_, by simp⟩
        · exact fun s _ q w h => State.okFor_of_eq h (State.fqCfgWrite_frame ..)
        · exact fun s _ q w h => s.ferryCtrl_ok q w h
      · simp only [writeRoutes, List.forall_mem_cons, hP]
        refine ⟨?_, ?_, ?_, by simp⟩
        · exact fun s _ _ w h => s.softReset_ok w h
        · exact fun s _ _ w h => State.okFor_of_eq h (State.flashCmd_frame ..)
        · exact fun s _ _ w h => State.okFor_of_eq h (State.otpCmd_frame ..)
    exact k _ rfl

theorem findRoute_mem (rs : List WRoute) (a : Nat) (r : WRoute) (i : Nat) (h : findRoute rs a = some (r, i)) : r ∈ rs := by
  induction rs with
  | nil => simp [findRoute] at h
  | cons x xs ih =>
    simp only [findRoute] at h
    split at h
    · simp at h; simp [h.1]
    · simp [ih h]

theorem State.regWrite_frame (s : State) (who : Option Initiator) (a : Nat) (w : Word) (hb : memBlock (a / 0x100000) = false) :
    (s.regWrite who a w).frame = s.frame := by
  unfold State.regWrite
  split
  · next h => exact routes_frame _ hb _ (findRoute_mem _ _ _ _ h) ..
  · exact State.storeReg_frame ..

theorem State.regWrite_ok (s : State) (who : Option Initiator) (a : Nat) (w : Word) (h : s.okFor ask fr) : (s.regWrite who a w).okFor ask fr := by
  unfold State.regWrite
  split
  · next e => exact routes_ok _ _ (findRoute_mem _ _ _ _ e) _ _ _ _ h
  · exact State.okFor_of_eq h (State.storeReg_frame ..)

/-! Accesses. -/

theorem State.mirrorJudge_frame (s : State) (a : Nat) (w : Word) :
    (∀ x, s.mirrorJudge a w = .hold x → x.frame = s.frame) ∧ (∀ x, s.mirrorJudge a w = .refused x → x.frame = s.frame) := by
  unfold State.mirrorJudge
  split
  · simp
  · split
    · simp
    · next ns =>
      extract_lets mine s1
      have e1 : s1.frame = s.frame := by
        simp only [s1]
        split
        · exact State.raise_frame ..
        · rfl
      clear_value s1
      split
      · simp [e1]
      · constructor
        · intro x hx
          cases hx
          refine (foldl_frame _ _ _ ?_).trans e1
          intro s n
          exact (State.setThr_frame ..).trans (State.cwySend_frame ..)
        · intro x hx; cases hx

theorem State.regAccess_ok (s : State) (who : Initiator) (a : Nat) (w : Word) (h : s.okFor ask fr) : (s.regAccess who a w).okFor ask fr := by
  unfold State.regAccess
  split
  · exact h
  · split
    · exact s.regWrite_ok _ _ _ h
    · next e => exact State.okFor_of_eq h ((s.mirrorJudge_frame a w).1 _ e)
    · next e => exact State.okFor_of_eq h ((s.mirrorJudge_frame a w).2 _ e)

theorem State.access_ok (s : State) (who : Initiator) (a : Nat) (size : Size) (d : Dword) (h : s.okFor ask fr) : (s.access who a size d).1.okFor ask fr := by
  unfold State.access
  split
  · exact h
  · split
    · split
      · exact s.regAccess_ok _ _ _ h
      · exact h
    · exact s.memWrite_ok _ _ h

theorem State.busWrite_ok (s : State) (who : Initiator) (a : Nat) (size : Size) (d : Dword) (h : s.okFor ask fr) : (s.busWrite who a size d).okFor ask fr :=
  State.okFor_of_eq (s.access_ok who a size d h) ((mk_frame ..).trans (frame_fold _))

theorem State.busWord_ok (s : State) (who : Initiator) (a : Nat) (w : Word) (h : s.okFor ask fr) : (s.busWord who a w).okFor ask fr := s.busWrite_ok _ _ _ _ h

/-- A bus write leaves the frame where the register's own write does. -/
theorem State.busWord_frame (s : State) (who : Initiator) (a : Nat) (w : Word) (hr : isReg a = true)
    (hw : (s.regWrite (some who) a w).frame = s.frame) : (s.busWord who a w).frame = s.frame := by
  have e : BitVec.setWidth 32 (BitVec.setWidth 64 w) = w := by ext i; simp
  refine (mk_frame ..).trans ((frame_fold _).trans ?_)
  unfold State.access
  split
  · rfl
  · split
    · show (s.regAccess ..).frame = _
      unfold State.regAccess
      split
      · rfl
      · split
        · rw [e]; exact hw
        · next e => exact (s.mirrorJudge_frame _ _).1 _ e
        · next e => exact (s.mirrorJudge_frame _ _).2 _ e
    · rfl

theorem State.busRead_frame (s : State) (who : Initiator) (a : Nat) (size : Size) : (s.busRead who a size).frame = s.frame := by
  unfold State.busRead
  split
  · exact (mk_frame ..).trans (frame_fold _)
  · split
    · split
      · exact (mk_frame ..).trans (frame_fold _)
      · split
        · exact (mk_frame ..).trans (frame_fold _)
        · exact (mk_frame ..).trans ((frame_fold _).trans (State.regRead_frame ..))
    · exact (mk_frame ..).trans ((frame_fold _).trans (State.memRead_frame ..))

/-! The Ulile agent. -/

theorem State.uliReadMem_frame (s : State) (a n : Nat) : (s.uliReadMem a n).1.frame = s.frame := by
  have hp : ∀ (t : State) (b : List Byte), (t, b).1.frame = t.frame := fun _ _ => rfl
  have hm := s.memRead_frame a n
  unfold State.uliReadMem
  simp only []
  generalize s.memRead a n = r at hm
  split
  · exact State.uliOpen_frame ..
  · split
    · exact (State.uliOpen_frame ..).trans hm
    · exact (hp _ _).trans ((State.uliOpen_frame ..).trans hm)

theorem State.uliWritePoint_ok (s : State) (p : Nat) (w : Word) (h : s.okFor ask fr) : (s.uliWritePoint p w).1.okFor ask fr := by
  have hp : ∀ (t : State) (b : Nat), t.okFor ask fr → (t, b).1.okFor ask fr := fun _ _ h => h
  unfold State.uliWritePoint
  split; · exact h
  split; · exact h
  split; · exact h
  split; · exact h
  split; · exact h
  split
  · exact hp _ _ (s.regWrite_ok _ _ _ h)
  · next e => exact State.okFor_of_eq h ((s.mirrorJudge_frame _ _).1 _ e)
  · next e => exact State.okFor_of_eq h ((s.mirrorJudge_frame _ _).2 _ e)

theorem State.uliServeItem_ok (s : State) (m : List Byte) (i : Nat) (h : s.okFor ask fr) : (s.uliServeItem m i).1.okFor ask fr := by
  unfold State.uliServeItem
  split
  · exact State.okFor_of_eq h (State.uliReadPoint_frame ..)
  · exact State.okFor_of_eq (s.uliWritePoint_ok _ _ h) (State.uliOpen_frame ..)
  · exact State.okFor_of_eq h (State.uliReadMem_frame ..)
  · exact State.okFor_of_eq h (State.uliReadPoint_frame ..)

theorem State.uliServe_ok (s : State) (c : Nat) (h : s.okFor ask fr) : (s.uliServe c).okFor ask fr := by
  unfold State.uliServe
  split
  · exact h
  · next r _ =>
    split
    · exact h
    · split
      · exact State.okFor_of_eq h (State.uliReply_frame ..)
      · have hx := s.uliServeItem_ok r.msg s.uli.item h
        simp only []
        generalize s.uliServeItem r.msg s.uli.item = x at hx
        split
        · exact State.okFor_of_eq hx (State.uliReply_frame ..)
        · exact State.okFor_of_eq hx ((mk_frame ..).trans (frame_fold _))

/-! The sample instant. -/

theorem State.mirrorApply_ok (s : State) (n : Nat) (m : Mirror) (h : s.okFor ask fr) : (s.mirrorApply n m).okFor ask fr := by
  have h1 := s.regWrite_ok none m.addr m.data h
  unfold State.mirrorApply
  extract_lets s1 now back q s2 v s3 s4 was
  have e2 : s2.okFor ask fr := State.okFor_of_eq h1 (State.setSeq_frame ..)
  have e3 : s3.okFor ask fr := State.okFor_of_eq e2 (State.setVec_frame ..)
  have e4 : s4.okFor ask fr := State.okFor_of_eq e3 (State.gfeBoth_frame ..)
  exact State.okFor_of_eq e4 ((mk_frame ..).trans (frame_fold _))

theorem State.mirrorsTake_ok (s : State) (n : Nat) (h : s.okFor ask fr) : (s.mirrorsTake n).okFor ask fr := by
  unfold State.mirrorsTake
  exact foldl_ok _ _ _ (State.okFor_of_eq h (State.setThr_frame ..)) (fun s m h => s.mirrorApply_ok n m h)

theorem State.sampleInstant_ok (s : State) (n : Nat) (h : s.okFor ask fr) : (s.sampleInstant n).okFor ask fr := by
  unfold State.sampleInstant
  split
  · exact h
  have h1 := s.mirrorsTake_ok n h
  extract_lets s1 runs ok s2 s3 q ns s4 s5 due s6 s7
  have e2 : s2.frame = s1.frame := by
    simp only [s2]; split
    · exact State.snapJudge_frame ..
    · rfl
  have e3 : s3.frame = s2.frame := by
    clear_value s2
    simp only [s3]; split
    · exact State.fillSwap_frame ..
    · split
      · exact State.periodOk_frame ..
      · exact State.periodLate_frame ..
  have e4 : s4.frame = s3.frame := State.setSeq_frame ..
  have e5 : s5.frame = s4.frame := State.sampleAll_frame ..
  have e6 : s6.frame = s5.frame := by
    clear_value s5
    simp only [s6]; split
    · exact State.periodStop_frame ..
    · split
      · exact State.periodStart_frame ..
      · split
        · exact State.periodStart_frame ..
        · rfl
  have e7 : s7.frame = s6.frame := by
    clear_value s6
    simp only [s7]; split
    · exact State.keepTake_frame ..
    · rfl
  exact State.okFor_of_eq h1 ((State.recThread_frame ..).trans (e7.trans (e6.trans (e5.trans (e4.trans (e3.trans e2))))))

/-! The Ferry. -/

theorem State.fqFaultFree_ok (s : State) (q iova : Nat) (h : s.okFor ask fr) : (s.fqFaultFree q iova).okFor ask fr :=
  State.fqFault_ok _ _ _ _ (State.okFor_of_eq h (State.tookFree_frame ..))

theorem State.fqDescFault_ok (s : State) (q c : Nat) (h : s.okFor ask fr) : (s.fqDescFault q c).okFor ask fr :=
  State.fqFault_ok _ _ _ _ (State.okFor_of_eq h (State.tookFree_frame ..))

theorem State.fqLoad_ok (s : State) (q : Nat) (h : s.okFor ask fr) : (s.fqLoad q).1.okFor ask fr := by
  have hp : ∀ (t : State) (b : Bool), t.okFor ask fr → (t, b).1.okFor ask fr := fun _ _ h => h
  unfold State.fqLoad
  split; · exact h
  simp only []
  split; · exact hp _ _ (s.fqFaultFree_ok _ _ h)
  split; · exact hp _ _ (State.fqDescFault_ok _ _ _ (State.okFor_of_eq h (State.eccUncorrectable_frame ..)))
  split; · exact hp _ _ (s.fqDescFault_ok _ _ h)
  apply hp
  have e := State.okFor_of_eq h (State.setFq_frame s q { fqParse (s.bytes (0x08000000 + s.fqDesc q) 32) with abort := (s.fq q).abort })
  split
  · exact State.okFor_of_eq e (State.fqTakeFrame_frame ..)
  · exact e

theorem State.fqTranslate_ok (s : State) (q iova : Nat) (write : Bool) (cause : Nat) (h : s.okFor ask fr) : (s.fqTranslate q iova write cause).1.okFor ask fr := by
  have hp : ∀ (t : State) (b : Option Nat), t.okFor ask fr → (t, b).1.okFor ask fr := fun _ _ h => h
  have ht := State.translate_frame s (s.fqDomain q) iova write
  unfold State.fqTranslate
  simp only []
  generalize s.translate (s.fqDomain q) iova write = r at ht
  split
  · exact hp _ _ (State.okFor_of_eq h ht)
  · exact hp _ _ (State.fqFault_ok _ _ _ _ (State.okFor_of_eq h ((State.iomFault_frame ..).trans ht)))

theorem State.fqRead_frame (s : State) (q : Nat) (src : Option Nat) (n : Nat) : (s.fqRead q src n).1.frame = s.frame := by
  have hp : ∀ (t : State) (b : List Byte × Bool × Bool), (t, b).1.frame = t.frame := fun _ _ => rfl
  unfold State.fqRead
  simp only []
  split; · rfl
  split
  · split; · rfl
    split; · rfl
    refine (hp _ _).trans ((State.setFq_frame ..).trans ?_)
    split
    · rfl
    · exact State.regRead_frame ..
  · split; · rfl
    split <;> split
    all_goals first
      | exact State.eccUncorrectable_frame ..
      | rfl

theorem State.fqSide_ok (s : State) (g : Bool) (q iova : Nat) (write : Bool) (cause : Nat) (h : s.okFor ask fr) : (s.fqSide g q iova write cause).1.okFor ask fr := by
  unfold State.fqSide
  split
  · exact h
  · exact s.fqTranslate_ok _ _ _ _ h

theorem State.fqBurst_ok (s : State) (q sv dv : Nat) (src dst : Option Nat) (h : s.okFor ask fr) : (s.fqBurst q sv dv src dst).okFor ask fr := by
  have hx := s.fqRead_frame q src (s.fqBurstLen q src dst)
  unfold State.fqBurst
  generalize s.fqRead q src (s.fqBurstLen q src dst) = x at hx
  exact State.okFor_of_eq h ((mk_frame ..).trans ((frame_fold _).trans hx))

theorem State.fqBurstFrom_ok (b : State × Option (Option Nat)) (q sv dv : Nat) (src : Option Nat) (h : b.1.okFor ask fr) :
    (State.fqBurstFrom b q sv dv src).okFor ask fr := by
  unfold State.fqBurstFrom
  split
  · exact h
  · exact State.fqBurst_ok _ _ _ _ _ _ h

theorem State.fqSecond_ok (a : State × Option (Option Nat)) (q sv dv : Nat) (h : a.1.okFor ask fr) : (State.fqSecond a q sv dv).okFor ask fr := by
  unfold State.fqSecond
  split
  · exact h
  · exact State.fqBurstFrom_ok _ _ _ _ _ (State.fqSide_ok _ _ _ _ _ _ h)

theorem State.fqBegin_ok (s : State) (q : Nat) (h : s.okFor ask fr) : (s.fqBegin q).okFor ask fr :=
  State.fqSecond_ok _ _ _ _ (State.fqSide_ok _ _ _ _ _ _ (State.okFor_of_eq h (State.setFqState_frame s q 1)))

theorem State.ferryStart_ok (s : State) (h : s.okFor ask fr) : s.ferryStart.okFor ask fr := by
  unfold State.ferryStart
  split
  · exact h
  · split
    · exact h
    · next q _ =>
      extract_lets s1 src s2 r
      have e1 : s1.okFor ask fr := State.okFor_of_eq h (State.fqLosers_frame ..)
      have e2 : s2.okFor ask fr := State.okFor_of_eq e1 ((mk_frame ..).trans (frame_fold _))
      have er : r.1.okFor ask fr := s2.fqLoad_ok q e2
      clear_value r
      split
      · exact State.fqBegin_ok _ _ er
      · exact er

theorem State.fqDescDone_ok (s : State) (q : Nat) (h : s.okFor ask fr) : (s.fqDescDone q).okFor ask fr := by
  unfold State.fqDescDone
  extract_lets d late s1 s2 s3
  have e1 : s1.okFor ask fr := State.okFor_of_eq (s.fqResult_ok q 2 late h) (State.countUp_frame ..)
  have e2 : s2.okFor ask fr := State.okFor_of_eq e1 ((State.fqEvent_frame ..).trans (State.raiseIf_frame ..))
  have e3 : s3.okFor ask fr := by
    clear_value s2
    simp only [s3]; split
    · exact State.okFor_of_eq e2 (State.ethIngress_frame ..)
    · exact e2
  clear_value s3
  split
  · exact State.okFor_of_eq e3 ((State.setFq_frame ..).trans (State.setFqState_frame ..))
  · split
    · exact State.okFor_of_eq e3 ((State.fqEvent_frame ..).trans ((State.setFq_frame ..).trans (State.setFqState_frame ..)))
    · exact State.okFor_of_eq e3 ((State.setFq_frame ..).trans ((State.wr_frame ..).trans (State.wrF_frame ..)))

theorem State.fqWrite_ok (s : State) (b : FryBurst) (h : s.okFor ask fr) : (s.fqWrite b).1.okFor ask fr := by
  unfold State.fqWrite
  simp only []
  split
  · exact State.okFor_of_eq h (State.setFq_frame ..)
  · split
    · split
      · exact s.access_ok _ _ _ _ h
      · exact h
    · exact s.memWrite_ok _ _ h

theorem State.fqComplete_ok (s : State) (b : FryBurst) (corr unc : List Nat) (h : s.okFor ask fr) : (s.fqComplete b corr unc).okFor ask fr := by
  unfold State.fqComplete
  extract_lets +onlyGivenNames q src s1 s2 s3 r
  have e1 : s1.okFor ask fr := State.okFor_of_eq h ((mk_frame ..).trans (frame_fold _))
  have e2 : s2.okFor ask fr := State.okFor_of_eq e1 (each_frame _ _ _ State.eccCorrected_frame)
  have e3 : s3.okFor ask fr := each_ok _ _ _ e2 State.eccFound_ok
  have er : r.1.okFor ask fr := State.fqWrite_ok s3 b e3
  split; · exact State.fqFault_ok _ _ _ _ e3
  split; · exact State.fqFaultFree_ok _ _ _ e3
  split; · exact State.fqFault_ok _ _ _ _ er
  extract_lets s4 n v s5 ab
  have e5 : s5.okFor ask fr := State.okFor_of_eq er ((State.setFq_frame ..).trans (State.wr_frame ..))
  split
  · split
    · exact State.fqAborted_ok _ _ e5
    · exact State.fqDescDone_ok _ _ e5
  · split
    · exact State.fqAborted_ok _ _ e5
    · exact e5

theorem State.ferryComplete_ok (s : State) (corr unc : List Nat) (h : s.okFor ask fr) : (s.ferryComplete corr unc).okFor ask fr := by
  unfold State.ferryComplete
  split
  · exact h
  · exact s.fqComplete_ok _ _ _ h

/-- All of the frame but the driver boards. -/
def State.offBoards (s : State) : Frame := { s.frame with boards := [] }

/-- The parts of the frame that are not the meter's. -/
def State.offMeter (s : State) : MemSt × Tab BoardSt × Variant := (s.frame.mem, s.frame.boards, s.frame.dev)

theorem offBoards_of_frame {s s' : State} (h : s'.frame = s.frame) : s'.offBoards = s.offBoards := by
  unfold State.offBoards; rw [h]
theorem offMeter_of_frame {s s' : State} (h : s'.frame = s.frame) : s'.offMeter = s.offMeter := by
  unfold State.offMeter; rw [h]

theorem foldl_offMeter {α : Type} (s : State) (l : List α) (f : State → α → State) (h : ∀ s i, (f s i).offMeter = s.offMeter) :
    (l.foldl f s).offMeter = s.offMeter := by
  induction l generalizing s with
  | nil => rfl
  | cons i is ih => rw [List.foldl_cons, ih, h]

@[simp] theorem State.setBoard_offBoards (s : State) (l : Nat) (b : BoardSt) : (s.setBoard l b).offBoards = s.offBoards := rfl
@[simp] theorem State.driverFrame_offBoards (s : State) (l p : Nat) (ok : Bool) (bs : List Byte) : (s.driverFrame l p ok bs).offBoards = s.offBoards := by
  unfold State.driverFrame
  extract_lets +onlyGivenNames x b pt
  split
  · exact State.setBoard_offBoards ..
  · extract_lets +onlyGivenNames type
    split
    · rfl
    · extract_lets +onlyGivenNames pl p1 p2 b1 b2 was b3 b4 b5
      exact State.setBoard_offBoards ..

@[simp] theorem State.driverLapse_offBoards (s : State) (l p : Nat) : (s.driverLapse l p).offBoards = s.offBoards := by
  unfold State.driverLapse
  exact State.setBoard_offBoards ..

@[simp] theorem State.driverExecute_offBoards (s : State) (l : Nat) : (s.driverExecute l).offBoards = s.offBoards := by
  unfold State.driverExecute
  simp only []
  split <;> simp

@[simp] theorem State.driverSilence_offBoards (s : State) (l : Nat) : (s.driverSilence l).offBoards = s.offBoards := by
  unfold State.driverSilence
  simp only []
  split <;> simp

@[simp] theorem State.portSyncLoss_offBoards (s : State) (l p : Nat) : (s.portSyncLoss l p).offBoards = s.offBoards := by
  unfold State.portSyncLoss
  simp only []
  split <;> simp

@[simp] theorem State.driverGateFault_offBoards (s : State) (l ch : Nat) : (s.driverGateFault l ch).offBoards = s.offBoards := rfl
@[simp] theorem State.driverGateReturn_offBoards (s : State) (l ch : Nat) : (s.driverGateReturn l ch).offBoards = s.offBoards := rfl
@[simp] theorem State.driverPowerUp_offBoards (s : State) (l : Nat) : (s.driverPowerUp l).offBoards = s.offBoards := rfl
@[simp] theorem State.driverStatus_offBoards (s : State) (l p a b c : Nat) : (s.driverStatus l p a b c).offBoards = s.offBoards := rfl

@[simp] theorem State.islLog_offMeter (s : State) (c a b : Nat) : (s.islLog c a b).offMeter = s.offMeter := offMeter_of_frame (State.islLog_frame ..)
@[simp] theorem State.islOwe_offMeter (s : State) (q : Bool) (e : Int) : (s.islOwe q e).offMeter = s.offMeter := offMeter_of_frame (State.islOwe_frame ..)
@[simp] theorem State.islMode_offMeter (s : State) (m : Nat) : (s.islMode m).offMeter = s.offMeter := offMeter_of_frame (State.islMode_frame ..)
@[simp] theorem State.calReply_offMeter (s : State) (a b c : Nat) : (s.calReply a b c).offMeter = s.offMeter := offMeter_of_frame (State.calReply_frame ..)
@[simp] theorem State.islAdd_offMeter (s : State) (k e : Nat) : (s.islAdd k e).offMeter = s.offMeter := rfl
@[simp] theorem State.islSigned_offMeter (s : State) (q φ : Nat) (e : Int) : (s.islSigned q φ e).offMeter = s.offMeter := by
  unfold State.islSigned
  split
  · simp
  · split <;> simp
@[simp] theorem State.islOpen_offMeter (s : State) : s.islOpen.offMeter = s.offMeter := by
  unfold State.islOpen
  simp only [State.islLog_offMeter]
  rfl

@[simp] theorem State.islQuantum_offMeter (s : State) (p q : List Int) : (s.islQuantum p q).offMeter = s.offMeter := by
  unfold State.islQuantum
  simp only [State.islOwe_offMeter, State.islSigned_offMeter]
  split
  · rfl
  · rw [foldl_offMeter _ _ _ (by simp), foldl_offMeter _ _ _ (by simp)]

@[simp] theorem State.islParTake_offMeter (s : State) : s.islParTake.offMeter = s.offMeter := by
  unfold State.islParTake
  split <;> rfl

@[simp] theorem State.modeTake_offMeter (s : State) : s.modeTake.offMeter = s.offMeter := by
  unfold State.modeTake
  split <;> rfl

@[simp] theorem State.meterQuantum_offMeter (s : State) (p q : List Int) : (s.meterQuantum p q).offMeter = s.offMeter := by
  unfold State.meterQuantum
  split
  · rfl
  · rw [State.islParTake_offMeter, State.islQuantum_offMeter, State.modeTake_offMeter]

@[simp] theorem State.straitFall_offMeter (s : State) (p q : List Int) : (s.straitFall p q).offMeter = s.offMeter := by
  unfold State.straitFall
  split
  · rfl
  · extract_lets s1 s2 v
    have e1 : s1.offMeter = s.offMeter := by
      simp only [s1]; split
      · exact State.islQuantum_offMeter ..
      · rfl
    have e2 : s2.offMeter = s1.offMeter := offMeter_of_frame (State.islLog_frame ..)
    clear_value s2
    exact e2.trans e1

@[simp] theorem State.straitReturn_offMeter (s : State) (r : Bool) : (s.straitReturn r).offMeter = s.offMeter := by
  unfold State.straitReturn
  split
  · rfl
  · extract_lets v s1 gap n s2 v2 s3 s4 v3 s5
    have e1 : s1.offMeter = s.offMeter := rfl
    have e3 : s3.offMeter = s1.offMeter := by
      clear_value s1
      simp only [s3]; split
      · rfl
      · rw [State.islLog_offMeter]; rfl
    have e4 : s4.offMeter = s3.offMeter := offMeter_of_frame (State.islLog_frame ..)
    have e5 : s5.offMeter = s4.offMeter := by
      clear_value s4
      simp only [s5, State.islOpen_offMeter]; rfl
    clear_value s5 s4
    split
    · split
      · rw [State.islLog_offMeter]; exact e5.trans (e4.trans (e3.trans e1))
      · exact e5.trans (e4.trans (e3.trans e1))
    · exact e4.trans (e3.trans e1)

@[simp] theorem State.sealChange_offMeter (s : State) (c : Bool) : (s.sealChange c).offMeter = s.offMeter := by
  unfold State.sealChange
  split
  · rfl
  · extract_lets v s1
    have e1 : s1.offMeter = s.offMeter := rfl
    clear_value s1
    split
    · split
      · exact e1
      · exact e1
    · split
      · rw [State.islMode_offMeter, State.islLog_offMeter]; exact e1
      · rw [State.islOpen_offMeter]; exact e1

@[simp] theorem State.calWrite_offMeter (s : State) (idx : Nat) (w : Word) (ok : Bool) : (s.calWrite idx w ok).offMeter = s.offMeter := by
  unfold State.calWrite
  split; · rfl
  split; · rw [State.calReply_offMeter]
  split; · rw [State.calReply_offMeter]
  rw [State.calReply_offMeter]; rfl

@[simp] theorem State.calCommit_offMeter (s : State) (idx : Nat) (ok : Bool) : (s.calCommit idx ok).offMeter = s.offMeter := by
  unfold State.calCommit
  split; · rfl
  split; · rw [State.calReply_offMeter]
  split; · rw [State.calReply_offMeter]
  split; · rw [State.calReply_offMeter]
  simp only [State.calReply_offMeter, State.islLog_offMeter]
  rfl

end Sys2Proof.Machine
end

