-- ==== Sys2Proof/Laws/RegFrame.lean ====
section
/-! SUPPORT. The frame of the operations that write no register. -/

namespace Sys2Proof.Machine

/-- The register table of a state, as the frame lemmas name it. -/
def State.regTab (s : State) : Tab Word := s.regs

@[simp] theorem mk_regTab (x0 : Clk) (x1 : Tab Word) (x2 : Tab Raised) (x3 : BusAns) (x4 : SigTab) (x5 : Tab Ev) (x6 : IrqSt) (x7 : MemSt) (x8 : TimeSt) (x9 : Tab SeqSt) (x10 : Tab SliceSt) (x11 : Tab LegSt) (x12 : Tab LinkSt) (x13 : Tab BoardSt) (x14 : Tab CanSt) (x15 : Tab VecSt) (x16 : Tab PosSt) (x17 : Tab KeepSt) (x18 : Tab GfeSt) (x19 : GfeParSt) (x20 : SndSt) (x21 : TwinSt) (x22 : Tab Bool) (x23 : RecSt) (x24 : SdfSt) (x25 : ProtSt) (x26 : WearSt) (x27 : PdmSt) (x28 : Tab PairSt) (x29 : Tab SarSt) (x30 : CeSt) (x31 : AuxAll) (x32 : EthSt) (x33 : IslSt) (x34 : PmuSt) (x35 : Tap) (x36 : IomSt) (x37 : FrySt) (x38 : BootSt) (x39 : UliSt) (x40 : Variant) (x41 : Nat) (x42 : List Instr) :
    (State.mk x0 x1 x2 x3 x4 x5 x6 x7 x8 x9 x10 x11 x12 x13 x14 x15 x16 x17 x18 x19 x20 x21 x22 x23 x24 x25 x26 x27 x28 x29 x30 x31 x32 x33 x34 x35 x36 x37 x38 x39 x40 x41 x42).regTab = x1 := rfl

theorem regTab_fold (s : State) : s.regs = s.regTab := by unfold State.regTab; exact (rfl)

@[simp] theorem each_regTab (s : State) (is : List Nat) (f : State → Nat → State) (h : ∀ s i, (f s i).regTab = s.regTab) : (s.each is f).regTab = s.regTab := by
  unfold State.each
  induction is generalizing s with
  | nil => rfl
  | cons i is ih => rw [List.foldl_cons, ih, h]

@[simp] theorem foldl_regTab {α : Type} (s : State) (l : List α) (f : State → α → State) (h : ∀ s i, (f s i).regTab = s.regTab) : (l.foldl f s).regTab = s.regTab := by
  induction l generalizing s with
  | nil => rfl
  | cons i is ih => rw [List.foldl_cons, ih, h]

@[simp] theorem State.goto_regTab (s : State) (t : Nat) : (State.goto s t).regTab = s.regTab := by
  unfold State.goto
  simp [regTab_fold]

@[simp] theorem State.markRaised_regTab (s : State) (a : Nat) (m : Word) (c : Word) : (State.markRaised s a m c).regTab = s.regTab := by
  unfold State.markRaised
  simp [regTab_fold]

@[simp] theorem State.soon_regTab (s : State) (t : Nat) (x : Soon) : (State.soon s t x).regTab = s.regTab := by
  unfold State.soon
  simp [regTab_fold]

@[simp] theorem State.lineMark_regTab (s : State) (x : Nat) : (State.lineMark s x).regTab = s.regTab := by
  unfold State.lineMark
  simp [regTab_fold]

@[simp] theorem State.tookFree_regTab (s : State) : (State.tookFree s).regTab = s.regTab := by
  unfold State.tookFree
  simp [regTab_fold]

@[simp] theorem State.setIrq_regTab (s : State) (i : Nat) (b : Bool) : (State.setIrq s i b).regTab = s.regTab := by
  unfold State.setIrq
  simp [regTab_fold, apply_ite State.regTab]

@[simp] theorem State.postAt_regTab (s : State) (src : Nat) (code : Nat) (tau : Int) : (State.postAt s src code tau).regTab = s.regTab := by
  unfold State.postAt
  simp [regTab_fold]

@[simp] theorem State.post_regTab (s : State) (src : Nat) (code : Nat) : (State.post s src code).regTab = s.regTab := by
  unfold State.post
  simp

@[simp] theorem State.setStable_regTab (s : State) (i : Nat) (v : SigVal) : (State.setStable s i v).regTab = s.regTab := by
  unfold State.setStable
  simp [regTab_fold]

@[simp] theorem State.setFill_regTab (s : State) (i : Nat) (v : Option SigVal) : (State.setFill s i v).regTab = s.regTab := by
  unfold State.setFill
  simp [regTab_fold]

@[simp] theorem State.sigStore_regTab (s : State) (i : Nat) (v : Word) (q : Qual) : (State.sigStore s i v q).regTab = s.regTab := by
  unfold State.sigStore
  simp [apply_ite State.regTab, regTab_fold]

@[simp] theorem State.sigPut_regTab (s : State) (i : Nat) (v : Word) (q : Qual) : (State.sigPut s i v q).regTab = s.regTab := by
  unfold State.sigPut
  simp [regTab_fold, apply_ite State.regTab]

@[simp] theorem State.setByte_regTab (s : State) (a : Nat) (b : Byte) : (State.setByte s a b).regTab = s.regTab := by
  unfold State.setByte
  simp [regTab_fold]

@[simp] theorem State.setBytes_regTab (s : State) (a : Nat) (bs : List Byte) : (s.setBytes a bs).regTab = s.regTab := by
  induction bs generalizing s a with
  | nil => rfl
  | cons b bs ih => exact (ih _ _).trans (State.setByte_regTab ..)

@[simp] theorem State.loseMemory_regTab (s : State) (rs : List Nat) (e : Nat) : (State.loseMemory s rs e).regTab = s.regTab := by
  unfold State.loseMemory
  simp [regTab_fold]

@[simp] theorem State.setSeq_regTab (s : State) (n : Nat) (v : SeqSt) : (State.setSeq s n v).regTab = s.regTab := by
  unfold State.setSeq
  simp [regTab_fold]

@[simp] theorem State.setSlice_regTab (s : State) (n : Nat) (v : SliceSt) : (State.setSlice s n v).regTab = s.regTab := by
  unfold State.setSlice
  simp [regTab_fold]

@[simp] theorem State.setLeg_regTab (s : State) (n : Nat) (v : LegSt) : (State.setLeg s n v).regTab = s.regTab := by
  unfold State.setLeg
  simp [regTab_fold]

@[simp] theorem State.setLink_regTab (s : State) (n : Nat) (v : LinkSt) : (State.setLink s n v).regTab = s.regTab := by
  unfold State.setLink
  simp [regTab_fold]

@[simp] theorem State.setMot_regTab (s : State) (m : Nat) (v : AuxSt) : (State.setMot s m v).regTab = s.regTab := by
  unfold State.setMot
  simp [regTab_fold]

@[simp] theorem State.auxFollow_regTab (s : State) (h : Nat) (hi : Bool) : (State.auxFollow s h hi).regTab = s.regTab := by
  unfold State.auxFollow
  simp [apply_ite State.regTab, regTab_fold]

@[simp] theorem State.auxNote_regTab (s : State) (h : Nat) : (State.auxNote s h).regTab = s.regTab := by
  unfold State.auxNote
  simp [regTab_fold]

@[simp] theorem State.auxNoteMotor_regTab (s : State) (m : Nat) : (State.auxNoteMotor s m).regTab = s.regTab := by
  unfold State.auxNoteMotor
  simp [regTab_fold]

@[simp] theorem State.setEdges_regTab (s : State) (l : Nat) (es : List Edge) : (State.setEdges s l es).regTab = s.regTab := by
  unfold State.setEdges
  simp [regTab_fold]

@[simp] theorem State.dropEdges_regTab (s : State) (l : Nat) (gone : Edge → Bool) : (State.dropEdges s l gone).regTab = s.regTab := by
  unfold State.dropEdges
  simp [regTab_fold]

@[simp] theorem State.handEdge_regTab (s : State) (l : Nat) (c : SwCmd) : (State.handEdge s l c).regTab = s.regTab := by
  unfold State.handEdge
  simp [apply_ite State.regTab, regTab_fold]

@[simp] theorem State.handEdges_regTab (s : State) (l : Nat) (cs : List SwCmd) : (State.handEdges s l cs).regTab = s.regTab := by
  unfold State.handEdges
  simp

@[simp] theorem State.handLeg_regTab (s : State) (g : Nat) (x : Nat) (segs : List Seg) (sent : List (Nat × Bool × Nat)) : (State.handLeg s g x segs sent).1.regTab = s.regTab := by
  unfold State.handLeg
  simp [regTab_fold]

@[simp] theorem State.handSlice_regTab (s : State) (i : Nat) (x : Nat) (segs : List Seg) (sent : List (Nat × Bool × Nat)) : (State.handSlice s i x segs sent).1.regTab = s.regTab := by
  unfold State.handSlice
  simp [regTab_fold]

@[simp] theorem State.planLegWith_regTab (s : State) (g : Nat) (x : Nat) (sent : List (Nat × Bool × Nat)) : (State.planLegWith s g x sent).regTab = s.regTab := by
  unfold State.planLegWith
  simp [regTab_fold]

@[simp] theorem State.planSliceWith_regTab (s : State) (i : Nat) (x : Nat) (sent : List (Nat × Bool × Nat)) : (State.planSliceWith s i x sent).regTab = s.regTab := by
  unfold State.planSliceWith
  simp [regTab_fold]

@[simp] theorem State.withdraw_regTab (s : State) (l : Nat) (es : List (Nat × Bool × Nat)) : (State.withdraw s l es).1.regTab = s.regTab := by
  unfold State.withdraw
  simp [regTab_fold]

@[simp] theorem State.replanSlice_regTab (s : State) (i : Nat) : (State.replanSlice s i).regTab = s.regTab := by
  unfold State.replanSlice
  (repeat' split) <;> simp [regTab_fold]

@[simp] theorem State.queueState_regTab (s : State) (l : Nat) (c : StateCmd) : (State.queueState s l c).regTab = s.regTab := by
  unfold State.queueState
  simp [apply_ite State.regTab, regTab_fold]

@[simp] theorem State.setCap_regTab (s : State) (u : Nat) (v : CapSt) : (State.setCap s u v).regTab = s.regTab := by
  unfold State.setCap
  simp [regTab_fold]

@[simp] theorem State.setRecChan_regTab (s : State) (c : Nat) (v : RecChan) : (State.setRecChan s c v).regTab = s.regTab := by
  unfold State.setRecChan
  simp [regTab_fold]

@[simp] theorem State.recEvent_regTab (s : State) (u : Nat) (code : Nat) : (State.recEvent s u code).regTab = s.regTab := by
  unfold State.recEvent
  simp

@[simp] theorem State.busDrive_regTab (s : State) (u : Nat) : (State.busDrive s u).regTab = s.regTab := by
  unfold State.busDrive
  simp [regTab_fold, apply_ite State.regTab]

@[simp] theorem State.recTrigMark_regTab (s : State) (u : Nat) (i : Nat) : (State.recTrigMark s u i).regTab = s.regTab := by
  unfold State.recTrigMark
  simp [regTab_fold]

@[simp] theorem State.capDrain_regTab (s : State) (u : Nat) (n : Nat) : (State.capDrain s u n).regTab = s.regTab := by
  unfold State.capDrain
  simp [regTab_fold]

@[simp] theorem State.setWear_regTab (s : State) (r : WearRec) : (State.setWear s r).regTab = s.regTab := by
  unfold State.setWear
  simp [regTab_fold]

@[simp] theorem State.wearRecord_regTab (s : State) : (State.wearRecord s).regTab = s.regTab := by
  unfold State.wearRecord
  simp [regTab_fold]

@[simp] theorem State.wearErr_regTab (s : State) (u : Nat) : (State.wearErr s u).regTab = s.regTab := by
  unfold State.wearErr
  simp [regTab_fold]

@[simp] theorem State.wearEcc_regTab (s : State) (a : Nat) : (State.wearEcc s a).regTab = s.regTab := by
  unfold State.wearEcc
  simp [apply_ite State.regTab, regTab_fold]

@[simp] theorem State.wearDown_regTab (s : State) (l : Nat) : (State.wearDown s l).regTab = s.regTab := by
  unfold State.wearDown
  simp [apply_ite State.regTab, regTab_fold]

@[simp] theorem State.edgeEligible_regTab (s : State) (l : Nat) : (State.edgeEligible s l).regTab = s.regTab := by
  unfold State.edgeEligible
  simp

@[simp] theorem State.sendFrame_regTab (s : State) (l : Nat) (type : Nat) (payload : List Byte) : (State.sendFrame s l type payload).regTab = s.regTab := by
  unfold State.sendFrame
  simp

@[simp] theorem State.sendConfig_regTab (s : State) (l : Nat) : (State.sendConfig s l).regTab = s.regTab := by
  unfold State.sendConfig
  simp

@[simp] theorem State.sendChanOff_regTab (s : State) (l : Nat) (mask : Nat) (prof : Nat) : (State.sendChanOff s l mask prof).regTab = s.regTab := by
  unfold State.sendChanOff
  simp

@[simp] theorem State.upStatusRun_regTab (s : State) (l : Nat) (bs : List Byte) : (State.upStatusRun s l bs).regTab = s.regTab := by
  unfold State.upStatusRun
  simp

@[simp] theorem State.setBoard_regTab (s : State) (l : Nat) (b : BoardSt) : (State.setBoard s l b).regTab = s.regTab := by
  unfold State.setBoard
  simp [regTab_fold]

@[simp] theorem State.driverFrame_regTab (s : State) (l : Nat) (p : Nat) (lineOk : Bool) (bs : List Byte) : (State.driverFrame s l p lineOk bs).regTab = s.regTab := by
  unfold State.driverFrame
  simp [apply_ite State.regTab]

@[simp] theorem State.driverLapse_regTab (s : State) (l : Nat) (p : Nat) : (State.driverLapse s l p).regTab = s.regTab := by
  unfold State.driverLapse
  (try simp)
  (repeat' (split <;> (try simp)))

@[simp] theorem State.driverExecute_regTab (s : State) (l : Nat) : (State.driverExecute s l).regTab = s.regTab := by
  unfold State.driverExecute
  simp [apply_ite State.regTab]

@[simp] theorem State.driverSilence_regTab (s : State) (l : Nat) : (State.driverSilence s l).regTab = s.regTab := by
  unfold State.driverSilence
  simp [apply_ite State.regTab]

@[simp] theorem State.portSyncLoss_regTab (s : State) (l : Nat) (p : Nat) : (State.portSyncLoss s l p).regTab = s.regTab := by
  unfold State.portSyncLoss
  simp [apply_ite State.regTab]

@[simp] theorem State.driverGateFault_regTab (s : State) (l : Nat) (ch : Nat) : (State.driverGateFault s l ch).regTab = s.regTab := by
  unfold State.driverGateFault
  simp

@[simp] theorem State.driverGateReturn_regTab (s : State) (l : Nat) (ch : Nat) : (State.driverGateReturn s l ch).regTab = s.regTab := by
  unfold State.driverGateReturn
  simp

@[simp] theorem State.driverPowerUp_regTab (s : State) (l : Nat) : (State.driverPowerUp s l).regTab = s.regTab := by
  unfold State.driverPowerUp
  simp

@[simp] theorem State.driverStatus_regTab (s : State) (l : Nat) (p : Nat) (desat : Nat) (desatTs : Nat) (temp : Nat) : (State.driverStatus s l p desat desatTs temp).regTab = s.regTab := by
  unfold State.driverStatus
  simp

@[simp] theorem State.setCan_regTab (s : State) (k : Nat) (c : CanSt) : (State.setCan s k c).regTab = s.regTab := by
  unfold State.setCan
  simp [regTab_fold]

@[simp] theorem State.canTscLoad_regTab (s : State) (k : Nat) : (State.canTscLoad s k).regTab = s.regTab := by
  unfold State.canTscLoad
  simp [regTab_fold]

@[simp] theorem State.pmuMark_regTab (s : State) (p : Nat) (c : Nat) (k : Nat) : (State.pmuMark s p c k).regTab = s.regTab := by
  unfold State.pmuMark
  simp [regTab_fold]

@[simp] theorem State.setChain_regTab (s : State) (i : Nat) (c : ChainSt) : (State.setChain s i c).regTab = s.regTab := by
  unfold State.setChain
  simp [regTab_fold]

@[simp] theorem State.setDc_regTab (s : State) (n : Nat) (d : DcSt) : (State.setDc s n d).regTab = s.regTab := by
  unfold State.setDc
  simp [regTab_fold]

@[simp] theorem State.setVec_regTab (s : State) (u : Nat) (v : VecSt) : (State.setVec s u v).regTab = s.regTab := by
  unfold State.setVec
  simp [regTab_fold]

@[simp] theorem State.setKept_regTab (s : State) (n : Nat) (v : KeepSt) : (State.setKept s n v).regTab = s.regTab := by
  unfold State.setKept
  simp [regTab_fold]

@[simp] theorem State.keepField_regTab (s : State) (n : Nat) (a : Nat) (hi : Nat) (lo : Nat) (v : Nat) : (State.keepField s n a hi lo v).regTab = s.regTab := by
  unfold State.keepField
  simp

@[simp] theorem State.vecBoth_regTab (s : State) (u : Nat) (f : VecSt → VecSt) : (State.vecBoth s u f).regTab = s.regTab := by
  unfold State.vecBoth
  simp [regTab_fold]

@[simp] theorem State.setGfe_regTab (s : State) (n : Nat) (v : GfeSt) : (State.setGfe s n v).regTab = s.regTab := by
  unfold State.setGfe
  simp [regTab_fold]

@[simp] theorem State.gfeBoth_regTab (s : State) (n : Nat) (f : GfeSt → GfeSt) : (State.gfeBoth s n f).regTab = s.regTab := by
  unfold State.gfeBoth
  simp

@[simp] theorem State.setSrc_regTab (s : State) (x : Nat) (v : SrcSt) : (State.setSrc s x v).regTab = s.regTab := by
  unfold State.setSrc
  simp [regTab_fold]

@[simp] theorem State.chopMark_regTab (s : State) (n : Nat) : (State.chopMark s n).regTab = s.regTab := by
  unfold State.chopMark
  simp [apply_ite State.regTab, regTab_fold]

@[simp] theorem State.dcSoon_regTab (s : State) (n : Nat) (x : Nat) : (State.dcSoon s n x).regTab = s.regTab := by
  unfold State.dcSoon
  simp [apply_ite State.regTab, regTab_fold]

@[simp] theorem State.srcSoon_regTab (s : State) (k : Nat) (x : Nat) (on : Bool) : (State.srcSoon s k x on).regTab = s.regTab := by
  unfold State.srcSoon
  simp [regTab_fold]

@[simp] theorem State.setSmon_regTab (s : State) (n : Nat) (v : SmonSt) : (State.setSmon s n v).regTab = s.regTab := by
  unfold State.setSmon
  simp [regTab_fold]

@[simp] theorem State.setWd_regTab (s : State) (p : Nat) (v : WdSt) : (State.setWd s p v).regTab = s.regTab := by
  unfold State.setWd
  simp [regTab_fold]

@[simp] theorem State.setPair_regTab (s : State) (p : Nat) (v : PairSt) : (State.setPair s p v).regTab = s.regTab := by
  unfold State.setPair
  simp [regTab_fold]

@[simp] theorem State.pairRestore_regTab (s : State) (p : Nat) (b : Bool) : (State.pairRestore s p b).regTab = s.regTab := by
  unfold State.pairRestore
  simp [apply_ite State.regTab]

@[simp] theorem State.setCtx_regTab (s : State) (c : Nat) (v : CtxSt) : (State.setCtx s c v).regTab = s.regTab := by
  unfold State.setCtx
  simp [regTab_fold]

@[simp] theorem State.ctxIdle_regTab (s : State) (n : Nat) (p : CtxPar) (c : Nat) : (State.ctxIdle s n p c).regTab = s.regTab := by
  unfold State.ctxIdle
  simp [apply_ite State.regTab]

@[simp] theorem State.setCtxBad_regTab (s : State) (a : Nat) (on : Bool) : (State.setCtxBad s a on).regTab = s.regTab := by
  unfold State.setCtxBad
  simp [regTab_fold]

@[simp] theorem State.ceStart_regTab (s : State) (n : Nat) : (State.ceStart s n).regTab = s.regTab := by
  unfold State.ceStart; apply foldl_regTab; intro s c; simp [regTab_fold]

@[simp] theorem State.ceRollback_regTab (s : State) (n : Nat) : (State.ceRollback s n).regTab = s.regTab := by
  unfold State.ceRollback
  simp

@[simp] theorem State.ceStatusWrite_regTab (s : State) (c : Nat) (w : Word) : (State.ceStatusWrite s c w).regTab = s.regTab := by
  unfold State.ceStatusWrite
  simp [regTab_fold]

@[simp] theorem State.ceTake_regTab (s : State) (n : Nat) (g : Nat) (x : Nat) : (State.ceTake s n g x).regTab = s.regTab := by
  unfold State.ceTake
  simp [regTab_fold]

@[simp] theorem State.ceAbort_regTab (s : State) (n : Nat) : (State.ceAbort s n).regTab = s.regTab := by
  unfold State.ceAbort
  simp [regTab_fold]

@[simp] theorem State.dcChainBit_regTab (s : State) (i : Nat) (x : Nat) : (State.dcChainBit s i x).regTab = s.regTab := by
  unfold State.dcChainBit
  simp [apply_ite State.regTab, regTab_fold]

@[simp] theorem State.sigMark_regTab (s : State) (i : Nat) (m : Qual) : (State.sigMark s i m).regTab = s.regTab := by
  unfold State.sigMark
  simp [apply_ite State.regTab, regTab_fold]

@[simp] theorem State.setPos_regTab (s : State) (k : Nat) (v : PosSt) : (State.setPos s k v).regTab = s.regTab := by
  unfold State.setPos
  simp [regTab_fold]

@[simp] theorem State.spdTimeout_regTab (s : State) (k : Nat) : (State.spdTimeout s k).regTab = s.regTab := by
  unfold State.spdTimeout
  (try simp)
  (repeat' (split <;> (try simp)))

@[simp] theorem State.setSnd_regTab (s : State) (v : SndSt) : (State.setSnd s v).regTab = s.regTab := by
  unfold State.setSnd
  simp [regTab_fold]

@[simp] theorem State.setTx_regTab (s : State) (x : SndTx) : (State.setTx s x).regTab = s.regTab := by
  unfold State.setTx
  simp

@[simp] theorem State.txBoth_regTab (s : State) (f : SndTx → SndTx) : (State.txBoth s f).regTab = s.regTab := by
  unfold State.txBoth
  simp

@[simp] theorem State.sndEvent_regTab (s : State) (code : Nat) : (State.sndEvent s code).regTab = s.regTab := by
  unfold State.sndEvent
  simp

@[simp] theorem State.setWait_regTab (s : State) (k : Nat) (v : Option SndShift) : (State.setWait s k v).regTab = s.regTab := by
  unfold State.setWait
  simp

@[simp] theorem State.putWait_regTab (s : State) (k : Nat) (x : SndShift) : (State.putWait s k x).regTab = s.regTab := by
  unfold State.putWait
  (repeat' split) <;> simp

@[simp] theorem State.putResync_regTab (s : State) (x : SndShift) : (State.putResync s x).regTab = s.regTab := by
  unfold State.putResync
  simp [apply_ite State.regTab, regTab_fold]

@[simp] theorem State.applyFrame_regTab (s : State) (ty : Nat) (payload : Nat) (sender : Nat) (e : Nat) : (State.applyFrame s ty payload sender e).1.regTab = s.regTab := by
  unfold State.applyFrame
  (repeat' (split <;> try simp))

@[simp] theorem State.promoteShifts_regTab (s : State) (lim : Nat) : (State.promoteShifts s lim).regTab = s.regTab := by
  unfold State.promoteShifts
  apply each_regTab; intro s k; (repeat' split) <;> simp

@[simp] theorem State.promoteResync_regTab (s : State) (lim : Nat) : (State.promoteResync s lim).regTab = s.regTab := by
  unfold State.promoteResync
  dsimp only
  (repeat' split) <;> first | rfl | simp

@[simp] theorem State.promote_regTab (s : State) (lim : Nat) : (State.promote s lim).regTab = s.regTab :=
  (State.promoteResync_regTab ..).trans (State.promoteShifts_regTab ..)

@[simp] theorem State.shiftApply_regTab (s : State) : (State.shiftApply s).regTab = s.regTab := State.promote_regTab ..

@[simp] theorem State.resyncEnd_regTab (s : State) : (State.resyncEnd s).regTab = s.regTab := by
  unfold State.resyncEnd
  (repeat' split) <;> simp

@[simp] theorem State.claimExpiry_regTab (s : State) : (State.claimExpiry s).regTab = s.regTab := by
  unfold State.claimExpiry
  simp

@[simp] theorem State.sndPop_regTab (s : State) : (State.sndPop s).regTab = s.regTab := by
  unfold State.sndPop
  simp [apply_ite State.regTab, regTab_fold]

@[simp] theorem State.txSetup_regTab (s : State) (k : Nat) (claim : Word) : (State.txSetup s k claim).regTab = s.regTab := by
  unfold State.txSetup
  (try simp)
  (repeat' (split <;> (try simp)))

@[simp] theorem State.gfeTake_regTab (s : State) (n : Nat) : (State.gfeTake s n).regTab = s.regTab := by
  unfold State.gfeTake
  simp [regTab_fold]

@[simp] theorem State.frtEvent_regTab (s : State) (n : Nat) (code : Nat) : (State.frtEvent s n code).regTab = s.regTab := by
  unfold State.frtEvent
  simp

@[simp] theorem State.gfeSeqStart_regTab (s : State) (n : Nat) : (State.gfeSeqStart s n).regTab = s.regTab := by
  unfold State.gfeSeqStart
  simp

@[simp] theorem State.accHiRead_regTab (s : State) (n : Nat) : (State.accHiRead s n).regTab = s.regTab := by
  unfold State.accHiRead
  simp [regTab_fold]

@[simp] theorem State.motPut_regTab (s : State) (m : Nat) (p : Nat) (v : SliceSet) : (State.motPut s m p v).regTab = s.regTab := by
  unfold State.motPut
  simp

@[simp] theorem State.motCommit_regTab (s : State) (m : Nat) : (State.motCommit s m).regTab = s.regTab := by
  unfold State.motCommit
  simp

@[simp] theorem State.motGap_regTab (s : State) (m : Nat) : (State.motGap s m).regTab = s.regTab := by
  unfold State.motGap
  simp [apply_ite State.regTab, regTab_fold]

@[simp] theorem State.auxStop_regTab (s : State) (m : Nat) : (State.auxStop s m).regTab = s.regTab := by
  unfold State.auxStop
  simp [apply_ite State.regTab]

@[simp] theorem State.motDuty_regTab (s : State) (m : Nat) : (State.motDuty s m).regTab = s.regTab := by
  unfold State.motDuty
  (repeat' (split <;> try simp [apply_ite State.regTab]))

@[simp] theorem State.motPublish_regTab (s : State) (m : Nat) : (State.motPublish s m).regTab = s.regTab := by
  unfold State.motPublish
  simp [apply_ite State.regTab]

@[simp] theorem State.motHoldEnd_regTab (s : State) (m : Nat) : (State.motHoldEnd s m).regTab = s.regTab := by
  unfold State.motHoldEnd
  (repeat' split) <;> simp

@[simp] theorem State.motPassage_regTab (s : State) (m : Nat) (sign : Bool) : (State.motPassage s m sign).regTab = s.regTab := by
  unfold State.motPassage
  simp [regTab_fold]

@[simp] theorem State.brkOffEnd_regTab (s : State) (m : Nat) : (State.brkOffEnd s m).regTab = s.regTab := by
  unfold State.brkOffEnd
  (repeat' split) <;> simp

@[simp] theorem State.atTick_regTab (s : State) (f : Nat → Nat → Nat × Nat) : (State.atTick s f).regTab = s.regTab := by
  unfold State.atTick
  simp [regTab_fold, apply_ite State.regTab]

@[simp] theorem State.timeNsRead_regTab (s : State) (i : Initiator) : (State.timeNsRead s i).1.regTab = s.regTab := by
  unfold State.timeNsRead
  exact (mk_regTab ..).trans (regTab_fold s)

@[simp] theorem State.setEthQueue_regTab (s : State) (p : Nat) (q : Nat) (l : List EthFrame) : (State.setEthQueue s p q l).regTab = s.regTab := by
  unfold State.setEthQueue
  simp [regTab_fold]

@[simp] theorem State.ethLearn_regTab (s : State) (p : Nat) (bs : List Byte) : (State.ethLearn s p bs).regTab = s.regTab := by
  unfold State.ethLearn
  simp [regTab_fold, apply_ite State.regTab]

@[simp] theorem State.macAgeOut_regTab (s : State) (a : Nat) : (State.macAgeOut s a).regTab = s.regTab := by
  unfold State.macAgeOut
  simp [regTab_fold]

@[simp] theorem State.ethTsPop_regTab (s : State) : (State.ethTsPop s).1.regTab = s.regTab := by
  unfold State.ethTsPop
  simp [regTab_fold]

@[simp] theorem State.setSar_regTab (s : State) (h : Nat) (v : SarSt) : (State.setSar s h v).regTab = s.regTab := by
  unfold State.setSar
  simp [regTab_fold]

@[simp] theorem State.commitStep_regTab (s : State) (n : Nat) : (State.commitStep s n).regTab = s.regTab := by
  unfold State.commitStep
  simp [apply_ite State.regTab]

@[simp] theorem State.dropSets_regTab (s : State) (n : Nat) : (State.dropSets s n).regTab = s.regTab := by
  unfold State.dropSets
  simp

@[simp] theorem State.setThr_regTab (s : State) (n : Nat) (v : TwinThr) : (State.setThr s n v).regTab = s.regTab := by
  unfold State.setThr
  simp [regTab_fold]

@[simp] theorem State.cwySend_regTab (s : State) (ty : Nat) (thread : Nat) (fwd : Bool) (payload : List Dword) : (State.cwySend s ty thread fwd payload).regTab = s.regTab := by
  unfold State.cwySend
  simp [regTab_fold, apply_ite State.regTab]

@[simp] theorem State.twinOverrun_regTab (s : State) (n : Nat) : (State.twinOverrun s n).regTab = s.regTab := by
  unfold State.twinOverrun
  simp [apply_ite State.regTab]

@[simp] theorem State.twinEnd_regTab (s : State) (n : Nat) : (State.twinEnd s n).regTab = s.regTab := by
  unfold State.twinEnd
  simp [apply_ite State.regTab]

@[simp] theorem State.twinLatch_regTab (s : State) (n : Nat) : (State.twinLatch s n).regTab = s.regTab := by
  unfold State.twinLatch
  simp [regTab_fold, apply_ite State.regTab]

@[simp] theorem State.cwyStatusSend_regTab (s : State) : (State.cwyStatusSend s).regTab = s.regTab := by
  unfold State.cwyStatusSend; split
  · rfl
  · exact State.cwySend_regTab ..

@[simp] theorem State.cwyJoinSend_regTab (s : State) : (State.cwyJoinSend s).regTab = s.regTab := by
  unfold State.cwyJoinSend
  simp [apply_ite State.regTab, regTab_fold]

@[simp] theorem State.cwyTimeSend_regTab (s : State) : (State.cwyTimeSend s).regTab = s.regTab := by
  unfold State.cwyTimeSend
  simp [regTab_fold, apply_ite State.regTab]

@[simp] theorem State.islLog_regTab (s : State) (code : Nat) (a : Nat) (b : Nat) : (State.islLog s code a b).regTab = s.regTab := by
  unfold State.islLog
  simp [regTab_fold]

@[simp] theorem State.islSnapStart_regTab (s : State) : (State.islSnapStart s).regTab = s.regTab := by
  unfold State.islSnapStart
  simp [regTab_fold, apply_ite State.regTab]

@[simp] theorem State.meterWindow_regTab (s : State) (m : IslMeas) : (State.meterWindow s m).regTab = s.regTab := by
  unfold State.meterWindow
  simp [regTab_fold, apply_ite State.regTab]

@[simp] theorem State.islAdd_regTab (s : State) (k : Nat) (e : Nat) : (State.islAdd s k e).regTab = s.regTab := by
  unfold State.islAdd
  simp [regTab_fold]

@[simp] theorem State.islSigned_regTab (s : State) (q : Nat) (φ : Nat) (e : Int) : (State.islSigned s q φ e).regTab = s.regTab := by
  unfold State.islSigned
  simp [apply_ite State.regTab]

@[simp] theorem State.setPulse_regTab (s : State) (o : Bool) (v : IslPulse) : (State.setPulse s o v).regTab = s.regTab := by
  unfold State.setPulse
  cases o <;> simp [regTab_fold]

@[simp] theorem State.modeTake_regTab (s : State) : (State.modeTake s).regTab = s.regTab := by
  unfold State.modeTake
  simp [regTab_fold, apply_ite State.regTab]

@[simp] theorem State.islOwe_regTab (s : State) (o : Bool) (e : Int) : (State.islOwe s o e).regTab = s.regTab := by
  unfold State.islOwe
  simp [apply_ite State.regTab]

@[simp] theorem State.islQuantum_regTab (s : State) (p : List Int) (q : List Int) : (State.islQuantum s p q).regTab = s.regTab := by
  unfold State.islQuantum
  simp [apply_ite State.regTab]

@[simp] theorem State.islParTake_regTab (s : State) : (State.islParTake s).regTab = s.regTab := by
  unfold State.islParTake
  (repeat' split) <;> simp [regTab_fold]

@[simp] theorem State.meterQuantum_regTab (s : State) (p : List Int) (q : List Int) : (State.meterQuantum s p q).regTab = s.regTab := by
  unfold State.meterQuantum
  simp [apply_ite State.regTab]

@[simp] theorem State.meterPulse_regTab (s : State) (o : Bool) : (State.meterPulse s o).regTab = s.regTab := by
  unfold State.meterPulse
  simp [apply_ite State.regTab]

@[simp] theorem State.islClock_regTab (s : State) (dev : Int) : (State.islClock s dev).regTab = s.regTab := by
  unfold State.islClock
  simp [regTab_fold, apply_ite State.regTab]

@[simp] theorem State.islMode_regTab (s : State) (m : Nat) : (State.islMode s m).regTab = s.regTab := by
  unfold State.islMode
  simp [regTab_fold, apply_ite State.regTab]

@[simp] theorem State.islOpen_regTab (s : State) : (State.islOpen s).regTab = s.regTab := by
  unfold State.islOpen
  simp [regTab_fold]

@[simp] theorem State.sealChange_regTab (s : State) (closed : Bool) : (State.sealChange s closed).regTab = s.regTab := by
  unfold State.sealChange
  simp [regTab_fold, apply_ite State.regTab]

@[simp] theorem State.testExpiry_regTab (s : State) : (State.testExpiry s).regTab = s.regTab := by
  unfold State.testExpiry
  simp [apply_ite State.regTab]

@[simp] theorem State.straitFall_regTab (s : State) (p : List Int) (q : List Int) : (State.straitFall s p q).regTab = s.regTab := by
  unfold State.straitFall
  simp [regTab_fold, apply_ite State.regTab]

@[simp] theorem State.straitReturn_regTab (s : State) (retained : Bool) : (State.straitReturn s retained).regTab = s.regTab := by
  unfold State.straitReturn
  simp [regTab_fold, apply_ite State.regTab]

@[simp] theorem State.calReply_regTab (s : State) (cmd : Nat) (idx : Nat) (value : Nat) : (State.calReply s cmd idx value).regTab = s.regTab := by
  unfold State.calReply
  simp [regTab_fold]

@[simp] theorem State.calRead_regTab (s : State) (staging : Bool) (idx : Nat) (crcOk : Bool) : (State.calRead s staging idx crcOk).regTab = s.regTab := by
  unfold State.calRead
  simp [apply_ite State.regTab]

@[simp] theorem State.calWrite_regTab (s : State) (idx : Nat) (w : Word) (crcOk : Bool) : (State.calWrite s idx w crcOk).regTab = s.regTab := by
  unfold State.calWrite
  simp [regTab_fold, apply_ite State.regTab]

@[simp] theorem State.calCommit_regTab (s : State) (idx : Nat) (crcOk : Bool) : (State.calCommit s idx crcOk).regTab = s.regTab := by
  unfold State.calCommit
  simp [regTab_fold, apply_ite State.regTab]

@[simp] theorem State.setMoving_regTab (s : State) (d : Nat) (v : Nat) : (State.setMoving s d v).regTab = s.regTab := by
  unfold State.setMoving
  simp [regTab_fold]

@[simp] theorem State.pdOffDone_regTab (s : State) (d : Nat) : (State.pdOffDone s d).regTab = s.regTab := by
  unfold State.pdOffDone
  simp [apply_ite State.regTab]

@[simp] theorem State.dramTrained_regTab (s : State) : (State.dramTrained s).regTab = s.regTab := by
  unfold State.dramTrained
  simp [regTab_fold, apply_ite State.regTab]

@[simp] theorem State.pdWake14_regTab (s : State) : (State.pdWake14 s).regTab = s.regTab := by
  unfold State.pdWake14
  simp [apply_ite State.regTab]

@[simp] theorem State.irqTake_regTab (s : State) (p : Nat) (sup : Bool) : (State.irqTake s p sup).regTab = s.regTab := by
  unfold State.irqTake
  simp [apply_ite State.regTab, regTab_fold]

@[simp] theorem State.irqBack_regTab (s : State) (p : Nat) (sup : Bool) : (State.irqBack s p sup).regTab = s.regTab := by
  unfold State.irqBack
  simp [apply_ite State.regTab, regTab_fold]

@[simp] theorem State.irqClaim_regTab (s : State) (p : Nat) (sup : Bool) : (State.irqClaim s p sup).1.regTab = s.regTab := by
  unfold State.irqClaim
  (repeat' split) <;> simp [regTab_fold]

@[simp] theorem State.jtag_regTab (s : State) (i : Tap) : (State.jtag s i).regTab = s.regTab := by
  unfold State.jtag
  simp [regTab_fold]

@[simp] theorem State.setBoot_regTab (s : State) (b : BootSt) : (State.setBoot s b).regTab = s.regTab := by
  unfold State.setBoot
  simp [regTab_fold]

@[simp] theorem State.flashCut_regTab (s : State) : (State.flashCut s).regTab = s.regTab := by
  unfold State.flashCut
  (repeat' (split <;> try simp [apply_ite State.regTab]))

@[simp] theorem State.tapReset_regTab (s : State) : (State.tapReset s).regTab = s.regTab := by
  unfold State.tapReset
  simp [regTab_fold]

@[simp] theorem State.takeGrace_regTab (s : State) (i : ReleaseIn) : (State.takeGrace s i).regTab = s.regTab := by
  unfold State.takeGrace
  simp [regTab_fold]

@[simp] theorem State.setIom_regTab (s : State) (v : IomSt) : (State.setIom s v).regTab = s.regTab := by
  unfold State.setIom
  simp [regTab_fold]

@[simp] theorem State.translate_regTab (s : State) (dom : Nat) (iova : Nat) (write : Bool) : (State.translate s dom iova write).1.regTab = s.regTab := by
  unfold State.translate
  (repeat' (split <;> try simp))

@[simp] theorem State.iomPop_regTab (s : State) : (State.iomPop s).regTab = s.regTab := by
  unfold State.iomPop
  simp

@[simp] theorem State.setFq_regTab (s : State) (q : Nat) (v : FryQ) : (State.setFq s q v).regTab = s.regTab := by
  unfold State.setFq
  simp [regTab_fold]

@[simp] theorem State.fqEvent_regTab (s : State) (q : Nat) (code : Nat) (irq : Bool) : (State.fqEvent s q code irq).regTab = s.regTab := by
  unfold State.fqEvent
  simp

@[simp] theorem State.fqResult_regTab (s : State) (q : Nat) (code : Nat) (late : Bool) : (State.fqResult s q code late).regTab = s.regTab := by
  unfold State.fqResult
  simp [regTab_fold]

@[simp] theorem State.callStep_regTab (s : State) (n : Nat) : (State.callStep s n).regTab = s.regTab := by
  unfold State.callStep
  simp [apply_ite State.regTab]

@[simp] theorem State.timeoutUndo_regTab (s : State) (n : Nat) : (State.timeoutUndo s n).regTab = s.regTab := by
  unfold State.timeoutUndo
  simp [regTab_fold]

@[simp] theorem State.eachBit_regTab (s : State) (w : Word) (n : Nat) (f : State → Nat → State) (h : ∀ s i, (f s i).regTab = s.regTab) : (State.eachBit s w n f).regTab = s.regTab := by
  unfold State.eachBit
  exact each_regTab _ _ _ h

@[simp] theorem State.pairCtrlWrite_regTab (s : State) (p : Nat) (w : Word) : (State.pairCtrlWrite s p w).regTab = s.regTab := by
  unfold State.pairCtrlWrite
  simp [apply_ite State.regTab]

@[simp] theorem State.inDomain_regTab (s : State) (d : Nat) (f : State → State) (h : (f s).regTab = s.regTab) : (State.inDomain s d f).regTab = s.regTab := by
  unfold State.inDomain; split
  · exact h
  · rfl

@[simp] theorem State.uliOpen_regTab (s : State) (point : Nat) (status : Nat) : (State.uliOpen s point status).1.regTab = s.regTab := by
  unfold State.uliOpen
  simp

@[simp] theorem State.uliReadRec_regTab (s : State) (p : Nat) (c : Nat) (item : Nat) : (State.uliReadRec s p c item).1.regTab = s.regTab := by
  unfold State.uliReadRec
  (repeat' (split <;> try simp))

@[simp] theorem State.keepTake_regTab (s : State) (n : Nat) : (State.keepTake s n).regTab = s.regTab := by
  unfold State.keepTake
  simp

@[simp] theorem State.fillClear_regTab (s : State) (n : Nat) : (State.fillClear s n).regTab = s.regTab := by
  unfold State.fillClear
  simp [regTab_fold]

@[simp] theorem State.fillDrop_regTab (s : State) (n : Nat) : (State.fillDrop s n).regTab = s.regTab := by
  unfold State.fillDrop
  simp

@[simp] theorem State.deviceSignals_regTab (s : State) (n : Nat) : (State.deviceSignals s n).regTab = s.regTab := by
  unfold State.deviceSignals
  simp [apply_ite State.regTab, regTab_fold]

@[simp] theorem State.fqTakeFrame_regTab (s : State) (q : Nat) : (State.fqTakeFrame s q).regTab = s.regTab := by
  unfold State.fqTakeFrame
  (repeat' split) <;> simp [regTab_fold]

theorem rd_congr {s t : State} (e : t.regTab = s.regTab) (a : Nat) : t.rd a = s.rd a := congrArg (fun r => tabGet regReset r a) e

@[simp] theorem State.goto_rd (s : State) (t : Nat) (_a : Nat) : (State.goto s t).rd _a = s.rd _a := rd_congr (State.goto_regTab ..) _a
@[simp] theorem State.markRaised_rd (s : State) (a : Nat) (m : Word) (c : Word) (_a : Nat) : (State.markRaised s a m c).rd _a = s.rd _a := rd_congr (State.markRaised_regTab ..) _a
@[simp] theorem State.soon_rd (s : State) (t : Nat) (x : Soon) (_a : Nat) : (State.soon s t x).rd _a = s.rd _a := rd_congr (State.soon_regTab ..) _a
@[simp] theorem State.lineMark_rd (s : State) (x : Nat) (_a : Nat) : (State.lineMark s x).rd _a = s.rd _a := rd_congr (State.lineMark_regTab ..) _a
@[simp] theorem State.tookFree_rd (s : State) (_a : Nat) : (State.tookFree s).rd _a = s.rd _a := rd_congr (State.tookFree_regTab ..) _a
@[simp] theorem State.setIrq_rd (s : State) (i : Nat) (b : Bool) (_a : Nat) : (State.setIrq s i b).rd _a = s.rd _a := rd_congr (State.setIrq_regTab ..) _a
@[simp] theorem State.postAt_rd (s : State) (src : Nat) (code : Nat) (tau : Int) (_a : Nat) : (State.postAt s src code tau).rd _a = s.rd _a := rd_congr (State.postAt_regTab ..) _a
@[simp] theorem State.post_rd (s : State) (src : Nat) (code : Nat) (_a : Nat) : (State.post s src code).rd _a = s.rd _a := rd_congr (State.post_regTab ..) _a
@[simp] theorem State.setStable_rd (s : State) (i : Nat) (v : SigVal) (_a : Nat) : (State.setStable s i v).rd _a = s.rd _a := rd_congr (State.setStable_regTab ..) _a
@[simp] theorem State.setFill_rd (s : State) (i : Nat) (v : Option SigVal) (_a : Nat) : (State.setFill s i v).rd _a = s.rd _a := rd_congr (State.setFill_regTab ..) _a
@[simp] theorem State.sigStore_rd (s : State) (i : Nat) (v : Word) (q : Qual) (_a : Nat) : (State.sigStore s i v q).rd _a = s.rd _a := rd_congr (State.sigStore_regTab ..) _a
@[simp] theorem State.sigPut_rd (s : State) (i : Nat) (v : Word) (q : Qual) (_a : Nat) : (State.sigPut s i v q).rd _a = s.rd _a := rd_congr (State.sigPut_regTab ..) _a
@[simp] theorem State.setByte_rd (s : State) (a : Nat) (b : Byte) (_a : Nat) : (State.setByte s a b).rd _a = s.rd _a := rd_congr (State.setByte_regTab ..) _a
@[simp] theorem State.loseMemory_rd (s : State) (rs : List Nat) (e : Nat) (_a : Nat) : (State.loseMemory s rs e).rd _a = s.rd _a := rd_congr (State.loseMemory_regTab ..) _a
@[simp] theorem State.setSeq_rd (s : State) (n : Nat) (v : SeqSt) (_a : Nat) : (State.setSeq s n v).rd _a = s.rd _a := rd_congr (State.setSeq_regTab ..) _a
@[simp] theorem State.setSlice_rd (s : State) (n : Nat) (v : SliceSt) (_a : Nat) : (State.setSlice s n v).rd _a = s.rd _a := rd_congr (State.setSlice_regTab ..) _a
@[simp] theorem State.setLeg_rd (s : State) (n : Nat) (v : LegSt) (_a : Nat) : (State.setLeg s n v).rd _a = s.rd _a := rd_congr (State.setLeg_regTab ..) _a
@[simp] theorem State.setLink_rd (s : State) (n : Nat) (v : LinkSt) (_a : Nat) : (State.setLink s n v).rd _a = s.rd _a := rd_congr (State.setLink_regTab ..) _a
@[simp] theorem State.setMot_rd (s : State) (m : Nat) (v : AuxSt) (_a : Nat) : (State.setMot s m v).rd _a = s.rd _a := rd_congr (State.setMot_regTab ..) _a
@[simp] theorem State.auxFollow_rd (s : State) (h : Nat) (hi : Bool) (_a : Nat) : (State.auxFollow s h hi).rd _a = s.rd _a := rd_congr (State.auxFollow_regTab ..) _a
@[simp] theorem State.auxNote_rd (s : State) (h : Nat) (_a : Nat) : (State.auxNote s h).rd _a = s.rd _a := rd_congr (State.auxNote_regTab ..) _a
@[simp] theorem State.auxNoteMotor_rd (s : State) (m : Nat) (_a : Nat) : (State.auxNoteMotor s m).rd _a = s.rd _a := rd_congr (State.auxNoteMotor_regTab ..) _a
@[simp] theorem State.setEdges_rd (s : State) (l : Nat) (es : List Edge) (_a : Nat) : (State.setEdges s l es).rd _a = s.rd _a := rd_congr (State.setEdges_regTab ..) _a
@[simp] theorem State.dropEdges_rd (s : State) (l : Nat) (gone : Edge → Bool) (_a : Nat) : (State.dropEdges s l gone).rd _a = s.rd _a := rd_congr (State.dropEdges_regTab ..) _a
@[simp] theorem State.handEdge_rd (s : State) (l : Nat) (c : SwCmd) (_a : Nat) : (State.handEdge s l c).rd _a = s.rd _a := rd_congr (State.handEdge_regTab ..) _a
@[simp] theorem State.handEdges_rd (s : State) (l : Nat) (cs : List SwCmd) (_a : Nat) : (State.handEdges s l cs).rd _a = s.rd _a := rd_congr (State.handEdges_regTab ..) _a
@[simp] theorem State.handLeg_rd (s : State) (g : Nat) (x : Nat) (segs : List Seg) (sent : List (Nat × Bool × Nat)) (_a : Nat) : (State.handLeg s g x segs sent).1.rd _a = s.rd _a := rd_congr (State.handLeg_regTab ..) _a
@[simp] theorem State.handSlice_rd (s : State) (i : Nat) (x : Nat) (segs : List Seg) (sent : List (Nat × Bool × Nat)) (_a : Nat) : (State.handSlice s i x segs sent).1.rd _a = s.rd _a := rd_congr (State.handSlice_regTab ..) _a
@[simp] theorem State.planLegWith_rd (s : State) (g : Nat) (x : Nat) (sent : List (Nat × Bool × Nat)) (_a : Nat) : (State.planLegWith s g x sent).rd _a = s.rd _a := rd_congr (State.planLegWith_regTab ..) _a
@[simp] theorem State.planSliceWith_rd (s : State) (i : Nat) (x : Nat) (sent : List (Nat × Bool × Nat)) (_a : Nat) : (State.planSliceWith s i x sent).rd _a = s.rd _a := rd_congr (State.planSliceWith_regTab ..) _a
@[simp] theorem State.withdraw_rd (s : State) (l : Nat) (es : List (Nat × Bool × Nat)) (_a : Nat) : (State.withdraw s l es).1.rd _a = s.rd _a := rd_congr (State.withdraw_regTab ..) _a
@[simp] theorem State.replanSlice_rd (s : State) (i : Nat) (_a : Nat) : (State.replanSlice s i).rd _a = s.rd _a := rd_congr (State.replanSlice_regTab ..) _a
@[simp] theorem State.queueState_rd (s : State) (l : Nat) (c : StateCmd) (_a : Nat) : (State.queueState s l c).rd _a = s.rd _a := rd_congr (State.queueState_regTab ..) _a
@[simp] theorem State.setCap_rd (s : State) (u : Nat) (v : CapSt) (_a : Nat) : (State.setCap s u v).rd _a = s.rd _a := rd_congr (State.setCap_regTab ..) _a
@[simp] theorem State.setRecChan_rd (s : State) (c : Nat) (v : RecChan) (_a : Nat) : (State.setRecChan s c v).rd _a = s.rd _a := rd_congr (State.setRecChan_regTab ..) _a
@[simp] theorem State.recEvent_rd (s : State) (u : Nat) (code : Nat) (_a : Nat) : (State.recEvent s u code).rd _a = s.rd _a := rd_congr (State.recEvent_regTab ..) _a
@[simp] theorem State.busDrive_rd (s : State) (u : Nat) (_a : Nat) : (State.busDrive s u).rd _a = s.rd _a := rd_congr (State.busDrive_regTab ..) _a
@[simp] theorem State.recTrigMark_rd (s : State) (u : Nat) (i : Nat) (_a : Nat) : (State.recTrigMark s u i).rd _a = s.rd _a := rd_congr (State.recTrigMark_regTab ..) _a
@[simp] theorem State.capDrain_rd (s : State) (u : Nat) (n : Nat) (_a : Nat) : (State.capDrain s u n).rd _a = s.rd _a := rd_congr (State.capDrain_regTab ..) _a
@[simp] theorem State.setWear_rd (s : State) (r : WearRec) (_a : Nat) : (State.setWear s r).rd _a = s.rd _a := rd_congr (State.setWear_regTab ..) _a
@[simp] theorem State.wearRecord_rd (s : State) (_a : Nat) : (State.wearRecord s).rd _a = s.rd _a := rd_congr (State.wearRecord_regTab ..) _a
@[simp] theorem State.wearErr_rd (s : State) (u : Nat) (_a : Nat) : (State.wearErr s u).rd _a = s.rd _a := rd_congr (State.wearErr_regTab ..) _a
@[simp] theorem State.wearEcc_rd (s : State) (a : Nat) (_a : Nat) : (State.wearEcc s a).rd _a = s.rd _a := rd_congr (State.wearEcc_regTab ..) _a
@[simp] theorem State.wearDown_rd (s : State) (l : Nat) (_a : Nat) : (State.wearDown s l).rd _a = s.rd _a := rd_congr (State.wearDown_regTab ..) _a
@[simp] theorem State.edgeEligible_rd (s : State) (l : Nat) (_a : Nat) : (State.edgeEligible s l).rd _a = s.rd _a := rd_congr (State.edgeEligible_regTab ..) _a
@[simp] theorem State.sendFrame_rd (s : State) (l : Nat) (type : Nat) (payload : List Byte) (_a : Nat) : (State.sendFrame s l type payload).rd _a = s.rd _a := rd_congr (State.sendFrame_regTab ..) _a
@[simp] theorem State.sendConfig_rd (s : State) (l : Nat) (_a : Nat) : (State.sendConfig s l).rd _a = s.rd _a := rd_congr (State.sendConfig_regTab ..) _a
@[simp] theorem State.sendChanOff_rd (s : State) (l : Nat) (mask : Nat) (prof : Nat) (_a : Nat) : (State.sendChanOff s l mask prof).rd _a = s.rd _a := rd_congr (State.sendChanOff_regTab ..) _a
@[simp] theorem State.upStatusRun_rd (s : State) (l : Nat) (bs : List Byte) (_a : Nat) : (State.upStatusRun s l bs).rd _a = s.rd _a := rd_congr (State.upStatusRun_regTab ..) _a
@[simp] theorem State.setBoard_rd (s : State) (l : Nat) (b : BoardSt) (_a : Nat) : (State.setBoard s l b).rd _a = s.rd _a := rd_congr (State.setBoard_regTab ..) _a
@[simp] theorem State.driverFrame_rd (s : State) (l : Nat) (p : Nat) (lineOk : Bool) (bs : List Byte) (_a : Nat) : (State.driverFrame s l p lineOk bs).rd _a = s.rd _a := rd_congr (State.driverFrame_regTab ..) _a
@[simp] theorem State.driverLapse_rd (s : State) (l : Nat) (p : Nat) (_a : Nat) : (State.driverLapse s l p).rd _a = s.rd _a := rd_congr (State.driverLapse_regTab ..) _a
@[simp] theorem State.driverExecute_rd (s : State) (l : Nat) (_a : Nat) : (State.driverExecute s l).rd _a = s.rd _a := rd_congr (State.driverExecute_regTab ..) _a
@[simp] theorem State.driverSilence_rd (s : State) (l : Nat) (_a : Nat) : (State.driverSilence s l).rd _a = s.rd _a := rd_congr (State.driverSilence_regTab ..) _a
@[simp] theorem State.portSyncLoss_rd (s : State) (l : Nat) (p : Nat) (_a : Nat) : (State.portSyncLoss s l p).rd _a = s.rd _a := rd_congr (State.portSyncLoss_regTab ..) _a
@[simp] theorem State.driverGateFault_rd (s : State) (l : Nat) (ch : Nat) (_a : Nat) : (State.driverGateFault s l ch).rd _a = s.rd _a := rd_congr (State.driverGateFault_regTab ..) _a
@[simp] theorem State.driverGateReturn_rd (s : State) (l : Nat) (ch : Nat) (_a : Nat) : (State.driverGateReturn s l ch).rd _a = s.rd _a := rd_congr (State.driverGateReturn_regTab ..) _a
@[simp] theorem State.driverPowerUp_rd (s : State) (l : Nat) (_a : Nat) : (State.driverPowerUp s l).rd _a = s.rd _a := rd_congr (State.driverPowerUp_regTab ..) _a
@[simp] theorem State.driverStatus_rd (s : State) (l : Nat) (p : Nat) (desat : Nat) (desatTs : Nat) (temp : Nat) (_a : Nat) : (State.driverStatus s l p desat desatTs temp).rd _a = s.rd _a := rd_congr (State.driverStatus_regTab ..) _a
@[simp] theorem State.setCan_rd (s : State) (k : Nat) (c : CanSt) (_a : Nat) : (State.setCan s k c).rd _a = s.rd _a := rd_congr (State.setCan_regTab ..) _a
@[simp] theorem State.canTscLoad_rd (s : State) (k : Nat) (_a : Nat) : (State.canTscLoad s k).rd _a = s.rd _a := rd_congr (State.canTscLoad_regTab ..) _a
@[simp] theorem State.pmuMark_rd (s : State) (p : Nat) (c : Nat) (k : Nat) (_a : Nat) : (State.pmuMark s p c k).rd _a = s.rd _a := rd_congr (State.pmuMark_regTab ..) _a
@[simp] theorem State.setChain_rd (s : State) (i : Nat) (c : ChainSt) (_a : Nat) : (State.setChain s i c).rd _a = s.rd _a := rd_congr (State.setChain_regTab ..) _a
@[simp] theorem State.setDc_rd (s : State) (n : Nat) (d : DcSt) (_a : Nat) : (State.setDc s n d).rd _a = s.rd _a := rd_congr (State.setDc_regTab ..) _a
@[simp] theorem State.setVec_rd (s : State) (u : Nat) (v : VecSt) (_a : Nat) : (State.setVec s u v).rd _a = s.rd _a := rd_congr (State.setVec_regTab ..) _a
@[simp] theorem State.setKept_rd (s : State) (n : Nat) (v : KeepSt) (_a : Nat) : (State.setKept s n v).rd _a = s.rd _a := rd_congr (State.setKept_regTab ..) _a
@[simp] theorem State.keepField_rd (s : State) (n : Nat) (a : Nat) (hi : Nat) (lo : Nat) (v : Nat) (_a : Nat) : (State.keepField s n a hi lo v).rd _a = s.rd _a := rd_congr (State.keepField_regTab ..) _a
@[simp] theorem State.vecBoth_rd (s : State) (u : Nat) (f : VecSt → VecSt) (_a : Nat) : (State.vecBoth s u f).rd _a = s.rd _a := rd_congr (State.vecBoth_regTab ..) _a
@[simp] theorem State.setGfe_rd (s : State) (n : Nat) (v : GfeSt) (_a : Nat) : (State.setGfe s n v).rd _a = s.rd _a := rd_congr (State.setGfe_regTab ..) _a
@[simp] theorem State.gfeBoth_rd (s : State) (n : Nat) (f : GfeSt → GfeSt) (_a : Nat) : (State.gfeBoth s n f).rd _a = s.rd _a := rd_congr (State.gfeBoth_regTab ..) _a
@[simp] theorem State.setSrc_rd (s : State) (x : Nat) (v : SrcSt) (_a : Nat) : (State.setSrc s x v).rd _a = s.rd _a := rd_congr (State.setSrc_regTab ..) _a
@[simp] theorem State.chopMark_rd (s : State) (n : Nat) (_a : Nat) : (State.chopMark s n).rd _a = s.rd _a := rd_congr (State.chopMark_regTab ..) _a
@[simp] theorem State.dcSoon_rd (s : State) (n : Nat) (x : Nat) (_a : Nat) : (State.dcSoon s n x).rd _a = s.rd _a := rd_congr (State.dcSoon_regTab ..) _a
@[simp] theorem State.srcSoon_rd (s : State) (k : Nat) (x : Nat) (on : Bool) (_a : Nat) : (State.srcSoon s k x on).rd _a = s.rd _a := rd_congr (State.srcSoon_regTab ..) _a
@[simp] theorem State.setSmon_rd (s : State) (n : Nat) (v : SmonSt) (_a : Nat) : (State.setSmon s n v).rd _a = s.rd _a := rd_congr (State.setSmon_regTab ..) _a
@[simp] theorem State.setWd_rd (s : State) (p : Nat) (v : WdSt) (_a : Nat) : (State.setWd s p v).rd _a = s.rd _a := rd_congr (State.setWd_regTab ..) _a
@[simp] theorem State.setPair_rd (s : State) (p : Nat) (v : PairSt) (_a : Nat) : (State.setPair s p v).rd _a = s.rd _a := rd_congr (State.setPair_regTab ..) _a
@[simp] theorem State.pairRestore_rd (s : State) (p : Nat) (b : Bool) (_a : Nat) : (State.pairRestore s p b).rd _a = s.rd _a := rd_congr (State.pairRestore_regTab ..) _a
@[simp] theorem State.setCtx_rd (s : State) (c : Nat) (v : CtxSt) (_a : Nat) : (State.setCtx s c v).rd _a = s.rd _a := rd_congr (State.setCtx_regTab ..) _a
@[simp] theorem State.ctxIdle_rd (s : State) (n : Nat) (p : CtxPar) (c : Nat) (_a : Nat) : (State.ctxIdle s n p c).rd _a = s.rd _a := rd_congr (State.ctxIdle_regTab ..) _a
@[simp] theorem State.setCtxBad_rd (s : State) (a : Nat) (on : Bool) (_a : Nat) : (State.setCtxBad s a on).rd _a = s.rd _a := rd_congr (State.setCtxBad_regTab ..) _a
@[simp] theorem State.ceStart_rd (s : State) (n : Nat) (_a : Nat) : (State.ceStart s n).rd _a = s.rd _a := rd_congr (State.ceStart_regTab ..) _a
@[simp] theorem State.ceRollback_rd (s : State) (n : Nat) (_a : Nat) : (State.ceRollback s n).rd _a = s.rd _a := rd_congr (State.ceRollback_regTab ..) _a
@[simp] theorem State.ceStatusWrite_rd (s : State) (c : Nat) (w : Word) (_a : Nat) : (State.ceStatusWrite s c w).rd _a = s.rd _a := rd_congr (State.ceStatusWrite_regTab ..) _a
@[simp] theorem State.ceTake_rd (s : State) (n : Nat) (g : Nat) (x : Nat) (_a : Nat) : (State.ceTake s n g x).rd _a = s.rd _a := rd_congr (State.ceTake_regTab ..) _a
@[simp] theorem State.ceAbort_rd (s : State) (n : Nat) (_a : Nat) : (State.ceAbort s n).rd _a = s.rd _a := rd_congr (State.ceAbort_regTab ..) _a
@[simp] theorem State.dcChainBit_rd (s : State) (i : Nat) (x : Nat) (_a : Nat) : (State.dcChainBit s i x).rd _a = s.rd _a := rd_congr (State.dcChainBit_regTab ..) _a
@[simp] theorem State.sigMark_rd (s : State) (i : Nat) (m : Qual) (_a : Nat) : (State.sigMark s i m).rd _a = s.rd _a := rd_congr (State.sigMark_regTab ..) _a
@[simp] theorem State.setPos_rd (s : State) (k : Nat) (v : PosSt) (_a : Nat) : (State.setPos s k v).rd _a = s.rd _a := rd_congr (State.setPos_regTab ..) _a
@[simp] theorem State.spdTimeout_rd (s : State) (k : Nat) (_a : Nat) : (State.spdTimeout s k).rd _a = s.rd _a := rd_congr (State.spdTimeout_regTab ..) _a
@[simp] theorem State.setSnd_rd (s : State) (v : SndSt) (_a : Nat) : (State.setSnd s v).rd _a = s.rd _a := rd_congr (State.setSnd_regTab ..) _a
@[simp] theorem State.setTx_rd (s : State) (x : SndTx) (_a : Nat) : (State.setTx s x).rd _a = s.rd _a := rd_congr (State.setTx_regTab ..) _a
@[simp] theorem State.txBoth_rd (s : State) (f : SndTx → SndTx) (_a : Nat) : (State.txBoth s f).rd _a = s.rd _a := rd_congr (State.txBoth_regTab ..) _a
@[simp] theorem State.sndEvent_rd (s : State) (code : Nat) (_a : Nat) : (State.sndEvent s code).rd _a = s.rd _a := rd_congr (State.sndEvent_regTab ..) _a
@[simp] theorem State.setWait_rd (s : State) (k : Nat) (v : Option SndShift) (_a : Nat) : (State.setWait s k v).rd _a = s.rd _a := rd_congr (State.setWait_regTab ..) _a
@[simp] theorem State.putWait_rd (s : State) (k : Nat) (x : SndShift) (_a : Nat) : (State.putWait s k x).rd _a = s.rd _a := rd_congr (State.putWait_regTab ..) _a
@[simp] theorem State.putResync_rd (s : State) (x : SndShift) (_a : Nat) : (State.putResync s x).rd _a = s.rd _a := rd_congr (State.putResync_regTab ..) _a
@[simp] theorem State.applyFrame_rd (s : State) (ty : Nat) (payload : Nat) (sender : Nat) (e : Nat) (_a : Nat) : (State.applyFrame s ty payload sender e).1.rd _a = s.rd _a := rd_congr (State.applyFrame_regTab ..) _a
@[simp] theorem State.promoteShifts_rd (s : State) (lim : Nat) (_a : Nat) : (State.promoteShifts s lim).rd _a = s.rd _a := rd_congr (State.promoteShifts_regTab ..) _a
@[simp] theorem State.promoteResync_rd (s : State) (lim : Nat) (_a : Nat) : (State.promoteResync s lim).rd _a = s.rd _a := rd_congr (State.promoteResync_regTab ..) _a
@[simp] theorem State.promote_rd (s : State) (lim : Nat) (_a : Nat) : (State.promote s lim).rd _a = s.rd _a := rd_congr (State.promote_regTab ..) _a
@[simp] theorem State.shiftApply_rd (s : State) (_a : Nat) : (State.shiftApply s).rd _a = s.rd _a := rd_congr (State.shiftApply_regTab ..) _a
@[simp] theorem State.resyncEnd_rd (s : State) (_a : Nat) : (State.resyncEnd s).rd _a = s.rd _a := rd_congr (State.resyncEnd_regTab ..) _a
@[simp] theorem State.claimExpiry_rd (s : State) (_a : Nat) : (State.claimExpiry s).rd _a = s.rd _a := rd_congr (State.claimExpiry_regTab ..) _a
@[simp] theorem State.sndPop_rd (s : State) (_a : Nat) : (State.sndPop s).rd _a = s.rd _a := rd_congr (State.sndPop_regTab ..) _a
@[simp] theorem State.txSetup_rd (s : State) (k : Nat) (claim : Word) (_a : Nat) : (State.txSetup s k claim).rd _a = s.rd _a := rd_congr (State.txSetup_regTab ..) _a
@[simp] theorem State.gfeTake_rd (s : State) (n : Nat) (_a : Nat) : (State.gfeTake s n).rd _a = s.rd _a := rd_congr (State.gfeTake_regTab ..) _a
@[simp] theorem State.frtEvent_rd (s : State) (n : Nat) (code : Nat) (_a : Nat) : (State.frtEvent s n code).rd _a = s.rd _a := rd_congr (State.frtEvent_regTab ..) _a
@[simp] theorem State.gfeSeqStart_rd (s : State) (n : Nat) (_a : Nat) : (State.gfeSeqStart s n).rd _a = s.rd _a := rd_congr (State.gfeSeqStart_regTab ..) _a
@[simp] theorem State.accHiRead_rd (s : State) (n : Nat) (_a : Nat) : (State.accHiRead s n).rd _a = s.rd _a := rd_congr (State.accHiRead_regTab ..) _a
@[simp] theorem State.motPut_rd (s : State) (m : Nat) (p : Nat) (v : SliceSet) (_a : Nat) : (State.motPut s m p v).rd _a = s.rd _a := rd_congr (State.motPut_regTab ..) _a
@[simp] theorem State.motCommit_rd (s : State) (m : Nat) (_a : Nat) : (State.motCommit s m).rd _a = s.rd _a := rd_congr (State.motCommit_regTab ..) _a
@[simp] theorem State.motGap_rd (s : State) (m : Nat) (_a : Nat) : (State.motGap s m).rd _a = s.rd _a := rd_congr (State.motGap_regTab ..) _a
@[simp] theorem State.auxStop_rd (s : State) (m : Nat) (_a : Nat) : (State.auxStop s m).rd _a = s.rd _a := rd_congr (State.auxStop_regTab ..) _a
@[simp] theorem State.motDuty_rd (s : State) (m : Nat) (_a : Nat) : (State.motDuty s m).rd _a = s.rd _a := rd_congr (State.motDuty_regTab ..) _a
@[simp] theorem State.motPublish_rd (s : State) (m : Nat) (_a : Nat) : (State.motPublish s m).rd _a = s.rd _a := rd_congr (State.motPublish_regTab ..) _a
@[simp] theorem State.motHoldEnd_rd (s : State) (m : Nat) (_a : Nat) : (State.motHoldEnd s m).rd _a = s.rd _a := rd_congr (State.motHoldEnd_regTab ..) _a
@[simp] theorem State.motPassage_rd (s : State) (m : Nat) (sign : Bool) (_a : Nat) : (State.motPassage s m sign).rd _a = s.rd _a := rd_congr (State.motPassage_regTab ..) _a
@[simp] theorem State.brkOffEnd_rd (s : State) (m : Nat) (_a : Nat) : (State.brkOffEnd s m).rd _a = s.rd _a := rd_congr (State.brkOffEnd_regTab ..) _a
@[simp] theorem State.atTick_rd (s : State) (f : Nat → Nat → Nat × Nat) (_a : Nat) : (State.atTick s f).rd _a = s.rd _a := rd_congr (State.atTick_regTab ..) _a
@[simp] theorem State.timeNsRead_rd (s : State) (i : Initiator) (_a : Nat) : (State.timeNsRead s i).1.rd _a = s.rd _a := rd_congr (State.timeNsRead_regTab ..) _a
@[simp] theorem State.setEthQueue_rd (s : State) (p : Nat) (q : Nat) (l : List EthFrame) (_a : Nat) : (State.setEthQueue s p q l).rd _a = s.rd _a := rd_congr (State.setEthQueue_regTab ..) _a
@[simp] theorem State.ethLearn_rd (s : State) (p : Nat) (bs : List Byte) (_a : Nat) : (State.ethLearn s p bs).rd _a = s.rd _a := rd_congr (State.ethLearn_regTab ..) _a
@[simp] theorem State.macAgeOut_rd (s : State) (a : Nat) (_a : Nat) : (State.macAgeOut s a).rd _a = s.rd _a := rd_congr (State.macAgeOut_regTab ..) _a
@[simp] theorem State.ethTsPop_rd (s : State) (_a : Nat) : (State.ethTsPop s).1.rd _a = s.rd _a := rd_congr (State.ethTsPop_regTab ..) _a
@[simp] theorem State.setSar_rd (s : State) (h : Nat) (v : SarSt) (_a : Nat) : (State.setSar s h v).rd _a = s.rd _a := rd_congr (State.setSar_regTab ..) _a
@[simp] theorem State.commitStep_rd (s : State) (n : Nat) (_a : Nat) : (State.commitStep s n).rd _a = s.rd _a := rd_congr (State.commitStep_regTab ..) _a
@[simp] theorem State.dropSets_rd (s : State) (n : Nat) (_a : Nat) : (State.dropSets s n).rd _a = s.rd _a := rd_congr (State.dropSets_regTab ..) _a
@[simp] theorem State.setThr_rd (s : State) (n : Nat) (v : TwinThr) (_a : Nat) : (State.setThr s n v).rd _a = s.rd _a := rd_congr (State.setThr_regTab ..) _a
@[simp] theorem State.cwySend_rd (s : State) (ty : Nat) (thread : Nat) (fwd : Bool) (payload : List Dword) (_a : Nat) : (State.cwySend s ty thread fwd payload).rd _a = s.rd _a := rd_congr (State.cwySend_regTab ..) _a
@[simp] theorem State.twinOverrun_rd (s : State) (n : Nat) (_a : Nat) : (State.twinOverrun s n).rd _a = s.rd _a := rd_congr (State.twinOverrun_regTab ..) _a
@[simp] theorem State.twinEnd_rd (s : State) (n : Nat) (_a : Nat) : (State.twinEnd s n).rd _a = s.rd _a := rd_congr (State.twinEnd_regTab ..) _a
@[simp] theorem State.twinLatch_rd (s : State) (n : Nat) (_a : Nat) : (State.twinLatch s n).rd _a = s.rd _a := rd_congr (State.twinLatch_regTab ..) _a
@[simp] theorem State.cwyStatusSend_rd (s : State) (_a : Nat) : (State.cwyStatusSend s).rd _a = s.rd _a := rd_congr (State.cwyStatusSend_regTab ..) _a
@[simp] theorem State.cwyJoinSend_rd (s : State) (_a : Nat) : (State.cwyJoinSend s).rd _a = s.rd _a := rd_congr (State.cwyJoinSend_regTab ..) _a
@[simp] theorem State.cwyTimeSend_rd (s : State) (_a : Nat) : (State.cwyTimeSend s).rd _a = s.rd _a := rd_congr (State.cwyTimeSend_regTab ..) _a
@[simp] theorem State.islLog_rd (s : State) (code : Nat) (a : Nat) (b : Nat) (_a : Nat) : (State.islLog s code a b).rd _a = s.rd _a := rd_congr (State.islLog_regTab ..) _a
@[simp] theorem State.islSnapStart_rd (s : State) (_a : Nat) : (State.islSnapStart s).rd _a = s.rd _a := rd_congr (State.islSnapStart_regTab ..) _a
@[simp] theorem State.meterWindow_rd (s : State) (m : IslMeas) (_a : Nat) : (State.meterWindow s m).rd _a = s.rd _a := rd_congr (State.meterWindow_regTab ..) _a
@[simp] theorem State.islAdd_rd (s : State) (k : Nat) (e : Nat) (_a : Nat) : (State.islAdd s k e).rd _a = s.rd _a := rd_congr (State.islAdd_regTab ..) _a
@[simp] theorem State.islSigned_rd (s : State) (q : Nat) (φ : Nat) (e : Int) (_a : Nat) : (State.islSigned s q φ e).rd _a = s.rd _a := rd_congr (State.islSigned_regTab ..) _a
@[simp] theorem State.setPulse_rd (s : State) (o : Bool) (v : IslPulse) (_a : Nat) : (State.setPulse s o v).rd _a = s.rd _a := rd_congr (State.setPulse_regTab ..) _a
@[simp] theorem State.modeTake_rd (s : State) (_a : Nat) : (State.modeTake s).rd _a = s.rd _a := rd_congr (State.modeTake_regTab ..) _a
@[simp] theorem State.islOwe_rd (s : State) (o : Bool) (e : Int) (_a : Nat) : (State.islOwe s o e).rd _a = s.rd _a := rd_congr (State.islOwe_regTab ..) _a
@[simp] theorem State.islQuantum_rd (s : State) (p : List Int) (q : List Int) (_a : Nat) : (State.islQuantum s p q).rd _a = s.rd _a := rd_congr (State.islQuantum_regTab ..) _a
@[simp] theorem State.islParTake_rd (s : State) (_a : Nat) : (State.islParTake s).rd _a = s.rd _a := rd_congr (State.islParTake_regTab ..) _a
@[simp] theorem State.meterQuantum_rd (s : State) (p : List Int) (q : List Int) (_a : Nat) : (State.meterQuantum s p q).rd _a = s.rd _a := rd_congr (State.meterQuantum_regTab ..) _a
@[simp] theorem State.meterPulse_rd (s : State) (o : Bool) (_a : Nat) : (State.meterPulse s o).rd _a = s.rd _a := rd_congr (State.meterPulse_regTab ..) _a
@[simp] theorem State.islClock_rd (s : State) (dev : Int) (_a : Nat) : (State.islClock s dev).rd _a = s.rd _a := rd_congr (State.islClock_regTab ..) _a
@[simp] theorem State.islMode_rd (s : State) (m : Nat) (_a : Nat) : (State.islMode s m).rd _a = s.rd _a := rd_congr (State.islMode_regTab ..) _a
@[simp] theorem State.islOpen_rd (s : State) (_a : Nat) : (State.islOpen s).rd _a = s.rd _a := rd_congr (State.islOpen_regTab ..) _a
@[simp] theorem State.sealChange_rd (s : State) (closed : Bool) (_a : Nat) : (State.sealChange s closed).rd _a = s.rd _a := rd_congr (State.sealChange_regTab ..) _a
@[simp] theorem State.testExpiry_rd (s : State) (_a : Nat) : (State.testExpiry s).rd _a = s.rd _a := rd_congr (State.testExpiry_regTab ..) _a
@[simp] theorem State.straitFall_rd (s : State) (p : List Int) (q : List Int) (_a : Nat) : (State.straitFall s p q).rd _a = s.rd _a := rd_congr (State.straitFall_regTab ..) _a
@[simp] theorem State.straitReturn_rd (s : State) (retained : Bool) (_a : Nat) : (State.straitReturn s retained).rd _a = s.rd _a := rd_congr (State.straitReturn_regTab ..) _a
@[simp] theorem State.calReply_rd (s : State) (cmd : Nat) (idx : Nat) (value : Nat) (_a : Nat) : (State.calReply s cmd idx value).rd _a = s.rd _a := rd_congr (State.calReply_regTab ..) _a
@[simp] theorem State.calRead_rd (s : State) (staging : Bool) (idx : Nat) (crcOk : Bool) (_a : Nat) : (State.calRead s staging idx crcOk).rd _a = s.rd _a := rd_congr (State.calRead_regTab ..) _a
@[simp] theorem State.calWrite_rd (s : State) (idx : Nat) (w : Word) (crcOk : Bool) (_a : Nat) : (State.calWrite s idx w crcOk).rd _a = s.rd _a := rd_congr (State.calWrite_regTab ..) _a
@[simp] theorem State.calCommit_rd (s : State) (idx : Nat) (crcOk : Bool) (_a : Nat) : (State.calCommit s idx crcOk).rd _a = s.rd _a := rd_congr (State.calCommit_regTab ..) _a
@[simp] theorem State.setMoving_rd (s : State) (d : Nat) (v : Nat) (_a : Nat) : (State.setMoving s d v).rd _a = s.rd _a := rd_congr (State.setMoving_regTab ..) _a
@[simp] theorem State.pdOffDone_rd (s : State) (d : Nat) (_a : Nat) : (State.pdOffDone s d).rd _a = s.rd _a := rd_congr (State.pdOffDone_regTab ..) _a
@[simp] theorem State.dramTrained_rd (s : State) (_a : Nat) : (State.dramTrained s).rd _a = s.rd _a := rd_congr (State.dramTrained_regTab ..) _a
@[simp] theorem State.pdWake14_rd (s : State) (_a : Nat) : (State.pdWake14 s).rd _a = s.rd _a := rd_congr (State.pdWake14_regTab ..) _a
@[simp] theorem State.irqTake_rd (s : State) (p : Nat) (sup : Bool) (_a : Nat) : (State.irqTake s p sup).rd _a = s.rd _a := rd_congr (State.irqTake_regTab ..) _a
@[simp] theorem State.irqBack_rd (s : State) (p : Nat) (sup : Bool) (_a : Nat) : (State.irqBack s p sup).rd _a = s.rd _a := rd_congr (State.irqBack_regTab ..) _a
@[simp] theorem State.irqClaim_rd (s : State) (p : Nat) (sup : Bool) (_a : Nat) : (State.irqClaim s p sup).1.rd _a = s.rd _a := rd_congr (State.irqClaim_regTab ..) _a
@[simp] theorem State.jtag_rd (s : State) (i : Tap) (_a : Nat) : (State.jtag s i).rd _a = s.rd _a := rd_congr (State.jtag_regTab ..) _a
@[simp] theorem State.setBoot_rd (s : State) (b : BootSt) (_a : Nat) : (State.setBoot s b).rd _a = s.rd _a := rd_congr (State.setBoot_regTab ..) _a
@[simp] theorem State.flashCut_rd (s : State) (_a : Nat) : (State.flashCut s).rd _a = s.rd _a := rd_congr (State.flashCut_regTab ..) _a
@[simp] theorem State.tapReset_rd (s : State) (_a : Nat) : (State.tapReset s).rd _a = s.rd _a := rd_congr (State.tapReset_regTab ..) _a
@[simp] theorem State.takeGrace_rd (s : State) (i : ReleaseIn) (_a : Nat) : (State.takeGrace s i).rd _a = s.rd _a := rd_congr (State.takeGrace_regTab ..) _a
@[simp] theorem State.setIom_rd (s : State) (v : IomSt) (_a : Nat) : (State.setIom s v).rd _a = s.rd _a := rd_congr (State.setIom_regTab ..) _a
@[simp] theorem State.translate_rd (s : State) (dom : Nat) (iova : Nat) (write : Bool) (_a : Nat) : (State.translate s dom iova write).1.rd _a = s.rd _a := rd_congr (State.translate_regTab ..) _a
@[simp] theorem State.iomPop_rd (s : State) (_a : Nat) : (State.iomPop s).rd _a = s.rd _a := rd_congr (State.iomPop_regTab ..) _a
@[simp] theorem State.setFq_rd (s : State) (q : Nat) (v : FryQ) (_a : Nat) : (State.setFq s q v).rd _a = s.rd _a := rd_congr (State.setFq_regTab ..) _a
@[simp] theorem State.fqEvent_rd (s : State) (q : Nat) (code : Nat) (irq : Bool) (_a : Nat) : (State.fqEvent s q code irq).rd _a = s.rd _a := rd_congr (State.fqEvent_regTab ..) _a
@[simp] theorem State.fqResult_rd (s : State) (q : Nat) (code : Nat) (late : Bool) (_a : Nat) : (State.fqResult s q code late).rd _a = s.rd _a := rd_congr (State.fqResult_regTab ..) _a
@[simp] theorem State.callStep_rd (s : State) (n : Nat) (_a : Nat) : (State.callStep s n).rd _a = s.rd _a := rd_congr (State.callStep_regTab ..) _a
@[simp] theorem State.timeoutUndo_rd (s : State) (n : Nat) (_a : Nat) : (State.timeoutUndo s n).rd _a = s.rd _a := rd_congr (State.timeoutUndo_regTab ..) _a
@[simp] theorem State.pairCtrlWrite_rd (s : State) (p : Nat) (w : Word) (_a : Nat) : (State.pairCtrlWrite s p w).rd _a = s.rd _a := rd_congr (State.pairCtrlWrite_regTab ..) _a
@[simp] theorem State.uliOpen_rd (s : State) (point : Nat) (status : Nat) (_a : Nat) : (State.uliOpen s point status).1.rd _a = s.rd _a := rd_congr (State.uliOpen_regTab ..) _a
@[simp] theorem State.uliReadRec_rd (s : State) (p : Nat) (c : Nat) (item : Nat) (_a : Nat) : (State.uliReadRec s p c item).1.rd _a = s.rd _a := rd_congr (State.uliReadRec_regTab ..) _a
@[simp] theorem State.keepTake_rd (s : State) (n : Nat) (_a : Nat) : (State.keepTake s n).rd _a = s.rd _a := rd_congr (State.keepTake_regTab ..) _a
@[simp] theorem State.fillClear_rd (s : State) (n : Nat) (_a : Nat) : (State.fillClear s n).rd _a = s.rd _a := rd_congr (State.fillClear_regTab ..) _a
@[simp] theorem State.fillDrop_rd (s : State) (n : Nat) (_a : Nat) : (State.fillDrop s n).rd _a = s.rd _a := rd_congr (State.fillDrop_regTab ..) _a
@[simp] theorem State.deviceSignals_rd (s : State) (n : Nat) (_a : Nat) : (State.deviceSignals s n).rd _a = s.rd _a := rd_congr (State.deviceSignals_regTab ..) _a
@[simp] theorem State.fqTakeFrame_rd (s : State) (q : Nat) (_a : Nat) : (State.fqTakeFrame s q).rd _a = s.rd _a := rd_congr (State.fqTakeFrame_regTab ..) _a

end Sys2Proof.Machine
end

