-- ==== Sys2Proof/Laws/Regs.lean ====
section
/-! SUPPORT. The laws of one register, and what the end of forces (R429) changes. -/

namespace Sys2Proof.Machine

/-! ### One register -/

theorem State.rd_wr (s : State) (a b : Nat) (w : Word) : (s.wr a w).rd b = if b = a then w else s.rd b := by
  unfold State.rd State.wr
  split
  · next e => subst e; exact tabGet_set_same ..
  · next e => exact tabGet_set_ne _ _ _ _ _ e

@[simp] theorem State.rd_wr_same (s : State) (a : Nat) (w : Word) : (s.wr a w).rd a = w := by rw [State.rd_wr, if_pos rfl]
theorem State.rd_wr_ne (s : State) (a b : Nat) (w : Word) (h : b ≠ a) : (s.wr a w).rd b = s.rd b := by rw [State.rd_wr, if_neg h]

theorem State.rd_wrB (s : State) (a b i : Nat) (v : Bool) : (s.wrB a i v).rd b = if b = a then withBit (s.rd a) i v else s.rd b := State.rd_wr ..
theorem State.rd_wrF (s : State) (a b hi lo v : Nat) : (s.wrF a hi lo v).rd b = if b = a then withField (s.rd a) hi lo v else s.rd b := State.rd_wr ..
theorem State.rd_countUp (s : State) (a b hi lo n : Nat) : (s.countUp a hi lo n).rd b =
    if b = a then withField (s.rd a) hi lo (min (2 ^ (hi + 1 - lo) - 1) (s.rdF a hi lo + n)) else s.rd b := State.rd_wr ..
theorem State.rd_raise (s : State) (a b i : Nat) : (s.raise a i).rd b = if b = a then withBit (s.rd a) i true else s.rd b := State.rd_wrB ..
theorem State.rd_raiseIf (s : State) (c : Bool) (a b i : Nat) : (s.raiseIf c a i).rd b = if c = true ∧ b = a then withBit (s.rd a) i true else s.rd b := by
  unfold State.raiseIf
  cases c
  · simp
  · simp [State.rd_raise]

/-! ### The forces (R429) -/


/-- What the end of forces changes: those registers alone. -/
structure OnlyRegs (x u : State) (as : List Nat) : Prop where
  state : u = { x with regs := u.regs, raised := u.raised }
  regs : ∀ a, a ∉ as → u.rd a = x.rd a

theorem OnlyRegs.refl (x : State) (as : List Nat) : OnlyRegs x x as := ⟨rfl, fun _ _ => rfl⟩
theorem OnlyRegs.trans {x y z : State} {as : List Nat} (h : OnlyRegs x y as) (k : OnlyRegs y z as) : OnlyRegs x z as := by
  refine ⟨?_, fun a ha => (k.regs a ha).trans (h.regs a ha)⟩
  rw [k.state, h.state]
theorem OnlyRegs.mono {x y : State} {as bs : List Nat} (h : OnlyRegs x y as) (k : ∀ a ∈ as, a ∈ bs) : OnlyRegs x y bs :=
  ⟨h.state, fun a ha => h.regs a (fun m => ha (k a m))⟩
theorem State.wr_only (s : State) (a : Nat) (w : Word) : OnlyRegs s (s.wr a w) [a] :=
  ⟨rfl, fun b hb => State.rd_wr_ne _ _ _ _ (by simpa using hb)⟩
theorem State.wrB_only (s : State) (a i : Nat) (b : Bool) : OnlyRegs s (s.wrB a i b) [a] := s.wr_only a _
theorem State.wrF_only (s : State) (a hi lo v : Nat) : OnlyRegs s (s.wrF a hi lo v) [a] := s.wr_only a _
theorem State.raise_only (s : State) (a i : Nat) : OnlyRegs s (s.raise a i) [a] :=
  ⟨rfl, fun b hb => State.rd_wr_ne _ _ _ _ (by simpa using hb)⟩

theorem each_only (s : State) (is as : List Nat) (f : State → Nat → State) (h : ∀ s, ∀ i ∈ is, OnlyRegs s (f s i) as) : OnlyRegs s (s.each is f) as := by
  unfold State.each
  induction is generalizing s with
  | nil => exact .refl _ _
  | cons i is ih => exact (h s i (by simp)).trans (ih _ (fun s j hj => h s j (by simp [hj])))

theorem State.settle_only (s : State) : OnlyRegs s s.settle forceRegs := by
  unfold State.settle
  apply each_only
  intro s k hk
  have m : R.sysDbgForce k ∈ forceRegs := List.mem_map.mpr ⟨k, hk, rfl⟩
  split
  · exact ((s.wrB_only _ 31 false).trans (State.raise_only _ _ 29)).mono (by simpa using m)
  · exact .refl _ _

/-- The end of forces leaves every other register. -/
theorem State.settle_rd (s : State) (a : Nat) (h : forceRegs.contains a = false) : s.settle.rd a = s.rd a :=
  s.settle_only.regs a (by simpa using h)

end Sys2Proof.Machine
end

