-- ==== Sys2Proof/Laws/Sched.lean ====
section
/-! SUPPORT. The frame of the operations that leave the clock, the sequencers, the debug port and the bus answer as they stood. -/

namespace Sys2Proof.Machine

/-- The parts of a state that the period sequencers, the clock, the debug port and the bus itself touch. -/
structure Sched where
  clk : Clk
  seqs : Tab SeqSt
  tap : Tap
  bus : BusAns
  pending : List Instr

/-- These parts of a state, as the frame lemmas name them. -/
def State.sched (s : State) : Sched := ⟨s.clk, s.seqs, s.tap, s.bus, s.pending⟩

@[simp] theorem mk_sched (x0 : Clk) (x1 : Tab Word) (x2 : Tab Raised) (x3 : BusAns) (x4 : SigTab) (x5 : Tab Ev) (x6 : IrqSt) (x7 : MemSt) (x8 : TimeSt) (x9 : Tab SeqSt) (x10 : Tab SliceSt) (x11 : Tab LegSt) (x12 : Tab LinkSt) (x13 : Tab BoardSt) (x14 : Tab CanSt) (x15 : Tab VecSt) (x16 : Tab PosSt) (x17 : Tab KeepSt) (x18 : Tab GfeSt) (x19 : GfeParSt) (x20 : SndSt) (x21 : TwinSt) (x22 : Tab Bool) (x23 : RecSt) (x24 : SdfSt) (x25 : ProtSt) (x26 : WearSt) (x27 : PdmSt) (x28 : Tab PairSt) (x29 : Tab SarSt) (x30 : CeSt) (x31 : AuxAll) (x32 : EthSt) (x33 : IslSt) (x34 : PmuSt) (x35 : Tap) (x36 : IomSt) (x37 : FrySt) (x38 : BootSt) (x39 : UliSt) (x40 : Variant) (x41 : Nat) (x42 : List Instr) :
    (State.mk x0 x1 x2 x3 x4 x5 x6 x7 x8 x9 x10 x11 x12 x13 x14 x15 x16 x17 x18 x19 x20 x21 x22 x23 x24 x25 x26 x27 x28 x29 x30 x31 x32 x33 x34 x35 x36 x37 x38 x39 x40 x41 x42).sched = ⟨x0, x9, x35, x3, x42⟩ := rfl

@[simp] theorem sched_fold (s : State) : Sched.mk s.clk s.seqs s.tap s.bus s.pending = s.sched := by unfold State.sched; exact (rfl)

@[simp] theorem each_sched (s : State) (is : List Nat) (f : State → Nat → State) (h : ∀ s i, (f s i).sched = s.sched) : (s.each is f).sched = s.sched := by
  unfold State.each
  induction is generalizing s with
  | nil => rfl
  | cons i is ih => rw [List.foldl_cons, ih, h]

@[simp] theorem foldl_sched {α : Type} (s : State) (l : List α) (f : State → α → State) (h : ∀ s i, (f s i).sched = s.sched) : (l.foldl f s).sched = s.sched := by
  induction l generalizing s with
  | nil => rfl
  | cons i is ih => rw [List.foldl_cons, ih, h]

@[simp] theorem State.wr_sched (s : State) (a : Nat) (w : Word) : (State.wr s a w).sched = s.sched := by
  unfold State.wr
  simp

@[simp] theorem State.wrF_sched (s : State) (a : Nat) (hi : Nat) (lo : Nat) (v : Nat) : (State.wrF s a hi lo v).sched = s.sched := by
  unfold State.wrF
  simp

@[simp] theorem State.wrB_sched (s : State) (a : Nat) (i : Nat) (b : Bool) : (State.wrB s a i b).sched = s.sched := by
  unfold State.wrB
  simp

@[simp] theorem State.countUp_sched (s : State) (a : Nat) (hi : Nat) (lo : Nat) (n : Nat) : (State.countUp s a hi lo n).sched = s.sched := by
  unfold State.countUp
  simp

@[simp] theorem State.markRaised_sched (s : State) (a : Nat) (m : Word) (c : Word) : (State.markRaised s a m c).sched = s.sched := by
  unfold State.markRaised
  simp

@[simp] theorem State.raise_sched (s : State) (a : Nat) (i : Nat) : (State.raise s a i).sched = s.sched := by
  unfold State.raise
  simp

@[simp] theorem State.raiseCapture_sched (s : State) (a : Nat) (i : Nat) (b : Nat) (hi : Nat) (lo : Nat) (v : Nat) : (State.raiseCapture s a i b hi lo v).sched = s.sched := by
  unfold State.raiseCapture
  simp [apply_ite State.sched]

@[simp] theorem State.raiseIf_sched (s : State) (c : Bool) (a : Nat) (i : Nat) : (State.raiseIf s c a i).sched = s.sched := by
  unfold State.raiseIf
  simp [apply_ite State.sched]

@[simp] theorem State.storeReg_sched (s : State) (a : Nat) (w : Word) : (State.storeReg s a w).sched = s.sched := by
  unfold State.storeReg
  (repeat' split) <;> simp

@[simp] theorem State.soon_sched (s : State) (t : Nat) (x : Soon) : (State.soon s t x).sched = s.sched := by
  unfold State.soon
  simp

@[simp] theorem State.lineMark_sched (s : State) (x : Nat) : (State.lineMark s x).sched = s.sched := by
  unfold State.lineMark
  simp

@[simp] theorem State.tookFree_sched (s : State) : (State.tookFree s).sched = s.sched := by
  unfold State.tookFree
  simp

@[simp] theorem State.setIrq_sched (s : State) (i : Nat) (b : Bool) : (State.setIrq s i b).sched = s.sched := by
  unfold State.setIrq
  simp [apply_ite State.sched]

@[simp] theorem State.postAt_sched (s : State) (src : Nat) (code : Nat) (tau : Int) : (State.postAt s src code tau).sched = s.sched := by
  unfold State.postAt
  simp

@[simp] theorem State.post_sched (s : State) (src : Nat) (code : Nat) : (State.post s src code).sched = s.sched := by
  unfold State.post
  simp

@[simp] theorem State.setStable_sched (s : State) (i : Nat) (v : SigVal) : (State.setStable s i v).sched = s.sched := by
  unfold State.setStable
  simp

@[simp] theorem State.setFill_sched (s : State) (i : Nat) (v : Option SigVal) : (State.setFill s i v).sched = s.sched := by
  unfold State.setFill
  simp

@[simp] theorem State.sigStore_sched (s : State) (i : Nat) (v : Word) (q : Qual) : (State.sigStore s i v q).sched = s.sched := by
  unfold State.sigStore
  simp [apply_ite State.sched]

@[simp] theorem State.sigPut_sched (s : State) (i : Nat) (v : Word) (q : Qual) : (State.sigPut s i v q).sched = s.sched := by
  unfold State.sigPut
  simp [apply_ite State.sched]

@[simp] theorem State.setByte_sched (s : State) (a : Nat) (b : Byte) : (State.setByte s a b).sched = s.sched := by
  unfold State.setByte
  simp

@[simp] theorem State.setBytes_sched (s : State) (a : Nat) (bs : List Byte) : (s.setBytes a bs).sched = s.sched := by
  induction bs generalizing s a with
  | nil => rfl
  | cons b bs ih => exact (ih _ _).trans (State.setByte_sched ..)

@[simp] theorem State.loseMemory_sched (s : State) (rs : List Nat) (e : Nat) : (State.loseMemory s rs e).sched = s.sched := by
  unfold State.loseMemory
  simp

@[simp] theorem State.setSlice_sched (s : State) (n : Nat) (v : SliceSt) : (State.setSlice s n v).sched = s.sched := by
  unfold State.setSlice
  simp

@[simp] theorem State.setLeg_sched (s : State) (n : Nat) (v : LegSt) : (State.setLeg s n v).sched = s.sched := by
  unfold State.setLeg
  simp

@[simp] theorem State.setLink_sched (s : State) (n : Nat) (v : LinkSt) : (State.setLink s n v).sched = s.sched := by
  unfold State.setLink
  simp

@[simp] theorem State.setMot_sched (s : State) (m : Nat) (v : AuxSt) : (State.setMot s m v).sched = s.sched := by
  unfold State.setMot
  simp

@[simp] theorem State.auxFollow_sched (s : State) (h : Nat) (hi : Bool) : (State.auxFollow s h hi).sched = s.sched := by
  unfold State.auxFollow
  simp [apply_ite State.sched]

@[simp] theorem State.auxNote_sched (s : State) (h : Nat) : (State.auxNote s h).sched = s.sched := by
  unfold State.auxNote
  simp

@[simp] theorem State.auxNoteMotor_sched (s : State) (m : Nat) : (State.auxNoteMotor s m).sched = s.sched := by
  unfold State.auxNoteMotor
  simp

@[simp] theorem State.auxSwitched_sched (s : State) (i : Nat) (a : Bool) (on : Bool) : (State.auxSwitched s i a on).sched = s.sched := by
  unfold State.auxSwitched
  simp [apply_ite State.sched]

@[simp] theorem State.judgeSlice_sched (s : State) (i : Nat) (v : SliceSet) (prev : Option Nat) (T : Int) : (State.judgeSlice s i v prev T).1.sched = s.sched := by
  unfold State.judgeSlice
  simp

@[simp] theorem State.judgeLeg_sched (s : State) (g : Nat) (ws : List Word) : (State.judgeLeg s g ws).1.sched = s.sched := by
  unfold State.judgeLeg
  simp

@[simp] theorem State.swOff_sched (s : State) (i : Nat) (a : Bool) (x : Nat) : (State.swOff s i a x).sched = s.sched := by
  unfold State.swOff
  simp [apply_ite State.sched]

@[simp] theorem State.interlockHit_sched (s : State) (i : Nat) : (State.interlockHit s i).sched = s.sched := by
  unfold State.interlockHit
  simp [apply_ite State.sched]

@[simp] theorem State.swOn_sched (s : State) (i : Nat) (a : Bool) (x : Nat) : (State.swOn s i a x).sched = s.sched := by
  unfold State.swOn
  simp [apply_ite State.sched]

@[simp] theorem State.swDue_sched (s : State) (i : Nat) (a : Bool) (x : Nat) : (State.swDue s i a x).sched = s.sched := by
  unfold State.swDue
  simp [apply_ite State.sched]

@[simp] theorem State.runCmds_sched (s : State) (g : Nat) (cs : List SwCmd) : (State.runCmds s g cs).sched = s.sched := by
  unfold State.runCmds
  simp [apply_ite State.sched]

@[simp] theorem State.sliceRequest_sched (s : State) (i : Nat) (r : Option Nat) (x : Nat) : (State.sliceRequest s i r x).sched = s.sched := by
  unfold State.sliceRequest
  (repeat' (split <;> try simp [apply_ite State.sched]))

@[simp] theorem State.setEdges_sched (s : State) (l : Nat) (es : List Edge) : (State.setEdges s l es).sched = s.sched := by
  unfold State.setEdges
  simp

@[simp] theorem State.dropEdges_sched (s : State) (l : Nat) (gone : Edge → Bool) : (State.dropEdges s l gone).sched = s.sched := by
  unfold State.dropEdges
  simp

@[simp] theorem State.handEdge_sched (s : State) (l : Nat) (c : SwCmd) : (State.handEdge s l c).sched = s.sched := by
  unfold State.handEdge
  simp [apply_ite State.sched]

@[simp] theorem State.handEdges_sched (s : State) (l : Nat) (cs : List SwCmd) : (State.handEdges s l cs).sched = s.sched := by
  unfold State.handEdges
  simp

@[simp] theorem State.handLeg_sched (s : State) (g : Nat) (x : Nat) (segs : List Seg) (sent : List (Nat × Bool × Nat)) : (State.handLeg s g x segs sent).1.sched = s.sched := by
  unfold State.handLeg
  simp

@[simp] theorem State.handSlice_sched (s : State) (i : Nat) (x : Nat) (segs : List Seg) (sent : List (Nat × Bool × Nat)) : (State.handSlice s i x segs sent).1.sched = s.sched := by
  unfold State.handSlice
  simp

@[simp] theorem State.prepareLeg_sched (s : State) (g : Nat) (x : Nat) : (State.prepareLeg s g x).sched = s.sched := by
  unfold State.prepareLeg
  simp [apply_ite State.sched]

@[simp] theorem State.prepareSlice_sched (s : State) (i : Nat) (x : Nat) : (State.prepareSlice s i x).sched = s.sched := by
  unfold State.prepareSlice
  simp [apply_ite State.sched]

@[simp] theorem State.planLegWith_sched (s : State) (g : Nat) (x : Nat) (sent : List (Nat × Bool × Nat)) : (State.planLegWith s g x sent).sched = s.sched := by
  unfold State.planLegWith
  simp

@[simp] theorem State.planSliceWith_sched (s : State) (i : Nat) (x : Nat) (sent : List (Nat × Bool × Nat)) : (State.planSliceWith s i x sent).sched = s.sched := by
  unfold State.planSliceWith
  simp

@[simp] theorem State.planLeg_sched (s : State) (g : Nat) : (State.planLeg s g).sched = s.sched := by
  unfold State.planLeg
  split
  · (repeat' split) <;> simp
  · apply each_sched; intro s i; (repeat' split) <;> simp

@[simp] theorem State.withdraw_sched (s : State) (l : Nat) (es : List (Nat × Bool × Nat)) : (State.withdraw s l es).1.sched = s.sched := by
  unfold State.withdraw
  simp

@[simp] theorem State.replanLeg_sched (s : State) (g : Nat) : (State.replanLeg s g).sched = s.sched := by
  unfold State.replanLeg
  (repeat' split) <;> simp

@[simp] theorem State.replanSlice_sched (s : State) (i : Nat) : (State.replanSlice s i).sched = s.sched := by
  unfold State.replanSlice
  (repeat' split) <;> simp

@[simp] theorem State.commitSlice_sched (s : State) (i : Nat) (v : SliceSet) : (State.commitSlice s i v).sched = s.sched := by
  unfold State.commitSlice
  simp [apply_ite State.sched]

@[simp] theorem State.commitLeg_sched (s : State) (g : Nat) (ws : List Word) : (State.commitLeg s g ws).sched = s.sched := by
  unfold State.commitLeg
  simp [apply_ite State.sched]

@[simp] theorem State.pwmForeign_sched (s : State) (i : Nat) : (State.pwmForeign s i).sched = s.sched := by
  unfold State.pwmForeign
  simp [apply_ite State.sched]

@[simp] theorem State.writeSliceWord_sched (s : State) (i : Nat) (isOn : Bool) (w : Word) : (State.writeSliceWord s i isOn w).sched = s.sched := by
  unfold State.writeSliceWord
  (repeat' (split <;> try simp [apply_ite State.sched]))

@[simp] theorem State.writeLegWord_sched (s : State) (g : Nat) (j : Nat) (w : Word) : (State.writeLegWord s g j w).sched = s.sched := by
  unfold State.writeLegWord
  (repeat' (split <;> try simp))

@[simp] theorem State.commitGroup_sched (s : State) (k : Nat) : (State.commitGroup s k).sched = s.sched := by
  unfold State.commitGroup
  rw [each_sched _ _ _ (by intro s g; (repeat' split) <;> simp), each_sched _ _ _ (by intro s g; (repeat' split) <;> simp)]

@[simp] theorem State.sliceEnter_sched (s : State) (i : Nat) : (State.sliceEnter s i).sched = s.sched := by
  unfold State.sliceEnter
  (try simp)
  (repeat' (split <;> (try simp)))

@[simp] theorem State.legEnter_sched (s : State) (g : Nat) : (State.legEnter s g).sched = s.sched := by
  unfold State.legEnter
  (try simp)
  (repeat' (split <;> (try simp)))

@[simp] theorem State.reloadSlice_sched (s : State) (i : Nat) (x : Nat) : (State.reloadSlice s i x).sched = s.sched := by
  unfold State.reloadSlice
  (try simp [apply_ite State.sched])
  (repeat' (split <;> try simp [apply_ite State.sched]))
  all_goals (try rfl)

@[simp] theorem State.reloadLeg_sched (s : State) (g : Nat) (x : Nat) : (State.reloadLeg s g x).sched = s.sched := by
  unfold State.reloadLeg
  (try simp)
  (repeat' (split <;> (try simp)))

@[simp] theorem State.sliceClear_sched (s : State) (i : Nat) (x : Nat) : (State.sliceClear s i x).sched = s.sched := by
  unfold State.sliceClear
  simp

@[simp] theorem State.legTakeUp_sched (s : State) (g : Nat) (x : Nat) : (State.legTakeUp s g x).sched = s.sched := by
  unfold State.legTakeUp
  simp

@[simp] theorem State.legResume_sched (s : State) (g : Nat) (x : Nat) : (State.legResume s g x).sched = s.sched := by
  unfold State.legResume
  (repeat' split) <;> simp

@[simp] theorem State.sliceResume_sched (s : State) (i : Nat) (x : Nat) : (State.sliceResume s i x).sched = s.sched := by
  unfold State.sliceResume
  simp [apply_ite State.sched]

@[simp] theorem State.pwmReload_sched (s : State) (c : Nat) : (State.pwmReload s c).sched = s.sched := by
  unfold State.pwmReload
  simp [apply_ite State.sched]

@[simp] theorem State.sliceEdge_sched (s : State) (i : Nat) : (State.sliceEdge s i).sched = s.sched := by
  unfold State.sliceEdge
  simp [apply_ite State.sched]

@[simp] theorem State.deadTimeEnd_sched (s : State) (i : Nat) : (State.deadTimeEnd s i).sched = s.sched := by
  unfold State.deadTimeEnd
  (try simp)
  (repeat' (split <;> (try simp)))

@[simp] theorem State.legEntry_sched (s : State) (g : Nat) : (State.legEntry s g).sched = s.sched := by
  unfold State.legEntry
  simp [apply_ite State.sched]

@[simp] theorem State.legStep_sched (s : State) (g : Nat) : (State.legStep s g).sched = s.sched := by
  unfold State.legStep
  (try simp)
  (repeat' (split <;> (try simp)))

@[simp] theorem State.queueState_sched (s : State) (l : Nat) (c : StateCmd) : (State.queueState s l c).sched = s.sched := by
  unfold State.queueState
  simp [apply_ite State.sched]

@[simp] theorem State.sendState_sched (s : State) (g : Nat) (code : Nat) : (State.sendState s g code).sched = s.sched := by
  unfold State.sendState
  simp [apply_ite State.sched]

@[simp] theorem State.ovrEnds_sched (s : State) (g : Nat) : (State.ovrEnds s g).sched = s.sched := by
  unfold State.ovrEnds
  simp [apply_ite State.sched]

@[simp] theorem State.handAgain_sched (s : State) (g : Nat) : (State.handAgain s g).sched = s.sched := by
  unfold State.handAgain
  split
  · rfl
  split
  · (repeat' split) <;> simp
  · apply each_sched; intro s i; (repeat' split) <;> simp

@[simp] theorem State.ovrSlice_sched (s : State) (g : Nat) (code : Nat) (k : Nat) (x : Nat) : (State.ovrSlice s g code k x).sched = s.sched := by
  unfold State.ovrSlice
  dsimp only
  (repeat' split) <;> first | rfl | simp [apply_ite State.sched] | simp_all [apply_ite State.sched]

@[simp] theorem State.setOverride_sched (s : State) (g : Nat) (code : Nat) : (State.setOverride s g code).sched = s.sched := by
  unfold State.setOverride
  dsimp only
  (repeat' split) <;> first | rfl | simp [apply_ite State.sched] | simp_all [apply_ite State.sched]

@[simp] theorem State.setCap_sched (s : State) (u : Nat) (v : CapSt) : (State.setCap s u v).sched = s.sched := by
  unfold State.setCap
  simp

@[simp] theorem State.setRecChan_sched (s : State) (c : Nat) (v : RecChan) : (State.setRecChan s c v).sched = s.sched := by
  unfold State.setRecChan
  simp

@[simp] theorem State.recEvent_sched (s : State) (u : Nat) (code : Nat) : (State.recEvent s u code).sched = s.sched := by
  unfold State.recEvent
  simp

@[simp] theorem State.setCapState_sched (s : State) (u : Nat) (st : Nat) : (State.setCapState s u st).sched = s.sched := by
  unfold State.setCapState
  simp

@[simp] theorem State.capFill_sched (s : State) (u : Nat) (k : Nat) : (State.capFill s u k).sched = s.sched := by
  unfold State.capFill
  simp

@[simp] theorem State.capFillOrWait_sched (s : State) (u : Nat) (k : Nat) : (State.capFillOrWait s u k).sched = s.sched := by
  unfold State.capFillOrWait
  (repeat' split) <;> simp

@[simp] theorem State.capAfterHold_sched (s : State) (u : Nat) : (State.capAfterHold s u).sched = s.sched := by
  unfold State.capAfterHold
  simp [apply_ite State.sched]

@[simp] theorem State.capDeadEnd_sched (s : State) (u : Nat) : (State.capDeadEnd s u).sched = s.sched := by
  unfold State.capDeadEnd
  simp [apply_ite State.sched]

@[simp] theorem State.capComplete_sched (s : State) (u : Nat) (overload : Bool) (stopped : Bool) (st : Nat) : (State.capComplete s u overload stopped st).sched = s.sched := by
  unfold State.capComplete
  simp

@[simp] theorem State.busDrive_sched (s : State) (u : Nat) : (State.busDrive s u).sched = s.sched := by
  unfold State.busDrive
  simp [apply_ite State.sched]

@[simp] theorem State.recTrigMark_sched (s : State) (u : Nat) (i : Nat) : (State.recTrigMark s u i).sched = s.sched := by
  unfold State.recTrigMark
  simp

@[simp] theorem State.capTrigger_sched (s : State) (u : Nat) (code : Nat) (at_ : Nat) : (State.capTrigger s u code at_).1.sched = s.sched := by
  unfold State.capTrigger
  (try simp)
  (repeat' (split <;> (try simp)))

@[simp] theorem State.capHoldCount_sched (s : State) (u : Nat) (code : Nat) : (State.capHoldCount s u code).sched = s.sched := by
  unfold State.capHoldCount
  simp [apply_ite State.sched]

@[simp] theorem State.recFireGo_sched (n : Nat) (s : State) (code at_ only : Nat) : (State.recFireGo n s code at_ only).sched = s.sched := by
  induction n generalizing s code at_ only with
  | zero => rfl
  | succ n ih =>
    unfold State.recFireGo
    apply foldl_sched
    intro s u
    (repeat' split) <;> simp [ih, apply_ite State.sched] <;> (repeat' split) <;> simp [ih]

@[simp] theorem State.recFire_sched (s : State) (code : Nat) (at_ : Nat) : (State.recFire s code at_).sched = s.sched := by
  unfold State.recFire; simp

@[simp] theorem State.recFireNow_sched (s : State) (code : Nat) : (State.recFireNow s code).sched = s.sched := by
  unfold State.recFireNow
  simp

@[simp] theorem State.lvlJudge_sched (s : State) (k : Nat) (v : Int) (ts : Nat) : (State.lvlJudge s k v ts).sched = s.sched := by
  unfold State.lvlJudge
  (try simp)
  (repeat' (split <;> (try simp)))

@[simp] theorem State.recSample_sched (s : State) (c : Nat) (v : Int) (q : Qual) (ts : Nat) : (State.recSample s c v q ts).sched = s.sched := by
  unfold State.recSample
  (repeat' (split <;> try simp [apply_ite State.sched]))

@[simp] theorem State.recThread_sched (s : State) (n : Nat) (ts : Nat) : (State.recThread s n ts).sched = s.sched := by
  unfold State.recThread
  simp [apply_ite State.sched]

@[simp] theorem State.recChain_sched (s : State) (ch : Nat) (v : Int) (q : Qual) (ts : Nat) : (State.recChain s ch v q ts).sched = s.sched := by
  unfold State.recChain
  simp [apply_ite State.sched]

@[simp] theorem State.recSignal_sched (s : State) (i : Nat) : (State.recSignal s i).sched = s.sched := by
  unfold State.recSignal
  simp [apply_ite State.sched]

@[simp] theorem State.capOverload_sched (s : State) (u : Nat) : (State.capOverload s u).sched = s.sched := by
  unfold State.capOverload
  simp [apply_ite State.sched]

@[simp] theorem State.capCloseIv_sched (s : State) (u : Nat) (len : Nat) : (State.capCloseIv s u len).sched = s.sched := by
  unfold State.capCloseIv
  extract_lets c start fits rs trig sameCyc s1 s2 src s3 c' s4 s5
  have e1 : s1.sched = s.sched := State.setCap_sched ..
  have e2 : s2.sched = s1.sched := by apply each_sched; intro s i; exact State.setRecChan_sched ..
  have e3 : s3.sched = s2.sched := (mk_sched ..).trans (sched_fold _)
  have e4 : s4.sched = s3.sched := by
    clear_value s3
    simp only [s4]
    split
    · split <;> simp
    · rfl
  have e5 : s5.sched = s4.sched := by
    clear_value s4
    simp only [s5]
    split <;> simp
  clear_value s5
  rw [← e1, ← e2, ← e3, ← e4, ← e5]
  split
  · split
    · split <;> simp
    · simp
  · simp

@[simp] theorem State.capDrain_sched (s : State) (u : Nat) (n : Nat) : (State.capDrain s u n).sched = s.sched := by
  unfold State.capDrain
  simp

@[simp] theorem State.intervalClose_sched (s : State) (u : Nat) (n : Nat) : (State.intervalClose s u n).sched = s.sched := by
  unfold State.intervalClose
  simp [apply_ite State.sched]

@[simp] theorem State.capCloseTo_sched (s : State) (u old n : Nat) : (State.capCloseTo s u old n).sched = s.sched := by
  induction n generalizing s with
  | zero => rfl
  | succ n ih =>
    unfold State.capCloseTo
    split
    · rw [ih]; exact State.capCloseIv_sched ..
    · rfl

@[simp] theorem State.capTimeStep_sched (s : State) (u old new : Nat) : (State.capTimeStep s u old new).sched = s.sched := by
  unfold State.capTimeStep
  dsimp only
  split
  · rw [each_sched]
    · split
      · exact State.setCap_sched ..
      · rw [State.setCap_sched, State.capCloseTo_sched]
    · intro s i; simp
  · rfl

@[simp] theorem State.slotComplete_sched (s : State) (u : Nat) : (State.slotComplete s u).sched = s.sched := by
  unfold State.slotComplete
  split
  · rfl
  · exact (State.raise_sched ..).trans ((State.setCap_sched ..).trans ((State.setBytes_sched ..).trans (State.capDrain_sched ..)))

@[simp] theorem State.slotFree_sched (s : State) (u : Nat) (w : Word) : (State.slotFree s u w).sched = s.sched := by
  unfold State.slotFree
  (try simp)
  (repeat' (split <;> (try simp)))

@[simp] theorem State.recArm_sched (s : State) (u : Nat) : (State.recArm s u).sched = s.sched := by
  unfold State.recArm
  simp [apply_ite State.sched]

@[simp] theorem State.recStop_sched (s : State) (u : Nat) : (State.recStop s u).sched = s.sched := by
  unfold State.recStop
  (try simp [apply_ite State.sched])
  (repeat' (split <;> try simp [apply_ite State.sched]))
  all_goals (try rfl)

@[simp] theorem State.holdEnd_sched (s : State) (u : Nat) : (State.holdEnd s u).sched = s.sched := by
  unfold State.holdEnd
  simp [apply_ite State.sched]

@[simp] theorem State.recFireAt_sched (s : State) (u : Nat) : (State.recFireAt s u).sched = s.sched := by
  unfold State.recFireAt; split <;> simp

@[simp] theorem State.fireAtWrite_sched (s : State) (u : Nat) (w : Word) : (State.fireAtWrite s u w).sched = s.sched := by
  unfold State.fireAtWrite
  simp

@[simp] theorem State.recSoftFire_sched (s : State) (mask : Nat) : (State.recSoftFire s mask).sched = s.sched := by
  unfold State.recSoftFire; simp

@[simp] theorem State.trigBusEdge_sched (s : State) (b : Nat) (high : Nat) : (State.trigBusEdge s b high).sched = s.sched := by
  unfold State.trigBusEdge
  simp [apply_ite State.sched]

@[simp] theorem State.busDriveEnd_sched (s : State) (b : Nat) : (State.busDriveEnd s b).sched = s.sched := by
  unfold State.busDriveEnd
  simp [apply_ite State.sched]

@[simp] theorem State.setWear_sched (s : State) (r : WearRec) : (State.setWear s r).sched = s.sched := by
  unfold State.setWear
  simp

@[simp] theorem State.wearRecord_sched (s : State) : (State.wearRecord s).sched = s.sched := by
  unfold State.wearRecord
  simp

@[simp] theorem State.wearJudge_sched (s : State) : (State.wearJudge s).sched = s.sched := by
  unfold State.wearJudge
  simp [apply_ite State.sched]

@[simp] theorem State.wearAssigned_sched (s : State) (cls : Nat) (u : Nat) : (State.wearAssigned s cls u).sched = s.sched := by
  unfold State.wearAssigned
  simp

@[simp] theorem State.wearRetired_sched (s : State) (cls : Nat) (u : Nat) (spare : Bool) : (State.wearRetired s cls u spare).sched = s.sched := by
  unfold State.wearRetired
  simp [apply_ite State.sched]

@[simp] theorem State.wearSpared_sched (s : State) (cls : Nat) (u : Nat) (old : List (Nat × Nat)) (new : Option (List (Nat × Nat))) : (State.wearSpared s cls u old new).sched = s.sched := by
  unfold State.wearSpared
  simp

@[simp] theorem State.retirePair_sched (s : State) (p : Nat) : (State.retirePair s p).sched = s.sched := by
  unfold State.retirePair
  split
  · rfl
  · dsimp only; rw [State.wearSpared_sched, State.wrB_sched, State.setWear_sched]

@[simp] theorem State.retireBank_sched (s : State) (b : Nat) : (State.retireBank s b).sched = s.sched := by
  unfold State.retireBank
  split
  · rfl
  · dsimp only; rw [State.wearSpared_sched, State.wrB_sched, State.setWear_sched]

@[simp] theorem State.retireSar_sched (s : State) (k : Nat) : (State.retireSar s k).sched = s.sched := by
  unfold State.retireSar
  split
  · rfl
  · dsimp only; rw [State.wearSpared_sched, State.setWear_sched]

@[simp] theorem State.assignSar_sched (s : State) (k : Nat) : (State.assignSar s k).sched = s.sched := by
  unfold State.assignSar
  (repeat' split) <;> simp

@[simp] theorem State.retireLink_sched (s : State) (l : Nat) : (State.retireLink s l).sched = s.sched := by
  unfold State.retireLink
  (repeat' (split <;> try simp))

@[simp] theorem State.wearSet_sched (s : State) (m : Nat) (v : Nat) : (State.wearSet s m v).sched = s.sched := by
  unfold State.wearSet
  simp

@[simp] theorem State.wearWorst_sched (s : State) (m : Nat) (us : List Nat) (own : Nat → Nat) (retire : State → Nat → State) (h : ∀ s i, (retire s i).sched = s.sched) : (State.wearWorst s m us own retire).sched = s.sched := by
  unfold State.wearWorst
  dsimp only
  rw [each_sched _ _ _ h, State.wearSet_sched]

@[simp] theorem State.wearErr_sched (s : State) (u : Nat) : (State.wearErr s u).sched = s.sched := by
  unfold State.wearErr
  simp

@[simp] theorem State.wearEcc_sched (s : State) (a : Nat) : (State.wearEcc s a).sched = s.sched := by
  unfold State.wearEcc
  simp [apply_ite State.sched]

@[simp] theorem State.setTemps_sched (s : State) (ts : List Int) : (State.setTemps s ts).sched = s.sched := by
  unfold State.setTemps
  simp

@[simp] theorem State.wearEval_sched (s : State) (m : Nat) (v : Nat) (temps : List Int) : (State.wearEval s m v temps).sched = s.sched := by
  unfold State.wearEval
  (repeat' split) <;> simp

@[simp] theorem State.wearMismatch_sched (s : State) (p : Nat) : (State.wearMismatch s p).sched = s.sched := by
  unfold State.wearMismatch
  simp

@[simp] theorem State.wearStuck_sched (s : State) (i : Nat) : (State.wearStuck s i).sched = s.sched := by
  unfold State.wearStuck
  simp

@[simp] theorem State.wearDownJudge_sched (s : State) (l : Nat) : (State.wearDownJudge s l).sched = s.sched := by
  unfold State.wearDownJudge
  simp [apply_ite State.sched]

@[simp] theorem State.wearDown_sched (s : State) (l : Nat) : (State.wearDown s l).sched = s.sched := by
  unfold State.wearDown
  simp [apply_ite State.sched]

@[simp] theorem State.wearUp_sched (s : State) (l : Nat) : (State.wearUp s l).sched = s.sched := by
  unfold State.wearUp
  simp [apply_ite State.sched]

@[simp] theorem State.roleIgnore_sched (s : State) (n : Nat) (m : (Nat × Nat × CanRx) ⊕ EthFrame) : (State.roleIgnore s n m).sched = s.sched := by
  unfold State.roleIgnore
  simp

@[simp] theorem State.stateAfterHold_sched (s : State) (l : Nat) : (State.stateAfterHold s l).sched = s.sched := by
  unfold State.stateAfterHold
  (repeat' split) <;> simp

@[simp] theorem State.setHold_sched (s : State) (c : Nat) (b : Bool) : (State.setHold s c b).sched = s.sched := by
  unfold State.setHold
  simp [apply_ite State.sched]

@[simp] theorem State.edgeEligible_sched (s : State) (l : Nat) : (State.edgeEligible s l).sched = s.sched := by
  unfold State.edgeEligible
  simp

@[simp] theorem State.propUpdate_sched (s : State) (l : Nat) : (State.propUpdate s l).sched = s.sched := by
  unfold State.propUpdate
  simp [apply_ite State.sched]

@[simp] theorem State.sendFrame_sched (s : State) (l : Nat) (type : Nat) (payload : List Byte) : (State.sendFrame s l type payload).sched = s.sched := by
  unfold State.sendFrame
  simp

@[simp] theorem State.sendEpoch_sched (s : State) (l : Nat) (keepProp : Bool) : (State.sendEpoch s l keepProp).sched = s.sched := by
  unfold State.sendEpoch
  simp [apply_ite State.sched]

@[simp] theorem State.sendConfig_sched (s : State) (l : Nat) : (State.sendConfig s l).sched = s.sched := by
  unfold State.sendConfig
  simp

@[simp] theorem State.sendEdges_sched (s : State) (l : Nat) (es : List Edge) : (State.sendEdges s l es).sched = s.sched := by
  unfold State.sendEdges
  simp

@[simp] theorem State.sendStateFrame_sched (s : State) (l : Nat) (c : StateCmd) : (State.sendStateFrame s l c).sched = s.sched := by
  unfold State.sendStateFrame
  simp [apply_ite State.sched]

@[simp] theorem State.passEdges_sched (s : State) (l : Nat) : (State.passEdges s l).sched = s.sched := by
  unfold State.passEdges
  simp [apply_ite State.sched]

@[simp] theorem State.slotOpen_sched (s : State) (l : Nat) (slot : Nat) : (State.slotOpen s l slot).1.sched = s.sched := by
  unfold State.slotOpen
  (repeat' (split <;> try simp))

@[simp] theorem State.slotHeld_sched (s : State) (l : Nat) (slot : Nat) : (State.slotHeld s l slot).1.sched = s.sched := by
  unfold State.slotHeld
  dsimp only
  (repeat' split) <;> first | rfl | simp [apply_ite State.sched] | simp_all [apply_ite State.sched]

@[simp] theorem State.stadanSlot_sched (s : State) (l : Nat) : (State.stadanSlot s l).1.sched = s.sched := by
  unfold State.stadanSlot
  split
  · rfl
  extract_lets slot k x y
  have ey : y.sched = s.sched := by
    show (match x.linkLeg l with | some g => x.planLeg g | none => x).sched = s.sched
    split
    · exact (State.planLeg_sched ..).trans (State.setLink_sched ..)
    · exact State.setLink_sched ..
  clear_value y
  refine Eq.trans ?_ ey
  by_cases h1 : (!y.linkSends l) = true
  · rw [if_pos h1]; exact (State.setLink_sched ..).trans (State.passEdges_sched ..)
  · rw [if_neg h1]; (repeat' split) <;> simp

@[simp] theorem State.sendChanOff_sched (s : State) (l : Nat) (mask : Nat) (prof : Nat) : (State.sendChanOff s l mask prof).sched = s.sched := by
  unfold State.sendChanOff
  simp

@[simp] theorem State.upCapture_sched (s : State) (l : Nat) (at_ : Nat) (bs : List Byte) : (State.upCapture s l at_ bs).sched = s.sched := by
  unfold State.upCapture
  simp

@[simp] theorem State.upInvalid_sched (s : State) (l : Nat) : (State.upInvalid s l).sched = s.sched := by
  unfold State.upInvalid
  simp

@[simp] theorem State.upStatusRun_sched (s : State) (l : Nat) (bs : List Byte) : (State.upStatusRun s l bs).sched = s.sched := by
  unfold State.upStatusRun
  simp

@[simp] theorem State.setBoard_sched (s : State) (l : Nat) (b : BoardSt) : (State.setBoard s l b).sched = s.sched := by
  unfold State.setBoard
  simp

@[simp] theorem State.driverFrame_sched (s : State) (l : Nat) (p : Nat) (lineOk : Bool) (bs : List Byte) : (State.driverFrame s l p lineOk bs).sched = s.sched := by
  unfold State.driverFrame
  simp [apply_ite State.sched]

@[simp] theorem State.driverLapse_sched (s : State) (l : Nat) (p : Nat) : (State.driverLapse s l p).sched = s.sched := by
  unfold State.driverLapse
  (try simp)
  (repeat' (split <;> (try simp)))

@[simp] theorem State.driverExecute_sched (s : State) (l : Nat) : (State.driverExecute s l).sched = s.sched := by
  unfold State.driverExecute
  simp [apply_ite State.sched]

@[simp] theorem State.driverSilence_sched (s : State) (l : Nat) : (State.driverSilence s l).sched = s.sched := by
  unfold State.driverSilence
  simp [apply_ite State.sched]

@[simp] theorem State.portSyncLoss_sched (s : State) (l : Nat) (p : Nat) : (State.portSyncLoss s l p).sched = s.sched := by
  unfold State.portSyncLoss
  simp [apply_ite State.sched]

@[simp] theorem State.driverGateFault_sched (s : State) (l : Nat) (ch : Nat) : (State.driverGateFault s l ch).sched = s.sched := by
  unfold State.driverGateFault
  simp

@[simp] theorem State.driverGateReturn_sched (s : State) (l : Nat) (ch : Nat) : (State.driverGateReturn s l ch).sched = s.sched := by
  unfold State.driverGateReturn
  simp

@[simp] theorem State.driverPowerUp_sched (s : State) (l : Nat) : (State.driverPowerUp s l).sched = s.sched := by
  unfold State.driverPowerUp
  simp

@[simp] theorem State.driverStatus_sched (s : State) (l : Nat) (p : Nat) (desat : Nat) (desatTs : Nat) (temp : Nat) : (State.driverStatus s l p desat desatTs temp).sched = s.sched := by
  unfold State.driverStatus
  simp

@[simp] theorem State.setCan_sched (s : State) (k : Nat) (c : CanSt) : (State.setCan s k c).sched = s.sched := by
  unfold State.setCan
  simp

@[simp] theorem State.canIrqSet_sched (s : State) (k : Nat) (bit : Nat) : (State.canIrqSet s k bit).sched = s.sched := by
  unfold State.canIrqSet
  simp

@[simp] theorem State.canTscLoad_sched (s : State) (k : Nat) : (State.canTscLoad s k).sched = s.sched := by
  unfold State.canTscLoad
  simp

@[simp] theorem State.canEnd_sched (s : State) (k : Nat) (b : Nat) (result : Nat) : (State.canEnd s k b result).sched = s.sched := by
  unfold State.canEnd
  simp

@[simp] theorem State.canPend_sched (s : State) (k : Nat) (b : Nat) : (State.canPend s k b).sched = s.sched := by
  unfold State.canPend
  simp [apply_ite State.sched]

@[simp] theorem State.canForeign_sched (s : State) (k : Nat) : (State.canForeign s k).sched = s.sched := by
  unfold State.canForeign
  simp

@[simp] theorem State.canRequest_sched (s : State) (k : Nat) (b : Nat) : (State.canRequest s k b).sched = s.sched := by
  unfold State.canRequest
  simp [apply_ite State.sched]

@[simp] theorem State.canTxReq_sched (s : State) (k : Nat) (mask : Nat) : (State.canTxReq s k mask).sched = s.sched := by
  unfold State.canTxReq
  simp [apply_ite State.sched]

@[simp] theorem State.canAbortBuf_sched (s : State) (k : Nat) (b : Nat) : (State.canAbortBuf s k b).sched = s.sched := by
  unfold State.canAbortBuf
  dsimp only
  (repeat' split) <;> first | rfl | simp [apply_ite State.sched] | simp_all [apply_ite State.sched]

@[simp] theorem State.canTxAbort_sched (s : State) (k : Nat) (mask : Nat) : (State.canTxAbort s k mask).sched = s.sched := by
  unfold State.canTxAbort
  simp [apply_ite State.sched]

@[simp] theorem State.canWriteWord_sched (s : State) (k : Nat) (b : Nat) (i : Nat) (w : Word) : (State.canWriteWord s k b i w).sched = s.sched := by
  unfold State.canWriteWord
  simp [apply_ite State.sched]

@[simp] theorem State.canAttemptFail_sched (s : State) (k : Nat) (b : Nat) (count : Bool) : (State.canAttemptFail s k b count).sched = s.sched := by
  unfold State.canAttemptFail
  simp [apply_ite State.sched]

@[simp] theorem State.canArbitrate_sched (s : State) (k : Nat) (lost : Bool) : (State.canArbitrate s k lost).sched = s.sched := by
  unfold State.canArbitrate
  (repeat' split) <;> simp

@[simp] theorem State.canRestate_sched (s : State) (k : Nat) : (State.canRestate s k).sched = s.sched := by
  unfold State.canRestate
  simp [apply_ite State.sched]

@[simp] theorem State.canSuccess_sched (s : State) (k : Nat) (tdc : Nat) : (State.canSuccess s k tdc).sched = s.sched := by
  unfold State.canSuccess
  (repeat' (split <;> try simp [apply_ite State.sched]))

@[simp] theorem State.canError_sched (s : State) (k : Nat) (e : CanErr) : (State.canError s k e).sched = s.sched := by
  unfold State.canError
  (repeat' (split <;> try simp [apply_ite State.sched]))

@[simp] theorem State.canLeaveBusOff_sched (s : State) (k : Nat) : (State.canLeaveBusOff s k).sched = s.sched := by
  unfold State.canLeaveBusOff
  simp

@[simp] theorem State.canBoCount_sched (s : State) (k : Nat) : (State.canBoCount s k).sched = s.sched := by
  unfold State.canBoCount
  simp [apply_ite State.sched]

@[simp] theorem State.canBoRecover_sched (s : State) (k : Nat) : (State.canBoRecover s k).sched = s.sched := by
  unfold State.canBoRecover
  simp [apply_ite State.sched]

@[simp] theorem State.canWindow_sched (s : State) (base : Nat) (r : Option CanRx) : (State.canWindow s base r).sched = s.sched := by
  unfold State.canWindow
  (repeat' split) <;> simp

@[simp] theorem State.setRxa_sched (s : State) (k : Nat) (j : Nat) (q : List CanRx) : (State.setRxa s k j q).sched = s.sched := by
  unfold State.setRxa
  simp

@[simp] theorem State.setFifo_sched (s : State) (k : Nat) (q : List CanRx) : (State.setFifo s k q).sched = s.sched := by
  unfold State.setFifo
  simp

@[simp] theorem State.canPutA_sched (s : State) (k : Nat) (j : Nat) (r : CanRx) : (State.canPutA s k j r).sched = s.sched := by
  unfold State.canPutA
  simp

@[simp] theorem State.canTakeA_sched (s : State) (k : Nat) (j : Nat) (r : CanRx) : (State.canTakeA s k j r).sched = s.sched := by
  unfold State.canTakeA
  (repeat' split) <;> simp

@[simp] theorem State.canTakeB_sched (s : State) (k : Nat) (f : CanFrame) (r : CanRx) : (State.canTakeB s k f r).sched = s.sched := by
  unfold State.canTakeB
  (try simp)
  (repeat' (split <;> (try simp)))

@[simp] theorem State.canRxCount_sched (s : State) (k : Nat) : (State.canRxCount s k).sched = s.sched := by
  unfold State.canRxCount
  simp [apply_ite State.sched]

@[simp] theorem State.canStore_sched (s : State) (k : Nat) (stamp : Nat) (f : CanFrame) : (State.canStore s k stamp f).sched = s.sched := by
  unfold State.canStore
  (repeat' split) <;> simp

@[simp] theorem State.canPop_sched (s : State) (k : Nat) : (State.canPop s k).sched = s.sched := by
  unfold State.canPop
  simp [apply_ite State.sched]

@[simp] theorem State.canRelease_sched (s : State) (k : Nat) (mask : Nat) : (State.canRelease s k mask).sched = s.sched := by
  unfold State.canRelease
  simp [apply_ite State.sched]

@[simp] theorem State.canCapture_sched (s : State) (k : Nat) : (State.canCapture s k).sched = s.sched := by
  unfold State.canCapture
  simp

@[simp] theorem State.canSleepReq_sched (s : State) (k : Nat) : (State.canSleepReq s k).sched = s.sched := by
  unfold State.canSleepReq
  simp [apply_ite State.sched]

@[simp] theorem State.canSleepEntry_sched (s : State) (k : Nat) : (State.canSleepEntry s k).sched = s.sched := by
  unfold State.canSleepEntry
  simp [apply_ite State.sched]

@[simp] theorem State.canWakeUp_sched (s : State) (k : Nat) (src : Nat) (id : Nat) : (State.canWakeUp s k src id).sched = s.sched := by
  unfold State.canWakeUp
  simp [apply_ite State.sched]

@[simp] theorem State.pmuMark_sched (s : State) (p : Nat) (c : Nat) (k : Nat) : (State.pmuMark s p c k).sched = s.sched := by
  unfold State.pmuMark
  simp

@[simp] theorem State.pmuHold_sched (s : State) (p : Nat) (c : Nat) (k : Nat) : (State.pmuHold s p c k).sched = s.sched := by
  unfold State.pmuHold
  simp [apply_ite State.sched]

@[simp] theorem State.pmuHoldPair_sched (s : State) (p : Nat) (k : Nat) : (State.pmuHoldPair s p k).sched = s.sched := by
  unfold State.pmuHoldPair
  simp

@[simp] theorem State.pmuHoldAll_sched (s : State) : (State.pmuHoldAll s).sched = s.sched := by
  unfold State.pmuHoldAll
  simp

@[simp] theorem State.setRunning_sched (s : State) (p : Nat) (b : Bool) : (State.setRunning s p b).sched = s.sched := by
  unfold State.setRunning
  simp

@[simp] theorem State.pmuRead_sched (s : State) (p : Nat) (c : Nat) : (State.pmuRead s p c).1.sched = s.sched := by
  unfold State.pmuRead
  (repeat' (split <;> try simp))

@[simp] theorem State.pmuWrite_sched (s : State) (p : Nat) (c : Nat) (w : Word) : (State.pmuWrite s p c w).sched = s.sched := by
  unfold State.pmuWrite
  simp

@[simp] theorem State.pmuFlag_sched (s : State) (p : Nat) (c : Nat) : (State.pmuFlag s p c).sched = s.sched := by
  unfold State.pmuFlag
  simp [apply_ite State.sched]

@[simp] theorem State.pmuOverflow_sched (s : State) (p : Nat) (c : Nat) : (State.pmuOverflow s p c).sched = s.sched := by
  unfold State.pmuOverflow
  simp [apply_ite State.sched]

@[simp] theorem State.pmuFreezeWrite_sched (s : State) (w : Word) : (State.pmuFreezeWrite s w).sched = s.sched := by
  unfold State.pmuFreezeWrite
  simp [apply_ite State.sched]

@[simp] theorem State.setChain_sched (s : State) (i : Nat) (c : ChainSt) : (State.setChain s i c).sched = s.sched := by
  unfold State.setChain
  simp

@[simp] theorem State.setDc_sched (s : State) (n : Nat) (d : DcSt) : (State.setDc s n d).sched = s.sched := by
  unfold State.setDc
  simp

@[simp] theorem State.dcBit_sched (s : State) (i : Nat) : (State.dcBit s i).sched = s.sched := by
  unfold State.dcBit
  apply each_sched
  intro s n
  split
  · simp only []
    split <;> simp
  · rfl

@[simp] theorem State.feedBit_sched (s : State) (i : Nat) (raw : Bool) : (State.feedBit s i raw).sched = s.sched := by
  unfold State.feedBit
  simp [apply_ite State.sched]

@[simp] theorem State.chainRecover_sched (s : State) (i : Nat) (x : Nat) : (State.chainRecover s i x).sched = s.sched := by
  unfold State.chainRecover
  simp

@[simp] theorem State.setVec_sched (s : State) (u : Nat) (v : VecSt) : (State.setVec s u v).sched = s.sched := by
  unfold State.setVec
  simp

@[simp] theorem State.setKept_sched (s : State) (n : Nat) (v : KeepSt) : (State.setKept s n v).sched = s.sched := by
  unfold State.setKept
  simp

@[simp] theorem State.keepField_sched (s : State) (n : Nat) (a : Nat) (hi : Nat) (lo : Nat) (v : Nat) : (State.keepField s n a hi lo v).sched = s.sched := by
  unfold State.keepField
  simp

@[simp] theorem State.keepRaise_sched (s : State) (n : Nat) (a : Nat) (i : Nat) : (State.keepRaise s n a i).sched = s.sched := by
  unfold State.keepRaise
  simp

@[simp] theorem State.storeKept_sched (s : State) (n : Nat) (a : Nat) (w : Word) : (State.storeKept s n a w).sched = s.sched := by
  unfold State.storeKept
  simp

@[simp] theorem State.vecEnter_sched (s : State) (u : Nat) (st : Nat) : (State.vecEnter s u st).sched = s.sched := by
  unfold State.vecEnter
  simp

@[simp] theorem State.vecBoth_sched (s : State) (u : Nat) (f : VecSt → VecSt) : (State.vecBoth s u f).sched = s.sched := by
  unfold State.vecBoth
  simp

@[simp] theorem State.setVecState_sched (s : State) (u : Nat) (st : Nat) : (State.setVecState s u st).sched = s.sched := by
  unfold State.setVecState
  simp

@[simp] theorem State.vecBlock_sched (s : State) (n : Nat) : (State.vecBlock s n).sched = s.sched := by
  unfold State.vecBlock
  simp [apply_ite State.sched]

@[simp] theorem State.vecAsc_sched (s : State) (n : Nat) : (State.vecAsc s n).sched = s.sched := by
  unfold State.vecAsc
  simp [apply_ite State.sched]

@[simp] theorem State.setGfe_sched (s : State) (n : Nat) (v : GfeSt) : (State.setGfe s n v).sched = s.sched := by
  unfold State.setGfe
  simp

@[simp] theorem State.gfeBoth_sched (s : State) (n : Nat) (f : GfeSt → GfeSt) : (State.gfeBoth s n f).sched = s.sched := by
  unfold State.gfeBoth
  simp

@[simp] theorem State.gfeEnter_sched (s : State) (n : Nat) (st : Nat) : (State.gfeEnter s n st).sched = s.sched := by
  unfold State.gfeEnter
  simp

@[simp] theorem State.gfeOff_sched (s : State) (n : Nat) : (State.gfeOff s n).sched = s.sched := by
  unfold State.gfeOff
  simp [apply_ite State.sched]

@[simp] theorem State.gfeForce_sched (s : State) (n : Nat) : (State.gfeForce s n).sched = s.sched := by
  unfold State.gfeForce
  simp [apply_ite State.sched]

@[simp] theorem State.reachBlock_sched (s : State) (n : Nat) (mask : Nat) : (State.reachBlock s n mask).sched = s.sched := by
  unfold State.reachBlock
  simp [apply_ite State.sched]

@[simp] theorem State.setSrc_sched (s : State) (x : Nat) (v : SrcSt) : (State.setSrc s x v).sched = s.sched := by
  unfold State.setSrc
  simp

@[simp] theorem State.chopMark_sched (s : State) (n : Nat) : (State.chopMark s n).sched = s.sched := by
  unfold State.chopMark
  simp [apply_ite State.sched]

@[simp] theorem State.applyThread_sched (s : State) (n : Nat) : (State.applyThread s n).sched = s.sched := by
  unfold State.applyThread
  simp

@[simp] theorem State.applyAll_sched (s : State) : (State.applyAll s).sched = s.sched := by
  unfold State.applyAll
  simp [apply_ite State.sched]

@[simp] theorem State.noteFirst_sched (s : State) (code : Nat) : (State.noteFirst s code).sched = s.sched := by
  unfold State.noteFirst
  simp [apply_ite State.sched]

@[simp] theorem State.pmuCause_sched (s : State) (k : Nat) : (State.pmuCause s k).sched = s.sched := by
  unfold State.pmuCause
  simp [apply_ite State.sched]

@[simp] theorem State.noteDc_sched (s : State) (n : Nat) (k : Nat) : (State.noteDc s n k).sched = s.sched := by
  unfold State.noteDc
  simp

@[simp] theorem State.chopOn_sched (s : State) (n : Nat) : (State.chopOn s n).sched = s.sched := by
  unfold State.chopOn
  simp

@[simp] theorem State.chopOff_sched (s : State) (n : Nat) : (State.chopOff s n).sched = s.sched := by
  unfold State.chopOff
  simp [apply_ite State.sched]

@[simp] theorem State.chopDropEnd_sched (s : State) (n : Nat) : (State.chopDropEnd s n).sched = s.sched := by
  unfold State.chopDropEnd
  simp

@[simp] theorem State.pitchQueue_sched (s : State) (n : Nat) (x : Nat) : (State.pitchQueue s n x).sched = s.sched := by
  unfold State.pitchQueue
  simp [apply_ite State.sched]

@[simp] theorem State.setClamp_sched (s : State) (n : Nat) (b : Bool) : (State.setClamp s n b).sched = s.sched := by
  unfold State.setClamp
  simp

@[simp] theorem State.dischVecEnd_sched (s : State) (n : Nat) : (State.dischVecEnd s n).sched = s.sched := by
  unfold State.dischVecEnd
  simp [apply_ite State.sched]

@[simp] theorem State.dischStop_sched (s : State) (n : Nat) : (State.dischStop s n).sched = s.sched := by
  unfold State.dischStop
  simp [apply_ite State.sched]

@[simp] theorem State.dischAbort_sched (s : State) (n : Nat) : (State.dischAbort s n).sched = s.sched := by
  unfold State.dischAbort
  (repeat' split) <;> simp

@[simp] theorem State.dischDone_sched (s : State) (n : Nat) : (State.dischDone s n).sched = s.sched := by
  unfold State.dischDone
  (repeat' split) <;> simp

@[simp] theorem State.dischEnter_sched (s : State) (n : Nat) (k : Nat) : (State.dischEnter s n k).sched = s.sched := by
  unfold State.dischEnter
  (repeat' split) <;> simp

@[simp] theorem State.dischFail_sched (s : State) (n : Nat) (k : Nat) : (State.dischFail s n k).sched = s.sched := by
  unfold State.dischFail
  simp [apply_ite State.sched]

@[simp] theorem State.dischStart_sched (s : State) (n : Nat) (by_ : DischBy) : (State.dischStart s n by_).sched = s.sched := by
  unfold State.dischStart
  (repeat' (split <;> try simp [apply_ite State.sched]))

@[simp] theorem State.dischT1_sched (s : State) (n : Nat) : (State.dischT1 s n).sched = s.sched := by
  unfold State.dischT1
  simp [apply_ite State.sched]

@[simp] theorem State.dischT2_sched (s : State) (n : Nat) : (State.dischT2 s n).sched = s.sched := by
  unfold State.dischT2
  simp [apply_ite State.sched]

@[simp] theorem State.chopFault_sched (s : State) (n : Nat) : (State.chopFault s n).sched = s.sched := by
  unfold State.chopFault
  simp [apply_ite State.sched]

@[simp] theorem State.chopClash_sched (s : State) (n : Nat) : (State.chopClash s n).sched = s.sched := by
  unfold State.chopClash
  simp [apply_ite State.sched]

@[simp] theorem State.chopVerify_sched (s : State) (n : Nat) : (State.chopVerify s n).sched = s.sched := by
  unfold State.chopVerify
  (try simp)
  (repeat' (split <;> (try simp)))

@[simp] theorem State.pitchRep_sched (s : State) (n : Nat) : (State.pitchRep s n).sched = s.sched := by
  unfold State.pitchRep
  (repeat' split) <;> simp [apply_ite State.sched]

@[simp] theorem State.dcSense_sched (s : State) (n : Nat) : (State.dcSense s n).sched = s.sched := by
  unfold State.dcSense
  simp [apply_ite State.sched]

@[simp] theorem State.dcJudge_sched (s : State) (n : Nat) (m : Nat) : (State.dcJudge s n m).sched = s.sched := by
  unfold State.dcJudge
  simp [apply_ite State.sched]

@[simp] theorem State.dcSoon_sched (s : State) (n : Nat) (x : Nat) : (State.dcSoon s n x).sched = s.sched := by
  unfold State.dcSoon
  simp [apply_ite State.sched]

@[simp] theorem State.protStatusWrite_sched (s : State) (n : Nat) (w : Word) : (State.protStatusWrite s n w).sched = s.sched := by
  unfold State.protStatusWrite
  simp [apply_ite State.sched]

@[simp] theorem State.srcReach_sched (s : State) (x : Nat) (kind : Nat) : (State.srcReach s x kind).sched = s.sched := by
  unfold State.srcReach
  simp [apply_ite State.sched]

@[simp] theorem State.fireSource_sched (s : State) (x : Nat) (evOnly : Bool) : (State.fireSource s x evOnly).sched = s.sched := by
  unfold State.fireSource
  simp [apply_ite State.sched]

@[simp] theorem State.srcRelease_sched (s : State) (x : Nat) : (State.srcRelease s x).sched = s.sched := by
  unfold State.srcRelease
  simp [apply_ite State.sched]

@[simp] theorem State.clearSource_sched (s : State) (x : Nat) : (State.clearSource s x).sched = s.sched := by
  unfold State.clearSource
  simp [apply_ite State.sched]

@[simp] theorem State.srcLevel_sched (s : State) (x : Nat) (on : Bool) (evOnly : Bool) : (State.srcLevel s x on evOnly).sched = s.sched := by
  unfold State.srcLevel
  simp [apply_ite State.sched]

@[simp] theorem State.srcBack_sched (s : State) (x : Nat) (k : Nat) : (State.srcBack s x k).sched = s.sched := by
  unfold State.srcBack
  simp [apply_ite State.sched]

@[simp] theorem State.srcSoon_sched (s : State) (k : Nat) (x : Nat) (on : Bool) : (State.srcSoon s k x on).sched = s.sched := by
  unfold State.srcSoon
  simp

@[simp] theorem State.latchClear_sched (s : State) (k : Nat) (w : Word) : (State.latchClear s k w).sched = s.sched := by
  unfold State.latchClear
  simp [apply_ite State.sched]

@[simp] theorem State.desatFault_sched (s : State) (l : Nat) (c : Nat) (at_ : Int) : (State.desatFault s l c at_).sched = s.sched := by
  unfold State.desatFault
  (try simp)
  (repeat' (split <;> (try simp)))

@[simp] theorem State.desatChan_sched (s : State) (l : Nat) (c : Nat) (rep : Bool) (d : Int) (ts : Int) : (State.desatChan s l c rep d ts).sched = s.sched := by
  unfold State.desatChan
  simp [apply_ite State.sched]

@[simp] theorem State.desatFrame_sched (s : State) (l : Nat) (at_ : Nat) (bs : List Byte) : (State.desatFrame s l at_ bs).sched = s.sched := by
  unfold State.desatFrame
  simp

@[simp] theorem State.linkSources_sched (s : State) (l : Nat) : (State.linkSources s l).sched = s.sched := by
  unfold State.linkSources
  simp

@[simp] theorem State.stadanStep_sched (s : State) (l : Nat) : (State.stadanStep s l).sched = s.sched := by
  unfold State.stadanStep
  simp [apply_ite State.sched]

@[simp] theorem State.linkDown_sched (s : State) (l : Nat) : (State.linkDown s l).sched = s.sched := by
  unfold State.linkDown
  simp [apply_ite State.sched]

@[simp] theorem State.upFrame_sched (s : State) (l : Nat) (at_ : Nat) (lineOk : Bool) (bs : List Byte) : (State.upFrame s l at_ lineOk bs).sched = s.sched := by
  unfold State.upFrame
  simp [apply_ite State.sched]

@[simp] theorem State.windowLevel_sched (s : State) (w : Nat) (on : Bool) : (State.windowLevel s w on).sched = s.sched := by
  unfold State.windowLevel
  simp [apply_ite State.sched]

@[simp] theorem State.tripInput_sched (s : State) (t : Nat) (high : Bool) : (State.tripInput s t high).sched = s.sched := by
  unfold State.tripInput
  simp [apply_ite State.sched]

@[simp] theorem State.auxSto_sched (s : State) : (State.auxSto s).sched = s.sched := by
  unfold State.auxSto
  simp [apply_ite State.sched]

@[simp] theorem State.ownersOff_sched (s : State) : (State.ownersOff s).sched = s.sched := by
  unfold State.ownersOff
  simp [apply_ite State.sched]

@[simp] theorem State.hold_sched (s : State) (c : Nat) (b : Bool) : (State.hold s c b).sched = s.sched := by
  unfold State.hold
  simp

@[simp] theorem State.internalSto_sched (s : State) (cause : Nat) : (State.internalSto s cause).sched = s.sched := by
  unfold State.internalSto
  simp [apply_ite State.sched]

@[simp] theorem State.stoEval_sched (s : State) : (State.stoEval s).sched = s.sched := by
  unfold State.stoEval
  simp [apply_ite State.sched]

@[simp] theorem State.stoLine_sched (s : State) (i : Nat) (high : Bool) : (State.stoLine s i high).sched = s.sched := by
  unfold State.stoLine
  simp [apply_ite State.sched]

@[simp] theorem State.stoInput_sched (s : State) (a : Bool) (b : Bool) : (State.stoInput s a b).sched = s.sched := by
  unfold State.stoInput
  simp [apply_ite State.sched]

@[simp] theorem State.stoDiscrep_sched (s : State) : (State.stoDiscrep s).sched = s.sched := by
  unfold State.stoDiscrep
  (repeat' split) <;> simp

@[simp] theorem State.setSmon_sched (s : State) (n : Nat) (v : SmonSt) : (State.setSmon s n v).sched = s.sched := by
  unfold State.setSmon
  simp

@[simp] theorem State.smonPresent_sched (s : State) (n : Nat) (cause : Nat) : (State.smonPresent s n cause).sched = s.sched := by
  unfold State.smonPresent
  simp

@[simp] theorem State.smonAbsent_sched (s : State) (n : Nat) (cause : Nat) : (State.smonAbsent s n cause).sched = s.sched := by
  unfold State.smonAbsent
  simp [apply_ite State.sched]

@[simp] theorem State.smonUnrelease_sched (s : State) (n : Nat) : (State.smonUnrelease s n).sched = s.sched := by
  unfold State.smonUnrelease
  (repeat' split) <;> simp

@[simp] theorem State.smonForce_sched (s : State) (n : Nat) (state : Nat) (cause : Nat) : (State.smonForce s n state cause).sched = s.sched := by
  unfold State.smonForce
  (repeat' (split <;> try simp [apply_ite State.sched]))

@[simp] theorem State.tmFail_sched (s : State) (n : Nat) (k : Nat) : (State.tmFail s n k).sched = s.sched := by
  unfold State.tmFail
  simp

@[simp] theorem State.smonEval_sched (s : State) (n : Nat) (disch : Bool) : (State.smonEval s n disch).sched = s.sched := by
  unfold State.smonEval
  simp [apply_ite State.sched]

@[simp] theorem State.tm6Stall_sched (s : State) (n : Nat) : (State.tm6Stall s n).sched = s.sched := by
  unfold State.tm6Stall
  simp [apply_ite State.sched]

@[simp] theorem State.smonRel_sched (s : State) (who : Option Initiator) (w : Word) : (State.smonRel s who w).sched = s.sched := by
  unfold State.smonRel
  simp [apply_ite State.sched]

@[simp] theorem State.setWd_sched (s : State) (p : Nat) (v : WdSt) : (State.setWd s p v).sched = s.sched := by
  unfold State.setWd
  simp

@[simp] theorem State.wdFail_sched (s : State) (p : Nat) (cause : Nat) : (State.wdFail s p cause).sched = s.sched := by
  unfold State.wdFail
  simp [apply_ite State.sched]

@[simp] theorem State.wdCured_sched (s : State) (p : Nat) (cause : Nat) : (State.wdCured s p cause).sched = s.sched := by
  unfold State.wdCured
  simp

@[simp] theorem State.wdDraw_sched (s : State) (p : Nat) : (State.wdDraw s p).sched = s.sched := by
  unfold State.wdDraw
  simp

@[simp] theorem State.wdService_sched (s : State) (who : Option Initiator) (p : Nat) (w : Word) : (State.wdService s who p w).sched = s.sched := by
  unfold State.wdService
  simp [apply_ite State.sched]

@[simp] theorem State.wdTimeout_sched (s : State) (p : Nat) : (State.wdTimeout s p).sched = s.sched := by
  unfold State.wdTimeout
  simp [apply_ite State.sched]

@[simp] theorem State.subStart_sched (s : State) (j : Nat) : (State.subStart s j).sched = s.sched := by
  unfold State.subStart
  simp [apply_ite State.sched]

@[simp] theorem State.subAuto_sched (s : State) (i : Nat) : (State.subAuto s i).sched = s.sched := by
  unfold State.subAuto
  (repeat' split) <;> simp

@[simp] theorem State.subForce_sched (s : State) (j : Nat) : (State.subForce s j).sched = s.sched := by
  unfold State.subForce
  simp

@[simp] theorem State.setPair_sched (s : State) (p : Nat) (v : PairSt) : (State.setPair s p v).sched = s.sched := by
  unfold State.setPair
  simp

@[simp] theorem State.plausible_sched (s : State) (n : Nat) : (State.plausible s n).sched = s.sched := by
  unfold State.plausible
  simp

@[simp] theorem State.pairStore_sched (s : State) (p : Nat) (a : SigVal) (b : SigVal) (o : PairOut) : (State.pairStore s p a b o).sched = s.sched := by
  unfold State.pairStore
  (repeat' (split <;> try simp [apply_ite State.sched]))

@[simp] theorem State.commonEval_sched (s : State) (p : Nat) : (State.commonEval s p).1.sched = s.sched := by
  unfold State.commonEval
  simp

@[simp] theorem State.sigWriteGo_sched (n : Nat) (s : State) (i : Nat) (v : Word) (q : Qual) : (State.sigWriteGo n s i v q).sched = s.sched := by
  induction n generalizing s i v q with
  | zero => simp [State.sigWriteGo]
  | succ n ih =>
    unfold State.sigWriteGo
    (repeat' split) <;> simp [ih]
    (repeat' split) <;> simp [ih]

@[simp] theorem State.sigWrite_sched (s : State) (i : Nat) (v : Word) (q : Qual) : (State.sigWrite s i v q).sched = s.sched := by
  unfold State.sigWrite; simp

@[simp] theorem State.commonSwap_sched (s : State) (i : Nat) : (State.commonSwap s i).sched = s.sched := by
  unfold State.commonSwap
  (repeat' split) <;> simp

@[simp] theorem State.sigOut_sched (s : State) (i : Nat) (x : Int) (q : Qual) : (State.sigOut s i x q).sched = s.sched := by
  unfold State.sigOut
  simp

@[simp] theorem State.pairEval_sched (s : State) (n : Nat) (p : Nat) : (State.pairEval s n p).sched = s.sched := by
  unfold State.pairEval
  simp

@[simp] theorem State.pairRestore_sched (s : State) (p : Nat) (b : Bool) : (State.pairRestore s p b).sched = s.sched := by
  unfold State.pairRestore
  simp [apply_ite State.sched]

@[simp] theorem State.pairStatusWrite_sched (s : State) (p : Nat) (w : Word) : (State.pairStatusWrite s p w).sched = s.sched := by
  unfold State.pairStatusWrite
  simp [apply_ite State.sched]

@[simp] theorem State.setCtx_sched (s : State) (c : Nat) (v : CtxSt) : (State.setCtx s c v).sched = s.sched := by
  unfold State.setCtx
  simp

@[simp] theorem State.ctxIdle_sched (s : State) (n : Nat) (p : CtxPar) (c : Nat) : (State.ctxIdle s n p c).sched = s.sched := by
  unfold State.ctxIdle
  simp [apply_ite State.sched]

@[simp] theorem State.setCtxBad_sched (s : State) (a : Nat) (on : Bool) : (State.setCtxBad s a on).sched = s.sched := by
  unfold State.setCtxBad
  simp

@[simp] theorem State.ceOffer_sched (s : State) (c : Nat) : (State.ceOffer s c).sched = s.sched := by
  unfold State.ceOffer
  simp [apply_ite State.sched]

@[simp] theorem State.ceErrUnc_sched (s : State) (c : Nat) (active : Bool) : (State.ceErrUnc s c active).sched = s.sched := by
  unfold State.ceErrUnc
  simp [apply_ite State.sched]

@[simp] theorem State.ctxAgain_sched (s : State) (p : CtxPar) (ld : Nat) (q : Qual) : (State.ctxAgain s p ld q).sched = s.sched := by
  unfold State.ctxAgain
  simp

@[simp] theorem State.ctxActive_sched (s : State) (n : Nat) (p : CtxPar) (a : Nat) (ld : Nat) (hand : Bool) : (State.ctxActive s n p a ld hand).sched = s.sched := by
  unfold State.ctxActive
  simp [apply_ite State.sched]

@[simp] theorem State.ctxSet_sched (s : State) (n : Nat) (b : Nat) (ms : List Nat) : (State.ctxSet s n b ms).sched = s.sched := by
  unfold State.ctxSet
  (repeat' (split <;> try simp [apply_ite State.sched]))

@[simp] theorem State.groupSlot_sched (s : State) (n : Nat) (g : Nat) (j : Nat) : (State.groupSlot s n g j).sched = s.sched := by
  unfold State.groupSlot
  simp

@[simp] theorem State.groupEval_sched (s : State) (n : Nat) (g : Nat) (x : Nat) : (State.groupEval s n g x).sched = s.sched := by
  unfold State.groupEval
  simp [apply_ite State.sched]

@[simp] theorem State.groupErrs_sched (s : State) (n : Nat) (corr : Nat) (bad : List (Nat × Option Nat)) : (State.groupErrs s n corr bad).sched = s.sched := by
  unfold State.groupErrs
  simp

@[simp] theorem State.ceStart_sched (s : State) (n : Nat) : (State.ceStart s n).sched = s.sched := by
  unfold State.ceStart; apply foldl_sched; intro s c; simp

@[simp] theorem State.cePublish_sched (s : State) (n : Nat) : (State.cePublish s n).sched = s.sched := by
  unfold State.cePublish
  simp [apply_ite State.sched]

@[simp] theorem State.ceRollback_sched (s : State) (n : Nat) : (State.ceRollback s n).sched = s.sched := by
  unfold State.ceRollback
  simp

@[simp] theorem State.ceStatusWrite_sched (s : State) (c : Nat) (w : Word) : (State.ceStatusWrite s c w).sched = s.sched := by
  unfold State.ceStatusWrite
  simp

@[simp] theorem State.ceParamWrite_sched (s : State) (b : Nat) (c : Nat) (k : Nat) (w : Word) : (State.ceParamWrite s b c k w).sched = s.sched := by
  unfold State.ceParamWrite
  (repeat' split) <;> simp [apply_ite State.sched]

@[simp] theorem State.ceSwapReq_sched (s : State) (n : Nat) : (State.ceSwapReq s n).sched = s.sched := by
  unfold State.ceSwapReq
  (repeat' (split <;> try simp))

@[simp] theorem State.ceSwap_sched (s : State) (n : Nat) : (State.ceSwap s n).sched = s.sched := by
  unfold State.ceSwap
  simp [apply_ite State.sched]

@[simp] theorem State.ceTake_sched (s : State) (n : Nat) (g : Nat) (x : Nat) : (State.ceTake s n g x).sched = s.sched := by
  unfold State.ceTake
  simp

@[simp] theorem State.ceAbort_sched (s : State) (n : Nat) : (State.ceAbort s n).sched = s.sched := by
  unfold State.ceAbort
  simp

@[simp] theorem State.coefErrors_sched (s : State) (w n corr : Nat) (unc : List Nat) : (State.coefErrors s w n corr unc).sched = s.sched := by
  unfold State.coefErrors
  extract_lets x known
  have e : x.sched = s.sched := State.countUp_sched ..
  clear_value x
  split
  · exact e
  · exact ((mk_sched ..).trans (sched_fold _)).trans ((State.raiseCapture_sched ..).trans e)

@[simp] theorem State.macUse_sched (s : State) (n : Nat) : (State.macUse s n).sched = s.sched := by
  unfold State.macUse
  simp

@[simp] theorem State.eccMark_sched (s : State) (i : Nat) (b : Bool) : (State.eccMark s i b).sched = s.sched := by
  unfold State.eccMark
  simp [apply_ite State.sched]

@[simp] theorem State.firOutput_sched (s : State) (i : Nat) (corr : Nat) (unc : List Nat) : (State.firOutput s i corr unc).sched = s.sched := by
  unfold State.firOutput
  (repeat' (split <;> try simp [apply_ite State.sched]))

@[simp] theorem State.rsOutput_sched (s : State) (i : Nat) (corr : Nat) (unc : List Nat) : (State.rsOutput s i corr unc).sched = s.sched := by
  unfold State.rsOutput
  (repeat' (split <;> try simp))

@[simp] theorem State.writeSample_sched (s : State) (i : Nat) (v : Int) (ts : Int) (q : Qual) : (State.writeSample s i v ts q).sched = s.sched := by
  unfold State.writeSample
  simp

@[simp] theorem State.releaseOut_sched (s : State) (i : Nat) (inst : Int) (v : Int) (q : Qual) (clean : Bool) : (State.releaseOut s i inst v q clean).sched = s.sched := by
  unfold State.releaseOut
  (try simp [apply_ite State.sched])
  (repeat' (split <;> try simp [apply_ite State.sched]))
  all_goals (try rfl)

@[simp] theorem State.chainRelease_sched (s : State) (i : Nat) : (State.chainRelease s i).sched = s.sched := by
  unfold State.chainRelease
  (try simp)
  (repeat' (split <;> (try simp)))

@[simp] theorem State.detWrite_sched (s : State) (i : Nat) (d : DetSt) : (State.detWrite s i d).sched = s.sched := by
  unfold State.detWrite
  (repeat' (split <;> try simp [apply_ite State.sched]))

@[simp] theorem State.detClose_sched (s : State) (i : Nat) : (State.detClose s i).sched = s.sched := by
  unfold State.detClose
  dsimp only
  (repeat' split) <;> first | rfl | simp [apply_ite State.sched] | simp_all [apply_ite State.sched]

@[simp] theorem State.detTake_sched (s : State) (i : Nat) : (State.detTake s i).sched = s.sched := by
  unfold State.detTake
  (try simp [apply_ite State.sched])
  (repeat' (split <;> try simp [apply_ite State.sched]))
  all_goals (try rfl)

@[simp] theorem State.dcChainBit_sched (s : State) (i : Nat) (x : Nat) : (State.dcChainBit s i x).sched = s.sched := by
  unfold State.dcChainBit
  simp [apply_ite State.sched]

@[simp] theorem State.sigMark_sched (s : State) (i : Nat) (m : Qual) : (State.sigMark s i m).sched = s.sched := by
  unfold State.sigMark
  simp [apply_ite State.sched]

@[simp] theorem State.relMark_sched (s : State) (i : Nat) : (State.relMark s i).sched = s.sched := by
  unfold State.relMark
  dsimp only
  (repeat' split) <;> first | rfl | simp [apply_ite State.sched] | simp_all [apply_ite State.sched]

@[simp] theorem State.stuckJudge_sched (s : State) (i : Nat) (x : Nat) : (State.stuckJudge s i x).sched = s.sched := by
  unfold State.stuckJudge
  simp [apply_ite State.sched]

@[simp] theorem State.pfJudge_sched (s : State) (i : Nat) (x : Nat) (trip : Bool) : (State.pfJudge s i x trip).sched = s.sched := by
  unfold State.pfJudge
  simp [apply_ite State.sched]

@[simp] theorem State.bitIn_sched (s : State) (i : Nat) (raw : Bool) : (State.bitIn s i raw).sched = s.sched := by
  unfold State.bitIn
  simp

@[simp] theorem State.closeChain_sched (s : State) (n : Nat) (i : Nat) (w : Nat) (ts : Int) : (State.closeChain s n i w ts).sched = s.sched := by
  unfold State.closeChain
  (repeat' split) <;> simp

@[simp] theorem State.filterClose_sched (s : State) (n : Nat) : (State.filterClose s n).1.sched = s.sched := by
  unfold State.filterClose
  simp [apply_ite State.sched]

@[simp] theorem State.vecOut_sched (s : State) (sig : Nat) (x : Sv) (q : Qual) : (State.vecOut s sig x q).sched = s.sched := by
  unfold State.vecOut
  simp

@[simp] theorem State.setPos_sched (s : State) (k : Nat) (v : PosSt) : (State.setPos s k v).sched = s.sched := by
  unfold State.setPos
  simp

@[simp] theorem State.encEdge_sched (s : State) (k : Nat) (a : Bool) (b : Bool) : (State.encEdge s k a b).sched = s.sched := by
  unfold State.encEdge
  (repeat' (split <;> try simp [apply_ite State.sched]))

@[simp] theorem State.encZ_sched (s : State) (k : Nat) : (State.encZ s k).sched = s.sched := by
  unfold State.encZ
  simp [apply_ite State.sched]

@[simp] theorem State.spdTimeout_sched (s : State) (k : Nat) : (State.spdTimeout s k).sched = s.sched := by
  unfold State.spdTimeout
  (try simp)
  (repeat' (split <;> (try simp)))

@[simp] theorem State.ssiFrame_sched (s : State) (k : Nat) (raw : Nat) (lowBefore : Bool) (noReturn : Bool) (errBit : Bool) : (State.ssiFrame s k raw lowBefore noReturn errBit).sched = s.sched := by
  unfold State.ssiFrame
  simp [apply_ite State.sched]

@[simp] theorem State.posLatch_sched (s : State) (n : Nat) (k : Nat) : (State.posLatch s n k).sched = s.sched := by
  unfold State.posLatch
  (repeat' split) <;> simp

@[simp] theorem State.obsEval_sched (s : State) (u : Nat) : (State.obsEval s u).sched = s.sched := by
  unfold State.obsEval
  simp

@[simp] theorem State.angLost_sched (s : State) (u : Nat) (lost : Bool) : (State.angLost s u lost).sched = s.sched := by
  unfold State.angLost
  simp [apply_ite State.sched]

@[simp] theorem State.angEval_sched (s : State) (u : Nat) : (State.angEval s u).sched = s.sched := by
  unfold State.angEval
  (try simp)
  (repeat' (split <;> (try simp)))

@[simp] theorem State.goReverse_sched (s : State) (u : Nat) : (State.goReverse s u).sched = s.sched := by
  unfold State.goReverse
  simp

@[simp] theorem State.observeEnd_sched (s : State) (u : Nat) (locked : Bool) (w : Int) : (State.observeEnd s u locked w).sched = s.sched := by
  unfold State.observeEnd
  simp [apply_ite State.sched]

@[simp] theorem State.probeEnd_sched (s : State) (u : Nat) : (State.probeEnd s u).sched = s.sched := by
  unfold State.probeEnd
  simp [apply_ite State.sched]

@[simp] theorem State.probeEval_sched (s : State) (u : Nat) : (State.probeEval s u).sched = s.sched := by
  unfold State.probeEval
  simp [apply_ite State.sched]

@[simp] theorem State.catchEval_sched (s : State) (u : Nat) : (State.catchEval s u).sched = s.sched := by
  unfold State.catchEval
  simp [apply_ite State.sched]

@[simp] theorem State.dischEval_sched (s : State) (u : Nat) : (State.dischEval s u).sched = s.sched := by
  unfold State.dischEval
  simp [apply_ite State.sched]

@[simp] theorem State.vecBegin_sched (s : State) (u : Nat) : (State.vecBegin s u).sched = s.sched := by
  unfold State.vecBegin
  (try simp)
  (repeat' (split <;> (try simp)))

@[simp] theorem State.vecDecide_sched (s : State) (u : Nat) (wasLocked : Bool) : (State.vecDecide s u wasLocked).sched = s.sched := by
  unfold State.vecDecide
  (repeat' (split <;> try simp [apply_ite State.sched]))

@[simp] theorem State.vecEval_sched (s : State) (u : Nat) : (State.vecEval s u).sched = s.sched := by
  unfold State.vecEval
  simp [apply_ite State.sched]

@[simp] theorem State.vecGrid_sched (s : State) (u : Nat) : (State.vecGrid s u).sched = s.sched := by
  unfold State.vecGrid
  simp

@[simp] theorem State.vectorStep_sched (s : State) (n : Nat) (mask : Nat) : (State.vectorStep s n mask).sched = s.sched := by
  unfold State.vectorStep
  simp [apply_ite State.sched]

@[simp] theorem State.vecStart_sched (s : State) (u : Nat) : (State.vecStart s u).sched = s.sched := by
  unfold State.vecStart
  simp [apply_ite State.sched]

@[simp] theorem State.vecStop_sched (s : State) (u : Nat) : (State.vecStop s u).sched = s.sched := by
  unfold State.vecStop
  simp [apply_ite State.sched]

@[simp] theorem State.vecAscReq_sched (s : State) (u : Nat) : (State.vecAscReq s u).sched = s.sched := by
  unfold State.vecAscReq
  simp [apply_ite State.sched]

@[simp] theorem State.vecAscExit_sched (s : State) (u : Nat) (start : Bool) : (State.vecAscExit s u start).sched = s.sched := by
  unfold State.vecAscExit
  simp [apply_ite State.sched]

@[simp] theorem State.vecCtrlWrite_sched (s : State) (u : Nat) (w : Word) : (State.vecCtrlWrite s u w).sched = s.sched := by
  unfold State.vecCtrlWrite
  simp [apply_ite State.sched]

@[simp] theorem State.vecStartTake_sched (s : State) (u : Nat) : (State.vecStartTake s u).sched = s.sched := by
  unfold State.vecStartTake
  (try simp)
  (repeat' (split <;> (try simp)))

@[simp] theorem State.vecParamWrite_sched (s : State) (u : Nat) (a : Nat) (w : Word) : (State.vecParamWrite s u a w).sched = s.sched := by
  unfold State.vecParamWrite
  simp [apply_ite State.sched]

@[simp] theorem State.posOffsetWrite_sched (s : State) (k : Nat) (w : Word) : (State.posOffsetWrite s k w).sched = s.sched := by
  unfold State.posOffsetWrite
  simp [apply_ite State.sched]

@[simp] theorem State.setSnd_sched (s : State) (v : SndSt) : (State.setSnd s v).sched = s.sched := by
  unfold State.setSnd
  simp

@[simp] theorem State.setTx_sched (s : State) (x : SndTx) : (State.setTx s x).sched = s.sched := by
  unfold State.setTx
  simp

@[simp] theorem State.txBoth_sched (s : State) (f : SndTx → SndTx) : (State.txBoth s f).sched = s.sched := by
  unfold State.txBoth
  simp

@[simp] theorem State.sndEvent_sched (s : State) (code : Nat) : (State.sndEvent s code).sched = s.sched := by
  unfold State.sndEvent
  simp

@[simp] theorem State.setWait_sched (s : State) (k : Nat) (v : Option SndShift) : (State.setWait s k v).sched = s.sched := by
  unfold State.setWait
  simp

@[simp] theorem State.putWait_sched (s : State) (k : Nat) (x : SndShift) : (State.putWait s k x).sched = s.sched := by
  unfold State.putWait
  (repeat' split) <;> simp

@[simp] theorem State.putResync_sched (s : State) (x : SndShift) : (State.putResync s x).sched = s.sched := by
  unfold State.putResync
  simp [apply_ite State.sched]

@[simp] theorem State.applyFrame_sched (s : State) (ty : Nat) (payload : Nat) (sender : Nat) (e : Nat) : (State.applyFrame s ty payload sender e).1.sched = s.sched := by
  unfold State.applyFrame
  (repeat' (split <;> try simp))

@[simp] theorem State.promoteShifts_sched (s : State) (lim : Nat) : (State.promoteShifts s lim).sched = s.sched := by
  unfold State.promoteShifts
  apply each_sched; intro s k; (repeat' split) <;> simp

@[simp] theorem State.promoteResync_sched (s : State) (lim : Nat) : (State.promoteResync s lim).sched = s.sched := by
  unfold State.promoteResync
  dsimp only
  (repeat' split) <;> first | rfl | simp [apply_ite State.sched] | simp_all [apply_ite State.sched]

@[simp] theorem State.promote_sched (s : State) (lim : Nat) : (State.promote s lim).sched = s.sched :=
  (State.promoteResync_sched ..).trans (State.promoteShifts_sched ..)

@[simp] theorem State.shiftApply_sched (s : State) : (State.shiftApply s).sched = s.sched := State.promote_sched ..

@[simp] theorem State.resyncEnd_sched (s : State) : (State.resyncEnd s).sched = s.sched := by
  unfold State.resyncEnd
  (repeat' split) <;> simp

@[simp] theorem State.claimExpiry_sched (s : State) : (State.claimExpiry s).sched = s.sched := by
  unfold State.claimExpiry
  simp

@[simp] theorem State.sndReceive_sched (s : State) (c : Nat) (sender : Nat) (ty : Nat) (payload : Nat) (crc : Nat) (e : Nat) (est : Nat) : (State.sndReceive s c sender ty payload crc e est).sched = s.sched := by
  unfold State.sndReceive
  simp [apply_ite State.sched]

@[simp] theorem State.sndPop_sched (s : State) : (State.sndPop s).sched = s.sched := by
  unfold State.sndPop
  simp [apply_ite State.sched]

@[simp] theorem State.txSend_sched (s : State) : (State.txSend s).sched = s.sched := by
  unfold State.txSend
  simp [apply_ite State.sched]

@[simp] theorem State.txSwDone_sched (s : State) : (State.txSwDone s).sched = s.sched := by
  unfold State.txSwDone
  simp

@[simp] theorem State.txSetup_sched (s : State) (k : Nat) (claim : Word) : (State.txSetup s k claim).sched = s.sched := by
  unfold State.txSetup
  (try simp)
  (repeat' (split <;> (try simp)))

@[simp] theorem State.txRestart_sched (s : State) (f : TxFrame) (k : Nat) : (State.txRestart s f k).sched = s.sched := by
  unfold State.txRestart
  (repeat' (split <;> try simp))

@[simp] theorem State.txPending_sched (s : State) (n : Nat) (c : Nat) (claim : Word) : (State.txPending s n c claim).sched = s.sched := by
  unfold State.txPending
  (repeat' split) <;> simp [apply_ite State.sched]

@[simp] theorem State.txStep_sched (s : State) (n : Nat) (tc : Int) : (State.txStep s n tc).1.sched = s.sched := by
  unfold State.txStep
  dsimp only
  (repeat' split) <;> first | rfl | simp [apply_ite State.sched] | simp_all [apply_ite State.sched]

@[simp] theorem State.frameStart_sched (s : State) : (State.frameStart s).sched = s.sched := by
  unfold State.frameStart
  (repeat' (split <;> try simp [apply_ite State.sched]))

@[simp] theorem State.frameEnd_sched (s : State) : (State.frameEnd s).sched = s.sched := by
  unfold State.frameEnd
  (try simp)
  (repeat' (split <;> (try simp)))

@[simp] theorem State.sndEval_sched (s : State) (n : Nat) : (State.sndEval s n).sched = s.sched := by
  unfold State.sndEval
  split
  · rfl
  extract_lets ts dtc tc g f v bad src x r y w ang thMod ph a cs q inj z1 z2 z3 rs sw z4 z5 z6
  have ex : x.sched = s.sched := State.setTx_sched ..
  have ey : y.sched = x.sched := State.txStep_sched ..
  have e3 : z3.sched = y.sched := ((State.promote_sched ..).trans (State.sigWrite_sched ..)).trans (State.sigWrite_sched ..)
  have e6 : z6.sched = z3.sched := ((State.sigWrite_sched ..).trans (State.sigWrite_sched ..)).trans (State.sigWrite_sched ..)
  exact (State.sigWrite_sched ..).trans (e6.trans (e3.trans (ey.trans ex)))

@[simp] theorem State.gfeTake_sched (s : State) (n : Nat) : (State.gfeTake s n).sched = s.sched := by
  unfold State.gfeTake
  simp

@[simp] theorem State.gfePublish_sched (s : State) (n : Nat) (idRef : Int) (iqRef : Int) (gq : GQual) (satW : Bool) (satV : Bool) : (State.gfePublish s n idRef iqRef gq satW satV).sched = s.sched := by
  unfold State.gfePublish
  simp

@[simp] theorem State.gfeFlag_sched (s : State) (n : Nat) (i : Nat) (b : Bool) : (State.gfeFlag s n i b).sched = s.sched := by
  unfold State.gfeFlag
  simp

@[simp] theorem State.gfeHold_sched (s : State) (n : Nat) (q : Qual) : (State.gfeHold s n q).sched = s.sched := by
  unfold State.gfeHold
  simp [apply_ite State.sched]

@[simp] theorem State.gfeDrop_sched (s : State) (n : Nat) : (State.gfeDrop s n).sched = s.sched := by
  unfold State.gfeDrop
  simp

@[simp] theorem State.gfeEval_sched (s : State) (n : Nat) : (State.gfeEval s n).sched = s.sched := by
  unfold State.gfeEval
  simp [apply_ite State.sched]

@[simp] theorem State.frtEvent_sched (s : State) (n : Nat) (code : Nat) : (State.frtEvent s n code).sched = s.sched := by
  unfold State.frtEvent
  simp

@[simp] theorem State.frtFire_sched (s : State) (n : Nat) (k : Nat) : (State.frtFire s n k).sched = s.sched := by
  unfold State.frtFire
  simp

@[simp] theorem State.frtEval_sched (s : State) (n : Nat) : (State.frtEval s n).sched = s.sched := by
  unfold State.frtEval
  simp [apply_ite State.sched]

@[simp] theorem State.bsGo_sched (s : State) (n : Nat) (st : Nat) : (State.bsGo s n st).sched = s.sched := by
  unfold State.bsGo
  simp [apply_ite State.sched]

@[simp] theorem State.bsAbortWith_sched (s : State) (n : Nat) (cause : Nat) : (State.bsAbortWith s n cause).sched = s.sched := by
  unfold State.bsAbortWith
  simp

@[simp] theorem State.bsStartEngine_sched (s : State) (n : Nat) : (State.bsStartEngine s n).sched = s.sched := by
  unfold State.bsStartEngine
  simp [apply_ite State.sched]

@[simp] theorem State.bsAct_sched (s : State) (n : Nat) (t : Nat) (x : BsSeen) : (State.bsAct s n t x).sched = s.sched := by
  unfold State.bsAct
  (repeat' split) <;> simp [apply_ite State.sched]

@[simp] theorem State.bsEval_sched (s : State) (n : Nat) : (State.bsEval s n).sched = s.sched := by
  unfold State.bsEval
  (try simp [apply_ite State.sched])
  (repeat' (split <;> try simp [apply_ite State.sched]))
  all_goals (try rfl)

@[simp] theorem State.bsCheck_sched (s : State) (n : Nat) : (State.bsCheck s n).sched = s.sched := by
  unfold State.bsCheck
  simp [apply_ite State.sched]

@[simp] theorem State.gfeStep_sched (s : State) (n : Nat) : (State.gfeStep s n).sched = s.sched := by
  unfold State.gfeStep
  simp [apply_ite State.sched]

@[simp] theorem State.gfeStart_sched (s : State) (n : Nat) : (State.gfeStart s n).sched = s.sched := by
  unfold State.gfeStart
  simp [apply_ite State.sched]

@[simp] theorem State.gfeStop_sched (s : State) (n : Nat) : (State.gfeStop s n).sched = s.sched := by
  unfold State.gfeStop
  simp [apply_ite State.sched]

@[simp] theorem State.gfeApply_sched (s : State) (n : Nat) : (State.gfeApply s n).sched = s.sched := by
  unfold State.gfeApply
  simp [apply_ite State.sched]

@[simp] theorem State.gfeCtrlWrite_sched (s : State) (n : Nat) (w : Word) : (State.gfeCtrlWrite s n w).sched = s.sched := by
  unfold State.gfeCtrlWrite
  simp [apply_ite State.sched]

@[simp] theorem State.gfeParWrite_sched (s : State) (n : Nat) (a : Nat) (w : Word) : (State.gfeParWrite s n a w).sched = s.sched := by
  unfold State.gfeParWrite
  simp [apply_ite State.sched]

@[simp] theorem State.bsStart_sched (s : State) (n : Nat) : (State.bsStart s n).sched = s.sched := by
  unfold State.bsStart
  simp [apply_ite State.sched]

@[simp] theorem State.bsSet_sched (s : State) (n : Nat) (st : Nat) : (State.bsSet s n st).sched = s.sched := by
  unfold State.bsSet
  simp [apply_ite State.sched]

@[simp] theorem State.bsAbort_sched (s : State) (n : Nat) : (State.bsAbort s n).sched = s.sched := by
  unfold State.bsAbort
  simp

@[simp] theorem State.bsCtrlWrite_sched (s : State) (n : Nat) (w : Word) : (State.bsCtrlWrite s n w).sched = s.sched := by
  unfold State.bsCtrlWrite
  simp [apply_ite State.sched]

@[simp] theorem State.gfeSample_sched (s : State) (n : Nat) : (State.gfeSample s n).sched = s.sched := by
  unfold State.gfeSample
  (repeat' (split <;> try simp [apply_ite State.sched]))

@[simp] theorem State.gfeSeqStart_sched (s : State) (n : Nat) : (State.gfeSeqStart s n).sched = s.sched := by
  unfold State.gfeSeqStart
  simp

@[simp] theorem State.accHiRead_sched (s : State) (n : Nat) : (State.accHiRead s n).sched = s.sched := by
  unfold State.accHiRead
  simp

@[simp] theorem State.motPut_sched (s : State) (m : Nat) (p : Nat) (v : SliceSet) : (State.motPut s m p v).sched = s.sched := by
  unfold State.motPut
  simp

@[simp] theorem State.motCommit_sched (s : State) (m : Nat) : (State.motCommit s m).sched = s.sched := by
  unfold State.motCommit
  simp

@[simp] theorem State.motGap_sched (s : State) (m : Nat) : (State.motGap s m).sched = s.sched := by
  unfold State.motGap
  simp [apply_ite State.sched]

@[simp] theorem State.motEnter_sched (s : State) (m : Nat) (st : Nat) : (State.motEnter s m st).sched = s.sched := by
  unfold State.motEnter
  simp

@[simp] theorem State.motFault_sched (s : State) (m : Nat) (cause : Nat) : (State.motFault s m cause).sched = s.sched := by
  unfold State.motFault
  simp

@[simp] theorem State.motBrake_sched (s : State) (m : Nat) (by_ : Nat) : (State.motBrake s m by_).sched = s.sched := by
  unfold State.motBrake
  simp

@[simp] theorem State.motTest_sched (s : State) (m : Nat) (t : Nat) : (State.motTest s m t).sched = s.sched := by
  unfold State.motTest
  simp

@[simp] theorem State.motRampSector_sched (s : State) (m : Nat) (f : Nat) (sec : Nat) (count : Nat) (from_ : Nat) (hold : Option (Nat × Nat × Nat)) : (State.motRampSector s m f sec count from_ hold).sched = s.sched := by
  unfold State.motRampSector
  simp

@[simp] theorem State.motRamp_sched (s : State) (m : Nat) : (State.motRamp s m).sched = s.sched := by
  unfold State.motRamp
  simp

@[simp] theorem State.motAlign_sched (s : State) (m : Nat) : (State.motAlign s m).sched = s.sched := by
  unfold State.motAlign
  simp

@[simp] theorem State.motObserved_sched (s : State) (m : Nat) : (State.motObserved s m).sched = s.sched := by
  unfold State.motObserved
  (repeat' (split <;> try simp [apply_ite State.sched]))

@[simp] theorem State.auxStart_sched (s : State) (m : Nat) : (State.auxStart s m).sched = s.sched := by
  unfold State.auxStart
  simp [apply_ite State.sched]

@[simp] theorem State.auxStop_sched (s : State) (m : Nat) : (State.auxStop s m).sched = s.sched := by
  unfold State.auxStop
  simp [apply_ite State.sched]

@[simp] theorem State.auxClear_sched (s : State) (m : Nat) : (State.auxClear s m).sched = s.sched := by
  unfold State.auxClear
  simp [apply_ite State.sched]

@[simp] theorem State.auxCtrlWrite_sched (s : State) (m : Nat) (w : Word) : (State.auxCtrlWrite s m w).sched = s.sched := by
  unfold State.auxCtrlWrite
  simp [apply_ite State.sched]

@[simp] theorem State.motDuty_sched (s : State) (m : Nat) : (State.motDuty s m).sched = s.sched := by
  unfold State.motDuty
  (repeat' (split <;> try simp [apply_ite State.sched]))

@[simp] theorem State.motPublish_sched (s : State) (m : Nat) : (State.motPublish s m).sched = s.sched := by
  unfold State.motPublish
  simp [apply_ite State.sched]

@[simp] theorem State.motHoldEnd_sched (s : State) (m : Nat) : (State.motHoldEnd s m).sched = s.sched := by
  unfold State.motHoldEnd
  (repeat' split) <;> simp

@[simp] theorem State.motCross_sched (s : State) (m : Nat) (z : Int) : (State.motCross s m z).sched = s.sched := by
  unfold State.motCross
  (repeat' (split <;> try simp [apply_ite State.sched]))

@[simp] theorem State.demagEnd_sched (s : State) (m : Nat) (level : Bool) : (State.demagEnd s m level).sched = s.sched := by
  unfold State.demagEnd
  simp [apply_ite State.sched]

@[simp] theorem State.motCommutate_sched (s : State) (m : Nat) (due : Int) : (State.motCommutate s m due).sched = s.sched := by
  unfold State.motCommutate
  simp

@[simp] theorem State.motConfirm_sched (s : State) (m : Nat) : (State.motConfirm s m).sched = s.sched := by
  unfold State.motConfirm
  dsimp only
  (repeat' split) <;> first | rfl | simp [apply_ite State.sched] | simp_all [apply_ite State.sched]

@[simp] theorem State.motRampNext_sched (s : State) (m : Nat) : (State.motRampNext s m).sched = s.sched := by
  unfold State.motRampNext
  simp [apply_ite State.sched]

@[simp] theorem State.motTimed_sched (s : State) (m : Nat) : (State.motTimed s m).sched = s.sched := by
  unfold State.motTimed
  (repeat' (split <;> try simp))

@[simp] theorem State.motEvent_sched (s : State) (m : Nat) (sts : List Nat) : (State.motEvent s m sts).sched = s.sched := by
  unfold State.motEvent
  simp [apply_ite State.sched]

@[simp] theorem State.commutation_sched (s : State) (m : Nat) : (State.commutation s m).sched = s.sched := by
  unfold State.commutation
  (repeat' split) <;> simp

@[simp] theorem State.obsTime_sched (s : State) (m : Nat) : (State.obsTime s m).sched = s.sched := by
  unfold State.obsTime
  simp

@[simp] theorem State.stopConfirm_sched (s : State) (m : Nat) : (State.stopConfirm s m).sched = s.sched := by
  unfold State.stopConfirm
  (try simp)
  (repeat' (split <;> (try simp)))

@[simp] theorem State.alignEnd_sched (s : State) (m : Nat) : (State.alignEnd s m).sched = s.sched := by
  unfold State.alignEnd
  simp [apply_ite State.sched]

@[simp] theorem State.rampSectorEnd_sched (s : State) (m : Nat) : (State.rampSectorEnd s m).sched = s.sched := by
  unfold State.rampSectorEnd
  simp [apply_ite State.sched]

@[simp] theorem State.bemfCrossing_sched (s : State) (h : Nat) (level : Bool) (first : Nat) : (State.bemfCrossing s h level first).sched = s.sched := by
  unfold State.bemfCrossing
  (try simp)
  (repeat' (split <;> (try simp)))

@[simp] theorem State.forcedCommutation_sched (s : State) (m : Nat) : (State.forcedCommutation s m).sched = s.sched := by
  unfold State.forcedCommutation
  simp [apply_ite State.sched]

@[simp] theorem State.motReload_sched (s : State) (m : Nat) : (State.motReload s m).sched = s.sched := by
  unfold State.motReload
  simp [apply_ite State.sched]

@[simp] theorem State.reloadAll_sched (s : State) (c : Nat) : (State.reloadAll s c).sched = s.sched := by
  unfold State.reloadAll
  simp [apply_ite State.sched]

@[simp] theorem State.motUncommute_sched (s : State) (m : Nat) : (State.motUncommute s m).sched = s.sched := by
  unfold State.motUncommute
  simp [apply_ite State.sched]

@[simp] theorem State.motPassage_sched (s : State) (m : Nat) (sign : Bool) : (State.motPassage s m sign).sched = s.sched := by
  unfold State.motPassage
  simp

@[simp] theorem State.auxWindow_sched (s : State) (h : Nat) (k : Nat) (on : Bool) (sign : Bool) : (State.auxWindow s h k on sign).sched = s.sched := by
  unfold State.auxWindow
  (repeat' (split <;> try simp [apply_ite State.sched]))

@[simp] theorem State.brkOffEnd_sched (s : State) (m : Nat) : (State.brkOffEnd s m).sched = s.sched := by
  unfold State.brkOffEnd
  (repeat' split) <;> simp

@[simp] theorem State.auxChopFault_sched (s : State) : (State.auxChopFault s).sched = s.sched := by
  unfold State.auxChopFault
  simp [apply_ite State.sched]

@[simp] theorem State.auxBus_sched (s : State) (k : Nat) (up : Bool) : (State.auxBus s k up).sched = s.sched := by
  unfold State.auxBus
  (repeat' (split <;> try simp [apply_ite State.sched]))

@[simp] theorem State.auxChopVerify_sched (s : State) (flows : Bool) : (State.auxChopVerify s flows).sched = s.sched := by
  unfold State.auxChopVerify
  (repeat' split) <;> simp

@[simp] theorem State.ovRel_sched (s : State) : (State.ovRel s).sched = s.sched := by
  unfold State.ovRel
  (repeat' (split <;> try simp [apply_ite State.sched]))

@[simp] theorem State.auxSupply_sched (s : State) : (State.auxSupply s).sched = s.sched := by
  unfold State.auxSupply
  simp

@[simp] theorem State.vdrvUv_sched (s : State) (on : Bool) : (State.vdrvUv s on).sched = s.sched := by
  unfold State.vdrvUv
  simp [apply_ite State.sched]

@[simp] theorem State.cpUv_sched (s : State) (on : Bool) : (State.cpUv s on).sched = s.sched := by
  unfold State.cpUv
  simp [apply_ite State.sched]

@[simp] theorem State.bstUv_sched (s : State) (h : Nat) (on : Bool) : (State.bstUv s h on).sched = s.sched := by
  unfold State.bstUv
  simp [apply_ite State.sched]

@[simp] theorem State.atTick_sched (s : State) (f : Nat → Nat → Nat × Nat) : (State.atTick s f).sched = s.sched := by
  unfold State.atTick
  simp [apply_ite State.sched]

@[simp] theorem State.timeIncWrite_sched (s : State) (w : Word) : (State.timeIncWrite s w).sched = s.sched := by
  unfold State.timeIncWrite
  simp [apply_ite State.sched]

@[simp] theorem State.timeSet_sched (s : State) : (State.timeSet s).sched = s.sched := by
  unfold State.timeSet
  simp [apply_ite State.sched]

@[simp] theorem State.timeStep_sched (s : State) : (State.timeStep s).sched = s.sched := by
  unfold State.timeStep
  simp [apply_ite State.sched]

@[simp] theorem State.timeCtrlWrite_sched (s : State) (w : Word) : (State.timeCtrlWrite s w).sched = s.sched := by
  unfold State.timeCtrlWrite
  simp [apply_ite State.sched]

@[simp] theorem State.timeNsRead_sched (s : State) (i : Initiator) : (State.timeNsRead s i).1.sched = s.sched := by
  unfold State.timeNsRead
  exact (mk_sched ..).trans (sched_fold s)

@[simp] theorem State.tbLoRead_sched (s : State) (i : Initiator) : (State.tbLoRead s i).1.sched = s.sched := by
  unfold State.tbLoRead
  (repeat' split) <;> simp

@[simp] theorem State.setEthQueue_sched (s : State) (p : Nat) (q : Nat) (l : List EthFrame) : (State.setEthQueue s p q l).sched = s.sched := by
  unfold State.setEthQueue
  simp

@[simp] theorem State.ethEnqueue_sched (s : State) (p : Nat) (f : EthFrame) : (State.ethEnqueue s p f).sched = s.sched := by
  unfold State.ethEnqueue; simp only []; split <;> simp

@[simp] theorem State.ethToHost_sched (s : State) (f : EthFrame) : (State.ethToHost s f).sched = s.sched := by
  unfold State.ethToHost
  (repeat' split) <;> simp [apply_ite State.sched]

@[simp] theorem State.ethStamp_sched (s : State) (bs : List Byte) (out : Bool) : (State.ethStamp s bs out).sched = s.sched := by
  unfold State.ethStamp
  (repeat' split) <;> simp

@[simp] theorem State.ethLearn_sched (s : State) (p : Nat) (bs : List Byte) : (State.ethLearn s p bs).sched = s.sched := by
  unfold State.ethLearn
  simp [apply_ite State.sched]

@[simp] theorem State.ethIngress_sched (s : State) (p : Nat) (bs : List Byte) : (State.ethIngress s p bs).sched = s.sched := by
  unfold State.ethIngress
  simp [apply_ite State.sched]

@[simp] theorem State.ethCorrect_sched (s : State) (p : Nat) (f : EthFrame) : (State.ethCorrect s p f).1.sched = s.sched := by
  unfold State.ethCorrect
  (repeat' (split <;> try simp))

@[simp] theorem State.ethEgress_sched (s : State) (p : Nat) : (State.ethEgress s p).sched = s.sched := by
  unfold State.ethEgress
  (repeat' (split <;> try simp [apply_ite State.sched]))

@[simp] theorem State.pdelay_sched (s : State) (p : Nat) (t1 : Int) (t2 : Int) (t3 : Int) (t4 : Int) : (State.pdelay s p t1 t2 t3 t4).sched = s.sched := by
  unfold State.pdelay
  simp [apply_ite State.sched]

@[simp] theorem State.macAgeOut_sched (s : State) (a : Nat) : (State.macAgeOut s a).sched = s.sched := by
  unfold State.macAgeOut
  simp

@[simp] theorem State.ethLink_sched (s : State) (p : Nat) (up : Bool) : (State.ethLink s p up).sched = s.sched := by
  unfold State.ethLink
  simp [apply_ite State.sched]

@[simp] theorem State.ethTsPop_sched (s : State) : (State.ethTsPop s).1.sched = s.sched := by
  unfold State.ethTsPop
  simp

@[simp] theorem State.setSar_sched (s : State) (h : Nat) (v : SarSt) : (State.setSar s h v).sched = s.sched := by
  unfold State.setSar
  simp

@[simp] theorem State.sarBusy_sched (s : State) (h : Nat) : (State.sarBusy s h).sched = s.sched := by
  unfold State.sarBusy
  simp

@[simp] theorem State.putSar_sched (s : State) (h : Nat) (v : SarSt) : (State.putSar s h v).sched = s.sched := by
  unfold State.putSar
  simp

@[simp] theorem State.sarTrigger_sched (s : State) (k : Nat) (inj : Bool) (x : Nat) : (State.sarTrigger s k inj x).sched = s.sched := by
  unfold State.sarTrigger
  simp [apply_ite State.sched]

@[simp] theorem State.sarFireAt_sched (s : State) (code : Nat) (x : Nat) : (State.sarFireAt s code x).sched = s.sched := by
  unfold State.sarFireAt
  simp [apply_ite State.sched]

@[simp] theorem State.sarFire_sched (s : State) (code : Nat) : (State.sarFire s code).sched = s.sched := by
  unfold State.sarFire
  simp [apply_ite State.sched]

@[simp] theorem State.sarTimer_sched (s : State) (j : Nat) : (State.sarTimer s j).sched = s.sched := by
  unfold State.sarTimer
  simp [apply_ite State.sched]

@[simp] theorem State.sarTakeInj_sched (s : State) (k : Nat) (h : Nat) (e : Nat) : (State.sarTakeInj s k h e).sched = s.sched := by
  unfold State.sarTakeInj
  simp [apply_ite State.sched]

@[simp] theorem State.sarTakeReg_sched (s : State) (h : Nat) (e : Nat) : (State.sarTakeReg s h e).sched = s.sched := by
  unfold State.sarTakeReg
  simp [apply_ite State.sched]

@[simp] theorem State.sarTakeAt_sched (s : State) (ms : List Nat) (e : Nat) : (State.sarTakeAt s ms e).sched = s.sched := by
  unfold State.sarTakeAt
  simp [apply_ite State.sched]

@[simp] theorem State.sarCalFrom_sched (s : State) (ms : List Nat) (x : Nat) : (State.sarCalFrom s ms x).sched = s.sched := by
  unfold State.sarCalFrom
  simp

@[simp] theorem State.sarMove_sched (f : Nat) (s : State) (ms : List Nat) : (State.sarMove f s ms).sched = s.sched := by
  induction f generalizing s with
  | zero => rfl
  | succ f ih =>
    unfold State.sarMove
    dsimp only
    (repeat' split) <;> simp [ih]

@[simp] theorem State.sarCatch_sched (s : State) (k : Nat) : (State.sarCatch s k).sched = s.sched := State.sarMove_sched ..

@[simp] theorem State.sarStartEdge_sched (s : State) (k : Nat) : (State.sarStartEdge s k).sched = s.sched := by
  unfold State.sarStartEdge
  simp

@[simp] theorem State.wrAt_sched (s : State) (x : Nat) (a : Nat) (w : Word) : (State.wrAt s x a w).sched = s.sched := by
  unfold State.wrAt
  simp [apply_ite State.sched]

@[simp] theorem State.sarResult_sched (s : State) (k : Nat) (h : Nat) (e : Nat) (x : Nat) (raw : Int) (cnt : Nat) (again : Bool) : (State.sarResult s k h e x raw cnt again).sched = s.sched := by
  unfold State.sarResult
  simp

@[simp] theorem State.sarResume_sched (s : State) (h : Nat) (x : Nat) : (State.sarResume s h x).sched = s.sched := by
  unfold State.sarResume
  simp [apply_ite State.sched]

@[simp] theorem State.sarInjEnd_sched (s : State) (k : Nat) (h : Nat) (i : Nat) (x : Nat) (raw : Int) : (State.sarInjEnd s k h i x raw).sched = s.sched := by
  unfold State.sarInjEnd
  simp [apply_ite State.sched]

@[simp] theorem State.sarRegEnd_sched (s : State) (k : Nat) (h : Nat) (i : Nat) (x : Nat) (raw : Int) : (State.sarRegEnd s k h i x raw).sched = s.sched := by
  unfold State.sarRegEnd
  simp [apply_ite State.sched]

@[simp] theorem State.sarConvEnd_sched (s : State) (k : Nat) (raw : Int) : (State.sarConvEnd s k raw).sched = s.sched := by
  unfold State.sarConvEnd
  (try simp)
  (repeat' (split <;> (try simp)))

@[simp] theorem State.sarCalReq_sched (s : State) (k : Nat) : (State.sarCalReq s k).sched = s.sched := by
  unfold State.sarCalReq
  simp [apply_ite State.sched]

@[simp] theorem State.sarCalStart_sched (s : State) (k : Nat) : (State.sarCalStart s k).sched = s.sched := by
  unfold State.sarCalStart
  simp [apply_ite State.sched]

@[simp] theorem State.sarCalTake_sched (s : State) (k : Nat) (off : Int) (gain : Nat) : (State.sarCalTake s k off gain).sched = s.sched := by
  unfold State.sarCalTake
  simp [apply_ite State.sched]

@[simp] theorem State.sarCalDone_sched (s : State) (h : Nat) (x : Nat) : (State.sarCalDone s h x).sched = s.sched := by
  unfold State.sarCalDone
  simp

@[simp] theorem State.sarCalEnd_sched (s : State) (k : Nat) (off : Int) (gain : Nat) : (State.sarCalEnd s k off gain).sched = s.sched := by
  unfold State.sarCalEnd
  (try simp)
  (repeat' (split <;> (try simp)))

@[simp] theorem State.sarCalAuto_sched (s : State) (k : Nat) : (State.sarCalAuto s k).sched = s.sched := by
  unfold State.sarCalAuto
  simp [apply_ite State.sched]

@[simp] theorem State.sarStarved_sched (s : State) (k : Nat) : (State.sarStarved s k).sched = s.sched := by
  unfold State.sarStarved
  (try simp)
  (repeat' (split <;> (try simp)))

@[simp] theorem State.modulateStep_sched (s : State) (n : Nat) (mask : Nat) : (State.modulateStep s n mask).sched = s.sched := by
  unfold State.modulateStep
  simp [apply_ite State.sched]

@[simp] theorem State.commitStep_sched (s : State) (n : Nat) : (State.commitStep s n).sched = s.sched := by
  unfold State.commitStep
  simp [apply_ite State.sched]

@[simp] theorem State.releaseSets_sched (s : State) (n : Nat) : (State.releaseSets s n).sched = s.sched := by
  unfold State.releaseSets; apply each_sched; intro s k; (repeat' split) <;> simp

@[simp] theorem State.prepareOwned_sched (s : State) (n : Nat) (x : Nat) : (State.prepareOwned s n x).sched = s.sched := by
  unfold State.prepareOwned
  simp

@[simp] theorem State.dropSets_sched (s : State) (n : Nat) : (State.dropSets s n).sched = s.sched := by
  unfold State.dropSets
  simp

@[simp] theorem State.trgCompare_sched (s : State) (i : Nat) (k : Nat) : (State.trgCompare s i k).sched = s.sched := by
  unfold State.trgCompare
  simp [apply_ite State.sched]

@[simp] theorem State.setThr_sched (s : State) (n : Nat) (v : TwinThr) : (State.setThr s n v).sched = s.sched := by
  unfold State.setThr
  simp

@[simp] theorem State.cwySend_sched (s : State) (ty : Nat) (thread : Nat) (fwd : Bool) (payload : List Dword) : (State.cwySend s ty thread fwd payload).sched = s.sched := by
  unfold State.cwySend
  simp [apply_ite State.sched]

@[simp] theorem State.cwyReceive_sched (s : State) (h : CwyHdr) : (State.cwyReceive s h).1.sched = s.sched := by
  unfold State.cwyReceive
  (repeat' (split <;> try simp))

@[simp] theorem State.msgSend_sched (s : State) (ep : Nat) (bytes : List Byte) (tries : Nat) : (State.msgSend s ep bytes tries).sched = s.sched := by
  unfold State.msgSend
  simp [apply_ite State.sched]

@[simp] theorem State.endpointTake_sched (s : State) (j : Nat) : (State.endpointTake s j).1.sched = s.sched := by
  unfold State.endpointTake
  dsimp only
  split
  · simp
  · rw [each_sched]
    · rfl
    · intro s i; simp

@[simp] theorem State.msgForward_sched (s : State) (n : Nat) : (State.msgForward s n).sched = s.sched := by
  unfold State.msgForward
  dsimp only
  rw [foldl_sched]
  · generalize (List.filter _ _ : List Nat) = js
    suffices h : ∀ (r : State × List BoundMsg), (js.foldl (fun (r : State × List BoundMsg) j => ((r.1.endpointTake j).1, r.2 ++ (r.1.endpointTake j).2)) r).1.sched = r.1.sched from h (s, [])
    induction js with
    | nil => intro r; rfl
    | cons j js ih => intro r; rw [List.foldl_cons, ih, State.endpointTake_sched]
  · intro s m; split <;> simp

@[simp] theorem State.roleAccept_sched (s : State) (n : Nat) : (State.roleAccept s n).sched = s.sched := by
  unfold State.roleAccept
  dsimp only
  rw [foldl_sched]
  · rfl
  · intro s m
    (repeat' split) <;> simp

@[simp] theorem State.twinRole_sched (s : State) (n : Nat) : (State.twinRole s n).sched = s.sched := by
  unfold State.twinRole
  simp [apply_ite State.sched]

@[simp] theorem State.twinLinks_sched (s : State) (n : Nat) : (State.twinLinks s n).sched = s.sched := by
  unfold State.twinLinks
  simp

@[simp] theorem State.leaveStep_sched (s : State) (n : Nat) (cause : Nat) : (State.leaveStep s n cause).sched = s.sched := by
  unfold State.leaveStep
  simp [apply_ite State.sched]

@[simp] theorem State.enterStep_sched (s : State) (n : Nat) : (State.enterStep s n).sched = s.sched := by
  unfold State.enterStep
  simp

@[simp] theorem State.healthPost_sched (s : State) (n : Nat) : (State.healthPost s n).sched = s.sched := by
  unfold State.healthPost
  simp [apply_ite State.sched]

@[simp] theorem State.digBad_sched (s : State) (n : Nat) (kind : Nat) : (State.digBad s n kind).sched = s.sched := by
  unfold State.digBad
  (repeat' (split <;> try simp [apply_ite State.sched]))

@[simp] theorem State.digCompare_sched (s : State) (n : Nat) (period : Nat) : (State.digCompare s n period).sched = s.sched := by
  unfold State.digCompare
  (try simp)
  (repeat' (split <;> (try simp)))

@[simp] theorem State.twinOverrun_sched (s : State) (n : Nat) : (State.twinOverrun s n).sched = s.sched := by
  unfold State.twinOverrun
  simp [apply_ite State.sched]

@[simp] theorem State.cwyDigest_sched (s : State) (h : CwyHdr) (input : Nat) (state : Nat) (flags : Nat) : (State.cwyDigest s h input state flags).sched = s.sched := by
  unfold State.cwyDigest
  simp [apply_ite State.sched]

@[simp] theorem State.cwyOverrun_sched (s : State) (h : CwyHdr) : (State.cwyOverrun s h).sched = s.sched := by
  unfold State.cwyOverrun
  simp [apply_ite State.sched]

@[simp] theorem State.digestTimeout_sched (s : State) (n : Nat) : (State.digestTimeout s n).sched = s.sched := by
  unfold State.digestTimeout
  (repeat' split) <;> simp

@[simp] theorem State.twinEnd_sched (s : State) (n : Nat) : (State.twinEnd s n).sched = s.sched := by
  unfold State.twinEnd
  simp [apply_ite State.sched]

@[simp] theorem State.cwyEnd_sched (s : State) (h : CwyHdr) : (State.cwyEnd s h).sched = s.sched := by
  unfold State.cwyEnd
  simp [apply_ite State.sched]

@[simp] theorem State.twinLatch_sched (s : State) (n : Nat) : (State.twinLatch s n).sched = s.sched := by
  unfold State.twinLatch
  simp [apply_ite State.sched]

@[simp] theorem State.cwyLatch_sched (s : State) (h : CwyHdr) (xs : List (BitVec 12 × Qual × Word)) : (State.cwyLatch s h xs).sched = s.sched := by
  unfold State.cwyLatch
  simp [apply_ite State.sched]

@[simp] theorem State.yieldEval_sched (s : State) (n : Nat) : (State.yieldEval s n).sched = s.sched := by
  unfold State.yieldEval
  dsimp only
  (repeat' split) <;> first | rfl | simp [apply_ite State.sched] | simp_all [apply_ite State.sched]

@[simp] theorem State.cwySnap_sched (s : State) (h : CwyHdr) (items : List SnapItem) (last : Bool) (size : BitVec 20) : (State.cwySnap s h items last size).sched = s.sched := by
  unfold State.cwySnap
  simp [apply_ite State.sched]

@[simp] theorem State.snapSend_sched (s : State) (n : Nat) : (State.snapSend s n).sched = s.sched := by
  unfold State.snapSend
  simp [apply_ite State.sched]

@[simp] theorem State.twinOut_sched (s : State) (n : Nat) (cause : Nat) : (State.twinOut s n cause).sched = s.sched := by
  unfold State.twinOut
  simp

@[simp] theorem State.cwyLanesUp_sched (s : State) (ownCrc : Nat) (crc : Nat) (prio : Nat) (st : Nat) (run : Nat) : (State.cwyLanesUp s ownCrc crc prio st run).sched = s.sched := by
  unfold State.cwyLanesUp
  simp [apply_ite State.sched]

@[simp] theorem State.seniorResume_sched (s : State) : (State.seniorResume s).sched = s.sched := by
  unfold State.seniorResume
  simp [apply_ite State.sched]

@[simp] theorem State.cwyDown_sched (s : State) (lanes : BitVec 4) : (State.cwyDown s lanes).sched = s.sched := by
  unfold State.cwyDown
  extract_lets +onlyGivenNames quiet
  clear_value quiet
  split; · rfl
  split; · rfl
  extract_lets was s1 s2 _ s3 ms _ s4
  have e1 : s1.sched = s.sched := by simp [s1]
  have e2 : s2.sched = s1.sched := State.post_sched ..
  have e3 : s3.sched = s1.sched := by
    by_cases h : was = true
    · rw [show s3 = _ from if_pos h]; exact (mk_sched ..).trans ((sched_fold _).trans e2)
    · rw [show s3 = _ from if_neg h]
  have e4 : s4.sched = s3.sched := (mk_sched ..).trans (sched_fold _)
  clear_value s4
  rw [State.seniorResume_sched, foldl_sched _ _ _ (by intro s i; simp), e4, e3, e1]

@[simp] theorem State.partnerTimeout_sched (s : State) (bootAt : Nat) : (State.partnerTimeout s bootAt).sched = s.sched := by
  unfold State.partnerTimeout
  simp [apply_ite State.sched]

@[simp] theorem State.cwyStatusSend_sched (s : State) : (State.cwyStatusSend s).sched = s.sched := by
  unfold State.cwyStatusSend; split
  · rfl
  · exact State.cwySend_sched ..

@[simp] theorem State.cwyStatus_sched (s : State) (h : CwyHdr) (st : BitVec 3) (run : BitVec 4) (flags : List Nat) (ups : BitVec 32) : (State.cwyStatus s h st run flags ups).sched = s.sched := by
  unfold State.cwyStatus
  simp [apply_ite State.sched]

@[simp] theorem State.cwyJoinSend_sched (s : State) : (State.cwyJoinSend s).sched = s.sched := by
  unfold State.cwyJoinSend
  simp [apply_ite State.sched]

@[simp] theorem State.cwyTimeSend_sched (s : State) : (State.cwyTimeSend s).sched = s.sched := by
  unfold State.cwyTimeSend
  simp [apply_ite State.sched]

@[simp] theorem State.cwyTime_sched (s : State) (h : CwyHdr) (t1 : Nat) (t2 : Nat) (t3 : Nat) (t4 : Nat) : (State.cwyTime s h t1 t2 t3 t4).sched = s.sched := by
  unfold State.cwyTime
  simp [apply_ite State.sched]

@[simp] theorem State.clkTakeover_sched (s : State) (k : Nat) : (State.clkTakeover s k).sched = s.sched := by
  unfold State.clkTakeover
  simp [apply_ite State.sched]

@[simp] theorem State.coastEnd_sched (s : State) : (State.coastEnd s).sched = s.sched := by
  unfold State.coastEnd
  (repeat' (split <;> try simp [apply_ite State.sched]))

@[simp] theorem State.cwyMsg_sched (s : State) (h : CwyHdr) (j : Nat) (bytes : List Byte) : (State.cwyMsg s h j bytes).sched = s.sched := by
  unfold State.cwyMsg
  simp [apply_ite State.sched]

@[simp] theorem State.cwyMsgAck_sched (s : State) (h : CwyHdr) (ack : BitVec 32) : (State.cwyMsgAck s h ack).sched = s.sched := by
  unfold State.cwyMsgAck
  simp [apply_ite State.sched]

@[simp] theorem State.msgRetry_sched (s : State) (fseq : Nat) : (State.msgRetry s fseq).sched = s.sched := by
  unfold State.msgRetry
  (repeat' split) <;> simp

@[simp] theorem State.cwyMirror_sched (s : State) (h : CwyHdr) (a : Nat) (d : Word) (period : Nat) : (State.cwyMirror s h a d period).sched = s.sched := by
  unfold State.cwyMirror
  simp [apply_ite State.sched]

@[simp] theorem State.islLog_sched (s : State) (code : Nat) (a : Nat) (b : Nat) : (State.islLog s code a b).sched = s.sched := by
  unfold State.islLog
  simp

@[simp] theorem State.islSnapStart_sched (s : State) : (State.islSnapStart s).sched = s.sched := by
  unfold State.islSnapStart
  simp [apply_ite State.sched]

@[simp] theorem State.islSnapshot_sched (s : State) (ok : Bool) (first : Nat) : (State.islSnapshot s ok first).sched = s.sched := by
  unfold State.islSnapshot
  (repeat' (split <;> try simp [apply_ite State.sched]))

@[simp] theorem State.islTimeout_sched (s : State) : (State.islTimeout s).sched = s.sched := by
  unfold State.islTimeout
  simp [apply_ite State.sched]

@[simp] theorem State.meterWindow_sched (s : State) (m : IslMeas) : (State.meterWindow s m).sched = s.sched := by
  unfold State.meterWindow
  simp [apply_ite State.sched]

@[simp] theorem State.islAdd_sched (s : State) (k : Nat) (e : Nat) : (State.islAdd s k e).sched = s.sched := by
  unfold State.islAdd
  simp

@[simp] theorem State.islSigned_sched (s : State) (q : Nat) (φ : Nat) (e : Int) : (State.islSigned s q φ e).sched = s.sched := by
  unfold State.islSigned
  simp [apply_ite State.sched]

@[simp] theorem State.setPulse_sched (s : State) (o : Bool) (v : IslPulse) : (State.setPulse s o v).sched = s.sched := by
  unfold State.setPulse
  cases o <;> simp

@[simp] theorem State.modeTake_sched (s : State) : (State.modeTake s).sched = s.sched := by
  unfold State.modeTake
  simp [apply_ite State.sched]

@[simp] theorem State.islOwe_sched (s : State) (o : Bool) (e : Int) : (State.islOwe s o e).sched = s.sched := by
  unfold State.islOwe
  simp [apply_ite State.sched]

@[simp] theorem State.islQuantum_sched (s : State) (p : List Int) (q : List Int) : (State.islQuantum s p q).sched = s.sched := by
  unfold State.islQuantum
  simp [apply_ite State.sched]

@[simp] theorem State.islParTake_sched (s : State) : (State.islParTake s).sched = s.sched := by
  unfold State.islParTake
  (repeat' split) <;> simp

@[simp] theorem State.meterQuantum_sched (s : State) (p : List Int) (q : List Int) : (State.meterQuantum s p q).sched = s.sched := by
  unfold State.meterQuantum
  simp [apply_ite State.sched]

@[simp] theorem State.meterPulse_sched (s : State) (o : Bool) : (State.meterPulse s o).sched = s.sched := by
  unfold State.meterPulse
  simp [apply_ite State.sched]

@[simp] theorem State.islClock_sched (s : State) (dev : Int) : (State.islClock s dev).sched = s.sched := by
  unfold State.islClock
  simp [apply_ite State.sched]

@[simp] theorem State.islMode_sched (s : State) (m : Nat) : (State.islMode s m).sched = s.sched := by
  unfold State.islMode
  simp [apply_ite State.sched]

@[simp] theorem State.islOpen_sched (s : State) : (State.islOpen s).sched = s.sched := by
  unfold State.islOpen
  simp

@[simp] theorem State.sealChange_sched (s : State) (closed : Bool) : (State.sealChange s closed).sched = s.sched := by
  unfold State.sealChange
  simp [apply_ite State.sched]

@[simp] theorem State.testExpiry_sched (s : State) : (State.testExpiry s).sched = s.sched := by
  unfold State.testExpiry
  simp [apply_ite State.sched]

@[simp] theorem State.straitFall_sched (s : State) (p : List Int) (q : List Int) : (State.straitFall s p q).sched = s.sched := by
  unfold State.straitFall
  simp [apply_ite State.sched]

@[simp] theorem State.straitReturn_sched (s : State) (retained : Bool) : (State.straitReturn s retained).sched = s.sched := by
  unfold State.straitReturn
  simp [apply_ite State.sched]

@[simp] theorem State.calReply_sched (s : State) (cmd : Nat) (idx : Nat) (value : Nat) : (State.calReply s cmd idx value).sched = s.sched := by
  unfold State.calReply
  simp

@[simp] theorem State.calRead_sched (s : State) (staging : Bool) (idx : Nat) (crcOk : Bool) : (State.calRead s staging idx crcOk).sched = s.sched := by
  unfold State.calRead
  simp [apply_ite State.sched]

@[simp] theorem State.calWrite_sched (s : State) (idx : Nat) (w : Word) (crcOk : Bool) : (State.calWrite s idx w crcOk).sched = s.sched := by
  unfold State.calWrite
  simp [apply_ite State.sched]

@[simp] theorem State.calCommit_sched (s : State) (idx : Nat) (crcOk : Bool) : (State.calCommit s idx crcOk).sched = s.sched := by
  unfold State.calCommit
  simp [apply_ite State.sched]

@[simp] theorem State.islResult_sched (s : State) (refused : Bool) : (State.islResult s refused).sched = s.sched := by
  unfold State.islResult
  simp

@[simp] theorem State.islRefresh_sched (s : State) : (State.islRefresh s).sched = s.sched := by
  unfold State.islRefresh
  simp [apply_ite State.sched]

@[simp] theorem State.islLoadLog_sched (s : State) (arg : Nat) : (State.islLoadLog s arg).sched = s.sched := by
  unfold State.islLoadLog
  (repeat' split) <;> simp

@[simp] theorem State.islAck_sched (s : State) : (State.islAck s).sched = s.sched := by
  unfold State.islAck
  simp [apply_ite State.sched]

@[simp] theorem State.islTest_sched (s : State) (arg : Nat) : (State.islTest s arg).sched = s.sched := by
  unfold State.islTest
  simp [apply_ite State.sched]

@[simp] theorem State.islCmd_sched (s : State) (w : Word) : (State.islCmd s w).sched = s.sched := by
  unfold State.islCmd
  (repeat' split) <;> simp

@[simp] theorem State.setMoving_sched (s : State) (d : Nat) (v : Nat) : (State.setMoving s d v).sched = s.sched := by
  unfold State.setMoving
  simp

@[simp] theorem State.pdRefuse_sched (s : State) (d : Nat) : (State.pdRefuse s d).sched = s.sched := by
  unfold State.pdRefuse
  simp [apply_ite State.sched]

@[simp] theorem State.pdOff1_sched (s : State) (d : Nat) : (State.pdOff1 s d).sched = s.sched := by
  unfold State.pdOff1
  simp [apply_ite State.sched]

@[simp] theorem State.pdOn1_sched (s : State) (d : Nat) : (State.pdOn1 s d).sched = s.sched := by
  unfold State.pdOn1
  simp [apply_ite State.sched]

@[simp] theorem State.pdmOffWrite_sched (s : State) (w : Word) : (State.pdmOffWrite s w).sched = s.sched := by
  unfold State.pdmOffWrite
  simp

@[simp] theorem State.pdmOnWrite_sched (s : State) (w : Word) : (State.pdmOnWrite s w).sched = s.sched := by
  unfold State.pdmOnWrite
  simp

@[simp] theorem State.pdOffDone_sched (s : State) (d : Nat) : (State.pdOffDone s d).sched = s.sched := by
  unfold State.pdOffDone
  simp [apply_ite State.sched]

@[simp] theorem State.resetBlocks_sched (s : State) (bs : List Nat) : (State.resetBlocks s bs).sched = s.sched := by
  unfold State.resetBlocks
  simp

@[simp] theorem State.pdCleared_sched (s : State) (d : Nat) : (State.pdCleared s d).sched = s.sched := by
  unfold State.pdCleared
  (repeat' split) <;> simp

@[simp] theorem State.pdOnDone_sched (s : State) (d : Nat) : (State.pdOnDone s d).sched = s.sched := by
  unfold State.pdOnDone
  simp [apply_ite State.sched]

@[simp] theorem State.dramTrained_sched (s : State) : (State.dramTrained s).sched = s.sched := by
  unfold State.dramTrained
  simp [apply_ite State.sched]

@[simp] theorem State.pdWake14_sched (s : State) : (State.pdWake14 s).sched = s.sched := by
  unfold State.pdWake14
  simp [apply_ite State.sched]

@[simp] theorem State.canWake_sched (s : State) (k : Nat) (w : WakeSeen) : (State.canWake s k w).sched = s.sched := by
  unfold State.canWake
  (repeat' split) <;> simp

@[simp] theorem State.irqTake_sched (s : State) (p : Nat) (sup : Bool) : (State.irqTake s p sup).sched = s.sched := by
  unfold State.irqTake
  simp [apply_ite State.sched]

@[simp] theorem State.irqBack_sched (s : State) (p : Nat) (sup : Bool) : (State.irqBack s p sup).sched = s.sched := by
  unfold State.irqBack
  simp [apply_ite State.sched]

@[simp] theorem State.irqClaim_sched (s : State) (p : Nat) (sup : Bool) : (State.irqClaim s p sup).1.sched = s.sched := by
  unfold State.irqClaim
  (repeat' split) <;> simp

@[simp] theorem State.irqComplete_sched (s : State) (p : Nat) (sup : Bool) (w : Word) : (State.irqComplete s p sup w).sched = s.sched := by
  unfold State.irqComplete
  simp [apply_ite State.sched]

@[simp] theorem State.swiSet_sched (s : State) (w : Word) : (State.swiSet s w).sched = s.sched := by
  unfold State.swiSet
  simp

@[simp] theorem State.lockstepMismatch_sched (s : State) (p : Nat) : (State.lockstepMismatch s p).sched = s.sched := by
  unfold State.lockstepMismatch
  simp [apply_ite State.sched]

@[simp] theorem State.cpRestart_sched (s : State) (who : Initiator) (p : Nat) : (State.cpRestart s who p).sched = s.sched := by
  unfold State.cpRestart
  (repeat' (split <;> try simp [apply_ite State.sched]))

@[simp] theorem State.eccAddr_sched (s : State) (a : Nat) : (State.eccAddr s a).sched = s.sched := by
  unfold State.eccAddr
  simp [apply_ite State.sched]

@[simp] theorem State.eccCorrected_sched (s : State) (a : Nat) : (State.eccCorrected s a).sched = s.sched := by
  unfold State.eccCorrected
  simp

@[simp] theorem State.eccUncorrectable_sched (s : State) (a : Nat) : (State.eccUncorrectable s a).sched = s.sched := by
  unfold State.eccUncorrectable
  simp [apply_ite State.sched]

@[simp] theorem State.eccFound_sched (s : State) (a : Nat) : (State.eccFound s a).sched = s.sched := by
  unfold State.eccFound
  simp

theorem State.eccWrite_sched (s s' : State) (a n : Nat) (e : s.eccWrite a n = some s') : s'.sched = s.sched := by
  unfold State.eccWrite at e
  simp only [] at e
  split at e
  · simp at e
  · simp at e; subst e; exact (mk_sched ..).trans (sched_fold _)

@[simp] theorem State.scrubPass_sched (s : State) (corr : List Nat) (unc : List Nat) : (State.scrubPass s corr unc).sched = s.sched := by
  unfold State.scrubPass
  simp [apply_ite State.sched]

@[simp] theorem State.dbgLevelWrite_sched (s : State) (w : Word) : (State.dbgLevelWrite s w).sched = s.sched := by
  unfold State.dbgLevelWrite
  simp [apply_ite State.sched]

@[simp] theorem State.debugHalt_sched (s : State) (p : Nat) : (State.debugHalt s p).sched = s.sched := by
  unfold State.debugHalt
  simp [apply_ite State.sched]

@[simp] theorem State.debugStep_sched (s : State) (p : Nat) : (State.debugStep s p).sched = s.sched := by
  unfold State.debugStep
  simp [apply_ite State.sched]

@[simp] theorem State.debugResume_sched (s : State) (p : Nat) : (State.debugResume s p).sched = s.sched := by
  unfold State.debugResume
  simp [apply_ite State.sched]

@[simp] theorem State.forceWrite_sched (s : State) (who : Initiator) (k : Nat) (w : Word) : (State.forceWrite s who k w).sched = s.sched := by
  unfold State.forceWrite
  simp [apply_ite State.sched]

@[simp] theorem State.settle_sched (s : State) : (State.settle s).sched = s.sched := by
  unfold State.settle
  simp [apply_ite State.sched]

@[simp] theorem State.loadWord_sched (s : State) (a : Nat) (w : Word) : (State.loadWord s a w).sched = s.sched := by
  unfold State.loadWord
  (repeat' split) <;> simp

@[simp] theorem State.setBoot_sched (s : State) (b : BootSt) : (State.setBoot s b).sched = s.sched := by
  unfold State.setBoot
  simp

@[simp] theorem State.setPhase_sched (s : State) (p : Nat) : (State.setPhase s p).sched = s.sched := by
  unfold State.setPhase
  simp

@[simp] theorem State.setSysSt_sched (s : State) (v : Nat) : (State.setSysSt s v).sched = s.sched := by
  unfold State.setSysSt
  simp

@[simp] theorem State.flashCut_sched (s : State) : (State.flashCut s).sched = s.sched := by
  unfold State.flashCut
  (repeat' (split <;> try simp [apply_ite State.sched]))

@[simp] theorem State.setPresent_sched (s : State) : (State.setPresent s).sched = s.sched := by
  unfold State.setPresent
  simp [apply_ite State.sched]

@[simp] theorem State.takePair_sched (s : State) : (State.takePair s).sched = s.sched := by
  unfold State.takePair
  (repeat' split) <;> simp

@[simp] theorem State.takeBank_sched (s : State) : (State.takeBank s).sched = s.sched := by
  unfold State.takeBank
  (repeat' split) <;> simp [apply_ite State.sched]

@[simp] theorem State.copyReg_sched (s : State) (f : Nat → Nat) (a : Nat) (b : Nat) : (State.copyReg s f a b).sched = s.sched := by
  unfold State.copyReg
  simp

@[simp] theorem State.useLeg_sched (s : State) (j : Nat) : (State.useLeg s j).sched = s.sched := by
  unfold State.useLeg
  simp [apply_ite State.sched]

@[simp] theorem State.useLink_sched (s : State) (j : Nat) : (State.useLink s j).sched = s.sched := by
  unfold State.useLink
  simp [apply_ite State.sched]

@[simp] theorem State.loadSection_sched (s : State) (c : Nat) (x : Section) : (State.loadSection s c x).sched = s.sched := by
  unfold State.loadSection
  extract_lets bs recs
  have hr : ∀ (s : State) bs, (recs s bs).sched = s.sched := fun s bs => foldl_sched _ _ _ (fun s r => State.loadWord_sched ..)
  clear_value recs
  split
  · exact hr _ _
  · exact (mk_sched ..).trans ((sched_fold _).trans (State.setBytes_sched ..))
  · exact (mk_sched ..).trans (sched_fold _)
  · exact (hr _ _).trans (State.setBoot_sched ..)

@[simp] theorem State.clearLoad_sched (s : State) (ranges : List (Nat × Nat)) : (State.clearLoad s ranges).sched = s.sched := by
  unfold State.clearLoad
  extract_lets regs src s1 src2 s2 s3
  have e1 : s1.sched = s.sched := (mk_sched ..).trans (sched_fold _)
  have e2 : s2.sched = s1.sched := (State.loseMemory_sched ..).trans (State.setBoot_sched ..)
  have e3 : s3.sched = s2.sched := foldl_sched _ _ _ (by
    intro s r; split
    · exact State.setBytes_sched ..
    · rfl)
  exact (State.wrF_sched ..).trans (e3.trans (e2.trans e1))

@[simp] theorem State.chainStart_sched (s : State) (i : Nat) : (State.chainStart s i).sched = s.sched := by
  unfold State.chainStart
  simp [apply_ite State.sched]

@[simp] theorem State.linkStart_sched (s : State) (l : Nat) : (State.linkStart s l).sched = s.sched := by
  unfold State.linkStart
  simp [apply_ite State.sched]

@[simp] theorem State.twinLoaded_sched (s : State) (crc : Nat) : (State.twinLoaded s crc).sched = s.sched := by
  unfold State.twinLoaded
  simp [apply_ite State.sched]

@[simp] theorem State.loadDone_sched (s : State) (c : Nat) : (State.loadDone s c).sched = s.sched := by
  unfold State.loadDone
  extract_lets h crc safety src s19 s18 s17 s16 s15 s14 s13 s12 s11 s10 s9 s8 act src2 s7 s6 s5 s4 s3 s2 s1 s0
  have e19 : s19.sched = s.sched := State.setBoot_sched ..
  have e18 : s18.sched = s19.sched := ((State.wr_sched ..).trans (State.wrF_sched ..)).trans (State.wrF_sched ..)
  have e17 : s17.sched = s18.sched := (State.wr_sched ..).trans (State.wr_sched ..)
  have e16 : s16.sched = s17.sched := State.wr_sched ..
  have e15 : s15.sched = s16.sched := State.wrF_sched ..
  have e14 : s14.sched = s15.sched := State.wrF_sched ..
  have e13 : s13.sched = s14.sched := by
    apply each_sched; intro s i; split
    · exact State.wr_sched ..
    · rfl
  have e12 : s12.sched = s13.sched := (each_sched _ _ _ State.useLink_sched).trans (each_sched _ _ _ State.useLeg_sched)
  have e11 : s11.sched = s12.sched := State.wearJudge_sched ..
  have e10 : s10.sched = s11.sched := each_sched _ _ _ (fun s i => State.pmuMark_sched ..)
  have e9 : s9.sched = s10.sched := State.wrF_sched ..
  have e8 : s8.sched = s9.sched := each_sched _ _ _ State.gfeTake_sched
  have e7 : s7.sched = s8.sched := (mk_sched ..).trans (sched_fold _)
  have e6 : s6.sched = s7.sched := State.timeIncWrite_sched ..
  have e5 : s5.sched = s6.sched := each_sched _ _ _ State.canTscLoad_sched
  have e4 : s4.sched = s5.sched := State.twinLoaded_sched ..
  have e3 : s3.sched = s4.sched := each_sched _ _ _ State.chainStart_sched
  have e2 : s2.sched = s3.sched := each_sched _ _ _ State.linkStart_sched
  have e1 : s1.sched = s2.sched := each_sched _ _ _ (fun s i => State.setSlice_sched ..)
  have e0 : s0.sched = s1.sched := each_sched _ _ _ (fun s i => State.setLeg_sched ..)
  clear_value s19 s18 s17 s16 s15 s14 s13 s12 s11 s10 s9 s8 s7 s6 s5 s4 s3 s2 s1 s0
  rw [State.hold_sched, e0, e1, e2, e3, e4, e5, e6, e7, e8, e9, e10, e11, e12, e13, e14, e15, e16, e17, e18, e19]

@[simp] theorem State.testCal_sched (s : State) (k : Nat) (r : Int × Nat) : (State.testCal s k r).1.sched = s.sched := by
  unfold State.testCal
  simp

theorem State.absorb_sched (s s' : State) (f : SelfFail) (h : State.absorb s f = some s') : s'.sched = s.sched := by
  unfold State.absorb at h
  split at h
  · split at h <;> simp at h; subst h; simp
  · split at h <;> simp at h; subst h; simp
  · simp at h; subst h; simp
  · split at h <;> simp at h; subst h; simp
  · simp at h

@[simp] theorem State.testSpared_sched (s : State) (t : Nat) : (State.testSpared s t).sched = s.sched := by
  unfold State.testSpared
  simp

@[simp] theorem State.harbour_sched (s : State) (cause : Nat) : (State.harbour s cause).sched = s.sched := by
  unfold State.harbour
  simp [apply_ite State.sched]

@[simp] theorem State.bootResult_sched (s : State) (c : Nat) (code : Nat) : (State.bootResult s c code).sched = s.sched := by
  unfold State.bootResult
  simp

@[simp] theorem State.flashCmd_sched (s : State) (op : Nat) : (State.flashCmd s op).sched = s.sched := by
  unfold State.flashCmd
  simp [apply_ite State.sched]

@[simp] theorem State.flashFill_sched (s : State) (bs : List Byte) : (State.flashFill s bs).sched = s.sched := by
  unfold State.flashFill
  simp

@[simp] theorem State.flashDone_sched (s : State) (ok : Bool) : (State.flashDone s ok).sched = s.sched := by
  unfold State.flashDone
  (repeat' split) <;> simp

@[simp] theorem State.otpAdvance_sched (s : State) : (State.otpAdvance s).sched = s.sched := by
  unfold State.otpAdvance
  simp [apply_ite State.sched]

@[simp] theorem State.otpRevoke_sched (s : State) (k : Nat) : (State.otpRevoke s k).sched = s.sched := by
  unfold State.otpRevoke
  simp [apply_ite State.sched]

@[simp] theorem State.otpCmd_sched (s : State) (w : Word) : (State.otpCmd s w).sched = s.sched := by
  unfold State.otpCmd
  simp [apply_ite State.sched]

@[simp] theorem State.setIom_sched (s : State) (v : IomSt) : (State.setIom s v).sched = s.sched := by
  unfold State.setIom
  simp

@[simp] theorem State.translate_sched (s : State) (dom : Nat) (iova : Nat) (write : Bool) : (State.translate s dom iova write).1.sched = s.sched := by
  unfold State.translate
  (repeat' (split <;> try simp))

@[simp] theorem State.iomFault_sched (s : State) (f : IomFault) : (State.iomFault s f).sched = s.sched := by
  unfold State.iomFault
  simp [apply_ite State.sched]

@[simp] theorem State.iomPop_sched (s : State) : (State.iomPop s).sched = s.sched := by
  unfold State.iomPop
  simp

@[simp] theorem State.iomInvalidate_sched (s : State) (w : Word) : (State.iomInvalidate s w).sched = s.sched := by
  unfold State.iomInvalidate
  simp [apply_ite State.sched]

@[simp] theorem State.iomInvDone_sched (s : State) : (State.iomInvDone s).sched = s.sched := by
  unfold State.iomInvDone
  (repeat' split) <;> simp

@[simp] theorem State.setFq_sched (s : State) (q : Nat) (v : FryQ) : (State.setFq s q v).sched = s.sched := by
  unfold State.setFq
  simp

@[simp] theorem State.setFqState_sched (s : State) (q : Nat) (v : Nat) : (State.setFqState s q v).sched = s.sched := by
  unfold State.setFqState
  simp

@[simp] theorem State.fqEvent_sched (s : State) (q : Nat) (code : Nat) (irq : Bool) : (State.fqEvent s q code irq).sched = s.sched := by
  unfold State.fqEvent
  simp

@[simp] theorem State.fqResult_sched (s : State) (q : Nat) (code : Nat) (late : Bool) : (State.fqResult s q code late).sched = s.sched := by
  unfold State.fqResult
  simp

@[simp] theorem State.fqAborted_sched (s : State) (q : Nat) : (State.fqAborted s q).sched = s.sched := by
  unfold State.fqAborted
  simp

@[simp] theorem State.fqFault_sched (s : State) (q : Nat) (cause : Nat) (iova : Nat) : (State.fqFault s q cause iova).sched = s.sched := by
  unfold State.fqFault
  simp [apply_ite State.sched]

@[simp] theorem State.ferryGo_sched (s : State) (q : Nat) : (State.ferryGo s q).sched = s.sched := by
  unfold State.ferryGo
  simp [apply_ite State.sched]

@[simp] theorem State.ferryAbort_sched (s : State) (q : Nat) : (State.ferryAbort s q).sched = s.sched := by
  unfold State.ferryAbort
  (repeat' split) <;> simp

@[simp] theorem State.ferryResume_sched (s : State) (q : Nat) : (State.ferryResume s q).sched = s.sched := by
  unfold State.ferryResume
  simp [apply_ite State.sched]

@[simp] theorem State.ferryCtrl_sched (s : State) (q : Nat) (w : Word) : (State.ferryCtrl s q w).sched = s.sched := by
  unfold State.ferryCtrl
  simp [apply_ite State.sched]

@[simp] theorem State.signalWrite_sched (s : State) (who : Initiator) (i : Nat) (v : Word) (q : Qual) : (State.signalWrite s who i v q).sched = s.sched := by
  unfold State.signalWrite
  simp [apply_ite State.sched]

@[simp] theorem State.eachBit_sched (s : State) (w : Word) (n : Nat) (f : State → Nat → State) (h : ∀ s i, (f s i).sched = s.sched) : (State.eachBit s w n f).sched = s.sched := by
  unfold State.eachBit
  exact each_sched _ _ _ h

@[simp] theorem State.subWrite_sched (s : State) (j : Nat) (w : Word) : (State.subWrite s j w).sched = s.sched := by
  unfold State.subWrite
  simp [apply_ite State.sched]

@[simp] theorem State.pairCtrlWrite_sched (s : State) (p : Nat) (w : Word) : (State.pairCtrlWrite s p w).sched = s.sched := by
  unfold State.pairCtrlWrite
  simp [apply_ite State.sched]

@[simp] theorem State.sarCtrlWrite_sched (s : State) (k : Nat) (w : Word) : (State.sarCtrlWrite s k w).sched = s.sched := by
  unfold State.sarCtrlWrite
  simp [apply_ite State.sched]

@[simp] theorem State.sndCtrlWrite_sched (s : State) (w : Word) : (State.sndCtrlWrite s w).sched = s.sched := by
  unfold State.sndCtrlWrite
  simp [apply_ite State.sched]

@[simp] theorem State.dischCtrlWrite_sched (s : State) (n : Nat) (w : Word) : (State.dischCtrlWrite s n w).sched = s.sched := by
  unfold State.dischCtrlWrite
  simp [apply_ite State.sched]

@[simp] theorem State.capCtrlWrite_sched (s : State) (u : Nat) (w : Word) : (State.capCtrlWrite s u w).sched = s.sched := by
  unfold State.capCtrlWrite
  simp [apply_ite State.sched]

@[simp] theorem State.auxBusStatusWrite_sched (s : State) (w : Word) : (State.auxBusStatusWrite s w).sched = s.sched := by
  unfold State.auxBusStatusWrite
  simp [apply_ite State.sched]

@[simp] theorem State.canCtrlWrite_sched (s : State) (k : Nat) (w : Word) : (State.canCtrlWrite s k w).sched = s.sched := by
  unfold State.canCtrlWrite
  simp [apply_ite State.sched]

@[simp] theorem State.cpCtrlWrite_sched (s : State) (who : Option Initiator) (p : Nat) (w : Word) : (State.cpCtrlWrite s who p w).sched = s.sched := by
  unfold State.cpCtrlWrite
  (repeat' split) <;> simp

@[simp] theorem State.dbgForceWrite_sched (s : State) (who : Option Initiator) (k : Nat) (w : Word) : (State.dbgForceWrite s who k w).sched = s.sched := by
  unfold State.dbgForceWrite
  (repeat' split) <;> simp

@[simp] theorem State.fqCfgWrite_sched (s : State) (q : Nat) (w : Word) : (State.fqCfgWrite s q w).sched = s.sched := by
  unfold State.fqCfgWrite
  simp [apply_ite State.sched]

@[simp] theorem State.pmuSelWrite_sched (s : State) (i : Nat) (w : Word) : (State.pmuSelWrite s i w).sched = s.sched := by
  unfold State.pmuSelWrite
  simp

@[simp] theorem State.ceWordWrite_sched (s : State) (i : Nat) (w : Word) : (State.ceWordWrite s i w).sched = s.sched := by
  unfold State.ceWordWrite
  simp

@[simp] theorem State.vecWordWrite_sched (s : State) (i : Nat) (w : Word) : (State.vecWordWrite s i w).sched = s.sched := by
  unfold State.vecWordWrite
  simp [apply_ite State.sched]

@[simp] theorem State.gfeWordWrite_sched (s : State) (i : Nat) (w : Word) : (State.gfeWordWrite s i w).sched = s.sched := by
  unfold State.gfeWordWrite
  simp [apply_ite State.sched]

@[simp] theorem State.regRead_sched (s : State) (who : Initiator) (a : Nat) : (State.regRead s who a).1.sched = s.sched := by
  unfold State.regRead
  (repeat' (split <;> try simp [apply_ite State.sched]))

@[simp] theorem State.memRead_sched (s : State) (a : Nat) (n : Nat) : (State.memRead s a n).1.sched = s.sched := by
  unfold State.memRead
  (repeat' split) <;> simp

@[simp] theorem State.memWrite_sched (s : State) (a : Nat) (bs : List Byte) : (State.memWrite s a bs).1.sched = s.sched := by
  unfold State.memWrite
  split
  · rfl
  · rfl
  · split
    · exact State.eccUncorrectable_sched ..
    · next e => exact (State.setBytes_sched ..).trans (State.eccWrite_sched _ _ _ _ e)

@[simp] theorem State.inDomain_sched (s : State) (d : Nat) (f : State → State) (h : (f s).sched = s.sched) : (State.inDomain s d f).sched = s.sched := by
  unfold State.inDomain; split
  · exact h
  · rfl

@[simp] theorem State.uliQueue_sched (s : State) (v : UliVia) (m : List Byte) : (State.uliQueue s v m).sched = s.sched := by
  unfold State.uliQueue
  simp [apply_ite State.sched]

@[simp] theorem State.uliRequest_sched (s : State) (v : UliVia) (bs : List Byte) : (State.uliRequest s v bs).sched = s.sched := by
  unfold State.uliRequest
  (repeat' (split <;> try simp [apply_ite State.sched]))

@[simp] theorem State.uliOpen_sched (s : State) (point : Nat) (status : Nat) : (State.uliOpen s point status).1.sched = s.sched := by
  unfold State.uliOpen
  simp

@[simp] theorem State.uliReadReg_sched (s : State) (p : Nat) (a : Nat) : (State.uliReadReg s p a).1.sched = s.sched := by
  unfold State.uliReadReg
  (repeat' split) <;> simp

@[simp] theorem State.uliReadRec_sched (s : State) (p : Nat) (c : Nat) (item : Nat) : (State.uliReadRec s p c item).1.sched = s.sched := by
  unfold State.uliReadRec
  (repeat' (split <;> try simp))

@[simp] theorem State.uliReadPoint_sched (s : State) (p : Nat) : (State.uliReadPoint s p).1.sched = s.sched := by
  have h : ∀ (a : State) (b : List Byte), (a, b).1.sched = a.sched := fun _ _ => rfl
  unfold State.uliReadPoint
  split
  · exact State.uliReadReg_sched ..
  · generalize hr : State.regRead s Initiator.ulile (0x47000000 + 4 * (p - 0x820100)) = r
    have e : r.1.sched = s.sched := by rw [← hr]; exact State.regRead_sched s .ulile _
    clear hr
    extract_lets +onlyGivenNames m q
    clear_value m q
    split; · exact h _ _
    split; · exact State.uliReadRec_sched ..
    split; · exact h _ _
    split
    · exact (h r.1 _).trans e
    · exact State.uliOpen_sched ..

@[simp] theorem State.uliReadMem_sched (s : State) (a : Nat) (n : Nat) : (State.uliReadMem s a n).1.sched = s.sched := by
  unfold State.uliReadMem
  (repeat' (split <;> try simp))

@[simp] theorem State.uliReply_sched (s : State) (r : UliReq) (out : List Byte) : (State.uliReply s r out).sched = s.sched := by
  unfold State.uliReply
  simp

@[simp] theorem State.canDeliver_sched (s : State) (k : Nat) (stamp : Nat) (f : CanFrame) : (State.canDeliver s k stamp f).sched = s.sched := by
  unfold State.canDeliver
  simp [apply_ite State.sched]

@[simp] theorem State.canReceive_sched (s : State) (k : Nat) (sof : Nat) (f : CanFrame) : (State.canReceive s k sof f).sched = s.sched := by
  unfold State.canReceive
  simp [apply_ite State.sched]

@[simp] theorem State.canSent_sched (s : State) (k : Nat) (tdc : Nat) : (State.canSent s k tdc).sched = s.sched := by
  unfold State.canSent
  (repeat' split) <;> simp

@[simp] theorem State.sourcesBack_sched (s : State) (n : Nat) : (State.sourcesBack s n).sched = s.sched := by
  unfold State.sourcesBack
  simp

@[simp] theorem State.keepTake_sched (s : State) (n : Nat) : (State.keepTake s n).sched = s.sched := by
  unfold State.keepTake
  simp

@[simp] theorem State.sndBack_sched (s : State) (k : KeepSt) : (State.sndBack s k).sched = s.sched := by
  unfold State.sndBack
  simp

@[simp] theorem State.keepBack_sched (s : State) (n : Nat) : (State.keepBack s n).sched = s.sched := by
  unfold State.keepBack
  dsimp only
  (repeat' split) <;> first | rfl | simp [apply_ite State.sched] | simp_all [apply_ite State.sched]

@[simp] theorem State.fillClear_sched (s : State) (n : Nat) : (State.fillClear s n).sched = s.sched := by
  unfold State.fillClear
  simp

@[simp] theorem State.fillSwap_sched (s : State) (n : Nat) : (State.fillSwap s n).sched = s.sched := by
  unfold State.fillSwap
  dsimp only
  rw [each_sched _ _ _ State.commonSwap_sched, State.fillClear_sched, each_sched]
  intro s i; split <;> simp

@[simp] theorem State.fillDrop_sched (s : State) (n : Nat) : (State.fillDrop s n).sched = s.sched := by
  unfold State.fillDrop
  simp

@[simp] theorem State.deviceSignals_sched (s : State) (n : Nat) : (State.deviceSignals s n).sched = s.sched := by
  unfold State.deviceSignals
  simp

@[simp] theorem State.sampleAll_sched (s : State) (n : Nat) : (State.sampleAll s n).sched = s.sched := by
  unfold State.sampleAll
  simp [apply_ite State.sched]

@[simp] theorem State.fqLosers_sched (s : State) (q : Nat) : (State.fqLosers s q).sched = s.sched := by
  unfold State.fqLosers
  simp

@[simp] theorem State.fqFaultFree_sched (s : State) (q : Nat) (iova : Nat) : (State.fqFaultFree s q iova).sched = s.sched := by
  unfold State.fqFaultFree
  simp

@[simp] theorem State.fqDescFault_sched (s : State) (q : Nat) (cause : Nat) : (State.fqDescFault s q cause).sched = s.sched := by
  unfold State.fqDescFault
  simp

@[simp] theorem State.fqTakeFrame_sched (s : State) (q : Nat) : (State.fqTakeFrame s q).sched = s.sched := by
  unfold State.fqTakeFrame
  (repeat' split) <;> simp

@[simp] theorem State.fqLoad_sched (s : State) (q : Nat) : (State.fqLoad s q).1.sched = s.sched := by
  unfold State.fqLoad
  (repeat' (split <;> try simp))

@[simp] theorem State.fqTranslate_sched (s : State) (q : Nat) (iova : Nat) (write : Bool) (cause : Nat) : (State.fqTranslate s q iova write cause).1.sched = s.sched := by
  unfold State.fqTranslate
  (try simp [apply_ite State.sched])
  (repeat' (split <;> try simp [apply_ite State.sched]))
  all_goals (try rfl)

@[simp] theorem State.fqRead_sched (s : State) (q : Nat) (src : Option Nat) (n : Nat) : (State.fqRead s q src n).1.sched = s.sched := by
  unfold State.fqRead
  (repeat' (split <;> try simp))

@[simp] theorem State.fqSide_sched (s : State) (ignored : Bool) (q : Nat) (iova : Nat) (write : Bool) (cause : Nat) : (State.fqSide s ignored q iova write cause).1.sched = s.sched := by
  unfold State.fqSide
  (repeat' split) <;> simp

@[simp] theorem State.fqBurst_sched (s : State) (q : Nat) (sv : Nat) (dv : Nat) (src : Option Nat) (dst : Option Nat) : (State.fqBurst s q sv dv src dst).sched = s.sched := by
  unfold State.fqBurst
  simp

theorem State.fqBurstFrom_sched (b : State × Option (Option Nat)) (q sv dv : Nat) (src : Option Nat) : (State.fqBurstFrom b q sv dv src).sched = b.1.sched := by
  unfold State.fqBurstFrom
  split
  · rfl
  · exact State.fqBurst_sched ..

theorem State.fqSecond_sched (a : State × Option (Option Nat)) (q sv dv : Nat) : (State.fqSecond a q sv dv).sched = a.1.sched := by
  unfold State.fqSecond
  split
  · rfl
  · exact (State.fqBurstFrom_sched ..).trans (State.fqSide_sched ..)

@[simp] theorem State.fqBegin_sched (s : State) (q : Nat) : (State.fqBegin s q).sched = s.sched := by
  unfold State.fqBegin
  exact ((State.fqSecond_sched ..).trans (State.fqSide_sched ..)).trans (State.setFqState_sched ..)

@[simp] theorem State.ferryStart_sched (s : State) : (State.ferryStart s).sched = s.sched := by
  unfold State.ferryStart
  (repeat' split) <;> simp [apply_ite State.sched]

@[simp] theorem State.fqDescDone_sched (s : State) (q : Nat) : (State.fqDescDone s q).sched = s.sched := by
  unfold State.fqDescDone
  simp [apply_ite State.sched]

@[simp] theorem State.withFetchWord_sched (s : State) (nbits : Nat) (w : Nat) : (State.withFetchWord s nbits w).sched = s.sched := by
  unfold State.withFetchWord
  rfl

end Sys2Proof.Machine
end

