-- ==== Sys2Proof/Laws/Run.lean ====
section
/-! SUPPORT. What every command's run does: when it acts, what arrives before it, and how its effect becomes the next state. -/

namespace Sys2Proof.Machine

/-- Moving the present leaves the queue. -/
@[simp] theorem State.goto_pending (s : State) (t : Nat) : (s.goto t).pending = s.pending := rfl

theorem pending_of_sched {s u : State} (h : u.sched = s.sched) : u.pending = s.pending := by
  have : u.sched.pending = s.sched.pending := by rw [h]
  exact this

/-- An effect that was on its way leaves the queue. -/
@[simp] theorem State.soonDo_pending (s : State) (e : Soon) : (s.soonDo e).pending = s.pending := by
  cases e with
  | coreTimeout n =>
    show (s.timeoutSet n).pending = (s.setSeq n { s.seq n with toPair := none }).pending
    exact (pending_of_sched (State.post_sched ..)).trans (pending_of_sched (State.raise_sched ..))
  | src x on => exact pending_of_sched (State.srcLevel_sched ..)
  | reg a w => rfl
  | dc n m => exact pending_of_sched (State.dcJudge_sched ..)
  | chopEnd n => exact pending_of_sched (State.chopDropEnd_sched ..)
  | slot n g j => exact pending_of_sched (State.groupSlot_sched ..)

@[simp] theorem State.arriveN_pending (k : Nat) (s : State) (t : Nat) : (s.arriveN k t).pending = s.pending := by
  induction k generalizing s with
  | zero => rfl
  | succ k ih =>
    unfold State.arriveN
    split
    · rfl
    · split
      · rw [ih, State.soonDo_pending]; rfl
      · rfl

/-- What arrives before a command leaves the queue. -/
@[simp] theorem State.arrive_pending (s : State) (t : Nat) : (s.arrive t).pending = s.pending := s.arriveN_pending _ t

/-- The queue at the instant of a command is the queue before it. -/
@[simp] theorem State.upTo_pending (s : State) (t : Nat) : (s.upTo t).pending = s.pending := by
  unfold State.upTo; simp

/-- Every command whose effect turns the state at its instant into `z` answers a next state: `z`, but for the registers by which R429 ends a
force; so it agrees with `y` and keeps the registers as `z` does. -/
theorem State.run_to {s : State} {t : Nat} {f : State → State} {z y : State} {as : List Nat} {P : State → Prop} (e : f (s.upTo t) = z)
    (hz : z = { y with regs := z.regs, raised := z.raised }) (hp : z.pending = s.pending)
    (hr : ∀ a, a ∉ as → a ∉ forceRegs → z.rd a = (s.upTo t).rd a) (hP : ∀ u : State, (∀ a, a ∉ forceRegs → u.rd a = z.rd a) → P u) :
    ∃ u, s.run t f = .next u ∧ (s.upTo t).framed y u as ∧ P u := by
  refine ⟨_, rfl, ⟨?_, ?_⟩, hP _ ?_⟩
  · show { (f (s.upTo t)).settle with pending := s.pending } = _
    rw [e, z.settle_only.state, ← hp]
    exact congrArg (fun w : State => { w with regs := z.settle.regs, raised := z.settle.raised }) hz
  · intro a ha hf
    show (f (s.upTo t)).settle.rd a = _
    rw [e, z.settle_only.regs a hf, hr a ha hf]
  · intro a hf
    show (f (s.upTo t)).settle.rd a = _
    rw [e, z.settle_only.regs a hf]

/-- As `State.run_to`, with nothing more to say of the next state. -/
theorem State.run_framed {s : State} {t : Nat} {f : State → State} {z y : State} {as : List Nat} (e : f (s.upTo t) = z)
    (hz : z = { y with regs := z.regs, raised := z.raised }) (hp : z.pending = s.pending)
    (hr : ∀ a, a ∉ as → a ∉ forceRegs → z.rd a = (s.upTo t).rd a) :
    ∃ u, s.run t f = .next u ∧ (s.upTo t).framed y u as := by
  obtain ⟨u, hu, hf, _⟩ := State.run_to (P := fun _ => True) e hz hp hr (fun _ _ => trivial)
  exact ⟨u, hu, hf⟩

/-- As `State.run_framed`, where the effect leaves every register. -/
theorem State.run_same {s : State} {t : Nat} {f : State → State} {y : State} (e : f (s.upTo t) = y) (hp : y.pending = s.pending)
    (hr : ∀ a, y.rd a = (s.upTo t).rd a) : ∃ u, s.run t f = .next u ∧ (s.upTo t).framed y u [] :=
  State.run_framed e rfl hp (fun a _ _ => hr a)

/-- Every command answers a next state, which agrees with its effect but for the registers by which R429 ends a force and the queue. -/
theorem State.run_any (s : State) (t : Nat) (f : State → State) :
    ∃ u, s.run t f = .next u ∧ u = { f (s.upTo t) with regs := u.regs, raised := u.raised, pending := s.pending } ∧
      ∀ a, a ∉ forceRegs → u.rd a = (f (s.upTo t)).rd a := by
  refine ⟨_, rfl, ?_, fun a hf => (f (s.upTo t)).settle_only.regs a hf⟩
  show { (f (s.upTo t)).settle with pending := s.pending } = _
  exact congrArg (fun w : State => { w with pending := s.pending }) (f (s.upTo t)).settle_only.state

/-- As `State.run_any`, with the effect's result named. -/
theorem State.run_eff {s : State} {t : Nat} {f : State → State} {z : State} (e : f (s.upTo t) = z) :
    ∃ u, s.run t f = .next u ∧ u = { z with regs := u.regs, raised := u.raised, pending := s.pending } ∧ ∀ a, a ∉ forceRegs → u.rd a = z.rd a := by
  obtain ⟨u, hu, he, hr⟩ := State.run_any s t f
  rw [e] at he hr
  exact ⟨u, hu, he, hr⟩

/-- A next state that agrees with `z` is paced as `y` where `z` and `y` agree on the clock, the sequencers, the debug port, the bus answer, the
memory, the driver boards and the variant. -/
theorem State.paced_of {s y z u : State} (he : u = { z with regs := u.regs, raised := u.raised, pending := s.pending }) (hp : y.pending = s.pending)
    (hc : z.clk = y.clk) (hq : ∀ n, z.seq n = y.seq n) (ht : z.tap = y.tap) (hb : z.bus = y.bus) (hf : z.frame = y.frame) : y.pacedAs u := by
  have hm : z.mem = y.mem := congrArg Frame.mem hf
  have hbo : z.boards = y.boards := congrArg Frame.boards hf
  have hd : z.dev = y.dev := congrArg Frame.dev hf
  refine ⟨?_, ?_, ?_, ?_, ?_, ?_, ?_, ?_⟩
  · rw [he]; exact hc
  · intro n; rw [← hq n]; unfold State.seq; rw [he]
  · rw [he]; exact ht
  · rw [he]; exact hb
  · rw [he]; exact hm
  · rw [he]; exact hbo
  · rw [he]; exact hd
  · rw [he]; exact hp.symm

end Sys2Proof.Machine
end

