-- ==== Sys2Proof/Laws/State.lean ====
section
/-! SUPPORT. What each update of one part of the state leaves and what it puts there: one lemma per field and update, true by definition. -/

namespace Sys2Proof.Machine

/-! `goto` changes `clk` alone. -/

theorem State.goto_clk (s : State) (t : Nat) : (s.goto t).clk = { s.clk with now := max s.clk.now t } := rfl
@[simp] theorem State.goto_regs (s : State) (t : Nat) : (s.goto t).regs = s.regs := rfl
@[simp] theorem State.goto_raised (s : State) (t : Nat) : (s.goto t).raised = s.raised := rfl
@[simp] theorem State.goto_bus (s : State) (t : Nat) : (s.goto t).bus = s.bus := rfl
@[simp] theorem State.goto_sig (s : State) (t : Nat) : (s.goto t).sig = s.sig := rfl
@[simp] theorem State.goto_evs (s : State) (t : Nat) : (s.goto t).evs = s.evs := rfl
@[simp] theorem State.goto_irq (s : State) (t : Nat) : (s.goto t).irq = s.irq := rfl
@[simp] theorem State.goto_mem (s : State) (t : Nat) : (s.goto t).mem = s.mem := rfl
@[simp] theorem State.goto_tim (s : State) (t : Nat) : (s.goto t).tim = s.tim := rfl
@[simp] theorem State.goto_seqs (s : State) (t : Nat) : (s.goto t).seqs = s.seqs := rfl
@[simp] theorem State.goto_slices (s : State) (t : Nat) : (s.goto t).slices = s.slices := rfl
@[simp] theorem State.goto_legs (s : State) (t : Nat) : (s.goto t).legs = s.legs := rfl
@[simp] theorem State.goto_links (s : State) (t : Nat) : (s.goto t).links = s.links := rfl
@[simp] theorem State.goto_boards (s : State) (t : Nat) : (s.goto t).boards = s.boards := rfl
@[simp] theorem State.goto_cans (s : State) (t : Nat) : (s.goto t).cans = s.cans := rfl
@[simp] theorem State.goto_vecs (s : State) (t : Nat) : (s.goto t).vecs = s.vecs := rfl
@[simp] theorem State.goto_poss (s : State) (t : Nat) : (s.goto t).poss = s.poss := rfl
@[simp] theorem State.goto_keep (s : State) (t : Nat) : (s.goto t).keep = s.keep := rfl
@[simp] theorem State.goto_gfes (s : State) (t : Nat) : (s.goto t).gfes = s.gfes := rfl
@[simp] theorem State.goto_gpar (s : State) (t : Nat) : (s.goto t).gpar = s.gpar := rfl
@[simp] theorem State.goto_snd (s : State) (t : Nat) : (s.goto t).snd = s.snd := rfl
@[simp] theorem State.goto_twin (s : State) (t : Nat) : (s.goto t).twin = s.twin := rfl
@[simp] theorem State.goto_holds (s : State) (t : Nat) : (s.goto t).holds = s.holds := rfl
@[simp] theorem State.goto_rec_ (s : State) (t : Nat) : (s.goto t).rec_ = s.rec_ := rfl
@[simp] theorem State.goto_sdf (s : State) (t : Nat) : (s.goto t).sdf = s.sdf := rfl
@[simp] theorem State.goto_prot (s : State) (t : Nat) : (s.goto t).prot = s.prot := rfl
@[simp] theorem State.goto_wear (s : State) (t : Nat) : (s.goto t).wear = s.wear := rfl
@[simp] theorem State.goto_pdm (s : State) (t : Nat) : (s.goto t).pdm = s.pdm := rfl
@[simp] theorem State.goto_pairs (s : State) (t : Nat) : (s.goto t).pairs = s.pairs := rfl
@[simp] theorem State.goto_sars (s : State) (t : Nat) : (s.goto t).sars = s.sars := rfl
@[simp] theorem State.goto_ce (s : State) (t : Nat) : (s.goto t).ce = s.ce := rfl
@[simp] theorem State.goto_aux (s : State) (t : Nat) : (s.goto t).aux = s.aux := rfl
@[simp] theorem State.goto_eth (s : State) (t : Nat) : (s.goto t).eth = s.eth := rfl
@[simp] theorem State.goto_isl (s : State) (t : Nat) : (s.goto t).isl = s.isl := rfl
@[simp] theorem State.goto_pmu (s : State) (t : Nat) : (s.goto t).pmu = s.pmu := rfl
@[simp] theorem State.goto_tap (s : State) (t : Nat) : (s.goto t).tap = s.tap := rfl
@[simp] theorem State.goto_iom (s : State) (t : Nat) : (s.goto t).iom = s.iom := rfl
@[simp] theorem State.goto_fry (s : State) (t : Nat) : (s.goto t).fry = s.fry := rfl
@[simp] theorem State.goto_boot (s : State) (t : Nat) : (s.goto t).boot = s.boot := rfl
@[simp] theorem State.goto_uli (s : State) (t : Nat) : (s.goto t).uli = s.uli := rfl
@[simp] theorem State.goto_dev (s : State) (t : Nat) : (s.goto t).dev = s.dev := rfl
@[simp] theorem State.goto_free (s : State) (t : Nat) : (s.goto t).free = s.free := rfl

/-! `wr` changes `regs` alone. -/

@[simp] theorem State.wr_clk (s : State) (a : Nat) (w : Word) : (s.wr a w).clk = s.clk := rfl
theorem State.wr_regs (s : State) (a : Nat) (w : Word) : (s.wr a w).regs = tabSet regReset s.regs a w := rfl
@[simp] theorem State.wr_raised (s : State) (a : Nat) (w : Word) : (s.wr a w).raised = s.raised := rfl
@[simp] theorem State.wr_bus (s : State) (a : Nat) (w : Word) : (s.wr a w).bus = s.bus := rfl
@[simp] theorem State.wr_sig (s : State) (a : Nat) (w : Word) : (s.wr a w).sig = s.sig := rfl
@[simp] theorem State.wr_evs (s : State) (a : Nat) (w : Word) : (s.wr a w).evs = s.evs := rfl
@[simp] theorem State.wr_irq (s : State) (a : Nat) (w : Word) : (s.wr a w).irq = s.irq := rfl
@[simp] theorem State.wr_mem (s : State) (a : Nat) (w : Word) : (s.wr a w).mem = s.mem := rfl
@[simp] theorem State.wr_tim (s : State) (a : Nat) (w : Word) : (s.wr a w).tim = s.tim := rfl
@[simp] theorem State.wr_seqs (s : State) (a : Nat) (w : Word) : (s.wr a w).seqs = s.seqs := rfl
@[simp] theorem State.wr_slices (s : State) (a : Nat) (w : Word) : (s.wr a w).slices = s.slices := rfl
@[simp] theorem State.wr_legs (s : State) (a : Nat) (w : Word) : (s.wr a w).legs = s.legs := rfl
@[simp] theorem State.wr_links (s : State) (a : Nat) (w : Word) : (s.wr a w).links = s.links := rfl
@[simp] theorem State.wr_boards (s : State) (a : Nat) (w : Word) : (s.wr a w).boards = s.boards := rfl
@[simp] theorem State.wr_cans (s : State) (a : Nat) (w : Word) : (s.wr a w).cans = s.cans := rfl
@[simp] theorem State.wr_vecs (s : State) (a : Nat) (w : Word) : (s.wr a w).vecs = s.vecs := rfl
@[simp] theorem State.wr_poss (s : State) (a : Nat) (w : Word) : (s.wr a w).poss = s.poss := rfl
@[simp] theorem State.wr_keep (s : State) (a : Nat) (w : Word) : (s.wr a w).keep = s.keep := rfl
@[simp] theorem State.wr_gfes (s : State) (a : Nat) (w : Word) : (s.wr a w).gfes = s.gfes := rfl
@[simp] theorem State.wr_gpar (s : State) (a : Nat) (w : Word) : (s.wr a w).gpar = s.gpar := rfl
@[simp] theorem State.wr_snd (s : State) (a : Nat) (w : Word) : (s.wr a w).snd = s.snd := rfl
@[simp] theorem State.wr_twin (s : State) (a : Nat) (w : Word) : (s.wr a w).twin = s.twin := rfl
@[simp] theorem State.wr_holds (s : State) (a : Nat) (w : Word) : (s.wr a w).holds = s.holds := rfl
@[simp] theorem State.wr_rec_ (s : State) (a : Nat) (w : Word) : (s.wr a w).rec_ = s.rec_ := rfl
@[simp] theorem State.wr_sdf (s : State) (a : Nat) (w : Word) : (s.wr a w).sdf = s.sdf := rfl
@[simp] theorem State.wr_prot (s : State) (a : Nat) (w : Word) : (s.wr a w).prot = s.prot := rfl
@[simp] theorem State.wr_wear (s : State) (a : Nat) (w : Word) : (s.wr a w).wear = s.wear := rfl
@[simp] theorem State.wr_pdm (s : State) (a : Nat) (w : Word) : (s.wr a w).pdm = s.pdm := rfl
@[simp] theorem State.wr_pairs (s : State) (a : Nat) (w : Word) : (s.wr a w).pairs = s.pairs := rfl
@[simp] theorem State.wr_sars (s : State) (a : Nat) (w : Word) : (s.wr a w).sars = s.sars := rfl
@[simp] theorem State.wr_ce (s : State) (a : Nat) (w : Word) : (s.wr a w).ce = s.ce := rfl
@[simp] theorem State.wr_aux (s : State) (a : Nat) (w : Word) : (s.wr a w).aux = s.aux := rfl
@[simp] theorem State.wr_eth (s : State) (a : Nat) (w : Word) : (s.wr a w).eth = s.eth := rfl
@[simp] theorem State.wr_isl (s : State) (a : Nat) (w : Word) : (s.wr a w).isl = s.isl := rfl
@[simp] theorem State.wr_pmu (s : State) (a : Nat) (w : Word) : (s.wr a w).pmu = s.pmu := rfl
@[simp] theorem State.wr_tap (s : State) (a : Nat) (w : Word) : (s.wr a w).tap = s.tap := rfl
@[simp] theorem State.wr_iom (s : State) (a : Nat) (w : Word) : (s.wr a w).iom = s.iom := rfl
@[simp] theorem State.wr_fry (s : State) (a : Nat) (w : Word) : (s.wr a w).fry = s.fry := rfl
@[simp] theorem State.wr_boot (s : State) (a : Nat) (w : Word) : (s.wr a w).boot = s.boot := rfl
@[simp] theorem State.wr_uli (s : State) (a : Nat) (w : Word) : (s.wr a w).uli = s.uli := rfl
@[simp] theorem State.wr_dev (s : State) (a : Nat) (w : Word) : (s.wr a w).dev = s.dev := rfl
@[simp] theorem State.wr_free (s : State) (a : Nat) (w : Word) : (s.wr a w).free = s.free := rfl
@[simp] theorem State.wr_pending (s : State) (a : Nat) (w : Word) : (s.wr a w).pending = s.pending := rfl

/-! `wrF` changes `regs` alone. -/

@[simp] theorem State.wrF_clk (s : State) (a hi lo v : Nat) : (s.wrF a hi lo v).clk = s.clk := rfl
@[simp] theorem State.wrF_raised (s : State) (a hi lo v : Nat) : (s.wrF a hi lo v).raised = s.raised := rfl
@[simp] theorem State.wrF_bus (s : State) (a hi lo v : Nat) : (s.wrF a hi lo v).bus = s.bus := rfl
@[simp] theorem State.wrF_sig (s : State) (a hi lo v : Nat) : (s.wrF a hi lo v).sig = s.sig := rfl
@[simp] theorem State.wrF_evs (s : State) (a hi lo v : Nat) : (s.wrF a hi lo v).evs = s.evs := rfl
@[simp] theorem State.wrF_irq (s : State) (a hi lo v : Nat) : (s.wrF a hi lo v).irq = s.irq := rfl
@[simp] theorem State.wrF_mem (s : State) (a hi lo v : Nat) : (s.wrF a hi lo v).mem = s.mem := rfl
@[simp] theorem State.wrF_tim (s : State) (a hi lo v : Nat) : (s.wrF a hi lo v).tim = s.tim := rfl
@[simp] theorem State.wrF_seqs (s : State) (a hi lo v : Nat) : (s.wrF a hi lo v).seqs = s.seqs := rfl
@[simp] theorem State.wrF_slices (s : State) (a hi lo v : Nat) : (s.wrF a hi lo v).slices = s.slices := rfl
@[simp] theorem State.wrF_legs (s : State) (a hi lo v : Nat) : (s.wrF a hi lo v).legs = s.legs := rfl
@[simp] theorem State.wrF_links (s : State) (a hi lo v : Nat) : (s.wrF a hi lo v).links = s.links := rfl
@[simp] theorem State.wrF_boards (s : State) (a hi lo v : Nat) : (s.wrF a hi lo v).boards = s.boards := rfl
@[simp] theorem State.wrF_cans (s : State) (a hi lo v : Nat) : (s.wrF a hi lo v).cans = s.cans := rfl
@[simp] theorem State.wrF_vecs (s : State) (a hi lo v : Nat) : (s.wrF a hi lo v).vecs = s.vecs := rfl
@[simp] theorem State.wrF_poss (s : State) (a hi lo v : Nat) : (s.wrF a hi lo v).poss = s.poss := rfl
@[simp] theorem State.wrF_keep (s : State) (a hi lo v : Nat) : (s.wrF a hi lo v).keep = s.keep := rfl
@[simp] theorem State.wrF_gfes (s : State) (a hi lo v : Nat) : (s.wrF a hi lo v).gfes = s.gfes := rfl
@[simp] theorem State.wrF_gpar (s : State) (a hi lo v : Nat) : (s.wrF a hi lo v).gpar = s.gpar := rfl
@[simp] theorem State.wrF_snd (s : State) (a hi lo v : Nat) : (s.wrF a hi lo v).snd = s.snd := rfl
@[simp] theorem State.wrF_twin (s : State) (a hi lo v : Nat) : (s.wrF a hi lo v).twin = s.twin := rfl
@[simp] theorem State.wrF_holds (s : State) (a hi lo v : Nat) : (s.wrF a hi lo v).holds = s.holds := rfl
@[simp] theorem State.wrF_rec_ (s : State) (a hi lo v : Nat) : (s.wrF a hi lo v).rec_ = s.rec_ := rfl
@[simp] theorem State.wrF_sdf (s : State) (a hi lo v : Nat) : (s.wrF a hi lo v).sdf = s.sdf := rfl
@[simp] theorem State.wrF_prot (s : State) (a hi lo v : Nat) : (s.wrF a hi lo v).prot = s.prot := rfl
@[simp] theorem State.wrF_wear (s : State) (a hi lo v : Nat) : (s.wrF a hi lo v).wear = s.wear := rfl
@[simp] theorem State.wrF_pdm (s : State) (a hi lo v : Nat) : (s.wrF a hi lo v).pdm = s.pdm := rfl
@[simp] theorem State.wrF_pairs (s : State) (a hi lo v : Nat) : (s.wrF a hi lo v).pairs = s.pairs := rfl
@[simp] theorem State.wrF_sars (s : State) (a hi lo v : Nat) : (s.wrF a hi lo v).sars = s.sars := rfl
@[simp] theorem State.wrF_ce (s : State) (a hi lo v : Nat) : (s.wrF a hi lo v).ce = s.ce := rfl
@[simp] theorem State.wrF_aux (s : State) (a hi lo v : Nat) : (s.wrF a hi lo v).aux = s.aux := rfl
@[simp] theorem State.wrF_eth (s : State) (a hi lo v : Nat) : (s.wrF a hi lo v).eth = s.eth := rfl
@[simp] theorem State.wrF_isl (s : State) (a hi lo v : Nat) : (s.wrF a hi lo v).isl = s.isl := rfl
@[simp] theorem State.wrF_pmu (s : State) (a hi lo v : Nat) : (s.wrF a hi lo v).pmu = s.pmu := rfl
@[simp] theorem State.wrF_tap (s : State) (a hi lo v : Nat) : (s.wrF a hi lo v).tap = s.tap := rfl
@[simp] theorem State.wrF_iom (s : State) (a hi lo v : Nat) : (s.wrF a hi lo v).iom = s.iom := rfl
@[simp] theorem State.wrF_fry (s : State) (a hi lo v : Nat) : (s.wrF a hi lo v).fry = s.fry := rfl
@[simp] theorem State.wrF_boot (s : State) (a hi lo v : Nat) : (s.wrF a hi lo v).boot = s.boot := rfl
@[simp] theorem State.wrF_uli (s : State) (a hi lo v : Nat) : (s.wrF a hi lo v).uli = s.uli := rfl
@[simp] theorem State.wrF_dev (s : State) (a hi lo v : Nat) : (s.wrF a hi lo v).dev = s.dev := rfl
@[simp] theorem State.wrF_free (s : State) (a hi lo v : Nat) : (s.wrF a hi lo v).free = s.free := rfl
@[simp] theorem State.wrF_pending (s : State) (a hi lo v : Nat) : (s.wrF a hi lo v).pending = s.pending := rfl

/-! `wrB` changes `regs` alone. -/

@[simp] theorem State.wrB_clk (s : State) (a i : Nat) (b : Bool) : (s.wrB a i b).clk = s.clk := rfl
@[simp] theorem State.wrB_raised (s : State) (a i : Nat) (b : Bool) : (s.wrB a i b).raised = s.raised := rfl
@[simp] theorem State.wrB_bus (s : State) (a i : Nat) (b : Bool) : (s.wrB a i b).bus = s.bus := rfl
@[simp] theorem State.wrB_sig (s : State) (a i : Nat) (b : Bool) : (s.wrB a i b).sig = s.sig := rfl
@[simp] theorem State.wrB_evs (s : State) (a i : Nat) (b : Bool) : (s.wrB a i b).evs = s.evs := rfl
@[simp] theorem State.wrB_irq (s : State) (a i : Nat) (b : Bool) : (s.wrB a i b).irq = s.irq := rfl
@[simp] theorem State.wrB_mem (s : State) (a i : Nat) (b : Bool) : (s.wrB a i b).mem = s.mem := rfl
@[simp] theorem State.wrB_tim (s : State) (a i : Nat) (b : Bool) : (s.wrB a i b).tim = s.tim := rfl
@[simp] theorem State.wrB_seqs (s : State) (a i : Nat) (b : Bool) : (s.wrB a i b).seqs = s.seqs := rfl
@[simp] theorem State.wrB_slices (s : State) (a i : Nat) (b : Bool) : (s.wrB a i b).slices = s.slices := rfl
@[simp] theorem State.wrB_legs (s : State) (a i : Nat) (b : Bool) : (s.wrB a i b).legs = s.legs := rfl
@[simp] theorem State.wrB_links (s : State) (a i : Nat) (b : Bool) : (s.wrB a i b).links = s.links := rfl
@[simp] theorem State.wrB_boards (s : State) (a i : Nat) (b : Bool) : (s.wrB a i b).boards = s.boards := rfl
@[simp] theorem State.wrB_cans (s : State) (a i : Nat) (b : Bool) : (s.wrB a i b).cans = s.cans := rfl
@[simp] theorem State.wrB_vecs (s : State) (a i : Nat) (b : Bool) : (s.wrB a i b).vecs = s.vecs := rfl
@[simp] theorem State.wrB_poss (s : State) (a i : Nat) (b : Bool) : (s.wrB a i b).poss = s.poss := rfl
@[simp] theorem State.wrB_keep (s : State) (a i : Nat) (b : Bool) : (s.wrB a i b).keep = s.keep := rfl
@[simp] theorem State.wrB_gfes (s : State) (a i : Nat) (b : Bool) : (s.wrB a i b).gfes = s.gfes := rfl
@[simp] theorem State.wrB_gpar (s : State) (a i : Nat) (b : Bool) : (s.wrB a i b).gpar = s.gpar := rfl
@[simp] theorem State.wrB_snd (s : State) (a i : Nat) (b : Bool) : (s.wrB a i b).snd = s.snd := rfl
@[simp] theorem State.wrB_twin (s : State) (a i : Nat) (b : Bool) : (s.wrB a i b).twin = s.twin := rfl
@[simp] theorem State.wrB_holds (s : State) (a i : Nat) (b : Bool) : (s.wrB a i b).holds = s.holds := rfl
@[simp] theorem State.wrB_rec_ (s : State) (a i : Nat) (b : Bool) : (s.wrB a i b).rec_ = s.rec_ := rfl
@[simp] theorem State.wrB_sdf (s : State) (a i : Nat) (b : Bool) : (s.wrB a i b).sdf = s.sdf := rfl
@[simp] theorem State.wrB_prot (s : State) (a i : Nat) (b : Bool) : (s.wrB a i b).prot = s.prot := rfl
@[simp] theorem State.wrB_wear (s : State) (a i : Nat) (b : Bool) : (s.wrB a i b).wear = s.wear := rfl
@[simp] theorem State.wrB_pdm (s : State) (a i : Nat) (b : Bool) : (s.wrB a i b).pdm = s.pdm := rfl
@[simp] theorem State.wrB_pairs (s : State) (a i : Nat) (b : Bool) : (s.wrB a i b).pairs = s.pairs := rfl
@[simp] theorem State.wrB_sars (s : State) (a i : Nat) (b : Bool) : (s.wrB a i b).sars = s.sars := rfl
@[simp] theorem State.wrB_ce (s : State) (a i : Nat) (b : Bool) : (s.wrB a i b).ce = s.ce := rfl
@[simp] theorem State.wrB_aux (s : State) (a i : Nat) (b : Bool) : (s.wrB a i b).aux = s.aux := rfl
@[simp] theorem State.wrB_eth (s : State) (a i : Nat) (b : Bool) : (s.wrB a i b).eth = s.eth := rfl
@[simp] theorem State.wrB_isl (s : State) (a i : Nat) (b : Bool) : (s.wrB a i b).isl = s.isl := rfl
@[simp] theorem State.wrB_pmu (s : State) (a i : Nat) (b : Bool) : (s.wrB a i b).pmu = s.pmu := rfl
@[simp] theorem State.wrB_tap (s : State) (a i : Nat) (b : Bool) : (s.wrB a i b).tap = s.tap := rfl
@[simp] theorem State.wrB_iom (s : State) (a i : Nat) (b : Bool) : (s.wrB a i b).iom = s.iom := rfl
@[simp] theorem State.wrB_fry (s : State) (a i : Nat) (b : Bool) : (s.wrB a i b).fry = s.fry := rfl
@[simp] theorem State.wrB_boot (s : State) (a i : Nat) (b : Bool) : (s.wrB a i b).boot = s.boot := rfl
@[simp] theorem State.wrB_uli (s : State) (a i : Nat) (b : Bool) : (s.wrB a i b).uli = s.uli := rfl
@[simp] theorem State.wrB_dev (s : State) (a i : Nat) (b : Bool) : (s.wrB a i b).dev = s.dev := rfl
@[simp] theorem State.wrB_free (s : State) (a i : Nat) (b : Bool) : (s.wrB a i b).free = s.free := rfl
@[simp] theorem State.wrB_pending (s : State) (a i : Nat) (b : Bool) : (s.wrB a i b).pending = s.pending := rfl

/-! `tookFree` changes `free` alone. -/

@[simp] theorem State.tookFree_clk (s : State) : s.tookFree.clk = s.clk := rfl
@[simp] theorem State.tookFree_regs (s : State) : s.tookFree.regs = s.regs := rfl
@[simp] theorem State.tookFree_raised (s : State) : s.tookFree.raised = s.raised := rfl
@[simp] theorem State.tookFree_bus (s : State) : s.tookFree.bus = s.bus := rfl
@[simp] theorem State.tookFree_sig (s : State) : s.tookFree.sig = s.sig := rfl
@[simp] theorem State.tookFree_evs (s : State) : s.tookFree.evs = s.evs := rfl
@[simp] theorem State.tookFree_irq (s : State) : s.tookFree.irq = s.irq := rfl
@[simp] theorem State.tookFree_mem (s : State) : s.tookFree.mem = s.mem := rfl
@[simp] theorem State.tookFree_tim (s : State) : s.tookFree.tim = s.tim := rfl
@[simp] theorem State.tookFree_seqs (s : State) : s.tookFree.seqs = s.seqs := rfl
@[simp] theorem State.tookFree_slices (s : State) : s.tookFree.slices = s.slices := rfl
@[simp] theorem State.tookFree_legs (s : State) : s.tookFree.legs = s.legs := rfl
@[simp] theorem State.tookFree_links (s : State) : s.tookFree.links = s.links := rfl
@[simp] theorem State.tookFree_boards (s : State) : s.tookFree.boards = s.boards := rfl
@[simp] theorem State.tookFree_cans (s : State) : s.tookFree.cans = s.cans := rfl
@[simp] theorem State.tookFree_vecs (s : State) : s.tookFree.vecs = s.vecs := rfl
@[simp] theorem State.tookFree_poss (s : State) : s.tookFree.poss = s.poss := rfl
@[simp] theorem State.tookFree_keep (s : State) : s.tookFree.keep = s.keep := rfl
@[simp] theorem State.tookFree_gfes (s : State) : s.tookFree.gfes = s.gfes := rfl
@[simp] theorem State.tookFree_gpar (s : State) : s.tookFree.gpar = s.gpar := rfl
@[simp] theorem State.tookFree_snd (s : State) : s.tookFree.snd = s.snd := rfl
@[simp] theorem State.tookFree_twin (s : State) : s.tookFree.twin = s.twin := rfl
@[simp] theorem State.tookFree_holds (s : State) : s.tookFree.holds = s.holds := rfl
@[simp] theorem State.tookFree_rec_ (s : State) : s.tookFree.rec_ = s.rec_ := rfl
@[simp] theorem State.tookFree_sdf (s : State) : s.tookFree.sdf = s.sdf := rfl
@[simp] theorem State.tookFree_prot (s : State) : s.tookFree.prot = s.prot := rfl
@[simp] theorem State.tookFree_wear (s : State) : s.tookFree.wear = s.wear := rfl
@[simp] theorem State.tookFree_pdm (s : State) : s.tookFree.pdm = s.pdm := rfl
@[simp] theorem State.tookFree_pairs (s : State) : s.tookFree.pairs = s.pairs := rfl
@[simp] theorem State.tookFree_sars (s : State) : s.tookFree.sars = s.sars := rfl
@[simp] theorem State.tookFree_ce (s : State) : s.tookFree.ce = s.ce := rfl
@[simp] theorem State.tookFree_aux (s : State) : s.tookFree.aux = s.aux := rfl
@[simp] theorem State.tookFree_eth (s : State) : s.tookFree.eth = s.eth := rfl
@[simp] theorem State.tookFree_isl (s : State) : s.tookFree.isl = s.isl := rfl
@[simp] theorem State.tookFree_pmu (s : State) : s.tookFree.pmu = s.pmu := rfl
@[simp] theorem State.tookFree_tap (s : State) : s.tookFree.tap = s.tap := rfl
@[simp] theorem State.tookFree_iom (s : State) : s.tookFree.iom = s.iom := rfl
@[simp] theorem State.tookFree_fry (s : State) : s.tookFree.fry = s.fry := rfl
@[simp] theorem State.tookFree_boot (s : State) : s.tookFree.boot = s.boot := rfl
@[simp] theorem State.tookFree_uli (s : State) : s.tookFree.uli = s.uli := rfl
@[simp] theorem State.tookFree_dev (s : State) : s.tookFree.dev = s.dev := rfl
theorem State.tookFree_free (s : State) : s.tookFree.free = s.free + 1 := rfl
@[simp] theorem State.tookFree_pending (s : State) : s.tookFree.pending = s.pending := rfl

/-! `setSeq` changes `seqs` alone. -/

@[simp] theorem State.setSeq_clk (s : State) (n : Nat) (v : SeqSt) : (s.setSeq n v).clk = s.clk := rfl
@[simp] theorem State.setSeq_regs (s : State) (n : Nat) (v : SeqSt) : (s.setSeq n v).regs = s.regs := rfl
@[simp] theorem State.setSeq_raised (s : State) (n : Nat) (v : SeqSt) : (s.setSeq n v).raised = s.raised := rfl
@[simp] theorem State.setSeq_bus (s : State) (n : Nat) (v : SeqSt) : (s.setSeq n v).bus = s.bus := rfl
@[simp] theorem State.setSeq_sig (s : State) (n : Nat) (v : SeqSt) : (s.setSeq n v).sig = s.sig := rfl
@[simp] theorem State.setSeq_evs (s : State) (n : Nat) (v : SeqSt) : (s.setSeq n v).evs = s.evs := rfl
@[simp] theorem State.setSeq_irq (s : State) (n : Nat) (v : SeqSt) : (s.setSeq n v).irq = s.irq := rfl
@[simp] theorem State.setSeq_mem (s : State) (n : Nat) (v : SeqSt) : (s.setSeq n v).mem = s.mem := rfl
@[simp] theorem State.setSeq_tim (s : State) (n : Nat) (v : SeqSt) : (s.setSeq n v).tim = s.tim := rfl
theorem State.setSeq_seqs (s : State) (n : Nat) (v : SeqSt) : (s.setSeq n v).seqs = tabSet (fun _ => SeqSt.init) s.seqs n v := rfl
@[simp] theorem State.setSeq_slices (s : State) (n : Nat) (v : SeqSt) : (s.setSeq n v).slices = s.slices := rfl
@[simp] theorem State.setSeq_legs (s : State) (n : Nat) (v : SeqSt) : (s.setSeq n v).legs = s.legs := rfl
@[simp] theorem State.setSeq_links (s : State) (n : Nat) (v : SeqSt) : (s.setSeq n v).links = s.links := rfl
@[simp] theorem State.setSeq_boards (s : State) (n : Nat) (v : SeqSt) : (s.setSeq n v).boards = s.boards := rfl
@[simp] theorem State.setSeq_cans (s : State) (n : Nat) (v : SeqSt) : (s.setSeq n v).cans = s.cans := rfl
@[simp] theorem State.setSeq_vecs (s : State) (n : Nat) (v : SeqSt) : (s.setSeq n v).vecs = s.vecs := rfl
@[simp] theorem State.setSeq_poss (s : State) (n : Nat) (v : SeqSt) : (s.setSeq n v).poss = s.poss := rfl
@[simp] theorem State.setSeq_keep (s : State) (n : Nat) (v : SeqSt) : (s.setSeq n v).keep = s.keep := rfl
@[simp] theorem State.setSeq_gfes (s : State) (n : Nat) (v : SeqSt) : (s.setSeq n v).gfes = s.gfes := rfl
@[simp] theorem State.setSeq_gpar (s : State) (n : Nat) (v : SeqSt) : (s.setSeq n v).gpar = s.gpar := rfl
@[simp] theorem State.setSeq_snd (s : State) (n : Nat) (v : SeqSt) : (s.setSeq n v).snd = s.snd := rfl
@[simp] theorem State.setSeq_twin (s : State) (n : Nat) (v : SeqSt) : (s.setSeq n v).twin = s.twin := rfl
@[simp] theorem State.setSeq_holds (s : State) (n : Nat) (v : SeqSt) : (s.setSeq n v).holds = s.holds := rfl
@[simp] theorem State.setSeq_rec_ (s : State) (n : Nat) (v : SeqSt) : (s.setSeq n v).rec_ = s.rec_ := rfl
@[simp] theorem State.setSeq_sdf (s : State) (n : Nat) (v : SeqSt) : (s.setSeq n v).sdf = s.sdf := rfl
@[simp] theorem State.setSeq_prot (s : State) (n : Nat) (v : SeqSt) : (s.setSeq n v).prot = s.prot := rfl
@[simp] theorem State.setSeq_wear (s : State) (n : Nat) (v : SeqSt) : (s.setSeq n v).wear = s.wear := rfl
@[simp] theorem State.setSeq_pdm (s : State) (n : Nat) (v : SeqSt) : (s.setSeq n v).pdm = s.pdm := rfl
@[simp] theorem State.setSeq_pairs (s : State) (n : Nat) (v : SeqSt) : (s.setSeq n v).pairs = s.pairs := rfl
@[simp] theorem State.setSeq_sars (s : State) (n : Nat) (v : SeqSt) : (s.setSeq n v).sars = s.sars := rfl
@[simp] theorem State.setSeq_ce (s : State) (n : Nat) (v : SeqSt) : (s.setSeq n v).ce = s.ce := rfl
@[simp] theorem State.setSeq_aux (s : State) (n : Nat) (v : SeqSt) : (s.setSeq n v).aux = s.aux := rfl
@[simp] theorem State.setSeq_eth (s : State) (n : Nat) (v : SeqSt) : (s.setSeq n v).eth = s.eth := rfl
@[simp] theorem State.setSeq_isl (s : State) (n : Nat) (v : SeqSt) : (s.setSeq n v).isl = s.isl := rfl
@[simp] theorem State.setSeq_pmu (s : State) (n : Nat) (v : SeqSt) : (s.setSeq n v).pmu = s.pmu := rfl
@[simp] theorem State.setSeq_tap (s : State) (n : Nat) (v : SeqSt) : (s.setSeq n v).tap = s.tap := rfl
@[simp] theorem State.setSeq_iom (s : State) (n : Nat) (v : SeqSt) : (s.setSeq n v).iom = s.iom := rfl
@[simp] theorem State.setSeq_fry (s : State) (n : Nat) (v : SeqSt) : (s.setSeq n v).fry = s.fry := rfl
@[simp] theorem State.setSeq_boot (s : State) (n : Nat) (v : SeqSt) : (s.setSeq n v).boot = s.boot := rfl
@[simp] theorem State.setSeq_uli (s : State) (n : Nat) (v : SeqSt) : (s.setSeq n v).uli = s.uli := rfl
@[simp] theorem State.setSeq_dev (s : State) (n : Nat) (v : SeqSt) : (s.setSeq n v).dev = s.dev := rfl
@[simp] theorem State.setSeq_free (s : State) (n : Nat) (v : SeqSt) : (s.setSeq n v).free = s.free := rfl
@[simp] theorem State.setSeq_pending (s : State) (n : Nat) (v : SeqSt) : (s.setSeq n v).pending = s.pending := rfl

/-! `setSlice` changes `slices` alone. -/

@[simp] theorem State.setSlice_clk (s : State) (n : Nat) (v : SliceSt) : (s.setSlice n v).clk = s.clk := rfl
@[simp] theorem State.setSlice_regs (s : State) (n : Nat) (v : SliceSt) : (s.setSlice n v).regs = s.regs := rfl
@[simp] theorem State.setSlice_raised (s : State) (n : Nat) (v : SliceSt) : (s.setSlice n v).raised = s.raised := rfl
@[simp] theorem State.setSlice_bus (s : State) (n : Nat) (v : SliceSt) : (s.setSlice n v).bus = s.bus := rfl
@[simp] theorem State.setSlice_sig (s : State) (n : Nat) (v : SliceSt) : (s.setSlice n v).sig = s.sig := rfl
@[simp] theorem State.setSlice_evs (s : State) (n : Nat) (v : SliceSt) : (s.setSlice n v).evs = s.evs := rfl
@[simp] theorem State.setSlice_irq (s : State) (n : Nat) (v : SliceSt) : (s.setSlice n v).irq = s.irq := rfl
@[simp] theorem State.setSlice_mem (s : State) (n : Nat) (v : SliceSt) : (s.setSlice n v).mem = s.mem := rfl
@[simp] theorem State.setSlice_tim (s : State) (n : Nat) (v : SliceSt) : (s.setSlice n v).tim = s.tim := rfl
@[simp] theorem State.setSlice_seqs (s : State) (n : Nat) (v : SliceSt) : (s.setSlice n v).seqs = s.seqs := rfl
theorem State.setSlice_slices (s : State) (n : Nat) (v : SliceSt) : (s.setSlice n v).slices = tabSet (fun _ => SliceSt.init) s.slices n v := rfl
@[simp] theorem State.setSlice_legs (s : State) (n : Nat) (v : SliceSt) : (s.setSlice n v).legs = s.legs := rfl
@[simp] theorem State.setSlice_links (s : State) (n : Nat) (v : SliceSt) : (s.setSlice n v).links = s.links := rfl
@[simp] theorem State.setSlice_boards (s : State) (n : Nat) (v : SliceSt) : (s.setSlice n v).boards = s.boards := rfl
@[simp] theorem State.setSlice_cans (s : State) (n : Nat) (v : SliceSt) : (s.setSlice n v).cans = s.cans := rfl
@[simp] theorem State.setSlice_vecs (s : State) (n : Nat) (v : SliceSt) : (s.setSlice n v).vecs = s.vecs := rfl
@[simp] theorem State.setSlice_poss (s : State) (n : Nat) (v : SliceSt) : (s.setSlice n v).poss = s.poss := rfl
@[simp] theorem State.setSlice_keep (s : State) (n : Nat) (v : SliceSt) : (s.setSlice n v).keep = s.keep := rfl
@[simp] theorem State.setSlice_gfes (s : State) (n : Nat) (v : SliceSt) : (s.setSlice n v).gfes = s.gfes := rfl
@[simp] theorem State.setSlice_gpar (s : State) (n : Nat) (v : SliceSt) : (s.setSlice n v).gpar = s.gpar := rfl
@[simp] theorem State.setSlice_snd (s : State) (n : Nat) (v : SliceSt) : (s.setSlice n v).snd = s.snd := rfl
@[simp] theorem State.setSlice_twin (s : State) (n : Nat) (v : SliceSt) : (s.setSlice n v).twin = s.twin := rfl
@[simp] theorem State.setSlice_holds (s : State) (n : Nat) (v : SliceSt) : (s.setSlice n v).holds = s.holds := rfl
@[simp] theorem State.setSlice_rec_ (s : State) (n : Nat) (v : SliceSt) : (s.setSlice n v).rec_ = s.rec_ := rfl
@[simp] theorem State.setSlice_sdf (s : State) (n : Nat) (v : SliceSt) : (s.setSlice n v).sdf = s.sdf := rfl
@[simp] theorem State.setSlice_prot (s : State) (n : Nat) (v : SliceSt) : (s.setSlice n v).prot = s.prot := rfl
@[simp] theorem State.setSlice_wear (s : State) (n : Nat) (v : SliceSt) : (s.setSlice n v).wear = s.wear := rfl
@[simp] theorem State.setSlice_pdm (s : State) (n : Nat) (v : SliceSt) : (s.setSlice n v).pdm = s.pdm := rfl
@[simp] theorem State.setSlice_pairs (s : State) (n : Nat) (v : SliceSt) : (s.setSlice n v).pairs = s.pairs := rfl
@[simp] theorem State.setSlice_sars (s : State) (n : Nat) (v : SliceSt) : (s.setSlice n v).sars = s.sars := rfl
@[simp] theorem State.setSlice_ce (s : State) (n : Nat) (v : SliceSt) : (s.setSlice n v).ce = s.ce := rfl
@[simp] theorem State.setSlice_aux (s : State) (n : Nat) (v : SliceSt) : (s.setSlice n v).aux = s.aux := rfl
@[simp] theorem State.setSlice_eth (s : State) (n : Nat) (v : SliceSt) : (s.setSlice n v).eth = s.eth := rfl
@[simp] theorem State.setSlice_isl (s : State) (n : Nat) (v : SliceSt) : (s.setSlice n v).isl = s.isl := rfl
@[simp] theorem State.setSlice_pmu (s : State) (n : Nat) (v : SliceSt) : (s.setSlice n v).pmu = s.pmu := rfl
@[simp] theorem State.setSlice_tap (s : State) (n : Nat) (v : SliceSt) : (s.setSlice n v).tap = s.tap := rfl
@[simp] theorem State.setSlice_iom (s : State) (n : Nat) (v : SliceSt) : (s.setSlice n v).iom = s.iom := rfl
@[simp] theorem State.setSlice_fry (s : State) (n : Nat) (v : SliceSt) : (s.setSlice n v).fry = s.fry := rfl
@[simp] theorem State.setSlice_boot (s : State) (n : Nat) (v : SliceSt) : (s.setSlice n v).boot = s.boot := rfl
@[simp] theorem State.setSlice_uli (s : State) (n : Nat) (v : SliceSt) : (s.setSlice n v).uli = s.uli := rfl
@[simp] theorem State.setSlice_dev (s : State) (n : Nat) (v : SliceSt) : (s.setSlice n v).dev = s.dev := rfl
@[simp] theorem State.setSlice_free (s : State) (n : Nat) (v : SliceSt) : (s.setSlice n v).free = s.free := rfl
@[simp] theorem State.setSlice_pending (s : State) (n : Nat) (v : SliceSt) : (s.setSlice n v).pending = s.pending := rfl

/-! `setLeg` changes `legs` alone. -/

@[simp] theorem State.setLeg_clk (s : State) (n : Nat) (v : LegSt) : (s.setLeg n v).clk = s.clk := rfl
@[simp] theorem State.setLeg_regs (s : State) (n : Nat) (v : LegSt) : (s.setLeg n v).regs = s.regs := rfl
@[simp] theorem State.setLeg_raised (s : State) (n : Nat) (v : LegSt) : (s.setLeg n v).raised = s.raised := rfl
@[simp] theorem State.setLeg_bus (s : State) (n : Nat) (v : LegSt) : (s.setLeg n v).bus = s.bus := rfl
@[simp] theorem State.setLeg_sig (s : State) (n : Nat) (v : LegSt) : (s.setLeg n v).sig = s.sig := rfl
@[simp] theorem State.setLeg_evs (s : State) (n : Nat) (v : LegSt) : (s.setLeg n v).evs = s.evs := rfl
@[simp] theorem State.setLeg_irq (s : State) (n : Nat) (v : LegSt) : (s.setLeg n v).irq = s.irq := rfl
@[simp] theorem State.setLeg_mem (s : State) (n : Nat) (v : LegSt) : (s.setLeg n v).mem = s.mem := rfl
@[simp] theorem State.setLeg_tim (s : State) (n : Nat) (v : LegSt) : (s.setLeg n v).tim = s.tim := rfl
@[simp] theorem State.setLeg_seqs (s : State) (n : Nat) (v : LegSt) : (s.setLeg n v).seqs = s.seqs := rfl
@[simp] theorem State.setLeg_slices (s : State) (n : Nat) (v : LegSt) : (s.setLeg n v).slices = s.slices := rfl
theorem State.setLeg_legs (s : State) (n : Nat) (v : LegSt) : (s.setLeg n v).legs = tabSet (fun _ => LegSt.init) s.legs n v := rfl
@[simp] theorem State.setLeg_links (s : State) (n : Nat) (v : LegSt) : (s.setLeg n v).links = s.links := rfl
@[simp] theorem State.setLeg_boards (s : State) (n : Nat) (v : LegSt) : (s.setLeg n v).boards = s.boards := rfl
@[simp] theorem State.setLeg_cans (s : State) (n : Nat) (v : LegSt) : (s.setLeg n v).cans = s.cans := rfl
@[simp] theorem State.setLeg_vecs (s : State) (n : Nat) (v : LegSt) : (s.setLeg n v).vecs = s.vecs := rfl
@[simp] theorem State.setLeg_poss (s : State) (n : Nat) (v : LegSt) : (s.setLeg n v).poss = s.poss := rfl
@[simp] theorem State.setLeg_keep (s : State) (n : Nat) (v : LegSt) : (s.setLeg n v).keep = s.keep := rfl
@[simp] theorem State.setLeg_gfes (s : State) (n : Nat) (v : LegSt) : (s.setLeg n v).gfes = s.gfes := rfl
@[simp] theorem State.setLeg_gpar (s : State) (n : Nat) (v : LegSt) : (s.setLeg n v).gpar = s.gpar := rfl
@[simp] theorem State.setLeg_snd (s : State) (n : Nat) (v : LegSt) : (s.setLeg n v).snd = s.snd := rfl
@[simp] theorem State.setLeg_twin (s : State) (n : Nat) (v : LegSt) : (s.setLeg n v).twin = s.twin := rfl
@[simp] theorem State.setLeg_holds (s : State) (n : Nat) (v : LegSt) : (s.setLeg n v).holds = s.holds := rfl
@[simp] theorem State.setLeg_rec_ (s : State) (n : Nat) (v : LegSt) : (s.setLeg n v).rec_ = s.rec_ := rfl
@[simp] theorem State.setLeg_sdf (s : State) (n : Nat) (v : LegSt) : (s.setLeg n v).sdf = s.sdf := rfl
@[simp] theorem State.setLeg_prot (s : State) (n : Nat) (v : LegSt) : (s.setLeg n v).prot = s.prot := rfl
@[simp] theorem State.setLeg_wear (s : State) (n : Nat) (v : LegSt) : (s.setLeg n v).wear = s.wear := rfl
@[simp] theorem State.setLeg_pdm (s : State) (n : Nat) (v : LegSt) : (s.setLeg n v).pdm = s.pdm := rfl
@[simp] theorem State.setLeg_pairs (s : State) (n : Nat) (v : LegSt) : (s.setLeg n v).pairs = s.pairs := rfl
@[simp] theorem State.setLeg_sars (s : State) (n : Nat) (v : LegSt) : (s.setLeg n v).sars = s.sars := rfl
@[simp] theorem State.setLeg_ce (s : State) (n : Nat) (v : LegSt) : (s.setLeg n v).ce = s.ce := rfl
@[simp] theorem State.setLeg_aux (s : State) (n : Nat) (v : LegSt) : (s.setLeg n v).aux = s.aux := rfl
@[simp] theorem State.setLeg_eth (s : State) (n : Nat) (v : LegSt) : (s.setLeg n v).eth = s.eth := rfl
@[simp] theorem State.setLeg_isl (s : State) (n : Nat) (v : LegSt) : (s.setLeg n v).isl = s.isl := rfl
@[simp] theorem State.setLeg_pmu (s : State) (n : Nat) (v : LegSt) : (s.setLeg n v).pmu = s.pmu := rfl
@[simp] theorem State.setLeg_tap (s : State) (n : Nat) (v : LegSt) : (s.setLeg n v).tap = s.tap := rfl
@[simp] theorem State.setLeg_iom (s : State) (n : Nat) (v : LegSt) : (s.setLeg n v).iom = s.iom := rfl
@[simp] theorem State.setLeg_fry (s : State) (n : Nat) (v : LegSt) : (s.setLeg n v).fry = s.fry := rfl
@[simp] theorem State.setLeg_boot (s : State) (n : Nat) (v : LegSt) : (s.setLeg n v).boot = s.boot := rfl
@[simp] theorem State.setLeg_uli (s : State) (n : Nat) (v : LegSt) : (s.setLeg n v).uli = s.uli := rfl
@[simp] theorem State.setLeg_dev (s : State) (n : Nat) (v : LegSt) : (s.setLeg n v).dev = s.dev := rfl
@[simp] theorem State.setLeg_free (s : State) (n : Nat) (v : LegSt) : (s.setLeg n v).free = s.free := rfl
@[simp] theorem State.setLeg_pending (s : State) (n : Nat) (v : LegSt) : (s.setLeg n v).pending = s.pending := rfl

/-! `setLink` changes `links` alone. -/

@[simp] theorem State.setLink_clk (s : State) (n : Nat) (v : LinkSt) : (s.setLink n v).clk = s.clk := rfl
@[simp] theorem State.setLink_regs (s : State) (n : Nat) (v : LinkSt) : (s.setLink n v).regs = s.regs := rfl
@[simp] theorem State.setLink_raised (s : State) (n : Nat) (v : LinkSt) : (s.setLink n v).raised = s.raised := rfl
@[simp] theorem State.setLink_bus (s : State) (n : Nat) (v : LinkSt) : (s.setLink n v).bus = s.bus := rfl
@[simp] theorem State.setLink_sig (s : State) (n : Nat) (v : LinkSt) : (s.setLink n v).sig = s.sig := rfl
@[simp] theorem State.setLink_evs (s : State) (n : Nat) (v : LinkSt) : (s.setLink n v).evs = s.evs := rfl
@[simp] theorem State.setLink_irq (s : State) (n : Nat) (v : LinkSt) : (s.setLink n v).irq = s.irq := rfl
@[simp] theorem State.setLink_mem (s : State) (n : Nat) (v : LinkSt) : (s.setLink n v).mem = s.mem := rfl
@[simp] theorem State.setLink_tim (s : State) (n : Nat) (v : LinkSt) : (s.setLink n v).tim = s.tim := rfl
@[simp] theorem State.setLink_seqs (s : State) (n : Nat) (v : LinkSt) : (s.setLink n v).seqs = s.seqs := rfl
@[simp] theorem State.setLink_slices (s : State) (n : Nat) (v : LinkSt) : (s.setLink n v).slices = s.slices := rfl
@[simp] theorem State.setLink_legs (s : State) (n : Nat) (v : LinkSt) : (s.setLink n v).legs = s.legs := rfl
theorem State.setLink_links (s : State) (n : Nat) (v : LinkSt) : (s.setLink n v).links = tabSet (fun _ => LinkSt.init) s.links n v := rfl
@[simp] theorem State.setLink_boards (s : State) (n : Nat) (v : LinkSt) : (s.setLink n v).boards = s.boards := rfl
@[simp] theorem State.setLink_cans (s : State) (n : Nat) (v : LinkSt) : (s.setLink n v).cans = s.cans := rfl
@[simp] theorem State.setLink_vecs (s : State) (n : Nat) (v : LinkSt) : (s.setLink n v).vecs = s.vecs := rfl
@[simp] theorem State.setLink_poss (s : State) (n : Nat) (v : LinkSt) : (s.setLink n v).poss = s.poss := rfl
@[simp] theorem State.setLink_keep (s : State) (n : Nat) (v : LinkSt) : (s.setLink n v).keep = s.keep := rfl
@[simp] theorem State.setLink_gfes (s : State) (n : Nat) (v : LinkSt) : (s.setLink n v).gfes = s.gfes := rfl
@[simp] theorem State.setLink_gpar (s : State) (n : Nat) (v : LinkSt) : (s.setLink n v).gpar = s.gpar := rfl
@[simp] theorem State.setLink_snd (s : State) (n : Nat) (v : LinkSt) : (s.setLink n v).snd = s.snd := rfl
@[simp] theorem State.setLink_twin (s : State) (n : Nat) (v : LinkSt) : (s.setLink n v).twin = s.twin := rfl
@[simp] theorem State.setLink_holds (s : State) (n : Nat) (v : LinkSt) : (s.setLink n v).holds = s.holds := rfl
@[simp] theorem State.setLink_rec_ (s : State) (n : Nat) (v : LinkSt) : (s.setLink n v).rec_ = s.rec_ := rfl
@[simp] theorem State.setLink_sdf (s : State) (n : Nat) (v : LinkSt) : (s.setLink n v).sdf = s.sdf := rfl
@[simp] theorem State.setLink_prot (s : State) (n : Nat) (v : LinkSt) : (s.setLink n v).prot = s.prot := rfl
@[simp] theorem State.setLink_wear (s : State) (n : Nat) (v : LinkSt) : (s.setLink n v).wear = s.wear := rfl
@[simp] theorem State.setLink_pdm (s : State) (n : Nat) (v : LinkSt) : (s.setLink n v).pdm = s.pdm := rfl
@[simp] theorem State.setLink_pairs (s : State) (n : Nat) (v : LinkSt) : (s.setLink n v).pairs = s.pairs := rfl
@[simp] theorem State.setLink_sars (s : State) (n : Nat) (v : LinkSt) : (s.setLink n v).sars = s.sars := rfl
@[simp] theorem State.setLink_ce (s : State) (n : Nat) (v : LinkSt) : (s.setLink n v).ce = s.ce := rfl
@[simp] theorem State.setLink_aux (s : State) (n : Nat) (v : LinkSt) : (s.setLink n v).aux = s.aux := rfl
@[simp] theorem State.setLink_eth (s : State) (n : Nat) (v : LinkSt) : (s.setLink n v).eth = s.eth := rfl
@[simp] theorem State.setLink_isl (s : State) (n : Nat) (v : LinkSt) : (s.setLink n v).isl = s.isl := rfl
@[simp] theorem State.setLink_pmu (s : State) (n : Nat) (v : LinkSt) : (s.setLink n v).pmu = s.pmu := rfl
@[simp] theorem State.setLink_tap (s : State) (n : Nat) (v : LinkSt) : (s.setLink n v).tap = s.tap := rfl
@[simp] theorem State.setLink_iom (s : State) (n : Nat) (v : LinkSt) : (s.setLink n v).iom = s.iom := rfl
@[simp] theorem State.setLink_fry (s : State) (n : Nat) (v : LinkSt) : (s.setLink n v).fry = s.fry := rfl
@[simp] theorem State.setLink_boot (s : State) (n : Nat) (v : LinkSt) : (s.setLink n v).boot = s.boot := rfl
@[simp] theorem State.setLink_uli (s : State) (n : Nat) (v : LinkSt) : (s.setLink n v).uli = s.uli := rfl
@[simp] theorem State.setLink_dev (s : State) (n : Nat) (v : LinkSt) : (s.setLink n v).dev = s.dev := rfl
@[simp] theorem State.setLink_free (s : State) (n : Nat) (v : LinkSt) : (s.setLink n v).free = s.free := rfl
@[simp] theorem State.setLink_pending (s : State) (n : Nat) (v : LinkSt) : (s.setLink n v).pending = s.pending := rfl

/-! `setBoard` changes `boards` alone. -/

@[simp] theorem State.setBoard_clk (s : State) (l : Nat) (b : BoardSt) : (s.setBoard l b).clk = s.clk := rfl
@[simp] theorem State.setBoard_regs (s : State) (l : Nat) (b : BoardSt) : (s.setBoard l b).regs = s.regs := rfl
@[simp] theorem State.setBoard_raised (s : State) (l : Nat) (b : BoardSt) : (s.setBoard l b).raised = s.raised := rfl
@[simp] theorem State.setBoard_bus (s : State) (l : Nat) (b : BoardSt) : (s.setBoard l b).bus = s.bus := rfl
@[simp] theorem State.setBoard_sig (s : State) (l : Nat) (b : BoardSt) : (s.setBoard l b).sig = s.sig := rfl
@[simp] theorem State.setBoard_evs (s : State) (l : Nat) (b : BoardSt) : (s.setBoard l b).evs = s.evs := rfl
@[simp] theorem State.setBoard_irq (s : State) (l : Nat) (b : BoardSt) : (s.setBoard l b).irq = s.irq := rfl
@[simp] theorem State.setBoard_mem (s : State) (l : Nat) (b : BoardSt) : (s.setBoard l b).mem = s.mem := rfl
@[simp] theorem State.setBoard_tim (s : State) (l : Nat) (b : BoardSt) : (s.setBoard l b).tim = s.tim := rfl
@[simp] theorem State.setBoard_seqs (s : State) (l : Nat) (b : BoardSt) : (s.setBoard l b).seqs = s.seqs := rfl
@[simp] theorem State.setBoard_slices (s : State) (l : Nat) (b : BoardSt) : (s.setBoard l b).slices = s.slices := rfl
@[simp] theorem State.setBoard_legs (s : State) (l : Nat) (b : BoardSt) : (s.setBoard l b).legs = s.legs := rfl
@[simp] theorem State.setBoard_links (s : State) (l : Nat) (b : BoardSt) : (s.setBoard l b).links = s.links := rfl
theorem State.setBoard_boards (s : State) (l : Nat) (b : BoardSt) : (s.setBoard l b).boards = tabSet (fun _ => BoardSt.init) s.boards l b := rfl
@[simp] theorem State.setBoard_cans (s : State) (l : Nat) (b : BoardSt) : (s.setBoard l b).cans = s.cans := rfl
@[simp] theorem State.setBoard_vecs (s : State) (l : Nat) (b : BoardSt) : (s.setBoard l b).vecs = s.vecs := rfl
@[simp] theorem State.setBoard_poss (s : State) (l : Nat) (b : BoardSt) : (s.setBoard l b).poss = s.poss := rfl
@[simp] theorem State.setBoard_keep (s : State) (l : Nat) (b : BoardSt) : (s.setBoard l b).keep = s.keep := rfl
@[simp] theorem State.setBoard_gfes (s : State) (l : Nat) (b : BoardSt) : (s.setBoard l b).gfes = s.gfes := rfl
@[simp] theorem State.setBoard_gpar (s : State) (l : Nat) (b : BoardSt) : (s.setBoard l b).gpar = s.gpar := rfl
@[simp] theorem State.setBoard_snd (s : State) (l : Nat) (b : BoardSt) : (s.setBoard l b).snd = s.snd := rfl
@[simp] theorem State.setBoard_twin (s : State) (l : Nat) (b : BoardSt) : (s.setBoard l b).twin = s.twin := rfl
@[simp] theorem State.setBoard_holds (s : State) (l : Nat) (b : BoardSt) : (s.setBoard l b).holds = s.holds := rfl
@[simp] theorem State.setBoard_rec_ (s : State) (l : Nat) (b : BoardSt) : (s.setBoard l b).rec_ = s.rec_ := rfl
@[simp] theorem State.setBoard_sdf (s : State) (l : Nat) (b : BoardSt) : (s.setBoard l b).sdf = s.sdf := rfl
@[simp] theorem State.setBoard_prot (s : State) (l : Nat) (b : BoardSt) : (s.setBoard l b).prot = s.prot := rfl
@[simp] theorem State.setBoard_wear (s : State) (l : Nat) (b : BoardSt) : (s.setBoard l b).wear = s.wear := rfl
@[simp] theorem State.setBoard_pdm (s : State) (l : Nat) (b : BoardSt) : (s.setBoard l b).pdm = s.pdm := rfl
@[simp] theorem State.setBoard_pairs (s : State) (l : Nat) (b : BoardSt) : (s.setBoard l b).pairs = s.pairs := rfl
@[simp] theorem State.setBoard_sars (s : State) (l : Nat) (b : BoardSt) : (s.setBoard l b).sars = s.sars := rfl
@[simp] theorem State.setBoard_ce (s : State) (l : Nat) (b : BoardSt) : (s.setBoard l b).ce = s.ce := rfl
@[simp] theorem State.setBoard_aux (s : State) (l : Nat) (b : BoardSt) : (s.setBoard l b).aux = s.aux := rfl
@[simp] theorem State.setBoard_eth (s : State) (l : Nat) (b : BoardSt) : (s.setBoard l b).eth = s.eth := rfl
@[simp] theorem State.setBoard_isl (s : State) (l : Nat) (b : BoardSt) : (s.setBoard l b).isl = s.isl := rfl
@[simp] theorem State.setBoard_pmu (s : State) (l : Nat) (b : BoardSt) : (s.setBoard l b).pmu = s.pmu := rfl
@[simp] theorem State.setBoard_tap (s : State) (l : Nat) (b : BoardSt) : (s.setBoard l b).tap = s.tap := rfl
@[simp] theorem State.setBoard_iom (s : State) (l : Nat) (b : BoardSt) : (s.setBoard l b).iom = s.iom := rfl
@[simp] theorem State.setBoard_fry (s : State) (l : Nat) (b : BoardSt) : (s.setBoard l b).fry = s.fry := rfl
@[simp] theorem State.setBoard_boot (s : State) (l : Nat) (b : BoardSt) : (s.setBoard l b).boot = s.boot := rfl
@[simp] theorem State.setBoard_uli (s : State) (l : Nat) (b : BoardSt) : (s.setBoard l b).uli = s.uli := rfl
@[simp] theorem State.setBoard_dev (s : State) (l : Nat) (b : BoardSt) : (s.setBoard l b).dev = s.dev := rfl
@[simp] theorem State.setBoard_free (s : State) (l : Nat) (b : BoardSt) : (s.setBoard l b).free = s.free := rfl
@[simp] theorem State.setBoard_pending (s : State) (l : Nat) (b : BoardSt) : (s.setBoard l b).pending = s.pending := rfl

/-! `setCan` changes `cans` alone. -/

@[simp] theorem State.setCan_clk (s : State) (k : Nat) (c : CanSt) : (s.setCan k c).clk = s.clk := rfl
@[simp] theorem State.setCan_regs (s : State) (k : Nat) (c : CanSt) : (s.setCan k c).regs = s.regs := rfl
@[simp] theorem State.setCan_raised (s : State) (k : Nat) (c : CanSt) : (s.setCan k c).raised = s.raised := rfl
@[simp] theorem State.setCan_bus (s : State) (k : Nat) (c : CanSt) : (s.setCan k c).bus = s.bus := rfl
@[simp] theorem State.setCan_sig (s : State) (k : Nat) (c : CanSt) : (s.setCan k c).sig = s.sig := rfl
@[simp] theorem State.setCan_evs (s : State) (k : Nat) (c : CanSt) : (s.setCan k c).evs = s.evs := rfl
@[simp] theorem State.setCan_irq (s : State) (k : Nat) (c : CanSt) : (s.setCan k c).irq = s.irq := rfl
@[simp] theorem State.setCan_mem (s : State) (k : Nat) (c : CanSt) : (s.setCan k c).mem = s.mem := rfl
@[simp] theorem State.setCan_tim (s : State) (k : Nat) (c : CanSt) : (s.setCan k c).tim = s.tim := rfl
@[simp] theorem State.setCan_seqs (s : State) (k : Nat) (c : CanSt) : (s.setCan k c).seqs = s.seqs := rfl
@[simp] theorem State.setCan_slices (s : State) (k : Nat) (c : CanSt) : (s.setCan k c).slices = s.slices := rfl
@[simp] theorem State.setCan_legs (s : State) (k : Nat) (c : CanSt) : (s.setCan k c).legs = s.legs := rfl
@[simp] theorem State.setCan_links (s : State) (k : Nat) (c : CanSt) : (s.setCan k c).links = s.links := rfl
@[simp] theorem State.setCan_boards (s : State) (k : Nat) (c : CanSt) : (s.setCan k c).boards = s.boards := rfl
theorem State.setCan_cans (s : State) (k : Nat) (c : CanSt) : (s.setCan k c).cans = tabSet (fun _ => CanSt.init) s.cans k c := rfl
@[simp] theorem State.setCan_vecs (s : State) (k : Nat) (c : CanSt) : (s.setCan k c).vecs = s.vecs := rfl
@[simp] theorem State.setCan_poss (s : State) (k : Nat) (c : CanSt) : (s.setCan k c).poss = s.poss := rfl
@[simp] theorem State.setCan_keep (s : State) (k : Nat) (c : CanSt) : (s.setCan k c).keep = s.keep := rfl
@[simp] theorem State.setCan_gfes (s : State) (k : Nat) (c : CanSt) : (s.setCan k c).gfes = s.gfes := rfl
@[simp] theorem State.setCan_gpar (s : State) (k : Nat) (c : CanSt) : (s.setCan k c).gpar = s.gpar := rfl
@[simp] theorem State.setCan_snd (s : State) (k : Nat) (c : CanSt) : (s.setCan k c).snd = s.snd := rfl
@[simp] theorem State.setCan_twin (s : State) (k : Nat) (c : CanSt) : (s.setCan k c).twin = s.twin := rfl
@[simp] theorem State.setCan_holds (s : State) (k : Nat) (c : CanSt) : (s.setCan k c).holds = s.holds := rfl
@[simp] theorem State.setCan_rec_ (s : State) (k : Nat) (c : CanSt) : (s.setCan k c).rec_ = s.rec_ := rfl
@[simp] theorem State.setCan_sdf (s : State) (k : Nat) (c : CanSt) : (s.setCan k c).sdf = s.sdf := rfl
@[simp] theorem State.setCan_prot (s : State) (k : Nat) (c : CanSt) : (s.setCan k c).prot = s.prot := rfl
@[simp] theorem State.setCan_wear (s : State) (k : Nat) (c : CanSt) : (s.setCan k c).wear = s.wear := rfl
@[simp] theorem State.setCan_pdm (s : State) (k : Nat) (c : CanSt) : (s.setCan k c).pdm = s.pdm := rfl
@[simp] theorem State.setCan_pairs (s : State) (k : Nat) (c : CanSt) : (s.setCan k c).pairs = s.pairs := rfl
@[simp] theorem State.setCan_sars (s : State) (k : Nat) (c : CanSt) : (s.setCan k c).sars = s.sars := rfl
@[simp] theorem State.setCan_ce (s : State) (k : Nat) (c : CanSt) : (s.setCan k c).ce = s.ce := rfl
@[simp] theorem State.setCan_aux (s : State) (k : Nat) (c : CanSt) : (s.setCan k c).aux = s.aux := rfl
@[simp] theorem State.setCan_eth (s : State) (k : Nat) (c : CanSt) : (s.setCan k c).eth = s.eth := rfl
@[simp] theorem State.setCan_isl (s : State) (k : Nat) (c : CanSt) : (s.setCan k c).isl = s.isl := rfl
@[simp] theorem State.setCan_pmu (s : State) (k : Nat) (c : CanSt) : (s.setCan k c).pmu = s.pmu := rfl
@[simp] theorem State.setCan_tap (s : State) (k : Nat) (c : CanSt) : (s.setCan k c).tap = s.tap := rfl
@[simp] theorem State.setCan_iom (s : State) (k : Nat) (c : CanSt) : (s.setCan k c).iom = s.iom := rfl
@[simp] theorem State.setCan_fry (s : State) (k : Nat) (c : CanSt) : (s.setCan k c).fry = s.fry := rfl
@[simp] theorem State.setCan_boot (s : State) (k : Nat) (c : CanSt) : (s.setCan k c).boot = s.boot := rfl
@[simp] theorem State.setCan_uli (s : State) (k : Nat) (c : CanSt) : (s.setCan k c).uli = s.uli := rfl
@[simp] theorem State.setCan_dev (s : State) (k : Nat) (c : CanSt) : (s.setCan k c).dev = s.dev := rfl
@[simp] theorem State.setCan_free (s : State) (k : Nat) (c : CanSt) : (s.setCan k c).free = s.free := rfl
@[simp] theorem State.setCan_pending (s : State) (k : Nat) (c : CanSt) : (s.setCan k c).pending = s.pending := rfl

/-! `setVec` changes `vecs` alone. -/

@[simp] theorem State.setVec_clk (s : State) (u : Nat) (v : VecSt) : (s.setVec u v).clk = s.clk := rfl
@[simp] theorem State.setVec_regs (s : State) (u : Nat) (v : VecSt) : (s.setVec u v).regs = s.regs := rfl
@[simp] theorem State.setVec_raised (s : State) (u : Nat) (v : VecSt) : (s.setVec u v).raised = s.raised := rfl
@[simp] theorem State.setVec_bus (s : State) (u : Nat) (v : VecSt) : (s.setVec u v).bus = s.bus := rfl
@[simp] theorem State.setVec_sig (s : State) (u : Nat) (v : VecSt) : (s.setVec u v).sig = s.sig := rfl
@[simp] theorem State.setVec_evs (s : State) (u : Nat) (v : VecSt) : (s.setVec u v).evs = s.evs := rfl
@[simp] theorem State.setVec_irq (s : State) (u : Nat) (v : VecSt) : (s.setVec u v).irq = s.irq := rfl
@[simp] theorem State.setVec_mem (s : State) (u : Nat) (v : VecSt) : (s.setVec u v).mem = s.mem := rfl
@[simp] theorem State.setVec_tim (s : State) (u : Nat) (v : VecSt) : (s.setVec u v).tim = s.tim := rfl
@[simp] theorem State.setVec_seqs (s : State) (u : Nat) (v : VecSt) : (s.setVec u v).seqs = s.seqs := rfl
@[simp] theorem State.setVec_slices (s : State) (u : Nat) (v : VecSt) : (s.setVec u v).slices = s.slices := rfl
@[simp] theorem State.setVec_legs (s : State) (u : Nat) (v : VecSt) : (s.setVec u v).legs = s.legs := rfl
@[simp] theorem State.setVec_links (s : State) (u : Nat) (v : VecSt) : (s.setVec u v).links = s.links := rfl
@[simp] theorem State.setVec_boards (s : State) (u : Nat) (v : VecSt) : (s.setVec u v).boards = s.boards := rfl
@[simp] theorem State.setVec_cans (s : State) (u : Nat) (v : VecSt) : (s.setVec u v).cans = s.cans := rfl
theorem State.setVec_vecs (s : State) (u : Nat) (v : VecSt) : (s.setVec u v).vecs = tabSet (fun _ => VecSt.init) s.vecs u v := rfl
@[simp] theorem State.setVec_poss (s : State) (u : Nat) (v : VecSt) : (s.setVec u v).poss = s.poss := rfl
@[simp] theorem State.setVec_keep (s : State) (u : Nat) (v : VecSt) : (s.setVec u v).keep = s.keep := rfl
@[simp] theorem State.setVec_gfes (s : State) (u : Nat) (v : VecSt) : (s.setVec u v).gfes = s.gfes := rfl
@[simp] theorem State.setVec_gpar (s : State) (u : Nat) (v : VecSt) : (s.setVec u v).gpar = s.gpar := rfl
@[simp] theorem State.setVec_snd (s : State) (u : Nat) (v : VecSt) : (s.setVec u v).snd = s.snd := rfl
@[simp] theorem State.setVec_twin (s : State) (u : Nat) (v : VecSt) : (s.setVec u v).twin = s.twin := rfl
@[simp] theorem State.setVec_holds (s : State) (u : Nat) (v : VecSt) : (s.setVec u v).holds = s.holds := rfl
@[simp] theorem State.setVec_rec_ (s : State) (u : Nat) (v : VecSt) : (s.setVec u v).rec_ = s.rec_ := rfl
@[simp] theorem State.setVec_sdf (s : State) (u : Nat) (v : VecSt) : (s.setVec u v).sdf = s.sdf := rfl
@[simp] theorem State.setVec_prot (s : State) (u : Nat) (v : VecSt) : (s.setVec u v).prot = s.prot := rfl
@[simp] theorem State.setVec_wear (s : State) (u : Nat) (v : VecSt) : (s.setVec u v).wear = s.wear := rfl
@[simp] theorem State.setVec_pdm (s : State) (u : Nat) (v : VecSt) : (s.setVec u v).pdm = s.pdm := rfl
@[simp] theorem State.setVec_pairs (s : State) (u : Nat) (v : VecSt) : (s.setVec u v).pairs = s.pairs := rfl
@[simp] theorem State.setVec_sars (s : State) (u : Nat) (v : VecSt) : (s.setVec u v).sars = s.sars := rfl
@[simp] theorem State.setVec_ce (s : State) (u : Nat) (v : VecSt) : (s.setVec u v).ce = s.ce := rfl
@[simp] theorem State.setVec_aux (s : State) (u : Nat) (v : VecSt) : (s.setVec u v).aux = s.aux := rfl
@[simp] theorem State.setVec_eth (s : State) (u : Nat) (v : VecSt) : (s.setVec u v).eth = s.eth := rfl
@[simp] theorem State.setVec_isl (s : State) (u : Nat) (v : VecSt) : (s.setVec u v).isl = s.isl := rfl
@[simp] theorem State.setVec_pmu (s : State) (u : Nat) (v : VecSt) : (s.setVec u v).pmu = s.pmu := rfl
@[simp] theorem State.setVec_tap (s : State) (u : Nat) (v : VecSt) : (s.setVec u v).tap = s.tap := rfl
@[simp] theorem State.setVec_iom (s : State) (u : Nat) (v : VecSt) : (s.setVec u v).iom = s.iom := rfl
@[simp] theorem State.setVec_fry (s : State) (u : Nat) (v : VecSt) : (s.setVec u v).fry = s.fry := rfl
@[simp] theorem State.setVec_boot (s : State) (u : Nat) (v : VecSt) : (s.setVec u v).boot = s.boot := rfl
@[simp] theorem State.setVec_uli (s : State) (u : Nat) (v : VecSt) : (s.setVec u v).uli = s.uli := rfl
@[simp] theorem State.setVec_dev (s : State) (u : Nat) (v : VecSt) : (s.setVec u v).dev = s.dev := rfl
@[simp] theorem State.setVec_free (s : State) (u : Nat) (v : VecSt) : (s.setVec u v).free = s.free := rfl
@[simp] theorem State.setVec_pending (s : State) (u : Nat) (v : VecSt) : (s.setVec u v).pending = s.pending := rfl

/-! `setPos` changes `poss` alone. -/

@[simp] theorem State.setPos_clk (s : State) (k : Nat) (v : PosSt) : (s.setPos k v).clk = s.clk := rfl
@[simp] theorem State.setPos_regs (s : State) (k : Nat) (v : PosSt) : (s.setPos k v).regs = s.regs := rfl
@[simp] theorem State.setPos_raised (s : State) (k : Nat) (v : PosSt) : (s.setPos k v).raised = s.raised := rfl
@[simp] theorem State.setPos_bus (s : State) (k : Nat) (v : PosSt) : (s.setPos k v).bus = s.bus := rfl
@[simp] theorem State.setPos_sig (s : State) (k : Nat) (v : PosSt) : (s.setPos k v).sig = s.sig := rfl
@[simp] theorem State.setPos_evs (s : State) (k : Nat) (v : PosSt) : (s.setPos k v).evs = s.evs := rfl
@[simp] theorem State.setPos_irq (s : State) (k : Nat) (v : PosSt) : (s.setPos k v).irq = s.irq := rfl
@[simp] theorem State.setPos_mem (s : State) (k : Nat) (v : PosSt) : (s.setPos k v).mem = s.mem := rfl
@[simp] theorem State.setPos_tim (s : State) (k : Nat) (v : PosSt) : (s.setPos k v).tim = s.tim := rfl
@[simp] theorem State.setPos_seqs (s : State) (k : Nat) (v : PosSt) : (s.setPos k v).seqs = s.seqs := rfl
@[simp] theorem State.setPos_slices (s : State) (k : Nat) (v : PosSt) : (s.setPos k v).slices = s.slices := rfl
@[simp] theorem State.setPos_legs (s : State) (k : Nat) (v : PosSt) : (s.setPos k v).legs = s.legs := rfl
@[simp] theorem State.setPos_links (s : State) (k : Nat) (v : PosSt) : (s.setPos k v).links = s.links := rfl
@[simp] theorem State.setPos_boards (s : State) (k : Nat) (v : PosSt) : (s.setPos k v).boards = s.boards := rfl
@[simp] theorem State.setPos_cans (s : State) (k : Nat) (v : PosSt) : (s.setPos k v).cans = s.cans := rfl
@[simp] theorem State.setPos_vecs (s : State) (k : Nat) (v : PosSt) : (s.setPos k v).vecs = s.vecs := rfl
theorem State.setPos_poss (s : State) (k : Nat) (v : PosSt) : (s.setPos k v).poss = tabSet (fun _ => PosSt.init) s.poss k v := rfl
@[simp] theorem State.setPos_keep (s : State) (k : Nat) (v : PosSt) : (s.setPos k v).keep = s.keep := rfl
@[simp] theorem State.setPos_gfes (s : State) (k : Nat) (v : PosSt) : (s.setPos k v).gfes = s.gfes := rfl
@[simp] theorem State.setPos_gpar (s : State) (k : Nat) (v : PosSt) : (s.setPos k v).gpar = s.gpar := rfl
@[simp] theorem State.setPos_snd (s : State) (k : Nat) (v : PosSt) : (s.setPos k v).snd = s.snd := rfl
@[simp] theorem State.setPos_twin (s : State) (k : Nat) (v : PosSt) : (s.setPos k v).twin = s.twin := rfl
@[simp] theorem State.setPos_holds (s : State) (k : Nat) (v : PosSt) : (s.setPos k v).holds = s.holds := rfl
@[simp] theorem State.setPos_rec_ (s : State) (k : Nat) (v : PosSt) : (s.setPos k v).rec_ = s.rec_ := rfl
@[simp] theorem State.setPos_sdf (s : State) (k : Nat) (v : PosSt) : (s.setPos k v).sdf = s.sdf := rfl
@[simp] theorem State.setPos_prot (s : State) (k : Nat) (v : PosSt) : (s.setPos k v).prot = s.prot := rfl
@[simp] theorem State.setPos_wear (s : State) (k : Nat) (v : PosSt) : (s.setPos k v).wear = s.wear := rfl
@[simp] theorem State.setPos_pdm (s : State) (k : Nat) (v : PosSt) : (s.setPos k v).pdm = s.pdm := rfl
@[simp] theorem State.setPos_pairs (s : State) (k : Nat) (v : PosSt) : (s.setPos k v).pairs = s.pairs := rfl
@[simp] theorem State.setPos_sars (s : State) (k : Nat) (v : PosSt) : (s.setPos k v).sars = s.sars := rfl
@[simp] theorem State.setPos_ce (s : State) (k : Nat) (v : PosSt) : (s.setPos k v).ce = s.ce := rfl
@[simp] theorem State.setPos_aux (s : State) (k : Nat) (v : PosSt) : (s.setPos k v).aux = s.aux := rfl
@[simp] theorem State.setPos_eth (s : State) (k : Nat) (v : PosSt) : (s.setPos k v).eth = s.eth := rfl
@[simp] theorem State.setPos_isl (s : State) (k : Nat) (v : PosSt) : (s.setPos k v).isl = s.isl := rfl
@[simp] theorem State.setPos_pmu (s : State) (k : Nat) (v : PosSt) : (s.setPos k v).pmu = s.pmu := rfl
@[simp] theorem State.setPos_tap (s : State) (k : Nat) (v : PosSt) : (s.setPos k v).tap = s.tap := rfl
@[simp] theorem State.setPos_iom (s : State) (k : Nat) (v : PosSt) : (s.setPos k v).iom = s.iom := rfl
@[simp] theorem State.setPos_fry (s : State) (k : Nat) (v : PosSt) : (s.setPos k v).fry = s.fry := rfl
@[simp] theorem State.setPos_boot (s : State) (k : Nat) (v : PosSt) : (s.setPos k v).boot = s.boot := rfl
@[simp] theorem State.setPos_uli (s : State) (k : Nat) (v : PosSt) : (s.setPos k v).uli = s.uli := rfl
@[simp] theorem State.setPos_dev (s : State) (k : Nat) (v : PosSt) : (s.setPos k v).dev = s.dev := rfl
@[simp] theorem State.setPos_free (s : State) (k : Nat) (v : PosSt) : (s.setPos k v).free = s.free := rfl
@[simp] theorem State.setPos_pending (s : State) (k : Nat) (v : PosSt) : (s.setPos k v).pending = s.pending := rfl

/-! `setKept` changes `keep` alone. -/

@[simp] theorem State.setKept_clk (s : State) (n : Nat) (v : KeepSt) : (s.setKept n v).clk = s.clk := rfl
@[simp] theorem State.setKept_regs (s : State) (n : Nat) (v : KeepSt) : (s.setKept n v).regs = s.regs := rfl
@[simp] theorem State.setKept_raised (s : State) (n : Nat) (v : KeepSt) : (s.setKept n v).raised = s.raised := rfl
@[simp] theorem State.setKept_bus (s : State) (n : Nat) (v : KeepSt) : (s.setKept n v).bus = s.bus := rfl
@[simp] theorem State.setKept_sig (s : State) (n : Nat) (v : KeepSt) : (s.setKept n v).sig = s.sig := rfl
@[simp] theorem State.setKept_evs (s : State) (n : Nat) (v : KeepSt) : (s.setKept n v).evs = s.evs := rfl
@[simp] theorem State.setKept_irq (s : State) (n : Nat) (v : KeepSt) : (s.setKept n v).irq = s.irq := rfl
@[simp] theorem State.setKept_mem (s : State) (n : Nat) (v : KeepSt) : (s.setKept n v).mem = s.mem := rfl
@[simp] theorem State.setKept_tim (s : State) (n : Nat) (v : KeepSt) : (s.setKept n v).tim = s.tim := rfl
@[simp] theorem State.setKept_seqs (s : State) (n : Nat) (v : KeepSt) : (s.setKept n v).seqs = s.seqs := rfl
@[simp] theorem State.setKept_slices (s : State) (n : Nat) (v : KeepSt) : (s.setKept n v).slices = s.slices := rfl
@[simp] theorem State.setKept_legs (s : State) (n : Nat) (v : KeepSt) : (s.setKept n v).legs = s.legs := rfl
@[simp] theorem State.setKept_links (s : State) (n : Nat) (v : KeepSt) : (s.setKept n v).links = s.links := rfl
@[simp] theorem State.setKept_boards (s : State) (n : Nat) (v : KeepSt) : (s.setKept n v).boards = s.boards := rfl
@[simp] theorem State.setKept_cans (s : State) (n : Nat) (v : KeepSt) : (s.setKept n v).cans = s.cans := rfl
@[simp] theorem State.setKept_vecs (s : State) (n : Nat) (v : KeepSt) : (s.setKept n v).vecs = s.vecs := rfl
@[simp] theorem State.setKept_poss (s : State) (n : Nat) (v : KeepSt) : (s.setKept n v).poss = s.poss := rfl
theorem State.setKept_keep (s : State) (n : Nat) (v : KeepSt) : (s.setKept n v).keep = tabSet (fun _ => KeepSt.init) s.keep n v := rfl
@[simp] theorem State.setKept_gfes (s : State) (n : Nat) (v : KeepSt) : (s.setKept n v).gfes = s.gfes := rfl
@[simp] theorem State.setKept_gpar (s : State) (n : Nat) (v : KeepSt) : (s.setKept n v).gpar = s.gpar := rfl
@[simp] theorem State.setKept_snd (s : State) (n : Nat) (v : KeepSt) : (s.setKept n v).snd = s.snd := rfl
@[simp] theorem State.setKept_twin (s : State) (n : Nat) (v : KeepSt) : (s.setKept n v).twin = s.twin := rfl
@[simp] theorem State.setKept_holds (s : State) (n : Nat) (v : KeepSt) : (s.setKept n v).holds = s.holds := rfl
@[simp] theorem State.setKept_rec_ (s : State) (n : Nat) (v : KeepSt) : (s.setKept n v).rec_ = s.rec_ := rfl
@[simp] theorem State.setKept_sdf (s : State) (n : Nat) (v : KeepSt) : (s.setKept n v).sdf = s.sdf := rfl
@[simp] theorem State.setKept_prot (s : State) (n : Nat) (v : KeepSt) : (s.setKept n v).prot = s.prot := rfl
@[simp] theorem State.setKept_wear (s : State) (n : Nat) (v : KeepSt) : (s.setKept n v).wear = s.wear := rfl
@[simp] theorem State.setKept_pdm (s : State) (n : Nat) (v : KeepSt) : (s.setKept n v).pdm = s.pdm := rfl
@[simp] theorem State.setKept_pairs (s : State) (n : Nat) (v : KeepSt) : (s.setKept n v).pairs = s.pairs := rfl
@[simp] theorem State.setKept_sars (s : State) (n : Nat) (v : KeepSt) : (s.setKept n v).sars = s.sars := rfl
@[simp] theorem State.setKept_ce (s : State) (n : Nat) (v : KeepSt) : (s.setKept n v).ce = s.ce := rfl
@[simp] theorem State.setKept_aux (s : State) (n : Nat) (v : KeepSt) : (s.setKept n v).aux = s.aux := rfl
@[simp] theorem State.setKept_eth (s : State) (n : Nat) (v : KeepSt) : (s.setKept n v).eth = s.eth := rfl
@[simp] theorem State.setKept_isl (s : State) (n : Nat) (v : KeepSt) : (s.setKept n v).isl = s.isl := rfl
@[simp] theorem State.setKept_pmu (s : State) (n : Nat) (v : KeepSt) : (s.setKept n v).pmu = s.pmu := rfl
@[simp] theorem State.setKept_tap (s : State) (n : Nat) (v : KeepSt) : (s.setKept n v).tap = s.tap := rfl
@[simp] theorem State.setKept_iom (s : State) (n : Nat) (v : KeepSt) : (s.setKept n v).iom = s.iom := rfl
@[simp] theorem State.setKept_fry (s : State) (n : Nat) (v : KeepSt) : (s.setKept n v).fry = s.fry := rfl
@[simp] theorem State.setKept_boot (s : State) (n : Nat) (v : KeepSt) : (s.setKept n v).boot = s.boot := rfl
@[simp] theorem State.setKept_uli (s : State) (n : Nat) (v : KeepSt) : (s.setKept n v).uli = s.uli := rfl
@[simp] theorem State.setKept_dev (s : State) (n : Nat) (v : KeepSt) : (s.setKept n v).dev = s.dev := rfl
@[simp] theorem State.setKept_free (s : State) (n : Nat) (v : KeepSt) : (s.setKept n v).free = s.free := rfl
@[simp] theorem State.setKept_pending (s : State) (n : Nat) (v : KeepSt) : (s.setKept n v).pending = s.pending := rfl

/-! `setGfe` changes `gfes` alone. -/

@[simp] theorem State.setGfe_clk (s : State) (n : Nat) (v : GfeSt) : (s.setGfe n v).clk = s.clk := rfl
@[simp] theorem State.setGfe_regs (s : State) (n : Nat) (v : GfeSt) : (s.setGfe n v).regs = s.regs := rfl
@[simp] theorem State.setGfe_raised (s : State) (n : Nat) (v : GfeSt) : (s.setGfe n v).raised = s.raised := rfl
@[simp] theorem State.setGfe_bus (s : State) (n : Nat) (v : GfeSt) : (s.setGfe n v).bus = s.bus := rfl
@[simp] theorem State.setGfe_sig (s : State) (n : Nat) (v : GfeSt) : (s.setGfe n v).sig = s.sig := rfl
@[simp] theorem State.setGfe_evs (s : State) (n : Nat) (v : GfeSt) : (s.setGfe n v).evs = s.evs := rfl
@[simp] theorem State.setGfe_irq (s : State) (n : Nat) (v : GfeSt) : (s.setGfe n v).irq = s.irq := rfl
@[simp] theorem State.setGfe_mem (s : State) (n : Nat) (v : GfeSt) : (s.setGfe n v).mem = s.mem := rfl
@[simp] theorem State.setGfe_tim (s : State) (n : Nat) (v : GfeSt) : (s.setGfe n v).tim = s.tim := rfl
@[simp] theorem State.setGfe_seqs (s : State) (n : Nat) (v : GfeSt) : (s.setGfe n v).seqs = s.seqs := rfl
@[simp] theorem State.setGfe_slices (s : State) (n : Nat) (v : GfeSt) : (s.setGfe n v).slices = s.slices := rfl
@[simp] theorem State.setGfe_legs (s : State) (n : Nat) (v : GfeSt) : (s.setGfe n v).legs = s.legs := rfl
@[simp] theorem State.setGfe_links (s : State) (n : Nat) (v : GfeSt) : (s.setGfe n v).links = s.links := rfl
@[simp] theorem State.setGfe_boards (s : State) (n : Nat) (v : GfeSt) : (s.setGfe n v).boards = s.boards := rfl
@[simp] theorem State.setGfe_cans (s : State) (n : Nat) (v : GfeSt) : (s.setGfe n v).cans = s.cans := rfl
@[simp] theorem State.setGfe_vecs (s : State) (n : Nat) (v : GfeSt) : (s.setGfe n v).vecs = s.vecs := rfl
@[simp] theorem State.setGfe_poss (s : State) (n : Nat) (v : GfeSt) : (s.setGfe n v).poss = s.poss := rfl
@[simp] theorem State.setGfe_keep (s : State) (n : Nat) (v : GfeSt) : (s.setGfe n v).keep = s.keep := rfl
theorem State.setGfe_gfes (s : State) (n : Nat) (v : GfeSt) : (s.setGfe n v).gfes = tabSet (fun _ => GfeSt.init) s.gfes n v := rfl
@[simp] theorem State.setGfe_gpar (s : State) (n : Nat) (v : GfeSt) : (s.setGfe n v).gpar = s.gpar := rfl
@[simp] theorem State.setGfe_snd (s : State) (n : Nat) (v : GfeSt) : (s.setGfe n v).snd = s.snd := rfl
@[simp] theorem State.setGfe_twin (s : State) (n : Nat) (v : GfeSt) : (s.setGfe n v).twin = s.twin := rfl
@[simp] theorem State.setGfe_holds (s : State) (n : Nat) (v : GfeSt) : (s.setGfe n v).holds = s.holds := rfl
@[simp] theorem State.setGfe_rec_ (s : State) (n : Nat) (v : GfeSt) : (s.setGfe n v).rec_ = s.rec_ := rfl
@[simp] theorem State.setGfe_sdf (s : State) (n : Nat) (v : GfeSt) : (s.setGfe n v).sdf = s.sdf := rfl
@[simp] theorem State.setGfe_prot (s : State) (n : Nat) (v : GfeSt) : (s.setGfe n v).prot = s.prot := rfl
@[simp] theorem State.setGfe_wear (s : State) (n : Nat) (v : GfeSt) : (s.setGfe n v).wear = s.wear := rfl
@[simp] theorem State.setGfe_pdm (s : State) (n : Nat) (v : GfeSt) : (s.setGfe n v).pdm = s.pdm := rfl
@[simp] theorem State.setGfe_pairs (s : State) (n : Nat) (v : GfeSt) : (s.setGfe n v).pairs = s.pairs := rfl
@[simp] theorem State.setGfe_sars (s : State) (n : Nat) (v : GfeSt) : (s.setGfe n v).sars = s.sars := rfl
@[simp] theorem State.setGfe_ce (s : State) (n : Nat) (v : GfeSt) : (s.setGfe n v).ce = s.ce := rfl
@[simp] theorem State.setGfe_aux (s : State) (n : Nat) (v : GfeSt) : (s.setGfe n v).aux = s.aux := rfl
@[simp] theorem State.setGfe_eth (s : State) (n : Nat) (v : GfeSt) : (s.setGfe n v).eth = s.eth := rfl
@[simp] theorem State.setGfe_isl (s : State) (n : Nat) (v : GfeSt) : (s.setGfe n v).isl = s.isl := rfl
@[simp] theorem State.setGfe_pmu (s : State) (n : Nat) (v : GfeSt) : (s.setGfe n v).pmu = s.pmu := rfl
@[simp] theorem State.setGfe_tap (s : State) (n : Nat) (v : GfeSt) : (s.setGfe n v).tap = s.tap := rfl
@[simp] theorem State.setGfe_iom (s : State) (n : Nat) (v : GfeSt) : (s.setGfe n v).iom = s.iom := rfl
@[simp] theorem State.setGfe_fry (s : State) (n : Nat) (v : GfeSt) : (s.setGfe n v).fry = s.fry := rfl
@[simp] theorem State.setGfe_boot (s : State) (n : Nat) (v : GfeSt) : (s.setGfe n v).boot = s.boot := rfl
@[simp] theorem State.setGfe_uli (s : State) (n : Nat) (v : GfeSt) : (s.setGfe n v).uli = s.uli := rfl
@[simp] theorem State.setGfe_dev (s : State) (n : Nat) (v : GfeSt) : (s.setGfe n v).dev = s.dev := rfl
@[simp] theorem State.setGfe_free (s : State) (n : Nat) (v : GfeSt) : (s.setGfe n v).free = s.free := rfl
@[simp] theorem State.setGfe_pending (s : State) (n : Nat) (v : GfeSt) : (s.setGfe n v).pending = s.pending := rfl

/-! `setSar` changes `sars` alone. -/

@[simp] theorem State.setSar_clk (s : State) (h : Nat) (v : SarSt) : (s.setSar h v).clk = s.clk := rfl
@[simp] theorem State.setSar_regs (s : State) (h : Nat) (v : SarSt) : (s.setSar h v).regs = s.regs := rfl
@[simp] theorem State.setSar_raised (s : State) (h : Nat) (v : SarSt) : (s.setSar h v).raised = s.raised := rfl
@[simp] theorem State.setSar_bus (s : State) (h : Nat) (v : SarSt) : (s.setSar h v).bus = s.bus := rfl
@[simp] theorem State.setSar_sig (s : State) (h : Nat) (v : SarSt) : (s.setSar h v).sig = s.sig := rfl
@[simp] theorem State.setSar_evs (s : State) (h : Nat) (v : SarSt) : (s.setSar h v).evs = s.evs := rfl
@[simp] theorem State.setSar_irq (s : State) (h : Nat) (v : SarSt) : (s.setSar h v).irq = s.irq := rfl
@[simp] theorem State.setSar_mem (s : State) (h : Nat) (v : SarSt) : (s.setSar h v).mem = s.mem := rfl
@[simp] theorem State.setSar_tim (s : State) (h : Nat) (v : SarSt) : (s.setSar h v).tim = s.tim := rfl
@[simp] theorem State.setSar_seqs (s : State) (h : Nat) (v : SarSt) : (s.setSar h v).seqs = s.seqs := rfl
@[simp] theorem State.setSar_slices (s : State) (h : Nat) (v : SarSt) : (s.setSar h v).slices = s.slices := rfl
@[simp] theorem State.setSar_legs (s : State) (h : Nat) (v : SarSt) : (s.setSar h v).legs = s.legs := rfl
@[simp] theorem State.setSar_links (s : State) (h : Nat) (v : SarSt) : (s.setSar h v).links = s.links := rfl
@[simp] theorem State.setSar_boards (s : State) (h : Nat) (v : SarSt) : (s.setSar h v).boards = s.boards := rfl
@[simp] theorem State.setSar_cans (s : State) (h : Nat) (v : SarSt) : (s.setSar h v).cans = s.cans := rfl
@[simp] theorem State.setSar_vecs (s : State) (h : Nat) (v : SarSt) : (s.setSar h v).vecs = s.vecs := rfl
@[simp] theorem State.setSar_poss (s : State) (h : Nat) (v : SarSt) : (s.setSar h v).poss = s.poss := rfl
@[simp] theorem State.setSar_keep (s : State) (h : Nat) (v : SarSt) : (s.setSar h v).keep = s.keep := rfl
@[simp] theorem State.setSar_gfes (s : State) (h : Nat) (v : SarSt) : (s.setSar h v).gfes = s.gfes := rfl
@[simp] theorem State.setSar_gpar (s : State) (h : Nat) (v : SarSt) : (s.setSar h v).gpar = s.gpar := rfl
@[simp] theorem State.setSar_snd (s : State) (h : Nat) (v : SarSt) : (s.setSar h v).snd = s.snd := rfl
@[simp] theorem State.setSar_twin (s : State) (h : Nat) (v : SarSt) : (s.setSar h v).twin = s.twin := rfl
@[simp] theorem State.setSar_holds (s : State) (h : Nat) (v : SarSt) : (s.setSar h v).holds = s.holds := rfl
@[simp] theorem State.setSar_rec_ (s : State) (h : Nat) (v : SarSt) : (s.setSar h v).rec_ = s.rec_ := rfl
@[simp] theorem State.setSar_sdf (s : State) (h : Nat) (v : SarSt) : (s.setSar h v).sdf = s.sdf := rfl
@[simp] theorem State.setSar_prot (s : State) (h : Nat) (v : SarSt) : (s.setSar h v).prot = s.prot := rfl
@[simp] theorem State.setSar_wear (s : State) (h : Nat) (v : SarSt) : (s.setSar h v).wear = s.wear := rfl
@[simp] theorem State.setSar_pdm (s : State) (h : Nat) (v : SarSt) : (s.setSar h v).pdm = s.pdm := rfl
@[simp] theorem State.setSar_pairs (s : State) (h : Nat) (v : SarSt) : (s.setSar h v).pairs = s.pairs := rfl
theorem State.setSar_sars (s : State) (h : Nat) (v : SarSt) : (s.setSar h v).sars = tabSet (fun _ => SarSt.init) s.sars h v := rfl
@[simp] theorem State.setSar_ce (s : State) (h : Nat) (v : SarSt) : (s.setSar h v).ce = s.ce := rfl
@[simp] theorem State.setSar_aux (s : State) (h : Nat) (v : SarSt) : (s.setSar h v).aux = s.aux := rfl
@[simp] theorem State.setSar_eth (s : State) (h : Nat) (v : SarSt) : (s.setSar h v).eth = s.eth := rfl
@[simp] theorem State.setSar_isl (s : State) (h : Nat) (v : SarSt) : (s.setSar h v).isl = s.isl := rfl
@[simp] theorem State.setSar_pmu (s : State) (h : Nat) (v : SarSt) : (s.setSar h v).pmu = s.pmu := rfl
@[simp] theorem State.setSar_tap (s : State) (h : Nat) (v : SarSt) : (s.setSar h v).tap = s.tap := rfl
@[simp] theorem State.setSar_iom (s : State) (h : Nat) (v : SarSt) : (s.setSar h v).iom = s.iom := rfl
@[simp] theorem State.setSar_fry (s : State) (h : Nat) (v : SarSt) : (s.setSar h v).fry = s.fry := rfl
@[simp] theorem State.setSar_boot (s : State) (h : Nat) (v : SarSt) : (s.setSar h v).boot = s.boot := rfl
@[simp] theorem State.setSar_uli (s : State) (h : Nat) (v : SarSt) : (s.setSar h v).uli = s.uli := rfl
@[simp] theorem State.setSar_dev (s : State) (h : Nat) (v : SarSt) : (s.setSar h v).dev = s.dev := rfl
@[simp] theorem State.setSar_free (s : State) (h : Nat) (v : SarSt) : (s.setSar h v).free = s.free := rfl
@[simp] theorem State.setSar_pending (s : State) (h : Nat) (v : SarSt) : (s.setSar h v).pending = s.pending := rfl

/-! `setPair` changes `pairs` alone. -/

@[simp] theorem State.setPair_clk (s : State) (p : Nat) (v : PairSt) : (s.setPair p v).clk = s.clk := rfl
@[simp] theorem State.setPair_regs (s : State) (p : Nat) (v : PairSt) : (s.setPair p v).regs = s.regs := rfl
@[simp] theorem State.setPair_raised (s : State) (p : Nat) (v : PairSt) : (s.setPair p v).raised = s.raised := rfl
@[simp] theorem State.setPair_bus (s : State) (p : Nat) (v : PairSt) : (s.setPair p v).bus = s.bus := rfl
@[simp] theorem State.setPair_sig (s : State) (p : Nat) (v : PairSt) : (s.setPair p v).sig = s.sig := rfl
@[simp] theorem State.setPair_evs (s : State) (p : Nat) (v : PairSt) : (s.setPair p v).evs = s.evs := rfl
@[simp] theorem State.setPair_irq (s : State) (p : Nat) (v : PairSt) : (s.setPair p v).irq = s.irq := rfl
@[simp] theorem State.setPair_mem (s : State) (p : Nat) (v : PairSt) : (s.setPair p v).mem = s.mem := rfl
@[simp] theorem State.setPair_tim (s : State) (p : Nat) (v : PairSt) : (s.setPair p v).tim = s.tim := rfl
@[simp] theorem State.setPair_seqs (s : State) (p : Nat) (v : PairSt) : (s.setPair p v).seqs = s.seqs := rfl
@[simp] theorem State.setPair_slices (s : State) (p : Nat) (v : PairSt) : (s.setPair p v).slices = s.slices := rfl
@[simp] theorem State.setPair_legs (s : State) (p : Nat) (v : PairSt) : (s.setPair p v).legs = s.legs := rfl
@[simp] theorem State.setPair_links (s : State) (p : Nat) (v : PairSt) : (s.setPair p v).links = s.links := rfl
@[simp] theorem State.setPair_boards (s : State) (p : Nat) (v : PairSt) : (s.setPair p v).boards = s.boards := rfl
@[simp] theorem State.setPair_cans (s : State) (p : Nat) (v : PairSt) : (s.setPair p v).cans = s.cans := rfl
@[simp] theorem State.setPair_vecs (s : State) (p : Nat) (v : PairSt) : (s.setPair p v).vecs = s.vecs := rfl
@[simp] theorem State.setPair_poss (s : State) (p : Nat) (v : PairSt) : (s.setPair p v).poss = s.poss := rfl
@[simp] theorem State.setPair_keep (s : State) (p : Nat) (v : PairSt) : (s.setPair p v).keep = s.keep := rfl
@[simp] theorem State.setPair_gfes (s : State) (p : Nat) (v : PairSt) : (s.setPair p v).gfes = s.gfes := rfl
@[simp] theorem State.setPair_gpar (s : State) (p : Nat) (v : PairSt) : (s.setPair p v).gpar = s.gpar := rfl
@[simp] theorem State.setPair_snd (s : State) (p : Nat) (v : PairSt) : (s.setPair p v).snd = s.snd := rfl
@[simp] theorem State.setPair_twin (s : State) (p : Nat) (v : PairSt) : (s.setPair p v).twin = s.twin := rfl
@[simp] theorem State.setPair_holds (s : State) (p : Nat) (v : PairSt) : (s.setPair p v).holds = s.holds := rfl
@[simp] theorem State.setPair_rec_ (s : State) (p : Nat) (v : PairSt) : (s.setPair p v).rec_ = s.rec_ := rfl
@[simp] theorem State.setPair_sdf (s : State) (p : Nat) (v : PairSt) : (s.setPair p v).sdf = s.sdf := rfl
@[simp] theorem State.setPair_prot (s : State) (p : Nat) (v : PairSt) : (s.setPair p v).prot = s.prot := rfl
@[simp] theorem State.setPair_wear (s : State) (p : Nat) (v : PairSt) : (s.setPair p v).wear = s.wear := rfl
@[simp] theorem State.setPair_pdm (s : State) (p : Nat) (v : PairSt) : (s.setPair p v).pdm = s.pdm := rfl
theorem State.setPair_pairs (s : State) (p : Nat) (v : PairSt) : (s.setPair p v).pairs = tabSet (fun _ => PairSt.init) s.pairs p v := rfl
@[simp] theorem State.setPair_sars (s : State) (p : Nat) (v : PairSt) : (s.setPair p v).sars = s.sars := rfl
@[simp] theorem State.setPair_ce (s : State) (p : Nat) (v : PairSt) : (s.setPair p v).ce = s.ce := rfl
@[simp] theorem State.setPair_aux (s : State) (p : Nat) (v : PairSt) : (s.setPair p v).aux = s.aux := rfl
@[simp] theorem State.setPair_eth (s : State) (p : Nat) (v : PairSt) : (s.setPair p v).eth = s.eth := rfl
@[simp] theorem State.setPair_isl (s : State) (p : Nat) (v : PairSt) : (s.setPair p v).isl = s.isl := rfl
@[simp] theorem State.setPair_pmu (s : State) (p : Nat) (v : PairSt) : (s.setPair p v).pmu = s.pmu := rfl
@[simp] theorem State.setPair_tap (s : State) (p : Nat) (v : PairSt) : (s.setPair p v).tap = s.tap := rfl
@[simp] theorem State.setPair_iom (s : State) (p : Nat) (v : PairSt) : (s.setPair p v).iom = s.iom := rfl
@[simp] theorem State.setPair_fry (s : State) (p : Nat) (v : PairSt) : (s.setPair p v).fry = s.fry := rfl
@[simp] theorem State.setPair_boot (s : State) (p : Nat) (v : PairSt) : (s.setPair p v).boot = s.boot := rfl
@[simp] theorem State.setPair_uli (s : State) (p : Nat) (v : PairSt) : (s.setPair p v).uli = s.uli := rfl
@[simp] theorem State.setPair_dev (s : State) (p : Nat) (v : PairSt) : (s.setPair p v).dev = s.dev := rfl
@[simp] theorem State.setPair_free (s : State) (p : Nat) (v : PairSt) : (s.setPair p v).free = s.free := rfl
@[simp] theorem State.setPair_pending (s : State) (p : Nat) (v : PairSt) : (s.setPair p v).pending = s.pending := rfl

/-! `setMot` changes `aux` alone. -/

@[simp] theorem State.setMot_clk (s : State) (m : Nat) (v : AuxSt) : (s.setMot m v).clk = s.clk := rfl
@[simp] theorem State.setMot_regs (s : State) (m : Nat) (v : AuxSt) : (s.setMot m v).regs = s.regs := rfl
@[simp] theorem State.setMot_raised (s : State) (m : Nat) (v : AuxSt) : (s.setMot m v).raised = s.raised := rfl
@[simp] theorem State.setMot_bus (s : State) (m : Nat) (v : AuxSt) : (s.setMot m v).bus = s.bus := rfl
@[simp] theorem State.setMot_sig (s : State) (m : Nat) (v : AuxSt) : (s.setMot m v).sig = s.sig := rfl
@[simp] theorem State.setMot_evs (s : State) (m : Nat) (v : AuxSt) : (s.setMot m v).evs = s.evs := rfl
@[simp] theorem State.setMot_irq (s : State) (m : Nat) (v : AuxSt) : (s.setMot m v).irq = s.irq := rfl
@[simp] theorem State.setMot_mem (s : State) (m : Nat) (v : AuxSt) : (s.setMot m v).mem = s.mem := rfl
@[simp] theorem State.setMot_tim (s : State) (m : Nat) (v : AuxSt) : (s.setMot m v).tim = s.tim := rfl
@[simp] theorem State.setMot_seqs (s : State) (m : Nat) (v : AuxSt) : (s.setMot m v).seqs = s.seqs := rfl
@[simp] theorem State.setMot_slices (s : State) (m : Nat) (v : AuxSt) : (s.setMot m v).slices = s.slices := rfl
@[simp] theorem State.setMot_legs (s : State) (m : Nat) (v : AuxSt) : (s.setMot m v).legs = s.legs := rfl
@[simp] theorem State.setMot_links (s : State) (m : Nat) (v : AuxSt) : (s.setMot m v).links = s.links := rfl
@[simp] theorem State.setMot_boards (s : State) (m : Nat) (v : AuxSt) : (s.setMot m v).boards = s.boards := rfl
@[simp] theorem State.setMot_cans (s : State) (m : Nat) (v : AuxSt) : (s.setMot m v).cans = s.cans := rfl
@[simp] theorem State.setMot_vecs (s : State) (m : Nat) (v : AuxSt) : (s.setMot m v).vecs = s.vecs := rfl
@[simp] theorem State.setMot_poss (s : State) (m : Nat) (v : AuxSt) : (s.setMot m v).poss = s.poss := rfl
@[simp] theorem State.setMot_keep (s : State) (m : Nat) (v : AuxSt) : (s.setMot m v).keep = s.keep := rfl
@[simp] theorem State.setMot_gfes (s : State) (m : Nat) (v : AuxSt) : (s.setMot m v).gfes = s.gfes := rfl
@[simp] theorem State.setMot_gpar (s : State) (m : Nat) (v : AuxSt) : (s.setMot m v).gpar = s.gpar := rfl
@[simp] theorem State.setMot_snd (s : State) (m : Nat) (v : AuxSt) : (s.setMot m v).snd = s.snd := rfl
@[simp] theorem State.setMot_twin (s : State) (m : Nat) (v : AuxSt) : (s.setMot m v).twin = s.twin := rfl
@[simp] theorem State.setMot_holds (s : State) (m : Nat) (v : AuxSt) : (s.setMot m v).holds = s.holds := rfl
@[simp] theorem State.setMot_rec_ (s : State) (m : Nat) (v : AuxSt) : (s.setMot m v).rec_ = s.rec_ := rfl
@[simp] theorem State.setMot_sdf (s : State) (m : Nat) (v : AuxSt) : (s.setMot m v).sdf = s.sdf := rfl
@[simp] theorem State.setMot_prot (s : State) (m : Nat) (v : AuxSt) : (s.setMot m v).prot = s.prot := rfl
@[simp] theorem State.setMot_wear (s : State) (m : Nat) (v : AuxSt) : (s.setMot m v).wear = s.wear := rfl
@[simp] theorem State.setMot_pdm (s : State) (m : Nat) (v : AuxSt) : (s.setMot m v).pdm = s.pdm := rfl
@[simp] theorem State.setMot_pairs (s : State) (m : Nat) (v : AuxSt) : (s.setMot m v).pairs = s.pairs := rfl
@[simp] theorem State.setMot_sars (s : State) (m : Nat) (v : AuxSt) : (s.setMot m v).sars = s.sars := rfl
@[simp] theorem State.setMot_ce (s : State) (m : Nat) (v : AuxSt) : (s.setMot m v).ce = s.ce := rfl
theorem State.setMot_aux (s : State) (m : Nat) (v : AuxSt) : (s.setMot m v).aux = { s.aux with motors := tabSet (fun _ => AuxSt.init) s.aux.motors m v } := rfl
@[simp] theorem State.setMot_eth (s : State) (m : Nat) (v : AuxSt) : (s.setMot m v).eth = s.eth := rfl
@[simp] theorem State.setMot_isl (s : State) (m : Nat) (v : AuxSt) : (s.setMot m v).isl = s.isl := rfl
@[simp] theorem State.setMot_pmu (s : State) (m : Nat) (v : AuxSt) : (s.setMot m v).pmu = s.pmu := rfl
@[simp] theorem State.setMot_tap (s : State) (m : Nat) (v : AuxSt) : (s.setMot m v).tap = s.tap := rfl
@[simp] theorem State.setMot_iom (s : State) (m : Nat) (v : AuxSt) : (s.setMot m v).iom = s.iom := rfl
@[simp] theorem State.setMot_fry (s : State) (m : Nat) (v : AuxSt) : (s.setMot m v).fry = s.fry := rfl
@[simp] theorem State.setMot_boot (s : State) (m : Nat) (v : AuxSt) : (s.setMot m v).boot = s.boot := rfl
@[simp] theorem State.setMot_uli (s : State) (m : Nat) (v : AuxSt) : (s.setMot m v).uli = s.uli := rfl
@[simp] theorem State.setMot_dev (s : State) (m : Nat) (v : AuxSt) : (s.setMot m v).dev = s.dev := rfl
@[simp] theorem State.setMot_free (s : State) (m : Nat) (v : AuxSt) : (s.setMot m v).free = s.free := rfl
@[simp] theorem State.setMot_pending (s : State) (m : Nat) (v : AuxSt) : (s.setMot m v).pending = s.pending := rfl

/-! `setCap` changes `rec_` alone. -/

@[simp] theorem State.setCap_clk (s : State) (u : Nat) (v : CapSt) : (s.setCap u v).clk = s.clk := rfl
@[simp] theorem State.setCap_regs (s : State) (u : Nat) (v : CapSt) : (s.setCap u v).regs = s.regs := rfl
@[simp] theorem State.setCap_raised (s : State) (u : Nat) (v : CapSt) : (s.setCap u v).raised = s.raised := rfl
@[simp] theorem State.setCap_bus (s : State) (u : Nat) (v : CapSt) : (s.setCap u v).bus = s.bus := rfl
@[simp] theorem State.setCap_sig (s : State) (u : Nat) (v : CapSt) : (s.setCap u v).sig = s.sig := rfl
@[simp] theorem State.setCap_evs (s : State) (u : Nat) (v : CapSt) : (s.setCap u v).evs = s.evs := rfl
@[simp] theorem State.setCap_irq (s : State) (u : Nat) (v : CapSt) : (s.setCap u v).irq = s.irq := rfl
@[simp] theorem State.setCap_mem (s : State) (u : Nat) (v : CapSt) : (s.setCap u v).mem = s.mem := rfl
@[simp] theorem State.setCap_tim (s : State) (u : Nat) (v : CapSt) : (s.setCap u v).tim = s.tim := rfl
@[simp] theorem State.setCap_seqs (s : State) (u : Nat) (v : CapSt) : (s.setCap u v).seqs = s.seqs := rfl
@[simp] theorem State.setCap_slices (s : State) (u : Nat) (v : CapSt) : (s.setCap u v).slices = s.slices := rfl
@[simp] theorem State.setCap_legs (s : State) (u : Nat) (v : CapSt) : (s.setCap u v).legs = s.legs := rfl
@[simp] theorem State.setCap_links (s : State) (u : Nat) (v : CapSt) : (s.setCap u v).links = s.links := rfl
@[simp] theorem State.setCap_boards (s : State) (u : Nat) (v : CapSt) : (s.setCap u v).boards = s.boards := rfl
@[simp] theorem State.setCap_cans (s : State) (u : Nat) (v : CapSt) : (s.setCap u v).cans = s.cans := rfl
@[simp] theorem State.setCap_vecs (s : State) (u : Nat) (v : CapSt) : (s.setCap u v).vecs = s.vecs := rfl
@[simp] theorem State.setCap_poss (s : State) (u : Nat) (v : CapSt) : (s.setCap u v).poss = s.poss := rfl
@[simp] theorem State.setCap_keep (s : State) (u : Nat) (v : CapSt) : (s.setCap u v).keep = s.keep := rfl
@[simp] theorem State.setCap_gfes (s : State) (u : Nat) (v : CapSt) : (s.setCap u v).gfes = s.gfes := rfl
@[simp] theorem State.setCap_gpar (s : State) (u : Nat) (v : CapSt) : (s.setCap u v).gpar = s.gpar := rfl
@[simp] theorem State.setCap_snd (s : State) (u : Nat) (v : CapSt) : (s.setCap u v).snd = s.snd := rfl
@[simp] theorem State.setCap_twin (s : State) (u : Nat) (v : CapSt) : (s.setCap u v).twin = s.twin := rfl
@[simp] theorem State.setCap_holds (s : State) (u : Nat) (v : CapSt) : (s.setCap u v).holds = s.holds := rfl
theorem State.setCap_rec_ (s : State) (u : Nat) (v : CapSt) : (s.setCap u v).rec_ = { s.rec_ with caps := tabSet (fun _ => CapSt.init) s.rec_.caps u v } := rfl
@[simp] theorem State.setCap_sdf (s : State) (u : Nat) (v : CapSt) : (s.setCap u v).sdf = s.sdf := rfl
@[simp] theorem State.setCap_prot (s : State) (u : Nat) (v : CapSt) : (s.setCap u v).prot = s.prot := rfl
@[simp] theorem State.setCap_wear (s : State) (u : Nat) (v : CapSt) : (s.setCap u v).wear = s.wear := rfl
@[simp] theorem State.setCap_pdm (s : State) (u : Nat) (v : CapSt) : (s.setCap u v).pdm = s.pdm := rfl
@[simp] theorem State.setCap_pairs (s : State) (u : Nat) (v : CapSt) : (s.setCap u v).pairs = s.pairs := rfl
@[simp] theorem State.setCap_sars (s : State) (u : Nat) (v : CapSt) : (s.setCap u v).sars = s.sars := rfl
@[simp] theorem State.setCap_ce (s : State) (u : Nat) (v : CapSt) : (s.setCap u v).ce = s.ce := rfl
@[simp] theorem State.setCap_aux (s : State) (u : Nat) (v : CapSt) : (s.setCap u v).aux = s.aux := rfl
@[simp] theorem State.setCap_eth (s : State) (u : Nat) (v : CapSt) : (s.setCap u v).eth = s.eth := rfl
@[simp] theorem State.setCap_isl (s : State) (u : Nat) (v : CapSt) : (s.setCap u v).isl = s.isl := rfl
@[simp] theorem State.setCap_pmu (s : State) (u : Nat) (v : CapSt) : (s.setCap u v).pmu = s.pmu := rfl
@[simp] theorem State.setCap_tap (s : State) (u : Nat) (v : CapSt) : (s.setCap u v).tap = s.tap := rfl
@[simp] theorem State.setCap_iom (s : State) (u : Nat) (v : CapSt) : (s.setCap u v).iom = s.iom := rfl
@[simp] theorem State.setCap_fry (s : State) (u : Nat) (v : CapSt) : (s.setCap u v).fry = s.fry := rfl
@[simp] theorem State.setCap_boot (s : State) (u : Nat) (v : CapSt) : (s.setCap u v).boot = s.boot := rfl
@[simp] theorem State.setCap_uli (s : State) (u : Nat) (v : CapSt) : (s.setCap u v).uli = s.uli := rfl
@[simp] theorem State.setCap_dev (s : State) (u : Nat) (v : CapSt) : (s.setCap u v).dev = s.dev := rfl
@[simp] theorem State.setCap_free (s : State) (u : Nat) (v : CapSt) : (s.setCap u v).free = s.free := rfl
@[simp] theorem State.setCap_pending (s : State) (u : Nat) (v : CapSt) : (s.setCap u v).pending = s.pending := rfl

/-! `setRecChan` changes `rec_` alone. -/

@[simp] theorem State.setRecChan_clk (s : State) (c : Nat) (v : RecChan) : (s.setRecChan c v).clk = s.clk := rfl
@[simp] theorem State.setRecChan_regs (s : State) (c : Nat) (v : RecChan) : (s.setRecChan c v).regs = s.regs := rfl
@[simp] theorem State.setRecChan_raised (s : State) (c : Nat) (v : RecChan) : (s.setRecChan c v).raised = s.raised := rfl
@[simp] theorem State.setRecChan_bus (s : State) (c : Nat) (v : RecChan) : (s.setRecChan c v).bus = s.bus := rfl
@[simp] theorem State.setRecChan_sig (s : State) (c : Nat) (v : RecChan) : (s.setRecChan c v).sig = s.sig := rfl
@[simp] theorem State.setRecChan_evs (s : State) (c : Nat) (v : RecChan) : (s.setRecChan c v).evs = s.evs := rfl
@[simp] theorem State.setRecChan_irq (s : State) (c : Nat) (v : RecChan) : (s.setRecChan c v).irq = s.irq := rfl
@[simp] theorem State.setRecChan_mem (s : State) (c : Nat) (v : RecChan) : (s.setRecChan c v).mem = s.mem := rfl
@[simp] theorem State.setRecChan_tim (s : State) (c : Nat) (v : RecChan) : (s.setRecChan c v).tim = s.tim := rfl
@[simp] theorem State.setRecChan_seqs (s : State) (c : Nat) (v : RecChan) : (s.setRecChan c v).seqs = s.seqs := rfl
@[simp] theorem State.setRecChan_slices (s : State) (c : Nat) (v : RecChan) : (s.setRecChan c v).slices = s.slices := rfl
@[simp] theorem State.setRecChan_legs (s : State) (c : Nat) (v : RecChan) : (s.setRecChan c v).legs = s.legs := rfl
@[simp] theorem State.setRecChan_links (s : State) (c : Nat) (v : RecChan) : (s.setRecChan c v).links = s.links := rfl
@[simp] theorem State.setRecChan_boards (s : State) (c : Nat) (v : RecChan) : (s.setRecChan c v).boards = s.boards := rfl
@[simp] theorem State.setRecChan_cans (s : State) (c : Nat) (v : RecChan) : (s.setRecChan c v).cans = s.cans := rfl
@[simp] theorem State.setRecChan_vecs (s : State) (c : Nat) (v : RecChan) : (s.setRecChan c v).vecs = s.vecs := rfl
@[simp] theorem State.setRecChan_poss (s : State) (c : Nat) (v : RecChan) : (s.setRecChan c v).poss = s.poss := rfl
@[simp] theorem State.setRecChan_keep (s : State) (c : Nat) (v : RecChan) : (s.setRecChan c v).keep = s.keep := rfl
@[simp] theorem State.setRecChan_gfes (s : State) (c : Nat) (v : RecChan) : (s.setRecChan c v).gfes = s.gfes := rfl
@[simp] theorem State.setRecChan_gpar (s : State) (c : Nat) (v : RecChan) : (s.setRecChan c v).gpar = s.gpar := rfl
@[simp] theorem State.setRecChan_snd (s : State) (c : Nat) (v : RecChan) : (s.setRecChan c v).snd = s.snd := rfl
@[simp] theorem State.setRecChan_twin (s : State) (c : Nat) (v : RecChan) : (s.setRecChan c v).twin = s.twin := rfl
@[simp] theorem State.setRecChan_holds (s : State) (c : Nat) (v : RecChan) : (s.setRecChan c v).holds = s.holds := rfl
theorem State.setRecChan_rec_ (s : State) (c : Nat) (v : RecChan) : (s.setRecChan c v).rec_ = { s.rec_ with chans := tabSet (fun _ => ⟨[], false⟩) s.rec_.chans c v } := rfl
@[simp] theorem State.setRecChan_sdf (s : State) (c : Nat) (v : RecChan) : (s.setRecChan c v).sdf = s.sdf := rfl
@[simp] theorem State.setRecChan_prot (s : State) (c : Nat) (v : RecChan) : (s.setRecChan c v).prot = s.prot := rfl
@[simp] theorem State.setRecChan_wear (s : State) (c : Nat) (v : RecChan) : (s.setRecChan c v).wear = s.wear := rfl
@[simp] theorem State.setRecChan_pdm (s : State) (c : Nat) (v : RecChan) : (s.setRecChan c v).pdm = s.pdm := rfl
@[simp] theorem State.setRecChan_pairs (s : State) (c : Nat) (v : RecChan) : (s.setRecChan c v).pairs = s.pairs := rfl
@[simp] theorem State.setRecChan_sars (s : State) (c : Nat) (v : RecChan) : (s.setRecChan c v).sars = s.sars := rfl
@[simp] theorem State.setRecChan_ce (s : State) (c : Nat) (v : RecChan) : (s.setRecChan c v).ce = s.ce := rfl
@[simp] theorem State.setRecChan_aux (s : State) (c : Nat) (v : RecChan) : (s.setRecChan c v).aux = s.aux := rfl
@[simp] theorem State.setRecChan_eth (s : State) (c : Nat) (v : RecChan) : (s.setRecChan c v).eth = s.eth := rfl
@[simp] theorem State.setRecChan_isl (s : State) (c : Nat) (v : RecChan) : (s.setRecChan c v).isl = s.isl := rfl
@[simp] theorem State.setRecChan_pmu (s : State) (c : Nat) (v : RecChan) : (s.setRecChan c v).pmu = s.pmu := rfl
@[simp] theorem State.setRecChan_tap (s : State) (c : Nat) (v : RecChan) : (s.setRecChan c v).tap = s.tap := rfl
@[simp] theorem State.setRecChan_iom (s : State) (c : Nat) (v : RecChan) : (s.setRecChan c v).iom = s.iom := rfl
@[simp] theorem State.setRecChan_fry (s : State) (c : Nat) (v : RecChan) : (s.setRecChan c v).fry = s.fry := rfl
@[simp] theorem State.setRecChan_boot (s : State) (c : Nat) (v : RecChan) : (s.setRecChan c v).boot = s.boot := rfl
@[simp] theorem State.setRecChan_uli (s : State) (c : Nat) (v : RecChan) : (s.setRecChan c v).uli = s.uli := rfl
@[simp] theorem State.setRecChan_dev (s : State) (c : Nat) (v : RecChan) : (s.setRecChan c v).dev = s.dev := rfl
@[simp] theorem State.setRecChan_free (s : State) (c : Nat) (v : RecChan) : (s.setRecChan c v).free = s.free := rfl
@[simp] theorem State.setRecChan_pending (s : State) (c : Nat) (v : RecChan) : (s.setRecChan c v).pending = s.pending := rfl

/-! `setChain` changes `sdf` alone. -/

@[simp] theorem State.setChain_clk (s : State) (i : Nat) (c : ChainSt) : (s.setChain i c).clk = s.clk := rfl
@[simp] theorem State.setChain_regs (s : State) (i : Nat) (c : ChainSt) : (s.setChain i c).regs = s.regs := rfl
@[simp] theorem State.setChain_raised (s : State) (i : Nat) (c : ChainSt) : (s.setChain i c).raised = s.raised := rfl
@[simp] theorem State.setChain_bus (s : State) (i : Nat) (c : ChainSt) : (s.setChain i c).bus = s.bus := rfl
@[simp] theorem State.setChain_sig (s : State) (i : Nat) (c : ChainSt) : (s.setChain i c).sig = s.sig := rfl
@[simp] theorem State.setChain_evs (s : State) (i : Nat) (c : ChainSt) : (s.setChain i c).evs = s.evs := rfl
@[simp] theorem State.setChain_irq (s : State) (i : Nat) (c : ChainSt) : (s.setChain i c).irq = s.irq := rfl
@[simp] theorem State.setChain_mem (s : State) (i : Nat) (c : ChainSt) : (s.setChain i c).mem = s.mem := rfl
@[simp] theorem State.setChain_tim (s : State) (i : Nat) (c : ChainSt) : (s.setChain i c).tim = s.tim := rfl
@[simp] theorem State.setChain_seqs (s : State) (i : Nat) (c : ChainSt) : (s.setChain i c).seqs = s.seqs := rfl
@[simp] theorem State.setChain_slices (s : State) (i : Nat) (c : ChainSt) : (s.setChain i c).slices = s.slices := rfl
@[simp] theorem State.setChain_legs (s : State) (i : Nat) (c : ChainSt) : (s.setChain i c).legs = s.legs := rfl
@[simp] theorem State.setChain_links (s : State) (i : Nat) (c : ChainSt) : (s.setChain i c).links = s.links := rfl
@[simp] theorem State.setChain_boards (s : State) (i : Nat) (c : ChainSt) : (s.setChain i c).boards = s.boards := rfl
@[simp] theorem State.setChain_cans (s : State) (i : Nat) (c : ChainSt) : (s.setChain i c).cans = s.cans := rfl
@[simp] theorem State.setChain_vecs (s : State) (i : Nat) (c : ChainSt) : (s.setChain i c).vecs = s.vecs := rfl
@[simp] theorem State.setChain_poss (s : State) (i : Nat) (c : ChainSt) : (s.setChain i c).poss = s.poss := rfl
@[simp] theorem State.setChain_keep (s : State) (i : Nat) (c : ChainSt) : (s.setChain i c).keep = s.keep := rfl
@[simp] theorem State.setChain_gfes (s : State) (i : Nat) (c : ChainSt) : (s.setChain i c).gfes = s.gfes := rfl
@[simp] theorem State.setChain_gpar (s : State) (i : Nat) (c : ChainSt) : (s.setChain i c).gpar = s.gpar := rfl
@[simp] theorem State.setChain_snd (s : State) (i : Nat) (c : ChainSt) : (s.setChain i c).snd = s.snd := rfl
@[simp] theorem State.setChain_twin (s : State) (i : Nat) (c : ChainSt) : (s.setChain i c).twin = s.twin := rfl
@[simp] theorem State.setChain_holds (s : State) (i : Nat) (c : ChainSt) : (s.setChain i c).holds = s.holds := rfl
@[simp] theorem State.setChain_rec_ (s : State) (i : Nat) (c : ChainSt) : (s.setChain i c).rec_ = s.rec_ := rfl
theorem State.setChain_sdf (s : State) (i : Nat) (c : ChainSt) : (s.setChain i c).sdf = { s.sdf with chains := tabSet (fun _ => ChainSt.init) s.sdf.chains i c } := rfl
@[simp] theorem State.setChain_prot (s : State) (i : Nat) (c : ChainSt) : (s.setChain i c).prot = s.prot := rfl
@[simp] theorem State.setChain_wear (s : State) (i : Nat) (c : ChainSt) : (s.setChain i c).wear = s.wear := rfl
@[simp] theorem State.setChain_pdm (s : State) (i : Nat) (c : ChainSt) : (s.setChain i c).pdm = s.pdm := rfl
@[simp] theorem State.setChain_pairs (s : State) (i : Nat) (c : ChainSt) : (s.setChain i c).pairs = s.pairs := rfl
@[simp] theorem State.setChain_sars (s : State) (i : Nat) (c : ChainSt) : (s.setChain i c).sars = s.sars := rfl
@[simp] theorem State.setChain_ce (s : State) (i : Nat) (c : ChainSt) : (s.setChain i c).ce = s.ce := rfl
@[simp] theorem State.setChain_aux (s : State) (i : Nat) (c : ChainSt) : (s.setChain i c).aux = s.aux := rfl
@[simp] theorem State.setChain_eth (s : State) (i : Nat) (c : ChainSt) : (s.setChain i c).eth = s.eth := rfl
@[simp] theorem State.setChain_isl (s : State) (i : Nat) (c : ChainSt) : (s.setChain i c).isl = s.isl := rfl
@[simp] theorem State.setChain_pmu (s : State) (i : Nat) (c : ChainSt) : (s.setChain i c).pmu = s.pmu := rfl
@[simp] theorem State.setChain_tap (s : State) (i : Nat) (c : ChainSt) : (s.setChain i c).tap = s.tap := rfl
@[simp] theorem State.setChain_iom (s : State) (i : Nat) (c : ChainSt) : (s.setChain i c).iom = s.iom := rfl
@[simp] theorem State.setChain_fry (s : State) (i : Nat) (c : ChainSt) : (s.setChain i c).fry = s.fry := rfl
@[simp] theorem State.setChain_boot (s : State) (i : Nat) (c : ChainSt) : (s.setChain i c).boot = s.boot := rfl
@[simp] theorem State.setChain_uli (s : State) (i : Nat) (c : ChainSt) : (s.setChain i c).uli = s.uli := rfl
@[simp] theorem State.setChain_dev (s : State) (i : Nat) (c : ChainSt) : (s.setChain i c).dev = s.dev := rfl
@[simp] theorem State.setChain_free (s : State) (i : Nat) (c : ChainSt) : (s.setChain i c).free = s.free := rfl
@[simp] theorem State.setChain_pending (s : State) (i : Nat) (c : ChainSt) : (s.setChain i c).pending = s.pending := rfl

/-! `setDc` changes `prot` alone. -/

@[simp] theorem State.setDc_clk (s : State) (n : Nat) (d : DcSt) : (s.setDc n d).clk = s.clk := rfl
@[simp] theorem State.setDc_regs (s : State) (n : Nat) (d : DcSt) : (s.setDc n d).regs = s.regs := rfl
@[simp] theorem State.setDc_raised (s : State) (n : Nat) (d : DcSt) : (s.setDc n d).raised = s.raised := rfl
@[simp] theorem State.setDc_bus (s : State) (n : Nat) (d : DcSt) : (s.setDc n d).bus = s.bus := rfl
@[simp] theorem State.setDc_sig (s : State) (n : Nat) (d : DcSt) : (s.setDc n d).sig = s.sig := rfl
@[simp] theorem State.setDc_evs (s : State) (n : Nat) (d : DcSt) : (s.setDc n d).evs = s.evs := rfl
@[simp] theorem State.setDc_irq (s : State) (n : Nat) (d : DcSt) : (s.setDc n d).irq = s.irq := rfl
@[simp] theorem State.setDc_mem (s : State) (n : Nat) (d : DcSt) : (s.setDc n d).mem = s.mem := rfl
@[simp] theorem State.setDc_tim (s : State) (n : Nat) (d : DcSt) : (s.setDc n d).tim = s.tim := rfl
@[simp] theorem State.setDc_seqs (s : State) (n : Nat) (d : DcSt) : (s.setDc n d).seqs = s.seqs := rfl
@[simp] theorem State.setDc_slices (s : State) (n : Nat) (d : DcSt) : (s.setDc n d).slices = s.slices := rfl
@[simp] theorem State.setDc_legs (s : State) (n : Nat) (d : DcSt) : (s.setDc n d).legs = s.legs := rfl
@[simp] theorem State.setDc_links (s : State) (n : Nat) (d : DcSt) : (s.setDc n d).links = s.links := rfl
@[simp] theorem State.setDc_boards (s : State) (n : Nat) (d : DcSt) : (s.setDc n d).boards = s.boards := rfl
@[simp] theorem State.setDc_cans (s : State) (n : Nat) (d : DcSt) : (s.setDc n d).cans = s.cans := rfl
@[simp] theorem State.setDc_vecs (s : State) (n : Nat) (d : DcSt) : (s.setDc n d).vecs = s.vecs := rfl
@[simp] theorem State.setDc_poss (s : State) (n : Nat) (d : DcSt) : (s.setDc n d).poss = s.poss := rfl
@[simp] theorem State.setDc_keep (s : State) (n : Nat) (d : DcSt) : (s.setDc n d).keep = s.keep := rfl
@[simp] theorem State.setDc_gfes (s : State) (n : Nat) (d : DcSt) : (s.setDc n d).gfes = s.gfes := rfl
@[simp] theorem State.setDc_gpar (s : State) (n : Nat) (d : DcSt) : (s.setDc n d).gpar = s.gpar := rfl
@[simp] theorem State.setDc_snd (s : State) (n : Nat) (d : DcSt) : (s.setDc n d).snd = s.snd := rfl
@[simp] theorem State.setDc_twin (s : State) (n : Nat) (d : DcSt) : (s.setDc n d).twin = s.twin := rfl
@[simp] theorem State.setDc_holds (s : State) (n : Nat) (d : DcSt) : (s.setDc n d).holds = s.holds := rfl
@[simp] theorem State.setDc_rec_ (s : State) (n : Nat) (d : DcSt) : (s.setDc n d).rec_ = s.rec_ := rfl
@[simp] theorem State.setDc_sdf (s : State) (n : Nat) (d : DcSt) : (s.setDc n d).sdf = s.sdf := rfl
theorem State.setDc_prot (s : State) (n : Nat) (d : DcSt) : (s.setDc n d).prot = { s.prot with dcs := tabSet (fun _ => DcSt.init) s.prot.dcs n d } := rfl
@[simp] theorem State.setDc_wear (s : State) (n : Nat) (d : DcSt) : (s.setDc n d).wear = s.wear := rfl
@[simp] theorem State.setDc_pdm (s : State) (n : Nat) (d : DcSt) : (s.setDc n d).pdm = s.pdm := rfl
@[simp] theorem State.setDc_pairs (s : State) (n : Nat) (d : DcSt) : (s.setDc n d).pairs = s.pairs := rfl
@[simp] theorem State.setDc_sars (s : State) (n : Nat) (d : DcSt) : (s.setDc n d).sars = s.sars := rfl
@[simp] theorem State.setDc_ce (s : State) (n : Nat) (d : DcSt) : (s.setDc n d).ce = s.ce := rfl
@[simp] theorem State.setDc_aux (s : State) (n : Nat) (d : DcSt) : (s.setDc n d).aux = s.aux := rfl
@[simp] theorem State.setDc_eth (s : State) (n : Nat) (d : DcSt) : (s.setDc n d).eth = s.eth := rfl
@[simp] theorem State.setDc_isl (s : State) (n : Nat) (d : DcSt) : (s.setDc n d).isl = s.isl := rfl
@[simp] theorem State.setDc_pmu (s : State) (n : Nat) (d : DcSt) : (s.setDc n d).pmu = s.pmu := rfl
@[simp] theorem State.setDc_tap (s : State) (n : Nat) (d : DcSt) : (s.setDc n d).tap = s.tap := rfl
@[simp] theorem State.setDc_iom (s : State) (n : Nat) (d : DcSt) : (s.setDc n d).iom = s.iom := rfl
@[simp] theorem State.setDc_fry (s : State) (n : Nat) (d : DcSt) : (s.setDc n d).fry = s.fry := rfl
@[simp] theorem State.setDc_boot (s : State) (n : Nat) (d : DcSt) : (s.setDc n d).boot = s.boot := rfl
@[simp] theorem State.setDc_uli (s : State) (n : Nat) (d : DcSt) : (s.setDc n d).uli = s.uli := rfl
@[simp] theorem State.setDc_dev (s : State) (n : Nat) (d : DcSt) : (s.setDc n d).dev = s.dev := rfl
@[simp] theorem State.setDc_free (s : State) (n : Nat) (d : DcSt) : (s.setDc n d).free = s.free := rfl
@[simp] theorem State.setDc_pending (s : State) (n : Nat) (d : DcSt) : (s.setDc n d).pending = s.pending := rfl

/-! `setSrc` changes `prot` alone. -/

@[simp] theorem State.setSrc_clk (s : State) (x : Nat) (v : SrcSt) : (s.setSrc x v).clk = s.clk := rfl
@[simp] theorem State.setSrc_regs (s : State) (x : Nat) (v : SrcSt) : (s.setSrc x v).regs = s.regs := rfl
@[simp] theorem State.setSrc_raised (s : State) (x : Nat) (v : SrcSt) : (s.setSrc x v).raised = s.raised := rfl
@[simp] theorem State.setSrc_bus (s : State) (x : Nat) (v : SrcSt) : (s.setSrc x v).bus = s.bus := rfl
@[simp] theorem State.setSrc_sig (s : State) (x : Nat) (v : SrcSt) : (s.setSrc x v).sig = s.sig := rfl
@[simp] theorem State.setSrc_evs (s : State) (x : Nat) (v : SrcSt) : (s.setSrc x v).evs = s.evs := rfl
@[simp] theorem State.setSrc_irq (s : State) (x : Nat) (v : SrcSt) : (s.setSrc x v).irq = s.irq := rfl
@[simp] theorem State.setSrc_mem (s : State) (x : Nat) (v : SrcSt) : (s.setSrc x v).mem = s.mem := rfl
@[simp] theorem State.setSrc_tim (s : State) (x : Nat) (v : SrcSt) : (s.setSrc x v).tim = s.tim := rfl
@[simp] theorem State.setSrc_seqs (s : State) (x : Nat) (v : SrcSt) : (s.setSrc x v).seqs = s.seqs := rfl
@[simp] theorem State.setSrc_slices (s : State) (x : Nat) (v : SrcSt) : (s.setSrc x v).slices = s.slices := rfl
@[simp] theorem State.setSrc_legs (s : State) (x : Nat) (v : SrcSt) : (s.setSrc x v).legs = s.legs := rfl
@[simp] theorem State.setSrc_links (s : State) (x : Nat) (v : SrcSt) : (s.setSrc x v).links = s.links := rfl
@[simp] theorem State.setSrc_boards (s : State) (x : Nat) (v : SrcSt) : (s.setSrc x v).boards = s.boards := rfl
@[simp] theorem State.setSrc_cans (s : State) (x : Nat) (v : SrcSt) : (s.setSrc x v).cans = s.cans := rfl
@[simp] theorem State.setSrc_vecs (s : State) (x : Nat) (v : SrcSt) : (s.setSrc x v).vecs = s.vecs := rfl
@[simp] theorem State.setSrc_poss (s : State) (x : Nat) (v : SrcSt) : (s.setSrc x v).poss = s.poss := rfl
@[simp] theorem State.setSrc_keep (s : State) (x : Nat) (v : SrcSt) : (s.setSrc x v).keep = s.keep := rfl
@[simp] theorem State.setSrc_gfes (s : State) (x : Nat) (v : SrcSt) : (s.setSrc x v).gfes = s.gfes := rfl
@[simp] theorem State.setSrc_gpar (s : State) (x : Nat) (v : SrcSt) : (s.setSrc x v).gpar = s.gpar := rfl
@[simp] theorem State.setSrc_snd (s : State) (x : Nat) (v : SrcSt) : (s.setSrc x v).snd = s.snd := rfl
@[simp] theorem State.setSrc_twin (s : State) (x : Nat) (v : SrcSt) : (s.setSrc x v).twin = s.twin := rfl
@[simp] theorem State.setSrc_holds (s : State) (x : Nat) (v : SrcSt) : (s.setSrc x v).holds = s.holds := rfl
@[simp] theorem State.setSrc_rec_ (s : State) (x : Nat) (v : SrcSt) : (s.setSrc x v).rec_ = s.rec_ := rfl
@[simp] theorem State.setSrc_sdf (s : State) (x : Nat) (v : SrcSt) : (s.setSrc x v).sdf = s.sdf := rfl
theorem State.setSrc_prot (s : State) (x : Nat) (v : SrcSt) : (s.setSrc x v).prot = { s.prot with srcs := tabSet (fun _ => ⟨0, [], false⟩) s.prot.srcs x v } := rfl
@[simp] theorem State.setSrc_wear (s : State) (x : Nat) (v : SrcSt) : (s.setSrc x v).wear = s.wear := rfl
@[simp] theorem State.setSrc_pdm (s : State) (x : Nat) (v : SrcSt) : (s.setSrc x v).pdm = s.pdm := rfl
@[simp] theorem State.setSrc_pairs (s : State) (x : Nat) (v : SrcSt) : (s.setSrc x v).pairs = s.pairs := rfl
@[simp] theorem State.setSrc_sars (s : State) (x : Nat) (v : SrcSt) : (s.setSrc x v).sars = s.sars := rfl
@[simp] theorem State.setSrc_ce (s : State) (x : Nat) (v : SrcSt) : (s.setSrc x v).ce = s.ce := rfl
@[simp] theorem State.setSrc_aux (s : State) (x : Nat) (v : SrcSt) : (s.setSrc x v).aux = s.aux := rfl
@[simp] theorem State.setSrc_eth (s : State) (x : Nat) (v : SrcSt) : (s.setSrc x v).eth = s.eth := rfl
@[simp] theorem State.setSrc_isl (s : State) (x : Nat) (v : SrcSt) : (s.setSrc x v).isl = s.isl := rfl
@[simp] theorem State.setSrc_pmu (s : State) (x : Nat) (v : SrcSt) : (s.setSrc x v).pmu = s.pmu := rfl
@[simp] theorem State.setSrc_tap (s : State) (x : Nat) (v : SrcSt) : (s.setSrc x v).tap = s.tap := rfl
@[simp] theorem State.setSrc_iom (s : State) (x : Nat) (v : SrcSt) : (s.setSrc x v).iom = s.iom := rfl
@[simp] theorem State.setSrc_fry (s : State) (x : Nat) (v : SrcSt) : (s.setSrc x v).fry = s.fry := rfl
@[simp] theorem State.setSrc_boot (s : State) (x : Nat) (v : SrcSt) : (s.setSrc x v).boot = s.boot := rfl
@[simp] theorem State.setSrc_uli (s : State) (x : Nat) (v : SrcSt) : (s.setSrc x v).uli = s.uli := rfl
@[simp] theorem State.setSrc_dev (s : State) (x : Nat) (v : SrcSt) : (s.setSrc x v).dev = s.dev := rfl
@[simp] theorem State.setSrc_free (s : State) (x : Nat) (v : SrcSt) : (s.setSrc x v).free = s.free := rfl
@[simp] theorem State.setSrc_pending (s : State) (x : Nat) (v : SrcSt) : (s.setSrc x v).pending = s.pending := rfl

/-! `setSmon` changes `prot` alone. -/

@[simp] theorem State.setSmon_clk (s : State) (n : Nat) (v : SmonSt) : (s.setSmon n v).clk = s.clk := rfl
@[simp] theorem State.setSmon_regs (s : State) (n : Nat) (v : SmonSt) : (s.setSmon n v).regs = s.regs := rfl
@[simp] theorem State.setSmon_raised (s : State) (n : Nat) (v : SmonSt) : (s.setSmon n v).raised = s.raised := rfl
@[simp] theorem State.setSmon_bus (s : State) (n : Nat) (v : SmonSt) : (s.setSmon n v).bus = s.bus := rfl
@[simp] theorem State.setSmon_sig (s : State) (n : Nat) (v : SmonSt) : (s.setSmon n v).sig = s.sig := rfl
@[simp] theorem State.setSmon_evs (s : State) (n : Nat) (v : SmonSt) : (s.setSmon n v).evs = s.evs := rfl
@[simp] theorem State.setSmon_irq (s : State) (n : Nat) (v : SmonSt) : (s.setSmon n v).irq = s.irq := rfl
@[simp] theorem State.setSmon_mem (s : State) (n : Nat) (v : SmonSt) : (s.setSmon n v).mem = s.mem := rfl
@[simp] theorem State.setSmon_tim (s : State) (n : Nat) (v : SmonSt) : (s.setSmon n v).tim = s.tim := rfl
@[simp] theorem State.setSmon_seqs (s : State) (n : Nat) (v : SmonSt) : (s.setSmon n v).seqs = s.seqs := rfl
@[simp] theorem State.setSmon_slices (s : State) (n : Nat) (v : SmonSt) : (s.setSmon n v).slices = s.slices := rfl
@[simp] theorem State.setSmon_legs (s : State) (n : Nat) (v : SmonSt) : (s.setSmon n v).legs = s.legs := rfl
@[simp] theorem State.setSmon_links (s : State) (n : Nat) (v : SmonSt) : (s.setSmon n v).links = s.links := rfl
@[simp] theorem State.setSmon_boards (s : State) (n : Nat) (v : SmonSt) : (s.setSmon n v).boards = s.boards := rfl
@[simp] theorem State.setSmon_cans (s : State) (n : Nat) (v : SmonSt) : (s.setSmon n v).cans = s.cans := rfl
@[simp] theorem State.setSmon_vecs (s : State) (n : Nat) (v : SmonSt) : (s.setSmon n v).vecs = s.vecs := rfl
@[simp] theorem State.setSmon_poss (s : State) (n : Nat) (v : SmonSt) : (s.setSmon n v).poss = s.poss := rfl
@[simp] theorem State.setSmon_keep (s : State) (n : Nat) (v : SmonSt) : (s.setSmon n v).keep = s.keep := rfl
@[simp] theorem State.setSmon_gfes (s : State) (n : Nat) (v : SmonSt) : (s.setSmon n v).gfes = s.gfes := rfl
@[simp] theorem State.setSmon_gpar (s : State) (n : Nat) (v : SmonSt) : (s.setSmon n v).gpar = s.gpar := rfl
@[simp] theorem State.setSmon_snd (s : State) (n : Nat) (v : SmonSt) : (s.setSmon n v).snd = s.snd := rfl
@[simp] theorem State.setSmon_twin (s : State) (n : Nat) (v : SmonSt) : (s.setSmon n v).twin = s.twin := rfl
@[simp] theorem State.setSmon_holds (s : State) (n : Nat) (v : SmonSt) : (s.setSmon n v).holds = s.holds := rfl
@[simp] theorem State.setSmon_rec_ (s : State) (n : Nat) (v : SmonSt) : (s.setSmon n v).rec_ = s.rec_ := rfl
@[simp] theorem State.setSmon_sdf (s : State) (n : Nat) (v : SmonSt) : (s.setSmon n v).sdf = s.sdf := rfl
theorem State.setSmon_prot (s : State) (n : Nat) (v : SmonSt) : (s.setSmon n v).prot = { s.prot with smon := tabSet (fun _ => SmonSt.init) s.prot.smon n v } := rfl
@[simp] theorem State.setSmon_wear (s : State) (n : Nat) (v : SmonSt) : (s.setSmon n v).wear = s.wear := rfl
@[simp] theorem State.setSmon_pdm (s : State) (n : Nat) (v : SmonSt) : (s.setSmon n v).pdm = s.pdm := rfl
@[simp] theorem State.setSmon_pairs (s : State) (n : Nat) (v : SmonSt) : (s.setSmon n v).pairs = s.pairs := rfl
@[simp] theorem State.setSmon_sars (s : State) (n : Nat) (v : SmonSt) : (s.setSmon n v).sars = s.sars := rfl
@[simp] theorem State.setSmon_ce (s : State) (n : Nat) (v : SmonSt) : (s.setSmon n v).ce = s.ce := rfl
@[simp] theorem State.setSmon_aux (s : State) (n : Nat) (v : SmonSt) : (s.setSmon n v).aux = s.aux := rfl
@[simp] theorem State.setSmon_eth (s : State) (n : Nat) (v : SmonSt) : (s.setSmon n v).eth = s.eth := rfl
@[simp] theorem State.setSmon_isl (s : State) (n : Nat) (v : SmonSt) : (s.setSmon n v).isl = s.isl := rfl
@[simp] theorem State.setSmon_pmu (s : State) (n : Nat) (v : SmonSt) : (s.setSmon n v).pmu = s.pmu := rfl
@[simp] theorem State.setSmon_tap (s : State) (n : Nat) (v : SmonSt) : (s.setSmon n v).tap = s.tap := rfl
@[simp] theorem State.setSmon_iom (s : State) (n : Nat) (v : SmonSt) : (s.setSmon n v).iom = s.iom := rfl
@[simp] theorem State.setSmon_fry (s : State) (n : Nat) (v : SmonSt) : (s.setSmon n v).fry = s.fry := rfl
@[simp] theorem State.setSmon_boot (s : State) (n : Nat) (v : SmonSt) : (s.setSmon n v).boot = s.boot := rfl
@[simp] theorem State.setSmon_uli (s : State) (n : Nat) (v : SmonSt) : (s.setSmon n v).uli = s.uli := rfl
@[simp] theorem State.setSmon_dev (s : State) (n : Nat) (v : SmonSt) : (s.setSmon n v).dev = s.dev := rfl
@[simp] theorem State.setSmon_free (s : State) (n : Nat) (v : SmonSt) : (s.setSmon n v).free = s.free := rfl
@[simp] theorem State.setSmon_pending (s : State) (n : Nat) (v : SmonSt) : (s.setSmon n v).pending = s.pending := rfl

/-! `setWd` changes `prot` alone. -/

@[simp] theorem State.setWd_clk (s : State) (p : Nat) (v : WdSt) : (s.setWd p v).clk = s.clk := rfl
@[simp] theorem State.setWd_regs (s : State) (p : Nat) (v : WdSt) : (s.setWd p v).regs = s.regs := rfl
@[simp] theorem State.setWd_raised (s : State) (p : Nat) (v : WdSt) : (s.setWd p v).raised = s.raised := rfl
@[simp] theorem State.setWd_bus (s : State) (p : Nat) (v : WdSt) : (s.setWd p v).bus = s.bus := rfl
@[simp] theorem State.setWd_sig (s : State) (p : Nat) (v : WdSt) : (s.setWd p v).sig = s.sig := rfl
@[simp] theorem State.setWd_evs (s : State) (p : Nat) (v : WdSt) : (s.setWd p v).evs = s.evs := rfl
@[simp] theorem State.setWd_irq (s : State) (p : Nat) (v : WdSt) : (s.setWd p v).irq = s.irq := rfl
@[simp] theorem State.setWd_mem (s : State) (p : Nat) (v : WdSt) : (s.setWd p v).mem = s.mem := rfl
@[simp] theorem State.setWd_tim (s : State) (p : Nat) (v : WdSt) : (s.setWd p v).tim = s.tim := rfl
@[simp] theorem State.setWd_seqs (s : State) (p : Nat) (v : WdSt) : (s.setWd p v).seqs = s.seqs := rfl
@[simp] theorem State.setWd_slices (s : State) (p : Nat) (v : WdSt) : (s.setWd p v).slices = s.slices := rfl
@[simp] theorem State.setWd_legs (s : State) (p : Nat) (v : WdSt) : (s.setWd p v).legs = s.legs := rfl
@[simp] theorem State.setWd_links (s : State) (p : Nat) (v : WdSt) : (s.setWd p v).links = s.links := rfl
@[simp] theorem State.setWd_boards (s : State) (p : Nat) (v : WdSt) : (s.setWd p v).boards = s.boards := rfl
@[simp] theorem State.setWd_cans (s : State) (p : Nat) (v : WdSt) : (s.setWd p v).cans = s.cans := rfl
@[simp] theorem State.setWd_vecs (s : State) (p : Nat) (v : WdSt) : (s.setWd p v).vecs = s.vecs := rfl
@[simp] theorem State.setWd_poss (s : State) (p : Nat) (v : WdSt) : (s.setWd p v).poss = s.poss := rfl
@[simp] theorem State.setWd_keep (s : State) (p : Nat) (v : WdSt) : (s.setWd p v).keep = s.keep := rfl
@[simp] theorem State.setWd_gfes (s : State) (p : Nat) (v : WdSt) : (s.setWd p v).gfes = s.gfes := rfl
@[simp] theorem State.setWd_gpar (s : State) (p : Nat) (v : WdSt) : (s.setWd p v).gpar = s.gpar := rfl
@[simp] theorem State.setWd_snd (s : State) (p : Nat) (v : WdSt) : (s.setWd p v).snd = s.snd := rfl
@[simp] theorem State.setWd_twin (s : State) (p : Nat) (v : WdSt) : (s.setWd p v).twin = s.twin := rfl
@[simp] theorem State.setWd_holds (s : State) (p : Nat) (v : WdSt) : (s.setWd p v).holds = s.holds := rfl
@[simp] theorem State.setWd_rec_ (s : State) (p : Nat) (v : WdSt) : (s.setWd p v).rec_ = s.rec_ := rfl
@[simp] theorem State.setWd_sdf (s : State) (p : Nat) (v : WdSt) : (s.setWd p v).sdf = s.sdf := rfl
theorem State.setWd_prot (s : State) (p : Nat) (v : WdSt) : (s.setWd p v).prot = { s.prot with wds := tabSet (fun _ => ⟨0, 0⟩) s.prot.wds p v } := rfl
@[simp] theorem State.setWd_wear (s : State) (p : Nat) (v : WdSt) : (s.setWd p v).wear = s.wear := rfl
@[simp] theorem State.setWd_pdm (s : State) (p : Nat) (v : WdSt) : (s.setWd p v).pdm = s.pdm := rfl
@[simp] theorem State.setWd_pairs (s : State) (p : Nat) (v : WdSt) : (s.setWd p v).pairs = s.pairs := rfl
@[simp] theorem State.setWd_sars (s : State) (p : Nat) (v : WdSt) : (s.setWd p v).sars = s.sars := rfl
@[simp] theorem State.setWd_ce (s : State) (p : Nat) (v : WdSt) : (s.setWd p v).ce = s.ce := rfl
@[simp] theorem State.setWd_aux (s : State) (p : Nat) (v : WdSt) : (s.setWd p v).aux = s.aux := rfl
@[simp] theorem State.setWd_eth (s : State) (p : Nat) (v : WdSt) : (s.setWd p v).eth = s.eth := rfl
@[simp] theorem State.setWd_isl (s : State) (p : Nat) (v : WdSt) : (s.setWd p v).isl = s.isl := rfl
@[simp] theorem State.setWd_pmu (s : State) (p : Nat) (v : WdSt) : (s.setWd p v).pmu = s.pmu := rfl
@[simp] theorem State.setWd_tap (s : State) (p : Nat) (v : WdSt) : (s.setWd p v).tap = s.tap := rfl
@[simp] theorem State.setWd_iom (s : State) (p : Nat) (v : WdSt) : (s.setWd p v).iom = s.iom := rfl
@[simp] theorem State.setWd_fry (s : State) (p : Nat) (v : WdSt) : (s.setWd p v).fry = s.fry := rfl
@[simp] theorem State.setWd_boot (s : State) (p : Nat) (v : WdSt) : (s.setWd p v).boot = s.boot := rfl
@[simp] theorem State.setWd_uli (s : State) (p : Nat) (v : WdSt) : (s.setWd p v).uli = s.uli := rfl
@[simp] theorem State.setWd_dev (s : State) (p : Nat) (v : WdSt) : (s.setWd p v).dev = s.dev := rfl
@[simp] theorem State.setWd_free (s : State) (p : Nat) (v : WdSt) : (s.setWd p v).free = s.free := rfl
@[simp] theorem State.setWd_pending (s : State) (p : Nat) (v : WdSt) : (s.setWd p v).pending = s.pending := rfl

/-! `setIom` changes `iom` alone. -/

@[simp] theorem State.setIom_clk (s : State) (v : IomSt) : (s.setIom v).clk = s.clk := rfl
@[simp] theorem State.setIom_regs (s : State) (v : IomSt) : (s.setIom v).regs = s.regs := rfl
@[simp] theorem State.setIom_raised (s : State) (v : IomSt) : (s.setIom v).raised = s.raised := rfl
@[simp] theorem State.setIom_bus (s : State) (v : IomSt) : (s.setIom v).bus = s.bus := rfl
@[simp] theorem State.setIom_sig (s : State) (v : IomSt) : (s.setIom v).sig = s.sig := rfl
@[simp] theorem State.setIom_evs (s : State) (v : IomSt) : (s.setIom v).evs = s.evs := rfl
@[simp] theorem State.setIom_irq (s : State) (v : IomSt) : (s.setIom v).irq = s.irq := rfl
@[simp] theorem State.setIom_mem (s : State) (v : IomSt) : (s.setIom v).mem = s.mem := rfl
@[simp] theorem State.setIom_tim (s : State) (v : IomSt) : (s.setIom v).tim = s.tim := rfl
@[simp] theorem State.setIom_seqs (s : State) (v : IomSt) : (s.setIom v).seqs = s.seqs := rfl
@[simp] theorem State.setIom_slices (s : State) (v : IomSt) : (s.setIom v).slices = s.slices := rfl
@[simp] theorem State.setIom_legs (s : State) (v : IomSt) : (s.setIom v).legs = s.legs := rfl
@[simp] theorem State.setIom_links (s : State) (v : IomSt) : (s.setIom v).links = s.links := rfl
@[simp] theorem State.setIom_boards (s : State) (v : IomSt) : (s.setIom v).boards = s.boards := rfl
@[simp] theorem State.setIom_cans (s : State) (v : IomSt) : (s.setIom v).cans = s.cans := rfl
@[simp] theorem State.setIom_vecs (s : State) (v : IomSt) : (s.setIom v).vecs = s.vecs := rfl
@[simp] theorem State.setIom_poss (s : State) (v : IomSt) : (s.setIom v).poss = s.poss := rfl
@[simp] theorem State.setIom_keep (s : State) (v : IomSt) : (s.setIom v).keep = s.keep := rfl
@[simp] theorem State.setIom_gfes (s : State) (v : IomSt) : (s.setIom v).gfes = s.gfes := rfl
@[simp] theorem State.setIom_gpar (s : State) (v : IomSt) : (s.setIom v).gpar = s.gpar := rfl
@[simp] theorem State.setIom_snd (s : State) (v : IomSt) : (s.setIom v).snd = s.snd := rfl
@[simp] theorem State.setIom_twin (s : State) (v : IomSt) : (s.setIom v).twin = s.twin := rfl
@[simp] theorem State.setIom_holds (s : State) (v : IomSt) : (s.setIom v).holds = s.holds := rfl
@[simp] theorem State.setIom_rec_ (s : State) (v : IomSt) : (s.setIom v).rec_ = s.rec_ := rfl
@[simp] theorem State.setIom_sdf (s : State) (v : IomSt) : (s.setIom v).sdf = s.sdf := rfl
@[simp] theorem State.setIom_prot (s : State) (v : IomSt) : (s.setIom v).prot = s.prot := rfl
@[simp] theorem State.setIom_wear (s : State) (v : IomSt) : (s.setIom v).wear = s.wear := rfl
@[simp] theorem State.setIom_pdm (s : State) (v : IomSt) : (s.setIom v).pdm = s.pdm := rfl
@[simp] theorem State.setIom_pairs (s : State) (v : IomSt) : (s.setIom v).pairs = s.pairs := rfl
@[simp] theorem State.setIom_sars (s : State) (v : IomSt) : (s.setIom v).sars = s.sars := rfl
@[simp] theorem State.setIom_ce (s : State) (v : IomSt) : (s.setIom v).ce = s.ce := rfl
@[simp] theorem State.setIom_aux (s : State) (v : IomSt) : (s.setIom v).aux = s.aux := rfl
@[simp] theorem State.setIom_eth (s : State) (v : IomSt) : (s.setIom v).eth = s.eth := rfl
@[simp] theorem State.setIom_isl (s : State) (v : IomSt) : (s.setIom v).isl = s.isl := rfl
@[simp] theorem State.setIom_pmu (s : State) (v : IomSt) : (s.setIom v).pmu = s.pmu := rfl
@[simp] theorem State.setIom_tap (s : State) (v : IomSt) : (s.setIom v).tap = s.tap := rfl
theorem State.setIom_iom (s : State) (v : IomSt) : (s.setIom v).iom = v := rfl
@[simp] theorem State.setIom_fry (s : State) (v : IomSt) : (s.setIom v).fry = s.fry := rfl
@[simp] theorem State.setIom_boot (s : State) (v : IomSt) : (s.setIom v).boot = s.boot := rfl
@[simp] theorem State.setIom_uli (s : State) (v : IomSt) : (s.setIom v).uli = s.uli := rfl
@[simp] theorem State.setIom_dev (s : State) (v : IomSt) : (s.setIom v).dev = s.dev := rfl
@[simp] theorem State.setIom_free (s : State) (v : IomSt) : (s.setIom v).free = s.free := rfl
@[simp] theorem State.setIom_pending (s : State) (v : IomSt) : (s.setIom v).pending = s.pending := rfl

/-! `setFq` changes `fry` alone. -/

@[simp] theorem State.setFq_clk (s : State) (q : Nat) (v : FryQ) : (s.setFq q v).clk = s.clk := rfl
@[simp] theorem State.setFq_regs (s : State) (q : Nat) (v : FryQ) : (s.setFq q v).regs = s.regs := rfl
@[simp] theorem State.setFq_raised (s : State) (q : Nat) (v : FryQ) : (s.setFq q v).raised = s.raised := rfl
@[simp] theorem State.setFq_bus (s : State) (q : Nat) (v : FryQ) : (s.setFq q v).bus = s.bus := rfl
@[simp] theorem State.setFq_sig (s : State) (q : Nat) (v : FryQ) : (s.setFq q v).sig = s.sig := rfl
@[simp] theorem State.setFq_evs (s : State) (q : Nat) (v : FryQ) : (s.setFq q v).evs = s.evs := rfl
@[simp] theorem State.setFq_irq (s : State) (q : Nat) (v : FryQ) : (s.setFq q v).irq = s.irq := rfl
@[simp] theorem State.setFq_mem (s : State) (q : Nat) (v : FryQ) : (s.setFq q v).mem = s.mem := rfl
@[simp] theorem State.setFq_tim (s : State) (q : Nat) (v : FryQ) : (s.setFq q v).tim = s.tim := rfl
@[simp] theorem State.setFq_seqs (s : State) (q : Nat) (v : FryQ) : (s.setFq q v).seqs = s.seqs := rfl
@[simp] theorem State.setFq_slices (s : State) (q : Nat) (v : FryQ) : (s.setFq q v).slices = s.slices := rfl
@[simp] theorem State.setFq_legs (s : State) (q : Nat) (v : FryQ) : (s.setFq q v).legs = s.legs := rfl
@[simp] theorem State.setFq_links (s : State) (q : Nat) (v : FryQ) : (s.setFq q v).links = s.links := rfl
@[simp] theorem State.setFq_boards (s : State) (q : Nat) (v : FryQ) : (s.setFq q v).boards = s.boards := rfl
@[simp] theorem State.setFq_cans (s : State) (q : Nat) (v : FryQ) : (s.setFq q v).cans = s.cans := rfl
@[simp] theorem State.setFq_vecs (s : State) (q : Nat) (v : FryQ) : (s.setFq q v).vecs = s.vecs := rfl
@[simp] theorem State.setFq_poss (s : State) (q : Nat) (v : FryQ) : (s.setFq q v).poss = s.poss := rfl
@[simp] theorem State.setFq_keep (s : State) (q : Nat) (v : FryQ) : (s.setFq q v).keep = s.keep := rfl
@[simp] theorem State.setFq_gfes (s : State) (q : Nat) (v : FryQ) : (s.setFq q v).gfes = s.gfes := rfl
@[simp] theorem State.setFq_gpar (s : State) (q : Nat) (v : FryQ) : (s.setFq q v).gpar = s.gpar := rfl
@[simp] theorem State.setFq_snd (s : State) (q : Nat) (v : FryQ) : (s.setFq q v).snd = s.snd := rfl
@[simp] theorem State.setFq_twin (s : State) (q : Nat) (v : FryQ) : (s.setFq q v).twin = s.twin := rfl
@[simp] theorem State.setFq_holds (s : State) (q : Nat) (v : FryQ) : (s.setFq q v).holds = s.holds := rfl
@[simp] theorem State.setFq_rec_ (s : State) (q : Nat) (v : FryQ) : (s.setFq q v).rec_ = s.rec_ := rfl
@[simp] theorem State.setFq_sdf (s : State) (q : Nat) (v : FryQ) : (s.setFq q v).sdf = s.sdf := rfl
@[simp] theorem State.setFq_prot (s : State) (q : Nat) (v : FryQ) : (s.setFq q v).prot = s.prot := rfl
@[simp] theorem State.setFq_wear (s : State) (q : Nat) (v : FryQ) : (s.setFq q v).wear = s.wear := rfl
@[simp] theorem State.setFq_pdm (s : State) (q : Nat) (v : FryQ) : (s.setFq q v).pdm = s.pdm := rfl
@[simp] theorem State.setFq_pairs (s : State) (q : Nat) (v : FryQ) : (s.setFq q v).pairs = s.pairs := rfl
@[simp] theorem State.setFq_sars (s : State) (q : Nat) (v : FryQ) : (s.setFq q v).sars = s.sars := rfl
@[simp] theorem State.setFq_ce (s : State) (q : Nat) (v : FryQ) : (s.setFq q v).ce = s.ce := rfl
@[simp] theorem State.setFq_aux (s : State) (q : Nat) (v : FryQ) : (s.setFq q v).aux = s.aux := rfl
@[simp] theorem State.setFq_eth (s : State) (q : Nat) (v : FryQ) : (s.setFq q v).eth = s.eth := rfl
@[simp] theorem State.setFq_isl (s : State) (q : Nat) (v : FryQ) : (s.setFq q v).isl = s.isl := rfl
@[simp] theorem State.setFq_pmu (s : State) (q : Nat) (v : FryQ) : (s.setFq q v).pmu = s.pmu := rfl
@[simp] theorem State.setFq_tap (s : State) (q : Nat) (v : FryQ) : (s.setFq q v).tap = s.tap := rfl
@[simp] theorem State.setFq_iom (s : State) (q : Nat) (v : FryQ) : (s.setFq q v).iom = s.iom := rfl
theorem State.setFq_fry (s : State) (q : Nat) (v : FryQ) : (s.setFq q v).fry = { s.fry with qs := tabSet (fun _ => FryQ.init) s.fry.qs q v } := rfl
@[simp] theorem State.setFq_boot (s : State) (q : Nat) (v : FryQ) : (s.setFq q v).boot = s.boot := rfl
@[simp] theorem State.setFq_uli (s : State) (q : Nat) (v : FryQ) : (s.setFq q v).uli = s.uli := rfl
@[simp] theorem State.setFq_dev (s : State) (q : Nat) (v : FryQ) : (s.setFq q v).dev = s.dev := rfl
@[simp] theorem State.setFq_free (s : State) (q : Nat) (v : FryQ) : (s.setFq q v).free = s.free := rfl
@[simp] theorem State.setFq_pending (s : State) (q : Nat) (v : FryQ) : (s.setFq q v).pending = s.pending := rfl

/-! `setBoot` changes `boot` alone. -/

@[simp] theorem State.setBoot_clk (s : State) (b : BootSt) : (s.setBoot b).clk = s.clk := rfl
@[simp] theorem State.setBoot_regs (s : State) (b : BootSt) : (s.setBoot b).regs = s.regs := rfl
@[simp] theorem State.setBoot_raised (s : State) (b : BootSt) : (s.setBoot b).raised = s.raised := rfl
@[simp] theorem State.setBoot_bus (s : State) (b : BootSt) : (s.setBoot b).bus = s.bus := rfl
@[simp] theorem State.setBoot_sig (s : State) (b : BootSt) : (s.setBoot b).sig = s.sig := rfl
@[simp] theorem State.setBoot_evs (s : State) (b : BootSt) : (s.setBoot b).evs = s.evs := rfl
@[simp] theorem State.setBoot_irq (s : State) (b : BootSt) : (s.setBoot b).irq = s.irq := rfl
@[simp] theorem State.setBoot_mem (s : State) (b : BootSt) : (s.setBoot b).mem = s.mem := rfl
@[simp] theorem State.setBoot_tim (s : State) (b : BootSt) : (s.setBoot b).tim = s.tim := rfl
@[simp] theorem State.setBoot_seqs (s : State) (b : BootSt) : (s.setBoot b).seqs = s.seqs := rfl
@[simp] theorem State.setBoot_slices (s : State) (b : BootSt) : (s.setBoot b).slices = s.slices := rfl
@[simp] theorem State.setBoot_legs (s : State) (b : BootSt) : (s.setBoot b).legs = s.legs := rfl
@[simp] theorem State.setBoot_links (s : State) (b : BootSt) : (s.setBoot b).links = s.links := rfl
@[simp] theorem State.setBoot_boards (s : State) (b : BootSt) : (s.setBoot b).boards = s.boards := rfl
@[simp] theorem State.setBoot_cans (s : State) (b : BootSt) : (s.setBoot b).cans = s.cans := rfl
@[simp] theorem State.setBoot_vecs (s : State) (b : BootSt) : (s.setBoot b).vecs = s.vecs := rfl
@[simp] theorem State.setBoot_poss (s : State) (b : BootSt) : (s.setBoot b).poss = s.poss := rfl
@[simp] theorem State.setBoot_keep (s : State) (b : BootSt) : (s.setBoot b).keep = s.keep := rfl
@[simp] theorem State.setBoot_gfes (s : State) (b : BootSt) : (s.setBoot b).gfes = s.gfes := rfl
@[simp] theorem State.setBoot_gpar (s : State) (b : BootSt) : (s.setBoot b).gpar = s.gpar := rfl
@[simp] theorem State.setBoot_snd (s : State) (b : BootSt) : (s.setBoot b).snd = s.snd := rfl
@[simp] theorem State.setBoot_twin (s : State) (b : BootSt) : (s.setBoot b).twin = s.twin := rfl
@[simp] theorem State.setBoot_holds (s : State) (b : BootSt) : (s.setBoot b).holds = s.holds := rfl
@[simp] theorem State.setBoot_rec_ (s : State) (b : BootSt) : (s.setBoot b).rec_ = s.rec_ := rfl
@[simp] theorem State.setBoot_sdf (s : State) (b : BootSt) : (s.setBoot b).sdf = s.sdf := rfl
@[simp] theorem State.setBoot_prot (s : State) (b : BootSt) : (s.setBoot b).prot = s.prot := rfl
@[simp] theorem State.setBoot_wear (s : State) (b : BootSt) : (s.setBoot b).wear = s.wear := rfl
@[simp] theorem State.setBoot_pdm (s : State) (b : BootSt) : (s.setBoot b).pdm = s.pdm := rfl
@[simp] theorem State.setBoot_pairs (s : State) (b : BootSt) : (s.setBoot b).pairs = s.pairs := rfl
@[simp] theorem State.setBoot_sars (s : State) (b : BootSt) : (s.setBoot b).sars = s.sars := rfl
@[simp] theorem State.setBoot_ce (s : State) (b : BootSt) : (s.setBoot b).ce = s.ce := rfl
@[simp] theorem State.setBoot_aux (s : State) (b : BootSt) : (s.setBoot b).aux = s.aux := rfl
@[simp] theorem State.setBoot_eth (s : State) (b : BootSt) : (s.setBoot b).eth = s.eth := rfl
@[simp] theorem State.setBoot_isl (s : State) (b : BootSt) : (s.setBoot b).isl = s.isl := rfl
@[simp] theorem State.setBoot_pmu (s : State) (b : BootSt) : (s.setBoot b).pmu = s.pmu := rfl
@[simp] theorem State.setBoot_tap (s : State) (b : BootSt) : (s.setBoot b).tap = s.tap := rfl
@[simp] theorem State.setBoot_iom (s : State) (b : BootSt) : (s.setBoot b).iom = s.iom := rfl
@[simp] theorem State.setBoot_fry (s : State) (b : BootSt) : (s.setBoot b).fry = s.fry := rfl
theorem State.setBoot_boot (s : State) (b : BootSt) : (s.setBoot b).boot = b := rfl
@[simp] theorem State.setBoot_uli (s : State) (b : BootSt) : (s.setBoot b).uli = s.uli := rfl
@[simp] theorem State.setBoot_dev (s : State) (b : BootSt) : (s.setBoot b).dev = s.dev := rfl
@[simp] theorem State.setBoot_free (s : State) (b : BootSt) : (s.setBoot b).free = s.free := rfl
@[simp] theorem State.setBoot_pending (s : State) (b : BootSt) : (s.setBoot b).pending = s.pending := rfl

/-! `setSnd` changes `snd` alone. -/

@[simp] theorem State.setSnd_clk (s : State) (v : SndSt) : (s.setSnd v).clk = s.clk := rfl
@[simp] theorem State.setSnd_regs (s : State) (v : SndSt) : (s.setSnd v).regs = s.regs := rfl
@[simp] theorem State.setSnd_raised (s : State) (v : SndSt) : (s.setSnd v).raised = s.raised := rfl
@[simp] theorem State.setSnd_bus (s : State) (v : SndSt) : (s.setSnd v).bus = s.bus := rfl
@[simp] theorem State.setSnd_sig (s : State) (v : SndSt) : (s.setSnd v).sig = s.sig := rfl
@[simp] theorem State.setSnd_evs (s : State) (v : SndSt) : (s.setSnd v).evs = s.evs := rfl
@[simp] theorem State.setSnd_irq (s : State) (v : SndSt) : (s.setSnd v).irq = s.irq := rfl
@[simp] theorem State.setSnd_mem (s : State) (v : SndSt) : (s.setSnd v).mem = s.mem := rfl
@[simp] theorem State.setSnd_tim (s : State) (v : SndSt) : (s.setSnd v).tim = s.tim := rfl
@[simp] theorem State.setSnd_seqs (s : State) (v : SndSt) : (s.setSnd v).seqs = s.seqs := rfl
@[simp] theorem State.setSnd_slices (s : State) (v : SndSt) : (s.setSnd v).slices = s.slices := rfl
@[simp] theorem State.setSnd_legs (s : State) (v : SndSt) : (s.setSnd v).legs = s.legs := rfl
@[simp] theorem State.setSnd_links (s : State) (v : SndSt) : (s.setSnd v).links = s.links := rfl
@[simp] theorem State.setSnd_boards (s : State) (v : SndSt) : (s.setSnd v).boards = s.boards := rfl
@[simp] theorem State.setSnd_cans (s : State) (v : SndSt) : (s.setSnd v).cans = s.cans := rfl
@[simp] theorem State.setSnd_vecs (s : State) (v : SndSt) : (s.setSnd v).vecs = s.vecs := rfl
@[simp] theorem State.setSnd_poss (s : State) (v : SndSt) : (s.setSnd v).poss = s.poss := rfl
@[simp] theorem State.setSnd_keep (s : State) (v : SndSt) : (s.setSnd v).keep = s.keep := rfl
@[simp] theorem State.setSnd_gfes (s : State) (v : SndSt) : (s.setSnd v).gfes = s.gfes := rfl
@[simp] theorem State.setSnd_gpar (s : State) (v : SndSt) : (s.setSnd v).gpar = s.gpar := rfl
theorem State.setSnd_snd (s : State) (v : SndSt) : (s.setSnd v).snd = v := rfl
@[simp] theorem State.setSnd_twin (s : State) (v : SndSt) : (s.setSnd v).twin = s.twin := rfl
@[simp] theorem State.setSnd_holds (s : State) (v : SndSt) : (s.setSnd v).holds = s.holds := rfl
@[simp] theorem State.setSnd_rec_ (s : State) (v : SndSt) : (s.setSnd v).rec_ = s.rec_ := rfl
@[simp] theorem State.setSnd_sdf (s : State) (v : SndSt) : (s.setSnd v).sdf = s.sdf := rfl
@[simp] theorem State.setSnd_prot (s : State) (v : SndSt) : (s.setSnd v).prot = s.prot := rfl
@[simp] theorem State.setSnd_wear (s : State) (v : SndSt) : (s.setSnd v).wear = s.wear := rfl
@[simp] theorem State.setSnd_pdm (s : State) (v : SndSt) : (s.setSnd v).pdm = s.pdm := rfl
@[simp] theorem State.setSnd_pairs (s : State) (v : SndSt) : (s.setSnd v).pairs = s.pairs := rfl
@[simp] theorem State.setSnd_sars (s : State) (v : SndSt) : (s.setSnd v).sars = s.sars := rfl
@[simp] theorem State.setSnd_ce (s : State) (v : SndSt) : (s.setSnd v).ce = s.ce := rfl
@[simp] theorem State.setSnd_aux (s : State) (v : SndSt) : (s.setSnd v).aux = s.aux := rfl
@[simp] theorem State.setSnd_eth (s : State) (v : SndSt) : (s.setSnd v).eth = s.eth := rfl
@[simp] theorem State.setSnd_isl (s : State) (v : SndSt) : (s.setSnd v).isl = s.isl := rfl
@[simp] theorem State.setSnd_pmu (s : State) (v : SndSt) : (s.setSnd v).pmu = s.pmu := rfl
@[simp] theorem State.setSnd_tap (s : State) (v : SndSt) : (s.setSnd v).tap = s.tap := rfl
@[simp] theorem State.setSnd_iom (s : State) (v : SndSt) : (s.setSnd v).iom = s.iom := rfl
@[simp] theorem State.setSnd_fry (s : State) (v : SndSt) : (s.setSnd v).fry = s.fry := rfl
@[simp] theorem State.setSnd_boot (s : State) (v : SndSt) : (s.setSnd v).boot = s.boot := rfl
@[simp] theorem State.setSnd_uli (s : State) (v : SndSt) : (s.setSnd v).uli = s.uli := rfl
@[simp] theorem State.setSnd_dev (s : State) (v : SndSt) : (s.setSnd v).dev = s.dev := rfl
@[simp] theorem State.setSnd_free (s : State) (v : SndSt) : (s.setSnd v).free = s.free := rfl
@[simp] theorem State.setSnd_pending (s : State) (v : SndSt) : (s.setSnd v).pending = s.pending := rfl

/-! `setThr` changes `twin` alone. -/

@[simp] theorem State.setThr_clk (s : State) (n : Nat) (v : TwinThr) : (s.setThr n v).clk = s.clk := rfl
@[simp] theorem State.setThr_regs (s : State) (n : Nat) (v : TwinThr) : (s.setThr n v).regs = s.regs := rfl
@[simp] theorem State.setThr_raised (s : State) (n : Nat) (v : TwinThr) : (s.setThr n v).raised = s.raised := rfl
@[simp] theorem State.setThr_bus (s : State) (n : Nat) (v : TwinThr) : (s.setThr n v).bus = s.bus := rfl
@[simp] theorem State.setThr_sig (s : State) (n : Nat) (v : TwinThr) : (s.setThr n v).sig = s.sig := rfl
@[simp] theorem State.setThr_evs (s : State) (n : Nat) (v : TwinThr) : (s.setThr n v).evs = s.evs := rfl
@[simp] theorem State.setThr_irq (s : State) (n : Nat) (v : TwinThr) : (s.setThr n v).irq = s.irq := rfl
@[simp] theorem State.setThr_mem (s : State) (n : Nat) (v : TwinThr) : (s.setThr n v).mem = s.mem := rfl
@[simp] theorem State.setThr_tim (s : State) (n : Nat) (v : TwinThr) : (s.setThr n v).tim = s.tim := rfl
@[simp] theorem State.setThr_seqs (s : State) (n : Nat) (v : TwinThr) : (s.setThr n v).seqs = s.seqs := rfl
@[simp] theorem State.setThr_slices (s : State) (n : Nat) (v : TwinThr) : (s.setThr n v).slices = s.slices := rfl
@[simp] theorem State.setThr_legs (s : State) (n : Nat) (v : TwinThr) : (s.setThr n v).legs = s.legs := rfl
@[simp] theorem State.setThr_links (s : State) (n : Nat) (v : TwinThr) : (s.setThr n v).links = s.links := rfl
@[simp] theorem State.setThr_boards (s : State) (n : Nat) (v : TwinThr) : (s.setThr n v).boards = s.boards := rfl
@[simp] theorem State.setThr_cans (s : State) (n : Nat) (v : TwinThr) : (s.setThr n v).cans = s.cans := rfl
@[simp] theorem State.setThr_vecs (s : State) (n : Nat) (v : TwinThr) : (s.setThr n v).vecs = s.vecs := rfl
@[simp] theorem State.setThr_poss (s : State) (n : Nat) (v : TwinThr) : (s.setThr n v).poss = s.poss := rfl
@[simp] theorem State.setThr_keep (s : State) (n : Nat) (v : TwinThr) : (s.setThr n v).keep = s.keep := rfl
@[simp] theorem State.setThr_gfes (s : State) (n : Nat) (v : TwinThr) : (s.setThr n v).gfes = s.gfes := rfl
@[simp] theorem State.setThr_gpar (s : State) (n : Nat) (v : TwinThr) : (s.setThr n v).gpar = s.gpar := rfl
@[simp] theorem State.setThr_snd (s : State) (n : Nat) (v : TwinThr) : (s.setThr n v).snd = s.snd := rfl
theorem State.setThr_twin (s : State) (n : Nat) (v : TwinThr) : (s.setThr n v).twin = { s.twin with thr := tabSet (fun _ => TwinThr.init) s.twin.thr n v } := rfl
@[simp] theorem State.setThr_holds (s : State) (n : Nat) (v : TwinThr) : (s.setThr n v).holds = s.holds := rfl
@[simp] theorem State.setThr_rec_ (s : State) (n : Nat) (v : TwinThr) : (s.setThr n v).rec_ = s.rec_ := rfl
@[simp] theorem State.setThr_sdf (s : State) (n : Nat) (v : TwinThr) : (s.setThr n v).sdf = s.sdf := rfl
@[simp] theorem State.setThr_prot (s : State) (n : Nat) (v : TwinThr) : (s.setThr n v).prot = s.prot := rfl
@[simp] theorem State.setThr_wear (s : State) (n : Nat) (v : TwinThr) : (s.setThr n v).wear = s.wear := rfl
@[simp] theorem State.setThr_pdm (s : State) (n : Nat) (v : TwinThr) : (s.setThr n v).pdm = s.pdm := rfl
@[simp] theorem State.setThr_pairs (s : State) (n : Nat) (v : TwinThr) : (s.setThr n v).pairs = s.pairs := rfl
@[simp] theorem State.setThr_sars (s : State) (n : Nat) (v : TwinThr) : (s.setThr n v).sars = s.sars := rfl
@[simp] theorem State.setThr_ce (s : State) (n : Nat) (v : TwinThr) : (s.setThr n v).ce = s.ce := rfl
@[simp] theorem State.setThr_aux (s : State) (n : Nat) (v : TwinThr) : (s.setThr n v).aux = s.aux := rfl
@[simp] theorem State.setThr_eth (s : State) (n : Nat) (v : TwinThr) : (s.setThr n v).eth = s.eth := rfl
@[simp] theorem State.setThr_isl (s : State) (n : Nat) (v : TwinThr) : (s.setThr n v).isl = s.isl := rfl
@[simp] theorem State.setThr_pmu (s : State) (n : Nat) (v : TwinThr) : (s.setThr n v).pmu = s.pmu := rfl
@[simp] theorem State.setThr_tap (s : State) (n : Nat) (v : TwinThr) : (s.setThr n v).tap = s.tap := rfl
@[simp] theorem State.setThr_iom (s : State) (n : Nat) (v : TwinThr) : (s.setThr n v).iom = s.iom := rfl
@[simp] theorem State.setThr_fry (s : State) (n : Nat) (v : TwinThr) : (s.setThr n v).fry = s.fry := rfl
@[simp] theorem State.setThr_boot (s : State) (n : Nat) (v : TwinThr) : (s.setThr n v).boot = s.boot := rfl
@[simp] theorem State.setThr_uli (s : State) (n : Nat) (v : TwinThr) : (s.setThr n v).uli = s.uli := rfl
@[simp] theorem State.setThr_dev (s : State) (n : Nat) (v : TwinThr) : (s.setThr n v).dev = s.dev := rfl
@[simp] theorem State.setThr_free (s : State) (n : Nat) (v : TwinThr) : (s.setThr n v).free = s.free := rfl
@[simp] theorem State.setThr_pending (s : State) (n : Nat) (v : TwinThr) : (s.setThr n v).pending = s.pending := rfl

/-! `setEthQueue` changes `eth` alone. -/

@[simp] theorem State.setEthQueue_clk (s : State) (p q : Nat) (l : List EthFrame) : (s.setEthQueue p q l).clk = s.clk := rfl
@[simp] theorem State.setEthQueue_regs (s : State) (p q : Nat) (l : List EthFrame) : (s.setEthQueue p q l).regs = s.regs := rfl
@[simp] theorem State.setEthQueue_raised (s : State) (p q : Nat) (l : List EthFrame) : (s.setEthQueue p q l).raised = s.raised := rfl
@[simp] theorem State.setEthQueue_bus (s : State) (p q : Nat) (l : List EthFrame) : (s.setEthQueue p q l).bus = s.bus := rfl
@[simp] theorem State.setEthQueue_sig (s : State) (p q : Nat) (l : List EthFrame) : (s.setEthQueue p q l).sig = s.sig := rfl
@[simp] theorem State.setEthQueue_evs (s : State) (p q : Nat) (l : List EthFrame) : (s.setEthQueue p q l).evs = s.evs := rfl
@[simp] theorem State.setEthQueue_irq (s : State) (p q : Nat) (l : List EthFrame) : (s.setEthQueue p q l).irq = s.irq := rfl
@[simp] theorem State.setEthQueue_mem (s : State) (p q : Nat) (l : List EthFrame) : (s.setEthQueue p q l).mem = s.mem := rfl
@[simp] theorem State.setEthQueue_tim (s : State) (p q : Nat) (l : List EthFrame) : (s.setEthQueue p q l).tim = s.tim := rfl
@[simp] theorem State.setEthQueue_seqs (s : State) (p q : Nat) (l : List EthFrame) : (s.setEthQueue p q l).seqs = s.seqs := rfl
@[simp] theorem State.setEthQueue_slices (s : State) (p q : Nat) (l : List EthFrame) : (s.setEthQueue p q l).slices = s.slices := rfl
@[simp] theorem State.setEthQueue_legs (s : State) (p q : Nat) (l : List EthFrame) : (s.setEthQueue p q l).legs = s.legs := rfl
@[simp] theorem State.setEthQueue_links (s : State) (p q : Nat) (l : List EthFrame) : (s.setEthQueue p q l).links = s.links := rfl
@[simp] theorem State.setEthQueue_boards (s : State) (p q : Nat) (l : List EthFrame) : (s.setEthQueue p q l).boards = s.boards := rfl
@[simp] theorem State.setEthQueue_cans (s : State) (p q : Nat) (l : List EthFrame) : (s.setEthQueue p q l).cans = s.cans := rfl
@[simp] theorem State.setEthQueue_vecs (s : State) (p q : Nat) (l : List EthFrame) : (s.setEthQueue p q l).vecs = s.vecs := rfl
@[simp] theorem State.setEthQueue_poss (s : State) (p q : Nat) (l : List EthFrame) : (s.setEthQueue p q l).poss = s.poss := rfl
@[simp] theorem State.setEthQueue_keep (s : State) (p q : Nat) (l : List EthFrame) : (s.setEthQueue p q l).keep = s.keep := rfl
@[simp] theorem State.setEthQueue_gfes (s : State) (p q : Nat) (l : List EthFrame) : (s.setEthQueue p q l).gfes = s.gfes := rfl
@[simp] theorem State.setEthQueue_gpar (s : State) (p q : Nat) (l : List EthFrame) : (s.setEthQueue p q l).gpar = s.gpar := rfl
@[simp] theorem State.setEthQueue_snd (s : State) (p q : Nat) (l : List EthFrame) : (s.setEthQueue p q l).snd = s.snd := rfl
@[simp] theorem State.setEthQueue_twin (s : State) (p q : Nat) (l : List EthFrame) : (s.setEthQueue p q l).twin = s.twin := rfl
@[simp] theorem State.setEthQueue_holds (s : State) (p q : Nat) (l : List EthFrame) : (s.setEthQueue p q l).holds = s.holds := rfl
@[simp] theorem State.setEthQueue_rec_ (s : State) (p q : Nat) (l : List EthFrame) : (s.setEthQueue p q l).rec_ = s.rec_ := rfl
@[simp] theorem State.setEthQueue_sdf (s : State) (p q : Nat) (l : List EthFrame) : (s.setEthQueue p q l).sdf = s.sdf := rfl
@[simp] theorem State.setEthQueue_prot (s : State) (p q : Nat) (l : List EthFrame) : (s.setEthQueue p q l).prot = s.prot := rfl
@[simp] theorem State.setEthQueue_wear (s : State) (p q : Nat) (l : List EthFrame) : (s.setEthQueue p q l).wear = s.wear := rfl
@[simp] theorem State.setEthQueue_pdm (s : State) (p q : Nat) (l : List EthFrame) : (s.setEthQueue p q l).pdm = s.pdm := rfl
@[simp] theorem State.setEthQueue_pairs (s : State) (p q : Nat) (l : List EthFrame) : (s.setEthQueue p q l).pairs = s.pairs := rfl
@[simp] theorem State.setEthQueue_sars (s : State) (p q : Nat) (l : List EthFrame) : (s.setEthQueue p q l).sars = s.sars := rfl
@[simp] theorem State.setEthQueue_ce (s : State) (p q : Nat) (l : List EthFrame) : (s.setEthQueue p q l).ce = s.ce := rfl
@[simp] theorem State.setEthQueue_aux (s : State) (p q : Nat) (l : List EthFrame) : (s.setEthQueue p q l).aux = s.aux := rfl
theorem State.setEthQueue_eth (s : State) (p q : Nat) (l : List EthFrame) : (s.setEthQueue p q l).eth = { s.eth with queues := tabSet (fun _ => []) s.eth.queues (8 * p + q) l } := rfl
@[simp] theorem State.setEthQueue_isl (s : State) (p q : Nat) (l : List EthFrame) : (s.setEthQueue p q l).isl = s.isl := rfl
@[simp] theorem State.setEthQueue_pmu (s : State) (p q : Nat) (l : List EthFrame) : (s.setEthQueue p q l).pmu = s.pmu := rfl
@[simp] theorem State.setEthQueue_tap (s : State) (p q : Nat) (l : List EthFrame) : (s.setEthQueue p q l).tap = s.tap := rfl
@[simp] theorem State.setEthQueue_iom (s : State) (p q : Nat) (l : List EthFrame) : (s.setEthQueue p q l).iom = s.iom := rfl
@[simp] theorem State.setEthQueue_fry (s : State) (p q : Nat) (l : List EthFrame) : (s.setEthQueue p q l).fry = s.fry := rfl
@[simp] theorem State.setEthQueue_boot (s : State) (p q : Nat) (l : List EthFrame) : (s.setEthQueue p q l).boot = s.boot := rfl
@[simp] theorem State.setEthQueue_uli (s : State) (p q : Nat) (l : List EthFrame) : (s.setEthQueue p q l).uli = s.uli := rfl
@[simp] theorem State.setEthQueue_dev (s : State) (p q : Nat) (l : List EthFrame) : (s.setEthQueue p q l).dev = s.dev := rfl
@[simp] theorem State.setEthQueue_free (s : State) (p q : Nat) (l : List EthFrame) : (s.setEthQueue p q l).free = s.free := rfl
@[simp] theorem State.setEthQueue_pending (s : State) (p q : Nat) (l : List EthFrame) : (s.setEthQueue p q l).pending = s.pending := rfl

/-! `setMoving` changes `pdm` alone. -/

@[simp] theorem State.setMoving_clk (s : State) (d v : Nat) : (s.setMoving d v).clk = s.clk := rfl
@[simp] theorem State.setMoving_regs (s : State) (d v : Nat) : (s.setMoving d v).regs = s.regs := rfl
@[simp] theorem State.setMoving_raised (s : State) (d v : Nat) : (s.setMoving d v).raised = s.raised := rfl
@[simp] theorem State.setMoving_bus (s : State) (d v : Nat) : (s.setMoving d v).bus = s.bus := rfl
@[simp] theorem State.setMoving_sig (s : State) (d v : Nat) : (s.setMoving d v).sig = s.sig := rfl
@[simp] theorem State.setMoving_evs (s : State) (d v : Nat) : (s.setMoving d v).evs = s.evs := rfl
@[simp] theorem State.setMoving_irq (s : State) (d v : Nat) : (s.setMoving d v).irq = s.irq := rfl
@[simp] theorem State.setMoving_mem (s : State) (d v : Nat) : (s.setMoving d v).mem = s.mem := rfl
@[simp] theorem State.setMoving_tim (s : State) (d v : Nat) : (s.setMoving d v).tim = s.tim := rfl
@[simp] theorem State.setMoving_seqs (s : State) (d v : Nat) : (s.setMoving d v).seqs = s.seqs := rfl
@[simp] theorem State.setMoving_slices (s : State) (d v : Nat) : (s.setMoving d v).slices = s.slices := rfl
@[simp] theorem State.setMoving_legs (s : State) (d v : Nat) : (s.setMoving d v).legs = s.legs := rfl
@[simp] theorem State.setMoving_links (s : State) (d v : Nat) : (s.setMoving d v).links = s.links := rfl
@[simp] theorem State.setMoving_boards (s : State) (d v : Nat) : (s.setMoving d v).boards = s.boards := rfl
@[simp] theorem State.setMoving_cans (s : State) (d v : Nat) : (s.setMoving d v).cans = s.cans := rfl
@[simp] theorem State.setMoving_vecs (s : State) (d v : Nat) : (s.setMoving d v).vecs = s.vecs := rfl
@[simp] theorem State.setMoving_poss (s : State) (d v : Nat) : (s.setMoving d v).poss = s.poss := rfl
@[simp] theorem State.setMoving_keep (s : State) (d v : Nat) : (s.setMoving d v).keep = s.keep := rfl
@[simp] theorem State.setMoving_gfes (s : State) (d v : Nat) : (s.setMoving d v).gfes = s.gfes := rfl
@[simp] theorem State.setMoving_gpar (s : State) (d v : Nat) : (s.setMoving d v).gpar = s.gpar := rfl
@[simp] theorem State.setMoving_snd (s : State) (d v : Nat) : (s.setMoving d v).snd = s.snd := rfl
@[simp] theorem State.setMoving_twin (s : State) (d v : Nat) : (s.setMoving d v).twin = s.twin := rfl
@[simp] theorem State.setMoving_holds (s : State) (d v : Nat) : (s.setMoving d v).holds = s.holds := rfl
@[simp] theorem State.setMoving_rec_ (s : State) (d v : Nat) : (s.setMoving d v).rec_ = s.rec_ := rfl
@[simp] theorem State.setMoving_sdf (s : State) (d v : Nat) : (s.setMoving d v).sdf = s.sdf := rfl
@[simp] theorem State.setMoving_prot (s : State) (d v : Nat) : (s.setMoving d v).prot = s.prot := rfl
@[simp] theorem State.setMoving_wear (s : State) (d v : Nat) : (s.setMoving d v).wear = s.wear := rfl
theorem State.setMoving_pdm (s : State) (d v : Nat) : (s.setMoving d v).pdm = { s.pdm with moving := tabSet (fun _ => 0) s.pdm.moving d v } := rfl
@[simp] theorem State.setMoving_pairs (s : State) (d v : Nat) : (s.setMoving d v).pairs = s.pairs := rfl
@[simp] theorem State.setMoving_sars (s : State) (d v : Nat) : (s.setMoving d v).sars = s.sars := rfl
@[simp] theorem State.setMoving_ce (s : State) (d v : Nat) : (s.setMoving d v).ce = s.ce := rfl
@[simp] theorem State.setMoving_aux (s : State) (d v : Nat) : (s.setMoving d v).aux = s.aux := rfl
@[simp] theorem State.setMoving_eth (s : State) (d v : Nat) : (s.setMoving d v).eth = s.eth := rfl
@[simp] theorem State.setMoving_isl (s : State) (d v : Nat) : (s.setMoving d v).isl = s.isl := rfl
@[simp] theorem State.setMoving_pmu (s : State) (d v : Nat) : (s.setMoving d v).pmu = s.pmu := rfl
@[simp] theorem State.setMoving_tap (s : State) (d v : Nat) : (s.setMoving d v).tap = s.tap := rfl
@[simp] theorem State.setMoving_iom (s : State) (d v : Nat) : (s.setMoving d v).iom = s.iom := rfl
@[simp] theorem State.setMoving_fry (s : State) (d v : Nat) : (s.setMoving d v).fry = s.fry := rfl
@[simp] theorem State.setMoving_boot (s : State) (d v : Nat) : (s.setMoving d v).boot = s.boot := rfl
@[simp] theorem State.setMoving_uli (s : State) (d v : Nat) : (s.setMoving d v).uli = s.uli := rfl
@[simp] theorem State.setMoving_dev (s : State) (d v : Nat) : (s.setMoving d v).dev = s.dev := rfl
@[simp] theorem State.setMoving_free (s : State) (d v : Nat) : (s.setMoving d v).free = s.free := rfl
@[simp] theorem State.setMoving_pending (s : State) (d v : Nat) : (s.setMoving d v).pending = s.pending := rfl

/-! `setCtx` changes `ce` alone. -/

@[simp] theorem State.setCtx_clk (s : State) (c : Nat) (v : CtxSt) : (s.setCtx c v).clk = s.clk := rfl
@[simp] theorem State.setCtx_regs (s : State) (c : Nat) (v : CtxSt) : (s.setCtx c v).regs = s.regs := rfl
@[simp] theorem State.setCtx_raised (s : State) (c : Nat) (v : CtxSt) : (s.setCtx c v).raised = s.raised := rfl
@[simp] theorem State.setCtx_bus (s : State) (c : Nat) (v : CtxSt) : (s.setCtx c v).bus = s.bus := rfl
@[simp] theorem State.setCtx_sig (s : State) (c : Nat) (v : CtxSt) : (s.setCtx c v).sig = s.sig := rfl
@[simp] theorem State.setCtx_evs (s : State) (c : Nat) (v : CtxSt) : (s.setCtx c v).evs = s.evs := rfl
@[simp] theorem State.setCtx_irq (s : State) (c : Nat) (v : CtxSt) : (s.setCtx c v).irq = s.irq := rfl
@[simp] theorem State.setCtx_mem (s : State) (c : Nat) (v : CtxSt) : (s.setCtx c v).mem = s.mem := rfl
@[simp] theorem State.setCtx_tim (s : State) (c : Nat) (v : CtxSt) : (s.setCtx c v).tim = s.tim := rfl
@[simp] theorem State.setCtx_seqs (s : State) (c : Nat) (v : CtxSt) : (s.setCtx c v).seqs = s.seqs := rfl
@[simp] theorem State.setCtx_slices (s : State) (c : Nat) (v : CtxSt) : (s.setCtx c v).slices = s.slices := rfl
@[simp] theorem State.setCtx_legs (s : State) (c : Nat) (v : CtxSt) : (s.setCtx c v).legs = s.legs := rfl
@[simp] theorem State.setCtx_links (s : State) (c : Nat) (v : CtxSt) : (s.setCtx c v).links = s.links := rfl
@[simp] theorem State.setCtx_boards (s : State) (c : Nat) (v : CtxSt) : (s.setCtx c v).boards = s.boards := rfl
@[simp] theorem State.setCtx_cans (s : State) (c : Nat) (v : CtxSt) : (s.setCtx c v).cans = s.cans := rfl
@[simp] theorem State.setCtx_vecs (s : State) (c : Nat) (v : CtxSt) : (s.setCtx c v).vecs = s.vecs := rfl
@[simp] theorem State.setCtx_poss (s : State) (c : Nat) (v : CtxSt) : (s.setCtx c v).poss = s.poss := rfl
@[simp] theorem State.setCtx_keep (s : State) (c : Nat) (v : CtxSt) : (s.setCtx c v).keep = s.keep := rfl
@[simp] theorem State.setCtx_gfes (s : State) (c : Nat) (v : CtxSt) : (s.setCtx c v).gfes = s.gfes := rfl
@[simp] theorem State.setCtx_gpar (s : State) (c : Nat) (v : CtxSt) : (s.setCtx c v).gpar = s.gpar := rfl
@[simp] theorem State.setCtx_snd (s : State) (c : Nat) (v : CtxSt) : (s.setCtx c v).snd = s.snd := rfl
@[simp] theorem State.setCtx_twin (s : State) (c : Nat) (v : CtxSt) : (s.setCtx c v).twin = s.twin := rfl
@[simp] theorem State.setCtx_holds (s : State) (c : Nat) (v : CtxSt) : (s.setCtx c v).holds = s.holds := rfl
@[simp] theorem State.setCtx_rec_ (s : State) (c : Nat) (v : CtxSt) : (s.setCtx c v).rec_ = s.rec_ := rfl
@[simp] theorem State.setCtx_sdf (s : State) (c : Nat) (v : CtxSt) : (s.setCtx c v).sdf = s.sdf := rfl
@[simp] theorem State.setCtx_prot (s : State) (c : Nat) (v : CtxSt) : (s.setCtx c v).prot = s.prot := rfl
@[simp] theorem State.setCtx_wear (s : State) (c : Nat) (v : CtxSt) : (s.setCtx c v).wear = s.wear := rfl
@[simp] theorem State.setCtx_pdm (s : State) (c : Nat) (v : CtxSt) : (s.setCtx c v).pdm = s.pdm := rfl
@[simp] theorem State.setCtx_pairs (s : State) (c : Nat) (v : CtxSt) : (s.setCtx c v).pairs = s.pairs := rfl
@[simp] theorem State.setCtx_sars (s : State) (c : Nat) (v : CtxSt) : (s.setCtx c v).sars = s.sars := rfl
theorem State.setCtx_ce (s : State) (c : Nat) (v : CtxSt) : (s.setCtx c v).ce = { s.ce with ctx := tabSet (fun _ => CtxSt.init) s.ce.ctx c v } := rfl
@[simp] theorem State.setCtx_aux (s : State) (c : Nat) (v : CtxSt) : (s.setCtx c v).aux = s.aux := rfl
@[simp] theorem State.setCtx_eth (s : State) (c : Nat) (v : CtxSt) : (s.setCtx c v).eth = s.eth := rfl
@[simp] theorem State.setCtx_isl (s : State) (c : Nat) (v : CtxSt) : (s.setCtx c v).isl = s.isl := rfl
@[simp] theorem State.setCtx_pmu (s : State) (c : Nat) (v : CtxSt) : (s.setCtx c v).pmu = s.pmu := rfl
@[simp] theorem State.setCtx_tap (s : State) (c : Nat) (v : CtxSt) : (s.setCtx c v).tap = s.tap := rfl
@[simp] theorem State.setCtx_iom (s : State) (c : Nat) (v : CtxSt) : (s.setCtx c v).iom = s.iom := rfl
@[simp] theorem State.setCtx_fry (s : State) (c : Nat) (v : CtxSt) : (s.setCtx c v).fry = s.fry := rfl
@[simp] theorem State.setCtx_boot (s : State) (c : Nat) (v : CtxSt) : (s.setCtx c v).boot = s.boot := rfl
@[simp] theorem State.setCtx_uli (s : State) (c : Nat) (v : CtxSt) : (s.setCtx c v).uli = s.uli := rfl
@[simp] theorem State.setCtx_dev (s : State) (c : Nat) (v : CtxSt) : (s.setCtx c v).dev = s.dev := rfl
@[simp] theorem State.setCtx_free (s : State) (c : Nat) (v : CtxSt) : (s.setCtx c v).free = s.free := rfl
@[simp] theorem State.setCtx_pending (s : State) (c : Nat) (v : CtxSt) : (s.setCtx c v).pending = s.pending := rfl

/-! `setWear` changes `wear` alone. -/

@[simp] theorem State.setWear_clk (s : State) (r : WearRec) : (s.setWear r).clk = s.clk := rfl
@[simp] theorem State.setWear_regs (s : State) (r : WearRec) : (s.setWear r).regs = s.regs := rfl
@[simp] theorem State.setWear_raised (s : State) (r : WearRec) : (s.setWear r).raised = s.raised := rfl
@[simp] theorem State.setWear_bus (s : State) (r : WearRec) : (s.setWear r).bus = s.bus := rfl
@[simp] theorem State.setWear_sig (s : State) (r : WearRec) : (s.setWear r).sig = s.sig := rfl
@[simp] theorem State.setWear_evs (s : State) (r : WearRec) : (s.setWear r).evs = s.evs := rfl
@[simp] theorem State.setWear_irq (s : State) (r : WearRec) : (s.setWear r).irq = s.irq := rfl
@[simp] theorem State.setWear_mem (s : State) (r : WearRec) : (s.setWear r).mem = s.mem := rfl
@[simp] theorem State.setWear_tim (s : State) (r : WearRec) : (s.setWear r).tim = s.tim := rfl
@[simp] theorem State.setWear_seqs (s : State) (r : WearRec) : (s.setWear r).seqs = s.seqs := rfl
@[simp] theorem State.setWear_slices (s : State) (r : WearRec) : (s.setWear r).slices = s.slices := rfl
@[simp] theorem State.setWear_legs (s : State) (r : WearRec) : (s.setWear r).legs = s.legs := rfl
@[simp] theorem State.setWear_links (s : State) (r : WearRec) : (s.setWear r).links = s.links := rfl
@[simp] theorem State.setWear_boards (s : State) (r : WearRec) : (s.setWear r).boards = s.boards := rfl
@[simp] theorem State.setWear_cans (s : State) (r : WearRec) : (s.setWear r).cans = s.cans := rfl
@[simp] theorem State.setWear_vecs (s : State) (r : WearRec) : (s.setWear r).vecs = s.vecs := rfl
@[simp] theorem State.setWear_poss (s : State) (r : WearRec) : (s.setWear r).poss = s.poss := rfl
@[simp] theorem State.setWear_keep (s : State) (r : WearRec) : (s.setWear r).keep = s.keep := rfl
@[simp] theorem State.setWear_gfes (s : State) (r : WearRec) : (s.setWear r).gfes = s.gfes := rfl
@[simp] theorem State.setWear_gpar (s : State) (r : WearRec) : (s.setWear r).gpar = s.gpar := rfl
@[simp] theorem State.setWear_snd (s : State) (r : WearRec) : (s.setWear r).snd = s.snd := rfl
@[simp] theorem State.setWear_twin (s : State) (r : WearRec) : (s.setWear r).twin = s.twin := rfl
@[simp] theorem State.setWear_holds (s : State) (r : WearRec) : (s.setWear r).holds = s.holds := rfl
@[simp] theorem State.setWear_rec_ (s : State) (r : WearRec) : (s.setWear r).rec_ = s.rec_ := rfl
@[simp] theorem State.setWear_sdf (s : State) (r : WearRec) : (s.setWear r).sdf = s.sdf := rfl
@[simp] theorem State.setWear_prot (s : State) (r : WearRec) : (s.setWear r).prot = s.prot := rfl
theorem State.setWear_wear (s : State) (r : WearRec) : (s.setWear r).wear = { s.wear with live := r } := rfl
@[simp] theorem State.setWear_pdm (s : State) (r : WearRec) : (s.setWear r).pdm = s.pdm := rfl
@[simp] theorem State.setWear_pairs (s : State) (r : WearRec) : (s.setWear r).pairs = s.pairs := rfl
@[simp] theorem State.setWear_sars (s : State) (r : WearRec) : (s.setWear r).sars = s.sars := rfl
@[simp] theorem State.setWear_ce (s : State) (r : WearRec) : (s.setWear r).ce = s.ce := rfl
@[simp] theorem State.setWear_aux (s : State) (r : WearRec) : (s.setWear r).aux = s.aux := rfl
@[simp] theorem State.setWear_eth (s : State) (r : WearRec) : (s.setWear r).eth = s.eth := rfl
@[simp] theorem State.setWear_isl (s : State) (r : WearRec) : (s.setWear r).isl = s.isl := rfl
@[simp] theorem State.setWear_pmu (s : State) (r : WearRec) : (s.setWear r).pmu = s.pmu := rfl
@[simp] theorem State.setWear_tap (s : State) (r : WearRec) : (s.setWear r).tap = s.tap := rfl
@[simp] theorem State.setWear_iom (s : State) (r : WearRec) : (s.setWear r).iom = s.iom := rfl
@[simp] theorem State.setWear_fry (s : State) (r : WearRec) : (s.setWear r).fry = s.fry := rfl
@[simp] theorem State.setWear_boot (s : State) (r : WearRec) : (s.setWear r).boot = s.boot := rfl
@[simp] theorem State.setWear_uli (s : State) (r : WearRec) : (s.setWear r).uli = s.uli := rfl
@[simp] theorem State.setWear_dev (s : State) (r : WearRec) : (s.setWear r).dev = s.dev := rfl
@[simp] theorem State.setWear_free (s : State) (r : WearRec) : (s.setWear r).free = s.free := rfl
@[simp] theorem State.setWear_pending (s : State) (r : WearRec) : (s.setWear r).pending = s.pending := rfl

end Sys2Proof.Machine
end

