-- ==== Sys2Proof/Laws/Steps.lean ====
section
/-! SUPPORT. What it says of the next state that a step of a period completes, and that a unit's table was written. -/

namespace Sys2Proof.Machine

/-- The answer of a bus access is no register. -/
theorem State.rd_bus (x : State) (b : BusAns) (a : Nat) : ({ x with bus := b } : State).rd a = x.rd a := rfl

/-- How many `LATCH` steps follow the running one: the end of a step completes them too. -/
abbrev State.latches (x : State) (n : Nat) : Nat := x.latchRun n (x.seqStepNo n + 1)

theorem latches_of {x y : State} (n : Nat) (h : ∀ a, y.rd a = x.rd a) : y.latches n = x.latches n := by
  unfold State.latches State.latchRun State.seqStepNo State.rdF
  simp only [h]

/-- The sequencer at the end of a step. -/
theorem stepEnds_seqs (x : State) (n k : Nat) : (x.stepEnds n k).seqs = (x.setSeq n { x.seq n with
    doneAt := k + x.latches n * twentyNs, callPair := none, callDue := none, waitDue := none, waitGrp := false }).seqs := rfl

/-- The end of a step writes `STEP` alone. -/
theorem stepEnds_rd (x : State) (n k a : Nat) :
    (x.stepEnds n k).rd a = if a = R.seqStatus n then withField (x.rd a) 13 8 (x.seqStepNo n + 1 + x.latches n) else x.rd a := by
  unfold State.stepEnds
  extract_lets +onlyGivenNames c j y
  rw [State.rd_wrF]
  split
  · next h => subst h; rfl
  · rfl
theorem stepEnds_eq (x : State) (n k : Nat) : x.stepEnds n k = { x with
    seqs := (x.stepEnds n k).seqs, regs := (x.stepEnds n k).regs, raised := (x.stepEnds n k).raised } := rfl

theorem seqStatus_force (n : Fin 4) : R.seqStatus n ∉ forceRegs := by fin_cases n <;> decide
theorem stepNo_of (u x : State) (n : Fin 4) (k : Nat) (b) (h : ∀ a, a ∉ forceRegs → u.rd a = ({ x.stepEnds n k with bus := b} : State).rd a) :
    u.seqStepNo n = (x.seqStepNo n + 1 + x.latches n) % 64 := by
  unfold State.seqStepNo State.rdF
  rw [h _ (seqStatus_force n), State.rd_bus, stepEnds_rd, if_pos rfl, fieldOf_withField _ _ _ _ (by decide) (by decide)]
  rfl

@[simp] theorem seq_setSeq (x : State) (n : Nat) (v) : (x.setSeq n v).seq n = v := tabGet_set_same ..
theorem seq_setSeq_ne (x : State) (n m : Nat) (v) (h : m ≠ n) : (x.setSeq n v).seq m = x.seq m := tabGet_set_ne _ _ _ _ _ h

theorem stepEnds_seq (x : State) (n k : Nat) : (x.stepEnds n k).seq n = { x.seq n with
    doneAt := k + x.latches n * twentyNs, callPair := none, callDue := none, waitDue := none, waitGrp := false } := by
  show tabGet _ (x.stepEnds n k).seqs n = _
  rw [stepEnds_seqs]; exact seq_setSeq ..
theorem stepEnds_seq_ne (x : State) (n k m : Nat) (h : m ≠ n) : (x.stepEnds n k).seq m = x.seq m := by
  show tabGet _ (x.stepEnds n k).seqs m = _
  rw [stepEnds_seqs]; exact seq_setSeq_ne _ _ _ _ h

theorem run_ends {s : State} {t : Nat} {f : State → State} (n : Fin 4) (y : State) (k : Nat) (b : BusAns) (e : f (s.upTo t) = { y.stepEnds n k with bus := b })
   (q' : SeqSt) (hy : y = (s.upTo t).setSeq n q' ∨ (y = s.upTo t ∧ q' = (s.upTo t).seq n)) :
   ∃ u, s.run t f = .next u ∧ (s.upTo t).framed { s.upTo t with seqs := u.seqs, bus := b } u [R.seqStatus n] ∧
     u.seqStepNo n = ((s.upTo t).seqStepNo n + 1 + (s.upTo t).latches n) % 64 ∧
     u.seq n = { q' with doneAt := k + (s.upTo t).latches n * twentyNs, callPair := none, callDue := none, waitDue := none, waitGrp := false } ∧
     ∀ m, m ≠ n.val → u.seq m = (s.upTo t).seq m := by
  have hrd : ∀ a, y.rd a = (s.upTo t).rd a := by rcases hy with h | ⟨h, _⟩ <;> rw [h] <;> intro a <;> rfl
  have hno : y.seqStepNo n = (s.upTo t).seqStepNo n := by unfold State.seqStepNo State.rdF; rw [hrd]
  have hl : y.latches n = (s.upTo t).latches n := latches_of n hrd
  have hq : y.seq n = q' := by rcases hy with h | ⟨h, h'⟩ <;> simp [h]; exact h'.symm
  have hm : ∀ m, m ≠ n.val → y.seq m = (s.upTo t).seq m := by rcases hy with h | ⟨h, _⟩ <;> rw [h] <;> intro m h; exact seq_setSeq_ne _ _ _ _ h; rfl
  have hyf : y = { s.upTo t with seqs := y.seqs } := by rcases hy with h | ⟨h, _⟩ <;> rw [h] <;> rfl
  have hz : ({ y.stepEnds n k with bus := b } : State) = { ({ s.upTo t with seqs := (y.stepEnds n k).seqs, bus := b } : State) with
      regs := (y.stepEnds n k).regs, raised := (y.stepEnds n k).raised } := by
    have e1 := stepEnds_eq y n k
    generalize y.stepEnds n k = z at e1 ⊢
    rw [e1, hyf]
  have hp : ({ y.stepEnds n k with bus := b } : State).pending = s.pending := by rw [hz]; exact s.upTo_pending t
  obtain ⟨u, hu, hf, hr⟩ := State.run_to (P := fun u => ∀ a, a ∉ forceRegs → u.rd a = ({ y.stepEnds n k with bus := b } : State).rd a)
    (as := [R.seqStatus n]) e hz hp (by
      intro a ha hf; rw [State.rd_bus, stepEnds_rd, if_neg (by simpa using ha), hrd]) (fun u h => h)
  have hs : u.seqs = (y.stepEnds n k).seqs := by rw [hf.1]
  have hsq : ∀ m, u.seq m = (y.stepEnds n k).seq m := by intro m; unfold State.seq; rw [hs]
  refine ⟨u, hu, by rw [hs]; exact hf, ?_, ?_, ?_⟩
  · rw [stepNo_of u y n k b hr, hno, hl]
  · rw [hsq, stepEnds_seq, hq, hl]
  · intro m h; rw [hsq, stepEnds_seq_ne _ _ _ _ h]; exact hm m h


/-- The next state of a command that turns the state at its instant into the end of step `n` of `z`, where the unit's operation leaves the
sequencers as in `y`. -/
theorem paced_step {s x z u : State} (n own : Nat) (q' : SeqSt)
    (he : u = { z.stepDone n own with regs := u.regs, raised := u.raised, pending := s.pending }) (hp : x.pending = s.pending)
    (hz : { z.sched with seqs := x.seqs } = x.sched) (hf : z.frame = x.frame) (hq : z.seq n = q') (hm : ∀ m, m ≠ n → z.seq m = x.seq m) :
    (x.setSeq n { q' with doneAt := q'.doneAt + 640 + own + z.latches n * 640, callPair := none, callDue := none, waitDue := none, waitGrp := false }).pacedAs u := by
  have hs : z.clk = x.clk ∧ z.tap = x.tap ∧ z.bus = x.bus := by
    exact ⟨congrArg Sched.clk hz, congrArg Sched.tap hz, congrArg Sched.bus hz⟩
  refine State.paced_of he hp hs.1 ?_ hs.2.1 hs.2.2 ?_
  · intro m
    by_cases h : m = n
    · subst h
      rw [seq_setSeq]
      show (z.stepEnds m _).seq m = _
      rw [stepEnds_seq, hq]; rfl
    · rw [seq_setSeq_ne _ _ _ _ h, ← hm m h]
      exact stepEnds_seq_ne _ _ _ _ h
  · show (z.stepEnds n _).frame = _
    rw [State.stepEnds_frame, hf]; rfl

end Sys2Proof.Machine
end

