-- ==== Sys2Proof/Tests/Slice0.lean ====
section
/-! SUPPORT. The author's tests: ill-formed terms, worked examples of the spec, and for every statement with premises states and operands that
meet them, clause by clause. -/

open Sys2Proof Sys2Proof.Machine

namespace Sys2Proof.Tests

set_option Elab.async false

/-! ### States of the tests -/

/-- The state after reset with registers set. -/
def st (rs : List (Nat × Word)) : State := rs.foldl (fun s r => s.wr r.1 r.2) State.reset
/-- The same in run state. -/
def run (rs : List (Nat × Word)) : State := (st rs).setSysSt 3
/-- A state with a sequencer's state changed. -/
def qs (s : State) (n : Nat) (f : SeqSt → SeqSt) : State := s.setSeq n (f (s.seq n))
/-- Thread 1 runs and has the step `k` to do, with both arguments. -/
def stepping (k a b : Nat) (rs : List (Nat × Word)) : State :=
  run ([(R.seqStatus 1, 0x301#32), (R.seqStep 1 3, wordN (k * 2 ^ 28 + a * 2 ^ 16 + b))] ++ rs)
/-- Thread 1 has a period of 1,000 timebase cycles, on a carrier that reloads at its start. -/
def paced : List (Nat × Word) := [(R.seqPeriod 1, 1000#32), (R.pwmCarPeriod 1, 1000#32), (R.pwmCarCfg 1, 0x80000001#32)]
/-- A value of the tests. -/
def um (cmd n : Nat) (bs : List Byte) : List Byte := bytesLE 1 1 ++ bytesLE 1 cmd ++ [7#8, 7#8] ++ bytesLE 2 n ++ [0#8, 0#8] ++ bs
/-- A value of the tests. -/
def dbgS (rs : List (Nat × Word)) : State := { run ([(R.sysDbg, 2#32)] ++ rs) with tap := .dbgAccess }

/-! ### Ill-formed terms -/

/-- Two phases of energy in place of three. -/
theorem test_refuses_straitPowerFall : (Instr.straitPowerFall 9 [1, 2] [1, 2, 3]).wf = false := by decide
/-- Three voltages in place of four. -/
theorem test_refuses_meterWindow : (Instr.meterWindow 9 ⟨[1, 2, 3], [1, 2, 3, 4], [1, 2, 3], [1, 2, 3], 50⟩).wf = false := by decide
/-- Four phases of reactive energy in place of three. -/
theorem test_refuses_meterQuantum : (Instr.meterQuantum 9 [1, 2, 3] [1, 2, 3, 4]).wf = false := by decide
/-- A frame without its EtherType. -/
theorem test_refuses_ethFrameIngress : (Instr.ethFrameIngress 9 0 (List.replicate 13 0#8)).wf = false := by decide
/-- A CAN FD frame of 65 bytes. -/
theorem test_refuses_canRxFrame : (Instr.canRxFrame 9 0 0 ⟨0#32, 0#32, List.replicate 65 0#8⟩).wf = false := by decide
/-- A wake-up frame of nine bytes. -/
theorem test_refuses_canWake : (Instr.canWake 9 0 (.frame ⟨0#32, 0#32, List.replicate 9 0#8⟩)).wf = false := by decide
/-- A release of reset without the calibration of the 24th converter. -/
theorem test_refuses_resetRelease : (Instr.resetRelease 9 ⟨0, 0, 0, 0, [], [], List.replicate 23 (0, 32768), 0⟩).wf = false := by decide
/-! ### Worked examples of the spec -/

/-- The counters of engines 2 and 3 and their points (the example of *Address map*). -/
theorem test_address_and_point : R.gfeClCount 2 = 0x42800984 ∧ pointReg 0x200261 = some (R.gfeClCount 2) ∧
    R.gfeClCount 3 = 0x42800D84 ∧ pointReg 0x200361 = some (R.gfeClCount 3) := by
  decide +kernel

/-- The request of two points from shore (the example of *Time, Ethernet and Ulile*). -/
theorem test_two_points_from_shore :
    let m : List Byte := [1, 1, 7, 0, 2, 0, 0, 0, 0xE5, 0x0F, 0x80, 0, 5, 0, 0x0C, 0]
    let via : UliVia := .udp 0#48 0#32 0#16 0#32 0#16
    msgOk via m = true ∧ uliCount via m = 2 ∧ msgAt m 8 3 = 0x800000 + 4069 ∧ pointReg (msgAt m 12 3) = some 0x40300014 := by
  decide +kernel

/-- One quantum of an hour at rated export: 44,444.4 mWh in the register of total export, with transformers of 600/1 and 400/1 (the example of
*Islet*). -/
theorem test_quantum_at_rated_export :
    let s : State := { State.reset with isl := { IslSt.init with par := [(2, 600#32), (4, 400#32)] } }
    let u := s.islQuantum [-61728395, -61728395, -61728395] [0, 0, 0]
    tabGet (fun _ => 0) u.isl.energy 7 = 44444 ∧ tabGet (fun _ => 0) u.isl.energy 4 = 14814 ∧ tabGet (fun _ => 0) u.isl.energy 3 = 0 ∧
      tabGet (fun _ => 0) u.isl.residue 7 = 444400 := by
  decide +kernel


/-! ### The whole block -/

/-- Witness for the premises of `VectorUnitsAndPositionInterfaces`, part PositionInterfacesCount at a Z edge a whole number of turns after the last one: none. -/
theorem test_premises_vectorUnitsAndPositionInterfaces_positionInterfacesCount_zEdge :
    let s := ((run [(R.vecPosCfg 3, 0x40000000#32), (R.vecPosStatus 3, 2#32)]).upTo 100)
    s.posMode 3 = 1 ∧ s.rdB (R.vecPosStatus 3) 1 = true ∧
      (((s.pos 3).count : Int) - s.rdN (R.vecPosZcount 3)) % (s.encPerTurn 3 : Int) = 0 := by
  have h : (((run [(R.vecPosCfg 3, 0x40000000#32), (R.vecPosStatus 3, 2#32)]).upTo 100).pos 3).count = 0 ∧
      ((run [(R.vecPosCfg 3, 0x40000000#32), (R.vecPosStatus 3, 2#32)]).upTo 100).rdN (R.vecPosZcount 3) = 0 := by
    decide +kernel
  refine ⟨by decide +kernel, by decide +kernel, ?_⟩
  rw [h.1, h.2]
  simp

/-- Witness for the premises of `TimeChangesLieAtTheNextTick`: a step that sets the time. -/
theorem test_premises_timeChangesLieAtTheNextTick :
    ∃ s s', (s.tim.baseAt ≤ s.clk.now ∨ s.tim.baseAt = s.nextTick) ∧ step s = .next s' :=
  ⟨{ State.reset with pending := [.timeSet 9 (.core 0)] }, _, by decide +kernel, rfl⟩

/-- Witness for the premises of `StepRunsTheFrontCommandElseIdles`, part EmptyQueueIdles. -/
theorem test_premises_stepRunsTheFrontCommandElseIdles_emptyQueueIdles : State.reset.pending = [] := by
  decide +kernel

/-- Witness for the premises of `MemoryKeepsItsCanonicalForm`: a step that stores the record of a slot. -/
theorem test_premises_memoryKeepsItsCanonicalForm : ∃ s u : State, Memory.wf s.mem = true ∧ step s = .next u :=
  ⟨{ (st [(R.recCapBaseLo 3, 0x10000000#32)]).setCap 3 { CapSt.init with fin := [(0, [7#8])] } with pending := [.slotComplete 9 3] }, _,
    by decide +kernel, rfl⟩

/-- Witness for the premises of `StoresAndBoardsHaveTheirCommands`, part OnlyStoringCommandsChangeMemory: a command that stores nothing. -/
theorem test_premises_storesAndBoardsHaveTheirCommands_onlyStoringCommandsChangeMemory :
    ∃ (c : Instr) (s u : State), storesMemory c = false ∧ exec c s = .next u :=
  ⟨.meterQuantum 9 [1, 2, 3] [4, 5, 6], State.reset, _, rfl, rfl⟩

/-- Witness for the premises of `OnlyTheMeterTurnsTheMeter`: another command than the meter's. -/
theorem test_premises_onlyTheMeterTurnsTheMeter :
    ∃ (c : Instr) (s u : State), turnsMeter c = false ∧ exec c s = .next u :=
  ⟨.domainOffComplete 9 14, State.reset, _, rfl, rfl⟩

/-- Witness for the premises of `StoresAndBoardsHaveTheirCommands`, part OnlyBoardCommandsMoveTheBoards: another command than a board's. -/
theorem test_premises_storesAndBoardsHaveTheirCommands_onlyBoardCommandsMoveTheBoards :
    ∃ (c : Instr) (s u : State), movesBoard c = false ∧ exec c s = .next u :=
  ⟨.sealChange 9 false, State.reset, _, rfl, rfl⟩

/-- Witness for the premises of `RoundingAndSaturation`: a number of the format, and one beyond it. -/
theorem test_premises_roundingAndSaturation : (-2147483648 : Int) ≤ -2147483648 ∧ (-2147483648 : Int) ≤ 2147483647 ∧
    over32 2147483647 = false ∧ sat32 2147483648 = 2147483647 := by
  decide +kernel

/-! ### Sequencers, periods and the bus -/

/-- Witness for the premises of `SequencersStartWaitAndEnd`, part SequencerStartAndStop, clause by clause. -/
theorem test_premises_sequencersStartWaitAndEnd_sequencerStartAndStop :
    (let t : Nat := 5; let who : Initiator := .core 0; let n : Fin 4 := 1; let s : State := run [(R.seqPeriod 1, 1000#32)]; let x := s.upTo t; x.reaches who (R.seqCtrl n) 1#32 = true ∧ x.seqRuns n = false ∧ (x.seq n).startAt = none ∧ x.seqUnused n = false ∧ x.inRun = true ∧ x.clk.faulted = false) ∧
    (let t : Nat := 5; let who : Initiator := .core 0; let n : Fin 4 := 3; let s : State := run [(R.seqStatus 3, 1#32)]; let x := s.upTo t; x.reaches who (R.seqCtrl n) 1#32 = true ∧ x.seqRuns n = true) ∧
    (let t : Nat := 5; let who : Initiator := .core 0; let n : Fin 4 := 3; let s : State := qs (run []) 3 (fun q => { q with startAt := some 0 }); let x := s.upTo t; x.reaches who (R.seqCtrl n) 1#32 = true ∧ (x.seq n).startAt ≠ none) ∧
    (let t : Nat := 5; let who : Initiator := .core 0; let n : Fin 4 := 3; let s : State := qs (run []) 3 (fun q => { q with startAt := some 0 }); let x := s.upTo t; x.reaches who (R.seqCtrl n) 2#32 = true ∧ x.threadBlocked n = true ∧ x.clk.faulted = false ∧ (x.seq n).startAt ≠ none) ∧
    (let t : Nat := 5; let who : Initiator := .core 0; let n : Fin 4 := 0; let s : State := run [(R.seqStatus 0, 1#32)]; let x := s.upTo t; x.reaches who (R.seqCtrl n) 2#32 = true ∧ x.threadBlocked n = true ∧ x.clk.faulted = false ∧ (x.seq n).startAt = none ∧ x.seqRuns n = true) ∧
    (let t : Nat := 5; let who : Initiator := .core 0; let n : Fin 4 := 0; let s : State := run [(R.seqStatus 0, 1#32), (R.pwmSliceCfg 0, 0x80000000#32)]; let x := s.upTo t; x.reaches who (R.seqCtrl n) 2#32 = true ∧ x.threadBlocked n = false) := by
  decide +kernel

/-- Witness for the premises of `SequencersStartWaitAndEnd`, part WaitsAndCoreCalls, clause by clause. -/
theorem test_premises_sequencersStartWaitAndEnd_waitsAndCoreCalls :
    (let t : Nat := 700; let n : Fin 4 := 1; let s : State := stepping 10 2 0 []; let x := s.upTo t; x.stepReady n 10 = true) ∧
    (let t : Nat := 700; let n : Fin 4 := 1; let s : State := stepping 10 2 7 []; let x := s.upTo t; x.stepReady n 10 = true) ∧
    (let t : Nat := 700; let n : Fin 4 := 1; let s : State := qs (stepping 10 2 7 []) 1 (fun q => { q with callPair := some 2, callFrom := 640, callDue := some 705 }); let x := s.upTo t; let q := x.seq n; q.callPair = some 2 ∧ q.callDue = some 705 ∧ x.clk.now / 64 ≤ 705 / 64 ∧ x.clk.faulted = false ∧ x.reaches (.core 2) (R.seqCoreDone n) 1#32 = true) ∧
    (let t : Nat := 700; let n : Fin 4 := 1; let s : State := qs (stepping 10 2 7 []) 1 (fun q => { q with callPair := some 3, callFrom := 640 }); let x := s.upTo t; let q := x.seq n; q.callPair = some 3 ∧ x.reaches (.core 2) (R.seqCoreDone n) 1#32 = true) ∧
    (let t : Nat := 700; let n : Fin 4 := 1; let s : State := stepping 11 0 2 []; let x := s.upTo t; let q := x.seq n; x.stepReady n 11 = true ∧ q.doneAt + 640 < q.sampleAt + x.stepB n * 640) ∧
    (let t : Nat := 700; let n : Fin 4 := 1; let s : State := stepping 11 0 1 []; let x := s.upTo t; let q := x.seq n; x.stepReady n 11 = true ∧ q.sampleAt + x.stepB n * 640 ≤ q.doneAt + 640) ∧
    (let t : Nat := 700; let n : Fin 4 := 1; let s : State := qs (stepping 11 0 1 []) 1 (fun q => { q with waitDue := some 700 }); let x := s.upTo t; let q := x.seq n; q.waitDue = some 700 ∧ 700 ≤ x.clk.now ∧ x.clk.faulted = false) := by
  decide +kernel

/-- Witness for the premises of `UnitStepsTakeTheirTime`, clause by clause. -/
theorem test_premises_unitStepsTakeTheirTime :
    (let t : Nat := 700; let n : Fin 4 := 1; let s : State := stepping 2 0 0 []; let x := s.upTo t; x.stepReady n 2 = true) ∧
    (let t : Nat := 700; let n : Fin 4 := 1; let s : State := stepping 3 0 1 [(R.vecCfg 1, 0x80000000#32)]; let x := s.upTo t; x.stepReady n 3 = true) ∧
    (let t : Nat := 700; let n : Fin 4 := 1; let s : State := stepping 5 0 0 [(R.gfeCfg 1, 0x80000000#32)]; let x := s.upTo t; x.stepReady n 5 = true) ∧
    (let t : Nat := 700; let n : Fin 4 := 1; let s : State := stepping 6 0 127 []; let x := s.upTo t; x.stepReady n 6 = true) := by
  decide +kernel

/-- Witness for the premises of `UnitStepsTakeTheirTime`, part CommitEmitAndPost, clause by clause. -/
theorem test_premises_unitStepsTakeTheirTime_commitEmitAndPost :
    (let t : Nat := 700; let n : Fin 4 := 1; let s : State := stepping 7 0 0 []; let x := s.upTo t; x.stepReady n 7 = true) ∧
    (let t : Nat := 700; let n : Fin 4 := 1; let s : State := stepping 8 0 0 []; let x := s.upTo t; x.stepReady n 8 = true) ∧
    (let t : Nat := 700; let n : Fin 4 := 1; let s : State := stepping 9 0 3 []; let x := s.upTo t; x.stepReady n 9 = true) := by
  decide +kernel

/-- Witness for the premises of `UnitStepsTakeTheirTime`, part LoopGroupsShareTheEngine, clause by clause. -/
theorem test_premises_unitStepsTakeTheirTime_loopGroupsShareTheEngine :
    (let t : Nat := 700; let n : Fin 4 := 1; let s : State := stepping 4 0 0 []; let x := s.upTo t; let q := x.seq n; let a := fabCeil (q.doneAt + 640); let free := x.ce.until_ ≤ a ∧ x.ce.queue = [] ∧ x.groupFirst n a = true; x.stepReady n 4 = true ∧ a ≤ x.clk.now ∧ free) ∧
    (let t : Nat := 704; let n : Fin 4 := 1; let s : State := qs (stepping 4 0 0 [(R.seqStep 1 4, 0x10000000#32)]) 1 (fun q => { q with doneAt := 1 }); let x := s.upTo t; let q := x.seq n; let a := fabCeil (q.doneAt + 640); let free := x.ce.until_ ≤ a ∧ x.ce.queue = [] ∧ x.groupFirst n a = true; x.stepReady n 4 = true ∧ a ≤ x.clk.now ∧ free) ∧
    (let t : Nat := 720; let n : Fin 4 := 1; let s : State := { stepping 4 0 0 [] with ce := { CeSt.init with until_ := 641 } }; let x := s.upTo t; let q := x.seq n; let a := fabCeil (q.doneAt + 640); let free := x.ce.until_ ≤ a ∧ x.ce.queue = [] ∧ x.groupFirst n a = true; x.stepReady n 4 = true ∧ a ≤ x.clk.now ∧ ¬free) ∧
    (let t : Nat := 700; let n : Fin 4 := 1; let s : State := { stepping 4 0 0 [] with ce := { CeSt.init with until_ := 641, queue := [(0, 5)] } }; let x := s.upTo t; let q := x.seq n; let a := fabCeil (q.doneAt + 640); let free := x.ce.until_ ≤ a ∧ x.ce.queue = [] ∧ x.groupFirst n a = true; x.stepReady n 4 = true ∧ a ≤ x.clk.now ∧ ¬free) ∧
    (let t : Nat := 703; let n : Fin 4 := 1; let s : State := qs (stepping 4 0 0 []) 1 (fun q => { q with doneAt := 1 + 64 }); let x := s.upTo t; let q := x.seq n; let a := fabCeil (q.doneAt + 640); x.clk.now < a ∧ x.ceHead = none) ∧
    (let t : Nat := 768; let s : State := { stepping 4 0 0 [] with ce := { CeSt.init with until_ := 700, queue := [(1, 10)] } }; let x := s.upTo t; x.ceHead = some (1, 10) ∧ fabCeil (max x.ce.until_ (10 * 64)) ≤ x.clk.now ∧ x.clk.faulted = false ∧ x.groupFirst 1 (10 * 64) = true) ∧
    (let t : Nat := 700; let s : State := { stepping 4 0 0 [] with ce := { CeSt.init with until_ := 700, queue := [(1, 10)] } }; let x := s.upTo t; x.ceHead = some (1, 10) ∧ x.clk.now < fabCeil (max x.ce.until_ (10 * 64))) := by
  decide +kernel

/-- Witness for the premises of `SequencersStartWaitAndEnd`, part TimeoutAndEnd, clause by clause. -/
theorem test_premises_sequencersStartWaitAndEnd_timeoutAndEnd :
    (let t : Nat := 703; let n : Fin 4 := 1; let s : State := qs (stepping 10 2 0 []) 1 (fun q => { q with callPair := some 2, callDue := some 700 }); let x := s.upTo t; let q := x.seq n; q.callPair = some 2 ∧ q.callDue = some 700 ∧ 700 ≤ x.clk.now ∧ x.clk.faulted = false ∧ 700 / 64 = x.clk.now / 64) ∧
    (let t : Nat := 704; let n : Fin 4 := 1; let s : State := qs (stepping 10 2 0 [(R.seqStep 1 4, 0x10000000#32)]) 1 (fun q => { q with callPair := some 2, callDue := some 703 }); let x := s.upTo t; let q := x.seq n; q.callPair = some 2 ∧ q.callDue = some 703 ∧ 703 ≤ x.clk.now ∧ x.clk.faulted = false ∧ 703 / 64 < x.clk.now / 64) ∧
    (let t : Nat := 703; let n : Fin 4 := 1; let s : State := let s := qs (stepping 10 2 0 []) 1 (fun q => { q with toPair := some 2 }); { s with prot := { s.prot with inb := [(704, .coreTimeout 1), (705, .src 3 true)] } }; let x := s.upTo t; let q := x.seq n; q.callPair = none ∧ q.toPair = some 2 ∧ x.reaches (.core 2) (R.seqCoreDone n) 1#32 = true) ∧
    (let t : Nat := 700; let n : Fin 4 := 1; let s : State := stepping 0 0 0 []; let x := s.upTo t; x.stepReady n 0 = true ∧ x.twinOn = false) := by
  decide +kernel

/-- Witness for the premises of `EndInTheSameFabricCycleIsLate`, clause by clause. -/
theorem test_premises_endInTheSameFabricCycleIsLate :
    (let s : State := qs { st [] with clk := { (st []).clk with now := 64 } } 2 (fun q => { q with endAt := some 63 }); let n : Fin 4 := 2; s.onTime n = true) := by
  decide +kernel

/-- Witness for the premises of `SampleInstantsJudgeAndStartPeriods`, clause by clause. -/
theorem test_premises_sampleInstantsJudgeAndStartPeriods :
    (let t : Nat := 32000; let n : Fin 4 := 1; let s : State := run (paced ++ [(R.seqStatus 1, 1#32)]); let x := s.upTo t; let q := x.seq n; let noMirror := (x.mirrorsDue n ((if q.everRun then q.periods + 1 else 0) % 2 ^ 32) (x.seqRuns n)).1 = []; x.isSample n = true ∧ x.clk.faulted = false ∧ noMirror ∧ x.seqRuns n = true ∧ q.stopPend = false) ∧
    (let t : Nat := 32000; let n : Fin 4 := 1; let s : State := qs (run (paced ++ [(R.seqStatus 1, 1#32)])) 1 (fun q => { q with stopPend := true }); let x := s.upTo t; let q := x.seq n; let noMirror := (x.mirrorsDue n ((if q.everRun then q.periods + 1 else 0) % 2 ^ 32) (x.seqRuns n)).1 = []; x.isSample n = true ∧ x.clk.faulted = false ∧ noMirror ∧ x.seqRuns n = true ∧ q.stopPend = true) ∧
    (let t : Nat := 32000; let n : Fin 4 := 1; let s : State := qs (run paced) 1 (fun q => { q with startAt := some 0 }); let x := s.upTo t; let q := x.seq n; let noMirror := (x.mirrorsDue n ((if q.everRun then q.periods + 1 else 0) % 2 ^ 32) (x.seqRuns n)).1 = []; x.isSample n = true ∧ x.clk.faulted = false ∧ noMirror ∧ x.seqRuns n = false ∧ q.startAt = some 0 ∧ 0 + x.seqP n ≤ x.clk.now) ∧
    (let t : Nat := 32000; let n : Fin 4 := 1; let s : State := qs (run paced) 1 (fun q => { q with startAt := some 1 }); let x := s.upTo t; let q := x.seq n; let noMirror := (x.mirrorsDue n ((if q.everRun then q.periods + 1 else 0) % 2 ^ 32) (x.seqRuns n)).1 = []; x.isSample n = true ∧ x.clk.faulted = false ∧ noMirror ∧ x.seqRuns n = false ∧ q.startAt = some 1 ∧ x.clk.now < 1 + x.seqP n) ∧
    (let t : Nat := 32001; let n : Fin 4 := 1; let s : State := run paced; let x := s.upTo t; x.isSample n = false) := by
  decide +kernel

/-- Witness for the premises of `ForeignSignalWritesAreIgnored`, clause by clause. -/
theorem test_premises_foreignSignalWritesAreIgnored :
    (let t : Nat := 9; let who : Initiator := .core 1; let i : Fin 4096 := 4095; let s : State := run []; let x := s.upTo t; x.sigMayWrite who i = false ∧ x.rdB R.seqErr 31 = false) ∧
    (let t : Nat := 9; let who : Initiator := .core 1; let i : Fin 4096 := 5; let s : State := qs { run [] with sig := { State.reset.sig with decl := [(5, 0xB9000001#32)] } } 3 (fun q => { q with callPair := some 1 }); let x := s.upTo t; x.sigMayWrite who i = true ∧ x.sigForce i = none ∧ x.sigDomain i < 4) ∧
    (let t : Nat := 9; let who : Initiator := .core 1; let i : Fin 4096 := 5; let s : State := { run [] with sig := { State.reset.sig with decl := [(5, 0xF9000001#32)] } }; let x := s.upTo t; x.sigMayWrite who i = true ∧ x.sigForce i = none ∧ 4 ≤ x.sigDomain i ∧ x.commonPair i = none) := by
  decide +kernel

/-- Witness for the premises of `ClockFaultsStopTheSequencers`, clause by clause. -/
theorem test_premises_clockFaultsStopTheSequencers :
    (let t : Nat := 9; let s : State := run [(R.cruStatus, 0x10#32)]; let x := s.upTo t; x.rdF R.sysState 2 0 = 3 ∧ x.rdB R.cruStatus 4 = true) ∧
    (let t : Nat := 9; let count : Nat := 5401; let s : State := run []; let x := s.upTo t; let bad := ¬(4600 ≤ count ∧ count ≤ 5400); let alone := x.rdB R.cruStatus 0 = false ∧ x.rdB R.cruStatus 4 = true; x.rdF R.sysState 2 0 = 3 ∧ bad ∧ ¬alone) ∧
    (let t : Nat := 9; let count : Nat := 5400; let s : State := st []; let x := s.upTo t; let bad := ¬(4600 ≤ count ∧ count ≤ 5400); x.rdF R.sysState 2 0 ≠ 3 ∧ ¬bad) ∧
    (let count : Nat := 4600; let bad := ¬(4600 ≤ count ∧ count ≤ 5400); ¬bad) ∧
    (let t : Nat := 9; let count : Nat := 4599; let s : State := run [(R.cruStatus, 0x10#32)]; let x := s.upTo t; let bad := ¬(4600 ≤ count ∧ count ≤ 5400); let alone := x.rdB R.cruStatus 0 = false ∧ x.rdB R.cruStatus 4 = true; bad ∧ alone) ∧
    (let t : Nat := 9; let s : State := let s := run [(R.cruStatus, 0x18#32)]; { s with clk := { s.clk with safeOsc := some 1, grace := 8 } }; let x := s.upTo t; x.rdB R.cruStatus 3 = true ∧ x.clk.safeOsc = some 1 ∧ 1 + x.clk.grace ≤ x.clk.now ∧ ∀ n : Fin 4, x.threadHere n = true ∧ x.forceOf n = 0) ∧
    (let t : Nat := 9; let s : State := let s := run [(R.cruStatus, 0x18#32)]; { s with clk := { s.clk with safeOsc := some 1, grace := 9 } }; let x := s.upTo t; x.rdB R.cruStatus 3 = true ∧ x.clk.safeOsc = some 1 ∧ x.clk.now < 1 + x.clk.grace) := by
  decide +kernel

/-- Witness for the premises of `ClockFaultsStopTheSequencers`, clause by clause. -/
theorem test_premises_clockFaultsStopTheSequencers_2 :
    (let t : Nat := 9; let s : State := run []; let x := s.upTo t; x.rdB R.cruStatus 3 = false ∧ x.rdB R.cruStatus 4 = false ∧ x.rdF R.sysState 2 0 = 3) := by
  decide +kernel

/-- Witness for the premises of `WritesFollowTheAccessCodes`, clause by clause. -/
theorem test_premises_writesFollowTheAccessCodes :
    (let a : BitVec 40 := 0x40000002#40; isReg a.toNat = true ∧ a.toNat % 4 ≠ 0) ∧
    (let a : BitVec 40 := 0x40000004#40; let size : Size := .b8; isReg a.toNat = true ∧ size ≠ .b4) ∧
    (let t : Nat := 9; let who : Initiator := .core 0; let a : BitVec 40 := BitVec.ofNat 40 (R.sysIrqCfg 251); let d : Dword := 0xFFFFFFFF#64; let s : State := run []; let x := s.upTo t; x.reaches who a.toNat (d.setWidth 32) = true ∧ isReg a.toNat = true ∧ a.toNat % 4 = 0 ∧ blockExists (a.toNat / 0x100000) = true ∧ findRoute (writeRoutes (a.toNat / 0x100000)) a.toNat = none ∧ a.toNat ∉ forceRegs ∧ (regRow a.toNat).map (fun r => (r.w1c, r.lock)) = some (0, 0)) ∧
    (let t : Nat := 9; let who : Initiator := .core 0; let a : BitVec 40 := BitVec.ofNat 40 (R.sysIrqThresh 4); let d : Dword := 0xFFFFFFFF#64; let s : State := run []; let x := s.upTo t; x.reaches who a.toNat (d.setWidth 32) = true ∧ isReg a.toNat = true ∧ a.toNat % 4 = 0 ∧ blockExists (a.toNat / 0x100000) = true ∧ findRoute (writeRoutes (a.toNat / 0x100000)) a.toNat = none ∧ a.toNat ∉ forceRegs ∧ (regRow a.toNat).map (fun r => (r.w1c, r.lock)) = some (0, 0)) ∧
    (let t : Nat := 9; let who : Initiator := .core 0; let a : BitVec 40 := 0x08FFFFF8#40; let size : Size := .b8; let s : State := run []; let x := s.upTo t; x.mayAccess who true = true ∧ 0x08000000 ≤ a.toNat ∧ a.toNat + size.bytes ≤ 0x09000000 ∧ x.mem.bad = []) ∧
    (let t : Nat := 9; let who : Initiator := .core 0; let a : BitVec 40 := 0x08000000#40; let size : Size := .b1; let s : State := run []; let x := s.upTo t; x.mayAccess who true = true ∧ 0x08000000 ≤ a.toNat ∧ a.toNat + size.bytes ≤ 0x09000000 ∧ x.mem.bad = []) ∧
    (let t : Nat := 9; let who : Initiator := .core 0; let s : State := run []; let x := s.upTo t; x.reaches who R.sysLock 1#32 = true) := by
  decide +kernel

/-- Witness for the premises of `WritesFollowTheAccessCodes`, part LockedFieldsKeepTheirValue, clause by clause. -/
theorem test_premises_writesFollowTheAccessCodes_lockedFieldsKeepTheirValue :
    (let t : Nat := 9; let who : Initiator := .core 0; let a : BitVec 40 := BitVec.ofNat 40 (R.sysCpVector 1); let d : Dword := 0x11#64; let s : State := run [(R.sysLock, 1#32)]; let x := s.upTo t; x.rdB R.sysLock 0 = true ∧ x.reaches who a.toNat (d.setWidth 32) = true ∧ isReg a.toNat = true ∧ a.toNat % 4 = 0 ∧ blockExists (a.toNat / 0x100000) = true ∧ findRoute (writeRoutes (a.toNat / 0x100000)) a.toNat = none ∧ a.toNat ∉ forceRegs ∧ (regRow a.toNat).map (fun r => (r.rw, r.w1c)) = some (0, 0)) := by
  decide +kernel

/-- Witness for the premises of `WritesFollowTheAccessCodes`, part SetWinsInTheSameCycle, clause by clause. -/
theorem test_premises_writesFollowTheAccessCodes_setWinsInTheSameCycle :
    (let s : State := st []; let a : Nat := R.sysCpStatus 4; let i : Nat := 27; let w : Word := 0xFFFFFFFF#32; let r : RegRow := ⟨0x40000104, [(0x10, 5)], 0xF800FFFF, 0x0, 0x8000000, 0x0, 0x0, 0x0, 0x0⟩; regRow a = some r ∧ i < 32 ∧ bitOf (wordN r.w1c) i = true ∧ bitOf (wordN r.rw) i = false ∧ bitOf (wordN r.lock) i = false ∧ bitOf w i = true ∧ bitOf (s.raisedNow a) i = false) := by
  decide +kernel

/-! ### Sensing -/

/-- A state of the tests. -/
def ch (i : Nat) (rs : List (Nat × Word)) (c : ChainSt) : State := (run ([(R.sdfChIn i, 0x81000000#32), (R.sdfChCic i, 0x602000#32), (R.sdfChStatus i, 1#32)] ++ rs)).setChain i c

/-- A state of the tests. -/
def sarState (k : Nat) (rs : List (Nat × Word)) (c : SarSt) : State := (run ([(R.sarCfg k, 0x80020000#32)] ++ rs)).setSar k c

/-- Witness for the premises of `ChainsComputeAndReleaseOutputs`, part CapturedBitsMakeCicOutputs, clause by clause. -/
theorem test_premises_chainsComputeAndReleaseOutputs_capturedBitsMakeCicOutputs :
    (let i : Fin 112 := 111; let b : Bool := false; let s : State := ch 111 [(R.sdfChMon 111, 0x3FF0000#32)] ChainSt.init; let e := s.capAt i (s.chain i).n; let x := s.upTo e; let y := x.feedBit i b; let quiet := y.stuckJudge i e = y ∧ y.pfJudge i e true = y ∧ y.pfJudge i e false = y ∧ y.dcChainBit i e = y; s.capturing i = true ∧ quiet ∧ (∀ a ∈ x.prot.inb, e < a.1)) ∧
    (let i : Fin 112 := 111; let b : Bool := true; let s : State := ch 111 [(R.sdfChMon 111, 0x3FF0000#32)] { ChainSt.init with n := 5 }; let e := s.capAt i (s.chain i).n; let x := s.upTo e; let c := x.chain i; let y := x.feedBit i b; let quiet := y.stuckJudge i e = y ∧ y.pfJudge i e true = y ∧ y.pfJudge i e false = y ∧ y.dcChainBit i e = y; s.capturing i = true ∧ quiet ∧ (∀ a ∈ x.prot.inb, e < a.1) ∧ 0 < x.chR i ∧ c.n % x.chR i + 1 = x.chR i) ∧
    (let t : Nat := 9000; let i : Fin 112 := 111; let s : State := ch 111 [(R.sdfChMon 111, 0x3FF0000#32)] { ChainSt.init with n := 5 }; let e := s.capAt i (s.chain i).n; s.capturing i = true ∧ e ≤ t) ∧
    (let i : Fin 112 := 111; let s : State := run []; s.capturing i = false) ∧
    (let t : Nat := 9; let i : Fin 112 := 111; let s : State := ch 111 [(R.sdfChMon 111, 0x3FF0000#32)] { ChainSt.init with n := 5 }; let e := s.capAt i (s.chain i).n; s.capturing i = true ∧ t < e) ∧
    (let i : Fin 112 := 111; let bits : List Bool := []; let s : State := ch 111 [(R.sdfChMon 111, 0x3FF0000#32)] { ChainSt.init with n := 5 }; s.capturing i = true ∧ bits = []) := by
  decide +kernel

/-- Witness for the premises of `ChainsComputeAndReleaseOutputs`, part FilterOutputsAreComputed, clause by clause. -/
theorem test_premises_chainsComputeAndReleaseOutputs_filterOutputsAreComputed :
    (let t : Nat := 9; let i : Fin 112 := 5; let o : FiltOut := ⟨0, -640, 50, -4, false, false⟩; let s : State := ch 5 [(R.sdfChFir 5, 0x97010001#32), (R.sdfCoef 0, 0x400000#32)] { ChainSt.init with cic := [⟨0, 100, false, 0⟩] }; let x := s.upTo t; let c := x.chain i; x.chEn i = true ∧ x.firEn i = true ∧ x.firCompute i c.firNext = some o ∧ o.ecc = false) ∧
    (let t : Nat := 9; let i : Fin 112 := 5; let o : FiltOut := ⟨0, -640, 2147483647, -4, true, false⟩; let s : State := ch 5 [(R.sdfChFir 5, 0x80010001#32), (R.sdfCoef 0, 0x400000#32)] { ChainSt.init with cic := [⟨0, 1000, false, 0⟩] }; let x := s.upTo t; let c := x.chain i; x.chEn i = true ∧ x.firEn i = true ∧ x.firCompute i c.firNext = some o ∧ o.ecc = false) ∧
    (let t : Nat := 9; let i : Fin 112 := 5; let o : FiltOut := ⟨0, -640, 50, 0, false, false⟩; let s : State := ch 5 [(R.sdfChRs 5, 0x40000400#32), (R.sdfCoef 0, 0x400000#32)] { ChainSt.init with rsNext := -640, fir := [⟨1, 0, 5, 1, false, false⟩, ⟨0, 0, 100, 0, false, false⟩] }; let x := s.upTo t; let c := x.chain i; x.chEn i = true ∧ x.rsMode i ≠ 0 ∧ x.rsCompute i c.rsNext = some o ∧ o.ecc = false) ∧
    (let t : Nat := 9; let i : Fin 112 := 5; let o : FiltOut := ⟨0, -640, 50, -4, false, false⟩; let s : State := ch 5 [(R.sdfChFir 5, 0x97010001#32), (R.sdfCoef 0, 0x400000#32)] { ChainSt.init with cic := [⟨0, 100, false, 0⟩] }; let x := s.upTo t; let c := x.chain i; x.chEn i = true ∧ x.firEn i = true ∧ x.firCompute i c.firNext = some o ∧ x.firBase i ≤ 0 ∧ 0 < x.firBase i + x.firN i) := by
  decide +kernel

/-- Witness for the premises of `ChainsComputeAndReleaseOutputs`, part ChainsReleaseTheirOutputs, clause by clause. -/
theorem test_premises_chainsComputeAndReleaseOutputs_chainsReleaseTheirOutputs :
    (let t : Nat := 1000000; let i : Fin 112 := 5; let s : State := ch 5 [] { ChainSt.init with fir := [⟨0, -640, 7, 1, false, false⟩] }; let x := s.upTo t; let c := x.chain i; let inst := if x.rsMode i = 0 then x.firInst i c.relF else c.relTau; let out := if x.rsMode i = 0 then c.fir.find? (fun o => o.f == c.relF) else c.rs.find? (fun o => o.inst == inst); x.chEn i = true ∧ inst + x.chLat i ≤ x.tb ∧ x.chThread i ≠ 7 ∧ out = some ⟨0, -640, 7, 1, false, false⟩) ∧
    (let t : Nat := 1000000; let i : Fin 112 := 5; let s : State := ch 5 [(R.sdfChRs 5, 0x40000400#32)] { ChainSt.init with relTau := 3, rs := [⟨0, 3, 7, 1, false, false⟩] }; let x := s.upTo t; let c := x.chain i; let inst := if x.rsMode i = 0 then x.firInst i c.relF else c.relTau; let out := if x.rsMode i = 0 then c.fir.find? (fun o => o.f == c.relF) else c.rs.find? (fun o => o.inst == inst); x.chEn i = true ∧ inst + x.chLat i ≤ x.tb ∧ x.chThread i ≠ 7 ∧ out = some ⟨0, 3, 7, 1, false, false⟩) ∧
    (let t : Nat := 1000000; let i : Fin 112 := 5; let s : State := ch 5 [] ChainSt.init; let x := s.upTo t; let c := x.chain i; let inst := if x.rsMode i = 0 then x.firInst i c.relF else c.relTau; let out := if x.rsMode i = 0 then c.fir.find? (fun o => o.f == c.relF) else c.rs.find? (fun o => o.inst == inst); x.chEn i = true ∧ inst + x.chLat i ≤ x.tb ∧ x.chThread i ≠ 7 ∧ out = none) := by
  decide +kernel

/-- Witness for the premises of `ChainsComputeAndReleaseOutputs`, part DetectorsTakeEachOutput, clause by clause. -/
theorem test_premises_chainsComputeAndReleaseOutputs_detectorsTakeEachOutput :
    (let t : Nat := 1000000; let i : Fin 112 := 5; let s : State := ch 5 [] { ChainSt.init with fir := [⟨0, -640, 7, 1, false, false⟩] }; let x := s.upTo t; let c := x.chain i; x.chEn i = true ∧ x.firInst i c.detF + x.chLat i - x.rsLat i ≤ x.tb ∧ x.chThread i ≠ 7 ∧ c.fir.find? (fun o => o.f == c.detF) = some ⟨0, -640, 7, 1, false, false⟩) ∧
    (let t : Nat := 1000000; let i : Fin 112 := 5; let s : State := ch 5 [] ChainSt.init; let x := s.upTo t; let c := x.chain i; x.chEn i = true ∧ x.firInst i c.detF + x.chLat i - x.rsLat i ≤ x.tb ∧ x.chThread i ≠ 7 ∧ c.fir.find? (fun o => o.f == c.detF) = none) := by
  decide +kernel

/-- Witness for the premises of `StreamsAndLevelsAreSupervised`, part StuckStreamsAreFound, clause by clause. -/
theorem test_premises_streamsAndLevelsAreSupervised_stuckStreamsAreFound :
    (let i : Fin 112 := 5; let b : Bool := true; let s : State := ch 5 [(R.sdfChMon 5, 0x20001#32)] { ChainSt.init with last := some true, run := 1 }; let e := s.capAt i (s.chain i).n; let x := s.upTo e; let y := x.feedBit i b; s.capturing i = true ∧ (∀ a ∈ x.prot.inb, e < a.1) ∧ y.rdF (R.sdfChMon i) 25 16 ≤ (y.chain i).run ∧ y.rdB (R.sdfChStatus i) 1 = false) ∧
    (let i : Fin 112 := 5; let b : Bool := true; let s : State := ch 5 [(R.sdfChMon 5, 0x20001#32), (R.sdfChStatus 5, 0x83#32)] ChainSt.init; let e := s.capAt i (s.chain i).n; let x := s.upTo e; let y := x.feedBit i b; s.capturing i = true ∧ (∀ a ∈ x.prot.inb, e < a.1) ∧ y.rdB (R.sdfChStatus i) 1 = true ∧ y.rdF (R.sdfChMon i) 9 0 ≤ (y.chain i).since ∧ 0 < (y.chain i).since) := by
  decide +kernel

/-- Witness for the premises of `StreamsAndLevelsAreSupervised`, part ProtectionLevelsFireAndEnd, clause by clause. -/
theorem test_premises_streamsAndLevelsAreSupervised_protectionLevelsFireAndEnd :
    (let i : Fin 112 := 5; let trip : Bool := true; let b : Bool := true; let s : State := ch 5 [(R.sdfChMon 5, 0x3FF0000#32), (R.sdfChPf 5, 0x80000203#32), (R.sdfChPfTrip 5, 0xFF008000#32)] { ChainSt.init with trip := 2 }; let e := s.capAt i (s.chain i).n; let x := s.upTo e; let y := (x.feedBit i b).stuckJudge i e; let c := y.chain i; let cnt := if trip then c.trip else c.warn; let on := if trip then c.tripOn else c.warnOn; let deb := if trip then y.rdF (R.sdfChPf i) 11 8 else y.rdF (R.sdfChPf i) 3 0; s.capturing i = true ∧ (∀ a ∈ x.prot.inb, e < a.1) ∧ on = false ∧ 0 < cnt ∧ deb ≤ cnt) ∧
    (let i : Fin 112 := 5; let trip : Bool := false; let b : Bool := true; let s : State := ch 5 [(R.sdfChMon 5, 0x3FF0000#32), (R.sdfChPf 5, 0x80000203#32), (R.sdfChPfWarn 5, 0xFF008000#32)] { ChainSt.init with warn := 3 }; let e := s.capAt i (s.chain i).n; let x := s.upTo e; let y := (x.feedBit i b).stuckJudge i e; let c := y.chain i; let cnt := if trip then c.trip else c.warn; let on := if trip then c.tripOn else c.warnOn; let deb := if trip then y.rdF (R.sdfChPf i) 11 8 else y.rdF (R.sdfChPf i) 3 0; s.capturing i = true ∧ (∀ a ∈ x.prot.inb, e < a.1) ∧ on = false ∧ 0 < cnt ∧ deb ≤ cnt) ∧
    (let i : Fin 112 := 5; let trip : Bool := true; let b : Bool := true; let s : State := ch 5 [(R.sdfChMon 5, 0x3FF0000#32), (R.sdfChPf 5, 0#32)] { ChainSt.init with tripOn := true }; let e := s.capAt i (s.chain i).n; let x := s.upTo e; let y := (x.feedBit i b).stuckJudge i e; let c := y.chain i; let cnt := if trip then c.trip else c.warn; let on := if trip then c.tripOn else c.warnOn; s.capturing i = true ∧ (∀ a ∈ x.prot.inb, e < a.1) ∧ on = true ∧ cnt = 0) ∧
    (let i : Fin 112 := 5; let trip : Bool := false; let b : Bool := true; let s : State := ch 5 [(R.sdfChMon 5, 0x3FF0000#32), (R.sdfChPf 5, 0#32)] { ChainSt.init with warnOn := true }; let e := s.capAt i (s.chain i).n; let x := s.upTo e; let y := (x.feedBit i b).stuckJudge i e; let c := y.chain i; let cnt := if trip then c.trip else c.warn; let on := if trip then c.tripOn else c.warnOn; s.capturing i = true ∧ (∀ a ∈ x.prot.inb, e < a.1) ∧ on = true ∧ cnt = 0) := by
  decide +kernel

/-- Witness for the premises of `StreamsAndLevelsAreSupervised`, part RestoresAndForcedSubstitution, clause by clause. -/
theorem test_premises_streamsAndLevelsAreSupervised_restoresAndForcedSubstitution :
    (let t : Nat := 9; let who : Initiator := .core 0; let p : Fin 128 := 127; let s : State := run [(R.seqPairCfg 127, 0x80000000#32), (R.seqPairStatus 127, 0x30#32)]; let x := s.upTo t; x.reaches who (R.seqPairCtrl p) 1#32 = true ∧ x.pairEn p = true ∧ x.pairExcl p false = true ∧ x.reaches who (R.seqPairCtrl p) 2#32 = true ∧ x.pairExcl p true = true) ∧
    (let t : Nat := 9; let who : Initiator := .core 0; let j : Fin 16 := 15; let s : State := run [(R.seqSub 15, 0x80000004#32)]; let x := s.upTo t; x.reaches who (R.seqSub j) 0x10000000#32 = true ∧ x.subEn j = true ∧ x.subActive j = false) ∧
    (let t : Nat := 9; let who : Initiator := .core 0; let j : Fin 16 := 15; let s : State := run []; let x := s.upTo t; x.reaches who (R.seqSub j) 0x10000000#32 = true ∧ x.subEn j = false) ∧
    (let t : Nat := 9; let who : Initiator := .core 0; let j : Fin 16 := 15; let s : State := run [(R.seqSub 15, 0xC0000004#32)]; let x := s.upTo t; x.reaches who (R.seqSub j) 0x10000000#32 = true ∧ x.subActive j = true) := by
  decide +kernel

/-- Witness for the premises of `SarTriggersStartSequences`, part SarTriggersWaitForTheirStartEdge, clause by clause. -/
theorem test_premises_sarTriggersStartSequences_sarTriggersWaitForTheirStartEdge :
    (let t : Nat := 900; let who : Initiator := .core 0; let k : Fin 24 := 4; let j : Fin 4 := 3; let s : State := sarState 4 [(R.sarTrig 4, 11#32), (R.sarTimerInterval 3, 28#32)] SarSt.init; let x := s.upTo t; let h := x.sarHw k; let c := x.sar h; let e := x.sarEdge (x.tb - x.tb % 32 + 128); x.sarEn k = true ∧ x.sarGroup k = 0 ∧ natBit x.wear.live.sarWait k = false ∧ x.reaches who (R.sarCtrl k) 1#32 = true ∧ e ∉ c.regAt ∧ x.reaches who (R.sarCtrl k) 2#32 = true ∧ e ∉ c.injAt ∧ x.pdOn 15 = true ∧ x.rdN (R.sarTimerInterval j) ≠ 0 ∧ x.tb / 32 % (x.rdN (R.sarTimerInterval j) : Int) = (x.rdN (R.sarTimerPhase j) : Int) ∧ x.rdF (R.sarTrig k) 8 0 = 8 + j) := by
  decide +kernel

/-- Witness for the premises of `SarTriggersStartSequences`, part SarSequencesStartOnAnEdge, clause by clause. -/
theorem test_premises_sarTriggersStartSequences_sarSequencesStartOnAnEdge :
    (let t : Nat := 640; let e : Nat := 640; let k : Fin 24 := 23; let s : State := sarState 23 [] { SarSt.init with regAt := [640, 1280] }; let x := s.upTo t; let h := x.sarHw k; let c := x.sar h; x.pdOn 15 = true ∧ x.sarGroup k = 0 ∧ c.injAt = [] ∧ c.regAt.filter (fun e => decide (e ≤ x.clk.now)) = [e] ∧ c.reg = none ∧ c.held = false ∧ c.inj = none ∧ c.calAt = none ∧ c.calReq = none) ∧
    (let t : Nat := 640; let e : Nat := 640; let k : Fin 24 := 23; let s : State := sarState 23 [(R.sarOvr 23, 65535#32)] { SarSt.init with regAt := [640, 1280], reg := some 1 }; let x := s.upTo t; let h := x.sarHw k; let c := x.sar h; x.pdOn 15 = true ∧ x.sarGroup k = 0 ∧ c.injAt = [] ∧ c.regAt.filter (fun e => decide (e ≤ x.clk.now)) = [e] ∧ c.reg.isSome = true ∧ x.sarDue k = some 6400 ∧ e < 6400) ∧
    (let t : Nat := 6400; let e : Nat := 6400; let k : Fin 24 := 23; let s : State := sarState 23 [] { SarSt.init with regAt := [6400], reg := some 1 }; let x := s.upTo t; let h := x.sarHw k; let c := x.sar h; x.pdOn 15 = true ∧ x.sarGroup k = 0 ∧ c.injAt = [] ∧ c.regAt.filter (fun e => decide (e ≤ x.clk.now)) = [e] ∧ c.reg.isSome = true ∧ x.sarDue k = some 6400 ∧ 6400 ≤ e) := by
  decide +kernel

/-- Witness for the premises of `SarConversionsAndCalibrationsEnd`, part SarConversionsEnd, clause by clause. -/
theorem test_premises_sarConversionsAndCalibrationsEnd_sarConversionsEnd :
    (let t : Nat := 5760; let i : Nat := 0; let k : Fin 24 := 4; let s : State := sarState 4 [(R.sarEnt 4 0, 0x00010FFF#32)] { SarSt.init with reg := some 0 }; let x := s.upTo t; let h := x.sarHw k; let c := x.sar h; let d := c.convAt + (x.sarAcq k i + 8) * 640; x.pdOn 15 = true ∧ x.sarGroup k = 0 ∧ c.inj = none ∧ c.reg = some i ∧ c.injAt = [] ∧ (∀ e ∈ c.regAt, x.clk.now < e) ∧ i < 16 ∧ d ≤ x.clk.now ∧ x.clk.now < d + 640 ∧ x.rdF (R.sarEnt k i) 11 0 = 4095 ∧ i + 1 < x.sarRegLen k) ∧
    (let t : Nat := 9760; let i : Nat := 0; let k : Fin 24 := 4; let s : State := sarState 4 [(R.sarEnt 4 0, 0x00010FFF#32)] { SarSt.init with reg := some 0 }; let x := s.upTo t; let h := x.sarHw k; let c := x.sar h; let d := c.convAt + (x.sarAcq k i + 8) * 640; x.pdOn 15 = true ∧ x.sarGroup k = 0 ∧ c.inj = none ∧ c.reg = some i ∧ c.injAt = [] ∧ (∀ e ∈ c.regAt, x.clk.now < e) ∧ i < 16 ∧ d + 640 ≤ x.clk.now ∧ x.rdF (R.sarEnt k i) 11 0 = 4095 ∧ i + 1 < x.sarRegLen k) ∧
    (let t : Nat := 5760; let i : Nat := 14; let k : Fin 24 := 4; let s : State := sarState 4 [(R.sarCfg 4, 0x80100000#32), (R.sarEnt 4 14, 0xBD010FFF#32)] { SarSt.init with reg := some 14 }; let x := s.upTo t; let h := x.sarHw k; let c := x.sar h; let d := c.convAt + (x.sarAcq k i + 8) * 640; x.pdOn 15 = true ∧ x.sarGroup k = 0 ∧ c.inj = none ∧ c.reg = some i ∧ c.injAt = [] ∧ (∀ e ∈ c.regAt, x.clk.now < e) ∧ i < 16 ∧ d ≤ x.clk.now ∧ x.clk.now < d + 640 ∧ x.rdF (R.sarEnt k i) 11 0 = 4095 ∧ i + 1 < x.sarRegLen k) ∧
    (let t : Nat := 3760; let i : Nat := 0; let k : Fin 24 := 4; let s : State := sarState 4 [(R.sarEnt 4 0, 0x00010FFF#32)] { SarSt.init with reg := some 0 }; let x := s.upTo t; let h := x.sarHw k; let c := x.sar h; let d := c.convAt + (x.sarAcq k i + 8) * 640; x.pdOn 15 = true ∧ x.sarGroup k = 0 ∧ c.inj = none ∧ c.reg = some i ∧ c.injAt = [] ∧ (∀ e ∈ c.regAt, x.clk.now < e) ∧ i < 16 ∧ x.clk.now < d) := by
  decide +kernel

/-- Witness for the premises of `SarConversionsAndCalibrationsEnd`, part SarCalibration, clause by clause. -/
theorem test_premises_sarConversionsAndCalibrationsEnd_sarCalibration :
    (let t : Nat := 32000000000; let who : Initiator := .core 0; let k : Fin 24 := 4; let s : State := sarState 4 [(R.sarCalCfg 4, 1#32)] SarSt.init; let x := s.upTo t; let h := x.sarHw k; let c := x.sar h; x.sarGroup k = 0 ∧ x.reaches who (R.sarCtrl k) 4#32 = true ∧ x.sarEn k = true ∧ c.calReq = none ∧ x.pdOn 15 = true ∧ x.rdF (R.sarCalCfg k) 15 0 ≠ 0 ∧ c.calEnd + x.rdF (R.sarCalCfg k) 15 0 * second ≤ x.clk.now) ∧
    (let t : Nat := 3200000000; let k : Fin 24 := 4; let s : State := sarState 4 [(R.sarCalCfg 4, 1#32)] { SarSt.init with calReq := some 7 }; let x := s.upTo t; let h := x.sarHw k; let c := x.sar h; x.sarGroup k = 0 ∧ x.pdOn 15 = true ∧ c.calReq = some 7 ∧ c.calAt = none ∧ c.inj = none ∧ c.reg = none ∧ c.held = false ∧ c.calAgain = false ∧ c.injAt = [] ∧ c.regAt = [] ∧ max (x.sarUp 7) c.idleAt ≤ x.clk.now) ∧
    (let t : Nat := 3200000007; let k : Fin 24 := 4; let s : State := sarState 4 [(R.sarCalCfg 4, 1#32)] { SarSt.init with calReq := some 7 }; let x := s.upTo t; let h := x.sarHw k; let c := x.sar h; x.sarGroup k = 0 ∧ x.pdOn 15 = true ∧ c.calReq = some 7 ∧ 7 + 100 * msec ≤ x.clk.now) ∧
    (let t : Nat := 639; let k : Fin 24 := 4; let s : State := sarState 4 [(R.sarCalCfg 4, 1#32)] { SarSt.init with calReq := some 7 }; let x := s.upTo t; let h := x.sarHw k; let c := x.sar h; x.sarGroup k = 0 ∧ x.pdOn 15 = true ∧ c.calReq = some 7 ∧ c.calAt = none ∧ c.inj = none ∧ c.reg = none ∧ c.held = false ∧ c.calAgain = false ∧ c.injAt = [] ∧ c.regAt = [] ∧ x.clk.now < max (x.sarUp 7) c.idleAt) ∧
    (let t : Nat := 3276800; let k : Fin 24 := 4; let off : Int := -64; let gain : BitVec 16 := 33095#16; let s : State := sarState 4 [(R.sarCalCfg 4, 1#32)] { SarSt.init with calReq := some 0, calAt := some 0 }; let x := s.upTo t; let h := x.sarHw k; let c := x.sar h; let ends (b : Nat) : Prop := c.calAt = some b ∧ b + 5120 * 640 ≤ x.clk.now ∧ c.inj = none ∧ c.reg = none ∧ c.injAt = [] ∧ c.regAt = []; x.sarGroup k = 0 ∧ x.pdOn 15 = true ∧ ends 0 ∧ off.natAbs ≤ 64 ∧ ((gain.toNat : Int) - 32768).natAbs ≤ 327) ∧
    (let t : Nat := 3276800; let k : Fin 24 := 4; let off : Int := -65; let s : State := sarState 4 [(R.sarCalCfg 4, 1#32)] { SarSt.init with calReq := some 0, calAt := some 0 }; let x := s.upTo t; let h := x.sarHw k; let c := x.sar h; let ends (b : Nat) : Prop := c.calAt = some b ∧ b + 5120 * 640 ≤ x.clk.now ∧ c.inj = none ∧ c.reg = none ∧ c.injAt = [] ∧ c.regAt = []; x.sarGroup k = 0 ∧ x.pdOn 15 = true ∧ ends 0 ∧ 64 < off.natAbs) ∧
    (let t : Nat := 3276800; let k : Fin 24 := 4; let gain : BitVec 16 := 33096#16; let s : State := sarState 4 [(R.sarCalCfg 4, 1#32)] { SarSt.init with calReq := some 0, calAt := some 0 }; let x := s.upTo t; let h := x.sarHw k; let c := x.sar h; let ends (b : Nat) : Prop := c.calAt = some b ∧ b + 5120 * 640 ≤ x.clk.now ∧ c.inj = none ∧ c.reg = none ∧ c.injAt = [] ∧ c.regAt = []; x.sarGroup k = 0 ∧ x.pdOn 15 = true ∧ ends 0 ∧ 327 < ((gain.toNat : Int) - 32768).natAbs) := by
  decide +kernel

/-! ### Control -/

/-- A state of the tests. -/
def gpars (n : Nat) : List (Nat × Word) := [(R.gfeCfg n, 0x80000000#32), (R.gfeM n, 1677722#32), (R.gfeWMin n, 214748365#32), (R.gfeWSet n, 268435456#32), (R.gfeWMax n, 322122547#32), (R.gfeVSet n, 134217728#32), (R.gfeERamp n, 656#32), (R.gfeRV n, 6000000#32), (R.gfeILim n, 26843546#32), (R.gfeHandover n, 1#32), (R.gfeCnt n, 0x101#32), (R.gfePRecover n, 656#32)] ++ (List.range 8).map (fun j => (R.gfeFrtCurve n j, wordN (65536 * j)))

/-- A state of the tests. -/
def car2 : List (Nat × Word) := [(R.pwmCarPeriod 2, 1000#32), (R.pwmCarCfg 2, 0x80000001#32)]

/-- Witness for the premises of `VectorUnitsAndPositionInterfaces`, part BankSwapsAreRequested, clause by clause. -/
theorem test_premises_vectorUnitsAndPositionInterfaces_bankSwapsAreRequested :
    (let t : Nat := 9; let who : Initiator := .core 0; let n : Fin 4 := 3; let s : State := run [(R.ceGroup 63, 0xB00201FE#32), (R.ceParam14 1022, 1#32), (R.ceParam14 1023, 1024#32)]; let x := s.upTo t; x.reaches who R.ceBankCtrl (wordN (2 ^ n.val)) = true ∧ x.rdB R.ceBankCtrl n = false ∧ x.threadCtx n = [510, 511] ∧ ∀ c ∈ x.threadCtx n, (x.ctxPar (1 - x.bankOf n) c).valid = true) ∧
    (let t : Nat := 9; let who : Initiator := .core 0; let n : Fin 4 := 3; let s : State := run [(R.ceGroup 63, 0xB00201FE#32), (R.ceParam14 1022, 1#32), (R.ceParam14 1023, 1025#32)]; let x := s.upTo t; x.reaches who R.ceBankCtrl (wordN (2 ^ n.val)) = true ∧ x.rdB R.ceBankCtrl n = false ∧ 511 ∈ x.threadCtx n ∧ (x.ctxPar (1 - x.bankOf n) 511).valid = false) := by
  decide +kernel

/-- Witness for the premises of `VectorUnitsAndPositionInterfaces`, part VectorUnitCommands, clause by clause. -/
theorem test_premises_vectorUnitsAndPositionInterfaces_vectorUnitCommands :
    (let t : Nat := 9; let who : Initiator := .core 0; let u8 : Fin 8 := 6; let s : State := run [(R.vecCfg 6, 0x80000000#32)]; let x := s.upTo t; x.vecEn u8 = true ∧ u8.val % 2 = 0 ∧ x.reaches who (R.vecCtrl u8) 1#32 = true ∧ x.vecState u8 = 0 ∧ x.inRun = true ∧ x.reaches who (R.vecCtrl u8) 2#32 = true ∧ x.reaches who (R.vecCtrl u8) 8#32 = true ∧ x.vecState u8 ≠ 7) ∧
    (let t : Nat := 9; let who : Initiator := .core 0; let u8 : Fin 8 := 6; let s : State := run [(R.vecCfg 6, 0x80000000#32), (R.vecStatus 6, 1#32)]; let x := s.upTo t; x.vecEn u8 = true ∧ u8.val % 2 = 0 ∧ x.reaches who (R.vecCtrl u8) 1#32 = true ∧ x.vecState u8 ≠ 0) ∧
    (let t : Nat := 9; let who : Initiator := .core 0; let u8 : Fin 8 := 6; let s : State := st [(R.vecCfg 6, 0x80000000#32)]; let x := s.upTo t; x.vecEn u8 = true ∧ u8.val % 2 = 0 ∧ x.reaches who (R.vecCtrl u8) 1#32 = true ∧ x.inRun = false) ∧
    (let t : Nat := 9; let who : Initiator := .core 0; let u8 : Fin 8 := 6; let s : State := run [(R.vecCfg 6, 0x80000000#32), (R.vecStatus 6, 7#32), (R.protThrStatus 3, 0x1000#32)]; let x := s.upTo t; x.reaches who (R.vecCtrl u8) 16#32 = true ∧ x.vecEn u8 = true ∧ x.vecState u8 = 7 ∧ x.ascReq (u8 / 2) = true) ∧
    (let t : Nat := 9; let who : Initiator := .core 0; let u8 : Fin 8 := 6; let s : State := run [(R.vecCfg 6, 0x80000000#32), (R.vecStatus 6, 7#32)]; let x := s.upTo t; let v := x.vec u8; let sv := x.rdF (R.vecSig1 u8) 27 16; let high := x.rdS (R.vecUrLimit u8) * (if sv = 0xFFF then 0 else sval (x.sigStable sv).val) * 2 ^ 28 ≤ x.rdS (R.vecVratio u8) * v.omega.natAbs * x.rdS (R.vecPsiM u8); x.reaches who (R.vecCtrl u8) 16#32 = true ∧ x.vecEn u8 = true ∧ x.vecState u8 = 7 ∧ high) ∧
    (let t : Nat := 9; let who : Initiator := .core 0; let u8 : Fin 8 := 6; let s : State := { run [(R.vecCfg 6, 0x80000000#32), (R.vecStatus 6, 7#32), (R.vecUrLimit 6, 1#32), (R.vecSig1 6, 0#32)] with sig := { State.reset.sig with stable := [(0, ⟨1#32, 0#16⟩)] } }; let x := s.upTo t; let v := x.vec u8; let sv := x.rdF (R.vecSig1 u8) 27 16; let high := x.rdS (R.vecUrLimit u8) * (if sv = 0xFFF then 0 else sval (x.sigStable sv).val) * 2 ^ 28 ≤ x.rdS (R.vecVratio u8) * v.omega.natAbs * x.rdS (R.vecPsiM u8); x.reaches who (R.vecCtrl u8) 16#32 = true ∧ x.vecEn u8 = true ∧ x.vecState u8 = 7 ∧ x.ascReq (u8 / 2) = false ∧ ¬high) := by
  decide +kernel

/-- Witness for the premises of `VectorUnitsAndPositionInterfaces`, part PositionInterfacesCount, clause by clause. -/
theorem test_premises_vectorUnitsAndPositionInterfaces_positionInterfacesCount :
    (let t : Nat := 100; let k : Fin 4 := 3; let a : Bool := true; let b : Bool := false; let s : State := run [(R.vecPosCfg 3, 0x40000000#32), (R.vecPosZcount 3, 5#32)]; let x := s.upTo t; let p := x.pos k; let st := R.vecPosStatus k; x.posMode k = 1 ∧ x.encFree k 0 = true ∧ p.a ≠ a ∧ p.b = b ∧ x.encFree k 2 = true ∧ x.rdB st 1 = false) ∧
    (let t : Nat := 100; let k : Fin 4 := 3; let a : Bool := false; let b : Bool := false; let s : State := { run [(R.vecPosCfg 3, 0x40000000#32)] with poss := [(3, { PosSt.init with a := true })] }; let x := s.upTo t; let p := x.pos k; x.posMode k = 1 ∧ x.encFree k 0 = true ∧ p.a ≠ a ∧ p.b = b) ∧
    (let t : Nat := 100; let k : Fin 4 := 3; let a : Bool := true; let b : Bool := true; let s : State := run [(R.vecPosCfg 3, 0x40000000#32)]; let x := s.upTo t; let p := x.pos k; x.posMode k = 1 ∧ x.encFree k 0 = true ∧ x.encFree k 1 = true ∧ p.a ≠ a ∧ p.b ≠ b) ∧
    (let t : Nat := 100; let k : Fin 4 := 3; let s : State := run [(R.vecPosCfg 3, 0x40000000#32), (R.vecPosStatus 3, 2#32)]; let x := s.upTo t; let p := x.pos k; let st := R.vecPosStatus k; x.posMode k = 1 ∧ x.encFree k 2 = true ∧ x.rdB st 1 = true ∧ (((p.count : Int) - x.rdN (R.vecPosZcount k)) % (x.encPerTurn k : Int)) = 0) ∧
    (let t : Nat := 100; let k : Fin 4 := 3; let s : State := { run [(R.vecPosCfg 3, 0x4FF00000#32)] with prot := { State.reset.prot with lines := [(73, 51), (74, 51), (75, 51)] } }; let x := s.upTo t; x.posMode k = 1 ∧ x.encFree k 0 = false ∧ x.encFree k 1 = false ∧ x.encFree k 2 = false) ∧
    (let t : Nat := 320000; let k : Fin 4 := 3; let s : State := { run [(R.vecPosCfg 3, 0x40000000#32), (R.vecPosSpd 3, 0x100#32)] with poss := [(3, { PosSt.init with edge := some 0, quiet := false })] }; let x := s.upTo t; let p := x.pos k; x.posMode k = 1 ∧ p.edge = some 0 ∧ (0 : Int) + x.rdF (R.vecPosSpd k) 23 8 * (10 * usec : Nat) ≤ x.tb) ∧
    (let t : Nat := 100; let k : Fin 4 := 3; let lowBefore : Bool := false; let noReturn : Bool := false; let errBit : Bool := true; let s : State := run [(R.vecPosCfg 3, 0x9000C000#32)]; let x := s.upTo t; let bad := lowBefore || noReturn || (errBit && x.rdB (R.vecPosCfg k) 28); x.posMode k = 2 ∧ x.rdB (R.vecPosCfg k) 29 = false ∧ bad) := by
  decide +kernel

/-- Witness for the premises of `VectorUnitsAndPositionInterfaces`, part PositionInterfacesCount, clause by clause. -/
theorem test_premises_vectorUnitsAndPositionInterfaces_positionInterfacesCount_2 :
    (let t : Nat := 100; let k : Fin 4 := 3; let lowBefore : Bool := false; let noReturn : Bool := false; let errBit : Bool := true; let s : State := run [(R.vecPosCfg 3, 0x8000C000#32)]; let x := s.upTo t; let bad := lowBefore || noReturn || (errBit && x.rdB (R.vecPosCfg k) 28); x.posMode k = 2 ∧ x.rdB (R.vecPosCfg k) 29 = false ∧ bad = false) := by
  decide +kernel

/-- Witness for the premises of `GridFormingAndBlackStart`, part GridFormingCommands, clause by clause. -/
theorem test_premises_gridFormingAndBlackStart_gridFormingCommands :
    (let t : Nat := 9; let who : Initiator := .core 0; let n : Fin 4 := 3; let s : State := run (gpars 3); let x := s.upTo t; let st := R.gfeStatus n; let ct := R.gfeCtrl n; x.gfeEn n = true ∧ x.reaches who ct 1#32 = true ∧ x.gfeState n = 0 ∧ x.inRun = true ∧ x.reaches who ct 2#32 = true ∧ x.reaches who ct 4#32 = true ∧ x.rdB st 12 = false ∧ x.gfeValid n = true) ∧
    (let t : Nat := 9; let who : Initiator := .core 0; let n : Fin 4 := 3; let s : State := run [(R.gfeCfg 3, 0x80000000#32), (R.gfeStatus 3, 1#32)]; let x := s.upTo t; let st := R.gfeStatus n; let ct := R.gfeCtrl n; x.gfeEn n = true ∧ x.reaches who ct 1#32 = true ∧ x.gfeState n ≠ 0 ∧ x.reaches who ct 4#32 = true ∧ x.rdB st 12 = false ∧ x.gfeValid n = false) ∧
    (let t : Nat := 9; let who : Initiator := .core 0; let n : Fin 4 := 3; let s : State := st [(R.gfeCfg 3, 0x80000000#32)]; let x := s.upTo t; let ct := R.gfeCtrl n; x.gfeEn n = true ∧ x.reaches who ct 1#32 = true ∧ x.inRun = false) := by
  decide +kernel

/-- Witness for the premises of `GridFormingAndBlackStart`, part BlackStartCommands, clause by clause. -/
theorem test_premises_gridFormingAndBlackStart_blackStartCommands :
    (let t : Nat := 9; let who : Initiator := .core 0; let n : Fin 4 := 3; let s : State := run [(R.gfeBsCfg 3, 0x40000000#32)]; let x := s.upTo t; let ct := R.gfeBsCtrl n; let may := (x.bsState n = 0 ∨ x.bsState n = 6) ∧ x.gfeState n = 0 ∧ x.rdF (R.gfeBsCfg n) 31 30 ≠ 0 ∧ x.inRun = true; x.reaches who ct 1#32 = true ∧ may ∧ x.reaches who ct 2#32 = true) ∧
    (let t : Nat := 9; let who : Initiator := .core 0; let n : Fin 4 := 3; let s : State := run [(R.gfeBsCfg 3, 0xC0000000#32), (R.gfeBsStatus 3, 6#32)]; let x := s.upTo t; let ct := R.gfeBsCtrl n; let may := (x.bsState n = 0 ∨ x.bsState n = 6) ∧ x.gfeState n = 0 ∧ x.rdF (R.gfeBsCfg n) 31 30 ≠ 0 ∧ x.inRun = true; x.reaches who ct 1#32 = true ∧ may) ∧
    (let t : Nat := 9; let who : Initiator := .core 0; let n : Fin 4 := 3; let s : State := run [(R.gfeBsCfg 3, 0x40000000#32), (R.gfeBsStatus 3, 3#32)]; let x := s.upTo t; let ct := R.gfeBsCtrl n; let may := (x.bsState n = 0 ∨ x.bsState n = 6) ∧ x.gfeState n = 0 ∧ x.rdF (R.gfeBsCfg n) 31 30 ≠ 0 ∧ x.inRun = true; x.reaches who ct 1#32 = true ∧ ¬may) := by
  decide +kernel

/-- Witness for the premises of `SoundFramesAndOffsets`, part SoundRegisterCommands, clause by clause. -/
theorem test_premises_soundFramesAndOffsets_soundRegisterCommands :
    (let t : Nat := 9; let who : Initiator := .core 0; let s : State := { run [(R.sndCfg, 0xC0000000#32), (R.sndTxType, 2#32)] with snd := { SndSt.init with fifo := [⟨1, 2, 3, 4, 5, 6⟩] } }; let x := s.upTo t; let ty := x.rdF R.sndTxType 3 0; let may := x.rdB R.sndStatus 8 = false ∧ x.rdB R.sndCfg 30 = true ∧ x.sndEn = true ∧ (ty = 2 ∨ ty = 3 ∨ ty = 14); x.reaches who R.sndCtrl 1#32 = true ∧ may ∧ x.reaches who R.sndCtrl 2#32 = true) ∧
    (let t : Nat := 9; let who : Initiator := .core 0; let s : State := run [(R.sndCfg, 0xC0000000#32), (R.sndTxType, 14#32)]; let x := s.upTo t; let ty := x.rdF R.sndTxType 3 0; let may := x.rdB R.sndStatus 8 = false ∧ x.rdB R.sndCfg 30 = true ∧ x.sndEn = true ∧ (ty = 2 ∨ ty = 3 ∨ ty = 14); x.reaches who R.sndCtrl 1#32 = true ∧ may) ∧
    (let t : Nat := 9; let who : Initiator := .core 0; let s : State := run [(R.sndCfg, 0xC0000000#32), (R.sndTxType, 4#32)]; let x := s.upTo t; let ty := x.rdF R.sndTxType 3 0; let may := x.rdB R.sndStatus 8 = false ∧ x.rdB R.sndCfg 30 = true ∧ x.sndEn = true ∧ (ty = 2 ∨ ty = 3 ∨ ty = 14); x.reaches who R.sndCtrl 1#32 = true ∧ ¬may) := by
  decide +kernel

/-- Witness for the premises of `SoundFramesAndOffsets`, part SoundFrames, clause by clause. -/
theorem test_premises_soundFramesAndOffsets_soundFrames :
    (let t : Nat := 0; let f : TxFrame := ⟨false, 2, 0, some 0, 0, false, false⟩; let k : Nat := 0; let s : State := { run [(R.sndCfg, 0x80000000#32)] with snd := { SndSt.init with tx := { SndTx.init with frame := some ⟨false, 2, 0, some 0, 0, false, false⟩ } } }; let x := s.upTo t; x.snd.tx.frame = some f ∧ f.startK = some k ∧ f.live = false ∧ chipAt k ≤ x.tb ∧ x.tb < chipAt (k + frameChips)) ∧
    (let t : Nat := 115200000000; let f : TxFrame := ⟨false, 2, 0, some 0, 0, true, false⟩; let k : Nat := 0; let s : State := { run [(R.sndCfg, 0x80000000#32)] with snd := { SndSt.init with tx := { SndTx.init with frame := some ⟨false, 2, 0, some 0, 0, true, false⟩ } } }; let x := s.upTo t; x.snd.tx.frame = some f ∧ f.startK = some k ∧ f.live = true ∧ chipAt (k + frameChips) ≤ x.tb ∧ f.sw = false) ∧
    (let t : Nat := 9; let s : State := run []; let x := s.upTo t; x.sndEn = false) ∧
    (let t : Nat := 9; let e : Nat := 0; let est : Nat := 0; let c : Fin 16 := 15; let sender : BitVec 12 := 5#12; let ty : BitVec 4 := 3#4; let payload : Word := 7#32; let crc : BitVec 16 := 0#16; let s : State := run [(R.sndCfg, 0x80000000#32), (R.sndCorr 15, 0x80000000#32)]; let x := s.upTo t; let fits := sndCrc (bitsMsb 12 sender.toNat ++ bitsMsb 4 ty.toNat ++ bitsMsb 32 payload.toNat) = crc.toNat; x.sndEn = true ∧ x.rdB (R.sndCorr c) 31 = true ∧ x.rdF (R.sndCorr c) 5 0 ≤ 62 ∧ x.inTime e est = true ∧ ¬fits) ∧
    (let t : Nat := 9; let e : Nat := 0; let est : Nat := 0; let c : Fin 16 := 15; let sender : BitVec 12 := 5#12; let ty : BitVec 4 := 3#4; let payload : Word := 7#32; let crc : BitVec 16 := BitVec.ofNat 16 (sndCrc (bitsMsb 12 5 ++ bitsMsb 4 3 ++ bitsMsb 32 7)); let s : State := { run [(R.sndCfg, 0x80000000#32), (R.sndCorr 15, 0x80000000#32)] with snd := { SndSt.init with tx := { SndTx.init with bad := [(-5, 5)] } } }; let x := s.upTo t; let fits := sndCrc (bitsMsb 12 sender.toNat ++ bitsMsb 4 ty.toNat ++ bitsMsb 32 payload.toNat) = crc.toNat; x.sndEn = true ∧ x.rdB (R.sndCorr c) 31 = true ∧ x.rdF (R.sndCorr c) 5 0 ≤ 62 ∧ x.inTime e est = true ∧ fits ∧ x.spanBad est = true) ∧
    (let t : Nat := 9; let e : Nat := 0; let est : Nat := 0; let c : Fin 16 := 15; let sender : BitVec 12 := 5#12; let ty : BitVec 4 := 3#4; let payload : Word := 7#32; let crc : BitVec 16 := BitVec.ofNat 16 (sndCrc (bitsMsb 12 5 ++ bitsMsb 4 3 ++ bitsMsb 32 7)); let s : State := run [(R.sndCfg, 0x80000000#32), (R.sndCorr 15, 0x80000000#32), (R.sndId, 5#32), (R.sndCount1, 0x00FF0000#32)]; let x := s.upTo t; let own := x.rdF R.sndId 11 0; let fits := sndCrc (bitsMsb 12 sender.toNat ++ bitsMsb 4 ty.toNat ++ bitsMsb 32 payload.toNat) = crc.toNat; x.sndEn = true ∧ x.rdB (R.sndCorr c) 31 = true ∧ x.rdF (R.sndCorr c) 5 0 ≤ 62 ∧ x.inTime e est = true ∧ fits ∧ x.spanBad est = false ∧ sender.toNat = own) ∧
    (let t : Nat := 9; let e : Nat := 0; let est : Nat := 0; let c : Fin 16 := 15; let sender : BitVec 12 := 5#12; let ty : BitVec 4 := 14#4; let payload : Word := 7#32; let crc : BitVec 16 := BitVec.ofNat 16 (sndCrc (bitsMsb 12 5 ++ bitsMsb 4 14 ++ bitsMsb 32 7)); let s : State := run [(R.sndCfg, 0x80000000#32), (R.sndCorr 15, 0x80000000#32)]; let x := s.upTo t; let own := x.rdF R.sndId 11 0; let fits := sndCrc (bitsMsb 12 sender.toNat ++ bitsMsb 4 ty.toNat ++ bitsMsb 32 payload.toNat) = crc.toNat; x.sndEn = true ∧ x.rdB (R.sndCorr c) 31 = true ∧ x.rdF (R.sndCorr c) 5 0 ≤ 62 ∧ x.inTime e est = true ∧ fits ∧ x.spanBad est = false ∧ sender.toNat ≠ own ∧ x.snd.fifo.length < 32 ∧ ty.toNat ≠ 1 ∧ ty.toNat ≠ 2 ∧ ty.toNat ≠ 3) := by
  decide +kernel

/-- Witness for the premises of `SoundFramesAndOffsets`, part SoundFrames, clause by clause. -/
theorem test_premises_soundFramesAndOffsets_soundFrames_2 :
    (let t : Nat := 9; let e : Nat := 10; let est : Nat := 0; let s : State := run [(R.sndCfg, 0x80000000#32), (R.sndCorr 15, 0x80000000#32)]; let x := s.upTo t; x.inTime e est = false) := by
  decide +kernel

/-- Witness for the premises of `SoundFramesAndOffsets`, part SoundOffsetsAndClaims, clause by clause. -/
theorem test_premises_soundFramesAndOffsets_soundOffsetsAndClaims :
    (let t : Nat := 9; let s : State := { qs (run []) 0 (fun q => { q with sampleAt := 9 }) with snd := { SndSt.init with wait := [(2, some ⟨9, 5, 0, 0, 0⟩)] } }; let x := s.upTo t; let lim := min x.clk.now (x.seq x.sndThread).sampleAt; x.sndWait 2 = some ⟨9, 5, 0, 0, 0⟩ ∧ 9 ≤ lim) ∧
    (let t : Nat := 9; let s : State := { qs (run []) 0 (fun q => { q with sampleAt := 9 }) with snd := { SndSt.init with wait := [(2, some ⟨10, 5, 0, 0, 0⟩)], resyncs := [⟨10, 5, 1, 0, 0⟩] } }; let x := s.upTo t; let lim := min x.clk.now (x.seq x.sndThread).sampleAt; x.sndWait 2 = some ⟨10, 5, 0, 0, 0⟩ ∧ lim < 10 ∧ ∀ w ∈ x.snd.resyncs, lim < w.at_) ∧
    (let t : Nat := 9; let s : State := { qs (run []) 0 (fun q => { q with sampleAt := 9 }) with snd := { SndSt.init with resyncs := [⟨9, 5, 1, 0, 0⟩] } }; let x := s.upTo t; let lim := min x.clk.now (x.seq x.sndThread).sampleAt; x.snd.resyncs = [⟨9, 5, 1, 0, 0⟩] ∧ 9 ≤ lim) ∧
    (let t : Nat := 9; let s : State := { run [] with snd := { SndSt.init with resync := some (5, 9), claims := [(1, 2, 0)] } }; let x := s.upTo t; x.snd.resync = some (5, 9) ∧ 9 ≤ x.clk.now) ∧
    (let t : Nat := 9; let s : State := { run [] with snd := { SndSt.init with resync := some (5, 10), claims := [(1, 2, 0)] } }; let x := s.upTo t; x.snd.resync = some (5, 10) ∧ x.clk.now < 10) := by
  decide +kernel

/-- Witness for the premises of `ReloadsAndCommitsSetTheSlices`, part ReloadsTakeTheShadowSets, clause by clause. -/
theorem test_premises_reloadsAndCommitsSetTheSlices_reloadsTakeTheShadowSets :
    (let t : Nat := 32000; let c : Fin 16 := 2; let s : State := { run (car2 ++ [(R.pwmSliceCfg 127, 0x82000000#32), (R.pwmSliceCfg 83, 0x82000000#32)]) with slices := [(83, { SliceSt.init with shadow := ⟨5, 9, false⟩ }), (127, { SliceSt.init with shadow := ⟨5, 9, false⟩, late := some ⟨6, 8, true⟩ })] }; let x := s.upTo t; x.carOn c = true ∧ x.isReload c x.tb = true ∧ x.slEn 127 = true ∧ x.slCar 127 = c ∧ x.slAnpc 127 = false ∧ (∀ m : Fin 6, x.motCar m ≠ c) ∧ x.slEn 83 = true ∧ x.slCar 83 = c ∧ x.slAnpc 83 = false) ∧
    (let t : Nat := 32032; let c : Fin 16 := 2; let s : State := run car2; let x := s.upTo t; x.isReload c x.tb = false) := by
  decide +kernel

/-- Witness for the premises of `ReloadsAndCommitsSetTheSlices`, part CoreGroupsCommitTheirSlices, clause by clause. -/
theorem test_premises_reloadsAndCommitsSetTheSlices_coreGroupsCommitTheirSlices :
    (let t : Nat := 3200; let who : Initiator := .core 0; let g : BitVec 4 := 8#4; let s : State := { run (car2 ++ [(R.pwmSliceCfg 127, 0x82500000#32), (R.pwmCgrpMask 3 3, 0x80000000#32)]) with slices := [(127, { SliceSt.init with staged := some ⟨5, 9, false⟩ })] }; let x := s.upTo t; x.reaches who R.pwmCcommit (g.setWidth 32) = true ∧ (x.slice 127).staged = some ⟨5, 9, false⟩ ∧ g.getLsbD 3 = true ∧ x.sliceGroup 127 = some 3 ∧ x.slOwner 127 = 5 ∧ (x.commitLate (x.slCar 127) (x.slice 127).from_).1 = false) ∧
    (let t : Nat := 31936; let who : Initiator := .core 0; let g : BitVec 4 := 8#4; let s : State := { run (car2 ++ [(R.pwmSliceCfg 127, 0x82500000#32), (R.pwmCgrpMask 3 3, 0x80000000#32)]) with slices := [(127, { SliceSt.init with staged := some ⟨5, 9, false⟩ })] }; let x := s.upTo t; x.reaches who R.pwmCcommit (g.setWidth 32) = true ∧ (x.slice 127).staged = some ⟨5, 9, false⟩ ∧ g.getLsbD 3 = true ∧ x.sliceGroup 127 = some 3 ∧ x.slOwner 127 = 5 ∧ x.commitLate (x.slCar 127) (x.slice 127).from_ = (true, true)) ∧
    (let t : Nat := 3200; let who : Initiator := .core 0; let g : BitVec 4 := 8#4; let s : State := { run (car2 ++ [(R.pwmSliceCfg 127, 0x82400000#32), (R.pwmCgrpMask 3 3, 0x80000000#32)]) with slices := [(127, { SliceSt.init with staged := some ⟨5, 9, false⟩ })] }; let x := s.upTo t; x.reaches who R.pwmCcommit (g.setWidth 32) = true ∧ (x.slice 127).staged = some ⟨5, 9, false⟩ ∧ x.slOwner 127 ≠ 5) := by
  decide +kernel

/-- Witness for the premises of `SlicesAndLegUnitsFollowTheirLists`, part SlicesFollowTheirDwells, clause by clause. -/
theorem test_premises_slicesAndLegUnitsFollowTheirLists_slicesFollowTheirDwells :
    (let t : Nat := 9; let i : Fin 128 := 127; let s : State := { run [(R.pwmSliceCfg 127, 0x82000000#32)] with slices := [(127, { SliceSt.init with aOn := true, todo := [⟨9, none⟩] })] }; let x := s.upTo t; let l := x.slice i; x.slEn i = true ∧ x.slAnpc i = false ∧ l.todo = ⟨9, none⟩ :: [] ∧ l.from_ + 9 ≤ x.clk.now ∧ x.sliceHeld i = false) ∧
    (let t : Nat := 9; let i : Fin 128 := 5; let s : State := { run [(R.pwmSliceCfg 5, 0x82000000#32), (R.pwmSliceDtR 5, 1#32)] with slices := [(5, { SliceSt.init with bOn := true, todo := [⟨9, some 1⟩, ⟨20, none⟩] })] }; let x := s.upTo t; let l := x.slice i; x.slEn i = true ∧ x.slAnpc i = false ∧ l.todo = ⟨9, some 1⟩ :: [⟨20, none⟩] ∧ l.from_ + 9 ≤ x.clk.now ∧ x.sliceHeld i = false ∧ l.aOn = false ∧ x.clk.now < l.from_ + 9 + x.slDtR i) ∧
    (let t : Nat := 9; let i : Fin 128 := 5; let s : State := { run [(R.pwmSliceCfg 5, 0x82000000#32)] with slices := [(5, { SliceSt.init with due := some (true, 9) })] }; let x := s.upTo t; let l := x.slice i; l.due = some (true, 9) ∧ 9 ≤ x.clk.now ∧ x.slAnpc i = false ∧ l.onCmd = none ∧ x.ownOn i true = false ∧ l.bOn = false ∧ l.bOffAt + x.slDtR i ≤ 9) ∧
    (let t : Nat := 9; let i : Fin 128 := 125; let s : State := { run [(R.pwmSliceCfg 125, 0x82000000#32)] with slices := [(125, { SliceSt.init with due := some (true, 9), bOn := true })] }; let x := s.upTo t; let l := x.slice i; l.due = some (true, 9) ∧ 9 ≤ x.clk.now ∧ x.slAnpc i = false ∧ l.onCmd = none ∧ x.ownOn i true = false ∧ l.bOn = true ∧ i.val < 126) ∧
    (let t : Nat := 9; let i : Fin 128 := 127; let s : State := { run [(R.pwmSliceCfg 127, 0x82000000#32)] with slices := [(127, { SliceSt.init with due := some (true, 9), bOn := true })] }; let x := s.upTo t; let l := x.slice i; l.due = some (true, 9) ∧ 9 ≤ x.clk.now ∧ x.slAnpc i = false ∧ l.onCmd = none ∧ x.ownOn i true = false ∧ l.bOn = true) ∧
    (let t : Nat := 9; let i : Fin 128 := 95; let s : State := { run [(R.pwmSliceCfg 95, 0x82000000#32)] with slices := [(95, { SliceSt.init with aOn := true, todo := [⟨9, none⟩] })] }; let x := s.upTo t; let l := x.slice i; x.slEn i = true ∧ x.slAnpc i = false ∧ l.todo = ⟨9, none⟩ :: [] ∧ l.from_ + 9 ≤ x.clk.now ∧ x.sliceHeld i = false) ∧
    (let t : Nat := 9; let i : Fin 128 := 95; let s : State := run []; let x := s.upTo t; let l := x.slice i; l.todo = [] ∧ l.due = none) := by
  decide +kernel

/-- Witness for the premises of `SlicesAndLegUnitsFollowTheirLists`, part LegUnitsFollowTheirLists, clause by clause. -/
theorem test_premises_slicesAndLegUnitsFollowTheirLists_legUnitsFollowTheirLists :
    (let t : Nat := 9; let g : Fin 42 := 41; let s : State := { run [(R.pwmSliceCfg 123, 0x82000000#32), (R.pwmLegCfg 41, 0x40000000#32)] with legs := [(41, { LegSt.init with todo := [⟨9, some 2⟩] })] }; let x := s.upTo t; let l := x.leg g; x.slEn (3 * g.val) = true ∧ x.legMode g = 1 ∧ l.todo = ⟨9, some 2⟩ :: [] ∧ l.from_ + 9 ≤ x.clk.now ∧ l.ovr = 0 ∧ l.hold = none ∧ l.path.step = none) ∧
    (let t : Nat := 9; let g : Fin 42 := 41; let s : State := { run [(R.pwmSliceCfg 123, 0x82000000#32), (R.pwmLegCfg 41, 0x40000000#32)] with legs := [(41, { LegSt.init with todo := [⟨9, some 2⟩], path := ⟨some 1, some 3, some ⟨2, true, 50⟩⟩ })] }; let x := s.upTo t; let l := x.leg g; x.slEn (3 * g.val) = true ∧ x.legMode g = 1 ∧ l.todo = ⟨9, some 2⟩ :: [] ∧ l.from_ + 9 ≤ x.clk.now ∧ l.ovr = 0 ∧ l.hold = none ∧ l.path.step = some ⟨2, true, 50⟩) ∧
    (let t : Nat := 9; let g : Fin 42 := 41; let s : State := { run [(R.pwmSliceCfg 123, 0x82000000#32), (R.pwmLegCfg 41, 0x40000000#32)] with legs := [(41, { LegSt.init with todo := [⟨9, some 2⟩], ovr := 1 })] }; let x := s.upTo t; let l := x.leg g; x.slEn (3 * g.val) = true ∧ x.legMode g = 1 ∧ l.todo = ⟨9, some 2⟩ :: [] ∧ l.from_ + 9 ≤ x.clk.now ∧ l.ovr ≠ 0) ∧
    (let t : Nat := 9; let g : Fin 42 := 41; let s : State := { run [(R.pwmSliceCfg 123, 0x82000000#32), (R.pwmLegCfg 41, 0x40000000#32)] with legs := [(41, { LegSt.init with path := ⟨some 1, some 3, some ⟨2, true, 9⟩⟩ })] }; let x := s.upTo t; let l := x.leg g; l.path.step = some ⟨2, true, 9⟩ ∧ 9 ≤ x.clk.now ∧ l.ovr = 0 ∧ l.hold = none) ∧
    (let t : Nat := 9; let g : Fin 42 := 41; let s : State := run []; let x := s.upTo t; let l := x.leg g; l.todo = [] ∧ l.path.step = none) := by
  decide +kernel

/-- Witness for the premises of `ReloadsAndCommitsSetTheSlices`, part CompareTriggersAndTripInputs, clause by clause. -/
theorem test_premises_reloadsAndCommitsSetTheSlices_compareTriggersAndTripInputs :
    (let t : Nat := 320; let i : Fin 128 := 127; let k : Fin 2 := 1; let w : Fin 8 := 7; let high : Bool := true; let s : State := run (car2 ++ [(R.pwmSliceCfg 127, 0x82000000#32), (R.pwmSliceTrg1 127, 0x8000000A#32), (R.sarCfg 23, 0x80010000#32), (R.sarTrig 23, 0x1FF#32), (R.pwmTrip 7, 0xC0000000#32)]); let x := s.upTo t; let free := x.lineFree (32 + w) ((x.rdF (R.pwmTrip w) 7 0 + 1) * 32); let hit := x.rdB (trgReg i k) 31 = true ∧ x.carOn (x.slCar i) = true ∧ x.carPos (x.slCar i) x.tb = 32 * x.rdF (trgReg i k) 20 0; hit ∧ x.sarEn 23 = true ∧ x.sarGroup 23 = 0 ∧ natBit x.wear.live.sarWait 23 = false ∧ x.rdF (R.sarTrig 23) 8 0 = 0x100 + 2 * i + k ∧ x.rdB (R.pwmTrip w) 31 = true ∧ free = true ∧ high = x.rdB (R.pwmTrip w) 30 ∧ x.rdB (R.pwmTrip w) 29 = false) ∧
    (let t : Nat := 320; let w : Fin 8 := 0; let high : Bool := true; let s : State := run [(R.pwmTrip 0, 0xA0000000#32), (R.protSrcLive 11, 0xFFFFFFFF#32)]; let x := s.upTo t; let free := x.lineFree (32 + w) ((x.rdF (R.pwmTrip w) 7 0 + 1) * 32); x.rdB (R.pwmTrip w) 31 = true ∧ free = true ∧ high ≠ x.rdB (R.pwmTrip w) 30 ∧ x.rdB (R.pwmTrip w) 29 = true) ∧
    (let t : Nat := 320; let i : Fin 128 := 0; let k : Fin 2 := 0; let w : Fin 8 := 0; let s : State := run []; let x := s.upTo t; let hit := x.rdB (trgReg i k) 31 = true ∧ x.carOn (x.slCar i) = true ∧ x.carPos (x.slCar i) x.tb = 32 * x.rdF (trgReg i k) 20 0; ¬hit ∧ x.rdB (R.pwmTrip w) 31 = false) := by
  decide +kernel

/-! ### Gates and links -/

/-- A state of the tests. -/
def lk (rs : List (Nat × Word)) (k : LinkSt) : State := (run ([(R.stlCfg 31, 0x80000000#32), (R.stlStatus 31, 1#32)] ++ rs)).setLink 31 k

/-- A state of the tests. -/
def brd (b : BoardSt) : State := { run [] with boards := [(31, b)] }

/-- Witness for the premises of `LinksSendAndReceiveFrames`, part EachSlotSendsItsFrame, clause by clause. -/
theorem test_premises_linksSendAndReceiveFrames_eachSlotSendsItsFrame :
    (let t : Nat := 6401; let l : Fin 32 := 31; let s : State := run []; let x := s.upTo t; x.wearDownTime l < 10 * second ∧ x.tb % 6400 ≠ 0) ∧
    (let t : Nat := 6400; let l : Fin 32 := 31; let s : State := lk [] { LinkSt.init with slotAt := some 6400 }; let x := s.upTo t; let k := x.link l; x.wearDownTime l < 10 * second ∧ k.slotAt = some x.clk.now) ∧
    (let t : Nat := 6400; let l : Fin 32 := 31; let s : State := run []; let x := s.upTo t; let k := x.link l; let slot := (x.tb / 6400).toNat; x.wearDownTime l < 10 * second ∧ x.tb % 6400 = 0 ∧ k.slotAt ≠ some x.clk.now ∧ x.linkLeg l = none ∧ slot % 1000 ≠ 0 ∧ x.linkSends l = false) ∧
    (let t : Nat := 6400; let l : Fin 32 := 31; let s : State := lk [] { LinkSt.init with holdOn := true, holdSent := 9 }; let x := s.upTo t; let k := x.link l; let slot := (x.tb / 6400).toNat; x.wearDownTime l < 10 * second ∧ x.tb % 6400 = 0 ∧ k.slotAt ≠ some x.clk.now ∧ x.linkLeg l = none ∧ slot % 1000 ≠ 0 ∧ x.linkSends l = true ∧ k.resume = false ∧ k.holdOn = true ∧ k.holdSent < 10) ∧
    (let t : Nat := 6393600; let l : Fin 32 := 31; let s : State := lk [] { LinkSt.init with epochDue := true }; let x := s.upTo t; let k := x.link l; let slot := (x.tb / 6400).toNat; x.wearDownTime l < 10 * second ∧ x.tb % 6400 = 0 ∧ k.slotAt ≠ some x.clk.now ∧ x.linkLeg l = none ∧ slot % 1000 ≠ 0 ∧ x.linkSends l = true ∧ k.resume = false ∧ k.holdOn = false ∧ k.state = [] ∧ k.epochDue = true) ∧
    (let t : Nat := 6400; let l : Fin 32 := 31; let s : State := lk [] { LinkSt.init with state := [⟨5, true, 3, 1, 0, 7, 0⟩] }; let x := s.upTo t; let k := x.link l; let slot := (x.tb / 6400).toNat; x.wearDownTime l < 10 * second ∧ x.tb % 6400 = 0 ∧ k.slotAt ≠ some x.clk.now ∧ x.linkLeg l = none ∧ slot % 1000 ≠ 0 ∧ x.linkSends l = true ∧ k.resume = false ∧ k.holdOn = false ∧ k.state = [⟨5, true, 3, 1, 0, 7, 0⟩] ∧ 7 < x.clk.now) ∧
    (let t : Nat := 6400; let l : Fin 32 := 31; let s : State := lk [] LinkSt.init; let x := s.upTo t; let k := x.link l; let slot := (x.tb / 6400).toNat; x.wearDownTime l < 10 * second ∧ x.tb % 6400 = 0 ∧ k.slotAt ≠ some x.clk.now ∧ x.linkLeg l = none ∧ slot % 1000 ≠ 0 ∧ x.linkSends l = true ∧ k.resume = false ∧ k.holdOn = false ∧ k.state = [] ∧ k.epochDue = false ∧ x.edgesToSend l = [] ∧ k.cont = none ∧ slot % 8 ≠ 7) := by
  decide +kernel

/-- Witness for the premises of `LinksSendAndReceiveFrames`, part UpstreamFramesAndSilence, clause by clause. -/
theorem test_premises_linksSendAndReceiveFrames_upstreamFramesAndSilence :
    (let t : Nat := 9; let l : Fin 32 := 31; let lineOk : Bool := false; let bytes : List Byte := mkFrame 8 0 5 (bytesLE 13 7); let s : State := lk [(R.stlCount0 31, 0xFFFF0000#32)] LinkSt.init; let x := s.upTo t; x.rdB (R.stlCfg l) 31 = true ∧ (lineOk && frameOk bytes) = false) ∧
    (let t : Nat := 9; let l : Fin 32 := 31; let lineOk : Bool := true; let bytes : List Byte := mkFrame 8 0 5 (bytesLE 13 7); let s : State := lk [] LinkSt.init; let x := s.upTo t; x.rdB (R.stlCfg l) 31 = true ∧ lineOk = true ∧ frameOk bytes = true ∧ fieldLE bytes 1 1 = 8) ∧
    (let t : Nat := 102400; let l : Fin 32 := 31; let s : State := lk [] { LinkSt.init with runFrom := some 0 }; let x := s.upTo t; x.rdB (R.stlCfg l) 31 = true ∧ x.upSilent l = true) ∧
    (let t : Nat := 9; let l : Fin 32 := 31; let s : State := run []; let x := s.upTo t; x.upSilent l = false) := by
  decide +kernel

/-- Witness for the premises of `DriverBoardsHearAndAct`, part DriverPortsHearFrames, clause by clause. -/
theorem test_premises_driverBoardsHearAndAct_driverPortsHearFrames :
    (let lineOk : Bool := true; let bytes : List Byte := mkFrame 1 0 5 (bytesLE 13 0); (lineOk && downValid bytes) = false) ∧
    (let lineOk : Bool := true; let bytes : List Byte := mkFrame 5 0x21 5 (bytesLE 13 0); lineOk = true ∧ downValid bytes = true ∧ fieldLE bytes 1 1 ≤ 5) ∧
    (let lineOk : Bool := true; let bytes : List Byte := mkFrame 0 0 5 (bytesLE 13 0); lineOk = true ∧ downValid bytes = true ∧ fieldLE bytes 1 1 ≤ 5) ∧
    (let t : Nat := 12800; let l : Fin 32 := 31; let p : Fin 2 := 1; let s : State := brd (BoardSt.init.setPort 1 { PortSt.init with heardAt := some 0, lapsed := false }); let x := s.upTo t; let b := x.board l; let pt := b.port p; pt.heardAt = some 0 ∧ pt.lapsed = false ∧ 0 + 12800 ≤ x.clk.now) ∧
    (let t : Nat := 102400; let l : Fin 32 := 31; let p : Fin 2 := 1; let s : State := brd (BoardSt.init.setPort 1 { PortSt.init with heardAt := some 0, synced := true }); let x := s.upTo t; let b := x.board l; b.portSilent p x.clk.now = true) ∧
    (let t : Nat := 9; let l : Fin 32 := 31; let p : Fin 2 := 1; let s : State := brd (BoardSt.init.setPort 1 { PortSt.init with heardAt := some 0, lapsed := true }); let x := s.upTo t; let b := x.board l; let pt := b.port p; pt.lapsed = true ∧ b.portSilent p x.clk.now = false) ∧
    (let t : Nat := 9; let l : Fin 32 := 31; let p : Fin 2 := 1; let s : State := brd BoardSt.init; let x := s.upTo t; let b := x.board l; let pt := b.port p; pt.heardAt = none) := by
  decide +kernel

/-- Witness for the premises of `DriverBoardsHearAndAct`, part DriverBoardsActOnTheirOwn, clause by clause. -/
theorem test_premises_driverBoardsHearAndAct_driverBoardsActOnTheirOwn :
    (let t : Nat := 9; let l : Fin 32 := 31; let s : State := brd { BoardSt.init with mode := .run, levels := 63, acc := [⟨1, 5, false, 0, 0⟩] }; let x := s.upTo t; let b := x.board l; b.lapses x.clk.now = b ∧ b.mode = .run ∧ b.acc = [⟨1, 5, false, 0, 0⟩] ∧ b.ahead x.clk.now 0 ≤ 0 ∧ b.due = []) ∧
    (let t : Nat := 102400; let l : Fin 32 := 31; let s : State := brd (({ BoardSt.init with mode := .run } : BoardSt).setPort 1 { PortSt.init with heardAt := some 0, synced := true }); let x := s.upTo t; let b := x.board l; b.portSilent 0 x.clk.now = true ∧ b.portSilent 1 x.clk.now = true) ∧
    (let t : Nat := 9; let l : Fin 32 := 31; let c : Fin 6 := 5; let s : State := brd { BoardSt.init with mode := .fault, supply := 32 }; let x := s.upTo t; let b := x.board l; b.mode = .fault ∧ setNatBit b.supply c false = 0) ∧
    (let t : Nat := 9; let l : Fin 32 := 31; let c : Fin 6 := 5; let s : State := brd { BoardSt.init with mode := .fault, supply := 33 }; let x := s.upTo t; let b := x.board l; setNatBit b.supply c false ≠ 0) ∧
    (let t : Nat := 9; let l : Fin 32 := 31; let s : State := brd ({ BoardSt.init with mode := .run, levels := 63, acc := [⟨1, 5, false, 0, 50⟩] }.setPort 1 { PortSt.init with heardAt := some 0, synced := true }); let x := s.upTo t; let b := x.board l; b.lapses x.clk.now = b ∧ b.due = [] ∧ (∀ e ∈ b.acc, 0 < b.ahead x.clk.now e.time) ∧ b.portSilent 1 x.clk.now = false) := by
  decide +kernel

/-! ### Auxiliary drives -/

/-- A state of the tests. -/
def mtr (m : Nat) (rs : List (Nat × Word)) (v : AuxSt) : State := (run ([(R.auxCfg m, 0x80000000#32), (R.pwmCarPeriod 2, 1000#32), (R.pwmCarCfg 2, 0x80000001#32), (R.pwmSliceCfg (84 + 3 * m), 0x82000000#32)] ++ rs)).setMot m v

/-- Witness for the premises of `MotorsStartStopAndAreProtected`, part MotorCommands, clause by clause. -/
theorem test_premises_motorsStartStopAndAreProtected_motorCommands :
    (let t : Nat := 9; let who : Initiator := .core 0; let m : Fin 6 := 5; let s : State := mtr 5 [] AuxSt.init; let x := s.upTo t; let may := x.motEn m = true ∧ x.motState m = 0 ∧ x.inRun = true ∧ x.rdB R.protStatus 31 = false ∧ x.rdB R.auxBusStatus 4 = false ∧ x.rdB R.auxBusStatus 1 = false; x.reaches who (R.auxCtrl m) 2#32 = true ∧ may ∧ x.reaches who (R.auxCtrl m) 4#32 = true ∧ x.motState m ≠ 6) ∧
    (let t : Nat := 9; let who : Initiator := .core 0; let m : Fin 6 := 5; let s : State := mtr 5 [(R.auxBusStatus, 2#32)] AuxSt.init; let x := s.upTo t; let may := x.motEn m = true ∧ x.motState m = 0 ∧ x.inRun = true ∧ x.rdB R.protStatus 31 = false ∧ x.rdB R.auxBusStatus 4 = false ∧ x.rdB R.auxBusStatus 1 = false; x.reaches who (R.auxCtrl m) 2#32 = true ∧ ¬may) ∧
    (let t : Nat := 9; let who : Initiator := .core 0; let m : Fin 6 := 5; let s : State := mtr 5 [(R.auxStatus 5, 0x00100006#32)] AuxSt.init; let x := s.upTo t; x.reaches who (R.auxCtrl m) 8#32 = true ∧ x.motState m = 6 ∧ x.motCauseHolds m = false) ∧
    (let t : Nat := 9; let who : Initiator := .core 0; let m : Fin 6 := 5; let s : State := mtr 5 [(R.auxStatus 5, 0x00300006#32), (R.auxBusStatus, 2#32)] AuxSt.init; let x := s.upTo t; x.reaches who (R.auxCtrl m) 8#32 = true ∧ x.motState m = 6 ∧ x.motCauseHolds m = true) := by
  decide +kernel

/-- Witness for the premises of `MotorsStartStopAndAreProtected`, part AuxiliaryBusThresholds, clause by clause. -/
theorem test_premises_motorsStartStopAndAreProtected_auxiliaryBusThresholds :
    (let t : Nat := 64000000; let m : Fin 6 := 5; let s : State := mtr 5 [(R.auxBusCfg, 0x80010001#32), (R.auxStatus 5, 5#32)] AuxSt.init; let x := s.upTo t; let b := R.auxBusStatus; let live := x.motState m ≠ 0 ∧ x.motState m ≠ 6; x.pdOn 15 = true ∧ x.rdB R.auxBusCfg 31 = true ∧ x.rdB b 6 = false ∧ live) ∧
    (let t : Nat := 64000000; let m : Fin 6 := 5; let s : State := { mtr 5 [(R.auxBusCfg, 0x80010001#32), (R.auxStatus 5, 0x80002#32)] AuxSt.init with aux := { AuxAll.init with chopFrom := some 63968000, below2 := some 32000000 } }; let x := s.upTo t; let b := R.auxBusStatus; x.pdOn 15 = true ∧ x.aux.chopFrom = some 63968000 ∧ 63968000 + x.rdF R.auxBusCfg 22 16 * usec ≤ x.clk.now ∧ x.rdB b 7 = false ∧ x.aux.below2 = some 32000000 ∧ x.rdB b 4 = false ∧ 32000000 + x.rdF R.auxBusCfg 7 0 * msec ≤ x.clk.now ∧ x.rdB (R.auxStatus m) 19 = true) ∧
    (let t : Nat := 64000000; let m : Fin 6 := 5; let s : State := { mtr 5 [(R.auxBusCfg, 0#32), (R.auxCfg 5, 0x84000000#32), (R.auxStatus 5, 0x80002#32)] AuxSt.init with aux := { AuxAll.init with below2 := some 64000000 } }; let x := s.upTo t; let b := R.auxBusStatus; x.pdOn 15 = true ∧ x.aux.below2 = some 64000000 ∧ x.rdB b 4 = false ∧ 64000000 + x.rdF R.auxBusCfg 7 0 * msec ≤ x.clk.now ∧ x.rdB (R.auxStatus m) 19 = true ∧ x.rdB (R.auxCfg m) 26 = true) := by
  decide +kernel

/-- Witness for the premises of `MotorsStartStopAndAreProtected`, part MotorCurrentWindows, clause by clause. -/
theorem test_premises_motorsStartStopAndAreProtected_motorCurrentWindows :
    (let t : Nat := 9; let h : Fin 18 := 17; let s : State := mtr 5 [(R.auxStatus 5, 2#32), (R.auxBrk 5, 3#32)] AuxSt.init; let x := s.upTo t; let m := h.val / 3; let v := x.mot m; x.pdOn 15 = true ∧ x.motState m = 2 ∧ v.gap = none ∧ x.motState m ≠ 6) ∧
    (let t : Nat := 9; let s : State := mtr 5 [(R.auxStatus 5, 2#32)] { AuxSt.init with gap := some 9 }; let x := s.upTo t; x.pdOn 15 = true ∧ (x.mot (5 : Fin 6)).gap = some 9 ∧ 9 ≤ x.clk.now ∧ x.motState 5 = 2) ∧
    (let t : Nat := 9; let s : State := { mtr 5 [(R.auxStatus 5, 2#32), (R.auxBrk 5, 3#32)] { AuxSt.init with gap := some 9 } with aux := { (mtr 5 [] { AuxSt.init with gap := some 9 }).aux with win := [(52, true)] } }; let x := s.upTo t; x.pdOn 15 = true ∧ (x.mot (5 : Fin 6)).gap = some 9 ∧ 9 ≤ x.clk.now ∧ x.motState 5 = 2 ∧ x.auxWin 52 1 = false ∧ x.auxWin 17 1 = true) ∧
    (let t : Nat := 9; let s : State := mtr 5 [(R.auxStatus 5, 2#32)] { AuxSt.init with gap := some 10 }; let x := s.upTo t; x.pdOn 15 = true ∧ (x.mot (5 : Fin 6)).gap = some 10 ∧ x.clk.now < 10) := by
  decide +kernel

/-- Witness for the premises of `MotorsCommutate`, part MotorCrossings, clause by clause. -/
theorem test_premises_motorsCommutate_motorCrossings :
    (let t : Nat := 40000; let first : Nat := 8000; let h : Fin 18 := 17; let s : State := mtr 5 [(R.auxCfg 5, 0x80001000#32), (R.auxBemfSmp 5, 250#32), (R.auxStatus 5, 1#32)] AuxSt.init; let x := s.upTo t; let k := h.val / 3; x.pdOn 15 = true ∧ x.bemfValid h first = true ∧ x.motState k = 1) ∧
    (let t : Nat := 40000; let first : Nat := 8000; let h : Fin 18 := 17; let level : Bool := true; let s : State := { mtr 5 [(R.auxCfg 5, 0x80001000#32), (R.auxBemfSmp 5, 250#32), (R.auxStatus 5, 0x35#32)] AuxSt.init with slices := [(100, { SliceSt.init with act := ⟨0, 32000, false⟩ })] }; let x := s.upTo t; let k := h.val / 3; let v := x.mot k; x.pdOn 15 = true ∧ x.bemfValid h first = true ∧ x.motState k = 5 ∧ h.val % 3 = secFloat (x.motSector k) ∧ level = x.motLevel k (x.motSector k) ∧ v.seen = false ∧ v.wait = false ∧ v.blank ≤ first) ∧
    (let t : Nat := 9; let first : Nat := 5; let h : Fin 18 := 17; let m : Fin 6 := 5; let s : State := mtr 5 [(R.auxStatus 5, 0x31#32)] AuxSt.init; let x := s.upTo t; x.pdOn 15 = true ∧ x.bemfValid h first = false ∧ x.motState m ≠ 4 ∧ x.motState m ≠ 5) ∧
    (let t : Nat := 9; let m : Fin 6 := 5; let level : Bool := true; let s : State := mtr 5 [(R.auxStatus 5, 0x35#32)] { AuxSt.init with blank := 9 }; let x := s.upTo t; x.pdOn 15 = true ∧ x.motState m = 5 ∧ (x.mot m).wait = false ∧ (x.mot m).seen = false ∧ (x.mot m).blank ≤ x.clk.now ∧ level = x.motLevel m (x.motSector m)) := by
  decide +kernel

/-- Witness for the premises of `MotorsCommutate`, part MotorCommutations, clause by clause. -/
theorem test_premises_motorsCommutate_motorCommutations :
    (let t : Nat := 32000; let m : Fin 6 := 5; let s : State := mtr 5 [(R.auxStatus 5, 0x55#32)] { AuxSt.init with due := some 40000 }; let x := s.upTo t; let v := x.mot m; x.pdOn 15 = true ∧ x.motState m = 5 ∧ v.due = some 40000 ∧ x.motAtReload m = true ∧ 40000 ≤ x.tb + x.motLen m / 2 ∧ v.known + 128 ≤ x.clk.now) ∧
    (let t : Nat := 32001; let m : Fin 6 := 5; let s : State := mtr 5 [(R.auxStatus 5, 0x55#32)] { AuxSt.init with due := some 40000 }; let x := s.upTo t; let v := x.mot m; x.pdOn 15 = true ∧ x.motState m = 5 ∧ v.due = some 40000 ∧ x.motAtReload m = false) ∧
    (let t : Nat := 32000; let m : Fin 6 := 5; let s : State := mtr 5 [(R.auxStatus 5, 0x55#32)] { AuxSt.init with due := some 40000, known := 31990 }; let x := s.upTo t; let v := x.mot m; x.pdOn 15 = true ∧ x.motState m = 5 ∧ v.due = some 40000 ∧ x.clk.now < v.known + 128) ∧
    (let t : Nat := 9; let m : Fin 6 := 5; let s : State := mtr 5 [(R.auxCfg 5, 0x80000020#32), (R.auxStatus 5, 0x35#32)] { AuxSt.init with commDue := 9 }; let x := s.upTo t; let v := x.mot m; x.pdOn 15 = true ∧ x.motState m = 5 ∧ v.wait = false ∧ v.seen = false ∧ v.due = none ∧ v.commDue + ((x.rdF (R.auxBemf m) 23 16 * v.tEst / 64 : Nat) : Int) ≤ x.tb ∧ v.forced + 1 < x.rdF (R.auxCfg m) 7 4) ∧
    (let t : Nat := 9; let m : Fin 6 := 5; let s : State := mtr 5 [(R.auxCfg 5, 0x80000020#32), (R.auxStatus 5, 0x35#32)] { AuxSt.init with commDue := 9, forced := 1 }; let x := s.upTo t; let v := x.mot m; x.pdOn 15 = true ∧ x.motState m = 5 ∧ v.wait = false ∧ v.seen = false ∧ v.due = none ∧ v.commDue + ((x.rdF (R.auxBemf m) 23 16 * v.tEst / 64 : Nat) : Int) ≤ x.tb ∧ x.rdF (R.auxCfg m) 7 4 ≤ v.forced + 1) ∧
    (let t : Nat := 9; let m : Fin 6 := 5; let s : State := mtr 5 [(R.auxCfg 5, 0x84000010#32), (R.auxStatus 5, 0x35#32)] { AuxSt.init with commDue := 9 }; let x := s.upTo t; let v := x.mot m; x.pdOn 15 = true ∧ x.motState m = 5 ∧ v.wait = false ∧ v.seen = false ∧ v.due = none ∧ v.commDue + ((x.rdF (R.auxBemf m) 23 16 * v.tEst / 64 : Nat) : Int) ≤ x.tb ∧ x.rdF (R.auxCfg m) 7 4 ≤ v.forced + 1) := by
  decide +kernel

/-- Witness for the premises of `MotorsCommutate`, part MotorStarts, clause by clause. -/
theorem test_premises_motorsCommutate_motorStarts :
    (let t : Nat := 32000000; let m : Fin 6 := 5; let s : State := mtr 5 [(R.auxCfg 5, 0x80030000#32), (R.auxStatus 5, 1#32), (R.auxStartT 5, 0x00010001#32)] AuxSt.init; let x := s.upTo t; let v := x.mot m; let ripe := v.entered + x.rdF (R.auxStartT m) 31 16 * msec ≤ x.clk.now; x.pdOn 15 = true ∧ x.motAtReload m = true ∧ x.motState m = 1 ∧ ripe ∧ x.motMotion m = .rest) ∧
    (let t : Nat := 32000000; let m : Fin 6 := 5; let s : State := mtr 5 [(R.auxStatus 5, 1#32), (R.auxStartT 5, 0x00010001#32)] { AuxSt.init with zcs := [(1, 31999999), (2, 31999994), (3, 31999989)] }; let x := s.upTo t; let v := x.mot m; let ripe := v.entered + x.rdF (R.auxStartT m) 31 16 * msec ≤ x.clk.now; x.pdOn 15 = true ∧ x.motAtReload m = true ∧ x.motState m = 1 ∧ ripe ∧ x.motMotion m = .backward 5) ∧
    (let t : Nat := 32000000; let m : Fin 6 := 5; let s : State := mtr 5 [(R.auxStatus 5, 2#32), (R.auxStartT 5, 0x00010001#32)] { AuxSt.init with brake := 1 }; let x := s.upTo t; let v := x.mot m; let still := max v.entered v.iAt + x.rdF (R.auxStartT m) 15 0 * msec ≤ x.clk.now; x.pdOn 15 = true ∧ x.motAtReload m = true ∧ x.motState m = 2 ∧ still ∧ v.brake = 1) ∧
    (let t : Nat := 32000000; let m : Fin 6 := 5; let s : State := mtr 5 [(R.auxStatus 5, 2#32), (R.auxStartT 5, 0x00010001#32)] { AuxSt.init with brake := 2 }; let x := s.upTo t; let v := x.mot m; let still := max v.entered v.iAt + x.rdF (R.auxStartT m) 15 0 * msec ≤ x.clk.now; x.pdOn 15 = true ∧ x.motAtReload m = true ∧ x.motState m = 2 ∧ still ∧ v.brake = 2) ∧
    (let t : Nat := 32000000; let m : Fin 6 := 5; let s : State := mtr 5 [(R.auxCfg 5, 0x80050000#32), (R.auxStatus 5, 3#32), (R.auxAlign 5, 0x00010000#32), (R.auxRampF 5, 0x006403E8#32)] AuxSt.init; let x := s.upTo t; let v := x.mot m; x.pdOn 15 = true ∧ x.motAtReload m = true ∧ x.motState m = 3 ∧ v.entered + x.rdF (R.auxAlign m) 31 16 * msec ≤ x.clk.now) ∧
    (let t : Nat := 32000; let m : Fin 6 := 5; let s : State := mtr 5 [(R.auxStatus 5, 4#32), (R.auxRampF 5, 0x00641388#32)] { AuxSt.init with freq := 4294967296 }; let x := s.upTo t; let v := x.mot m; x.pdOn 15 = true ∧ x.motAtReload m = true ∧ x.motState m = 4 ∧ v.secEnd ≤ x.clk.now + x.motLen m / 2 ∧ v.freq + (divRound ((x.rdF (R.auxRampA m) 31 16 * 2 ^ 32 * rampLen v.freq : Nat) : Int) second).toNat < hz100 (x.rdF (R.auxRampF m) 15 0)) ∧
    (let t : Nat := 32000; let m : Fin 6 := 5; let s : State := mtr 5 [(R.auxCfg 5, 0x80000001#32), (R.auxStatus 5, 4#32), (R.auxRampF 5, 0#32)] { AuxSt.init with freq := 4294967296 }; let x := s.upTo t; let v := x.mot m; x.pdOn 15 = true ∧ x.motAtReload m = true ∧ x.motState m = 4 ∧ v.secEnd ≤ x.clk.now + x.motLen m / 2 ∧ hz100 (x.rdF (R.auxRampF m) 15 0) ≤ v.freq + (divRound ((x.rdF (R.auxRampA m) 31 16 * 2 ^ 32 * rampLen v.freq : Nat) : Int) second).toNat) := by
  decide +kernel

/-- Witness for the premises of `MotorsCommutate`, part MotorStarts, clause by clause. -/
theorem test_premises_motorsCommutate_motorStarts_2 :
    (let t : Nat := 9; let m : Fin 6 := 5; let s : State := mtr 5 [] AuxSt.init; let x := s.upTo t; x.motAtReload m = false) := by
  decide +kernel

/-- Witness for the premises of `MotorsStartStopAndAreProtected`, part GateSupplyUndervoltage, clause by clause. -/
theorem test_premises_motorsStartStopAndAreProtected_gateSupplyUndervoltage :
    (let t : Nat := 9; let m : Fin 6 := 5; let s : State := mtr 5 [(R.auxStatus 5, 5#32)] AuxSt.init; let x := s.upTo t; x.pdOn 15 = true ∧ x.motState m ≠ 0) ∧
    (let t : Nat := 9; let s : State := mtr 5 [(R.auxHbStatus 17, 8#32), (R.auxBusStatus, 6#32)] AuxSt.init; let x := s.upTo t; x.pdOn 15 = true) ∧
    (let t : Nat := 9; let s : State := mtr 5 [(R.auxHbStatus 17, 8#32), (R.auxHbStatus 0, 8#32)] AuxSt.init; let x := s.upTo t; x.pdOn 15 = true) := by
  decide +kernel

/-! ### Protection -/

/-- A state of the tests. -/
def dcl (rs : List (Nat × Word)) (ov : Tab Nat) (d : DcSt) : State := ((run ([(R.protThrDcCh 3, 0x807F0500#32), (R.sdfChPf 5, 0x200#32), (R.protThrOva 3, 0#32), (R.protThrOvb 3, 0#32)] ++ rs)).setChain 5 { ChainSt.init with ov := ov }).setDc 3 d

/-- A state of the tests. -/
def low3 : List (Nat × Word) := [(R.protThrOvb 3, 0x00010000#32)]

/-- Witness for the premises of `DcLinkIsProtected`, part SourcesLatchesAndWindows, clause by clause. -/
theorem test_premises_dcLinkIsProtected_sourcesLatchesAndWindows :
    (let t : Nat := 9; let who : Initiator := .core 0; let k : Fin 15 := 14; let w : Word := 0xFFFFFFFF#32; let c : Fin 32 := 31; let on : Bool := true; let s : State := { run [(R.protSrcLatch 14, 0x3FFFF#32), (R.protSrcLive 14, 0x2#32), (R.protWinCfg 31, 0x80000000#32)] with prot := { State.reset.prot with srcs := [(448, ⟨1, [], false⟩)] } }; let x := s.upTo t; let free := x.lineFree c ((x.rdF (R.protWinFlt c) 7 0 + 1) * 128); x.reaches who (R.protSrcLatch k) w = true ∧ bitOf (wordN ((regRow (R.protSrcLatch k)).elim 0 (·.w1c))) 0 = true ∧ bitOf (x.raisedNow (R.protSrcLatch k)) 0 = false ∧ bitOf w 0 = true ∧ x.srcLive (32 * k + 0) = false ∧ x.rdB (R.protWinCfg c) 31 = true ∧ x.rdB (R.protWinFlt c) 8 = !on ∧ free = true) ∧
    (let t : Nat := 9; let who : Initiator := .core 0; let k : Fin 15 := 0; let w : Word := 0x1#32; let c : Fin 32 := 31; let s : State := run [(R.protSrcLatch 0, 0x3#32)]; let x := s.upTo t; x.reaches who (R.protSrcLatch k) w = true ∧ (∀ i : Fin 32, bitOf w i = true → (x.src (32 * k + i)).held = 0) ∧ x.rdB (R.protWinCfg c) 31 = false) := by
  decide +kernel

/-- Witness for the premises of `DcLinkIsProtected`, part DcLinkThresholdsReact, clause by clause. -/
theorem test_premises_dcLinkIsProtected_dcLinkThresholdsReact :
    (let n : Fin 4 := 3; let i : Fin 112 := 5; let b : Bool := true; let s : State := dcl [(R.sdfChIn 5, 0x81000000#32), (R.sdfChCic 5, 0x602000#32), (R.sdfChStatus 5, 1#32), (R.sdfChPf 5, 0x80000100#32), (R.sdfChMon 5, 0x3FF0000#32), (R.protThrChop 3, 0x80000000#32), (R.protThrOva 3, 0x80008000#32)] [] DcSt.init; let e := s.capAt i (s.chain i).n; let x := s.upTo e; let y := (((x.feedBit i b).stuckJudge i e).pfJudge i e true).pfJudge i e false; s.capturing i = true ∧ (∀ q ∈ x.prot.inb, e < q.1) ∧ y.dcEn n = true ∧ y.dcChA n = i ∧ y.dcMask n ≠ 0) ∧
    (let n : Fin 4 := 3; let a : Nat := 9; let m : Nat := 4; let rest : List (Nat × Soon) := []; let s : State := ({ dcl [] [] DcSt.init with prot := { (dcl [] [] DcSt.init).prot with inb := [(9, .dc 3 4)] } }); let z := ({ s with prot := { s.prot with inb := rest } } : State).goto a; let st := R.protThrStatus n; s.prot.inb = (a, .dc n m) :: rest ∧ (∀ q ∈ rest, a < q.1) ∧ s.clk.now ≤ a ∧ z.rdB st 15 = z.dcLost n ∧ natBit m 3 = false ∧ natBit m 2 = true) ∧
    (let n : Fin 4 := 3; let a : Nat := 9; let m : Nat := 2; let rest : List (Nat × Soon) := []; let s : State := ({ dcl [] [] DcSt.init with prot := { (dcl [] [] DcSt.init).prot with inb := [(9, .dc 3 2)] } }); let z := ({ s with prot := { s.prot with inb := rest } } : State).goto a; let st := R.protThrStatus n; s.prot.inb = (a, .dc n m) :: rest ∧ (∀ q ∈ rest, a < q.1) ∧ s.clk.now ≤ a ∧ z.rdB st 15 = z.dcLost n ∧ natBit m 3 = false ∧ natBit m 1 = true) ∧
    (let n : Fin 4 := 3; let a : Nat := 9; let m : Nat := 1; let rest : List (Nat × Soon) := []; let s : State := ({ dcl [(R.protThrChop 3, 0x80000000#32)] [] DcSt.init with prot := { (dcl [(R.protThrChop 3, 0x80000000#32)] [] DcSt.init).prot with inb := [(9, .dc 3 1)] } }); let z := ({ s with prot := { s.prot with inb := rest } } : State).goto a; let st := R.protThrStatus n; s.prot.inb = (a, .dc n m) :: rest ∧ (∀ q ∈ rest, a < q.1) ∧ s.clk.now ≤ a ∧ z.rdB st 15 = z.dcLost n ∧ natBit m 3 = false ∧ m = 1 ∧ z.chopReq n = false ∧ z.dischStep n ≠ 2 ∧ z.rdB (R.protThrChop n) 31 = true ∧ z.blockReq n 2 = false) ∧
    (let n : Fin 4 := 3; let a : Nat := 9; let m : Nat := 1; let rest : List (Nat × Soon) := []; let s : State := ({ dcl [(R.protThrChop 3, 0x80000000#32), (R.protThrStatus 3, 0x100#32)] [] DcSt.init with prot := { (dcl [(R.protThrChop 3, 0x80000000#32), (R.protThrStatus 3, 0x100#32)] [] DcSt.init).prot with inb := [(9, .dc 3 1)] } }); let z := ({ s with prot := { s.prot with inb := rest } } : State).goto a; let st := R.protThrStatus n; s.prot.inb = (a, .dc n m) :: rest ∧ (∀ q ∈ rest, a < q.1) ∧ s.clk.now ≤ a ∧ z.rdB st 15 = z.dcLost n ∧ natBit m 3 = false ∧ m = 1 ∧ z.chopReq n = false ∧ z.dischStep n ≠ 2 ∧ z.rdB (R.protThrChop n) 31 = true ∧ z.blockReq n 2 = true) := by
  decide +kernel

/-- Witness for the premises of `DcLinkIsProtected`, part ChopperSupervision, clause by clause. -/
theorem test_premises_dcLinkIsProtected_chopperSupervision :
    (let t : Nat := 32000000; let k : Nat := 0; let n : Fin 4 := 3; let s : State := dcl low3 [] { DcSt.init with chopFrom := some 0 }; let x := s.upTo t; let d := x.dc n; let cv := x.rdF (R.protThrChop n) 22 16 * usec; let low := x.dcBelow n (x.dcLevel n 3); d.chopFrom = some k ∧ d.checked = false ∧ k + cv ≤ x.clk.now ∧ low = true ∧ x.dischStep n ≠ 2) ∧
    (let t : Nat := 32000000; let k : Nat := 0; let n : Fin 4 := 3; let s : State := dcl [] [] { DcSt.init with chopFrom := some 0 }; let x := s.upTo t; let d := x.dc n; let st := R.protThrStatus n; let cv := x.rdF (R.protThrChop n) 22 16 * usec; let low := x.dcBelow n (x.dcLevel n 3); d.chopFrom = some k ∧ d.checked = false ∧ k + cv ≤ x.clk.now ∧ low = false ∧ x.rdB st 10 = false ∧ x.dcAt n (x.tbOf k) - x.dcAt n (x.tbOf k - cv) ≤ x.dcAt n (x.tbOf (k + cv)) - x.dcAt n (x.tbOf k)) ∧
    (let t : Nat := 32000000000; let k : Nat := 0; let n : Fin 4 := 3; let s : State := dcl [(R.protThrStatus 3, 0x400#32), (R.protThrChop 3, 0x40000000#32)] [] { DcSt.init with pitchAt := some 0 }; let x := s.upTo t; let d := x.dc n; let st := R.protThrStatus n; let rep := k + x.rdF (R.protThrPitch n) 9 0 * msec; d.pitchAt = some k ∧ x.rdB st 10 = true ∧ rep ≤ x.clk.now ∧ x.rdB (R.protThrChop n) 30 = true) ∧
    (let t : Nat := 9; let who : Initiator := .core 0; let n : Fin 4 := 3; let s : State := dcl ([(R.protThrStatus 3, 0x4D00#32)] ++ low3) [] DcSt.init; let x := s.upTo t; let st := R.protThrStatus n; let low := x.dcBelow n (x.dcLevel n 3); x.raisedNow st = 0#32 ∧ x.reaches who st 0x400#32 = true ∧ low = true ∧ x.rdB st 10 = true ∧ x.reaches who st 0x800#32 = true ∧ x.reaches who st 0x100#32 = true) ∧
    (let t : Nat := 9; let who : Initiator := .core 0; let n : Fin 4 := 3; let s : State := dcl [(R.protThrStatus 3, 0x4D00#32)] [] DcSt.init; let x := s.upTo t; let st := R.protThrStatus n; let low := x.dcBelow n (x.dcLevel n 3); x.raisedNow st = 0#32 ∧ x.reaches who st 0x400#32 = true ∧ low = false ∧ x.reaches who st 0x800#32 = true) ∧
    (let t : Nat := 9; let n : Fin 4 := 3; let s : State := dcl [] [] DcSt.init; let x := s.upTo t; let d := x.dc n; d.chopFrom = none ∧ d.pitchAt = none) := by
  decide +kernel

/-- Witness for the premises of `SafeTorqueOffAndMonitor`, part SafeTorqueOff, clause by clause. -/
theorem test_premises_safeTorqueOffAndMonitor_safeTorqueOff :
    (let t : Nat := 9; let a : Bool := true; let b : Bool := false; let s : State := run []; let x := s.upTo t; let st := R.protStatus; let flt := x.rdF R.protStoCfg 9 0 * 32; x.lineFree 50 flt = true ∧ x.lineFree 49 flt = true ∧ (a && b) = false ∧ x.rdB st 31 = false ∧ x.rdB st 28 = false) ∧
    (let t : Nat := 9; let a : Bool := false; let b : Bool := false; let s : State := run [(R.protStatus, 0xE0000000#32)]; let x := s.upTo t; let st := R.protStatus; let flt := x.rdF R.protStoCfg 9 0 * 32; x.lineFree 50 flt = true ∧ x.lineFree 49 flt = true ∧ (a && b) = false ∧ x.rdB st 28 = false) ∧
    (let t : Nat := 9; let s : State := run [(R.protStatus, 0x90000000#32)]; let x := s.upTo t; let st := R.protStatus; let flt := x.rdF R.protStoCfg 9 0 * 32; x.lineFree 50 flt = true ∧ x.lineFree 49 flt = true ∧ x.rdB st 28 = true) ∧
    (let t : Nat := 9; let s : State := { run [(R.protStatus, 0x90000000#32)] with prot := { State.reset.prot with bothLow := true } }; let x := s.upTo t; let st := R.protStatus; let flt := x.rdF R.protStoCfg 9 0 * 32; x.lineFree 50 flt = true ∧ x.lineFree 49 flt = true ∧ x.rdB st 28 = true) ∧
    (let t : Nat := 320000000; let s : State := { run [(R.protStoCfg, 0#32)] with prot := { State.reset.prot with diffAt := some 319999999 } }; let x := s.upTo t; x.prot.diffAt = some 319999999 ∧ 319999999 + x.rdF R.protStoCfg 25 16 * msec < x.clk.now) ∧
    (let t : Nat := 9; let s : State := { run [(R.protStoCfg, 0xFF#32)] with prot := { State.reset.prot with lines := [(49, 5), (50, 5)] } }; let x := s.upTo t; let flt := x.rdF R.protStoCfg 9 0 * 32; x.lineFree 50 flt = false ∧ x.lineFree 49 flt = false ∧ x.prot.diffAt = none) := by
  decide +kernel

/-- Witness for the premises of `SafeTorqueOffAndMonitor`, part SafetyMonitorForces, clause by clause. -/
theorem test_premises_safeTorqueOffAndMonitor_safetyMonitorForces :
    (let t : Nat := 9; let n : Fin 4 := 3; let s : State := run []; let x := s.upTo t; x.threadHere n = true ∧ x.tmCond n 5 = false) ∧
    (let t : Nat := 9; let n : Fin 4 := 3; let disch : Bool := true; let s : State := run []; let x := s.upTo t; x.threadHere n = true ∧ disch = true) ∧
    (let t : Nat := 9; let n : Fin 4 := 3; let s : State := run [(R.vecCfg 6, 0x80000000#32), (R.smonTmCfg 3, 0x01000000#32), (R.vecOut4 6, 0#32)]; let x := s.upTo t; let m := x.smon n; x.threadHere n = true ∧ x.rdB (R.vecCfg (2 * n)) 31 = true ∧ x.tmCond n 6 = true ∧ x.rdF (R.smonTmCfg n) 31 24 ≤ min 255 (tabGet (fun _ => 0) m.cnt 6 + 1)) ∧
    (let t : Nat := 128000; let n : Fin 4 := 3; let s : State := run [(R.sysState, 0x8000#32), (R.seqPeriod 3, 1000#32)]; let x := s.upTo t; x.threadHere n = true ∧ x.rdB R.sysState (12 + n) = true ∧ (x.seq n).sampleAt + 4 * x.rdF (R.seqPeriod n) 31 0 * 32 ≤ x.clk.now) ∧
    (let t : Nat := 3200000000; let who : Initiator := .core 0; let n : Fin 4 := 3; let disch : Bool := false; let s : State := { run [(R.smonForce 3, 0x40010000#32)] with prot := { State.reset.prot with smon := [(3, ⟨[], [], some 0, none⟩)] } }; let x := s.upTo t; let key := wordN (0xC5000000 + n.val); let m := x.smon n; let core := ∃ q : Fin 5, who = .core q; x.threadHere n = true ∧ x.reaches who R.smonRel key = true ∧ x.forceOf n ≠ 0 ∧ m.causes = [] ∧ m.absent = some 0 ∧ 0 + 100 * msec ≤ x.clk.now ∧ (x.dc n).disch = none ∧ who = .core 0) ∧
    (let t : Nat := 3199999999; let who : Initiator := .core 0; let n : Fin 4 := 3; let s : State := { run [(R.smonForce 3, 0x40010000#32)] with prot := { State.reset.prot with smon := [(3, ⟨[], [], some 0, none⟩)] } }; let x := s.upTo t; let key := wordN (0xC5000000 + n.val); let m := x.smon n; x.threadHere n = true ∧ x.reaches who R.smonRel key = true ∧ x.forceOf n ≠ 0 ∧ m.causes = [] ∧ m.absent = some 0 ∧ x.clk.now < 0 + 100 * msec) ∧
    (let t : Nat := 3200000000; let who : Initiator := .core 0; let n : Fin 4 := 3; let disch : Bool := false; let s : State := { run [(R.smonForce 3, 0x40010000#32)] with prot := { State.reset.prot with smon := [(3, ⟨[], [], some 0, none⟩)], dcs := [(3, { DcSt.init with disch := some .write })] } }; let x := s.upTo t; let key := wordN (0xC5000000 + n.val); x.threadHere n = true ∧ x.reaches who R.smonRel key = true ∧ x.forceOf n ≠ 0 ∧ (x.dc n).disch ≠ none) := by
  decide +kernel

/-- Witness for the premises of `SafeTorqueOffAndMonitor`, part SafetyMonitorForces, clause by clause. -/
theorem test_premises_safeTorqueOffAndMonitor_safetyMonitorForces_2 :
    (let t : Nat := 3200000000; let who : Initiator := .core 0; let n : Fin 4 := 3; let s : State := { run [(R.smonForce 3, 0x40010000#32)] with prot := { State.reset.prot with smon := [(3, ⟨[], [3], some 0, none⟩)] } }; let x := s.upTo t; let key := wordN (0xC5000000 + n.val); let m := x.smon n; x.threadHere n = true ∧ x.reaches who R.smonRel key = true ∧ x.forceOf n ≠ 0 ∧ m.causes ≠ []) ∧
    (let t : Nat := 3200000000; let who : Initiator := .debug; let n : Fin 4 := 3; let s : State := { run [(R.sysDbg, 2#32), (R.smonForce 3, 0x40010000#32)] with prot := { State.reset.prot with smon := [(3, ⟨[], [], some 0, none⟩)] }, tap := .dbgAccess }; let x := s.upTo t; let key := wordN (0xC5000000 + n.val); x.threadHere n = true ∧ x.reaches who R.smonRel key = true ∧ x.forceOf n ≠ 0 ∧ who = .debug) := by
  decide +kernel

/-- Witness for the premises of `WatchdogsAndDischarge`, part WatchdogsWantTheirToken, clause by clause. -/
theorem test_premises_watchdogsAndDischarge_watchdogsWantTheirToken :
    (let t : Nat := 32000; let who : Initiator := .core 4; let p : Fin 5 := 4; let v : BitVec 16 := 0xFFFF#16; let s : State := run [(R.smonWdCfg 4, 0x00010001#32), (R.smonWd 4, 0#32)]; let x := s.upTo t; let max_ := x.rdF (R.smonWdCfg p) 31 16; let min_ := x.rdF (R.smonWdCfg p) 15 0; let since := x.clk.now - (x.wd p).at_; let right := v.toNat = 65535 - x.rdF (R.smonWd p) 15 0 ∧ min_ * usec ≤ since ∧ since ≤ max_ * usec; let own := ∃ q : Fin 5, who = .core q ∧ q.val = p; max_ ≠ 0 ∧ x.reaches who (R.smonWd p) (v.setWidth 32) = true ∧ own ∧ right) ∧
    (let t : Nat := 32000; let who : Initiator := .core 4; let p : Fin 5 := 4; let v : BitVec 16 := 0xFFFE#16; let s : State := run [(R.smonWdCfg 4, 0x00010001#32), (R.smonWd 4, 0#32), (R.smonWdReact 4, 0x1F#32)]; let x := s.upTo t; let rc := R.smonWdReact p; let max_ := x.rdF (R.smonWdCfg p) 31 16; let min_ := x.rdF (R.smonWdCfg p) 15 0; let since := x.clk.now - (x.wd p).at_; let right := v.toNat = 65535 - x.rdF (R.smonWd p) 15 0 ∧ min_ * usec ≤ since ∧ since ≤ max_ * usec; let own := ∃ q : Fin 5, who = .core q ∧ q.val = p; max_ ≠ 0 ∧ x.reaches who (R.smonWd p) (v.setWidth 32) = true ∧ own ∧ ¬right ∧ x.rdB rc 4 = true ∧ x.rdB rc 3 = true) ∧
    (let t : Nat := 32001; let p : Fin 5 := 4; let s : State := run [(R.smonWdCfg 4, 0x00010001#32), (R.smonWd 4, 0#32), (R.smonWdReact 4, 0x1F#32)]; let x := s.upTo t; let max_ := x.rdF (R.smonWdCfg p) 31 16; max_ ≠ 0 ∧ (x.wd p).at_ + max_ * usec < x.clk.now) ∧
    (let t : Nat := 32000; let who : Initiator := .core 1; let p : Fin 5 := 4; let v : BitVec 16 := 0xFFFF#16; let s : State := run [(R.smonWdCfg 4, 0x00010001#32), (R.smonWd 4, 0#32)]; let x := s.upTo t; let max_ := x.rdF (R.smonWdCfg p) 31 16; let own := ∃ q : Fin 5, who = .core q ∧ q.val = p; max_ ≠ 0 ∧ x.reaches who (R.smonWd p) (v.setWidth 32) = true ∧ ¬own ∧ x.clk.now ≤ (x.wd p).at_ + max_ * usec) := by
  decide +kernel

/-- Witness for the premises of `WatchdogsAndDischarge`, part SupervisedDischarge, clause by clause. -/
theorem test_premises_watchdogsAndDischarge_supervisedDischarge :
    (let t : Nat := 9; let who : Initiator := .core 0; let n : Fin 4 := 3; let s : State := dcl [(R.protThrChop 3, 0x80000000#32)] [] DcSt.init; let x := s.upTo t; let d := x.dc n; x.reaches who (R.protThrDischCtrl n) 1#32 = true ∧ d.disch = none ∧ x.reaches who (R.protThrDischCtrl n) 2#32 = true ∧ d.disch ≠ some .write) ∧
    (let t : Nat := 9; let who : Initiator := .core 0; let n : Fin 4 := 3; let s : State := dcl [(R.protThrStatus 3, 0xA0#32)] [] { DcSt.init with disch := some .write }; let x := s.upTo t; let d := x.dc n; x.reaches who (R.protThrDischCtrl n) 2#32 = true ∧ d.disch = some .write) ∧
    (let t : Nat := 32000000000; let n : Fin 4 := 3; let s : State := dcl [(R.protThrStatus 3, 0xA0#32)] [] { DcSt.init with disch := some .write }; let x := s.upTo t; let d := x.dc n; let v := (x.dcVal n).getD 0; x.dischStep n = 2 ∧ d.stepAt + x.rdF (R.protThrDisch0 n) 15 0 * msec ≤ x.clk.now ∧ v * 32768 ≤ d.vStart * x.rdF (R.protThrDisch0 n) 31 16) ∧
    (let t : Nat := 32000000000; let n : Fin 4 := 3; let s : State := dcl [(R.protThrStatus 3, 0xA0#32), (R.sdfChPfVal 5, 1#32)] [] { DcSt.init with disch := some .write }; let x := s.upTo t; let d := x.dc n; let v := (x.dcVal n).getD 0; x.dischStep n = 2 ∧ d.stepAt + x.rdF (R.protThrDisch0 n) 15 0 * msec ≤ x.clk.now ∧ d.vStart * x.rdF (R.protThrDisch0 n) 31 16 < v * 32768 ∧ x.dischOver n = false) ∧
    (let t : Nat := 32000000000; let n : Fin 4 := 3; let s : State := dcl [(R.protThrStatus 3, 0xB0#32)] [] { DcSt.init with disch := some .write }; let x := s.upTo t; let d := x.dc n; let v := (x.dcVal n).getD 0; x.dischStep n = 3 ∧ d.stepAt + x.rdF (R.protThrDisch1 n) 15 0 * msec ≤ x.clk.now ∧ v * 32768 ≤ d.vStart * x.rdF (R.protThrDisch1 n) 31 16) ∧
    (let t : Nat := 32000000000; let n : Fin 4 := 3; let s : State := dcl [(R.protThrStatus 3, 0xB0#32), (R.sdfChPfVal 5, 1#32)] [] { DcSt.init with disch := some .write }; let x := s.upTo t; let d := x.dc n; let v := (x.dcVal n).getD 0; x.dischStep n = 3 ∧ d.stepAt + x.rdF (R.protThrDisch1 n) 15 0 * msec ≤ x.clk.now ∧ d.vStart * x.rdF (R.protThrDisch1 n) 31 16 < v * 32768 ∧ x.dischOver n = false) ∧
    (let t : Nat := 320000000; let n : Fin 4 := 3; let s : State := dcl [(R.protThrStatus 3, 0xB0#32)] [] { DcSt.init with disch := some .write, safeAt := some 0 }; let x := s.upTo t; x.dischOver n = true) := by
  decide +kernel

/-- Witness for the premises of `WatchdogsAndDischarge`, part SupervisedDischarge, clause by clause. -/
theorem test_premises_watchdogsAndDischarge_supervisedDischarge_2 :
    (let t : Nat := 9; let n : Fin 4 := 3; let s : State := dcl [] [] DcSt.init; let x := s.upTo t; let d := x.dc n; x.dischStep n ≠ 2 ∧ x.dischStep n ≠ 3 ∧ d.disch = none) := by
  decide +kernel

/-! ### The twin -/

/-- A state of the tests. -/
def tw (rs : List (Nat × Word)) (v : TwinSt) : State := { st ([(R.sysState, 0x83#32), (R.cwyStatus, 0x78000000#32)] ++ rs) with twin := v }

/-- A state of the tests. -/
def hd : CwyHdr := ⟨true, 5#32, 3, 7#32⟩

/-- A state of the tests. -/
def rin : ReleaseIn := ⟨2, 2, 2, 0, [], [], List.replicate 24 (0, 32768), 0⟩

/-- Witness for the premises of `CausewayFramesAreReceivedAndTaken`, part CausewayFramesAreReceived, clause by clause. -/
theorem test_premises_causewayFramesAreReceivedAndTaken_causewayFramesAreReceived :
    (let t : Nat := 9; let h : CwyHdr := hd; let s : State := tw [] TwinSt.init; let x := s.upTo t; x.pdOn 14 = true ∧ x.twinOn = true ∧ x.lanesUp = true ∧ h.ok = true ∧ x.boot.search = none) ∧
    (let t : Nat := 9; let h : CwyHdr := hd; let s : State := tw [(R.cwyCount, 0xFFFE0000#32)] { TwinSt.init with rxSeq := some 2, refused := true }; let x := s.upTo t; x.pdOn 14 = true ∧ x.twinOn = true ∧ x.lanesUp = true ∧ h.ok = true ∧ x.twin.rxSeq = some 2 ∧ x.twin.refused = true) ∧
    (let t : Nat := 9; let h : CwyHdr := { hd with ok := false }; let s : State := tw [(R.cwyCount, 0xFFFFFFFF#32)] TwinSt.init; let x := s.upTo t; x.pdOn 14 = true ∧ x.twinOn = true ∧ x.lanesUp = true ∧ h.ok = false) ∧
    (let t : Nat := 9; let s : State := run []; let x := s.upTo t; x.twinOn = false) := by
  decide +kernel

/-- Witness for the premises of `CausewayFramesAreReceivedAndTaken`, part CausewayFramesAreTaken, clause by clause. -/
theorem test_premises_causewayFramesAreReceivedAndTaken_causewayFramesAreTaken :
    (let t : Nat := 9; let h : CwyHdr := hd; let s : State := tw [] { TwinSt.init with msgs := [⟨2, 1, [], 0, 0⟩, ⟨3, 1, [], 0, 0⟩] }; let x := s.upTo t; let n := h.thread; x.pdOn 14 = true ∧ x.twinOn = true ∧ x.lanesUp = true ∧ h.ok = true ∧ x.twin.refused = false ∧ x.inStep n = false ∧ x.rdB (R.cwyThrStatus n) 27 = false) ∧
    (let t : Nat := 9; let h : CwyHdr := hd; let s : State := tw [(R.cwyThrStatus 3, 0x88000000#32)] TwinSt.init; let x := s.upTo t; let n := h.thread; x.pdOn 14 = true ∧ x.twinOn = true ∧ x.lanesUp = true ∧ h.ok = true ∧ x.twin.refused = false ∧ x.inStep n = true) := by
  decide +kernel

/-- Witness for the premises of `TimeCrossesTheCauseway`, clause by clause. -/
theorem test_premises_timeCrossesTheCauseway :
    (let t : Nat := 9; let h : CwyHdr := hd; let s : State := tw [(R.cwyStatus, 0x79000000#32)] TwinSt.init; let x := s.upTo t; x.pdOn 14 = true ∧ x.twinOn = true ∧ x.lanesUp = true ∧ h.ok = true ∧ x.twin.refused = false ∧ x.leader = true) ∧
    (let t : Nat := 9; let s : State := run []; let x := s.upTo t; x.twinOn = false) ∧
    (let t : Nat := 9; let t3 : Nat := 0; let h : CwyHdr := hd; let s : State := tw [] TwinSt.init; let x := s.upTo t; x.pdOn 14 = true ∧ x.twinOn = true ∧ x.lanesUp = true ∧ h.ok = true ∧ x.twin.refused = false ∧ t3 = 0) ∧
    (let t : Nat := 9; let t1 : Nat := 1; let t2 : Nat := 2; let t3 : Nat := 3; let t4 : Nat := 4; let h : CwyHdr := hd; let s : State := tw [(R.cwyTiming, 0#32)] { TwinSt.init with goodRun := 15 }; let x := s.upTo t; let off := divRound ((time16 t2 - time16 t1 - (time16 t4 - time16 t3)) * 125) 128 - signedOf 16 (x.rdF R.cwyTiming 15 0); x.pdOn 14 = true ∧ x.twinOn = true ∧ x.lanesUp = true ∧ h.ok = true ∧ x.twin.refused = false ∧ x.leader = false ∧ t3 ≠ 0 ∧ off.natAbs ≤ 100 ∧ 15 ≤ x.twin.goodRun) ∧
    (let t : Nat := 9; let t1 : Nat := 1; let t2 : Nat := 20002; let t3 : Nat := 3; let t4 : Nat := 4; let h : CwyHdr := hd; let s : State := tw [(R.cwyTiming, 0#32), (R.cwyStatus, 0x78800000#32)] { TwinSt.init with badRun := 2 }; let x := s.upTo t; let off := divRound ((time16 t2 - time16 t1 - (time16 t4 - time16 t3)) * 125) 128 - signedOf 16 (x.rdF R.cwyTiming 15 0); x.pdOn 14 = true ∧ x.twinOn = true ∧ x.lanesUp = true ∧ h.ok = true ∧ x.twin.refused = false ∧ x.leader = false ∧ t3 ≠ 0 ∧ 250 < off.natAbs ∧ x.twin.badRun = 2) := by
  decide +kernel

/-- Witness for the premises of `DigestsAndStatusFrames`, part DigestsAreCompared, clause by clause. -/
theorem test_premises_digestsAndStatusFrames_digestsAreCompared :
    (let t : Nat := 160009; let h : CwyHdr := hd; let input : Dword := 1#64; let state : Dword := 2#64; let s : State := tw [] { TwinSt.init with thr := [(3, { TwinThr.init with own := [⟨7, some (1, 2), 0, 9⟩] })] }; let x := s.upTo t; let p := h.period.toNat; x.pdOn 14 = true ∧ x.twinOn = true ∧ x.lanesUp = true ∧ h.ok = true ∧ x.twin.refused = false ∧ (x.thr h.thread).own.find? (fun e => e.period == p) = some ⟨7, some (1, 2), 0, 9⟩ ∧ (1, 2) = (input.toNat, state.toNat)) ∧
    (let t : Nat := 160009; let h : CwyHdr := hd; let input : Dword := 1#64; let s : State := tw [] { TwinSt.init with thr := [(3, { TwinThr.init with own := [⟨7, some (3, 2), 0, 9⟩] })] }; let x := s.upTo t; let p := h.period.toNat; x.pdOn 14 = true ∧ x.twinOn = true ∧ x.lanesUp = true ∧ h.ok = true ∧ x.twin.refused = false ∧ (x.thr h.thread).own.find? (fun e => e.period == p) = some ⟨7, some (3, 2), 0, 9⟩ ∧ 3 ≠ input.toNat) ∧
    (let t : Nat := 160009; let h : CwyHdr := hd; let state : Dword := 2#64; let s : State := tw [(R.cwyThrCount0 3, 0x0000FFFF#32)] { TwinSt.init with thr := [(3, { TwinThr.init with own := [⟨7, some (1, 3), 0, 9⟩] })] }; let x := s.upTo t; let p := h.period.toNat; x.pdOn 14 = true ∧ x.twinOn = true ∧ x.lanesUp = true ∧ h.ok = true ∧ x.twin.refused = false ∧ (x.thr h.thread).own.find? (fun e => e.period == p) = some ⟨7, some (1, 3), 0, 9⟩ ∧ 3 ≠ state.toNat) ∧
    (let t : Nat := 9; let n : Fin 4 := 3; let s : State := tw [] TwinSt.init; let x := s.upTo t; (x.thr n).own = []) ∧
    (let t : Nat := 160009; let n : Fin 4 := 3; let s : State := tw [(R.cwyStatus, 0xF8000000#32), (R.cwyCfg, 0x00200000#32), (R.cwyThrStatus 3, 0x80000000#32)] { TwinSt.init with thr := [(3, { TwinThr.init with own := [⟨7, some (1, 3), 0, 9⟩] })] }; let x := s.upTo t; (x.thr n).own = ⟨7, some (1, 3), 0, 9⟩ :: [] ∧ x.cwyUp = true ∧ 9 + 5 * usec ≤ x.clk.now ∧ (x.thr n).par.all (fun y => y.period != 7) = true ∧ ¬(x.rdF R.cwyCfg 23 20 ≤ (x.thr n).mism + 1)) ∧
    (let t : Nat := 160009; let n : Fin 4 := 3; let s : State := tw [(R.cwyStatus, 0xF8000000#32), (R.cwyCfg, 0x00200000#32), (R.cwyThrStatus 3, 0x80000000#32)] { TwinSt.init with thr := [(3, { TwinThr.init with mism := 1, own := [⟨7, some (1, 3), 0, 9⟩] })] }; let x := s.upTo t; (x.thr n).own = ⟨7, some (1, 3), 0, 9⟩ :: [] ∧ x.cwyUp = true ∧ 9 + 5 * usec ≤ x.clk.now ∧ (x.thr n).par.all (fun y => y.period != 7) = true ∧ x.rdF R.cwyCfg 23 20 ≤ (x.thr n).mism + 1 ∧ x.inStep n = true ∧ x.rdB (R.cwyThrStatus n) 27 = false) := by
  decide +kernel

/-- Witness for the premises of `DigestsAndStatusFrames`, part StatusKeepsTheCausewayUp, clause by clause. -/
theorem test_premises_digestsAndStatusFrames_statusKeepsTheCausewayUp :
    (let t : Nat := 9; let h : CwyHdr := hd; let lanes : BitVec 4 := 15#4; let s : State := tw [] { TwinSt.init with downAt := some 3 }; let x := s.upTo t; x.pdOn 14 = true ∧ x.twinOn = true ∧ x.lanesUp = true ∧ h.ok = true ∧ x.twin.refused = false ∧ x.cwyUp = false ∧ x.rdF R.cwyStatus 30 27 = lanes.toNat) ∧
    (let t : Nat := 9; let s : State := run []; let x := s.upTo t; x.pdOn 14 = true ∧ x.twinOn = false) ∧
    (let t : Nat := 9; let lanes : BitVec 4 := 14#4; let s : State := tw [(R.cwyStatus, 0xF8000000#32)] { TwinSt.init with statusAt := some 3, msgs := [⟨2, 1, [], 0, 0⟩] }; let x := s.upTo t; x.pdOn 14 = true ∧ x.cwyUp = true ∧ lanes ≠ 15#4) ∧
    (let t : Nat := 320000; let s : State := tw [(R.cwyStatus, 0xF8000000#32)] { TwinSt.init with statusAt := some 0, msgs := [⟨2, 1, [], 0, 0⟩] }; let x := s.upTo t; x.pdOn 14 = true ∧ x.cwyUp = true ∧ x.twin.statusAt = some 0 ∧ 0 + 10 * usec ≤ x.clk.now) := by
  decide +kernel

/-- Witness for the premises of `TwinsMeetAndTakeOver`, part TwinsMeet, clause by clause. -/
theorem test_premises_twinsMeetAndTakeOver_twinsMeet :
    (let t : Nat := 9; let h : CwyHdr := hd; let prio : BitVec 4 := 3#4; let s : State := tw [(R.sysState, 0x81#32), (R.sysStrap, 0x42#32)] TwinSt.init; let x := s.upTo t; let boot := decide (x.rdF R.sysState 2 0 < 3); x.pdOn 14 = true ∧ x.twinOn = true ∧ x.boot.search = none ∧ prio.toNat < x.prio ∧ boot = true ∧ x.lanesUp = true ∧ h.ok = true ∧ x.twin.refused = false ∧ x.leader = false ∧ x.twin.joined = false ∧ x.rdF R.sysState 2 0 = 1) ∧
    (let t : Nat := 9; let crc : Word := 7#32; let prio : BitVec 4 := 4#4; let st : BitVec 3 := 3#3; let s : State := tw [(R.sysState, 0x81#32), (R.sysStrap, 0x42#32), (R.bootStatus, 0x40000000#32)] TwinSt.init; let x := s.upTo t; let boot := decide (x.rdF R.sysState 2 0 < 3); let parBoot := decide (st.toNat < 3); let later := boot && (!parBoot || decide (x.prio ≤ prio.toNat)); x.pdOn 14 = true ∧ x.twinOn = true ∧ x.boot.search = none ∧ prio.toNat = x.prio ∧ crc.toNat ≠ x.rdN R.bootImageCrc ∧ x.rdF R.bootStatus 31 30 ≠ 0 ∧ later = true) ∧
    (let t : Nat := 9; let h : CwyHdr := hd; let s : State := tw [(R.sysStrap, 0x42#32)] TwinSt.init; let x := s.upTo t; let boot := decide (x.rdF R.sysState 2 0 < 3); x.pdOn 14 = true ∧ x.twinOn = true ∧ x.lanesUp = true ∧ h.ok = true ∧ x.twin.refused = false ∧ x.boot.search = none ∧ x.rdF R.sysState 2 0 ≠ 1) ∧
    (let t : Nat := 9; let s : State := { tw [(R.sysState, 0x1#32), (R.sysStrap, 0x42#32)] TwinSt.init with boot := { BootSt.init with search := some rin } }; let x := s.upTo t; let boot := decide (x.rdF R.sysState 2 0 < 3); x.pdOn 14 = true ∧ x.boot.search ≠ none ∧ x.clk.now < x.clk.relAt + 2 * second) ∧
    (let t : Nat := 64000000000; let s : State := { tw [(R.sysState, 0x1#32), (R.sysStrap, 0x42#32), (R.cwyStatus, 0#32)] TwinSt.init with boot := { BootSt.init with search := some rin } }; let x := s.upTo t; let boot := decide (x.rdF R.sysState 2 0 < 3); x.boot.search ≠ none ∧ x.clk.relAt + 2 * second ≤ x.clk.now ∧ x.twinOn = true ∧ x.partner = false) := by
  decide +kernel

/-- Witness for the premises of `TwinsMeetAndTakeOver`, part FollowersTakeOver, clause by clause. -/
theorem test_premises_twinsMeetAndTakeOver_followersTakeOver :
    (let t : Nat := 9; let k : Fin 8 := 7; let s : State := tw [(R.sdfChIn 111, 0xBB000000#32), (R.sdfClkCfg, 0xFF000000#32), (R.bootStatus, 0x40000000#32)] TwinSt.init; let x := s.upTo t; x.twin.downAt = none ∧ x.twinOn = true ∧ x.leader = false ∧ x.sdClkOn k = true ∧ x.chEn (111 : Fin 112) = true ∧ x.chClk (111 : Fin 112) = k) ∧
    (let t : Nat := 9; let s : State := run []; let x := s.upTo t; x.twinOn = false) ∧
    (let t : Nat := 3200000000; let s : State := tw [(R.cwyTiming, 0#32), (R.sysState, 0x7083#32), (R.pwmLegCfg 0, 0x10500000#32), (R.pwmSliceCfg 0, 0x80000000#32), (R.stlStatus 5, 0x40#32)] { TwinSt.init with downAt := some 9 }; let x := s.upTo t; x.twin.downAt = some 9 ∧ x.twinOn = true ∧ x.cwyUp = false ∧ x.leader = false ∧ 9 + x.rdF R.cwyTiming 25 16 * msec ≤ x.clk.now ∧ (x.threadLinks 0).any (fun l => x.rdB (R.stlStatus l) 6) = true) ∧
    (let t : Nat := 3200000000; let s : State := tw [(R.cwyTiming, 0#32), (R.sysState, 0xF083#32)] { TwinSt.init with downAt := some 9 }; let x := s.upTo t; x.twin.downAt = some 9 ∧ x.twinOn = true ∧ x.cwyUp = false ∧ x.leader = false ∧ 9 + x.rdF R.cwyTiming 25 16 * msec ≤ x.clk.now ∧ (x.threadLinks 3).any (fun l => x.rdB (R.stlStatus l) 6) = false ∧ x.rdB R.sysState 15 = true) := by
  decide +kernel

/-- Witness for the premises of `MessagesAndMirroredWritesCross`, part MessagesAreForwarded, clause by clause. -/
theorem test_premises_messagesAndMirroredWritesCross_messagesAreForwarded :
    (let t : Nat := 9; let h : CwyHdr := hd; let j : Fin 16 := 15; let q : BitVec 32 := 2#32; let s : State := tw [] TwinSt.init; let x := s.upTo t; let e := x.rd (R.cwyEp j); x.pdOn 14 = true ∧ x.twinOn = true ∧ x.lanesUp = true ∧ h.ok = true ∧ x.twin.refused = false ∧ bitOf e 31 = false ∧ x.twin.msgs.find? (fun m => m.fseq == q.toNat) = none) ∧
    (let t : Nat := 9; let h : CwyHdr := hd; let j : Fin 16 := 15; let s : State := tw [(R.cwyEp 15, 0x83070000#32)] TwinSt.init; let x := s.upTo t; let e := x.rd (R.cwyEp j); x.pdOn 14 = true ∧ x.twinOn = true ∧ x.lanesUp = true ∧ h.ok = true ∧ x.twin.refused = false ∧ bitOf e 31 = true ∧ fieldOf e 27 26 = 0) ∧
    (let t : Nat := 9; let h : CwyHdr := hd; let j : Fin 16 := 15; let s : State := tw [(R.cwyEp 15, 0x84000000#32)] TwinSt.init; let x := s.upTo t; let e := x.rd (R.cwyEp j); x.pdOn 14 = true ∧ x.twinOn = true ∧ x.lanesUp = true ∧ h.ok = true ∧ x.twin.refused = false ∧ bitOf e 31 = true ∧ fieldOf e 27 26 ≠ 0) ∧
    (let t : Nat := 1600000; let q : BitVec 32 := 2#32; let s : State := tw [(R.cwyStatus, 0xF8000000#32)] { TwinSt.init with msgs := [⟨2, 1, [], 2, 0⟩] }; let x := s.upTo t; x.pdOn 14 = true ∧ x.twin.msgs.find? (fun m => m.fseq == q.toNat) = some ⟨2, 1, [], 2, 0⟩ ∧ 0 + 50 * usec ≤ x.clk.now ∧ x.cwyUp = true ∧ 2 < 3) ∧
    (let t : Nat := 1600000; let q : BitVec 32 := 2#32; let s : State := tw [(R.cwyFwd, 255#32), (R.cwyStatus, 0xF8000000#32)] { TwinSt.init with msgs := [⟨2, 1, [], 3, 0⟩] }; let x := s.upTo t; x.pdOn 14 = true ∧ x.twin.msgs.find? (fun m => m.fseq == q.toNat) = some ⟨2, 1, [], 3, 0⟩ ∧ 0 + 50 * usec ≤ x.clk.now ∧ 3 ≤ 3) := by
  decide +kernel

/-- Witness for the premises of `MessagesAndMirroredWritesCross`, part MirroredWritesWaitForTheInstant, clause by clause. -/
theorem test_premises_messagesAndMirroredWritesCross_mirroredWritesWaitForTheInstant :
    (let t : Nat := 9; let who : Initiator := .core 0; let a : BitVec 32 := 0x40000008#32; let s : State := run []; let x := s.upTo t; let at_ := a.toNat; x.mayAccess who true = true ∧ isReg at_ = true ∧ x.regAnswers at_ .b4 = true ∧ x.absent at_ = false ∧ (x.twinOn && x.cwyUp && x.partner) = false) ∧
    (let t : Nat := 9; let who : Initiator := .core 0; let a : BitVec 32 := BitVec.ofNat 32 (R.sysIrqCfg 3); let w : Word := 7#32; let s : State := tw [(R.cwyStatus, 0xFC000000#32)] TwinSt.init; let x := s.upTo t; let at_ := a.toNat; x.mayAccess who true = true ∧ isReg at_ = true ∧ x.regAnswers at_ .b4 = true ∧ x.absent at_ = false ∧ x.mirrorThreads at_ w = []) ∧
    (let t : Nat := 9; let who : Initiator := .core 0; let a : BitVec 32 := BitVec.ofNat 32 (R.seqCtrl 3); let w : Word := 1#32; let s : State := tw [(R.cwyStatus, 0xFC000000#32)] TwinSt.init; let x := s.upTo t; let at_ := a.toNat; x.mayAccess who true = true ∧ isReg at_ = true ∧ x.regAnswers at_ .b4 = true ∧ x.absent at_ = false ∧ (x.twinOn && x.cwyUp && x.partner) = true ∧ x.mirrorThreads at_ w = [3] ∧ x.rdB (R.cwyThrStatus 3) 27 = false) ∧
    (let t : Nat := 9; let who : Initiator := .core 0; let a : BitVec 32 := BitVec.ofNat 32 R.ceBankCtrl; let w : Word := 8#32; let s : State := tw [(R.cwyStatus, 0xFC000000#32), (R.cwyThrStatus 3, 0x8000000#32)] TwinSt.init; let x := s.upTo t; let at_ := a.toNat; x.mayAccess who true = true ∧ isReg at_ = true ∧ x.regAnswers at_ .b4 = true ∧ x.absent at_ = false ∧ (x.twinOn && x.cwyUp && x.partner) = true ∧ x.mirrorThreads at_ w = [3] ∧ x.rdB (R.cwyThrStatus 3) 27 = true) := by
  decide +kernel

/-! ### The Islet -/

/-- A state of the tests. -/
def il (v : IslSt) : State := { run [] with isl := v }

/-- A state of the tests. -/
def isn : List (Nat × Word) := [(R.islSnapSeq, 7#32), (R.islStatus, 0x41000000#32)]

/-- A state of the tests. -/
def iww : IslMeas := ⟨[1, 2, 3, 4], [5, 6, 7, 4294967295], [-3, 9, 2147483648], [1, 2, 3], 50⟩

/-- Witness for the premises of `IsletCommandsAndSnapshots`, part IsletCommands, clause by clause. -/
theorem test_premises_isletCommandsAndSnapshots_isletCommands :
    (let t : Nat := 9; let who : Initiator := .core 0; let arg : BitVec 28 := 3#28; let s : State := il { IslSt.init with power := false }; let x := s.upTo t; let v := x.isl; x.reaches who R.islCmd 0x10000000#32 = true ∧ x.reaches who R.islCmd (wordN (0x20000000 + arg.toNat)) = true ∧ x.reaches who R.islCmd 0x30000000#32 = true ∧ x.reaches who R.islCmd (wordN (0x40000000 + arg.toNat)) = true ∧ v.power = false) ∧
    (let t : Nat := 9; let who : Initiator := .core 0; let arg : BitVec 28 := 3#28; let s : State := il { IslSt.init with snap := some isn }; let x := s.upTo t; let v := x.isl; let m := arg.toNat % 4; x.reaches who R.islCmd 0x10000000#32 = true ∧ x.reaches who R.islCmd (wordN (0x20000000 + arg.toNat)) = true ∧ x.reaches who R.islCmd 0x30000000#32 = true ∧ x.reaches who R.islCmd (wordN (0x40000000 + arg.toNat)) = true ∧ v.power = true ∧ v.snap ≠ none ∧ m = 3) ∧
    (let t : Nat := 9; let who : Initiator := .core 0; let arg : BitVec 28 := 0x7FFFFFF#28; let s : State := il IslSt.init; let x := s.upTo t; let v := x.isl; x.reaches who R.islCmd 0x10000000#32 = true ∧ x.reaches who R.islCmd (wordN (0x20000000 + arg.toNat)) = true ∧ x.reaches who R.islCmd 0x30000000#32 = true ∧ x.reaches who R.islCmd (wordN (0x40000000 + arg.toNat)) = true ∧ v.power = true ∧ v.snap = none ∧ x.unsealed = false ∧ v.log.drop (arg.toNat % 1024) = []) ∧
    (let t : Nat := 9; let who : Initiator := .core 0; let arg : BitVec 28 := 1#28; let s : State := il { IslSt.init with isSealed := false, seq := 3, log := [⟨2, 5, 9, 1, 7⟩, ⟨1, 4, 9, 1, 8⟩] }; let x := s.upTo t; let v := x.isl; let m := arg.toNat % 4; x.reaches who R.islCmd 0x10000000#32 = true ∧ x.reaches who R.islCmd (wordN (0x20000000 + arg.toNat)) = true ∧ x.reaches who R.islCmd 0x30000000#32 = true ∧ x.reaches who R.islCmd (wordN (0x40000000 + arg.toNat)) = true ∧ v.power = true ∧ x.unsealed = true ∧ m ≠ 3 ∧ v.modeReq ≠ m ∧ v.log.drop (arg.toNat % 1024) = [⟨1, 4, 9, 1, 8⟩]) := by
  decide +kernel

/-- Witness for the premises of `IsletCommandsAndSnapshots`, part SnapshotsReachTheWindow, clause by clause. -/
theorem test_premises_isletCommandsAndSnapshots_snapshotsReachTheWindow :
    (let t : Nat := 9; let s : State := run []; let x := s.upTo t; x.isl.snap = none ∧ x.clk.now < x.isl.seenAt + second) ∧
    (let t : Nat := 9; let s : State := il { IslSt.init with snap := some isn }; let x := s.upTo t; x.isl.snap = some isn ∧ (isn.map (·.1)).Nodup ∧ x.isl.again = false ∧ R.islSnapSeq ∉ [R.islStatus, R.islCount, R.islNtS, R.islNtNs] ∧ R.islSnapSeq ∉ forceRegs) ∧
    (let t : Nat := 9; let s : State := il { IslSt.init with snap := some isn, again := true }; let x := s.upTo t; x.isl.snap = some isn ∧ x.isl.again = true ∧ x.isl.power = true) ∧
    (let t : Nat := 32000000000; let s : State := (run [(R.islStatus, 0xC1000000#32)]); let x := s.upTo t; x.isl.seenAt + second ≤ x.clk.now) ∧
    (let t : Nat := 31999999999; let s : State := (run [(R.islStatus, 0xC1000000#32)]); let x := s.upTo t; x.clk.now < x.isl.seenAt + second) := by
  decide +kernel

/-- Witness for the premises of `MeterMeasuresAndPulses`, part MeterWindowsAreScaled, clause by clause. -/
theorem test_premises_meterMeasuresAndPulses_meterWindowsAreScaled :
    (let t : Nat := 9; let m : IslMeas := iww; let s : State := il { IslSt.init with power := false }; let x := s.upTo t; wfMeterWindow m = true ∧ x.isl.power = false) ∧
    (let t : Nat := 9; let m : IslMeas := iww; let s : State := run []; let x := s.upTo t; wfMeterWindow m = true ∧ x.isl.power = true ∧ x.wiring3 = false) ∧
    (let t : Nat := 9; let m : IslMeas := iww; let s : State := il { IslSt.init with par := [(1, 1#32), (2, 3#32), (3, 7#32)] }; let x := s.upTo t; wfMeterWindow m = true ∧ x.isl.power = true ∧ x.wiring3 = true) := by
  decide +kernel

/-- Witness for the premises of `MeterMeasuresAndPulses`, part MeterQuantaAreAdded, clause by clause. -/
theorem test_premises_meterMeasuresAndPulses_meterQuantaAreAdded :
    (let t : Nat := 9; let p : List Int := [1, 2, 3]; let q : List Int := [4, 5, 6]; let s : State := il { IslSt.init with power := false }; let x := s.upTo t; wfMeterQuantum p q = true ∧ x.metering = false) ∧
    (let t : Nat := 9; let p : List Int := [5000000000, 0, -7000000000]; let q : List Int := [4, -5000, 2000000]; let s : State := run []; let x := s.upTo t; let e (l : List Int) (φ : Nat) : Int := if φ < 3 then (if x.wiring3 then 0 else x.islPrimary (nth 0 l φ)) else x.islPrimary (nth 0 l 0) + (if x.wiring3 then 0 else x.islPrimary (nth 0 l 1)) + x.islPrimary (nth 0 l 2); let amount (k : Nat) : Nat := (let y := e (if k < 8 then p else q) (k % 4); (if k / 4 % 2 = 0 then y else -y).toNat); let c := (x.ipar 22).toNat * 1000000; wfMeterQuantum p q = true ∧ x.metering = true ∧ amount 0 ≠ 0 ∧ amount 1 = 0 ∧ x.isl.next = none ∧ c ≠ 0) ∧
    (let t : Nat := 9; let p : List Int := [5000000000, 0, -3000000000]; let q : List Int := [4, -5000, 2000000]; let s : State := il { IslSt.init with par := [(1, 1#32), (22, 1000#32)], next := some [(1, 1#32)], energy := [(3, 2 ^ 64 - 1)], residue := [(3, 999999)] }; let x := s.upTo t; let e (l : List Int) (φ : Nat) : Int := if φ < 3 then (if x.wiring3 then 0 else x.islPrimary (nth 0 l φ)) else x.islPrimary (nth 0 l 0) + (if x.wiring3 then 0 else x.islPrimary (nth 0 l 1)) + x.islPrimary (nth 0 l 2); let amount (k : Nat) : Nat := (let y := e (if k < 8 then p else q) (k % 4); (if k / 4 % 2 = 0 then y else -y).toNat); let c := (x.ipar 22).toNat * 1000000; wfMeterQuantum p q = true ∧ x.metering = true ∧ amount 3 ≠ 0 ∧ amount 15 = 0 ∧ x.isl.next = some [(1, 1#32)] ∧ c ≠ 0) := by
  decide +kernel

/-- Witness for the premises of `MeterMeasuresAndPulses`, part MeterPulses, clause by clause. -/
theorem test_premises_meterMeasuresAndPulses_meterPulses :
    (let t : Nat := 9; let o : Bool := true; let s : State := il { IslSt.init with pulseQ := { IslPulse.init with owed := 1 } }; let x := s.upTo t; let y := x.modeTake; let v := y.pulse o; y.isl.power = true ∧ y.isl.mode ≠ 2 ∧ 0 < v.owed ∧ v.last = none ∧ x.isl.modeReq = 0) ∧
    (let t : Nat := 1280000000; let o : Bool := false; let s : State := il { IslSt.init with pulseP := { IslPulse.init with owed := 255, last := some 0 } }; let x := s.upTo t; let y := x.modeTake; let v := y.pulse o; y.isl.power = true ∧ y.isl.mode ≠ 2 ∧ 0 < v.owed ∧ v.last = some 0 ∧ 0 + 2 * y.pulseWidth ≤ x.clk.now) ∧
    (let t : Nat := 1279999999; let o : Bool := false; let s : State := il { IslSt.init with pulseP := { IslPulse.init with owed := 255, last := some 0 } }; let x := s.upTo t; let y := x.modeTake; let v := y.pulse o; ¬(0 + 2 * y.pulseWidth ≤ x.clk.now) ∧ v.last = some 0 ∧ x.clk.now < x.isl.modeAt + 3600 * second) ∧
    (let t : Nat := 9; let s : State := il { IslSt.init with mode := 1, modeReq := 2, pulseP := { IslPulse.init with owed := 255, last := none } }; let x := s.upTo t; let y := x.modeTake; y.isl.mode = 2 ∧ x.clk.now < x.isl.modeAt + 3600 * second) ∧
    (let t : Nat := 115200000000000; let o : Bool := false; let s : State := il { IslSt.init with mode := 2, modeReq := 2 }; let x := s.upTo t; let y := x.modeTake; let v := y.pulse o; x.isl.modeReq ≠ 0 ∧ x.isl.modeAt + 3600 * second ≤ x.clk.now ∧ v.owed = 0) := by
  decide +kernel

/-- Witness for the premises of `MeterMeasuresAndPulses`, part MeterWatchesItsClock, clause by clause. -/
theorem test_premises_meterMeasuresAndPulses_meterWatchesItsClock :
    (let t : Nat := 9; let dev : Int := -1001; let s : State := run []; let x := s.upTo t; let v := x.isl; v.power = true ∧ 1000 < dev.natAbs ∧ v.clkFault = false) ∧
    (let t : Nat := 9; let dev : Int := 1001; let s : State := il { IslSt.init with clkFault := true, clkOk := 9 }; let x := s.upTo t; let v := x.isl; v.power = true ∧ 1000 < dev.natAbs ∧ v.clkFault = true) ∧
    (let t : Nat := 9; let dev : Int := 500; let s : State := il { IslSt.init with clkFault := true, clkOk := 9 }; let x := s.upTo t; let v := x.isl; v.power = true ∧ v.clkFault = true ∧ dev.natAbs ≤ 1000 ∧ dev.natAbs ≤ 500) ∧
    (let t : Nat := 9; let dev : Int := -501; let s : State := il { IslSt.init with clkFault := true, clkOk := 9 }; let x := s.upTo t; let v := x.isl; v.power = true ∧ v.clkFault = true ∧ dev.natAbs ≤ 1000) ∧
    (let t : Nat := 9; let dev : Int := 1000; let s : State := run []; let x := s.upTo t; let v := x.isl; v.clkFault = false ∧ dev.natAbs ≤ 1000) ∧
    (let t : Nat := 9; let s : State := il { IslSt.init with power := false }; let x := s.upTo t; let v := x.isl; v.power = false) := by
  decide +kernel

/-- Witness for the premises of `SealPowerAndCalibration`, part SealAndStraitPower, clause by clause. -/
theorem test_premises_sealPowerAndCalibration_sealAndStraitPower :
    (let t : Nat := 9; let closed : Bool := true; let p : List Int := [1, 2, 3]; let q : List Int := [4, 5, 6]; let s : State := run []; let x := s.upTo t; let v := x.isl; v.isSealed = closed ∧ v.isSealed = true ∧ v.power = true ∧ wfStraitPowerFall p q = true) ∧
    (let t : Nat := 9; let closed : Bool := false; let s : State := il { IslSt.init with seals := 65535, modeReq := 2, isSealed := false }; let x := s.upTo t; let v := x.isl; v.isSealed = closed ∧ v.isSealed = false ∧ v.power = true) ∧
    (let t : Nat := 9; let ret : Bool := true; let p : List Int := [1, 2, 3]; let q : List Int := [4, 5, 6]; let s : State := il { IslSt.init with power := false }; let x := s.upTo t; let v := x.isl; v.isSealed = true ∧ v.power = false ∧ wfStraitPowerFall p q = true ∧ ret = true) ∧
    (let t : Nat := 9; let ret : Bool := false; let s : State := il { IslSt.init with power := false, opened := true, losses := 255, energy := [(3, 9)] }; let x := s.upTo t; let v := x.isl; v.power = false ∧ v.opened = true ∧ ret = false) := by
  decide +kernel

/-- Witness for the premises of `SealPowerAndCalibration`, part CalibrationPort, clause by clause. -/
theorem test_premises_sealPowerAndCalibration_calibrationPort :
    (let t : Nat := 9; let s : State := il { IslSt.init with power := false }; let x := s.upTo t; let v := x.isl; v.power = false) ∧
    (let crcOk : Bool := false; crcOk = false) ∧
    (let t : Nat := 9; let idx : Byte := 24#8; let s : State := run []; let x := s.upTo t; let v := x.isl; let i := idx.toNat; v.power = true ∧ x.unsealed = false ∧ ¬(24 < i)) ∧
    (let t : Nat := 9; let idx : Byte := 25#8; let s : State := il { IslSt.init with isSealed := false }; let x := s.upTo t; let v := x.isl; let i := idx.toNat; v.power = true ∧ x.unsealed = true ∧ 24 < i ∧ ((List.range 25).all (fun j => islRange j (tabGet islParReset v.staging j))) = true ∧ v.commits < 1000) ∧
    (let t : Nat := 9; let idx : Byte := 24#8; let s : State := il { IslSt.init with isSealed := false, commits := 1000 }; let x := s.upTo t; let v := x.isl; let i := idx.toNat; v.power = true ∧ x.unsealed = true ∧ i ≤ 24 ∧ ((List.range 25).all (fun j => islRange j (tabGet islParReset v.staging j))) = true ∧ 1000 ≤ v.commits) ∧
    (let t : Nat := 9; let s : State := il { IslSt.init with isSealed := false, staging := [(2, 0#32)] }; let x := s.upTo t; let v := x.isl; v.power = true ∧ x.unsealed = true ∧ ((List.range 25).all (fun j => islRange j (tabGet islParReset v.staging j))) = false) ∧
    (let t : Nat := 9; let s : State := il { IslSt.init with isSealed := false, commits := 999, staging := [(2, 9#32)] }; let x := s.upTo t; let v := x.isl; v.power = true ∧ x.unsealed = true ∧ ((List.range 25).all (fun j => islRange j (tabGet islParReset v.staging j))) = true ∧ v.commits < 1000) := by
  decide +kernel

/-! ### Recorder and time -/

/-- A state of the tests. -/
def cpu (rs : List (Nat × Word)) (c : CapSt) : State := (run ([(R.recCapCfg 3, 0x80000002#32), (R.recCapInterval 3, 1000#32), (R.recCapSlots 3, 4#32), (R.recCapPre 3, 2#32), (R.recCapPost 3, 1#32), (R.recCapStride 3, 0x1000#32), (R.recCapClose 3, 1#32)] ++ rs)).setCap 3 c

/-- A state of the tests. -/
def pm (l : Tab (Option Word)) : State := { run [(R.sysCpStatus 4, 0x40000000#32), (R.pmuSel 4 6, 0xA0000001#32), (R.pmuSel 4 7, 0xC0000000#32), (R.pmuPcnt 4 7, 9#32), (R.pmuPcnt 4 6, 5#32)] with pmu := ⟨l, [], []⟩ }

/-- Witness for the premises of `CaptureUnitsRun`, part CaptureUnitsArmAndStop, clause by clause. -/
theorem test_premises_captureUnitsRun_captureUnitsArmAndStop :
    (let t : Nat := 9; let who : Initiator := .core 0; let k : Fin 8 := 3; let s : State := (cpu [] CapSt.init).setSysSt 4; let x := s.upTo t; x.reaches who (R.recCapCtrl k) 1#32 = true ∧ x.rdF R.sysState 2 0 = 4) ∧
    (let t : Nat := 9; let who : Initiator := .core 0; let k : Fin 8 := 3; let s : State := cpu [] CapSt.init; let x := s.upTo t; let y := x.intervalClose k 0; x.reaches who (R.recCapCtrl k) 1#32 = true ∧ x.reaches who (R.recCapCtrl k) 2#32 = true ∧ x.rdF R.sysState 2 0 ≠ 4 ∧ x.capEn k = true ∧ x.capState k = 0 ∧ x.capFree k 0 = some 0 ∧ y.capState k = 0) ∧
    (let t : Nat := 9; let who : Initiator := .core 0; let k : Fin 8 := 3; let s : State := cpu [(R.recCapStatus 3, 6#32), (R.recCapFull 3, 0xF#32)] CapSt.init; let x := s.upTo t; let y := x.intervalClose k 0; x.reaches who (R.recCapCtrl k) 1#32 = true ∧ x.reaches who (R.recCapCtrl k) 2#32 = true ∧ x.rdF R.sysState 2 0 ≠ 4 ∧ x.capEn k = true ∧ x.capState k = 6 ∧ x.capFree k 0 = none ∧ 5 < y.capState k) ∧
    (let t : Nat := 9; let who : Initiator := .core 0; let k : Fin 8 := 3; let s : State := cpu [(R.recCapStatus 3, 3#32)] CapSt.init; let x := s.upTo t; let y := x.intervalClose k 0; x.reaches who (R.recCapCtrl k) 1#32 = true ∧ x.reaches who (R.recCapCtrl k) 2#32 = true ∧ (x.capState k ≠ 0 ∧ x.capState k ≠ 6) ∧ 1 ≤ y.capState k ∧ y.capState k ≤ 3) ∧
    (let t : Nat := 9; let who : Initiator := .core 0; let k : Fin 8 := 3; let s : State := cpu [(R.recCapStatus 3, 5#32)] CapSt.init; let x := s.upTo t; let y := x.intervalClose k 0; x.reaches who (R.recCapCtrl k) 1#32 = true ∧ x.reaches who (R.recCapCtrl k) 2#32 = true ∧ (x.capState k ≠ 0 ∧ x.capState k ≠ 6) ∧ y.capState k = 5) ∧
    (let t : Nat := 9; let who : Initiator := .core 0; let k : Fin 8 := 7; let s : State := run [(R.recCapStatus 7, 1#32)]; let x := s.upTo t; let y := x.intervalClose k 0; x.reaches who (R.recCapCtrl k) 1#32 = true ∧ x.reaches who (R.recCapCtrl k) 2#32 = true ∧ x.capEn k = false ∧ y.capState k = 1) := by
  decide +kernel

/-- Witness for the premises of `IntervalsCloseAndTriggersAreTaken`, part IntervalsClose, clause by clause. -/
theorem test_premises_intervalsCloseAndTriggersAreTaken_intervalsClose :
    (let t : Nat := 9; let n : Nat := 0; let k : Fin 8 := 3; let s : State := cpu [(R.recCapStatus 3, 1#32)] CapSt.init; let x := s.upTo t; let y := x.capDrain k n; let c := y.cap k; let len := y.capIv k * 2 ^ y.capH k; ¬(c.cur + len + 1000 * y.rdF (R.recCapClose k) 15 0 ≤ ntTotalNs (y.netTime y.clk.now))) ∧
    (let t : Nat := 64000; let n : Nat := 1; let k : Fin 8 := 3; let s : State := cpu [(R.recCapStatus 3, 1#32)] { CapSt.init with idx := 1, queue := [(0, [1#8]), (64, [2#8])] }; let x := s.upTo t; let y := x.capDrain k n; let c := y.cap k; let len := y.capIv k * 2 ^ y.capH k; y.capEn k = true ∧ 1 ≤ y.capState k ∧ y.capState k ≤ 3 ∧ c.cur + len + 1000 * y.rdF (R.recCapClose k) 15 0 ≤ ntTotalNs (y.netTime y.clk.now) ∧ c.queue.length + y.capCount k ≤ 1536 ∧ y.capState k = 1 ∧ y.capPre k ≤ c.idx + 1) ∧
    (let t : Nat := 64000; let n : Nat := 0; let k : Fin 8 := 3; let s : State := cpu [(R.recCapStatus 3, 1#32)] CapSt.init; let x := s.upTo t; let y := x.capDrain k n; let c := y.cap k; let len := y.capIv k * 2 ^ y.capH k; y.capEn k = true ∧ 1 ≤ y.capState k ∧ y.capState k ≤ 3 ∧ c.cur + len + 1000 * y.rdF (R.recCapClose k) 15 0 ≤ ntTotalNs (y.netTime y.clk.now) ∧ c.queue.length + y.capCount k ≤ 1536 ∧ y.capState k = 1 ∧ ¬(y.capPre k ≤ c.idx + 1)) ∧
    (let t : Nat := 64000; let n : Nat := 0; let k : Fin 8 := 3; let s : State := cpu [(R.recCapStatus 3, 2#32)] CapSt.init; let x := s.upTo t; let y := x.capDrain k n; let c := y.cap k; let len := y.capIv k * 2 ^ y.capH k; y.capEn k = true ∧ y.capState k = 2 ∧ c.cur + len + 1000 * y.rdF (R.recCapClose k) 15 0 ≤ ntTotalNs (y.netTime y.clk.now) ∧ c.queue.length + y.capCount k ≤ 1536) ∧
    (let t : Nat := 64000; let n : Nat := 0; let k : Fin 8 := 3; let s : State := cpu [(R.recCapStatus 3, 3#32)] { CapSt.init with idx := 1, trig := some ⟨0, 1, false, some 1, 0⟩ }; let x := s.upTo t; let y := x.capDrain k n; let c := y.cap k; let len := y.capIv k * 2 ^ y.capH k; y.capEn k = true ∧ y.capState k = 3 ∧ c.cur + len + 1000 * y.rdF (R.recCapClose k) 15 0 ≤ ntTotalNs (y.netTime y.clk.now) ∧ c.queue.length + y.capCount k ≤ 1536 ∧ c.trig = some ⟨0, 1, false, some 1, 0⟩ ∧ 1 + y.capPost k ≤ c.idx + 1) ∧
    (let t : Nat := 64000; let n : Nat := 0; let k : Fin 8 := 3; let s : State := cpu [(R.recCapStatus 3, 3#32)] { CapSt.init with idx := 1, trig := some ⟨0, 1, false, some 2, 0⟩ }; let x := s.upTo t; let y := x.capDrain k n; let c := y.cap k; let len := y.capIv k * 2 ^ y.capH k; y.capEn k = true ∧ y.capState k = 3 ∧ c.cur + len + 1000 * y.rdF (R.recCapClose k) 15 0 ≤ ntTotalNs (y.netTime y.clk.now) ∧ c.queue.length + y.capCount k ≤ 1536 ∧ c.trig = some ⟨0, 1, false, some 2, 0⟩ ∧ c.idx + 1 < 2 + y.capPost k) ∧
    (let t : Nat := 64000; let n : Nat := 0; let k : Fin 8 := 3; let s : State := cpu [(R.recCapStatus 3, 1#32)] { CapSt.init with queue := List.replicate 2047 (0, []) }; let x := s.upTo t; let y := x.capDrain k n; let c := y.cap k; let len := y.capIv k * 2 ^ y.capH k; y.capEn k = true ∧ y.capState k = 1 ∧ c.cur + len + 1000 * y.rdF (R.recCapClose k) 15 0 ≤ ntTotalNs (y.netTime y.clk.now) ∧ 2048 < c.queue.length + y.capCount k) := by
  decide +kernel

/-- Witness for the premises of `IntervalsCloseAndTriggersAreTaken`, part IntervalsClose, clause by clause. -/
theorem test_premises_intervalsCloseAndTriggersAreTaken_intervalsClose_2 :
    (let t : Nat := 64000; let n : Nat := 0; let k : Fin 8 := 3; let s : State := cpu [(R.recCapStatus 3, 1#32)] { CapSt.init with queue := List.replicate 1534 (0, []) }; let x := s.upTo t; let y := x.capDrain k n; let c := y.cap k; let len := y.capIv k * 2 ^ y.capH k; y.capEn k = true ∧ y.capState k = 1 ∧ c.cur + len + 1000 * y.rdF (R.recCapClose k) 15 0 ≤ ntTotalNs (y.netTime y.clk.now) ∧ c.queue.length + y.capCount k ≤ 1536) := by
  decide +kernel

/-- Witness for the premises of `IntervalsCloseAndTriggersAreTaken`, part TriggersAreTaken, clause by clause. -/
theorem test_premises_intervalsCloseAndTriggersAreTaken_triggersAreTaken :
    (let t : Nat := 32000; let high : Nat := 32000; let who : Initiator := .core 0; let k : Fin 8 := 3; let b : Fin 4 := 3; let mask : BitVec 8 := 0xFF#8; let s : State := cpu [(R.recCapStatus 3, 2#32), (R.recCapTrigA 3, 0x00020001#32), (R.recCapTrigB 3, 0x13#32), (R.recCapFireAtNs 3, 0x80000000#32), (R.recBus 3, 0x80000000#32)] CapSt.init; let x := s.upTo t; let a := R.recBus b; let now := x.netTime x.clk.now; x.reaches who R.recFire (mask.setWidth 32) = true ∧ x.rdB (R.recCapFireAtNs k) 31 = true ∧ x.fireAt k ≤ now ∧ x.rdB a 31 = true ∧ usec ≤ high ∧ x.capEn 3 = true ∧ x.capSelects 3 1 = true ∧ x.capSelects 3 2 = true ∧ x.capSelects 3 0x13 = true ∧ natBit mask.toNat 3 = true ∧ Nat.land (x.rdF (R.recCapCfg 3) 23 20) (x.rdF (R.recCapCfg 3) 19 16) = 0 ∧ x.capState 3 = 2 ∧ (x.cap 3).from_ ≤ ntTotalNs (x.fireAt k)) ∧
    (let t : Nat := 32000; let high : Nat := 31999; let who : Initiator := .core 0; let k : Fin 8 := 3; let b : Fin 4 := 3; let mask : BitVec 8 := 8#8; let s : State := cpu [(R.recCapStatus 3, 5#32), (R.recCapTrigA 3, 0x00020001#32), (R.recCapTrigB 3, 0x13#32), (R.recCapFireAtNs 3, 0x80000000#32), (R.recBus 3, 0x80000000#32)] CapSt.init; let x := s.upTo t; let a := R.recBus b; let now := x.netTime x.clk.now; x.reaches who R.recFire (mask.setWidth 32) = true ∧ x.rdB (R.recCapFireAtNs k) 31 = true ∧ x.fireAt k ≤ now ∧ x.rdB a 31 = true ∧ high < usec ∧ x.capEn 3 = true ∧ x.capSelects 3 1 = true ∧ x.capSelects 3 2 = true ∧ natBit mask.toNat 3 = true ∧ x.capState 3 = 5) ∧
    (let t : Nat := 9; let k : Fin 8 := 3; let b : Fin 4 := 3; let s : State := cpu [(R.recCapFireAtNs 3, 0x80000001#32)] CapSt.init; let x := s.upTo t; let a := R.recBus b; let now := x.netTime x.clk.now; x.rdB (R.recCapFireAtNs k) 31 = true ∧ now < x.fireAt k ∧ x.rdB a 31 = false) ∧
    (let t : Nat := 9; let who : Initiator := .core 0; let k : Fin 8 := 0; let mask : BitVec 8 := 8#8; let s : State := run []; let x := s.upTo t; x.rdB (R.recCapFireAtNs k) 31 = false ∧ x.reaches who R.recFire (mask.setWidth 32) = true) := by
  decide +kernel

/-- Witness for the premises of `CaptureUnitsRun`, part RecorderTimesEnd, clause by clause. -/
theorem test_premises_captureUnitsRun_recorderTimesEnd :
    (let t : Nat := 32000000; let k : Fin 8 := 3; let b : Fin 4 := 3; let s : State := { cpu [(R.recCapStatus 3, 4#32), (R.recCapHold 3, 0x10000#32), (R.recCapCfg 3, 0xC0000002#32)] CapSt.init with rec_ := { (cpu [] CapSt.init).rec_ with drive := [(3, 32000000)] } }; let x := s.upTo t; let e := tabGet (fun _ => 0) x.rec_.drive b; let due := x.capState k = 4 ∧ x.rdB (R.recCapCfg k) 29 = false ∧ (x.cap k).holdFrom + x.rdF (R.recCapHold k) 31 16 * msec ≤ x.clk.now; e ≠ 0 ∧ e ≤ x.clk.now ∧ due ∧ x.rdB (R.recCapCfg k) 30 = true ∧ (x.capFree k (x.capSlot k + 1)).isSome = true) ∧
    (let t : Nat := 31999999; let k : Fin 8 := 3; let b : Fin 4 := 3; let s : State := { cpu [(R.recCapStatus 3, 4#32), (R.recCapHold 3, 0x10000#32), (R.recCapCfg 3, 0xC0000002#32)] CapSt.init with rec_ := { (cpu [] CapSt.init).rec_ with drive := [(3, 32000000)] } }; let x := s.upTo t; let e := tabGet (fun _ => 0) x.rec_.drive b; let due := x.capState k = 4 ∧ x.rdB (R.recCapCfg k) 29 = false ∧ (x.cap k).holdFrom + x.rdF (R.recCapHold k) 31 16 * msec ≤ x.clk.now; x.clk.now < e ∧ ¬due) ∧
    (let t : Nat := 32000000; let k : Fin 8 := 3; let s : State := cpu [(R.recCapStatus 3, 4#32), (R.recCapHold 3, 0x10000#32), (R.recCapCfg 3, 0xC0000002#32), (R.recCapFull 3, 0xF#32)] CapSt.init; let x := s.upTo t; let due := x.capState k = 4 ∧ x.rdB (R.recCapCfg k) 29 = false ∧ (x.cap k).holdFrom + x.rdF (R.recCapHold k) 31 16 * msec ≤ x.clk.now; due ∧ x.rdB (R.recCapCfg k) 30 = true ∧ (x.capFree k (x.capSlot k + 1)).isSome = false) ∧
    (let t : Nat := 32000000; let k : Fin 8 := 3; let b : Fin 4 := 3; let s : State := cpu [(R.recCapStatus 3, 4#32), (R.recCapHold 3, 0x10000#32)] CapSt.init; let x := s.upTo t; let e := tabGet (fun _ => 0) x.rec_.drive b; let due := x.capState k = 4 ∧ x.rdB (R.recCapCfg k) 29 = false ∧ (x.cap k).holdFrom + x.rdF (R.recCapHold k) 31 16 * msec ≤ x.clk.now; e = 0 ∧ due ∧ x.rdB (R.recCapCfg k) 30 = false) := by
  decide +kernel

/-- Witness for the premises of `CaptureUnitsRun`, part SlotsAreFilledAndFreed, clause by clause. -/
theorem test_premises_captureUnitsRun_slotsAreFilledAndFreed :
    (let t : Nat := 9; let who : Initiator := .core 0; let k : Fin 8 := 3; let w : Word := 0xFFFFFFFF#32; let v : BitVec 2 := 3#2; let s : State := cpu [(R.recCapFull 3, 0xF#32)] CapSt.init; let x := s.upTo t; let c := x.cap k; let f := R.recCapFull k; c.fin = [] ∧ x.reaches who f w = true ∧ x.capState k ≠ 5 ∧ x.reaches who (R.recCapService k) (v.setWidth 32) = true ∧ bitOf (wordN ((regRow f).elim 0 (·.w1c))) 31 = true ∧ bitOf (x.raisedNow f) 31 = false) ∧
    (let t : Nat := 9; let who : Initiator := .core 0; let k : Fin 8 := 3; let w : Word := 8#32; let s : State := cpu [(R.recCapFull 3, 0xF#32), (R.recCapStatus 3, 5#32)] { CapSt.init with fin := [(31, [1#8, 2#8])], queue := [(32, [7#8])] }; let x := s.upTo t; let c := x.cap k; let f := R.recCapFull k; let z := x.storeReg f w; c.fin = (31, [1#8, 2#8]) :: [] ∧ x.reaches who f w = true ∧ x.capState k = 5 ∧ z.capFree k (x.capSlot k + 1) = some 3) ∧
    (let t : Nat := 9; let who : Initiator := .core 0; let k : Fin 8 := 3; let w : Word := 0#32; let s : State := cpu [(R.recCapFull 3, 0xF#32), (R.recCapStatus 3, 5#32)] { CapSt.init with fin := [(0, [1#8])] }; let x := s.upTo t; let c := x.cap k; let f := R.recCapFull k; let z := x.storeReg f w; c.fin = (0, [1#8]) :: [] ∧ x.reaches who f w = true ∧ x.capState k = 5 ∧ z.capFree k (x.capSlot k + 1) = none) := by
  decide +kernel

/-- Witness for the premises of `IncrementsCountFromTheNextTick`, clause by clause. -/
theorem test_premises_incrementsCountFromTheNextTick :
    (let t : Nat := 9; let who : Initiator := .core 0; let w : Word := 17179869#32; let s : State := run [(R.timeIncNs, 8#32)]; let x := s.upTo t; let ns := x.rdF R.timeIncNs 3 0; x.reaches who R.timeIncNs w = true ∧ x.reaches who R.timeIncFrac w = true ∧ 7996 * 2 ^ 32 ≤ (ns * 2 ^ 32 + w.toNat) * 1000 ∧ (ns * 2 ^ 32 + w.toNat) * 1000 ≤ 8004 * 2 ^ 32 ∧ x.tim.baseAt ≤ x.clk.now) ∧
    (let t : Nat := 9; let who : Initiator := .core 0; let w : Word := 17179870#32; let s : State := run [(R.timeIncNs, 8#32)]; let x := s.upTo t; let ns := x.rdF R.timeIncNs 3 0; x.reaches who R.timeIncNs w = true ∧ x.reaches who R.timeIncFrac w = true ∧ 8004 * 2 ^ 32 < (ns * 2 ^ 32 + w.toNat) * 1000) ∧
    (let t : Nat := 9; let who : Initiator := .core 0; let w : Word := 4277787427#32; let s : State := { run [(R.timeIncNs, 7#32)] with tim := { State.reset.tim with baseAt := 256, base := 1000 } }; let x := s.upTo t; let T := x.nextTick; let ns := x.rdF R.timeIncNs 3 0; x.reaches who R.timeIncNs w = true ∧ x.reaches who R.timeIncFrac w = true ∧ 7996 * 2 ^ 32 ≤ (ns * 2 ^ 32 + w.toNat) * 1000 ∧ (ns * 2 ^ 32 + w.toNat) * 1000 ≤ 8004 * 2 ^ 32 ∧ x.tim.baseAt = T) ∧
    (let t : Nat := 9; let who : Initiator := .core 0; let w : Word := 4277787426#32; let s : State := run [(R.timeIncNs, 7#32)]; let x := s.upTo t; let ns := x.rdF R.timeIncNs 3 0; x.reaches who R.timeIncNs w = true ∧ x.reaches who R.timeIncFrac w = true ∧ (ns * 2 ^ 32 + w.toNat) * 1000 < 7996 * 2 ^ 32) := by
  decide +kernel

/-- Witness for the premises of `TimeIsSetSteppedAndReadWhole`, part TimeIsSetOnceThenStepped, clause by clause. -/
theorem test_premises_timeIsSetSteppedAndReadWhole_timeIsSetOnceThenStepped :
    (let t : Nat := 9; let who : Initiator := .core 0; let s : State := run [(R.timeArgSLo, 7#32), (R.timeArgNs, 5#32), (R.timeJumpLimit, 0#32)]; let x := s.upTo t; let st := R.timeStatus; let lim := x.rdN R.timeJumpLimit * 1000; x.reaches who R.timeCtrl 2#32 = true ∧ x.rdB st 0 = false ∧ x.reaches who R.timeCtrl 1#32 = true ∧ lim = 0) ∧
    (let t : Nat := 9; let who : Initiator := .core 0; let s : State := run [(R.timeStatus, 1#32), (R.timeArgNs, 0x800003E8#32), (R.timeJumpLimit, 1#32)]; let x := s.upTo t; let st := R.timeStatus; let a := x.timeArg; let lim := x.rdN R.timeJumpLimit * 1000; x.reaches who R.timeCtrl 2#32 = true ∧ x.rdB st 0 = true ∧ x.reaches who R.timeCtrl 1#32 = true ∧ lim ≠ 0 ∧ a ≤ lim) ∧
    (let t : Nat := 9; let who : Initiator := .core 0; let s : State := run [(R.timeStatus, 1#32), (R.timeArgNs, 0x000003E9#32), (R.timeJumpLimit, 1#32)]; let x := s.upTo t; let st := R.timeStatus; let a := x.timeArg; let lim := x.rdN R.timeJumpLimit * 1000; x.reaches who R.timeCtrl 2#32 = true ∧ x.rdB st 0 = true ∧ x.reaches who R.timeCtrl 1#32 = true ∧ lim < a) := by
  decide +kernel

/-- Witness for the premises of `TimeReadsAreCoherent`, clause by clause. -/
theorem test_premises_timeReadsAreCoherent :
    (let t : Nat := 64001; let who : Initiator := .core 0; let other : Initiator := .core 1; let s : State := run []; let x := s.upTo t; x.readReaches who R.timeNs = true ∧ other ≠ who) ∧
    (let t : Nat := 64001; let who : Initiator := .core 0; let s : State := run []; let x := s.upTo t; x.readReaches who R.timeNs = true) := by
  decide +kernel

/-- Witness for the premises of `TimeIsSetSteppedAndReadWhole`, part HalvesAreReadTogether, clause by clause. -/
theorem test_premises_timeIsSetSteppedAndReadWhole_halvesAreReadTogether :
    (let t : Nat := 64001; let who : Initiator := .core 0; let n : Fin 4 := 3; let p : Fin 5 := 4; let c : Fin 4 := 3; let s : State := pm []; let x := s.upTo t; let k := 2 * c.val; x.readReaches who R.pwmTbLo = true ∧ who ≠ .ulile ∧ x.readReaches who (R.gfeOmegaAccHi n) = true ∧ x.readReaches who (R.pmuPcnt p k) = true ∧ tabGet (fun _ => (none : Option Word)) x.pmu.latch (8 * p + k) = none ∧ x.pmuChained p (k + 1) = true) ∧
    (let t : Nat := 64001; let who : Initiator := .core 0; let p : Fin 5 := 0; let c : Fin 4 := 0; let s : State := run [(R.pmuPcnt 0 0, 6#32)]; let x := s.upTo t; let k := 2 * c.val; x.readReaches who (R.pmuPcnt p k) = true ∧ tabGet (fun _ => (none : Option Word)) x.pmu.latch (8 * p + k) = none ∧ x.pmuChained p (k + 1) = false) ∧
    (let t : Nat := 64001; let who : Initiator := .ulile; let p : Fin 5 := 4; let c : Fin 4 := 3; let s : State := pm [(38, some 4#32)]; let x := s.upTo t; let k := 2 * c.val; x.readReaches who R.pwmTbLo = true ∧ who = .ulile ∧ x.readReaches who (R.pmuPcnt p k) = true ∧ tabGet (fun _ => (none : Option Word)) x.pmu.latch (8 * p + k) = some 4#32) := by
  decide +kernel

/-! ### Ethernet and Ulile -/

/-- A state of the tests. -/
def pf (a b ty fl : Nat) : List Byte := bytesBE 6 a ++ bytesBE 6 b ++ [0x88#8, 0xF7#8] ++ bytesBE 1 ty ++ [2#8, 0#8, 44#8, 0#8, 0#8] ++ bytesBE 1 fl ++ List.replicate 37 0#8

/-- A state of the tests. -/
def uf (a b port : Nat) : List Byte := bytesBE 6 a ++ bytesBE 6 b ++ [8#8, 0#8, 0x45#8] ++ List.replicate 8 0#8 ++ [17#8] ++ List.replicate 12 0#8 ++ bytesBE 2 port ++ List.replicate 8 0#8

/-- A state of the tests. -/
def ln (rs : List (Nat × Word)) (v : EthSt) : State := { st ([(R.sysState, 0x3#32), (R.ethPortCfg 0, 0xA0000000#32), (R.ethPortCfg 1, 0xA0006000#32)] ++ rs) with eth := v }

/-- A state of the tests. -/
def uv : UliVia := .udp 0#48 0#32 0#16 1#32 2#16

/-- A state of the tests. -/
def ul (rs : List (Nat × Word)) (q : List UliReq) (i : Nat) : State := { run ([(R.bootStatus, 0#32), (R.uliCfg, 0xF0000000#32)] ++ rs) with uli := ⟨q, i, [], none⟩ }

/-- Witness for the premises of `EthernetSwitchesFrames`, part FramesAreSwitched, clause by clause. -/
theorem test_premises_ethernetSwitchesFrames_framesAreSwitched :
    (let t : Nat := 9; let p : Fin 3 := 0; let bytes : List Byte := uf 1 2 3; let s : State := run []; let x := s.upTo t; wfEthFrameIngress bytes = true ∧ x.ethUp p = false) ∧
    (let t : Nat := 9; let bytes : List Byte := uf 1 2 3; let s : State := run [(R.pdmStatus, 0#32)]; let x := s.upTo t; wfEthFrameIngress bytes = true ∧ x.pdOn 14 = false) ∧
    (let t : Nat := 9; let p : Fin 3 := 0; let bytes : List Byte := List.replicate 1519 0#8; let s : State := ln [] EthSt.init; let x := s.upTo t; wfEthFrameIngress bytes = true ∧ x.pdOn 14 = true ∧ x.ethUp p = true ∧ 1518 < bytes.length) ∧
    (let t : Nat := 9; let p : Fin 3 := 1; let bytes : List Byte := uf 6 2 3 ++ List.replicate 1472 0#8; let s : State := ln [] EthSt.init; let x := s.upTo t; let known : Option Nat := if natBit (beAt bytes 0 1) 0 then none else ((x.ethLearn p bytes).eth.macs.find? (fun m => m.1 == ethDst bytes)).map (·.2.1); let outs := if x.tcP2p && ptpPdelay bytes then [] else [0, 1, 2].filter (fun o => o != p.val && x.ethUp o && (known.getD o) == o); let ep := (udpPort bytes).bind x.udpEndpoint; wfEthFrameIngress bytes = true ∧ x.pdOn 14 = true ∧ x.ethUp p = true ∧ bytes.length ≤ 1518 ∧ x.ethShared + 3 * bytes.length ≤ 65536 ∧ 0 ∈ outs ∧ ep = none) ∧
    (let t : Nat := 9; let p : Fin 3 := 0; let bytes : List Byte := uf 0xFFFFFFFFFFFF 2 700; let s : State := ln [(R.cwyEp 15, 0x840002BC#32)] EthSt.init; let x := s.upTo t; let known : Option Nat := if natBit (beAt bytes 0 1) 0 then none else ((x.ethLearn p bytes).eth.macs.find? (fun m => m.1 == ethDst bytes)).map (·.2.1); let outs := if x.tcP2p && ptpPdelay bytes then [] else [0, 1, 2].filter (fun o => o != p.val && x.ethUp o && (known.getD o) == o); let ep := (udpPort bytes).bind x.udpEndpoint; wfEthFrameIngress bytes = true ∧ x.pdOn 14 = true ∧ x.ethUp p = true ∧ bytes.length ≤ 1518 ∧ x.ethShared + 3 * bytes.length ≤ 65536 ∧ 2 ∈ outs ∧ ep = some 15 ∧ x.primary (x.rdF (R.cwyEp 15) 30 28) = true) ∧
    (let t : Nat := 9; let p : Fin 3 := 0; let bytes : List Byte := uf 0xFFFFFFFFFFFF 2 700; let s : State := ln [(R.cwyEp 15, 0x840002BC#32), (R.sysState, 0x83#32), (R.cwyStatus, 0xFC000000#32), (R.cwyFwd, 0xFFFFF#32)] EthSt.init; let x := s.upTo t; let known : Option Nat := if natBit (beAt bytes 0 1) 0 then none else ((x.ethLearn p bytes).eth.macs.find? (fun m => m.1 == ethDst bytes)).map (·.2.1); let outs := if x.tcP2p && ptpPdelay bytes then [] else [0, 1, 2].filter (fun o => o != p.val && x.ethUp o && (known.getD o) == o); let ep := (udpPort bytes).bind x.udpEndpoint; wfEthFrameIngress bytes = true ∧ x.pdOn 14 = true ∧ x.ethUp p = true ∧ bytes.length ≤ 1518 ∧ x.ethShared + 3 * bytes.length ≤ 65536 ∧ 2 ∈ outs ∧ ep = some 15 ∧ x.primary (x.rdF (R.cwyEp 15) 30 28) = false) ∧
    (let t : Nat := 9; let p : Fin 3 := 0; let bytes : List Byte := uf 6 2 700; let s : State := ln [] { EthSt.init with macs := [(6, 1, 0)], queues := [(8, List.replicate 49 ⟨List.replicate 1518 0#8, 0, 0, none, false, 0⟩)] }; let x := s.upTo t; let f : EthFrame := ⟨bytes, p, x.netTime x.clk.now, none, false, x.clk.now⟩; let known : Option Nat := if natBit (beAt bytes 0 1) 0 then none else ((x.ethLearn p bytes).eth.macs.find? (fun m => m.1 == ethDst bytes)).map (·.2.1); let outs := if x.tcP2p && ptpPdelay bytes then [] else [0, 1, 2].filter (fun o => o != p.val && x.ethUp o && (known.getD o) == o); wfEthFrameIngress bytes = true ∧ x.pdOn 14 = true ∧ x.ethUp p = true ∧ bytes.length ≤ 1518 ∧ outs = [1] ∧ 65536 < (x.setEthQueue 1 (x.ethPrio f) (x.ethQueue 1 (x.ethPrio f) ++ [f])).ethShared) := by
  decide +kernel

/-- Witness for the premises of `EthernetSwitchesFrames`, part FramesAreSwitched, clause by clause. -/
theorem test_premises_ethernetSwitchesFrames_framesAreSwitched_2 :
    (let t : Nat := 9; let p : Fin 3 := 0; let bytes : List Byte := pf 6 2 2 0; let s : State := ln [(R.ethTcCfg, 0xC0000000#32)] EthSt.init; let x := s.upTo t; let known : Option Nat := if natBit (beAt bytes 0 1) 0 then none else ((x.ethLearn p bytes).eth.macs.find? (fun m => m.1 == ethDst bytes)).map (·.2.1); let outs := if x.tcP2p && ptpPdelay bytes then [] else [0, 1, 2].filter (fun o => o != p.val && x.ethUp o && (known.getD o) == o); wfEthFrameIngress bytes = true ∧ x.pdOn 14 = true ∧ x.ethUp p = true ∧ bytes.length ≤ 1518 ∧ outs = []) := by
  decide +kernel

/-- Witness for the premises of `EthernetSwitchesFrames`, part FramesLeaveCorrected, clause by clause. -/
theorem test_premises_ethernetSwitchesFrames_framesLeaveCorrected :
    (let t : Nat := 9; let p : Fin 3 := 0; let s : State := run []; let x := s.upTo t; let first := [7, 6, 5, 4, 3, 2, 1, 0].find? (fun q => !(x.ethQueue p q).isEmpty); x.ethUp p = false ∧ first = none) ∧
    (let t : Nat := 9; let s : State := run [(R.pdmStatus, 0#32)]; let x := s.upTo t; x.pdOn 14 = false) ∧
    (let t : Nat := 640; let p : Fin 3 := 2; let s : State := ln [] { EthSt.init with queues := [(23, [⟨uf 6 2 3, 0, 0, none, false, 0⟩])] }; let x := s.upTo t; let first := [7, 6, 5, 4, 3, 2, 1, 0].find? (fun q => !(x.ethQueue p q).isEmpty); x.pdOn 14 = true ∧ x.ethUp p = true ∧ first = some 7 ∧ x.ethQueue p 7 = ⟨uf 6 2 3, 0, 0, none, false, 0⟩ :: [] ∧ ptpAt (uf 6 2 3) = none) ∧
    (let t : Nat := 640; let p : Fin 3 := 1; let s : State := ln [(R.ethTcCfg, 0#32)] { EthSt.init with queues := [(8, [⟨pf 6 2 0 0, 0, 0, none, false, 0⟩])] }; let x := s.upTo t; let first := [7, 6, 5, 4, 3, 2, 1, 0].find? (fun q => !(x.ethQueue p q).isEmpty); x.pdOn 14 = true ∧ x.ethUp p = true ∧ first = some 0 ∧ x.ethQueue p 0 = ⟨pf 6 2 0 0, 0, 0, none, false, 0⟩ :: [] ∧ x.tcEn = false) ∧
    (let t : Nat := 640; let p : Fin 3 := 1; let s : State := ln [(R.ethTcCfg, 0xC0000000#32), (R.ethPortPdelay 0, 9#32)] { EthSt.init with queues := [(8, [⟨pf 6 2 0 0, 0, 0, none, false, 0⟩, ⟨uf 6 2 3, 0, 0, none, false, 0⟩])] }; let x := s.upTo t; let first := [7, 6, 5, 4, 3, 2, 1, 0].find? (fun q => !(x.ethQueue p q).isEmpty); x.pdOn 14 = true ∧ x.ethUp p = true ∧ first = some 0 ∧ (x.ethQueue p 0).head? = some ⟨pf 6 2 0 0, 0, 0, none, false, 0⟩ ∧ x.tcEn = true ∧ ptpAt (pf 6 2 0 0) = some 14 ∧ ptpEvent (pf 6 2 0 0) = true ∧ ptpTwoStep (pf 6 2 0 0) 14 = false) ∧
    (let t : Nat := 640; let p : Fin 3 := 1; let s : State := ln [(R.ethTcCfg, 0xC0000000#32)] { EthSt.init with queues := [(8, [⟨pf 6 2 3 2, 0, 0, none, false, 0⟩])] }; let x := s.upTo t; let first := [7, 6, 5, 4, 3, 2, 1, 0].find? (fun q => !(x.ethQueue p q).isEmpty); x.pdOn 14 = true ∧ x.ethUp p = true ∧ first = some 0 ∧ (x.ethQueue p 0).head? = some ⟨pf 6 2 3 2, 0, 0, none, false, 0⟩ ∧ x.tcEn = true ∧ ptpAt (pf 6 2 3 2) = some 14 ∧ ptpEvent (pf 6 2 3 2) = true ∧ beAt (pf 6 2 3 2) 14 1 % 16 ≠ 0) ∧
    (let t : Nat := 640; let p : Fin 3 := 1; let s : State := ln [(R.ethTcCfg, 0xC0000000#32)] { EthSt.init with queues := [(8, [⟨pf 6 2 0 2, 0, 0, none, false, 0⟩])] }; let x := s.upTo t; let first := [7, 6, 5, 4, 3, 2, 1, 0].find? (fun q => !(x.ethQueue p q).isEmpty); x.pdOn 14 = true ∧ x.ethUp p = true ∧ first = some 0 ∧ (x.ethQueue p 0).head? = some ⟨pf 6 2 0 2, 0, 0, none, false, 0⟩ ∧ x.tcEn = true ∧ ptpAt (pf 6 2 0 2) = some 14 ∧ ptpEvent (pf 6 2 0 2) = true ∧ beAt (pf 6 2 0 2) 14 1 % 16 = 0 ∧ ptpTwoStep (pf 6 2 0 2) 14 = true) := by
  decide +kernel

/-- Witness for the premises of `EthernetSwitchesFrames`, part FramesLeaveCorrected, clause by clause. -/
theorem test_premises_ethernetSwitchesFrames_framesLeaveCorrected_2 :
    (let t : Nat := 640; let p : Fin 3 := 1; let s : State := ln [(R.ethTcCfg, 0xC0000000#32)] { EthSt.init with queues := [(8, [⟨pf 6 2 8 0, 0, 0, none, false, 0⟩])], syncs := [(1, [⟨0, 0, 77⟩])] }; let x := s.upTo t; let first := [7, 6, 5, 4, 3, 2, 1, 0].find? (fun q => !(x.ethQueue p q).isEmpty); x.pdOn 14 = true ∧ x.ethUp p = true ∧ first = some 0 ∧ (x.ethQueue p 0).head? = some ⟨pf 6 2 8 0, 0, 0, none, false, 0⟩ ∧ x.tcEn = true ∧ ptpEvent (pf 6 2 8 0) = false ∧ beAt (pf 6 2 8 0) 14 1 % 16 = 8 ∧ (tabGet (fun _ => ([] : List SyncWait)) x.eth.syncs p).find? (fun w => w.seq == ptpSeq (pf 6 2 8 0) 14 && w.src == ptpSource (pf 6 2 8 0) 14) = some ⟨0, 0, 77⟩) ∧
    (let t : Nat := 640; let p : Fin 3 := 1; let s : State := ln [(R.ethTcCfg, 0xC0000000#32), (R.ethTcStatus, 65535#32)] { EthSt.init with queues := [(8, [⟨pf 6 2 8 0, 0, 0, none, false, 0⟩])], syncs := [(1, [⟨1, 0, 77⟩])] }; let x := s.upTo t; let first := [7, 6, 5, 4, 3, 2, 1, 0].find? (fun q => !(x.ethQueue p q).isEmpty); x.pdOn 14 = true ∧ x.ethUp p = true ∧ first = some 0 ∧ (x.ethQueue p 0).head? = some ⟨pf 6 2 8 0, 0, 0, none, false, 0⟩ ∧ x.tcEn = true ∧ ptpEvent (pf 6 2 8 0) = false ∧ beAt (pf 6 2 8 0) 14 1 % 16 = 8 ∧ (tabGet (fun _ => ([] : List SyncWait)) x.eth.syncs p).find? (fun w => w.seq == ptpSeq (pf 6 2 8 0) 14 && w.src == ptpSource (pf 6 2 8 0) 14) = none) ∧
    (let t : Nat := 640; let p : Fin 3 := 1; let s : State := ln [(R.ethTcCfg, 0xC0000000#32)] { EthSt.init with queues := [(8, [⟨pf 6 2 11 0, 0, 0, none, false, 0⟩])] }; let x := s.upTo t; let first := [7, 6, 5, 4, 3, 2, 1, 0].find? (fun q => !(x.ethQueue p q).isEmpty); x.pdOn 14 = true ∧ x.ethUp p = true ∧ first = some 0 ∧ (x.ethQueue p 0).head? = some ⟨pf 6 2 11 0, 0, 0, none, false, 0⟩ ∧ x.tcEn = true ∧ ptpEvent (pf 6 2 11 0) = false ∧ beAt (pf 6 2 11 0) 14 1 % 16 ≠ 8) := by
  decide +kernel

/-- Witness for the premises of `EthernetSwitchesFrames`, part PortsAndStamps, clause by clause. -/
theorem test_premises_ethernetSwitchesFrames_portsAndStamps :
    (let t : Nat := 9; let s : State := run [(R.pdmStatus, 0#32)]; let x := s.upTo t; x.pdOn 14 = false) ∧
    (let t : Nat := 9; let p : Fin 2 := 1; let up : Bool := false; let s : State := ln [(R.ethTcCfg, 0xC0000000#32)] EthSt.init; let x := s.upTo t; x.pdOn 14 = true ∧ x.tcP2p = true ∧ x.ethUp p = true ∧ x.rdB (R.ethPortCfg p) 29 = !up) ∧
    (let t : Nat := 9600000000000; let p : Fin 2 := 1; let up : Bool := true; let s : State := ln [] { EthSt.init with macs := [(6, 1, 0), (7, 1, 0)] }; let x := s.upTo t; x.pdOn 14 = true ∧ x.tcP2p = false ∧ x.rdB (R.ethPortCfg p) 29 = up) ∧
    (let t : Nat := 9; let who : Initiator := .core 0; let p : Fin 2 := 0; let s : State := { run [(R.ethTcCfg, 0xC0000000#32)] with eth := { EthSt.init with stamps := [⟨5, 77⟩] } }; let x := s.upTo t; x.pdOn 14 = true ∧ x.ethUp p = false ∧ x.readReaches who R.ethTs3 = true) := by
  decide +kernel

/-- Witness for the premises of `UlileRequestsAreServed`, part UlileRequestsWait, clause by clause. -/
theorem test_premises_ulileRequestsAreServed_ulileRequestsWait :
    (let t : Nat := 9; let s : State := (ul [] [] 0).setSysSt 0; let x := s.upTo t; x.sysSt = 0) ∧
    (let via : UliVia := .uart; let bytes : List Byte := [0x7E#8, 0#8, 0#8]; let msg := if via = .uart then uartMessage bytes else some bytes; via = .uart ∧ msg = none) ∧
    (let t : Nat := 9; let via : UliVia := uv; let bytes : List Byte := [1#8, 2#8]; let s : State := run []; let x := s.upTo t; let msg := if via = .uart then uartMessage bytes else some bytes; x.sysSt ≠ 0 ∧ msg = some [1#8, 2#8] ∧ (x.uliMine via && msgOk via [1#8, 2#8]) = false) ∧
    (let t : Nat := 9; let via : UliVia := uv; let bytes : List Byte := um 1 1 [1#8, 0#8, 0#8, 0#8]; let s : State := ul [] [⟨.uart, 3, []⟩] 0; let x := s.upTo t; let msg := if via = .uart then uartMessage bytes else some bytes; x.sysSt ≠ 0 ∧ msg = some bytes ∧ (x.uliMine via && msgOk via bytes) = true ∧ (∀ r ∈ x.uli.queue, r.cyc ≠ x.clk.now / fabCycle) ∧ x.uli.queue.length < 8) ∧
    (let t : Nat := 9; let via : UliVia := uv; let bytes : List Byte := um 1 1 [1#8, 0#8, 0#8, 0#8]; let s : State := ul [] (List.replicate 8 ⟨.uart, 3, []⟩) 1; let x := s.upTo t; let msg := if via = .uart then uartMessage bytes else some bytes; x.sysSt ≠ 0 ∧ msg = some bytes ∧ (x.uliMine via && msgOk via bytes) = true ∧ (∀ r ∈ x.uli.queue, r.cyc ≠ x.clk.now / fabCycle) ∧ 8 ≤ x.uli.queue.length) ∧
    (let t : Nat := 9; let via : UliVia := uv; let bytes : List Byte := um 4 0 []; let s : State := ul [] [⟨.uart, 0, []⟩, ⟨.uart, 0, []⟩] 0; let x := s.upTo t; let msg := if via = .uart then uartMessage bytes else some bytes; x.sysSt ≠ 0 ∧ msg = some bytes ∧ (x.uliMine via && msgOk via bytes) = true ∧ x.uli.queue.length < 8) := by
  decide +kernel

/-- Witness for the premises of `UlileRequestsAreServed`, part UlileServesTheHead, clause by clause. -/
theorem test_premises_ulileRequestsAreServed_ulileServesTheHead :
    (let t : Nat := 9; let s : State := run []; let x := s.upTo t; x.uli.queue.head? = none) ∧
    (let t : Nat := 9; let s : State := ul [] [⟨uv, 3, um 1 65 []⟩] 0; let x := s.upTo t; x.uli.queue = ⟨uv, 3, um 1 65 []⟩ :: [] ∧ msgCmd (um 1 65 []) = 1 ∧ uliCount uv (um 1 65 []) = 0) ∧
    (let t : Nat := 9; let s : State := ul [] [⟨uv, 3, um 1 1 [2#8, 0#8, 0#8, 0#8]⟩, ⟨.uart, 0, []⟩] 0; let x := s.upTo t; msgCmd (um 1 1 [2#8, 0#8, 0#8, 0#8]) = 1 ∧ uliCount uv (um 1 1 [2#8, 0#8, 0#8, 0#8]) = 1 ∧ pointReg 2 = some 0x40000008 ∧ x.regAnswers 0x40000008 .b4 = true ∧ x.absent 0x40000008 = false) ∧
    (uliCount uv (um 1 2 [0xFF#8, 0x0F#8, 0x80#8, 0#8, 0#8, 0#8, 0x80#8, 0#8]) = 2 ∧ msgAt (um 1 2 [0xFF#8, 0x0F#8, 0x80#8, 0#8, 0#8, 0#8, 0x80#8, 0#8]) 8 3 = 0x800FFF) ∧
    (msgAt (um 1 2 [0xFF#8, 0x0F#8, 0x80#8, 0#8, 0#8, 0#8, 0x80#8, 0#8]) 12 3 = 0x800000) ∧
    (let t : Nat := 9; let s : State := ul [] [⟨uv, 3, um 2 1 [2#8, 0#8, 0#8, 0#8, 9#8, 0#8, 0#8, 0#8]⟩] 0; let x := s.upTo t; msgCmd (um 2 1 [2#8, 0#8, 0#8, 0#8, 9#8, 0#8, 0#8, 0#8]) = 2 ∧ x.rdF R.sysState 2 0 ≠ 4 ∧ x.rdB R.uliCfg 28 = true ∧ pointReg 2 = some 0x40000008 ∧ x.regAnswers 0x40000008 .b4 = true ∧ x.absent 0x40000008 = false ∧ (x.twinOn && x.cwyUp && x.partner) = false) ∧
    (let t : Nat := 9; let s : State := ul [(R.uliCfg, 0xE0000000#32)] [⟨uv, 3, um 2 1 [2#8, 0#8, 0#8, 0#8, 9#8, 0#8, 0#8, 0#8]⟩] 0; let x := s.upTo t; x.rdF R.sysState 2 0 ≠ 4 ∧ x.rdB R.uliCfg 28 = false) := by
  decide +kernel

/-- Witness for the premises of `UlileRequestsAreServed`, part UlileServesTheHead, clause by clause. -/
theorem test_premises_ulileRequestsAreServed_ulileServesTheHead_2 :
    (let t : Nat := 9; let s : State := (ul [] [⟨uv, 3, um 2 1 [2#8, 0#8, 0#8, 0#8, 9#8, 0#8, 0#8, 0#8]⟩] 0).setSysSt 4; let x := s.upTo t; x.rdF R.sysState 2 0 = 4) ∧
    (msgCmd (um 3 1 [0#8, 0#8, 0#8, 0#8, 0#8, 0#8, 0#8, 0#8]) = 3 ∧ msgAt (um 3 1 [0#8, 0#8, 0#8, 0#8, 0#8, 0#8, 0#8, 0#8]) 13 2 = 0) ∧
    (let t : Nat := 9; let s : State := ul [] [⟨uv, 3, um 3 1 [0#8, 0#8, 0#8, 0#8, 0#8, 4#8, 0#8, 0#8]⟩] 0; let x := s.upTo t; x.uliWindow 0 4 = false) ∧
    (let t : Nat := 9; let s : State := ul [(R.uliMemBase 3, 0x0#32), (R.uliMemSize 3, 0x1000#32)] [⟨uv, 3, um 3 1 [0#8, 0#8, 0#8, 0#8, 0#8, 4#8, 0#8, 0#8]⟩] 0; let x := s.upTo t; x.uliWindow 0 4 = true ∧ (x.memRead 0 4).1 = x ∧ (x.memRead 0 4).2 = some [0#8, 0#8, 0#8, 0#8]) ∧
    (msgCmd (um 4 0 []) = 4 ∧ uliCount uv (um 4 0 []) = 3) := by
  decide +kernel

/-! ### CAN -/

/-- A state of the tests. -/
def cn (rs : List (Nat × Word)) (c : CanSt) : State := (run ([(R.canCfg 3, 0x80000000#32), (R.bootStatus, 0#32)] ++ rs)).setCan 3 c

/-- A state of the tests. -/
def cf : CanFrame := ⟨5#32, 2#32, [1#8, 2#8]⟩

/-- A state of the tests. -/
def cr : CanRx := ⟨cf.words, false, false, 0, 0, 0, 0, 0⟩

/-- A state of the tests. -/
def cre : List (Nat × Word) := [(R.protThrChop 2, 0x70000000#32)]

/-- A state of the tests. -/
def off : List (Nat × Word) := [(R.pdmStatus, 0#32)]

/-- Witness for the premises of `CanBuffersAndArbitration`, part CanBuffersAreRequestedAndAborted, clause by clause. -/
theorem test_premises_canBuffersAndArbitration_canBuffersAreRequestedAndAborted :
    (let t : Nat := 9; let who : Initiator := .core 0; let k : Fin 4 := 3; let m : BitVec 3 := 5#3; let s : State := cn [] CanSt.init; let x := s.upTo t; let own (b : Fin 3) : Bool := b == 0 && (x.canReserved k).isSome; x.reaches who (R.canTxreq k) (m.setWidth 32) = true ∧ x.reaches who (R.canTxAbort k) (m.setWidth 32) = true ∧ m.getLsbD 2 = true ∧ own 2 = false ∧ x.canPending k 2 = false ∧ m.getLsbD 1 = false) ∧
    (let t : Nat := 9; let who : Initiator := .core 0; let k : Fin 4 := 3; let m : BitVec 3 := 7#3; let s : State := cn ([(R.canTxbWord 3 1 0, 0x80000000#32)] ++ cre) CanSt.init; let x := s.upTo t; let own (b : Fin 3) : Bool := b == 0 && (x.canReserved k).isSome; x.reaches who (R.canTxreq k) (m.setWidth 32) = true ∧ m.getLsbD 0 = true ∧ own 0 = true) ∧
    (let t : Nat := 9; let who : Initiator := .core 0; let k : Fin 4 := 3; let m : BitVec 3 := 7#3; let s : State := cn ([(R.canTxreq 3, 7#32)] ++ cre) { CanSt.init with bus := some 1 }; let x := s.upTo t; let c := x.can k; let own (b : Fin 3) : Bool := b == 0 && (x.canReserved k).isSome; x.reaches who (R.canTxAbort k) (m.setWidth 32) = true ∧ x.reaches who (R.canTxreq k) (m.setWidth 32) = true ∧ own 0 = true ∧ own 1 = false ∧ x.canPending k 1 = true ∧ c.bus = some 1 ∧ m.getLsbD 2 = true ∧ own 2 = false ∧ x.canPending k 2 = true) ∧
    (let t : Nat := 9; let who : Initiator := .core 0; let k : Fin 4 := 3; let m : BitVec 3 := 7#3; let s : State := cn [(R.canTxreq 3, 2#32)] { CanSt.init with abts := [(2, 0)], reqs := [(1, 0, 77#32)], okAt := some (0, 0) }; let x := s.upTo t; let c := x.can k; let cyc := x.canCyc k; let own (b : Fin 3) : Bool := b == 0 && (x.canReserved k).isSome; let gone (b : Fin 3) : Bool := c.abts.contains (b.val, cyc); x.reaches who (R.canTxreq k) (m.setWidth 32) = true ∧ x.reaches who (R.canTxAbort k) (m.setWidth 32) = true ∧ gone 2 = true ∧ own 1 = false ∧ x.canPending k 1 = true ∧ c.bus ≠ some 1 ∧ c.reqs.find? (fun r => r.1 == 1 && r.2.1 == cyc) = some (1, 0, 77#32) ∧ c.okAt = some (0, cyc)) := by
  decide +kernel

/-- Witness for the premises of `CanBuffersAndArbitration`, part CanArbitrationChooses, clause by clause. -/
theorem test_premises_canBuffersAndArbitration_canArbitrationChooses :
    (let t : Nat := 9; let k : Fin 4 := 3; let s : State := cn [] CanSt.init; let x := s.upTo t; x.canChoose k = none) ∧
    (let t : Nat := 9; let k : Fin 4 := 3; let s : State := cn [(R.canTxreq 3, 7#32), (R.canCfg 3, 0x20000000#32)] CanSt.init; let x := s.upTo t; let c := x.can k; let ready := x.pdOn 14 = true ∧ x.canMaySend k = true ∧ c.bus = none; ¬ready) ∧
    (let t : Nat := 9; let k : Fin 4 := 3; let s : State := cn ([(R.canTxreq 3, 7#32)] ++ cre) CanSt.init; let x := s.upTo t; let c := x.can k; let res (b : Nat) : Bool := b == 0 && (x.canReserved k).isSome; x.pdOn 14 = true ∧ x.canMaySend k = true ∧ c.bus = none ∧ x.canChoose k = some 0 ∧ res 0 = true ∧ x.canPending k 0 = true) ∧
    (let t : Nat := 9; let k : Fin 4 := 3; let s : State := cn [(R.canTxreq 3, 7#32), (R.canTxbWord 3 0 0, 9#32), (R.canTxbWord 3 1 0, 7#32), (R.canTxbWord 3 2 0, 0x20100000#32), (R.canCfg 3, 0x82000000#32)] CanSt.init; let x := s.upTo t; let c := x.can k; let res (b : Nat) : Bool := b == 0 && (x.canReserved k).isSome; x.pdOn 14 = true ∧ x.canMaySend k = true ∧ c.bus = none ∧ x.canChoose k = some 2 ∧ res 0 = false ∧ x.canPending k 2 = true ∧ x.rdB (R.canCfg k) 28 = false ∧ x.rdB (R.canCfg k) 25 = true) ∧
    (let t : Nat := 9; let k : Fin 4 := 3; let s : State := cn [(R.canTxreq 3, 6#32), (R.canTxbWord 3 1 0, 7#32), (R.canTxbWord 3 2 0, 5#32), (R.canCfg 3, 0x90000000#32)] CanSt.init; let x := s.upTo t; let c := x.can k; let res (b : Nat) : Bool := b == 0 && (x.canReserved k).isSome; x.pdOn 14 = true ∧ x.canMaySend k = true ∧ c.bus = none ∧ x.canChoose k = some 1 ∧ res 0 = false ∧ x.canPending k 0 = false ∧ x.rdB (R.canCfg k) 28 = true ∧ x.rdB (R.canCfg k) 25 = false) := by
  decide +kernel

/-- Witness for the premises of `CanFramesSucceedOrErr`, part CanFramesSucceed, clause by clause. -/
theorem test_premises_canFramesSucceedOrErr_canFramesSucceed :
    (let t : Nat := 9; let k : Fin 4 := 3; let s : State := cn [] CanSt.init; let x := s.upTo t; let c := x.can k; c.bus = none) ∧
    (let t : Nat := 9; let s : State := cn off CanSt.init; let x := s.upTo t; x.pdOn 14 = false) ∧
    (let t : Nat := 9; let k : Fin 4 := 3; let s : State := cn [(R.canDbt 3, 0x80000000#32), (R.canTxbWord 3 2 0, 0xC0000000#32), (R.canTxreq 3, 4#32), (R.canStatus 3, 0x40000000#32)] { CanSt.init with bus := some 2, abort := true, sof := 5 }; let x := s.upTo t; let c := x.can k; x.pdOn 14 = true ∧ c.bus = some 2 ∧ x.rdB (R.canDbt k) 31 = true ∧ (bitOf (x.rd (R.canTxbWord k 2 0)) 31 && bitOf (x.rd (R.canTxbWord k 2 0)) 30) = true) ∧
    (let t : Nat := 9; let k : Fin 4 := 3; let s : State := cn [(R.canDbt 3, 0x80000000#32), (R.canTxbWord 3 0 0, 0x80000000#32), (R.canTxreq 3, 1#32)] { CanSt.init with bus := some 0, sof := 5 }; let x := s.upTo t; let c := x.can k; x.pdOn 14 = true ∧ c.bus = some 0 ∧ (bitOf (x.rd (R.canTxbWord k 0 0)) 31 && bitOf (x.rd (R.canTxbWord k 0 0)) 30) = false) ∧
    (let t : Nat := 9; let k : Fin 4 := 3; let s : State := cn [(R.canCfg 3, 0xC1000000#32), (R.canTxbWord 3 0 0, 0x80000000#32), (R.canTxreq 3, 1#32), (R.canStatus 3, 0x40002000#32)] { CanSt.init with bus := some 0, cnt := 255 }; let x := s.upTo t; let c := x.can k; x.pdOn 14 = true ∧ c.bus = some 0 ∧ x.canMode k = 2 ∧ x.canReceives k (x.canBufFrame k 0) = true) := by
  decide +kernel

/-- Witness for the premises of `CanFramesSucceedOrErr`, part CanErrorsAreCounted, clause by clause. -/
theorem test_premises_canFramesSucceedOrErr_canErrorsAreCounted :
    (let t : Nat := 9; let k : Fin 4 := 3; let s : State := cn [(R.canStatus 3, 0x4000#32)] CanSt.init; let x := s.upTo t; let live := x.pdOn 14 = true ∧ x.canEn k = true ∧ x.canState k < 2; ¬live) ∧
    (let t : Nat := 9; let k : Fin 4 := 3; let e : CanErr := ⟨true, false, false, false⟩; let s : State := cn [(R.canCount 3, 0xFFFF#32)] CanSt.init; let x := s.upTo t; let c := x.can k; let live := x.pdOn 14 = true ∧ x.canEn k = true ∧ x.canState k < 2; live ∧ e.tx = true ∧ c.bus = none) ∧
    (let t : Nat := 9; let k : Fin 4 := 3; let e : CanErr := ⟨false, false, true, false⟩; let s : State := cn [(R.canStatus 3, 0x3C0000#32)] CanSt.init; let x := s.upTo t; let live := x.pdOn 14 = true ∧ x.canEn k = true ∧ x.canState k < 2; live ∧ e.tx = false ∧ x.canRec k = 120) ∧
    (let t : Nat := 9; let k : Fin 4 := 3; let e : CanErr := ⟨false, false, false, false⟩; let s : State := cn [(R.canStatus 3, 0x7FA000#32)] CanSt.init; let x := s.upTo t; let live := x.pdOn 14 = true ∧ x.canEn k = true ∧ x.canState k < 2; live ∧ e.tx = false ∧ x.canRec k = 255) ∧
    (let t : Nat := 9; let k : Fin 4 := 3; let e : CanErr := ⟨true, false, false, false⟩; let s : State := cn [(R.canStatus 3, 0x7C002000#32), (R.canTxreq 3, 4#32), (R.canTxbStat 3 2, 0xFF#32)] { CanSt.init with bus := some 2, abort := true }; let x := s.upTo t; let c := x.can k; let live := x.pdOn 14 = true ∧ x.canEn k = true ∧ x.canState k < 2; live ∧ e.tx = true ∧ c.bus = some 2 ∧ c.abort = true ∧ x.canTec k = 248) ∧
    (let t : Nat := 9; let k : Fin 4 := 3; let e : CanErr := ⟨true, true, false, false⟩; let s : State := cn [(R.canStatus 3, 0x7F802000#32), (R.canTxreq 3, 4#32), (R.canCfg 3, 0x82000000#32)] { CanSt.init with bus := some 2 }; let x := s.upTo t; let c := x.can k; let live := x.pdOn 14 = true ∧ x.canEn k = true ∧ x.canState k < 2; live ∧ e.tx = true ∧ c.bus = some 2 ∧ c.abort = false ∧ (x.canReserved k).isSome = false ∧ x.rdB (R.canCfg k) 25 = true) ∧
    (let t : Nat := 9; let k : Fin 4 := 3; let e : CanErr := ⟨true, true, false, false⟩; let s : State := cn ([(R.canTxreq 3, 1#32)] ++ cre) { CanSt.init with bus := some 0 }; let x := s.upTo t; let c := x.can k; let live := x.pdOn 14 = true ∧ x.canEn k = true ∧ x.canState k < 2; live ∧ e.tx = true ∧ c.bus = some 0 ∧ c.abort = false ∧ (x.canReserved k).isSome = true) := by
  decide +kernel

/-- Witness for the premises of `CanFramesSucceedOrErr`, part CanErrorsAreCounted, clause by clause. -/
theorem test_premises_canFramesSucceedOrErr_canErrorsAreCounted_2 :
    (let t : Nat := 9; let k : Fin 4 := 3; let e : CanErr := ⟨true, false, false, false⟩; let s : State := cn [(R.canStatus 3, 0x7F802000#32)] { CanSt.init with bus := some 1 }; let x := s.upTo t; let c := x.can k; let live := x.pdOn 14 = true ∧ x.canEn k = true ∧ x.canState k < 2; live ∧ e.tx = true ∧ c.bus = some 1 ∧ x.canTec k = 255) ∧
    (let t : Nat := 9; let k : Fin 4 := 3; let e : CanErr := ⟨true, true, false, false⟩; let s : State := cn [(R.canStatus 3, 0xF0#32), (R.canTxreq 3, 4#32), (R.canCfg 3, 0x80030000#32), (R.canTxbStat 3 2, 2#32)] { CanSt.init with bus := some 2 }; let x := s.upTo t; let c := x.can k; let live := x.pdOn 14 = true ∧ x.canEn k = true ∧ x.canState k < 2; live ∧ e.tx = true ∧ c.bus = some 2 ∧ c.abort = false ∧ (x.canReserved k).isSome = false ∧ x.rdB (R.canCfg k) 25 = false ∧ x.rdF (R.canCfg k) 23 16 = 3 ∧ x.rdF (R.canTxbStat k 2) 7 0 = 2) ∧
    (let t : Nat := 9; let k : Fin 4 := 3; let e : CanErr := ⟨true, false, false, true⟩; let s : State := cn [(R.canTxreq 3, 4#32), (R.canCfg 3, 0x80040000#32), (R.canTxbStat 3 2, 2#32)] { CanSt.init with bus := some 2 }; let x := s.upTo t; let c := x.can k; let live := x.pdOn 14 = true ∧ x.canEn k = true ∧ x.canState k < 2; live ∧ e.tx = true ∧ c.bus = some 2 ∧ c.abort = false ∧ x.rdB (R.canCfg k) 25 = false ∧ x.rdF (R.canCfg k) 23 16 = 4 ∧ x.rdF (R.canTxbStat k 2) 7 0 = 2) := by
  decide +kernel

/-- Witness for the premises of `CanLeavesBusOffAndSleeps`, part CanLeavesBusOff, clause by clause. -/
theorem test_premises_canLeavesBusOffAndSleeps_canLeavesBusOff :
    (let t : Nat := 9; let who : Initiator := .core 0; let k : Fin 4 := 3; let s : State := cn [] CanSt.init; let x := s.upTo t; x.canState k ≠ 2 ∧ x.reaches who (R.canCtrl k) 8#32 = true) ∧
    (let t : Nat := 9; let who : Initiator := .core 0; let k : Fin 4 := 3; let s : State := cn [(R.canStatus 3, 0x80004000#32), (R.canCfg 3, 0x84000000#32)] CanSt.init; let x := s.upTo t; let c := x.can k; x.pdOn 14 = true ∧ x.canState k = 2 ∧ (x.rdB (R.canCfg k) 26 || c.boAsk) = true ∧ x.reaches who (R.canCtrl k) 8#32 = true ∧ c.boDone = false) ∧
    (let t : Nat := 9; let k : Fin 4 := 3; let s : State := cn [(R.canStatus 3, 0x80004000#32)] { CanSt.init with boAsk := true }; let x := s.upTo t; let c := x.can k; x.pdOn 14 = true ∧ x.canState k = 2 ∧ (x.rdB (R.canCfg k) 26 || c.boAsk) = true) ∧
    (let t : Nat := 9; let who : Initiator := .core 0; let k : Fin 4 := 3; let s : State := cn [(R.canStatus 3, 0x80004000#32)] { CanSt.init with boDone := true }; let x := s.upTo t; let c := x.can k; x.pdOn 14 = true ∧ x.canState k = 2 ∧ (x.rdB (R.canCfg k) 26 || c.boAsk) = false ∧ x.reaches who (R.canCtrl k) 8#32 = true ∧ c.boDone = true) := by
  decide +kernel

/-- Witness for the premises of `CanFramesAreReceivedAndRead`, part CanFramesAreReceived, clause by clause. -/
theorem test_premises_canFramesAreReceivedAndRead_canFramesAreReceived :
    (let t : Nat := 9; let k : Fin 4 := 3; let f : CanFrame := cf; let s : State := run []; let x := s.upTo t; let via : UliVia := .can k (BitVec.ofNat 30 (b2n f.ide * 2 ^ 29 + f.ident)); wfCanRxFrame f = true ∧ x.canReceives k f = false ∧ (x.uliMine via && x.rdB R.bootStatus 28) = false) ∧
    (let t : Nat := 9; let f : CanFrame := cf; let s : State := cn off CanSt.init; let x := s.upTo t; wfCanRxFrame f = true ∧ x.pdOn 14 = false) ∧
    (let t : Nat := 9; let k : Fin 4 := 3; let f : CanFrame := cf; let s : State := cn [(R.canMatch 3 7, 0x80000005#32), (R.canMask 3 7, 0x1FFFFFFF#32), (R.canStatus 3, 0x3F8000#32)] { CanSt.init with cnt := 255, rxa := [(7, List.replicate 4 cr)] }; let x := s.upTo t; let via : UliVia := .can k (BitVec.ofNat 30 (b2n f.ide * 2 ^ 29 + f.ident)); wfCanRxFrame f = true ∧ x.pdOn 14 = true ∧ x.canReceives k f = true ∧ x.canRec k ≤ 127 ∧ x.uliMine via = false ∧ x.canMatchA k f = some 7 ∧ (x.canEndpoint k 7).all (fun n => x.primary n) = true) ∧
    (let t : Nat := 9; let k : Fin 4 := 3; let f : CanFrame := cf; let s : State := cn [(R.canMatch 3 7, 0x80000005#32), (R.canMask 3 7, 0x1FFFFFFF#32), (R.cwyEp 15, 0x83070000#32), (R.sysState, 0x83#32), (R.cwyStatus, 0xFC000000#32)] CanSt.init; let x := s.upTo t; let via : UliVia := .can k (BitVec.ofNat 30 (b2n f.ide * 2 ^ 29 + f.ident)); wfCanRxFrame f = true ∧ x.pdOn 14 = true ∧ x.canReceives k f = true ∧ x.uliMine via = false ∧ x.canMatchA k f = some 7 ∧ (x.canEndpoint k 7).all (fun n => x.primary n) = false) ∧
    (let t : Nat := 9; let k : Fin 4 := 3; let f : CanFrame := cf; let s : State := cn [(R.canFltCfg 3, 0x80000000#32), (R.canStatus 3, 0x400000#32)] CanSt.init; let x := s.upTo t; let c := x.can k; let via : UliVia := .can k (BitVec.ofNat 30 (b2n f.ide * 2 ^ 29 + f.ident)); let flt := x.fltGo f (x.rdB (R.canFltCfg k) 31) (min 256 (x.rdF (R.canFltCfg k) 8 0)) 0 (0x08000000 + x.rdF (R.canFltBase k) 23 4 * 16); wfCanRxFrame f = true ∧ x.pdOn 14 = true ∧ x.canReceives k f = true ∧ 127 < x.canRec k ∧ x.uliMine via = false ∧ x.canMatchA k f = none ∧ flt = .accept 0x1FF 0 ∧ c.fifo.length < 64) ∧
    (let t : Nat := 9; let k : Fin 4 := 3; let f : CanFrame := cf; let s : State := cn [(R.canFltCfg 3, 0x80000000#32)] { CanSt.init with fifo := List.replicate 64 cr }; let x := s.upTo t; let c := x.can k; let via : UliVia := .can k (BitVec.ofNat 30 (b2n f.ide * 2 ^ 29 + f.ident)); let flt := x.fltGo f (x.rdB (R.canFltCfg k) 31) (min 256 (x.rdF (R.canFltCfg k) 8 0)) 0 (0x08000000 + x.rdF (R.canFltBase k) 23 4 * 16); wfCanRxFrame f = true ∧ x.pdOn 14 = true ∧ x.canReceives k f = true ∧ x.uliMine via = false ∧ x.canMatchA k f = none ∧ flt = .accept 0x1FF 0 ∧ 64 ≤ c.fifo.length) ∧
    (let t : Nat := 9; let k : Fin 4 := 3; let f : CanFrame := cf; let s : State := cn [(R.canFltCfg 3, 0x1#32)] CanSt.init; let x := s.upTo t; let via : UliVia := .can k (BitVec.ofNat 30 (b2n f.ide * 2 ^ 29 + f.ident)); let flt := x.fltGo f (x.rdB (R.canFltCfg k) 31) (min 256 (x.rdF (R.canFltCfg k) 8 0)) 0 (0x08000000 + x.rdF (R.canFltBase k) 23 4 * 16); wfCanRxFrame f = true ∧ x.pdOn 14 = true ∧ x.canReceives k f = true ∧ x.uliMine via = false ∧ x.canMatchA k f = none ∧ flt = .reject) := by
  decide +kernel

/-- Witness for the premises of `CanFramesAreReceivedAndRead`, part CanFramesAreReceived, clause by clause. -/
theorem test_premises_canFramesAreReceivedAndRead_canFramesAreReceived_2 :
    (let t : Nat := 9; let k : Fin 4 := 3; let f : CanFrame := cf; let s : State := { cn [(R.canFltCfg 3, 0x80000001#32)] CanSt.init with mem := { State.reset.mem with bad := [(0x08000000, true)] } }; let x := s.upTo t; let via : UliVia := .can k (BitVec.ofNat 30 (b2n f.ide * 2 ^ 29 + f.ident)); let flt := x.fltGo f (x.rdB (R.canFltCfg k) 31) (min 256 (x.rdF (R.canFltCfg k) 8 0)) 0 (0x08000000 + x.rdF (R.canFltBase k) 23 4 * 16); wfCanRxFrame f = true ∧ x.pdOn 14 = true ∧ x.canReceives k f = true ∧ x.uliMine via = false ∧ x.canMatchA k f = none ∧ flt = .ecc) ∧
    (let t : Nat := 9; let k : Fin 4 := 3; let f : CanFrame := { cf with data := um 4 0 [] }; let s : State := cn [(R.uliCfg, 0x43000000#32), (R.uliCanRq, 5#32)] CanSt.init; let x := s.upTo t; let via : UliVia := .can k (BitVec.ofNat 30 (b2n f.ide * 2 ^ 29 + f.ident)); wfCanRxFrame f = true ∧ x.pdOn 14 = true ∧ x.canReceives k f = true ∧ x.uliMine via = true) ∧
    (let t : Nat := 9; let k : Fin 4 := 3; let f : CanFrame := { cf with data := um 4 0 [] }; let s : State := run [(R.uliCfg, 0x43000000#32), (R.uliCanRq, 5#32), (R.bootStatus, 0x10000000#32)]; let x := s.upTo t; let via : UliVia := .can k (BitVec.ofNat 30 (b2n f.ide * 2 ^ 29 + f.ident)); wfCanRxFrame f = true ∧ x.pdOn 14 = true ∧ x.canReceives k f = false ∧ (x.uliMine via && x.rdB R.bootStatus 28) = true) ∧
    (let t : Nat := 9; let k : Fin 4 := 3; let f : CanFrame := cf; let s : State := cn [(R.canCfg 3, 0xC0000000#32)] CanSt.init; let x := s.upTo t; wfCanRxFrame f = true ∧ x.canMode k = 2) := by
  decide +kernel

/-- Witness for the premises of `CanFramesAreReceivedAndRead`, part CanQueuesAreRead, clause by clause. -/
theorem test_premises_canFramesAreReceivedAndRead_canQueuesAreRead :
    (let t : Nat := 9; let who : Initiator := .core 0; let k : Fin 4 := 3; let m : BitVec 8 := 0x81#8; let s : State := cn [] { CanSt.init with fifo := [cr, { cr with tag := 2 }], rxa := [(7, [cr, { cr with tag := 1 }]), (0, [cr])] }; let x := s.upTo t; x.reaches who (R.canCtrl k) 64#32 = true ∧ x.reaches who (R.canRxaRel k) (m.setWidth 32) = true ∧ x.reaches who (R.canCtrl k) 32#32 = true ∧ m.getLsbD 7 = true) ∧
    (let t : Nat := 9; let who : Initiator := .core 0; let k : Fin 4 := 3; let s : State := cn [] { CanSt.init with fifo := [cr], entered := some 0 }; let x := s.upTo t; let c := x.can k; x.reaches who (R.canCtrl k) 64#32 = true ∧ c.entered = some (x.canCyc k)) := by
  decide +kernel

/-- Witness for the premises of `CanLeavesBusOffAndSleeps`, part CanSleepsAndWakes, clause by clause. -/
theorem test_premises_canLeavesBusOffAndSleeps_canSleepsAndWakes :
    (let t : Nat := 9; let who : Initiator := .core 0; let k : Fin 4 := 3; let seen : WakeSeen := .badFrame; let s : State := cn [(R.canTxreq 3, 4#32), (R.canWakeCfg 3, 0xC0000000#32)] { CanSt.init with sleep := true, wakeErrs := 31 }; let x := s.upTo t; let c := x.can k; let busy := [0, 1, 2].any (fun b => x.canPending k b); x.reaches who (R.canCtrl k) 16#32 = true ∧ busy = true ∧ x.pdOn 14 = true ∧ c.sleep = true ∧ c.bus = none ∧ wfCanWake seen = true ∧ x.canListening k = true ∧ x.wakeMeets k seen = some (3, 0)) ∧
    (let t : Nat := 9; let who : Initiator := .core 0; let k : Fin 4 := 3; let seen : WakeSeen := .pattern 200000 200000 200000; let s : State := cn [] CanSt.init; let x := s.upTo t; let c := x.can k; let busy := [0, 1, 2].any (fun b => x.canPending k b); x.reaches who (R.canCtrl k) 16#32 = true ∧ busy = false ∧ c.sleep = false ∧ wfCanWake seen = true ∧ x.canListening k = false) ∧
    (let t : Nat := 9; let k : Fin 4 := 3; let seen : WakeSeen := .frame cf; let s : State := cn [(R.canStatus 3, 0x6000#32), (R.canWakeCfg 3, 0xC0000005#32), (R.canWufMask 3, 0x1FFFFFFF#32), (R.pdmStatus, 0#32), (R.pdmCfg, 1#32)] CanSt.init; let x := s.upTo t; wfCanWake seen = true ∧ x.canListening k = true ∧ x.wakeMeets k seen = some (2, 5) ∧ x.rdB R.pdmCfg 0 = true ∧ x.pdOn 14 = false) ∧
    (let t : Nat := 9; let k : Fin 4 := 3; let seen : WakeSeen := .pattern 200000 200000 200000; let s : State := cn [] { CanSt.init with sleep := true, bus := some 0 }; let x := s.upTo t; let c := x.can k; c.bus ≠ none ∧ wfCanWake seen = true ∧ x.wakeMeets k seen = none) ∧
    (let t : Nat := 9; let who : Initiator := .core 0; let k : Fin 4 := 3; let seen : WakeSeen := .badFrame; let s : State := cn [(R.canStatus 3, 0x6000#32), (R.canWakeCfg 3, 0xC0000000#32)] { CanSt.init with wakeErrs := 30 }; let x := s.upTo t; let busy := [0, 1, 2].any (fun b => x.canPending k b); x.reaches who (R.canCtrl k) 16#32 = true ∧ busy = false ∧ x.canState k = 3 ∧ wfCanWake seen = true ∧ x.canListening k = true ∧ x.wakeMeets k seen = none) := by
  decide +kernel

/-! ### Cores, memory and the Ferry -/

/-- A state of the tests. -/
def fe (rs : List (Nat × Word)) (v : FrySt) : State := { run rs with fry := v }

/-- A state of the tests. -/
def pmr (rs : List (Nat × Word)) : State := run ([(R.sysCpStatus 4, 0x40000000#32), (R.pmuSel 4 6, 0xA0000001#32), (R.pmuPcnt 4 6, 5#32)] ++ rs)

/-- A state of the tests. -/
def b0 : FryBurst := ⟨31, 0x10000000, some 0x10000000, 0x10000100, some 0x10000100, [7#8, 8#8], false, false⟩

/-- A state of the tests. -/
def fd : FryQ := ⟨true, 0x80000000, 256, 0x10000000, 0x10000800, 0, none, none, 0⟩

/-- Witness for the premises of `CorePairsAndInterrupts`, part CorePairsStopAndRestart, clause by clause. -/
theorem test_premises_corePairsAndInterrupts_corePairsStopAndRestart :
    (let t : Nat := 9; let who : Initiator := .core 0; let p : Fin 5 := 4; let s : State := run [(R.sysCpStatus 4, 0x80000000#32), (R.pdmStatus, 0xFFFF#32)]; let x := s.upTo t; let a := R.sysCpStatus p; x.rdB a 30 = false ∧ x.reaches who (R.sysCpCtrl p) 1#32 = true ∧ (0 : Fin 5).val ≠ p.val ∧ x.rdB a 31 = true ∧ x.pdOn (4 + p) = true) ∧
    (let t : Nat := 9; let who : Initiator := .core 4; let p : Fin 5 := 4; let s : State := run [(R.sysCpStatus 4, 0xC000FFFF#32), (R.smonWdReact 4, 0x1F#32)]; let x := s.upTo t; let a := R.sysCpStatus p; x.rdB a 30 = true ∧ x.rdB (R.smonWdReact p) 4 = true ∧ x.rdB (R.smonWdReact p) 3 = true ∧ x.reaches who (R.sysCpCtrl p) 1#32 = true ∧ who = .core 4 ∧ (4 : Fin 5).val = p.val) ∧
    (let t : Nat := 9; let who : Initiator := .core 0; let p : Fin 5 := 4; let s : State := run [(R.sysCpStatus 4, 0#32)]; let x := s.upTo t; let a := R.sysCpStatus p; x.reaches who (R.sysCpCtrl p) 1#32 = true ∧ x.rdB a 31 = false) ∧
    (let t : Nat := 9; let who : Initiator := .ferry 3; let p : Fin 5 := 0; let s : State := run [(R.sysCpStatus 0, 0x40000000#32)]; let x := s.upTo t; x.reaches who (R.sysCpCtrl p) 1#32 = true ∧ who = .ferry 3) := by
  decide +kernel

/-- Witness for the premises of `CorePairsAndInterrupts`, part InterruptsAreClaimed, clause by clause. -/
theorem test_premises_corePairsAndInterrupts_interruptsAreClaimed :
    (let t : Nat := 9; let who : Initiator := .core 0; let p : Fin 5 := 4; let sup : Bool := true; let w : Word := 145#32; let b : BitVec 8 := 0x81#8; let s : State := run []; let x := s.upTo t; let a := if sup then R.sysIrqClaimS p else R.sysIrqClaimM p; let th := if sup then x.rdF (R.sysIrqThresh p) 19 16 else x.rdF (R.sysIrqThresh p) 3 0; let me := 1 + 2 * p.val + b2n sup; let i := fieldOf w 7 0; x.readReaches who a = true ∧ (∀ j, j < 153 → x.irqPrio p sup j ≤ th) ∧ x.reaches who a w = true ∧ x.irqClaimed i ≠ me ∧ x.reaches who R.sysSwi (b.setWidth 32) = true) ∧
    (let t : Nat := 9; let who : Initiator := .core 0; let p : Fin 5 := 4; let sup : Bool := true; let w : Word := 152#32; let s : State := { run [(R.sysSwi, 0xFF#32), (R.sysIrqCfg 148, 0xA00F0010#32), (R.sysIrqCfg 147, 0xA00F0010#32)] with irq := ⟨[], [(152, 10)], []⟩ }; let x := s.upTo t; let a := if sup then R.sysIrqClaimS p else R.sysIrqClaimM p; let th := if sup then x.rdF (R.sysIrqThresh p) 19 16 else x.rdF (R.sysIrqThresh p) 3 0; let me := 1 + 2 * p.val + b2n sup; let i := fieldOf w 7 0; x.readReaches who a = true ∧ 151 < 153 ∧ th < x.irqPrio p sup 151 ∧ (∀ j, j < 153 → x.irqPrio p sup j ≤ x.irqPrio p sup 151) ∧ (∀ j, j < 151 → x.irqPrio p sup j < x.irqPrio p sup 151) ∧ x.reaches who a w = true ∧ x.irqClaimed i = me) ∧
    (let t : Nat := 9; let who : Initiator := .core 0; let p : Fin 5 := 4; let sup : Bool := false; let w : Word := 5#32; let s : State := { run [(R.sysIrqCfg 0, 0x80010010#32)] with irq := ⟨[(4, true)], [(5, 9)], []⟩ }; let x := s.upTo t; let a := if sup then R.sysIrqClaimS p else R.sysIrqClaimM p; let th := if sup then x.rdF (R.sysIrqThresh p) 19 16 else x.rdF (R.sysIrqThresh p) 3 0; let me := 1 + 2 * p.val + b2n sup; let i := fieldOf w 7 0; x.readReaches who a = true ∧ th < x.irqPrio p sup 4 ∧ (∀ j, j < 153 → x.irqPrio p sup j ≤ x.irqPrio p sup 4) ∧ (∀ j, j < 4 → x.irqPrio p sup j < x.irqPrio p sup 4) ∧ x.irqClaimed i = me) ∧
    (let t : Nat := 9; let who : Initiator := .core 0; let p : Fin 5 := 4; let sup : Bool := false; let s : State := qs (run []) 3 (fun q => { q with callPair := some 4 }); let x := s.upTo t; let a := if sup then R.sysIrqClaimS p else R.sysIrqClaimM p; let th := if sup then x.rdF (R.sysIrqThresh p) 19 16 else x.rdF (R.sysIrqThresh p) 3 0; x.readReaches who a = true ∧ th < x.irqPrio p sup 3 ∧ (∀ j, j < 153 → x.irqPrio p sup j ≤ x.irqPrio p sup 3) ∧ (∀ j, j < 3 → x.irqPrio p sup j < x.irqPrio p sup 3)) ∧
    (let t : Nat := 9; let who : Initiator := .core 0; let p : Fin 5 := 1; let sup : Bool := false; let w : Word := 152#32; let s : State := ({ run [(R.sysSwi, 0xFF#32), (R.sysIrqCfg 0, 0x80030010#32), (R.sysIrqCfg 1, 0x80020010#32), (R.sysIrqCfg 0, 0x80030012#32), (R.sysIrqCfg 1, 0x80020012#32)] with irq := ⟨[(5, true)], [(4, 9), (152, 3)], [(8, (1, 4))]⟩, raised := [(R.sysSwi, ⟨0, 0x80#32, 0#32⟩)] }); let x := s.upTo t; let a := if sup then R.sysIrqClaimS p else R.sysIrqClaimM p; let th := if sup then x.rdF (R.sysIrqThresh p) 19 16 else x.rdF (R.sysIrqThresh p) 3 0; let me := 1 + 2 * p.val + b2n sup; let i := fieldOf w 7 0; x.readReaches who a = true ∧ x.irqAbove p = [8] ∧ th < (x.irqBack 4 false).irqPrio p sup 4 ∧ (∀ j, j < 153 → (x.irqBack 4 false).irqPrio p sup j ≤ (x.irqBack 4 false).irqPrio p sup 4) ∧ (∀ j, j < 4 → (x.irqBack 4 false).irqPrio p sup j < (x.irqBack 4 false).irqPrio p sup 4) ∧ x.irqClaimed i = me ∧ bitOf (x.raisedNow R.sysSwi) (i - 145) = true) := by
  decide +kernel

/-- Witness for the premises of `ScrubAndIommu`, part ScrubPassesCountErrors, clause by clause. -/
theorem test_premises_scrubAndIommu_scrubPassesCountErrors :
    (let t : Nat := 9; let a : Nat := 0x10000008; let s : State := run [(R.sysMemCfg, 1#32)]; let x := s.upTo t; x.rdF R.sysMemCfg 7 0 ≠ 0 ∧ memRegion a x.dramEnd ≠ none ∧ x.rdB R.sysEccAddrHi 31 = false) ∧
    (let t : Nat := 9; let a : Nat := 0x08FFFFFF; let s : State := run [(R.sysMemCfg, 0xFF#32), (R.sysEccAddrHi, 0x80000000#32), (R.sysEcc 2, 0xFFFFFFFF#32)]; let x := s.upTo t; x.rdF R.sysMemCfg 7 0 ≠ 0 ∧ memRegion a x.dramEnd ≠ none) ∧
    (let t : Nat := 9; let s : State := run [(R.sysMemCfg, 0#32)]; let x := s.upTo t; x.rdF R.sysMemCfg 7 0 = 0) ∧
    (let t : Nat := 9; let a : Nat := 0x10000008; let s : State := run [(R.sysMemCfg, 1#32)]; let x := s.upTo t; x.rdF R.sysMemCfg 7 0 ≠ 0 ∧ memRegion a x.dramEnd ≠ none ∧ eccIndex a = 0) := by
  decide +kernel

/-- Witness for the premises of `ScrubAndIommu`, part IommuEntriesAreInvalidated, clause by clause. -/
theorem test_premises_scrubAndIommu_iommuEntriesAreInvalidated :
    (let t : Nat := 9; let who : Initiator := .core 0; let w : Word := 0x000F0000#32; let s : State := { run [] with iom := ⟨[⟨15, 0, 0, 0⟩, ⟨3, 512, 1, 0⟩, ⟨15, 512, 1, 0⟩], [⟨true, 1, 2, 3, 4⟩], none⟩ }; let x := s.upTo t; let v := x.iom; x.reaches who R.iommuInv w = true ∧ x.rdB R.iommuInv 30 = false ∧ v.inv = none ∧ x.readReaches who R.iommuFault2 = true) ∧
    (let t : Nat := 9; let who : Initiator := .core 0; let w : Word := 0x800F0000#32; let s : State := { run [(R.iommuInv, 0x40000000#32), (R.iommuInvPage, 513#32)] with iom := ⟨[⟨15, 0, 0, 0⟩, ⟨3, 512, 1, 0⟩, ⟨15, 512, 1, 0⟩], [], some (15, some 513)⟩ }; let x := s.upTo t; let v := x.iom; x.reaches who R.iommuInv w = true ∧ x.rdB R.iommuInv 30 = true ∧ v.inv = some (15, some 513)) ∧
    (let t : Nat := 9; let s : State := { run [(R.iommuInv, 0x40000000#32)] with iom := ⟨[⟨15, 0, 0, 0⟩, ⟨3, 512, 1, 0⟩, ⟨15, 512, 1, 0⟩], [], some (15, none)⟩ }; let x := s.upTo t; let v := x.iom; v.inv = some (15, none)) := by
  decide +kernel

/-- Witness for the premises of `FerryMovesData`, part FerryQueuesAreCommanded, clause by clause. -/
theorem test_premises_ferryMovesData_ferryQueuesAreCommanded :
    (let t : Nat := 9; let who : Initiator := .core 0; let q : Fin 32 := 31; let s : State := fe [(R.fryQStart 31, 0x18#32)] FrySt.init; let x := s.upTo t; let st := x.fqState q; x.reaches who (R.fryQCtrl q) 1#32 = true ∧ st = 0 ∧ x.reaches who (R.fryQCtrl q) 4#32 = true ∧ st ≠ 3 ∧ x.reaches who (R.fryQCtrl q) 2#32 = true) ∧
    (let t : Nat := 9; let who : Initiator := .core 0; let q : Fin 32 := 31; let s : State := fe [(R.fryQStatus 31, 0x10000000#32)] { FrySt.init with run := some b0 }; let x := s.upTo t; let st := x.fqState q; x.reaches who (R.fryQCtrl q) 1#32 = true ∧ (st ≠ 0 ∧ st ≠ 4 ∧ st ≠ 5) ∧ x.reaches who (R.fryQCtrl q) 2#32 = true ∧ st = 1 ∧ x.fqInBurst q = true) ∧
    (let t : Nat := 9; let who : Initiator := .core 0; let q : Fin 32 := 31; let s : State := fe [(R.fryQStatus 31, 0x10000000#32)] { FrySt.init with qs := [(31, fd)] }; let x := s.upTo t; let st := x.fqState q; x.reaches who (R.fryQCtrl q) 2#32 = true ∧ st = 1 ∧ x.fqInBurst q = false) ∧
    (let t : Nat := 9; let who : Initiator := .core 0; let q : Fin 32 := 0; let s : State := fe [(R.fryQStatus 0, 0x30000000#32)] FrySt.init; let x := s.upTo t; let st := x.fqState q; x.reaches who (R.fryQCtrl q) 4#32 = true ∧ st = 3 ∧ x.reaches who (R.fryQCtrl q) 2#32 = true) ∧
    (let t : Nat := 9; let who : Initiator := .core 0; let q : Fin 32 := 0; let s : State := fe [(R.fryQStatus 0, 0x50000000#32)] FrySt.init; let x := s.upTo t; let st := x.fqState q; x.reaches who (R.fryQCtrl q) 1#32 = true ∧ st = 5 ∧ x.reaches who (R.fryQCtrl q) 2#32 = true ∧ 3 < st) ∧
    (let t : Nat := 9; let who : Initiator := .core 0; let q : Fin 32 := 31; let s : State := fe [(R.fryQStatus 31, 0x10000000#32)] { FrySt.init with run := some b0, qs := [(31, { fd with abort := 2 })] }; let x := s.upTo t; let f := x.fq q; let st := x.fqState q; x.reaches who (R.fryQCtrl q) 2#32 = true ∧ st = 1 ∧ x.fqInBurst q = true ∧ f.abort ≠ 0) := by
  decide +kernel

/-- Witness for the premises of `FerryMovesData`, part FerryBurstsMoveData, clause by clause. -/
theorem test_premises_ferryMovesData_ferryBurstsMoveData :
    (let t : Nat := 9; let q : Nat := 31; let s : State := run []; let x := s.upTo t; q < 32 ∧ x.fqChoose = none ∧ x.fry.run = none) ∧
    (let t : Nat := 9; let q : Nat := 31; let src : Nat := 0x10000000; let dst : Nat := 0x10000800; let s : State := fe [(R.fryQStatus 31, 0x10000000#32), (R.fryQCfg 31, 0x7000000#32), (R.fryQStatus 0, 0x10000000#32), (R.iommuDCfg 0, 0xC0000000#32)] { FrySt.init with qs := [(31, fd)] }; let x := s.upTo t; let n := x.fqBurstLen q (some src) (some dst); let f := x.fq q; q < 32 ∧ x.fqChoose = some q ∧ x.fry.run = none ∧ f.loaded = true ∧ x.fqIsRx q = false ∧ x.fqIsTx q = false ∧ x.rdB (R.iommuDCfg (x.fqDomain q)) 31 = true ∧ x.rdB (R.iommuDCfg (x.fqDomain q)) 30 = true ∧ src = x.fqSrcAt q ∧ dst = x.fqDstAt q ∧ x.physOk src = true ∧ x.physOk dst = true ∧ isReg src = false ∧ isReg dst = false ∧ fqSrcFix f = false ∧ x.memAnswers src n ≠ none ∧ x.eccBad src n = false) ∧
    (let t : Nat := 9; let q : Nat := 31; let dst : Nat := 0x10000000; let s : State := fe [(R.fryQStatus 31, 0x10000000#32)] { FrySt.init with qs := [(31, fd)], run := some b0 }; let x := s.upTo t; let f := x.fq q; q < 32 ∧ x.fry.run = some b0 ∧ b0.q = q ∧ b0.dst = some dst ∧ b0.srcEcc = false ∧ b0.srcErr = false ∧ isReg dst = false ∧ fqDstFix f = false ∧ x.fqIsRx q = false ∧ x.fqIsTx q = false ∧ f.abort = 0 ∧ x.mem.bad = [] ∧ (x.memAnswers dst b0.data.length).any (fun r => r != 0) = true ∧ x.fqDone q + b0.data.length < f.len) ∧
    (let t : Nat := 9; let q : Nat := 31; let dst : Nat := 0x10000000; let s : State := fe [(R.fryQStatus 31, 0x10000000#32), (R.fryQDone 31, 254#32), (R.fryQCount 31, 0xFFFFFFFF#32)] { FrySt.init with qs := [(31, fd)], run := some b0 }; let x := s.upTo t; let f := x.fq q; q < 32 ∧ x.fry.run = some b0 ∧ b0.q = q ∧ b0.dst = some dst ∧ b0.srcEcc = false ∧ b0.srcErr = false ∧ isReg dst = false ∧ fqDstFix f = false ∧ x.fqIsRx q = false ∧ x.fqIsTx q = false ∧ f.abort = 0 ∧ x.mem.bad = [] ∧ (x.memAnswers dst b0.data.length).any (fun r => r != 0) = true ∧ f.len ≤ x.fqDone q + b0.data.length ∧ fqLink f = false) := by
  decide +kernel

/-- Witness for the premises of `CountersOverflowAndFreeze`, clause by clause. -/
theorem test_premises_countersOverflowAndFreeze :
    (let t : Nat := 9; let who : Initiator := .core 0; let p : Fin 5 := 4; let c : Fin 8 := 6; let s : State := run []; let x := s.upTo t; let counts := x.pmuRuns p c = true ∧ x.pmuWrote p c = false; ¬counts ∧ x.reaches who R.pmuFreeze 1#32 = true ∧ x.rdB R.pmuFreeze 0 = false ∧ x.pmuRuns p c = false) ∧
    (let t : Nat := 9; let who : Initiator := .core 0; let p : Fin 5 := 4; let c : Fin 8 := 6; let s : State := pmr []; let x := s.upTo t; let chain := decide (c.val % 2 = 0) && x.pmuChained p (c + 1 : Nat); let counts := x.pmuRuns p c = true ∧ x.pmuWrote p c = false; counts ∧ chain = false ∧ x.reaches who R.pmuFreeze 0#32 = true ∧ bitOf (x.raisedNow R.pmuFreeze) 0 = false) ∧
    (let t : Nat := 9; let p : Fin 5 := 4; let c : Fin 8 := 6; let s : State := pmr [(R.pmuSel 4 7, 0xC0000000#32), (R.pmuPcnt 4 7, 0xFFFFFFFF#32), (R.pmuIrqEn 4, 0xFF#32)]; let x := s.upTo t; let o := R.pmuPcnt p (c + 1 : Nat); let chain := decide (c.val % 2 = 0) && x.pmuChained p (c + 1 : Nat); let counts := x.pmuRuns p c = true ∧ x.pmuWrote p c = false; counts ∧ chain = true ∧ x.rdB (R.pmuSel p (c + 1 : Nat)) 31 = true ∧ x.pmuWrote p (c + 1 : Nat) = false ∧ x.rd o = 0xFFFFFFFF#32) ∧
    (let t : Nat := 9; let p : Fin 5 := 4; let c : Fin 8 := 6; let s : State := pmr [(R.pmuSel 4 7, 0xC0000000#32), (R.pmuPcnt 4 7, 0xFFFFFFFE#32)]; let x := s.upTo t; let o := R.pmuPcnt p (c + 1 : Nat); let chain := decide (c.val % 2 = 0) && x.pmuChained p (c + 1 : Nat); let counts := x.pmuRuns p c = true ∧ x.pmuWrote p c = false; counts ∧ chain = true ∧ x.rdB (R.pmuSel p (c + 1 : Nat)) 31 = true ∧ x.pmuWrote p (c + 1 : Nat) = false ∧ x.rd o ≠ 0xFFFFFFFF#32) ∧
    (let t : Nat := 9; let p : Fin 5 := 4; let c : Fin 8 := 6; let s : State := pmr [(R.pmuSel 4 7, 0x40000000#32)]; let x := s.upTo t; let chain := decide (c.val % 2 = 0) && x.pmuChained p (c + 1 : Nat); let counts := x.pmuRuns p c = true ∧ x.pmuWrote p c = false; counts ∧ chain = true ∧ x.rdB (R.pmuSel p (c + 1 : Nat)) 31 = false) ∧
    (let t : Nat := 9; let who : Initiator := .core 0; let s : State := pmr [(R.pmuFreeze, 1#32)]; let x := s.upTo t; x.reaches who R.pmuFreeze 1#32 = true ∧ x.rdB R.pmuFreeze 0 = true) ∧
    (let t : Nat := 9; let who : Initiator := .core 0; let s : State := ({ run [(R.pmuFreeze, 1#32)] with clk := { State.reset.clk with now := 9 } }).raise R.pmuFreeze 0; let x := s.upTo t; x.reaches who R.pmuFreeze 0#32 = true ∧ bitOf (x.raisedNow R.pmuFreeze) 0 = true) := by
  decide +kernel

/-- Witness for the premises of `DebugPortIsGuarded`, clause by clause. -/
theorem test_premises_debugPortIsGuarded :
    (let t : Nat := 9; let who : Initiator := .debug; let p : Fin 5 := 4; let k : Fin 8 := 7; let i : Fin 4096 := 4095; let v : BitVec 2 := 1#2; let s : State := dbgS [(R.sysCpStatus 4, 0x40000000#32)]; let x := s.upTo t; let a := R.sysCpStatus p; let f := R.sysDbgForce k; let fw := wordN (2 ^ 31 + i.val); x.reaches who R.sysDbg (v.setWidth 32) = true ∧ v.toNat < x.rdF R.sysDbg 1 0 ∧ v.toNat < 2 ∧ 2 ≤ x.dbgLevel ∧ x.rdB a 30 = true ∧ x.reaches who f fw = true ∧ who = .debug ∧ x.forceFree i = true) ∧
    (let t : Nat := 9; let who : Initiator := .debug; let k : Fin 8 := 7; let i : Fin 4096 := 5; let v : BitVec 2 := 2#2; let s : State := { dbgS [(R.pwmSliceCfg 0, 0x80000000#32)] with holds := [] }; let x := s.upTo t; let f := R.sysDbgForce k; let fw := wordN (2 ^ 31 + i.val); x.reaches who R.sysDbg (v.setWidth 32) = true ∧ x.rdF R.sysDbg 1 0 ≤ v.toNat ∧ x.reaches who f fw = true ∧ x.forceFree i = false) ∧
    (let t : Nat := 9; let who : Initiator := .core 0; let p : Fin 5 := 4; let k : Fin 8 := 7; let i : Fin 4096 := 4095; let v : BitVec 2 := 2#2; let s : State := run [(R.sysDbg, 3#32)]; let x := s.upTo t; let a := R.sysCpStatus p; let f := R.sysDbgForce k; let fw := wordN (2 ^ 31 + i.val); x.reaches who R.sysDbg (v.setWidth 32) = true ∧ v.toNat < x.rdF R.sysDbg 1 0 ∧ 2 ≤ v.toNat ∧ x.dbgLevel < 2 ∧ x.rdB a 30 = false ∧ x.reaches who f fw = true ∧ who ≠ .debug ∧ x.rdB f 31 = false) := by
  decide +kernel

/-! ### Resets, start-up, wear and power -/

/-- A state of the tests. -/
def wr (rs : List (Nat × Word)) (l : Tab (List Nat)) : State := { run rs with wear := { State.reset.wear with errs := l } }

/-- A state of the tests. -/
def bt (rs : List (Nat × Word)) (v : BootSt) : State := { run rs with boot := v }

/-- A state of the tests. -/
def pmv (rs : List (Nat × Word)) (m : Tab Nat) (off on : Tab Nat) : State := { run rs with pdm := ⟨m, off, on, true⟩ }

/-- A state of the tests. -/
def rin0 : ReleaseIn := ⟨0, 0, 0, 0, [], [], List.replicate 24 (0, 32768), 1000⟩

/-- Witness for the premises of `ResetsAndReleaseRunStartUp`, part ResetsClearTheDevice, clause by clause. -/
theorem test_premises_resetsAndReleaseRunStartUp_resetsClearTheDevice :
    (let t : Nat := 9; let who : Initiator := .core 0; let s : State := { dbgS [(R.seqStep 1 3, 7#32), (R.pwmSliceCfg 0, 0x80000000#32)] with sig := { State.reset.sig with stable := [(5, ⟨7#32, 0#16⟩)] } }; let x := s.upTo t; x.reaches who R.bootReset 0x5A000001#32 = true ∧ 2 ≤ x.dbgLevel) ∧
    (let t : Nat := 9; let who : Initiator := .core 0; let s : State := run [(R.bootResetCause, 0xFF0F#32)]; let x := s.upTo t; x.reaches who R.bootReset 0x5A000001#32 = true ∧ x.dbgLevel < 2) ∧
    (let t : Nat := 9; let who : Initiator := .core 0; let s : State := { run [(R.bootResetCause, 0xFF0F#32)] with wear := { State.reset.wear with wroteAt := some 3, prev := { WearRec.init with regs := [(R.wearLagoon, 7#32)] } }, boot := { BootSt.init with resetCyc := 1 } }; let x := s.upTo t; x.reaches who R.bootReset 0x5A000001#32 = true ∧ x.wearWriting = true) := by
  decide +kernel

/-- Witness for the premises of `ResetsAndReleaseRunStartUp`, part ReleaseRunsStartUp, clause by clause. -/
theorem test_premises_resetsAndReleaseRunStartUp_releaseRunsStartUp :
    (let t : Nat := 9; let i : ReleaseIn := rin0; let s : State := run []; let x := s.upTo t; wfResetRelease i = true ∧ x.sysSt ≠ 0) ∧
    (let t : Nat := 9; let i : ReleaseIn := { rin0 with strap0 := 2, strap1 := 3, strap2 := 4 }; let s : State := State.reset; let x := s.upTo t; let w := strapWord i.strap0 i.strap1 i.strap2; wfResetRelease i = true ∧ x.sysSt = 0 ∧ bitOf w 1 = true) ∧
    (let t : Nat := 9; let i : ReleaseIn := rin0; let s : State := State.reset; let x := s.upTo t; let w := strapWord i.strap0 i.strap1 i.strap2; wfResetRelease i = true ∧ x.sysSt = 0 ∧ bitOf w 1 = false ∧ headerCheck (x.copyRead 0 0 256) ≠ 0 ∧ headerCheck (x.copyRead 1 0 256) ≠ 0) := by
  decide +kernel

/-- Witness for the premises of `FlashAndOtpCommands`, part FlashCommands, clause by clause. -/
theorem test_premises_flashAndOtpCommands_flashCommands :
    (let t : Nat := 9; let who : Initiator := .core 0; let s : State := run [(R.bootFlashAddr, 0x01FFFF00#32), (R.bootFlashLen, 256#32)]; let x := s.upTo t; let a := x.rdF R.bootFlashAddr 24 0; let n := x.rdF R.bootFlashLen 8 0; let ready := 3 ≤ x.sysSt ∧ x.boot.op = none; let inRange := 1 ≤ n ∧ n ≤ 256 ∧ a + n ≤ 2 ^ 25; x.reaches who R.bootFlashCmd 0x10000000#32 = true ∧ x.reaches who R.bootFlashCmd 0x20000000#32 = true ∧ x.reaches who R.bootFlashCmd 0x30000000#32 = true ∧ ready ∧ inRange ∧ a / 256 = (a + n - 1) / 256 ∧ x.boot.op = none) ∧
    (let t : Nat := 9; let who : Initiator := .core 0; let s : State := run [(R.bootFlashAddr, 0x01FFFF01#32), (R.bootFlashLen, 256#32)]; let x := s.upTo t; let a := x.rdF R.bootFlashAddr 24 0; let n := x.rdF R.bootFlashLen 8 0; let ready := 3 ≤ x.sysSt ∧ x.boot.op = none; let inRange := 1 ≤ n ∧ n ≤ 256 ∧ a + n ≤ 2 ^ 25; x.reaches who R.bootFlashCmd 0x10000000#32 = true ∧ x.reaches who R.bootFlashCmd 0x20000000#32 = true ∧ ¬(ready ∧ inRange)) ∧
    (let t : Nat := 9; let who : Initiator := .core 0; let s : State := run [(R.bootFlashAddr, 0xFF#32), (R.bootFlashLen, 2#32)]; let x := s.upTo t; let a := x.rdF R.bootFlashAddr 24 0; let n := x.rdF R.bootFlashLen 8 0; let ready := 3 ≤ x.sysSt ∧ x.boot.op = none; let inRange := 1 ≤ n ∧ n ≤ 256 ∧ a + n ≤ 2 ^ 25; x.reaches who R.bootFlashCmd 0x20000000#32 = true ∧ ready ∧ inRange ∧ ¬(a / 256 = (a + n - 1) / 256)) ∧
    (let t : Nat := 9; let who : Initiator := .core 0; let s : State := (run [(R.bootFlashAddr, 0xFF#32), (R.bootFlashLen, 1#32)]).setSysSt 2; let x := s.upTo t; let ready := 3 ≤ x.sysSt ∧ x.boot.op = none; x.reaches who R.bootFlashCmd 0x30000000#32 = true ∧ ¬ready) ∧
    (let t : Nat := 9; let s : State := bt [] { BootSt.init with op := some ⟨1, 3, 256, [], 0⟩, flash := [(3, 7#8)] }; let x := s.upTo t; x.boot.op = some ⟨1, 3, 256, [], 0⟩) ∧
    (let t : Nat := 9; let s : State := bt [] { BootSt.init with op := some ⟨2, 3, 2, [0x0F#8, 0xF0#8], 0⟩, flash := [(3, 7#8), (5, 9#8)] }; let x := s.upTo t; x.boot.op = some ⟨2, 3, 2, [0x0F#8, 0xF0#8], 0⟩) ∧
    (let t : Nat := 9; let s : State := bt [] { BootSt.init with op := some ⟨3, 0, 300, [], 0⟩, flash := [(3, 7#8), (65536, 9#8)] }; let x := s.upTo t; x.boot.op = some ⟨3, 0, 300, [], 0⟩) := by
  decide +kernel

/-- Witness for the premises of `FlashAndOtpCommands`, part OtpCommands, clause by clause. -/
theorem test_premises_flashAndOtpCommands_otpCommands :
    (let t : Nat := 9; let who : Initiator := .core 0; let k : Fin 4 := 3; let s : State := run [(R.bootSec, 5#32)]; let x := s.upTo t; let v := x.rdF R.bootSec 5 0; let o := x.boot.otp; x.reaches who R.bootOtpCmd 0xC3000001#32 = true ∧ x.sysSt = 3 ∧ o.minSec < v ∧ x.reaches who R.bootOtpCmd (wordN (0xC3000002 + 16 * k.val)) = true ∧ k.val ≠ x.boot.key ∧ k < o.keys.length) ∧
    (let t : Nat := 9; let who : Initiator := .core 0; let k : Fin 4 := 0; let s : State := run []; let x := s.upTo t; let v := x.rdF R.bootSec 5 0; let o := x.boot.otp; x.reaches who R.bootOtpCmd 0xC3000001#32 = true ∧ v ≤ o.minSec ∧ x.reaches who R.bootOtpCmd (wordN (0xC3000002 + 16 * k.val)) = true ∧ k.val = x.boot.key) ∧
    (let t : Nat := 9; let who : Initiator := .core 0; let s : State := (run [(R.bootSec, 5#32)]).setSysSt 4; let x := s.upTo t; x.reaches who R.bootOtpCmd 0xC3000001#32 = true ∧ x.sysSt ≠ 3) := by
  decide +kernel

/-- Witness for the premises of `WearAndPowerDomains`, part WearIsEvaluated, clause by clause. -/
theorem test_premises_wearAndPowerDomains_wearIsEvaluated :
    (let m : Fin 8 := 0; m = 0) ∧
    (let m : Fin 8 := 1; m = 1) ∧
    (let t : Nat := 9; let m : Fin 8 := 2; let s : State := wr [(R.wearMonTh 2, 0x00040002#32)] [(0, [1]), (7, [1, 2]), (15, [3, 4, 5])]; let x := s.upTo t; let lim := x.rdF (R.wearMonTh m) 15 0; m = 2 ∧ lim ≤ x.wearDay 15 ∧ x.wearDay 0 < lim) ∧
    (let t : Nat := 9; let m : Fin 8 := 6; let s : State := wr [(R.wearMonTh 6, 0x00040001#32), (R.stlCfg 31, 0x80000000#32)] [(63, List.replicate 100 4), (62, List.replicate 101 4)]; let x := s.upTo t; let lim := x.rdF (R.wearMonTh m) 15 0; let on (l : Nat) : Bool := x.rdB (R.stlCfg l) 31; m = 6 ∧ on 31 = true ∧ on 30 = false ∧ lim ≤ x.wearDay 63 / 100 ∧ lim ≤ x.wearDay 62 / 100) ∧
    (let m : Fin 8 := 7; (m = 4 ∨ m = 5 ∨ m = 7)) ∧
    (let t : Nat := 9; let m : Fin 8 := 3; let s : State := wr [] [(16, [3, 4, 5])]; let x := s.upTo t; m = 3 ∧ x.wearDay 16 = 3) := by
  decide +kernel

/-- Witness for the premises of `WearAndPowerDomains`, part PowerDomainsSwitch, clause by clause. -/
theorem test_premises_wearAndPowerDomains_powerDomainsSwitch :
    (let t : Nat := 9; let who : Initiator := .core 0; let b : BitVec 16 := 0x8002#16; let d : Fin 16 := 15; let s : State := run [(R.pdmStatus, 0xFFFF#32)]; let x := s.upTo t; let m := x.pdMoving d; let cyc := x.cycNo; x.reaches who R.pdmOff (b.setWidth 32) = true ∧ b.getLsbD d = true ∧ tabGet (fun _ => 0) x.pdm.onCyc d ≠ cyc ∧ m = 0 ∧ x.pdMayOff d = true ∧ x.reaches who R.pdmOn (b.setWidth 32) = true ∧ x.pdOn d = true ∧ m ≠ 1 ∧ m ≠ 2) ∧
    (let t : Nat := 9; let who : Initiator := .core 0; let b : BitVec 16 := 0x8002#16; let d : Fin 16 := 15; let s : State := pmv [(R.pdmStatus, 0xFFFF#32)] [] [] [(15, 1)]; let x := s.upTo t; let cyc := x.cycNo; x.reaches who R.pdmOff (b.setWidth 32) = true ∧ b.getLsbD d = true ∧ tabGet (fun _ => 0) x.pdm.onCyc d = cyc) ∧
    (let t : Nat := 9; let who : Initiator := .core 0; let b : BitVec 16 := 0x8002#16; let d : Fin 16 := 1; let s : State := run [(R.pdmStatus, 0x1#32)]; let x := s.upTo t; let cyc := x.cycNo; x.reaches who R.pdmOff (b.setWidth 32) = true ∧ b.getLsbD d = true ∧ tabGet (fun _ => 0) x.pdm.onCyc d ≠ cyc ∧ x.pdMayOff d = false ∧ x.reaches who R.pdmOn (b.setWidth 32) = true ∧ x.pdOn d = false ∧ d = 1) ∧
    (let t : Nat := 9; let who : Initiator := .core 0; let b : BitVec 16 := 0x4000#16; let d : Fin 16 := 14; let s : State := pmv [(R.pdmStatus, 0x1#32)] [(14, 1)] [(14, 1)] []; let x := s.upTo t; let m := x.pdMoving d; let cyc := x.cycNo; x.reaches who R.pdmOn (b.setWidth 32) = true ∧ b.getLsbD d = true ∧ x.pdOn d = false ∧ m = 1 ∧ tabGet (fun _ => 0) x.pdm.offCyc d = cyc) ∧
    (let t : Nat := 9; let who : Initiator := .core 0; let b : BitVec 16 := 0x4000#16; let d : Fin 16 := 14; let s : State := pmv [(R.pdmStatus, 0x1#32)] [(14, 1)] [(14, 7)] []; let x := s.upTo t; let m := x.pdMoving d; let cyc := x.cycNo; x.reaches who R.pdmOn (b.setWidth 32) = true ∧ b.getLsbD d = true ∧ x.pdOn d = false ∧ m = 1 ∧ ¬(tabGet (fun _ => 0) x.pdm.offCyc d = cyc)) ∧
    (let t : Nat := 9; let who : Initiator := .core 0; let b : BitVec 16 := 0x4000#16; let d : Fin 16 := 14; let s : State := pmv [(R.pdmStatus, 0x1#32)] [] [] []; let x := s.upTo t; let m := x.pdMoving d; x.reaches who R.pdmOn (b.setWidth 32) = true ∧ b.getLsbD d = true ∧ x.pdOn d = false ∧ m = 0 ∧ d ≠ 1 ∧ d ≠ 8) ∧
    (let t : Nat := 9; let b : BitVec 16 := 0x1#16; let d : Fin 16 := 14; let s : State := pmv [(R.pdmStatus, 0x2001#32), (R.canWakeStatus 3, 5#32)] [(14, 2)] [] []; let x := s.upTo t; let m := x.pdMoving d; m = 2 ∧ d = 14 ∧ b.getLsbD d = false ∧ x.pdOn 13 = true) := by
  decide +kernel

/-- Witness for the premises of `WearAndPowerDomains`, part PowerDomainsSwitch, clause by clause. -/
theorem test_premises_wearAndPowerDomains_powerDomainsSwitch_2 :
    (let t : Nat := 9; let d : Fin 16 := 5; let s : State := pmv [(R.pdmStatus, 0x1#32)] [(5, 2)] [] []; let x := s.upTo t; let m := x.pdMoving d; m = 2 ∧ d.val ∈ [5, 6, 7] ∧ x.pdOn 13 = false) ∧
    (let t : Nat := 9; let d : Fin 16 := 13; let s : State := pmv [(R.pdmStatus, 0x1#32)] [(13, 2)] [] []; let x := s.upTo t; let m := x.pdMoving d; m = 2 ∧ d = 13) ∧
    (let t : Nat := 9; let d : Fin 16 := 15; let s : State := pmv [(R.pdmStatus, 0x1#32)] [(15, 2)] [] []; let x := s.upTo t; let m := x.pdMoving d; m = 2 ∧ d = 15) ∧
    (let t : Nat := 9; let d : Fin 16 := 8; let s : State := pmv [(R.pdmStatus, 0x1#32)] [(8, 2)] [] []; let x := s.upTo t; let m := x.pdMoving d; m = 2 ∧ d.val ∉ [5, 6, 7, 13, 14, 15]) := by
  decide +kernel

end Sys2Proof.Tests
end

section
/-! The arithmetic of R9: division by a power of two that rounds half up, and saturation to the signed 32-bit format. -/

namespace Sys2Proof.Machine

/-- Twice the rounded quotient, in units of `2 ^ n`, lies within one unit of twice the number, and the upper bound is open: a tie goes up. -/
theorem shrRound_bounds (x : Int) (n : Nat) :
    (2 ^ n : Nat) * (2 * shrRound x n) ≤ 2 * x + (2 ^ n : Nat) ∧ 2 * x < (2 ^ n : Nat) * (2 * shrRound x n + 1) := by
  cases n with
  | zero =>
    have h : shrRound x 0 = x := rfl
    rw [h, pow_zero]
    omega
  | succ k =>
    set y : Int := x + (2 ^ k : Nat) with hy
    have hr : shrRound x (k + 1) = y / (2 ^ (k + 1) : Nat) := Int.fdiv_eq_ediv_of_nonneg _ (Int.natCast_nonneg _)
    have hpos : (0 : Int) < (2 ^ (k + 1) : Nat) := by positivity
    have htwo : ((2 ^ (k + 1) : Nat) : Int) = 2 * (2 ^ k : Nat) := by push_cast; ring
    have hlow := Int.mul_ediv_self_le (x := y) hpos.ne'
    have hhigh := Int.lt_mul_ediv_self_add (x := y) hpos
    rw [hr]
    constructor <;> linarith

/-- The saturated value lies in the format. -/
theorem sat32_mem (x : Int) : -2147483648 ≤ sat32 x ∧ sat32 x ≤ 2147483647 := by
  unfold sat32 satS clampI
  omega

/-- A number overflows exactly when saturation changes it. -/
theorem over32_eq_false_iff (x : Int) : over32 x = false ↔ sat32 x = x := by
  simp [over32, sat32]

/-- No number of the format lies nearer to `x` than its saturated value. -/
theorem sat32_nearest (x y : Int) (hl : -2147483648 ≤ y) (hu : y ≤ 2147483647) : (sat32 x - x).natAbs ≤ (y - x).natAbs := by
  unfold sat32 satS clampI
  omega

/-- Settles O7: the bounds of the floored quotient of the number plus one half, and the clamp to the two ends of the format. -/
theorem roundingAndSaturation : Obligations.RoundingAndSaturation := by
  refine ⟨shrRound_bounds, fun x => ?_⟩
  obtain ⟨hlow, hhigh⟩ := sat32_mem x
  exact ⟨hlow, hhigh, over32_eq_false_iff x, sat32_nearest x⟩

end Sys2Proof.Machine
end

section
/-! Accesses on the bus by their rules (R4-R8): what a refused access does, what a write stores by the access codes, and what a write of
bytes leaves in memory. -/

namespace Sys2Proof.Machine

/-! ### Bits of a word -/

theorem bitOf_and (v w : Word) (i : Nat) : bitOf (v &&& w) i = (bitOf v i && bitOf w i) := BitVec.getLsbD_and

theorem bitOf_or (v w : Word) (i : Nat) : bitOf (v ||| w) i = (bitOf v i || bitOf w i) := BitVec.getLsbD_or

theorem bitOf_not (w : Word) (i : Nat) (h : i < 32) : bitOf (~~~ w) i = !bitOf w i := by
  simp [bitOf, h]

theorem bitOf_two_pow (i : Nat) (h : i < 32) : bitOf (BitVec.ofNat 32 (2 ^ i)) i = true := by
  rw [bitOf, BitVec.getLsbD_ofNat, Nat.testBit_two_pow_self, decide_eq_true h]
  rfl

/-! ### What a write stores by the access codes (R6-R8) -/

/-- The bits of a register that a write replaces: the RW bits, and the LOCK bits while `SYS_LOCK` is clear (R8). -/
def State.writable (s : State) (r : RegRow) : Word := wordN r.rw ||| (if s.rdB R.sysLock 0 then 0#32 else wordN r.lock)

/-- The W1C bits that a write of `w` clears: those written 1 that hardware did not set in this cycle (R7). -/
def State.cleared (s : State) (a : Nat) (r : RegRow) (w : Word) : Word := w &&& wordN r.w1c &&& ~~~ s.raisedNow a

/-- A write by the access codes touches its own register alone. -/
theorem State.storeReg_only (s : State) (a : Nat) (w : Word) : OnlyRegs s (s.storeReg a w) [a] := by
  unfold State.storeReg
  split
  · exact .refl _ _
  · exact s.wr_only a _

/-- What a listed register holds after a write. -/
theorem State.storeReg_rd (s : State) (a : Nat) (w : Word) {r : RegRow} (h : regRow a = some r) :
    (s.storeReg a w).rd a = ((s.rd a &&& ~~~ s.writable r) ||| (w &&& s.writable r)) &&& ~~~ s.cleared a r w := by
  unfold State.storeReg
  rw [h]
  exact State.rd_wr_same ..

/-- A register without W1C bits takes the writable bits of the word and keeps the others. -/
theorem State.storeReg_rd_of_no_w1c (s : State) (a : Nat) (w : Word) {r : RegRow} (h : regRow a = some r) (hc : r.w1c = 0) :
    (s.storeReg a w).rd a = (s.rd a &&& ~~~ s.writable r) ||| (w &&& s.writable r) := by
  have hclr : s.cleared a r w = 0#32 := by simp [State.cleared, wordN, hc]
  rw [s.storeReg_rd a w h, hclr, BitVec.not_zero, BitVec.and_allOnes]

/-- Without LOCK bits the writable bits are the RW bits. -/
theorem State.writable_of_no_lock (s : State) {r : RegRow} (hl : r.lock = 0) : s.writable r = wordN r.rw := by
  simp [State.writable, wordN, hl]

/-- While `SYS_LOCK` is set, the writable bits are the RW bits. -/
theorem State.writable_of_locked (s : State) {r : RegRow} (hl : s.rdB R.sysLock 0 = true) : s.writable r = wordN r.rw := by
  simp [State.writable, hl]

/-- While `SYS_LOCK` is set, a register of LOCK bits keeps its value (R8). -/
theorem State.storeReg_rd_of_locked (s : State) (a : Nat) (w : Word) {r : RegRow} (h : regRow a = some r) (hlock : s.rdB R.sysLock 0 = true)
    (hrw : r.rw = 0) (hc : r.w1c = 0) : (s.storeReg a w).rd a = s.rd a := by
  have hfree : s.writable r = 0#32 := by rw [s.writable_of_locked hlock, hrw]; rfl
  rw [s.storeReg_rd_of_no_w1c a w h hc, hfree, BitVec.not_zero, BitVec.and_allOnes, BitVec.and_zero, BitVec.or_zero]

/-- A bit that is neither RW nor LOCK is never writable. -/
theorem State.bitOf_writable (s : State) (r : RegRow) (i : Nat) (hrw : bitOf (wordN r.rw) i = false) (hlock : bitOf (wordN r.lock) i = false) :
    bitOf (s.writable r) i = false := by
  unfold State.writable
  rw [bitOf_or, hrw]
  split
  · simp [bitOf]
  · simpa using hlock

/-- A W1C bit that is written 1 keeps its value if hardware has set it in this cycle, and is clear otherwise (R7). -/
theorem State.storeReg_w1c (s : State) (a i : Nat) (w : Word) {r : RegRow} (h : regRow a = some r) (hi : i < 32)
    (hc : bitOf (wordN r.w1c) i = true) (hrw : bitOf (wordN r.rw) i = false) (hlock : bitOf (wordN r.lock) i = false) (hw : bitOf w i = true) :
    (s.storeReg a w).rdB a i = (s.rdB a i && bitOf (s.raisedNow a) i) := by
  have hfree := s.bitOf_writable r i hrw hlock
  have hclr : bitOf (s.cleared a r w) i = !bitOf (s.raisedNow a) i := by
    rw [State.cleared, bitOf_and, bitOf_and, bitOf_not _ _ hi, hw, hc]
    rfl
  unfold State.rdB
  rw [s.storeReg_rd a w h]
  simp [bitOf_and, bitOf_or, bitOf_not, hi, hfree, hclr]

/-! ### Hardware sets a bit (R7) -/

/-- What hardware did to a register is recorded under the present cycle. -/
theorem State.raisedIn_cycle (s : State) (a : Nat) : (s.raisedIn a).cycle = s.cycleOf a := by
  unfold State.raisedIn
  simp only
  split
  · assumption
  · rfl

/-- Bits marked join those that hardware has set in this cycle. -/
theorem State.raisedNow_markRaised (s : State) (a : Nat) (m c : Word) : (s.markRaised a m c).raisedNow a = s.raisedNow a ||| m := by
  have hget : tabGet (fun _ => Raised.mk 0 0#32 0#32) (s.markRaised a m c).raised a =
      ⟨(s.raisedIn a).cycle, (s.raisedIn a).mask ||| m, (s.raisedIn a).cap ||| c⟩ := tabGet_set_same ..
  have hcyc : (s.markRaised a m c).cycleOf a = s.cycleOf a := rfl
  unfold State.raisedNow
  conv_lhs => unfold State.raisedIn
  simp only [hget, hcyc, s.raisedIn_cycle a, if_true]

/-- A bit that hardware sets counts as set in this cycle. -/
theorem State.raisedNow_raise (s : State) (a i : Nat) (h : i < 32) : bitOf ((s.raise a i).raisedNow a) i = true := by
  have hraise : (s.raise a i).raisedNow a = s.raisedNow a ||| BitVec.ofNat 32 (2 ^ i) := s.raisedNow_markRaised a _ 0#32
  rw [hraise, bitOf_or, bitOf_two_pow i h, Bool.or_true]

/-- A bit that hardware sets reads 1. -/
theorem State.rdB_raise (s : State) (a i : Nat) (h : i < 32) : (s.raise a i).rdB a i = true := by
  unfold State.rdB
  rw [State.rd_raise, if_pos rfl, bitOf_withBit_same _ _ _ h]

/-! ### Accesses to register space (R4) -/

/-- Only the low 32 bits of the data reach a register. -/
theorem State.busWrite_reg (s : State) (who : Initiator) (a : Nat) (d : Dword) (hr : isReg a = true) :
    s.busWrite who a .b4 d = s.busWord who a (d.setWidth 32) := by
  have hd : ((d.setWidth 32).setWidth 64).setWidth 32 = d.setWidth 32 := by ext i; simp
  have hacc : s.access who a .b4 d = s.access who a .b4 ((d.setWidth 32).setWidth 64) := by
    unfold State.access
    rw [hr, hd]
    rfl
  unfold State.busWord State.busWrite
  rw [hacc]

/-- An access to register space that is not of 32 bits or not aligned ends in a bus error without effect. -/
theorem State.busWrite_bad_access (s : State) (who : Initiator) (a : Nat) (size : Size) (d : Dword) (hr : isReg a = true)
    (hbad : size ≠ .b4 ∨ a % 4 ≠ 0) : s.busWrite who a size d = { s with bus := .err } := by
  have hno : s.regAnswers a size = false := by
    unfold State.regAnswers
    rcases hbad with h | h <;> simp [h]
  have hacc : s.access who a size d = (s, false) := by
    unfold State.access
    cases s.mayAccess who true <;> simp [hr, hno]
  unfold State.busWrite
  rw [hacc]
  rfl

/-- A write that reaches a register without an act of its own is stored by the access codes. -/
theorem State.busWrite_storeReg (s : State) (who : Initiator) (a : Nat) (d : Dword) (h : s.reaches who a (d.setWidth 32) = true)
    (hr : isReg a = true) (h4 : a % 4 = 0) (hb : blockExists (a / 0x100000) = true) (hroute : findRoute (writeRoutes (a / 0x100000)) a = none) :
    s.busWrite who a .b4 d = { s.storeReg a (d.setWidth 32) with bus := .ok 0#64 } := by
  have hstore : s.regWrite (some who) a (d.setWidth 32) = s.storeReg a (d.setWidth 32) := by
    unfold State.regWrite
    rw [hroute]
  rw [s.busWrite_reg who a d hr, s.busWord_reaches who a _ h hr h4 hb, hstore]

/-! ### Bytes of memory -/

theorem State.byte_congr {x u : State} (h : u.mem = x.mem) (a : Nat) : u.byte a = x.byte a := by
  unfold State.byte
  rw [h]

theorem State.bytes_congr {x u : State} (h : u.mem = x.mem) (a n : Nat) : u.bytes a n = x.bytes a n := by
  induction n generalizing a with
  | zero => rfl
  | succ n ih => rw [State.bytes, State.bytes, State.byte_congr h, ih]

theorem State.byte_setByte_same (s : State) (a : Nat) (b : Byte) : (s.setByte a b).byte a = b := tabGet_set_same ..

theorem State.byte_setByte_ne (s : State) (a c : Nat) (b : Byte) (h : c ≠ a) : (s.setByte a b).byte c = s.byte c := tabGet_set_ne _ _ _ _ _ h

/-- A store of bytes changes the memory alone. -/
theorem State.setBytes_eq (s : State) (a : Nat) (bs : List Byte) : s.setBytes a bs = { s with mem := (s.setBytes a bs).mem } := by
  induction bs generalizing s a with
  | nil => rfl
  | cons b bs ih => exact ih (s.setByte a b) (a + 1)

/-- A store of bytes leaves every byte outside its range. -/
theorem State.byte_setBytes_outside (s : State) (a c : Nat) (bs : List Byte) (h : c < a ∨ a + bs.length ≤ c) :
    (s.setBytes a bs).byte c = s.byte c := by
  induction bs generalizing s a with
  | nil => rfl
  | cons b bs ih =>
    rw [List.length_cons] at h
    rw [State.setBytes, ih _ _ (by omega), s.byte_setByte_ne a c b (by omega)]

/-- The bytes stored are the bytes read. -/
theorem State.bytes_setBytes (s : State) (a : Nat) (bs : List Byte) : (s.setBytes a bs).bytes a bs.length = bs := by
  induction bs generalizing s a with
  | nil => rfl
  | cons b bs ih =>
    have hfirst : ((s.setByte a b).setBytes (a + 1) bs).byte a = b := by
      rw [State.byte_setBytes_outside _ _ _ _ (by omega), s.byte_setByte_same]
    rw [State.setBytes, List.length_cons, State.bytes, hfirst, ih]

theorem length_bytesLE (n x : Nat) : (bytesLE n x).length = n := by
  induction n generalizing x with
  | zero => rfl
  | succ n ih => rw [bytesLE, List.length_cons, ih]

/-! ### Writes to Lagoon -/

/-- In a memory without uncorrectable errors every write is taken (R414). -/
theorem State.eccWrite_of_clean (s : State) (a n : Nat) (h : s.mem.bad = []) : s.eccWrite a n = some s := by
  unfold State.eccWrite
  simp only [h, List.filter_nil, List.isEmpty_nil, Bool.not_true, Bool.false_eq_true, if_false]
  rw [← h]

theorem memRegion_lagoon (a dramEnd : Nat) (hl : 0x08000000 ≤ a) (hu : a < 0x09000000) : memRegion a dramEnd = some 1 := by
  unfold memRegion
  rw [if_neg (by omega), if_pos ⟨hl, hu⟩]

/-- Lagoon answers an access that lies in it, whatever its size. -/
theorem State.memAnswers_lagoon (s : State) (a n : Nat) (hn : 0 < n) (hl : 0x08000000 ≤ a) (hu : a + n ≤ 0x09000000) :
    s.memAnswers a n = some 1 := by
  unfold State.memAnswers
  rw [memRegion_lagoon a _ hl (by omega), memRegion_lagoon (a + n - 1) _ (by omega) (by omega)]
  simp

theorem size_bytes_pos (size : Size) : 0 < size.bytes := by cases size <;> decide

/-- A write to Lagoon of any size stores its bytes. -/
theorem State.busWrite_lagoon (s : State) (who : Initiator) (a : Nat) (size : Size) (d : Dword) (hm : s.mayAccess who true = true)
    (hl : 0x08000000 ≤ a) (hu : a + size.bytes ≤ 0x09000000) (hbad : s.mem.bad = []) :
    s.busWrite who a size d = { s.setBytes a (bytesLE size.bytes d.toNat) with bus := .ok 0#64 } := by
  have hreg : isReg a = false := by
    have := size_bytes_pos size
    unfold isReg
    simp only [decide_eq_false_iff_not]
    omega
  have hacc : s.access who a size d = (s.setBytes a (bytesLE size.bytes d.toNat), true) := by
    unfold State.access State.memWrite
    rw [length_bytesLE, s.memAnswers_lagoon a _ (size_bytes_pos size) hl hu, s.eccWrite_of_clean a _ hbad, hm, hreg]
    rfl
  unfold State.busWrite
  rw [hacc]
  rfl

/-! ### The commands -/

theorem exec_registerWrite (t : Nat) (who : Initiator) (a : BitVec 40) (size : Size) (d : Dword) (s : State) :
    exec (.registerWrite t who a size d) s = s.run t (fun x => x.busWrite who a.toNat size d) := rfl

theorem exec_sysLockSet (t : Nat) (who : Initiator) (s : State) :
    exec (.sysLockSet t who) s = s.run t (fun x => x.busWord who R.sysLock 1#32) := rfl

/-- A write that register space refuses (R4). -/
theorem exec_registerWrite_bad_access (t : Nat) (who : Initiator) (a : BitVec 40) (size : Size) (d : Dword) (s : State)
    (hr : isReg a.toNat = true) (hbad : size ≠ .b4 ∨ a.toNat % 4 ≠ 0) :
    ∃ u, exec (.registerWrite t who a size d) s = .next u ∧ (s.upTo t).framed { s.upTo t with bus := .err } u [] := by
  rw [exec_registerWrite]
  exact State.run_same (f := fun x => x.busWrite who a.toNat size d) ((s.upTo t).busWrite_bad_access who a.toNat size d hr hbad) (s.upTo_pending t) (fun _ => rfl)

/-- A write that reaches a register without an act of its own: the next state is the present one with the register stored. -/
theorem exec_registerWrite_storeReg (t : Nat) (who : Initiator) (a : BitVec 40) (d : Dword) (s : State)
    (h : (s.upTo t).reaches who a.toNat (d.setWidth 32) = true) (hr : isReg a.toNat = true) (h4 : a.toNat % 4 = 0)
    (hb : blockExists (a.toNat / 0x100000) = true) (hroute : findRoute (writeRoutes (a.toNat / 0x100000)) a.toNat = none)
    (hf : a.toNat ∉ forceRegs) :
    ∃ u, exec (.registerWrite t who a .b4 d) s = .next u ∧ (s.upTo t).framed { s.upTo t with bus := .ok 0#64 } u [a.toNat] ∧
      u.rd a.toNat = ((s.upTo t).storeReg a.toNat (d.setWidth 32)).rd a.toNat := by
  have honly := (s.upTo t).storeReg_only a.toNat (d.setWidth 32)
  rw [exec_registerWrite]
  refine State.run_to (f := fun x => x.busWrite who a.toNat .b4 d) ((s.upTo t).busWrite_storeReg who a.toNat d h hr h4 hb hroute) ?_ ?_ (fun b hb _ => honly.regs b hb) (fun u hu => hu _ hf)
  · exact congrArg (fun z : State => { z with bus := .ok 0#64 }) honly.state
  · exact (congrArg State.pending honly.state).trans (s.upTo_pending t)

/-- A register that a frame lets change and that reads as before is kept as well. -/
theorem State.framed.drop {x y u : State} {a : Nat} (h : x.framed y u [a]) (ha : u.rd a = x.rd a) : x.framed y u [] := by
  obtain ⟨hstate, hregs⟩ := h
  refine ⟨hstate, fun b _ hf => ?_⟩
  by_cases e : b = a
  · rw [e, ha]
  · exact hregs b (by simpa using e) hf

/-- A write to Lagoon (R4): its bytes are stored, and no other byte and no register changes. -/
theorem exec_registerWrite_lagoon (t : Nat) (who : Initiator) (a : BitVec 40) (size : Size) (d : Dword) (s : State)
    (hm : (s.upTo t).mayAccess who true = true) (hl : 0x08000000 ≤ a.toNat) (hu : a.toNat + size.bytes ≤ 0x09000000)
    (hbad : (s.upTo t).mem.bad = []) :
    ∃ u, exec (.registerWrite t who a size d) s = .next u ∧
      (s.upTo t).framed { s.upTo t with mem := u.mem, bus := .ok 0#64 } u [] ∧
      u.bytes a.toNat size.bytes = bytesLE size.bytes d.toNat ∧
      ∀ b, b < a.toNat ∨ a.toNat + size.bytes ≤ b → u.byte b = (s.upTo t).byte b := by
  set bs := bytesLE size.bytes d.toNat with hbs
  have hlen : bs.length = size.bytes := length_bytesLE ..
  set z := (s.upTo t).setBytes a.toNat bs with hz
  have hzeq : z = { s.upTo t with mem := z.mem } := (s.upTo t).setBytes_eq a.toNat bs
  rw [exec_registerWrite]
  obtain ⟨u, hnext, hfr⟩ := State.run_same (f := fun x => x.busWrite who a.toNat size d) (y := { s.upTo t with mem := z.mem, bus := .ok 0#64 })
    (((s.upTo t).busWrite_lagoon who a.toNat size d hm hl hu hbad).trans
      (congrArg (fun z : State => { z with bus := .ok 0#64 }) hzeq)) (s.upTo_pending t) (fun _ => rfl)
  have hmem : u.mem = z.mem := by rw [hfr.1]
  refine ⟨u, hnext, by rw [hmem]; exact hfr, ?_, fun b hb => ?_⟩
  · rw [State.bytes_congr hmem, ← hlen]
    exact State.bytes_setBytes ..
  · rw [State.byte_congr hmem]
    exact State.byte_setBytes_outside _ _ _ _ (by rwa [hlen])

/-- `SYS_LOCK.LOCK` is set by a write of 1 (R8). -/
theorem exec_sysLockSet_reaches (t : Nat) (who : Initiator) (s : State) (h : (s.upTo t).reaches who R.sysLock 1#32 = true) :
    ∃ u, exec (.sysLockSet t who) s = .next u ∧ (s.upTo t).framed { s.upTo t with bus := .ok 0#64 } u [R.sysLock] ∧
      u.rd R.sysLock = withBit ((s.upTo t).rd R.sysLock) 0 true := by
  have honly := (s.upTo t).wrB_only R.sysLock 0 true
  rw [exec_sysLockSet]
  refine State.run_to (f := fun x => x.busWord who R.sysLock 1#32) ((s.upTo t).busWord_sysLock who h) rfl (s.upTo_pending t) (fun b hb _ => honly.regs b hb) (fun u hu => ?_)
  rw [hu _ (by decide)]
  exact State.rd_wr_same ..

/-- Settles O14: each access is reduced to what its bus write leaves (a refused one, one stored by the access codes, one to Lagoon, one to
`SYS_LOCK`), and a W1C bit to whether hardware has set it in the cycle of the write. -/
theorem writesFollowTheAccessCodes : Obligations.WritesFollowTheAccessCodes := by
  refine ⟨fun t who a size d s => ⟨?_, ?_, ?_, ?_⟩, ?_, ?_⟩
  · exact exec_registerWrite_bad_access t who a size d s
  · intro r h hr h4 hb hroute hf hrow hc hl
    obtain ⟨u, hnext, hfr, hrd⟩ := exec_registerWrite_storeReg t who a d s h hr h4 hb hroute hf
    refine ⟨u, hnext, hfr, ?_⟩
    rw [hrd, State.storeReg_rd_of_no_w1c _ _ _ hrow hc, State.writable_of_no_lock _ hl]
  · exact exec_registerWrite_lagoon t who a size d s
  · exact exec_sysLockSet_reaches t who s
  · intro t who a d s x r hlock h hr h4 hb hroute hf hrow hrw hc
    obtain ⟨u, hnext, hfr, hrd⟩ := exec_registerWrite_storeReg t who a d s h hr h4 hb hroute hf
    exact ⟨u, hnext, hfr.drop (hrd.trans (State.storeReg_rd_of_locked _ _ _ hrow hlock hrw hc))⟩
  · intro s a i w r hrow hi hc hrw hlock hw
    constructor
    · intro hquiet
      rw [s.storeReg_w1c a i w hrow hi hc hrw hlock hw, hquiet, Bool.and_false]
    · rw [(s.raise a i).storeReg_w1c a i w hrow hi hc hrw hlock hw, s.rdB_raise a i hi, s.raisedNow_raise a i hi]
      rfl

end Sys2Proof.Machine
end

section
/-! The step on the two forms of the queue (R20; log 1). -/

namespace Sys2Proof.Machine

/-- Settles O1: the step is defined on the queue's two forms. -/
theorem stepRunsTheFrontCommandElseIdles : Obligations.StepRunsTheFrontCommandElseIdles := by
  refine ⟨fun c cs s => rfl, fun s hempty => ?_⟩
  unfold step
  rw [hempty]

end Sys2Proof.Machine
end

section
/-! What a command can touch of the frame: each command is an effect run at its instant, and what holds of the effect holds of the next state. From
this the isolation of the meter (R17, R341). -/

namespace Sys2Proof.Machine

/-! ### The frame of a run -/

section
variable {ask : Prop} {fr : Frame} {s u : State} {t : Nat} {f : State → State}

/-- Every state agrees with its own frame. -/
theorem State.okFor_self (s : State) : s.okFor False s.frame := ⟨False.elim, rfl⟩

/-- The end of forces and the queue are outside the frame. -/
theorem State.run_frame (he : s.run t f = .next u) : u.frame = (f (s.upTo t)).frame := by
  cases he
  exact State.settle_frame _

/-- What an effect keeps of the frame, its run keeps. -/
theorem State.run_ok (hf : ∀ x : State, x.okFor ask fr → (f x).okFor ask fr) (he : s.run t f = .next u) (h : s.okFor ask fr) :
    u.okFor ask fr :=
  State.okFor_of_eq (hf _ (State.okFor_of_eq h (s.upTo_frame t))) (State.run_frame he)

/-- The run of an effect that leaves the frame. -/
theorem State.run_ok_of_frame (hf : ∀ x : State, (f x).frame = x.frame) (he : s.run t f = .next u) (h : s.okFor ask fr) : u.okFor ask fr :=
  State.run_ok (fun x hx => State.okFor_of_eq hx (hf x)) he h

/-- What an event keeps of the frame, its run inside a power domain keeps: while the domain is off, nothing happens. -/
theorem State.run_inDomain_ok {d : Nat} (hf : ∀ x : State, x.okFor ask fr → (f x).okFor ask fr)
    (he : s.run t (fun x => x.inDomain d f) = .next u) (h : s.okFor ask fr) : u.okFor ask fr := by
  refine State.run_ok (fun x hx => ?_) he h
  unfold State.inDomain
  split
  · exact hf x hx
  · exact hx

/-- The run, inside a power domain, of an event that leaves the frame. -/
theorem State.run_inDomain_ok_of_frame {d : Nat} (hf : ∀ x : State, (f x).frame = x.frame)
    (he : s.run t (fun x => x.inDomain d f) = .next u) (h : s.okFor ask fr) : u.okFor ask fr :=
  State.run_inDomain_ok (fun x hx => State.okFor_of_eq hx (hf x)) he h

/-- Bits of a chain leave the frame, each at its own capture. -/
theorem State.captureTo_frame (s : State) (i t : Nat) (bits : List Bool) : (s.captureTo i t bits).frame = s.frame := by
  induction bits generalizing s with
  | nil => rfl
  | cons b bs ih =>
    unfold State.captureTo
    simp only
    split
    · rw [ih, State.bitIn_frame, State.upTo_frame]
    · rfl

/-- The run of a command that delivers bits leaves the frame. -/
theorem State.runBits_ok {i : Nat} {bits : List Bool} (he : s.runBits t i bits = .next u) (h : s.okFor ask fr) : u.okFor ask fr := by
  have hframe : u.frame = s.frame := by
    cases he
    exact (State.settle_frame _).trans ((State.upTo_frame _ _).trans (s.captureTo_frame i t bits))
  exact State.okFor_of_eq h hframe

/-- What an effect leaves outside the driver boards, its run leaves. -/
theorem State.run_offBoards (hf : ∀ x : State, (f x).offBoards = x.offBoards) (he : s.run t f = .next u) : u.offBoards = s.offBoards :=
  (offBoards_of_frame (State.run_frame he)).trans ((hf _).trans (offBoards_of_frame (s.upTo_frame t)))

/-! ### The frame of a command -/

/-- Every command but the meter's and the driver boards' keeps the meter, the boards and the variant, and the canonical form of memory. -/
theorem exec_ok {c : Instr} (hm : turnsMeter c = false) (hb : movesBoard c = false) (he : exec c s = .next u) (h : s.okFor ask fr) :
    u.okFor ask fr := by
  cases c with
  -- an initiator's access on the bus: a write stores at most to memory, a read does not store
  | registerWrite => exact State.run_ok (fun x => x.busWrite_ok _ _ _ _) he h
  | sysLockSet | seqStart | seqStop | coreDone | restoreA | restoreB | subForce | sarSwReg | sarSwInj | sarCal | bankSwapRequest | vecStart
    | vecStop | ascReq | ascExit | gfeStart | gfeStop | gfeApply | bsStart | bsAbort | txSend | sndRxPop | pwmCcommit | auxStart | auxStop |
    auxClear | latchClear | chopFaultClear | ov3TripClear | smonRel | watchdogService | dischStart | dischAbort | dischDoneClear |
    mirroredWrite | islRefresh | islLoadLog | islAcknowledge | islTestMode | recArm | recStop | recFire | slotFree | recServiceWrite |
    timeIncWrite | timeSet | timeStep | canTxReq | canTxAbort | boRecover | canRxPop | canRxaRel | tscCap | sleepReq | cpRestart |
    irqComplete | swiSet | iommuInvalidate | ferryGo | ferryAbort | ferryResume | pmuFreezeWrite | dbgLevelWrite | debugForce |
    softwareReset | flashRead | flashProgram | flashErase | otpAdvSecver | otpRevoke | pdmOff | pdmOn =>
    exact State.run_ok (fun x => x.busWord_ok _ _ _) he h
  | timeNsRead | pwmTbLoRead | omegaAccHiRead | pmuEvenRead | ethTsPop | irqClaim | iommuFaultPop =>
    exact State.run_ok_of_frame (fun x => x.busRead_frame _ _ _) he h
  -- bits of a chain
  | cicOutput | stuck | stuckClear | pfFire | pfClear | dcThresholdCrossing => exact State.runBits_ok he h
  -- events that may store to memory, or make it lose its content
  | sampleInstant => exact State.run_ok (fun x => x.sampleInstant_ok _) he h
  | cwyLanesUp => exact State.run_inDomain_ok (fun x => x.lanesJoin_ok _ _ _ _) he h
  | partnerSearchTimeout => exact State.run_ok (fun x => x.searchEnd_ok) he h
  | cwyJoinFrame => exact State.run_inDomain_ok (fun x => x.joinFrame_ok _ _ _) he h
  | intervalClose => exact State.run_ok (fun x => x.intervalClose_ok _ _) he h
  | slotComplete => exact State.run_ok (fun x => x.slotComplete_ok _) he h
  | ulileRead | ulileWrite | ulileMemoryRead | ulileIdentify => exact State.run_ok (fun x => x.uliServe_ok _) he h
  | scrubPass => exact State.run_ok (fun x => x.scrubPass_ok _ _) he h
  | ferryBurstStart => exact State.run_ok (fun x => x.ferryStart_ok) he h
  | ferryBurstComplete => exact State.run_ok (fun x => x.ferryComplete_ok _ _) he h
  | powerOnReset | resetN => exact State.run_ok (fun x => x.deviceReset_ok _) he h
  | debugReset => exact State.run_ok (fun x => x.debugReset_ok) he h
  | resetRelease => exact State.run_ok (fun x => x.resetRelease_ok _) he h
  | domainOnComplete => exact State.run_ok (fun x => x.pdOnDone_ok _) he h
  -- events that leave the frame
  | refLoss => exact State.run_ok_of_frame (fun x => x.refLoss_frame) he h
  | pllUnlock => exact State.run_ok_of_frame (fun x => x.pllUnlock_frame) he h
  | clockMonitorWindow => exact State.run_ok_of_frame (fun x => x.clockWindow_frame _) he h
  | safeOscGrace => exact State.run_ok_of_frame (fun x => x.safeOscGrace_frame) he h
  | filterClose => exact State.run_ok_of_frame (fun x => x.closeStep_frame _) he h
  | vector => exact State.run_ok_of_frame (fun x => x.vecStep_frame _) he h
  | loopGroup => exact State.run_ok_of_frame (fun x => x.groupStep_frame _ _ _) he h
  | loopGroupGrant => exact State.run_ok_of_frame (fun x => x.groupGrant_frame _ _) he h
  | gfe => exact State.run_ok_of_frame (fun x => x.gfeSeqStep_frame _) he h
  | modulate => exact State.run_ok_of_frame (fun x => x.modSeqStep_frame _) he h
  | commit => exact State.run_ok_of_frame (fun x => x.commitSeqStep_frame _) he h
  | emit => exact State.run_ok_of_frame (fun x => x.emitSeqStep_frame _) he h
  | post => exact State.run_ok_of_frame (fun x => x.postSeqStep_frame _) he h
  | coreCall => exact State.run_ok_of_frame (fun x => x.callStep_frame _) he h
  | coreTimeout => exact State.run_ok_of_frame (fun x => x.coreTimeout_frame _) he h
  | wait => exact State.run_ok_of_frame (fun x => x.waitStep_frame _) he h
  | waitEnd => exact State.run_ok_of_frame (fun x => x.waitEnd_frame _) he h
  | end_ => exact State.run_ok_of_frame (fun x => x.endStep_frame _) he h
  | signalWrite => exact State.run_ok_of_frame (fun x => x.signalWrite_frame _ _ _ _) he h
  | firOutput => exact State.run_ok_of_frame (fun x => x.firOutput_frame _ _ _) he h
  | resamplerOutput => exact State.run_ok_of_frame (fun x => x.rsOutput_frame _ _ _) he h
  | chainRelease => exact State.run_ok_of_frame (fun x => x.chainRelease_frame _) he h
  | detectorTake => exact State.run_ok_of_frame (fun x => x.detTake_frame _) he h
  | encoderEdge => exact State.run_ok_of_frame (fun x => x.encEdge_frame _ _ _) he h
  | encoderZEdge => exact State.run_ok_of_frame (fun x => x.encZ_frame _) he h
  | ssiFrame => exact State.run_ok_of_frame (fun x => x.ssiFrame_frame _ _ _ _ _) he h
  | spdTimeout => exact State.run_ok_of_frame (fun x => x.spdTimeout_frame _) he h
  | sndFrameStart => exact State.run_ok_of_frame (fun x => x.frameStart_frame) he h
  | sndFrameEnd => exact State.run_ok_of_frame (fun x => x.frameEnd_frame) he h
  | sndFrameReceived => exact State.run_ok_of_frame (fun x => x.sndReceive_frame _ _ _ _ _ _ _) he h
  | shiftApply => exact State.run_ok_of_frame (fun x => x.shiftApply_frame) he h
  | resyncEnd => exact State.run_ok_of_frame (fun x => x.resyncEnd_frame) he h
  | claimAgeExpiry => exact State.run_ok_of_frame (fun x => x.claimExpiry_frame) he h
  | reload => exact State.run_ok_of_frame (fun x => x.reloadAll_frame _) he h
  | sliceEdge => exact State.run_ok_of_frame (fun x => x.sliceEdge_frame _) he h
  | deadTimeEnd => exact State.run_ok_of_frame (fun x => x.deadTimeEnd_frame _) he h
  | legEntry => exact State.run_ok_of_frame (fun x => x.legEntry_frame _) he h
  | legStep => exact State.run_ok_of_frame (fun x => x.legStep_frame _) he h
  | trgCompare => exact State.run_ok_of_frame (fun x => x.trgCompare_frame _ _) he h
  | tripInput => exact State.run_ok_of_frame (fun x => x.tripInput_frame _ _) he h
  | stadanSlot => exact State.run_ok_of_frame (fun x => x.stadanStep_frame _) he h
  | edgeEligible => exact State.run_ok_of_frame (fun x => x.edgeEligible_frame _) he h
  | linkDown => exact State.run_ok_of_frame (fun x => x.linkDown_frame _) he h
  | windowComparator => exact State.run_ok_of_frame (fun x => x.windowLevel_frame _ _) he h
  | chopVerify => exact State.run_ok_of_frame (fun x => x.chopVerify_frame _) he h
  | pitchRep => exact State.run_ok_of_frame (fun x => x.pitchRep_frame _) he h
  | stoInput => exact State.run_ok_of_frame (fun x => x.stoInput_frame _ _) he h
  | stoDiscrep => exact State.run_ok_of_frame (fun x => x.stoDiscrep_frame) he h
  | stoPathDisagree => exact State.run_ok_of_frame (fun x => x.internalSto_frame _) he h
  | smonEvaluation => exact State.run_ok_of_frame (fun x => x.smonEval_frame _ _) he h
  | watchdogTimeout => exact State.run_ok_of_frame (fun x => x.wdTimeout_frame _) he h
  | dischT1 => exact State.run_ok_of_frame (fun x => x.dischT1_frame _) he h
  | dischT2 => exact State.run_ok_of_frame (fun x => x.dischT2_frame _) he h
  | dischSafe => exact State.run_ok_of_frame (fun x => x.dischDone_frame _) he h
  | digestTimeout => exact State.run_ok_of_frame (fun x => x.digestTimeout_frame _) he h
  | coastEnd => exact State.run_ok_of_frame (fun x => x.coastEnd_frame) he h
  | clkTakeover => exact State.run_ok_of_frame (fun x => x.clkTakeover_frame _) he h
  | islSnapshot => exact State.run_ok_of_frame (fun x => x.islSnapshot_frame _ _) he h
  | islPresentTimeout => exact State.run_ok_of_frame (fun x => x.islTimeout_frame) he h
  | meterWindow => exact State.run_ok_of_frame (fun x => x.meterWindow_frame _) he h
  | meterPulse => exact State.run_ok_of_frame (fun x => x.meterPulse_frame _) he h
  | islClockCheck => exact State.run_ok_of_frame (fun x => x.islClock_frame _) he h
  | testModeExpiry => exact State.run_ok_of_frame (fun x => x.testExpiry_frame) he h
  | calReadActive | calReadStaging => exact State.run_ok_of_frame (fun x => x.calRead_frame _ _ _) he h
  | fireAt => exact State.run_ok_of_frame (fun x => x.recFireAt_frame _) he h
  | trigBusEdge => exact State.run_ok_of_frame (fun x => x.trigBusEdge_frame _ _) he h
  | trigBusDriveEnd => exact State.run_ok_of_frame (fun x => x.busDriveEnd_frame _) he h
  | holdTEnd => exact State.run_ok_of_frame (fun x => x.holdEnd_frame _) he h
  | ulileRequest => exact State.run_ok_of_frame (fun x => x.uliRequest_frame _ _) he h
  | canWake => exact State.run_ok_of_frame (fun x => x.canWake_frame _ _) he h
  | lockstepMismatch => exact State.run_ok_of_frame (fun x => x.lockstepMismatch_frame _) he h
  | iommuInvComplete => exact State.run_ok_of_frame (fun x => x.iomInvDone_frame) he h
  | pmuOverflow => exact State.run_ok_of_frame (fun x => x.pmuOverflow_frame _ _) he h
  | jtagInstruction => exact State.run_ok_of_frame (fun x => x.jtag_frame _) he h
  | debugHalt => exact State.run_ok_of_frame (fun x => x.debugHalt_frame _) he h
  | debugStep => exact State.run_ok_of_frame (fun x => x.debugStep_frame _) he h
  | debugResume => exact State.run_ok_of_frame (fun x => x.debugResume_frame _) he h
  | tapReset => exact State.run_ok_of_frame (fun x => x.tapReset_frame) he h
  | flashOpComplete => exact State.run_ok_of_frame (fun x => x.flashDone_frame _) he h
  | wearEvaluation => exact State.run_ok_of_frame (fun x => x.wearEval_frame _ _ _) he h
  | domainOffComplete => exact State.run_ok_of_frame (fun x => x.pdOffDone_frame _) he h
  | tm6PeriodStall => exact State.run_ok_of_frame (fun x => x.tm6Stall_frame _) he h
  | dramTrainingComplete => exact State.run_ok_of_frame (fun x => x.dramTrained_frame) he h
  | upstreamFrame =>
    exact State.run_ok_of_frame (fun x => (State.seniorResume_frame _).trans (x.upFrame_frame _ _ _ _)) he h
  | monitorLockstepFault =>
    exact State.run_ok_of_frame (fun x => (State.wrB_frame _ _ _ _).trans (x.internalSto_frame 3)) he h
  -- events inside a power domain that leave the frame
  | sarTimer => exact State.run_inDomain_ok_of_frame (fun x => x.sarTimer_frame _) he h
  | sarStartEdge => exact State.run_inDomain_ok_of_frame (fun x => x.sarStartEdge_frame _) he h
  | sarConversionEnd => exact State.run_inDomain_ok_of_frame (fun x => x.sarConvEnd_frame _ _) he h
  | calibrationStart => exact State.run_inDomain_ok_of_frame (fun x => x.sarCalStart_frame _) he h
  | calibrationEnd => exact State.run_inDomain_ok_of_frame (fun x => x.sarCalEnd_frame _ _ _) he h
  | calAuto => exact State.run_inDomain_ok_of_frame (fun x => x.sarCalAuto_frame _) he h
  | calStarved => exact State.run_inDomain_ok_of_frame (fun x => x.sarStarved_frame _) he h
  | auxBusCrossing => exact State.run_inDomain_ok_of_frame (fun x => x.auxBus_frame _ _) he h
  | auxChopVerify => exact State.run_inDomain_ok_of_frame (fun x => x.auxChopVerify_frame _) he h
  | auxCurrentWindow => exact State.run_inDomain_ok_of_frame (fun x => x.auxWindow_frame _ _ _ _) he h
  | brkOffEnd => exact State.run_inDomain_ok_of_frame (fun x => x.brkOffEnd_frame _) he h
  | bemfCrossing => exact State.run_inDomain_ok_of_frame (fun x => x.bemfCrossing_frame _ _ _) he h
  | demagBlankEnd => exact State.run_inDomain_ok_of_frame (fun x => x.demagEnd_frame _ _) he h
  | commutation => exact State.run_inDomain_ok_of_frame (fun x => x.commutation_frame _) he h
  | forcedCommutation => exact State.run_inDomain_ok_of_frame (fun x => x.forcedCommutation_frame _) he h
  | obsTime => exact State.run_inDomain_ok_of_frame (fun x => x.obsTime_frame _) he h
  | stopConfirm => exact State.run_inDomain_ok_of_frame (fun x => x.stopConfirm_frame _) he h
  | alignEnd => exact State.run_inDomain_ok_of_frame (fun x => x.alignEnd_frame _) he h
  | rampSectorEnd => exact State.run_inDomain_ok_of_frame (fun x => x.rampSectorEnd_frame _) he h
  | ovRel => exact State.run_inDomain_ok_of_frame (fun x => x.ovRel_frame) he h
  | vdrvUv | vdrvUvEnd => exact State.run_inDomain_ok_of_frame (fun x => x.vdrvUv_frame _) he h
  | cpUv => exact State.run_inDomain_ok_of_frame (fun x => x.cpUv_frame _) he h
  | bstUv | bstUvEnd => exact State.run_inDomain_ok_of_frame (fun x => x.bstUv_frame _ _) he h
  | cwyDown => exact State.run_inDomain_ok_of_frame (fun x => x.cwyDown_frame _) he h
  | cwyTimeSend => exact State.run_inDomain_ok_of_frame (fun x => x.cwyTimeSend_frame) he h
  | cwyStatusSend => exact State.run_inDomain_ok_of_frame (fun x => x.cwyStatusSend_frame) he h
  | cwyEndFrame => exact State.run_inDomain_ok_of_frame (fun x => x.cwyEnd_frame _) he h
  | cwyTimeFrame => exact State.run_inDomain_ok_of_frame (fun x => x.cwyTime_frame _ _ _ _ _) he h
  | cwyDigestFrame => exact State.run_inDomain_ok_of_frame (fun x => x.cwyDigest_frame _ _ _ _) he h
  | cwyOverrunFrame => exact State.run_inDomain_ok_of_frame (fun x => x.cwyOverrun_frame _) he h
  | cwyLatchFrame => exact State.run_inDomain_ok_of_frame (fun x => x.cwyLatch_frame _ _) he h
  | cwyMirrorFrame => exact State.run_inDomain_ok_of_frame (fun x => x.cwyMirror_frame _ _ _ _) he h
  | cwyStatusFrame => exact State.run_inDomain_ok_of_frame (fun x => x.cwyStatus_frame _ _ _ _ _) he h
  | cwyMsgFrame => exact State.run_inDomain_ok_of_frame (fun x => x.cwyMsg_frame _ _ _) he h
  | cwyMsgAckFrame => exact State.run_inDomain_ok_of_frame (fun x => x.cwyMsgAck_frame _ _) he h
  | cwySnapFrame => exact State.run_inDomain_ok_of_frame (fun x => x.cwySnap_frame _ _ _ _) he h
  | msgRetry => exact State.run_inDomain_ok_of_frame (fun x => x.msgRetry_frame _) he h
  | ethFrameIngress => exact State.run_inDomain_ok_of_frame (fun x => x.ethIngress_frame _ _) he h
  | ethFrameEgress => exact State.run_inDomain_ok_of_frame (fun x => x.ethEgress_frame _) he h
  | pdelayExchange => exact State.run_inDomain_ok_of_frame (fun x => x.pdelay_frame _ _ _ _ _) he h
  | macAgeOut => exact State.run_inDomain_ok_of_frame (fun x => x.macAgeOut_frame _) he h
  | canArbitration => exact State.run_inDomain_ok_of_frame (fun x => x.canArbitrate_frame _ _) he h
  | canTxSuccess => exact State.run_inDomain_ok_of_frame (fun x => x.canSent_frame _ _) he h
  | canFrameError => exact State.run_inDomain_ok_of_frame (fun x => x.canError_frame _ _) he h
  | busOffRecoveryCount => exact State.run_inDomain_ok_of_frame (fun x => x.canBoCount_frame _) he h
  | canRxFrame => exact State.run_inDomain_ok_of_frame (fun x => x.canReceive_frame _ _ _) he h
  | canSleepEntry => exact State.run_inDomain_ok_of_frame (fun x => x.canSleepEntry_frame _) he h
  | ethLinkChange => exact State.run_inDomain_ok_of_frame (fun x => x.ethLink_frame _ _) he h
  -- the meter's commands and the driver boards' are excluded
  | meterQuantum | straitPowerFall | straitPowerReturn | sealChange | calWriteStaging | calCommit => cases hm
  | driverFrame | driverClaimLapse | driverEdgeExecute | driverSilence | driverGateFault | driverStatusSend | portSyncLoss |
    driverGateSupplyReturn | driverPowerUp =>
    cases hb

/-- A command of the driver boards leaves everything else of the frame. -/
theorem exec_offBoards {c : Instr} (hb : movesBoard c = true) (he : exec c s = .next u) : u.offBoards = s.offBoards := by
  cases c with
  | driverFrame => exact State.run_offBoards (fun x => x.driverFrame_offBoards _ _ _ _) he
  | driverClaimLapse => exact State.run_offBoards (fun x => x.driverLapse_offBoards _ _) he
  | driverEdgeExecute => exact State.run_offBoards (fun x => x.driverExecute_offBoards _) he
  | driverSilence => exact State.run_offBoards (fun x => x.driverSilence_offBoards _) he
  | driverGateFault => exact State.run_offBoards (fun x => x.driverGateFault_offBoards _ _) he
  | driverStatusSend => exact State.run_offBoards (fun x => x.driverStatus_offBoards _ _ _ _ _) he
  | portSyncLoss => exact State.run_offBoards (fun x => x.portSyncLoss_offBoards _ _) he
  | driverGateSupplyReturn => exact State.run_offBoards (fun x => x.driverGateReturn_offBoards _ _) he
  | driverPowerUp => exact State.run_offBoards (fun x => x.driverPowerUp_offBoards _) he
  | _ => cases hb

end

/-! ### The meter -/

/-- What the isolation protects: the meter's energies with their residues, its parameters (in force, committed and staged, with the count of commits),
and its seal with the count of openings. -/
structure MeterPart where
  energy : Tab Nat
  residue : Tab Nat
  par : Tab Word
  next : Option (Tab Word)
  staging : Tab Word
  commits : Nat
  seals : Nat
  isSealed : Bool

/-- The meter's part of a frame. -/
def Frame.meter (fr : Frame) : MeterPart :=
  ⟨fr.energy, fr.residue, fr.par, fr.next, fr.staging, fr.commits, fr.seals, fr.isSealed⟩

/-- The meter's part does not lie on the driver boards. -/
theorem State.offBoards_meter (s : State) : s.offBoards.meter = s.frame.meter := rfl

/-- A state that agrees with a frame outside memory has the frame's meter. -/
theorem State.okFor.meter {ask : Prop} {fr : Frame} {s : State} (h : s.okFor ask fr) : s.frame.meter = fr.meter := by
  obtain ⟨-, hrest⟩ := h
  calc s.frame.meter = ({ s.frame with mem := fr.mem } : Frame).meter := rfl
    _ = fr.meter := by rw [hrest]

/-- Only the meter's own commands reach its part of the state: a command of the driver boards moves boards alone, and every other command
touches of the frame at most memory. -/
theorem exec_meter {c : Instr} {s u : State} (hm : turnsMeter c = false) (he : exec c s = .next u) : u.frame.meter = s.frame.meter := by
  cases hb : movesBoard c with
  | true => rw [← u.offBoards_meter, exec_offBoards hb he, s.offBoards_meter]
  | false => exact (exec_ok hm hb he s.okFor_self).meter

/-- Settles O5: the energies, parameters and seals are the parts of the meter's frame, which every other command leaves. -/
theorem onlyTheMeterTurnsTheMeter : Obligations.OnlyTheMeterTurnsTheMeter := by
  intro c s u hm he
  have hkept : u.frame.meter = s.frame.meter := exec_meter hm he
  exact ⟨congrArg MeterPart.energy hkept, congrArg MeterPart.residue hkept, congrArg MeterPart.par hkept, congrArg MeterPart.next hkept,
    congrArg MeterPart.staging hkept, congrArg MeterPart.commits hkept, congrArg MeterPart.seals hkept, congrArg MeterPart.isSealed hkept⟩

end Sys2Proof.Machine
end

section
/-! The sequencers' commands (R33, R35, R36, R38): what each operation of a sequencer does in each of its cases, and from this the next state of
each command. -/

namespace Sys2Proof.Machine

/-! ### Judgement of a period (R38) -/

/-- Settles O10: fabric cycles are counted from the instants, and the one of `END` lies before the present one. -/
theorem endInTheSameFabricCycleIsLate : Obligations.EndInTheSameFabricCycleIsLate := by
  intro s n h
  unfold State.onTime at h
  split at h
  · next e he =>
    rw [Bool.and_eq_true, decide_eq_true_eq] at h
    exact ⟨e, he, h.1⟩
  · cases h

/-! ### Start and stop (R33) -/

/-- A write of `START` alone starts, one of `STOP` alone stops. -/
theorem State.seqCtrlWrite_start (s : State) (n : Nat) : s.seqCtrlWrite n 1#32 = s.seqStart n := rfl

theorem State.seqCtrlWrite_stop (s : State) (n : Nat) : s.seqCtrlWrite n 2#32 = s.seqStop n := rfl

theorem State.seqStart_accepted (s : State) (n : Nat) (hr : s.seqRuns n = false) (hs : (s.seq n).startAt = none) (hu : s.seqUnused n = false)
    (hi : s.inRun = true) (hf : s.clk.faulted = false) : s.seqStart n = s.setSeq n { s.seq n with startAt := some s.clk.now } := by
  simp [State.seqStart, hr, hs, hu, hi, hf]

theorem State.seqStart_refused (s : State) (n : Nat) (h : s.seqRuns n = true ∨ (s.seq n).startAt ≠ none) :
    s.seqStart n = s.raise (R.seqStatus n) 5 := by
  have h' : s.seqRuns n = true ∨ (s.seq n).startAt.isSome = true := h.imp_right Option.isSome_iff_ne_none.mpr
  unfold State.seqStart
  rw [if_pos]
  rcases h' with h | h <;> simp [h]

theorem State.seqStop_pending (s : State) (n : Nat) (hb : s.threadBlocked n = true) (hf : s.clk.faulted = false)
    (hs : (s.seq n).startAt ≠ none) : s.seqStop n = s.setSeq n { s.seq n with startAt := none } := by
  simp [State.seqStop, hb, hf, Option.isSome_iff_ne_none.mpr hs]

theorem State.seqStop_running (s : State) (n : Nat) (hb : s.threadBlocked n = true) (hf : s.clk.faulted = false)
    (hs : (s.seq n).startAt = none) (hr : s.seqRuns n = true) : s.seqStop n = s.setSeq n { s.seq n with stopPend := true } := by
  simp [State.seqStop, hb, hf, hs, hr]

theorem State.seqStop_refused (s : State) (n : Nat) (hb : s.threadBlocked n = false) : s.seqStop n = s.raise (R.seqStatus n) 3 := by
  simp [State.seqStop, hb]

/-! ### Steps (R35, R36) -/

theorem State.callStep_ready (s : State) (n : Nat) (h : s.stepReady n 10 = true) :
    s.callStep n = s.setSeq n { s.seq n with
      callPair := some (s.stepA n)
      callFrom := (s.seq n).doneAt + twentyNs
      callDue := if s.stepB n = 0 then none else some ((s.seq n).doneAt + twentyNs + s.stepB n * twentyNs) } := by
  simp [State.callStep, h]

/-- A `DONE` of the called pair ends the call, unless an earlier fabric cycle held its deadline. -/
theorem State.coreDone_called (s : State) (p : Fin 5) (n : Nat) (hc : (s.seq n).callPair = some p.val) (hf : s.clk.faulted = false)
    (hd : ∀ d, (s.seq n).callDue = some d → s.clk.now / fabCycle ≤ d / fabCycle) :
    s.coreDone (.core p) n = s.callEnds n (max s.clk.now (s.seq n).callFrom) := by
  unfold State.coreDone
  simp only [hc]
  rw [if_pos (by simp [hf])]
  cases hdue : (s.seq n).callDue with
  | none => rfl
  | some d => exact if_neg (Nat.not_lt.mpr (hd d hdue))

/-- A `DONE` of anyone but the called pair is ignored. -/
theorem State.coreDone_other (s : State) (p : Fin 5) (who : Initiator) (n : Nat) (hc : (s.seq n).callPair = some p.val) (hw : who ≠ .core p) :
    s.coreDone who n = s := by
  cases who with
  | core p' =>
    have hp : p'.val ≠ p.val := fun h => hw (congrArg Initiator.core (Fin.ext h))
    simp [State.coreDone, hc, hp]
  | _ => rfl

/-- A `DONE` of the pair whose call a timeout has just ended. -/
theorem State.coreDone_timedOut (s : State) (p : Fin 5) (n : Nat) (hc : (s.seq n).callPair = none) (hp : (s.seq n).toPair = some p.val) :
    s.coreDone (.core p) n = s.timeoutUndo n := by
  simp [State.coreDone, hc, hp]

theorem State.waitStep_holds (s : State) (n : Nat) (h : s.stepReady n 11 = true)
    (hd : (s.seq n).doneAt + twentyNs < (s.seq n).sampleAt + s.stepB n * twentyNs) :
    s.waitStep n = s.setSeq n { s.seq n with waitDue := some ((s.seq n).sampleAt + s.stepB n * twentyNs) } := by
  simp [State.waitStep, h, hd]

theorem State.waitStep_passes (s : State) (n : Nat) (h : s.stepReady n 11 = true)
    (hd : (s.seq n).sampleAt + s.stepB n * twentyNs ≤ (s.seq n).doneAt + twentyNs) :
    s.waitStep n = s.stepEnds n ((s.seq n).doneAt + twentyNs) := by
  simp [State.waitStep, h, hd]

theorem State.waitEnd_due (s : State) (n d : Nat) (h : (s.seq n).waitDue = some d) (hd : d ≤ s.clk.now) (hf : s.clk.faulted = false) :
    s.waitEnd n = s.stepEnds n d := by
  simp [State.waitEnd, h, hd, hf]

/-- The deadline of a call lies in a fabric cycle before the present one: the flag is set. -/
theorem State.coreTimeout_passed (s : State) (n p d : Nat) (hp : (s.seq n).callPair = some p) (hd : (s.seq n).callDue = some d)
    (hf : s.clk.faulted = false) (hc : d / fabCycle < s.clk.now / fabCycle) (hn : d ≤ s.clk.now) :
    s.coreTimeout n = (s.callEnds n d).timeoutSet n := by
  unfold State.coreTimeout
  simp only [hp, hd]
  rw [if_pos ⟨hn, by simp [hf]⟩]
  exact if_pos hc

/-- The deadline of a call lies in the present fabric cycle: the flag is to come with its end. -/
theorem State.coreTimeout_within (s : State) (n p d : Nat) (hp : (s.seq n).callPair = some p) (hd : (s.seq n).callDue = some d)
    (hf : s.clk.faulted = false) (hc : d / fabCycle = s.clk.now / fabCycle) (hn : d ≤ s.clk.now) :
    s.coreTimeout n = ((s.callEnds n d).setSeq n { (s.callEnds n d).seq n with toPair := some p }).soon ((d / fabCycle + 1) * fabCycle)
      (.coreTimeout n) := by
  unfold State.coreTimeout
  simp only [hp, hd]
  rw [if_pos ⟨hn, by simp [hf]⟩]
  exact if_neg (Nat.not_lt.mpr hc.ge)

/-- Without a twin, `END` is noted and nothing is sent. -/
theorem State.endStep_ready (s : State) (n : Nat) (h : s.stepReady n 0 = true) (ht : s.twinOn = false) :
    s.endStep n = s.setSeq n { s.seq n with endAt := some (s.seq n).doneAt } := by
  have ht' : (s.setSeq n { s.seq n with endAt := some (s.seq n).doneAt }).twinOn = false := ht
  simp [State.endStep, h, State.twinEnd, State.snapSend, ht']

/-! ### The end of a call (R36) -/

/-- What an event changes: the events and the interrupt lines. -/
theorem State.post_eq (s : State) (src code : Nat) : s.post src code = { s with evs := (s.post src code).evs, irq := (s.post src code).irq } := by
  unfold State.post State.postAt State.setIrq
  split <;> rfl

/-- The event posted is the source's last one. -/
theorem State.post_code (s : State) (src code : Nat) : (tabGet (fun _ => Ev.init) (s.post src code).evs src).code = code := by
  have hevs : (s.post src code).evs = tabSet (fun _ => Ev.init) s.evs src
      ⟨((tabGet (fun _ => Ev.init) s.evs src).count + 1) % 65536, ntSec (s.netTime s.clk.now), ntNs (s.netTime s.clk.now),
        s.netTime s.clk.now % 2 ^ 34, code, 0⟩ := by
    unfold State.post State.postAt State.setIrq
    split <;> rfl
  rw [hevs, tabGet_set_same]

theorem mem_soonPut (l : List (Nat × Soon)) (t : Nat) (x : Soon) : (t, x) ∈ soonPut l t x := by
  induction l with
  | nil => exact List.mem_singleton_self _
  | cons e rest ih =>
    unfold soonPut
    split
    · exact List.mem_cons_of_mem _ ih
    · exact List.mem_cons_self

section
variable (s : State) (n k : Nat)

/-- The end of a call changes the sequencers and `STEP` alone. -/
theorem State.callEnds_eq : s.callEnds n k = { s with
    seqs := (s.callEnds n k).seqs, regs := (s.callEnds n k).regs, raised := (s.callEnds n k).raised } := rfl

theorem State.callEnds_seq : (s.callEnds n k).seq n = { s.seq n with
    doneAt := k + s.latches n * twentyNs, callWait := k - (s.seq n).callFrom
    callPair := none, callDue := none, waitDue := none, waitGrp := false } := by
  have hl : (s.setSeq n { s.seq n with callWait := k - (s.seq n).callFrom }).latches n = s.latches n := latches_of n (fun _ => rfl)
  unfold State.callEnds
  rw [stepEnds_seq, seq_setSeq, hl]

theorem State.callEnds_rd (a : Nat) : (s.callEnds n k).rd a =
    if a = R.seqStatus n then withField (s.rd a) 13 8 (s.seqStepNo n + 1 + s.latches n) else s.rd a := by
  have hl : (s.setSeq n { s.seq n with callWait := k - (s.seq n).callFrom }).latches n = s.latches n := latches_of n (fun _ => rfl)
  unfold State.callEnds
  rw [stepEnds_rd, hl]
  rfl

theorem State.callEnds_status : (s.callEnds n k).rd (R.seqStatus n) = withField (s.rd (R.seqStatus n)) 13 8 (s.seqStepNo n + 1 + s.latches n) := by
  rw [State.callEnds_rd, if_pos rfl]

end

/-- The flag of a timeout: the sequencers, the register and the event. -/
theorem State.timeoutSet_eq (s : State) (n : Nat) : s.timeoutSet n = { s with
    seqs := (s.setSeq n { s.seq n with toPair := none }).seqs, evs := (s.timeoutSet n).evs, irq := (s.timeoutSet n).irq
    regs := (s.timeoutSet n).regs, raised := (s.timeoutSet n).raised } := by
  have h : s.timeoutSet n = ((s.setSeq n { s.seq n with toPair := none }).raise (R.seqStatus n) 2).post (4 + n) 2 := rfl
  rw [h, State.post_eq]
  rfl

theorem State.timeoutSet_rd (s : State) (n a : Nat) : (s.timeoutSet n).rd a = if a = R.seqStatus n then withBit (s.rd a) 2 true else s.rd a := by
  unfold State.timeoutSet
  rw [State.post_rd, State.rd_raise, State.setSeq_rd]
  split
  · next h => rw [h]
  · rfl

/-! ### The commands -/

section
variable {s : State} {t : Nat} {n : Fin 4}

/-- A command whose effect is that hardware sets a bit and the bus answers `b`. -/
theorem State.run_raise {f : State → State} {a i : Nat} {b : BusAns} (e : f (s.upTo t) = { (s.upTo t).raise a i with bus := b })
    (ha : a ∉ forceRegs) :
    ∃ u, s.run t f = .next u ∧ (s.upTo t).framed { s.upTo t with bus := b } u [a] ∧ u.rd a = withBit ((s.upTo t).rd a) i true := by
  refine State.run_to e rfl (s.upTo_pending t) (fun c hc _ => ((s.upTo t).raise_only a i).regs c hc) (fun u hu => ?_)
  rw [hu a ha]
  exact ((s.upTo t).rd_raise a a i).trans (if_pos rfl)

/-- A write of `START` (R33). -/
theorem exec_seqStart {who : Initiator} (h : (s.upTo t).reaches who (R.seqCtrl n) 1#32 = true) :
    let x := s.upTo t
    (x.seqRuns n = false → (x.seq n).startAt = none → x.seqUnused n = false → x.inRun = true → x.clk.faulted = false →
      ∃ u, exec (.seqStart t who n) s = .next u ∧
        x.framed { x.setSeq n { x.seq n with startAt := some x.clk.now } with bus := .ok 0#64 } u []) ∧
    (x.seqRuns n = true ∨ (x.seq n).startAt ≠ none →
      ∃ u, exec (.seqStart t who n) s = .next u ∧ x.framed { x with bus := .ok 0#64 } u [R.seqStatus n] ∧
        u.rd (R.seqStatus n) = withBit (x.rd (R.seqStatus n)) 5 true) := by
  intro x
  have hw : x.busWord who (R.seqCtrl n) 1#32 = { x.seqStart n with bus := .ok 0#64 } := by
    rw [State.busWord_seqCtrl _ _ _ _ h, State.seqCtrlWrite_start]
  constructor
  · intro hr hs hu hi hf
    rw [State.seqStart_accepted x n hr hs hu hi hf] at hw
    exact State.run_same (f := fun x => x.busWord who (R.seqCtrl n) 1#32) hw (s.upTo_pending t) (fun _ => rfl)
  · intro hr
    rw [State.seqStart_refused x n hr] at hw
    exact State.run_raise (f := fun x => x.busWord who (R.seqCtrl n) 1#32) hw (seqStatus_force n)

/-- A write of `STOP` (R33). -/
theorem exec_seqStop {who : Initiator} (h : (s.upTo t).reaches who (R.seqCtrl n) 2#32 = true) :
    let x := s.upTo t
    (x.threadBlocked n = true → x.clk.faulted = false →
      ((x.seq n).startAt ≠ none → ∃ u, exec (.seqStop t who n) s = .next u ∧
        x.framed { x.setSeq n { x.seq n with startAt := none } with bus := .ok 0#64 } u []) ∧
      ((x.seq n).startAt = none → x.seqRuns n = true → ∃ u, exec (.seqStop t who n) s = .next u ∧
        x.framed { x.setSeq n { x.seq n with stopPend := true } with bus := .ok 0#64 } u [])) ∧
    (x.threadBlocked n = false → ∃ u, exec (.seqStop t who n) s = .next u ∧ x.framed { x with bus := .ok 0#64 } u [R.seqStatus n] ∧
        u.rd (R.seqStatus n) = withBit (x.rd (R.seqStatus n)) 3 true) := by
  intro x
  have hw : x.busWord who (R.seqCtrl n) 2#32 = { x.seqStop n with bus := .ok 0#64 } := by
    rw [State.busWord_seqCtrl _ _ _ _ h, State.seqCtrlWrite_stop]
  refine ⟨fun hb hf => ⟨fun hs => ?_, fun hs hr => ?_⟩, fun hb => ?_⟩
  · rw [State.seqStop_pending x n hb hf hs] at hw
    exact State.run_same (f := fun x => x.busWord who (R.seqCtrl n) 2#32) hw (s.upTo_pending t) (fun _ => rfl)
  · rw [State.seqStop_running x n hb hf hs hr] at hw
    exact State.run_same (f := fun x => x.busWord who (R.seqCtrl n) 2#32) hw (s.upTo_pending t) (fun _ => rfl)
  · rw [State.seqStop_refused x n hb] at hw
    exact State.run_raise (f := fun x => x.busWord who (R.seqCtrl n) 2#32) hw (seqStatus_force n)

/-- A `DONE` that ends the call it is for (R36). -/
theorem exec_coreDone_called {p : Fin 5} (hc : ((s.upTo t).seq n).callPair = some p.val) (hf : (s.upTo t).clk.faulted = false)
    (h : (s.upTo t).reaches (.core p) (R.seqCoreDone n) 1#32 = true)
    (hd : ∀ d, ((s.upTo t).seq n).callDue = some d → (s.upTo t).clk.now / fabCycle ≤ d / fabCycle) :
    let x := s.upTo t; let q := x.seq n; let k := max x.clk.now q.callFrom
    ∃ u, exec (.coreDone t (.core p) n) s = .next u ∧ x.framed { x with seqs := u.seqs, bus := .ok 0#64 } u [R.seqStatus n] ∧
      u.seqStepNo n = (x.seqStepNo n + 1 + x.latches n) % 64 ∧
      u.seq n = { q with
        doneAt := k + x.latches n * twentyNs, callWait := k - q.callFrom, callPair := none, callDue := none, waitDue := none, waitGrp := false } ∧
      ∀ m, m ≠ n.val → u.seq m = x.seq m := by
  intro x q k
  have hw : x.busWord (.core p) (R.seqCoreDone n) 1#32 = { x.callEnds n k with bus := .ok 0#64 } := by
    rw [State.busWord_seqCoreDone _ _ _ h, State.coreDone_called x p n hc hf hd]
  exact run_ends (f := fun x => x.busWord (.core p) (R.seqCoreDone n) 1#32) n _ k _ hw { q with callWait := k - q.callFrom } (.inl rfl)

/-- A `DONE` of another initiator than the called pair (R36). -/
theorem exec_coreDone_other {p : Fin 5} {who : Initiator} (hc : ((s.upTo t).seq n).callPair = some p.val) (hw : who ≠ .core p)
    (h : (s.upTo t).reaches who (R.seqCoreDone n) 1#32 = true) :
    ∃ u, exec (.coreDone t who n) s = .next u ∧ (s.upTo t).framed { s.upTo t with bus := .ok 0#64 } u [] := by
  have he : (s.upTo t).busWord who (R.seqCoreDone n) 1#32 = { s.upTo t with bus := .ok 0#64 } := by
    rw [State.busWord_seqCoreDone _ _ _ h, State.coreDone_other _ p who n hc hw]
  exact State.run_same (f := fun x => x.busWord who (R.seqCoreDone n) 1#32) he (s.upTo_pending t) (fun _ => rfl)

/-- A `WAIT` whose offset is still to come, and one whose offset has passed (R35). -/
theorem exec_wait (h : (s.upTo t).stepReady n 11 = true) :
    let x := s.upTo t; let q := x.seq n
    (q.doneAt + twentyNs < q.sampleAt + x.stepB n * twentyNs → ∃ u, exec (.wait t n) s = .next u ∧
      x.framed (x.setSeq n { q with waitDue := some (q.sampleAt + x.stepB n * twentyNs) }) u []) ∧
    (q.sampleAt + x.stepB n * twentyNs ≤ q.doneAt + twentyNs → ∃ u, exec (.wait t n) s = .next u ∧
      x.framed { x with seqs := u.seqs, bus := x.bus } u [R.seqStatus n] ∧ u.seqStepNo n = (x.seqStepNo n + 1 + x.latches n) % 64 ∧
      u.seq n = { q with
        doneAt := q.doneAt + twentyNs + x.latches n * twentyNs, callPair := none, callDue := none, waitDue := none, waitGrp := false } ∧
      ∀ m, m ≠ n.val → u.seq m = x.seq m) := by
  intro x q
  constructor
  · intro hd
    exact State.run_same (f := fun x => x.waitStep n) (State.waitStep_holds x n h hd) (s.upTo_pending t) (fun _ => rfl)
  · intro hd
    exact run_ends (f := fun x => x.waitStep n) n x _ x.bus (State.waitStep_passes x n h hd) q (.inr ⟨rfl, rfl⟩)

/-- The offset of a `WAIT` is reached (R35). -/
theorem exec_waitEnd {d : Nat} (h : ((s.upTo t).seq n).waitDue = some d) (hd : d ≤ (s.upTo t).clk.now) (hf : (s.upTo t).clk.faulted = false) :
    let x := s.upTo t; let q := x.seq n
    ∃ u, exec (.waitEnd t n) s = .next u ∧
      x.framed { x with seqs := u.seqs, bus := x.bus } u [R.seqStatus n] ∧ u.seqStepNo n = (x.seqStepNo n + 1 + x.latches n) % 64 ∧
      u.seq n = { q with doneAt := d + x.latches n * twentyNs, callPair := none, callDue := none, waitDue := none, waitGrp := false } ∧
      ∀ m, m ≠ n.val → u.seq m = x.seq m := by
  intro x q
  exact run_ends (f := fun x => x.waitEnd n) n x d x.bus (State.waitEnd_due x n d h hd hf) q (.inr ⟨rfl, rfl⟩)

/-- A call whose deadline has passed with the end of its fabric cycle (R36). -/
theorem exec_coreTimeout_passed {p d : Nat} (hp : ((s.upTo t).seq n).callPair = some p) (hd : ((s.upTo t).seq n).callDue = some d)
    (hn : d ≤ (s.upTo t).clk.now) (hf : (s.upTo t).clk.faulted = false) (hc : d / fabCycle < (s.upTo t).clk.now / fabCycle) :
    let x := s.upTo t; let q := x.seq n
    ∃ u, exec (.coreTimeout t n) s = .next u ∧ x.framed { x with seqs := u.seqs, evs := u.evs, irq := u.irq } u [R.seqStatus n] ∧
      u.rdB (R.seqStatus n) 2 = true ∧ u.seqStepNo n = (x.seqStepNo n + 1 + x.latches n) % 64 ∧
      u.seq n = { q with doneAt := d + x.latches n * twentyNs, callWait := d - q.callFrom, callPair := none, callDue := none, waitDue := none,
                         waitGrp := false, toPair := none } ∧
      (tabGet (fun _ => Ev.init) u.evs (4 + n)).code = 2 := by
  intro x q
  have e : x.coreTimeout n = (x.callEnds n d).timeoutSet n := State.coreTimeout_passed x n p d hp hd hf hc hn
  set z := (x.callEnds n d).timeoutSet n with hz
  have hzeq : z = { x with seqs := z.seqs, evs := z.evs, irq := z.irq, regs := z.regs, raised := z.raised } := by
    rw [hz, State.timeoutSet_eq, State.callEnds_eq]
  obtain ⟨u, hu, hfr, hrd⟩ := State.run_to (f := fun x => x.coreTimeout n) (as := [R.seqStatus n])
    (y := { x with seqs := z.seqs, evs := z.evs, irq := z.irq }) (P := fun u => u.rd (R.seqStatus n) = z.rd (R.seqStatus n)) e hzeq
    ((congrArg State.pending hzeq).trans (s.upTo_pending t))
    (fun a ha _ => by
      have hne : a ≠ R.seqStatus n := by simpa using ha
      rw [hz, State.timeoutSet_rd, if_neg hne, State.callEnds_rd, if_neg hne])
    (fun u hu => hu _ (seqStatus_force n))
  have hst : u.rd (R.seqStatus n) = withBit (withField (x.rd (R.seqStatus n)) 13 8 (x.seqStepNo n + 1 + x.latches n)) 2 true := by
    rw [hrd, hz, State.timeoutSet_rd, if_pos rfl, State.callEnds_status]
  have hseqs : u.seqs = z.seqs := by rw [hfr.1]
  have hevs : u.evs = z.evs := by rw [hfr.1]
  have hirq : u.irq = z.irq := by rw [hfr.1]
  refine ⟨u, hu, by rw [hseqs, hevs, hirq]; exact hfr, ?_, ?_, ?_, ?_⟩
  · rw [State.rdB, hst, bitOf_withBit_same _ _ _ (by decide)]
  · rw [State.seqStepNo, State.rdF, hst, fieldOf_withBit _ _ _ _ _ (by decide) (by decide), fieldOf_withField _ _ _ _ (by decide) (by decide)]
    rfl
  · have hseq : u.seq n = { (x.callEnds n d).seq n with toPair := none } := by
      unfold State.seq
      rw [hseqs, hz, State.timeoutSet_eq]
      exact seq_setSeq ..
    rw [hseq, State.callEnds_seq]
  · rw [hevs]
    exact State.post_code ..

/-- A call whose deadline lies in the present fabric cycle (R36). -/
theorem exec_coreTimeout_within {p d : Nat} (hp : ((s.upTo t).seq n).callPair = some p) (hd : ((s.upTo t).seq n).callDue = some d)
    (hn : d ≤ (s.upTo t).clk.now) (hf : (s.upTo t).clk.faulted = false) (hc : d / fabCycle = (s.upTo t).clk.now / fabCycle) :
    let x := s.upTo t; let q := x.seq n
    ∃ u, exec (.coreTimeout t n) s = .next u ∧
      x.framed { x with seqs := u.seqs, prot := { x.prot with inb := u.prot.inb } } u [R.seqStatus n] ∧
      u.rdB (R.seqStatus n) 2 = x.rdB (R.seqStatus n) 2 ∧ u.seqStepNo n = (x.seqStepNo n + 1 + x.latches n) % 64 ∧
      u.seq n = { q with doneAt := d + x.latches n * twentyNs, callWait := d - q.callFrom, callPair := none, callDue := none, waitDue := none,
                         waitGrp := false, toPair := some p } ∧
      ((d / fabCycle + 1) * fabCycle, Soon.coreTimeout n) ∈ u.prot.inb := by
  intro x q
  have e := State.coreTimeout_within x n p d hp hd hf hc hn
  set z := ((x.callEnds n d).setSeq n { (x.callEnds n d).seq n with toPair := some p }).soon ((d / fabCycle + 1) * fabCycle) (.coreTimeout n)
    with hz
  have hzeq : z = { x with seqs := z.seqs, prot := { x.prot with inb := z.prot.inb }, regs := z.regs, raised := z.raised } := rfl
  have hzrd (a : Nat) : z.rd a = (x.callEnds n d).rd a := by rw [hz, State.soon_rd, State.setSeq_rd]
  obtain ⟨u, hu, hfr, hrd⟩ := State.run_to (f := fun x => x.coreTimeout n) (as := [R.seqStatus n])
    (y := { x with seqs := z.seqs, prot := { x.prot with inb := z.prot.inb } }) (P := fun u => u.rd (R.seqStatus n) = z.rd (R.seqStatus n)) e hzeq
    (s.upTo_pending t)
    (fun a ha _ => by
      have hne : a ≠ R.seqStatus n := by simpa using ha
      rw [hzrd, State.callEnds_rd, if_neg hne])
    (fun u hu => hu _ (seqStatus_force n))
  have hst : u.rd (R.seqStatus n) = withField (x.rd (R.seqStatus n)) 13 8 (x.seqStepNo n + 1 + x.latches n) := by
    rw [hrd, hzrd, State.callEnds_status]
  have hseqs : u.seqs = z.seqs := by rw [hfr.1]
  have hinb : u.prot.inb = z.prot.inb := by rw [hfr.1]
  refine ⟨u, hu, by rw [hseqs, hinb]; exact hfr, ?_, ?_, ?_, ?_⟩
  · rw [State.rdB, hst, bitOf_withField _ _ _ _ _ (by decide) (by decide) (by decide)]
    rfl
  · rw [State.seqStepNo, State.rdF, hst, fieldOf_withField _ _ _ _ (by decide) (by decide)]
    rfl
  · have hseq : u.seq n = { (x.callEnds n d).seq n with toPair := some p } := by
      unfold State.seq
      rw [hseqs]
      exact seq_setSeq ..
    rw [hseq, State.callEnds_seq]
  · rw [hinb]
    exact mem_soonPut ..

/-- A `DONE` in the fabric cycle of the timeout: completion wins (R36). -/
theorem exec_coreDone_timedOut {p : Fin 5} (hc : ((s.upTo t).seq n).callPair = none) (hp : ((s.upTo t).seq n).toPair = some p.val)
    (h : (s.upTo t).reaches (.core p) (R.seqCoreDone n) 1#32 = true) :
    let x := s.upTo t
    ∃ u, exec (.coreDone t (.core p) n) s = .next u ∧
      x.framed { x.setSeq n { x.seq n with toPair := none } with prot := { x.prot with inb := u.prot.inb }, bus := .ok 0#64 } u [] ∧
      ∀ e, e ∈ u.prot.inb ↔ e ∈ x.prot.inb ∧ e.2 ≠ .coreTimeout n := by
  intro x
  have hw : x.busWord (.core p) (R.seqCoreDone n) 1#32 = { x.timeoutUndo n with bus := .ok 0#64 } := by
    rw [State.busWord_seqCoreDone _ _ _ h, State.coreDone_timedOut _ p n hc hp]
  obtain ⟨u, hu, hfr⟩ := State.run_same (f := fun x => x.busWord (.core p) (R.seqCoreDone n) 1#32) hw (s.upTo_pending t) (fun _ => rfl)
  have hinb : u.prot.inb = x.prot.inb.filter (fun e => e.2 != .coreTimeout n) := by rw [hfr.1]; rfl
  refine ⟨u, hu, by rw [hinb]; exact hfr, fun e => ?_⟩
  rw [hinb, List.mem_filter, bne_iff_ne]

end

/-- Settles O8: each command is its operation run at its instant, in the case that the premises name. -/
theorem sequencersStartWaitAndEnd : Obligations.SequencersStartWaitAndEnd := by
  refine ⟨fun t who n s => ⟨exec_seqStart, exec_seqStop⟩, fun t n s => ⟨fun h => ?_, ?_, ?_, ?_, ?_⟩, fun t n s => ⟨?_, ?_, ?_⟩⟩
  · exact State.run_same (f := fun x => x.callStep n) (State.callStep_ready _ n h) (s.upTo_pending t) (fun _ => rfl)
  · exact fun p hc hf h hd => exec_coreDone_called hc hf h hd
  · exact fun p who hc hw h => exec_coreDone_other hc hw h
  · exact fun h => exec_wait h
  · exact fun d h hd hf => exec_waitEnd h hd hf
  · exact fun p d hp hd hn hf => ⟨exec_coreTimeout_passed hp hd hn hf, exec_coreTimeout_within hp hd hn hf⟩
  · exact fun p hc hp h => exec_coreDone_timedOut hc hp h
  · intro h ht
    exact State.run_same (f := fun x => x.endStep n) (State.endStep_ready _ n h ht) (s.upTo_pending t) (fun _ => rfl)

end Sys2Proof.Machine
end

section
/-! Writes to signals (R42). The recorder samples a common-domain signal as it is written (R357): it reads the signal table and writes registers of
its own alone, so the write is the only change of the table. -/

namespace Sys2Proof.Machine

/-! ### What the recorder leaves -/

/-- What of the redundant sensing the recorder does not touch: the signal table and the configuration of the plausibility pairs. -/
structure OffRec where
  sig : SigTab
  pairCfg : Fin 128 → Word

def State.offRec (s : State) : OffRec := ⟨s.sig, fun p => s.rd (R.seqPairCfg p)⟩

theorem sig_of_offRec {s u : State} (h : u.offRec = s.offRec) : u.sig = s.sig := congrArg OffRec.sig h

/-- The common-domain pair of a signal is found in the configuration of the pairs. -/
theorem commonPair_of_offRec {s u : State} (h : u.offRec = s.offRec) (i : Nat) : u.commonPair i = s.commonPair i := by
  have hcfg (p : Nat) (hp : p < 128) : u.rd (R.seqPairCfg p) = s.rd (R.seqPairCfg p) := congrFun (congrArg OffRec.pairCfg h) ⟨p, hp⟩
  unfold State.commonPair
  refine List.find?_congr (fun p hp => ?_)
  have hrd := hcfg p (List.mem_range.mp hp)
  simp only [State.pairEn, State.pairThread, State.pairA, State.pairB, State.rdB, State.rdF, hrd]

/-- A change that leaves the table and the registers leaves this frame. -/
theorem offRec_of_parts {s u : State} (hs : u.sig = s.sig) (hr : u.regTab = s.regTab) : u.offRec = s.offRec := by
  unfold State.offRec
  simp only [hs, rd_congr hr]

theorem State.wr_offRec (s : State) {a : Nat} (w : Word) (h : 0x45000000 ≤ a) : (s.wr a w).offRec = s.offRec := by
  unfold State.offRec
  congr 1
  funext p
  refine State.rd_wr_ne _ _ _ _ ?_
  unfold R.seqPairCfg
  omega

@[simp] theorem each_offRec (s : State) (is : List Nat) (f : State → Nat → State) (h : ∀ s i, (f s i).offRec = s.offRec) :
    (s.each is f).offRec = s.offRec := by
  unfold State.each
  induction is generalizing s with
  | nil => rfl
  | cons i is ih => rw [List.foldl_cons, ih, h]

section
variable (s : State) (u : Nat)

@[simp] theorem recCapStatus_high : 0x45000000 ≤ R.recCapStatus u := by unfold R.recCapStatus; omega
@[simp] theorem recCapCount_high : 0x45000000 ≤ R.recCapCount u := by unfold R.recCapCount; omega
@[simp] theorem recCapLate_high : 0x45000000 ≤ R.recCapLate u := by unfold R.recCapLate; omega
@[simp] theorem recCapDead_high : 0x45000000 ≤ R.recCapDead u := by unfold R.recCapDead; omega
@[simp] theorem recCapDeadTotal_high : 0x45000000 ≤ R.recCapDeadTotal u := by unfold R.recCapDeadTotal; omega

theorem State.wrF_offRec {a : Nat} (hi lo v : Nat) (h : 0x45000000 ≤ a) : (s.wrF a hi lo v).offRec = s.offRec := s.wr_offRec _ h
theorem State.countUp_offRec {a : Nat} (hi lo k : Nat) (h : 0x45000000 ≤ a) : (s.countUp a hi lo k).offRec = s.offRec := s.wr_offRec _ h
theorem State.raise_offRec {a : Nat} (i : Nat) (h : 0x45000000 ≤ a) : (s.raise a i).offRec = s.offRec := State.wr_offRec _ _ h

@[simp] theorem State.setCap_offRec (v : CapSt) : (s.setCap u v).offRec = s.offRec := (rfl)
@[simp] theorem State.setRecChan_offRec (v : RecChan) : (s.setRecChan u v).offRec = s.offRec := (rfl)
@[simp] theorem State.rec_offRec (v : RecSt) : ({ s with rec_ := v } : State).offRec = s.offRec := (rfl)

@[simp] theorem State.recEvent_offRec (code : Nat) : (s.recEvent u code).offRec = s.offRec := by
  unfold State.recEvent
  exact offRec_of_parts (by rw [State.post_eq]) (State.post_regTab ..)

@[simp] theorem State.setCapState_offRec (st : Nat) : (s.setCapState u st).offRec = s.offRec := by
  unfold State.setCapState
  simp [State.wrF_offRec]

@[simp] theorem State.capFill_offRec (k : Nat) : (s.capFill u k).offRec = s.offRec := by
  unfold State.capFill
  simp [State.wrF_offRec]

@[simp] theorem State.capFillOrWait_offRec (k : Nat) : (s.capFillOrWait u k).offRec = s.offRec := by
  unfold State.capFillOrWait
  split <;> simp

@[simp] theorem State.capAfterHold_offRec : (s.capAfterHold u).offRec = s.offRec := by
  unfold State.capAfterHold
  split <;> simp

@[simp] theorem State.capDeadEnd_offRec : (s.capDeadEnd u).offRec = s.offRec := by
  unfold State.capDeadEnd
  simp only
  split
  · rfl
  · simp [State.wr_offRec]

@[simp] theorem State.busDrive_offRec : (s.busDrive u).offRec = s.offRec := by
  unfold State.busDrive
  apply each_offRec
  intro s b
  split <;> rfl

@[simp] theorem State.recTrigMark_offRec (i : Nat) : (s.recTrigMark u i).offRec = s.offRec := (rfl)

@[simp] theorem State.capHoldCount_offRec (code : Nat) : (s.capHoldCount u code).offRec = s.offRec := by
  unfold State.capHoldCount
  split
  · simp only
    split <;> simp
  · rfl

end

/-- A trigger that reaches a unit, whether it is accepted, merged or counted. -/
@[simp] theorem State.capTrigger_offRec (s : State) (u code at_ : Nat) : (s.capTrigger u code at_).1.offRec = s.offRec := by
  unfold State.capTrigger
  simp only
  (repeat' split) <;> simp [State.countUp_offRec, State.raise_offRec]

@[simp] theorem State.recFireGo_offRec (n : Nat) (s : State) (code at_ only : Nat) : (State.recFireGo n s code at_ only).offRec = s.offRec := by
  induction n generalizing s code at_ only with
  | zero => rfl
  | succ n ih =>
    unfold State.recFireGo
    apply each_offRec
    intro s u
    (repeat' split) <;> simp [ih, apply_ite State.offRec]

@[simp] theorem State.lvlJudge_offRec (s : State) (k : Nat) (v : Int) (ts : Nat) : (s.lvlJudge k v ts).offRec = s.offRec := by
  unfold State.lvlJudge
  simp only
  split
  · rfl
  · simp [State.recFire, apply_ite State.offRec]

@[simp] theorem State.recSample_offRec (s : State) (c : Nat) (v : Int) (q : Qual) (ts : Nat) : (s.recSample c v q ts).offRec = s.offRec := by
  unfold State.recSample
  simp only
  (repeat' split) <;> simp [apply_ite State.offRec, State.countUp_offRec, State.raise_offRec]

/-- A sample of a common-domain signal. -/
@[simp] theorem State.recSignal_offRec (s : State) (i : Nat) : (s.recSignal i).offRec = s.offRec := by
  unfold State.recSignal
  simp [apply_ite State.offRec]

/-! ### Who may write a signal (R42) -/

/-- The declared writer of a signal is a pair; a signal of a thread's domain takes its write during the pair's call alone. -/
theorem State.sigMayWrite_spec {s : State} {who : Initiator} {i : Nat} (h : s.sigMayWrite who i = true) :
    ∃ p, s.sigPair who = some p ∧ i < 4064 ∧ fieldOf (s.sigDecl i) 11 0 = p ∧
      (4 ≤ s.sigDomain i ∨ (s.seq (s.sigDomain i)).callPair = some p) := by
  unfold State.sigMayWrite at h
  cases hp : s.sigPair who with
  | none => simp [hp] at h
  | some p =>
    simp only [hp, Bool.and_eq_true, Bool.or_eq_true, decide_eq_true_eq, beq_iff_eq] at h
    obtain ⟨⟨⟨⟨hi, -⟩, -⟩, hw⟩, hc⟩ := h
    exact ⟨p, rfl, hi, hw, hc⟩

/-! ### What a write does -/

section
variable {s : State} {who : Initiator} {i : Nat} {v : Word} {q : Qual}

theorem State.signalWrite_foreign (h : s.sigMayWrite who i = false) : s.signalWrite who i v q = s.raiseCapture R.seqErr 31 R.seqErr 11 0 i := by
  simp [State.signalWrite, h]

/-- Without a force, a thread-domain signal takes the write in its fill copy. -/
theorem State.sigStore_thread (hf : s.sigForce i = none) (hd : s.sigDomain i < 4) : s.sigStore i v q = s.setFill i (some ⟨v, qWritten q⟩) := by
  simp [State.sigStore, hf, hd]

/-- Without a force, the stable copy of a common-domain signal takes the write; the other stable copies stand. -/
theorem State.sigStore_common (hf : s.sigForce i = none) (hd : 4 ≤ s.sigDomain i) :
    (s.sigStore i v q).sig.stable = tabSet (fun _ => SigVal.unwritten) s.sig.stable i ⟨v, qWritten q⟩ := by
  simp [State.sigStore, hf, Nat.not_lt.mpr hd, State.setStable]

/-- The write of a thread-domain signal by its writer. -/
theorem State.signalWrite_thread (h : s.sigMayWrite who i = true) (hf : s.sigForce i = none) (hd : s.sigDomain i < 4) :
    s.signalWrite who i v q = s.setFill i (some ⟨v, qWritten q⟩) := by
  obtain ⟨p, -, hi, -, -⟩ := State.sigMayWrite_spec h
  have hput : s.sigPut i v q = s.setFill i (some ⟨v, qWritten q⟩) := by
    rw [State.sigPut, if_neg (by omega), State.sigStore_thread hf hd]
  have hdom : (s.setFill i (some ⟨v, qWritten q⟩)).sigDomain i < 4 := hd
  rw [State.signalWrite, if_pos h, State.sigWrite, State.sigWriteGo, hput, if_pos (.inr hdom)]

/-- What a write to the table leaves of a signal's domain and pair. -/
theorem State.sigStore_sigDomain (s : State) (i j : Nat) (v : Word) (q : Qual) : (s.sigStore i v q).sigDomain j = s.sigDomain j := by
  unfold State.sigStore
  simp only
  split <;> rfl

theorem State.sigStore_commonPair (s : State) (i j : Nat) (v : Word) (q : Qual) : (s.sigStore i v q).commonPair j = s.commonPair j := by
  simp [State.commonPair, State.pairEn, State.pairThread, State.pairA, State.pairB, State.rdB, State.rdF]

/-- The write of a common-domain signal without a pair by its writer: the table takes it, and the recorder samples it. -/
theorem State.signalWrite_common (h : s.sigMayWrite who i = true) (hd : 4 ≤ s.sigDomain i) (hp : s.commonPair i = none) :
    s.signalWrite who i v q = (s.sigStore i v q).recSignal i := by
  obtain ⟨p, -, hi, -, -⟩ := State.sigMayWrite_spec h
  have hput : s.sigPut i v q = s.sigStore i v q := if_neg (by omega)
  have hdom : ¬ (4095 ≤ i ∨ (s.sigStore i v q).sigDomain i < 4) := by
    rw [State.sigStore_sigDomain]
    omega
  have hpair : ((s.sigStore i v q).recSignal i).commonPair i = none := by
    rw [commonPair_of_offRec (State.recSignal_offRec ..), State.sigStore_commonPair, hp]
  rw [State.signalWrite, if_pos h, State.sigWrite, State.sigWriteGo, hput, if_neg hdom]
  simp only [hpair]

end

/-! ### A flag with its capture -/

section
variable (s : State) (a i hi lo v : Nat)

/-- A flag whose capture field is in its own register touches that register alone. -/
theorem State.raiseCapture_only : OnlyRegs s (s.raiseCapture a i a hi lo v) [a] := by
  unfold State.raiseCapture
  split
  · refine (s.wrF_only a hi lo v).trans (OnlyRegs.trans (y := (s.wrF a hi lo v).markRaised a 0#32 (BitVec.ofNat 32 (2 ^ i))) ?_
      (State.raise_only _ _ _))
    exact ⟨rfl, fun _ _ => rfl⟩
  · exact s.raise_only a i

theorem State.raiseCapture_flag (h : i < 32) : (s.raiseCapture a i a hi lo v).rdB a i = true := by
  unfold State.raiseCapture
  split <;> exact State.rdB_raise _ _ _ h

/-- The first setting since the flag was last clear takes the capture. -/
theorem State.raiseCapture_field (hf : s.rdB a i = false) (h : i < 32) (hh : hi < 32) (hl : lo ≤ hi) (hd : i < lo ∨ hi < i) :
    (s.raiseCapture a i a hi lo v).rdF a hi lo = v % 2 ^ (hi + 1 - lo) := by
  have hc : s.captures a i (decide (v < s.rdF a hi lo)) = true := by simp [State.captures, hf]
  unfold State.raiseCapture
  rw [if_pos hc, State.rdF, State.rd_raise, if_pos rfl, fieldOf_withBit _ _ _ _ _ h (by omega)]
  exact (congrArg (fun w => fieldOf w hi lo) ((s.rd_wrF a a hi lo v).trans (if_pos rfl))).trans (fieldOf_withField _ _ _ _ hh hl)

end

/-! ### The command -/

section
variable {s : State} {t : Nat} {who : Initiator} {i : Fin 4096} {v : Word} {q : Qual}

/-- A foreign write is ignored and flagged. -/
theorem exec_signalWrite_foreign (h : (s.upTo t).sigMayWrite who i = false) :
    ∃ u, exec (.signalWrite t who i v q) s = .next u ∧ (s.upTo t).framed (s.upTo t) u [R.seqErr] ∧
      u.rdB R.seqErr 31 = true ∧ ((s.upTo t).rdB R.seqErr 31 = false → u.rdF R.seqErr 11 0 = i.val) := by
  have honly := (s.upTo t).raiseCapture_only R.seqErr 31 11 0 i
  refine State.run_to (f := fun x => x.signalWrite who i v q) (State.signalWrite_foreign h) honly.state
    ((congrArg State.pending honly.state).trans (s.upTo_pending t)) (fun a ha _ => honly.regs a ha) (fun u hu => ?_)
  have hrd : u.rd R.seqErr = _ := hu R.seqErr (by decide)
  unfold State.rdB State.rdF
  rw [hrd]
  refine ⟨State.raiseCapture_flag _ _ _ _ _ _ (by decide), fun hclear => ?_⟩
  exact (State.raiseCapture_field _ _ _ _ _ _ hclear (by decide) (by decide) (by decide) (by decide)).trans (Nat.mod_eq_of_lt i.isLt)

/-- The write of a thread-domain signal by its writer reaches the fill copy. -/
theorem exec_signalWrite_thread (h : (s.upTo t).sigMayWrite who i = true) (hf : (s.upTo t).sigForce i = none) (hd : (s.upTo t).sigDomain i < 4) :
    ∃ u, exec (.signalWrite t who i v q) s = .next u ∧
      (s.upTo t).framed { s.upTo t with sig := { (s.upTo t).sig with fill := u.sig.fill } } u [] ∧ u.sigFill i = some ⟨v, qWritten q⟩ ∧
      ∀ j : Nat, j ≠ i → u.sigFill j = (s.upTo t).sigFill j := by
  obtain ⟨u, hu, hfr⟩ := State.run_same (f := fun x => x.signalWrite who i v q) (State.signalWrite_thread h hf hd) (s.upTo_pending t)
    (fun a => State.setFill_rd ..)
  have hfill : u.sig.fill = tabSet (fun _ => none) (s.upTo t).sig.fill i (some ⟨v, qWritten q⟩) := by rw [hfr.1]; rfl
  refine ⟨u, hu, by rw [hfill]; exact hfr, ?_, fun j hj => ?_⟩ <;> unfold State.sigFill <;> rw [hfill]
  · exact tabGet_set_same ..
  · exact tabGet_set_ne _ _ _ _ _ hj

/-- The write of a common-domain signal by its writer reaches the stable copy. -/
theorem exec_signalWrite_common (h : (s.upTo t).sigMayWrite who i = true) (hf : (s.upTo t).sigForce i = none) (hd : 4 ≤ (s.upTo t).sigDomain i)
    (hp : (s.upTo t).commonPair i = none) :
    ∃ u, exec (.signalWrite t who i v q) s = .next u ∧ (s.upTo t).pacedAs u ∧ u.sigStable i = ⟨v, qWritten q⟩ ∧
      ∀ j : Nat, j ≠ i → u.sigStable j = (s.upTo t).sigStable j := by
  set x := s.upTo t with hx
  obtain ⟨u, hu, he, -⟩ := State.run_eff (s := s) (t := t) (f := fun x => x.signalWrite who i v q) rfl
  have hsched : (x.signalWrite who i v q).sched = x.sched := State.signalWrite_sched ..
  have hseqs : (x.signalWrite who i v q).seqs = x.seqs := congrArg Sched.seqs hsched
  have hstable : u.sig.stable = tabSet (fun _ => SigVal.unwritten) x.sig.stable i ⟨v, qWritten q⟩ := by
    have hsig : u.sig = (x.signalWrite who i v q).sig := by rw [he]
    rw [hsig, State.signalWrite_common h hd hp, sig_of_offRec (State.recSignal_offRec ..), State.sigStore_common hf hd]
  refine ⟨u, hu, ?_, ?_, fun j hj => ?_⟩
  · exact State.paced_of he (s.upTo_pending t) (congrArg Sched.clk hsched) (fun n => by unfold State.seq; rw [← hseqs]) (congrArg Sched.tap hsched)
      (congrArg Sched.bus hsched) (State.signalWrite_frame ..)
  · unfold State.sigStable
    rw [hstable]
    exact tabGet_set_same ..
  · unfold State.sigStable
    rw [hstable]
    exact tabGet_set_ne _ _ _ _ _ hj

end

/-- Settles O12: the three cases of a write, and what the right to write asks of the initiator. -/
theorem foreignSignalWritesAreIgnored : Obligations.ForeignSignalWritesAreIgnored := by
  intro t who i v q s
  refine ⟨exec_signalWrite_foreign, exec_signalWrite_thread, exec_signalWrite_common, fun h hd => ?_, fun h => ?_⟩
  · obtain ⟨p, hp, -, -, hcall⟩ := State.sigMayWrite_spec h
    exact ⟨p, hp, hcall.resolve_left (by omega)⟩
  · obtain ⟨p, hp, hi, hw, -⟩ := State.sigMayWrite_spec h
    exact ⟨p, hp, hw, hi⟩

end Sys2Proof.Machine
end

section
/-! The grace of the safety oscillator (R31) against a release in the same monitor cycle (R311). -/

namespace Sys2Proof.Machine

/-- The registers of the monitor's forces are not those of the debug forces (R429). -/
theorem smonForce_notForce (n : Fin 4) : R.smonForce n ∉ forceRegs := by fin_cases n <;> decide

/-- The force on a thread after the end of the grace is the one that its effect leaves. -/
theorem forceOf_of_safeOscGrace {s u : State} {t : Nat} (h : exec (.safeOscGrace t) s = .next u) (n : Fin 4) :
    u.forceOf n = ((s.upTo t).safeOscGrace).forceOf n := by
  obtain ⟨u', hu', -, hrd⟩ := State.run_any s t State.safeOscGrace
  have hu : u = u' := Host.Outcome.next.inj (h.symm.trans hu')
  unfold State.forceOf State.rdF
  rw [hu, hrd _ (smonForce_notForce n)]

/-- A state in which the safety oscillator's fault is latched and its grace has passed, while the release of the `ASC` that TM1 had forced on each
thread was granted in the present monitor cycle. -/
def graceInReleaseCycle : State :=
  { State.reset with
    clk := { State.reset.clk with safeOsc := some 0, grace := 0 }
    regs := [(R.cruStatus, 8#32)]
    prot := { State.reset.prot with smon := (List.range 4).map (fun n => (n, { SmonSt.init with rel := some (0, 2, 1) })) } }

/-- The force that comes in the cycle of a release takes the release back: the `ASC` of before stands again (R311). -/
theorem graceInReleaseCycle_forceOf :
    (graceInReleaseCycle.upTo 0).forceOf 0 = 0 ∧ (graceInReleaseCycle.upTo 0).safeOscGrace.forceOf 0 = 2 := by
  decide +kernel

/-- Refutes O13: on a thread without a force whose release from `ASC` was granted in the monitor cycle in which the grace ends, the force of
`SAFE_OSC` takes the release back, so the thread is in `ASC` and not in the `PULSE_BLOCK` that the statement names. -/
theorem not_clockFaultsStopTheSequencers : ¬ Obligations.ClockFaultsStopTheSequencers := by
  intro h
  obtain ⟨-, -, -, -, hgrace, -⟩ := h 0 0 graceInReleaseCycle
  obtain ⟨u, hu, -, hforce⟩ := (hgrace 0 (by decide) rfl).1 (by decide)
  obtain ⟨hbefore, hafter⟩ := graceInReleaseCycle_forceOf
  have hstated : u.forceOf (0 : Fin 4) = max 1 0 := hbefore ▸ (hforce 0 rfl).1
  have hmodel : u.forceOf (0 : Fin 4) = 2 := (forceOf_of_safeOscGrace hu 0).trans hafter
  omega

end Sys2Proof.Machine
end

section
/-! The grant of the engine to a waiting step (R107), and the words in which the model looks for the step that follows it. -/

namespace Sys2Proof.Machine

/-- The sequencers after a grant are those that its effect leaves. -/
theorem seq_of_loopGroupGrant {s u : State} {t corr : Nat} (h : exec (.loopGroupGrant t corr []) s = .next u) (m : Nat) :
    u.seq m = ((s.upTo t).groupGrant corr []).seq m := by
  obtain ⟨u', hu', he, -⟩ := State.run_any s t (fun x => x.groupGrant corr [])
  have hu : u = u' := Host.Outcome.next.inj (h.symm.trans hu')
  unfold State.seq
  rw [hu, he]

/-- A state in which the engine's queue names thread 16, which the device does not have. The words where its program would lie are registers of the
plausibility pairs: its step number lies in `SEQ_PAIR_0_STATUS`, and the step after it in `SEQ_PAIR_8_DIFF`. The one context of the group writes
input A of pair 8, a pair of the common domain. -/
def grantBeyondThreads : State :=
  { State.reset with
    regs := [(R.seqPairStatus 0, 0x500#32), (R.seqPairCfg 8, 0xF0006005#32), (R.ceGroup 0, 0x10000#32), (R.ceParam0 0, 0x80000FFF#32),
      (R.ceParam2 0, 0x50000#32)]
    ce := { State.reset.ce with ctx := [(0, { CtxSt.init with u := 0x10000000 })], queue := [(16, 0)] } }

/-- Thread 16 is the step to be granted, and its `SEQ_PAIR_8_DIFF` spells no `LATCH` before the grant. -/
theorem grantBeyondThreads_before :
    (grantBeyondThreads.upTo 0).ceHead = some (16, 0) ∧ (grantBeyondThreads.upTo 0).groupFirst 16 0 = true ∧
      (grantBeyondThreads.upTo 0).groupTime ((grantBeyondThreads.upTo 0).stepA 16) = 7680 ∧
      (grantBeyondThreads.upTo 0).latchRun 16 ((grantBeyondThreads.upTo 0).seqStepNo 16 + 1) = 0 := by
  decide +kernel

/-- The group's evaluation writes the difference of pair 8, which spells a `LATCH`: the end of the step passes it, 20 ns on. -/
theorem grantBeyondThreads_after :
    ((grantBeyondThreads.upTo 0).groupGrant 0 []).rd (R.seqPairDiff 8) = 0x10000000#32 ∧
      (((grantBeyondThreads.upTo 0).groupGrant 0 []).seq 16).doneAt = 7680 + 640 := by
  decide +kernel

/-- Refutes O9: its last part speaks of every entry of the engine's queue, also of one that names no thread of the device. For thread 16 the
evaluation itself changes what stands where the program would be, so the step ends after a `LATCH` that the state before the grant does not
have. -/
theorem not_unitStepsTakeTheirTime : ¬ Obligations.UnitStepsTakeTheirTime := by
  intro h
  obtain ⟨-, -, hgroup⟩ := h
  obtain ⟨-, -, -, -, hgrant⟩ := hgroup 0 0 0 [] grantBeyondThreads
  obtain ⟨hhead, hfirst, htime, hlatches⟩ := grantBeyondThreads_before
  obtain ⟨u, hu, ⟨-, hseq, -⟩, -⟩ := (hgrant 16 0 hhead).1 (by decide) rfl hfirst
  have hstated : (u.seq 16).doneAt = 7680 := by
    rw [hseq 16, seq_setSeq]
    simp only [htime, hlatches]
    decide
  have hmodel : (u.seq 16).doneAt = 7680 + 640 := by
    rw [seq_of_loopGroupGrant hu, grantBeyondThreads_after.2]
  omega

end Sys2Proof.Machine
end

section
/-! The capture of a bit (R47) against a word for the capture delay that arrives before it. -/

namespace Sys2Proof.Machine

/-- The effects on their way after the delivery of bits that make a stuck stream are those that the captures leave. -/
theorem prot_of_stuck {s u : State} {t : Nat} {i : Fin 112} {bits : List Bool} (h : exec (.stuck t i bits) s = .next u) :
    u.prot = ((s.captureTo i t bits).upTo t).prot := by
  have hrun : exec (.stuck t i bits) s = .next { ((s.captureTo i t bits).upTo t).settle with pending := s.pending } := rfl
  have hu : u = { ((s.captureTo i t bits).upTo t).settle with pending := s.pending } := Host.Outcome.next.inj (h.symm.trans hrun)
  rw [hu]
  exact (congrArg State.prot ((s.captureTo i t bits).upTo t).settle_only.state :)

/-- A state in which chain 5 captures with `STUCK_BITS` 2 and `SAMPLE_DLY` 4 and has had one 1, while a word for its `SDF_CH_5_CAP` is on its way
that makes `SAMPLE_DLY` 5. -/
def capDelayOnItsWay : State :=
  { State.reset.setChain 5 { ChainSt.init with last := some true, run := 1 } with
    regs := [(R.sdfChIn 5, 0x80000000#32), (R.sdfChStatus 5, 1#32), (R.sdfChMon 5, 0x20001#32), (R.sdfChCap 5, 0x40000#32)]
    prot := { State.reset.prot with inb := [(16, .reg (R.sdfChCap 5) 0x50000#32)] } }

/-- The next bit is to be captured at 32; by then the word has arrived, and nothing is on its way. -/
theorem capDelayOnItsWay_upTo :
    capDelayOnItsWay.capAt 5 (capDelayOnItsWay.chain 5).n = 32 ∧ capDelayOnItsWay.capturing 5 = true ∧ (capDelayOnItsWay.upTo 32).prot.inb = [] := by
  decide +kernel

/-- A second 1 completes the run on a chain that is not stuck. -/
theorem capDelayOnItsWay_run :
    ((capDelayOnItsWay.upTo 32).feedBit 5 true).rdF (R.sdfChMon 5) 25 16 ≤ (((capDelayOnItsWay.upTo 32).feedBit 5 true).chain 5).run ∧
      ((capDelayOnItsWay.upTo 32).feedBit 5 true).rdB (R.sdfChStatus 5) 1 = false := by
  decide +kernel

/-- The bit enters at 40, by the delay that has arrived: the chain's source is on its way for 40 + 640. -/
theorem capDelayOnItsWay_captured : ((capDelayOnItsWay.captureTo 5 32 [true]).upTo 32).prot.inb = [(680, .src 229 true)] := by
  decide +kernel

/-- Refutes O16: its first part takes the instant of the capture from the state before the command, also where a word that is on its way changes
the chain's capture delay before that instant. The source of the stuck chain then reaches the protection block 20 ns after the capture by the
new delay, at 680, and not at the 672 that the statement names. (The commands send only the results of the SAR converters on such a way; the
statement speaks of every state, and none of its premises keeps the instant of the capture.) -/
theorem not_streamsAndLevelsAreSupervised : ¬ Obligations.StreamsAndLevelsAreSupervised := by
  intro h
  obtain ⟨hstuck, -, -⟩ := h
  obtain ⟨hcap, hcapturing, hinb⟩ := capDelayOnItsWay_upTo
  obtain ⟨hrun, hclear⟩ := capDelayOnItsWay_run
  have hchain : ((5 : Fin 112) : Nat) = 5 := rfl
  have hnamed := hstuck 5 true capDelayOnItsWay
  simp only [hchain, hcap, hinb] at hnamed
  obtain ⟨u, hu, -, -, -, hsrc⟩ := (hnamed hcapturing (by simp)).1 hrun hclear
  rw [prot_of_stuck hu, hchain, capDelayOnItsWay_captured] at hsrc
  exact absurd hsrc (by decide)

end Sys2Proof.Machine
end

section
/-! The commands of the grid-forming engine and of black start (R163, R164, R177, R187, R192): what each operation does where it is accepted and where
it is refused, and from this the next state of each command. -/

namespace Sys2Proof.Machine

/-! ### The state of an engine and the copy kept for a late period -/

@[simp] theorem gfe_setGfe (x : State) (n : Nat) (v : GfeSt) : (x.setGfe n v).gfe n = v := tabGet_set_same ..

theorem gfe_setGfe_ne (x : State) (n m : Nat) (v : GfeSt) (h : m ≠ n) : (x.setGfe n v).gfe m = x.gfe m := tabGet_set_ne _ _ _ _ _ h

theorem kept_setKept_ne (x : State) (n m : Nat) (v : KeepSt) (h : m ≠ n) : (x.setKept n v).kept m = x.kept m := tabGet_set_ne _ _ _ _ _ h

theorem State.gfe_congr {x u : State} (h : u.gfes = x.gfes) (n : Nat) : u.gfe n = x.gfe n := by
  unfold State.gfe
  rw [h]

@[simp] theorem State.gfe_gfeBoth (x : State) (n : Nat) (f : GfeSt → GfeSt) : (x.gfeBoth n f).gfe n = f (x.gfe n) := gfe_setGfe ..

@[simp] theorem State.gfe_keepField (x : State) (n a hi lo v m : Nat) : (x.keepField n a hi lo v).gfe m = x.gfe m := rfl

@[simp] theorem State.gfe_wrB (x : State) (a i : Nat) (b : Bool) (m : Nat) : (x.wrB a i b).gfe m = x.gfe m := rfl

/-! ### What stays within one engine -/

/-- What a command of engine `n` changes: the states and the parameters of the engines, the copies kept for a late period, and the registers of `as`; no
other engine's state and no other thread's copy. -/
structure OnlyEngine (n : Nat) (x z : State) (as : List Nat) : Prop where
  state : z = { x with gfes := z.gfes, gpar := z.gpar, keep := z.keep, regs := z.regs, raised := z.raised }
  regs : ∀ a, a ∉ as → z.rd a = x.rd a
  others : ∀ m, m ≠ n → z.gfe m = x.gfe m ∧ z.kept m = x.kept m

theorem OnlyEngine.trans {n : Nat} {x y z : State} {as : List Nat} (h : OnlyEngine n x y as) (k : OnlyEngine n y z as) : OnlyEngine n x z as := by
  refine ⟨?_, fun a ha => (k.regs a ha).trans (h.regs a ha), fun m hm => ?_⟩
  · rw [k.state, h.state]
  · exact ⟨(k.others m hm).1.trans (h.others m hm).1, (k.others m hm).2.trans (h.others m hm).2⟩

theorem State.wrB_onlyEngine (s : State) (n a i : Nat) (b : Bool) {as : List Nat} (h : a ∈ as) : OnlyEngine n s (s.wrB a i b) as :=
  ⟨rfl, fun _ hc => State.rd_wr_ne _ _ _ _ (fun e => hc (e ▸ h)), fun _ _ => ⟨rfl, rfl⟩⟩

theorem State.keepField_onlyEngine (s : State) (n a hi lo v : Nat) (as : List Nat) : OnlyEngine n s (s.keepField n a hi lo v) as :=
  ⟨rfl, fun _ _ => rfl, fun _ hm => ⟨rfl, kept_setKept_ne _ _ _ _ hm⟩⟩

theorem State.gfeBoth_onlyEngine (s : State) (n : Nat) (f : GfeSt → GfeSt) (as : List Nat) : OnlyEngine n s (s.gfeBoth n f) as :=
  ⟨rfl, fun _ _ => rfl, fun _ hm => ⟨gfe_setGfe_ne _ _ _ _ hm, kept_setKept_ne _ _ _ _ hm⟩⟩

/-- A flag that a late period does not take back. -/
theorem State.keepRaise_onlyEngine (s : State) (n a i : Nat) : OnlyEngine n s (s.keepRaise n a i) [a] := by
  have hraise : OnlyEngine n s (s.raise a i) [a] := ⟨rfl, (s.raise_only a i).regs, fun _ _ => ⟨rfl, rfl⟩⟩
  exact hraise.trans (State.keepField_onlyEngine ..)

theorem State.keepRaise_rd_same (s : State) (n a i : Nat) : (s.keepRaise n a i).rd a = withBit (s.rd a) i true :=
  (State.keepField_rd ..).trans ((s.rd_raise a a i).trans (if_pos rfl))

/-! ### The registers of the commands -/

theorem gfeCtrl_force (n : Fin 4) : R.gfeCtrl n ∉ forceRegs := by fin_cases n <;> decide

theorem gfeStatus_force (n : Fin 4) : R.gfeStatus n ∉ forceRegs := by fin_cases n <;> decide

theorem gfeBsCtrl_force (n : Fin 4) : R.gfeBsCtrl n ∉ forceRegs := by fin_cases n <;> decide

theorem gfeBsStatus_force (n : Fin 4) : R.gfeBsStatus n ∉ forceRegs := by fin_cases n <;> decide

theorem gfeCtrl_ne_gfeStatus (n : Nat) : R.gfeCtrl n ≠ R.gfeStatus n := by
  unfold R.gfeCtrl R.gfeStatus
  omega

theorem gfeBsCtrl_ne_gfeBsStatus (n : Nat) : R.gfeBsCtrl n ≠ R.gfeBsStatus n := by
  unfold R.gfeBsCtrl R.gfeBsStatus
  omega

/-! ### Start, stop and parameters of an engine (R163, R164, R177) -/

theorem State.gfeCtrlWrite_start (s : State) (n : Nat) : s.gfeCtrlWrite n 1#32 = s.gfeStart n := rfl

theorem State.gfeCtrlWrite_stop (s : State) (n : Nat) : s.gfeCtrlWrite n 2#32 = s.gfeStop n := rfl

theorem State.gfeCtrlWrite_apply (s : State) (n : Nat) : s.gfeCtrlWrite n 4#32 = s.gfeApply n := rfl

theorem State.gfeStart_accepted (s : State) (n : Nat) (he : s.gfeEn n = true) (ho : s.gfeState n = 0) (hr : s.inRun = true) :
    s.gfeStart n = ((s.gfeBoth n (fun g => { g with startAt := some (g.startAt.getD s.clk.now) })).wrB (R.gfeCtrl n) 0 true).keepField n
      (R.gfeCtrl n) 0 0 1 := by
  simp [State.gfeStart, he, ho, hr]

theorem State.gfeStart_refused (s : State) (n : Nat) (he : s.gfeEn n = true) (h : s.gfeState n ≠ 0 ∨ s.inRun = false) :
    s.gfeStart n = s.keepRaise n (R.gfeStatus n) 15 := by
  have hno : ¬(s.gfeState n = 0 ∧ s.inRun = true) := by
    rintro ⟨ho, hr⟩
    rcases h with h | h
    · exact h ho
    · simp [hr] at h
  simp [State.gfeStart, he, hno]

theorem State.gfeStop_enabled (s : State) (n : Nat) (he : s.gfeEn n = true) :
    s.gfeStop n = (((s.gfeBoth n (fun g => { g with startAt := none })).wrB (R.gfeCtrl n) 0 false).wrB (R.gfeCtrl n) 1 true).keepField n
      (R.gfeCtrl n) 1 0 2 := by
  simp [State.gfeStop, he]

/-- An accepted `APPLY` marks itself in `CTRL` and as pending in `STATUS`, in the copy of the thread too. -/
def State.gfeApplyMarks (s : State) (n : Nat) : State :=
  (((s.wrB (R.gfeCtrl n) 2 true).wrB (R.gfeStatus n) 12 true).keepField n (R.gfeStatus n) 12 12 1).keepField n (R.gfeCtrl n) 2 2 1

/-- The engines' parameters with an `APPLY` of engine `n` accepted at the present instant. -/
def State.gfeApplyPar (s : State) (n : Nat) : GfeParSt := { s.gpar with applyAt := tabSet (fun _ => 0) s.gpar.applyAt n s.clk.now }

theorem State.gfeApply_accepted (s : State) (n : Nat) (hp : s.rdB (R.gfeStatus n) 12 = false) (hv : s.gfeValid n = true) :
    s.gfeApply n = { s.gfeApplyMarks n with gpar := s.gfeApplyPar n } := by
  unfold State.gfeApply
  rw [if_neg (by simp [hp]), if_neg (by simp [hv])]
  rfl

theorem State.gfeApply_refused (s : State) (n : Nat) (hp : s.rdB (R.gfeStatus n) 12 = false) (hv : s.gfeValid n = false) :
    s.gfeApply n = s.keepRaise n (R.gfeStatus n) 20 := by
  simp [State.gfeApply, hp, hv]

theorem State.gfeApplyMarks_onlyEngine (s : State) (n : Nat) : OnlyEngine n s (s.gfeApplyMarks n) [R.gfeCtrl n, R.gfeStatus n] :=
  (((s.wrB_onlyEngine n _ 2 true (by simp)).trans (State.wrB_onlyEngine _ n _ 12 true (by simp))).trans
    (State.keepField_onlyEngine ..)).trans (State.keepField_onlyEngine ..)

theorem State.gfeApplyMarks_ctrl (s : State) (n : Nat) : (s.gfeApplyMarks n).rd (R.gfeCtrl n) = withBit (s.rd (R.gfeCtrl n)) 2 true := by
  simp [State.gfeApplyMarks, State.rd_wrB, gfeCtrl_ne_gfeStatus]

theorem State.gfeApplyMarks_status (s : State) (n : Nat) : (s.gfeApplyMarks n).rd (R.gfeStatus n) = withBit (s.rd (R.gfeStatus n)) 12 true := by
  simp [State.gfeApplyMarks, State.rd_wrB, (gfeCtrl_ne_gfeStatus n).symm]

/-! ### Black start (R187, R192) -/

/-- What a black start needs (R187): the procedure at rest, the engine `OFF`, a role, and the device in run state. -/
def State.bsMay (s : State) (n : Nat) : Prop :=
  (s.bsState n = 0 ∨ s.bsState n = 6) ∧ s.gfeState n = 0 ∧ s.rdF (R.gfeBsCfg n) 31 30 ≠ 0 ∧ s.inRun = true

theorem State.bsCtrlWrite_start (s : State) (n : Nat) : s.bsCtrlWrite n 1#32 = s.bsStart n := rfl

theorem State.bsCtrlWrite_abort (s : State) (n : Nat) : s.bsCtrlWrite n 2#32 = s.bsAbort n := rfl

theorem State.bsStart_accepted (s : State) (n : Nat) (h : s.bsMay n) :
    s.bsStart n = ((s.gfeBoth n (fun g => { g with bsStartAt := some (g.bsStartAt.getD s.clk.now) })).wrB (R.gfeBsCtrl n) 0 true).keepField n
      (R.gfeBsCtrl n) 0 0 1 := if_pos h

theorem State.bsStart_refused (s : State) (n : Nat) (h : ¬s.bsMay n) : s.bsStart n = s.keepRaise n (R.gfeBsStatus n) 11 := if_neg h

/-- An event of the supervisor leaves the engines. -/
theorem State.frtEvent_gfes (s : State) (n code : Nat) : (s.frtEvent n code).gfes = s.gfes := by
  unfold State.frtEvent State.postAt State.setIrq
  split <;> rfl

/-- Black start is in the state already, or enters it: the field of its status, and a new state of the engine with the same accepted start. -/
theorem State.bsGo_cases (s : State) (n st : Nat) :
    (s.bsState n = st ∧ s.bsGo n st = s) ∨
    ∃ v : GfeSt, v.bsStartAt = (s.gfe n).bsStartAt ∧ (s.bsGo n st).gfes = (s.setGfe n v).gfes ∧
      ∀ a, (s.bsGo n st).rd a = (s.wrF (R.gfeBsStatus n) 2 0 st).rd a := by
  by_cases h : s.bsState n = st
  · exact .inl ⟨h, if_pos h⟩
  · let v : GfeSt := { s.gfe n with bsT := 0, bsFresh := false, bsRan := false, bsAsk := false }
    let y := (s.setGfe n v).wrF (R.gfeBsStatus n) 2 0 st
    have hgo : s.bsGo n st = if y.rdB (R.gfeFrtCfg n) 31 then y.frtEvent n (0x200 + st) else y := if_neg h
    refine .inr ⟨v, rfl, ?_, fun a => ?_⟩
    · rw [hgo]
      split
      · exact State.frtEvent_gfes ..
      · rfl
    · rw [hgo]
      split
      · exact State.frtEvent_rd ..
      · rfl

theorem State.bsGo_rd_ne (s : State) (n st a : Nat) (h : a ≠ R.gfeBsStatus n) : (s.bsGo n st).rd a = s.rd a := by
  rcases s.bsGo_cases n st with ⟨-, hsame⟩ | ⟨v, -, -, hrd⟩
  · rw [hsame]
  · rw [hrd, State.rd_wrF, if_neg h]

theorem State.bsState_bsGo (s : State) (n st : Nat) (h : st < 8) : (s.bsGo n st).bsState n = st := by
  rcases s.bsGo_cases n st with ⟨hst, hsame⟩ | ⟨v, -, -, hrd⟩
  · rw [hsame, hst]
  · rw [State.bsState, State.rdF, hrd, State.rd_wrF, if_pos rfl, fieldOf_withField _ _ _ _ (by decide) (by decide)]
    exact Nat.mod_eq_of_lt h

theorem State.bsGo_bsStartAt (s : State) (n st : Nat) : ((s.bsGo n st).gfe n).bsStartAt = (s.gfe n).bsStartAt := by
  rcases s.bsGo_cases n st with ⟨-, hsame⟩ | ⟨v, hv, hgfes, -⟩
  · rw [hsame]
  · rw [State.gfe_congr hgfes, gfe_setGfe, hv]

theorem State.bsSet_rd_ne (s : State) (n st a : Nat) (h : a ≠ R.gfeBsStatus n) : (s.bsSet n st).rd a = s.rd a := by
  unfold State.bsSet
  split
  · exact State.keepField_rd ..
  · simp [State.bsGo_rd_ne _ _ _ _ h]

theorem State.bsState_bsSet (s : State) (n st : Nat) (h : st < 8) : (s.bsSet n st).bsState n = st := by
  unfold State.bsSet
  split
  · simpa [State.bsState, State.rdF] using ‹_›
  · simpa [State.bsState, State.rdF] using s.bsState_bsGo n st h

theorem State.bsSet_bsStartAt (s : State) (n st : Nat) : ((s.bsSet n st).gfe n).bsStartAt = (s.gfe n).bsStartAt := by
  unfold State.bsSet
  split
  · rfl
  · simp [State.bsGo_bsStartAt]

theorem State.bsAbort_idle (s : State) (n : Nat) : (s.bsAbort n).bsState n = 0 := State.bsState_bsSet _ n 0 (by decide)

theorem State.bsAbort_bsStartAt (s : State) (n : Nat) : ((s.bsAbort n).gfe n).bsStartAt = none := by
  simp [State.bsAbort, State.bsSet_bsStartAt]

theorem State.bsAbort_ctrl (s : State) (n : Nat) : (s.bsAbort n).rdB (R.gfeBsCtrl n) 0 = false := by
  simp [State.bsAbort, State.rdB, State.bsSet_rd_ne _ _ _ _ (gfeBsCtrl_ne_gfeBsStatus n), State.rd_wrB]

/-! ### The commands -/

section
variable {s : State} {t : Nat} {n : Fin 4} {who : Initiator}

/-- The run of a command whose effect stays within engine `n`, where the bus answers `b`. -/
theorem State.run_engine {f : State → State} {z : State} {as : List Nat} {b : BusAns} (e : f (s.upTo t) = { z with bus := b })
    (hz : OnlyEngine n (s.upTo t) z as) :
    ∃ u, s.run t f = .next u ∧
      (s.upTo t).framed { s.upTo t with gfes := u.gfes, gpar := u.gpar, keep := u.keep, bus := b } u as ∧
      (∀ m : Fin 4, m ≠ n → u.gfe m = (s.upTo t).gfe m ∧ u.kept m = (s.upTo t).kept m) ∧
      u.gfes = z.gfes ∧ u.gpar = z.gpar ∧ ∀ a, a ∉ forceRegs → u.rd a = z.rd a := by
  have hy : ({ z with bus := b } : State) = { ({ s.upTo t with gfes := z.gfes, gpar := z.gpar, keep := z.keep, bus := b } : State) with
      regs := z.regs, raised := z.raised } := congrArg (fun w : State => { w with bus := b }) hz.state
  obtain ⟨u, hu, hfr, hrd⟩ := State.run_to (P := fun u => ∀ a, a ∉ forceRegs → u.rd a = z.rd a) e hy
    ((congrArg State.pending hz.state).trans (s.upTo_pending t)) (fun a ha _ => hz.regs a ha) (fun _ h => h)
  have hgfes : u.gfes = z.gfes := by rw [hfr.1]
  have hgpar : u.gpar = z.gpar := by rw [hfr.1]
  have hkeep : u.keep = z.keep := by rw [hfr.1]
  refine ⟨u, hu, by rw [hgfes, hgpar, hkeep]; exact hfr, fun m hm => ?_, hgfes, hgpar, hrd⟩
  rw [State.gfe, State.kept, hgfes, hkeep]
  exact hz.others m (Fin.val_ne_of_ne hm)

/-- The run of a command that is refused with a flag which a late period does not take back: no engine changes. -/
theorem State.run_keepRaise {f : State → State} {a i : Nat} {b : BusAns} (e : f (s.upTo t) = { (s.upTo t).keepRaise n a i with bus := b })
    (ha : a ∉ forceRegs) :
    let x := s.upTo t
    ∃ u, s.run t f = .next u ∧ x.framed { x with keep := u.keep, bus := b } u [a] ∧
      (∀ m : Fin 4, m ≠ n → u.gfe m = x.gfe m ∧ u.kept m = x.kept m) ∧ u.gfes = x.gfes ∧ u.rd a = withBit (x.rd a) i true := by
  intro x
  obtain ⟨u, hu, hfr, hothers, hgfes, hgpar, hrd⟩ := State.run_engine e (x.keepRaise_onlyEngine n a i)
  rw [hgfes, hgpar] at hfr
  exact ⟨u, hu, hfr, hothers, hgfes, (hrd a ha).trans (State.keepRaise_rd_same ..)⟩

/-- `u` is `x` but for engine `n` with its copy, the bus answer and the registers of `as`. -/
def State.engineFramed (x u : State) (n : Fin 4) (as : List Nat) : Prop :=
  x.framed { x with gfes := u.gfes, keep := u.keep, bus := .ok 0#64 } u as ∧ ∀ m : Fin 4, m ≠ n → u.gfe m = x.gfe m ∧ u.kept m = x.kept m

/-- A refused command stays within the frame of one that changes the engine. -/
theorem State.framed.engine {x u : State} {as : List Nat} (h : x.framed { x with keep := u.keep, bus := .ok 0#64 } u as)
    (hgfes : u.gfes = x.gfes) (hothers : ∀ m : Fin 4, m ≠ n → u.gfe m = x.gfe m ∧ u.kept m = x.kept m) : x.engineFramed u n as := by
  refine ⟨?_, hothers⟩
  rw [hgfes]
  exact h

/-- A write of `START` to an enabled engine in `OFF` in run state (R163). -/
theorem exec_gfeStart_accepted (he : (s.upTo t).gfeEn n = true) (h : (s.upTo t).reaches who (R.gfeCtrl n) 1#32 = true)
    (ho : (s.upTo t).gfeState n = 0) (hr : (s.upTo t).inRun = true) :
    let x := s.upTo t
    ∃ u, exec (.gfeStart t who n) s = .next u ∧ x.engineFramed u n [R.gfeCtrl n] ∧
      u.gfe n = { x.gfe n with startAt := some ((x.gfe n).startAt.getD x.clk.now) } ∧
      u.rd (R.gfeCtrl n) = withBit (x.rd (R.gfeCtrl n)) 0 true := by
  intro x
  have hw : x.busWord who (R.gfeCtrl n) 1#32 = { x.gfeStart n with bus := .ok 0#64 } := by
    rw [State.busWord_gfeCtrl _ _ _ _ h, State.gfeCtrlWrite_start]
  rw [State.gfeStart_accepted x n he ho hr] at hw
  obtain ⟨u, hu, hfr, hothers, hgfes, hgpar, hrd⟩ := State.run_engine (f := fun x => x.busWord who (R.gfeCtrl n) 1#32) hw
    (((State.gfeBoth_onlyEngine x n _ [R.gfeCtrl n]).trans (State.wrB_onlyEngine _ n _ 0 true (by simp))).trans (State.keepField_onlyEngine ..))
  rw [hgpar] at hfr
  refine ⟨u, hu, ⟨hfr, hothers⟩, ?_, ?_⟩
  · rw [State.gfe_congr hgfes]
    simp
  · rw [hrd _ (gfeCtrl_force n)]
    simp [State.rd_wrB]

/-- A write of `START` to an enabled engine that is not in `OFF`, or outside run state (R163). -/
theorem exec_gfeStart_refused (he : (s.upTo t).gfeEn n = true) (h : (s.upTo t).reaches who (R.gfeCtrl n) 1#32 = true)
    (hno : (s.upTo t).gfeState n ≠ 0 ∨ (s.upTo t).inRun = false) :
    let x := s.upTo t
    ∃ u, exec (.gfeStart t who n) s = .next u ∧ x.engineFramed u n [R.gfeStatus n] ∧
      u.rd (R.gfeStatus n) = withBit (x.rd (R.gfeStatus n)) 15 true := by
  intro x
  have hw : x.busWord who (R.gfeCtrl n) 1#32 = { x.keepRaise n (R.gfeStatus n) 15 with bus := .ok 0#64 } := by
    rw [State.busWord_gfeCtrl _ _ _ _ h, State.gfeCtrlWrite_start, State.gfeStart_refused x n he hno]
  obtain ⟨u, hu, hfr, hothers, hgfes, hrd⟩ := State.run_keepRaise (f := fun x => x.busWord who (R.gfeCtrl n) 1#32) hw (gfeStatus_force n)
  exact ⟨u, hu, hfr.engine hgfes hothers, hrd⟩

/-- A write of `STOP` to an enabled engine (R164). -/
theorem exec_gfeStop (he : (s.upTo t).gfeEn n = true) (h : (s.upTo t).reaches who (R.gfeCtrl n) 2#32 = true) :
    let x := s.upTo t
    ∃ u, exec (.gfeStop t who n) s = .next u ∧ x.engineFramed u n [R.gfeCtrl n] ∧ u.gfe n = { x.gfe n with startAt := none } ∧
      u.rd (R.gfeCtrl n) = withBit (withBit (x.rd (R.gfeCtrl n)) 0 false) 1 true := by
  intro x
  have hw : x.busWord who (R.gfeCtrl n) 2#32 = { x.gfeStop n with bus := .ok 0#64 } := by
    rw [State.busWord_gfeCtrl _ _ _ _ h, State.gfeCtrlWrite_stop]
  rw [State.gfeStop_enabled x n he] at hw
  obtain ⟨u, hu, hfr, hothers, hgfes, hgpar, hrd⟩ := State.run_engine (f := fun x => x.busWord who (R.gfeCtrl n) 2#32) hw
    ((((State.gfeBoth_onlyEngine x n _ [R.gfeCtrl n]).trans (State.wrB_onlyEngine _ n _ 0 false (by simp))).trans
      (State.wrB_onlyEngine _ n _ 1 true (by simp))).trans (State.keepField_onlyEngine ..))
  rw [hgpar] at hfr
  refine ⟨u, hu, ⟨hfr, hothers⟩, ?_, ?_⟩
  · rw [State.gfe_congr hgfes]
    simp
  · rw [hrd _ (gfeCtrl_force n)]
    simp [State.rd_wrB]

/-- A write of `APPLY` with valid parameters while none waits (R177). -/
theorem exec_gfeApply_accepted (h : (s.upTo t).reaches who (R.gfeCtrl n) 4#32 = true) (hp : (s.upTo t).rdB (R.gfeStatus n) 12 = false)
    (hv : (s.upTo t).gfeValid n = true) :
    let x := s.upTo t
    ∃ u, exec (.gfeApply t who n) s = .next u ∧
      x.framed { x with keep := u.keep, gpar := { x.gpar with applyAt := u.gpar.applyAt }, bus := .ok 0#64 } u [R.gfeCtrl n, R.gfeStatus n] ∧
      u.rd (R.gfeCtrl n) = withBit (x.rd (R.gfeCtrl n)) 2 true ∧ u.rd (R.gfeStatus n) = withBit (x.rd (R.gfeStatus n)) 12 true ∧
      tabGet (fun _ => 0) u.gpar.applyAt n = x.clk.now := by
  intro x
  have hw : x.busWord who (R.gfeCtrl n) 4#32 = { ({ x.gfeApplyMarks n with gpar := x.gfeApplyPar n } : State) with bus := .ok 0#64 } := by
    rw [State.busWord_gfeCtrl _ _ _ _ h, State.gfeCtrlWrite_apply, State.gfeApply_accepted x n hp hv]
  have hmarks := x.gfeApplyMarks_onlyEngine n
  have hz : OnlyEngine n x { x.gfeApplyMarks n with gpar := x.gfeApplyPar n } [R.gfeCtrl n, R.gfeStatus n] :=
    ⟨congrArg (fun w : State => { w with gpar := x.gfeApplyPar n }) hmarks.state, hmarks.regs, hmarks.others⟩
  obtain ⟨u, hu, hfr, -, hgfes, hgpar, hrd⟩ := State.run_engine (f := fun x => x.busWord who (R.gfeCtrl n) 4#32) hw hz
  refine ⟨u, hu, ?_, ?_, ?_, ?_⟩
  · rw [hgfes, hgpar] at hfr
    rw [hgpar]
    exact hfr
  · exact (hrd _ (gfeCtrl_force n)).trans (x.gfeApplyMarks_ctrl n)
  · exact (hrd _ (gfeStatus_force n)).trans (x.gfeApplyMarks_status n)
  · rw [hgpar]
    exact tabGet_set_same ..

/-- A write of `APPLY` with invalid parameters while none waits (R177). -/
theorem exec_gfeApply_refused (h : (s.upTo t).reaches who (R.gfeCtrl n) 4#32 = true) (hp : (s.upTo t).rdB (R.gfeStatus n) 12 = false)
    (hv : (s.upTo t).gfeValid n = false) :
    let x := s.upTo t
    ∃ u, exec (.gfeApply t who n) s = .next u ∧ x.engineFramed u n [R.gfeStatus n] ∧
      u.rd (R.gfeStatus n) = withBit (x.rd (R.gfeStatus n)) 20 true := by
  intro x
  have hw : x.busWord who (R.gfeCtrl n) 4#32 = { x.keepRaise n (R.gfeStatus n) 20 with bus := .ok 0#64 } := by
    rw [State.busWord_gfeCtrl _ _ _ _ h, State.gfeCtrlWrite_apply, State.gfeApply_refused x n hp hv]
  obtain ⟨u, hu, hfr, hothers, hgfes, hrd⟩ := State.run_keepRaise (f := fun x => x.busWord who (R.gfeCtrl n) 4#32) hw (gfeStatus_force n)
  exact ⟨u, hu, hfr.engine hgfes hothers, hrd⟩

/-- A write of `BS_START` that is accepted (R187). -/
theorem exec_bsStart_accepted (h : (s.upTo t).reaches who (R.gfeBsCtrl n) 1#32 = true) (hmay : (s.upTo t).bsMay n) :
    let x := s.upTo t
    ∃ u, exec (.bsStart t who n) s = .next u ∧ x.engineFramed u n [R.gfeBsCtrl n] ∧
      u.gfe n = { x.gfe n with bsStartAt := some ((x.gfe n).bsStartAt.getD x.clk.now) } ∧
      u.rd (R.gfeBsCtrl n) = withBit (x.rd (R.gfeBsCtrl n)) 0 true := by
  intro x
  have hw : x.busWord who (R.gfeBsCtrl n) 1#32 = { x.bsStart n with bus := .ok 0#64 } := by
    rw [State.busWord_gfeBsCtrl _ _ _ _ h, State.bsCtrlWrite_start]
  rw [State.bsStart_accepted x n hmay] at hw
  obtain ⟨u, hu, hfr, hothers, hgfes, hgpar, hrd⟩ := State.run_engine (f := fun x => x.busWord who (R.gfeBsCtrl n) 1#32) hw
    (((State.gfeBoth_onlyEngine x n _ [R.gfeBsCtrl n]).trans (State.wrB_onlyEngine _ n _ 0 true (by simp))).trans
      (State.keepField_onlyEngine ..))
  rw [hgpar] at hfr
  refine ⟨u, hu, ⟨hfr, hothers⟩, ?_, ?_⟩
  · rw [State.gfe_congr hgfes]
    simp
  · rw [hrd _ (gfeBsCtrl_force n)]
    simp [State.rd_wrB]

/-- A write of `BS_START` that is refused (R187). -/
theorem exec_bsStart_refused (h : (s.upTo t).reaches who (R.gfeBsCtrl n) 1#32 = true) (hno : ¬(s.upTo t).bsMay n) :
    let x := s.upTo t
    ∃ u, exec (.bsStart t who n) s = .next u ∧ x.framed { x with keep := u.keep, bus := .ok 0#64 } u [R.gfeBsStatus n] ∧
      u.rd (R.gfeBsStatus n) = withBit (x.rd (R.gfeBsStatus n)) 11 true ∧ ∀ m : Fin 4, m ≠ n → u.kept m = x.kept m := by
  intro x
  have hw : x.busWord who (R.gfeBsCtrl n) 1#32 = { x.keepRaise n (R.gfeBsStatus n) 11 with bus := .ok 0#64 } := by
    rw [State.busWord_gfeBsCtrl _ _ _ _ h, State.bsCtrlWrite_start, State.bsStart_refused x n hno]
  obtain ⟨u, hu, hfr, hothers, -, hrd⟩ := State.run_keepRaise (f := fun x => x.busWord who (R.gfeBsCtrl n) 1#32) hw (gfeBsStatus_force n)
  exact ⟨u, hu, hfr, hrd, fun m hm => (hothers m hm).2⟩

/-- A write of `BS_ABORT` (R192). -/
theorem exec_bsAbort (h : (s.upTo t).reaches who (R.gfeBsCtrl n) 2#32 = true) :
    let x := s.upTo t
    ∃ u, exec (.bsAbort t who n) s = .next u ∧ ({ x with bus := .ok 0#64 } : State).pacedAs u ∧ u.bsState n = 0 ∧
      (u.gfe n).bsStartAt = none ∧ u.rdB (R.gfeBsCtrl n) 0 = false := by
  intro x
  have hw : x.busWord who (R.gfeBsCtrl n) 2#32 = { x.bsAbort n with bus := .ok 0#64 } := by
    rw [State.busWord_gfeBsCtrl _ _ _ _ h, State.bsCtrlWrite_abort]
  have hsched := x.bsAbort_sched n
  obtain ⟨u, hu, heq, hrd⟩ := State.run_eff (f := fun x => x.busWord who (R.gfeBsCtrl n) 2#32) hw
  have hseqs : (x.bsAbort n).seqs = x.seqs := congrArg Sched.seqs hsched
  refine ⟨u, hu, State.paced_of heq (s.upTo_pending t) (congrArg Sched.clk hsched) (fun m => ?_) (congrArg Sched.tap hsched) rfl
    (x.bsAbort_frame n), ?_, ?_, ?_⟩
  · exact congrArg (fun q => tabGet (fun _ => SeqSt.init) q m) hseqs
  · rw [State.bsState, State.rdF, hrd _ (gfeBsStatus_force n)]
    exact x.bsAbort_idle n
  · have hgfes : u.gfes = (x.bsAbort n).gfes := by rw [heq]
    rw [State.gfe_congr hgfes, x.bsAbort_bsStartAt]
  · rw [State.rdB, hrd _ (gfeBsCtrl_force n)]
    exact x.bsAbort_ctrl n

end

/-- Settles O20: each command is the write of its bit run at its instant, in the case that the premises name. -/
theorem gridFormingAndBlackStart : Obligations.GridFormingAndBlackStart := by
  refine ⟨fun t who n s => ⟨fun he h => ⟨?_, ?_⟩, ?_, fun h hp => ⟨?_, ?_⟩⟩, fun t who n s => ⟨fun h => ⟨fun hmay => ?_, ?_⟩, ?_⟩⟩
  · exact exec_gfeStart_accepted he h
  · exact exec_gfeStart_refused he h
  · exact exec_gfeStop
  · exact exec_gfeApply_accepted h hp
  · exact exec_gfeApply_refused h hp
  · obtain ⟨u, hu, ⟨hfr, hothers⟩, hgfe, hrd⟩ := exec_bsStart_accepted h hmay
    exact ⟨u, hu, hfr, hgfe, hothers, hrd⟩
  · exact exec_bsStart_refused h
  · exact exec_bsAbort

end Sys2Proof.Machine
end

section
/-! The commands of the Sound modem (R198-R209): what each operation of the modem does in each of its cases, and from this the next state of each
command. -/

namespace Sys2Proof.Machine

/-! ### Effects on the registers -/

/-- A command whose effect is `y`, which has the registers of the state at its instant, with registers of `as` changed. -/
theorem State.run_onlyRegs {s y z : State} {t : Nat} {f : State → State} {as : List Nat} (e : f (s.upTo t) = z) (h : OnlyRegs y z as)
    (hp : y.pending = s.pending) (hy : ∀ a, y.rd a = (s.upTo t).rd a) :
    ∃ u, s.run t f = .next u ∧ (s.upTo t).framed y u as ∧ ∀ a, a ∉ forceRegs → u.rd a = z.rd a :=
  State.run_to (P := fun u => ∀ a, a ∉ forceRegs → u.rd a = z.rd a) e h.state ((congrArg State.pending h.state).trans hp)
    (fun a ha _ => (h.regs a ha).trans (hy a)) (fun _ hu => hu)

/-- An event of the modem after a change of registers. -/
theorem OnlyRegs.sndEvent {y z : State} {as : List Nat} (h : OnlyRegs y z as) (code : Nat) :
    OnlyRegs { y with evs := (z.sndEvent code).evs, irq := (z.sndEvent code).irq } (z.sndEvent code) as := by
  refine ⟨?_, fun a ha => (State.sndEvent_rd ..).trans (h.regs a ha)⟩
  have hpost : z.sndEvent code = { z with evs := (z.sndEvent code).evs, irq := (z.sndEvent code).irq } := z.post_eq 46 code
  have hregs : (z.sndEvent code).regs = z.regs := by rw [hpost]
  have hraised : (z.sndEvent code).raised = z.raised := by rw [hpost]
  rw [hregs, hraised]
  exact hpost.trans (congrArg (fun w : State => { w with evs := (z.sndEvent code).evs, irq := (z.sndEvent code).irq }) h.state)

theorem State.countUp_only (s : State) (a hi lo n : Nat) : OnlyRegs s (s.countUp a hi lo n) [a] := s.wrF_only a hi lo _

/-- A counter takes its increase and stops at its greatest value. -/
theorem State.rdF_countUp (s : State) (a hi lo n : Nat) (h : hi < 32) (hl : lo ≤ hi) :
    (s.countUp a hi lo n).rdF a hi lo = min (2 ^ (hi + 1 - lo) - 1) (s.rdF a hi lo + n) := by
  have hpos := Nat.two_pow_pos (hi + 1 - lo)
  rw [State.rdF, State.rd_countUp, if_pos rfl, fieldOf_withField _ _ _ _ h hl]
  exact Nat.mod_eq_of_lt (by omega)

/-- A command whose effect is that a counter increases by one. -/
theorem State.run_countUp {s : State} {t : Nat} {f : State → State} {a hi lo : Nat} (e : f (s.upTo t) = (s.upTo t).countUp a hi lo 1)
    (ha : a ∉ forceRegs) (h : hi < 32) (hl : lo ≤ hi) :
    ∃ u, s.run t f = .next u ∧ (s.upTo t).framed (s.upTo t) u [a] ∧
      u.rdF a hi lo = min (2 ^ (hi + 1 - lo) - 1) ((s.upTo t).rdF a hi lo + 1) := by
  obtain ⟨u, hu, hfr, hrd⟩ := State.run_onlyRegs e ((s.upTo t).countUp_only a hi lo 1) (s.upTo_pending t) (fun _ => rfl)
  refine ⟨u, hu, hfr, ?_⟩
  rw [State.rdF, hrd a ha]
  exact (s.upTo t).rdF_countUp a hi lo 1 h hl

/-! A state that agrees with `y` but for registers has its modem, its kept copies and its events. -/

theorem State.framed.snd_eq {x y u : State} {as : List Nat} (h : x.framed y u as) : u.snd = y.snd := by rw [h.1]

theorem State.framed.keep_eq {x y u : State} {as : List Nat} (h : x.framed y u as) : u.keep = y.keep := by rw [h.1]

theorem State.framed.evs_eq {x y u : State} {as : List Nat} (h : x.framed y u as) : u.evs = y.evs := by rw [h.1]

theorem State.framed.irq_eq {x y u : State} {as : List Nat} (h : x.framed y u as) : u.irq = y.irq := by rw [h.1]

/-! ### Software frames and the receive FIFO (R203, R206) -/

/-- What a software frame needs (R203). -/
def State.txMay (s : State) : Prop :=
  s.rdB R.sndStatus 8 = false ∧ s.rdB R.sndCfg 30 = true ∧ s.sndEn = true ∧
    (s.rdF R.sndTxType 3 0 = 2 ∨ s.rdF R.sndTxType 3 0 = 3 ∨ s.rdF R.sndTxType 3 0 = 14)

/-- The software frame that the registers describe: a `SHIFT` with its copies, another type once. -/
def State.txNext (s : State) : SwFrame :=
  ⟨s.rdF R.sndTxType 3 0, s.rdN R.sndTxPayload, if s.rdF R.sndTxType 3 0 = 2 then max 1 (s.rdF R.sndTiming 2 0) else 1, 0⟩

theorem State.sndCtrlWrite_send (s : State) : s.sndCtrlWrite 1#32 = s.txSend := rfl

theorem State.sndCtrlWrite_pop (s : State) : s.sndCtrlWrite 2#32 = s.sndPop := rfl

/-- The guard of the command says the same. -/
theorem State.txMay_iff (s : State) : s.txMay ↔
    ¬(s.rdB R.sndStatus 8 || !s.rdB R.sndCfg 30 || !s.sndEn ||
      !(s.rdF R.sndTxType 3 0 == 2 || s.rdF R.sndTxType 3 0 == 3 || s.rdF R.sndTxType 3 0 == 14)) = true := by
  simp [State.txMay, or_iff_not_imp_left]

theorem State.txSend_accepted (s : State) (h : s.txMay) :
    s.txSend = (s.txBoth (fun x => { x with sw := some s.txNext })).wrB R.sndStatus 8 true := if_neg (s.txMay_iff.mp h)

theorem State.txSend_refused (s : State) (h : ¬s.txMay) : s.txSend = s.raise R.sndStatus 12 :=
  if_pos (not_not.mp fun hno => h (s.txMay_iff.mpr hno))

theorem State.sndPop_eq (s : State) : s.sndPop = s.setSnd { s.snd with
    fifo := if s.snd.got = some (s.cycleOf R.sndCtrl) then s.snd.fifo else s.snd.fifo.drop 1, got := none } := by
  unfold State.sndPop
  split <;> rfl

/-! ### The frame on the line (R200, R203) -/

/-- The frame that starts at chip boundary `k` becomes live. -/
def SndTx.goLive (k : Nat) (x : SndTx) : SndTx :=
  { x with frame := x.frame.map (fun g => if g.startK = some k then { g with live := true } else g) }

theorem SndTx.goLive_of_frame {x : SndTx} {f : TxFrame} {k : Nat} (hf : x.frame = some f) (hk : f.startK = some k) :
    x.goLive k = { x with frame := some { f with live := true } } := by
  simp [SndTx.goLive, hf, hk]

/-- Frame `f` has begun on the line: `TX_ACTIVE`, and `CLAIM_TX` beside it for a frame of the device's own. -/
def State.frameLive (s : State) (f : TxFrame) (k : Nat) : State :=
  let z := (s.txBoth (SndTx.goLive k)).wrB R.sndStatus 6 true
  if f.sw then z else z.wrB R.sndStatus 7 true

theorem State.frameLive_only (s : State) (f : TxFrame) (k : Nat) : OnlyRegs (s.txBoth (SndTx.goLive k)) (s.frameLive f k) [R.sndStatus] := by
  unfold State.frameLive
  dsimp only
  split
  · exact State.wrB_only ..
  · exact (State.wrB_only _ R.sndStatus 6 true).trans (State.wrB_only ..)

theorem State.frameLive_active (s : State) (f : TxFrame) (k : Nat) : (s.frameLive f k).rdB R.sndStatus 6 = true := by
  unfold State.frameLive
  dsimp only
  split <;> simp [State.rdB, State.rd_wrB, bitOf_withBit]

/-- The frame that started at chip boundary `k` leaves the transmitter, and the silence after it begins. -/
def SndTx.ended (k : Nat) (x : SndTx) : SndTx := { x with frame := none, lastSw := false, freeK := k + frameChips + gapChips }

/-- A frame of the device's own is off the line and counted sent. -/
def State.frameDone (s : State) (k : Nat) : State :=
  (((s.txBoth (SndTx.ended k)).wrB R.sndStatus 6 false).wrB R.sndStatus 7 false).countUp R.sndCount0 31 16 1

theorem State.frameDone_only (s : State) (k : Nat) : OnlyRegs (s.txBoth (SndTx.ended k)) (s.frameDone k) [R.sndStatus, R.sndCount0] :=
  (((State.wrB_only _ R.sndStatus 6 false).trans (State.wrB_only _ R.sndStatus 7 false)).mono (by simp)).trans
    ((State.countUp_only _ R.sndCount0 31 16 1).mono (by simp))

theorem State.frameDone_status (s : State) (k : Nat) : (s.frameDone k).rd R.sndStatus = withBit (withBit (s.rd R.sndStatus) 6 false) 7 false := by
  rw [State.frameDone, State.rd_countUp, if_neg (by decide)]
  simp [State.rd_wrB]

theorem State.frameDone_count (s : State) (k : Nat) :
    (s.frameDone k).rdF R.sndCount0 31 16 = min 65535 (s.rdF R.sndCount0 31 16 + 1) := by
  have hkept (z : State) (i : Nat) (b : Bool) : (z.wrB R.sndStatus i b).rdF R.sndCount0 31 16 = z.rdF R.sndCount0 31 16 := by
    rw [State.rdF, State.rd_wrB, if_neg (by decide)]
    rfl
  rw [State.frameDone, State.rdF_countUp _ _ _ _ _ (by decide) (by decide), hkept, hkept]
  rfl

section
variable {s : State} {f : TxFrame} {k : Nat}

theorem State.frameStart_due (hf : s.snd.tx.frame = some f) (hk : f.startK = some k) (hl : f.live = false) (hc : chipAt k ≤ s.tb) :
    s.frameStart = s.frameLive f k := by
  unfold State.frameStart
  simp only [hf, hk]
  exact if_pos (by simp [hl, hc])

theorem State.frameStart_idle (hf : s.snd.tx.frame = some f) (hk : f.startK = some k) (h : f.live = true ∨ s.tb < chipAt k) :
    s.frameStart = s := by
  unfold State.frameStart
  simp only [hf, hk]
  refine if_neg ?_
  rcases h with h | h <;> simp [h]

/-- The end of a frame of the device's own, which has no set-points and no further copy. -/
theorem State.frameEnd_due (hf : s.snd.tx.frame = some f) (hk : f.startK = some k) (hc : chipAt (k + frameChips) ≤ s.tb) (hsw : f.sw = false) :
    s.frameEnd = (s.frameDone k).sndEvent (0x100 + f.ty) := by
  unfold State.frameEnd
  simp only [hf, hk, hsw]
  exact if_pos hc

theorem State.frameEnd_idle (hf : s.snd.tx.frame = some f) (hk : f.startK = some k) (hc : s.tb < chipAt (k + frameChips)) : s.frameEnd = s := by
  unfold State.frameEnd
  simp only [hf, hk]
  exact if_neg (by omega)

end

/-! ### Reception (R198, R206) -/

/-- Whether a correlator delivers: it is on and has a code of the family, and the delivery is in time (R198, R205; log 92). -/
def State.sndHears (s : State) (c e est : Nat) : Prop :=
  s.sndEn = true ∧ s.rdB (R.sndCorr c) 31 = true ∧ s.rdF (R.sndCorr c) 5 0 ≤ 62 ∧ s.inTime e est = true

/-- The check of R201 fits the frame. -/
def sndFits (sender ty payload crc : Nat) : Prop := sndCrc (bitsMsb 12 sender ++ bitsMsb 4 ty ++ bitsMsb 32 payload) = crc

/-- A received frame with its time stamp (Table 10.4). -/
def State.sndRx (s : State) (c sender ty payload est : Nat) : SndRx :=
  let nt := s.ntOf s.sndThread (s.tbOf est)
  ⟨sender, ty, c, payload, ntSec nt, ntNs nt⟩

/-- A frame joins a FIFO that has a free entry. -/
def State.sndQueue (s : State) (r : SndRx) : State :=
  s.setSnd { s.snd with fifo := s.snd.fifo ++ [r], got := if s.snd.fifo.isEmpty then some (s.cycleOf R.sndCtrl) else s.snd.got }

section
variable {s : State} {c sender ty payload crc e est : Nat}

theorem State.sndReceive_deaf (h : s.sndEn = false ∨ s.rdB (R.sndCorr c) 31 = false ∨ s.inTime e est = false) :
    s.sndReceive c sender ty payload crc e est = s := by
  unfold State.sndReceive
  refine if_pos ?_
  rcases h with h | h | h <;> simp [h]

theorem State.sndHears.gate (h : s.sndHears c e est) :
    ¬(!s.sndEn || !s.rdB (R.sndCorr c) 31 || decide (62 < s.rdF (R.sndCorr c) 5 0) || !s.inTime e est) = true := by
  obtain ⟨hen, hon, hcode, htime⟩ := h
  simp [hen, hon, hcode, htime]

theorem sndFits.gate (h : sndFits sender ty payload crc) : ¬sndCrc (bitsMsb 12 sender ++ bitsMsb 4 ty ++ bitsMsb 32 payload) ≠ crc :=
  not_not.mpr h

theorem State.sndReceive_unfit (h : s.sndHears c e est) (hf : ¬sndFits sender ty payload crc) :
    s.sndReceive c sender ty payload crc e est = s.countUp R.sndCount1 31 24 1 := by
  unfold State.sndReceive
  rw [if_neg h.gate]
  exact if_pos hf

theorem State.sndReceive_unusable (h : s.sndHears c e est) (hf : sndFits sender ty payload crc) (hb : s.spanBad est = true) :
    s.sndReceive c sender ty payload crc e est = s.countUp R.sndCount2 31 24 1 := by
  unfold State.sndReceive
  rw [if_neg h.gate, if_neg hf.gate]
  exact if_pos hb

theorem State.sndReceive_own (h : s.sndHears c e est) (hf : sndFits sender ty payload crc) (hb : s.spanBad est = false)
    (ho : sender = s.rdF R.sndId 11 0) : s.sndReceive c sender ty payload crc e est = s.countUp R.sndCount1 23 16 1 := by
  unfold State.sndReceive
  rw [if_neg h.gate, if_neg hf.gate, if_neg (Bool.not_eq_true _ ▸ hb)]
  exact if_pos ho

/-- A frame of another device that is no claim and carries no set-point. -/
theorem State.sndReceive_queued (h : s.sndHears c e est) (hf : sndFits sender ty payload crc) (hb : s.spanBad est = false)
    (ho : sender ≠ s.rdF R.sndId 11 0) (hfree : s.snd.fifo.length < 32) (h1 : ty ≠ 1) (h2 : ty ≠ 2) (h3 : ty ≠ 3) :
    s.sndReceive c sender ty payload crc e est =
      ((s.countUp R.sndCount0 15 0 1).sndQueue (s.sndRx c sender ty payload est)).sndEvent (0x300 + ty) := by
  have hfree' : (s.countUp R.sndCount0 15 0 1).snd.fifo.length < 32 := hfree
  unfold State.sndReceive
  rw [if_neg h.gate, if_neg hf.gate, if_neg (Bool.not_eq_true _ ▸ hb), if_neg ho]
  simp only [if_pos hfree', if_neg h1, h2, h3, or_self, if_false]
  rfl

end

/-! ### Offsets (R208, R209) -/

/-- `z` is `x` but for the modem. -/
def State.OnlySnd (x z : State) : Prop := z = x.setSnd z.snd

theorem State.OnlySnd.trans {x y z : State} (h : x.OnlySnd y) (k : y.OnlySnd z) : x.OnlySnd z := by
  have hy : y.setSnd z.snd = (x.setSnd y.snd).setSnd z.snd := congrArg (fun w : State => w.setSnd z.snd) h
  exact Eq.trans k hy

/-- The applied offset of target `k`, and the set-point that waits for it. -/
def State.sndTarget (s : State) (k : Nat) : Int × Option SndShift := (s.sndShift k, s.sndWait k)

/-- What a target becomes: its set-point comes into force if its instant lies at or before `lim`. -/
def promoted (lim : Nat) (p : Int × Option SndShift) : Int × Option SndShift :=
  match p.2 with
  | some w => if w.at_ ≤ lim then (w.ofs, none) else p
  | none => p

/-- The part of `promoteShifts` for one target. -/
def State.promoteShift (s : State) (lim k : Nat) : State :=
  match s.sndWait k with
  | some x => if x.at_ ≤ lim then
      (s.setWait k none).setSnd { (s.setWait k none).snd with shift := tabSet (fun _ => 0) (s.setWait k none).snd.shift k x.ofs }
    else s
  | none => s

section
variable (s : State) (lim : Nat)

theorem State.promoteShifts_eq : s.promoteShifts lim = ((s.promoteShift lim 0).promoteShift lim 1).promoteShift lim 2 := rfl

theorem State.promoteShift_onlySnd (k : Nat) : s.OnlySnd (s.promoteShift lim k) := by
  unfold State.promoteShift
  (repeat' split) <;> rfl

theorem State.promoteShift_resyncs (k : Nat) :
    (s.promoteShift lim k).snd.resyncs = s.snd.resyncs ∧ (s.promoteShift lim k).snd.resync = s.snd.resync := by
  unfold State.promoteShift
  (repeat' split) <;> exact ⟨rfl, rfl⟩

theorem State.sndTarget_promoteShift_same (k : Nat) : (s.promoteShift lim k).sndTarget k = promoted lim (s.sndTarget k) := by
  unfold State.promoteShift promoted State.sndTarget
  cases hw : s.sndWait k with
  | none => simp [hw]
  | some w =>
    by_cases h : w.at_ ≤ lim
    · simp [h, State.sndShift, State.sndWait, State.setWait, State.setSnd]
    · simp [h, hw]

theorem State.sndTarget_promoteShift_ne (k j : Nat) (h : j ≠ k) : (s.promoteShift lim k).sndTarget j = s.sndTarget j := by
  unfold State.promoteShift
  cases s.sndWait k with
  | none => rfl
  | some w =>
    dsimp only
    split
    · simp [State.sndTarget, State.sndShift, State.sndWait, State.setWait, State.setSnd, tabGet_set_ne, h]
    · rfl

/-- Each of the three targets is promoted once, and none touches another. -/
theorem State.sndTarget_promoteShifts (k : Fin 3) : (s.promoteShifts lim).sndTarget k = promoted lim (s.sndTarget k) := by
  rw [State.promoteShifts_eq]
  fin_cases k <;> simp [State.sndTarget_promoteShift_same, State.sndTarget_promoteShift_ne]

theorem State.promoteShifts_onlySnd : s.OnlySnd (s.promoteShifts lim) :=
  ((State.promoteShift_onlySnd ..).trans (State.promoteShift_onlySnd ..)).trans (State.promoteShift_onlySnd ..)

theorem State.promoteShifts_resyncs : (s.promoteShifts lim).snd.resyncs = s.snd.resyncs ∧ (s.promoteShifts lim).snd.resync = s.snd.resync := by
  simp [State.promoteShifts_eq, State.promoteShift_resyncs]

theorem State.promoteResync_onlySnd : s.OnlySnd (s.promoteResync lim) := by
  unfold State.promoteResync
  dsimp only
  split <;> rfl

theorem State.sndTarget_promoteResync (k : Nat) : (s.promoteResync lim).sndTarget k = s.sndTarget k := by
  unfold State.promoteResync
  dsimp only
  split <;> rfl

/-- The one `RESYNC` that waits comes into force. -/
theorem State.promoteResync_due {w : SndShift} (h : s.snd.resyncs = [w]) (hw : w.at_ ≤ lim) (hd : 0 < w.dur) :
    s.promoteResync lim = s.setSnd { s.snd with resyncs := [], resync := some (w.ofs, w.at_ + w.dur) } := by
  simp [State.promoteResync, h, hw, hd.ne']

/-- No `RESYNC` is due. -/
theorem State.promoteResync_early (h : ∀ w ∈ s.snd.resyncs, lim < w.at_) : s.promoteResync lim = s := by
  have hdue : s.snd.resyncs.filter (fun x => decide (x.at_ ≤ lim)) = [] := List.filter_eq_nil_iff.mpr (by simpa using h)
  simp [State.promoteResync, hdue]

theorem State.promote_onlySnd : s.OnlySnd (s.promote lim) := (s.promoteShifts_onlySnd lim).trans (State.promoteResync_onlySnd ..)

theorem State.sndTarget_promote (k : Fin 3) : (s.promote lim).sndTarget k = promoted lim (s.sndTarget k) :=
  (State.sndTarget_promoteResync ..).trans (s.sndTarget_promoteShifts lim k)

theorem State.promote_resync_due {w : SndShift} (h : s.snd.resyncs = [w]) (hw : w.at_ ≤ lim) (hd : 0 < w.dur) :
    (s.promote lim).snd.resync = some (w.ofs, w.at_ + w.dur) ∧ (s.promote lim).snd.resyncs = [] := by
  rw [State.promote, State.promoteResync_due _ _ ((s.promoteShifts_resyncs lim).1.trans h) hw hd]
  exact ⟨rfl, rfl⟩

theorem State.promote_resync_early (h : ∀ w ∈ s.snd.resyncs, lim < w.at_) :
    (s.promote lim).snd.resync = s.snd.resync ∧ (s.promote lim).snd.resyncs = s.snd.resyncs := by
  obtain ⟨hwait, hruns⟩ := s.promoteShifts_resyncs lim
  rw [State.promote, State.promoteResync_early _ _ (hwait ▸ h)]
  exact ⟨hruns, hwait⟩

end

theorem State.resyncEnd_due {s : State} {o : Int} {e : Nat} (h : s.snd.resync = some (o, e)) (he : e ≤ s.clk.now) :
    s.resyncEnd = s.setSnd { s.snd with resync := none } := by
  simp [State.resyncEnd, h, he]

theorem State.resyncEnd_early {s : State} {o : Int} {e : Nat} (h : s.snd.resync = some (o, e)) (he : s.clk.now < e) : s.resyncEnd = s := by
  simp [State.resyncEnd, h, he]

/-! ### The commands -/

theorem sndStatus_force : R.sndStatus ∉ forceRegs := by decide

theorem sndCount0_force : R.sndCount0 ∉ forceRegs := by decide

section
variable {s : State} {t : Nat}

/-- A write of `TX_SEND` that is accepted (R203). -/
theorem exec_txSend_accepted {who : Initiator} (h : (s.upTo t).reaches who R.sndCtrl 1#32 = true) (hmay : (s.upTo t).txMay) :
    let x := s.upTo t
    ∃ u, exec (.txSend t who) s = .next u ∧ x.framed { x with snd := u.snd, keep := u.keep, bus := .ok 0#64 } u [R.sndStatus] ∧
      u.snd = { x.snd with tx := { x.snd.tx with sw := some x.txNext } } ∧
      u.rd R.sndStatus = withBit (x.rd R.sndStatus) 8 true := by
  intro x
  let y : State := { x.txBoth (fun v => { v with sw := some x.txNext }) with bus := .ok 0#64 }
  have hw : x.busWord who R.sndCtrl 1#32 = y.wrB R.sndStatus 8 true := by
    rw [State.busWord_sndCtrl _ _ _ h, State.sndCtrlWrite_send, State.txSend_accepted x hmay]
    rfl
  obtain ⟨u, hu, hfr, hrd⟩ := State.run_onlyRegs (f := fun x => x.busWord who R.sndCtrl 1#32) hw (y.wrB_only R.sndStatus 8 true)
    (s.upTo_pending t) (fun _ => rfl)
  refine ⟨u, hu, ?_, hfr.snd_eq, ?_⟩
  · rw [hfr.snd_eq, hfr.keep_eq]
    exact hfr
  · rw [hrd _ sndStatus_force]
    exact State.rd_wr_same ..

/-- A write of `TX_SEND` that is refused (R203). -/
theorem exec_txSend_refused {who : Initiator} (h : (s.upTo t).reaches who R.sndCtrl 1#32 = true) (hno : ¬(s.upTo t).txMay) :
    let x := s.upTo t
    ∃ u, exec (.txSend t who) s = .next u ∧ x.framed { x with bus := .ok 0#64 } u [R.sndStatus] ∧
      u.rd R.sndStatus = withBit (x.rd R.sndStatus) 12 true := by
  intro x
  have hw : x.busWord who R.sndCtrl 1#32 = { x.raise R.sndStatus 12 with bus := .ok 0#64 } := by
    rw [State.busWord_sndCtrl _ _ _ h, State.sndCtrlWrite_send, State.txSend_refused x hno]
  exact State.run_raise (f := fun x => x.busWord who R.sndCtrl 1#32) hw sndStatus_force

/-- A write of `RX_POP` (R206). -/
theorem exec_sndRxPop {who : Initiator} (h : (s.upTo t).reaches who R.sndCtrl 2#32 = true) :
    let x := s.upTo t
    ∃ u, exec (.sndRxPop t who) s = .next u ∧ x.framed { x with snd := { x.snd with
      fifo := if x.snd.got = some (x.cycleOf R.sndCtrl) then x.snd.fifo else x.snd.fifo.drop 1, got := none }, bus := .ok 0#64 } u [] := by
  intro x
  have hw := State.busWord_sndCtrl x who _ h
  rw [State.sndCtrlWrite_pop, State.sndPop_eq] at hw
  exact State.run_same (f := fun x => x.busWord who R.sndCtrl 2#32) hw (s.upTo_pending t) (fun _ => rfl)

section
variable {f : TxFrame} {k : Nat}

/-- A waiting frame at its chip boundary (R203). -/
theorem exec_sndFrameStart_due (hf : (s.upTo t).snd.tx.frame = some f) (hk : f.startK = some k) (hl : f.live = false)
    (hc : chipAt k ≤ (s.upTo t).tb) :
    let x := s.upTo t
    ∃ u, exec (.sndFrameStart t) s = .next u ∧
      x.framed { x with snd := { x.snd with tx := { x.snd.tx with frame := some { f with live := true } } }, keep := u.keep } u [R.sndStatus] ∧
      u.rdB R.sndStatus 6 = true := by
  intro x
  have honly : OnlyRegs (x.txBoth (SndTx.goLive k)) (x.frameLive f k) [R.sndStatus] := x.frameLive_only f k
  obtain ⟨u, hu, hfr, hrd⟩ := State.run_onlyRegs (f := State.frameStart) (State.frameStart_due hf hk hl hc) honly (s.upTo_pending t)
    (fun _ => rfl)
  have hsnd : (x.txBoth (SndTx.goLive k)).snd = { x.snd with tx := { x.snd.tx with frame := some { f with live := true } } } :=
    congrArg (fun v : SndTx => { x.snd with tx := v }) (SndTx.goLive_of_frame hf hk)
  refine ⟨u, hu, ?_, ?_⟩
  · rw [hfr.keep_eq, ← hsnd]
    exact hfr
  · rw [State.rdB, hrd _ sndStatus_force]
    exact x.frameLive_active f k

/-- A frame that is live, or whose chip boundary is to come. -/
theorem exec_sndFrameStart_idle (hf : (s.upTo t).snd.tx.frame = some f) (hk : f.startK = some k)
    (h : f.live = true ∨ (s.upTo t).tb < chipAt k) : ∃ u, exec (.sndFrameStart t) s = .next u ∧ (s.upTo t).framed (s.upTo t) u [] :=
  State.run_same (f := State.frameStart) (State.frameStart_idle hf hk h) (s.upTo_pending t) (fun _ => rfl)

/-- The end of a frame of the device's own (R200). -/
theorem exec_sndFrameEnd_due (hf : (s.upTo t).snd.tx.frame = some f) (hk : f.startK = some k) (hc : chipAt (k + frameChips) ≤ (s.upTo t).tb)
    (hsw : f.sw = false) :
    let x := s.upTo t
    ∃ u, exec (.sndFrameEnd t) s = .next u ∧
      x.framed { x with snd := u.snd, keep := u.keep, evs := u.evs, irq := u.irq } u [R.sndStatus, R.sndCount0] ∧
      u.snd = { x.snd with tx := { x.snd.tx with frame := none, lastSw := false, freeK := k + frameChips + gapChips } } ∧
      u.rdB R.sndStatus 6 = false ∧ u.rdB R.sndStatus 7 = false ∧ u.rdF R.sndCount0 31 16 = min 65535 (x.rdF R.sndCount0 31 16 + 1) := by
  intro x
  obtain ⟨u, hu, hfr, hrd⟩ := State.run_onlyRegs (f := State.frameEnd) (State.frameEnd_due hf hk hc hsw)
    ((x.frameDone_only k).sndEvent (0x100 + f.ty)) (s.upTo_pending t) (fun _ => rfl)
  have hstatus : u.rd R.sndStatus = withBit (withBit (x.rd R.sndStatus) 6 false) 7 false := by
    rw [hrd _ sndStatus_force, State.sndEvent_rd, State.frameDone_status]
  refine ⟨u, hu, ?_, hfr.snd_eq, ?_, ?_, ?_⟩
  · rw [hfr.snd_eq, hfr.keep_eq, hfr.evs_eq, hfr.irq_eq]
    exact hfr
  · rw [State.rdB, hstatus, bitOf_withBit _ _ _ _ (by decide), if_neg (by decide), bitOf_withBit_same _ _ _ (by decide)]
  · rw [State.rdB, hstatus, bitOf_withBit_same _ _ _ (by decide)]
  · rw [State.rdF, hrd _ sndCount0_force, State.sndEvent_rd]
    exact x.frameDone_count k

/-- A frame whose last chip is to come. -/
theorem exec_sndFrameEnd_idle (hf : (s.upTo t).snd.tx.frame = some f) (hk : f.startK = some k) (hc : (s.upTo t).tb < chipAt (k + frameChips)) :
    ∃ u, exec (.sndFrameEnd t) s = .next u ∧ (s.upTo t).framed (s.upTo t) u [] :=
  State.run_same (f := State.frameEnd) (State.frameEnd_idle hf hk hc) (s.upTo_pending t) (fun _ => rfl)

end

section
variable {c : Fin 16} {sender : BitVec 12} {ty : BitVec 4} {payload : Word} {crc : BitVec 16} {e est : Nat}

/-- A correlator that is off, and a delivery out of time (R198, R205). -/
theorem exec_sndFrameReceived_deaf
    (h : (s.upTo t).sndEn = false ∨ (s.upTo t).rdB (R.sndCorr c) 31 = false ∨ (s.upTo t).inTime e est = false) :
    ∃ u, exec (.sndFrameReceived t c sender ty payload crc e est) s = .next u ∧ (s.upTo t).framed (s.upTo t) u [] :=
  State.run_same (f := fun x => x.sndReceive c sender.toNat ty.toNat payload.toNat crc.toNat e est) (State.sndReceive_deaf h) (s.upTo_pending t)
    (fun _ => rfl)

variable (h : (s.upTo t).sndHears c e est)
include h

/-- A frame whose check does not fit (R206). -/
theorem exec_sndFrameReceived_unfit (hf : ¬sndFits sender.toNat ty.toNat payload.toNat crc.toNat) :
    let x := s.upTo t
    ∃ u, exec (.sndFrameReceived t c sender ty payload crc e est) s = .next u ∧ x.framed x u [R.sndCount1] ∧
      u.rdF R.sndCount1 31 24 = min 255 (x.rdF R.sndCount1 31 24 + 1) :=
  State.run_countUp (f := fun x => x.sndReceive c sender.toNat ty.toNat payload.toNat crc.toNat e est) (State.sndReceive_unfit h hf) (by decide)
    (by decide) (by decide)

variable (hf : sndFits sender.toNat ty.toNat payload.toNat crc.toNat)
include hf

/-- A frame whose span held an unusable input (R206). -/
theorem exec_sndFrameReceived_unusable (hb : (s.upTo t).spanBad est = true) :
    let x := s.upTo t
    ∃ u, exec (.sndFrameReceived t c sender ty payload crc e est) s = .next u ∧ x.framed x u [R.sndCount2] ∧
      u.rdF R.sndCount2 31 24 = min 255 (x.rdF R.sndCount2 31 24 + 1) :=
  State.run_countUp (f := fun x => x.sndReceive c sender.toNat ty.toNat payload.toNat crc.toNat e est) (State.sndReceive_unusable h hf hb) (by decide)
    (by decide) (by decide)

variable (hb : (s.upTo t).spanBad est = false)
include hb

/-- The device's own frame (R206). -/
theorem exec_sndFrameReceived_own (ho : sender.toNat = (s.upTo t).rdF R.sndId 11 0) :
    let x := s.upTo t
    ∃ u, exec (.sndFrameReceived t c sender ty payload crc e est) s = .next u ∧ x.framed x u [R.sndCount1] ∧
      u.rdF R.sndCount1 23 16 = min 255 (x.rdF R.sndCount1 23 16 + 1) :=
  State.run_countUp (f := fun x => x.sndReceive c sender.toNat ty.toNat payload.toNat crc.toNat e est) (State.sndReceive_own h hf hb ho) (by decide)
    (by decide) (by decide)

/-- A frame of another device that a free entry takes (R206). -/
theorem exec_sndFrameReceived_queued (ho : sender.toNat ≠ (s.upTo t).rdF R.sndId 11 0) (hfree : (s.upTo t).snd.fifo.length < 32)
    (h1 : ty.toNat ≠ 1) (h2 : ty.toNat ≠ 2) (h3 : ty.toNat ≠ 3) :
    let x := s.upTo t
    ∃ u, exec (.sndFrameReceived t c sender ty payload crc e est) s = .next u ∧
      x.framed { x with snd := { x.snd with fifo := x.snd.fifo ++ [x.sndRx c sender.toNat ty.toNat payload.toNat est], got := u.snd.got }
                        evs := u.evs
                        irq := u.irq } u [R.sndCount0] ∧
      u.rdF R.sndCount0 15 0 = min 65535 (x.rdF R.sndCount0 15 0 + 1) := by
  intro x
  let r := x.sndRx c sender.toNat ty.toNat payload.toNat est
  have honly : OnlyRegs (x.sndQueue r) ((x.countUp R.sndCount0 15 0 1).sndQueue r) [R.sndCount0] := (x.sndQueue r).countUp_only R.sndCount0 15 0 1
  obtain ⟨u, hu, hfr, hrd⟩ := State.run_onlyRegs
    (f := fun x => x.sndReceive c sender.toNat ty.toNat payload.toNat crc.toNat e est)
    (State.sndReceive_queued h hf hb ho hfree h1 h2 h3) (honly.sndEvent (0x300 + ty.toNat)) (s.upTo_pending t) (fun _ => rfl)
  refine ⟨u, hu, ?_, ?_⟩
  · rw [hfr.evs_eq, hfr.irq_eq, hfr.snd_eq]
    exact hfr
  · rw [State.rdF, hrd _ sndCount0_force, State.sndEvent_rd]
    exact x.rdF_countUp R.sndCount0 15 0 1 (by decide) (by decide)

end

/-- The application instants that have come (R208, R209). -/
theorem exec_shiftApply :
    let x := s.upTo t; let lim := min x.clk.now (x.seq x.sndThread).sampleAt
    ∃ u, exec (.shiftApply t) s = .next u ∧ x.framed { x with snd := u.snd } u [] ∧
      (∀ (k : Fin 3) (w : SndShift), x.sndWait k = some w →
        (w.at_ ≤ lim → u.sndShift k = w.ofs ∧ u.sndWait k = none) ∧
        (lim < w.at_ → u.sndShift k = x.sndShift k ∧ u.sndWait k = some w)) ∧
      (∀ w : SndShift, x.snd.resyncs = [w] → w.at_ ≤ lim → 0 < w.dur →
        u.snd.resync = some (w.ofs, w.at_ + w.dur) ∧ u.snd.resyncs = []) ∧
      ((∀ w ∈ x.snd.resyncs, lim < w.at_) → u.snd.resync = x.snd.resync ∧ u.snd.resyncs = x.snd.resyncs) := by
  intro x lim
  obtain ⟨u, hu, hfr⟩ := State.run_same (f := State.shiftApply) (y := x.setSnd (x.promote lim).snd) (x.promote_onlySnd lim) (s.upTo_pending t)
    (fun _ => rfl)
  have hsnd : u.snd = (x.promote lim).snd := hfr.snd_eq
  have htarget (k : Fin 3) : (u.sndShift k, u.sndWait k) = promoted lim (x.sndShift k, x.sndWait k) := by
    rw [State.sndShift, State.sndWait, hsnd]
    exact x.sndTarget_promote lim k
  refine ⟨u, hu, ?_, fun k w hw => ?_, fun w hone hle hdur => ?_, fun hearly => ?_⟩
  · rw [hsnd]
    exact hfr
  · have hk := htarget k
    rw [hw] at hk
    refine ⟨fun hle => ?_, fun hlt => ?_⟩
    · exact Prod.ext_iff.mp (hk.trans (if_pos hle))
    · exact Prod.ext_iff.mp (hk.trans (if_neg (Nat.not_le.mpr hlt)))
  · rw [hsnd]
    exact x.promote_resync_due lim hone hle hdur
  · rw [hsnd]
    exact x.promote_resync_early lim hearly

/-- The end of the running `RESYNC` offset (R209). -/
theorem exec_resyncEnd_due {o : Int} {e : Nat} (h : (s.upTo t).snd.resync = some (o, e)) (he : e ≤ (s.upTo t).clk.now) :
    let x := s.upTo t
    ∃ u, exec (.resyncEnd t) s = .next u ∧ x.framed { x with snd := { x.snd with resync := none } } u [] :=
  State.run_same (f := State.resyncEnd) (State.resyncEnd_due h he) (s.upTo_pending t) (fun _ => rfl)

/-- A `RESYNC` offset whose end is to come. -/
theorem exec_resyncEnd_early {o : Int} {e : Nat} (h : (s.upTo t).snd.resync = some (o, e)) (he : (s.upTo t).clk.now < e) :
    ∃ u, exec (.resyncEnd t) s = .next u ∧ (s.upTo t).framed (s.upTo t) u [] :=
  State.run_same (f := State.resyncEnd) (State.resyncEnd_early h he) (s.upTo_pending t) (fun _ => rfl)

/-- Claims past `CLAIM_AGE` are forgotten (R207). -/
theorem exec_claimAgeExpiry :
    let x := s.upTo t
    ∃ u, exec (.claimAgeExpiry t) s = .next u ∧ x.framed { x with snd := { x.snd with claims := x.freshClaims x.clk.now } } u [] :=
  State.run_same (f := State.claimExpiry) rfl (s.upTo_pending t) (fun _ => rfl)

end

/-- Settles O21: each command is its operation run at its instant, in the case that the premises name. -/
theorem soundFramesAndOffsets : Obligations.SoundFramesAndOffsets := by
  refine ⟨fun t who s => ⟨fun h => ⟨?_, ?_⟩, ?_⟩,
    fun t e est c sender ty payload crc f k s => ⟨fun hf hk => ⟨?_, ?_, ?_, ?_⟩, ?_, ?_⟩,
    fun t s => ⟨?_, ?_, ?_, ?_⟩⟩
  · exact exec_txSend_accepted h
  · exact exec_txSend_refused h
  · exact exec_sndRxPop
  · exact exec_sndFrameStart_due hf hk
  · exact exec_sndFrameStart_idle hf hk
  · exact exec_sndFrameEnd_due hf hk
  · exact exec_sndFrameEnd_idle hf hk
  · exact exec_sndFrameReceived_deaf
  · intro hen hon hcode htime
    have h : (s.upTo t).sndHears c e est := ⟨hen, hon, hcode, htime⟩
    exact ⟨exec_sndFrameReceived_unfit h, exec_sndFrameReceived_unusable h, exec_sndFrameReceived_own h, exec_sndFrameReceived_queued h⟩
  · exact exec_shiftApply
  · exact fun o e => exec_resyncEnd_due
  · exact fun o e => exec_resyncEnd_early
  · exact exec_claimAgeExpiry

end Sys2Proof.Machine
end

section
/-! The edges of slices and of ANPC leg units (R216, R217, R223-R225, R228): what each operation of a switch does and which part of the state it can touch, and
from this the next state of each command. -/

namespace Sys2Proof.Machine

/-! ### The state of a slice and of a leg unit -/

@[simp] theorem slice_setSlice (x : State) (i : Nat) (v : SliceSt) : (x.setSlice i v).slice i = v := tabGet_set_same ..

theorem slice_setSlice_ne (x : State) (i j : Nat) (v : SliceSt) (h : j ≠ i) : (x.setSlice i v).slice j = x.slice j := tabGet_set_ne _ _ _ _ _ h

@[simp] theorem leg_setLeg (x : State) (g : Nat) (v : LegSt) : (x.setLeg g v).leg g = v := tabGet_set_same ..

theorem leg_setLeg_ne (x : State) (g h : Nat) (v : LegSt) (hne : h ≠ g) : (x.setLeg g v).leg h = x.leg h := tabGet_set_ne _ _ _ _ _ hne

theorem State.slice_congr {x u : State} (h : u.slices = x.slices) (i : Nat) : u.slice i = x.slice i := by
  unfold State.slice
  rw [h]

theorem State.leg_congr {x u : State} (h : u.legs = x.legs) (g : Nat) : u.leg g = x.leg g := by
  unfold State.leg
  rw [h]

/-! ### What stays within the switches of some slices -/

/-- Slice `i` drives an auxiliary half-bridge. -/
def drivesAux (i : Nat) : Prop := 84 ≤ i ∧ i < 102

/-- The status register of the motor whose half-bridge slice `i` drives, if it drives one. -/
def auxRegs (i : Nat) : List Nat := if 84 ≤ i ∧ i < 102 then [R.auxStatus ((i - 84) / 3)] else []

theorem auxRegs_eq_nil {i : Nat} (h : auxRegs i = []) : ¬drivesAux i := fun hi => List.cons_ne_nil _ _ ((if_pos hi).symm.trans h)

theorem mem_auxRegs {i a : Nat} (h : a ∈ auxRegs i) : drivesAux i ∧ a = R.auxStatus ((i - 84) / 3) := by
  unfold auxRegs at h
  split at h
  · next hi => exact ⟨hi, List.mem_singleton.mp h⟩
  · cases h

/-- What the switching of the slices `js` changes: those slices, the gates of the auxiliary motors if one of them drives any, and the registers of
`as`. -/
structure OnlySwitches (js : Set Nat) (as : List Nat) (x z : State) : Prop where
  state : z = { x with slices := z.slices, aux := z.aux, regs := z.regs, raised := z.raised }
  regs : ∀ a, a ∉ as → z.rd a = x.rd a
  aux : (∀ j ∈ js, ¬drivesAux j) → z.aux = x.aux
  others : ∀ j, j ∉ js → z.slice j = x.slice j

namespace OnlySwitches
variable {js ks : Set Nat} {as bs : List Nat} {x y z : State}

theorem refl (js : Set Nat) (as : List Nat) (x : State) : OnlySwitches js as x x := ⟨rfl, fun _ _ => rfl, fun _ => rfl, fun _ _ => rfl⟩

theorem trans (h : OnlySwitches js as x y) (k : OnlySwitches js as y z) : OnlySwitches js as x z := by
  refine ⟨?_, fun a ha => (k.regs a ha).trans (h.regs a ha), fun hj => (k.aux hj).trans (h.aux hj), fun j hj => (k.others j hj).trans (h.others j hj)⟩
  rw [k.state, h.state]

theorem mono (h : OnlySwitches js as x z) (hj : js ⊆ ks) (ha : as ⊆ bs) : OnlySwitches ks bs x z :=
  ⟨h.state, fun a hn => h.regs a (fun hm => hn (ha hm)), fun hk => h.aux (fun j hm => hk j (hj hm)), fun j hn => h.others j (fun hm => hn (hj hm))⟩

theorem ite {c : Prop} [Decidable c] (hy : OnlySwitches js as x y) (hz : OnlySwitches js as x z) :
    OnlySwitches js as x (if c then y else z) := by
  split
  · exact hy
  · exact hz

theorem clk (h : OnlySwitches js as x z) : z.clk = x.clk := by rw [h.state]

end OnlySwitches

theorem OnlyRegs.onlySwitches {x z : State} {as : List Nat} (h : OnlyRegs x z as) (js : Set Nat) : OnlySwitches js as x z := by
  have hslices : z.slices = x.slices := by rw [h.state]
  have haux : z.aux = x.aux := by rw [h.state]
  refine ⟨?_, h.regs, fun _ => haux, fun j _ => State.slice_congr hslices j⟩
  rw [hslices, haux]
  exact h.state

theorem State.setSlice_onlySwitches (s : State) (i : Nat) (v : SliceSt) (as : List Nat) : OnlySwitches {i} as s (s.setSlice i v) :=
  ⟨rfl, fun _ _ => rfl, fun _ => rfl, fun j hj => slice_setSlice_ne s i j v hj⟩

/-! ### The gates of an auxiliary half-bridge (R268, R278) -/

theorem State.auxFollow_eq (s : State) (h : Nat) (hi : Bool) : s.auxFollow h hi = { s with aux := (s.auxFollow h hi).aux } := by
  unfold State.auxFollow
  dsimp only
  split <;> rfl

theorem State.auxNote_eq (s : State) (h : Nat) : s.auxNote h = { s with aux := (s.auxNote h).aux } :=
  ((s.auxFollow h true).auxFollow_eq h false).trans (congrArg (fun w : State => { w with aux := (s.auxNote h).aux }) (s.auxFollow_eq h true))

/-- The gates follow a switch: no slice changes, and of the registers the status of the motor alone. -/
theorem State.auxSwitched_eq (s : State) (i : Nat) (a on : Bool) : s.auxSwitched i a on =
    { s with aux := (s.auxSwitched i a on).aux, regs := (s.auxSwitched i a on).regs, raised := (s.auxSwitched i a on).raised } := by
  unfold State.auxSwitched
  split
  · dsimp only
    split
    · rw [State.auxNote_eq]; rfl
    · rw [State.auxNote_eq]
  · rfl

theorem State.auxSwitched_rd (s : State) (i : Nat) (a on : Bool) (b : Nat) (hb : b ∉ auxRegs i) : (s.auxSwitched i a on).rd b = s.rd b := by
  unfold State.auxSwitched
  split
  · next hi =>
    have hne : b ≠ R.auxStatus ((i - 84) / 3) := fun e => hb (by rw [auxRegs, if_pos hi, e]; exact List.mem_singleton_self _)
    dsimp only
    rw [State.auxNote_rd]
    split
    · exact State.rd_wr_ne _ _ _ _ hne
    · rfl
  · rfl

@[simp] theorem State.auxSwitched_slice (s : State) (i j : Nat) (a on : Bool) : (s.auxSwitched i a on).slice j = s.slice j :=
  State.slice_congr (by rw [State.auxSwitched_eq]) j

theorem State.auxSwitched_onlySwitches (s : State) (i : Nat) (a on : Bool) : OnlySwitches {i} (auxRegs i) s (s.auxSwitched i a on) := by
  refine ⟨?_, s.auxSwitched_rd i a on, fun hno => ?_, fun j _ => s.auxSwitched_slice i j a on⟩
  · have hslices : (s.auxSwitched i a on).slices = s.slices := by rw [State.auxSwitched_eq]
    rw [hslices]
    exact s.auxSwitched_eq i a on
  · have hi : ¬(84 ≤ i ∧ i < 102) := hno i rfl
    rw [State.auxSwitched, if_neg hi]

/-! ### A switch turns off (R217) -/

/-- The slice with the switch `a` off from instant `x` on; a pending turn-on of that switch is dropped. -/
def SliceSt.off (l : SliceSt) (a : Bool) (x : Nat) : SliceSt :=
  let drop := match l.due with
    | some (d, _) => if d = a then none else l.due
    | none => none
  if a then { l with aOn := false, aOffAt := if l.aOn then x else l.aOffAt, due := drop }
  else { l with bOn := false, bOffAt := if l.bOn then x else l.bOffAt, due := drop }

section
variable (s : State) (i : Nat) (a : Bool) (x : Nat)

theorem State.swOff_eq : s.swOff i a x = (s.setSlice i ((s.slice i).off a x)).auxSwitched i a false := by
  cases a <;> rfl

@[simp] theorem State.swOff_slice : (s.swOff i a x).slice i = (s.slice i).off a x := by
  rw [State.swOff_eq, State.auxSwitched_slice, slice_setSlice]

theorem State.swOff_onlySwitches : OnlySwitches {i} (auxRegs i) s (s.swOff i a x) := by
  rw [State.swOff_eq]
  exact (s.setSlice_onlySwitches i _ _).trans (State.auxSwitched_onlySwitches ..)

end

/-! ### A switch turns on, under the interlock (R228) -/

/-- The registers that the switches of slice `i` can write: the interlock flags and the status of an auxiliary motor. -/
def switchRegs (i : Nat) : List Nat := [R.pwmSliceStatus i, R.pwmLegStatus (i / 3)] ++ auxRegs i

theorem auxRegs_subset_switchRegs (i : Nat) : auxRegs i ⊆ switchRegs i := List.subset_append_right ..

section
variable (s : State) (i : Nat)

theorem State.interlockHit_only : OnlyRegs s (s.interlockHit i) [R.pwmSliceStatus i, R.pwmLegStatus (i / 3)] := by
  unfold State.interlockHit
  dsimp only
  split
  · exact ((State.raise_only s (R.pwmSliceStatus i) 17).mono (by simp)).trans ((State.raise_only _ (R.pwmLegStatus (i / 3)) 10).mono (by simp))
  · exact (State.raise_only s (R.pwmSliceStatus i) 17).mono (by simp)

@[simp] theorem State.interlockHit_slice (j : Nat) : (s.interlockHit i).slice j = s.slice j :=
  State.slice_congr (by rw [(s.interlockHit_only i).state]) j

/-- The flag of the slice (R228). -/
theorem State.interlockHit_sliceFlag : (s.interlockHit i).rdB (R.pwmSliceStatus i) 17 = true := by
  unfold State.interlockHit
  dsimp only
  split
  · have hne : R.pwmSliceStatus i ≠ R.pwmLegStatus (i / 3) := by
      unfold R.pwmSliceStatus R.pwmLegStatus
      omega
    rw [State.rdB, State.rd_raise, if_neg hne]
    exact s.rdB_raise _ 17 (by decide)
  · exact s.rdB_raise _ 17 (by decide)

/-- The flag of its leg unit (R228). -/
theorem State.interlockHit_legFlag (h : i < 126) : (s.interlockHit i).rdB (R.pwmLegStatus (i / 3)) 10 = true := by
  unfold State.interlockHit
  rw [if_pos h]
  exact State.rdB_raise _ _ 10 (by decide)

theorem State.setSlice_auxSwitched_onlySwitches (v : SliceSt) (a on : Bool) :
    OnlySwitches {i} (switchRegs i) s ((s.setSlice i v).auxSwitched i a on) :=
  (s.setSlice_onlySwitches i v _).trans ((State.auxSwitched_onlySwitches ..).mono subset_rfl (auxRegs_subset_switchRegs i))

theorem State.setSlice_interlockHit_onlySwitches (v : SliceSt) : OnlySwitches {i} (switchRegs i) s ((s.setSlice i v).interlockHit i) :=
  (s.setSlice_onlySwitches i v _).trans (((State.interlockHit_only _ i).onlySwitches {i}).mono subset_rfl (List.subset_append_left ..))

/-- An on command, whatever the interlock says of it: its own, one of two in a cycle, barred, or free. -/
theorem State.swOn_onlySwitches (a : Bool) (x : Nat) : OnlySwitches {i} (switchRegs i) s (s.swOn i a x) := by
  have hturns := s.setSlice_auxSwitched_onlySwitches i
  have hbarred := s.setSlice_interlockHit_onlySwitches i
  unfold State.swOn
  exact .ite (hturns _ a true) (.ite (hbarred _) (.ite (hbarred _) (hturns _ a true)))

theorem State.swDue_onlySwitches (a : Bool) (x : Nat) : OnlySwitches {i} (switchRegs i) s (s.swDue i a x) := by
  unfold State.swDue
  exact .ite (s.swOn_onlySwitches i a x) (s.setSlice_onlySwitches i _ _)

end

/-- An on command of A of slice `i` that the interlock judges by B and its dead time alone: the slice is independent, nothing that R217, R224 or R233
makes stands behind the command, and none came before it. -/
structure State.JudgedOn (s : State) (i : Nat) : Prop where
  anpc : s.slAnpc i = false
  cmd : (s.slice i).onCmd = none
  own : s.ownOn i true = false

/-- A pending turn-on does not bear on the judgement. -/
theorem State.JudgedOn.dropDue {s : State} {i : Nat} (h : s.JudgedOn i) : (s.setSlice i { s.slice i with due := none }).JudgedOn i := by
  refine ⟨h.anpc, by rw [slice_setSlice]; exact h.cmd, Eq.trans ?_ h.own⟩
  unfold State.ownOn
  rw [slice_setSlice]
  rfl

section
variable {s : State} {i x : Nat} (h : s.JudgedOn i)
include h

/-- An on command of A that finds B off and its dead time over. -/
theorem State.swOn_free (hb : (s.slice i).bOn = false) (hdead : (s.slice i).bOffAt + s.slDtR i ≤ x) :
    s.swOn i true x = (s.setSlice i { s.slice i with onCmd := some (x, true), aOn := true }).auxSwitched i true true := by
  unfold State.swOn
  simp [h.anpc, h.cmd, h.own, hb, hdead]

/-- An on command of A that finds B on. -/
theorem State.swOn_barred (hb : (s.slice i).bOn = true) :
    s.swOn i true x = (s.setSlice i { s.slice i with onCmd := some (x, true) }).interlockHit i := by
  unfold State.swOn
  simp [h.cmd, h.own, hb]

end

/-! ### Requests of an independent slice (R217) -/

section
variable (s : State) (i x : Nat)

theorem State.sliceRequest_none : s.sliceRequest i none x =
    ((s.setSlice i { s.slice i with req := none }).swOff i true x).swOff i false x := rfl

theorem State.sliceRequest_none_onlySwitches : OnlySwitches {i} (auxRegs i) s (s.sliceRequest i none x) :=
  ((s.setSlice_onlySwitches i _ _).trans (State.swOff_onlySwitches ..)).trans (State.swOff_onlySwitches ..)

theorem State.sliceRequest_none_slice :
    (s.sliceRequest i none x).slice i = (({ s.slice i with req := none } : SliceSt).off true x).off false x := by
  simp [State.sliceRequest_none]

/-- The request for A of a slice whose A is off: B goes off at once. -/
def State.highOff : State := (s.setSlice i { s.slice i with req := some 1 }).swOff i false x

theorem State.highOff_onlySwitches : OnlySwitches {i} (auxRegs i) s (s.highOff i x) :=
  (s.setSlice_onlySwitches i _ _).trans (State.swOff_onlySwitches ..)

theorem State.highOff_slice : (s.highOff i x).slice i = ({ s.slice i with req := some 1 } : SliceSt).off false x := by
  simp [State.highOff]

theorem State.highOff_slDtR : (s.highOff i x).slDtR i = s.slDtR i := by
  have hout : R.pwmSliceDtR i ∉ auxRegs i := fun hm => by
    obtain ⟨hrange, he⟩ := mem_auxRegs hm
    unfold drivesAux at hrange
    unfold R.pwmSliceDtR R.auxStatus at he
    omega
  unfold State.slDtR State.rdF
  rw [(s.highOff_onlySwitches i x).regs _ hout]

end

/-- The request for A whose dead time runs on past the present: the turn-on of A is left pending. -/
theorem State.sliceRequest_high {s : State} {i x : Nat} (ha : (s.slice i).aOn = false) (hd : s.clk.now < x + s.slDtR i) :
    s.sliceRequest i (some 1) x = (s.highOff i x).setSlice i { (s.highOff i x).slice i with due := some (true, x + s.slDtR i) } := by
  have haOff : ((s.highOff i x).slice i).aOn = false := by rw [State.highOff_slice]; exact ha
  have hnow : ¬x + s.slDtR i ≤ (s.highOff i x).clk.now := by rw [(s.highOff_onlySwitches i x).clk]; omega
  calc s.sliceRequest i (some 1) x
      = if ((s.highOff i x).slice i).aOn then s.highOff i x else (s.highOff i x).swDue i true (x + (s.highOff i x).slDtR i) := rfl
    _ = _ := by rw [haOff, if_neg Bool.false_ne_true, s.highOff_slDtR i x, State.swDue, if_neg hnow]

/-! ### The dwell and the pending turn-on of a slice (R216, R217) -/

section
variable {s : State} {i : Nat}

theorem State.sliceEdge_due {g : Seg} {rest : List Seg} (hen : s.slEn i = true) (hanpc : s.slAnpc i = false) (ht : (s.slice i).todo = g :: rest)
    (hd : (s.slice i).from_ + g.start ≤ s.clk.now) (hh : s.sliceHeld i = false) :
    s.sliceEdge i = (s.setSlice i { s.slice i with todo := rest }).sliceRequest i g.state ((s.slice i).from_ + g.start) := by
  simp [State.sliceEdge, State.sliceEnter, hen, hanpc, ht, hd, hh]

theorem State.sliceEnter_idle (h : (s.slice i).todo = [] ∨ s.sliceHeld i = true) : s.sliceEnter i = s := by
  unfold State.sliceEnter
  dsimp only
  split
  · rfl
  · next ht =>
    have hheld : s.sliceHeld i = true := h.resolve_left (by rw [ht]; exact List.cons_ne_nil _ _)
    exact if_neg (by simp [hheld])

theorem State.sliceEdge_idle (h : (s.slice i).todo = [] ∨ s.sliceHeld i = true ∨ s.slEn i = false) : s.sliceEdge i = s := by
  unfold State.sliceEdge
  rcases or_assoc.mpr h with h | h
  · rw [State.sliceEnter_idle h, ite_self]
  · simp [h]

theorem State.deadTimeEnd_due {a : Bool} {k : Nat} (hdue : (s.slice i).due = some (a, k)) (hk : k ≤ s.clk.now) :
    s.deadTimeEnd i = (s.setSlice i { s.slice i with due := none }).swOn i a k := by
  unfold State.deadTimeEnd
  simp only [hdue]
  exact if_pos hk

theorem State.deadTimeEnd_idle (hdue : (s.slice i).due = none) : s.deadTimeEnd i = s := by
  unfold State.deadTimeEnd
  simp only [hdue]

end

/-! ### The path of a leg unit (R224, R225) -/

theorem nextPair_lt {c : PathCfg} {a b k : Nat} (h : nextPair c a b = some k) : k < 3 := by
  have hmem := List.mem_of_find?_eq_some h
  simp only [List.mem_cons, List.not_mem_nil, or_false] at hmem
  omega

/-- The first pair of a path is one of the leg's three. -/
theorem pathPairs_head_lt {c : PathCfg} {n a b k : Nat} {ks : List Nat} (h : pathPairs c n a b = some (k :: ks)) : k < 3 := by
  cases n with
  | zero => simp [pathPairs] at h
  | succ n =>
    unfold pathPairs at h
    split at h
    · simp at h
    · split at h
      · cases h
      · next j hj =>
        obtain ⟨r, -, hr⟩ := Option.map_eq_some_iff.mp h
        cases hr
        exact nextPair_lt hj

/-- Every command is for one of the leg's three pairs. -/
def ofThreePairs (cs : List SwCmd) : Prop := ∀ c ∈ cs, c.pair < 3

theorem ofThreePairs_nil : ofThreePairs [] := fun _ h => nomatch h

theorem ofThreePairs_cons {c : SwCmd} {cs : List SwCmd} (hc : c.pair < 3) (hcs : ofThreePairs cs) : ofThreePairs (c :: cs) :=
  List.forall_mem_cons.mpr ⟨hc, hcs⟩

/-- The pair of a step in progress is one of the leg's three. -/
def LegPath.stepOk (p : LegPath) : Prop := ∀ sp, p.step = some sp → sp.pair < 3

theorem startStep_cmds (c : PathCfg) (p : LegPath) (x : Nat) : ofThreePairs (startStep c p x).2.1 := by
  unfold startStep
  split
  · split
    · exact ofThreePairs_nil
    · exact ofThreePairs_nil
    · next hpath => exact ofThreePairs_cons (pathPairs_head_lt hpath) ofThreePairs_nil
  · exact ofThreePairs_nil

theorem pathOffs_cmds (p : LegPath) (x : Nat) : ofThreePairs (pathOffs p x) := by
  unfold pathOffs
  split
  · exact ofThreePairs_nil
  · intro c hc
    obtain ⟨k, hk, rfl⟩ := List.mem_map.mp hc
    have hmem := List.mem_of_mem_filter hk
    simp only [List.mem_cons, List.not_mem_nil, or_false] at hmem
    show k < 3
    omega

theorem fromOff_cmds (c : PathCfg) (b x : Nat) : ofThreePairs (fromOff c b x) := by
  simp [ofThreePairs, fromOff]

theorem requestState_cmds (c : PathCfg) {p : LegPath} (st : Option Nat) (x : Nat) (h : p.stepOk) : ofThreePairs (requestState c p st x).cmds := by
  unfold requestState
  cases st with
  | none => exact pathOffs_cmds p x
  | some b =>
    cases p.code with
    | none => exact fromOff_cmds c b x
    | some a =>
      cases hs : p.step with
      | none => exact startStep_cmds _ _ _
      | some sp =>
        dsimp only
        split
        · exact ofThreePairs_nil
        · exact ofThreePairs_cons (h sp hs) (startStep_cmds _ _ _)

theorem finishStep_cmds (c : PathCfg) {p : LegPath} (h : p.stepOk) : ofThreePairs (finishStep c p).cmds := by
  unfold finishStep
  split
  · next hs _ => exact ofThreePairs_cons (h _ hs) (startStep_cmds _ _ _)
  · exact ofThreePairs_nil

/-! ### The switches of a leg unit -/

/-- The slices of leg unit `g`. -/
def legSlices (g : Nat) : Set Nat := {j | j / 3 = g}

/-- The status register of the motor that the slices of leg unit `g` drive, if they drive one. -/
def legAuxRegs (g : Nat) : List Nat := if 28 ≤ g ∧ g < 34 then [R.auxStatus (g - 28)] else []

/-- The registers that a command of leg unit `g` can write beside those of `as`. -/
def legRegs (g : Nat) (as : List Nat) : List Nat := as ++ legAuxRegs g ++ [0, 1, 2].map (fun k => R.pwmSliceStatus (3 * g + k))

theorem auxRegs_of_leg {g j : Nat} (h : j ∈ legSlices g) : auxRegs j = legAuxRegs g := by
  have hj : j / 3 = g := h
  unfold auxRegs legAuxRegs
  have hrange : (84 ≤ j ∧ j < 102) ↔ (28 ≤ g ∧ g < 34) := by omega
  have hunit : (j - 84) / 3 = g - 28 := by omega
  simp only [hrange, hunit]

theorem not_drivesAux_of_leg {g : Nat} (h : legAuxRegs g = []) : ∀ j ∈ legSlices g, ¬drivesAux j :=
  fun _ hj => auxRegs_eq_nil ((auxRegs_of_leg hj).trans h)

theorem switchRegs_subset_legRegs {g k : Nat} {as : List Nat} (hk : k < 3) (hs : R.pwmLegStatus g ∈ as) :
    switchRegs (3 * g + k) ⊆ legRegs g as := by
  have hj : 3 * g + k ∈ legSlices g := by
    show (3 * g + k) / 3 = g
    omega
  have hleg : (3 * g + k) / 3 = g := hj
  intro a ha
  rw [switchRegs, hleg, auxRegs_of_leg hj] at ha
  simp only [List.mem_append, List.mem_cons, List.not_mem_nil, or_false] at ha
  simp only [legRegs, List.mem_append]
  rcases ha with (rfl | rfl) | ha
  · exact .inr (List.mem_map.mpr ⟨k, by simp only [List.mem_cons, List.not_mem_nil, or_false]; omega, rfl⟩)
  · exact .inl (.inl hs)
  · exact .inl (.inr ha)

/-- The commands of a path turn switches of the leg alone, by the same rules as those of a slice. -/
theorem State.runCmds_onlySwitches (s : State) {g : Nat} {as : List Nat} {cs : List SwCmd} (hcs : ofThreePairs cs) (hs : R.pwmLegStatus g ∈ as) :
    OnlySwitches (legSlices g) (legRegs g as) s (s.runCmds g cs) := by
  induction cs generalizing s with
  | nil => exact .refl ..
  | cons c cs ih =>
    obtain ⟨hc, hrest⟩ := List.forall_mem_cons.mp hcs
    have hslice : ({3 * g + c.pair} : Set Nat) ⊆ legSlices g := by
      rintro j rfl
      show (3 * g + c.pair) / 3 = g
      omega
    have hregs := switchRegs_subset_legRegs hc hs
    refine OnlySwitches.trans ?_ (ih _ hrest)
    exact .ite ((s.swDue_onlySwitches ..).mono hslice hregs)
      ((s.swOff_onlySwitches ..).mono hslice (List.Subset.trans (auxRegs_subset_switchRegs _) hregs))

section
variable {s : State} {g : Nat}

/-- What a request for a state notes in the registers of the leg unit: no path, and an abandoned step (R224, R225). -/
def State.notePath (s : State) (g : Nat) (o : PathOut) : State :=
  let s := s.raiseIf o.err (R.pwmLegStatus g) 13
  if o.abort then (s.raise (R.pwmLegStatus g) 14).countUp (R.pwmLegCount g) 15 0 1 else s

theorem State.raiseIf_only (s : State) (c : Bool) (a i : Nat) : OnlyRegs s (s.raiseIf c a i) [a] := by
  unfold State.raiseIf
  split
  · exact s.raise_only a i
  · exact .refl ..

theorem State.notePath_only (s : State) (g : Nat) (o : PathOut) : OnlyRegs s (s.notePath g o) [R.pwmLegStatus g, R.pwmLegCount g] := by
  have herr : OnlyRegs s (s.raiseIf o.err (R.pwmLegStatus g) 13) [R.pwmLegStatus g, R.pwmLegCount g] := (s.raiseIf_only ..).mono (by simp)
  unfold State.notePath
  dsimp only
  split
  · exact herr.trans (((State.raise_only ..).mono (by simp)).trans ((State.countUp_only ..).mono (by simp)))
  · exact herr

theorem State.legEntry_due {e : Seg} {rest : List Seg} (hen : s.slEn (3 * g) = true) (hm : s.legMode g = 1) (ht : (s.leg g).todo = e :: rest)
    (hd : (s.leg g).from_ + e.start ≤ s.clk.now) (ho : (s.leg g).ovr = 0) (hh : (s.leg g).hold = none) :
    let o := requestState (s.pathCfg g) (s.leg g).path e.state ((s.leg g).from_ + e.start)
    s.legEntry g = ((s.setLeg g { s.leg g with todo := rest, path := o.path }).notePath g o).runCmds g o.cmds := by
  simp [State.legEntry, State.legEnter, State.notePath, hen, hm, ht, hd, ho, hh]

theorem State.legEntry_idle (h : (s.leg g).ovr ≠ 0 ∨ (s.leg g).hold.isSome = true ∨ (s.leg g).todo = []) : s.legEntry g = s := by
  have hno : s.legEnter g = s := by
    unfold State.legEnter
    dsimp only
    split
    · rfl
    · next e rest ht =>
      refine if_neg fun ⟨_, ho, hh⟩ => ?_
      rcases h with h | h | h
      · exact h ho
      · simp [Option.isNone_iff_eq_none.mp hh] at h
      · rw [ht] at h
        cases h
  rw [State.legEntry, hno, ite_self]

theorem State.legStep_due {sp : LegStepSt} (hs : (s.leg g).path.step = some sp) (hd : sp.due ≤ s.clk.now) (ho : (s.leg g).ovr = 0)
    (hh : (s.leg g).hold = none) :
    let o := finishStep (s.pathCfg g) (s.leg g).path
    s.legStep g = ((s.setLeg g { s.leg g with path := o.path }).raiseIf o.err (R.pwmLegStatus g) 13).runCmds g o.cmds := by
  simp [State.legStep, hs, hd, ho, hh]

theorem State.legStep_idle (h : (s.leg g).path.step = none ∨ (s.leg g).ovr ≠ 0 ∨ (s.leg g).hold.isSome = true) : s.legStep g = s := by
  unfold State.legStep
  dsimp only
  split
  · next sp hs =>
    refine if_neg fun ⟨_, ho, hh⟩ => ?_
    rcases h with h | h | h
    · rw [hs] at h
      cases h
    · exact h ho
    · simp [Option.isNone_iff_eq_none.mp hh] at h
  · rfl

end

/-! ### The commands -/

theorem not_mem_forceRegs {a : Nat} (h : 0x43000000 ≤ a) : a ∉ forceRegs := by
  intro hm
  obtain ⟨k, hk, rfl⟩ := List.mem_map.mp hm
  have hlt := List.mem_range.mp hk
  unfold R.sysDbgForce at h
  omega

theorem pwmSliceStatus_force (i : Nat) : R.pwmSliceStatus i ∉ forceRegs := not_mem_forceRegs (by unfold R.pwmSliceStatus; omega)

theorem pwmLegStatus_force (g : Nat) : R.pwmLegStatus g ∉ forceRegs := not_mem_forceRegs (by unfold R.pwmLegStatus; omega)

/-- A command whose effect is that switches turn in `y`, which has the registers of the state at its instant. -/
theorem State.run_switches {s y z : State} {t : Nat} {f : State → State} {js : Set Nat} {as : List Nat} (e : f (s.upTo t) = z)
    (h : OnlySwitches js as y z) (hp : y.pending = s.pending) (hy : ∀ a, y.rd a = (s.upTo t).rd a) :
    ∃ u, s.run t f = .next u ∧ (s.upTo t).framed { y with slices := u.slices, aux := u.aux } u as ∧ u.slices = z.slices ∧ u.aux = z.aux ∧
      ∀ a, a ∉ forceRegs → u.rd a = z.rd a := by
  have honly : OnlyRegs { y with slices := z.slices, aux := z.aux } z as := ⟨h.state, h.regs⟩
  obtain ⟨u, hu, hfr, hrd⟩ := State.run_onlyRegs e honly hp hy
  have hslices : u.slices = z.slices := by rw [hfr.1]
  have haux : u.aux = z.aux := by rw [hfr.1]
  refine ⟨u, hu, ?_, hslices, haux, hrd⟩
  rw [hslices, haux]
  exact hfr

/-- What a command of slice `i` keeps: all but the slice, the gates it may drive, and registers. -/
def keptBySlice (i : Fin 128) (x u : State) (as : List Nat) : Prop :=
  x.framed { x with slices := u.slices, aux := u.aux } u (as ++ auxRegs i) ∧ (auxRegs i = [] → u.aux = x.aux) ∧
    ∀ j : Fin 128, j ≠ i → u.slice j = x.slice j

/-- What a command of leg unit `g` keeps: all but the unit, its slices, the gates they may drive, and registers. -/
def keptByLeg (g : Fin 42) (x u : State) (as : List Nat) : Prop :=
  x.framed { x with legs := u.legs, slices := u.slices, aux := u.aux } u (legRegs g as) ∧ (legAuxRegs g = [] → u.aux = x.aux) ∧
    (∀ h : Fin 42, h ≠ g → u.leg h = x.leg h) ∧ ∀ j : Fin 128, j.val / 3 ≠ g → u.slice j = x.slice j

section
variable {s : State} {t : Nat}

theorem State.run_sliceSwitches {z : State} {f : State → State} {i : Fin 128} {as : List Nat} (e : f (s.upTo t) = z)
    (h : OnlySwitches {i.val} (as ++ auxRegs i) (s.upTo t) z) :
    ∃ u, s.run t f = .next u ∧ keptBySlice i (s.upTo t) u as ∧ u.slice i = z.slice i ∧ ∀ a, a ∉ forceRegs → u.rd a = z.rd a := by
  obtain ⟨u, hu, hfr, hslices, haux, hrd⟩ := State.run_switches e h (s.upTo_pending t) (fun _ => rfl)
  refine ⟨u, hu, ⟨hfr, fun hnil => ?_, fun j hj => ?_⟩, State.slice_congr hslices i, hrd⟩
  · rw [haux]
    exact h.aux (fun _ hj => hj ▸ auxRegs_eq_nil hnil)
  · rw [State.slice_congr hslices]
    exact h.others j (Fin.val_ne_of_ne hj)

theorem State.run_legSwitches {z : State} {f : State → State} {g : Fin 42} {v : LegSt} {as : List Nat} (e : f (s.upTo t) = z)
    (h : OnlySwitches (legSlices g) (legRegs g as) ((s.upTo t).setLeg g v) z) :
    ∃ u, s.run t f = .next u ∧ keptByLeg g (s.upTo t) u as ∧ u.leg g = v := by
  obtain ⟨u, hu, hfr, hslices, haux, -⟩ := State.run_switches e h (s.upTo_pending t) (fun _ => rfl)
  have hlegs : u.legs = ((s.upTo t).setLeg g v).legs := by rw [hfr.1]
  refine ⟨u, hu, ⟨?_, fun hnil => ?_, fun k hk => ?_, fun j hj => ?_⟩, ?_⟩
  · rw [hlegs]
    exact hfr
  · rw [haux]
    exact h.aux (not_drivesAux_of_leg hnil)
  · rw [State.leg_congr hlegs]
    exact leg_setLeg_ne _ _ _ _ (Fin.val_ne_of_ne hk)
  · rw [State.slice_congr hslices]
    exact h.others j hj
  · rw [State.leg_congr hlegs, leg_setLeg]

section
variable {i : Fin 128}

/-- A dwell without a state: both switches go off (R216, R217). -/
theorem exec_sliceEdge_blocked {g : Seg} {rest : List Seg} (hen : (s.upTo t).slEn i = true) (hanpc : (s.upTo t).slAnpc i = false)
    (ht : ((s.upTo t).slice i).todo = g :: rest) (hd : ((s.upTo t).slice i).from_ + g.start ≤ (s.upTo t).clk.now)
    (hh : (s.upTo t).sliceHeld i = false) (hst : g.state = none) :
    ∃ u, exec (.sliceEdge t i) s = .next u ∧ keptBySlice i (s.upTo t) u [] ∧
      (u.slice i).aOn = false ∧ (u.slice i).bOn = false ∧ (u.slice i).req = none ∧ (u.slice i).todo = rest := by
  have e := State.sliceEdge_due hen hanpc ht hd hh
  rw [hst] at e
  obtain ⟨u, hu, hkept, hslice, -⟩ := State.run_sliceSwitches (f := fun x => x.sliceEdge i) (as := []) e
    ((State.setSlice_onlySwitches ..).trans (State.sliceRequest_none_onlySwitches ..))
  refine ⟨u, hu, hkept, ?_⟩
  rw [hslice, State.sliceRequest_none_slice, slice_setSlice]
  exact ⟨rfl, rfl, rfl, rfl⟩

/-- A dwell with A on: B goes off at once, and A waits for its dead time (R217). -/
theorem exec_sliceEdge_high {g : Seg} {rest : List Seg} (hen : (s.upTo t).slEn i = true) (hanpc : (s.upTo t).slAnpc i = false)
    (ht : ((s.upTo t).slice i).todo = g :: rest) (hd : ((s.upTo t).slice i).from_ + g.start ≤ (s.upTo t).clk.now)
    (hh : (s.upTo t).sliceHeld i = false) (hst : g.state = some 1) (ha : ((s.upTo t).slice i).aOn = false)
    (hdead : (s.upTo t).clk.now < ((s.upTo t).slice i).from_ + g.start + (s.upTo t).slDtR i) :
    ∃ u, exec (.sliceEdge t i) s = .next u ∧ keptBySlice i (s.upTo t) u [] ∧ (u.slice i).bOn = false ∧ (u.slice i).aOn = false ∧
      (u.slice i).due = some (true, ((s.upTo t).slice i).from_ + g.start + (s.upTo t).slDtR i) := by
  let y := (s.upTo t).setSlice i { (s.upTo t).slice i with todo := rest }
  have e := State.sliceEdge_due hen hanpc ht hd hh
  have haOff : (y.slice i).aOn = false := by rw [slice_setSlice]; exact ha
  rw [hst, State.sliceRequest_high (s := y) haOff hdead] at e
  obtain ⟨u, hu, hkept, hslice, -⟩ := State.run_sliceSwitches (f := fun x => x.sliceEdge i) (as := []) e
    (((State.setSlice_onlySwitches ..).trans (State.highOff_onlySwitches ..)).trans (State.setSlice_onlySwitches ..))
  refine ⟨u, hu, hkept, ?_⟩
  rw [hslice, slice_setSlice, State.highOff_slice]
  exact ⟨rfl, haOff, rfl⟩

/-- A slice without a dwell to come, under an override, or off. -/
theorem exec_sliceEdge_idle (h : ((s.upTo t).slice i).todo = [] ∨ (s.upTo t).sliceHeld i = true ∨ (s.upTo t).slEn i = false) :
    ∃ u, exec (.sliceEdge t i) s = .next u ∧ (s.upTo t).framed (s.upTo t) u [] :=
  State.run_same (f := fun x => x.sliceEdge i) (State.sliceEdge_idle h) (s.upTo_pending t) (fun _ => rfl)

section
variable {k : Nat} (hdue : ((s.upTo t).slice i).due = some (true, k)) (hk : k ≤ (s.upTo t).clk.now) (h : (s.upTo t).JudgedOn i)
include hdue hk h

/-- The pending turn-on of A comes on (R217). -/
theorem exec_deadTimeEnd_free (hb : ((s.upTo t).slice i).bOn = false) (hdead : ((s.upTo t).slice i).bOffAt + (s.upTo t).slDtR i ≤ k) :
    ∃ u, exec (.deadTimeEnd t i) s = .next u ∧ keptBySlice i (s.upTo t) u [] ∧ (u.slice i).aOn = true ∧ (u.slice i).due = none := by
  have e := State.deadTimeEnd_due hdue hk
  rw [State.swOn_free h.dropDue (by rw [slice_setSlice]; exact hb) (by rw [slice_setSlice]; exact hdead)] at e
  obtain ⟨u, hu, hkept, hslice, -⟩ := State.run_sliceSwitches (f := fun x => x.deadTimeEnd i) (as := []) e
    (((State.setSlice_onlySwitches ..).trans (State.setSlice_onlySwitches ..)).trans (State.auxSwitched_onlySwitches ..))
  refine ⟨u, hu, hkept, ?_⟩
  rw [hslice, State.auxSwitched_slice, slice_setSlice, slice_setSlice]
  exact ⟨rfl, rfl⟩

/-- The interlock bars the pending turn-on of A (R228). -/
theorem exec_deadTimeEnd_barred (hb : ((s.upTo t).slice i).bOn = true) :
    ∃ u, exec (.deadTimeEnd t i) s = .next u ∧ keptBySlice i (s.upTo t) u [R.pwmSliceStatus i, R.pwmLegStatus (i.val / 3)] ∧
      (u.slice i).aOn = ((s.upTo t).slice i).aOn ∧ u.rdB (R.pwmSliceStatus i) 17 = true ∧
      (i.val < 126 → u.rdB (R.pwmLegStatus (i.val / 3)) 10 = true) := by
  have e := State.deadTimeEnd_due hdue hk
  rw [State.swOn_barred h.dropDue (by rw [slice_setSlice]; exact hb)] at e
  obtain ⟨u, hu, hkept, hslice, hrd⟩ := State.run_sliceSwitches (f := fun x => x.deadTimeEnd i)
    (as := [R.pwmSliceStatus i, R.pwmLegStatus (i.val / 3)]) e
    ((State.setSlice_onlySwitches ..).trans (State.setSlice_interlockHit_onlySwitches ..))
  refine ⟨u, hu, hkept, ?_, ?_, fun hi => ?_⟩
  · rw [hslice, State.interlockHit_slice, slice_setSlice, slice_setSlice]
  · rw [State.rdB, hrd _ (pwmSliceStatus_force i)]
    exact State.interlockHit_sliceFlag ..
  · rw [State.rdB, hrd _ (pwmLegStatus_force _)]
    exact State.interlockHit_legFlag _ _ hi

end

/-- A slice without a pending turn-on. -/
theorem exec_deadTimeEnd_idle (h : ((s.upTo t).slice i).due = none) :
    ∃ u, exec (.deadTimeEnd t i) s = .next u ∧ (s.upTo t).framed (s.upTo t) u [] :=
  State.run_same (f := fun x => x.deadTimeEnd i) (State.deadTimeEnd_idle h) (s.upTo_pending t) (fun _ => rfl)

end

section
variable {g : Fin 42}

/-- The next entry of a list: its state is requested of the leg's path (R223-R225). -/
theorem exec_legEntry_due {e : Seg} {rest : List Seg} (hen : (s.upTo t).slEn (3 * g.val) = true) (hm : (s.upTo t).legMode g = 1)
    (ht : ((s.upTo t).leg g).todo = e :: rest) (hd : ((s.upTo t).leg g).from_ + e.start ≤ (s.upTo t).clk.now) (ho : ((s.upTo t).leg g).ovr = 0)
    (hh : ((s.upTo t).leg g).hold = none) (hstep : ((s.upTo t).leg g).path.stepOk) :
    let x := s.upTo t; let l := x.leg g
    ∃ u, exec (.legEntry t g) s = .next u ∧ keptByLeg g x u [R.pwmLegStatus g, R.pwmLegCount g] ∧
      u.leg g = { l with todo := rest, path := (requestState (x.pathCfg g) l.path e.state (l.from_ + e.start)).path } := by
  intro x l
  let o := requestState (x.pathCfg g) l.path e.state (l.from_ + e.start)
  have hnote := (State.notePath_only (x.setLeg g { l with todo := rest, path := o.path }) g o).onlySwitches (legSlices g)
  exact State.run_legSwitches (f := fun x => x.legEntry g) (as := [R.pwmLegStatus g, R.pwmLegCount g]) (State.legEntry_due hen hm ht hd ho hh)
    ((hnote.mono subset_rfl (by simp [legRegs])).trans (State.runCmds_onlySwitches _ (requestState_cmds _ _ _ hstep) (by simp)))

/-- A leg unit under an override, or without an entry to come. -/
theorem exec_legEntry_idle (h : ((s.upTo t).leg g).ovr ≠ 0 ∨ ((s.upTo t).leg g).hold.isSome = true ∨ ((s.upTo t).leg g).todo = []) :
    ∃ u, exec (.legEntry t g) s = .next u ∧ (s.upTo t).framed (s.upTo t) u [] :=
  State.run_same (f := fun x => x.legEntry g) (State.legEntry_idle h) (s.upTo_pending t) (fun _ => rfl)

/-- The end of a step's dead time: the leg goes on along its path (R224). -/
theorem exec_legStep_due {sp : LegStepSt} (hs : ((s.upTo t).leg g).path.step = some sp) (hp : sp.pair < 3) (hd : sp.due ≤ (s.upTo t).clk.now)
    (ho : ((s.upTo t).leg g).ovr = 0) (hh : ((s.upTo t).leg g).hold = none) :
    let x := s.upTo t; let l := x.leg g
    ∃ u, exec (.legStep t g) s = .next u ∧ keptByLeg g x u [R.pwmLegStatus g] ∧
      u.leg g = { l with path := (finishStep (x.pathCfg g) l.path).path } := by
  have hstep : ((s.upTo t).leg g).path.stepOk := fun sp' hs' => Option.some.inj (hs.symm.trans hs') ▸ hp
  intro x l
  let o := finishStep (x.pathCfg g) l.path
  have hnote := (State.raiseIf_only (x.setLeg g { l with path := o.path }) o.err (R.pwmLegStatus g) 13).onlySwitches (legSlices g)
  exact State.run_legSwitches (f := fun x => x.legStep g) (as := [R.pwmLegStatus g]) (State.legStep_due hs hd ho hh)
    ((hnote.mono subset_rfl (by simp [legRegs])).trans (State.runCmds_onlySwitches _ (finishStep_cmds _ hstep) (by simp)))

/-- A leg unit without a step in progress, or under an override. -/
theorem exec_legStep_idle (h : ((s.upTo t).leg g).path.step = none ∨ ((s.upTo t).leg g).ovr ≠ 0 ∨ ((s.upTo t).leg g).hold.isSome = true) :
    ∃ u, exec (.legStep t g) s = .next u ∧ (s.upTo t).framed (s.upTo t) u [] :=
  State.run_same (f := fun x => x.legStep g) (State.legStep_idle h) (s.upTo_pending t) (fun _ => rfl)

end
end

/-- Settles O23: each command is its operation run at its instant, in the case that the premises name. -/
theorem slicesAndLegUnitsFollowTheirLists : Obligations.SlicesAndLegUnitsFollowTheirLists := by
  refine ⟨fun t i s => ⟨fun g rest hen hanpc ht hd hh => ⟨?_, ?_⟩, ?_, fun k hdue hk hanpc hcmd hown => ⟨?_, ?_⟩, ?_⟩,
    fun t g s => ⟨fun e rest hen hm ht hd ho hh hstep => ?_, ?_, fun sp hs hp hd ho hh => ?_, ?_⟩⟩
  · exact exec_sliceEdge_blocked hen hanpc ht hd hh
  · exact exec_sliceEdge_high hen hanpc ht hd hh
  · exact exec_sliceEdge_idle
  · exact exec_deadTimeEnd_free hdue hk ⟨hanpc, hcmd, hown⟩
  · exact exec_deadTimeEnd_barred hdue hk ⟨hanpc, hcmd, hown⟩
  · exact exec_deadTimeEnd_idle
  · exact exec_legEntry_due hen hm ht hd ho hh hstep
  · exact exec_legEntry_idle
  · exact exec_legStep_due hs hp hd ho hh
  · exact exec_legStep_idle

end Sys2Proof.Machine
end

section
/-! What a command can store: the bytes of memory and the driver boards lie in the frame, and of the commands only those that say so touch them
(R239, R255, R408). -/

namespace Sys2Proof.Machine

section
variable {s u : State} {t : Nat} {f : State → State}

/-! ### What is stored -/

/-- What the bytes of memory are read from: the numbers of the regions and the listed bytes. -/
def State.stored (s : State) : Tab Nat × Tab Byte := (s.mem.epoch, s.mem.cells)

theorem State.byte_of_stored (h : u.stored = s.stored) (a : Nat) : u.byte a = s.byte a := by
  obtain ⟨hepoch, hcells⟩ := Prod.mk.inj h
  unfold State.byte
  rw [hepoch, hcells]

/-- What is stored lies in the frame. -/
theorem stored_of_mem (h : u.frame.mem = s.frame.mem) : u.stored = s.stored :=
  congrArg (fun m : MemSt => (m.epoch, m.cells)) h

theorem stored_of_frame (h : u.frame = s.frame) : u.stored = s.stored := stored_of_mem (congrArg Frame.mem h)

/-- What an effect leaves stored, its run leaves. -/
theorem State.run_stored (hf : ∀ x : State, (f x).stored = x.stored) (he : s.run t f = .next u) : u.stored = s.stored :=
  (stored_of_frame (State.run_frame he)).trans ((hf _).trans (stored_of_frame (s.upTo_frame t)))

/-- The run of an effect that leaves the frame. -/
theorem State.run_stored_of_frame (hf : ∀ x : State, (f x).frame = x.frame) (he : s.run t f = .next u) : u.stored = s.stored :=
  State.run_stored (fun x => stored_of_frame (hf x)) he

theorem State.runBits_stored {i : Nat} {bits : List Bool} (he : s.runBits t i bits = .next u) : u.stored = s.stored := by
  cases he
  exact stored_of_frame ((State.settle_frame _).trans ((State.upTo_frame _ _).trans (s.captureTo_frame i t bits)))

/-- A register outside the three blocks whose writes may reach memory. -/
def plainReg (a : Nat) : Bool := isReg a && !memBlock (a / 0x100000)

/-- A word written to such a register stores nothing. -/
theorem State.run_plainWord {who : Initiator} {a : Nat} {w : Word} (ha : plainReg a = true)
    (he : s.run t (fun x => x.busWord who a w) = .next u) : u.stored = s.stored := by
  obtain ⟨hreg, hblock⟩ := Bool.and_eq_true_iff.mp ha
  rw [Bool.not_eq_true'] at hblock
  exact State.run_stored_of_frame (fun x => x.busWord_frame who a w hreg (x.regWrite_frame (some who) a w hblock)) he

/-- A word written to a register whose own write leaves the frame stores nothing. -/
theorem State.run_word_stored {who : Initiator} {a : Nat} {w : Word} (ha : isReg a = true)
    (hw : ∀ x : State, (x.regWrite (some who) a w).frame = x.frame) (he : s.run t (fun x => x.busWord who a w) = .next u) :
    u.stored = s.stored :=
  State.run_stored_of_frame (fun x => x.busWord_frame who a w ha (hw x)) he

theorem State.scrubPass_stored (s : State) (c v : List Nat) : (s.scrubPass c v).stored = s.stored := by
  have hfound : ∀ (x : State) (a : Nat), (x.eccFound a).stored = x.stored := fun x a =>
    (stored_of_frame (State.eccUncorrectable_frame ..)).trans rfl
  have hall : ∀ (l : List Nat) (x : State), (l.foldl State.eccFound x).stored = x.stored := by
    intro l
    induction l with
    | nil => exact fun _ => rfl
    | cons a l ih => exact fun x => (ih _).trans (hfound x a)
  unfold State.scrubPass
  split
  · rfl
  · exact (hall _ _).trans (stored_of_frame (foldl_frame _ _ _ State.eccCorrected_frame))

/-- A request of the Ulile agent other than a write stores nothing. -/
theorem State.uliServe_frame (s : State) {cmd : Nat} (hc : cmd ≠ 2) : (s.uliServe cmd).frame = s.frame := by
  have hitem : ∀ (r : UliReq), msgCmd r.msg = cmd → (s.uliServeItem r.msg s.uli.item).1.frame = s.frame := by
    intro r hr
    unfold State.uliServeItem
    split
    · exact State.uliReadPoint_frame ..
    · next h2 => exact absurd (hr.symm.trans h2) hc
    · exact State.uliReadMem_frame ..
    · exact State.uliReadPoint_frame ..
  unfold State.uliServe
  split
  · rfl
  · next r _ =>
    split
    · rfl
    · next hr =>
      split
      · exact State.uliReply_frame ..
      · have hx := hitem r (not_not.mp hr)
        simp only []
        generalize s.uliServeItem r.msg s.uli.item = x at hx
        split
        · exact (State.uliReply_frame ..).trans hx
        · exact (mk_frame ..).trans ((frame_fold _).trans hx)

theorem State.capCtrlWrite_arm_frame (s : State) (k : Nat) : (s.capCtrlWrite k 1#32).frame = s.frame := s.recArm_frame k

theorem State.ferryCtrl_go_frame (s : State) (q : Nat) : (s.ferryCtrl q 1#32).frame = s.frame := s.ferryGo_frame q

theorem State.ferryCtrl_resume_frame (s : State) (q : Nat) : (s.ferryCtrl q 4#32).frame = s.frame := s.ferryResume_frame q

/-! ### The commands -/

/-- An event, an access or a read that neither may store nor is the meter's or a board's leaves every stored byte: what it runs leaves the frame,
and the scrubber writes back what it reads. -/
theorem exec_stored_of_other {c : Instr} (hs : storesMemory c = false) (hm : turnsMeter c = false) (hb : movesBoard c = false)
    (he : exec c s = .next u) : u.stored = s.stored := by
  cases c with
  -- words written to registers whose blocks never store
  | sysLockSet | seqStart | seqStop | coreDone | restoreA | restoreB | subForce | sarSwReg | sarSwInj | sarCal | bankSwapRequest | vecStart
    | vecStop | ascReq | ascExit | gfeStart | gfeStop | gfeApply | bsStart | bsAbort | txSend | sndRxPop | pwmCcommit | auxStart | auxStop |
    auxClear | latchClear | chopFaultClear | ov3TripClear | smonRel | watchdogService | dischStart | dischAbort | dischDoneClear |
    islRefresh | islLoadLog | islAcknowledge | islTestMode | timeIncWrite | timeSet | timeStep | canTxReq | canTxAbort | boRecover |
    canRxPop | canRxaRel | tscCap | sleepReq | cpRestart | irqComplete | swiSet | iommuInvalidate | pmuFreezeWrite | dbgLevelWrite |
    debugForce | pdmOff | pdmOn =>
    dsimp only [exec] at he
    refine State.run_plainWord ?_ he
    clear he hs hm hb
    decide +revert
  -- words written to a unit of the recorder, the Ferry or start-up, which store by other bits only
  | recArm t who k =>
    exact State.run_word_stored (by clear he hs hm hb; decide +revert) (fun x => (x.regWrite_recCapCtrl _ k _).symm ▸ x.capCtrlWrite_arm_frame k) he
  | recFire => exact State.run_word_stored (a := R.recFire) (by decide) (fun x => x.recSoftFire_frame _) he
  | slotFree t who k => exact State.run_word_stored (by clear he hs hm hb; decide +revert) (fun x => (x.regWrite_recCapFull _ k _).symm ▸ x.slotFree_frame k _) he
  | recServiceWrite t who k v =>
    have hroute : ∀ x : State, x.regWrite (some who) (R.recCapService k) (v.setWidth 32) = x.storeReg (R.recCapService k) (v.setWidth 32) := by
      fin_cases k <;> exact fun _ => rfl
    exact State.run_word_stored (by clear hroute he hs hm hb; decide +revert) (fun x => (hroute x).symm ▸ x.storeReg_frame _ _) he
  | ferryGo t who q =>
    exact State.run_word_stored (by clear he hs hm hb; decide +revert) (fun x => (x.regWrite_fryQCtrl _ q _).symm ▸ x.ferryCtrl_go_frame q) he
  | ferryResume t who q =>
    exact State.run_word_stored (by clear he hs hm hb; decide +revert) (fun x => (x.regWrite_fryQCtrl _ q _).symm ▸ x.ferryCtrl_resume_frame q) he
  | flashRead | flashProgram | flashErase => exact State.run_word_stored (a := R.bootFlashCmd) (by decide) (fun x => x.flashCmd_frame _) he
  | otpAdvSecver | otpRevoke => exact State.run_word_stored (a := R.bootOtpCmd) (by decide) (fun x => x.otpCmd_frame _) he
  -- reads
  | timeNsRead | pwmTbLoRead | omegaAccHiRead | pmuEvenRead | ethTsPop | irqClaim | iommuFaultPop =>
    exact State.run_stored_of_frame (fun x => x.busRead_frame _ _ _) he
  | ulileRead | ulileMemoryRead | ulileIdentify => exact State.run_stored_of_frame (fun x => x.uliServe_frame (by decide)) he
  -- bits of a chain
  | cicOutput | stuck | stuckClear | pfFire | pfClear | dcThresholdCrossing => exact State.runBits_stored he
  -- the scrubber rewrites what it reads
  | scrubPass => exact State.run_stored (fun x => x.scrubPass_stored _ _) he
  -- the commands that may store, and those of the meter and of the boards, are excluded
  | registerWrite | mirroredWrite | sampleInstant | intervalClose | recStop | slotComplete | ulileWrite | ferryAbort | ferryBurstStart |
    ferryBurstComplete | powerOnReset | resetN | softwareReset | debugReset | resetRelease | cwyLanesUp | cwyJoinFrame | partnerSearchTimeout |
    domainOnComplete => cases hs
  | meterQuantum | straitPowerFall | straitPowerReturn | sealChange | calWriteStaging | calCommit => cases hm
  | driverFrame | driverClaimLapse | driverEdgeExecute | driverSilence | driverGateFault | driverStatusSend | portSyncLoss |
    driverGateSupplyReturn | driverPowerUp => cases hb
  -- every other event runs an operation that leaves the frame
  | _ =>
    dsimp only [exec] at he
    exact State.run_stored_of_frame (fun x => by simp) he

/-- What an effect leaves outside the meter, its run leaves. -/
theorem State.run_offMeter (hf : ∀ x : State, (f x).offMeter = x.offMeter) (he : s.run t f = .next u) : u.offMeter = s.offMeter :=
  (offMeter_of_frame (State.run_frame he)).trans ((hf _).trans (offMeter_of_frame (s.upTo_frame t)))

/-- A command of the meter leaves everything else of the frame. -/
theorem exec_offMeter {c : Instr} (hm : turnsMeter c = true) (he : exec c s = .next u) : u.offMeter = s.offMeter := by
  cases c with
  | meterQuantum => exact State.run_offMeter (fun x => x.meterQuantum_offMeter _ _) he
  | straitPowerFall => exact State.run_offMeter (fun x => (offMeter_of_frame (State.wrB_frame _ _ _ _)).trans (x.straitFall_offMeter _ _)) he
  | straitPowerReturn => exact State.run_offMeter (fun x => (offMeter_of_frame (State.wrB_frame _ _ _ _)).trans (x.straitReturn_offMeter _)) he
  | sealChange => exact State.run_offMeter (fun x => x.sealChange_offMeter _) he
  | calWriteStaging => exact State.run_offMeter (fun x => x.calWrite_offMeter _ _ _) he
  | calCommit => exact State.run_offMeter (fun x => x.calCommit_offMeter _ _) he
  | _ => cases hm

/-- Only the commands that may store change a stored byte: the meter's and the boards' have memory outside their part of the frame. -/
theorem exec_stored {c : Instr} (hs : storesMemory c = false) (he : exec c s = .next u) : u.stored = s.stored := by
  cases hm : turnsMeter c with
  | true => exact stored_of_mem (congrArg Prod.fst (exec_offMeter hm he))
  | false =>
    cases hb : movesBoard c with
    | true =>
      have hkept : u.offBoards.mem = s.offBoards.mem := congrArg Frame.mem (exec_offBoards hb he)
      exact stored_of_mem hkept
    | false => exact exec_stored_of_other hs hm hb he

/-- Only the boards' own commands move a board. -/
theorem exec_boards {c : Instr} (hb : movesBoard c = false) (he : exec c s = .next u) : u.boards = s.boards := by
  cases hm : turnsMeter c with
  | true => exact congrArg (fun p : MemSt × Tab BoardSt × Variant => p.2.1) (exec_offMeter hm he)
  | false =>
    obtain ⟨-, hrest⟩ := exec_ok hm hb he s.okFor_self
    exact congrArg Frame.boards hrest

/-- Settles O4: the bytes of memory are read from what is stored, which only the storing commands change, and the boards are a part of the frame
that only their own commands change. -/
theorem storesAndBoardsHaveTheirCommands : Obligations.StoresAndBoardsHaveTheirCommands := by
  refine ⟨fun c s u hs he a => ?_, fun c s u hb he => ?_⟩
  · exact State.byte_of_stored (exec_stored hs he) a
  · exact exec_boards hb he

end

end Sys2Proof.Machine
end

section
/-! The driver boards (R241, R252-R263, R265): what each operation of a board keeps of what its ports have heard, what its own commands leave, and from
this the next state of each command. -/

namespace Sys2Proof.Machine

/-! ### Bytes of a frame (R241) -/

/-- A number is read back from its bytes, within their count. -/
theorem natLE_bytesLE (n x : Nat) : natLE (bytesLE n x) = x % 256 ^ n := by
  induction n generalizing x with
  | zero => simp [bytesLE, natLE, Nat.mod_one]
  | succ n ih =>
    have hbyte : (BitVec.ofNat 8 x).toNat = x % 256 := BitVec.toNat_ofNat x 8
    rw [bytesLE, natLE, ih, hbyte, pow_succ', Nat.mod_mul]

/-- The type of a frame is its byte 1. -/
theorem fieldLE_mkFrame_type (type claim seq : Nat) (pl : List Byte) : fieldLE (mkFrame type claim seq pl) 1 1 = type % 256 := by
  simp [mkFrame, fieldLE, natLE]

/-- The payload of a frame begins at its byte 5. -/
theorem fieldLE_mkFrame_payload (type claim seq i n : Nat) {pl : List Byte} (h : i + n ≤ pl.length) :
    fieldLE (mkFrame type claim seq pl) (5 + i) n = fieldLE pl i n := by
  unfold fieldLE mkFrame
  simp only [bytesLE, List.cons_append, List.nil_append]
  rw [Nat.add_comm 5 i]
  simp only [List.drop_succ_cons]
  rw [List.drop_append_of_le_length (by omega), List.take_append_of_le_length (by simp; omega)]

/-! ### The ports of a board -/

@[simp] theorem BoardSt.port_setPort (b : BoardSt) (p : Nat) (v : PortSt) : (b.setPort p v).port p = v := tabGet_set_same ..

@[simp] theorem BoardSt.port_setPort_ne (b : BoardSt) {p q : Nat} (v : PortSt) (h : q ≠ p) : (b.setPort p v).port q = b.port q := tabGet_set_ne _ _ _ _ _ h

/-- What a port has heard: its claim, the end of its last valid frame, and whether the claim has lapsed (R254). -/
def PortSt.hearing (v : PortSt) : Nat × Option Nat × Bool := (v.claim, v.heardAt, v.lapsed)

@[simp] theorem PortSt.mk_hearing (claim : Nat) (heardAt : Option Nat) (lapsed synced : Bool) (offset : Int) (lead cfgCrc echo : Nat)
    (queue : List BoardEdge) (lastState : Option (Nat × List Byte)) (lastHold late : Bool) (rxErr : Nat) (sent : List Byte) :
    (PortSt.mk claim heardAt lapsed synced offset lead cfgCrc echo queue lastState lastHold late rxErr sent).hearing =
      (claim, heardAt, lapsed) := by unfold PortSt.hearing; exact (rfl)

@[simp] theorem PortSt.hearing_fold (v : PortSt) : (v.claim, v.heardAt, v.lapsed) = v.hearing := by unfold PortSt.hearing; exact (rfl)

/-- What a port has heard, read from the table of the ports. -/
def hearingOf (ports : Tab PortSt) (p : Nat) : Nat × Option Nat × Bool := (tabGet (fun _ => PortSt.init) ports p).hearing

/-- What port `p` of a board has heard. -/
def BoardSt.hearing (b : BoardSt) (p : Nat) : Nat × Option Nat × Bool := hearingOf b.ports p

@[simp] theorem hearingOf_ports (b : BoardSt) (p : Nat) : hearingOf b.ports p = b.hearing p := rfl

/-- What the ports have heard does not lie in the other parts of a board. -/
@[simp] theorem BoardSt.mk_hearing (mode : BoardMode) (ports : Tab PortSt) (active nAcc : Option Nat) (acc : List BoardEdge)
    (levels locked : Nat) (offAt : Tab Nat) (due : List (Nat × Nat × Nat)) (onCmd profs : Tab Nat) (discard supply : Nat) (cfg : Tab Nat)
    (got : Tab Bool) (cmd : List Byte) (undo : Option (Nat × BoardCh)) (p : Nat) :
    (BoardSt.mk mode ports active nAcc acc levels locked offAt due onCmd profs discard supply cfg got cmd undo).hearing p =
      hearingOf ports p := rfl

/-- A change of a port that keeps what it has heard. -/
@[simp] theorem BoardSt.hearing_setPort (b : BoardSt) (q p : Nat) (v : PortSt) (h : v.hearing = (b.port q).hearing) :
    (b.setPort q v).hearing p = b.hearing p := by
  show ((b.setPort q v).port p).hearing = (b.port p).hearing
  by_cases hp : p = q
  · rw [hp, BoardSt.port_setPort, h]
  · rw [BoardSt.port_setPort_ne _ _ hp]

@[simp] theorem BoardSt.hearing_foldl {α : Type} (b : BoardSt) (p : Nat) (xs : List α) (f : BoardSt → α → BoardSt)
    (h : ∀ b x, (f b x).hearing p = b.hearing p) : (xs.foldl f b).hearing p = b.hearing p := by
  induction xs generalizing b with
  | nil => rfl
  | cons x xs ih => exact (ih _).trans (h b x)

section
variable (b : BoardSt) (p : Nat)

@[simp] theorem BoardSt.off_hearing (c prof x : Nat) : (b.off c prof x).hearing p = b.hearing p := by simp [BoardSt.off]

@[simp] theorem BoardSt.countDiscard_hearing (n : Nat) : (b.countDiscard n).hearing p = b.hearing p := by simp [BoardSt.countDiscard]

@[simp] theorem BoardSt.noteLate_hearing : b.noteLate.hearing p = b.hearing p := by
  unfold BoardSt.noteLate
  simp

@[simp] theorem BoardSt.accept_hearing (x : Nat) (e : BoardEdge) : (b.accept x e).hearing p = b.hearing p := by
  unfold BoardSt.accept
  simp [apply_ite (BoardSt.hearing · p)]

@[simp] theorem BoardSt.allOff_hearing (x : Nat) : (b.allOff x).hearing p = b.hearing p := by
  unfold BoardSt.allOff
  simp

@[simp] theorem BoardSt.enter_hearing (m : BoardMode) (x : Nat) : (b.enter m x).hearing p = b.hearing p := by
  unfold BoardSt.enter
  cases m with
  | run => simp
  | safe | hold | fault => simp

@[simp] theorem BoardSt.leaveSafe_hearing (x : Nat) : (b.leaveSafe x).hearing p = b.hearing p := by
  unfold BoardSt.leaveSafe
  split
  · split <;> simp
  · rfl

@[simp] theorem BoardSt.frameWins_hearing (x : Nat) : (b.frameWins x).hearing p = b.hearing p := by
  unfold BoardSt.frameWins
  split
  · split <;> simp
  · simp

@[simp] theorem BoardSt.dropQueued_hearing (q mask : Nat) : (b.dropQueued q mask).hearing p = b.hearing p :=
  by simp [BoardSt.dropQueued]

@[simp] theorem BoardSt.stateFrame_hearing (pl : List Byte) (x : Nat) : (b.stateFrame pl x).hearing p = b.hearing p := by
  unfold BoardSt.stateFrame
  simp only
  split
  · simp [apply_ite (BoardSt.hearing · p)]
  split
  · simp
  · rw [BoardSt.hearing_foldl]
    · simp [apply_ite (BoardSt.hearing · p)]
    · intro b c
      split
      · split <;> simp
      · rfl

@[simp] theorem BoardSt.takeState_hearing (q : Nat) (pl : List Byte) (x : Nat) : (b.takeState q pl x).hearing p = b.hearing p := by
  unfold BoardSt.takeState
  simp [apply_ite (BoardSt.hearing · p)]

@[simp] theorem BoardSt.takeHold_hearing (x : Nat) : (b.takeHold x).hearing p = b.hearing p := by simp [BoardSt.takeHold]

@[simp] theorem BoardSt.changePort_hearing (q x : Nat) : (b.changePort q x).hearing p = b.hearing p := by
  unfold BoardSt.changePort
  extract_lets b1 es b2 old b3 now b4
  have h2 : b2.hearing p = b.hearing p := by simp [b2, b1, apply_ite (BoardSt.hearing · p)]
  have h3 : b3.hearing p = b2.hearing p := b2.hearing_setPort q p _ rfl
  have h4 : b4.hearing p = b3.hearing p := by
    clear_value b3
    simp only [b4]
    split
    · exact b3.takeHold_hearing p x
    · split
      · split <;> simp
      · rfl
  calc (b4.leaveSafe x).hearing p = b4.hearing p := b4.leaveSafe_hearing p x
    _ = b.hearing p := h4.trans (h3.trans h2)

@[simp] theorem BoardSt.rejudge_hearing (x : Nat) : (b.rejudge x).hearing p = b.hearing p := by
  unfold BoardSt.rejudge
  simp only
  split
  · rfl
  · split <;> simp

@[simp] theorem BoardSt.epoch_hearing (q : Nat) (pl : List Byte) (x : Nat) : (b.epoch q pl x).hearing p = b.hearing p :=
  BoardSt.hearing_setPort _ q p _ rfl

@[simp] theorem BoardSt.config_hearing (pl : List Byte) : (b.config pl).hearing p = b.hearing p := by
  unfold BoardSt.config
  split
  · rfl
  · simp only
    split <;> simp

end

/-! ### Frames at a port (R241, R254, R255) -/

section
variable (b : BoardSt) (p : Nat)

/-- The claim of a port that has been heard lapses once its time is over, and the active port is judged again (R254). -/
theorem BoardSt.lapse_due {t h : Nat} (hh : (b.port p).heardAt = some h) (hl : (b.port p).lapsed = false) (hd : h + claimLapse < t) :
    b.lapse p t = (b.setPort p { b.port p with lapsed := true }).rejudge (h + claimLapse) := by
  simp [BoardSt.lapse, hh, hl, hd]

/-- A port without a frame, or whose claim has lapsed, has no claim to lapse. -/
theorem BoardSt.lapse_idle {t : Nat} (h : (b.port p).heardAt = none ∨ (b.port p).lapsed = true) : b.lapse p t = b := by
  unfold BoardSt.lapse
  simp only
  rcases h with h | h
  · rw [h]
  · split
    · simp [h]
    · rfl

end

section
variable {x : State} {l p : Nat} {bytes : List Byte}

/-- The frames that a board hears are valid and of the types 0 to 5; it has the frame's claim from the frame's end on, whatever the frame commands. -/
theorem State.driverFrame_heard (hv : downValid bytes = true) (ht : fieldLE bytes 1 1 ≤ 5) :
    ∃ b, x.driverFrame l p true bytes = x.setBoard l b ∧ b.hearing p = (fieldLE bytes 2 1, some x.clk.now, false) := by
  unfold State.driverFrame
  extract_lets +onlyGivenNames now c old
  rw [if_neg (by simp [hv])]
  extract_lets +onlyGivenNames type
  rw [if_neg (Nat.not_lt.mpr ht)]
  extract_lets +onlyGivenNames pl pt1 pt2 c1 c2 was es pt3 c3 c4 c5
  refine ⟨_, rfl, ?_⟩
  have h1 : c1.hearing p = (fieldLE bytes 2 1, some now, false) := by
    show ((c.setPort p pt2).port p).hearing = _
    rw [BoardSt.port_setPort]
    simp only [pt2]
    split
    · rfl
    · split <;> rfl
  have h2 : c2.hearing p = c1.hearing p := by
    simp only [c2]
    split
    · exact c1.epoch_hearing p p _ _
    · rfl
  have h3 : c3.hearing p = c2.hearing p := by
    clear_value c2
    simp only [c3]
    split
    · split <;> simp [pt3]
    · rfl
  have h4 : c4.hearing p = c3.hearing p := c3.rejudge_hearing p _
  have h5 : c5.hearing p = c4.hearing p := by
    clear_value c4 type
    simp only [c5]
    split
    · split <;> simp
    · split
      · simp
      · split <;> simp
  exact (c5.leaveSafe_hearing p _).trans (h5.trans (h4.trans (h3.trans (h2.trans h1))))

end

/-! ### What a board does on its own (R257, R261, R265) -/

section
variable (b : BoardSt) (x : Nat)

/-- Channels that turn off leave the board's mode and its gate supplies. -/
theorem BoardSt.offs_keep (cs : List Nat) :
    (cs.foldl (fun b c => b.off c 7 x) b).mode = b.mode ∧ (cs.foldl (fun b c => b.off c 7 x) b).supply = b.supply := by
  induction cs generalizing b with
  | nil => exact ⟨rfl, rfl⟩
  | cons c cs ih => exact ih (b.off c 7 x)

@[simp] theorem BoardSt.allOff_mode : (b.allOff x).mode = b.mode := (b.offs_keep x (List.range 6)).1

@[simp] theorem BoardSt.allOff_supply : (b.allOff x).supply = b.supply := (b.offs_keep x (List.range 6)).2

@[simp] theorem BoardSt.enter_mode (m : BoardMode) : (b.enter m x).mode = m := by
  unfold BoardSt.enter
  cases m <;> simp [BoardSt.setPort]

@[simp] theorem BoardSt.enter_supply (m : BoardMode) : (b.enter m x).supply = b.supply := by
  unfold BoardSt.enter
  cases m <;> simp [BoardSt.setPort]

/-- `SAFE` clears `SYNCED` at both ports. -/
theorem BoardSt.enter_safe_synced {p : Nat} (hp : p < 2) : ((b.enter .safe x).port p).synced = false := by
  have hport : p = 0 ∨ p = 1 := by omega
  unfold BoardSt.enter
  rcases hport with rfl | rfl <;> simp

/-- Keeping the channels for the cycle's end leaves them as they are. -/
theorem BoardSt.keepUndo_eq : b.keepUndo x = { b with undo := (b.keepUndo x).undo } := by
  unfold BoardSt.keepUndo
  split <;> rfl

/-- A turn-off executes at its instant: nothing else of the channels' commands changes. -/
theorem BoardSt.executeEdge_off (offs : List BoardEdge) {e : BoardEdge} (he : e.level = false) :
    b.executeEdge x offs e = (b.keepUndo x).off e.ch e.prof x := by
  simp [BoardSt.executeEdge, he]

end

section
variable {x : State} {l : Nat}

/-- One turn-off that is due, with nothing else accepted or waiting: the channel is off and the edge gone (R257). -/
theorem State.driverExecute_off {e : BoardEdge} (hl : (x.board l).lapses x.clk.now = x.board l) (hm : (x.board l).mode = .run)
    (ha : (x.board l).acc = [e]) (hd : (x.board l).ahead x.clk.now e.time ≤ 0) (he : e.level = false) (hw : (x.board l).due = []) :
    ∃ b, x.driverExecute l = x.setBoard l b ∧ b.acc = [] ∧ b.levels = setNatBit (x.board l).levels e.ch false := by
  have hd' : ¬0 < (x.board l).ahead x.clk.now e.time := Int.not_lt.mpr hd
  unfold State.driverExecute
  simp only [hl, hm, ne_eq, not_true_eq_false, if_false, ha, List.filter_cons, List.filter_nil, hd, hd', decide_true, decide_false, if_true,
    Bool.false_eq_true, List.foldr_cons, List.foldr_nil, List.foldl_cons, List.foldl_nil, BoardSt.insertDue]
  rw [BoardSt.executeEdge_off _ _ _ he, BoardSt.keepUndo_eq]
  refine ⟨_, rfl, ?_⟩
  simp [BoardSt.off, hw]

/-- Outside `RUN`, or with nothing that is due, nothing executes. -/
theorem State.driverExecute_idle (hl : (x.board l).lapses x.clk.now = x.board l)
    (h : (x.board l).mode ≠ .run ∨ ((x.board l).due = [] ∧ ∀ e ∈ (x.board l).acc, 0 < (x.board l).ahead x.clk.now e.time)) :
    x.driverExecute l = x.setBoard l (x.board l) := by
  unfold State.driverExecute
  simp only [hl]
  split
  · rfl
  · next hrun =>
    obtain ⟨hdue, hacc⟩ := h.resolve_left (fun hne => hrun hne)
    have hready : (x.board l).acc.filter (fun e => decide ((x.board l).ahead x.clk.now e.time ≤ 0)) = [] :=
      List.filter_eq_nil_iff.mpr (fun e he => by simpa using hacc e he)
    have hrest : (x.board l).acc.filter (fun e => decide (0 < (x.board l).ahead x.clk.now e.time)) = (x.board l).acc :=
      List.filter_eq_self.mpr (fun e he => by simpa using hacc e he)
    simp only [hready, hrest, hdue, List.foldr_nil, List.foldl_nil, List.filter_nil]
    rw [← hdue]

/-- The frame that a board sends shows its levels, its mode and the detections (Table 12.8). -/
theorem State.driverStatus_sent (p : Nat) {desat desatTs : Nat} (temp : Nat) (hd : desat < 64) (ht : desatTs < 2 ^ 32) :
    ∃ v : PortSt, x.driverStatus l p desat desatTs temp = x.setBoard l ((x.board l).setPort p v) ∧ fieldLE v.sent 1 1 = 8 ∧
      fieldLE v.sent 5 1 % 64 = (x.board l).levels % 64 ∧ fieldLE v.sent 6 1 = desat + 64 * (x.board l).mode.code ∧
      fieldLE v.sent 8 4 = desatTs := by
  have hmode : (x.board l).mode.code < 4 := by cases (x.board l).mode <;> decide
  unfold State.driverStatus
  extract_lets +onlyGivenNames b pt other b5 b6 b7 claim pl
  have hlen : pl.length = 13 := by simp [pl, length_bytesLE]
  have hlevels : fieldLE pl 0 1 = b5 % 256 := by simp [pl, fieldLE, bytesLE, natLE]
  have hdet : fieldLE pl 1 1 = b6 % 256 := by simp [pl, fieldLE, bytesLE, natLE]
  have hts : fieldLE pl 3 4 = desatTs % 256 ^ 4 := by
    rw [← natLE_bytesLE]
    simp [pl, fieldLE, bytesLE]
  refine ⟨_, rfl, fieldLE_mkFrame_type .., ?_, ?_, ?_⟩
  · rw [fieldLE_mkFrame_payload 8 claim pt.echo 0 1 (by omega), hlevels]
    simp only [b5, b, b2n]
    omega
  · rw [fieldLE_mkFrame_payload 8 claim pt.echo 1 1 (by omega), hdet]
    simp only [b6, b]
    omega
  · rw [fieldLE_mkFrame_payload 8 claim pt.echo 3 4 (by omega), hts]
    omega

end

/-! ### The commands -/

section
variable {s : State} {t : Nat} {l : Fin 32} {f : State → State}

/-- A board written is read back; the others stand. -/
@[simp] theorem State.board_setBoard (s : State) (l : Nat) (b : BoardSt) : (s.setBoard l b).board l = b := tabGet_set_same ..

theorem State.board_setBoard_ne (s : State) {l j : Nat} (b : BoardSt) (h : j ≠ l) : (s.setBoard l b).board j = s.board j :=
  tabGet_set_ne _ _ _ _ _ h

/-- The run of an operation that puts a board in its place. -/
theorem State.run_setBoard {b : BoardSt} (e : f (s.upTo t) = (s.upTo t).setBoard l b) :
    ∃ u, s.run t f = .next u ∧ (s.upTo t).framed ((s.upTo t).setBoard l b) u [] :=
  State.run_same e (s.upTo_pending t) (fun _ => rfl)

/-- Between `x` and `u` board `l` alone moves. -/
def movesOnly (l : Fin 32) (x u : State) : Prop := x.framed { x with boards := u.boards } u [] ∧ ∀ j : Fin 32, j ≠ l → u.board j = x.board j

/-- What holds of the board that an operation puts in its place holds of the board in the next state. -/
theorem State.run_board {P : BoardSt → Prop} (h : ∃ b, f (s.upTo t) = (s.upTo t).setBoard l b ∧ P b) :
    ∃ u, s.run t f = .next u ∧ movesOnly l (s.upTo t) u ∧ P (u.board l) := by
  obtain ⟨b, e, hb⟩ := h
  obtain ⟨u, hu, hstate, hregs⟩ := State.run_setBoard e
  have hboards : u.boards = ((s.upTo t).setBoard l b).boards := by rw [hstate]
  have hread : ∀ j, u.board j = ((s.upTo t).setBoard l b).board j := by
    intro j
    unfold State.board
    rw [hboards]
  refine ⟨u, hu, ⟨⟨?_, hregs⟩, fun j hj => ?_⟩, ?_⟩
  · rw [hboards]
    exact hstate
  · rw [hread, State.board_setBoard_ne _ _ (Fin.val_ne_of_ne hj)]
  · rw [hread, State.board_setBoard]
    exact hb

end

/-- Settles O25: each command is its operation run at its instant, in the case that the premises name. -/
theorem driverBoardsHearAndAct : Obligations.DriverBoardsHearAndAct := by
  refine ⟨fun t l p lineOk bytes s => ⟨fun hbad => ?_, fun hline hvalid htype => ?_, fun h hheard hlapsed hdue => ?_, fun hidle => ?_,
    fun hquiet => ?_, fun hquiet => ?_⟩, fun t l p desat c desatTs temp s => ⟨fun e hl hm ha hd he hw => ?_, fun hl h => ?_, fun hheard => ?_,
    fun h0 h1 => ?_, ?_, fun hm hs => ?_, fun hs => ?_, ?_, ?_⟩⟩
  · exact State.run_setBoard (f := fun x => x.driverFrame l p lineOk bytes) (by simp [State.driverFrame, hbad])
  · obtain ⟨u, hu, hmine, hheard⟩ := State.run_board (f := fun x => x.driverFrame l p lineOk bytes)
      (P := fun b => b.hearing p = (fieldLE bytes 2 1, some (s.upTo t).clk.now, false)) (hline ▸ State.driverFrame_heard hvalid htype)
    obtain ⟨hclaim, hrest⟩ := Prod.mk.inj hheard
    obtain ⟨hat, hlapsed⟩ := Prod.mk.inj hrest
    exact ⟨u, hu, hmine, hat, hclaim, hlapsed⟩
  · refine State.run_board (f := fun x => x.driverLapse l p) (P := fun b => (b.port p).lapsed = true) ⟨_, rfl, ?_⟩
    rw [BoardSt.lapse_due _ _ hheard hlapsed (Nat.lt_succ_of_le hdue)]
    have hkept := BoardSt.rejudge_hearing (((s.upTo t).board l).setPort p { ((s.upTo t).board l).port p with lapsed := true }) p (h + claimLapse)
    have hlapse : ∀ b : BoardSt, (b.port p).lapsed = (b.hearing p).2.2 := fun _ => rfl
    rw [hlapse, hkept, ← hlapse, BoardSt.port_setPort]
  · exact State.run_setBoard (f := fun x => x.driverLapse l p) (congrArg _ (BoardSt.lapse_idle _ _ hidle))
  · exact State.run_same (f := fun x => x.portSyncLoss l p) (by simp [State.portSyncLoss, hquiet]) (s.upTo_pending t) (fun _ => rfl)
  · exact State.run_setBoard (f := fun x => x.portSyncLoss l p) (by simp [State.portSyncLoss, hquiet])
  · exact State.run_board (f := fun x => x.driverExecute l) (P := fun b => b.acc = [] ∧ b.levels = setNatBit ((s.upTo t).board l).levels e.ch false)
      (State.driverExecute_off hl hm ha hd he hw)
  · exact State.run_setBoard (f := fun x => x.driverExecute l) (State.driverExecute_idle hl h)
  · refine State.run_same (f := fun x => x.driverSilence l) ?_ (s.upTo_pending t) (fun _ => rfl)
    rcases hheard with h | h <;> simp [State.driverSilence, h]
  · exact State.run_board (f := fun x => x.driverSilence l) (P := fun b => b.mode = .safe ∧ (b.port 0).synced = false ∧ (b.port 1).synced = false)
      ⟨_, by simp [State.driverSilence, h0, h1]; rfl, BoardSt.enter_mode .., BoardSt.enter_safe_synced _ _ (by decide),
        BoardSt.enter_safe_synced _ _ (by decide)⟩
  · exact State.run_board (f := fun x => x.driverGateFault l c)
      (P := fun b => b.mode = .fault ∧ b.supply = setNatBit ((s.upTo t).board l).supply c true) ⟨_, rfl, BoardSt.enter_mode .., BoardSt.enter_supply ..⟩
  · exact State.run_board (f := fun x => x.driverGateReturn l c) (P := fun b => b.mode = .hold ∧ b.supply = 0)
      ⟨_, by simp [State.driverGateReturn, hm, hs]; rfl, BoardSt.enter_mode .., BoardSt.enter_supply ..⟩
  · exact State.run_setBoard (f := fun x => x.driverGateReturn l c) (by simp [State.driverGateReturn, hs])
  · obtain ⟨v, hv, hsent⟩ := State.driverStatus_sent (x := s.upTo t) (l := l) p (temp := temp.toNat) desat.isLt desatTs.isLt
    refine State.run_board (f := fun x => x.driverStatus l p desat.toNat desatTs.toNat temp.toNat)
      (P := fun b => fieldLE (b.port p).sent 1 1 = 8 ∧ fieldLE (b.port p).sent 5 1 % 64 = ((s.upTo t).board l).levels % 64 ∧
        fieldLE (b.port p).sent 6 1 = desat.toNat + 64 * ((s.upTo t).board l).mode.code ∧ fieldLE (b.port p).sent 8 4 = desatTs.toNat)
      ⟨_, hv, ?_⟩
    rw [BoardSt.port_setPort]
    exact hsent
  · exact State.run_setBoard (f := fun x => x.driverPowerUp l) rfl

end Sys2Proof.Machine
end

section
/-! What the reactions of the protection block leave of the driver links: the instant of the last upstream frame, the frame of the slot and whether
an `EPOCH` is due, and the registers in which a link shows its condition and its upstream frames. The protection block blocks bridges, and a
bridge that is blocked sends `STATE` commands, so of `STL_STATUS` bit 2 alone follows its reactions. -/

namespace Sys2Proof.Machine

/-! ### The part of a state that links show -/

/-- The registers `STL_STATUS`, `STL_UP_0`, `STL_UP_1` and `STL_COUNT_0` of the links, and those that hold the live levels of the link sources. -/
def linkReg (a : Nat) : Prop :=
  (0x43400000 ≤ a ∧ a < 0x43402000 ∧ (a % 256 = 12 ∨ a % 256 = 16 ∨ a % 256 = 20 ∨ a % 256 = 32)) ∨ (0x4400082C ≤ a ∧ a < 0x44000838)

/-- What counts of a link register's word `w`: all of it, but of `STL_STATUS` not the bit of the leg-wide override. -/
def linkWord (a : Nat) (w : Word) : Word := if a % 256 = 12 then withBit w 2 false else w

theorem eq_of_linkWord {a : Nat} {v w : Word} (h : linkWord a v = linkWord a w) (ha : a % 256 ≠ 12) : v = w := by
  rwa [linkWord, linkWord, if_neg ha, if_neg ha] at h

theorem bitOf_of_linkWord {a i : Nat} {v w : Word} (h : linkWord a v = linkWord a w) (hi : i ≠ 2) : bitOf v i = bitOf w i := by
  unfold linkWord at h
  split at h
  · have hbit := congrArg (fun w => bitOf w i) h
    simpa only [bitOf_withBit _ 2 i false (by decide), if_neg hi] using hbit
  · rw [h]

/-- What a link shows of its frames: the instant of the last upstream frame, the frame of its slot, and whether an `EPOCH` is due. -/
def LinkSt.frames (k : LinkSt) : Option Nat × List Byte × Bool := (k.upAt, k.lastTx, k.epochDue)

/-- What of the links the reactions of the protection block do not touch. -/
structure LinkView where
  regs : {a // linkReg a} → Word
  frames : Nat → Option Nat × List Byte × Bool

def State.linkView (s : State) : LinkView := ⟨fun a => linkWord a (s.rd a), fun l => (s.link l).frames⟩

section
variable {s u : State} (h : u.linkView = s.linkView)
include h

theorem linkWord_of_linkView {a : Nat} (ha : linkReg a) : linkWord a (u.rd a) = linkWord a (s.rd a) := congrFun (congrArg LinkView.regs h) ⟨a, ha⟩

theorem frames_of_linkView (l : Nat) : (u.link l).frames = (s.link l).frames := congrFun (congrArg LinkView.frames h) l

end

/-- Of two writes of a bit the later counts. -/
theorem withBit_withBit (w : Word) (i : Nat) (b c : Bool) : withBit (withBit w i b) i c = withBit w i c := by
  unfold withBit
  ext j hj
  cases b <;> cases c <;> simp <;> grind

/-- A change that leaves the registers and the links leaves what the links show. -/
theorem linkView_of_parts {s u : State} (hr : u.regTab = s.regTab) (hl : u.links = s.links) : u.linkView = s.linkView := by
  unfold State.linkView State.link
  simp only [rd_congr hr, hl]

theorem State.wr_linkView (s : State) {a : Nat} (w : Word) (h : ¬linkReg a) : (s.wr a w).linkView = s.linkView := by
  unfold State.linkView
  congr 1
  funext b
  have hne : b.val ≠ a := fun e => h (e ▸ b.2)
  rw [State.rd_wr_ne _ _ _ _ hne]

/-- The bit of the leg-wide override does not count (R245). -/
@[simp] theorem State.wrB_ovr_linkView (s : State) (l : Nat) (b : Bool) : (s.wrB (R.stlStatus l) 2 b).linkView = s.linkView := by
  unfold State.linkView
  congr 1
  funext a
  rw [State.rd_wrB]
  split
  · next e =>
    have hmod : R.stlStatus l % 256 = 12 := by unfold R.stlStatus; omega
    rw [e, linkWord, linkWord, if_pos hmod, if_pos hmod]
    exact withBit_withBit ..
  · rfl

/-- A change of a link that leaves its frames. -/
theorem State.setLink_linkView (s : State) (l : Nat) (v : LinkSt) (h : v.frames = (s.link l).frames) : (s.setLink l v).linkView = s.linkView := by
  unfold State.linkView
  congr 1
  funext j
  by_cases hj : j = l
  · rw [hj, State.link, State.setLink_links, tabGet_set_same, h]
  · rw [State.link, State.setLink_links, tabGet_set_ne _ _ _ _ _ hj, State.link]

theorem OnlySwitches.linkView {x z : State} {js : Set Nat} {as : List Nat} (h : OnlySwitches js as x z) (ha : ∀ a ∈ as, ¬linkReg a) :
    z.linkView = x.linkView := by
  have hlinks : z.links = x.links := by rw [h.state]
  unfold State.linkView State.link
  rw [hlinks]
  congr 1
  funext b
  rw [h.regs b (fun hm => ha b hm b.2)]

theorem each_linkView (s : State) (is : List Nat) (f : State → Nat → State) (h : ∀ s, ∀ i ∈ is, (f s i).linkView = s.linkView) :
    (s.each is f).linkView = s.linkView := by
  unfold State.each
  induction is generalizing s with
  | nil => rfl
  | cons i is ih => rw [List.foldl_cons, ih _ (fun s j hj => h s j (List.mem_cons_of_mem _ hj)), h s i List.mem_cons_self]

theorem foldl_linkView {α : Type} (s : State) (l : List α) (f : State → α → State) (h : ∀ s x, (f s x).linkView = s.linkView) :
    (l.foldl f s).linkView = s.linkView := by
  induction l generalizing s with
  | nil => rfl
  | cons x l ih => rw [List.foldl_cons, ih, h]

end Sys2Proof.Machine
end

section
/-! The operations of the leg units and of their links leave what the links show: registers of the PWM lie below those of the links. -/

namespace Sys2Proof.Machine

/-! ### Registers that are none of a link's -/

theorem not_linkReg_of_low {a : Nat} (h : a < 0x43400000) : ¬linkReg a := by unfold linkReg; omega
theorem not_linkReg_of_high {a : Nat} (h : 0x44000838 ≤ a) : ¬linkReg a := by unfold linkReg; omega

theorem not_linkReg_pwmLegStatus {g : Nat} (h : g < 64) : ¬linkReg (R.pwmLegStatus g) := not_linkReg_of_low (by unfold R.pwmLegStatus; omega)
theorem not_linkReg_pwmSliceStatus {i : Nat} (h : i < 192) : ¬linkReg (R.pwmSliceStatus i) := not_linkReg_of_low (by unfold R.pwmSliceStatus; omega)
theorem not_linkReg_pwmLegCarry (g : Nat) : ¬linkReg (R.pwmLegCarry g) := by unfold linkReg R.pwmLegCarry; omega
theorem not_linkReg_pwmLegCount (g : Nat) : ¬linkReg (R.pwmLegCount g) := by unfold linkReg R.pwmLegCount; omega
theorem not_linkReg_pwmSliceCarryA (i : Nat) : ¬linkReg (R.pwmSliceCarryA i) := by unfold linkReg R.pwmSliceCarryA; omega
theorem not_linkReg_pwmSliceCarryB (i : Nat) : ¬linkReg (R.pwmSliceCarryB i) := by unfold linkReg R.pwmSliceCarryB; omega
theorem not_linkReg_auxStatus (m : Nat) : ¬linkReg (R.auxStatus m) := by unfold linkReg R.auxStatus; omega

theorem not_linkReg_auxRegs (i : Nat) : ∀ a ∈ auxRegs i, ¬linkReg a := by
  intro a ha
  rw [(mem_auxRegs ha).2]
  exact not_linkReg_auxStatus _

theorem not_linkReg_switchRegs {i : Nat} (h : i < 192) : ∀ a ∈ switchRegs i, ¬linkReg a := by
  intro a ha
  simp only [switchRegs, List.mem_append, List.mem_cons, List.not_mem_nil, or_false] at ha
  rcases ha with (rfl | rfl) | ha
  · exact not_linkReg_pwmSliceStatus h
  · exact not_linkReg_pwmLegStatus (by omega)
  · exact not_linkReg_auxRegs i a ha

theorem not_linkReg_legRegs {g : Nat} (h : g < 64) : ∀ a ∈ legRegs g [R.pwmLegStatus g], ¬linkReg a := by
  intro a ha
  have hslice (k : Nat) (hk : k < 3) : ¬linkReg (R.pwmSliceStatus (3 * g + k)) := not_linkReg_pwmSliceStatus (by omega)
  simp only [legRegs, legAuxRegs, List.mem_append, List.mem_map, List.mem_singleton] at ha
  rcases ha with (rfl | ha) | ⟨k, hk, rfl⟩
  · exact not_linkReg_pwmLegStatus h
  · split at ha
    · rw [List.mem_singleton.mp ha]
      exact not_linkReg_auxStatus _
    · cases ha
  · simp only [List.mem_cons, List.not_mem_nil, or_false] at hk
    exact hslice k (by omega)

/-! ### Registers, events and tables -/

section
variable (s : State) {a : Nat}

theorem State.wrF_linkView (hi lo v : Nat) (h : ¬linkReg a) : (s.wrF a hi lo v).linkView = s.linkView := s.wr_linkView _ h
theorem State.wrB_linkView (i : Nat) (b : Bool) (h : ¬linkReg a) : (s.wrB a i b).linkView = s.linkView := s.wr_linkView _ h
theorem State.countUp_linkView (hi lo n : Nat) (h : ¬linkReg a) : (s.countUp a hi lo n).linkView = s.linkView := s.wr_linkView _ h
theorem State.raise_linkView (i : Nat) (h : ¬linkReg a) : (s.raise a i).linkView = s.linkView := State.wr_linkView _ _ h
theorem State.raiseIf_linkView (c : Bool) (i : Nat) (h : ¬linkReg a) : (s.raiseIf c a i).linkView = s.linkView := by
  unfold State.raiseIf
  split
  · exact s.raise_linkView i h
  · rfl

@[simp] theorem State.post_linkView (src code : Nat) : (s.post src code).linkView = s.linkView :=
  linkView_of_parts (State.post_regTab ..) (by rw [State.post_eq])
@[simp] theorem State.setSlice_linkView (i : Nat) (v : SliceSt) : (s.setSlice i v).linkView = s.linkView := (rfl)
@[simp] theorem State.setLeg_linkView (g : Nat) (v : LegSt) : (s.setLeg g v).linkView = s.linkView := (rfl)

end

/-! ### Edges of a link -/

section
variable (s : State) (l : Nat)

@[simp] theorem State.setEdges_linkView (es : List Edge) : (s.setEdges l es).linkView = s.linkView := s.setLink_linkView l _ rfl

@[simp] theorem State.dropEdges_linkView (gone : Edge → Bool) : (s.dropEdges l gone).linkView = s.linkView :=
  (State.setEdges_linkView ..).trans (s.setLink_linkView l _ rfl)

@[simp] theorem State.handEdge_linkView (c : SwCmd) : (s.handEdge l c).linkView = s.linkView := by
  unfold State.handEdge
  dsimp only
  split
  · exact s.dropEdges_linkView l _
  · exact (State.setEdges_linkView ..).trans (s.setLink_linkView l _ rfl)

@[simp] theorem State.handEdges_linkView (cs : List SwCmd) : (s.handEdges l cs).linkView = s.linkView :=
  foldl_linkView s cs _ (fun s c => s.handEdge_linkView l c)

@[simp] theorem State.handLeg_linkView (g x : Nat) (segs : List Seg) (sent : List (Nat × Bool × Nat)) :
    (s.handLeg g x segs sent).1.linkView = s.linkView := s.handEdges_linkView ..

@[simp] theorem State.handSlice_linkView (i x : Nat) (segs : List Seg) (sent : List (Nat × Bool × Nat)) :
    (s.handSlice i x segs sent).1.linkView = s.linkView := s.handEdges_linkView ..

@[simp] theorem State.queueState_linkView (c : StateCmd) : (s.queueState l c).linkView = s.linkView := by
  unfold State.queueState
  dsimp only
  split
  · rfl
  · exact s.setLink_linkView l _ rfl

@[simp] theorem State.sendState_linkView (g code : Nat) : (s.sendState g code).linkView = s.linkView := by
  unfold State.sendState
  split
  · have hdrop : (if code = 0 then s else s.dropEdges (s.legLink g) (fun _ => true)).linkView = s.linkView := by
      split
      · rfl
      · exact s.dropEdges_linkView ..
    dsimp only
    rw [State.wrB_ovr_linkView, State.queueState_linkView]
    refine (State.setLink_linkView _ _ _ ?_).trans hdrop
    rfl
  · rfl

@[simp] theorem State.sendChanOff_linkView (mask prof : Nat) : (s.sendChanOff l mask prof).linkView = s.linkView := s.queueState_linkView ..

end

/-! ### Switches of slices and leg units -/

section
variable (s : State) {g i : Nat}

@[simp] theorem State.swOff_linkView (i : Nat) (a : Bool) (x : Nat) : (s.swOff i a x).linkView = s.linkView :=
  (s.swOff_onlySwitches i a x).linkView (not_linkReg_auxRegs i)

theorem State.swDue_linkView (hi : i < 192) (a : Bool) (x : Nat) : (s.swDue i a x).linkView = s.linkView :=
  (s.swDue_onlySwitches i a x).linkView (not_linkReg_switchRegs hi)

theorem State.sliceRequest_linkView (hi : i < 192) (r : Option Nat) (x : Nat) : (s.sliceRequest i r x).linkView = s.linkView := by
  unfold State.sliceRequest
  dsimp only
  split
  · simp
  · split
    · split <;> simp [State.swDue_linkView _ hi]
    · split <;> simp [State.swDue_linkView _ hi]

theorem State.sliceEnter_linkView (hi : i < 192) : (s.sliceEnter i).linkView = s.linkView := by
  unfold State.sliceEnter
  dsimp only
  split
  · rfl
  · split
    · exact State.sliceRequest_linkView _ hi _ _
    · rfl

@[simp] theorem State.sliceClear_linkView (i x : Nat) : (s.sliceClear i x).linkView = s.linkView := by
  simp [State.sliceClear]

@[simp] theorem State.legTakeUp_linkView (g x : Nat) : (s.legTakeUp g x).linkView = s.linkView :=
  (each_linkView _ _ _ (fun s k _ => s.sliceClear_linkView (3 * g + k) x)).trans (s.setLeg_linkView g _)

theorem State.judgeSlice_linkView (hi : i < 192) (v : SliceSet) (prev : Option Nat) (T : Int) : (s.judgeSlice i v prev T).1.linkView =
    s.linkView := by
  simp [State.judgeSlice, State.wrF_linkView, State.countUp_linkView, State.raiseIf_linkView, not_linkReg_pwmSliceStatus hi,
    not_linkReg_pwmSliceCarryA, not_linkReg_pwmSliceCarryB]

theorem State.judgeLeg_linkView (hg : g < 64) (ws : List Word) : (s.judgeLeg g ws).1.linkView = s.linkView := by
  simp [State.judgeLeg, State.wr_linkView, State.countUp_linkView, State.raiseIf_linkView, not_linkReg_pwmLegStatus hg,
    not_linkReg_pwmLegCarry, not_linkReg_pwmLegCount]

theorem State.prepareSlice_linkView (hi : i < 192) (x : Nat) : (s.prepareSlice i x).linkView = s.linkView := by
  have hjudge := s.judgeSlice_linkView hi (s.slice i).shadow (s.sliceEndState i) (s.tbOf x)
  unfold State.prepareSlice
  dsimp only
  split
  · rw [State.handSlice_linkView, State.setSlice_linkView, hjudge]
  · rw [State.setSlice_linkView, hjudge]

theorem State.prepareLeg_linkView (hg : g < 64) (x : Nat) : (s.prepareLeg g x).linkView = s.linkView := by
  have hjudge := s.judgeLeg_linkView hg (s.leg g).shadow
  unfold State.prepareLeg
  dsimp only
  split
  · rw [State.handLeg_linkView, State.setLeg_linkView, hjudge]
  · rw [State.setLeg_linkView, hjudge]

end

/-! ### Overrides (R233) -/

theorem State.sliceClear_legs (s : State) (i x : Nat) : (s.sliceClear i x).legs = s.legs := by
  have hoff (s : State) (a : Bool) : (s.swOff i a x).legs = s.legs := by rw [(s.swOff_onlySwitches i a x).state]
  rw [State.sliceClear, State.setSlice_legs, hoff, hoff]

/-- A leg unit that takes up its set at once has no state and no step of a path in progress (R233). -/
theorem State.legTakeUp_path (s : State) (g x : Nat) : ((s.legTakeUp g x).leg g).path = ⟨none, none, none⟩ := by
  have hlegs : (s.legTakeUp g x).legs = (s.setLeg g { s.leg g with hold := none, path := ⟨none, none, none⟩ }).legs := by
    simp only [State.legTakeUp, State.each, List.foldl_cons, List.foldl_nil, State.sliceClear_legs]
  rw [State.leg_congr hlegs, leg_setLeg]

section
variable (s : State) {g : Nat} (hg : g < 64)
include hg

theorem State.legEnter_linkView (hp : (s.leg g).path.stepOk) : (s.legEnter g).linkView = s.linkView := by
  have hst := not_linkReg_pwmLegStatus hg
  have hcmds (u : State) {cs : List SwCmd} (hcs : ofThreePairs cs) : (u.runCmds g cs).linkView = u.linkView :=
    (u.runCmds_onlySwitches hcs List.mem_cons_self).linkView (not_linkReg_legRegs hg)
  unfold State.legEnter
  dsimp only
  split
  · rfl
  · split
    · rw [hcmds _ (requestState_cmds _ _ _ hp)]
      split
      · simp [State.countUp_linkView, State.raise_linkView, State.raiseIf_linkView, hst, not_linkReg_pwmLegCount]
      · simp [State.raiseIf_linkView, hst]
    · rfl

theorem State.ovrEnds_linkView : (s.ovrEnds g).linkView = s.linkView := by
  unfold State.ovrEnds
  dsimp only
  split
  · split
    · have hp : ((s.legTakeUp g s.clk.now).leg g).path.stepOk := by
        rw [State.legTakeUp_path]
        exact fun _ h => nomatch h
      rw [State.legEnter_linkView _ hg hp, State.legTakeUp_linkView]
    · rfl
  · refine each_linkView s _ _ fun s i hi => ?_
    have hlt : i < 192 := by
      simp only [List.mem_cons, List.not_mem_nil, or_false] at hi
      omega
    split
    · rw [State.sliceEnter_linkView _ hlt, State.sliceClear_linkView]
    · rfl

theorem State.handAgain_linkView : (s.handAgain g).linkView = s.linkView := by
  unfold State.handAgain
  split
  · rfl
  · split
    · split
      · split
        · exact s.prepareLeg_linkView hg _
        · rfl
      · split
        · exact s.handLeg_linkView ..
        · rfl
      · rfl
    · refine each_linkView s _ _ fun s i hi => ?_
      have hlt : i < 192 := by
        simp only [List.mem_cons, List.not_mem_nil, or_false] at hi
        omega
      split
      · split
        · exact s.prepareSlice_linkView hlt _
        · rfl
      · split
        · exact s.handSlice_linkView ..
        · rfl
      · rfl

theorem State.ovrSlice_linkView (code x : Nat) {k : Nat} (hk : k < 3) : (s.ovrSlice g code k x).linkView = s.linkView := by
  have hlt : 3 * g + k < 192 := by omega
  have hcarry (v : SliceSt) : (((s.setSlice (3 * g + k) v).wr (R.pwmSliceCarryA (3 * g + k)) 0#32).wr (R.pwmSliceCarryB (3 * g + k)) 0#32).linkView
      = s.linkView := by
    simp [State.wr_linkView, not_linkReg_pwmSliceCarryA, not_linkReg_pwmSliceCarryB]
  unfold State.ovrSlice
  dsimp only
  split
  · rw [State.swOff_linkView, State.swOff_linkView, hcarry]
  · simp only [apply_ite State.linkView, State.swDue_linkView _ hlt, State.swOff_linkView, hcarry, ite_self]

/-- A new override code of a leg unit. -/
theorem State.setOverride_linkView (code : Nat) : (s.setOverride g code).linkView = s.linkView := by
  have hst := not_linkReg_pwmLegStatus hg
  have hdsat (l : Nat) : ¬linkReg (R.protDsatStatus l) := not_linkReg_of_high (by unfold R.protDsatStatus; omega)
  have hslices (u : State) : (u.each [0, 1, 2] (fun s k => s.ovrSlice g code k s.clk.now)).linkView = u.linkView := by
    refine each_linkView u _ _ fun s k hk => ?_
    simp only [List.mem_cons, List.not_mem_nil, or_false] at hk
    exact s.ovrSlice_linkView hg code _ (by omega)
  unfold State.setOverride
  dsimp only
  split
  · rfl
  · split
    · rw [State.handAgain_linkView _ hg, State.sendState_linkView]
      split
      · rw [State.wrF_linkView _ _ _ _ (hdsat _), State.ovrEnds_linkView _ hg, State.setLeg_linkView, State.wrF_linkView _ _ _ _ hst]
      · rw [State.ovrEnds_linkView _ hg, State.setLeg_linkView, State.wrF_linkView _ _ _ _ hst]
    · rw [State.sendState_linkView, hslices, State.wr_linkView _ _ (not_linkReg_pwmLegCarry g), State.setLeg_linkView, State.wrF_linkView _ _ _ _ hst]

end

end Sys2Proof.Machine
end

section
/-! The recorder, the counters, the transmit buffers and the wear records leave what the links show: their registers lie elsewhere. -/

namespace Sys2Proof.Machine

theorem not_linkReg_recCapStatus (u : Nat) : ¬linkReg (R.recCapStatus u) := not_linkReg_of_high (by unfold R.recCapStatus; omega)
theorem not_linkReg_recCapCount (u : Nat) : ¬linkReg (R.recCapCount u) := not_linkReg_of_high (by unfold R.recCapCount; omega)
theorem not_linkReg_recCapDead (u : Nat) : ¬linkReg (R.recCapDead u) := not_linkReg_of_high (by unfold R.recCapDead; omega)
theorem not_linkReg_recCapDeadTotal (u : Nat) : ¬linkReg (R.recCapDeadTotal u) := not_linkReg_of_high (by unfold R.recCapDeadTotal; omega)
theorem not_linkReg_canTxreq (k : Nat) : ¬linkReg (R.canTxreq k) := not_linkReg_of_high (by unfold R.canTxreq; omega)
theorem not_linkReg_canTxbStat (k b : Nat) : ¬linkReg (R.canTxbStat k b) := not_linkReg_of_high (by unfold R.canTxbStat; omega)
theorem not_linkReg_canIrq (k : Nat) : ¬linkReg (R.canIrq k) := not_linkReg_of_high (by unfold R.canIrq; omega)
theorem not_linkReg_pmuPcnt (p c : Nat) : ¬linkReg (R.pmuPcnt p c) := not_linkReg_of_high (by unfold R.pmuPcnt; omega)
theorem not_linkReg_wearLink (j : Nat) : ¬linkReg (R.wearLink j) := not_linkReg_of_high (by unfold R.wearLink; omega)

/-! ### The recorder (R359-R368) -/

section
variable (s : State) (u : Nat)

@[simp] theorem State.setCap_linkView (v : CapSt) : (s.setCap u v).linkView = s.linkView := (rfl)
@[simp] theorem State.setRecChan_linkView (v : RecChan) : (s.setRecChan u v).linkView = s.linkView := (rfl)
@[simp] theorem State.recEvent_linkView (code : Nat) : (s.recEvent u code).linkView = s.linkView := s.post_linkView ..

@[simp] theorem State.setCapState_linkView (st : Nat) : (s.setCapState u st).linkView = s.linkView := by
  simp [State.setCapState, State.wrF_linkView, not_linkReg_recCapStatus]

@[simp] theorem State.capFill_linkView (k : Nat) : (s.capFill u k).linkView = s.linkView := by
  simp [State.capFill, each_linkView, State.wrF_linkView, not_linkReg_recCapStatus]

@[simp] theorem State.capAfterHold_linkView : (s.capAfterHold u).linkView = s.linkView := by
  unfold State.capAfterHold State.capFillOrWait
  split
  · split <;> simp
  · simp

@[simp] theorem State.capDeadEnd_linkView : (s.capDeadEnd u).linkView = s.linkView := by
  unfold State.capDeadEnd
  dsimp only
  split
  · rfl
  · rw [State.wr_linkView _ _ (not_linkReg_recCapDeadTotal u), State.wr_linkView _ _ (not_linkReg_recCapDead u)]
    rfl

@[simp] theorem State.busDrive_linkView : (s.busDrive u).linkView = s.linkView := by
  refine each_linkView s _ _ fun s b _ => ?_
  split <;> rfl

@[simp] theorem State.recTrigMark_linkView (i : Nat) : (s.recTrigMark u i).linkView = s.linkView := (rfl)

@[simp] theorem State.capHoldCount_linkView (code : Nat) : (s.capHoldCount u code).linkView = s.linkView := by
  unfold State.capHoldCount
  dsimp only
  split
  · split <;> simp
  · rfl

/-- A trigger that reaches a unit, whether it is accepted, merged or counted. -/
@[simp] theorem State.capTrigger_linkView (code at_ : Nat) : (s.capTrigger u code at_).1.linkView = s.linkView := by
  unfold State.capTrigger
  dsimp only
  split
  · rw [State.setCapState_linkView, State.recEvent_linkView, State.capDeadEnd_linkView, State.setCap_linkView]
    split
    · split <;> simp
    · rfl
  · split
    · split
      · split <;> simp
      · rfl
    · simp [State.countUp_linkView, State.raise_linkView, not_linkReg_recCapStatus, not_linkReg_recCapCount]

end

@[simp] theorem State.recFireGo_linkView (n : Nat) (s : State) (code at_ only : Nat) : (State.recFireGo n s code at_ only).linkView = s.linkView := by
  induction n generalizing s code at_ only with
  | zero => rfl
  | succ n ih =>
    refine foldl_linkView s _ _ fun s u => ?_
    simp [apply_ite State.linkView, ih]

@[simp] theorem State.recFireNow_linkView (s : State) (code : Nat) : (s.recFireNow code).linkView = s.linkView := s.recFireGo_linkView ..

/-! ### Counters, transmit buffers and wear -/

section
variable (s : State)

@[simp] theorem State.pmuHoldAll_linkView : s.pmuHoldAll.linkView = s.linkView := by
  refine each_linkView s _ _ fun s p _ => each_linkView s _ _ fun s c _ => ?_
  have hmark (u : State) (k : Nat) : (u.pmuMark p c k).linkView = u.linkView := rfl
  unfold State.pmuHold
  rw [hmark]
  split
  · exact s.wr_linkView _ (not_linkReg_pmuPcnt p c)
  · rfl

@[simp] theorem State.canPend_linkView (k b : Nat) : (s.canPend k b).linkView = s.linkView := by
  simp [State.canPend, State.canEnd, State.canIrqSet, State.wrB_linkView, State.wrF_linkView, State.raise_linkView, not_linkReg_canTxreq,
    not_linkReg_canTxbStat, not_linkReg_canIrq, apply_ite State.linkView]

@[simp] theorem State.setWear_linkView (r : WearRec) : (s.setWear r).linkView = s.linkView := (rfl)

@[simp] theorem State.wearJudge_linkView : s.wearJudge.linkView = s.linkView := by
  have hwr (u : State) (w : Word) : (u.wr R.wearStatus w).linkView = u.linkView := u.wr_linkView w (not_linkReg_of_high (by decide))
  simp [State.wearJudge, apply_ite State.linkView, hwr]

@[simp] theorem State.wearRetired_linkView (cls u : Nat) (spare : Bool) : (s.wearRetired cls u spare).linkView = s.linkView := by
  have hrecord (u : State) : u.wearRecord.linkView = u.linkView := rfl
  unfold State.wearRetired
  rw [hrecord, State.wearJudge_linkView, State.post_linkView]
  split <;> rfl

@[simp] theorem State.wearDownJudge_linkView (l : Nat) : (s.wearDownJudge l).linkView = s.linkView := by
  unfold State.wearDownJudge State.retireLink
  dsimp only
  split
  · split
    · rfl
    · split
      · rw [State.wearRetired_linkView, State.wrB_linkView _ _ _ (not_linkReg_wearLink _)]
        rfl
      · rw [State.wearRetired_linkView]
        rfl
  · rfl

@[simp] theorem State.wearUp_linkView (l : Nat) : (s.wearUp l).linkView = s.linkView := by
  have hwear (u : State) (w : WearSt) : ({ u with wear := w } : State).linkView = u.linkView := rfl
  unfold State.wearUp
  dsimp only
  split
  · rfl
  · rw [hwear, State.wearDownJudge_linkView]

end

end Sys2Proof.Machine
end

section
/-! The reactions of the protection block leave what the links show (R292-R304, R312-R314), and so does a source that fires or ends, but for the live
level of the source itself. -/

namespace Sys2Proof.Machine

theorem not_linkReg_vecStatus (u : Nat) : ¬linkReg (R.vecStatus u) := by unfold linkReg R.vecStatus; omega
theorem not_linkReg_gfeStatus (n : Nat) : ¬linkReg (R.gfeStatus n) := by unfold linkReg R.gfeStatus; omega
theorem not_linkReg_gfeBlend (n : Nat) : ¬linkReg (R.gfeBlend n) := by unfold linkReg R.gfeBlend; omega
theorem not_linkReg_protThrStatus (n : Nat) : ¬linkReg (R.protThrStatus n) := not_linkReg_of_high (by unfold R.protThrStatus; omega)
theorem not_linkReg_protSrcLatch (k : Nat) : ¬linkReg (R.protSrcLatch k) := not_linkReg_of_high (by unfold R.protSrcLatch; omega)
theorem not_linkReg_protDsatStatus (l : Nat) : ¬linkReg (R.protDsatStatus l) := not_linkReg_of_high (by unfold R.protDsatStatus; omega)
theorem not_linkReg_smonForce (n : Nat) : ¬linkReg (R.smonForce n) := not_linkReg_of_high (by unfold R.smonForce; omega)

/-! ### Owners of the bridges -/

section
variable (s : State) (n : Nat)

@[simp] theorem State.setDc_linkView (d : DcSt) : (s.setDc n d).linkView = s.linkView := (rfl)
@[simp] theorem State.setSrc_linkView (v : SrcSt) : (s.setSrc n v).linkView = s.linkView := (rfl)
@[simp] theorem State.soon_linkView (x : Soon) : (s.soon n x).linkView = s.linkView := (rfl)
@[simp] theorem State.keepField_linkView (a hi lo v : Nat) : (s.keepField n a hi lo v).linkView = s.linkView := (rfl)
@[simp] theorem State.vecBoth_linkView (f : VecSt → VecSt) : (s.vecBoth n f).linkView = s.linkView := (rfl)
@[simp] theorem State.gfeBoth_linkView (f : GfeSt → GfeSt) : (s.gfeBoth n f).linkView = s.linkView := (rfl)
@[simp] theorem State.setVec_linkView (v : VecSt) : (s.setVec n v).linkView = s.linkView := (rfl)

theorem State.keepRaise_linkView {a : Nat} (h : ¬linkReg a) (i : Nat) : (s.keepRaise n a i).linkView = s.linkView := s.raise_linkView i h

@[simp] theorem State.setVecState_linkView (st : Nat) : (s.setVecState n st).linkView = s.linkView := by
  simp [State.setVecState, State.vecEnter, State.wrF_linkView, not_linkReg_vecStatus]

@[simp] theorem State.vecBlock_linkView : (s.vecBlock n).linkView = s.linkView := by
  simp [State.vecBlock, apply_ite State.linkView, State.keepRaise_linkView, not_linkReg_vecStatus]

@[simp] theorem State.vecAsc_linkView : (s.vecAsc n).linkView = s.linkView := by
  simp [State.vecAsc, apply_ite State.linkView, State.keepRaise_linkView, not_linkReg_vecStatus]

@[simp] theorem State.gfeForce_linkView : (s.gfeForce n).linkView = s.linkView := by
  simp [State.gfeForce, State.gfeOff, State.gfeEnter, apply_ite State.linkView, State.keepRaise_linkView, State.wrF_linkView, State.wrB_linkView,
    not_linkReg_gfeStatus, not_linkReg_gfeBlend]

@[simp] theorem State.reachBlock_linkView (mask : Nat) : (s.reachBlock n mask).linkView = s.linkView := by
  simp [State.reachBlock, apply_ite State.linkView]

end

/-! ### The codes of a thread (R292, R293) -/

theorem State.legOf_lt (s : State) (n l : Nat) : s.legOf n l < 64 := by
  have hfield (a k : Nat) : s.rdF a (8 * k + 5) (8 * k) < 64 := by
    have hw : 8 * k + 5 + 1 - 8 * k = 6 := by omega
    unfold State.rdF fieldOf natBits
    rw [hw]
    exact Nat.mod_lt _ (by decide)
  unfold State.legOf
  split
  · exact hfield _ _
  · exact hfield _ _

section
variable (s : State) (n : Nat)

@[simp] theorem State.chopMark_linkView : (s.chopMark n).linkView = s.linkView := by
  simp [State.chopMark, apply_ite State.linkView]

@[simp] theorem State.applyThread_linkView : (s.applyThread n).linkView = s.linkView := by
  rw [State.applyThread, State.chopMark_linkView]
  exact each_linkView s _ _ fun s l _ => s.setOverride_linkView (s.legOf_lt n l) _

@[simp] theorem State.applyAll_linkView : s.applyAll.linkView = s.linkView := by
  unfold State.applyAll
  rw [each_linkView, each_linkView]
  · exact fun s n _ => s.applyThread_linkView n
  · intro s g hg
    have hlt := List.mem_range.mp hg
    split
    · exact s.setOverride_linkView (by omega) _
    · rfl

/-! ### Records -/

@[simp] theorem State.noteFirst_linkView (code : Nat) : (s.noteFirst code).linkView = s.linkView := by
  have hfirst : ¬linkReg R.protFirst := by unfold linkReg R.protFirst; omega
  have hstamp : ¬linkReg R.protFirstTs := by unfold linkReg R.protFirstTs; omega
  simp [State.noteFirst, apply_ite State.linkView, State.wr_linkView, State.wrF_linkView, State.raise_linkView, hfirst, hstamp]

@[simp] theorem State.pmuCause_linkView (k : Nat) : (s.pmuCause k).linkView = s.linkView := by
  have hfreeze : ¬linkReg R.pmuFreeze := not_linkReg_of_high (by decide)
  have hcause : ¬linkReg R.pmuFreezeCause := not_linkReg_of_high (by decide)
  simp [State.pmuCause, apply_ite State.linkView, State.raise_linkView, State.wrF_linkView, hfreeze, hcause]

@[simp] theorem State.noteDc_linkView (k : Nat) : (s.noteDc n k).linkView = s.linkView := by
  simp [State.noteDc]

/-! ### Chopper and supervised discharge (R298-R301, R312-R314) -/

@[simp] theorem State.chopOn_linkView : (s.chopOn n).linkView = s.linkView := by
  simp [State.chopOn, State.wrB_linkView, not_linkReg_protThrStatus]

@[simp] theorem State.chopOff_linkView : (s.chopOff n).linkView = s.linkView := by
  simp [State.chopOff, apply_ite State.linkView, State.wrB_linkView, not_linkReg_protThrStatus]

@[simp] theorem State.pitchQueue_linkView (x : Nat) : (s.pitchQueue n x).linkView = s.linkView := by
  simp [State.pitchQueue, apply_ite State.linkView]

@[simp] theorem State.setClamp_linkView (b : Bool) : (s.setClamp n b).linkView = s.linkView := by
  simp [State.setClamp, State.wrB_linkView, not_linkReg_protThrStatus]

@[simp] theorem State.dischDone_linkView : (s.dischDone n).linkView = s.linkView := by
  simp [State.dischDone, State.dischStop, State.dischVecEnd, apply_ite State.linkView, State.raise_linkView, State.wrB_linkView, State.wrF_linkView,
    not_linkReg_protThrStatus, not_linkReg_smonForce]

@[simp] theorem State.dischEnter_linkView (k : Nat) : (s.dischEnter n k).linkView = s.linkView := by
  unfold State.dischEnter
  dsimp only
  split <;> simp [State.raise_linkView, State.wrF_linkView, not_linkReg_protThrStatus]

@[simp] theorem State.dischFail_linkView (k : Nat) : (s.dischFail n k).linkView = s.linkView := by
  simp [State.dischFail, apply_ite State.linkView]

@[simp] theorem State.dischStart_linkView (by_ : DischBy) : (s.dischStart n by_).linkView = s.linkView := by
  unfold State.dischStart
  split
  · split <;> rfl
  · simp [apply_ite State.linkView, State.wrB_linkView, State.wrF_linkView, not_linkReg_protThrStatus]

@[simp] theorem State.chopClash_linkView : (s.chopClash n).linkView = s.linkView := by
  simp [State.chopClash, State.chopFault, apply_ite State.linkView, State.raise_linkView, not_linkReg_protThrStatus]

/-! ### Sources (R294, R295) -/

@[simp] theorem State.srcReach_linkView (kind : Nat) : (s.srcReach n kind).linkView = s.linkView := by
  refine each_linkView s _ _ fun s n _ => ?_
  simp [apply_ite State.linkView]

/-- A source that fires: beside its live level nothing of the links changes. -/
theorem State.fireSource_linkView (evOnly : Bool) : (s.fireSource n evOnly).linkView = (s.wrB (R.protSrcLive (n / 32)) (n % 32) true).linkView := by
  have hdisch (u : State) : (u.each [0, 1, 2, 3] (fun s m => if s.srcActs n m then s.dischStart m .source else s)).linkView = u.linkView := by
    refine each_linkView u _ _ fun s m _ => ?_
    split
    · exact s.dischStart_linkView ..
    · rfl
  simp [State.fireSource, apply_ite State.linkView, State.raise_linkView, not_linkReg_protSrcLatch, hdisch]

/-- A source that ends, likewise. -/
theorem State.clearSource_linkView : (s.clearSource n).linkView = (s.wrB (R.protSrcLive (n / 32)) (n % 32) false).linkView := by
  simp [State.clearSource, State.srcRelease, apply_ite State.linkView]

end

end Sys2Proof.Machine
end

section
/-! The desaturation monitor and the return of a silent senior leave what the links show (R302-R304, R337): the frames of a thread that
change hands go by CAN, by Ethernet or over the Causeway. -/

namespace Sys2Proof.Machine

theorem not_linkReg_cwyFwd : ¬linkReg R.cwyFwd := not_linkReg_of_high (by decide)
theorem not_linkReg_cwyThrStatus (n : Nat) : ¬linkReg (R.cwyThrStatus n) := not_linkReg_of_high (by unfold R.cwyThrStatus; omega)
theorem not_linkReg_cwyThrCount1 (n : Nat) : ¬linkReg (R.cwyThrCount1 n) := not_linkReg_of_high (by unfold R.cwyThrCount1; omega)
theorem not_linkReg_ethDrop (p : Nat) : ¬linkReg (R.ethDrop p) := not_linkReg_of_high (by unfold R.ethDrop; omega)
theorem not_linkReg_sysState : ¬linkReg R.sysState := not_linkReg_of_low (by decide)

/-! ### Desaturation -/

section
variable (s : State) (l c : Nat)

@[simp] theorem State.desatFault_linkView (at_ : Int) : (s.desatFault l c at_).linkView = s.linkView := by
  have hstatus := not_linkReg_protDsatStatus l
  unfold State.desatFault
  extract_lets noted
  have hnoted : noted.linkView = s.linkView := by simp [noted, State.raise_linkView, hstatus]
  split
  · exact hnoted
  · next g _ =>
    extract_lets sent win k taken
    have hsent : sent.linkView = s.linkView := by simp [sent, apply_ite State.linkView, State.wrB_linkView, hstatus, hnoted]
    clear_value sent
    have htaken : taken.linkView = s.linkView := by
      rw [← hsent]
      exact sent.setLink_linkView l _ rfl
    split
    · exact hsent
    · next n leg _ =>
      extract_lets b others hit met d act msb turned
      have hturned : turned.linkView = s.linkView := by
        simp [turned, msb, met, apply_ite State.linkView, State.raise_linkView, not_linkReg_protThrStatus, htaken]
      split
      · rw [State.applyThread_linkView, hturned]
      · exact htaken

@[simp] theorem State.desatChan_linkView (rep : Bool) (d ts : Int) : (s.desatChan l c rep d ts).linkView = s.linkView := by
  have hset (win : List (Nat × Nat)) (ign : Nat) : (s.setLink l { s.link l with desatWin := win, desatIgn := ign }).linkView = s.linkView :=
    s.setLink_linkView l _ rfl
  simp [State.desatChan, apply_ite State.linkView, State.countUp_linkView, not_linkReg_protDsatStatus, hset]

@[simp] theorem State.desatFrame_linkView (at_ : Nat) (bs : List Byte) : (s.desatFrame l at_ bs).linkView = s.linkView :=
  each_linkView s _ _ fun s c _ => s.desatChan_linkView l c _ _ _

end

/-! ### A thread that changes hands (R335-R339) -/

section
variable (s : State)

@[simp] theorem State.setRxa_linkView (k j : Nat) (q : List CanRx) : (s.setRxa k j q).linkView = s.linkView := by
  have hword (i : Nat) : ¬linkReg (R.canRxaWord k j 0 + 4 * i) := not_linkReg_of_high (by unfold R.canRxaWord; omega)
  have hwindow (u : State) (r : Option CanRx) : (u.canWindow (R.canRxaWord k j 0) r).linkView = u.linkView := by
    unfold State.canWindow
    split
    · exact foldl_linkView u _ _ fun s i => s.wr_linkView _ (hword i)
    · exact foldl_linkView u _ _ fun s i => s.wr_linkView _ (hword i)
  unfold State.setRxa
  rw [hwindow, State.wrB_linkView _ _ _ (not_linkReg_canIrq k)]
  rfl

@[simp] theorem State.ethEnqueue_linkView (p : Nat) (f : EthFrame) : (s.ethEnqueue p f).linkView = s.linkView := by
  unfold State.ethEnqueue
  dsimp only
  split
  · rfl
  · exact s.countUp_linkView _ _ _ (not_linkReg_ethDrop p)

@[simp] theorem State.cwySend_linkView (ty thread : Nat) (fwd : Bool) (payload : List Dword) : (s.cwySend ty thread fwd payload).linkView =
    s.linkView := by
  unfold State.cwySend
  split <;> rfl

@[simp] theorem State.msgSend_linkView (ep : Nat) (bytes : List Byte) (tries : Nat) : (s.msgSend ep bytes tries).linkView = s.linkView := by
  have hmsgs (u : State) (ms : List TwinMsg) : ({ u with twin := { u.twin with msgs := ms } } : State).linkView = u.linkView := rfl
  simp [State.msgSend, apply_ite State.linkView, State.countUp_linkView, not_linkReg_cwyFwd, hmsgs]

@[simp] theorem State.endpointTake_linkView (j : Nat) : (s.endpointTake j).1.linkView = s.linkView := by
  unfold State.endpointTake
  dsimp only
  split
  · simp
  · exact each_linkView _ _ _ fun s q _ => rfl

@[simp] theorem State.msgForward_linkView (n : Nat) : (s.msgForward n).linkView = s.linkView := by
  have htake (js : List Nat) (r : State × List BoundMsg) :
      (js.foldl (fun (r : State × List BoundMsg) j => ((r.1.endpointTake j).1, r.2 ++ (r.1.endpointTake j).2)) r).1.linkView = r.1.linkView := by
    induction js generalizing r with
    | nil => rfl
    | cons j js ih => rw [List.foldl_cons, ih, State.endpointTake_linkView]
  unfold State.msgForward
  refine (foldl_linkView _ _ _ fun s m => ?_).trans (htake _ (s, []))
  split
  · exact s.countUp_linkView _ _ _ not_linkReg_cwyFwd
  · exact s.msgSend_linkView ..

@[simp] theorem State.roleAccept_linkView (n : Nat) : (s.roleAccept n).linkView = s.linkView := by
  unfold State.roleAccept
  refine foldl_linkView _ _ _ fun s m => ?_
  have hcount (k : Nat) : (if k = 4095 then s else s.wrF R.cwyFwd 19 8 (k - 1)).linkView = s.linkView := by
    split
    · rfl
    · exact s.wrF_linkView _ _ _ not_linkReg_cwyFwd
  dsimp only
  split
  · exact (State.setRxa_linkView ..).trans (hcount _)
  · exact (State.ethEnqueue_linkView ..).trans (hcount _)

@[simp] theorem State.twinRole_linkView (n : Nat) : (s.twinRole n).linkView = s.linkView := by
  have hthr (u : State) (v : TwinThr) : (u.setThr n v).linkView = u.linkView := rfl
  simp [State.twinRole, apply_ite State.linkView, State.wrB_linkView, State.countUp_linkView, not_linkReg_cwyThrStatus, not_linkReg_cwyThrCount1,
    not_linkReg_sysState, hthr]

@[simp] theorem State.seniorResume_linkView : s.seniorResume.linkView = s.linkView := by
  unfold State.seniorResume
  split
  · refine each_linkView s _ _ fun s n _ => ?_
    have hthr (u : State) (v : TwinThr) : (u.setThr n v).linkView = u.linkView := rfl
    split
    · simp [State.wrB_linkView, not_linkReg_cwyThrStatus, hthr]
    · rfl
  · rfl

end

end Sys2Proof.Machine
end

section
/-! What happens at a link upstream (R241, R264, R266): the sources follow the link's condition and leave its registers, a valid frame is
captured, and silence takes the link down. -/

namespace Sys2Proof.Machine

/-! ### The sources of a link -/

theorem linkReg_protSrcLive {x : Nat} (h : 352 ≤ x ∧ x < 448) : linkReg (R.protSrcLive (x / 32)) := by unfold linkReg R.protSrcLive; omega

theorem linkReg_stlStatus (l : Fin 32) : linkReg (R.stlStatus l) := by unfold linkReg R.stlStatus; omega
theorem linkReg_stlUp0 (l : Fin 32) : linkReg (R.stlUp0 l) := by unfold linkReg R.stlUp0; omega
theorem linkReg_stlUp1 (l : Fin 32) : linkReg (R.stlUp1 l) := by unfold linkReg R.stlUp1; omega
theorem linkReg_stlCount0 (l : Fin 32) : linkReg (R.stlCount0 l) := by unfold linkReg R.stlCount0; omega

/-- What of the links their own sources leave: the levels of the sources are none of it. -/
structure StlView where
  regs : {a // linkReg a ∧ a < 0x44000000} → Word
  frames : Nat → Option Nat × List Byte × Bool

def State.stlView (s : State) : StlView := ⟨fun a => linkWord a (s.rd a), fun l => (s.link l).frames⟩

theorem stlView_of_linkView {s u : State} (h : u.linkView = s.linkView) : u.stlView = s.stlView := by
  unfold State.stlView
  congr 1
  · funext a
    exact linkWord_of_linkView h a.2.1
  · funext l
    exact frames_of_linkView h l

section
variable {s u : State} (h : u.stlView = s.stlView) (l : Fin 32)
include h

theorem linkWord_of_stlView {a : Nat} (ha : linkReg a) (hlt : a < 0x44000000) : linkWord a (u.rd a) = linkWord a (s.rd a) :=
  congrFun (congrArg StlView.regs h) ⟨a, ha, hlt⟩

theorem frames_of_stlView (j : Nat) : (u.link j).frames = (s.link j).frames := congrFun (congrArg StlView.frames h) j

theorem stlStatus_of_stlView {i : Nat} (hi : i ≠ 2) : u.rdB (R.stlStatus l) i = s.rdB (R.stlStatus l) i :=
  bitOf_of_linkWord (linkWord_of_stlView h (linkReg_stlStatus l) (by unfold R.stlStatus; omega)) hi

theorem stlUp0_of_stlView : u.rd (R.stlUp0 l) = s.rd (R.stlUp0 l) :=
  eq_of_linkWord (linkWord_of_stlView h (linkReg_stlUp0 l) (by unfold R.stlUp0; omega)) (by unfold R.stlUp0; omega)

theorem stlUp1_of_stlView : u.rd (R.stlUp1 l) = s.rd (R.stlUp1 l) :=
  eq_of_linkWord (linkWord_of_stlView h (linkReg_stlUp1 l) (by unfold R.stlUp1; omega)) (by unfold R.stlUp1; omega)

theorem stlCount0_of_stlView : u.rd (R.stlCount0 l) = s.rd (R.stlCount0 l) :=
  eq_of_linkWord (linkWord_of_stlView h (linkReg_stlCount0 l) (by unfold R.stlCount0; omega)) (by unfold R.stlCount0; omega)

end

section
variable (s : State) (x : Nat) (on evOnly : Bool)

theorem State.wrB_live_stlView (b : Bool) : (s.wrB (R.protSrcLive (x / 32)) (x % 32) b).stlView = s.stlView := by
  unfold State.stlView
  congr 1
  funext a
  have hne : a.val ≠ R.protSrcLive (x / 32) := by
    have := a.2.2
    unfold R.protSrcLive
    omega
  rw [State.rd_wrB, if_neg hne]

/-- A source that takes a level leaves the links' registers and frames. -/
@[simp] theorem State.srcLevel_stlView : (s.srcLevel x on evOnly).stlView = s.stlView := by
  unfold State.srcLevel
  split
  · rfl
  · split
    · exact (stlView_of_linkView (s.fireSource_linkView x evOnly)).trans (s.wrB_live_stlView x true)
    · exact (stlView_of_linkView (s.clearSource_linkView x)).trans (s.wrB_live_stlView x false)

theorem State.wrB_live_srcLive (b : Bool) (y : Nat) :
    (s.wrB (R.protSrcLive (x / 32)) (x % 32) b).srcLive y = if y = x then b else s.srcLive y := by
  unfold State.srcLive
  rw [State.rdB, State.rd_wrB]
  split
  · next hreg =>
    have hword : y / 32 = x / 32 := by unfold R.protSrcLive at hreg; omega
    rw [bitOf_withBit _ _ _ _ (by omega), State.rdB, hreg]
    have hbit : y % 32 = x % 32 ↔ y = x := by omega
    simp only [hbit]
  · next hreg =>
    have hne : y ≠ x := fun e => hreg (by rw [e])
    rw [if_neg hne, State.rdB]

theorem srcLive_of_linkView {s u : State} (h : u.linkView = s.linkView) {x : Nat} (hx : 352 ≤ x ∧ x < 448) : u.srcLive x = s.srcLive x := by
  have hword := eq_of_linkWord (linkWord_of_linkView h (linkReg_protSrcLive hx)) (by unfold R.protSrcLive; omega)
  rw [State.srcLive, State.srcLive, State.rdB, State.rdB, hword]

/-- A source of a link that takes a level shows it, and the other sources of links stand. -/
theorem State.srcLevel_srcLive {y : Nat} (hy : 352 ≤ y ∧ y < 448) : (s.srcLevel x on evOnly).srcLive y = if y = x then on else s.srcLive y := by
  unfold State.srcLevel
  split
  · next hon =>
    split
    · next e => rw [e, hon]
    · rfl
  · cases on
    · rw [if_neg Bool.false_ne_true, srcLive_of_linkView (s.clearSource_linkView x) hy, State.wrB_live_srcLive]
    · rw [if_pos rfl, srcLive_of_linkView (s.fireSource_linkView x evOnly) hy, State.wrB_live_srcLive]

end

section
variable (s : State) (l : Fin 32)

@[simp] theorem State.linkSources_stlView (l : Nat) : (s.linkSources l).stlView = s.stlView := by
  unfold State.linkSources
  dsimp only
  rw [State.srcLevel_stlView, State.srcLevel_stlView]

/-- A silent link shows as the source "driver link" (R266). -/
theorem State.linkSources_srcLive (h : s.upSilent l = true) : (s.linkSources l).srcLive (376 + l) = true := by
  have hrange : 352 ≤ 376 + l.val ∧ 376 + l.val < 448 := by omega
  have hne : 376 + l.val ≠ 408 + l.val := by omega
  unfold State.linkSources
  dsimp only
  rw [State.srcLevel_srcLive _ _ _ _ hrange, if_neg hne, State.srcLevel_srcLive _ _ _ _ hrange, if_pos rfl, h, Bool.true_or]

/-! ### Silence (R266) -/

/-- What a link that goes down notes: the flag, the end of `UP`, the count and event of the first time, and the span of its wear. -/
def State.noteDown (s : State) (l : Nat) : State :=
  let down := (s.raise (R.stlStatus l) 8).wrB (R.stlStatus l) 7 false
  (if !s.srcLive (376 + l) || s.rdB (R.stlStatus l) 7 then (down.countUp (R.stlCount1 l) 31 16 1).post (48 + l) 8 else down).wearDown l

theorem State.linkDown_silent {s : State} {l : Nat} (hs : s.upSilent l = true) (hen : s.rdB (R.stlCfg l) 31 = true) :
    s.linkDown l = (s.noteDown l).linkSources l := by
  simp [State.linkDown, State.noteDown, hs, hen]

theorem State.linkDown_idle {s : State} {l : Nat} (h : s.upSilent l = false ∨ s.rdB (R.stlCfg l) 31 = false) : s.linkDown l = s := by
  rcases h with h | h <;> simp [State.linkDown, h]

theorem State.noteDown_rdB (l i : Nat) : (s.noteDown l).rdB (R.stlStatus l) i =
    if i = 7 then false else if i = 8 then true else s.rdB (R.stlStatus l) i := by
  have hne : R.stlStatus l ≠ R.stlCount1 l := by unfold R.stlStatus R.stlCount1; omega
  have hwear (u : State) (a : Nat) : (u.wearDown l).rd a = u.rd a := by
    unfold State.wearDown
    split <;> rfl
  have hcount (u : State) (c : Bool) :
      (if c = true then (u.countUp (R.stlCount1 l) 31 16 1).post (48 + l) 8 else u).rd (R.stlStatus l) = u.rd (R.stlStatus l) := by
    cases c
    · rfl
    · simp [State.rd_countUp, hne]
  unfold State.noteDown
  dsimp only
  rw [State.rdB, hwear, hcount, State.rd_wrB, if_pos rfl, State.rd_raise, if_pos rfl, bitOf_withBit _ _ _ _ (by decide),
    bitOf_withBit _ _ _ _ (by decide), State.rdB]

/-- Noting the silence leaves the links and the present. -/
theorem State.noteDown_links (l : Nat) : (s.noteDown l).links = s.links := by
  have hpost (u : State) (src code : Nat) : (u.post src code).links = u.links := by rw [State.post_eq]
  have hwear (u : State) : (u.wearDown l).links = u.links := by
    unfold State.wearDown
    split <;> rfl
  have hdown : ((s.raise (R.stlStatus l) 8).wrB (R.stlStatus l) 7 false).links = s.links := by
    rw [State.wrB_links, State.raise, State.wrB_links]
    rfl
  unfold State.noteDown
  dsimp only
  rw [hwear]
  split
  · rw [hpost, State.countUp, State.wrF_links, hdown]
  · exact hdown

theorem State.noteDown_clk (l : Nat) : (s.noteDown l).clk = s.clk := by
  have hsched : (s.noteDown l).sched = s.sched := by
    unfold State.noteDown
    simp [apply_ite State.sched]
  exact congrArg Sched.clk hsched

theorem State.noteDown_upSilent (l : Nat) : (s.noteDown l).upSilent l = s.upSilent l := by
  unfold State.upSilent State.link
  rw [State.noteDown_links, State.noteDown_clk, State.noteDown_rdB]
  rfl

/-! ### Upstream frames (R241, R264, R266) -/

theorem State.upFrame_invalid {at_ : Nat} {lineOk : Bool} {bs : List Byte} (hen : s.rdB (R.stlCfg l) 31 = true) (h : (lineOk && frameOk bs) = false) :
    s.upFrame l at_ lineOk bs = s.upInvalid l := by
  simp [State.upFrame, hen, h]

theorem State.upFrame_valid (at_ : Nat) {bs : List Byte} (hen : s.rdB (R.stlCfg l) 31 = true) (hok : frameOk bs = true) (ht : fieldLE bs 1 1 = 8) :
    s.upFrame l at_ true bs = ((((s.upCapture l at_ bs).wearUp l).upStatusRun l bs).linkSources l).desatFrame l at_ bs := by
  simp [State.upFrame, hen, hok, ht]

/-- What is captured of a valid frame stands when its reactions are over. -/
theorem State.upFrame_valid_stlView (at_ : Nat) {bs : List Byte} (hen : s.rdB (R.stlCfg l) 31 = true) (hok : frameOk bs = true)
    (ht : fieldLE bs 1 1 = 8) : (s.upFrame l at_ true bs).seniorResume.stlView = (s.upCapture l at_ bs).stlView := by
  have hrun (u : State) : (u.upStatusRun l bs).stlView = u.stlView := stlView_of_linkView (u.setLink_linkView l _ rfl)
  rw [s.upFrame_valid l at_ hen hok ht, stlView_of_linkView (State.seniorResume_linkView _), stlView_of_linkView (State.desatFrame_linkView ..),
    State.linkSources_stlView, hrun, stlView_of_linkView (State.wearUp_linkView ..)]

section
variable (at_ : Nat) (bs : List Byte)

/-- The registers of a valid frame. -/
def State.upRegs (s : State) (l : Nat) (bs : List Byte) : State :=
  let words := (((s.wr (R.stlUp0 l) (wordN (fieldLE bs 5 4))).wr (R.stlUp1 l) (wordN (fieldLE bs 9 4))).wr (R.stlUp2 l) (wordN (fieldLE bs 13 4))).wr
    (R.stlUp3 l) (wordN (fieldLE bs 3 2 * 65536 + fieldLE bs 2 1 * 256 + fieldLE bs 17 1))
  ((((words.wrF (R.stlTurn l) 15 0 (fieldLE bs 12 2)).wrB (R.stlStatus l) 7 true).wrB (R.stlStatus l) 6 (natBit (fieldLE bs 5 1) 6)).wrF
    (R.stlStatus l) 5 4 (fieldLE bs 6 1 / 64)).wrB (R.stlStatus l) 1 (natBit (fieldLE bs 7 1) 6)

theorem State.upCapture_eq : ∃ v : LinkSt, s.upCapture l at_ bs = (s.upRegs l bs).setLink l v ∧ v.upAt = some s.clk.now := ⟨_, rfl, rfl⟩

theorem State.upRegs_rd (a : Nat) (ht : a ≠ R.stlTurn l) (h2 : a ≠ R.stlUp2 l) (h3 : a ≠ R.stlUp3 l) (hs : a ≠ R.stlStatus l) :
    (s.upRegs l bs).rd a = if a = R.stlUp1 l then wordN (fieldLE bs 9 4) else if a = R.stlUp0 l then wordN (fieldLE bs 5 4) else s.rd a := by
  simp only [State.upRegs, State.rd_wrB, State.rd_wrF, State.rd_wr, if_neg ht, if_neg h2, if_neg h3, if_neg hs]

theorem State.upCapture_up0 : (s.upCapture l at_ bs).rd (R.stlUp0 l) = wordN (fieldLE bs 5 4) := by
  obtain ⟨v, hv, -⟩ := s.upCapture_eq l at_ bs
  rw [hv, State.setLink_rd, State.upRegs_rd, if_neg, if_pos rfl]
  all_goals
    unfold R.stlUp0
  · unfold R.stlUp1; omega
  · unfold R.stlTurn; omega
  · unfold R.stlUp2; omega
  · unfold R.stlUp3; omega
  · unfold R.stlStatus; omega

theorem State.upCapture_up1 : (s.upCapture l at_ bs).rd (R.stlUp1 l) = wordN (fieldLE bs 9 4) := by
  obtain ⟨v, hv, -⟩ := s.upCapture_eq l at_ bs
  rw [hv, State.setLink_rd, State.upRegs_rd, if_pos rfl]
  all_goals
    unfold R.stlUp1
  · unfold R.stlTurn; omega
  · unfold R.stlUp2; omega
  · unfold R.stlUp3; omega
  · unfold R.stlStatus; omega

/-- The frame shows the link up. -/
theorem State.upCapture_up : (s.upCapture l at_ bs).rdB (R.stlStatus l) 7 = true := by
  obtain ⟨v, hv, -⟩ := s.upCapture_eq l at_ bs
  rw [hv, State.rdB, State.setLink_rd]
  simp [State.upRegs, State.rd_wrB, State.rd_wrF, bitOf_withBit, bitOf_withField]

theorem State.upCapture_upAt : ((s.upCapture l at_ bs).link l).upAt = some s.clk.now := by
  obtain ⟨v, hv, hat⟩ := s.upCapture_eq l at_ bs
  rw [hv, State.link, State.setLink_links, tabGet_set_same, hat]

end

theorem State.seniorResume_idle {s : State} (h : s.twinOn = false ∨ s.cwyUp = true) : s.seniorResume = s := by
  rcases h with h | h <;> simp [State.seniorResume, h]

theorem State.upInvalid_rd (a : Nat) : (s.upInvalid l).rd a =
    if a = R.stlCount0 l then withField (s.rd a) 31 16 (min 65535 (s.rdF a 31 16 + 1)) else s.rd a := by
  rw [State.upInvalid, State.wearErr_rd, State.rd_countUp]
  split
  · next e =>
    subst e
    rfl
  · rfl

/-- An invalid frame does not bear on the twin. -/
theorem State.upInvalid_alone (h : s.twinOn = false ∨ s.cwyUp = true) : (s.upInvalid l).twinOn = false ∨ (s.upInvalid l).cwyUp = true := by
  have hstate : R.sysState ≠ R.stlCount0 l := by unfold R.sysState R.stlCount0; omega
  have hstrap : R.sysStrap ≠ R.stlCount0 l := by unfold R.sysStrap R.stlCount0; omega
  have hcwy : R.cwyStatus ≠ R.stlCount0 l := by unfold R.cwyStatus R.stlCount0; omega
  simpa [State.twinOn, State.cwyUp, State.rdB, State.rdF, State.upInvalid_rd, hstate, hstrap, hcwy] using h

end

end Sys2Proof.Machine
end

section
/-! What a link sends in its slot (R240, R248-R250): the slot begins, one kind of frame follows, and the wear of a link that has been up leaves it. -/

namespace Sys2Proof.Machine

/-! ### One link -/

@[simp] theorem State.link_setLink (s : State) (l : Nat) (v : LinkSt) : (s.setLink l v).link l = v := tabGet_set_same ..

theorem State.link_setLink_ne (s : State) {l j : Nat} (v : LinkSt) (h : j ≠ l) : (s.setLink l v).link j = s.link j := tabGet_set_ne _ _ _ _ _ h

/-- Of two values put at a key the later stands. -/
theorem tabPut_tabPut {α : Type} (t : Tab α) (k : Nat) (u v : α) : tabPut (tabPut t k u) k v = tabPut t k v := by
  induction t with
  | nil => simp [tabPut]
  | cons e t ih =>
    obtain ⟨j, w⟩ := e
    by_cases hlt : k < j
    · simp [tabPut, hlt]
    · by_cases heq : j = k
      · simp [tabPut, heq]
      · simp [tabPut, hlt, heq, ih]

/-- Of two values of a link that has begun a slot the later stands. -/
theorem State.setLink_setLink (s : State) (l x y : Nat) (v w : LinkSt) (hv : v.slotAt = some x) (hw : w.slotAt = some y) :
    (s.setLink l v).setLink l w = s.setLink l w := by
  have hset (t : Tab LinkSt) {u : LinkSt} {z : Nat} (hu : u.slotAt = some z) : tabSet (fun _ => LinkSt.init) t l u = tabPut t l u := by
    have hne : u ≠ LinkSt.init := by
      rintro rfl
      exact nomatch hu
    rw [tabSet, if_neg hne]
  unfold State.setLink
  simp only [hset _ hv, hset _ hw, tabPut_tabPut]

/-! ### The slot (R240) -/

/-- The slot of link `l` that starts now has begun. -/
def State.slotBegun (s : State) (l : Nat) : State := s.setLink l { s.link l with slotAt := some s.clk.now }

section
variable {x : State} {l : Nat}

/-- The slot of a link without a leg, outside the periodic `EPOCH`: silence, an `EPOCH` after it, or the frame that is next. -/
theorem State.stadanSlot_begun (h0 : x.tb % 6400 = 0) (h1 : (x.link l).slotAt ≠ some x.clk.now) (hleg : x.linkLeg l = none)
    (hslot : (x.tb / 6400).toNat % 1000 ≠ 0) : x.stadanSlot l =
      let y := x.slotBegun l
      if !x.linkSends l then
        let z := y.passEdges l
        (z.setLink l { z.link l with lastTx := [], resume := z.rdB (R.stlStatus l) 0 && (z.rdB (R.stlCfg l) 31) }, false)
      else if (x.link l).resume then (y.sendEpoch l true, false)
      else if (x.link l).holdOn then y.slotHeld l (x.tb / 6400).toNat
      else y.slotOpen l (x.tb / 6400).toNat := by
  have h0' : x.tb % (slotLen : Nat) = 0 := h0
  have hslot' : ((x.tb / (slotLen : Nat)).toNat % 1000 == 0) = false := beq_false_of_ne hslot
  unfold State.stadanSlot
  rw [if_neg (by simp [h0', h1])]
  have hleg' : (x.slotBegun l).linkLeg l = none := hleg
  have hsends : (x.slotBegun l).linkSends l = x.linkSends l := rfl
  extract_lets slot k y0 y
  have hy0 : y0 = x.slotBegun l := by
    unfold State.slotBegun
    simp only [y0, slot, hslot', Bool.or_false, k]
  have hy : y = x.slotBegun l := by
    simp only [y, hy0, hleg']
  clear_value y
  subst hy
  rw [hsends]
  have hlink : (x.slotBegun l).link l = { x.link l with slotAt := some x.clk.now } := x.link_setLink l _
  simp only [hlink]
  rfl

/-- The wear of a link is judged by what the slot leaves as it stood. -/
theorem State.stadanStep_of_slot {z : State} (hr : x.stadanSlot l = (z, false)) (hw : z.wear = x.wear) (hc : z.clk = x.clk)
    (hup : x.wearDownTime l < 10 * second) : x.stadanStep l = z := by
  have htime : z.wearDownTime l = x.wearDownTime l := by
    unfold State.wearDownTime
    rw [hw, hc]
  have hjudge : z.wearDownJudge l = z := if_neg (by omega)
  unfold State.stadanStep
  simp [hr, hjudge]

theorem State.stadanSlot_idle (h : x.tb % 6400 ≠ 0 ∨ (x.link l).slotAt = some x.clk.now) : x.stadanSlot l = (x, false) := if_pos h

/-! ### The kinds of frame (R248-R250) -/

/-- The frame of type `type` that link `l` sends in the slot that starts now. -/
def State.slotFrame (s : State) (l type : Nat) (pl : List Byte) : List Byte := mkFrame type (s.linkClaim l) ((s.tb / 6400).toNat % 65536) pl

@[simp] theorem State.slotBegun_link : (x.slotBegun l).link l = { x.link l with slotAt := some x.clk.now } := x.link_setLink l _

theorem State.sendFrame_begun (type : Nat) (pl : List Byte) : (x.slotBegun l).sendFrame l type pl =
    (x.slotBegun l).setLink l { x.link l with slotAt := some x.clk.now, lastTx := x.slotFrame l type pl } := by
  unfold State.sendFrame
  rw [State.slotBegun_link]
  rfl

theorem State.slotHeld_first (slot : Nat) (h : (x.link l).holdSent < 10) : (x.slotBegun l).slotHeld l slot =
    ((x.slotBegun l).setLink l { x.link l with slotAt := some x.clk.now, lastTx := x.slotFrame l 4 (bytesLE 1 x.holdCode ++ bytesLE 12 0) }
        |>.setLink l
      { x.link l with slotAt := some x.clk.now, lastTx := x.slotFrame l 4 (bytesLE 1 x.holdCode ++ bytesLE 12 0),
                      holdSent := (x.link l).holdSent + 1 }, false) := by
  have hcode : (x.slotBegun l).holdCode = x.holdCode := rfl
  unfold State.slotHeld
  dsimp only
  rw [if_pos (by rw [State.slotBegun_link]; exact .inl h), State.sendFrame_begun, State.link_setLink, State.slotBegun_link, hcode]

theorem State.stateNext_none (h : (x.link l).state = []) : x.stateNext l = none := by
  simp [State.stateNext, h]

theorem State.stateNext_new {c : StateCmd} (h : (x.link l).state = [c]) (hs : c.sent = 0) (hd : c.decide_ < x.clk.now) : x.stateNext l = some c := by
  simp [State.stateNext, h, hs, hd]

theorem State.slotOpen_state {c : StateCmd} (slot : Nat) (h : x.stateNext l = some c) : x.slotOpen l slot = (x.sendStateFrame l c, false) := by
  simp [State.slotOpen, h]

theorem State.slotOpen_epoch (slot : Nat) (h : x.stateNext l = none) (he : (x.link l).epochDue = true) :
    x.slotOpen l slot = (x.sendEpoch l false, true) := by
  simp [State.slotOpen, h, he]

/-- With nothing to send a link sends a frame without a command. -/
theorem State.slotOpen_empty {slot : Nat} (h : x.stateNext l = none) (he : (x.link l).epochDue = false) (hleg : x.linkLeg l = none)
    (hedges : x.edgesToSend l = []) (hc : (x.link l).cont = none) (hslot : slot % 8 ≠ 7) :
    x.slotOpen l slot = (x.sendFrame l 0 (bytesLE 13 0), false) := by
  simp [State.slotOpen, h, he, hleg, hedges, hc, hslot]

/-- What a silent slot leaves: the edges that have passed count as sent where the link runs. -/
theorem State.passEdges_only : OnlyRegs { x with links := (x.passEdges l).links } (x.passEdges l) [R.stlEdgeNum l] := by
  unfold State.passEdges
  dsimp only
  split
  · exact State.wrF_only _ _ _ _ _
  · exact .refl _ _

theorem State.passEdges_link_ne {j : Nat} (h : j ≠ l) : (x.passEdges l).link j = x.link j := by
  unfold State.passEdges
  dsimp only
  split
  · exact x.link_setLink_ne _ h
  · exact x.link_setLink_ne _ h

theorem State.sendStateFrame_only (c : StateCmd) : OnlyRegs { x with links := (x.sendStateFrame l c).links } (x.sendStateFrame l c)
    [R.stlCount1 l] := by
  unfold State.sendStateFrame
  dsimp only
  split
  · exact State.wrF_only _ _ _ _ _
  · exact .refl _ _

theorem State.sendStateFrame_lastTx (c : StateCmd) : (((x.slotBegun l).sendStateFrame l c).link l).lastTx = x.slotFrame l 2 (x.statePayload c) := by
  have hpayload : (x.slotBegun l).statePayload c = x.statePayload c := rfl
  unfold State.sendStateFrame
  dsimp only
  rw [State.link_setLink, State.sendFrame_begun, State.link_setLink, hpayload]

theorem State.sendEpoch_sent : fieldLE ((x.sendEpoch l false).link l).lastTx 1 1 = 3 ∧ ((x.sendEpoch l false).link l).epochDue = false := by
  unfold State.sendEpoch State.sendFrame
  simp [fieldLE_mkFrame_type]

/-- What follows an `EPOCH` with a renewed `PROP` leaves the frame sent (R264). -/
theorem State.stadanStep_frames {z : State} (hr : x.stadanSlot l = (z, true)) (j : Nat) : ((x.stadanStep l).link j).frames = (z.link j).frames := by
  have hjudge (i : Nat) : ((z.wearDownJudge l).link i).frames = (z.link i).frames := frames_of_linkView (z.wearDownJudge_linkView l) i
  have hmark (u : State) : ((((u.raise (R.stlStatus l) 9).post (48 + l) 9)).link j).frames = (u.link j).frames := by
    rw [frames_of_linkView (State.post_linkView ..)]
    rfl
  unfold State.stadanStep
  simp only [hr, Bool.true_and, if_true]
  split
  · rw [frames_of_stlView (State.linkSources_stlView ..), hmark, hjudge]
  · rw [frames_of_stlView (State.linkSources_stlView ..), hjudge]

end

/-! ### Runs -/

section
variable {s : State} {t : Nat} {f : State → State}

/-- The run of an operation that changes the links and some registers. -/
theorem State.run_links {z : State} {as : List Nat} (e : f (s.upTo t) = z) (h : OnlyRegs { s.upTo t with links := z.links } z as) :
    ∃ u, s.run t f = .next u ∧ (s.upTo t).framed { s.upTo t with links := u.links } u as ∧ ∀ j, u.link j = z.link j := by
  obtain ⟨u, hu, hfr, -⟩ := State.run_onlyRegs e h (s.upTo_pending t) (fun _ => rfl)
  have hlinks : u.links = z.links := by rw [hfr.1]
  refine ⟨u, hu, ?_, fun j => by rw [State.link, State.link, hlinks]⟩
  rw [hlinks]
  exact hfr

/-- The run of an operation that leaves the schedule and the frame. -/
theorem State.run_paced {z : State} (e : f (s.upTo t) = z) (hs : z.sched = (s.upTo t).sched) (hf : z.frame = (s.upTo t).frame) :
    ∃ u, s.run t f = .next u ∧ (s.upTo t).pacedAs u ∧ u = { z with regs := u.regs, raised := u.raised, pending := s.pending } ∧
      ∀ a, a ∉ forceRegs → u.rd a = z.rd a := by
  obtain ⟨u, hu, hstate, hregs⟩ := State.run_eff e
  have hseqs : z.seqs = (s.upTo t).seqs := congrArg Sched.seqs hs
  have hseq (n : Nat) : z.seq n = (s.upTo t).seq n := by rw [State.seq, State.seq, hseqs]
  exact ⟨u, hu, State.paced_of hstate (s.upTo_pending t) (congrArg Sched.clk hs) hseq (congrArg Sched.tap hs) (congrArg Sched.bus hs) hf, hstate,
    hregs⟩

end

end Sys2Proof.Machine
end

section
/-! The commands of a link (R240-R243, R248-R250, R264, R266): each is the link's operation run at its instant. -/

namespace Sys2Proof.Machine

/-! ### The slot of a link that sends -/

section
variable {x : State} {l : Nat} (h0 : x.tb % 6400 = 0) (h1 : (x.link l).slotAt ≠ some x.clk.now) (hleg : x.linkLeg l = none)
  (hslot : (x.tb / 6400).toNat % 1000 ≠ 0)
include h0 h1 hleg hslot

/-- A silent link sends nothing, and its other links stand. -/
theorem State.stadanSlot_silent (hs : x.linkSends l = false) : ∃ z, x.stadanSlot l = (z, false) ∧
    OnlyRegs { x with links := z.links } z [R.stlEdgeNum l] ∧ (z.link l).lastTx = [] ∧ ∀ j, j ≠ l → z.link j = x.link j := by
  have hregs := (x.slotBegun l).passEdges_only (l := l)
  rw [State.stadanSlot_begun h0 h1 hleg hslot, hs]
  refine ⟨_, rfl, ⟨?_, hregs.regs⟩, by rw [State.link_setLink], fun j hj => ?_⟩
  · rw [hregs.state]
    rfl
  · rw [State.link_setLink_ne _ _ hj, State.passEdges_link_ne hj]
    exact x.link_setLink_ne _ hj

section
variable (hs : x.linkSends l = true) (hr : (x.link l).resume = false)
include hs hr

theorem State.stadanSlot_held (hon : (x.link l).holdOn = true) (hsent : (x.link l).holdSent < 10) : ∃ z, x.stadanSlot l = (z, false) ∧
    z = { x with links := z.links } ∧ z.link l = { x.link l with
      slotAt := some x.clk.now, lastTx := x.slotFrame l 4 (bytesLE 1 x.holdCode ++ bytesLE 12 0), holdSent := (x.link l).holdSent + 1 } ∧
      ∀ j, j ≠ l → z.link j = x.link j := by
  rw [State.stadanSlot_begun h0 h1 hleg hslot]
  simp only [hs, hr, hon, Bool.not_true, Bool.false_eq_true, if_false, if_true, State.slotHeld_first _ hsent]
  refine ⟨_, rfl, rfl, by rw [State.link_setLink], fun j hj => ?_⟩
  rw [State.link_setLink_ne _ _ hj, State.link_setLink_ne _ _ hj]
  exact x.link_setLink_ne _ hj

theorem State.stadanSlot_open (hoff : (x.link l).holdOn = false) : x.stadanSlot l = (x.slotBegun l).slotOpen l (x.tb / 6400).toNat := by
  rw [State.stadanSlot_begun h0 h1 hleg hslot]
  simp [hs, hr, hoff]

theorem State.stadanSlot_epoch (hoff : (x.link l).holdOn = false) (hq : (x.link l).state = []) (he : (x.link l).epochDue = true) :
    x.stadanSlot l = ((x.slotBegun l).sendEpoch l false, true) := by
  rw [State.stadanSlot_open h0 h1 hleg hslot hs hr hoff]
  exact State.slotOpen_epoch _ (State.stateNext_none (by rw [State.slotBegun_link]; exact hq)) (by rw [State.slotBegun_link]; exact he)

theorem State.stadanSlot_state {c : StateCmd} (hoff : (x.link l).holdOn = false) (hq : (x.link l).state = [c]) (hc : c.sent = 0)
    (hd : c.decide_ < x.clk.now) : x.stadanSlot l = ((x.slotBegun l).sendStateFrame l c, false) := by
  rw [State.stadanSlot_open h0 h1 hleg hslot hs hr hoff]
  exact State.slotOpen_state _ (State.stateNext_new (by rw [State.slotBegun_link]; exact hq) hc hd)

theorem State.stadanSlot_empty (hoff : (x.link l).holdOn = false) (hq : (x.link l).state = []) (he : (x.link l).epochDue = false)
    (hedges : x.edgesToSend l = []) (hcont : (x.link l).cont = none) (h7 : (x.tb / 6400).toNat % 8 ≠ 7) : x.stadanSlot l =
      (x.setLink l { x.link l with slotAt := some x.clk.now, lastTx := x.slotFrame l 0 (bytesLE 13 0) }, false) := by
  have hnext : (x.slotBegun l).stateNext l = none := State.stateNext_none (by rw [State.slotBegun_link]; exact hq)
  have hsend : (x.slotBegun l).edgesToSend l = x.edgesToSend l := by
    unfold State.edgesToSend
    rw [State.slotBegun_link]
    rfl
  rw [State.stadanSlot_open h0 h1 hleg hslot hs hr hoff,
    State.slotOpen_empty hnext (by rw [State.slotBegun_link]; exact he) hleg (hsend.trans hedges) (by rw [State.slotBegun_link]; exact hcont) h7,
    State.sendFrame_begun, State.slotBegun, State.setLink_setLink _ _ _ _ _ _ rfl rfl]

end
end

/-! ### The commands -/

theorem linkReg_force {a : Nat} (h : linkReg a) : a ∉ forceRegs := not_mem_forceRegs (by unfold linkReg at h; omega)

/-- An invalid frame is counted, whatever a silent senior does then (R241, R337). -/
theorem State.upInvalid_count (x : State) (l : Fin 32) :
    (x.upInvalid l).seniorResume.rdF (R.stlCount0 l) 31 16 = min 65535 (x.rdF (R.stlCount0 l) 31 16 + 1) := by
  rw [State.rdF, stlCount0_of_stlView (stlView_of_linkView (State.seniorResume_linkView _)), State.upInvalid_rd, if_pos rfl,
    fieldOf_withField _ _ _ _ (by decide) (by decide)]
  omega

section
variable {s : State} {t at_ : Nat} {l : Fin 32} {bytes : List Byte} (hen : (s.upTo t).rdB (R.stlCfg l) 31 = true)
include hen

/-- An invalid frame is counted; where no senior is silent nothing else follows (R241, R337). -/
theorem State.run_upFrame_invalid {lineOk : Bool} (hbad : (lineOk && frameOk bytes) = false) :
    ∃ u, s.run t (fun x => (x.upFrame l at_ lineOk bytes).seniorResume) = .next u ∧ (s.upTo t).pacedAs u ∧
      u.rdF (R.stlCount0 l) 31 16 = min 65535 ((s.upTo t).rdF (R.stlCount0 l) 31 16 + 1) ∧
      ((s.upTo t).twinOn = false ∨ (s.upTo t).cwyUp = true →
        u.prot = (s.upTo t).prot ∧ u.links = (s.upTo t).links ∧ u.legs = (s.upTo t).legs ∧ u.slices = (s.upTo t).slices) := by
  have hrun : ((s.upTo t).upFrame l at_ lineOk bytes).seniorResume = ((s.upTo t).upInvalid l).seniorResume := by
    rw [State.upFrame_invalid _ l hen hbad]
  obtain ⟨u, hu, hpaced, hstate, hregs⟩ := State.run_paced (f := fun x => (x.upFrame l at_ lineOk bytes).seniorResume) hrun
    (by rw [← hrun]; simp) (by rw [← hrun]; simp)
  refine ⟨u, hu, hpaced, ?_, fun halone => ?_⟩
  · rw [State.rdF, hregs _ (linkReg_force (linkReg_stlCount0 l))]
    exact State.upInvalid_count _ l
  · rw [State.seniorResume_idle (State.upInvalid_alone _ l halone)] at hstate
    rw [hstate]
    exact ⟨rfl, rfl, rfl, rfl⟩

/-- A valid frame stands in the registers of its link, which is up (R241, R264, R266). -/
theorem State.run_upFrame_valid (hok : frameOk bytes = true) (ht : fieldLE bytes 1 1 = 8) :
    ∃ u, s.run t (fun x => (x.upFrame l at_ true bytes).seniorResume) = .next u ∧ (s.upTo t).pacedAs u ∧
      u.rd (R.stlUp0 l) = wordN (fieldLE bytes 5 4) ∧ u.rd (R.stlUp1 l) = wordN (fieldLE bytes 9 4) ∧ u.rdB (R.stlStatus l) 7 = true ∧
      (u.link l).upAt = some (s.upTo t).clk.now := by
  have hview := (s.upTo t).upFrame_valid_stlView l at_ hen hok ht
  obtain ⟨u, hu, hpaced, hstate, hregs⟩ := State.run_paced (f := fun x => (x.upFrame l at_ true bytes).seniorResume) (s := s) (t := t) rfl
    (by simp) (by simp)
  refine ⟨u, hu, hpaced, ?_, ?_, ?_, ?_⟩
  · rw [hregs _ (linkReg_force (linkReg_stlUp0 l)), stlUp0_of_stlView hview, State.upCapture_up0]
  · rw [hregs _ (linkReg_force (linkReg_stlUp1 l)), stlUp1_of_stlView hview, State.upCapture_up1]
  · rw [State.rdB, hregs _ (linkReg_force (linkReg_stlStatus l))]
    exact (stlStatus_of_stlView hview l (by decide)).trans (State.upCapture_up _ l at_ bytes)
  · obtain ⟨hat, -⟩ := Prod.mk.inj (frames_of_stlView hview l)
    rw [hstate]
    exact hat.trans (State.upCapture_upAt _ l at_ bytes)

/-- A silent link is down, and its source shows it (R266). -/
theorem State.run_linkDown_silent (hsilent : (s.upTo t).upSilent l = true) :
    ∃ u, s.run t (fun x => x.linkDown l) = .next u ∧ (s.upTo t).pacedAs u ∧ u.rdB (R.stlStatus l) 8 = true ∧
      u.rdB (R.stlStatus l) 7 = false ∧ u.srcLive (376 + l) = true := by
  have hdown := State.linkDown_silent hsilent hen
  obtain ⟨u, hu, hpaced, -, hregs⟩ := State.run_paced (f := fun x => x.linkDown l) hdown (by rw [← hdown]; exact State.linkDown_sched ..)
    (by rw [← hdown]; exact State.linkDown_frame ..)
  have hbit {i : Nat} (hi : i ≠ 2) : u.rdB (R.stlStatus l) i = ((s.upTo t).noteDown l).rdB (R.stlStatus l) i := by
    rw [State.rdB, hregs _ (linkReg_force (linkReg_stlStatus l))]
    exact stlStatus_of_stlView (State.linkSources_stlView ..) l hi
  refine ⟨u, hu, hpaced, ?_, ?_, ?_⟩
  · rw [hbit (by decide), State.noteDown_rdB]
    rfl
  · rw [hbit (by decide), State.noteDown_rdB]
    rfl
  · rw [State.srcLive, State.rdB, hregs _ (linkReg_force (linkReg_protSrcLive (by omega)))]
    exact State.linkSources_srcLive _ l (by rw [State.noteDown_upSilent]; exact hsilent)

end

/-- Settles O24: each command is the operation of the link run at its instant, in the case that the premises name. -/
theorem linksSendAndReceiveFrames : Obligations.LinksSendAndReceiveFrames := by
  refine ⟨fun t l s => ?_, fun t at_ l lineOk bytes s => ?_⟩
  · intro x k slot sends hup
    refine ⟨fun hidle => ?_, fun h0 h1 hleg hslot => ⟨fun hs => ?_, fun hs hr => ⟨fun hon hsent => ?_, fun hoff hq he => ?_,
      fun c hoff hq hc hd => ?_, fun hoff hq he hedges hcont h7 => ?_⟩⟩⟩
    · exact State.run_same (f := fun x => x.stadanStep l) (State.stadanStep_of_slot (State.stadanSlot_idle hidle) rfl rfl hup) (s.upTo_pending t)
        (fun _ => rfl)
    · obtain ⟨z, hz, honly, htx, hothers⟩ := State.stadanSlot_silent h0 h1 hleg hslot hs
      have hstep : x.stadanStep l = z := State.stadanStep_of_slot hz (by rw [honly.state]) (by rw [honly.state]) hup
      obtain ⟨u, hu, hfr, hlink⟩ := State.run_links (f := fun x => x.stadanStep l) hstep honly
      exact ⟨u, hu, hfr, by rw [hlink, htx], fun j hj => by rw [hlink, hothers j (Fin.val_ne_of_ne hj)]⟩
    · obtain ⟨z, hz, hstate, hmine, hothers⟩ := State.stadanSlot_held h0 h1 hleg hslot hs hr hon hsent
      have hstep : x.stadanStep l = z := State.stadanStep_of_slot hz (by rw [hstate]) (by rw [hstate]) hup
      obtain ⟨u, hu, hfr, hlink⟩ := State.run_links (f := fun x => x.stadanStep l) (as := []) hstep (by rw [← hstate]; exact .refl _ _)
      exact ⟨u, hu, hfr, by rw [hlink, hmine]; rfl, fun j hj => by rw [hlink, hothers j (Fin.val_ne_of_ne hj)]⟩
    · have hframes := State.stadanStep_frames (State.stadanSlot_epoch h0 h1 hleg hslot hs hr hoff hq he) l
      obtain ⟨htx, hdue⟩ := (x.slotBegun l).sendEpoch_sent (l := l)
      obtain ⟨u, hu, hpaced, hstate, -⟩ := State.run_paced (f := fun x => x.stadanStep l) (s := s) (t := t) rfl (State.stadanStep_sched ..)
        (State.stadanStep_frame ..)
      have hlink : u.link l = (x.stadanStep l).link l := by
        rw [hstate]
        rfl
      obtain ⟨-, hrest⟩ := Prod.mk.inj hframes
      obtain ⟨hlast, hepoch⟩ := Prod.mk.inj hrest
      exact ⟨u, hu, hpaced, by rw [hlink, hlast, htx], by rw [hlink, hepoch, hdue]⟩
    · have honly := (x.slotBegun l).sendStateFrame_only (l := l) c
      have hstep : x.stadanStep l = (x.slotBegun l).sendStateFrame l c :=
        State.stadanStep_of_slot (State.stadanSlot_state h0 h1 hleg hslot hs hr hoff hq hc hd) (by rw [honly.state]; rfl)
          (by rw [honly.state]; rfl) hup
      obtain ⟨u, hu, hfr, hlink⟩ := State.run_links (f := fun x => x.stadanStep l) hstep honly
      exact ⟨u, hu, hfr, by rw [hlink, State.sendStateFrame_lastTx]; rfl⟩
    · exact State.run_same (f := fun x => x.stadanStep l)
        (State.stadanStep_of_slot (State.stadanSlot_empty h0 h1 hleg hslot hs hr hoff hq he hedges hcont h7) rfl rfl hup) (s.upTo_pending t)
            (fun _ => rfl)
  · intro x k
    refine ⟨?_, fun hidle => ?_, fun hen => ⟨State.run_upFrame_invalid hen, fun hline hok ht => ?_, State.run_linkDown_silent hen⟩⟩
    · exact State.run_same (f := fun x => x.edgeEligible l) rfl (s.upTo_pending t) (fun _ => rfl)
    · exact State.run_same (f := fun x => x.linkDown l) (State.linkDown_idle hidle) (s.upTo_pending t) (fun _ => rfl)
    · subst hline
      exact State.run_upFrame_valid hen hok ht

end Sys2Proof.Machine
end

section
/-! The registers and the state of an auxiliary motor (R268, R278-R290): what a write of one part of a status word leaves of the others, what the
operations of a motor leave of its state, and what a change of state puts there. -/

namespace Sys2Proof.Machine

/-! ### Bits and fields of a register -/

theorem State.rdB_congr {s u : State} {a : Nat} (h : u.rd a = s.rd a) (i : Nat) : u.rdB a i = s.rdB a i := by
  rw [State.rdB, State.rdB, h]

theorem State.rdF_congr {s u : State} {a : Nat} (h : u.rd a = s.rd a) (hi lo : Nat) : u.rdF a hi lo = s.rdF a hi lo := by
  rw [State.rdF, State.rdF, h]

section
variable (s : State) (a b : Nat)

theorem State.rdB_wrB_same {i : Nat} (v : Bool) (h : i < 32) : (s.wrB a i v).rdB a i = v := by
  rw [State.rdB, State.rd_wrB, if_pos rfl, bitOf_withBit_same _ _ _ h]

theorem State.rdF_wrF_same {hi lo : Nat} (v : Nat) (h : hi < 32) (hl : lo ≤ hi) : (s.wrF a hi lo v).rdF a hi lo = v % 2 ^ (hi + 1 - lo) := by
  rw [State.rdF, State.rd_wrF, if_pos rfl, fieldOf_withField _ _ _ _ h hl]

/-- A bit written leaves every other bit, of its own register and of any other. -/
theorem State.rdB_wrB_other {i j : Nat} (v : Bool) (h : i < 32) (hj : j ≠ i) : (s.wrB a i v).rdB b j = s.rdB b j := by
  rw [State.rdB, State.rd_wrB]
  split
  · next e => rw [bitOf_withBit _ _ _ _ h, if_neg hj, e, State.rdB]
  · rfl

/-- A bit written leaves every field that it does not belong to. -/
theorem State.rdF_wrB_other {i hi lo : Nat} (v : Bool) (h : i < 32) (ho : i < lo ∨ hi < i) : (s.wrB a i v).rdF b hi lo = s.rdF b hi lo := by
  rw [State.rdF, State.rd_wrB]
  split
  · next e => rw [fieldOf_withBit _ _ _ _ _ h ho, e, State.rdF]
  · rfl

/-- A field written leaves every bit outside it. -/
theorem State.rdB_wrF_other {hi lo j : Nat} (v : Nat) (h : hi < 32) (hl : lo ≤ hi) (hj : j < lo ∨ hi < j) :
    (s.wrF a hi lo v).rdB b j = s.rdB b j := by
  rw [State.rdB, State.rd_wrF]
  split
  · next e => rw [bitOf_withField _ _ _ _ _ h hl hj, e, State.rdB]
  · rfl

/-- A field written leaves every field beside it. -/
theorem State.rdF_wrF_other {hi lo hi' lo' : Nat} (v : Nat) (h : hi < 32) (hl : lo ≤ hi) (hd : hi' < lo ∨ hi < lo') :
    (s.wrF a hi lo v).rdF b hi' lo' = s.rdF b hi' lo' := by
  rw [State.rdF, State.rd_wrF]
  split
  · next e => rw [fieldOf_withField_ne _ _ _ _ _ _ h hl hd, e, State.rdF]
  · rfl

/-- A field that hardware's setting of a bit leaves. -/
theorem State.rdF_raise_other {i hi lo : Nat} (h : i < 32) (ho : i < lo ∨ hi < i) : (s.raise a i).rdF b hi lo = s.rdF b hi lo :=
  (State.rdF_congr (by rw [State.rd_raise, State.rd_wrB]) hi lo).trans (s.rdF_wrB_other a b true h ho)

end

/-! ### Registers of a motor -/

theorem auxStatus_force (m : Nat) : R.auxStatus m ∉ forceRegs := not_mem_forceRegs (by unfold R.auxStatus; omega)
theorem auxHbStatus_force (h : Nat) : R.auxHbStatus h ∉ forceRegs := not_mem_forceRegs (by unfold R.auxHbStatus; omega)
theorem auxCount_force (m : Nat) : R.auxCount m ∉ forceRegs := not_mem_forceRegs (by unfold R.auxCount; omega)

theorem auxStatus_ne_auxHbStatus (m h : Nat) : R.auxStatus m ≠ R.auxHbStatus h := by unfold R.auxStatus R.auxHbStatus; omega
theorem auxStatus_ne_auxTEst (m n : Nat) : R.auxStatus m ≠ R.auxTEst n := by unfold R.auxStatus R.auxTEst; omega
theorem auxCfg_ne_auxHbStatus (m h : Nat) : R.auxCfg m ≠ R.auxHbStatus h := by unfold R.auxCfg R.auxHbStatus; omega
theorem auxCfg_ne_auxStatus (m n : Nat) : R.auxCfg m ≠ R.auxStatus n := by unfold R.auxCfg R.auxStatus; omega
theorem auxCfg_ne_auxCount (m n : Nat) : R.auxCfg m ≠ R.auxCount n := by unfold R.auxCfg R.auxCount; omega
theorem pwmSliceCfg_ne_auxHbStatus (i h : Nat) : R.pwmSliceCfg i ≠ R.auxHbStatus h := by unfold R.pwmSliceCfg R.auxHbStatus; omega
theorem pwmCarPeriod_ne_auxHbStatus (c h : Nat) : R.pwmCarPeriod c ≠ R.auxHbStatus h := by unfold R.pwmCarPeriod R.auxHbStatus; omega

theorem fieldOf_lt (w : Word) (hi lo : Nat) : fieldOf w hi lo < 2 ^ (hi + 1 - lo) := Nat.mod_lt _ (Nat.two_pow_pos _)

/-! ### What the level of a comparator leaves (R281)

The level shown by half-bridge `h` is a bit of that half-bridge's own register. -/

section
variable (s : State) (h m : Nat) (level : Bool)

@[simp] theorem State.wrB_auxHbStatus_motState : (s.wrB (R.auxHbStatus h) 0 level).motState m = s.motState m :=
  State.rdF_congr (State.rd_wr_ne _ _ _ _ (auxStatus_ne_auxHbStatus m h)) 3 0

@[simp] theorem State.wrB_auxHbStatus_motSector : (s.wrB (R.auxHbStatus h) 0 level).motSector m = s.motSector m :=
  State.rdF_congr (State.rd_wr_ne _ _ _ _ (auxStatus_ne_auxHbStatus m h)) 6 4

@[simp] theorem State.wrB_auxHbStatus_motLevel (k : Nat) : (s.wrB (R.auxHbStatus h) 0 level).motLevel m k = s.motLevel m k := by
  have hdir : (s.wrB (R.auxHbStatus h) 0 level).motDir m = s.motDir m :=
    State.rdB_congr (State.rd_wr_ne _ _ _ _ (auxCfg_ne_auxHbStatus m h)) 30
  rw [State.motLevel, State.motLevel, hdir]

@[simp] theorem State.wrB_auxHbStatus_motIndex (p : Nat) (l : Bool) : (s.wrB (R.auxHbStatus h) 0 level).motIndex m p l = s.motIndex m p l := by
  simp only [State.motIndex, State.wrB_auxHbStatus_motLevel]

@[simp] theorem State.wrB_auxHbStatus_motPer : (s.wrB (R.auxHbStatus h) 0 level).motPer m = s.motPer m := by
  have hcar : (s.wrB (R.auxHbStatus h) 0 level).motCar m = s.motCar m :=
    State.rdF_congr (State.rd_wr_ne _ _ _ _ (pwmSliceCfg_ne_auxHbStatus _ h)) 27 24
  have hper : (s.wrB (R.auxHbStatus h) 0 level).carP (s.motCar m) = s.carP (s.motCar m) :=
    State.rdF_congr (State.rd_wr_ne _ _ _ _ (pwmCarPeriod_ne_auxHbStatus _ h)) 20 0
  rw [State.motPer, State.motPer, hcar, hper]

end

/-! ### The state of a motor -/

@[simp] theorem mot_setMot (s : State) (m : Nat) (v : AuxSt) : (s.setMot m v).mot m = v := tabGet_set_same ..

section
variable (s : State) (m j : Nat)

@[simp] theorem State.wrB_mot (a i : Nat) (b : Bool) : (s.wrB a i b).mot j = s.mot j := (rfl)
@[simp] theorem State.wrF_mot (a hi lo v : Nat) : (s.wrF a hi lo v).mot j = s.mot j := (rfl)
@[simp] theorem State.post_mot (src code : Nat) : (s.post src code).mot j = s.mot j := by rw [State.post_eq, State.mot, State.mot]
@[simp] theorem State.motPut_mot (p : Nat) (v : SliceSet) : (s.motPut m p v).mot j = s.mot j := (rfl)

@[simp] theorem State.auxFollow_mot (h : Nat) (hi : Bool) : (s.auxFollow h hi).mot j = s.mot j := by
  unfold State.auxFollow
  dsimp only
  split <;> rfl

@[simp] theorem State.auxNoteMotor_mot : (s.auxNoteMotor m).mot j = s.mot j := by simp [State.auxNoteMotor, State.auxNote]

@[simp] theorem State.motCommit_mot : (s.motCommit m).mot j = s.mot j := by simp [State.motCommit, State.each]

/-- A braking gap is all that changes of the motor's state where it opens (R287). -/
theorem State.motGap_mot : ∃ g, (s.motGap m).mot m = { s.mot m with gap := g } := by
  unfold State.motGap
  split
  · exact ⟨_, by rw [State.auxNoteMotor_mot, mot_setMot]⟩
  · exact ⟨_, rfl⟩

@[simp] theorem State.motGap_fails : ((s.motGap m).mot m).fails = (s.mot m).fails := by
  obtain ⟨g, hg⟩ := s.motGap_mot m
  rw [hg]

@[simp] theorem State.motGap_brake : ((s.motGap m).mot m).brake = (s.mot m).brake := by
  obtain ⟨g, hg⟩ := s.motGap_mot m
  rw [hg]

end

/-! ### A change of state (R284-R290) -/

section
variable (s : State) (m st : Nat)

/-- A change of state writes the state and the flags of R289 in the motor's status, and no other register. -/
theorem State.motEnter_rd : ∃ p q : Bool, ∀ a, (s.motEnter m st).rd a =
    ((((s.wrF (R.auxStatus m) 3 0 st).wrB (R.auxStatus m) 18 p).wrB (R.auxStatus m) 17 false).wrB (R.auxStatus m) 19 q).rd a :=
  ⟨(s.wrF (R.auxStatus m) 3 0 st).rdB R.auxBusStatus 3 && decide (st ≠ 0) && decide (st ≠ 6), decide (st = 2) && (s.mot m).brake == 3,
    fun a => by simp only [State.motEnter, State.motGap_rd, State.motCommit_rd, State.setMot_rd]⟩

theorem State.motEnter_motState {st : Nat} (h : st < 16) : (s.motEnter m st).motState m = st := by
  obtain ⟨p, q, hrd⟩ := s.motEnter_rd m st
  rw [State.motState, State.rdF_congr (hrd _), State.rdF_wrB_other _ _ _ _ (by decide) (by decide),
    State.rdF_wrB_other _ _ _ _ (by decide) (by decide), State.rdF_wrB_other _ _ _ _ (by decide) (by decide),
    State.rdF_wrF_same _ _ _ (by decide) (by decide)]
  exact Nat.mod_eq_of_lt h

/-- The latched flags of the motor's status stand (Table 13.8). -/
theorem State.motEnter_flag {j : Nat} (hlo : 3 < j) (hhi : j < 17) : (s.motEnter m st).rdB (R.auxStatus m) j = s.rdB (R.auxStatus m) j := by
  obtain ⟨p, q, hrd⟩ := s.motEnter_rd m st
  rw [State.rdB_congr (hrd _), State.rdB_wrB_other _ _ _ _ (by decide) (by omega), State.rdB_wrB_other _ _ _ _ (by decide) (by omega),
    State.rdB_wrB_other _ _ _ _ (by decide) (by omega), State.rdB_wrF_other _ _ _ _ (by decide) (by decide) (by omega)]

/-- What a change of state keeps of the motor's: the failed starts, and in `BRAKE` what began it. -/
theorem State.motEnter_mot : ((s.motEnter m st).mot m).fails = (s.mot m).fails ∧
    ((s.motEnter m st).mot m).brake = if st = 2 then (s.mot m).brake else 0 := by
  simp only [State.motEnter, State.motGap_fails, State.motGap_brake, State.motCommit_mot, mot_setMot, and_self]

end

section
variable (s : State) (m cause : Nat)

theorem State.motFault_motState : (s.motFault m cause).motState m = 6 := by
  rw [State.motState, State.motFault, State.rdF_congr (State.post_rd ..), State.rdF_wrF_other _ _ _ _ (by decide) (by decide) (by decide)]
  exact s.motEnter_motState m (by decide)

theorem State.motFault_flag {j : Nat} (hlo : 3 < j) (hhi : j < 17) : (s.motFault m cause).rdB (R.auxStatus m) j = s.rdB (R.auxStatus m) j := by
  rw [State.motFault, State.rdB_congr (State.post_rd ..), State.rdB_wrF_other _ _ _ _ (by decide) (by decide) (by omega)]
  exact s.motEnter_flag m 6 hlo hhi

theorem State.motFault_fails : ((s.motFault m cause).mot m).fails = (s.mot m).fails := by
  rw [State.motFault, State.post_mot, State.wrF_mot]
  exact (s.motEnter_mot m 6).1

/-- A motor that has failed with a flag set goes back to `OBSERVE` or to `FAULT`; either leaves the flag and the failed starts. -/
theorem State.observeOrFault_shows (c : Prop) [Decidable c] {j : Nat} (hlo : 3 < j) (hhi : j < 17) :
    let z := if c then s.motEnter m 1 else s.motFault m cause
    z.motState m = (if c then 1 else 6) ∧ z.rdB (R.auxStatus m) j = s.rdB (R.auxStatus m) j ∧ (z.mot m).fails = (s.mot m).fails := by
  split
  · exact ⟨s.motEnter_motState m (by decide), s.motEnter_flag m 1 hlo hhi, (s.motEnter_mot m 1).1⟩
  · exact ⟨s.motFault_motState m cause, s.motFault_flag m cause hlo hhi, s.motFault_fails m cause⟩

end

/-! ### Sectors (R277, R279, R288) -/

section
variable (s : State) (m : Nat)

theorem State.motSector_wrF (sec : Nat) : (s.wrF (R.auxStatus m) 6 4 sec).motSector m = sec % 8 := s.rdF_wrF_same _ _ (by decide) (by decide)

theorem State.motState_wrF_sector (sec : Nat) : (s.wrF (R.auxStatus m) 6 4 sec).motState m = s.motState m :=
  s.rdF_wrF_other _ _ _ (by decide) (by decide) (by decide)

/-- Alignment is a state and a sector (R288). -/
theorem State.motAlign_shows : (s.motAlign m).motState m = 3 ∧ (s.motAlign m).motSector m = s.rdF (R.auxCfg m) 18 16 := by
  let x := s.setMot m { s.mot m with d := 0 }
  have hrd : (s.motAlign m).rd (R.auxStatus m) =
      ((x.motEnter m 3).wrF (R.auxStatus m) 6 4 (s.rdF (R.auxCfg m) 18 16)).rd (R.auxStatus m) := State.motCommit_rd ..
  constructor
  · exact (State.rdF_congr hrd 3 0).trans ((State.motState_wrF_sector ..).trans (x.motEnter_motState m (by decide)))
  · exact (State.rdF_congr hrd 6 4).trans ((State.motSector_wrF ..).trans (Nat.mod_eq_of_lt (fieldOf_lt _ 18 16)))

theorem State.motBrake_shows (why : Nat) : (s.motBrake m why).motState m = 2 ∧ ((s.motBrake m why).mot m).brake = why ∧
    ∀ j, 3 < j → j < 17 → (s.motBrake m why).rdB (R.auxStatus m) j = s.rdB (R.auxStatus m) j := by
  unfold State.motBrake
  refine ⟨State.motEnter_motState _ m (by decide), ?_, fun j hlo hhi => ?_⟩
  · rw [(State.motEnter_mot _ m 2).2, if_pos rfl, mot_setMot]
  · rw [State.motEnter_flag _ m 2 hlo hhi]
    exact State.rdB_congr (State.setMot_rd ..) j

/-- A ramp sector has its number and its frequency; the state stands (R288). -/
theorem State.motRampSector_shows (f sec count from_ : Nat) (hold : Option (Nat × Nat × Nat)) :
    let z := s.motRampSector m f sec count from_ hold
    z.motState m = s.motState m ∧ z.motSector m = sec % 8 ∧ (z.mot m).freq = f := by
  have hrd : (s.motRampSector m f sec count from_ hold).rd (R.auxStatus m) = (s.wrF (R.auxStatus m) 6 4 sec).rd (R.auxStatus m) := by
    simp only [State.motRampSector, State.motTest, State.motCommit_rd, State.setMot_rd, State.rd_wr_ne _ _ _ _ (auxStatus_ne_auxTEst m m)]
  refine ⟨(State.rdF_congr hrd 3 0).trans (s.motState_wrF_sector m sec), (State.rdF_congr hrd 6 4).trans (s.motSector_wrF m sec), ?_⟩
  simp only [State.motRampSector, State.motCommit_mot, mot_setMot]

theorem State.motRamp_shows : (s.motRamp m).motState m = 4 ∧ (s.motRamp m).motSector m = s.motFwd m (s.rdF (R.auxCfg m) 18 16) 2 % 8 ∧
    ((s.motRamp m).mot m).freq = hz100 (s.rdF (R.auxRampF m) 31 16) := by
  obtain ⟨hstate, hsector, hfreq⟩ := (s.motEnter m 4).motRampSector_shows m (hz100 (s.rdF (R.auxRampF m) 31 16))
    (s.motFwd m (s.rdF (R.auxCfg m) 18 16) 2) 0 s.clk.now none
  exact ⟨hstate.trans (s.motEnter_motState m (by decide)), hsector, hfreq⟩

/-- A commutation is a sector, the instants of its own, and no crossing or instant of the next one (R279). -/
theorem State.motCommutate_shows (d : Int) : let z := s.motCommutate m d
    z.motSector m = s.motFwd m (s.motSector m) 1 % 8 ∧ (z.mot m).commAt = s.clk.now ∧ (z.mot m).commDue = d ∧ (z.mot m).due = none ∧
      (z.mot m).seen = false := by
  have hrd : (s.motCommutate m d).rd (R.auxStatus m) = (s.wrF (R.auxStatus m) 6 4 (s.motFwd m (s.motSector m) 1)).rd (R.auxStatus m) := by
    simp only [State.motCommutate, State.motCommit_rd, State.setMot_rd]
  refine ⟨(State.rdF_congr hrd 6 4).trans (s.motSector_wrF m _), ?_⟩
  simp only [State.motCommutate, State.motCommit_mot, mot_setMot, State.wrF_clk, and_self]

/-- A crossing in `RUN` is its instant, and that the sector's has been seen; the estimate of the interval is set with it (R282, R283). -/
theorem State.motCross_run (z : Int) (h : s.motState m = 5) : ∃ (t : Nat) (v : AuxSt), s.motCross m z = (s.motTest m t).setMot m v ∧
    v.seen = true ∧ v.forced = 0 ∧ v.lastZc = some z := by
  unfold State.motCross
  simp only [h]
  exact ⟨_, _, rfl, rfl, rfl, rfl⟩

end

end Sys2Proof.Machine
end

section
/-! The commands by which the auxiliary motors commutate and start (R279-R288): what each operation of a motor does in each of its cases, and from
this the next state of each command. -/

namespace Sys2Proof.Machine

/-! ### What stays within the auxiliary drives -/

/-- Between `x` and `z` the auxiliary drives alone change, and registers of `as`. -/
structure OnlyAux (as : List Nat) (x z : State) : Prop where
  state : z = { x with aux := z.aux, regs := z.regs, raised := z.raised }
  regs : ∀ a, a ∉ as → z.rd a = x.rd a

theorem OnlyAux.trans {as : List Nat} {x y z : State} (h : OnlyAux as x y) (k : OnlyAux as y z) : OnlyAux as x z := by
  refine ⟨?_, fun a ha => (k.regs a ha).trans (h.regs a ha)⟩
  rw [k.state, h.state]

theorem OnlyAux.mono {as bs : List Nat} {x z : State} (h : OnlyAux as x z) (hs : as ⊆ bs) : OnlyAux bs x z :=
  ⟨h.state, fun a ha => h.regs a (fun hm => ha (hs hm))⟩

theorem OnlyRegs.onlyAux {as : List Nat} {x z : State} (h : OnlyRegs x z as) : OnlyAux as x z := by
  have haux : z.aux = x.aux := by rw [h.state]
  refine ⟨?_, h.regs⟩
  rw [haux]
  exact h.state

theorem State.setMot_onlyAux (s : State) (m : Nat) (v : AuxSt) (as : List Nat) : OnlyAux as s (s.setMot m v) :=
  ⟨rfl, fun _ _ => State.setMot_rd ..⟩

theorem OnlyRegs.setMot {as : List Nat} {x z : State} (h : OnlyRegs x z as) (m : Nat) (v : AuxSt) :
    OnlyRegs (x.setMot m v) (z.setMot m v) as := by
  refine ⟨congrArg (fun w : State => w.setMot m v) h.state, fun a ha => ?_⟩
  rw [State.setMot_rd, State.setMot_rd, h.regs a ha]

theorem State.motTest_onlyAux (s : State) (m t : Nat) : OnlyAux [R.auxTEst m] s (s.motTest m t) :=
  (s.setMot_onlyAux m _ _).trans (State.wr_only ..).onlyAux

/-! ### Crossings (R280-R283, R285) -/

section
variable {s : State} {h m first : Nat} {level : Bool}

/-- The events of a reload do nothing off a reload, and nothing in the states that they do not concern. -/
theorem State.motEvent_idle {sts : List Nat} (hidle : s.motAtReload m = false ∨ sts.contains (s.motState m) = false) : s.motEvent m sts = s := by
  refine if_neg ?_
  rcases hidle with h | h
  · rw [h, Bool.false_and]
    exact Bool.false_ne_true
  · rw [h, Bool.and_false]
    exact Bool.false_ne_true

theorem State.motEvent_due {sts : List Nat} (hat : s.motAtReload m = true) (hst : sts.contains (s.motState m) = true) :
    s.motEvent m sts = s.motTimed m := if_pos (by rw [hat, hst]; rfl)

theorem State.bemfCrossing_invalid (hv : s.bemfValid h first = false) : s.bemfCrossing h level first = s := by
  unfold State.bemfCrossing
  rw [hv]
  rfl

/-- Outside `RAMP` no sector ends before the crossing is judged (R290). -/
theorem State.wrB_auxHbStatus_rampSectorEnd (hst : s.motState m ≠ 4) :
    (s.wrB (R.auxHbStatus h) 0 level).rampSectorEnd m = s.wrB (R.auxHbStatus h) 0 level :=
  State.motEvent_idle (.inr (by rw [State.wrB_auxHbStatus_motState]; simpa using hst))

theorem State.bemfCrossing_observe (hv : s.bemfValid h first = true) (hst : s.motState (h / 3) = 1) :
    s.bemfCrossing h level first = (s.wrB (R.auxHbStatus h) 0 level).setMot (h / 3) { s.mot (h / 3) with
      zcs := ((s.motIndex (h / 3) (h % 3) level, s.tbOf first - s.motPer (h / 3) / 2) :: (s.mot (h / 3)).zcs).take 7 } := by
  have hramp := State.wrB_auxHbStatus_rampSectorEnd (s := s) (h := h) (m := h / 3) (level := level) (by omega)
  simp [State.bemfCrossing, hv, hramp, hst, State.tbOf]

theorem State.bemfCrossing_run (hv : s.bemfValid h first = true) (hst : s.motState (h / 3) = 5)
    (hfloat : h % 3 = secFloat (s.motSector (h / 3))) (hlevel : level = s.motLevel (h / 3) (s.motSector (h / 3)))
    (hseen : (s.mot (h / 3)).seen = false) (hwait : (s.mot (h / 3)).wait = false) (hblank : (s.mot (h / 3)).blank ≤ first) :
    s.bemfCrossing h level first = (s.wrB (R.auxHbStatus h) 0 level).motCross (h / 3) (s.tbOf first - s.motPer (h / 3) / 2) := by
  have hramp := State.wrB_auxHbStatus_rampSectorEnd (s := s) (h := h) (m := h / 3) (level := level) (by omega)
  simp [State.bemfCrossing, hv, hramp, hst, ← hfloat, ← hlevel, hseen, hwait, hblank, State.tbOf]

theorem State.demagEnd_shown (h4 : s.motState m ≠ 4) (h5 : s.motState m ≠ 5) :
    s.demagEnd m level = s.wrB (R.auxHbStatus (3 * m + secFloat (s.motSector m))) 0 level := by
  simp [State.demagEnd, h4, h5]

theorem State.demagEnd_run (h5 : s.motState m = 5) (hwait : (s.mot m).wait = false) (hseen : (s.mot m).seen = false)
    (hblank : (s.mot m).blank ≤ s.clk.now) (hlevel : level = s.motLevel m (s.motSector m)) :
    s.demagEnd m level = ((s.wrB (R.auxHbStatus (3 * m + secFloat (s.motSector m))) 0 level).raise (R.auxStatus m) 16).motCross m
      (s.tbOf (s.mot m).blank) := by
  simp [State.demagEnd, h5, hwait, hseen, hblank, ← hlevel, State.tbOf]

/-! ### Commutations (R279, R282, R283) -/

section
variable {d : Int}

theorem State.commutation_due (h5 : s.motState m = 5) (hdue : (s.mot m).due = some d) (hat : s.motAtReload m = true)
    (hnear : d ≤ s.tb + s.motLen m / 2) (hknown : (s.mot m).known + 128 ≤ s.clk.now) : s.commutation m = s.motCommutate m d := by
  rw [State.commutation, State.motEvent_due hat (by rw [h5]; rfl), State.motTimed]
  simp only [h5, hdue]
  exact if_pos ⟨hnear, hknown⟩

theorem State.commutation_idle (h5 : s.motState m = 5) (hdue : (s.mot m).due = some d)
    (hno : s.motAtReload m = false ∨ s.tb + s.motLen m / 2 < d ∨ s.clk.now < (s.mot m).known + 128) : s.commutation m = s := by
  cases hat : s.motAtReload m with
  | false => exact State.motEvent_idle (.inl hat)
  | true =>
    rw [State.commutation, State.motEvent_due hat (by rw [h5]; rfl), State.motTimed]
    simp only [h5, hdue]
    refine if_neg fun ⟨hnear, hknown⟩ => ?_
    rcases hno with hno | hno | hno
    · exact Bool.noConfusion (hat.symm.trans hno)
    · omega
    · exact Nat.not_le.mpr hno hknown

end

theorem State.forcedCommutation_idle (hno : (s.mot m).due.isSome = true ∨ (s.mot m).seen = true ∨ (s.mot m).wait = true) :
    s.forcedCommutation m = s := by
  refine if_neg ?_
  rcases hno with h | h | h
  · have hsome : (s.mot m).due.isNone = false := by rw [Option.isNone_eq_false_iff]; exact h
    simp [hsome]
  · simp [h]
  · simp [h]

/-- No crossing is on its way, and the lost window is over (R283). -/
structure State.Unseen (s : State) (m : Nat) : Prop where
  run : s.motState m = 5
  wait : (s.mot m).wait = false
  seen : (s.mot m).seen = false
  due : (s.mot m).due = none
  past : (s.mot m).commDue + ((s.rdF (R.auxBemf m) 23 16 * (s.mot m).tEst / 64 : Nat) : Int) ≤ s.tb

theorem State.countUp_auxCount_cfg (s : State) (m hi lo : Nat) : (s.countUp (R.auxCount m) hi lo 1).rd (R.auxCfg m) = s.rd (R.auxCfg m) :=
  (State.countUp_only ..).regs _ (by simpa using auxCfg_ne_auxCount m m)

theorem State.forcedCommutation_forced (hu : s.Unseen m) (hn : (s.mot m).forced + 1 < s.rdF (R.auxCfg m) 7 4) :
    s.forcedCommutation m = (s.countUp (R.auxCount m) 15 0 1).setMot m { s.mot m with
      forced := (s.mot m).forced + 1, due := some (s.tbOf (s.mot m).commAt + (s.mot m).tEst), known := s.clk.now } := by
  have hlimit : ¬s.rdF (R.auxCfg m) 7 4 ≤ (s.mot m).forced + 1 := Nat.not_le.mpr hn
  simp only [State.forcedCommutation, hu.run, hu.wait, hu.seen, hu.due, hu.past, State.rdF_congr (s.countUp_auxCount_cfg m 15 0), if_neg hlimit]
  rfl

/-- The motor that has lost its position, with the flag set and the event posted (R283). -/
def State.motLost (s : State) (m : Nat) : State := ((s.countUp (R.auxCount m) 15 0 1).raise (R.auxStatus m) 11).post (80 + m) 11

theorem State.motLost_flag (s : State) (m : Nat) : (s.motLost m).rdB (R.auxStatus m) 11 = true :=
  (State.rdB_congr (State.post_rd ..) 11).trans (State.rdB_raise _ _ 11 (by decide))

theorem State.forcedCommutation_lost (hu : s.Unseen m) (hn : s.rdF (R.auxCfg m) 7 4 ≤ (s.mot m).forced + 1) :
    s.forcedCommutation m = if s.rdB (R.auxCfg m) 26 then (s.motLost m).motEnter m 1 else (s.motLost m).motFault m 5 := by
  have hcfg : (s.motLost m).rd (R.auxCfg m) = s.rd (R.auxCfg m) := by
    rw [State.motLost, State.post_rd, State.rd_raise, if_neg (auxCfg_ne_auxStatus m m), State.countUp_auxCount_cfg]
  simp only [State.forcedCommutation, hu.run, hu.wait, hu.seen, hu.due, hu.past, State.rdF_congr (s.countUp_auxCount_cfg m 15 0), if_pos hn]
  rw [← State.rdB_congr hcfg]
  rfl

/-! ### Starts (R285, R286, R288) -/

section
variable (hat : s.motAtReload m = true)
include hat

section
variable (h1 : s.motState m = 1) (hripe : (s.mot m).entered + s.rdF (R.auxStartT m) 31 16 * msec ≤ s.clk.now)
include h1 hripe

theorem State.obsTime_rest (hrest : s.motMotion m = .rest) : s.obsTime m = s.motAlign m := by
  rw [State.obsTime, State.motEvent_due hat (by rw [h1]; rfl), State.motTimed]
  simp only [h1, State.motObserved, hripe, hrest]
  rfl

theorem State.obsTime_backward {k : Nat} (hback : s.motMotion m = .backward k) : s.obsTime m = (s.raise (R.auxStatus m) 8).motBrake m 1 := by
  rw [State.obsTime, State.motEvent_due hat (by rw [h1]; rfl), State.motTimed]
  simp only [h1, State.motObserved, hripe, hback]
  rfl

end

section
variable (h2 : s.motState m = 2) (hstill : max (s.mot m).entered (s.mot m).iAt + s.rdF (R.auxStartT m) 15 0 * msec ≤ s.clk.now)
include h2 hstill

theorem State.stopConfirm_start (hb : (s.mot m).brake = 1) : s.stopConfirm m = s.motAlign m := by
  rw [State.stopConfirm, State.motEvent_due hat (by rw [h2]; rfl), State.motTimed]
  simp only [h2, State.motConfirm, if_pos hstill, hb]

theorem State.stopConfirm_stop (hb : (s.mot m).brake = 2) : s.stopConfirm m = s.motEnter m 0 := by
  rw [State.stopConfirm, State.motEvent_due hat (by rw [h2]; rfl), State.motTimed]
  simp only [h2, State.motConfirm, if_pos hstill, hb]

end

theorem State.alignEnd_due (h3 : s.motState m = 3) (hend : (s.mot m).entered + s.rdF (R.auxAlign m) 31 16 * msec ≤ s.clk.now) :
    s.alignEnd m = s.motRamp m := by
  rw [State.alignEnd, State.motEvent_due hat (by rw [h3]; rfl), State.motTimed]
  simp only [h3]
  exact if_pos hend

/-- The frequency of the next ramp sector (R288). -/
def State.rampNextFreq (s : State) (m : Nat) : Nat :=
  (s.mot m).freq + (divRound ((s.rdF (R.auxRampA m) 31 16 * 2 ^ 32 * rampLen (s.mot m).freq : Nat) : Int) second).toNat

theorem State.rampSectorEnd_due (h4 : s.motState m = 4) (hend : (s.mot m).secEnd ≤ s.clk.now + s.motLen m / 2) :
    s.rampSectorEnd m = s.motRampNext m := by
  rw [State.rampSectorEnd, State.motEvent_due hat (by rw [h4]; rfl), State.motTimed]
  simp only [h4]
  exact if_pos hend

end

theorem State.motRampNext_sector (hf : s.rampNextFreq m < hz100 (s.rdF (R.auxRampF m) 15 0)) :
    s.motRampNext m = s.motRampSector m (s.rampNextFreq m) (s.motFwd m (s.motSector m) 1) (if (s.mot m).seen then (s.mot m).count else 0)
      (s.mot m).secEnd (s.motHolds m (s.motFwd m (s.motSector m) 1)) := by
  unfold State.motRampNext
  exact if_neg (Nat.not_le.mpr hf)

/-- The start that has failed, counted, with the flag set and the event posted (R288). -/
def State.rampFailed (s : State) (m : Nat) : State :=
  (((s.countUp (R.auxCount m) 31 16 1).raise (R.auxStatus m) 12).setMot m { s.mot m with fails := (s.mot m).fails + 1 }).post (80 + m) 12

theorem State.rampFailed_flag (s : State) (m : Nat) : (s.rampFailed m).rdB (R.auxStatus m) 12 = true :=
  (State.rdB_congr ((State.post_rd ..).trans (State.setMot_rd ..)) 12).trans (State.rdB_raise _ _ 12 (by decide))

theorem State.rampFailed_fails (s : State) (m : Nat) : ((s.rampFailed m).mot m).fails = (s.mot m).fails + 1 := by
  rw [State.rampFailed, State.post_mot, mot_setMot]

theorem State.motRampNext_failed (hf : hz100 (s.rdF (R.auxRampF m) 15 0) ≤ s.rampNextFreq m) :
    s.motRampNext m = if (s.mot m).fails + 1 ≤ s.rdF (R.auxCfg m) 3 0 then (s.rampFailed m).motEnter m 1 else (s.rampFailed m).motFault m 6 := by
  have hcfg : (s.rampFailed m).rd (R.auxCfg m) = s.rd (R.auxCfg m) := by
    rw [State.rampFailed, State.post_rd, State.setMot_rd, State.rd_raise, if_neg (auxCfg_ne_auxStatus m m), State.countUp_auxCount_cfg]
  rw [← State.rdF_congr hcfg]
  unfold State.motRampNext
  exact if_pos hf

end

/-! ### Runs -/

/-- Motor `m` has in `u` the state and the status register that it has in `z`. -/
structure ShowsAs (m : Nat) (u z : State) : Prop where
  status : u.rd (R.auxStatus m) = z.rd (R.auxStatus m)
  mot : u.mot m = z.mot m

section
variable {m : Nat} {u z : State} (h : ShowsAs m u z)
include h

theorem ShowsAs.motState : u.motState m = z.motState m := State.rdF_congr h.status 3 0
theorem ShowsAs.motSector : u.motSector m = z.motSector m := State.rdF_congr h.status 6 4
theorem ShowsAs.flag (j : Nat) : u.rdB (R.auxStatus m) j = z.rdB (R.auxStatus m) j := State.rdB_congr h.status j

end

theorem State.inDomain_on {x : State} {d : Nat} {f : State → State} (h : x.pdOn d = true) : x.inDomain d f = f x := if_pos h

section
variable {s : State} {t : Nat} {f : State → State}

/-- The run of an operation of the drives that does nothing. -/
theorem State.run_auxIdle (e : f (s.upTo t) = s.upTo t) :
    ∃ u, s.run t (fun x => x.inDomain 15 f) = .next u ∧ (s.upTo t).framed (s.upTo t) u [] :=
  State.run_same (by rw [State.inDomain, e, ite_self]) (s.upTo_pending t) (fun _ => rfl)

section
variable {z : State} (hon : (s.upTo t).pdOn 15 = true) (e : f (s.upTo t) = z)
include hon e

/-- The run of an operation that changes the drives and some registers. -/
theorem State.run_onlyAux {as : List Nat} (h : OnlyAux as (s.upTo t) z) :
    ∃ u, s.run t (fun x => x.inDomain 15 f) = .next u ∧ (s.upTo t).framed { s.upTo t with aux := u.aux } u as ∧ (∀ m, u.mot m = z.mot m) ∧
      ∀ a, a ∉ forceRegs → u.rd a = z.rd a := by
  have honly : OnlyRegs { s.upTo t with aux := z.aux } z as := ⟨h.state, h.regs⟩
  obtain ⟨u, hu, hfr, hrd⟩ := State.run_onlyRegs ((State.inDomain_on hon).trans e) honly (s.upTo_pending t) (fun _ => rfl)
  have haux : u.aux = z.aux := by rw [hfr.1]
  refine ⟨u, hu, ?_, fun m => by rw [State.mot, State.mot, haux], hrd⟩
  rw [haux]
  exact hfr

/-- The run of an operation of a motor: the motor's state and status follow. -/
theorem State.run_shows (m : Nat) : ∃ u, s.run t (fun x => x.inDomain 15 f) = .next u ∧ ShowsAs m u z := by
  obtain ⟨u, hu, hstate, hrd⟩ := State.run_eff ((State.inDomain_on hon).trans e)
  have haux : u.aux = z.aux := by rw [hstate]
  exact ⟨u, hu, hrd _ (auxStatus_force m), by rw [State.mot, State.mot, haux]⟩

/-- As `State.run_shows`, of an operation that leaves the schedule and the frame. -/
theorem State.run_pacedShows (m : Nat) (hs : (f (s.upTo t)).sched = (s.upTo t).sched) (hf : (f (s.upTo t)).frame = (s.upTo t).frame) :
    ∃ u, s.run t (fun x => x.inDomain 15 f) = .next u ∧ (s.upTo t).pacedAs u ∧ ShowsAs m u z := by
  obtain ⟨u, hu, hpaced, hstate, hrd⟩ := State.run_paced ((State.inDomain_on hon).trans e) (e ▸ hs) (e ▸ hf)
  have haux : u.aux = z.aux := by rw [hstate]
  exact ⟨u, hu, hpaced, hrd _ (auxStatus_force m), by rw [State.mot, State.mot, haux]⟩

end
end

/-! ### The commands -/

section
variable {s : State} {t : Nat}

section
variable {h : Fin 18} {first : Nat} {level : Bool}

/-- A crossing in `OBSERVE` is kept (R285). -/
theorem exec_bemfCrossing_observe (hon : (s.upTo t).pdOn 15 = true) (hv : (s.upTo t).bemfValid h first = true)
    (hst : (s.upTo t).motState (h.val / 3) = 1) :
    let x := s.upTo t; let k := h.val / 3
    ∃ u, exec (.bemfCrossing t h level first) s = .next u ∧ x.framed { x with aux := u.aux } u [R.auxHbStatus h] ∧
      u.rdB (R.auxHbStatus h) 0 = level ∧
      u.mot k = { x.mot k with zcs := ((x.motIndex k (h.val % 3) level, x.tbOf first - x.motPer k / 2) :: (x.mot k).zcs).take 7 } := by
  intro x k
  obtain ⟨u, hu, hfr, hmot, hrd⟩ := State.run_onlyAux (f := fun x => x.bemfCrossing h level first) hon (State.bemfCrossing_observe hv hst)
    ((State.wrB_only ..).onlyAux.trans (State.setMot_onlyAux ..))
  refine ⟨u, hu, hfr, ?_, by rw [hmot, mot_setMot]⟩
  rw [State.rdB_congr (hrd _ (auxHbStatus_force h)), State.rdB_congr (State.setMot_rd ..), State.rdB_wrB_same _ _ _ (by decide)]

/-- The crossing of the sector in `RUN` is taken (R280-R282). -/
theorem exec_bemfCrossing_run (hon : (s.upTo t).pdOn 15 = true) (hv : (s.upTo t).bemfValid h first = true)
    (hst : (s.upTo t).motState (h.val / 3) = 5) (hfloat : h.val % 3 = secFloat ((s.upTo t).motSector (h.val / 3)))
    (hlevel : level = (s.upTo t).motLevel (h.val / 3) ((s.upTo t).motSector (h.val / 3))) (hseen : ((s.upTo t).mot (h.val / 3)).seen = false)
    (hwait : ((s.upTo t).mot (h.val / 3)).wait = false) (hblank : ((s.upTo t).mot (h.val / 3)).blank ≤ first) :
    let x := s.upTo t; let k := h.val / 3
    ∃ u, exec (.bemfCrossing t h level first) s = .next u ∧ x.framed { x with aux := u.aux } u [R.auxHbStatus h, R.auxTEst k] ∧
      (u.mot k).seen = true ∧ (u.mot k).forced = 0 ∧ (u.mot k).lastZc = some (x.tbOf first - x.motPer k / 2) := by
  intro x k
  let y := x.wrB (R.auxHbStatus h) 0 level
  obtain ⟨te, v, hcross, hv'⟩ := y.motCross_run k (x.tbOf first - x.motPer k / 2) ((State.wrB_auxHbStatus_motState ..).trans hst)
  have hshown : OnlyAux [R.auxHbStatus h, R.auxTEst k] x y := ((State.wrB_only ..).mono (by simp)).onlyAux
  have htaken : OnlyAux [R.auxHbStatus h, R.auxTEst k] y ((y.motTest k te).setMot k v) :=
    ((y.motTest_onlyAux k te).mono (by simp)).trans (State.setMot_onlyAux ..)
  obtain ⟨u, hu, hfr, hmot, -⟩ := State.run_onlyAux (f := fun x => x.bemfCrossing h level first) hon
    ((State.bemfCrossing_run hv hst hfloat hlevel hseen hwait hblank).trans hcross) (hshown.trans htaken)
  refine ⟨u, hu, hfr, ?_⟩
  rw [hmot, mot_setMot]
  exact hv'

end

variable {m : Fin 6}

/-- The end of the blanking shows the level of the floating phase (R281). -/
theorem exec_demagBlankEnd_shown {level : Bool} (hon : (s.upTo t).pdOn 15 = true) (h4 : (s.upTo t).motState m ≠ 4)
    (h5 : (s.upTo t).motState m ≠ 5) : let x := s.upTo t
    ∃ u, exec (.demagBlankEnd t m level) s = .next u ∧ x.framed x u [R.auxHbStatus (3 * m.val + secFloat (x.motSector m))] ∧
      u.rdB (R.auxHbStatus (3 * m.val + secFloat (x.motSector m))) 0 = level := by
  intro x
  obtain ⟨u, hu, hfr, hrd⟩ := State.run_onlyRegs (f := fun x => x.inDomain 15 (fun x => x.demagEnd m level))
    ((State.inDomain_on hon).trans (State.demagEnd_shown h4 h5)) (State.wrB_only ..) (s.upTo_pending t) (fun _ => rfl)
  exact ⟨u, hu, hfr, (State.rdB_congr (hrd _ (auxHbStatus_force _)) 0).trans (State.rdB_wrB_same _ _ _ (by decide))⟩

/-- A blanking that ends past the crossing takes its own end for it (R281). -/
theorem exec_demagBlankEnd_run {level : Bool} (hon : (s.upTo t).pdOn 15 = true) (h5 : (s.upTo t).motState m = 5)
    (hwait : ((s.upTo t).mot m).wait = false) (hseen : ((s.upTo t).mot m).seen = false) (hblank : ((s.upTo t).mot m).blank ≤ (s.upTo t).clk.now)
    (hlevel : level = (s.upTo t).motLevel m ((s.upTo t).motSector m)) : let x := s.upTo t
    ∃ u, exec (.demagBlankEnd t m level) s = .next u ∧ u.rdB (R.auxStatus m) 16 = true ∧ (u.mot m).seen = true ∧
      (u.mot m).lastZc = some (x.tbOf (x.mot m).blank) := by
  intro x
  let y := (x.wrB (R.auxHbStatus (3 * m + secFloat (x.motSector m))) 0 level).raise (R.auxStatus m) 16
  have hst : y.motState m = 5 := (State.rdF_raise_other _ _ _ (by decide) (by decide)).trans ((State.wrB_auxHbStatus_motState ..).trans h5)
  obtain ⟨te, v, hcross, hvseen, -, hlast⟩ := y.motCross_run m (x.tbOf (x.mot m).blank) hst
  obtain ⟨u, hu, hshows⟩ := State.run_shows (f := fun x => x.demagEnd m level) hon
    ((State.demagEnd_run h5 hwait hseen hblank hlevel).trans hcross) m
  have hstatus : ((y.motTest m te).setMot m v).rd (R.auxStatus m) = y.rd (R.auxStatus m) :=
    (State.setMot_rd ..).trans ((y.motTest_onlyAux m te).regs _ (by simpa using auxStatus_ne_auxTEst m m))
  refine ⟨u, hu, ?_, by rw [hshows.mot, mot_setMot, hvseen], by rw [hshows.mot, mot_setMot, hlast]⟩
  rw [hshows.flag, State.rdB_congr hstatus]
  exact State.rdB_raise _ _ 16 (by decide)

section
variable (hon : (s.upTo t).pdOn 15 = true)
include hon

/-- A commutation at the reload nearest to its instant (R279, R282). -/
theorem exec_commutation_due {d : Int} (h5 : (s.upTo t).motState m = 5) (hdue : ((s.upTo t).mot m).due = some d)
    (hat : (s.upTo t).motAtReload m = true) (hnear : d ≤ (s.upTo t).tb + (s.upTo t).motLen m / 2)
    (hknown : ((s.upTo t).mot m).known + 128 ≤ (s.upTo t).clk.now) : let x := s.upTo t
    ∃ u, exec (.commutation t m) s = .next u ∧ x.pacedAs u ∧ u.motSector m = x.motFwd m (x.motSector m) 1 % 8 ∧
      (u.mot m).commAt = x.clk.now ∧ (u.mot m).commDue = d ∧ (u.mot m).due = none ∧ (u.mot m).seen = false := by
  intro x
  obtain ⟨u, hu, hpaced, hshows⟩ := State.run_pacedShows (f := fun x => x.commutation m) hon (State.commutation_due h5 hdue hat hnear hknown) m
    (State.commutation_sched ..) (State.commutation_frame ..)
  refine ⟨u, hu, hpaced, ?_⟩
  rw [hshows.motSector, hshows.mot]
  exact x.motCommutate_shows m d

section
variable (hunseen : (s.upTo t).Unseen m)
include hunseen

/-- A commutation forced in time (R283). -/
theorem exec_forcedCommutation_forced (hn : ((s.upTo t).mot m).forced + 1 < (s.upTo t).rdF (R.auxCfg m) 7 4) :
    let x := s.upTo t; let v := x.mot m
    ∃ u, exec (.forcedCommutation t m) s = .next u ∧
      x.framed (x.setMot m { v with forced := v.forced + 1, due := some (x.tbOf v.commAt + v.tEst), known := x.clk.now }) u [R.auxCount m] ∧
      u.rdF (R.auxCount m) 15 0 = min 65535 (x.rdF (R.auxCount m) 15 0 + 1) := by
  intro x v
  obtain ⟨u, hu, hfr, hrd⟩ := State.run_onlyRegs (f := fun x => x.inDomain 15 (fun x => x.forcedCommutation m))
    ((State.inDomain_on hon).trans (State.forcedCommutation_forced hunseen hn)) ((State.countUp_only ..).setMot m _) (s.upTo_pending t)
    (fun _ => State.setMot_rd ..)
  refine ⟨u, hu, hfr, ?_⟩
  rw [State.rdF_congr (hrd _ (auxCount_force m)), State.rdF_congr (State.setMot_rd ..)]
  exact State.rdF_countUp _ _ 15 0 1 (by decide) (by decide)

/-- The last commutation that may be forced: the motor has lost its position (R283). -/
theorem exec_forcedCommutation_lost (hn : (s.upTo t).rdF (R.auxCfg m) 7 4 ≤ ((s.upTo t).mot m).forced + 1) : let x := s.upTo t
    ∃ u, exec (.forcedCommutation t m) s = .next u ∧ x.pacedAs u ∧ u.rdB (R.auxStatus m) 11 = true ∧
      u.motState m = if x.rdB (R.auxCfg m) 26 then 1 else 6 := by
  intro x
  obtain ⟨u, hu, hpaced, hshows⟩ := State.run_pacedShows (f := fun x => x.forcedCommutation m) hon (State.forcedCommutation_lost hunseen hn) m
    (State.forcedCommutation_sched ..) (State.forcedCommutation_frame ..)
  obtain ⟨hstate, hflag, -⟩ := (x.motLost m).observeOrFault_shows m 5 (x.rdB (R.auxCfg m) 26 = true) (j := 11) (by decide) (by decide)
  exact ⟨u, hu, hpaced, (hshows.flag 11).trans (hflag.trans (x.motLost_flag m)), hshows.motState.trans hstate⟩

end

section
variable (hat : (s.upTo t).motAtReload m = true)
include hat

section
variable (h1 : (s.upTo t).motState m = 1)
  (hripe : ((s.upTo t).mot m).entered + (s.upTo t).rdF (R.auxStartT m) 31 16 * msec ≤ (s.upTo t).clk.now)
include h1 hripe

/-- A motor at rest aligns (R285). -/
theorem exec_obsTime_rest (hrest : (s.upTo t).motMotion m = .rest) : let x := s.upTo t
    ∃ u, exec (.obsTime t m) s = .next u ∧ x.pacedAs u ∧ u.motState m = 3 ∧ u.motSector m = x.rdF (R.auxCfg m) 18 16 := by
  intro x
  obtain ⟨u, hu, hpaced, hshows⟩ := State.run_pacedShows (f := fun x => x.obsTime m) hon (State.obsTime_rest hat h1 hripe hrest) m
    (State.obsTime_sched ..) (State.obsTime_frame ..)
  refine ⟨u, hu, hpaced, ?_⟩
  rw [hshows.motState, hshows.motSector]
  exact x.motAlign_shows m

/-- A motor that runs backwards brakes (R285). -/
theorem exec_obsTime_backward {k : Nat} (hback : (s.upTo t).motMotion m = .backward k) :
    ∃ u, exec (.obsTime t m) s = .next u ∧ (s.upTo t).pacedAs u ∧ u.motState m = 2 ∧ u.rdB (R.auxStatus m) 8 = true ∧
      (u.mot m).brake = 1 := by
  obtain ⟨u, hu, hpaced, hshows⟩ := State.run_pacedShows (f := fun x => x.obsTime m) hon (State.obsTime_backward hat h1 hripe hback) m
    (State.obsTime_sched ..) (State.obsTime_frame ..)
  obtain ⟨hstate, hbrake, hflag⟩ := ((s.upTo t).raise (R.auxStatus m) 8).motBrake_shows m 1
  refine ⟨u, hu, hpaced, hshows.motState.trans hstate, ?_, by rw [hshows.mot, hbrake]⟩
  rw [hshows.flag, hflag 8 (by decide) (by decide)]
  exact State.rdB_raise _ _ 8 (by decide)

end

section
variable (h2 : (s.upTo t).motState m = 2)
  (hstill : max ((s.upTo t).mot m).entered ((s.upTo t).mot m).iAt + (s.upTo t).rdF (R.auxStartT m) 15 0 * msec ≤ (s.upTo t).clk.now)
include h2 hstill

/-- A standstill in the braking of a start: the motor aligns (R286). -/
theorem exec_stopConfirm_start (hb : ((s.upTo t).mot m).brake = 1) :
    ∃ u, exec (.stopConfirm t m) s = .next u ∧ (s.upTo t).pacedAs u ∧ u.motState m = 3 := by
  obtain ⟨u, hu, hpaced, hshows⟩ := State.run_pacedShows (f := fun x => x.stopConfirm m) hon (State.stopConfirm_start hat h2 hstill hb) m
    (State.stopConfirm_sched ..) (State.stopConfirm_frame ..)
  exact ⟨u, hu, hpaced, hshows.motState.trans (State.motAlign_shows _ m).1⟩

/-- A standstill in the braking of a stop: the motor is off (R286). -/
theorem exec_stopConfirm_stop (hb : ((s.upTo t).mot m).brake = 2) :
    ∃ u, exec (.stopConfirm t m) s = .next u ∧ (s.upTo t).pacedAs u ∧ u.motState m = 0 := by
  obtain ⟨u, hu, hpaced, hshows⟩ := State.run_pacedShows (f := fun x => x.stopConfirm m) hon (State.stopConfirm_stop hat h2 hstill hb) m
    (State.stopConfirm_sched ..) (State.stopConfirm_frame ..)
  exact ⟨u, hu, hpaced, hshows.motState.trans (State.motEnter_motState _ m (by decide))⟩

end

/-- Alignment ends in the ramp (R288). -/
theorem exec_alignEnd_due (h3 : (s.upTo t).motState m = 3)
    (hend : ((s.upTo t).mot m).entered + (s.upTo t).rdF (R.auxAlign m) 31 16 * msec ≤ (s.upTo t).clk.now) : let x := s.upTo t
    ∃ u, exec (.alignEnd t m) s = .next u ∧ x.pacedAs u ∧ u.motState m = 4 ∧ u.motSector m = x.motFwd m (x.rdF (R.auxCfg m) 18 16) 2 % 8 ∧
      (u.mot m).freq = hz100 (x.rdF (R.auxRampF m) 31 16) := by
  intro x
  obtain ⟨u, hu, hpaced, hshows⟩ := State.run_pacedShows (f := fun x => x.alignEnd m) hon (State.alignEnd_due hat h3 hend) m
    (State.alignEnd_sched ..) (State.alignEnd_frame ..)
  refine ⟨u, hu, hpaced, ?_⟩
  rw [hshows.motState, hshows.motSector, hshows.mot]
  exact x.motRamp_shows m

section
variable (h4 : (s.upTo t).motState m = 4) (hend : ((s.upTo t).mot m).secEnd ≤ (s.upTo t).clk.now + (s.upTo t).motLen m / 2)
include h4 hend

/-- The next sector of the ramp (R288). -/
theorem exec_rampSectorEnd_next (hlow : (s.upTo t).rampNextFreq m < hz100 ((s.upTo t).rdF (R.auxRampF m) 15 0)) : let x := s.upTo t
    ∃ u, exec (.rampSectorEnd t m) s = .next u ∧ x.pacedAs u ∧ u.motState m = 4 ∧ u.motSector m = x.motFwd m (x.motSector m) 1 % 8 ∧
      (u.mot m).freq = x.rampNextFreq m := by
  intro x
  have hnext := (State.rampSectorEnd_due hat h4 hend).trans (State.motRampNext_sector hlow)
  obtain ⟨u, hu, hpaced, hshows⟩ := State.run_pacedShows (f := fun x => x.rampSectorEnd m) hon hnext m (State.rampSectorEnd_sched ..)
    (State.rampSectorEnd_frame ..)
  refine ⟨u, hu, hpaced, ?_⟩
  rw [hshows.motState, hshows.motSector, hshows.mot, ← h4]
  exact State.motRampSector_shows ..

/-- A ramp that reaches its last frequency has failed (R288). -/
theorem exec_rampSectorEnd_failed (hhigh : hz100 ((s.upTo t).rdF (R.auxRampF m) 15 0) ≤ (s.upTo t).rampNextFreq m) :
    let x := s.upTo t; let v := x.mot m
    ∃ u, exec (.rampSectorEnd t m) s = .next u ∧ x.pacedAs u ∧ u.rdB (R.auxStatus m) 12 = true ∧ (u.mot m).fails = v.fails + 1 ∧
      u.motState m = if v.fails + 1 ≤ x.rdF (R.auxCfg m) 3 0 then 1 else 6 := by
  intro x v
  have hfailed := (State.rampSectorEnd_due hat h4 hend).trans (State.motRampNext_failed hhigh)
  obtain ⟨u, hu, hpaced, hshows⟩ := State.run_pacedShows (f := fun x => x.rampSectorEnd m) hon hfailed m (State.rampSectorEnd_sched ..)
    (State.rampSectorEnd_frame ..)
  obtain ⟨hstate, hflag, hfails⟩ := (x.rampFailed m).observeOrFault_shows m 6 (v.fails + 1 ≤ x.rdF (R.auxCfg m) 3 0) (j := 12) (by decide)
    (by decide)
  refine ⟨u, hu, hpaced, (hshows.flag 12).trans (hflag.trans (x.rampFailed_flag m)), ?_, hshows.motState.trans hstate⟩
  rw [hshows.mot]
  exact hfails.trans (x.rampFailed_fails m)

end
end
end
end

/-- Settles O27: each command is its operation run at its instant, in the case that the premises name. -/
theorem motorsCommutate : Obligations.MotorsCommutate := by
  refine ⟨fun t first h m level s => ?_, fun t m s => ?_, fun t m s => ?_⟩
  · intro x k v hon
    exact ⟨fun hv => State.run_auxIdle (f := fun x => x.bemfCrossing h level first) (State.bemfCrossing_invalid hv), exec_bemfCrossing_observe hon,
      exec_bemfCrossing_run hon, exec_demagBlankEnd_shown hon, exec_demagBlankEnd_run hon⟩
  · intro x v hon h5
    refine ⟨fun d hdue => ⟨exec_commutation_due hon h5 hdue, fun hno => ?_⟩, fun hno => ?_, fun hwait hseen hdue hpast => ?_⟩
    · exact State.run_auxIdle (f := fun x => x.commutation m) (State.commutation_idle h5 hdue hno)
    · exact State.run_auxIdle (f := fun x => x.forcedCommutation m) (State.forcedCommutation_idle hno)
    · have hunseen : x.Unseen m := ⟨h5, hwait, hseen, hdue, hpast⟩
      exact ⟨exec_forcedCommutation_forced hon hunseen, exec_forcedCommutation_lost hon hunseen⟩
  · intro x v ripe still idle
    refine ⟨fun hno => ⟨?_, ?_, ?_, ?_⟩, fun hon hat => ⟨exec_obsTime_rest hon hat,
      fun k h1 hripe => exec_obsTime_backward hon hat h1 hripe, exec_stopConfirm_start hon hat, exec_stopConfirm_stop hon hat,
      exec_alignEnd_due hon hat, fun f h4 hend hf => ?_⟩⟩
    · exact State.run_auxIdle (f := fun x => x.obsTime m) (State.motEvent_idle (.inl hno))
    · exact State.run_auxIdle (f := fun x => x.stopConfirm m) (State.motEvent_idle (.inl hno))
    · exact State.run_auxIdle (f := fun x => x.alignEnd m) (State.motEvent_idle (.inl hno))
    · exact State.run_auxIdle (f := fun x => x.rampSectorEnd m) (State.motEvent_idle (.inl hno))
    · subst hf
      exact ⟨exec_rampSectorEnd_next hon hat h4 hend, exec_rampSectorEnd_failed hon hat h4 hend⟩

end Sys2Proof.Machine
end

section
/-! The bit that brings a DC-link crossing (R297) against a word for its chain's capture delay that arrives before it. -/

namespace Sys2Proof.Machine

/-- The effects on their way after the delivery of bits that cross a DC-link threshold are those that the captures leave. -/
theorem prot_of_dcThresholdCrossing {s u : State} {t : Nat} {n : Fin 4} {i : Fin 112} {bits : List Bool}
    (h : exec (.dcThresholdCrossing t n i bits) s = .next u) : u.prot = ((s.captureTo i t bits).upTo t).prot := by
  have hrun : exec (.dcThresholdCrossing t n i bits) s = .next { ((s.captureTo i t bits).upTo t).settle with pending := s.pending } := rfl
  have hu : u = { ((s.captureTo i t bits).upTo t).settle with pending := s.pending } := Host.Outcome.next.inj (h.symm.trans hrun)
  rw [hu]
  exact (congrArg State.prot ((s.captureTo i t bits).upTo t).settle_only.state :)

/-- A state in which chain 5 measures the link of thread 0, whose `OV_2` lies below every value and trips after one bit, while a word for the chain's
`SDF_CH_5_CAP` is on its way that makes `SAMPLE_DLY` 5 where it is 4. -/
def crossingBehindCapDelay : State :=
  { State.reset with
    regs := [(R.sdfChIn 5, 0x80000000#32), (R.sdfChStatus 5, 1#32), (R.sdfChPf 5, 0x100#32), (R.sdfChMon 5, 0x20000#32), (R.sdfChCap 5, 0x40000#32),
      (R.protThrDcCh 0, 0x807F0500#32), (R.protThrOva 0, 0x80000000#32)]
    prot := { State.reset.prot with inb := [(16, .reg (R.sdfChCap 5) 0x50000#32)] } }

/-- The chain's first bit is to be captured at 32; by then the word has arrived, and nothing is on its way. -/
theorem crossingBehindCapDelay_upTo :
    crossingBehindCapDelay.capAt 5 (crossingBehindCapDelay.chain 5).n = 32 ∧ crossingBehindCapDelay.capturing 5 = true ∧
      (crossingBehindCapDelay.upTo 32).prot.inb = [] := by
  decide +kernel

/-- The state at 32 after the judgements of a first bit 1 that the statement names. -/
def crossingBehindCapDelayFed : State :=
  ((((crossingBehindCapDelay.upTo 32).feedBit 5 true).stuckJudge 5 32).pfJudge 5 32 true).pfJudge 5 32 false

/-- The bit crosses `OV_2` of thread 0. -/
theorem crossingBehindCapDelayFed_crosses :
    crossingBehindCapDelayFed.dcEn 0 = true ∧ crossingBehindCapDelayFed.dcChA 0 = 5 ∧ crossingBehindCapDelayFed.dcMask 0 ≠ 0 := by
  decide +kernel

/-- The bit enters at 40, by the delay that has arrived: the crossing is on its way for 40 + 640. -/
theorem crossingBehindCapDelay_captured :
    ((crossingBehindCapDelay.captureTo 5 32 [true]).upTo 32).prot.inb = [(680, .dc 0 2)] := by
  decide +kernel

/-- Refutes O28: its part on the thresholds takes the instant of the capture from the state before the command, also where a word that is on its way
changes the chain's capture delay before that instant. The crossing then reaches the protection block 20 ns after the capture by the new delay, at
680, and not at the 672 that the statement names. (The commands send only the results of the SAR converters on such a way; the statement speaks of
every state, and none of its premises keeps the instant of the capture.) -/
theorem not_dcLinkIsProtected : ¬ Obligations.DcLinkIsProtected := by
  intro h
  obtain ⟨-, hthresholds, -⟩ := h
  obtain ⟨hcap, hcapturing, hinb⟩ := crossingBehindCapDelay_upTo
  obtain ⟨hen, hchain, hmask⟩ := crossingBehindCapDelayFed_crosses
  have hfive : ((5 : Fin 112) : Nat) = 5 := rfl
  have hzero : ((0 : Fin 4) : Nat) = 0 := rfl
  have hnamed := (hthresholds 0 5 true 0 0 [] crossingBehindCapDelay).1
  simp only [hfive, hzero, hcap, hinb] at hnamed
  obtain ⟨u, hu, -, hsoon⟩ := hnamed hcapturing (List.forall_mem_nil _) hen (.inl hchain) hmask
  rw [prot_of_dcThresholdCrossing hu, hfive, crossingBehindCapDelay_captured] at hsoon
  simp at hsoon

end Sys2Proof.Machine
end

section
/-! What the gates, the records and the owners of the bridges leave of the safety functions: a register of those functions, the watchdogs, how
long the STO inputs have differed, the hold-off causes and the discharges. -/

namespace Sys2Proof.Machine

/-! ### The part of a state that the safety functions show -/

/-- The registers outside the PWM, its links and the auxiliary drives, as far as a reaction may read them back: those of the units and engines below the
PWM, `PROT_STATUS`, those of the threads in the protection block, and those of the safety monitor. -/
def offGates (a : Nat) : Prop := a < 0x43000000 ∨ a = 0x44000000 ∨ (0x44004000 ≤ a ∧ a < 0x44004400) ∨ (0x44400000 ≤ a ∧ a < 0x44500000)

/-- What of a thread's DC-link record belongs to its discharge: who began it, and the voltage at the begin of its step. -/
def DcSt.discharge (d : DcSt) : Option DischBy × Int := (d.disch, d.vStart)

/-- What the reactions leave, with the word of one register. -/
structure SafetyView where
  reg : Word
  wds : Tab WdSt
  diffAt : Option Nat
  holds : Tab Bool
  discharge : Nat → Option DischBy × Int

def State.safetyView (a : Nat) (s : State) : SafetyView := ⟨s.rd a, s.prot.wds, s.prot.diffAt, s.holds, fun n => (s.dc n).discharge⟩

section
variable {s u : State} {a : Nat} (h : u.safetyView a = s.safetyView a)
include h

theorem rd_of_safetyView : u.rd a = s.rd a := congrArg SafetyView.reg h
theorem wd_of_safetyView (p : Nat) : u.wd p = s.wd p := by
  have hwds : u.prot.wds = s.prot.wds := congrArg SafetyView.wds h
  rw [State.wd, State.wd, hwds]
theorem diffAt_of_safetyView : u.prot.diffAt = s.prot.diffAt := congrArg SafetyView.diffAt h
theorem holds_of_safetyView : u.holds = s.holds := congrArg SafetyView.holds h
theorem discharge_of_safetyView (n : Nat) : (u.dc n).discharge = (s.dc n).discharge := congrFun (congrArg SafetyView.discharge h) n

end

theorem each_safetyView {a : Nat} (s : State) (is : List Nat) (f : State → Nat → State) (h : ∀ s, ∀ i ∈ is, (f s i).safetyView a = s.safetyView a) :
    (s.each is f).safetyView a = s.safetyView a := by
  unfold State.each
  induction is generalizing s with
  | nil => rfl
  | cons i is ih => rw [List.foldl_cons, ih _ (fun s j hj => h s j (List.mem_cons_of_mem _ hj)), h s i List.mem_cons_self]

theorem foldl_safetyView {α : Type} {a : Nat} (s : State) (l : List α) (f : State → α → State) (h : ∀ s x, (f s x).safetyView a = s.safetyView a) :
    (l.foldl f s).safetyView a = s.safetyView a := by
  induction l generalizing s with
  | nil => rfl
  | cons x l ih => rw [List.foldl_cons, ih, h]

/-- A change that leaves the registers, the protection block and the hold-off causes leaves the view. -/
theorem safetyView_of_parts {s u : State} {a : Nat} (hr : u.rd a = s.rd a) (hp : u.prot = s.prot) (hh : u.holds = s.holds) :
    u.safetyView a = s.safetyView a := by
  simp only [State.safetyView, State.dc, hr, hp, hh]

section
variable (s : State) {a b : Nat}

theorem State.wr_safetyView (w : Word) (h : a ≠ b) : (s.wr b w).safetyView a = s.safetyView a :=
  safetyView_of_parts (s.rd_wr_ne _ _ _ h) rfl rfl
theorem State.wrF_safetyView (hi lo v : Nat) (h : a ≠ b) : (s.wrF b hi lo v).safetyView a = s.safetyView a := s.wr_safetyView _ h
theorem State.wrB_safetyView (i : Nat) (v : Bool) (h : a ≠ b) : (s.wrB b i v).safetyView a = s.safetyView a := s.wr_safetyView _ h
theorem State.countUp_safetyView (hi lo n : Nat) (h : a ≠ b) : (s.countUp b hi lo n).safetyView a = s.safetyView a := s.wr_safetyView _ h
theorem State.raise_safetyView (i : Nat) (h : a ≠ b) : (s.raise b i).safetyView a = s.safetyView a := State.wr_safetyView _ _ h
theorem State.raiseIf_safetyView (c : Bool) (i : Nat) (h : a ≠ b) : (s.raiseIf c b i).safetyView a = s.safetyView a := by
  unfold State.raiseIf
  split
  · exact s.raise_safetyView i h
  · rfl

@[simp] theorem State.post_safetyView (src code : Nat) : (s.post src code).safetyView a = s.safetyView a :=
  safetyView_of_parts (State.post_rd ..) (by rw [State.post_eq]) (by rw [State.post_eq])

end

theorem OnlySwitches.safetyView {x z : State} {a : Nat} {js : Set Nat} {as : List Nat} (h : OnlySwitches js as x z) (ha : a ∉ as) :
    z.safetyView a = x.safetyView a :=
  safetyView_of_parts (h.regs a ha) (by rw [h.state]) (by rw [h.state])

end Sys2Proof.Machine
end

section
/-! The operations of the gates leave what the safety functions show (R233, R242, R248). -/

namespace Sys2Proof.Machine

/-! ### Registers of the gates -/

section
variable {a : Nat} (ha : offGates a)
include ha

/-- A register of the PWM, of its links or of the auxiliary drives is none of the safety functions'. -/
theorem offGates.ne_gate {b : Nat} (hlow : 0x43000000 ≤ b) (hhigh : b < 0x44000000) : a ≠ b := by unfold offGates at ha; omega

/-- A register above the monitor's is none of them either. -/
theorem offGates.ne_high {b : Nat} (h : 0x45000000 ≤ b) : a ≠ b := by unfold offGates at ha; omega

theorem offGates.ne_pwmLegStatus {g : Nat} (h : g < 64) : a ≠ R.pwmLegStatus g := by unfold offGates at ha; unfold R.pwmLegStatus; omega
theorem offGates.ne_pwmLegCarry {g : Nat} (h : g < 64) : a ≠ R.pwmLegCarry g := by unfold offGates at ha; unfold R.pwmLegCarry; omega
theorem offGates.ne_pwmLegCount {g : Nat} (h : g < 64) : a ≠ R.pwmLegCount g := by unfold offGates at ha; unfold R.pwmLegCount; omega
theorem offGates.ne_pwmSliceStatus {i : Nat} (h : i < 192) : a ≠ R.pwmSliceStatus i := by unfold offGates at ha; unfold R.pwmSliceStatus; omega
theorem offGates.ne_pwmSliceCarryA {i : Nat} (h : i < 192) : a ≠ R.pwmSliceCarryA i := by unfold offGates at ha; unfold R.pwmSliceCarryA; omega
theorem offGates.ne_pwmSliceCarryB {i : Nat} (h : i < 192) : a ≠ R.pwmSliceCarryB i := by unfold offGates at ha; unfold R.pwmSliceCarryB; omega
theorem offGates.ne_auxStatus {m : Nat} (h : m < 6) : a ≠ R.auxStatus m := by unfold offGates at ha; unfold R.auxStatus; omega
theorem offGates.ne_stlStatus {l : Nat} (h : l < 32) : a ≠ R.stlStatus l := by unfold offGates at ha; unfold R.stlStatus; omega
theorem offGates.ne_protDsatStatus {l : Nat} (h : l < 32) : a ≠ R.protDsatStatus l := by unfold offGates at ha; unfold R.protDsatStatus; omega

theorem offGates.notMem_auxRegs (i : Nat) : a ∉ auxRegs i := by
  intro hm
  obtain ⟨⟨hlow, hhigh⟩, he⟩ := mem_auxRegs hm
  exact ha.ne_auxStatus (m := (i - 84) / 3) (by omega) he

theorem offGates.notMem_switchRegs {i : Nat} (h : i < 192) : a ∉ switchRegs i := by
  simp [switchRegs, ha.ne_pwmSliceStatus h, ha.ne_pwmLegStatus (g := i / 3) (by omega), ha.notMem_auxRegs i]

theorem offGates.notMem_legRegs {g : Nat} (h : g < 64) : a ∉ legRegs g [R.pwmLegStatus g] := by
  have haux : a ∉ legAuxRegs g := by
    unfold legAuxRegs
    split
    · simpa using ha.ne_auxStatus (by omega)
    · simp
  simp [legRegs, haux, ha.ne_pwmLegStatus h, ha.ne_pwmSliceStatus (i := 3 * g) (by omega), ha.ne_pwmSliceStatus (i := 3 * g + 1) (by omega),
    ha.ne_pwmSliceStatus (i := 3 * g + 2) (by omega)]

end

theorem State.legLink_lt (s : State) (g : Nat) : s.legLink g < 32 := fieldOf_lt _ 24 20

/-! ### Edges of a link (R242, R245) -/

section
variable (s : State) (l : Nat) {a : Nat}

@[simp] theorem State.setLink_safetyView (v : LinkSt) : (s.setLink l v).safetyView a = s.safetyView a := (rfl)
@[simp] theorem State.setSlice_safetyView (i : Nat) (v : SliceSt) : (s.setSlice i v).safetyView a = s.safetyView a := (rfl)
@[simp] theorem State.setLeg_safetyView (g : Nat) (v : LegSt) : (s.setLeg g v).safetyView a = s.safetyView a := (rfl)

@[simp] theorem State.setEdges_safetyView (es : List Edge) : (s.setEdges l es).safetyView a = s.safetyView a := (rfl)
@[simp] theorem State.dropEdges_safetyView (gone : Edge → Bool) : (s.dropEdges l gone).safetyView a = s.safetyView a := (rfl)

@[simp] theorem State.handEdges_safetyView (cs : List SwCmd) : (s.handEdges l cs).safetyView a = s.safetyView a :=
  foldl_safetyView s cs _ fun s c => by simp [State.handEdge, apply_ite (State.safetyView a)]

@[simp] theorem State.handLeg_safetyView (g x : Nat) (segs : List Seg) (sent : List (Nat × Bool × Nat)) :
    (s.handLeg g x segs sent).1.safetyView a = s.safetyView a := s.handEdges_safetyView ..

@[simp] theorem State.handSlice_safetyView (i x : Nat) (segs : List Seg) (sent : List (Nat × Bool × Nat)) :
    (s.handSlice i x segs sent).1.safetyView a = s.safetyView a := s.handEdges_safetyView ..

@[simp] theorem State.queueState_safetyView (c : StateCmd) : (s.queueState l c).safetyView a = s.safetyView a := by
  simp [State.queueState, apply_ite (State.safetyView a)]

theorem State.sendState_safetyView (ha : offGates a) (g code : Nat) : (s.sendState g code).safetyView a = s.safetyView a := by
  have hst := ha.ne_stlStatus (s.legLink_lt g)
  simp [State.sendState, apply_ite (State.safetyView a), State.wrB_safetyView, hst]

end

/-! ### Switches of slices and leg units -/

section
variable (s : State) {a g i : Nat} (ha : offGates a)
include ha

theorem State.swOff_safetyView (i : Nat) (b : Bool) (x : Nat) : (s.swOff i b x).safetyView a = s.safetyView a :=
  (s.swOff_onlySwitches i b x).safetyView (ha.notMem_auxRegs i)

theorem State.swDue_safetyView (hi : i < 192) (b : Bool) (x : Nat) : (s.swDue i b x).safetyView a = s.safetyView a :=
  (s.swDue_onlySwitches i b x).safetyView (ha.notMem_switchRegs hi)

theorem State.sliceRequest_safetyView (hi : i < 192) (r : Option Nat) (x : Nat) : (s.sliceRequest i r x).safetyView a = s.safetyView a := by
  unfold State.sliceRequest
  dsimp only
  split
  · simp [State.swOff_safetyView _ ha]
  · split
    · split <;> simp [State.swOff_safetyView _ ha, State.swDue_safetyView _ ha hi]
    · split <;> simp [State.swOff_safetyView _ ha, State.swDue_safetyView _ ha hi]

theorem State.sliceEnter_safetyView (hi : i < 192) : (s.sliceEnter i).safetyView a = s.safetyView a := by
  unfold State.sliceEnter
  dsimp only
  split
  · rfl
  · split
    · exact State.sliceRequest_safetyView _ ha hi _ _
    · rfl

theorem State.sliceClear_safetyView (i x : Nat) : (s.sliceClear i x).safetyView a = s.safetyView a := by
  simp [State.sliceClear, State.swOff_safetyView _ ha]

theorem State.legTakeUp_safetyView (g x : Nat) : (s.legTakeUp g x).safetyView a = s.safetyView a :=
  (each_safetyView _ _ _ fun s k _ => s.sliceClear_safetyView ha (3 * g + k) x).trans (s.setLeg_safetyView g _)

theorem State.prepareSlice_safetyView (hi : i < 192) (x : Nat) : (s.prepareSlice i x).safetyView a = s.safetyView a := by
  have hjudge : (s.judgeSlice i (s.slice i).shadow (s.sliceEndState i) (s.tbOf x)).1.safetyView a = s.safetyView a := by
    simp [State.judgeSlice, State.wrF_safetyView, State.countUp_safetyView, State.raiseIf_safetyView, ha.ne_pwmSliceStatus hi,
      ha.ne_pwmSliceCarryA hi, ha.ne_pwmSliceCarryB hi]
  unfold State.prepareSlice
  dsimp only
  split
  · rw [State.handSlice_safetyView, State.setSlice_safetyView, hjudge]
  · rw [State.setSlice_safetyView, hjudge]

theorem State.prepareLeg_safetyView (hg : g < 64) (x : Nat) : (s.prepareLeg g x).safetyView a = s.safetyView a := by
  have hjudge : (s.judgeLeg g (s.leg g).shadow).1.safetyView a = s.safetyView a := by
    simp [State.judgeLeg, State.wr_safetyView, State.countUp_safetyView, State.raiseIf_safetyView, ha.ne_pwmLegStatus hg,
      ha.ne_pwmLegCarry hg, ha.ne_pwmLegCount hg]
  unfold State.prepareLeg
  dsimp only
  split
  · rw [State.handLeg_safetyView, State.setLeg_safetyView, hjudge]
  · rw [State.setLeg_safetyView, hjudge]

/-! ### Overrides (R233) -/

theorem State.legEnter_safetyView (hg : g < 64) (hp : (s.leg g).path.stepOk) : (s.legEnter g).safetyView a = s.safetyView a := by
  have hcmds (u : State) {cs : List SwCmd} (hcs : ofThreePairs cs) : (u.runCmds g cs).safetyView a = u.safetyView a :=
    (u.runCmds_onlySwitches hcs List.mem_cons_self).safetyView (ha.notMem_legRegs hg)
  unfold State.legEnter
  dsimp only
  split
  · rfl
  · split
    · rw [hcmds _ (requestState_cmds _ _ _ hp)]
      simp [apply_ite (State.safetyView a), State.countUp_safetyView, State.raise_safetyView, State.raiseIf_safetyView, ha.ne_pwmLegStatus hg,
        ha.ne_pwmLegCount hg]
    · rfl

theorem State.ovrEnds_safetyView (hg : g < 64) : (s.ovrEnds g).safetyView a = s.safetyView a := by
  unfold State.ovrEnds
  dsimp only
  split
  · split
    · have hp : ((s.legTakeUp g s.clk.now).leg g).path.stepOk := by
        rw [State.legTakeUp_path]
        exact fun _ h => nomatch h
      rw [State.legEnter_safetyView _ ha hg hp, State.legTakeUp_safetyView _ ha]
    · rfl
  · refine each_safetyView s _ _ fun s i hi => ?_
    have hlt : i < 192 := by
      simp only [List.mem_cons, List.not_mem_nil, or_false] at hi
      omega
    split
    · rw [State.sliceEnter_safetyView _ ha hlt, State.sliceClear_safetyView _ ha]
    · rfl

theorem State.handAgain_safetyView (hg : g < 64) : (s.handAgain g).safetyView a = s.safetyView a := by
  unfold State.handAgain
  split
  · rfl
  · split
    · split
      · simp [apply_ite (State.safetyView a), State.prepareLeg_safetyView _ ha hg]
      · simp [apply_ite (State.safetyView a)]
      · rfl
    · refine each_safetyView s _ _ fun s i hi => ?_
      have hlt : i < 192 := by
        simp only [List.mem_cons, List.not_mem_nil, or_false] at hi
        omega
      split
      · simp [apply_ite (State.safetyView a), State.prepareSlice_safetyView _ ha hlt]
      · simp [apply_ite (State.safetyView a)]
      · rfl

theorem State.ovrSlice_safetyView (hg : g < 64) (code x : Nat) {k : Nat} (hk : k < 3) :
    (s.ovrSlice g code k x).safetyView a = s.safetyView a := by
  have hlt : 3 * g + k < 192 := by omega
  unfold State.ovrSlice
  dsimp only
  split <;> simp [apply_ite (State.safetyView a), State.swOff_safetyView _ ha, State.swDue_safetyView _ ha hlt, State.wr_safetyView,
    ha.ne_pwmSliceCarryA hlt, ha.ne_pwmSliceCarryB hlt]

/-- A new override code of a leg unit. -/
theorem State.setOverride_safetyView (hg : g < 64) (code : Nat) : (s.setOverride g code).safetyView a = s.safetyView a := by
  have hst := ha.ne_pwmLegStatus hg
  have hslices (u : State) : (u.each [0, 1, 2] (fun s k => s.ovrSlice g code k s.clk.now)).safetyView a = u.safetyView a := by
    refine each_safetyView u _ _ fun s k hk => ?_
    simp only [List.mem_cons, List.not_mem_nil, or_false] at hk
    exact s.ovrSlice_safetyView ha hg code _ (by omega)
  have hdsat (u : State) : a ≠ R.protDsatStatus (u.legLink g) := ha.ne_protDsatStatus (u.legLink_lt g)
  simp [State.setOverride, apply_ite (State.safetyView a), State.handAgain_safetyView _ ha hg, State.sendState_safetyView _ ha,
    State.ovrEnds_safetyView _ ha hg, State.wrF_safetyView, State.wr_safetyView, hst, hdsat, hslices, ha.ne_pwmLegCarry hg]

/-! ### Hold-off (R248) -/

theorem State.stateAfterHold_safetyView (l : Nat) : (s.stateAfterHold l).safetyView a = s.safetyView a := by
  unfold State.stateAfterHold
  split
  · exact s.sendState_safetyView ha _ _
  · rfl

/-- A hold-off cause begins or ends: of the view its entry among the causes alone changes. -/
theorem State.setHold_safetyView (c : Nat) (b : Bool) :
    (s.setHold c b).safetyView a = { s.safetyView a with holds := tabSet (fun _ => false) s.holds c b } := by
  have hclaim : a ≠ R.stlClaim := ha.ne_gate (by decide) (by decide)
  have hst {l : Nat} (hl : l ∈ List.range 32) : a ≠ R.stlStatus l := ha.ne_stlStatus (List.mem_range.mp hl)
  unfold State.setHold
  extract_lets was began now marked
  have hm : marked.safetyView a = { s.safetyView a with holds := tabSet (fun _ => false) s.holds c b } := by
    rw [State.wrF_safetyView _ _ _ _ hclaim, State.wrB_safetyView _ _ _ hclaim]
    rfl
  clear_value marked
  rw [← hm]
  split
  · refine each_safetyView marked _ _ fun s l hl => ?_
    split
    · rw [State.wrB_safetyView _ _ _ (hst hl), State.setLink_safetyView]
    · rfl
  · split
    · refine each_safetyView marked _ _ fun s l hl => ?_
      split
      · rw [State.stateAfterHold_safetyView _ ha, State.wrB_safetyView _ _ _ (hst hl), State.setLink_safetyView]
      · rfl
    · rfl

end

end Sys2Proof.Machine
end

section
/-! The recorder, the counters, the records of the protection block and the owners of the bridges leave what the safety functions show, the owners but
for their own registers (R146, R164, R294, R363, R427). -/

namespace Sys2Proof.Machine

/-! ### The recorder (R359-R368) -/

section
variable (s : State) (u : Nat) {a : Nat}

@[simp] theorem State.setCap_safetyView (v : CapSt) : (s.setCap u v).safetyView a = s.safetyView a := (rfl)
@[simp] theorem State.setRecChan_safetyView (v : RecChan) : (s.setRecChan u v).safetyView a = s.safetyView a := (rfl)
@[simp] theorem State.recTrigMark_safetyView (i : Nat) : (s.recTrigMark u i).safetyView a = s.safetyView a := (rfl)
@[simp] theorem State.recEvent_safetyView (code : Nat) : (s.recEvent u code).safetyView a = s.safetyView a := s.post_safetyView ..

@[simp] theorem State.busDrive_safetyView : (s.busDrive u).safetyView a = s.safetyView a := by
  refine each_safetyView s _ _ fun s b _ => ?_
  split <;> rfl

variable (ha : offGates a)
include ha

theorem State.setCapState_safetyView (st : Nat) : (s.setCapState u st).safetyView a = s.safetyView a := by
  simp [State.setCapState, State.wrF_safetyView, ha.ne_high (recCapStatus_high u)]

theorem State.capFill_safetyView (k : Nat) : (s.capFill u k).safetyView a = s.safetyView a := by
  simp [State.capFill, each_safetyView, State.wrF_safetyView, State.setCapState_safetyView _ _ ha, ha.ne_high (recCapStatus_high u)]

theorem State.capAfterHold_safetyView : (s.capAfterHold u).safetyView a = s.safetyView a := by
  unfold State.capAfterHold State.capFillOrWait
  split
  · split <;> simp [State.capFill_safetyView _ _ ha, State.setCapState_safetyView _ _ ha]
  · simp [State.setCapState_safetyView _ _ ha]

theorem State.capDeadEnd_safetyView : (s.capDeadEnd u).safetyView a = s.safetyView a := by
  unfold State.capDeadEnd
  dsimp only
  split
  · rfl
  · rw [State.wr_safetyView _ _ (ha.ne_high (recCapDeadTotal_high u)), State.wr_safetyView _ _ (ha.ne_high (recCapDead_high u))]
    rfl

theorem State.capHoldCount_safetyView (code : Nat) : (s.capHoldCount u code).safetyView a = s.safetyView a := by
  unfold State.capHoldCount
  dsimp only
  split
  · split
    · exact State.capAfterHold_safetyView _ u ha
    · rfl
  · rfl

theorem State.capTrigger_safetyView (code at_ : Nat) : (s.capTrigger u code at_).1.safetyView a = s.safetyView a := by
  unfold State.capTrigger
  dsimp only
  split
  · rw [State.setCapState_safetyView _ _ ha, State.recEvent_safetyView, State.capDeadEnd_safetyView _ _ ha, State.setCap_safetyView]
    split
    · split <;> simp
    · rfl
  · split
    · split
      · split <;> simp
      · rfl
    · simp [State.countUp_safetyView, State.raise_safetyView, ha.ne_high (recCapStatus_high u), ha.ne_high (recCapCount_high u)]

theorem State.recFireGo_safetyView (n code at_ only : Nat) : (State.recFireGo n s code at_ only).safetyView a = s.safetyView a := by
  induction n generalizing s code at_ only with
  | zero => rfl
  | succ n ih =>
    refine foldl_safetyView s _ _ fun s u => ?_
    simp [apply_ite (State.safetyView a), ih, State.capHoldCount_safetyView _ _ ha, State.capTrigger_safetyView _ _ ha]

theorem State.recFireNow_safetyView (code : Nat) : (s.recFireNow code).safetyView a = s.safetyView a := s.recFireGo_safetyView ha ..

/-! ### Records of the protection block and counters -/

theorem State.pmuHoldAll_safetyView : s.pmuHoldAll.safetyView a = s.safetyView a := by
  refine each_safetyView s _ _ fun s p _ => each_safetyView s _ _ fun s c _ => ?_
  have hmark (u : State) (k : Nat) : (u.pmuMark p c k).safetyView a = u.safetyView a := rfl
  have hne : a ≠ R.pmuPcnt p c := ha.ne_high (by unfold R.pmuPcnt; omega)
  unfold State.pmuHold
  rw [hmark]
  split
  · exact s.wr_safetyView _ hne
  · rfl

theorem State.pmuCause_safetyView (k : Nat) : (s.pmuCause k).safetyView a = s.safetyView a := by
  have hfreeze : a ≠ R.pmuFreeze := ha.ne_high (by decide)
  have hcause : a ≠ R.pmuFreezeCause := ha.ne_high (by decide)
  simp [State.pmuCause, apply_ite (State.safetyView a), State.raise_safetyView, State.wrF_safetyView, hfreeze, hcause,
    State.pmuHoldAll_safetyView _ ha]

theorem State.noteFirst_safetyView (code : Nat) : (s.noteFirst code).safetyView a = s.safetyView a := by
  have hfirst : a ≠ R.protFirst := by unfold offGates at ha; unfold R.protFirst; omega
  have hstamp : a ≠ R.protFirstTs := by unfold offGates at ha; unfold R.protFirstTs; omega
  simp [State.noteFirst, apply_ite (State.safetyView a), State.wr_safetyView, State.wrF_safetyView, State.raise_safetyView, hfirst, hstamp]

theorem State.noteDc_safetyView (n k : Nat) : (s.noteDc n k).safetyView a = s.safetyView a := by
  simp [State.noteDc, State.pmuCause_safetyView _ ha, State.noteFirst_safetyView _ ha]

/-! ### The codes of a thread (R292, R293) -/

omit ha in
/-- A record of the DC link that keeps its discharge. -/
theorem State.setDc_safetyView (n : Nat) (d : DcSt) (h : d.discharge = (s.dc n).discharge) : (s.setDc n d).safetyView a = s.safetyView a := by
  unfold State.safetyView
  congr 1
  funext m
  by_cases hm : m = n
  · rw [hm, State.dc, State.setDc_prot, tabGet_set_same, h]
  · rw [State.dc, State.setDc_prot, tabGet_set_ne _ _ _ _ _ hm, State.dc]

theorem State.applyThread_safetyView (n : Nat) : (s.applyThread n).safetyView a = s.safetyView a := by
  have hmark (u : State) : (u.chopMark n).safetyView a = u.safetyView a := by
    unfold State.chopMark
    dsimp only
    split
    · rfl
    · exact u.setDc_safetyView n _ rfl
  rw [State.applyThread, hmark]
  exact each_safetyView s _ _ fun s l _ => s.setOverride_safetyView ha (s.legOf_lt n l) _

theorem State.applyAll_safetyView : s.applyAll.safetyView a = s.safetyView a := by
  unfold State.applyAll
  rw [each_safetyView, each_safetyView]
  · exact fun s n _ => s.applyThread_safetyView ha n
  · intro s g hg
    have hlt := List.mem_range.mp hg
    split
    · exact s.setOverride_safetyView ha (by omega) _
    · rfl

theorem State.hold_safetyView (c : Nat) (b : Bool) :
    (s.hold c b).safetyView a = { s.safetyView a with holds := tabSet (fun _ => false) s.holds c b } := by
  rw [State.hold, State.applyAll_safetyView _ ha, State.setHold_safetyView _ ha]

/-! ### The auxiliary drives (R290, R305) -/

theorem State.auxSto_safetyView : s.auxSto.safetyView a = s.safetyView a := by
  refine each_safetyView s _ _ fun s m hm => ?_
  have hst : a ≠ R.auxStatus m := ha.ne_auxStatus (List.mem_range.mp hm)
  have hnote (u : State) (h : Nat) : (u.auxNote h).safetyView a = u.safetyView a := by
    rw [State.auxNote_eq]
    rfl
  split
  · rw [State.auxNoteMotor, hnote, hnote, hnote, State.post_safetyView, State.raise_safetyView _ _ hst, State.wrF_safetyView _ _ _ _ hst,
      State.wrF_safetyView _ _ _ _ hst]
    exact (each_safetyView _ _ _ fun s i _ => s.setSlice_safetyView i _).trans (safetyView_of_parts rfl rfl rfl)
  · rfl

end

/-! ### Owners of the bridges (R146, R164) -/

section
variable (s : State) (n : Nat) {a : Nat}

@[simp] theorem State.keepField_safetyView (b hi lo v : Nat) : (s.keepField n b hi lo v).safetyView a = s.safetyView a := (rfl)
@[simp] theorem State.vecBoth_safetyView (f : VecSt → VecSt) : (s.vecBoth n f).safetyView a = s.safetyView a := (rfl)
@[simp] theorem State.gfeBoth_safetyView (f : GfeSt → GfeSt) : (s.gfeBoth n f).safetyView a = s.safetyView a := (rfl)
@[simp] theorem State.setVec_safetyView (v : VecSt) : (s.setVec n v).safetyView a = s.safetyView a := (rfl)

theorem State.keepRaise_safetyView {b : Nat} (i : Nat) (h : a ≠ b) : (s.keepRaise n b i).safetyView a = s.safetyView a := s.raise_safetyView i h

theorem State.setVecState_safetyView (st : Nat) (h : a ≠ R.vecStatus n) : (s.setVecState n st).safetyView a = s.safetyView a := by
  simp [State.setVecState, State.vecEnter, State.wrF_safetyView, h]

theorem State.gfeForce_safetyView (h : a ≠ R.gfeStatus n) (hb : a ≠ R.gfeBlend n) : (s.gfeForce n).safetyView a = s.safetyView a := by
  simp [State.gfeForce, State.gfeOff, State.gfeEnter, apply_ite (State.safetyView a), State.keepRaise_safetyView, State.wrF_safetyView,
    State.wrB_safetyView, h, hb]

end

end Sys2Proof.Machine
end

section
/-! The discharge of a thread (R312-R314): what each of its operations leaves in the thread's status register and of its record. -/

namespace Sys2Proof.Machine

/-! ### Changes of the view -/

/-- The view with a bit of its register written. -/
def SafetyView.setBit (v : SafetyView) (i : Nat) (b : Bool) : SafetyView := { v with reg := withBit v.reg i b }

/-- The view with a field of its register written. -/
def SafetyView.setField (v : SafetyView) (hi lo x : Nat) : SafetyView := { v with reg := withField v.reg hi lo x }

/-- The view with the discharge of a thread replaced. -/
def SafetyView.setDischarge (v : SafetyView) (n : Nat) (d : Option DischBy × Int) : SafetyView :=
  { v with discharge := Function.update v.discharge n d }

section
variable (v : SafetyView)

@[simp] theorem SafetyView.setBit_reg (i : Nat) (b : Bool) : (v.setBit i b).reg = withBit v.reg i b := rfl
@[simp] theorem SafetyView.setField_reg (hi lo x : Nat) : (v.setField hi lo x).reg = withField v.reg hi lo x := rfl
@[simp] theorem SafetyView.setDischarge_reg (n : Nat) (d : Option DischBy × Int) : (v.setDischarge n d).reg = v.reg := rfl
@[simp] theorem SafetyView.setBit_discharge (i : Nat) (b : Bool) : (v.setBit i b).discharge = v.discharge := rfl
@[simp] theorem SafetyView.setField_discharge (hi lo x : Nat) : (v.setField hi lo x).discharge = v.discharge := rfl
theorem SafetyView.setDischarge_self (n : Nat) : v.setDischarge n (v.discharge n) = v := by
  unfold SafetyView.setDischarge
  rw [Function.update_eq_self]

theorem SafetyView.setDischarge_setDischarge (n : Nat) (d e : Option DischBy × Int) : (v.setDischarge n d).setDischarge n e = v.setDischarge n e := by
  unfold SafetyView.setDischarge
  rw [Function.update_idem]

@[simp] theorem SafetyView.setDischarge_discharge (n : Nat) (d : Option DischBy × Int) : (v.setDischarge n d).discharge n = d := Function.update_self ..

end

/-- A bit that stands already is written in vain. -/
theorem withBit_self (w : Word) {i : Nat} (h : i < 32) : withBit w i (bitOf w i) = w := by
  apply BitVec.eq_of_getLsbD_eq
  intro j _
  show bitOf (withBit w i (bitOf w i)) j = bitOf w j
  rw [bitOf_withBit _ _ _ _ h]
  split
  · next e => rw [e]
  · rfl

section
variable (s : State) (a : Nat)

theorem State.rdB_eq_view (i : Nat) : s.rdB a i = bitOf (s.safetyView a).reg i := rfl
theorem State.rdF_eq_view (hi lo : Nat) : s.rdF a hi lo = fieldOf (s.safetyView a).reg hi lo := rfl
theorem State.disch_eq_view (n : Nat) : (s.dc n).disch = ((s.safetyView a).discharge n).1 := rfl
theorem State.vStart_eq_view (n : Nat) : (s.dc n).vStart = ((s.safetyView a).discharge n).2 := rfl

@[simp] theorem State.wrB_safetyView_same (i : Nat) (b : Bool) : (s.wrB a i b).safetyView a = (s.safetyView a).setBit i b := by
  unfold State.safetyView SafetyView.setBit
  rw [State.wrB, State.rd_wr_same]
  rfl

@[simp] theorem State.wrF_safetyView_same (hi lo v : Nat) : (s.wrF a hi lo v).safetyView a = (s.safetyView a).setField hi lo v := by
  unfold State.safetyView SafetyView.setField
  rw [State.wrF, State.rd_wr_same]
  rfl

@[simp] theorem State.raise_safetyView_same (i : Nat) : (s.raise a i).safetyView a = (s.safetyView a).setBit i true :=
  State.wrB_safetyView_same _ a i true

@[simp] theorem State.setDc_safetyView_set (n : Nat) (d : DcSt) : (s.setDc n d).safetyView a = (s.safetyView a).setDischarge n d.discharge := by
  unfold State.safetyView SafetyView.setDischarge
  congr 1
  funext m
  by_cases hm : m = n
  · rw [hm, Function.update_self, State.dc, State.setDc_prot, tabGet_set_same]
  · rw [Function.update_of_ne hm, State.dc, State.setDc_prot, tabGet_set_ne _ _ _ _ _ hm]
    rfl

@[simp] theorem State.soon_safetyView (t : Nat) (x : Soon) : (s.soon t x).safetyView a = s.safetyView a := (rfl)

end

/-! ### Runs -/

section
variable {s : State} {t : Nat} {f : State → State} {z : State}

/-- The run of an operation that leaves the schedule and the frame, but for the answer of the bus: the next state shows what the operation leaves. -/
theorem State.run_safetyViewBus {b : BusAns} (e : f (s.upTo t) = { z with bus := b }) (hs : z.sched = (s.upTo t).sched)
    (hf : z.frame = (s.upTo t).frame) :
    ∃ u, s.run t f = .next u ∧ ({ s.upTo t with bus := b } : State).pacedAs u ∧ ∀ a, a ∉ forceRegs → u.safetyView a = z.safetyView a := by
  obtain ⟨u, hu, hstate, hregs⟩ := State.run_eff e
  have hseqs : z.seqs = (s.upTo t).seqs := congrArg Sched.seqs hs
  have hseq (n : Nat) : z.seq n = (s.upTo t).seq n := by rw [State.seq, State.seq, hseqs]
  refine ⟨u, hu, State.paced_of hstate (s.upTo_pending t) (congrArg Sched.clk hs) hseq (congrArg Sched.tap hs) rfl hf, fun a ha => ?_⟩
  exact safetyView_of_parts (hregs a ha) (by rw [hstate]) (by rw [hstate])

/-- The run of an operation that leaves the schedule and the frame: the next state shows what the operation leaves. -/
theorem State.run_safetyView (e : f (s.upTo t) = z) (hs : z.sched = (s.upTo t).sched) (hf : z.frame = (s.upTo t).frame) :
    ∃ u, s.run t f = .next u ∧ (s.upTo t).pacedAs u ∧ ∀ a, a ∉ forceRegs → u.safetyView a = z.safetyView a := by
  obtain ⟨u, hu, hpaced, hstate, hregs⟩ := State.run_paced e hs hf
  exact ⟨u, hu, hpaced, fun a ha => safetyView_of_parts (hregs a ha) (by rw [hstate]) (by rw [hstate])⟩

end

/-! ### The registers of a discharge -/

theorem offGates_protThrStatus (n : Fin 4) : offGates (R.protThrStatus n) := by unfold offGates R.protThrStatus; omega
theorem protThrStatus_force (n : Nat) : R.protThrStatus n ∉ forceRegs := not_mem_forceRegs (by unfold R.protThrStatus; omega)
theorem vecStatus_force (u : Fin 8) : R.vecStatus u ∉ forceRegs := by fin_cases u <;> decide

/-- The owners of the bridges write below the protection block. -/
theorem ne_vecStatus {a u : Nat} (ha : 0x44000000 ≤ a) (hu : u < 8) : a ≠ R.vecStatus u := by unfold R.vecStatus; omega
theorem ne_gfeStatus {a n : Nat} (ha : 0x44000000 ≤ a) (hn : n < 4) : a ≠ R.gfeStatus n := by unfold R.gfeStatus; omega
theorem ne_gfeBlend {a n : Nat} (ha : 0x44000000 ≤ a) (hn : n < 4) : a ≠ R.gfeBlend n := by unfold R.gfeBlend; omega
theorem protThrStatus_high (n : Nat) : 0x44000000 ≤ R.protThrStatus n := by unfold R.protThrStatus; omega
theorem protThrStatus_ne_smonForce (n m : Nat) (h : n < 4) : R.protThrStatus n ≠ R.smonForce m := by unfold R.protThrStatus R.smonForce; omega

/-! ### The chopper request (R298) -/

section
variable (s : State) (n : Fin 4)

theorem State.chopOn_safetyView {a : Nat} (ha : offGates a) : (s.chopOn n).safetyView a = (s.wrB (R.protThrStatus n) 13 true).safetyView a :=
  State.applyThread_safetyView _ ha n

/-- A request withdrawn, or none to withdraw: bit 13 reads 0. -/
theorem State.chopOff_status : (s.chopOff n).safetyView (R.protThrStatus n) = (s.safetyView (R.protThrStatus n)).setBit 13 false := by
  have ha := offGates_protThrStatus n
  unfold State.chopOff
  dsimp only
  split
  · rw [State.soon_safetyView, State.applyThread_safetyView _ ha, State.wrB_safetyView_same, State.setDc_safetyView]
    rfl
  · next h =>
    have hoff : bitOf (s.rd (R.protThrStatus n)) 13 = false := by simpa [State.chopReq, State.rdB] using h
    unfold State.safetyView SafetyView.setBit
    rw [← hoff, withBit_self _ (by decide)]

theorem State.chopOff_safetyView {a : Nat} (ha : offGates a) (h : a ≠ R.protThrStatus n) : (s.chopOff n).safetyView a = s.safetyView a := by
  unfold State.chopOff
  dsimp only
  split
  · rw [State.soon_safetyView, State.applyThread_safetyView _ ha, State.wrB_safetyView _ _ _ h, State.setDc_safetyView]
    rfl
  · rfl

/-! ### The steps of a discharge (R313) -/

/-- The state as a step of the discharge begins: `DISCH_STEP`, and the voltage against which the step is checked. -/
def State.dischBegun (s : State) (n k : Nat) : State :=
  let v := (s.dcVal n).getD 0
  (s.setDc n { s.dc n with stepAt := s.clk.now, vStart := if k = 3 then v else (s.dc n).vStart }).wrF (R.protThrStatus n) 6 4 k

theorem State.dischEnter_two : (s.dischEnter n 2).safetyView (R.protThrStatus n) =
    ((s.dischBegun n 2).safetyView (R.protThrStatus n)).setBit 13 true := by
  show ((((s.dischBegun n 2).post _ _).chopOn n).safetyView _) = _
  rw [State.chopOn_safetyView _ n (offGates_protThrStatus n), State.wrB_safetyView_same, State.post_safetyView]

theorem State.dischEnter_three : (s.dischEnter n 3).safetyView (R.protThrStatus n) =
    ((s.dischBegun n 3).safetyView (R.protThrStatus n)).setBit 13 false := by
  show ((((s.dischBegun n 3).post _ _).chopOff n).applyThread n).safetyView _ = _
  rw [State.applyThread_safetyView _ (offGates_protThrStatus n), State.chopOff_status, State.post_safetyView]

theorem State.dischEnter_four : (s.dischEnter n 4).safetyView (R.protThrStatus n) =
    ((s.dischBegun n 4).safetyView (R.protThrStatus n)).setBit 9 true := by
  show (((((s.dischBegun n 4).post _ _).raise (R.protThrStatus n) 9).noteDc n 6).applyThread n).safetyView _ = _
  rw [State.applyThread_safetyView _ (offGates_protThrStatus n), State.noteDc_safetyView _ (offGates_protThrStatus n),
    State.raise_safetyView_same, State.post_safetyView]

/-- The view of another register as a step begins: the step's voltage alone. -/
theorem State.dischEnter_other (k : Nat) {a : Nat} (ha : offGates a) (h : a ≠ R.protThrStatus n) : (s.dischEnter n k).safetyView a =
    (s.safetyView a).setDischarge n ((s.dc n).disch, if k = 3 then (s.dcVal n).getD 0 else (s.dc n).vStart) := by
  unfold State.dischEnter
  dsimp only
  split <;> simp only [State.chopOn_safetyView _ n ha, State.chopOff_safetyView _ n ha h, State.applyThread_safetyView _ ha,
    State.noteDc_safetyView _ ha, State.raise_safetyView _ _ h, State.wrB_safetyView _ _ _ h, State.wrF_safetyView _ _ _ _ h,
    State.post_safetyView, State.setDc_safetyView_set] <;> rfl

/-! ### Begin and end of a discharge (R312, R314) -/

/-- The record of thread `n` as its discharge begins. -/
def State.dcBegun (s : State) (n : Nat) (by_ : DischBy) : DcSt :=
  { s.dc n with disch := some by_, vStart := (s.dcVal n).getD 0, stepAt := s.clk.now, safeAt := none }

/-- The state as a discharge begins, before its first step. -/
def State.dischBegins (s : State) (n : Nat) (by_ : DischBy) : State :=
  let s := s.setDc n (s.dcBegun n by_)
  let s := ((s.wrB (R.protThrStatus n) 7 true).wrF (R.protThrStatus n) 6 4 1).post 87 (0x600 + 16 * n + 1)
  let s := s.gfeForce n
  if s.vecState (2 * n) = 8 then s else s.setVecState (2 * n) 8

/-- Whether thread `n` has a chopper that is not faulty (R313). -/
def State.chopWorks (s : State) (n : Nat) : Bool := s.rdB (R.protThrChop n) 31 && !s.rdB (R.protThrStatus n) 10

theorem State.dischStart_of_none {by_ : DischBy} (h : (s.dc n).disch = none) :
    s.dischStart n by_ = (s.dischBegins n by_).dischEnter n (if (s.dischBegins n by_).chopWorks n then 2 else 3) := by
  unfold State.dischStart
  rw [h]
  rfl

theorem State.dischStart_of_some {by_ b : DischBy} (h : (s.dc n).disch = some b) :
    s.dischStart n by_ = if b = .write then s.setDc n { s.dc n with disch := some by_ } else s := by
  unfold State.dischStart
  rw [h]

/-- Above the owners of the bridges the begin of a discharge writes the thread's status alone. -/
theorem State.dischBegins_safetyView (by_ : DischBy) {a : Nat} (ha : 0x44000000 ≤ a) : (s.dischBegins n by_).safetyView a =
    (((s.setDc n (s.dcBegun n by_)).wrB (R.protThrStatus n) 7 true).wrF (R.protThrStatus n) 6 4 1).safetyView a := by
  unfold State.dischBegins
  extract_lets began marked forced
  have hforced : forced.safetyView a = marked.safetyView a :=
    State.gfeForce_safetyView _ n (ne_gfeStatus ha n.isLt) (ne_gfeBlend ha n.isLt)
  have hmarked : marked.safetyView a = ((began.wrB (R.protThrStatus n) 7 true).wrF (R.protThrStatus n) 6 4 1).safetyView a := State.post_safetyView ..
  rw [← hmarked, ← hforced]
  split
  · rfl
  · exact State.setVecState_safetyView _ _ 8 (ne_vecStatus ha (by omega))

theorem State.dischBegins_status (by_ : DischBy) : (s.dischBegins n by_).safetyView (R.protThrStatus n) =
    (((s.safetyView (R.protThrStatus n)).setDischarge n (some by_, (s.dcVal n).getD 0)).setBit 7 true).setField 6 4 1 := by
  rw [State.dischBegins_safetyView _ _ _ (protThrStatus_high n), State.wrF_safetyView_same, State.wrB_safetyView_same, State.setDc_safetyView_set]
  rfl

theorem State.dischBegins_other (by_ : DischBy) {a : Nat} (ha : 0x44000000 ≤ a) (h : a ≠ R.protThrStatus n) :
    (s.dischBegins n by_).safetyView a = (s.safetyView a).setDischarge n (some by_, (s.dcVal n).getD 0) := by
  rw [State.dischBegins_safetyView _ _ _ ha, State.wrF_safetyView _ _ _ _ h, State.wrB_safetyView _ _ _ h, State.setDc_safetyView_set]
  rfl

/-- The view of another register, from the begin of a discharge or its merge with one that runs: that of the thread's discharge alone changes. -/
theorem State.dischStart_other (by_ : DischBy) {a : Nat} (ha : offGates a) (hlow : 0x44000000 ≤ a) (h : a ≠ R.protThrStatus n) :
    ∃ d, (s.dischStart n by_).safetyView a = (s.safetyView a).setDischarge n d := by
  cases hd : (s.dc n).disch with
  | none =>
    rw [State.dischStart_of_none _ _ hd, State.dischEnter_other _ _ _ ha h, State.dischBegins_other _ _ _ hlow h]
    exact ⟨_, SafetyView.setDischarge_setDischarge ..⟩
  | some b =>
    rw [State.dischStart_of_some _ _ hd]
    split
    · exact ⟨_, State.setDc_safetyView_set ..⟩
    · exact ⟨(s.safetyView a).discharge n, (SafetyView.setDischarge_self ..).symm⟩

theorem State.setVecState_vecState (u st : Nat) (h : st < 16) : (s.setVecState u st).vecState u = st := by
  have hrd : (s.setVecState u st).rd (R.vecStatus u) = withField (s.rd (R.vecStatus u)) 3 0 st := by
    simp [State.setVecState, State.vecEnter, State.rd_wrF]
  rw [State.vecState, State.rdF, hrd, fieldOf_withField _ _ _ _ (by decide) (by decide)]
  exact Nat.mod_eq_of_lt h

theorem State.dischBegins_vecState (by_ : DischBy) : (s.dischBegins n by_).vecState (2 * n) = 8 := by
  unfold State.dischBegins
  dsimp only
  split
  · assumption
  · exact State.setVecState_vecState _ _ 8 (by decide)

theorem State.dischBegins_chopWorks (by_ : DischBy) : (s.dischBegins n by_).chopWorks n = s.chopWorks n := by
  have hchop : (s.dischBegins n by_).rd (R.protThrChop n) = s.rd (R.protThrChop n) :=
    congrArg SafetyView.reg (s.dischBegins_other n by_ (by unfold R.protThrChop; omega) (by unfold R.protThrChop R.protThrStatus; omega))
  have hfault : (s.dischBegins n by_).rdB (R.protThrStatus n) 10 = s.rdB (R.protThrStatus n) 10 := by
    rw [State.rdB_eq_view, State.dischBegins_status]
    simp [bitOf_withField, bitOf_withBit, State.rdB_eq_view]
  rw [State.chopWorks, State.chopWorks, State.rdB_congr hchop, hfault]

theorem State.dischBegun_status (k : Nat) : (s.dischBegun n k).safetyView (R.protThrStatus n) =
    ((s.safetyView (R.protThrStatus n)).setDischarge n ((s.dc n).disch, if k = 3 then (s.dcVal n).getD 0 else (s.dc n).vStart)).setField 6 4 k := by
  rw [State.dischBegun, State.wrF_safetyView_same, State.setDc_safetyView_set]
  rfl

/-- A discharge that begins shows who began it, `DISCH_ON`, and its first step. -/
theorem State.dischStart_status {by_ : DischBy} (h : (s.dc n).disch = none) :
    (s.dischStart n by_).rdB (R.protThrStatus n) 7 = true ∧ ((s.dischStart n by_).dc n).disch = some by_ ∧
      (s.dischStart n by_).dischStep n = if s.chopWorks n then 2 else 3 := by
  have hdisch : ((s.dischBegins n by_).dc n).disch = some by_ := by
    rw [State.disch_eq_view _ (R.protThrStatus n), State.dischBegins_status]
    simp
  rw [State.dischStart_of_none _ _ h, State.dischBegins_chopWorks, State.dischStep, State.rdB_eq_view, State.rdF_eq_view,
    State.disch_eq_view _ (R.protThrStatus n)]
  split
  · rw [State.dischEnter_two, State.dischBegun_status, State.dischBegins_status, hdisch]
    simp [bitOf_withField, bitOf_withBit, fieldOf_withBit, fieldOf_withField]
  · rw [State.dischEnter_three, State.dischBegun_status, State.dischBegins_status, hdisch]
    simp [bitOf_withField, bitOf_withBit, fieldOf_withBit, fieldOf_withField]

/-- The vector unit is in `DISCHARGE` from the begin on. -/
theorem State.dischStart_vecState {by_ : DischBy} (h : (s.dc n).disch = none) : (s.dischStart n by_).vecState (2 * n) = 8 := by
  have ha : offGates (R.vecStatus (2 * n)) := by unfold offGates R.vecStatus; omega
  have hne : R.vecStatus (2 * n) ≠ R.protThrStatus n := by unfold R.vecStatus R.protThrStatus; omega
  rw [State.dischStart_of_none _ _ h, State.vecState, State.rdF_eq_view, State.dischEnter_other _ n _ ha hne]
  exact s.dischBegins_vecState n by_

/-- A discharge that stops. -/
theorem State.dischStop_status : (s.dischStop n).safetyView (R.protThrStatus n) =
    ((((s.safetyView (R.protThrStatus n)).setDischarge n (none, (s.dc n).vStart)).setBit 7 false).setField 6 4 0).setBit 13 false := by
  have hforce (u : State) (x : Nat) : (if u.forceOf n = 3 then u.wrF (R.smonForce n) 31 30 x else u).safetyView (R.protThrStatus n) =
      u.safetyView (R.protThrStatus n) := by
    split
    · exact u.wrF_safetyView _ _ _ (protThrStatus_ne_smonForce n n n.isLt)
    · rfl
  rw [State.dischStop]
  dsimp only
  rw [State.applyThread_safetyView _ (offGates_protThrStatus n), State.chopOff_status, hforce, State.wrF_safetyView_same,
    State.wrB_safetyView_same, State.setDc_safetyView_set]
  rfl

end

end Sys2Proof.Machine
end

section
/-! The commands of the supervised discharge (R312-R314): what each operation does in each of its cases, and from this the next state of each command. -/

namespace Sys2Proof.Machine

/-! ### What the next state shows -/

section
variable {s u : State} {a : Nat} (h : u.safetyView a = s.safetyView a)
include h

theorem rdB_of_safetyView (i : Nat) : u.rdB a i = s.rdB a i := State.rdB_congr (rd_of_safetyView h) i
theorem rdF_of_safetyView (hi lo : Nat) : u.rdF a hi lo = s.rdF a hi lo := State.rdF_congr (rd_of_safetyView h) hi lo
theorem disch_of_safetyView (n : Nat) : (u.dc n).disch = (s.dc n).disch := congrArg Prod.fst (discharge_of_safetyView h n)
theorem vStart_of_safetyView (n : Nat) : (u.dc n).vStart = (s.dc n).vStart := congrArg Prod.snd (discharge_of_safetyView h n)

end

/-! ### The cases of the operations -/

section
variable (s : State) (n : Fin 4)

/-- A discharge that stops: `DISCH_ON` and `DISCH_STEP` read 0, and `DISCH_DONE` stands. -/
theorem State.dischStop_ended : (s.dischStop n).rdB (R.protThrStatus n) 7 = false ∧ ((s.dischStop n).dc n).disch = none ∧
    (s.dischStop n).dischStep n = 0 ∧ (s.dischStop n).rdB (R.protThrStatus n) 8 = s.rdB (R.protThrStatus n) 8 := by
  rw [State.dischStep, State.rdF_eq_view, State.rdB_eq_view, State.rdB_eq_view, State.disch_eq_view _ (R.protThrStatus n), State.dischStop_status]
  simp [bitOf_withField, bitOf_withBit, fieldOf_withBit, State.rdB_eq_view]

theorem State.dischAbort_written (h : (s.dc n).disch = some .write) : (s.dischAbort n).rdB (R.protThrStatus n) 7 = false ∧
    ((s.dischAbort n).dc n).disch = none ∧ (s.dischAbort n).dischStep n = 0 := by
  unfold State.dischAbort
  rw [h]
  dsimp only
  generalize (if s.vecState (2 * n) = 8 || (s.vecState (2 * n) == 5 && (s.vec (2 * n)).wind) then s.setVecState (2 * n) 0 else s) = y
  have hpost := (y.dischStop n).post_safetyView (a := R.protThrStatus n) 87 (0x600 + 16 * n + 8)
  obtain ⟨hon, hdisch, hstep, -⟩ := y.dischStop_ended n
  exact ⟨(rdB_of_safetyView hpost 7).trans hon, (disch_of_safetyView hpost n).trans hdisch, (rdF_of_safetyView hpost 6 4).trans hstep⟩

theorem State.dischAbort_other (h : (s.dc n).disch ≠ some .write) : s.dischAbort n = s := by
  unfold State.dischAbort
  split
  · exact absurd ‹_› h
  · rfl

/-- `DISCH_SAFE` of a discharge that is over. -/
theorem State.dischDone_over (h : s.dischOver n = true) : (s.dischDone n).rdB (R.protThrStatus n) 8 = true ∧
    (s.dischDone n).rdB (R.protThrStatus n) 7 = false ∧ ((s.dischDone n).dc n).disch = none ∧ (s.dischDone n).dischStep n = 0 := by
  have hvec (u : State) : (u.dischVecEnd n).safetyView (R.protThrStatus n) = u.safetyView (R.protThrStatus n) := by
    unfold State.dischVecEnd
    dsimp only
    split
    · rw [State.vecBoth_safetyView, State.setVecState_safetyView _ _ _ (ne_vecStatus (protThrStatus_high n) (by omega))]
    · rfl
  rw [State.dischDone, if_pos h]
  dsimp only
  set y := (s.raise (R.protThrStatus n) 8).dischVecEnd n with hy
  have hdone : y.rdB (R.protThrStatus n) 8 = true := by
    rw [hy, rdB_of_safetyView (hvec _), State.rdB, State.rd_raise, if_pos rfl, bitOf_withBit_same _ _ _ (by decide)]
  have hpost := (y.dischStop n).post_safetyView (a := R.protThrStatus n) 87 (0x600 + 16 * n + 9)
  obtain ⟨hon, hdisch, hstep, hkept⟩ := y.dischStop_ended n
  exact ⟨(rdB_of_safetyView hpost 8).trans (hkept.trans hdone), (rdB_of_safetyView hpost 7).trans hon, (disch_of_safetyView hpost n).trans hdisch,
    (rdF_of_safetyView hpost 6 4).trans hstep⟩

theorem State.dischDone_running (h : s.dischOver n = false) : s.dischDone n = s := if_neg (by simp [h])

/-- Without a discharge, or without an instant since which its link is low, none is over. -/
theorem State.dischOver_of_none (h : (s.dc n).disch = none ∨ (s.dc n).safeAt = none) : s.dischOver n = false := by
  rcases h with h | h <;> simp [State.dischOver, h]

theorem State.dischEnter_three_shows : (s.dischEnter n 3).dischStep n = 3 ∧ ((s.dischEnter n 3).dc n).vStart = (s.dcVal n).getD 0 ∧
    (s.dischEnter n 3).chopReq n = false := by
  rw [State.dischStep, State.chopReq, State.rdF_eq_view, State.rdB_eq_view, State.vStart_eq_view _ (R.protThrStatus n), State.dischEnter_three,
    State.dischBegun_status]
  simp [fieldOf_withBit]

theorem State.dischEnter_four_shows : (s.dischEnter n 4).dischStep n = 4 ∧ (s.dischEnter n 4).rdB (R.protThrStatus n) 9 = true := by
  rw [State.dischStep, State.rdF_eq_view, State.rdB_eq_view, State.dischEnter_four, State.dischBegun_status]
  simp [fieldOf_withBit]

theorem State.dischT1_passed (h2 : s.dischStep n = 2) (hdue : (s.dc n).stepAt + s.rdF (R.protThrDisch0 n) 15 0 * msec ≤ s.clk.now)
    (h : (s.dcVal n).getD 0 * 32768 ≤ (s.dc n).vStart * s.rdF (R.protThrDisch0 n) 31 16) : s.dischT1 n = s := by
  rw [State.dischT1, if_pos ⟨h2, hdue⟩, if_neg (not_lt.mpr h)]

theorem State.dischT1_failed (h2 : s.dischStep n = 2) (hdue : (s.dc n).stepAt + s.rdF (R.protThrDisch0 n) 15 0 * msec ≤ s.clk.now)
    (h : (s.dc n).vStart * s.rdF (R.protThrDisch0 n) 31 16 < (s.dcVal n).getD 0 * 32768)
    (hover : s.dischOver n = false) : s.dischT1 n = s.dischEnter n 3 := by
  rw [State.dischT1, if_pos ⟨h2, hdue⟩, if_pos h, State.dischFail, if_neg (by simp [hover])]

theorem State.dischT1_other (h : s.dischStep n ≠ 2) : s.dischT1 n = s := if_neg fun hdue => h hdue.1

theorem State.dischT2_passed (h3 : s.dischStep n = 3) (hdue : (s.dc n).stepAt + s.rdF (R.protThrDisch1 n) 15 0 * msec ≤ s.clk.now)
    (h : (s.dcVal n).getD 0 * 32768 ≤ (s.dc n).vStart * s.rdF (R.protThrDisch1 n) 31 16) : s.dischT2 n =
      s.setDc n { s.dc n with vStart := (s.dcVal n).getD 0, stepAt := (s.dc n).stepAt + s.rdF (R.protThrDisch1 n) 15 0 * msec } := by
  rw [State.dischT2, if_pos ⟨h3, hdue⟩]
  exact if_pos h

theorem State.dischT2_failed (h3 : s.dischStep n = 3) (hdue : (s.dc n).stepAt + s.rdF (R.protThrDisch1 n) 15 0 * msec ≤ s.clk.now)
    (h : (s.dc n).vStart * s.rdF (R.protThrDisch1 n) 31 16 < (s.dcVal n).getD 0 * 32768)
    (hover : s.dischOver n = false) : s.dischT2 n = s.dischEnter n 4 := by
  rw [State.dischT2, if_pos ⟨h3, hdue⟩]
  exact (if_neg (not_le.mpr h)).trans (if_neg (by simp [hover]))

theorem State.dischT2_other (h : s.dischStep n ≠ 3) : s.dischT2 n = s := if_neg fun hdue => h hdue.1

end

/-! ### The commands -/

section
variable {s : State} {t : Nat} {who : Initiator} {n : Fin 4}

/-- `PROT_n_DISCH_CTRL.START` where no discharge runs. -/
theorem exec_dischStart (hreach : (s.upTo t).reaches who (R.protThrDischCtrl n) 1#32 = true) (h : ((s.upTo t).dc n).disch = none) :
    ∃ u, exec (.dischStart t who n) s = .next u ∧ ({ s.upTo t with bus := .ok 0#64 } : State).pacedAs u ∧ u.rdB (R.protThrStatus n) 7 = true ∧
      (u.dc n).disch = some .write ∧ u.vecState (2 * n) = 8 ∧ u.dischStep n = if (s.upTo t).chopWorks n then 2 else 3 := by
  obtain ⟨hon, hby, hstep⟩ := (s.upTo t).dischStart_status n (by_ := .write) h
  obtain ⟨u, hu, hpaced, hview⟩ := State.run_safetyViewBus (f := fun x => x.busWord who (R.protThrDischCtrl n) 1#32)
    (z := (s.upTo t).dischStart n .write) (State.busWord_protThrDischCtrl _ who n _ hreach) (State.dischStart_sched ..) (State.dischStart_frame ..)
  have hstatus := hview _ (protThrStatus_force n)
  have hvec := hview _ (vecStatus_force ⟨2 * n, by omega⟩)
  exact ⟨u, hu, hpaced, (rdB_of_safetyView hstatus 7).trans hon, (disch_of_safetyView hstatus n).trans hby,
    (rdF_of_safetyView hvec 3 0).trans ((s.upTo t).dischStart_vecState n h), (rdF_of_safetyView hstatus 6 4).trans hstep⟩

/-- `PROT_n_DISCH_CTRL.ABORT` of a discharge that a write began. -/
theorem exec_dischAbort_written (hreach : (s.upTo t).reaches who (R.protThrDischCtrl n) 2#32 = true) (h : ((s.upTo t).dc n).disch = some .write) :
    ∃ u, exec (.dischAbort t who n) s = .next u ∧ ({ s.upTo t with bus := .ok 0#64 } : State).pacedAs u ∧ u.rdB (R.protThrStatus n) 7 = false ∧
      (u.dc n).disch = none ∧ u.dischStep n = 0 := by
  obtain ⟨hon, hdisch, hstep⟩ := (s.upTo t).dischAbort_written n h
  obtain ⟨u, hu, hpaced, hview⟩ := State.run_safetyViewBus (f := fun x => x.busWord who (R.protThrDischCtrl n) 2#32)
    (z := (s.upTo t).dischAbort n) (State.busWord_protThrDischCtrl _ who n _ hreach) (State.dischAbort_sched ..) (State.dischAbort_frame ..)
  have hstatus := hview _ (protThrStatus_force n)
  exact ⟨u, hu, hpaced, (rdB_of_safetyView hstatus 7).trans hon, (disch_of_safetyView hstatus n).trans hdisch,
    (rdF_of_safetyView hstatus 6 4).trans hstep⟩

/-- ... and of no discharge, or of one that a source or a force began. -/
theorem exec_dischAbort_other (hreach : (s.upTo t).reaches who (R.protThrDischCtrl n) 2#32 = true) (h : ((s.upTo t).dc n).disch ≠ some .write) :
    ∃ u, exec (.dischAbort t who n) s = .next u ∧ (s.upTo t).framed { s.upTo t with bus := .ok 0#64 } u [] := by
  have hctrl : (s.upTo t).dischCtrlWrite n 2#32 = s.upTo t := State.dischAbort_other _ n h
  refine State.run_same (f := fun x => x.busWord who (R.protThrDischCtrl n) 2#32) ?_ (s.upTo_pending t) (fun _ => rfl)
  rw [State.busWord_protThrDischCtrl _ who n _ hreach, hctrl]

/-- `DISCH_T1` with the voltage still above V_s × `DISCH_K1`. -/
theorem exec_dischT1_failed (h2 : (s.upTo t).dischStep n = 2)
    (hdue : ((s.upTo t).dc n).stepAt + (s.upTo t).rdF (R.protThrDisch0 n) 15 0 * msec ≤ (s.upTo t).clk.now)
    (h : ((s.upTo t).dc n).vStart * (s.upTo t).rdF (R.protThrDisch0 n) 31 16 < ((s.upTo t).dcVal n).getD 0 * 32768)
    (hover : (s.upTo t).dischOver n = false) :
    ∃ u, exec (.dischT1 t n) s = .next u ∧ (s.upTo t).pacedAs u ∧ u.dischStep n = 3 ∧ (u.dc n).vStart = ((s.upTo t).dcVal n).getD 0 ∧
      u.chopReq n = false := by
  obtain ⟨hstep, hv, hreq⟩ := (s.upTo t).dischEnter_three_shows n
  obtain ⟨u, hu, hpaced, hview⟩ := State.run_safetyView (f := fun x => x.dischT1 n) (State.dischT1_failed _ n h2 hdue h hover)
    (State.dischEnter_sched ..) (State.dischEnter_frame ..)
  have hstatus := hview _ (protThrStatus_force n)
  exact ⟨u, hu, hpaced, (rdF_of_safetyView hstatus 6 4).trans hstep, (vStart_of_safetyView hstatus n).trans hv,
    (rdB_of_safetyView hstatus 13).trans hreq⟩

/-- `DISCH_T2` with the voltage still above V_s × `DISCH_K2`. -/
theorem exec_dischT2_failed (h3 : (s.upTo t).dischStep n = 3)
    (hdue : ((s.upTo t).dc n).stepAt + (s.upTo t).rdF (R.protThrDisch1 n) 15 0 * msec ≤ (s.upTo t).clk.now)
    (h : ((s.upTo t).dc n).vStart * (s.upTo t).rdF (R.protThrDisch1 n) 31 16 < ((s.upTo t).dcVal n).getD 0 * 32768)
    (hover : (s.upTo t).dischOver n = false) :
    ∃ u, exec (.dischT2 t n) s = .next u ∧ (s.upTo t).pacedAs u ∧ u.dischStep n = 4 ∧ u.rdB (R.protThrStatus n) 9 = true := by
  obtain ⟨hstep, hflag⟩ := (s.upTo t).dischEnter_four_shows n
  obtain ⟨u, hu, hpaced, hview⟩ := State.run_safetyView (f := fun x => x.dischT2 n) (State.dischT2_failed _ n h3 hdue h hover)
    (State.dischEnter_sched ..) (State.dischEnter_frame ..)
  have hstatus := hview _ (protThrStatus_force n)
  exact ⟨u, hu, hpaced, (rdF_of_safetyView hstatus 6 4).trans hstep, (rdB_of_safetyView hstatus 9).trans hflag⟩

/-- `DISCH_SAFE` of a discharge that is over. -/
theorem exec_dischSafe_over (hover : (s.upTo t).dischOver n = true) :
    ∃ u, exec (.dischSafe t n) s = .next u ∧ (s.upTo t).pacedAs u ∧ u.rdB (R.protThrStatus n) 8 = true ∧ u.rdB (R.protThrStatus n) 7 = false ∧
      (u.dc n).disch = none ∧ u.dischStep n = 0 := by
  obtain ⟨hdone, hon, hdisch, hstep⟩ := (s.upTo t).dischDone_over n hover
  obtain ⟨u, hu, hpaced, hview⟩ := State.run_safetyView (f := fun x => x.dischDone n) (s := s) (t := t) rfl
    (State.dischDone_sched ..) (State.dischDone_frame ..)
  have hstatus := hview _ (protThrStatus_force n)
  exact ⟨u, hu, hpaced, (rdB_of_safetyView hstatus 8).trans hdone, (rdB_of_safetyView hstatus 7).trans hon,
    (disch_of_safetyView hstatus n).trans hdisch, (rdF_of_safetyView hstatus 6 4).trans hstep⟩

/-- A command whose effect leaves the state at its instant. -/
theorem State.run_idle {f : State → State} (h : f (s.upTo t) = s.upTo t) : ∃ u, s.run t f = .next u ∧ (s.upTo t).framed (s.upTo t) u [] :=
  State.run_same h (s.upTo_pending t) (fun _ => rfl)

/-- `DISCH_T2` with the voltage at or below V_s × `DISCH_K2`: the next interval begins. -/
theorem exec_dischT2_passed (h3 : (s.upTo t).dischStep n = 3)
    (hdue : ((s.upTo t).dc n).stepAt + (s.upTo t).rdF (R.protThrDisch1 n) 15 0 * msec ≤ (s.upTo t).clk.now)
    (h : ((s.upTo t).dcVal n).getD 0 * 32768 ≤ ((s.upTo t).dc n).vStart * (s.upTo t).rdF (R.protThrDisch1 n) 31 16) :
    ∃ u, exec (.dischT2 t n) s = .next u ∧ (s.upTo t).framed ((s.upTo t).setDc n { (s.upTo t).dc n with
      vStart := ((s.upTo t).dcVal n).getD 0, stepAt := ((s.upTo t).dc n).stepAt + (s.upTo t).rdF (R.protThrDisch1 n) 15 0 * msec }) u [] :=
  State.run_same (f := fun x => x.dischT2 n) (State.dischT2_passed _ n h3 hdue h) (s.upTo_pending t) (fun _ => State.setDc_rd ..)

end

end Sys2Proof.Machine
end

section
/-! The forces of the safety monitor (R308, R309, R311): what a force writes, what it leaves, and that a forced state is never weaker than the force asked
for. -/

namespace Sys2Proof.Machine

/-! ### Registers of the monitor -/

theorem offGates_of_monitor {a : Nat} (h : 0x44400000 ≤ a) (h' : a < 0x44500000) : offGates a := by unfold offGates; omega
theorem ne_protThrStatus_of_monitor {a n : Nat} (h : 0x44400000 ≤ a) (hn : n < 4) : a ≠ R.protThrStatus n := by unfold R.protThrStatus; omega
theorem smonTmStatus_force (n : Nat) : R.smonTmStatus n ∉ forceRegs := not_mem_forceRegs (by unfold R.smonTmStatus; omega)
theorem smonForce_ne {n m : Nat} (h : m ≠ n) : R.smonForce m ≠ R.smonForce n := by unfold R.smonForce; omega
theorem smonForce_low (n : Nat) : 0x44400000 ≤ R.smonForce n := by unfold R.smonForce; omega
theorem smonForce_high (n : Fin 4) : R.smonForce n < 0x44500000 := by unfold R.smonForce; omega

/-! ### Owners of the bridges (R146) -/

section
variable (s : State) (n : Nat) {a : Nat}

theorem State.vecBlock_safetyView (h : a ≠ R.vecStatus (2 * n)) : (s.vecBlock n).safetyView a = s.safetyView a := by
  simp [State.vecBlock, apply_ite (State.safetyView a), State.keepRaise_safetyView, State.setVecState_safetyView, h]

theorem State.vecAsc_safetyView (h : a ≠ R.vecStatus (2 * n)) : (s.vecAsc n).safetyView a = s.safetyView a := by
  simp [State.vecAsc, apply_ite (State.safetyView a), State.keepRaise_safetyView, State.setVecState_safetyView, h]

@[simp] theorem State.setSmon_safetyView (v : SmonSt) : (s.setSmon n v).safetyView a = s.safetyView a := (rfl)
@[simp] theorem State.tookFree_safetyView : s.tookFree.safetyView a = s.safetyView a := (rfl)

end

/-! ### What a force leaves -/

section
variable (s : State) (n : Fin 4)

theorem State.smonPresent_other (cause : Nat) {a : Nat} (h : a ≠ R.smonForce n) : (s.smonPresent n cause).safetyView a = s.safetyView a := by
  rw [State.smonPresent, State.wrB_safetyView _ _ _ h, State.setSmon_safetyView]

theorem State.smonAbsent_other (cause : Nat) {a : Nat} (h : a ≠ R.smonForce n) : (s.smonAbsent n cause).safetyView a = s.safetyView a := by
  simp [State.smonAbsent, apply_ite (State.safetyView a), State.wrB_safetyView, h]

/-- `ABSENT`'s bookkeeping leaves the forced state. -/
theorem State.forceOf_smonAbsent (cause m : Nat) : (s.smonAbsent n cause).forceOf m = s.forceOf m := by
  unfold State.smonAbsent
  dsimp only
  split
  · rfl
  · split
    · exact State.rdF_wrB_other _ _ _ false (by decide) (by decide)
    · rfl

theorem State.smonUnrelease_other {a : Nat} (h : a ≠ R.smonForce n) : (s.smonUnrelease n).safetyView a = s.safetyView a := by
  unfold State.smonUnrelease
  split
  · split
    · rw [State.raise_safetyView _ _ h, State.wrF_safetyView _ _ _ _ h, State.wrF_safetyView _ _ _ _ h, State.setSmon_safetyView]
    · rfl
  · rfl

/-- The state as a force is asked for: a release of this cycle taken back, and the cause present. -/
def State.smonAsked (s : State) (n cause : Nat) : State := (s.smonUnrelease n).smonPresent n cause

/-- The stronger force is written, with its cause where none was forced. -/
def State.smonWritten (s : State) (n state cause : Nat) : State :=
  let y := s.wrF (R.smonForce n) 31 30 state
  if s.forceOf n = 0 then
    (if cause % 16 = 11 then (y.wrF (R.smonForce n) 23 16 (fieldOf y.freshWord 7 0)).tookFree else y.wrF (R.smonForce n) 23 16 (cause % 16))
  else y

/-- The reaction of a force of a state. -/
def State.smonReact (s : State) (n state : Nat) : State :=
  match state with
  | 1 => s.reachBlock n 3
  | 2 => (s.vecAsc n).gfeForce n
  | _ => s.dischStart n .force

theorem State.smonForce_weaker {state cause : Nat} (h : state ≤ (s.smonAsked n cause).forceOf n) : s.smonForce n state cause = s.smonAsked n cause :=
  if_pos h

theorem State.smonForce_stronger {state cause : Nat} (h : ¬state ≤ (s.smonAsked n cause).forceOf n) : s.smonForce n state cause =
    ((((((s.smonAsked n cause).smonWritten n state cause).post 88 (16 * n + cause % 16)).pmuCause 2).recFireNow (0x070 + n)).smonReact n
      state).applyThread n := by
  rw [State.smonForce]
  exact if_neg h

theorem State.smonWritten_other (state cause : Nat) {a : Nat} (h : a ≠ R.smonForce n) :
    (s.smonWritten n state cause).safetyView a = s.safetyView a := by
  simp [State.smonWritten, apply_ite (State.safetyView a), State.wrF_safetyView, h]

/-- A free value taken leaves the forced state. -/
theorem State.forceOf_tookFree (m : Nat) : s.tookFree.forceOf m = s.forceOf m :=
  State.rdF_congr (rd_of_safetyView (State.tookFree_safetyView s)) 31 30

/-- `CAUSE` leaves the forced state. -/
theorem State.forceOf_wrF_cause (v : Nat) : (s.wrF (R.smonForce n) 23 16 v).forceOf n = s.forceOf n :=
  State.rdF_wrF_other _ _ _ v (by decide) (by decide) (by decide)

theorem State.forceOf_smonWritten {state cause : Nat} (h : state < 4) : (s.smonWritten n state cause).forceOf n = state := by
  have hstate : (s.wrF (R.smonForce n) 31 30 state).forceOf n = state :=
    (State.rdF_wrF_same _ _ _ (by decide) (by decide)).trans (Nat.mod_eq_of_lt h)
  unfold State.smonWritten
  dsimp only
  split
  · split
    · rw [State.forceOf_tookFree, State.forceOf_wrF_cause, hstate]
    · rw [State.forceOf_wrF_cause, hstate]
  · exact hstate

theorem State.smonReact_other (state : Nat) {a : Nat} (ha : 0x44400000 ≤ a) (ha' : a < 0x44500000) :
    ∃ d, (s.smonReact n state).safetyView a = (s.safetyView a).setDischarge n d := by
  have hvec : a ≠ R.vecStatus (2 * n) := ne_vecStatus (by omega) (by omega)
  have hgfe (y : State) : (y.gfeForce n).safetyView a = y.safetyView a :=
    y.gfeForce_safetyView n (ne_gfeStatus (by omega) n.isLt) (ne_gfeBlend (by omega) n.isLt)
  have hself : s.safetyView a = (s.safetyView a).setDischarge n ((s.safetyView a).discharge n) := (SafetyView.setDischarge_self ..).symm
  unfold State.smonReact
  split
  · refine ⟨_, Eq.trans ?_ hself⟩
    exact (hgfe _).trans (s.vecBlock_safetyView n hvec)
  · exact ⟨_, ((hgfe _).trans (s.vecAsc_safetyView n hvec)).trans hself⟩
  · exact s.dischStart_other n .force (offGates_of_monitor ha ha') (by omega) (ne_protThrStatus_of_monitor ha n.isLt)

/-- The state as the force reacts, in the view of a register of the monitor. -/
theorem State.smonForce_stronger_view {state cause : Nat} (h : ¬state ≤ (s.smonAsked n cause).forceOf n) {a : Nat} (ha : 0x44400000 ≤ a)
    (ha' : a < 0x44500000) :
    ∃ d, (s.smonForce n state cause).safetyView a = (((s.smonAsked n cause).smonWritten n state cause).safetyView a).setDischarge n d := by
  have hoff := offGates_of_monitor ha ha'
  obtain ⟨d, hd⟩ := State.smonReact_other (((((s.smonAsked n cause).smonWritten n state cause).post 88 (16 * n + cause % 16)).pmuCause 2).recFireNow
    (0x070 + n)) n state ha ha'
  rw [State.recFireNow_safetyView _ hoff, State.pmuCause_safetyView _ hoff, State.post_safetyView] at hd
  exact ⟨d, by rw [State.smonForce_stronger _ _ h, State.applyThread_safetyView _ hoff, hd]⟩

/-- A force leaves every other register of the monitor, and of the rest of the view all but the thread's discharge. -/
theorem State.smonForce_other (state cause : Nat) {a : Nat} (ha : 0x44400000 ≤ a) (ha' : a < 0x44500000) (hne : a ≠ R.smonForce n) :
    ∃ d, (s.smonForce n state cause).safetyView a = (s.safetyView a).setDischarge n d := by
  have hasked : (s.smonAsked n cause).safetyView a = s.safetyView a :=
    (State.smonPresent_other _ n cause hne).trans (s.smonUnrelease_other n hne)
  by_cases h : state ≤ (s.smonAsked n cause).forceOf n
  · exact ⟨(s.safetyView a).discharge n, by rw [State.smonForce_weaker _ _ h, hasked, SafetyView.setDischarge_self]⟩
  · obtain ⟨d, hd⟩ := s.smonForce_stronger_view n h ha ha'
    exact ⟨d, by rw [hd, State.smonWritten_other _ _ _ _ hne, hasked]⟩

theorem State.smonForce_rd (state cause : Nat) {a : Nat} (ha : 0x44400000 ≤ a) (ha' : a < 0x44500000) (hne : a ≠ R.smonForce n) :
    (s.smonForce n state cause).rd a = s.rd a := by
  obtain ⟨d, hd⟩ := s.smonForce_other n state cause ha ha' hne
  exact congrArg SafetyView.reg hd

theorem State.forceOf_smonForce_ne (state cause : Nat) {m : Fin 4} (h : m ≠ n) : (s.smonForce n state cause).forceOf m = s.forceOf m :=
  State.rdF_congr (s.smonForce_rd n state cause (smonForce_low m) (smonForce_high m) (smonForce_ne (Fin.val_ne_of_ne h))) 31 30

/-- The forced state is at least the one asked for (R308). -/
theorem State.le_forceOf_smonForce {state : Nat} (hs : state < 4) (cause : Nat) : state ≤ (s.smonForce n state cause).forceOf n := by
  by_cases h : state ≤ (s.smonAsked n cause).forceOf n
  · rwa [State.smonForce_weaker _ _ h]
  · obtain ⟨d, hd⟩ := s.smonForce_stronger_view n h (smonForce_low n) (smonForce_high n)
    have hrd : (s.smonForce n state cause).rd (R.smonForce n) = ((s.smonAsked n cause).smonWritten n state cause).rd (R.smonForce n) :=
      congrArg SafetyView.reg hd
    rw [State.forceOf, State.rdF_congr hrd]
    exact (State.forceOf_smonWritten _ n hs).ge

theorem State.forceOf_lt (m : Nat) : s.forceOf m < 4 := fieldOf_lt _ 31 30

end

end Sys2Proof.Machine
end

section
/-! The token watchdogs (R310): a service, a failure, and from these the next state of each command. -/

namespace Sys2Proof.Machine

theorem smonWdReact_low (p : Nat) : 0x44400000 ≤ R.smonWdReact p := by unfold R.smonWdReact; omega
theorem smonWdReact_high (p : Fin 5) : R.smonWdReact p < 0x44500000 := by unfold R.smonWdReact; omega
theorem smonWdReact_ne_smonForce (p : Fin 5) (n : Fin 4) : R.smonWdReact p ≠ R.smonForce n := by unfold R.smonWdReact R.smonForce; omega
theorem smonWdReact_force (p : Fin 5) : R.smonWdReact p ∉ forceRegs := not_mem_forceRegs (by unfold R.smonWdReact; omega)
theorem smonWd_force (p : Fin 5) : R.smonWd p ∉ forceRegs := not_mem_forceRegs (by unfold R.smonWd; omega)

section
variable (s : State)

theorem State.setWd_wd (p : Nat) (v : WdSt) : (s.setWd p v).wd p = v := by rw [State.wd, State.setWd_prot, tabGet_set_same]

/-! ### The forces of a failure -/

/-- Whether the reaction of pair `p` names thread `n`, and the variant has it. -/
def State.wdNames (s : State) (p n : Nat) : Bool := s.rdB (R.smonWdReact p) n && s.threadHere n

/-- The force of one thread by a failure of pair `p`. -/
def State.wdForce (s : State) (p cause n : Nat) : State := if s.wdNames p n then s.smonForce n 1 (16 * p + cause) else s

/-- A failure counted, before the threads are blocked. -/
def State.wdFailed (s : State) (p cause : Nat) : State := (s.raise (R.smonWdReact p) 8).post 88 (0x300 + 16 * p + cause)

theorem State.wdFail_eq (p cause : Nat) : s.wdFail p cause =
    if (s.wdFailed p cause).rdB (R.smonWdReact p) 4 then
      ([0, 1, 2, 3] : List (Fin 4)).foldl (fun y n => y.wdForce p cause n) (s.wdFailed p cause)
    else s.wdFailed p cause := by
  unfold State.wdFail State.wdFailed
  rfl

section
variable (p : Fin 5) (cause : Nat) (n : Fin 4)

theorem State.wdForce_other {a : Nat} (ha : 0x44400000 ≤ a) (ha' : a < 0x44500000) (hne : a ≠ R.smonForce n) :
    ∃ d, (s.wdForce p cause n).safetyView a = (s.safetyView a).setDischarge n d := by
  unfold State.wdForce
  split
  · exact s.smonForce_other n 1 _ ha ha' hne
  · exact ⟨(s.safetyView a).discharge n, (SafetyView.setDischarge_self ..).symm⟩

theorem State.wdForce_rd {a : Nat} (ha : 0x44400000 ≤ a) (ha' : a < 0x44500000) (hne : a ≠ R.smonForce n) : (s.wdForce p cause n).rd a = s.rd a := by
  obtain ⟨d, hd⟩ := s.wdForce_other p cause n ha ha' hne
  exact congrArg SafetyView.reg hd

theorem State.wdForce_wds : (s.wdForce p cause n).prot.wds = s.prot.wds := by
  obtain ⟨d, hd⟩ := s.wdForce_other p cause n (smonWdReact_low p) (smonWdReact_high p) (smonWdReact_ne_smonForce p n)
  exact congrArg SafetyView.wds hd

/-- The threads that a reaction names are the same after a force. -/
theorem State.wdForce_wdNames (m : Nat) : (s.wdForce p cause n).wdNames p m = s.wdNames p m := by
  have hdev : (s.wdForce p cause n).dev = s.dev := by
    unfold State.wdForce
    split
    · exact congrArg Frame.dev (State.smonForce_frame ..)
    · rfl
  have hreact := s.wdForce_rd p cause n (smonWdReact_low p) (smonWdReact_high p) (smonWdReact_ne_smonForce p n)
  rw [State.wdNames, State.wdNames, State.rdB_congr hreact, State.threadHere, State.threadHere, hdev]

theorem State.forceOf_wdForce_named (h : s.wdNames p n = true) : (s.wdForce p cause n).forceOf n ≠ 0 := by
  rw [State.wdForce, if_pos h]
  exact Nat.one_le_iff_ne_zero.mp (s.le_forceOf_smonForce n (by decide) _)

/-- A forced thread stays forced while others are forced. -/
theorem State.forceOf_wdForce_forced {m : Fin 4} (h : s.forceOf m ≠ 0) : (s.wdForce p cause n).forceOf m ≠ 0 := by
  by_cases hname : s.wdNames p n = true
  · by_cases hm : m = n
    · exact hm ▸ s.forceOf_wdForce_named p cause n hname
    · rwa [State.wdForce, if_pos hname, State.forceOf_smonForce_ne _ _ _ _ hm]
  · rwa [State.wdForce, if_neg hname]

end

/-! ### A failure -/

section
variable (p : Fin 5) (cause : Nat) (ns : List (Fin 4))

theorem State.wdForces_rd {a : Nat} (ha : 0x44400000 ≤ a) (ha' : a < 0x44500000) (hne : ∀ n : Fin 4, a ≠ R.smonForce n) :
    (ns.foldl (fun y n => y.wdForce p cause n) s).rd a = s.rd a := by
  induction ns generalizing s with
  | nil => rfl
  | cons n ns ih => rw [List.foldl_cons, ih, s.wdForce_rd p cause n ha ha' (hne n)]

theorem State.wdForces_wds : (ns.foldl (fun y n => y.wdForce p cause n) s).prot.wds = s.prot.wds := by
  induction ns generalizing s with
  | nil => rfl
  | cons n ns ih => rw [List.foldl_cons, ih, s.wdForce_wds]

theorem State.forceOf_wdForces_forced {m : Fin 4} (h : s.forceOf m ≠ 0) : (ns.foldl (fun y n => y.wdForce p cause n) s).forceOf m ≠ 0 := by
  induction ns generalizing s with
  | nil => exact h
  | cons n ns ih => exact ih _ (s.forceOf_wdForce_forced p cause n h)

theorem State.forceOf_wdForces {m : Fin 4} (hm : m ∈ ns) (h : s.wdNames p m = true) : (ns.foldl (fun y n => y.wdForce p cause n) s).forceOf m ≠ 0 := by
  induction ns generalizing s with
  | nil => cases hm
  | cons n ns ih =>
    rcases List.mem_cons.mp hm with rfl | hm
    · exact State.forceOf_wdForces_forced _ p cause ns (s.forceOf_wdForce_named p cause m h)
    · exact ih _ hm ((s.wdForce_wdNames p cause n m).trans h)

theorem State.wdFailed_react : (s.wdFailed p cause).rd (R.smonWdReact p) = withBit (s.rd (R.smonWdReact p)) 8 true := by
  rw [State.wdFailed, State.post_rd, State.rd_raise, if_pos rfl]

theorem State.wdFailed_other {a : Nat} (h : a ≠ R.smonWdReact p) : (s.wdFailed p cause).safetyView a = s.safetyView a := by
  rw [State.wdFailed, State.post_safetyView, State.raise_safetyView _ _ h]

theorem State.wdFailed_frame : (s.wdFailed p cause).frame = s.frame := by rw [State.wdFailed, State.post_frame, State.raise_frame]

/-- A failure leaves, of the registers of the monitor, all but the forces and its own reaction. -/
theorem State.wdFail_rd {a : Nat} (ha : 0x44400000 ≤ a) (ha' : a < 0x44500000) (hne : ∀ n : Fin 4, a ≠ R.smonForce n) :
    (s.wdFail p cause).rd a = (s.wdFailed p cause).rd a := by
  rw [State.wdFail_eq]
  split
  · exact State.wdForces_rd _ p cause _ ha ha' hne
  · rfl

theorem State.wdFail_flag : (s.wdFail p cause).rdB (R.smonWdReact p) 8 = true := by
  rw [State.rdB, State.wdFail_rd _ _ _ (smonWdReact_low p) (smonWdReact_high p) (smonWdReact_ne_smonForce p), State.wdFailed_react,
    bitOf_withBit_same _ _ _ (by decide)]

theorem State.wdFail_wd (q : Nat) : (s.wdFail p cause).wd q = s.wd q := by
  have hforced : (s.wdFail p cause).prot.wds = (s.wdFailed p cause).prot.wds := by
    rw [State.wdFail_eq]
    split
    · exact State.wdForces_wds ..
    · rfl
  have hfailed : (s.wdFailed p cause).wd q = s.wd q :=
    wd_of_safetyView (s.wdFailed_other p cause (smonWdReact_ne_smonForce p 0).symm) q
  rw [← hfailed, State.wd, State.wd, hforced]

/-- With its reaction on, a failure blocks the threads that it names. -/
theorem State.forceOf_wdFail (hon : s.rdB (R.smonWdReact p) 4 = true) {n : Fin 4} (h : s.wdNames p n = true) : (s.wdFail p cause).forceOf n ≠ 0 := by
  have hbit (i : Nat) (hi : i ≠ 8) : (s.wdFailed p cause).rdB (R.smonWdReact p) i = s.rdB (R.smonWdReact p) i := by
    rw [State.rdB, State.wdFailed_react, bitOf_withBit _ _ _ _ (by decide), if_neg hi]
    rfl
  have hdev : (s.wdFailed p cause).dev = s.dev := congrArg Frame.dev (s.wdFailed_frame p cause)
  have hnames : (s.wdFailed p cause).wdNames p n = true := by
    rw [← h, State.wdNames, State.wdNames, hbit _ (by omega), State.threadHere, State.threadHere, hdev]
  rw [State.wdFail_eq, if_pos ((hbit 4 (by decide)).trans hon)]
  exact State.forceOf_wdForces _ p cause _ (List.mem_finRange n) hnames

end

/-! ### A service -/

section
variable (p : Fin 5)

theorem State.wdCured_safetyView (q cause : Nat) {a : Nat} (h : ∀ n : Fin 4, a ≠ R.smonForce n) : (s.wdCured q cause).safetyView a = s.safetyView a := by
  refine each_safetyView _ _ _ fun y n hn => ?_
  have hn4 : n < 4 := by simp at hn; omega
  exact y.smonAbsent_other ⟨n, hn4⟩ _ (h ⟨n, hn4⟩)

/-- A service of the pair in time: a new token is drawn. -/
def State.wdServed (s : State) (p : Nat) : State := (s.wdDraw p).wdCured p 8

/-- A wrong service or none: the time begins again, and the pair has failed. -/
def State.wdMissed (s : State) (p : Nat) : State := (s.setWd p ⟨(s.wd p).draws, s.clk.now⟩).wdFail p 8

/-- Whether `w` is the complement of the pair's token, within its window. -/
def State.wdRight (s : State) (p : Nat) (w : Word) : Prop :=
  fieldOf w 15 0 = 65535 - s.rdF (R.smonWd p) 15 0 ∧ s.rdF (R.smonWdCfg p) 15 0 * usec ≤ s.clk.now - (s.wd p).at_ ∧
    s.clk.now - (s.wd p).at_ ≤ s.rdF (R.smonWdCfg p) 31 16 * usec

section
variable {s : State} {p : Fin 5} {w : Word} (hmax : s.rdF (R.smonWdCfg p) 31 16 ≠ 0)
include hmax

theorem State.wdService_right (h : s.wdRight p w) : s.wdService (some (.core p)) p w = s.wdServed p := by
  obtain ⟨hw, hlow, hhigh⟩ := h
  simp [State.wdService, hmax, hw, hlow, hhigh, State.wdServed]

theorem State.wdService_wrong (h : ¬s.wdRight p w) : s.wdService (some (.core p)) p w = s.wdMissed p := by
  have hwrong : ¬(decide (fieldOf w 15 0 = 65535 - s.rdF (R.smonWd p) 15 0) = true ∧ s.rdF (R.smonWdCfg p) 15 0 * usec ≤ s.clk.now - (s.wd p).at_ ∧
      s.clk.now - (s.wd p).at_ ≤ s.rdF (R.smonWdCfg p) 31 16 * usec) := by
    rwa [decide_eq_true_iff]
  unfold State.wdService
  dsimp only
  rw [if_neg (by simp [hmax]), if_neg hwrong, State.wdMissed]

theorem State.wdTimeout_due (h : (s.wd p).at_ + s.rdF (R.smonWdCfg p) 31 16 * usec < s.clk.now) : s.wdTimeout p = s.wdMissed p :=
  if_pos ⟨hmax, h⟩

end

/-- A write of anyone else is no service. -/
theorem State.wdService_stranger {s : State} {p : Fin 5} {who : Initiator} {w : Word} (h : who ≠ .core p) : s.wdService (some who) p w = s := by
  refine if_pos (.inr ?_)
  cases who with
  | core q =>
    have hq : q.val ≠ p.val := fun e => h (congrArg Initiator.core (Fin.ext e))
    simp [hq]
  | _ => rfl

theorem State.wdTimeout_early {s : State} {p : Fin 5} (h : s.clk.now ≤ (s.wd p).at_ + s.rdF (R.smonWdCfg p) 31 16 * usec) : s.wdTimeout p = s :=
  if_neg fun hdue => absurd hdue.2 (not_lt.mpr h)

/-! ### What a service leaves -/

section
variable (s : State) (p : Fin 5)

theorem smonWd_ne_smonForce (n : Fin 4) : R.smonWd p ≠ R.smonForce n := by unfold R.smonWd R.smonForce; omega

theorem State.wdDraw_wd : (s.wdDraw p).wd p = ⟨(s.wd p).draws + 1, s.clk.now⟩ := State.setWd_wd ..

theorem State.wdServed_token : (s.wdServed p).rd (R.smonWd p) = wordN (Config.wdToken (5 * (s.wd p).draws + p)).toNat := by
  rw [State.wdServed, rd_of_safetyView (State.wdCured_safetyView _ _ _ (smonWd_ne_smonForce p)), State.wdDraw, State.rd_wr_same]

theorem State.wdServed_wd : (s.wdServed p).wd p = ⟨(s.wd p).draws + 1, s.clk.now⟩ :=
  (wd_of_safetyView (State.wdCured_safetyView _ _ _ (smonWd_ne_smonForce p)) p).trans (s.wdDraw_wd p)

theorem State.wdServed_react : (s.wdServed p).rd (R.smonWdReact p) = s.rd (R.smonWdReact p) := by
  rw [State.wdServed, rd_of_safetyView (State.wdCured_safetyView _ _ _ (smonWdReact_ne_smonForce p)), State.wdDraw,
    State.rd_wr_ne _ _ _ _ (by unfold R.smonWdReact R.smonWd; omega), State.setWd_rd]

theorem State.wdMissed_flag : (s.wdMissed p).rdB (R.smonWdReact p) 8 = true := State.wdFail_flag ..

theorem State.wdMissed_wd : (s.wdMissed p).wd p = ⟨(s.wd p).draws, s.clk.now⟩ := (State.wdFail_wd _ p 8 p).trans (State.setWd_wd ..)

theorem State.forceOf_wdMissed (hon : s.rdB (R.smonWdReact p) 4 = true) {n : Fin 4} (hname : s.rdB (R.smonWdReact p) n = true)
    (hhere : s.threadHere n = true) : (s.wdMissed p).forceOf n ≠ 0 := by
  have hbit (i : Nat) : (s.setWd p ⟨(s.wd p).draws, s.clk.now⟩).rdB (R.smonWdReact p) i = s.rdB (R.smonWdReact p) i :=
    State.rdB_congr (State.setWd_rd ..) i
  refine State.forceOf_wdFail _ p 8 ((hbit 4).trans hon) ?_
  rw [State.wdNames, hbit, hname, Bool.true_and]
  exact hhere

theorem State.wdMissed_token : (s.wdMissed p).rd (R.smonWd p) = s.rd (R.smonWd p) := by
  rw [State.wdMissed, State.wdFail_rd _ _ _ (by unfold R.smonWd; omega) (by unfold R.smonWd; omega) (smonWd_ne_smonForce p),
    rd_of_safetyView (State.wdFailed_other _ p 8 (by unfold R.smonWdReact R.smonWd; omega)), State.setWd_rd]

theorem State.wdServed_sched : (s.wdServed p).sched = s.sched := by rw [State.wdServed, State.wdCured_sched, State.wdDraw_sched]
theorem State.wdServed_frame : (s.wdServed p).frame = s.frame := by rw [State.wdServed, State.wdCured_frame, State.wdDraw_frame]
theorem State.wdMissed_sched : (s.wdMissed p).sched = s.sched := by rw [State.wdMissed, State.wdFail_sched, State.setWd_sched]
theorem State.wdMissed_frame : (s.wdMissed p).frame = s.frame := by rw [State.wdMissed, State.wdFail_frame, State.setWd_frame]

end

/-! ### The commands -/

/-- `u` shows a failure of pair `p` from `x` (R310): counted, the time begun again, and each thread that its reaction names forced. -/
def State.wdShowsFailed (x : State) (p : Fin 5) (u : State) : Prop :=
  u.rdB (R.smonWdReact p) 8 = true ∧ u.wd p = ⟨(x.wd p).draws, x.clk.now⟩ ∧
    (x.rdB (R.smonWdReact p) 4 = true → ∀ n : Fin 4, x.rdB (R.smonWdReact p) n = true → x.threadHere n = true → u.forceOf n ≠ 0)

/-- The next state after a failure shows it. -/
theorem State.wdShowsFailed_of_view {x u : State} {p : Fin 5} (h : ∀ a, a ∉ forceRegs → u.safetyView a = (x.wdMissed p).safetyView a) :
    x.wdShowsFailed p u := by
  have hreact := h _ (smonWdReact_force p)
  refine ⟨(rdB_of_safetyView hreact 8).trans (x.wdMissed_flag p), (wd_of_safetyView hreact p).trans (x.wdMissed_wd p), fun hon n hname hhere => ?_⟩
  have hforce : u.forceOf n = (x.wdMissed p).forceOf n := rdF_of_safetyView (h _ (smonForce_notForce n)) 31 30
  exact hforce ▸ x.forceOf_wdMissed p hon hname hhere

section
variable {s : State} {t : Nat} {who : Initiator} {p : Fin 5} {v : BitVec 16}

section
variable (hreach : (s.upTo t).reaches (.core p) (R.smonWd p) (v.setWidth 32) = true) (hmax : (s.upTo t).rdF (R.smonWdCfg p) 31 16 ≠ 0)
include hreach hmax

/-- The complement of the token, written by the pair within its window. -/
theorem exec_watchdogService_right (h : (s.upTo t).wdRight p (v.setWidth 32)) :
    ∃ u, exec (.watchdogService t (.core p) p v) s = .next u ∧ ({ s.upTo t with bus := .ok 0#64 } : State).pacedAs u ∧
      u.rd (R.smonWd p) = wordN (Config.wdToken (5 * ((s.upTo t).wd p).draws + p)).toNat ∧
      u.wd p = ⟨((s.upTo t).wd p).draws + 1, (s.upTo t).clk.now⟩ ∧ u.rd (R.smonWdReact p) = (s.upTo t).rd (R.smonWdReact p) := by
  obtain ⟨u, hu, hpaced, hview⟩ := State.run_safetyViewBus (f := fun x => x.busWord (.core p) (R.smonWd p) (v.setWidth 32))
    (z := (s.upTo t).wdServed p) ((State.busWord_smonWd _ _ p _ hreach).trans (by rw [State.wdService_right hmax h]))
    (State.wdServed_sched ..) (State.wdServed_frame ..)
  have htoken := hview _ (smonWd_force p)
  exact ⟨u, hu, hpaced, (rd_of_safetyView htoken).trans ((s.upTo t).wdServed_token p), (wd_of_safetyView htoken p).trans ((s.upTo t).wdServed_wd p),
    (rd_of_safetyView (hview _ (smonWdReact_force p))).trans ((s.upTo t).wdServed_react p)⟩

/-- Another word, or one outside the window, written by the pair. -/
theorem exec_watchdogService_wrong (h : ¬(s.upTo t).wdRight p (v.setWidth 32)) :
    ∃ u, exec (.watchdogService t (.core p) p v) s = .next u ∧ ({ s.upTo t with bus := .ok 0#64 } : State).pacedAs u ∧
      (s.upTo t).wdShowsFailed p u ∧ u.rd (R.smonWd p) = (s.upTo t).rd (R.smonWd p) := by
  obtain ⟨u, hu, hpaced, hview⟩ := State.run_safetyViewBus (f := fun x => x.busWord (.core p) (R.smonWd p) (v.setWidth 32))
    (z := (s.upTo t).wdMissed p) ((State.busWord_smonWd _ _ p _ hreach).trans (by rw [State.wdService_wrong hmax h]))
    (State.wdMissed_sched ..) (State.wdMissed_frame ..)
  exact ⟨u, hu, hpaced, State.wdShowsFailed_of_view hview,
    (rd_of_safetyView (hview _ (smonWd_force p))).trans ((s.upTo t).wdMissed_token p)⟩

end

theorem exec_watchdogService_stranger (hreach : (s.upTo t).reaches who (R.smonWd p) (v.setWidth 32) = true) (h : who ≠ .core p) :
    ∃ u, exec (.watchdogService t who p v) s = .next u ∧ (s.upTo t).framed { s.upTo t with bus := .ok 0#64 } u [] := by
  refine State.run_same (f := fun x => x.busWord who (R.smonWd p) (v.setWidth 32)) ?_ (s.upTo_pending t) (fun _ => rfl)
  rw [State.busWord_smonWd _ who p _ hreach, State.wdService_stranger h]

theorem exec_watchdogTimeout_due (hmax : (s.upTo t).rdF (R.smonWdCfg p) 31 16 ≠ 0)
    (h : ((s.upTo t).wd p).at_ + (s.upTo t).rdF (R.smonWdCfg p) 31 16 * usec < (s.upTo t).clk.now) :
    ∃ u, exec (.watchdogTimeout t p) s = .next u ∧ (s.upTo t).pacedAs u ∧ (s.upTo t).wdShowsFailed p u := by
  obtain ⟨u, hu, hpaced, hview⟩ := State.run_safetyView (f := fun x => x.wdTimeout p) (State.wdTimeout_due hmax h)
    (State.wdMissed_sched ..) (State.wdMissed_frame ..)
  exact ⟨u, hu, hpaced, State.wdShowsFailed_of_view hview⟩

end

/-- The word of a service carries its 16 bits in its low half. -/
theorem fieldOf_setWidth_service (v : BitVec 16) : fieldOf (v.setWidth 32) 15 0 = v.toNat := by
  have hv := v.isLt
  simp only [fieldOf, natBits, BitVec.toNat_setWidth]
  omega

/-- Settles O30: of a watchdog, the next state of a service in time, of another and of a timeout; of a discharge, that of each command. -/
theorem watchdogsAndDischarge : Obligations.WatchdogsAndDischarge := by
  unfold Obligations.WatchdogsAndDischarge
  refine ⟨fun t who p v s => ?_, fun t who n s => ?_⟩
  · intro x rc max_ min_ since right failed own hmax
    have hright : x.wdRight p (v.setWidth 32) ↔ right := by rw [State.wdRight, fieldOf_setWidth_service]
    have hown (h : own) : who = .core p := by
      obtain ⟨q, hwho, hq⟩ := h
      rw [hwho, Fin.ext hq]
    refine ⟨fun hreach => ⟨fun ho hr => ?_, fun ho hr => ?_, fun ho => ?_⟩, fun hearly => ?_, fun hdue => ?_⟩
    · obtain rfl := hown ho
      exact exec_watchdogService_right hreach hmax (hright.mpr hr)
    · obtain rfl := hown ho
      exact exec_watchdogService_wrong hreach hmax (mt hright.mp hr)
    · exact exec_watchdogService_stranger hreach fun h => ho ⟨p, h, rfl⟩
    · exact State.run_idle (f := fun y => y.wdTimeout p) (State.wdTimeout_early hearly)
    · exact exec_watchdogTimeout_due hmax hdue
  · intro x d st v
    refine ⟨exec_dischStart, fun hreach => ⟨exec_dischAbort_written hreach, exec_dischAbort_other hreach⟩, fun h2 hdue => ⟨fun h => ?_, fun h hover => ?_⟩,
      fun h3 hdue => ⟨fun h => ?_, fun h hover => ?_⟩, fun h => ?_, fun h => ?_, exec_dischSafe_over, fun h => ?_⟩
    · exact State.run_idle (f := fun y => y.dischT1 n) (State.dischT1_passed _ n h2 hdue h)
    · exact exec_dischT1_failed h2 hdue h hover
    · exact exec_dischT2_passed h3 hdue h
    · exact exec_dischT2_failed h3 hdue h hover
    · exact State.run_idle (f := fun y => y.dischT1 n) (State.dischT1_other _ n h)
    · exact State.run_idle (f := fun y => y.dischT2 n) (State.dischT2_other _ n h)
    · exact State.run_idle (f := fun y => y.dischDone n) (State.dischDone_running _ n (State.dischOver_of_none _ n h))

end

end

end Sys2Proof.Machine
end

section
/-! STO (R305-R307): what the inputs, a discrepancy and an internal cause leave in `PROT_STATUS`, among the hold-off causes and of the engines. -/

namespace Sys2Proof.Machine

theorem offGates_protStatus : offGates R.protStatus := .inr (.inl rfl)
theorem protStatus_force : R.protStatus ∉ forceRegs := not_mem_forceRegs (by decide)
theorem offGates_gfeStatus (n : Fin 4) : offGates (R.gfeStatus n) := .inl (by unfold R.gfeStatus; omega)

/-- Each cause of hold-off that holds is one of the four. -/
theorem State.anyHold_of_held {s : State} {c : Nat} (hc : c ∈ [1, 2, 3, 4]) (h : s.held c = true) : s.anyHold = true := by
  unfold State.anyHold
  simp only [List.mem_cons, List.not_mem_nil, or_false] at hc
  rcases hc with rfl | rfl | rfl | rfl <;> simp [h]

section
variable (s : State)

theorem State.held_hold (c : Nat) (b : Bool) : (s.hold c b).held c = b := by
  have hholds : (s.hold c b).holds = tabSet (fun _ => false) s.holds c b :=
    congrArg SafetyView.holds (s.hold_safetyView offGates_protStatus c b)
  rw [State.held, hholds, tabGet_set_same]

theorem anyHold_of_safetyView {s u : State} {a : Nat} (h : u.safetyView a = s.safetyView a) : u.anyHold = s.anyHold := by
  simp only [State.anyHold, State.held, holds_of_safetyView h]

/-! ### Owners of the bridges (R305) -/

theorem State.ownersOff_safetyView {a : Nat} (ha : 0x44000000 ≤ a) : s.ownersOff.safetyView a = s.safetyView a := by
  unfold State.ownersOff
  have hengine (y : State) (n : Nat) (hn : n ∈ [0, 1, 2, 3]) : (y.gfeForce n).safetyView a = y.safetyView a := by
    have hn4 : n < 4 := by simp at hn; omega
    exact y.gfeForce_safetyView n (ne_gfeStatus ha hn4) (ne_gfeBlend ha hn4)
  rw [each_safetyView _ _ _ hengine]
  refine each_safetyView s _ _ fun y u hu => ?_
  split
  · rfl
  · exact y.setVecState_safetyView u 0 (ne_vecStatus ha (List.mem_range.mp hu))

section
variable (n : Fin 4)

/-- An engine goes to `OFF` (R164). -/
theorem State.gfeState_gfeForce : (s.gfeForce n).gfeState n = 0 := by
  have hblend : R.gfeStatus n ≠ R.gfeBlend n := by unfold R.gfeStatus R.gfeBlend; omega
  unfold State.gfeForce
  split
  · assumption
  · next h =>
    have hoff : (s.gfeOff n).rd (R.gfeStatus n) = withBit (withField (s.rd (R.gfeStatus n)) 1 0 0) 11 false := by
      rw [State.gfeOff, if_neg h]
      dsimp only
      rw [State.gfeBoth_rd, State.keepField_rd, State.keepField_rd, State.keepField_rd, State.rd_wrF, if_neg hblend,
        State.rd_wrB, if_pos rfl, State.gfeEnter, State.post_rd, State.rd_wrF, if_pos rfl]
    have hforced : ((s.gfeOff n).keepRaise n (R.gfeStatus n) 17).rd (R.gfeStatus n) = withBit ((s.gfeOff n).rd (R.gfeStatus n)) 17 true := by
      rw [State.keepRaise, State.keepField_rd, State.rd_raise, if_pos rfl]
    rw [State.gfeState, State.rdF, hforced, hoff]
    simp [fieldOf_withBit]

theorem State.gfeState_gfeForce_ne {m : Fin 4} (h : m ≠ n) : (s.gfeForce n).gfeState m = s.gfeState m := by
  have hne : m.val ≠ n.val := Fin.val_ne_of_ne h
  exact rdF_of_safetyView (s.gfeForce_safetyView n (by unfold R.gfeStatus; omega) (by unfold R.gfeStatus R.gfeBlend; omega)) 1 0

theorem State.gfeState_gfeForces_off (ns : List (Fin 4)) (h : s.gfeState n = 0) :
    (ns.foldl (fun y (m : Fin 4) => y.gfeForce m) s).gfeState n = 0 := by
  induction ns generalizing s with
  | nil => exact h
  | cons m ns ih =>
    refine ih _ ?_
    by_cases hm : n = m
    · exact hm ▸ s.gfeState_gfeForce n
    · exact (s.gfeState_gfeForce_ne m hm).trans h

theorem State.gfeState_gfeForces (ns : List (Fin 4)) (hn : n ∈ ns) : (ns.foldl (fun y (m : Fin 4) => y.gfeForce m) s).gfeState n = 0 := by
  induction ns generalizing s with
  | nil => cases hn
  | cons m ns ih =>
    rcases List.mem_cons.mp hn with rfl | hn
    · exact State.gfeState_gfeForces_off _ _ ns (s.gfeState_gfeForce n)
    · exact ih _ hn

theorem State.gfeState_ownersOff : s.ownersOff.gfeState n = 0 :=
  State.gfeState_gfeForces (s.each (List.range 8) fun y u => if y.vecState u = 0 then y else y.setVecState u 0) n [0, 1, 2, 3] (List.mem_finRange n)

end

/-! ### The demand for STO (R305, R306) -/

/-- Every bridge's pulses are taken, by hold-off cause `c`. -/
def State.pulsesOff (s : State) (c : Nat) : State := s.ownersOff.auxSto.hold c true

theorem State.pulsesOff_safetyView (c : Nat) {a : Nat} (ha : offGates a) (hlow : 0x44000000 ≤ a) :
    (s.pulsesOff c).safetyView a = { s.safetyView a with holds := tabSet (fun _ => false) s.holds c true } := by
  have howners := s.ownersOff_safetyView hlow
  have hholds : s.ownersOff.auxSto.holds = s.holds := holds_of_safetyView ((State.auxSto_safetyView _ ha).trans howners)
  rw [State.pulsesOff, State.hold_safetyView _ ha, hholds, State.auxSto_safetyView _ ha, howners]

theorem State.pulsesOff_held (c : Nat) : (s.pulsesOff c).held c = true := State.held_hold ..

theorem State.gfeState_pulsesOff (c : Nat) (n : Fin 4) : (s.pulsesOff c).gfeState n = 0 := by
  have ha := offGates_gfeStatus n
  have hrd : (s.pulsesOff c).rd (R.gfeStatus n) = s.ownersOff.rd (R.gfeStatus n) := by
    have hhold := congrArg SafetyView.reg (s.ownersOff.auxSto.hold_safetyView ha c true)
    exact hhold.trans (rd_of_safetyView (s.ownersOff.auxSto_safetyView ha))
  exact (State.rdF_congr hrd 1 0).trans (s.gfeState_ownersOff n)

/-- `STO` as it comes on. -/
def State.stoOn (s : State) : State :=
  ((((s.wrB R.protStatus 31 true).post 87 0x300).noteFirst 0x300).pulsesOff 1).recFireNow 0x0F0

/-- `STO` as it ends: the pulses are released where no internal cause holds them. -/
def State.stoOff (s : State) : State :=
  let y := (s.wrB R.protStatus 31 false).post 87 0x310
  if tabGet (fun _ => false) y.prot.intSto 3 || tabGet (fun _ => false) y.prot.intSto 4 then y else y.hold 1 false

theorem State.stoEval_same (h : s.stoDemand = s.rdB R.protStatus 31) : s.stoEval = s := if_pos h

theorem State.stoEval_on (h : s.rdB R.protStatus 31 = false) (hd : s.stoDemand = true) : s.stoEval = s.stoOn := by
  unfold State.stoEval
  rw [h, hd]
  rfl

theorem State.stoEval_off (h : s.rdB R.protStatus 31 = true) (hd : s.stoDemand = false) : s.stoEval = s.stoOff := by
  unfold State.stoEval
  rw [h, hd]
  rfl

theorem State.stoOn_view : ∃ hs, s.stoOn.safetyView R.protStatus = { (s.safetyView R.protStatus).setBit 31 true with holds := hs } := by
  have ha := offGates_protStatus
  exact ⟨_, by rw [State.stoOn, State.recFireNow_safetyView _ ha, State.pulsesOff_safetyView _ _ ha (by decide), State.noteFirst_safetyView _ ha,
    State.post_safetyView, State.wrB_safetyView_same]⟩

theorem State.stoOn_anyHold : s.stoOn.anyHold = true := by
  rw [State.stoOn, anyHold_of_safetyView (State.recFireNow_safetyView _ offGates_protStatus _)]
  exact State.anyHold_of_held (by decide) (State.pulsesOff_held _ 1)

theorem State.stoOff_view : ∃ hs, s.stoOff.safetyView R.protStatus = { (s.safetyView R.protStatus).setBit 31 false with holds := hs } := by
  have hy : ((s.wrB R.protStatus 31 false).post 87 0x310).safetyView R.protStatus = (s.safetyView R.protStatus).setBit 31 false := by
    rw [State.post_safetyView, State.wrB_safetyView_same]
  unfold State.stoOff
  dsimp only
  split
  · exact ⟨_, hy⟩
  · exact ⟨_, by rw [State.hold_safetyView _ offGates_protStatus, hy]⟩

/-- `STO` follows the demand; of the rest of the view the hold-off causes alone change. -/
theorem State.stoEval_view : ∃ hs, s.stoEval.safetyView R.protStatus = { (s.safetyView R.protStatus).setBit 31 s.stoDemand with holds := hs } := by
  by_cases h : s.stoDemand = s.rdB R.protStatus 31
  · refine ⟨s.holds, ?_⟩
    have hself : (s.safetyView R.protStatus).setBit 31 s.stoDemand = s.safetyView R.protStatus := by
      rw [h, State.rdB_eq_view, SafetyView.setBit, withBit_self _ (by decide)]
    rw [s.stoEval_same h, hself]
    rfl
  · cases hd : s.stoDemand with
    | true => exact s.stoEval_on (by simpa [hd] using h) hd ▸ s.stoOn_view
    | false => exact s.stoEval_off (by simpa [hd] using h) hd ▸ s.stoOff_view

theorem State.stoEval_bit (i : Nat) : s.stoEval.rdB R.protStatus i = if i = 31 then s.stoDemand else s.rdB R.protStatus i := by
  obtain ⟨hs, hview⟩ := s.stoEval_view
  rw [State.rdB_eq_view, hview]
  exact bitOf_withBit _ _ _ _ (by decide)

theorem State.stoEval_diffAt : s.stoEval.prot.diffAt = s.prot.diffAt := by
  obtain ⟨hs, hview⟩ := s.stoEval_view
  exact congrArg SafetyView.diffAt hview

/-! ### The inputs (R305) -/

/-- Whether both inputs were low since the discrepancy. -/
def State.stoLow (s : State) : Bool :=
  if s.rdB R.protStatus 28 then s.prot.bothLow || (!(!s.rdB R.protStatus 30) && !(!s.rdB R.protStatus 29)) else false

/-- Whether the discrepancy's latch is cleared: both inputs are high, and both were low. -/
def State.stoClears (s : State) : Bool := s.rdB R.protStatus 28 && s.stoLow && !s.rdB R.protStatus 30 && !s.rdB R.protStatus 29

/-- The discrepancy's record after the inputs changed. -/
def State.stoMarked (s : State) : State :=
  { s with prot := { s.prot with
      bothLow := s.stoLow && !s.stoClears
      diffAt := if (!s.rdB R.protStatus 30) = !s.rdB R.protStatus 29 then none else some (s.prot.diffAt.getD s.clk.now) } }

/-- The state after the inputs changed, before `STO` follows. -/
def State.stoJudge (s : State) : State := if s.stoClears then s.stoMarked.wrB R.protStatus 28 false else s.stoMarked

theorem State.stoInput_eq (a b : Bool) : s.stoInput a b = ((s.stoLine 30 a).stoLine 29 b).stoJudge.stoEval := rfl

theorem State.stoMarked_rdB (a i : Nat) : s.stoMarked.rdB a i = s.rdB a i := rfl

theorem State.stoJudge_bit (i : Nat) : s.stoJudge.rdB R.protStatus i =
    if i = 28 then s.rdB R.protStatus 28 && !s.stoClears else s.rdB R.protStatus i := by
  unfold State.stoJudge
  cases s.stoClears with
  | true =>
    rw [if_pos rfl, State.rdB, State.rd_wrB, if_pos rfl, bitOf_withBit _ _ _ _ (by decide), Bool.not_true, Bool.and_false]
    rfl
  | false =>
    rw [if_neg (by decide), Bool.not_false, Bool.and_true, State.stoMarked_rdB]
    split
    · next hi => rw [hi]
    · rfl

theorem State.stoJudge_diffAt (h : s.rdB R.protStatus 30 = s.rdB R.protStatus 29) : s.stoJudge.prot.diffAt = none := by
  have hmarked : s.stoMarked.prot.diffAt = none := if_pos (congrArg _ h)
  unfold State.stoJudge
  split
  · exact hmarked
  · exact hmarked

/-- With both inputs high, the latch is cleared where both were low. -/
theorem State.stoClears_high (ha : s.rdB R.protStatus 30 = false) (hb : s.rdB R.protStatus 29 = false) :
    s.stoClears = (s.rdB R.protStatus 28 && s.prot.bothLow) := by
  rw [State.stoClears, State.stoLow, ha, hb]
  cases s.rdB R.protStatus 28 <;> simp

/-- The filter time of the STO inputs. -/
def State.stoFlt (s : State) : Nat := s.rdF R.protStoCfg 9 0 * 32

theorem State.stoLine_stuck (i : Nat) (high : Bool) (h : s.lineFree (20 + i) s.stoFlt = false) : s.stoLine i high = s := by
  have hstuck : ¬s.lineFree (20 + i) (s.rdF R.protStoCfg 9 0 * 32) = true := Bool.eq_false_iff.mp h
  rw [State.stoLine, if_neg hstuck, ite_self]

theorem State.stoLine_rd (i : Nat) (high : Bool) (hi : i < 32) (h : s.lineFree (20 + i) s.stoFlt = true) :
    (s.stoLine i high).rd R.protStatus = withBit (s.rd R.protStatus) i (!high) := by
  unfold State.stoLine
  split
  · next hsame => rw [← hsame, State.rdB, withBit_self _ hi]
  · rw [← State.stoFlt, if_pos h, State.rd_wrB, if_pos rfl, State.lineMark_rd]

theorem State.stoLine_bit (i : Nat) (high : Bool) (hi : i < 32) (h : s.lineFree (20 + i) s.stoFlt = true) (j : Nat) :
    (s.stoLine i high).rdB R.protStatus j = if j = i then !high else s.rdB R.protStatus j := by
  rw [State.rdB, s.stoLine_rd i high hi h, bitOf_withBit _ _ _ _ hi]
  rfl

theorem State.stoLine_flt (i : Nat) (high : Bool) : (s.stoLine i high).stoFlt = s.stoFlt := by
  have hrd : (s.stoLine i high).rd R.protStoCfg = s.rd R.protStoCfg := by
    unfold State.stoLine
    split
    · rfl
    · split
      · rw [State.rd_wrB, if_neg (by decide), State.lineMark_rd]
      · rfl
  rw [State.stoFlt, State.stoFlt, State.rdF_congr hrd]

/-- One input's change leaves the other's filter. -/
theorem State.stoLine_lineFree (i : Nat) (high : Bool) {x : Nat} (hx : x ≠ 20 + i) (flt : Nat) :
    (s.stoLine i high).lineFree x flt = s.lineFree x flt := by
  have hmark : ((s.lineMark (20 + i)).wrB R.protStatus i (!high)).lineFree x flt = s.lineFree x flt := by
    show (s.lineMark (20 + i)).lineFree x flt = _
    unfold State.lineFree State.lineMark
    dsimp only
    rw [tabGet_set_ne _ _ _ _ _ hx]
  unfold State.stoLine
  split
  · rfl
  · split
    · exact hmark
    · rfl

theorem State.stoLine_bothLow (i : Nat) (high : Bool) : (s.stoLine i high).prot.bothLow = s.prot.bothLow := by
  unfold State.stoLine
  split
  · rfl
  · split <;> rfl

end

/-! ### The inputs together -/

section
variable {s : State} {a b : Bool}

/-- What the inputs leave in `PROT_STATUS`, from the state `z` in which their filtered levels stand. -/
theorem State.stoInput_bits {z : State} (hz : (s.stoLine 30 a).stoLine 29 b = z) :
    (s.stoInput a b).rdB R.protStatus 30 = z.rdB R.protStatus 30 ∧ (s.stoInput a b).rdB R.protStatus 29 = z.rdB R.protStatus 29 ∧
      (s.stoInput a b).rdB R.protStatus 28 = (z.rdB R.protStatus 28 && !z.stoClears) ∧
      (s.stoInput a b).rdB R.protStatus 31 = (z.rdB R.protStatus 30 || z.rdB R.protStatus 29 || (z.rdB R.protStatus 28 && !z.stoClears)) := by
  have hbit := z.stoJudge_bit
  have hdemand : z.stoJudge.stoDemand = (z.rdB R.protStatus 30 || z.rdB R.protStatus 29 || (z.rdB R.protStatus 28 && !z.stoClears)) := by
    rw [State.stoDemand, hbit, hbit, hbit]
    rfl
  rw [State.stoInput_eq, hz]
  refine ⟨?_, ?_, ?_, ?_⟩ <;> rw [State.stoEval_bit]
  · exact hbit 30
  · exact hbit 29
  · exact hbit 28
  · exact hdemand

section
variable (ha : s.lineFree 50 s.stoFlt = true) (hb : s.lineFree 49 s.stoFlt = true)
include ha hb

/-- The levels that both filters let through. -/
theorem State.stoLines_bit (j : Nat) : ((s.stoLine 30 a).stoLine 29 b).rdB R.protStatus j =
    if j = 29 then !b else if j = 30 then !a else s.rdB R.protStatus j := by
  have hb' : (s.stoLine 30 a).lineFree (20 + 29) (s.stoLine 30 a).stoFlt = true := by
    rw [State.stoLine_flt, State.stoLine_lineFree _ _ _ (by decide), hb]
  rw [State.stoLine_bit _ _ _ (by decide) hb', s.stoLine_bit _ _ (by decide) ha]

/-- A low input demands STO. -/
theorem State.stoInput_low (h : (a && b) = false) : (s.stoInput a b).rdB R.protStatus 31 = true ∧ (s.stoInput a b).rdB R.protStatus 30 = !a ∧
    (s.stoInput a b).rdB R.protStatus 29 = !b := by
  obtain ⟨h30, h29, -, h31⟩ := State.stoInput_bits (s := s) (a := a) (b := b) rfl
  have hbit := State.stoLines_bit (a := a) (b := b) ha hb
  refine ⟨?_, h30.trans (hbit 30), h29.trans (hbit 29)⟩
  rw [h31, hbit 30, hbit 29]
  revert h
  cases a <;> cases b <;> simp

theorem State.stoInput_low_anyHold (h : (a && b) = false) (hoff : s.rdB R.protStatus 31 = false) : (s.stoInput a b).anyHold = true := by
  have hbit := State.stoLines_bit (a := a) (b := b) ha hb
  have hjudge := ((s.stoLine 30 a).stoLine 29 b).stoJudge_bit
  have hoff' : ((s.stoLine 30 a).stoLine 29 b).stoJudge.rdB R.protStatus 31 = false := (hjudge 31).trans ((hbit 31).trans hoff)
  have hdemand : ((s.stoLine 30 a).stoLine 29 b).stoJudge.stoDemand = true := by
    rw [State.stoDemand, hjudge 30, hjudge 29, if_neg (by decide), if_neg (by decide), hbit 30, hbit 29]
    revert h
    cases a <;> cases b <;> simp
  rw [State.stoInput_eq, State.stoEval_on _ hoff' hdemand]
  exact State.stoOn_anyHold _

/-- Both inputs high: STO ends where no discrepancy's latch stands; that latch is cleared once both were low. -/
theorem State.stoInput_high : (s.stoInput true true).rdB R.protStatus 30 = false ∧ (s.stoInput true true).rdB R.protStatus 29 = false ∧
    (s.stoInput true true).prot.diffAt = none ∧
      (s.stoInput true true).rdB R.protStatus 28 = (s.rdB R.protStatus 28 && !s.prot.bothLow) ∧
      (s.stoInput true true).rdB R.protStatus 31 = (s.rdB R.protStatus 28 && !s.prot.bothLow) := by
  obtain ⟨h30, h29, h28, h31⟩ := State.stoInput_bits (s := s) (a := true) (b := true) rfl
  have hbit := State.stoLines_bit (a := true) (b := true) ha hb
  have hlow : ((s.stoLine 30 true).stoLine 29 true).prot.bothLow = s.prot.bothLow := by rw [State.stoLine_bothLow, State.stoLine_bothLow]
  have hlatch : (((s.stoLine 30 true).stoLine 29 true).rdB R.protStatus 28 && !((s.stoLine 30 true).stoLine 29 true).stoClears) =
      (s.rdB R.protStatus 28 && !s.prot.bothLow) := by
    rw [State.stoClears_high _ (hbit 30) (hbit 29), hlow, hbit 28]
    cases s.rdB R.protStatus 28 <;> simp
  refine ⟨h30.trans (hbit 30), h29.trans (hbit 29), ?_, h28.trans hlatch, ?_⟩
  · rw [State.stoInput_eq, State.stoEval_diffAt]
    exact State.stoJudge_diffAt _ ((hbit 30).trans (hbit 29).symm)
  · rw [h31, hlatch, hbit, hbit]
    simp

end

/-- Inputs that their filters hold back. -/
theorem State.stoInput_stuck (ha : s.lineFree 50 s.stoFlt = false) (hb : s.lineFree 49 s.stoFlt = false) :
    (s.stoInput a b).rdB R.protStatus 30 = s.rdB R.protStatus 30 ∧ (s.stoInput a b).rdB R.protStatus 29 = s.rdB R.protStatus 29 := by
  have hlines : (s.stoLine 30 a).stoLine 29 b = s := by rw [s.stoLine_stuck 30 a ha, s.stoLine_stuck 29 b hb]
  obtain ⟨h30, h29, -, -⟩ := State.stoInput_bits hlines
  exact ⟨h30, h29⟩

/-! ### A discrepancy (R306), and internal STO (R307) -/

theorem State.stoDiscrep_none (h : s.prot.diffAt = none) : s.stoDiscrep = s := by
  unfold State.stoDiscrep
  rw [h]

theorem State.stoDiscrep_lasting {d : Nat} (hd : s.prot.diffAt = some d) (h : d + s.rdF R.protStoCfg 25 16 * msec < s.clk.now) :
    s.stoDiscrep.rdB R.protStatus 28 = true ∧ s.stoDiscrep.rdB R.protStatus 31 = true := by
  unfold State.stoDiscrep
  rw [hd]
  dsimp only
  rw [if_pos h]
  generalize ({ s with prot := { s.prot with bothLow := false } } : State) = y
  have hlatch : ((y.wrB R.protStatus 28 true).post 87 0x311).rdB R.protStatus 28 = true := by
    rw [State.rdB, State.post_rd, State.rd_wrB, if_pos rfl, bitOf_withBit_same _ _ _ (by decide)]
  refine ⟨(State.stoEval_bit _ 28).trans hlatch, (State.stoEval_bit _ 31).trans ?_⟩
  rw [if_pos rfl, State.stoDemand, hlatch, Bool.or_true]

end

/-- The state as an internal cause is recorded, before the pulses are taken. -/
def State.intStoNoted (s : State) (cause : Nat) : State :=
  let y : State := { s with prot := { s.prot with intSto := tabSet (fun _ => false) s.prot.intSto cause true } }
  let y := y.wrB R.protStatus 27 true
  if !s.rdB R.protStatus 27 then ((y.wrF R.protStatus 26 24 cause).noteFirst 0x301).post 87 0x301 else y

section
variable (s : State) {cause : Nat} (h : cause = 3 ∨ cause = 4)

theorem State.intStoNoted_bit (cause : Nat) : (s.intStoNoted cause).rdB R.protStatus 27 = true := by
  have hbit (y : State) : (y.wrB R.protStatus 27 true).rdB R.protStatus 27 = true := by
    rw [State.rdB, State.rd_wrB, if_pos rfl, bitOf_withBit_same _ _ _ (by decide)]
  unfold State.intStoNoted
  dsimp only
  split
  · rw [rdB_of_safetyView (State.post_safetyView ..), rdB_of_safetyView (State.noteFirst_safetyView _ offGates_protStatus _), State.rdB,
      State.rd_wrF, if_pos rfl, bitOf_withField _ _ _ _ _ (by decide) (by decide) (by decide)]
    exact hbit _
  · exact hbit _

include h

/-- A fault of the monitor or of the STO path holds by cause 1. -/
theorem State.internalSto_eq : s.internalSto cause = (s.intStoNoted cause).pulsesOff 1 := by
  rcases h with rfl | rfl <;> rfl

theorem State.internalSto_shows : (s.internalSto cause).rdB R.protStatus 27 = true ∧ (s.internalSto cause).anyHold = true ∧
    ∀ n : Fin 4, (s.internalSto cause).gfeState n = 0 := by
  rw [s.internalSto_eq h]
  refine ⟨?_, State.anyHold_of_held (by decide) (State.pulsesOff_held _ 1), State.gfeState_pulsesOff _ 1⟩
  rw [State.rdB_eq_view, State.pulsesOff_safetyView _ _ offGates_protStatus (by decide)]
  exact s.intStoNoted_bit cause

end

/-! ### The commands -/

/-- In hold-off every bridge has code 1. -/
theorem State.bridgeCode_of_anyHold {u : State} (h : u.anyHold = true) (n b : Nat) : u.bridgeCode n b = 1 := if_pos h

section
variable (s : State) (t : Nat)

/-- The next state after `STO_INPUT` shows what the inputs leave. -/
theorem exec_stoInput (a b : Bool) : ∃ u, exec (.stoInput t a b) s = .next u ∧ (s.upTo t).pacedAs u ∧
    u.safetyView R.protStatus = ((s.upTo t).stoInput a b).safetyView R.protStatus := by
  obtain ⟨u, hu, hpaced, hview⟩ := State.run_safetyView (s := s) (t := t) (f := fun x => x.stoInput a b) rfl
    (State.stoInput_sched ..) (State.stoInput_frame ..)
  exact ⟨u, hu, hpaced, hview _ protStatus_force⟩

section
variable {s t} {a b : Bool}

section
variable (ha : (s.upTo t).lineFree 50 (s.upTo t).stoFlt = true) (hb : (s.upTo t).lineFree 49 (s.upTo t).stoFlt = true)
include ha hb

/-- A low input. -/
theorem exec_stoInput_low (h : (a && b) = false) : ∃ u, exec (.stoInput t a b) s = .next u ∧ (s.upTo t).pacedAs u ∧
    u.rdB R.protStatus 31 = true ∧ u.rdB R.protStatus 30 = !a ∧ u.rdB R.protStatus 29 = !b ∧
      ((s.upTo t).rdB R.protStatus 31 = false → u.anyHold = true) := by
  obtain ⟨u, hu, hpaced, hview⟩ := exec_stoInput s t a b
  obtain ⟨h31, h30, h29⟩ := State.stoInput_low ha hb h
  exact ⟨u, hu, hpaced, (rdB_of_safetyView hview 31).trans h31, (rdB_of_safetyView hview 30).trans h30, (rdB_of_safetyView hview 29).trans h29,
    fun hoff => (anyHold_of_safetyView hview).trans (State.stoInput_low_anyHold ha hb h hoff)⟩

/-- Both inputs high, without a discrepancy's latch. -/
theorem exec_stoInput_high (h : (s.upTo t).rdB R.protStatus 28 = false) : ∃ u, exec (.stoInput t true true) s = .next u ∧ (s.upTo t).pacedAs u ∧
    u.rdB R.protStatus 31 = false ∧ u.rdB R.protStatus 30 = false ∧ u.rdB R.protStatus 29 = false ∧ u.prot.diffAt = none := by
  obtain ⟨u, hu, hpaced, hview⟩ := exec_stoInput s t true true
  obtain ⟨h30, h29, hdiff, -, h31⟩ := State.stoInput_high ha hb
  rw [h, Bool.false_and] at h31
  exact ⟨u, hu, hpaced, (rdB_of_safetyView hview 31).trans h31, (rdB_of_safetyView hview 30).trans h30, (rdB_of_safetyView hview 29).trans h29,
    (diffAt_of_safetyView hview).trans hdiff⟩

/-- Both inputs high, with the latch. -/
theorem exec_stoInput_latched (h : (s.upTo t).rdB R.protStatus 28 = true) : ∃ u, exec (.stoInput t true true) s = .next u ∧
    (s.upTo t).pacedAs u ∧ u.rdB R.protStatus 31 = !(s.upTo t).prot.bothLow ∧ u.rdB R.protStatus 28 = !(s.upTo t).prot.bothLow := by
  obtain ⟨u, hu, hpaced, hview⟩ := exec_stoInput s t true true
  obtain ⟨-, -, -, h28, h31⟩ := State.stoInput_high ha hb
  rw [h, Bool.true_and] at h28 h31
  exact ⟨u, hu, hpaced, (rdB_of_safetyView hview 31).trans h31, (rdB_of_safetyView hview 28).trans h28⟩

end

/-- Inputs that their filters hold back. -/
theorem exec_stoInput_stuck (ha : (s.upTo t).lineFree 50 (s.upTo t).stoFlt = false) (hb : (s.upTo t).lineFree 49 (s.upTo t).stoFlt = false) :
    ∃ u, exec (.stoInput t a b) s = .next u ∧ (s.upTo t).pacedAs u ∧ u.rdB R.protStatus 30 = (s.upTo t).rdB R.protStatus 30 ∧
      u.rdB R.protStatus 29 = (s.upTo t).rdB R.protStatus 29 := by
  obtain ⟨u, hu, hpaced, hview⟩ := exec_stoInput s t a b
  obtain ⟨h30, h29⟩ := State.stoInput_stuck (a := a) (b := b) ha hb
  exact ⟨u, hu, hpaced, (rdB_of_safetyView hview 30).trans h30, (rdB_of_safetyView hview 29).trans h29⟩

end

theorem exec_stoDiscrep_lasting {d : Nat} (hd : (s.upTo t).prot.diffAt = some d)
    (h : d + (s.upTo t).rdF R.protStoCfg 25 16 * msec < (s.upTo t).clk.now) :
    ∃ u, exec (.stoDiscrep t) s = .next u ∧ (s.upTo t).pacedAs u ∧ u.rdB R.protStatus 28 = true ∧ u.rdB R.protStatus 31 = true := by
  obtain ⟨hlatch, hsto⟩ := State.stoDiscrep_lasting hd h
  obtain ⟨u, hu, hpaced, hview⟩ := State.run_safetyView (s := s) (t := t) (f := fun x => x.stoDiscrep) rfl
    (State.stoDiscrep_sched ..) (State.stoDiscrep_frame ..)
  have hstatus := hview _ protStatus_force
  exact ⟨u, hu, hpaced, (rdB_of_safetyView hstatus 28).trans hlatch, (rdB_of_safetyView hstatus 31).trans hsto⟩

theorem exec_stoPathDisagree : ∃ u, exec (.stoPathDisagree t) s = .next u ∧ (s.upTo t).pacedAs u ∧ u.rdB R.protStatus 27 = true ∧
    u.anyHold = true ∧ ∀ n : Fin 4, u.gfeState n = 0 := by
  obtain ⟨hbit, hhold, hgfe⟩ := (s.upTo t).internalSto_shows (cause := 4) (.inr rfl)
  obtain ⟨u, hu, hpaced, hview⟩ := State.run_safetyView (s := s) (t := t) (f := fun x => x.internalSto 4) rfl
    (State.internalSto_sched ..) (State.internalSto_frame ..)
  have hstatus := hview _ protStatus_force
  exact ⟨u, hu, hpaced, (rdB_of_safetyView hstatus 27).trans hbit, (anyHold_of_safetyView hstatus).trans hhold,
    fun n => (rdF_of_safetyView (hview _ (gfeStatus_force n)) 1 0).trans (hgfe n)⟩

theorem exec_monitorLockstepFault : ∃ u, exec (.monitorLockstepFault t) s = .next u ∧ (s.upTo t).pacedAs u ∧ u.rdB R.protStatus 27 = true ∧
    u.anyHold = true ∧ u.rdB R.smonStatus 31 = false := by
  obtain ⟨hbit, hhold, -⟩ := (s.upTo t).internalSto_shows (cause := 3) (.inl rfl)
  obtain ⟨u, hu, hpaced, hview⟩ := State.run_safetyView (s := s) (t := t) (f := fun x => (x.internalSto 3).wrB R.smonStatus 31 false) rfl
    ((State.wrB_sched ..).trans (State.internalSto_sched ..)) ((State.wrB_frame ..).trans (State.internalSto_frame ..))
  have hstatus := (hview _ protStatus_force).trans (State.wrB_safetyView _ 31 false (by decide))
  have hmonitor := hview R.smonStatus (not_mem_forceRegs (by decide))
  refine ⟨u, hu, hpaced, (rdB_of_safetyView hstatus 27).trans hbit, (anyHold_of_safetyView hstatus).trans hhold, ?_⟩
  rw [rdB_of_safetyView hmonitor, State.rdB, State.rd_wrB, if_pos rfl, bitOf_withBit_same _ _ _ (by decide)]

end

end Sys2Proof.Machine
end

section
/-! The safety monitor (R308, R309, R311): its evaluation of a thread, the stall of a period counter, and the release of a force. -/

namespace Sys2Proof.Machine

theorem smonTmStatus_low (n : Nat) : 0x44400000 ≤ R.smonTmStatus n := by unfold R.smonTmStatus; omega
theorem smonTmStatus_high (n : Fin 4) : R.smonTmStatus n < 0x44500000 := by unfold R.smonTmStatus; omega
theorem smonTmStatus_ne_smonForce (n : Fin 4) : R.smonTmStatus n ≠ R.smonForce n := by unfold R.smonTmStatus R.smonForce; omega

/-! ### The counts of the checks (R311) -/

/-- The count of a check that holds goes up to 255, that of another to 0. -/
def smonStep (found : List Nat) (cnt : Tab Nat) (k : Nat) : Tab Nat :=
  tabSet (fun _ => 0) cnt k (if found.contains k then min 255 (tabGet (fun _ => 0) cnt k + 1) else 0)

theorem tabGet_smonSteps_ne (found ks : List Nat) (cnt : Tab Nat) {j : Nat} (h : j ∉ ks) :
    tabGet (fun _ => 0) (ks.foldl (smonStep found) cnt) j = tabGet (fun _ => 0) cnt j := by
  induction ks generalizing cnt with
  | nil => rfl
  | cons k ks ih =>
    rw [List.foldl_cons, ih _ (List.not_mem_of_not_mem_cons h), smonStep, tabGet_set_ne _ _ _ _ _ (List.ne_of_not_mem_cons h)]

theorem tabGet_smonSteps (found ks : List Nat) (cnt : Tab Nat) {j : Nat} (hks : ks.Nodup) (hj : j ∈ ks) (hfound : j ∈ found) :
    tabGet (fun _ => 0) (ks.foldl (smonStep found) cnt) j = min 255 (tabGet (fun _ => 0) cnt j + 1) := by
  induction ks generalizing cnt with
  | nil => cases hj
  | cons k ks ih =>
    obtain ⟨hk, hks⟩ := List.nodup_cons.mp hks
    rw [List.foldl_cons]
    rcases List.mem_cons.mp hj with rfl | hj
    · rw [tabGet_smonSteps_ne _ _ _ hk, smonStep, tabGet_set_same, if_pos (List.contains_iff_mem.mpr hfound)]
    · rw [ih _ hks hj, smonStep, tabGet_set_ne _ _ _ _ _ (ne_of_mem_of_not_mem hj hk)]

/-! ### The steps of an evaluation -/

section
variable (s : State) (n : Nat)

/-- The checks of thread `n`: TM6 alone where its vector unit is not enabled. -/
def State.smonChecks (s : State) (n : Nat) : List Nat := if s.rdB (R.vecCfg (2 * n)) 31 then [0, 1, 2, 3, 4, 5, 6] else [5]

/-- The checks whose condition holds. -/
def State.smonFound (s : State) (n : Nat) : List Nat := (s.smonChecks n).filter (fun k => s.tmCond n k)

def State.smonCounts (s : State) (n : Nat) : Tab Nat := (s.smonChecks n).foldl (smonStep (s.smonFound n)) (s.smon n).cnt

/-- The checks that fail: their condition has held for `TM_N` evaluations, TM6's for one. -/
def State.smonFailing (s : State) (n : Nat) : List Nat :=
  (s.smonChecks n).filter (fun k => decide (0 < tabGet (fun _ => 0) (s.smonCounts n) k) &&
    decide ((if k = 5 then 1 else s.rdF (R.smonTmCfg n) 31 24) ≤ tabGet (fun _ => 0) (s.smonCounts n) k))

/-- The state with the counts, and the conditions in the upper bits of `SMON_TM_STATUS`. -/
def State.smonMarked (s : State) (n : Nat) : State :=
  (s.smonChecks n).foldl (fun (y : State) k => y.wrB (R.smonTmStatus n) (8 + k) ((s.smonFound n).contains k))
    (s.setSmon n { s.smon n with cnt := s.smonCounts n })

/-- The state after the failing checks forced the thread, and the others' causes ended. -/
def State.smonJudged (s : State) (n : Nat) : State :=
  ((s.smonChecks n).filter (fun k => !(s.smonFound n).contains k)).foldl (fun (y : State) k => y.smonAbsent n (k + 1))
    ((s.smonFailing n).foldl (fun (y : State) k => y.tmFail n k) (s.smonMarked n))

theorem State.smonEval_eq (disch : Bool) (h : s.threadHere n = true) :
    s.smonEval n disch = if disch then (s.smonJudged n).smonForce n 3 11 else (s.smonJudged n).smonAbsent n 11 := by
  unfold State.smonEval
  rw [h]
  rfl

theorem State.smonChecks_enabled (h : s.rdB (R.vecCfg (2 * n)) 31 = true) : s.smonChecks n = [0, 1, 2, 3, 4, 5, 6] := if_pos h

theorem State.smonChecks_nodup : (s.smonChecks n).Nodup := by
  unfold State.smonChecks
  split <;> decide

theorem State.lt_of_mem_smonChecks {k : Nat} (h : k ∈ s.smonChecks n) : k < 7 := by
  have hall : ∀ k ∈ s.smonChecks n, k < 7 := by
    unfold State.smonChecks
    split <;> decide
  exact hall k h

variable {s n} in
/-- A check of which the count reaches `TM_N` fails. -/
theorem State.mem_smonFailing {k : Nat} (hk : k ∈ s.smonChecks n) (h5 : k ≠ 5) (hcond : s.tmCond n k = true)
    (hcount : s.rdF (R.smonTmCfg n) 31 24 ≤ min 255 (tabGet (fun _ => 0) (s.smon n).cnt k + 1)) : k ∈ s.smonFailing n := by
  have hnow : tabGet (fun _ => 0) (s.smonCounts n) k = min 255 (tabGet (fun _ => 0) (s.smon n).cnt k + 1) :=
    tabGet_smonSteps _ _ _ (s.smonChecks_nodup n) hk (List.mem_filter.mpr ⟨hk, hcond⟩)
  refine List.mem_filter.mpr ⟨hk, ?_⟩
  rw [hnow, if_neg h5, Bool.and_eq_true, decide_eq_true_iff, decide_eq_true_iff]
  exact ⟨by omega, hcount⟩

end

/-! ### What the steps leave -/

section
variable (s : State) (n : Fin 4)

theorem State.wrBits_rdB (a : Nat) (c : Nat → Bool) (ks : List Nat) (hks : ∀ k ∈ ks, 8 + k < 32) (j : Nat) :
    (ks.foldl (fun (y : State) k => y.wrB a (8 + k) (c k)) s).rdB a (8 + j) = if j ∈ ks then c j else s.rdB a (8 + j) := by
  induction ks generalizing s with
  | nil => rfl
  | cons k ks ih =>
    rw [List.foldl_cons, ih _ fun i hi => hks i (List.mem_cons_of_mem _ hi), State.rdB, State.rd_wrB, if_pos rfl,
      bitOf_withBit _ _ _ _ (hks k List.mem_cons_self)]
    by_cases hj : j = k
    · simp [hj]
    · simp [hj, State.rdB]

/-- `SMON_TM_STATUS` shows which conditions hold. -/
theorem State.smonMarked_cond {k : Nat} (hk : k ∈ s.smonChecks n) : (s.smonMarked n).rdB (R.smonTmStatus n) (8 + k) = s.tmCond n k := by
  rw [State.smonMarked, State.wrBits_rdB _ _ _ _ (fun i hi => by have := s.lt_of_mem_smonChecks n hi; omega), if_pos hk, Bool.eq_iff_iff,
    List.contains_iff_mem, State.smonFound, List.mem_filter]
  exact ⟨fun h => h.2, fun h => ⟨hk, h⟩⟩

theorem State.tmFail_bit (k : Nat) (hk : k < 32) (j : Nat) :
    (s.tmFail n k).rdB (R.smonTmStatus n) j = if j = k then true else s.rdB (R.smonTmStatus n) j := by
  unfold State.tmFail
  dsimp only
  rw [State.rdB, State.smonForce_rd _ _ _ _ (smonTmStatus_low n) (smonTmStatus_high n) (smonTmStatus_ne_smonForce n), State.post_rd, State.rd_raise,
    if_pos rfl, bitOf_withBit _ _ _ _ hk]
  rfl

/-- A check that fails forces the thread. -/
theorem State.forceOf_tmFail (k : Nat) : (s.tmFail n k).forceOf n ≠ 0 := by
  unfold State.tmFail
  dsimp only
  split
  · exact Nat.pos_iff_ne_zero.mp (lt_of_lt_of_le (by decide) (State.le_forceOf_smonForce _ n (state := 2) (by decide) _))
  · exact Nat.pos_iff_ne_zero.mp (lt_of_lt_of_le (by decide) (State.le_forceOf_smonForce _ n (state := 1) (by decide) _))

section
variable (ks : List Nat)

theorem State.tmFails_bit (hks : ∀ k ∈ ks, k < 32) (j : Nat) :
    (ks.foldl (fun (y : State) k => y.tmFail n k) s).rdB (R.smonTmStatus n) j = if j ∈ ks then true else s.rdB (R.smonTmStatus n) j := by
  induction ks generalizing s with
  | nil => rfl
  | cons k ks ih =>
    rw [List.foldl_cons, ih _ fun i hi => hks i (List.mem_cons_of_mem _ hi), s.tmFail_bit n k (hks k List.mem_cons_self)]
    by_cases hj : j = k <;> simp [hj]

theorem State.forceOf_tmFails (h : s.forceOf n ≠ 0 ∨ ks ≠ []) : (ks.foldl (fun (y : State) k => y.tmFail n k) s).forceOf n ≠ 0 := by
  induction ks generalizing s with
  | nil => exact h.resolve_right (fun hne => hne rfl)
  | cons k ks ih => exact ih _ (.inl (s.forceOf_tmFail n k))

theorem State.smonAbsents_tmStatus : (ks.foldl (fun (y : State) k => y.smonAbsent n (k + 1)) s).rd (R.smonTmStatus n) = s.rd (R.smonTmStatus n) :=
  rd_of_safetyView (foldl_safetyView s ks _ fun y k => y.smonAbsent_other n (k + 1) (smonTmStatus_ne_smonForce n))

theorem State.forceOf_smonAbsents : (ks.foldl (fun (y : State) k => y.smonAbsent n (k + 1)) s).forceOf n = s.forceOf n := by
  induction ks generalizing s with
  | nil => rfl
  | cons k ks ih => rw [List.foldl_cons, ih, State.forceOf_smonAbsent]

end

/-! ### An evaluation -/

theorem State.smonJudged_bit (j : Nat) : (s.smonJudged n).rdB (R.smonTmStatus n) j =
    if j ∈ s.smonFailing n then true else (s.smonMarked n).rdB (R.smonTmStatus n) j := by
  have hks : ∀ k ∈ s.smonFailing n, k < 32 := fun k hk => by
    have := s.lt_of_mem_smonChecks n (List.mem_filter.mp hk).1
    omega
  rw [State.smonJudged, State.rdB_congr (State.smonAbsents_tmStatus ..), State.tmFails_bit _ _ _ hks]

theorem State.forceOf_smonJudged (h : s.smonFailing n ≠ []) : (s.smonJudged n).forceOf n ≠ 0 := by
  rw [State.smonJudged, State.forceOf_smonAbsents]
  exact State.forceOf_tmFails _ n _ (.inr h)

variable (here : s.threadHere n = true) (disch : Bool)
include here

theorem State.smonEval_tmStatus : (s.smonEval n disch).rd (R.smonTmStatus n) = (s.smonJudged n).rd (R.smonTmStatus n) := by
  rw [s.smonEval_eq n disch here]
  split
  · exact State.smonForce_rd _ _ _ _ (smonTmStatus_low n) (smonTmStatus_high n) (smonTmStatus_ne_smonForce n)
  · exact rd_of_safetyView (State.smonAbsent_other _ n 11 (smonTmStatus_ne_smonForce n))

/-- `DISCHARGE` where the monitor asks for it. -/
theorem State.forceOf_smonEval_disch : (s.smonEval n true).forceOf n = 3 := by
  rw [s.smonEval_eq n true here, if_pos rfl]
  exact Nat.le_antisymm (Nat.le_of_lt_succ (State.forceOf_lt _ n)) (State.le_forceOf_smonForce _ n (by decide) 11)

theorem State.forceOf_smonEval (h : s.smonFailing n ≠ []) : (s.smonEval n disch).forceOf n ≠ 0 := by
  cases disch with
  | true => exact ne_of_eq_of_ne (s.forceOf_smonEval_disch n here) (by decide)
  | false =>
    rw [s.smonEval_eq n false here, if_neg (by decide), State.forceOf_smonAbsent]
    exact s.forceOf_smonJudged n h

/-- The condition of a check, after the evaluation. -/
theorem State.smonEval_cond {k : Nat} (hk : k ∈ s.smonChecks n) : (s.smonEval n disch).rdB (R.smonTmStatus n) (8 + k) = s.tmCond n k := by
  have hlate : 8 + k ∉ s.smonFailing n := fun h => by
    have := s.lt_of_mem_smonChecks n (List.mem_filter.mp h).1
    omega
  rw [State.rdB_congr (s.smonEval_tmStatus n here disch), s.smonJudged_bit, if_neg hlate, s.smonMarked_cond n hk]

/-- A failing check, after the evaluation. -/
theorem State.smonEval_failing {k : Nat} (hk : k ∈ s.smonFailing n) :
    (s.smonEval n disch).rdB (R.smonTmStatus n) k = true ∧ (s.smonEval n disch).forceOf n ≠ 0 := by
  refine ⟨?_, s.forceOf_smonEval n here disch (List.ne_nil_of_mem hk)⟩
  rw [State.rdB_congr (s.smonEval_tmStatus n here disch), s.smonJudged_bit, if_pos hk]

/-- The checks but TM6 of an enabled thread: each condition shown, and each that has held for `TM_N` evaluations failed. -/
theorem State.smonEval_enabled (hon : s.rdB (R.vecCfg (2 * n)) 31 = true) {k : Nat} (hk : k ∈ [0, 1, 2, 3, 4, 6]) :
    (s.smonEval n disch).rdB (R.smonTmStatus n) (8 + k) = s.tmCond n k ∧
      (s.tmCond n k = true → s.rdF (R.smonTmCfg n) 31 24 ≤ min 255 (tabGet (fun _ => 0) (s.smon n).cnt k + 1) →
        (s.smonEval n disch).rdB (R.smonTmStatus n) k = true ∧ (s.smonEval n disch).forceOf n ≠ 0) := by
  have hlisted : ∀ j ∈ [0, 1, 2, 3, 4, 6], j ∈ [0, 1, 2, 3, 4, 5, 6] ∧ j ≠ 5 := by decide
  obtain ⟨hall, h5⟩ := hlisted k hk
  have hmem : k ∈ s.smonChecks n := s.smonChecks_enabled n hon ▸ hall
  exact ⟨s.smonEval_cond n here disch hmem, fun hcond hcount => s.smonEval_failing n here disch (State.mem_smonFailing hmem h5 hcond hcount)⟩

end

/-! ### The stall of a period counter (R311) -/

section
variable (s : State) (n : Fin 4)

theorem State.tm6Stall_running (h : s.tmCond n 5 = false) : s.tm6Stall n = s := if_neg (by simp [h])

theorem State.tm6Stall_stalled (h : s.tmCond n 5 = true) : (s.tm6Stall n).rdB (R.smonTmStatus n) 13 = true ∧
    (s.tm6Stall n).rdB (R.smonTmStatus n) 5 = true ∧ (s.tm6Stall n).forceOf n ≠ 0 := by
  rw [State.tm6Stall, if_pos h]
  refine ⟨?_, ?_, State.forceOf_tmFail _ n 5⟩
  · rw [State.tmFail_bit _ _ _ (by decide), if_neg (by decide), State.rdB, State.rd_wrB, if_pos rfl, bitOf_withBit_same _ _ _ (by decide)]
  · rw [State.tmFail_bit _ _ _ (by decide), if_pos rfl]

end

/-! ### The release of a force (R309) -/

/-- The word by which the release of thread `n` is asked for. -/
def smonKey (n : Nat) : Word := wordN (0xC5000000 + n)

theorem fieldOf_smonKey_thread (n : Fin 4) : fieldOf (smonKey n) 1 0 = n := by revert n; decide
theorem fieldOf_smonKey_key (n : Fin 4) : fieldOf (smonKey n) 31 24 = 0xC5 := by revert n; decide

/-- Whether a force may be released: its causes ended 100 ms ago, and no discharge runs. -/
def State.smonOld (s : State) (n : Nat) : Prop :=
  (s.smon n).causes = [] ∧ (∃ a, (s.smon n).absent = some a ∧ a + 100 * msec ≤ s.clk.now) ∧ (s.dc n).disch = none

/-- The state as a force is released. -/
def State.smonReleased (s : State) (n : Nat) : State :=
  let y := s.setSmon n { s.smon n with absent := none, rel := some (s.clk.now / smonCycle, s.forceOf n, s.rdF (R.smonForce n) 23 16) }
  (((y.wrF (R.smonForce n) 31 30 0).wrF (R.smonForce n) 23 16 0).post 88 (0x200 + n)).applyThread n

section
variable {s : State} {n : Fin 4} (hforce : s.forceOf n ≠ 0)
include hforce

theorem State.smonRel_granted (h : s.smonOld n) (q : Fin 5) : s.smonRel (some (.core q)) (smonKey n) = s.smonReleased n := by
  obtain ⟨hcauses, ⟨a, habsent, hlong⟩, hdisch⟩ := h
  have hold : ((s.smon n).causes.isEmpty && (s.smon n).absent.any (fun x => decide (x + 100 * msec ≤ s.clk.now))) = true := by
    rw [Bool.and_eq_true, List.isEmpty_iff, Option.any_eq_true]
    exact ⟨hcauses, a, habsent, decide_eq_true hlong⟩
  unfold State.smonRel
  dsimp only
  rw [fieldOf_smonKey_thread, fieldOf_smonKey_key, if_neg hforce, if_pos ⟨rfl, rfl, hold, Option.isNone_iff_eq_none.mpr hdisch⟩,
    State.smonReleased]

theorem State.smonRel_refused {who : Initiator} (h : ¬s.smonOld n ∨ who = .debug) :
    s.smonRel (some who) (smonKey n) = s.raise (R.smonForce n) 8 := by
  unfold State.smonRel
  dsimp only
  rw [fieldOf_smonKey_thread, fieldOf_smonKey_key, if_neg hforce]
  refine if_neg fun ⟨hcore, _, hold, hdisch⟩ => ?_
  rcases h with h | h
  · rw [Bool.and_eq_true, List.isEmpty_iff, Option.any_eq_true] at hold
    obtain ⟨hcauses, a, habsent, hlong⟩ := hold
    exact h ⟨hcauses, ⟨a, habsent, of_decide_eq_true hlong⟩, Option.isNone_iff_eq_none.mp hdisch⟩
  · rw [h] at hcore
    exact absurd hcore (by decide)

end

theorem State.smonReleased_view (s : State) (n : Fin 4) : (s.smonReleased n).safetyView (R.smonForce n) =
    ((s.safetyView (R.smonForce n)).setField 31 30 0).setField 23 16 0 := by
  rw [State.smonReleased, State.applyThread_safetyView _ (offGates_of_monitor (smonForce_low n) (smonForce_high n)), State.post_safetyView,
    State.wrF_safetyView_same, State.wrF_safetyView_same, State.setSmon_safetyView]

theorem State.smonReleased_fields (s : State) (n : Fin 4) : (s.smonReleased n).forceOf n = 0 ∧ (s.smonReleased n).rdF (R.smonForce n) 23 16 = 0 := by
  rw [State.forceOf, State.rdF_eq_view, State.rdF_eq_view, State.smonReleased_view]
  simp [fieldOf_withField_ne]

/-! ### The commands -/

section
variable (s : State) (t : Nat) (n : Fin 4)

/-- The next state after an evaluation shows what the evaluation leaves of the monitor's registers of the thread. -/
theorem exec_smonEvaluation (disch : Bool) : ∃ u, exec (.smonEvaluation t (n, disch)) s = .next u ∧ (s.upTo t).pacedAs u ∧
    u.forceOf n = ((s.upTo t).smonEval n disch).forceOf n ∧ u.rd (R.smonTmStatus n) = ((s.upTo t).smonEval n disch).rd (R.smonTmStatus n) := by
  obtain ⟨u, hu, hpaced, hview⟩ := State.run_safetyView (s := s) (t := t) (f := fun x => x.smonEval n disch) rfl
    (State.smonEval_sched ..) (State.smonEval_frame ..)
  exact ⟨u, hu, hpaced, rdF_of_safetyView (hview _ (smonForce_notForce n)) 31 30, rd_of_safetyView (hview _ (smonTmStatus_force n))⟩

theorem exec_tm6PeriodStall_stalled (h : (s.upTo t).tmCond n 5 = true) : ∃ u, exec (.tm6PeriodStall t n) s = .next u ∧ (s.upTo t).pacedAs u ∧
    u.rdB (R.smonTmStatus n) 13 = true ∧ u.rdB (R.smonTmStatus n) 5 = true ∧ u.forceOf n ≠ 0 := by
  obtain ⟨hcond, hfailed, hforce⟩ := (s.upTo t).tm6Stall_stalled n h
  obtain ⟨u, hu, hpaced, hview⟩ := State.run_safetyView (s := s) (t := t) (f := fun x => x.tm6Stall n) rfl
    (State.tm6Stall_sched ..) (State.tm6Stall_frame ..)
  have hstatus := hview _ (smonTmStatus_force n)
  refine ⟨u, hu, hpaced, (rdB_of_safetyView hstatus 13).trans hcond, (rdB_of_safetyView hstatus 5).trans hfailed, ?_⟩
  exact ne_of_eq_of_ne (rdF_of_safetyView (hview _ (smonForce_notForce n)) 31 30) hforce

end

section
variable {s : State} {t : Nat} {n : Fin 4} (hforce : (s.upTo t).forceOf n ≠ 0)
include hforce

theorem exec_smonRel_granted {q : Fin 5} (hreach : (s.upTo t).reaches (.core q) R.smonRel (smonKey n) = true) (h : (s.upTo t).smonOld n) :
    ∃ u, exec (.smonRel t (.core q) n) s = .next u ∧ ({ s.upTo t with bus := .ok 0#64 } : State).pacedAs u ∧ u.forceOf n = 0 ∧
      u.rdF (R.smonForce n) 23 16 = 0 := by
  obtain ⟨hstate, hcause⟩ := (s.upTo t).smonReleased_fields n
  have hword := State.busWord_smonRel _ _ _ hreach
  rw [State.smonRel_granted hforce h] at hword
  have hkept := State.smonRel_granted hforce h q
  obtain ⟨u, hu, hpaced, hview⟩ := State.run_safetyViewBus (f := fun x => x.busWord (.core q) R.smonRel (smonKey n)) hword
    (hkept ▸ State.smonRel_sched ..) (hkept ▸ State.smonRel_frame ..)
  have hregister := hview _ (smonForce_notForce n)
  exact ⟨u, hu, hpaced, (rdF_of_safetyView hregister 31 30).trans hstate, (rdF_of_safetyView hregister 23 16).trans hcause⟩

theorem exec_smonRel_refused {who : Initiator} (hreach : (s.upTo t).reaches who R.smonRel (smonKey n) = true)
    (h : ¬(s.upTo t).smonOld n ∨ who = .debug) : ∃ u, exec (.smonRel t who n) s = .next u ∧
      (s.upTo t).framed { s.upTo t with bus := .ok 0#64 } u [R.smonForce n] ∧
      u.rd (R.smonForce n) = withBit ((s.upTo t).rd (R.smonForce n)) 8 true := by
  refine State.run_raise (f := fun x => x.busWord who R.smonRel (smonKey n)) ?_ (smonForce_notForce n)
  rw [State.busWord_smonRel _ _ _ hreach, State.smonRel_refused hforce h]

end

/-- Settles O29: first the STO inputs and internal STO, then the safety monitor's evaluation, the stall of a counter and the release. -/
theorem safeTorqueOffAndMonitor : Obligations.SafeTorqueOffAndMonitor := by
  unfold Obligations.SafeTorqueOffAndMonitor
  refine ⟨fun t a b s => ?_, fun t who n disch s => ?_⟩
  · intro x st flt
    refine ⟨fun ha hb => ⟨exec_stoInput_low ha hb, exec_stoInput_high ha hb, exec_stoInput_latched ha hb⟩, exec_stoInput_stuck, fun hnone => ?_,
      fun d hd hlong => exec_stoDiscrep_lasting s t hd hlong, ?_, exec_monitorLockstepFault s t⟩
    · exact State.run_idle (f := fun y => y.stoDiscrep) (State.stoDiscrep_none hnone)
    · obtain ⟨u, hu, hpaced, hbit, hhold, hgfe⟩ := exec_stoPathDisagree s t
      have hcode := State.bridgeCode_of_anyHold hhold
      exact ⟨u, hu, hpaced, hbit, hhold, fun n _ => ⟨hgfe n, hcode n 0, hcode n 1, hcode n 2⟩⟩
  · intro x f key m core here
    refine ⟨?_, fun hrun => ?_, fun hon hlate => ?_, fun hreach hforce => ⟨fun a hcauses habsent hlong hdisch hcore => ?_, fun hrefused => ?_⟩⟩
    · obtain ⟨u, hu, hpaced, hforce, hstatus⟩ := exec_smonEvaluation s t n disch
      refine ⟨u, hu, hpaced, ?_, fun hon k hk => ?_⟩
      · rintro rfl
        exact hforce.trans (State.forceOf_smonEval_disch _ n here)
      · rw [State.rdB_congr hstatus, State.rdB_congr hstatus, hforce]
        exact State.smonEval_enabled _ n here disch hon hk
    · exact State.run_idle (f := fun y => y.tm6Stall n) (State.tm6Stall_running _ n hrun)
    · exact exec_tm6PeriodStall_stalled s t n (Bool.and_eq_true_iff.mpr ⟨hon, decide_eq_true hlate⟩)
    · obtain ⟨q, rfl⟩ := hcore
      exact exec_smonRel_granted hforce hreach ⟨hcauses, ⟨a, habsent, hlong⟩, hdisch⟩
    · refine exec_smonRel_refused hforce hreach ?_
      rcases hrefused with hcauses | hshort | hdisch | hdebug
      · exact .inl fun ⟨hnone, _, _⟩ => hcauses hnone
      · exact .inl fun ⟨_, ⟨a, habsent, hlong⟩, _⟩ => absurd (hshort a habsent) (not_lt.mpr hlong)
      · exact .inl fun ⟨_, _, hnone⟩ => hdisch hnone
      · exact .inr hdebug

end Sys2Proof.Machine
end
